-- ==== Sys2Proof/Word.lean ====
section
/-! DEFINITION. The word types of the model. -/

namespace Sys2Proof

/-- A byte of a packet, a folio, a frame or a flash partition. -/
abbrev Byte := BitVec 8

/-- A 32-bit word of a hash computation. -/
abbrev Word := BitVec 32

/-- A sparse table: keys with values, for what the spec numbers (channels, streams, quires, rings). -/
abbrev Tab (α : Type) := List (Nat × α)

/-- The key of a parameter-block word: block id, instance, byte offset (13 R338). -/
abbrev BlockKey := Nat × Nat × Nat

end Sys2Proof
end

