-- ==== Sys2Proof/Syntax.lean ====
section
/-! DEFINITION. The commands of the hub: one constructor per row of spec/opcode_table.json.

Every command carries `at`, the instant at which it happens, in units of 2^-16 ns since State.reset (log entry 3).
What a converter, a sensor or a partner brings with it is an operand. -/

namespace Sys2Proof

/-- A Cuzan packet as it arrives (13 R321): the opcode is the command's own row. -/
structure Packet where
  /-- 0 PCIe, 1 ETH0, 2 ETH1 (16 R405). -/
  port : Nat
  /-- Source address of the datagram: 4 bytes IPv4, 16 bytes IPv6; empty on PCIe. -/
  source : List Byte
  /-- Source UDP port; 0 on PCIe. -/
  srcPort : Nat
  major : Nat
  minor : Nat
  tag : Nat
  paramLen : Nat
  session : Nat
  flags : Nat
  /-- Bytes from offset 16 to the trailer, apply-at time included. -/
  params : List Byte
  /-- The trailer's bytes; empty when there is none. -/
  trailer : List Byte
  /-- The carrier's length: BYTES of the RING0 descriptor or the UDP payload length (13 R323). -/
  bytes : Nat
  deriving DecidableEq, Repr, Inhabited

/-- A stitch frame (01 R20): 508 bytes of header and payload, its CRC as received, and what the payload says. -/
structure StitchFrame where
  quire : Nat
  /-- The header: the frame sequence number and the frame type. -/
  seq : Nat
  ftype : Nat
  body : List Byte
  crc : Nat
  /-- The 16-bit sequence number of the sinc period whose outputs the frame carries (04 R93). -/
  period : Nat
  /-- Outputs: modulator number c of the quire (128, 129 the keepers) and its 32-bit word. -/
  outputs : List (Nat × Int)
  /-- Stand-in conversions of that period, raw in 10 nV: channel, one result at position A, two at position B (04 R115). -/
  standins : List (Nat × List Int)
  /-- Injected conversions, raw in 10 nV: INJECT_ID and the result of its next conversion (04 R103). -/
  injected : List (Nat × Int)
  /-- Status words: three die temperatures in mK, island temperature - 90 C in microkelvin. -/
  temps : Option (List Int × Int)
  /-- Modulators whose input lay beyond its common-mode range in the period (03 R63). -/
  common : List Nat
  deriving DecidableEq, Repr, Inhabited

/-- A descriptor as the hub fetches it (11 R282); `none` fields of the fetch are carried by RING_FAULT. -/
structure Descriptor where
  addr : Nat
  len : Nat
  dflags : Nat
  reserved : Nat
  deriving DecidableEq, Repr, Inhabited

/-- Uncorrectable and corrected codewords found in a read of a slot: copy (0 or 1) and codeword number 0-15. -/
structure EccHit where
  copy : Nat
  word : Nat
  deriving DecidableEq, Repr, Inhabited

/-- The commands: one per row of the table, in its order. `at_` is the instant at which the command happens. -/
inductive Instr where
  /-- POWER_ON (R36). Supply rails rise in any order while the hub holds itself in reset until every monitored rail is
  inside its power-good window. -/
  | powerOn (at_ : Nat) (rail : Nat) (fromOff : Bool)
  /-- RESET_RELEASE (R37). Every monitored rail has been in its window for 2 ms and RESET_N passes the glitch filter
  high; the safety island leaves reset, runs from ROM and starts Root. -/
  | resetRelease (at_ : Nat) (high strap : Nat) (ups : List Nat) (sramOk test : Bool)
  /-- ROOT_SETTLING_END (R41). The 15 ms settling period ends, every enabled pair has been evaluated once and groups
  within limits start toggling. -/
  | rootSettlingEnd (at_ : Nat)
  /-- RESET_N_ASSERT (R38). A low level on RESET_N lasting 10.5 us or more puts the hub into a warm reset with cause
  PIN. -/
  | resetNAssert (at_ : Nat) (low : Nat) (cut : Bool)
  /-- BROWNOUT (R56). A monitored rail leaves its window while powered; the hub enters a cold reset and records
  BROWNOUT_RAIL. -/
  | brownout (at_ : Nat) (rail : Nat) (cut : Bool)
  /-- THERMAL_SHUTDOWN (R457). A die comparator reaches 120 C and the hub enters reset with cause THERMAL. -/
  | thermalShutdown (at_ : Nat) (cut : Bool)
  /-- THERMAL_RESTART (R457). Every die reads below the restart limit and the hub leaves reset by itself. -/
  | thermalRestart (at_ : Nat) (high strap : Nat) (ups : List Nat) (sramOk test : Bool)
  /-- LOCKSTEP_MISMATCH (R56). A lockstep mismatch in the command processor or safety island causes a warm reset with
  cause CP_LOCKSTEP or SAFETY_LOCKSTEP. -/
  | lockstepMismatch (at_ : Nat) (island cut : Bool)
  /-- REF_IN_QUALIFIED (R189). REF_IN qualifies and the DPLL locks; the raw count starts at zero and Trunk proceeds
  from step 8. -/
  | refInQualified (at_ : Nat)
  /-- IMAGE_SELECT (R46). The ROM loader takes the xSPI pins, selects the highest valid image by generation and try
  count, and authenticates it. -/
  | imageSelect (at_ : Nat)
  /-- LPDDR5_TRAINING_DONE (R452). LPDDR5 training ends at 6,400, 5,500 or 4,266 MT/s, or fails and the store is
  FALLBACK_ONLY. -/
  | lpddr5TrainingDone (at_ : Nat) (rate mib : Nat)
  /-- TRUNK_REACHED (R41). Steps 8 to 13 are complete and MG_STAGE reads TRUNK. -/
  | trunkReached (at_ : Nat)
  /-- MODULATORS_START (R41). Five milliseconds after Trunk the modulators of every in-service quire start on one
  strobe edge and the data lanes carry data. -/
  | modulatorsStart (at_ : Nat)
  /-- CROWN_REACHED (R48). Coefficients are loaded, the filters run, pairs are on the main path and every command
  group opens. -/
  | crownReached (at_ : Nat)
  /-- STREAM_CONTINUITY_EVENTS (R58). After a warm reset and once RING2 is configured, one continuity EVENT record is
  issued per listed stream. -/
  | streamContinuityEvents (at_ : Nat)
  /-- STAGE_DEADLINE_OVERRUN (R42). A stage deadline passes unexplained by a hold; HOLD reads DEADLINE_OVERRUN and a
  fault is recorded. -/
  | stageDeadlineOverrun (at_ : Nat) (stage : Nat)
  /-- WATCHDOG_EXPIRY (R52). The watchdog expires and the command processor alone restarts, or on a second expiry
  within 60 s a warm reset occurs. -/
  | watchdogExpiry (at_ : Nat) (cut : Bool)
  /-- IMAGE_TRIAL_TO_GOOD (R46). After 60 s in Crown without a watchdog expiry the running TRIAL image becomes GOOD.
  -/
  | imageTrialToGood (at_ : Nat)
  /-- CP_RESTART_DONE (R435). The command processor restart ends; sessions are restored or closed and owed final
  replies are sent. -/
  | cpRestartDone (at_ : Nat) (lost : Bool)
  /-- MGMT_READ (R54). A management-bus read captures one register whole at the offset and returns it, with PEC if a
  fifth byte is read. -/
  | mgmtRead (at_ : Nat) (addr off n : Nat) (block extra : Bool)
  /-- MGMT_CLOCK_LOW_TIMEOUT (R53). The SMBus clock-low timeout expires and the target releases the bus. -/
  | mgmtClockLowTimeout (at_ : Nat)
  /-- STITCH_FRAME_RECEIVE (R20). The spine receives a stitch frame of sinc outputs, witness results and status and
  checks its CRC-32C. -/
  | stitchFrameReceive (at_ : Nat) (f : StitchFrame)
  /-- SIDEBAND_POLL_TIMEOUT (R23). A quire fails to answer a sideband poll within 1 ms and its link is treated as
  failed. -/
  | sidebandPollTimeout (at_ : Nat) (q : Nat)
  /-- SINC_PERIOD_CLOSE (R29). A sinc period closes at most 8 periods after first arrival and missing quire outputs
  are marked lost. -/
  | sincPeriodClose (at_ : Nat) (m : Int)
  /-- CROSSING_FIFO_FULL (R18). A crossing FIFO stall would lose data; the hub raises a fault naming the crossing and
  accounts for the samples. -/
  | crossingFifoFull (at_ : Nat) (crossing q : Nat) (m : Int)
  /-- DESKEW_MEASUREMENT (R25). Once per second the strobe round trip is remeasured and the applied delay moves one 4
  ps step towards the required value. -/
  | deskewMeasurement (at_ : Nat) (q : Nat) (need : Int)
  /-- SIDEBAND_PREPARE_ACK (R33). A quire acknowledges a prepare message naming the target edge. -/
  | sidebandPrepareAck (at_ : Nat) (q edge : Nat)
  /-- PREPARE_DEADLINE (R33). A quire has not acknowledged 50 us before the edge; the prepare is withdrawn everywhere
  and PREPARE_LATE is raised. -/
  | prepareDeadline (at_ : Nat) (edge : Nat)
  /-- COMMIT_EDGE (R32). At the commit edge staged quire fields change on every quire and spine fields take effect
  from the first sample at or after it. -/
  | commitEdge (at_ : Nat) (edge : Nat)
  /-- FADE_END (R140). A fade reaches its last blended output; the slot takes the new response and any held change
  starts its own fade. -/
  | fadeEnd (at_ : Nat) (n : Nat)
  /-- EXC_STATUS_UPDATE (R75). Every millisecond SENSE and I_MEAS are updated and any completed pulse result is
  published to the safety island. -/
  | excStatusUpdate (at_ : Nat) (l : List (Nat × Nat × Nat))
  /-- REVERSAL_EDGE (R68). A reversal edge opens the conducting switches and the opposite pair closes 1 us later, with
  a scheduled hold. -/
  | reversalEdge (at_ : Nat) (e : Nat)
  /-- BLANKING_END (R78). Blanking of a group ends and any deferred test pulse may start. -/
  | blankingEnd (at_ : Nat) (e sense : Nat)
  /-- EXC_TRIPPED (R74). High-side current exceeds I_LIMIT for 20 us; the switch opens, the group is TRIPPED and event
  EXC_TRIPPED is raised. -/
  | excTripped (at_ : Nat) (e cur : Nat)
  /-- SENSE_LOW (R71). The sense voltage stays below 0.5 V for 1 ms; the group enters SENSE_LOW and a fault is raised.
  -/
  | senseLow (at_ : Nat) (e : Nat)
  /-- SENSE_LOW_EXIT (R71). One millisecond after the sense returns above 0.55 V the group leaves SENSE_LOW as a
  configured switching event. -/
  | senseLowExit (at_ : Nat) (e : Nat)
  /-- TEST_PULSE_DUE (R385). A pulsed group's scheduled pulse falls due and is started or deferred. -/
  | testPulseDue (at_ : Nat) (e : Nat)
  /-- TEST_PULSE_OPEN (R82). At a sinc instant after deferrals end the group's switches open and STATE reads PULSE. -/
  | testPulseOpen (at_ : Nat) (e sense : Nat) (raw : List Int)
  /-- TEST_PULSE_CLOSE (R82). At width W the switches close or sources turn on after the sense and raw outputs are
  measured. -/
  | testPulseClose (at_ : Nat) (e cur sense : Nat) (raw : List Int)
  /-- TONE_SCAN_START (R85). A scheduled tone scan starts on the quire at its SCAN_PERIOD. -/
  | toneScanStart (at_ : Nat) (q : Nat)
  /-- TONE_SCAN_NOW (R85). A write of SCAN_NOW starts a tone scan unless one is running. -/
  | toneScanNow (at_ : Nat) (p : Packet)
  /-- TONE_CAPTURE_BASE (R85). A write of CAPTURE_BASE makes the next scan store each result as its baseline. -/
  | toneCaptureBase (at_ : Nat) (p : Packet)
  /-- TONE_ROUND_END (R87). A round of tone integration ends and each channel's result is classified and written. -/
  | toneRoundEnd (at_ : Nat) (q : Nat) (limited : List Nat)
  /-- MODULATOR_END_LEVEL_RESET (R91). A quantiser held at an end level for 4 clocks resets its integrators and its
  outputs are replaced and flagged O and U. -/
  | modulatorEndLevelReset (at_ : Nat) (q c clocks : Nat)
  /-- WITNESS_VISIT_JUDGE (R107). A round-robin witness conversion completes and the spine judges it against the
  interpolated main-path value. -/
  | witnessVisitJudge (at_ : Nat) (c : Nat) (raw : Int)
  /-- WITNESS_CYCLE_END (R111). A round-robin cycle completes and WIT_ZERO and RATIO_TAP are checked for entry to or
  exit from WITNESS_FAULT. -/
  | witnessCycleEnd (at_ : Nat) (q : Nat) (zero ratio : Int)
  /-- COMMON_CAUSE_TEST_DONE (R111). The four common-cause conversions complete and the coalesced record is issued
  with its outcome. -/
  | commonCauseTestDone (at_ : Nat) (q : Nat) (agnd vref ratio zero : Int)
  /-- CONV_INJECT (R104). Command 0x0300 queues an injected witness conversion and replies QUEUED. -/
  | convInject (at_ : Nat) (p : Packet)
  /-- CONV_INJECT_CANCEL (R102). Command 0x0301 cancels a pending injection. -/
  | convInjectCancel (at_ : Nat) (p : Packet)
  /-- INJECT_COMPLETE (R104). An injection ends and its final reply or WITNESS folio carries the results. -/
  | injectComplete (at_ : Nat) (id : Nat)
  /-- INJECT_TIMEOUT (R103). No qualifying pulse arrives within TIMEOUT and the EVT_PULSE injection ends with TIMEOUT.
  -/
  | injectTimeout (at_ : Nat) (id : Nat)
  /-- WIT_SIMUL_START (R114). Command 0x0302 starts host simultaneous mode on the listed codes. -/
  | witSimulStart (at_ : Nat) (p : Packet)
  /-- WIT_SIMUL_STOP (R114). Command 0x0303 ends host simultaneous mode and restarts the round robin. -/
  | witSimulStop (at_ : Nat) (p : Packet)
  /-- WIT_SIMUL_DURATION_END (R114). DURATION of host simultaneous mode expires and the round robin restarts. -/
  | witSimulDurationEnd (at_ : Nat)
  /-- SIMULTANEOUS_FRAME (R112). A simultaneous-mode frame's conversions complete and their results are sent to the
  safety island or the named stream. -/
  | simultaneousFrame (at_ : Nat) (start : Nat) (l : List (Nat × Int))
  /-- HANDOVER_TO_MAIN_PATH (R381). A pair's members are free of start U and corrections are loaded, so the pair moves
  to the main path with an 8 ms overlap. -/
  | handoverToMainPath (at_ : Nat) (p : Nat)
  /-- HANDOVER_OVERLAP_END (R381). The 64-evaluation overlap ends and Crown rules apply alone. -/
  | handoverOverlapEnd (at_ : Nat) (p : Nat)
  /-- OUTPUT_SAMPLE_PRODUCE (R28). The filter engine produces output sample n of a stream for its channels and passes
  it to correction, trigger and folio assembly. -/
  | outputSampleProduce (at_ : Nat) (n : Nat)
  /-- FOLIO_FLUSH_TIMER (R248). FLUSH_US passes since a folio's first word and the folio closes FLUSHED. -/
  | folioFlushTimer (at_ : Nat) (n : Nat)
  /-- STREAM_RUNNING (R257). Device time reaches n0 times T and a STARTING stream becomes RUNNING. -/
  | streamRunning (at_ : Nat) (n : Nat)
  /-- STALL_RESUME (R270). Enough slots free for a STALLED stream; its STORE_FULL GAP folio and pending records are
  written and the run resumes. -/
  | stallResume (at_ : Nat) (n : Nat)
  /-- STORE_SCRUB (R264). A scrub pass reads occupied slots, corrects single-bit errors and records double errors. -/
  | storeScrub (at_ : Nat) (corrected : Nat) (l : List (Nat × Nat × EccHit))
  /-- STORE_FAILURE (R268). The LPDDR5 PHY fails or uncorrectable errors exceed the limit; the store becomes
  FALLBACK_ONLY with STORE_FAILED GAP folios. -/
  | storeFailure (at_ : Nat)
  /-- DMA_STAGING_READ (R265). A folio is read whole into DMA staging and every codeword checked before departure. -/
  | dmaStagingRead (at_ : Nat) (r seq corrected : Nat) (hits : List EccHit)
  /-- FULL_COMPARISON_DUE (R162). ENS_PERIOD_S elapses and a full ensemble comparison starts on the keepers. -/
  | fullComparisonDue (at_ : Nat) (q : Nat)
  /-- QUICK_COMPARISON_DUE (R163). Every 60 s while WARMING a quick comparison starts. -/
  | quickComparisonDue (at_ : Nat) (q : Nat)
  /-- COMPARISON_COMPLETE (R164). A comparison completes; the median and F_ens are recomputed and published. -/
  | comparisonComplete (at_ : Nat) (q : Nat) (l : List Bool)
  /-- WARMING_STATE_ADVANCE (R168). A quire's warming criteria are met and it advances to WARMING, STABLE_1PPM or
  STABLE_FULL with an EVENT record. -/
  | warmingStateAdvance (at_ : Nat) (q : Nat) (island : Int) (steady : Nat)
  /-- HEATER_FAULT (R159). The island departs by more than 0.05 K for 10 s or HTR is absent, and the quire enters
  HEATER_FAULT. -/
  | heaterFault (at_ : Nat) (q : Nat) (absent : Bool) (departed : Nat)
  /-- HEATER_REGAINED (R159). The heater regains control and the quire returns to COLD. -/
  | heaterRegained (at_ : Nat) (q : Nat)
  /-- CAL_TEMPERATURE_TRIGGER (R172). The die temperature differs from theta_cal by more than TRIG_MK for 10 s and the
  channel is queued. -/
  | calTemperatureTrigger (at_ : Nat) (c : Nat)
  /-- CAL_AGE_TRIGGER (R172). The range in force exceeds MAX_AGE_H since calibration and the channel is queued. -/
  | calAgeTrigger (at_ : Nat) (c : Nat)
  /-- CHANNEL_CAL_GRANT (R169). A stand-in is granted for a queued channel and its calibration sequence starts. -/
  | channelCalGrant (at_ : Nat) (q : Nat)
  /-- CHANNEL_CAL_RESULT (R171). A calibration's results are checked against limits and published or rejected. -/
  | channelCalResult (at_ : Nat) (c : Nat) (sweep : Int × Int × Int) (drop : Int × Int)
  /-- SAFETY_CAL_REFUSED (R394). A safety member's calibration is not granted within 10 s and ends SAFETY_REFUSED. -/
  | safetyCalRefused (at_ : Nat) (c : Nat)
  /-- WITNESS_CALIBRATION_DUE (R174). Every 24 h or on a temperature move the witness is calibrated and RATIO_TAP
  recorded. -/
  | witnessCalibrationDue (at_ : Nat) (q : Nat) (zero : Int) (dac1 dac16 : Int × Int) (ratio vref : Int)
  /-- EXT_STD_QUIRE_DONE (R177). The transfer to one quire completes and K_ext is applied or rejected. -/
  | extStdQuireDone (at_ : Nat) (q : Nat) (u : Nat)
  /-- PLANNER_DUE_WARN (R185). DUE_WARN_D days before a due date the planner issues DUE_WARN. -/
  | plannerDueWarn (at_ : Nat) (q r : Nat)
  /-- PLANNER_DUE (R185). A range reaches its due date; DUE is issued and overdue samples may carry Q. -/
  | plannerDue (at_ : Nat) (q r : Nat)
  /-- DAILY_RING_RECORD (R182). At 00:00:00 device time each quire's DAILY growth-ring record is written. -/
  | dailyRingRecord (at_ : Nat)
  /-- CAL_CHANNEL (R357). Command 0x0400 queues channels for calibration or self-test. -/
  | calChannel (at_ : Nat) (p : Packet)
  /-- CAL_ABORT (R357). Command 0x0401 removes queued channels or abandons running ones. -/
  | calAbort (at_ : Nat) (p : Packet)
  /-- ENS_COMPARE_NOW (R357). Command 0x0402 starts a quick comparison on the named quires. -/
  | ensCompareNow (at_ : Nat) (p : Packet)
  /-- CAL_EXT_STD (R177). Command 0x0403 transfers an external standard to the named quires. -/
  | calExtStd (at_ : Nat) (p : Packet)
  /-- CAL_SEAL_OPEN (R179). Command 0x0404 opens the calibration seal and increments SEAL_COUNT. -/
  | calSealOpen (at_ : Nat) (p : Packet)
  /-- CAL_SEAL_CLOSE (R179). Command 0x0405 writes the sealed set to CAL and closes the seal. -/
  | calSealClose (at_ : Nat) (p : Packet)
  /-- ENS_MEMBER_SET (R357). Command 0x0406 reinstates or retires an ensemble member. -/
  | ensMemberSet (at_ : Nat) (p : Packet)
  /-- RING_EXPORT (R357). Command 0x0407 exports growth-ring records as RING_RECORD folios on RING3. -/
  | ringExport (at_ : Nat) (p : Packet)
  /-- REF_IN_LOST (R191). REF_IN is lost; the DCO holds its mean word, REF_LOST is set and a fault is raised. -/
  | refInLost (at_ : Nat)
  /-- REF_IN_RELOCK (R191). REF_IN has requalified for 100 ms and the DPLL relocks by phase build-out. -/
  | refInRelock (at_ : Nat)
  /-- RE_ANCHOR (R193). At a RATE_S change and at least once per second the time anchor is recomputed under the old
  rate. -/
  | reAnchor (at_ : Nat)
  /-- PTP_MESSAGE_RECEIVE (R210). A PTP message is received and timestamped on ETH0 or ETH1. -/
  | ptpMessageReceive (at_ : Nat) (p raw phase tr : Nat) (b : List Byte)
  /-- OFFSET_MEASUREMENT (R200). An offset measurement from a source is judged, refused or entered into the servo
  loop. -/
  | offsetMeasurement (at_ : Nat) (x : Nat) (e : Int)
  /-- JUMP_PERSIST_EXPIRY (R201). Refusals persist for JUMP_PERSIST_MS and the state becomes SOURCE_REJECTED with
  JUMP_REFUSED. -/
  | jumpPersistExpiry (at_ : Nat)
  /-- SOURCE_LOST (R202). No measurement is accepted for four intervals or the announce timeout expires, and the
  source is lost. -/
  | sourceLost (at_ : Nat) (x : Nat)
  /-- HOLDOVER_EXPIRY (R203). HOLD_LIMIT_S passes in HOLDOVER and the state becomes HOLDOVER_EXPIRED. -/
  | holdoverExpiry (at_ : Nat)
  /-- FIRST_LOCK_EDGE (R199). At the prepared edge device time steps once, the grid re-phases and the step is
  journaled. -/
  | firstLockEdge (at_ : Nat)
  /-- REBASE_EDGE (R205). At a TIME_REBASE edge device time steps, the grid re-phases and TIME_REBASE records are
  placed. -/
  | rebaseEdge (at_ : Nat)
  /-- TIME_CTRL_WRITE (R196). A write of TIME_CTRL changes the source ranking and may make the followed source lost.
  -/
  | timeCtrlWrite (at_ : Nat) (p : Packet)
  /-- PTP_PORT_WRITE (R212). A write to EN, TRANSPORT, DELAY or DOMAIN restarts the port's PTP state machine. -/
  | ptpPortWrite (at_ : Nat) (p : Packet)
  /-- SKAING_TIME_SEND (R213). Every 1 ms an endpoint sends a TIME frame stamped at departure. -/
  | skaingTimeSend (at_ : Nat) (x : Nat)
  /-- EVT_EDGE_STAMP (R215). An edge on an EVT pin is stamped with raw count and phase and passed to interval units,
  injection and triggers. -/
  | evtEdgeStamp (at_ : Nat) (pin : Nat) (rise : Bool) (fine : Nat)
  /-- IU_WINDOW_END (R217). No stop arrives by the window's end and the unit reports NO_STOP. -/
  | iuWindowEnd (at_ : Nat) (u : Nat)
  /-- IU_HOLDOFF_END (R217). A continuous unit's holdoff ends and it rearms. -/
  | iuHoldoffEnd (at_ : Nat) (u : Nat)
  /-- TIME_GET (R220). Command 0x0500 returns the raw count, device time, rate and servo state. -/
  | timeGet (at_ : Nat) (p : Packet)
  /-- TIME_SET_INITIAL (R199). Command 0x0501 prepares the first step of device time from a host value. -/
  | timeSetInitial (at_ : Nat) (p : Packet)
  /-- TIME_REBASE (R205). Command 0x0502 prepares a step of device time to the source or to a value. -/
  | timeRebase (at_ : Nat) (p : Packet)
  /-- IU_ARM (R220). Command 0x0503 arms an interval unit. -/
  | iuArm (at_ : Nat) (p : Packet)
  /-- IU_DISARM (R220). Command 0x0504 disarms an interval unit. -/
  | iuDisarm (at_ : Nat) (p : Packet)
  /-- SEQUENCER_EVALUATE (R225). An armed sequencer evaluates one sample of its REF_STREAM and takes at most one
  transition with its actions. -/
  | sequencerEvaluate (at_ : Nat) (k : Nat)
  /-- SEQUENCER_IDLE (R230). The sequencer's REF_STREAM stops and the sequencer becomes IDLE with an EVENT record. -/
  | sequencerIdle (at_ : Nat) (k : Nat)
  /-- BOOKMARK_EMIT (R233). The marked sample is in the store, so the bookmark record is emitted in a BOOKMARK folio.
  -/
  | bookmarkEmit (at_ : Nat)
  /-- BOOKMARK_FOLIO_CLOSE (R232). 100 us after its first record or when full, a BOOKMARK folio closes. -/
  | bookmarkFolioClose (at_ : Nat)
  /-- MARK_RATE_SECOND_END (R234). At the end of a second with suppressed bookmarks one EVENT record gives the counts.
  -/
  | markRateSecondEnd (at_ : Nat)
  /-- GROUP_MESSAGE_RECEIVE (R236). A group ARM, DISARM or FIRE message is received, checked, deduplicated, forwarded
  and accepted or dropped. -/
  | groupMessageReceive (at_ : Nat) (port sender : Nat) (hdr body mac : List Byte) (crcOk : Bool)
  /-- ONE_SHOT_DECISION (R239). At the earliest fire's instant plus ACCEPT_LATE_MS that fire alone is marked and
  GSTATE becomes FIRED. -/
  | oneShotDecision (at_ : Nat)
  /-- FIRES_DROPPED_REPORT (R238). Once per second one EVENT record names dropped fire counts by reason. -/
  | firesDroppedReport (at_ : Nat)
  /-- CAPTURE_RELEASE (R241). Device time passes a windowed sample's instant plus RELEASE_LAG_MS and the sample is
  released for delivery. -/
  | captureRelease (at_ : Nat) (n : Nat)
  /-- TRG_ARM (R245). Command 0x0600 arms sequencers. -/
  | trgArm (at_ : Nat) (p : Packet)
  /-- TRG_DISARM (R245). Command 0x0601 disarms sequencers and ends their mask tests. -/
  | trgDisarm (at_ : Nat) (p : Packet)
  /-- TRG_MARK (R235). Command 0x0602 marks a host-chosen instant and opens capture windows. -/
  | trgMark (at_ : Nat) (p : Packet)
  /-- TRG_MASK_LOAD (R231). Command 0x0603 loads a mask whole or in parts. -/
  | trgMaskLoad (at_ : Nat) (p : Packet)
  /-- GROUP_ARM (R237). Command 0x0604 sends ARM with the next generation from the master. -/
  | groupArm (at_ : Nat) (p : Packet)
  /-- GROUP_DISARM (R237). Command 0x0605 sends DISARM for the current generation. -/
  | groupDisarm (at_ : Nat) (p : Packet)
  /-- GROUP_FIRE (R245). Command 0x0606 acts as a FIRE action at the given instant. -/
  | groupFire (at_ : Nat) (p : Packet)
  /-- STREAM_START (R263). Command 0x0700 starts a stream now or at an index. -/
  | streamStart (at_ : Nat) (p : Packet)
  /-- STREAM_STOP (R263). Command 0x0701 names the last index of a run or cancels a pending start. -/
  | streamStop (at_ : Nat) (p : Packet)
  /-- STREAM_FLUSH (R263). Command 0x0702 closes every open folio of the named streams. -/
  | streamFlush (at_ : Nat) (p : Packet)
  /-- BAR0_REGISTER_WRITE (R278). A BAR0 write to a register without its own row takes effect or is refused and sets
  REG_ERR. -/
  | bar0RegisterWrite (at_ : Nat) (off size v : Nat) (full : Bool)
  /-- BAR0_LO_READ (R279). A read of a LO register or a group's first LO captures the high half or the whole group at
  one instant. -/
  | bar0LoRead (at_ : Nat) (off size : Nat)
  /-- RING_DOORBELL (R283). A write of TAIL posts descriptors for the hub to fetch. -/
  | ringDoorbell (at_ : Nat) (r tail : Nat)
  /-- RING_TRANSFER_COMPLETE (R283). The hub finishes a buffer, writes the descriptor back, advances HEAD and signals
  the ring's vector. -/
  | ringTransferComplete (at_ : Nat) (r : Nat) (ds : List Descriptor)
  /-- RING_FAULT (R291). A translation, descriptor or read error halts one ring and signals its vector and vector 0.
  -/
  | ringFault (at_ : Nat) (r code offset addr : Nat)
  /-- RING_ACK_WRITE (R285). A write of ACK_SEQ acknowledges folios up to the clamped value and may end DRAINING. -/
  | ringAckWrite (at_ : Nat) (r seq : Nat)
  /-- RING_RESUME (R292). A write of RESUME restarts a HALTED ring from the descriptor at HEAD. -/
  | ringResume (at_ : Nat) (r : Nat)
  /-- RING_DISCARD (R293). A write of DISCARD gives up folios to DISCARD_TO with a HOST_DISCARD GAP folio and resumes.
  -/
  | ringDiscard (at_ : Nat) (r : Nat)
  /-- RING_ENABLE (R284). Setting EN resets HEAD and TAIL and starts delivery from the oldest unacknowledged SEQ. -/
  | ringEnable (at_ : Nat) (r log2 : Nat)
  /-- RING_DISABLE (R284). Clearing EN makes an ACTIVE ring QUIESCING or a HALTED ring DISABLED. -/
  | ringDisable (at_ : Nat) (r : Nat)
  /-- WINDOW_ENABLE (R288). Setting EN on a host window enables it, or is refused for misalignment or overlap. -/
  | windowEnable (at_ : Nat) (w : Nat) (wr rd : Bool) (log2 : Nat)
  /-- WINDOW_DISABLE (R288). Clearing EN stops lookups through the window while BUSY stays set. -/
  | windowDisable (at_ : Nat) (w : Nat) (busy : Bool)
  /-- WINDOW_BUSY_CLEAR (R288). The last request through a disabled window completes and BUSY falls, signalling vector
  0. -/
  | windowBusyClear (at_ : Nat) (w : Nat)
  /-- INTERRUPT_MODERATION_TIMER (R295). INT_US passes after the first unsignalled completion and the ring signals its
  vector. -/
  | interruptModerationTimer (at_ : Nat) (r : Nat)
  /-- MSIX_UNMASK (R295). A masked vector with its pending bit set is unmasked and signals. -/
  | msixUnmask (at_ : Nat) (v : Nat) (fmask : Option Bool)
  /-- PCIE_LINK_DOWN (R294). The data link leaves DL_Active; every enabled ring halts with LINK_DOWN and PCIe sessions
  close. -/
  | pcieLinkDown (at_ : Nat)
  /-- PCIE_HOT_RESET (R294). A hot reset or Function Level Reset returns BAR0, ring and window tables and MSI-X to
  reset values. -/
  | pcieHotReset (at_ : Nat)
  /-- D3HOT_ENTRY (R294). The function enters D3hot or Bus Master Enable clears, and rings stop at the next boundary.
  -/
  | d3hotEntry (at_ : Nat) (d3 : Bool)
  /-- D0_RETURN (R294). The function returns to D0 and rings continue where they stopped. -/
  | d0Return (at_ : Nat)
  /-- RECOVERY_GO (R296). A write of GO in the recovery window starts reading, authenticating and programming an
  image. -/
  | recoveryGo (at_ : Nat) (target : Nat)
  /-- RECOVERY_DONE (R296). The recovery image is programmed as TRIAL and verified, and a warm reset with cause
  COMMAND follows. -/
  | recoveryDone (at_ : Nat) (image left : List Byte) (outcome percent : Nat)
  /-- LANE_LOCK_LOSS (R298). A lane loses symbol or block alignment; LOCK clears and LOCK_LOSSES increments. -/
  | laneLockLoss (at_ : Nat) (l : Nat)
  /-- PCIE_LINK_REFORM (R305). Recovery fails for a lane and the link re-forms on the widest working lane set. -/
  | pcieLinkReform (at_ : Nat) (rev : Bool)
  /-- SINGLE_LANE_LINK_DOWN (R306). A single-lane link has not regained lock within 1 ms and goes down to retrain. -/
  | singleLaneLinkDown (at_ : Nat) (l : Nat)
  /-- LINK_TRAINING_DONE (R303). A link completes training and is UP. -/
  | linkTrainingDone (at_ : Nat) (l rate fec width : Nat)
  /-- NO_PARTNER_TIMEOUT (R304). An enabled link is not UP within 1 s; STATE reads NO_PARTNER and an EVENT record is
  issued. -/
  | noPartnerTimeout (at_ : Nat) (l : Nat)
  /-- TRAINING_FAULT_TIMEOUT (R304). Ten seconds pass without UP and a fault naming the lane is raised once. -/
  | trainingFaultTimeout (at_ : Nat) (l : Nat)
  /-- STANDBY_WAKE (R301). A standby lane leaves the deep state after its primary is down 100 ms or a partner is
  detected. -/
  | standbyWake (at_ : Nat) (l : Nat) (seen : Bool)
  /-- STANDBY_RETURN (R301). The primary has been UP for 10 s and the standby lane returns to the deep state. -/
  | standbyReturn (at_ : Nat) (l : Nat)
  /-- EYE_SCAN_DUE (R307). SCAN_MIN minutes pass and an automatic eye scan starts on an UP lane. -/
  | eyeScanDue (at_ : Nat) (l : Nat)
  /-- EYE_SCAN_COMPLETE (R307). An eye scan completes and EYE_H and EYE_V are updated. -/
  | eyeScanComplete (at_ : Nat) (l : Nat) (m : List Byte)
  /-- LOOPBACK_END (R302). A loopback's DURATION ends, the final reply is sent and the lane trains afresh. -/
  | loopbackEnd (at_ : Nat) (l bitsSeen errors : Nat)
  /-- LANE_EYE_SCAN (R319). Command 0x0C00 starts an eye scan on a lane. -/
  | laneEyeScan (at_ : Nat) (p : Packet)
  /-- LANE_RETRAIN (R319). Command 0x0C01 restarts training of a link from Detect. -/
  | laneRetrain (at_ : Nat) (p : Packet)
  /-- LANE_LOOPBACK (R319). Command 0x0C02 places a lane in a loopback or stops one. -/
  | laneLoopback (at_ : Nat) (p : Packet)
  /-- ETH_PORT_WRITE (R310). A write of ETH_PORT changes addressing and VLAN within 10 ms. -/
  | ethPortWrite (at_ : Nat) (p : Packet)
  /-- STREAM_ACK_DATAGRAM (R313). A host ACK datagram acknowledges a stream's folios and lists NACKed ranges. -/
  | streamAckDatagram (at_ : Nat) (n : Nat) (hdr body mac : List Byte)
  /-- GO_BACK_TIMER (R314). ACK_SEQ has not advanced for RETX_MS and sending restarts from ACK_SEQ plus 1. -/
  | goBackTimer (at_ : Nat) (n : Nat)
  /-- STREAM_HEARTBEAT (R312). A stream with nothing to send for 100 ms sends a HEARTBEAT datagram. -/
  | streamHeartbeat (at_ : Nat) (n : Nat)
  /-- GROUP_MESSAGE_REPEAT (R316). A group message is resent 50 us later, three times on Ethernet and v1 or until
  acknowledged on v2. -/
  | groupMessageRepeat (at_ : Nat)
  /-- SKAING_LINK_FRAME (R317). A LINK frame is received and drives version and rate negotiation or serves as
  keepalive. -/
  | skaingLinkFrame (at_ : Nat) (x vmin vmax rmax tag : Nat) (crcOk : Bool)
  /-- SKAING_PRBS_CHECK_END (R317). The 1 ms PRBS31 exchange ends and the link is UP or retries at a lower code. -/
  | skaingPrbsCheckEnd (at_ : Nat) (x errors : Nat)
  /-- SKAING_TIME_FRAME (R316). A TIME frame is received and yields a link delay and offset measurement. -/
  | skaingTimeFrame (at_ : Nat) (x role st : Nat) (txp peerTx peerRx : Int) (qual rx phase : Nat) (crcOk : Bool)
  /-- SKAING_GROUP_ACK (R316). A GROUP_ACK frame stops the repetition of a group message. -/
  | skaingGroupAck (at_ : Nat) (x origin msg gen fireId : Nat) (crcOk : Bool)
  /-- SKAING_DATA_FRAME (R318). A DATA frame is received by a relay and written unchanged to its ring. -/
  | skaingDataFrame (at_ : Nat) (x : Nat) (b : List Byte) (crcOk : Bool)
  /-- SKAING_CREDIT_FRAME (R318). A CREDIT frame grants credits and carries the relay host's ACK_SEQ to the origin. -/
  | skaingCreditFrame (at_ : Nat) (x n credits ack : Nat) (crcOk : Bool)
  /-- SKAING_LINK_TIMEOUT (R316). No valid frame arrives for 1 ms and the Skaing link is down. -/
  | skaingLinkTimeout (at_ : Nat) (x : Nat)
  /-- SESSION_OPEN (R329). Command 0x0000 negotiates a version and opens a session with a role. -/
  | sessionOpen (at_ : Nat) (p : Packet)
  /-- SESSION_CLOSE (R333). Command 0x0001 closes the session. -/
  | sessionClose (at_ : Nat) (p : Packet)
  /-- SESSION_PING (R347). Command 0x0002 replies with the time of acceptance and opens a PENDING session. -/
  | sessionPing (at_ : Nat) (p : Packet)
  /-- SCHED_CANCEL (R344). Command 0x0003 cancels a scheduled action of the session. -/
  | schedCancel (at_ : Nat) (p : Packet)
  /-- SESSION_RESEND (R335). Command 0x0004 resends the cached replies of a tag. -/
  | sessionResend (at_ : Nat) (p : Packet)
  /-- PB_WRITE (R339). Command 0x0100 writes fields of a block instance. -/
  | pbWrite (at_ : Nat) (p : Packet)
  /-- PB_READ (R338). Command 0x0101 reads a block instance in force or staged. -/
  | pbRead (at_ : Nat) (p : Packet)
  /-- PB_STAGE (R340). Command 0x0102 stages fields of a block instance in the session's area. -/
  | pbStage (at_ : Nat) (p : Packet)
  /-- PB_COMMIT (R341). Command 0x0103 checks and schedules every staged instance at one commit edge. -/
  | pbCommit (at_ : Nat) (p : Packet)
  /-- SESSION_KEEPALIVE_EXPIRY (R333). An Ethernet session passes KEEPALIVE_S without a valid packet and closes. -/
  | sessionKeepaliveExpiry (at_ : Nat) (id : Nat)
  /-- PENDING_SESSION_DISCARD (R329). A PENDING session not opened within 5 s is discarded. -/
  | pendingSessionDiscard (at_ : Nat) (id : Nat)
  /-- SCHEDULED_ACTION_DUE (R344). An action's apply-at time arrives and the action runs. -/
  | scheduledActionDue (at_ : Nat)
  /-- ACQ_STATUS (R355). Command 0x0200 reports the service, warming and witness state of each quire. -/
  | acqStatus (at_ : Nat) (p : Packet)
  /-- ACQ_READ (R356). Command 0x0201 returns the last corrected sample of named channels of a stream. -/
  | acqRead (at_ : Nat) (p : Packet)
  /-- SAFE_STATUS (R358). Command 0x0800 reports the safety image, lock and group states. -/
  | safeStatus (at_ : Nat) (p : Packet)
  /-- SAFE_LOCK_OPEN (R359). Command 0x0801 opens the safety lock and copies the image to a working image. -/
  | safeLockOpen (at_ : Nat) (p : Packet)
  /-- SAFE_LOCK_CLOSE (R359). Command 0x0802 checks the working image and its CRC, writes SAFE and closes the lock. -/
  | safeLockClose (at_ : Nat) (p : Packet)
  /-- SAFE_TRIP_RESET (R360). Command 0x0803 releases latched groups where permitted. -/
  | safeTripReset (at_ : Nat) (p : Packet)
  /-- SAFE_PULSE_NOW (R361). Command 0x0804 runs one test pulse on a group outside the schedule. -/
  | safePulseNow (at_ : Nat) (p : Packet)
  /-- CRED_ADD (R362). Command 0x0900 adds a credential with its wrapped secret. -/
  | credAdd (at_ : Nat) (p : Packet)
  /-- CRED_REVOKE (R362). Command 0x0901 revokes a credential and closes its sessions. -/
  | credRevoke (at_ : Nat) (p : Packet)
  /-- CRED_LIST (R362). Command 0x0902 lists credentials. -/
  | credList (at_ : Nat) (p : Packet)
  /-- JOURNAL_READ (R363). Command 0x0903 returns journal entries. -/
  | journalRead (at_ : Nat) (p : Packet)
  /-- JOURNAL_MIRROR (R363). Command 0x0904 starts or stops mirroring journal entries to RING3. -/
  | journalMirror (at_ : Nat) (p : Packet)
  /-- JOURNAL_VERIFY (R363). Command 0x0905 starts a walk of the journal chain. -/
  | journalVerify (at_ : Nat) (p : Packet)
  /-- JOURNAL_VERIFY_DONE (R412). The chain walk ends and the final reply gives the first bad entry if any. -/
  | journalVerifyDone (at_ : Nat)
  /-- GROUP_KEY_SET (R364). Command 0x0906 stores a wrapped group key. -/
  | groupKeySet (at_ : Nat) (p : Packet)
  /-- LOG_READ (R365). Command 0x0A00 returns trouble-log entries. -/
  | logRead (at_ : Nat) (p : Packet)
  /-- FAULT_LIST (R365). Command 0x0A01 returns the active-fault list. -/
  | faultList (at_ : Nat) (p : Packet)
  /-- FAULT_CLEAR (R365). Command 0x0A02 removes a listed fault whose cause has ended. -/
  | faultClear (at_ : Nat) (p : Packet)
  /-- LOG_CLEAR (R365). Command 0x0A03 clears every log entry and keeps the fault list. -/
  | logClear (at_ : Nat) (p : Packet)
  /-- DIAG_STITCH (R366). Command 0x0A04 reports stitch statistics and microcode digests per quire. -/
  | diagStitch (at_ : Nat) (p : Packet)
  /-- FW_BEGIN (R367). Command 0x0B00 opens a transfer, marks the target BAD and erases it. -/
  | fwBegin (at_ : Nat) (p : Packet)
  /-- FW_ERASE_DONE (R367). The partition erase ends and FW_BEGIN receives its final reply. -/
  | fwEraseDone (at_ : Nat)
  /-- FW_DATA (R367). Command 0x0B01 places a range of image data in the programming buffer. -/
  | fwData (at_ : Nat) (p : Packet)
  /-- FW_COMMIT (R367). Command 0x0B02 reads back and authenticates the image and closes the transfer. -/
  | fwCommit (at_ : Nat) (p : Packet)
  /-- FW_TRANSFER_IDLE_TIMEOUT (R367). 600 s pass without FW_DATA and the transfer closes with its target BAD. -/
  | fwTransferIdleTimeout (at_ : Nat)
  /-- FW_SWAP (R368). Command 0x0B03 restarts the command processor into the other image. -/
  | fwSwap (at_ : Nat) (p : Packet)
  /-- HUB_RESET (R369). Command 0x0B04 is journaled and causes a warm reset with cause COMMAND. -/
  | hubReset (at_ : Nat) (p : Packet) (ds : List (List Descriptor))
  /-- QUIRE_DRAIN (R423). Command 0x0B05 prepares a drain edge and takes a quire out of service. -/
  | quireDrain (at_ : Nat) (p : Packet)
  /-- QUIRE_REENTER (R427). Command 0x0B06 polls, deskews and returns an out-of-service quire to service. -/
  | quireReenter (at_ : Nat) (p : Packet)
  /-- UCODE_LOAD (R426). Command 0x0B07 authenticates and loads microcode into an out-of-service quire. -/
  | ucodeLoad (at_ : Nat) (p : Packet)
  /-- UCODE_LOAD_DONE (R426). The microcode load completes and the quire reports its digest, or the load is FAULTED.
  -/
  | ucodeLoadDone (at_ : Nat) (q : Nat) (digest : List Byte)
  /-- STANDIN_SET (R371). Command 0x0B08 sets or withdraws a permanent stand-in on a channel. -/
  | standinSet (at_ : Nat) (p : Packet)
  /-- PERMANENT_STANDIN_START (R431). At the next sinc instant at least 1 ms after acceptance the permanent stand-in
  takes its position. -/
  | permanentStandinStart (at_ : Nat) (q : Nat)
  /-- DRAIN_EDGE (R423). At the drain edge stand-ins end, the quire's outputs are no longer taken and members become
  QUIRE_OUT. -/
  | drainEdge (at_ : Nat) (q : Nat)
  /-- QUIRE_STOP (R423). One millisecond after the drain edge the quire's converters stop and QUIRE_OUT is issued. -/
  | quireStop (at_ : Nat) (q : Nat)
  /-- REENTRY_MODULATOR_START (R427). The re-entering quire's modulators, keepers and witness start on one strobe
  edge. -/
  | reentryModulatorStart (at_ : Nat) (q : Nat)
  /-- REENTRY_RELEASE_EDGE (R427). At the whole-second release edge staged blocks apply, histories restart and the
  quire is IN_SERVICE. -/
  | reentryReleaseEdge (at_ : Nat) (q : Nat) (island : Int) (held : Bool)
  /-- SAFETY_EVALUATION (R380). Every 125 us in Crown the island evaluates every enabled pair on the safety decimator
  values. -/
  | safetyEvaluation (at_ : Nat) (k : Nat)
  /-- ROOT_SAFETY_EVALUATION (R379). Each simultaneous-mode frame before handover the island evaluates pairs on
  witness results. -/
  | rootSafetyEvaluation (at_ : Nat)
  /-- DEGRADED_TIMER_EXPIRY (R384). The degraded-mode timer reaches DEGRADE_S and the pair trips latched with
  DEGRADED_EXPIRED. -/
  | degradedTimerExpiry (at_ : Nat) (p : Nat)
  /-- PULSE_OVERDUE (R386). Two pulse periods pass without a PASS and the members become PULSE_OVERDUE. -/
  | pulseOverdue (at_ : Nat) (e : Nat)
  /-- TRIP_READBACK (R390). 250 us after each driven edge each TRIP ball is read back and mismatches counted. -/
  | tripReadback (at_ : Nat) (g : Nat) (a b : Bool)
  /-- GROUP_RELEASE_TIMER (R391). RELEASE_MS passes without a cause and an unlatched group returns to HEALTHY or
  DEGRADED. -/
  | groupReleaseTimer (at_ : Nat) (g : Nat)
  /-- SAFE_CONFIG_CHECK (R378). Once per second section 1 is checked against the configuration in force and CRC1
  recomputed. -/
  | safeConfigCheck (at_ : Nat) (crcFail : Bool)
  /-- SERVICE_AUTH_WRITE (R402). A PB_WRITE of SERVICE_AUTH checks serial, expiry, wrap and signature and makes
  Service sessions possible. -/
  | serviceAuthWrite (at_ : Nat) (p : Packet)
  /-- SERVICE_AUTH_EXPIRY (R402). NOT_AFTER or the 86,400 s lapse passes; VALID clears and Service sessions close. -/
  | serviceAuthExpiry (at_ : Nat)
  /-- ACCESS_POLICY_WRITE (R401). A write of ACCESS_POLICY is programmed into KEYS before its reply. -/
  | accessPolicyWrite (at_ : Nat) (p : Packet)
  /-- COALESCE_WINDOW_END (R418). The 2 ms window for a code and quire ends and events are issued singly or as one
  coalesced record. -/
  | coalesceWindowEnd (at_ : Nat) (ecode q : Nat)
  /-- COALESCE_REPEAT_PERIOD (R418). Each further 100 ms of a continuing code yields at most one more coalesced
  record. -/
  | coalesceRepeatPeriod (at_ : Nat) (ecode q : Nat)
  /-- ORIGINATOR_EVENT_SECOND (R420). Once per second each originator key's events are issued as one record with a
  count. -/
  | originatorEventSecond (at_ : Nat)
  /-- FLAP_SECOND_END (R417). At the end of a second transitions beyond one SET and one CLEAR are logged as an
  OVERFLOW entry. -/
  | flapSecondEnd (at_ : Nat)
  /-- LANE_LOCK_REGAINED (R305). A lane's receiver regains symbol or block alignment and sets LOCK, so a PCIe link in
  Recovery returns to L0 at its former width or a single-lane link stays up. -/
  | laneLockRegained (at_ : Nat) (l : Nat)
  /-- PTP_MESSAGE_SEND (R211). At its logSyncInterval, logAnnounceInterval or delay-request interval a PTP port sends
  Sync, Announce or delay messages carrying device time. -/
  | ptpMessageSend (at_ : Nat) (p kind : Nat)
  /-- TRIP_TOGGLE_EDGE (R389). At each 0.5 ms half-period of the safety oscillator a healthy TRIP output changes
  level, in antiphase with its partner, and released outputs resume at such a boundary. -/
  | tripToggleEdge (at_ : Nat) (g : Nat)
  /-- RETENTION_LAPSE (R240). A folio held only by the ACCEPT_LATE_MS retention of R240 passes out of it, freeing its
  slot and ending DRAINING once the FINAL folio is acknowledged. -/
  | retentionLapse (at_ : Nat) (n : Nat)
  /-- UNKNOWN_OPCODE_PACKET (R352). A Cuzan packet whose opcode no version defines is checked and answered with
  UNKNOWN_OPCODE, or dropped and counted if it fails checks 1 to 3 on Ethernet. -/
  | unknownOpcodePacket (at_ : Nat) (op : Nat) (p : Packet)
  /-- ETH_ARP_ND_ECHO (R309). An ARP, Neighbor Discovery or ICMP/ICMPv6 echo frame arrives on ETH0 or ETH1 and the
  port answers it. -/
  | ethArpNdEcho (at_ : Nat) (p kind : Nat) (mac ip target data : List Byte)
  /-- SKAING_KEEPALIVE_SEND (R316). Every 250 us an UP Skaing endpoint sends a LINK keepalive frame, and every 100 us
  during negotiation it sends a LINK frame. -/
  | skaingKeepaliveSend (at_ : Nat) (x : Nat)
  deriving DecidableEq, Repr

end Sys2Proof
end

