-- ==== Sys2Proof/Decode.lean ====
section
/-! DEFINITION. Words that spell commands. No row of spec/opcode_table.json gives bits: a command reaches the block as an event
with its operands, so no word spells one (log entry 6). -/

namespace Sys2Proof

/-- The command that the `nbits` bits of `w` spell: none, since no row gives bits. -/
def decodeTableWord (_nbits _w : Nat) : Option Instr := none

end Sys2Proof
end

