-- ==== Sys2Proof/Config.lean ====
section
/-! DEFINITION. What an implementation or a published standard fixes and the spec does not lay out: constants
without a body, so that no proof can rest on a value of theirs. -/

namespace Sys2Proof.Config

/-- FREE VALUE: the hub's random numbers (16 R397): HUB_NONCE number `i` of the start with a start count. Different draws of
one start differ, since they are values of a permutation: no HUB_NONCE is repeated within a start (log entry 10). -/
opaque nonce : Nat → Equiv.Perm (BitVec 128)

/-- FREE VALUE: the silicon stepping of a part, by its serial number (11 R277; log entry 82). -/
opaque stepping : Nat → BitVec 8

/-- FREE VALUE: the 256-bit device key derived from fuses blown at manufacture (16 R399; log entry 12). -/
opaque deviceKey : List Byte

/-- FREE VALUE: whether a 96-byte ECDSA P-384 signature over a 32-byte digest verifies with key `k`
(0 the firmware-signing key, 1 Limerpor's service key; 02 R46, 16 R402; log entry 9). -/
opaque ecdsaOk (k : Nat) (digest signature : List Byte) : Bool

/-- FREE VALUE: what the reset filter does with a level that lasts between 9.5 and 10.5 microseconds (02 R38);
the argument is the length in 2^-16 ns (log entry 11). -/
opaque resetFilterPasses : Nat → Bool

/-- FREE VALUE: the safety oscillator's rate error in parts per million in the start whose reset release came at an instant;
used only within its 3 per cent limits (01 R24; log entry 11). -/
opaque safetyOscPpm : Nat → Int

/-- FREE VALUE: coefficient `j` of FIR response `r` in units of 2^-30 (05 R474; log entry 7). -/
opaque firCoef : Nat → Nat → Int

/-- FREE VALUE: coefficient `j` of the half-band stage in units of 2^-30 (05 R474; log entry 7). -/
opaque halfBandCoef : Nat → Int

/-- FREE VALUE: coefficient `j` of the safety decimator in units of 2^-30 (05 R474; log entry 7). -/
opaque safetyCoef : Nat → Int

/-- FREE VALUE: the temperature from which the iteration of curve `c` starts for a primary value (06 R152; log entry 8). -/
opaque newtonStart : Nat → Rat → Rat

/-- FREE VALUE: a stand-in value of a ratiometric channel, in 5 V / 2^35, from its witness result in 10 nV, while the
latest SENSE of its group is 0 (04 R115 divides by it; log entry 24). -/
opaque standinNoSense : Int → Int

/-- FREE VALUE: the rate at which the board's flash programs, in bytes per second (14 R367; log entry 20). -/
opaque flashRate : Nat

/-- FREE VALUE: the SHA-256 digest of the ROM microcode, byte `i` (17 R426; log entry 26). -/
opaque romDigest : Nat → Byte

/-- FREE VALUE: the standard deviation of the median of an ensemble, in 0.001 ppm, from its members' values (07 R183; log
entry 28). -/
opaque medianSd : List Rat → Rat

/-- FREE VALUE: one standard uncertainty of the slope of K_ext over transfers (device seconds, K_ext - 1 in 0.001 ppm), in
ppm per year (07 R184; log entry 28). -/
opaque slopeSigma : List (Nat × Int) → Rat

/-- FREE VALUE: whether a port's clocks are coherent, as the L1_SYNC TLV of that number reports them: transmit, receive, congruent
(08 R210; log entry 132). -/
opaque l1Coherent (p k : Nat) : BitVec 3

/-- FREE VALUE: the bytes in which CAL holds a calibration set of these numbers, whose serialised form the spec does not lay
out; the digest is SHA-256 of them (07 R179; log entry 29). -/
opaque calLayout : List Rat → List Byte

/-- FREE VALUE: the transfer uncertainty in ppm of the EXT_STD transfer of a growth-ring record, which the record does not
carry: quire and RSEQ (07 R181, R183; log entry 28). -/
opaque transferU (q rseq : Nat) : Rat

/-- FREE VALUE: the transfer uncertainty that the final reply of CAL_EXT_STD gives for a quire whose transfer was abandoned
(07 R177; log entry 35). -/
opaque abandonedU : Nat → BitVec 32

/-- FREE VALUE: the fault code of a FAULTED reply to FW_BEGIN: R416 gives a flash error no event (14 R349, R367; log entry
36). -/
opaque flashFault : Nat → BitVec 16

/-- FREE VALUE: the sinc4 response at 100 kHz, real and imaginary part, which the lock-in takes from calibration (03 R86;
log entry 42). -/
opaque sincResponse100k : Rat × Rat

/-- FREE VALUE: the calibrated peak current of a channel's tone injector at a TONE_AMP, in amperes, real and imaginary part
(03 R86; log entry 42). -/
opaque toneCurrent (channel amp : Nat) : Rat × Rat

/-- FREE VALUE: Z_RE and Z_IM of a channel whose injector reached compliance, at instant `t` (03 R86, R87; log entry 42). -/
opaque toneOpen (channel t : Nat) : Int × Int

end Sys2Proof.Config
end

