-- ==== Sys2Proof/Machine/Bits.lean ====
section
/-! DEFINITION. Bit fields, sign, byte order and sparse tables: the helpers every other file uses. -/

namespace Sys2Proof

/-- The value under key `k`, or the default. -/
def Tab.get {α : Type} (t : Tab α) (k : Nat) (d : α) : α :=
  match t with
  | [] => d
  | (j, v) :: r => if j = k then v else Tab.get r k d

/-- The value under key `k`, if one is held. -/
def Tab.find {α : Type} (t : Tab α) (k : Nat) : Option α :=
  match t with
  | [] => none
  | (j, v) :: r => if j = k then some v else Tab.find r k

/-- The table with `v` under `k`, keys rising. -/
def Tab.put {α : Type} (t : Tab α) (k : Nat) (v : α) : Tab α :=
  match t with
  | [] => [(k, v)]
  | (j, w) :: r =>
    if k < j then (k, v) :: (j, w) :: r
    else if k = j then (k, v) :: r
    else (j, w) :: Tab.put r k v

/-- The table without `k`. -/
def Tab.del {α : Type} (t : Tab α) (k : Nat) : Tab α := t.filter fun p => p.1 != k

end Sys2Proof

namespace Sys2Proof.Machine

/-- Bits [hi:lo] of `n` (00 R8: bit 0 is least significant). -/
def bits (hi lo n : Nat) : Nat := n / 2 ^ lo % 2 ^ (hi - lo + 1)

/-- Bit `i` of `n`. -/
def bit (i n : Nat) : Bool := n / 2 ^ i % 2 == 1

/-- The number a Bool stands for in a one-bit field. -/
def b2n (b : Bool) : Nat := if b then 1 else 0

/-- `n` with bits [hi:lo] replaced by `v`. -/
def setBits (hi lo v n : Nat) : Nat :=
  n - bits hi lo n * 2 ^ lo + v % 2 ^ (hi - lo + 1) * 2 ^ lo

/-- The two's-complement reading of the low `w` bits of `n`. -/
def toSigned (w n : Nat) : Int :=
  let m := n % 2 ^ w
  if m < 2 ^ (w - 1) then (m : Int) else (m : Int) - (2 ^ w : Nat)

/-- The low `w` bits of an integer, as the field that holds it reads. -/
def ofSigned (w : Nat) (i : Int) : Nat := (i % ((2 ^ w : Nat) : Int)).toNat

/-- `i` limited to [lo, hi]. -/
def clampInt (lo hi i : Int) : Int := if i < lo then lo else if hi < i then hi else i

/-- A signed 32-bit field that saturates. -/
def satS32 (i : Int) : Nat := ofSigned 32 (clampInt (-2147483648) 2147483647 i)

/-- An unsigned field of `w` bits that saturates. -/
def satU (w n : Nat) : Nat := min n (2 ^ w - 1)

/-- Division that rounds up. -/
def ceilDiv (a b : Nat) : Nat := (a + b - 1) / b

/-- `n` as `k` bytes, little-endian (00 R9). -/
def le : Nat → Nat → List Byte
  | 0, _ => []
  | k + 1, n => BitVec.ofNat 8 (n % 256) :: le k (n / 256)

/-- `n` as `k` bytes, big-endian (fields whose order a published standard fixes). -/
def be (k n : Nat) : List Byte := (le k n).reverse

/-- A signed quantity as `k` little-endian bytes. -/
def leS (k : Nat) (i : Int) : List Byte := le k (ofSigned (8 * k) i)

/-- The number that little-endian bytes spell. -/
def ofLe : List Byte → Nat
  | [] => 0
  | b :: bs => b.toNat + 256 * ofLe bs

/-- The number that big-endian bytes spell. -/
def ofBe (bs : List Byte) : Nat := ofLe bs.reverse

/-- `k` zero bytes. -/
def zeros (k : Nat) : List Byte := List.replicate k 0

/-- Bytes `off` to `off + len - 1`. -/
def slice (off len : Nat) (bs : List Byte) : List Byte := (bs.drop off).take len

/-- The little-endian field of `len` bytes at `off`. -/
def fld (off len : Nat) (bs : List Byte) : Nat := ofLe (slice off len bs)

/-- The bytes, filled with zeros to `k` or cut there. -/
def fitBytes (k : Nat) (bs : List Byte) : List Byte := (bs ++ zeros k).take k

/-- Every byte is zero. -/
def allZero (bs : List Byte) : Bool := bs.all (· == 0)

/-- The ASCII bytes of a label. -/
def ascii (s : String) : List Byte := s.toList.map fun c => BitVec.ofNat 8 c.toNat

/-- The keys `n`, `n + 1`, … `n + len - 1`. -/
def span (n len : Nat) : List Nat := (List.range len).map (n + ·)

/-- The sum of a list of naturals. -/
def total (l : List Nat) : Nat := l.foldl (· + ·) 0

/-- The middle of an odd count of sorted numbers, or the mean of the two middle ones. -/
def medianSorted (l : List Rat) : Rat :=
  let n := l.length
  if n = 0 then 0
  else if n % 2 = 1 then l.getD (n / 2) 0
  else (l.getD (n / 2 - 1) 0 + l.getD (n / 2) 0) / 2

/-- Insertion into a rising list. -/
def insertRat (x : Rat) : List Rat → List Rat
  | [] => [x]
  | y :: r => if x ≤ y then x :: y :: r else y :: insertRat x r

/-- The median of a list of rationals. -/
def median (l : List Rat) : Rat := medianSorted (l.foldr insertRat [])

/-- Rounding to the nearest integer, halves away from zero. -/
def roundAway (r : Rat) : Int :=
  if 0 ≤ r then ((2 * r.num + r.den) / (2 * r.den) : Int)
  else -((2 * (-r.num) + r.den) / (2 * r.den) : Int)

/-- Insertion by a key into a list that rises in it, behind equal keys; and a list sorted so. -/
def insertOn {α : Type} (f : α → Nat) (x : α) : List α → List α
  | [] => [x]
  | y :: r => if f x < f y then x :: y :: r else y :: insertOn f x r
def sortOn {α : Type} (f : α → Nat) (l : List α) : List α := l.foldl (fun a x => insertOn f x a) []

/-- A list cut into pieces of at most `k`; `fuel` is its length. -/
def cutInto {α : Type} (k : Nat) : Nat → List α → List (List α)
  | 0, _ => []
  | n + 1, l => if l.isEmpty then [] else l.take k :: cutInto k n (l.drop k)

/-- The absolute value of a rational. -/
def rabs (r : Rat) : Rat := if r < 0 then -r else r

end Sys2Proof.Machine
end

