-- ==== Sys2Proof/Machine/Crypto.lean ====
section
/-! DEFINITION. SHA-256, HMAC-SHA-256 and CRC-32C, as 10 R247, 13 R324 and 16 R397, R408 name them. -/

namespace Sys2Proof.Machine

/-- One step of the reflected CRC-32C over a bit (10 R247). -/
def crcBit (c : Nat) : Nat := if c % 2 = 1 then (c / 2) ^^^ 0x82F63B78 else c / 2

/-- One byte of CRC-32C. -/
def crcByte (c : Nat) (b : Byte) : Nat :=
  (List.range 8).foldl (fun a _ => crcBit a) (c ^^^ b.toNat)

/-- CRC-32C (Castagnoli): initial value and final XOR 0xFFFF_FFFF (10 R247). -/
def crc32c (bs : List Byte) : Nat := bs.foldl crcByte 0xFFFFFFFF ^^^ 0xFFFFFFFF

/-- The `n` words that the digits of a number in base 2^32 spell, most significant first. -/
def wordsOf (n table : Nat) : List Word := (List.range n).reverse.map fun i => BitVec.ofNat 32 (table / 2 ^ (32 * i))

/-- The round constants of SHA-256, one after the other: thirty-two bits of the fractional part of each cube root of the
first sixty-four primes. -/
def shaTable : Nat :=
  0x428a2f9871374491b5c0fbcfe9b5dba53956c25b59f111f1923f82a4ab1c5ed5 * 2 ^ 1792 +
  0xd807aa9812835b01243185be550c7dc372be5d7480deb1fe9bdc06a7c19bf174 * 2 ^ 1536 +
  0xe49b69c1efbe47860fc19dc6240ca1cc2de92c6f4a7484aa5cb0a9dc76f988da * 2 ^ 1280 +
  0x983e5152a831c66db00327c8bf597fc7c6e00bf3d5a7914706ca635114292967 * 2 ^ 1024 +
  0x27b70a852e1b21384d2c6dfc53380d13650a7354766a0abb81c2c92e92722c85 * 2 ^ 768 +
  0xa2bfe8a1a81a664bc24b8b70c76c51a3d192e819d6990624f40e3585106aa070 * 2 ^ 512 +
  0x19a4c1161e376c082748774c34b0bcb5391c0cb34ed8aa4a5b9cca4f682e6ff3 * 2 ^ 256 +
  0x748f82ee78a5636f84c878148cc7020890befffaa4506cebbef9a3f7c67178f2 * 2 ^ 0

/-- The round constant of each round. -/
def shaK : List Word := wordsOf 64 shaTable

/-- The chaining value of SHA-256, eight words. -/
abbrev ShaState := Word × Word × Word × Word × Word × Word × Word × Word

/-- The chaining value that a list of eight words makes. -/
def shaStateOf (l : List Word) : ShaState :=
  let w := fun i => l.getD i 0
  (w 0, w 1, w 2, w 3, w 4, w 5, w 6, w 7)

/-- The initial hash value of SHA-256: the fractional parts of the square roots of the first eight primes. -/
def shaInit : ShaState :=
  shaStateOf (wordsOf 8 0x6a09e667bb67ae853c6ef372a54ff53a510e527f9b05688c1f83d9ab5be0cd19)

/-- The next word of the message schedule from the sixteen before it, newest first. -/
def shaNext (w : List Word) : Word :=
  let x := w.getD 14 0
  let y := w.getD 1 0
  let s0 := x.rotateRight 7 ^^^ x.rotateRight 18 ^^^ x >>> 3
  let s1 := y.rotateRight 17 ^^^ y.rotateRight 19 ^^^ y >>> 10
  w.getD 15 0 + s0 + w.getD 6 0 + s1

/-- The message schedule of a block of sixteen words, in order. -/
def shaSchedule (m : List Word) : List Word :=
  ((List.range 48).foldl (fun w _ => shaNext w :: w) m.reverse).reverse

/-- One round of SHA-256. -/
def shaRound (st : ShaState) (kw : Word × Word) : ShaState :=
  let (a, b, c, d, e, f, g, h) := st
  let s1 := e.rotateRight 6 ^^^ e.rotateRight 11 ^^^ e.rotateRight 25
  let t1 := h + s1 + ((e &&& f) ^^^ (~~~e &&& g)) + kw.1 + kw.2
  let s0 := a.rotateRight 2 ^^^ a.rotateRight 13 ^^^ a.rotateRight 22
  let t2 := s0 + ((a &&& b) ^^^ (a &&& c) ^^^ (b &&& c))
  (t1 + t2, a, b, c, d + t1, e, f, g)

/-- The words of a block of 64 bytes, big-endian. -/
def shaWords (bs : List Byte) : List Word :=
  (List.range 16).map fun i => BitVec.ofNat 32 (ofBe (slice (4 * i) 4 bs))

/-- One block of SHA-256. -/
def shaBlock (h : ShaState) (bs : List Byte) : ShaState :=
  let (a, b, c, d, e, f, g, i) := h
  let (a', b', c', d', e', f', g', i') :=
    (shaK.zip (shaSchedule (shaWords bs))).foldl shaRound h
  (a + a', b + b', c + c', d + d', e + e', f + f', g + g', i + i')

/-- `n` blocks of SHA-256. -/
def shaBlocks : Nat → ShaState → List Byte → ShaState
  | 0, h, _ => h
  | n + 1, h, bs => shaBlocks n (shaBlock h (bs.take 64)) (bs.drop 64)

/-- The padded message of SHA-256. -/
def shaPad (bs : List Byte) : List Byte :=
  bs ++ 0x80 :: zeros ((119 - bs.length % 64) % 64) ++ be 8 (8 * bs.length)

/-- SHA-256: 32 bytes. -/
def sha256 (bs : List Byte) : List Byte :=
  let m := shaPad bs
  let (a, b, c, d, e, f, g, h) := shaBlocks (m.length / 64) shaInit m
  [a, b, c, d, e, f, g, h].flatMap fun w => be 4 w.toNat

/-- Byte by byte exclusive or. -/
def xorBytes (a b : List Byte) : List Byte := (a.zip b).map fun p => p.1 ^^^ p.2

/-- HMAC-SHA-256 (13 R324). -/
def hmac (key msg : List Byte) : List Byte :=
  let k := fitBytes 64 (if key.length ≤ 64 then key else sha256 key)
  sha256 (k.map (· ^^^ 0x5c) ++ sha256 (k.map (· ^^^ 0x36) ++ msg))

/-- The 48-byte wrapped form of a 32-byte secret under key `k` and context `x` (16 R398). -/
def wrapSecret (k x sec : List Byte) : List Byte :=
  let c := xorBytes sec (hmac k (ascii "HKA-WRAP" ++ x))
  c ++ (hmac k (ascii "HKA-WTAG" ++ x ++ c)).take 16

/-- The secret of a wrapped form, if its tag verifies (16 R398). -/
def unwrapSecret (k x w : List Byte) : Option (List Byte) :=
  let c := w.take 32
  if w.drop 32 == (hmac k (ascii "HKA-WTAG" ++ x ++ c)).take 16 then
    some (xorBytes c (hmac k (ascii "HKA-WRAP" ++ x)))
  else none

/-- The session key of a session (16 R397). -/
def sessionKey (secret hostNonce hubNonce : List Byte) (session : Nat) : List Byte :=
  hmac secret (ascii "HKA-SK" ++ hostNonce ++ hubNonce ++ le 4 session)

end Sys2Proof.Machine
end

