-- ==== Sys2Proof/Machine/State.lean ====
section
/-! DEFINITION. The state of the hub: plain data, every piece of state the spec gives it, the queue of waiting
commands, and the state right after power-on reset. Each field's docstring names the rule that gives it. -/

namespace Sys2Proof.Machine

/-- The reasons a step could fault. No command of the hub faults: a refusal is a reply status (00 R15), a refused
register write sets REG_ERR (11 R278), a ring fault halts a ring (11 R291), a fault code enters the fault list (16 R415). -/
inductive Fault where
  /-- Raised by nobody: the spec describes no command that stops the hub. Safe. -/
  | none_
  deriving DecidableEq, Repr

/-- The reasons a command could be refused. -/
inductive Refusal where
  /-- Raised by `exec` for a command that has no meaning yet. Safe: nothing is claimed of it. -/
  | notModelled (mnemonic : String)
  deriving DecidableEq, Repr

/-- What has left the hub, in order (log entry 3). -/
inductive Out where
  /-- A UDP datagram from an Ethernet port: port, destination address and port, source port, Don't Fragment, payload. -/
  | udp (port : Nat) (addr : List Byte) (dport sport : Nat) (df : Bool) (bytes : List Byte)
  /-- An Ethernet frame that is no stream or command datagram: port, Ethertype, what it holds. -/
  | frame (port etherType : Nat) (bytes : List Byte)
  /-- What leaves an Ethernet port, with its 802.1Q tag (PCP and VID) and its next hop: the IP address of the destination or of the
  gateway, or a MAC address (12 R309, R310). -/
  | eth (tag : Option Nat) (hop : List Byte) (o : Out)
  /-- A PTP message: port, Ethertype or UDP port, multicast address, bytes (08 R210, R211). -/
  | ptp (port proto : Nat) (addr bytes : List Byte)
  /-- A Skaing frame: endpoint, frame type, bytes. -/
  | skaing (ep ftype : Nat) (bytes : List Byte)
  /-- A DMA write to the host: ring, device address, bytes. -/
  | dma (ring addr : Nat) (bytes : List Byte)
  /-- An MSI-X message: vector, address, data. -/
  | msix (vector addr data : Nat)
  /-- A management-bus answer: acknowledged or not, bytes. -/
  | mgmt (ack : Bool) (bytes : List Byte)
  /-- A register value returned on BAR0: offset, value. -/
  | bar0 (offset value : Nat)
  /-- A message to a quire over the sideband: quire, kind (0 replay, 1 prepare, 2 withdraw, 3 apply, 4 microcode,
  5 poll), argument. -/
  | sideband (quire kind arg : Nat)
  deriving DecidableEq, Repr

/-! ### The part, the start and flash (02, 16, 18) -/

/-- What is fixed for the part: variant, grade, serial number, addresses (00 R2, 11 R277, 12 R310, 02 R53). -/
structure PartId where
  /-- 2, 4 or 7 quires (00 R2). -/
  quires : Nat
  /-- Grade -M (00 R2). -/
  metrology : Bool
  /-- The 64-bit factory serial number (11 R277). -/
  serial : Nat
  /-- MAC addresses of ETH0 and ETH1, octet 0 in [7:0] (12 R310). -/
  mac0 : Nat
  mac1 : Nat
  deriving DecidableEq, Repr, Inhabited

/-- Power, reset and the staged start (02). -/
structure Boot where
  inReset : Bool
  /-- Monitored rails inside their windows: bit r - 1 for rail code r of MG_RESET_CAUSE (02 R37, R54). -/
  rails : Nat
  /-- Instant at which the last of them entered its window. -/
  railsSince : Nat
  /-- A die comparator holds the hub in reset (18 R457). -/
  hot : Bool
  /-- MG_RESET_CAUSE with BROWNOUT_RAIL, MG_PREV_CAUSE (02 R54, R55). -/
  cause : Nat
  prevCause : Nat
  /-- Causes detected within the reset that now holds, with the rail, not yet written (02 R55). -/
  newCause : Nat
  /-- Reset release (02 R37). -/
  release : Option Nat
  /-- Sampled MGMT_ADDR[1:0] (02 R53). -/
  strap : Nat
  /-- MG_STAGE: 0 STARTING, 1 ROOT, 2 TRUNK, 3 CROWN. -/
  stage : Nat
  /-- MG_STAGE.HOLD: 0 none, 1 REF_IN_ABSENT, 2 NO_IMAGE, 3 DEADLINE_OVERRUN. -/
  hold : Nat
  /-- MG_STAGE.IMAGE: 0 none, 1 FW_A, 2 FW_B. -/
  image : Nat
  /-- MG_STAGE.SAFE_OK and STORE. -/
  safeOk : Bool
  storeMode : Nat
  /-- Start count as read: 0 until step 13 (02 R54, R59). -/
  startCount : Nat
  /-- Step 8 done; instant of step 8; time waited for REF_IN (02 R41, R44). -/
  refDone : Bool
  refWait : Nat
  /-- Steps 9 to 13 done: the firmware runs (02 R46). -/
  fwRuns : Bool
  /-- LPDDR5 training ended, step 11. -/
  lpDone : Bool
  trunkAt : Option Nat
  modsOn : Bool
  crownAt : Option Nat
  /-- TEST_MODE read high at a release: the hub stays in reset (18 R464). -/
  testHeld : Bool
  /-- The sample strobe: 0 stopped, 1 the safety oscillator, 2 timebase / 64 (01 R24). -/
  strobe : Nat
  /-- Levels of FLASH_RST_N and of the LPDDR5 clock enable (02 R39). -/
  flashRstN : Bool
  lpCke : Bool
  /-- The xSPI pins: 0 chip select high, 1 with the safety island in 1S-1S-1S, 2 with the command processor in octal DTR
  (02 R39, R41). -/
  xspi : Nat
  /-- Stages whose overrun has been recorded (02 R42), one bit each. -/
  overrun : Nat
  /-- Expiry instants that R46 and R52 look back on. -/
  lastWatchdog : Option Nat
  /-- The command processor restarts: the image it restarts into (02 R52, 17 R435). -/
  restart : Option Nat
  /-- FW_SWAP: instant and image left (17 R438). -/
  swapped : Option (Nat × Nat)
  /-- The continuity table was cleared and no EVENT has said so yet (02 R58). -/
  continuityUnknown : Bool
  /-- MGMT bus: register captured and bytes already returned; the target holds the bus. -/
  mgmtReg : Nat
  mgmtHeld : Bool
  deriving DecidableEq, Repr, Inhabited

/-- A credential of KEYS (16 R399). -/
structure Credential where
  id : Nat
  role : Nat
  ports : Nat
  secret : List Byte
  deriving DecidableEq, Repr, Inhabited

/-- A record of KEYS as flash holds it: its secret or key wrapped under the device key (16 R399). -/
structure KeyRecord where
  id : Nat
  role : Nat
  ports : Nat
  wrapped : List Byte
  deriving DecidableEq, Repr, Inhabited

/-- The KEYS partition: credentials and group keys in order of their record index, the u32 write count, and the persistent
fields of ACCESS_POLICY (16 R399, R401; log entry 12). -/
structure KeysFlash where
  programmed : Bool
  writes : Nat
  creds : List KeyRecord
  groups : List KeyRecord
  anonEn : Bool
  anonRole : Nat
  deriving DecidableEq, Repr, Inhabited

/-- KEYS as step 13 of the start unwraps it into the spine (16 R403). -/
structure Keys where
  /-- 0 BLANK, 1 VALID, 2 FAILED. -/
  state : Nat
  creds : List Credential
  groupKeys : Tab (List Byte)
  anonEn : Bool
  anonRole : Nat
  deriving DecidableEq, Repr, Inhabited

/-- A journal entry (16 R405); its CRC and ELEN follow from the fields. -/
structure JEntry where
  kind : Nat
  port : Nat
  role : Nat
  part : Nat
  jflags : Nat
  entry : Nat
  time : List Byte
  session : Nat
  credential : Nat
  startCount : Nat
  tag : Nat
  prevHash : List Byte
  body : List Byte
  /-- The entry is torn: partly programmed (16 R409). -/
  torn : Bool
  /-- What the CRC in flash differs by from the CRC of the bytes: 0 in a sound entry (16 R412). -/
  crcXor : Nat
  deriving DecidableEq, Repr, Inhabited

/-- The JOURNAL partition: sectors, oldest first, each with its entries in order (16 R409). -/
structure JournalFlash where
  sectors : List (List JEntry)
  startCount : Nat
  deriving DecidableEq, Repr, Inhabited

/-- A growth-ring record (07 R181): quire, its number, seconds, kind and its 128 bytes; `bad` when its CRC fails. -/
structure RingRec where
  quire : Nat
  rseq : Nat
  seconds : Nat
  kind : Nat
  bytes : List Byte
  bad : Bool
  deriving DecidableEq, Repr, Inhabited

/-- Coefficients of one range of one channel (07 R171): offset o in filter units, gain g, temperature and instant. -/
structure RangeCal where
  o : Rat
  g : Rat
  theta : Int
  /-- Device seconds of the calibration; the model instant of it. -/
  seconds : Nat
  at_ : Nat
  /-- The RTD current in nA that this calibration measured and the one before it, 0 where none did, and the instant from which
  the newer holds (R170). -/
  iNa : Rat
  iOld : Rat
  iFrom : Nat
  /-- A calibration of the range has been applied since CAL was last written (R171). -/
  valid : Bool
  deriving DecidableEq, Repr, Inhabited

/-- What CAL holds of a quire's ensemble (07 R179). -/
structure EnsCal where
  kExt : Rat
  /-- State and k of each member. -/
  members : List (Nat × Rat)
  /-- Ratio-network ratio by range. -/
  ratios : List Rat
  rInt : Rat
  ratioU : List Rat
  warm1 : Nat
  warm2 : Nat
  /-- Factory drift model of the -M grade: a in ppm per year and tau in years. -/
  drift : Option (Rat × Rat)
  deriving DecidableEq, Repr, Inhabited

/-- The calibration set of CAL (07 R179). -/
structure CalSet where
  /-- Per channel and range: key 8 * channel + range. -/
  ranges : Tab RangeCal
  ens : Tab EnsCal
  /-- SL words of CAL_POLICY. -/
  policy : List (BlockKey × Nat)
  digest : List Byte
  closeSeconds : Nat
  /-- Open: no valid seal (07 R179). -/
  sealOk : Bool
  deriving DecidableEq, Repr, Inhabited

/-- The flash (18 R468) and the fuses: what no reset changes (02 R57). -/
structure Flash where
  /-- FW_A, FW_B and QUIRE_UCODE: programmed bytes; an unlisted byte reads 0xFF (02 R45). -/
  fwA : Tab Nat
  fwB : Tab Nat
  ucode : Tab Nat
  /-- SAFE: words of the image by block key; validity of section 1 and 2 (15 R374). -/
  safe : List (BlockKey × Nat)
  /-- Section 2: the words of the CORR_CHANNEL copy of a slot; an unlisted slot is zero. -/
  safeCorr : Tab (List Nat)
  safeOk1 : Bool
  safeOk2 : Bool
  keys : KeysFlash
  cal : Option CalSet
  journal : JournalFlash
  ring : List RingRec
  rseq : Tab Nat
  sealCount : Nat
  lockCount : Nat
  /-- Fuses blown, 0-32 (16 R421). -/
  fuses : Nat
  /-- Partitions that fail to program or erase: 0 JOURNAL, 1 FW_A, 2 FW_B, 3 QUIRE_UCODE, 4 SAFE, 5 CAL, 6 RING.
  No command changes it (log entry 16). -/
  bad : List Nat
  /-- What was programmed or erased last: 0 nothing that an abandoned write leaves detectable, 1 JOURNAL, 2 RING, 3 SAFE,
  4 CAL, 5 KEYS (02 R39). -/
  last : Nat
  deriving DecidableEq, Repr, Inhabited

/-! ### Faults, the trouble log and events (16) -/

/-- A trouble-log entry (16 R414); CRC follows from the fields. -/
structure LogEntry where
  number : Nat
  fault : Nat
  kind : Nat
  lflags : Nat
  time : List Byte
  eventId : Nat
  ecode : Nat
  subject : Nat
  count : Nat
  detail : List Byte
  occurrences : Nat
  deriving DecidableEq, Repr, Inhabited

/-- An event as it is raised (10 R256, 16 R416). -/
structure Ev where
  ecode : Nat
  subject : Nat
  stream : Nat
  body : List Byte
  /-- The fault has a lasting cause (16 R417). -/
  lasting : Bool
  /-- TIME of the record where it is not the instant of issue: DT16, else empty. -/
  time : List Byte
  deriving DecidableEq, Repr, Inhabited

/-- An entry of the active-fault list (16 R417). -/
structure FaultEntry where
  code : Nat
  /-- Subjects whose cause is present. -/
  causes : List Nat
  /-- The code is listed; its SET has been logged and no CLEAR since. -/
  listed : Bool
  active : Bool
  occurrences : Nat
  eventId : Nat
  /-- Transitions in the present second: a SET, a CLEAR, and those not logged (16 R417). -/
  setInSecond : Bool
  clearInSecond : Bool
  unlogged : Nat
  deriving DecidableEq, Repr, Inhabited

/-- An open coalescing window of an event code on a quire (16 R418). -/
structure CoalWin where
  ecode : Nat
  quire : Nat
  opened : Nat
  /-- 0 the 2 ms window, 1 later events after a coalesced record, 2 waiting for the common-cause test. -/
  phase : Nat
  evs : List Ev
  last : Nat
  deriving DecidableEq, Repr, Inhabited

/-- Events of one originator in the present second (16 R420). -/
structure OrigKey where
  ecode : Nat
  idKind : Nat
  port : Nat
  ident : List Byte
  count : Nat
  first : List Byte
  last : List Byte
  /-- What follows the identity in its 16 bytes. -/
  extra : List Byte
  deriving DecidableEq, Repr, Inhabited

/-- The fault manager (16 R413 to R420). -/
structure Faults where
  log : List LogEntry
  next : Nat
  /-- The safety island's Root log with the events still to be issued, and the count not kept (R413). -/
  rootLog : List (LogEntry × Ev)
  rootLost : Nat
  active : List FaultEntry
  wins : List CoalWin
  /-- Coalesced records of the last 10 ms: code, quire, opening instant, count (R419). -/
  opened : List (Nat × Nat × Nat × Nat)
  orig : List OrigKey
  /-- Events since the start (10 R256). -/
  events : Nat
  /-- The second of safety-oscillator time in which transitions are counted (R417), and of device time (R420). -/
  flapSec : Nat
  origSec : Nat
  deriving DecidableEq, Repr, Inhabited

/-- The change journal's volatile side (16 R410, 14 R363). -/
structure Journal where
  failed : Bool
  held : Nat
  heldEntries : List JEntry
  mirrorOn : Bool
  /-- Next entry to be mirrored. -/
  mirrorNext : Nat
  deriving DecidableEq, Repr, Inhabited

/-! ### Cuzan sessions and commands (13, 14) -/

/-- Who sent an accepted command, and what it asked (13 R327, R336). -/
structure Req where
  port : Nat
  session : Nat
  tag : Nat
  opcode : Nat
  major : Nat
  minor : Nat
  role : Nat
  credential : Nat
  trailer : Bool
  /-- Parameters without the apply-at time. -/
  params : List Byte
  /-- Apply-at time in 2^-16 ns since the epoch; LATE_POLICY is RUN_NOW. -/
  applyAt : Option Int
  runNow : Bool
  ranLate : Bool
  /-- DT16 of the instant at which an action that ran late took place (13 R325). -/
  ranAt : List Byte
  source : List Byte
  srcPort : Nat
  /-- Instant of acceptance. -/
  accepted : Nat
  deriving DecidableEq, Repr, Inhabited

/-- A staged image of a block instance: word offsets with values (13 R340). -/
structure Staged where
  block : Nat
  inst : Nat
  words : List (Nat × Nat)
  deriving DecidableEq, Repr, Inhabited

/-- A session (13 R329 to R340). -/
structure Session where
  id : Nat
  port : Nat
  major : Nat
  minor : Nat
  role : Nat
  credential : Nat
  trailer : Bool
  /-- PENDING since this instant (13 R329). -/
  pending : Option Nat
  key : List Byte
  keepalive : Nat
  maxReply : Nat
  lastPacket : Nat
  high : Nat
  seen : List Nat
  /-- Cached replies, oldest first: tag and bytes (13 R335). -/
  cache : List (Nat × List Byte)
  /-- Tags whose final reply is owed (13 R337). -/
  owed : List Nat
  staged : List Staged
  source : List Byte
  srcPort : Nat
  deriving DecidableEq, Repr, Inhabited

/-- A commit that waits for its edge (13 R341, 01 R33). -/
structure PendCommit where
  req : Req
  /-- Strobe count of the edge; its device time is 10,240,000 units each. -/
  edge : Nat
  items : List Staged
  /-- Quires that have acknowledged the prepare. -/
  acks : List Nat
  deriving DecidableEq, Repr, Inhabited

/-- An action that waits for its apply-at time (13 R344). -/
structure Sched where
  req : Req
  time : Int
  deriving DecidableEq, Repr, Inhabited

/-- A transfer of an image (14 R367). -/
structure FwTransfer where
  /-- 1 FW_A, 2 FW_B, 3 QUIRE_UCODE. -/
  target : Nat
  length : Nat
  session : Nat
  erased : Bool
  req : Req
  /-- An FW_COMMIT that waits for the erase. -/
  commit : Option Req
  /-- Bytes received, by offset. -/
  data : Tab Nat
  /-- Bytes in the programming buffer at the instant of the last FW_DATA. -/
  buffered : Nat
  last : Nat
  deriving DecidableEq, Repr, Inhabited

/-- A reply that waits for the end of a restart of the command processor (17 R437). -/
structure LateReply where
  req : Req
  status : Nat
  final : Bool
  body : List Byte
  deriving DecidableEq, Repr, Inhabited

/-- The command processor's sessions and pending work (13). -/
structure Cuzan where
  sessions : List Session
  opened : Nat
  commits : List PendCommit
  sched : List Sched
  /-- Packets dropped at checks 1 to 3, per port (13 R328). -/
  dropped : Tab Nat
  /-- KEYS, unwrapped (16 R399, R403). -/
  keys : Keys
  /-- Packets held unread in RING0, with their opcodes (02 R51, 11 R286). -/
  unread : List (Nat × Packet)
  /-- SERVICE_AUTH (16 R402): bytes 0x00 to 0xA7, the service secret, VALID, the raw instant of its write. -/
  authBytes : List Byte
  authSecret : List Byte
  authValid : Bool
  authAt : Nat
  authUnset : Bool
  /-- JOURNAL_VERIFY that runs (14 R363). -/
  verify : Option Req
  /-- The open transfer of an image (14 R367). -/
  fw : Option FwTransfer
  /-- Replies that wait for the end of a restart (17 R437). -/
  late : List LateReply
  deriving DecidableEq, Repr, Inhabited

/-! ### The host port (11) -/

/-- A ring (11 R284). -/
structure Ring where
  base : Nat
  en : Bool
  log2 : Nat
  intUs : Nat
  intCount : Nat
  tail : Nat
  head : Nat
  /-- 0 DISABLED, 1 ACTIVE, 2 HALTED, 3 QUIESCING. -/
  state : Nat
  fault : Nat
  faultDesc : Nat
  faultOffset : Nat
  faultAddr : Nat
  ackSeq : Nat
  doneSeq : Nat
  discardTo : Nat
  ackClamped : Nat
  /-- A folio has been written back since the ring's start, so DONE_SEQ holds. -/
  anyDone : Bool
  /-- SEQ of the transfer that was in progress when the ring halted. -/
  haltSeq : Nat
  /-- Next SEQ to deliver; credits of a Skaing origin do not enter here. -/
  nextSeq : Nat
  /-- Completions not yet signalled and the instant of the first (11 R295). -/
  unsignalled : Nat
  firstAt : Nat
  /-- LO writes held (11 R279): BASE, ACK_SEQ, DISCARD_TO. -/
  loBase : Option Nat
  loAck : Option Nat
  loDiscard : Option Nat
  /-- HI shadows of FAULT_ADDR, ACK_SEQ, DONE_SEQ, DISCARD_TO, BASE. -/
  hiFault : Nat
  hiAck : Nat
  hiDone : Nat
  hiDiscard : Nat
  hiBase : Nat
  deriving DecidableEq, Repr, Inhabited

/-- A host window (11 R287). -/
structure Window where
  dev : Nat
  host : Nat
  en : Bool
  busy : Bool
  write : Bool
  read : Bool
  log2 : Nat
  ringMask : Nat
  loDev : Option Nat
  loHost : Option Nat
  hiDev : Nat
  hiHost : Nat
  deriving DecidableEq, Repr, Inhabited

/-- An MSI-X table entry (11 R278, R295). -/
structure MsixEntry where
  addr : Nat
  data : Nat
  masked : Bool
  pend : Bool
  deriving DecidableEq, Repr, Inhabited

/-- The recovery window (11 R296). -/
structure Recovery where
  target : Nat
  percent : Nat
  state : Nat
  addr : Nat
  loAddr : Option Nat
  hiAddr : Nat
  len : Nat
  deriving DecidableEq, Repr, Inhabited

/-- The PCI Express endpoint and BAR0 (11). -/
structure HostPort where
  linkUp : Bool
  /-- The link has reached L0 since the start, so the register window answers (11 R278). -/
  seenL0 : Bool
  width : Nat
  gt : Nat
  /-- D3hot, or Bus Master Enable clear. -/
  d3 : Bool
  busMaster : Bool
  regErr : Bool
  errOffset : Nat
  /-- The time group as captured: TIME_RAW (high half), S_LO, S_HI, NS, FRAC and QUAL. -/
  timeShadow : List Nat
  hiBusy : Nat
  rings : Tab Ring
  windows : Tab Window
  msix : Tab MsixEntry
  functionMask : Bool
  /-- Replies that wait for RING1 (11 R286). -/
  backlog : List (List Byte)
  /-- Bytes of the reply in front that earlier descriptors hold. -/
  replySent : Nat
  /-- The last BULK ring served, and the last of RING0 and RING1 (11 R289). -/
  lastBulk : Nat
  lastCommand : Nat
  recovery : Recovery
  deriving DecidableEq, Repr, Inhabited
/-! ### Folios, streams and the store (10) -/

/-- A folio in the store (10 R246, R264). -/
structure Folio where
  seq : Nat
  ftype : Nat
  stream : Nat
  /-- FFLAGS (10 R246). -/
  fflags : Nat
  chset : Nat
  firstIndex : Nat
  lastIndex : Nat
  count : Nat
  payload : List Byte
  /-- 2 for GAP and DISCONTINUITY folios, else 1 (10 R265). -/
  slots : Nat
  sent : Bool
  acked : Bool
  staged : Bool
  /-- Uncorrectable codewords recorded against its slots: copy and codeword (10 R264). -/
  ecc : List EccHit
  /-- Held in LPDDR5, not in the fallback ring (10 R267). -/
  inLp : Bool
  deriving DecidableEq, Repr, Inhabited

/-- The folios of a stream or of RING2, RING3: sequence and store (10 R246, R269, R272). -/
structure FolioQ where
  nextSeq : Nat
  /-- Every SEQ below this is acknowledged or retired (LEDGER ACKED_SEQ + 1). -/
  ackNext : Nat
  folios : List Folio
  /-- Sequence numbers retired by GAP records: first and count. -/
  retired : List (Nat × Nat)
  deriving DecidableEq, Repr, Inhabited

/-- A GAP record before it is laid out (10 R252). -/
structure GapRec where
  reason : Nat
  disposition : Nat
  quire : Nat
  cover : Nat
  coverState : Nat
  first : Nat
  last : Nat
  retiredFirst : Nat
  retiredCount : Nat
  channels : Nat
  coverFirst : Nat
  coverLast : Nat
  firstSlot : Nat
  lastSlot : Nat
  deriving DecidableEq, Repr, Inhabited

/-- A DISCONTINUITY record before it is laid out (10 R253). -/
structure DiscRec where
  dkind : Nat
  dflags : Nat
  channel : Nat
  count : Nat
  index : Nat
  oldLast : Nat
  body : List Byte
  newBase : Nat
  rebaseCount : Nat
  deriving DecidableEq, Repr, Inhabited

/-- One channel's corrected sample of one index (06 R146): flag byte, value code and the value delivered. -/
structure Sample where
  channel : Nat
  flags : Nat
  /-- The P24 value code, signed (04 R119). -/
  code : Int
  /-- The corrected value before coding, and the binary32 word of F32. -/
  value : Rat
  f32 : Nat
  deriving DecidableEq, Repr, Inhabited

/-- The folio in assembly of a stream (10 R248). -/
structure OpenFolio where
  ftype : Nat
  firstIndex : Nat
  firstSlot : Nat
  lastIndex : Nat
  count : Nat
  payload : List Byte
  flagPlane : List Byte
  since : Nat
  /-- FLUSH_US as it stood when the folio was opened (10 R258). -/
  flush : Nat
  /-- Its indices lie on the provisional scale (08 R198). -/
  unset : Bool
  deriving DecidableEq, Repr, Inhabited

/-- A min/max group in hand for one slot (10 R251). -/
structure MinMax where
  minCode : Int
  maxCode : Int
  flags : Nat
  deriving DecidableEq, Repr, Inhabited

/-- A capture window (09 R242 to R244): first and last index captured, those requested, marks merged into it, CFLAGS; the
mark of its first request. -/
structure CapWindow where
  id : Nat
  first : Nat
  last : Nat
  reqFirst : Nat
  reqLast : Nat
  marks : Nat
  firstMark : Nat
  cflags : Nat
  deriving DecidableEq, Repr, Inhabited

/-- A cross-fade of a stream (05 R138): responses from and to, first sample, length in samples, and the sinc number at or
after its edge. -/
structure Fade where
  from_ : Nat
  to_ : Nat
  nf : Nat
  len : Nat
  e : Int
  deriving DecidableEq, Repr, Inhabited

/-- A re-phase that the samples of a stream have not passed yet (05 R137, 08 R205): last index of the old grid, first of the
new one, by how much the numbers of sinc instants moved, and the number at e_r. -/
structure Grid where
  oldLast : Nat
  n0 : Nat
  delta : Int
  edge : Int
  /-- The old grid was the provisional one. -/
  unset : Bool
  deriving DecidableEq, Repr, Inhabited

/-- The ledger's counts of a run (10 R272). -/
structure RunCounts where
  n0 : Nat
  nLast : Option Nat
  produced : Bool
  lastIndex : Nat
  runFirstSeq : Nat
  undelivered : List (Nat × Nat)
  notDelivered : Nat
  degraded : Nat
  skipped : Nat
  retiredCount : Nat
  dWords : Nat
  gapCount : Nat
  deriving DecidableEq, Repr, Inhabited

/-- A stream of the hub: STREAM4 to STREAM31 (10 R257). -/
structure Stream where
  /-- 0 STOPPED, 1 STARTING, 2 RUNNING, 3 DRAINING. -/
  state : Nat
  /-- First index of the run, and the last one named by STREAM_STOP or a cut. -/
  n0 : Nat
  /-- The last index of the run on the provisional scale, once a first lock has ended it (08 R198). -/
  unsetLast : Option Nat
  nLast : Option Nat
  /-- Next index to produce; an index has been produced in the run. -/
  nNext : Nat
  produced : Bool
  lastIndex : Nat
  runFirstSeq : Nat
  q : FolioQ
  opened : Option OpenFolio
  /-- Min/max groups in hand, by slot, and the indices they cover. -/
  mm : Tab MinMax
  mmFirst : Nat
  mmLast : Nat
  /-- Sparse: last record per channel (value code, flag byte) since the restate point. -/
  sparse : Tab (Int × Nat)
  /-- Pending GAP and DISCONTINUITY records, in index order (10 R254). -/
  gaps : List GapRec
  /-- Ranges named as DELIVERED_DEGRADED in the run: reason, quire, first and last index. -/
  named : List (Nat × Nat × Nat × Nat)
  /-- Ranges that written GAP records name as not delivered, newest first (09 R233). -/
  undelivered : List (Nat × Nat)
  discs : List DiscRec
  /-- STALLED since this first unwritten index (10 R270). -/
  stalled : Option Nat
  stalledSlot : Nat
  notDelivered : Nat
  degraded : Nat
  skipped : Nat
  retiredCount : Nat
  dWords : Nat
  gapCount : Nat
  /-- The counts of the run before, while a start that may still be withdrawn stands over them. -/
  saved : Option RunCounts
  /-- Data folios that a cover stream has written in its run, newest first: first and last index, SEQ (10 R252). -/
  coverLog : List (Nat × Nat × Nat)
  /-- Last corrected samples (14 R356): index and samples. -/
  last : Option (Nat × List Sample)
  /-- Re-phases still ahead of the next index, oldest first (05 R137). -/
  grids : List Grid
  /-- Last indices of the grids that its samples have left, newest first (08 R205, 09 R231). -/
  ends : List Nat
  /-- Re-phase floor of the average: sinc instants before it do not enter (05 R137). -/
  floor : Int
  /-- The response in force or being faded from, the fade that runs, every fade of the run, newest first, and the held change
  with its commit (05 R133, R138 to R142). -/
  response : Nat
  fade : Option Fade
  fades : List Fade
  held : Option (Nat × Req)
  /-- Samples that an armed sequencer has still to evaluate, newest first (09 R225). -/
  recent : List (Nat × List Sample)
  /-- Capture stream: the source's samples in its look-back or waiting for release, newest first (09 R241). -/
  look : List (Nat × List Sample)
  /-- Capture stream: windows open or awaiting delivery, last index requested for delivery (09 R241 to R244). -/
  windows : List CapWindow
  captures : Nat
  /-- Ethernet and Skaing delivery (12 R311 to R314). -/
  session : Nat
  netCount : Nat
  netSent : Nat
  netAny : Bool
  lastAdvance : Nat
  lastSend : Nat
  /-- SEQs sent again lately, with the instant; SEQs to be sent again, in order (12 R314). -/
  resend : List (Nat × Nat)
  again : List Nat
  /-- Credits held by an origin, or granted and not used by a relay; the ACK_SEQ that a relay passed on last (12 R318). -/
  credits : Nat
  relayAck : Nat
  /-- COUNT of the last ACK datagram accepted from each session (12 R312). -/
  ackCounts : Tab Nat
  deriving DecidableEq, Repr, Inhabited

/-- A row of the stream continuity table (02 R58). -/
structure Continuity where
  startCount : Nat
  written : Nat
  ackedSeq : Nat
  ackedIndex : Nat
  produced : Nat
  deriving DecidableEq, Repr, Inhabited

/-- The hold-back store as a whole (10 R264 to R272). -/
structure Store where
  /-- Installed capacity in MiB and LPDDR5 rate code (10 R267, 18 R452). -/
  lpMib : Nat
  lpRate : Nat
  streams : Tab Stream
  /-- Folios of RING2 and RING3. -/
  ring2 : FolioQ
  ring3 : FolioQ
  /-- Folios that wait for room in the 2 MiB of RING2 and RING3, oldest first (10 R267). -/
  wait2 : List Folio
  wait3 : List Folio
  corrected : Nat
  uncorrectable : Nat
  scrubs : Nat
  /-- Uncorrectable codewords found in the present second (10 R268): instants. -/
  eccTimes : List Nat
  continuity : Tab Continuity
  /-- Rows kept by the reset whose EVENT records are still to be issued (02 R58). -/
  continuityDue : Tab Continuity
  /-- Base of the sequence numbers, start_count * 2^44 (02 R59). -/
  base : Nat
  /-- Marks waiting for emission and the open BOOKMARK folio are with the triggers (09). -/
  shareMode : Bool
  deriving DecidableEq, Repr, Inhabited
/-! ### Time, PTP and interval units (08) -/

/-- A step of device time that waits for its edge (08 R199, R205). -/
structure TimeStep where
  /-- 0 automatic first lock, 1 TIME_SET_INITIAL, 2 TIME_REBASE. -/
  kind : Nat
  /-- Strobe count of e_r on the old scale. -/
  edge : Nat
  /-- The step in 2^-16 ns: new time minus old time. -/
  delta : Int
  source : Nat
  /-- At a first lock, the rate difference that qualification removed, in ppb (08 R200). -/
  rate : Rat
  req : Option Req
  acks : List Nat
  deriving DecidableEq, Repr, Inhabited

/-- What the hub knows of one source of time, SRC code 1 to 4 (08 R199 to R202). -/
structure TimeSource where
  /-- Recent offset measurements, newest first: instant and offset in 2^-16 ns. -/
  meas : List (Nat × Int)
  /-- Consecutive measurements within JUMP_NS. -/
  within_ : Nat
  lastAccepted : Nat
  /-- Expected interval between measurements, in 2^-16 ns. -/
  interval : Nat
  /-- Measurements arrive from a master or partner that qualifies (08 R202). -/
  present : Bool
  gmId : List Byte
  gmClass : Nat
  utc : Int
  deriving DecidableEq, Repr, Inhabited

/-- A stretch of RATE_S in LOCKED (08 R200): from, to, rate. -/
structure RateSpan where
  from_ : Nat
  to_ : Nat
  rate : Int
  deriving DecidableEq, Repr, Inhabited

/-- Device time and its servo (08). -/
structure TimeS where
  /-- Instant of raw count zero (08 R190). -/
  rawStart : Option Nat
  ancRaw : Nat
  /-- Device time at the anchor, in 2^-16 ns since the epoch. -/
  ancDev : Int
  /-- RATE_S. -/
  rate : Int
  /-- Earlier anchors, newest first: raw count, device time and RATE_S (08 R193). -/
  anchors : List (Nat × Int × Int)
  /-- Raw counts of the steps of device time since reset, in fine units, newest first: the first lock and each re-base (08 R217). -/
  steps : List Nat
  /-- 0 UNSET, 1 LOCKED, 2 HOLDOVER, 3 HOLDOVER_EXPIRED, 4 SOURCE_REJECTED, 5 FREE (08 R195). -/
  state : Nat
  since : Nat
  source : Nat
  unsetReason : Nat
  refLost : Bool
  refLostAt : Nat
  /-- Time with REF_LOST since `estSince`, the instant from which HOLD_EST_NS counts, in 2^-16 ns (08 R203). -/
  refLostAcc : Nat
  estSince : Nat
  /-- The source last followed and its grandmaster (08 R202). -/
  lastSource : Nat × List Byte
  offset : Int
  f : Rat
  s : Rat
  rebases : Nat
  refusedSince : Option Nat
  spans : List RateSpan
  spanFrom : Nat
  sources : Tab TimeSource
  step : Option TimeStep
  deriving DecidableEq, Repr, Inhabited

/-- A PTP message as received, its fields already taken from the standard's layout (08 R210). -/
structure PtpMessage where
  /-- messageType of IEEE 1588: 0 Sync, 1 Delay_Req, 2 Pdelay_Req, 3 Pdelay_Resp, 8 Follow_Up, 9 Delay_Resp,
  10 Pdelay_Resp_Follow_Up, 11 Announce, 12 Signaling, 13 Management. -/
  kind : Nat
  domain : Nat
  /-- Ten bytes: clockIdentity and portNumber of the sender. -/
  sender : List Byte
  seqId : Nat
  logInterval : Int
  /-- The flags the hub reads: two-step, PTP timescale, timeTraceable, frequencyTraceable. -/
  twoStep : Bool
  ptpTimescale : Bool
  timeTraceable : Bool
  freqTraceable : Bool
  /-- correctionField in 2^-16 ns. -/
  correction : Int
  /-- originTimestamp or receiveTimestamp in 2^-16 ns since the epoch. -/
  stamp : Int
  /-- requestingPortIdentity of a response. -/
  requester : List Byte
  gmPriority1 : Nat
  gmPriority2 : Nat
  gmClass : Nat
  gmAccuracy : Nat
  gmVariance : Nat
  gmId : List Byte
  stepsRemoved : Nat
  utcOffset : Int
  /-- The two octets of an L1_SYNC TLV. -/
  l1 : Option Nat
  deriving DecidableEq, Repr, Inhabited

/-- A PTP port (08 R210 to R212). -/
structure PtpPort where
  /-- 0 INITIALIZING, 1 LISTENING, 2 MASTER, 3 SLAVE, 4 PASSIVE, 5 DISABLED. -/
  state : Nat
  /-- Best announce received and its instant; the ranking fields of the master. -/
  announce : Option (PtpMessage × Nat)
  /-- A Sync that waits for its Follow_Up: sequence id and arrival stamp. -/
  sync : Option (Nat × Int × Int)
  /-- t2 - t1 of the last Sync. -/
  masterToSlave : Option Int
  /-- Delay request sent: sequence id and departure stamp. -/
  delayReq : Option (Nat × Int)
  /-- Peer delay: sequence id, t1, t4, t2 and correction, waiting for the follow-up. -/
  pdelay : Option (Nat × Int × Int × Int)
  meanPath : Option Int
  syncSeq : Nat
  announceSeq : Nat
  delaySeq : Nat
  lastSync : Nat
  lastAnnounce : Nat
  lastDelay : Nat
  /-- L1_SYNC: the partner's last TLV octets and their instant, own sequence and last sending (08 R210). -/
  l1 : Option Nat
  l1At : Nat
  /-- The coherence bits of the last TLV sent. -/
  l1Own : Nat
  l1Seq : Nat
  lastL1 : Nat
  deriving DecidableEq, Repr, Inhabited

/-- An EVT pin (08 R215). -/
structure EvtPin where
  level : Bool
  lastRise : Option Nat
  lastFall : Option Nat
  dropped : Nat
  deriving DecidableEq, Repr, Inhabited

/-- An interval unit (08 R217 to R219). -/
structure Interval where
  /-- 0 IDLE, 1 ARMED, 2 TIMING. -/
  state : Nat
  /-- Latched IU_CFG words. -/
  cfg : List Nat
  armedFine : Nat
  /-- Edges stamped since arming: pin, rising, fine units. -/
  edges : List (Nat × Bool × Nat)
  /-- Start edge in fine units; device time of the start. -/
  start : Option Nat
  startDev : Int
  overrunPend : Bool
  holdEnd : Option Nat
  /-- Last result: flags word [12:8], interval, start time, count. -/
  flags : Nat
  interval : Nat
  resDev : Int
  results : Nat
  deriving DecidableEq, Repr, Inhabited
/-! ### Quires and the stitch links (01, 17) -/

/-- A quire as the spine knows it (01, 17). -/
structure Quire where
  /-- 0 IN_SERVICE, 1 DRAINING, 2 OUT_OF_SERVICE. -/
  svc : Nat
  /-- Strobe delay in 4 ps steps (01 R25). -/
  delay : Nat
  crcFails : Nat
  replays : Nat
  lost : Nat
  late : Nat
  longest : Nat
  /-- Losses of the last second: instant and frame sequence number (01 R22). -/
  lossAt : List (Nat × Nat)
  /-- Frames that wait for a replay: sequence number, attempts, instant of the first (01 R21). -/
  tries : List (Nat × Nat × Nat)
  /-- The strobe's round trip has been measured since the start; instant of the last 4 ps step (01 R25). -/
  measured : Bool
  deskewAt : Nat
  /-- Modulators, keepers and witness run. -/
  running : Bool
  /-- Digest of the microcode it runs; it runs loaded microcode; load in progress. -/
  digest : List Byte
  loaded : Bool
  loading : Option Req
  /-- Drain: edge and requester; re-entry: step, edge, requester, SWEEP (17 R423, R427). -/
  drainEdge : Option Nat
  drainReq : Option Req
  drainAcks : List Nat
  outSince : Nat
  reentry : Nat
  reentryEdge : Nat
  reentryReq : Option Req
  sweep : Bool
  /-- Channels the sweep has still to calibrate (17 R429). -/
  sweepLeft : List Nat
  /-- The warming state at the drain edge (17 R430). -/
  warmHeld : Nat
  /-- Blocks kept for the quire while it is out of service (01 R34). -/
  held : List Staged
  deriving DecidableEq, Repr, Inhabited
/-! ### Front end, excitation and tone (03) -/

/-- A test pulse that runs or has run and is not yet published (03 R82). -/
structure Pulse where
  /-- Device time of the opening; the width W in 2^-16 ns. -/
  opened : Int
  width : Nat
  /-- 0 open, 1 closed and measured, 2 result known. -/
  phase : Nat
  preSense : Nat
  preRaw : List Int
  iPulse : Nat
  senseMid : Nat
  sensePost : Nat
  stuck : Nat
  stuckPair : Nat
  rtd : Bool
  /-- Result code once known (03 R83); requester of SAFE_PULSE_NOW. -/
  result : Nat
  now_ : Option Req
  deriving DecidableEq, Repr, Inhabited

/-- A hold of a group's sinc outputs (03 R76, R78): sinc numbers, inclusive; U from this number on. -/
structure Hold where
  first : Int
  last : Int
  ufrom : Option Int
  deriving DecidableEq, Repr, Inhabited

/-- An excitation group (03 R67 to R83). -/
structure ExcGroup where
  /-- Closed as its mode says; open when OFF, TRIPPED, in a pulse. -/
  tripped : Bool
  senseLow : Bool
  /-- PHASE, and the device time from which it holds: a microsecond after the edge (R68). -/
  phase : Nat
  phaseFrom : Int
  /-- Instant of the last switch closure (R74); device times of the switching events (R76, R86). -/
  closedAt : Nat
  events : List Int
  sense : Nat
  iMeas : Nat
  /-- Device time at which blanking ends. -/
  blankEnd : Int
  pulse : Option Pulse
  pulseResult : Nat
  pulseCount : Nat
  holds : List Hold
  /-- The sinc numbers that the last test pulse on the group holds (15 R383). -/
  pulseHold : Option (Int × Int)
  /-- The safety schedule of the pulsed group (15 R385 to R387). -/
  nextPulse : Option Int
  lastPass : Int
  schedDue : Bool
  pulseFailed : Bool
  overdue : Bool
  nowReq : Option Req
  nowAt : Int
  deriving DecidableEq, Repr, Inhabited

/-- A result of a tone integration (03 R86, R87), in milliohm; `limited` says that the injector reached compliance. -/
structure ToneReading where
  channel : Nat
  re : Int
  im : Int
  limited : Bool
  deriving DecidableEq, Repr, Inhabited

/-- A tone scan of a quire (03 R85). -/
structure ToneScan where
  /-- Channels not yet measured, rising; the round in hand. -/
  remaining : List Nat
  round : List Nat
  roundStart : Nat
  /-- First raw sinc output after the tone has settled (R86). -/
  first : Int
  capture : Bool
  deriving DecidableEq, Repr, Inhabited

/-- The tone side of a quire and its results (03 R85 to R88). -/
structure Tone where
  scan : Option ToneScan
  captureNext : Bool
  lastStart : Option Nat
  deriving DecidableEq, Repr, Inhabited

/-- TONE_RESULT of a channel (03 R87). -/
structure ToneResult where
  re : Int
  im : Int
  base : Int
  cls : Nat
  seconds : Nat
  deriving DecidableEq, Repr, Inhabited
/-! ### Converters, witness and filter (04, 05) -/

/-- Why sinc outputs are marked (03 R74 to R81, 04 R91 to R118, 01 R29, 17 R424); the holds of 03 R76 are with the
excitation groups. -/
inductive MarkKind where
  /-- Beyond the nominal or the common-mode range, or an OVERRANGE stand-in conversion: O (03 R62, R63, 04 R115). -/
  | over
  /-- A ratiometric channel while SENSE_LOW lasts: O (03 R71). -/
  | senseLow
  /-- Measured while the group is TRIPPED: T (03 R74). -/
  | tripped
  /-- A stand-in value: S (04 R117). -/
  | standin
  /-- A stand-in value of a range change: S up to its last replaced output, U after (03 R79). -/
  | range
  /-- Held without a stand-in: U (03 R80, R81), or replaced at a re-phase (04 R94). -/
  | heldU
  /-- Replaced at a re-phase: U, which the limit watch ignores (04 R94, 15 R380). -/
  | rephase
  /-- Replaced after an end-level reset: O and U (04 R91). -/
  | endLevel
  /-- Held at the last stand-in value: S and U (04 R116, R118). -/
  | heldSU
  /-- Lost at the spine: U and Q (01 R29). -/
  | lost
  /-- After the drain edge: U and Q (17 R424). -/
  | out
  deriving DecidableEq, Repr, Inhabited

/-- A run of marked sinc outputs, by sinc number; open-ended when `last` is none. -/
structure Mark where
  kind : MarkKind
  first : Int
  last : Option Int
  /-- The channel's stand-in held position A when the run began, one conversion a period (04 R115). -/
  atA : Bool := false
  deriving DecidableEq, Repr, Inhabited

/-- A FIR slot of a channel (05 R131, R134): its key and users. -/
structure Slot where
  resp : Nat
  k : Nat
  even : Bool
  users : List Nat
  /-- Allocation edge: no FIR input before this sinc number (05 R136). -/
  from_ : Int
  /-- 0 or 1, its place in FILT_SLOTS (05 R134). -/
  pos : Nat
  deriving DecidableEq, Repr, Inhabited

/-- A slew of a channel's composite coefficients (07 R175): old and new (o, g), start instant, length. -/
structure Slew where
  oldO : Rat
  oldG : Rat
  newO : Rat
  newG : Rat
  from_ : Nat
  len : Nat
  big : Bool
  deriving DecidableEq, Repr, Inhabited

/-- Why samples carry Q (02 R50; 07 R160, R165, R171, R185): a hard failure until the new F_ens, an outlier in the median, an
unstable island, a range that is overdue, a rejected range. -/
inductive QWhy where
  | hard
  | outlier
  | unstable
  | overdue (range : Nat)
  | rejected (range : Nat)
  deriving DecidableEq, Repr, Inhabited

/-- Sinc numbers from `first` up to but not with `last` whose samples carry Q; open while `last` is none. -/
structure QSpan where
  why : QWhy
  first : Int
  last : Option Int
  deriving DecidableEq, Repr, Inhabited

/-- What runs for a channel's calibration (07 R169 to R173). -/
structure CalRun where
  /-- 1 QUEUED, 2 RUNNING, 3 WAITING_SAFETY. -/
  state : Nat
  since : Nat
  selfTest : Bool
  /-- Requester of CAL_CHANNEL, if any. -/
  req : Option Req
  range : Nat
  /-- Number of t_g, the first replaced output, and the segments 0 to 2 that are repeated, in order (07 R169, R173). -/
  first : Int
  repeats : List Nat
  deriving DecidableEq, Repr, Inhabited

/-- Everything the hub holds of one channel. -/
structure Chan where
  /-- Sinc outputs that entered the filter, newest first, in 5 V / 2^35; number of the newest; number of the first
  one that counts as history (05 R136). -/
  hist : List Int
  /-- The same outputs as the modulator gave them, on the same scale, before holds, stand-ins and signs (03 R76, R86). -/
  raw : List Int
  histNew : Int
  histFirst : Int
  marks : List Mark
  /-- GAIN before the last range change. -/
  oldGain : Nat
  slots : List Slot
  /-- Modulator end-level resets of the last second (04 R91). -/
  resets : List Nat
  /-- Plausibility (04 R109, R110): state, run, in the direction of disagreement, last d, counts; the hold instants
  between which W is set. -/
  wstate : Nat
  wrun : Nat
  wdir : Bool
  lastD : Int
  visits : Nat
  disagreeing : Nat
  wFrom : List (Int × Option Int)
  /-- Calibration in force per range, and what this channel's run is doing (07). -/
  cal : Tab RangeCal
  /-- Slews by range, newest first (07 R175). -/
  slews : Tab (List Slew)
  run : Option CalRun
  lastOutcome : Nat
  lastRange : Nat
  calCount : Nat
  /-- Ranges whose last calibration or self-test failed (07 R171). -/
  qs : List QSpan
  tone : ToneResult
  deriving DecidableEq, Repr, Inhabited

/-- One conversion result of a witness (04 R95, R104). -/
structure Conversion where
  instant : Nat
  code : Nat
  value : Int
  gain : Nat
  status : Nat
  deriving DecidableEq, Repr, Inhabited

/-- A stand-in that holds a position (04 R115, R116). -/
structure StandIn where
  channel : Nat
  /-- 0 range change, 1 calibration, 2 permanent. -/
  kind : Nat
  first : Int
  last : Option Int
  suspended : Bool
  deriving DecidableEq, Repr, Inhabited

/-- An injected conversion (04 R102 to R104). -/
structure Injection where
  id : Nat
  req : Req
  channel : Nat
  count : Nat
  settle : Nat
  /-- 0 NOW, 1 AT_TIME, 2 EVT_PULSE. -/
  start : Nat
  evt : Nat
  wMin : Nat
  wMax : Nat
  delay : Nat
  deadline : Nat
  /-- First hold instant, in witness ticks since the epoch, once fixed. -/
  hold : Option Int
  /-- When the scheduler got it: at its acceptance, or at the trailing edge of its pulse. -/
  due : Nat
  /-- Results so far, oldest first. -/
  done : List Conversion
  /-- Leading edge of the pulse being timed, in fine units. -/
  lead : Option Nat
  deriving DecidableEq, Repr, Inhabited

/-- Host simultaneous mode (04 R114). -/
structure Simul where
  stream : Nat
  period : Nat
  ends : Option Nat
  lists : List (List Nat)
  session : Nat
  deriving DecidableEq, Repr, Inhabited

/-- A quire's witness (04 R95 to R118). -/
structure Witness where
  /-- 0 IDLE, 1 ROUND_ROBIN, 2 SIMULTANEOUS, 3 WITNESS_FAULT, 4 OUT_OF_SERVICE. -/
  state : Nat
  posA : Option StandIn
  posB : Option StandIn
  /-- The permanent stand-in's channel, kept while it is interrupted (17 R434). -/
  perm : Option Nat
  /-- First sinc number of a permanent stand-in that has been accepted and has not started (17 R431). -/
  permAt : Option Int
  /-- When that stand-in was accepted. -/
  permReq : Nat
  injections : List Injection
  cycles : Nat
  skips : Nat
  failRow : Nat
  passRow : Nat
  /-- Values recorded at the last calibration, in 10 nV; the witness's own offset and gain correction (07 R174). -/
  ratioTap : Int
  vref : Int
  calAt : Nat
  calTheta : Int
  zero : Rat
  gainErr1 : Rat
  gainErr16 : Rat
  /-- The tick at which the last slot ended, and the round robin's next entry of 144 (04 R99). -/
  slotEnd : Int
  rr : Nat
  /-- The device time to which simultaneous mode of the start still lasts after it was left (04 R113). -/
  simulUntil : Int
  /-- When a channel calibration last gave the witness back. -/
  calFreed : Nat
  /-- Since when the die has been TRIG_MK away from the last witness calibration (07 R174). -/
  calFar : Option Nat
  deriving DecidableEq, Repr, Inhabited

/-- What one quire has sent of an open sinc period. -/
structure OpenQuire where
  quire : Nat
  /-- Modulator number and its sinc output word (04 R89). -/
  outs : List (Nat × Int)
  /-- Stand-in conversions: channel, 10 nV values, whether one was OVERRANGE. -/
  standins : List (Nat × List Int)
  /-- The three die temperatures in mK and the island's departure from 90 C in microkelvin; none: not received. -/
  temps : Option (List Int × Int)
  /-- Modulators whose input lay beyond its common-mode range (03 R63). -/
  common : List Nat
  deriving DecidableEq, Repr, Inhabited

/-- A sinc period open at the spine (01 R29). -/
structure OpenPeriod where
  number : Int
  firstAt : Nat
  quires : List OpenQuire
  deriving DecidableEq, Repr, Inhabited

/-- The spine's side of the converters (01 R29, 04, 05). -/
structure Conv where
  opens : List OpenPeriod
  /-- Number of the last closed period. -/
  closed : Option Int
  injectIds : Nat
  simul : Option Simul
  deriving DecidableEq, Repr, Inhabited
/-! ### Reference ensemble, calibration and ageing (07) -/

/-- A member of an ensemble (07 R164, R166); deviations in 0.001 ppm. -/
structure Member where
  /-- 0 GOOD, 1 OUTLIER, 2 CORRECTED, 3 RETIRED, 4 DISCONNECTED. -/
  state : Nat
  k : Rat
  d : Rat
  /-- d at earlier comparisons, newest first: quick and full (07 R168). -/
  quick : List Rat
  full : List Rat
  /-- d - k at the full comparisons of the trend line, newest first, at most 720. -/
  trend : List Rat
  beyond : Nat
  /-- Comparisons since entry into OUTLIER, its residuals, and the times it became OUTLIER in its life. -/
  watch : Nat
  residuals : List Rat
  entries : Nat
  deriving DecidableEq, Repr, Inhabited

/-- An accepted transfer (07 R177, R183). -/
structure ExtTransfer where
  seconds : Nat
  kExt : Rat
  /-- U_V / VALUE_V in ppm, transfer uncertainty in ppm. -/
  uRel : Rat
  uTr : Rat
  deriving DecidableEq, Repr, Inhabited

/-- An ensemble with its keepers, heater and planner: one per quire (07). -/
structure Ensemble where
  heaterOn : Bool
  /-- 1 COLD, 2 WARMING, 3 STABLE_1PPM, 4 STABLE_FULL, 5 HEATER_FAULT (02 R49). -/
  warm : Nat
  /-- Island temperature - 90 C in microkelvin; the three die sensors' mean in mK; whether those words were lost. -/
  island : Int
  theta : Int
  /-- Sums of the three die temperatures in mK, by the sinc number from which they stand, newest first; numbers whose words
  were lost; the first number of the quire's present service (06 R153). -/
  thetas : List (Int × Int)
  thetaLost : List Int
  thetaFrom : Int
  /-- Instant of leaving COLD. -/
  leftCold : Nat
  members : List Member
  fEns : Rat
  kExt : Rat
  uEns : Rat
  inMedian : Nat
  /-- Q of the quire's samples by instant (07 R160, R165, R185; 02 R50). -/
  qs : List QSpan
  /-- OUT_PPB and U_LIMIT as the last comparison found them (07 R186). -/
  outPpb : Nat
  uLimits : List Nat
  lastComp : Nat
  /-- Comparison that runs: 1 quick, 2 full; its start. -/
  comparing : Nat
  compStart : Nat
  nextFull : Option Nat
  lastQuick : Nat
  fullCount : Nat
  refShift : Bool
  warm1 : Nat
  warm2 : Nat
  ratios : List Rat
  rInt : Rat
  ratioU : List Rat
  /-- Factory drift model of the -M grade: a in ppm per year, tau in years (07 R184). -/
  drift : Option (Rat × Rat)
  /-- Planner (07 R183 to R185): accepted transfers, model (0 ASSUMED, 1 FACTORY, 2 OBSERVED), ranges warned and due. -/
  transfers : List ExtTransfer
  model : Nat
  warned : List Nat
  due : List Nat
  /-- Growth-ring counts of the day: comparisons, calibrations, values (07 R181). -/
  dayComp : Nat
  dayCal : Nat
  dayDev : List (List Rat)
  dayAvg : List Rat
  dayLast : Nat
  /-- The day's island departures in microkelvin: how many, their sum, the least and the greatest. -/
  dayIsl : Nat × Int × Int × Int
  deriving DecidableEq, Repr, Inhabited

/-- CAL_EXT_STD that runs (07 R177): quires to do, those done with outcome, new K_ext and uncertainty, what K_ext was before,
averaging per polarity in seconds, and when the quire at hand began. -/
structure ExtStd where
  req : Req
  todo : List Nat
  done : List (Nat × Nat × Int × Nat)
  force : Bool
  cert : Nat
  value : Rat
  uV : Rat
  valueBits : Nat
  uBits : Nat
  olds : List Int
  integ : Nat
  since : Nat
  deriving DecidableEq, Repr, Inhabited

/-- Outcome of one channel of a CAL_CHANNEL (14 R357). -/
structure CalJob where
  req : Req
  /-- Channels in the order named, with outcome, range, offset and gain change once done. -/
  items : List (Nat × Option (Nat × Nat × Int × Int))
  deriving DecidableEq, Repr, Inhabited

/-- An ENS_COMPARE_NOW (14 R357): quires whose comparison is still to come, and those that did not run. -/
structure CompJob where
  req : Req
  todo : List Nat
  notRun : List Nat
  deriving DecidableEq, Repr, Inhabited

/-- The calibration and ageing manager (07). -/
structure Cal where
  ens : Tab Ensemble
  /-- Channels waiting, in order of service: command requests first (07 R172). -/
  queue : List (Nat × Bool)
  jobs : List CalJob
  comps : List CompJob
  ext : Option ExtStd
  sealOpen : Bool
  digest : List Byte
  closeSeconds : Nat
  /-- CAL was absent or failed its check at Crown (02 R48). -/
  invalid : Bool
  deriving DecidableEq, Repr, Inhabited
/-! ### Triggers, bookmarks and the group (09) -/

/-- What a condition was at one sample: index, truth, and the position its mark would carry, index and 1/256 of T. -/
structure CondLog where
  index : Nat
  value : Bool
  pos : Nat × Nat
  deriving DecidableEq, Repr, Inhabited

/-- The history of a condition (09 R222, R223). -/
structure Cond where
  value : Bool
  /-- A rising crossing is armed, a falling one. -/
  armed : Bool
  armedDown : Bool
  /-- Last sample evaluated: index and value. -/
  prev : Option (Nat × Rat)
  /-- Samples evaluated on the current grid, newest first, for SLOPE: the last P. -/
  hist : List (Nat × Rat)
  /-- First index since the histories began. -/
  from_ : Option Nat
  pos : Nat × Nat
  /-- Samples that a sequencer has still to evaluate, newest first, and the last one. -/
  log : List CondLog
  deriving DecidableEq, Repr, Inhabited

/-- A mask test that runs (09 R231): the sequencer that started it, its anchor, a violation has occurred. -/
structure MaskTest where
  seq : Nat
  anchor : Nat
  viol : Bool
  deriving DecidableEq, Repr, Inhabited

/-- A mask and the test that runs on it (09 R231). -/
structure MaskT where
  loaded : Bool
  /-- Points of the mask, or reserved for the load in progress. -/
  count : Nat
  loading : Bool
  /-- Upper and lower limit words by point. -/
  points : Tab (Nat × Nat)
  test : Option MaskTest
  /-- Samples that a sequencer has still to evaluate, newest first: index, MASK_VIOL, MASK_PASS. -/
  log : List (Nat × Bool × Bool)
  deriving DecidableEq, Repr, Inhabited

/-- A sequencer (09 R225 to R230). -/
structure Seqr where
  /-- 0 IDLE, 1 ARMED, 2 HALTED. -/
  run : Nat
  state : Nat
  /-- Next index to evaluate. -/
  next : Nat
  /-- Armed AT_INDEX, with no sample evaluated since. -/
  pend : Bool
  cnt0 : Nat
  cnt1 : Nat
  /-- Expiry indices; a timer that has not been started is never true. -/
  tmr0 : Option Nat
  tmr1 : Option Nat
  marks : Nat
  suppressed : Nat
  lastIndex : Nat
  /-- MARK actions up to this index produce no record. -/
  holdoff : Option Nat
  suppBefore : Bool
  /-- A HALT_SEQ violation that it has still to pass: index and mask. -/
  haltAt : Option (Nat × Nat)
  deriving DecidableEq, Repr, Inhabited

/-- A bookmark record, laid out at its emission (09 R232). -/
structure Bookmark where
  kind : Nat
  seq : Nat
  stream : Nat
  fraction : Nat
  channel : Nat
  index : Nat
  instant : Int
  condMet : Nat
  transition : Nat
  fromState : Nat
  toState : Nat
  mflags : Nat
  fireId : Nat
  markId : Nat
  captureId : Nat
  origin : Nat
  deriving DecidableEq, Repr, Inhabited

/-- The trigger engine (09). -/
structure Trg where
  conds : Tab Cond
  masks : Tab MaskT
  seqs : Tab Seqr
  /-- Marks whose sample is not in the store yet (09 R233). -/
  waiting : List Bookmark
  /-- Records of the open BOOKMARK folio and the instant of the first (09 R232). -/
  openRecs : List (List Byte)
  openSince : Nat
  /-- Marks since the start; records in the present device second, and that second (09 R234). -/
  markCount : Nat
  secCount : Nat
  second : Nat
  /-- Suppressed by R234, per source: count, first and last index. -/
  secSupp : Tab (Nat × Nat × Nat)
  /-- EVT edges stamped lately: pin, rising, device time (09 R222). -/
  edges : List (Nat × Bool × Int)
  deriving DecidableEq, Repr, Inhabited

/-- A group message that is repeated (12 R312, R316): port 0-3 as bits of TRG_GROUP PORTS, bytes, times left, next. -/
structure Repeat where
  port : Nat
  origin : Nat
  msg : Nat
  gen : Nat
  fireId : Nat
  bytes : List Byte
  left : Nat
  due : Nat
  deriving DecidableEq, Repr, Inhabited

/-- The group of hubs (09 R236 to R239). -/
structure Group where
  gen : Nat
  /-- 0 DISARMED, 1 ARMED, 2 FIRED. -/
  gstate : Nat
  /-- ONE_SHOT or MULTI. -/
  multi : Bool
  armAt : Int
  disarmAt : Option Int
  fires : Nat
  /-- Earliest accepted fire: instant, origin, channel, FIRE_ID; and the journal's PORT on which it arrived. -/
  best : Option (Int × Nat × Nat × Nat)
  bestPort : Nat
  /-- Fires kept for earlier generations, whose ACCEPT_LATE_MS has not passed (09 R239). -/
  kept : List (Int × Nat × Nat × Nat)
  /-- The generation's one fire has been marked. -/
  decided : Bool
  /-- Tuples remembered for 10 s: origin, msg, gen, fire id, instant of receipt. -/
  seen : List (Nat × Nat × Nat × Nat × Nat)
  /-- Dropped fires by reason since the last report, and messages with a bad HMAC (09 R238). -/
  drops : Tab Nat
  notSent : Nat
  hmacFails : Nat
  /-- Edge e_r of the last step of device time. -/
  lastStep : Option Int
  repeats : List Repeat
  /-- Group messages sent per port; highest COUNT accepted per sender (12 R312). -/
  count : Nat
  peers : List (Nat × Nat × Nat)
  deriving DecidableEq, Repr, Inhabited
/-! ### Serial lanes and Skaing (12) -/

/-- A serial lane (12 R299 to R308). -/
structure Lane where
  /-- 0 DISABLED, 1 IDLE, 2 DEEP, 3 DETECT, 4 TRAINING, 5 UP, 6 LOOPBACK, 7 NO_PARTNER. -/
  state : Nat
  rateNow : Nat
  lock : Bool
  /-- 0 none, 1 NEAR_SERIAL, 2 NEAR_PARALLEL, 3 FAR. -/
  loop : Nat
  fecNow : Nat
  /-- Negotiated Skaing version. -/
  ver : Nat
  lockLosses : Nat
  trainAttempts : Nat
  prbsErrors : Nat
  eyeH : Nat
  eyeV : Nat
  scanSeconds : Nat
  lossAt : Nat
  trainSince : Nat
  /-- RATE and FEC as the training that runs, or ran last, took them (12 R299). -/
  rateSet : Nat
  fecSet : Nat
  upSince : Nat
  downSince : Nat
  faultRaised : Bool
  /-- A scan runs: since when, its requester if it was commanded. -/
  scan : Option (Nat × Option Req)
  lastScan : Nat
  lowScans : Nat
  /-- Lock losses of the last hour. -/
  losses : List Nat
  /-- Highest rate code tried after a step-down, plus 1; 0: no step-down (12 R308). -/
  cap : Nat
  loopReq : Option Req
  loopEnd : Nat
  deriving DecidableEq, Repr, Inhabited

/-- A Skaing endpoint (12 R315 to R318, 08 R213). -/
structure Skaing where
  fseq : Nat
  crcDrops : Nat
  lastRx : Nat
  lastLink : Nat
  lastTime : Nat
  /-- Negotiation: 0 none, 1 sending LINK frames at the base rate, 2 exchanging PRBS31, 3 UP. -/
  phase : Nat
  rate : Nat
  prbsFrom : Nat
  peerMin : Nat
  peerMax : Nat
  peerRate : Nat
  peerTag : Nat
  peerHeard : Bool
  /-- This end has sent a LINK frame in the negotiation that runs. -/
  linkSent : Bool
  mismatch : Bool
  /-- TIME exchange: this end's last TX_TIME, the partner's last TX_TIME and the arrival of that frame here,
  and the partner's role and servo state. -/
  tx : Int
  peerTx : Int
  peerRx : Int
  /-- QUAL of both as received. -/
  txQual : Nat
  rxQual : Nat
  heardTime : Bool
  peerRole : Nat
  peerState : Nat
  delay : Option Int
  deriving DecidableEq, Repr, Inhabited
/-! ### The limit watch (15) -/

/-- A safety pair's member as the island sees it (15 R379 to R386). -/
structure SMember where
  /-- Unavailability cause (15 R383); 0 available. -/
  cause : Nat
  failed : Bool
  overdue : Bool
  reconfig : Bool
  /-- Main path: decimator history counts from this sinc number (15 R392, 05 R136). -/
  from_ : Int
  /-- Last witness result in 10 nV, OVERRANGE as clamped, and whether the present frame delivered one. -/
  root : Int
  fresh : Bool
  /-- Last value on the main path and its VALUE word. -/
  value : Rat
  word : Nat
  deriving DecidableEq, Repr, Inhabited

/-- The counts that one path keeps of a pair: discrepancy count, agreement run, consecutive evaluations outside the limits
(15 R373, R382). -/
structure PathCount where
  count : Nat
  run : Nat
  limA : Nat
  limB : Nat
  deriving DecidableEq, Repr, Inhabited

/-- A safety pair (15 R373, R381 to R384, R395). -/
structure SPair where
  /-- 0 DISABLED, 1 NORMAL, 2 DEGRADED, 3 TRIP_CONDITION. -/
  state : Nat
  a : SMember
  b : SMember
  /-- Counts on the witness path and on the main path, and the trip conditions of each (15 R381). -/
  wit : PathCount
  path : PathCount
  witTrip : Nat
  pathTrip : Nat
  /-- Evaluations in a row that count towards rejoining (15 R384). -/
  rejoin : Nat
  /-- Instant at which the degraded-mode timer started; it has run out. -/
  degradedAt : Option Nat
  expired : Bool
  /-- Trip conditions present: bits as CAUSES (15 R396). -/
  trip : Nat
  trips : Nat
  /-- 0 WITNESS, 1 MAIN; evaluations of the overlap left (15 R381). -/
  main : Bool
  overlap : Nat
  /-- Evaluated within limits and without BOTH_UNAVAILABLE since reset (15 R391). -/
  proven : Bool
  deriving DecidableEq, Repr, Inhabited

/-- A safety group (15 R389 to R391, R396). -/
structure SGroup where
  /-- 0 STARTING, 1 HEALTHY, 2 DEGRADED, 3 TRIPPED, 4 LATCHED. -/
  state : Nat
  /-- Group causes present and causes latched, bits as CAUSES. -/
  present : Nat
  latched : Nat
  trips : Nat
  tripSeconds : Nat
  tripPair : Nat
  /-- Instant since which no cause has been present. -/
  clearSince : Nat
  /-- Outputs: toggling, level of A (B is its opposite), half-periods driven. -/
  toggling : Bool
  levelA : Bool
  edges : Nat
  readAt : Nat
  missA : Nat
  missB : Nat
  /-- The last check of R378 found a member of the group at odds with the image. -/
  configBad : Bool
  deriving DecidableEq, Repr, Inhabited

/-- The safety island (15, 14 R358 to R361). -/
structure Safety where
  /-- Section 1 and section 2 in force: words by block key (CORR copies under 0x0602 and the slot number). -/
  image : List (BlockKey × Nat)
  corr : Tab (List Nat)
  /-- CRC2 has failed or SAFE is absent (02 R43). -/
  corrOk : Bool
  /-- CRC1 over the island's own copy has failed (15 R378). -/
  crcBad : Bool
  /-- Lock open: the image as worked on. -/
  lockOpen : Bool
  working : List (BlockKey × Nat)
  workingCorr : Tab (List Nat)
  /-- A new image waits for the next evaluation. -/
  adopt : Bool
  pairs : Tab SPair
  groups : Tab SGroup
  /-- Handover: the instant from which pulse periods count (15 R385). -/
  handover : Option Nat
  lastEval : Nat
  deriving DecidableEq, Repr, Inhabited
/-! ### The whole -/

/-- The state of the hub and the queue of commands that wait. -/
structure State where
  part : PartId
  flash : Flash
  boot : Boot
  faults : Faults
  jrn : Journal
  cz : Cuzan
  host : HostPort
  store : Store
  time : TimeS
  ptp : Tab PtpPort
  evt : Tab EvtPin
  iu : Tab Interval
  quires : Tab Quire
  exc : Tab ExcGroup
  tone : Tab Tone
  chans : Tab Chan
  wit : Tab Witness
  conv : Conv
  cal : Cal
  trg : Trg
  group : Group
  lanes : Tab Lane
  skaing : Tab Skaing
  safe : Safety
  /-- Writable words of the parameter blocks that differ from their reset value, keys rising (13 R338). -/
  cfg : List (BlockKey × Nat)
  /-- The words in force before each commit edge, by the edge's sinc number, newest first: outputs before an edge are
  made under them (01 R32). -/
  past : List (Int × List (BlockKey × Nat))
  /-- The present instant, 2^-16 ns since State.reset (log entry 3). -/
  now : Nat
  /-- MODEL: draws of random numbers made so far; the hub's HUB_NONCE is Config.nonce of it (log entry 10). -/
  draw : Nat
  /-- What has left the hub, newest first (log entry 3). -/
  out : List Out
  /-- The commands that wait, first in, first out. -/
  pending : List Instr
  deriving DecidableEq, Repr

/-- An ensemble before its set is loaded: unity scale, the design values of R168 and R159 (07). -/
def Ensemble.init : Ensemble := { (default : Ensemble) with fEns := 1, kExt := 1, rInt := 1000, warm1 := 900, warm2 := 2400, outPpb := 300
                                                            uLimits := [0, 0, 0, 0, 0]
                                                            qs := [{ why := .unstable, first := 0, last := none }] }

/-- A safety group that nothing has happened to: STARTING, TRIP_PAIR 0xFF (15 R391, R396). -/
def SGroup.init : SGroup := { (default : SGroup) with tripPair := 255 }

/-- An MSI-X entry at reset: masked (11 R295; log entry 17). -/
def MsixEntry.init : MsixEntry := { (default : MsixEntry) with masked := true }

/-- Entry 0 of the journal: MANUFACTURE with the serial number, the grade and the quires (16 R405, R407; log entry 16). -/
def manufacture : JEntry :=
  { (default : JEntry) with kind := 0xFF00, port := 6, role := 255, jflags := 2, time := zeros 16, prevHash := zeros 32,
                            body := le 8 0 ++ [0, 7, 0, 0] }

/-- The flash as the factory leaves it, with no image programmed (log entry 16). -/
def Flash.init : Flash :=
  { (default : Flash) with safeOk1 := true, safeOk2 := true, cal := none,
                           journal := { (default : JournalFlash) with sectors := [[manufacture]] } }

/-- The part the model stands for: HKA-896-S (log entry 2). -/
def PartId.init : PartId := { (default : PartId) with quires := 7 }

/-- The hub held in power-on reset, every rail outside its window, with nothing placed (02 R36, R54; log entries 1 and 2). -/
def State.reset : State :=
  { part := PartId.init
    flash := Flash.init
    boot := { (default : Boot) with inReset := true, newCause := 1, cause := 1 }
    faults := default
    jrn := default
    cz := { (default : Cuzan) with keys := { (default : Keys) with anonEn := true } }
    host := default
    store := default
    time := { (default : TimeS) with unsetReason := 1 }
    ptp := []
    evt := []
    iu := []
    quires := []
    exc := []
    tone := []
    chans := []
    wit := []
    conv := default
    cal := default
    trg := default
    group := default
    lanes := []
    skaing := []
    safe := default
    cfg := []
    past := []
    now := 0
    draw := 0
    out := []
    pending := [] }

end Sys2Proof.Machine
end

