-- ==== Sys2Proof/Machine/Ops.lean ====
section
/-! DEFINITION. The operations every family shares: the clock, device time and its stamps, what leaves the hub,
and the numbering of channels, groups and quires. -/

namespace Sys2Proof.Machine

/-! ### Units of 2^-16 ns (00 R8, 08 R193) -/

/-- One tick of the timebase: 2.44140625 ns. -/
def tickU : Nat := 160000
/-- One strobe period: 156.25 ns. -/
def strobeU : Nat := 10240000
/-- One sinc period: 3.90625 microseconds. -/
def sincU : Nat := 256000000

/-- One witness tick, 19.53125 ns; 200 of them make a sinc period (04 R95). -/
def witTickU : Nat := 1280000
/-- One microsecond, one millisecond, one second. -/
def usU : Nat := 65536000
def msU : Nat := 65536000000
def secU : Nat := 65536000000000

/-! ### The clock -/

/-- The instant of a command: the present never moves back (log entry 3). -/
def State.tick (t : Nat) (s : State) : State := { s with now := max s.now t }

/-- The raw count at the present; 0 before REF_IN first qualifies (08 R190). -/
def rawNow (s : State) : Nat :=
  match s.time.rawStart with
  | none => 0
  | some t => (s.now - t) / tickU

/-- Device time, in 2^-16 ns since the epoch, at a raw count in fine units of a sixteenth of a tick (08 R193, R215). -/
def devFine (s : State) (fine : Int) : Int :=
  s.time.ancDev + (fine - 16 * (s.time.ancRaw : Int)) * 10000 * (2 ^ 48 + s.time.rate) / 2 ^ 48

/-- The anchor and rate that were in force at a raw count in fine units (08 R193). -/
def anchorAt (s : State) (fine : Int) : Nat × Int × Int :=
  let now := (s.time.ancRaw, s.time.ancDev, s.time.rate)
  if 16 * (s.time.ancRaw : Int) ≤ fine then now
  else (s.time.anchors.find? fun a => decide (16 * (a.1 : Int) ≤ fine)).getD (s.time.anchors.getLast?.getD now)

/-- The device time of a raw count captured earlier, under the anchor in force when it was captured (08 R193). -/
def devStamp (s : State) (fine : Int) : Int :=
  let a := anchorAt s fine
  a.2.1 + (fine - 16 * (a.1 : Int)) * 10000 * (2 ^ 48 + a.2.2) / 2 ^ 48

/-- The same for a raw count in ticks and a phase in steps of 16 ps, as PTP and Skaing stamp (08 R211, R213). -/
def devPhase (s : State) (raw phase : Nat) : Int := devStamp s (16 * (raw : Int)) + ((phase * 1048576 / 1000 : Nat) : Int)

/-- The phase of the present within its tick, in steps of 16 ps (08 R211). -/
def tickPhase (s : State) : Nat := ((s.now - s.time.rawStart.getD 0) % tickU) * 1000 / 1048576

/-- Device time of a departure at the present, its phase interpolated to 16 ps (08 R211, R213). -/
def devDeparts (s : State) : Int := devPhase s (rawNow s) (tickPhase s)

/-- Device time at a raw count (08 R193). -/
def devRaw (s : State) (raw : Nat) : Int := devFine s (16 * (raw : Int))

/-- Device time now. -/
def devNow (s : State) : Int := devRaw s (rawNow s)

/-- Whole seconds of a device time. -/
def devSec (x : Int) : Nat := (x / (secU : Int)).toNat

/-- Low 32 bits of the device seconds now; 0 while time is unset (08 R198). -/
def secondsNow (s : State) : Nat := if s.time.state = 0 then 0 else devSec (devNow s) % 2 ^ 32

/-- A device time as DT16 with the given QUAL (08 R192). -/
def dt16 (x : Int) (qual : Nat) : List Byte :=
  leS 8 (x / (secU : Int)) ++ le 4 ((x % (secU : Int)).toNat / 65536) ++ le 2 ((x % (secU : Int)).toNat % 65536)
    ++ le 2 qual

/-- DT16 of a device time with the servo state now as QUAL. -/
def stampOf (s : State) (x : Int) : List Byte := dt16 x s.time.state

/-- DT16 of the present. -/
def stampNow (s : State) : List Byte := stampOf s (devNow s)

/-- The device time a DT12 holds; none when NANOSECONDS is 10^9 or more (08 R192). -/
def readDt12 (bs : List Byte) : Option Int :=
  if fld 8 4 bs < 1000000000 then some (fld 0 8 bs * secU + fld 8 4 bs * 65536 : Nat) else none

/-- The device time a DT16 parameter holds; none when NANOSECONDS or QUAL is out of place (08 R192). -/
def readDt16 (bs : List Byte) : Option Int :=
  if fld 8 4 bs < 1000000000 ∧ fld 14 2 bs = 0 then
    some (fld 0 8 bs * secU + fld 8 4 bs * 65536 + fld 12 2 bs : Nat)
  else none

/-- Time since reset release in 2^-16 ns, on the safety oscillator whose rate the spec leaves within 3 per cent
(02 R54, log entry 11). -/
def sinceRelease (s : State) : Nat :=
  match s.boot.release with
  | none => 0
  | some t =>
    let ppm := clampInt (-30000) 30000 (Config.safetyOscPpm t)
    (((s.now - t : Nat) : Int) * (1000000 + ppm) / 1000000).toNat

/-- The number of the sinc instant at or before a device time; instants are whole multiples of the sinc period on
the grid (04 R92, R94). -/
def sincFloor (x : Int) : Int := x / (sincU : Int)

/-- The number of the first sinc instant at or after a device time. -/
def sincCeil (x : Int) : Int := -((-x) / (sincU : Int))

/-- The first strobe edge at or after a device time (02 R32). -/
def strobeCeil (x : Int) : Int := -((-x) / (strobeU : Int))

/-! ### What leaves the hub -/

/-- The hub sends something. -/
def emit (o : Out) (s : State) : State := { s with out := o :: s.out }

/-- The hub sends several things in order. -/
def emitAll (l : List Out) (s : State) : State := l.foldl (fun a o => emit o a) s

/-- A message to a quire over the sideband. -/
def toQuire (q kind arg : Nat) (s : State) : State := emit (.sideband q kind arg) s

/-! ### Numbering (01 R27) -/

/-- Quire of a channel code. -/
def quireOf (c : Nat) : Nat := c / 128

/-- Excitation group of a channel code. -/
def groupOf (c : Nat) : Nat := c / 4

/-- Channels the variant populates. -/
def chanCount (s : State) : Nat := 128 * s.part.quires

/-- Excitation groups the variant populates. -/
def groupCount (s : State) : Nat := 32 * s.part.quires

/-- A populated channel code CH0 to CH895. -/
def isChan (s : State) (c : Nat) : Bool := decide (c < chanCount s)

/-- The quires of the variant. -/
def quireList (s : State) : List Nat := List.range s.part.quires

/-- A quire's record. -/
def quire (s : State) (q : Nat) : Quire := s.quires.get q default

/-- Quire q of the variant is in service: a DRAINING quire still is (17 R422). -/
def inService (s : State) (q : Nat) : Bool := decide (q < s.part.quires) && decide ((quire s q).svc < 2)

/-- The quires in service. -/
def servingQuires (s : State) : List Nat := (quireList s).filter (inService s)

/-! ### Records by number -/

def chan (s : State) (c : Nat) : Chan := s.chans.get c default
def setChan (c : Nat) (v : Chan) (s : State) : State := { s with chans := s.chans.put c v }
def setQuire (q : Nat) (v : Quire) (s : State) : State := { s with quires := s.quires.put q v }
def excOf (s : State) (e : Nat) : ExcGroup := s.exc.get e default
def setExc (e : Nat) (v : ExcGroup) (s : State) : State := { s with exc := s.exc.put e v }
def witOf (s : State) (q : Nat) : Witness := s.wit.get q default
def setWit (q : Nat) (v : Witness) (s : State) : State := { s with wit := s.wit.put q v }
def toneOf (s : State) (q : Nat) : Tone := s.tone.get q default
def setTone (q : Nat) (v : Tone) (s : State) : State := { s with tone := s.tone.put q v }
def ensOf (s : State) (q : Nat) : Ensemble := s.cal.ens.get q Ensemble.init
def setEns (q : Nat) (v : Ensemble) (s : State) : State := { s with cal.ens := s.cal.ens.put q v }
def stream (s : State) (n : Nat) : Stream := s.store.streams.get n default
def setStream (n : Nat) (v : Stream) (s : State) : State := { s with store.streams := s.store.streams.put n v }
def ring (s : State) (r : Nat) : Ring := s.host.rings.get r { (default : Ring) with log2 := 8, intCount := 1 }
def setRing (r : Nat) (v : Ring) (s : State) : State := { s with host.rings := s.host.rings.put r v }
def window (s : State) (w : Nat) : Window := s.host.windows.get w { (default : Window) with log2 := 12 }
def setWindow (w : Nat) (v : Window) (s : State) : State := { s with host.windows := s.host.windows.put w v }
def msix (s : State) (v : Nat) : MsixEntry := s.host.msix.get v MsixEntry.init
def setMsix (v : Nat) (m : MsixEntry) (s : State) : State := { s with host.msix := s.host.msix.put v m }
def lane (s : State) (l : Nat) : Lane := s.lanes.get l default
def setLane (l : Nat) (v : Lane) (s : State) : State := { s with lanes := s.lanes.put l v }
def skaing (s : State) (x : Nat) : Skaing := s.skaing.get x default
def setSkaing (x : Nat) (v : Skaing) (s : State) : State := { s with skaing := s.skaing.put x v }
def ptpPort (s : State) (p : Nat) : PtpPort := s.ptp.get p default
def setPtp (p : Nat) (v : PtpPort) (s : State) : State := { s with ptp := s.ptp.put p v }
def unit_ (s : State) (u : Nat) : Interval := s.iu.get u default
def setUnit (u : Nat) (v : Interval) (s : State) : State := { s with iu := s.iu.put u v }
def safePair (s : State) (p : Nat) : SPair := s.safe.pairs.get p default
def setPair (p : Nat) (v : SPair) (s : State) : State := { s with safe.pairs := s.safe.pairs.put p v }
def safeGroup (s : State) (g : Nat) : SGroup := s.safe.groups.get g SGroup.init
def setGroup (g : Nat) (v : SGroup) (s : State) : State := { s with safe.groups := s.safe.groups.put g v }
def seqr (s : State) (k : Nat) : Seqr := s.trg.seqs.get k default
def setSeqr (k : Nat) (v : Seqr) (s : State) : State := { s with trg.seqs := s.trg.seqs.put k v }
def cond (s : State) (k : Nat) : Cond := s.trg.conds.get k default
def setCond (k : Nat) (v : Cond) (s : State) : State := { s with trg.conds := s.trg.conds.put k v }
def maskT (s : State) (k : Nat) : MaskT := s.trg.masks.get k default
def setMask (k : Nat) (v : MaskT) (s : State) : State := { s with trg.masks := s.trg.masks.put k v }

/-- The PCIe link is in Recovery: a lane that it uses has lost lock (12 R305). -/
def inRecovery (s : State) : Bool := [0, 1, 2, 3].any fun l => decide ((lane s l).state = 5) && !(lane s l).lock

/-- Requests may be issued on the host port: the link is up and in L0, D0, bus mastering (11 R294, 12 R305). -/
def dmaOk (s : State) : Bool := s.host.linkUp && !inRecovery s && !s.host.d3 && s.host.busMaster

/-- Streams 4 to 31. -/
def streamList : List Nat := span 4 28

/-- The stages (02 R41): Root 1, Trunk 2, Crown 3. -/
def inCrown (s : State) : Bool := decide (s.boot.stage = 3)

/-- Apply a function for each number of a list. -/
def forAll {α : Type} (l : List α) (f : α → State → State) (s : State) : State := l.foldl (fun a x => f x a) s

/-- `f` when the condition holds. -/
def when_ (b : Bool) (f : State → State) (s : State) : State := if b then f s else s

/-- What the command processor does pauses while it restarts (17 R435). -/
def unlessPaused (f : State → State) (s : State) : State := if s.boot.restart.isSome then s else f s

end Sys2Proof.Machine
end

