-- ==== Sys2Proof/Machine/Operands.lean ====
section
/-! DEFINITION. The parameter blocks (13 R338): every field with its bits, access, reset value and range, as the
tables of 03 to 16 give them, and the words in force. -/

namespace Sys2Proof.Machine

/-- Access codes (00 R11); an unlisted bit of a block is reserved. -/
inductive Acc where
  | ro | rw | rs | wo | sl
  deriving DecidableEq, Repr

/-- What a field admits (03 R65, 00 R4). -/
inductive Adm where
  | any
  /-- lo to hi. -/
  | rng (lo hi : Nat)
  /-- 0, or lo to hi. -/
  | zeroOr (lo hi : Nat)
  /-- lo to hi as a signed 8-bit number. -/
  | s8 (lo hi : Int)
  /-- A channel code the variant populates. -/
  | chan
  /-- The same, or 0xFFFF. -/
  | chanOrNone
  /-- A curve code of R150. -/
  | curve
  /-- CHSET word w: no bit of an unpopulated channel (10 R259). -/
  | members (w : Nat)
  deriving DecidableEq, Repr

/-- A field of a 32-bit word of a block. -/
structure BField where
  hi : Nat
  lo : Nat
  acc : Acc
  reset : Nat
  adm : Adm
  deriving DecidableEq, Repr

/-- The curve codes (06 R150). -/
def curveCodes : List Nat := [0] ++ span 0x10 8 ++ [0x20, 0x21] ++ span 0x30 8 ++ [0x40] ++ span 0x50 5

/-- A value a field admits. -/
def admits (p : PartId) (a : Adm) (v : Nat) : Bool :=
  match a with
  | .any => true
  | .rng lo hi => decide (lo ≤ v ∧ v ≤ hi)
  | .zeroOr lo hi => decide (v = 0 ∨ (lo ≤ v ∧ v ≤ hi))
  | .s8 lo hi => decide (lo ≤ toSigned 8 v ∧ toSigned 8 v ≤ hi)
  | .chan => decide (v < 128 * p.quires)
  | .chanOrNone => decide (v < 128 * p.quires ∨ v = 0xFFFF)
  | .curve => curveCodes.contains v
  | .members w => decide (v % 2 ^ 32 = 0 ∨ 32 * w < 128 * p.quires)

/-- Instances of a block: first and count (13 R338). -/
def blockInstances (p : PartId) (b : Nat) : Option (Nat × Nat) :=
  match b with
  | 0x0101 | 0x0105 | 0x0201 | 0x0204 | 0x0303 | 0x0401 | 0x0503 => some (0, 128 * p.quires)
  | 0x0102 | 0x0103 => some (0, 32 * p.quires)
  | 0x0104 | 0x0202 | 0x0501 | 0x0502 | 0x0505 => some (0, p.quires)
  | 0x0203 | 0x0301 | 0x0302 | 0x0707 | 0x0801 | 0x0803 | 0x0A04 => some (4, 28)
  | 0x0304 => some (0, 18)
  | 0x0504 | 0x0601 | 0x0602 | 0x0706 | 0x0804 | 0x0C01 | 0x0C02 | 0x0C03 => some (0, 1)
  | 0x0603 | 0x0604 | 0x0A03 => some (0, 2)
  | 0x0605 | 0x0606 | 0x0B02 | 0x0B05 => some (0, 4)
  | 0x0701 | 0x0703 | 0x0705 | 0x0A01 | 0x0A02 => some (0, 8)
  | 0x0702 | 0x0802 | 0x0B01 | 0x0B04 => some (0, 64)
  | 0x0704 => some (0, 16)
  | 0x0B03 => some (0, 128)
  | _ => none

/-- Bytes of a block. -/
def blockSize (b : Nat) : Nat :=
  match b with
  | 0x0101 | 0x0303 | 0x0604 | 0x0B02 => 0x08
  | 0x0102 | 0x0103 | 0x0201 | 0x0301 => 0x0C
  | 0x0104 | 0x0202 | 0x0204 | 0x0605 | 0x0704 | 0x0707 | 0x0B05 => 0x10
  | 0x0105 | 0x0302 | 0x0503 | 0x0504 | 0x0601 | 0x0603 | 0x0801 => 0x14
  | 0x0203 => 0x04
  | 0x0304 => 0x204
  | 0x0401 => 0xA8
  | 0x0501 => 0x24
  | 0x0502 => 0x38
  | 0x0505 => 0x30
  | 0x0602 => 0x24
  | 0x0606 => 0x1C
  | 0x0701 | 0x0702 | 0x0705 | 0x0A02 | 0x0B03 | 0x0B04 => 0x18
  | 0x0703 => 0x100
  | 0x0706 => 0x20
  | 0x0802 => 0x74
  | 0x0803 => 0x58
  | 0x0804 => 0x1C
  | 0x0A01 => 0x08
  | 0x0A03 => 0x3C
  | 0x0A04 => 0x1C
  | 0x0B01 => 0x28
  | 0x0C01 => 0x08
  | 0x0C02 => 0xAC
  | 0x0C03 => 0x3C
  | _ => 0

/-- A field of access `rw`, `rs`, `wo` or `sl`. -/
def fRw (hi lo reset : Nat) (a : Adm) : BField := ⟨hi, lo, .rw, reset, a⟩
def fRs (hi lo reset : Nat) (a : Adm) : BField := ⟨hi, lo, .rs, reset, a⟩
def fWo (hi lo : Nat) : BField := ⟨hi, lo, .wo, 0, .any⟩
def fSl (hi lo reset : Nat) (a : Adm) : BField := ⟨hi, lo, .sl, reset, a⟩
def fRo (hi lo : Nat) : BField := ⟨hi, lo, .ro, 0, .any⟩

/-- The fields of blocks 0x01xx and 0x02xx (03 R64, R73, R75, R85, R87; 04 R106, R110, R121). -/
def fieldsFront (b off : Nat) : List BField :=
  match b, off with
  | 0x0101, 0x00 => [fRs 23 22 0 (.rng 0 2), fRs 21 12 0 (.zeroOr 10 1000), fRs 8 8 0 .any, fRs 5 4 0 (.rng 0 1),
                     fRs 2 0 0 (.rng 0 4)]
  | 0x0101, 0x04 => [fRw 15 8 10 (.rng 1 100), fRw 0 0 0 .any]
  | 0x0102, 0x00 => [fRo 31 31, fRs 2 0 0 (.rng 0 3)]
  | 0x0102, 0x04 => [fRs 16 0 1280 (.rng 128 128000)]
  | 0x0102, 0x08 => [fRs 23 16 80 (.rng 1 125), fRs 11 0 16 (.rng 1 2560)]
  | 0x0103, 0x00 => [fRo 31 16, fRo 15 0]
  | 0x0103, 0x04 => [fRo 23 16, fRo 4 4, fRo 3 0]
  | 0x0103, 0x08 => [fRo 31 0]
  | 0x0104, 0x00 => [fRw 31 16 0 .any, fRw 11 0 40 (.rng 1 4000)]
  | 0x0104, 0x04 => [fRw 31 16 20 .any, fRw 15 0 5 .any]
  | 0x0104, 0x08 => [fRw 7 0 10 .any]
  | 0x0104, 0x0C => [fWo 1 1, fWo 0 0]
  | 0x0105, 0x0C => [fRo 7 0]
  | 0x0105, _ => [fRo 31 0]
  | 0x0201, 0x00 => [fRw 31 31 1 .any, fRs 28 28 0 .any, fRw 11 0 13 (.rng 13 3277)]
  | 0x0201, 0x04 => [fRw 31 16 200 (.rng 1 65535), fRw 15 0 100 .any]
  | 0x0201, 0x08 => [fRw 15 8 32 .any, fRw 7 0 3 (.rng 1 255)]
  | 0x0202, 0x00 => [fRo 15 8, fRo 5 5, fRo 4 4, fRo 3 0]
  | 0x0202, _ => [fRo 31 0]
  | 0x0203, 0x00 => [fRs 8 8 0 .any, fRs 1 0 0 (.rng 0 1)]
  | 0x0204, 0x00 => [fRo 15 8, fRo 2 0]
  | 0x0204, _ => [fRo 31 0]
  | _, _ => []

/-- The fields of blocks 0x03xx to 0x05xx (05 R130, R133, R134, R474; 06 R148; 07 R186, R187). -/
def fieldsFilter (b off : Nat) : List BField :=
  match b, off with
  | 0x0301, 0x00 => [fRs 19 16 7 (.rng 0 10), fRs 3 0 1 .any]
  | 0x0301, 0x04 => [fRs 15 0 0 .any]
  | 0x0301, 0x08 => [fRs 12 0 16 (.rng 0 4096)]
  | 0x0302, 0x00 => [fRo 27 24, fRo 23 20, fRo 19 16, fRo 2 0]
  | 0x0302, _ => [fRo 31 0]
  | 0x0303, _ => [fRo 31 24, fRo 16 16, fRo 15 15, fRo 14 14, fRo 11 8, fRo 3 0]
  | 0x0304, _ => [fRo 31 0]
  | 0x0401, 0x00 => [fRs 31 16 0 .chan, fRs 9 8 0 (.rng 0 2), fRs 7 0 0 .curve]
  | 0x0401, 0x04 => [fRs 31 0 0 .any]
  | 0x0401, 0x08 => [fRs 31 0 200000 .any]
  | 0x0401, _ => if off = 0x0C then [] else [fRs 31 0 0 .any]
  | 0x0501, 0x00 => [fRw 31 16 500 (.rng 100 5000), fRw 15 0 10 (.rng 0 600)]
  | 0x0501, 0x04 => [fRw 31 16 10 (.rng 0 10000), fRw 2 2 1 .any, fRw 1 1 1 .any, fRw 0 0 1 .any]
  | 0x0501, 0x08 => [fRw 31 16 168 (.rng 1 65535), fSl 15 0 3600 (.rng 600 65535)]
  | 0x0501, 0x0C => [fSl 31 16 300 (.rng 10 65535), fRw 15 0 30 (.rng 0 3650)]
  | 0x0501, _ => [fSl 31 0 0 .any]
  | 0x0502, 0x00 => [fRo 23 0]
  | 0x0502, 0x30 => [fRo 7 4, fRo 3 0]
  | 0x0502, _ => [fRo 31 0]
  | 0x0503, 0x00 => [fRo 23 16, fRo 4 2, fRo 1 0]
  | 0x0503, _ => [fRo 31 0]
  | 0x0504, 0x00 => [fRo 0 0]
  | 0x0504, _ => [fRo 31 0]
  | 0x0505, 0x2C => [fRo 1 0]
  | 0x0505, _ => [fRo 31 0]
  | _, _ => []

/-- The fields of blocks 0x06xx and 0x07xx (08 R196, R197, R212, R214, R218, R219; 09 R222, R228, R230, R231, R240,
R244). -/
def fieldsTime (b off : Nat) : List BField :=
  match b, off with
  | 0x0601, 0x00 => [fRw 31 28 0 (.rng 0 4), fRw 27 24 0 (.rng 0 4), fRw 23 20 0 (.rng 0 4), fRw 19 16 0 (.rng 0 4),
                     fRw 7 0 8 (.rng 4 64)]
  | 0x0601, 0x04 => [fRw 31 0 1000 (.rng 100 1000000000)]
  | 0x0601, 0x08 => [fRw 31 16 2000 (.rng 100 60000), fRw 15 0 1000 (.rng 10 50000)]
  | 0x0601, 0x0C => [fRw 31 16 300 (.rng 10 3600), fRw 15 0 3600 (.rng 1 65535)]
  | 0x0601, 0x10 => [fRw 31 16 100 (.rng 1 10000), fRw 15 0 1000 (.rng 1 10000)]
  | 0x0602, 0x00 => [fRo 27 24, fRo 11 8, fRo 4 4, fRo 2 0]
  | 0x0602, 0x0C => [fRo 7 0]
  | 0x0602, 0x20 => [fRo 23 16, fRo 15 0]
  | 0x0602, _ => [fRo 31 0]
  | 0x0603, 0x00 => [fRw 31 31 0 .any, fRw 30 29 0 (.rng 0 2), fRw 28 28 0 .any, fRw 27 27 1 .any, fRw 26 25 1 (.rng 0 2),
                     fRw 24 24 0 .any, fRw 23 16 0 (.rng 0 239), fRw 15 8 128 .any, fRw 7 0 128 .any]
  | 0x0603, 0x04 => [fRw 31 24 0xFD (.s8 (-7) 1), fRw 23 16 0 (.s8 (-3) 4), fRw 15 8 0xFD (.s8 (-7) 5),
                     fRw 7 0 3 (.rng 2 255)]
  | 0x0603, 0x08 => [fRw 31 0 0 .any]
  | 0x0603, 0x0C => [fRw 31 16 0 .any, fRw 15 0 0 .any]
  | 0x0603, 0x10 => [fRw 7 0 248 .any]
  | 0x0604, 0x00 => [fRw 1 0 0 (.rng 0 2)]
  | 0x0604, 0x04 => [fRw 31 0 0 .any]
  | 0x0605, 0x00 => [fRw 31 31 0 .any, fRw 30 30 0 .any, fRw 27 26 0 (.rng 0 2), fRw 25 24 1 (.rng 0 2), fRw 22 20 0 .any,
                     fRw 18 16 0 .any]
  | 0x0605, 0x04 => [fRw 31 0 409600 .any]
  | 0x0605, 0x08 => [fRw 7 0 0 .any]
  | 0x0605, 0x0C => [fRw 31 0 410 (.rng 410 0xFFFFFFFF)]
  | 0x0606, 0x00 => [fRo 12 12, fRo 11 11, fRo 10 10, fRo 9 9, fRo 8 8, fRo 1 0]
  | 0x0606, 0x14 => [fRo 15 0]
  | 0x0606, _ => [fRo 31 0]
  | 0x0701, 0x00 => [fRs 15 8 0 (.zeroOr 4 31), fRs 3 0 0 .any]
  | 0x0701, 0x04 => [fRs 31 4 0 .any]
  | 0x0701, 0x08 => [fRs 31 16 1 (.rng 1 65535), fRs 15 0 1 (.rng 1 65535)]
  | 0x0701, 0x0C => [fRs 31 0 1 (.rng 1 0xFFFFFFFF)]
  | 0x0701, 0x10 => [fRs 31 0 1 (.rng 1 0xFFFFFFFF)]
  | 0x0701, 0x14 => [fRs 31 16 0 .any]
  | 0x0702, 0x00 => [fRs 31 28 0 (.rng 0 10), fRs 27 26 0 .any, fRs 23 16 0x21 .any, fRs 15 0 0 .chan]
  | 0x0702, 0x04 => [fRs 31 24 0 (.zeroOr 4 31), fRs 23 0 0 .any]
  | 0x0702, _ => [fRs 31 0 0 .any]
  | 0x0703, _ => [fRs 31 26 0 .any, fRs 25 25 0 .any, fRs 24 24 0 .any, fRs 23 20 0 .any, fRs 19 16 0 .any, fRs 8 0 0 .any]
  | 0x0704, 0x00 => [fRs 31 24 0 (.zeroOr 4 31), fRs 15 0 0 .chan]
  | 0x0704, 0x04 => [fRo 31 16, fRo 2 2, fRs 1 0 0 (.rng 0 2)]
  | 0x0704, 0x08 => [fRs 31 0 0 .any]
  | 0x0704, 0x0C => [fRs 31 24 0x21 .any]
  | 0x0705, 0x00 => [fRo 19 16, fRo 1 0]
  | 0x0705, _ => [fRo 31 0]
  | 0x0706, 0x00 => [fRs 31 16 0 .any]
  | 0x0706, 0x04 => [fRs 31 0 0 .any]
  | 0x0706, 0x08 => [fRs 31 0 0 .any]
  | 0x0706, 0x0C => [fRs 31 16 100 (.rng 1 10000), fRs 3 0 0 .any]
  | 0x0706, 0x10 => [fRs 31 4 0 .any]
  | 0x0706, 0x14 => [fRs 31 4 0 .any]
  | 0x0706, 0x18 => [fRo 31 0]
  | 0x0706, 0x1C => [fRo 1 0]
  | 0x0707, 0x00 => [fRs 31 31 0 .any, fRs 7 0 0 (.zeroOr 4 31)]
  | 0x0707, 0x04 => [fRs 31 0 1000 .any]
  | 0x0707, 0x08 => [fRs 31 0 1000 .any]
  | 0x0707, 0x0C => [fRs 31 16 200 (.rng 1 60000), fRs 15 0 64 (.rng 1 32768)]
  | _, _ => []

/-- The fields of blocks 0x08xx to 0x0Cxx (10 R258, R259, R272; 12 R299, R310, R311; 15 R375 to R377, R395, R396;
16 R401, R402, R411). LANE_CFG's RATE resets by lane. Log entry 51. -/
def fieldsSpine (b inst off : Nat) : List BField :=
  match b, off with
  | 0x0801, 0x00 => [fRs 23 16 0 (.zeroOr 4 31), fRs 9 8 0 (.rng 0 2), fRs 5 0 0 .any]
  | 0x0801, 0x04 => [fRs 31 16 100 (.rng 2 65535)]
  | 0x0801, 0x08 => [fRs 23 0 256 (.rng 1 8388607)]
  | 0x0801, 0x0C => [fRs 31 16 0 (.rng 0 32768), fRs 15 0 32768 (.rng 0 32768)]
  | 0x0801, 0x10 => [fRw 31 12 10000 (.rng 100 1000000), fRs 0 0 0 .any]
  | 0x0802, 0x70 => [fRo 9 0]
  | 0x0802, _ => [fRs 31 0 0 (.members (off / 4))]
  | 0x0803, 0x00 => [fRo 3 3, fRo 2 0]
  | 0x0803, _ => if off = 0x54 then [] else [fRo 31 0]
  | 0x0804, 0x00 => [fRo 31 16, fRo 15 14, fRo 1 0]
  | 0x0804, _ => [fRo 31 0]
  | 0x0A01, 0x00 => [fRw 31 31 1 .any, fRw 30 30 0 .any, fRw 29 29 1 .any, fRw 28 28 1 .any,
                     fRw 19 16 (if inst = 4 ∨ inst = 5 then 1 else if 6 ≤ inst then 7 else 0)
                       (if inst < 4 then .rng 0 0 else if inst < 6 then .rng 0 1 else .rng 0 7),
                     fRw 9 8 0 .any, fRw 7 0 60 .any]
  | 0x0A01, 0x04 => [fRw 31 16 16 .any, fRw 15 0 25 .any]
  | 0x0A02, 0x00 => [fRo 31 28, fRo 27 24, fRo 15 15, fRo 14 12, fRo 11 10, fRo 9 8]
  | 0x0A02, _ => [fRo 31 0]
  | 0x0A03, 0x00 => [fRw 31 31 0 .any, fRw 30 30 0 .any, fRw 29 29 0 .any, fRw 14 12 0 .any, fRw 11 0 0 .any]
  | 0x0A03, 0x0C => [fRw 7 0 24 (.rng 1 32)]
  | 0x0A03, 0x30 => [fRw 7 0 64 (.rng 1 128)]
  | 0x0A03, 0x34 => [fRo 31 0]
  | 0x0A03, 0x38 => [fRo 15 0]
  | 0x0A03, _ => [fRw 31 0 0 .any]
  | 0x0A04, 0x00 => [fRs 31 28 0 (.rng 0 6), fRs 27 27 0 .any, fRs 26 26 0 .any, fRs 23 16 0 (.zeroOr 4 31), fRs 15 0 0 .any]
  | 0x0A04, 0x04 => [fRs 31 16 200 (.rng 10 10000), fRs 15 0 0 .any]
  | 0x0A04, 0x18 => [fRo 31 0]
  | 0x0A04, _ => [fRs 31 0 0 .any]
  | 0x0B01, 0x00 => [fSl 31 31 0 .any, fSl 25 24 0 .any, fSl 7 0 5 (.rng 1 64)]
  | 0x0B01, 0x04 => [fSl 31 0 40 (.rng 4 80000)]
  | 0x0B01, 0x08 => [fSl 11 0 60 (.rng 1 3600)]
  | 0x0B01, 0x0C => []
  | 0x0B01, 0x1C => [fSl 31 0 0x3FF00000 .any]
  | 0x0B01, _ => [fSl 31 0 0 .any]
  | 0x0B02, 0x00 => [fSl 31 31 1 .any, fSl 15 0 100 (.rng 1 60000)]
  | 0x0B02, 0x04 => [fSl 31 16 10 (.rng 1 60), fSl 15 0 200 (.rng 100 500)]
  | 0x0B03, 0x00 => [fSl 31 16 0xFFFF .chanOrNone, fSl 15 11 1 .any, fSl 10 8 0 (.rng 0 4), fSl 5 4 0 (.rng 0 1),
                     fSl 3 3 0 .any, fSl 2 0 0 (.rng 0 3)]
  | 0x0B03, 0x04 => [fSl 16 0 1280 (.rng 128 128000)]
  | 0x0B03, 0x08 => [fSl 23 22 0 (.rng 0 2), fSl 21 12 0 (.zeroOr 10 1000)]
  | 0x0B03, 0x0C => [fSl 31 0 (ofSigned 32 (-550000000)) .any]
  | 0x0B03, 0x10 => [fSl 31 0 550000000 .any]
  | 0x0B03, 0x14 => [fRo 31 0]
  | 0x0B04, 0x00 => [fRo 31 28, fRo 25 25, fRo 24 24, fRo 23 16, fRo 15 8, fRo 0 0]
  | 0x0B04, _ => [fRo 31 0]
  | 0x0B05, 0x00 => [fRo 23 16, fRo 2 0]
  | 0x0B05, 0x0C => [fRo 7 0]
  | 0x0B05, _ => [fRo 31 0]
  | 0x0C01, 0x00 => [fRw 3 3 1 .any, fRw 2 0 0 (.rng 0 4)]
  | 0x0C01, 0x04 => [fRo 15 8, fRo 1 0]
  | 0x0C02, 0x10 => [fRw 2 0 0 .any]
  | 0x0C02, 0x14 => []
  | 0x0C02, 0xA8 => [fRo 0 0]
  | 0x0C02, _ => if off < 0x18 then [fRw 31 0 0 .any] else [fWo 31 0]
  | 0x0C03, 0x00 => [fRo 0 0]
  | 0x0C03, _ => [fRo 31 0]
  | _, _ => []

/-- The fields of the word at `off` of a block instance; a word without fields is reserved. -/
def fieldsOf (b inst off : Nat) : List BField :=
  if b < 0x0300 then fieldsFront b off
  else if b < 0x0600 then fieldsFilter b off
  else if b < 0x0800 then fieldsTime b off
  else fieldsSpine b inst off

/-- The word a block instance holds at reset (00 R12). -/
def resetWord (b inst off : Nat) : Nat :=
  (fieldsOf b inst off).foldl (fun w f => setBits f.hi f.lo f.reset w) 0

/-- The bits of a word that fields of the given access hold. -/
def accMask (a : Acc) (b inst off : Nat) : Nat :=
  (fieldsOf b inst off).foldl (fun w f => if f.acc = a then setBits f.hi f.lo (2 ^ 32 - 1) w else w) 0

/-- The bits of a word that no field holds are reserved (00 R10). -/
def reservedOk (b inst off w : Nat) : Bool :=
  decide ((fieldsOf b inst off).foldl (fun v f => setBits f.hi f.lo 0 v) w = 0)

/-- Every field of the word holds a value it admits; RO fields are not judged. -/
def fieldsOk (p : PartId) (b inst off w : Nat) : Bool :=
  (fieldsOf b inst off).all fun f => f.acc == .ro || admits p f.adm (bits f.hi f.lo w)

/-- Where binary64 fields begin: low word at the lower offset (06 R148, 09 R222, 15 R375). -/
def doubleAt (b off : Nat) : Bool :=
  match b with
  | 0x0401 => decide (0x10 ≤ off ∧ off % 8 = 0)
  | 0x0702 => decide (off = 0x08 ∨ off = 0x10)
  | 0x0B01 => decide (off = 0x10 ∨ off = 0x18 ∨ off = 0x20)
  | _ => false

/-- Lexicographic order of block keys. -/
def keyLt (a b : BlockKey) : Bool :=
  decide (a.1 < b.1) || (a.1 == b.1 && (decide (a.2.1 < b.2.1) || (a.2.1 == b.2.1 && decide (a.2.2 < b.2.2))))

/-- The word under a key of a sparse image, if one is listed. -/
def keyFind (l : List (BlockKey × Nat)) (k : BlockKey) : Option Nat :=
  match l with
  | [] => none
  | (j, v) :: r => if j = k then some v else keyFind r k

/-- The image without a key. -/
def keyDel (l : List (BlockKey × Nat)) (k : BlockKey) : List (BlockKey × Nat) := l.filter fun p => p.1 != k

/-- Insert a word, keys rising. -/
def keyIns (l : List (BlockKey × Nat)) (k : BlockKey) (v : Nat) : List (BlockKey × Nat) :=
  match l with
  | [] => [(k, v)]
  | (j, w) :: r => if keyLt k j then (k, v) :: (j, w) :: r else (j, w) :: keyIns r k v

/-- The image with a word; a word equal to its reset value is not listed, so equal images are equal data. -/
def keyPut (l : List (BlockKey × Nat)) (k : BlockKey) (v : Nat) : List (BlockKey × Nat) :=
  if v = resetWord k.1 k.2.1 k.2.2 then keyDel l k else keyIns (keyDel l k) k v

/-- The word of a sparse image. -/
def keyWord (l : List (BlockKey × Nat)) (b inst off : Nat) : Nat :=
  (keyFind l (b, inst, off)).getD (resetWord b inst off)

/-- The canonical form of the block words in force: keys strictly rising, none at its reset value. -/
def cfgWf : List (BlockKey × Nat) → Bool
  | [] => true
  | (k, v) :: r =>
    (v != resetWord k.1 k.2.1 k.2.2) && (match r with | [] => true | (j, _) :: _ => keyLt k j) && cfgWf r

/-- The word in force of a writable block: the limit watch's blocks come from the island's image (15 R374),
every other one from the configuration. -/
def word (s : State) (b inst off : Nat) : Nat :=
  if b = 0x0B01 ∨ b = 0x0B02 ∨ b = 0x0B03 then keyWord s.safe.image b inst off else keyWord s.cfg b inst off

/-- A field in force. -/
def cf (s : State) (b inst off hi lo : Nat) : Nat := bits hi lo (word s b inst off)

/-- A one-bit field in force. -/
def cfBit (s : State) (b inst off i : Nat) : Bool := bit i (word s b inst off)

/-! ### The Ethernet ports (12 R309, R310) -/

/-- The 802.1Q tag of every frame that a port sends, if it tags. -/
def vlanTag (s : State) (p : Nat) : Option Nat :=
  if cfBit s 0x0A03 p 0x00 29 then some (8192 * cf s 0x0A03 p 0x00 14 12 + cf s 0x0A03 p 0x00 11 0) else none

/-- An IPv4 or IPv6 address of a port's block; the first of four words at an offset. -/
def portAddr (s : State) (p off len : Nat) : List Byte := ((span 0 (len / 4)).flatMap fun i => le 4 (word s 0x0A03 p (off + 4 * i)))

/-- Two addresses agree in their first bits. -/
def samePrefix (n : Nat) (a b : List Byte) : Bool := decide (ofBe a / 2 ^ (8 * a.length - n) = ofBe b / 2 ^ (8 * b.length - n))

/-- The next hop to a destination: itself on the port's own subnet or without a gateway, else the gateway. -/
def nextHop (s : State) (p : Nat) (dest : List Byte) : List Byte :=
  let v4 := decide (dest.length = 4)
  let own := if v4 then portAddr s p 0x04 4 else portAddr s p 0x10 16
  let gw := if v4 then portAddr s p 0x08 4 else portAddr s p 0x20 16
  if samePrefix (if v4 then cf s 0x0A03 p 0x0C 7 0 else cf s 0x0A03 p 0x30 7 0) own dest || allZero gw then dest else gw

/-- A UDP datagram, with Don't Fragment where a rule asks for it, or a frame to a MAC address, leaves a port. -/
def sendUdp (p : Nat) (dest : List Byte) (dport sport : Nat) (df : Bool) (bytes : List Byte) (s : State) : State :=
  emit (.eth (vlanTag s p) (nextHop s p dest) (.udp p dest dport sport df bytes)) s
def sendFrame (p : Nat) (mac : List Byte) (etherType : Nat) (bytes : List Byte) (s : State) : State :=
  emit (.eth (vlanTag s p) mac (.frame p etherType bytes)) s

/-- An Ethernet port is UP and speaks the address family. -/
def portSpeaks (s : State) (p : Nat) (v6 : Bool) : Bool :=
  decide ((lane s (4 + p)).state = 5) && cfBit s 0x0A03 p 0x00 (if v6 then 30 else 31)

/-- A 64-bit field in force. -/
def cf64 (s : State) (b inst off : Nat) : Nat := word s b inst off + 2 ^ 32 * word s b inst (off + 4)

/-- A new word of the configuration. -/
def putWord (b inst off w : Nat) (s : State) : State := { s with cfg := keyPut s.cfg (b, inst, off) w }

/-! ### binary64 and binary32 (06 R148, 09 R221) -/

/-- A binary64 word holds a finite number. -/
def finite64 (w : Nat) : Bool := decide (bits 62 52 w ≠ 2047)

/-- The number a finite binary64 word holds. -/
def ofF64 (w : Nat) : Rat :=
  let e := bits 62 52 w
  let m := bits 51 0 w
  let v : Rat := if e = 0 then (m : Rat) / (2 : Rat) ^ (1074 : Nat)
    else if 1075 ≤ e then ((2 ^ 52 + m : Nat) : Rat) * (2 : Rat) ^ (e - 1075)
    else ((2 ^ 52 + m : Nat) : Rat) / (2 : Rat) ^ (1075 - e)
  if bit 63 w then -v else v

/-- The number a finite binary32 word holds. -/
def ofF32 (w : Nat) : Rat :=
  let e := bits 30 23 w
  let m := bits 22 0 w
  let v : Rat := if e = 0 then (m : Rat) / (2 : Rat) ^ (149 : Nat)
    else if 150 ≤ e then ((2 ^ 23 + m : Nat) : Rat) * (2 : Rat) ^ (e - 150)
    else ((2 ^ 23 + m : Nat) : Rat) / (2 : Rat) ^ (150 - e)
  if bit 31 w then -v else v

/-- A binary32 word is a NaN. -/
def nan32 (w : Nat) : Bool := decide (bits 30 23 w = 255 ∧ bits 22 0 w ≠ 0)

/-- Rounding of a non-negative rational to the nearest integer, ties to even. -/
def roundEven (r : Rat) : Nat :=
  let f := r.num.toNat / r.den
  let d := 2 * (r.num.toNat % r.den)
  if d < r.den then f else if r.den < d then f + 1 else f + f % 2

/-- The exponent e with 2^e ≤ r < 2^(e+1), for r > 0. -/
def expOf (r : Rat) : Int :=
  let e : Int := (Nat.log2 r.num.toNat : Int) - (Nat.log2 r.den : Int)
  if r < (if 0 ≤ e then (2 : Rat) ^ e.toNat else 1 / (2 : Rat) ^ (-e).toNat) then e - 1 else e

/-- The binary32 word nearest a rational, ties to even, overflow to infinity (04 R120: binary32). -/
def toF32 (r : Rat) : Nat :=
  if r = 0 then 0
  else
    let a := rabs r
    let e := max (expOf a) (-126)
    let sh : Int := 23 - e
    let m := roundEven (if 0 ≤ sh then a * (2 : Rat) ^ sh.toNat else a / (2 : Rat) ^ (-sh).toNat)
    let body : Nat := if m < 2 ^ 23 then m
      else if m = 2 ^ 24 then (e + 128).toNat * 2 ^ 23
      else (e + 127).toNat * 2 ^ 23 + (m - 2 ^ 23)
    (if r < 0 then 2 ^ 31 else 0) + min body (255 * 2 ^ 23)

/-- The rational nearest in binary64: each engine result is rounded once (06 R146, log entry 8). -/
def round64 (r : Rat) : Rat :=
  if r = 0 then 0
  else
    let a := rabs r
    let e := max (expOf a) (-1022)
    let sh : Int := 52 - e
    let v : Rat := if 0 ≤ sh then (roundEven (a * (2 : Rat) ^ sh.toNat) : Rat) / (2 : Rat) ^ sh.toNat
      else (roundEven (a / (2 : Rat) ^ (-sh).toNat) : Rat) * (2 : Rat) ^ (-sh).toNat
    if r < 0 then -v else v

/-- A binary64 field in force as a number. -/
def cfF64 (s : State) (b inst off : Nat) : Rat := ofF64 (cf64 s b inst off)

end Sys2Proof.Machine
end

