-- ==== Sys2Proof/Machine/Events.lean ====
section
/-! DEFINITION. Folios of RING2 and RING3, the trouble log, the active-fault list, events and their coalescing
(10 R246, R255, R256; 16 R413 to R420). -/

namespace Sys2Proof.Machine

/-! ### Folios of RING2 and RING3 -/

/-- A folio put behind the others of a queue, with the next sequence number (10 R246, R267). -/
def FolioQ.push (q : FolioQ) (f : Folio) : FolioQ :=
  { q with nextSeq := q.nextSeq + 1, folios := q.folios ++ [{ f with seq := q.nextSeq }] }

/-- Slots of the 2 MiB that hold the folios of RING2 and RING3 (10 R267). -/
def sramSlots : Nat := 508
def sramUsed (s : State) : Nat :=
  ((s.store.ring2.folios ++ s.store.ring3.folios).map (·.slots)).foldl (· + ·) 0

/-- A folio of one of the two rings, which waits where the 2 MiB have no slot for it. Log entry 15. -/
def sramFolio (ftype stream count : Nat) (payload : List Byte) : Folio :=
  { (default : Folio) with ftype := ftype, stream := stream, chset := 0xFFFF, count := count, payload := payload, slots := 1 }

/-- A folio of RING2: type, records, payload. Log entry 15. -/
def put2 (ftype count : Nat) (payload : List Byte) (s : State) : State :=
  let f := sramFolio ftype 2 count payload
  if s.store.wait2.isEmpty ∧ sramUsed s < sramSlots then { s with store.ring2 := FolioQ.push s.store.ring2 f }
  else { s with store.wait2 := s.store.wait2 ++ [f] }

/-- A folio of RING3. Log entry 15. -/
def put3 (ftype count : Nat) (payload : List Byte) (s : State) : State :=
  let f := sramFolio ftype 3 count payload
  if s.store.wait3.isEmpty ∧ sramUsed s < sramSlots then { s with store.ring3 := FolioQ.push s.store.ring3 f }
  else { s with store.wait3 := s.store.wait3 ++ [f] }

/-- Waiting folios take the slots that have come free, those of RING2 first. Log entry 15. -/
def sramDrain : Nat → State → State
  | 0, s => s
  | k + 1, s =>
    if sramSlots ≤ sramUsed s then s
    else
      match s.store.wait2, s.store.wait3 with
      | f :: r, _ => sramDrain k { s with store.wait2 := r, store.ring2 := FolioQ.push s.store.ring2 f }
      | [], f :: r => sramDrain k { s with store.wait3 := r, store.ring3 := FolioQ.push s.store.ring3 f }
      | [], [] => s

/-! ### Codes (16 R415, R416) -/

/-- The class of the fault an event raises; 0 when it raises none. -/
def faultClass (ecode : Nat) : Nat :=
  match ecode with
  | 0x0101 => 2 | 0x0102 => 1 | 0x0103 => 2
  | 0x0201 => 3 | 0x0202 => 4 | 0x0203 => 4 | 0x0204 => 4 | 0x0205 => 2
  | 0x0301 => 3 | 0x0302 => 3 | 0x0303 => 2 | 0x0304 => 1
  | 0x0401 => 3 | 0x0402 => 2 | 0x0403 => 3
  | 0x0701 => 3 | 0x0702 => 2 | 0x0703 => 3 | 0x0704 => 3 | 0x0705 => 1 | 0x0706 => 3
  | 0x0801 => 2 | 0x0802 => 2 | 0x0803 => 2
  | 0x0A01 => 4 | 0x0A02 => 3 | 0x0A03 => 2
  | 0x0B01 => 4
  | 0x0C01 => 2 | 0x0C02 => 2 | 0x0C03 => 2
  | 0x0D01 => 5 | 0x0D02 => 5 | 0x0D03 => 5 | 0x0D04 => 5
  | 0x0E01 => 6 | 0x0E02 => 6
  | 0x0F01 => 6 | 0x0F02 => 6 | 0x0F03 => 6 | 0x0F04 => 4
  | _ => 0

/-- The fault code of an event: CLASS, SUBSYSTEM, DETAIL; 0 when it raises none (16 R415). -/
def faultCode (ecode : Nat) : Nat :=
  if faultClass ecode = 0 then 0 else faultClass ecode * 4096 + ecode / 256 * 16 + ecode % 16

/-- The codes coalesced by quire (16 R418). -/
def coalesced : List Nat := [0x0401, 0x0410, 0x0403, 0x0304, 0x0310, 0x0704, 0x0301, 0x0302, 0x0303]

/-- The codes keyed by originator (16 R420). -/
def originated : List Nat := [0x0E10, 0x0912, 0x0802, 0x0811, 0x0812, 0x0C11]

/-- The quire of a subject of a coalesced code: groups for 0x0301 to 0x0303, channels and keepers otherwise. -/
def subjectQuire (ecode subject : Nat) : Nat :=
  if ecode = 0x0301 ∨ ecode = 0x0302 ∨ ecode = 0x0303 then subject / 32
  else if subject < 0x0380 then subject / 128 else (subject - 0x0380) / 2

/-- The bit of a subject in the bitmap of R418, which has none for a keeper's modulator (log entry 53). -/
def subjectBit (ecode subject : Nat) : Nat :=
  if ecode = 0x0301 ∨ ecode = 0x0302 ∨ ecode = 0x0303 then subject % 32
  else if subject < 0x0380 then subject % 128 else 128 + subject % 2

/-! ### The trouble log (16 R413, R414) -/

/-- The fault manager runs: from step 10 to 13 of the start (16 R413). -/
def managerRuns (s : State) : Bool := s.boot.fwRuns

/-- A log entry without its CRC. -/
def logBody (e : LogEntry) : List Byte :=
  le 4 e.number ++ le 2 e.fault ++ le 1 e.kind ++ le 1 e.lflags ++ fitBytes 16 e.time ++ le 8 e.eventId
    ++ le 2 e.ecode ++ le 2 e.subject ++ le 2 e.count ++ le 2 0 ++ fitBytes 16 e.detail ++ le 4 e.occurrences

/-- A log entry as LOG_READ gives it. -/
def logBytes (e : LogEntry) : List Byte := logBody e ++ le 4 (crc32c (logBody e))

/-- Append an entry under the next number; the oldest of 16,384 is overwritten. -/
def pushLog (e : LogEntry) (s : State) : State :=
  let l := s.faults.log ++ [{ e with number := s.faults.next % 2 ^ 32 }]
  { s with faults.log := (if l.length ≤ 16384 then l else l.drop 1), faults.next := (s.faults.next + 1) % 2 ^ 32 }

/-- Time of a log entry or an event of the present. -/
def unsetFlag (s : State) : Nat := b2n (s.time.state == 0)

/-- Time of a ROOT entry: seconds and nanoseconds since reset release (16 R413). Log entry 86. -/
def rootTime (s : State) : List Byte :=
  match s.boot.release with
  | none => zeros 16
  | some _ => le 8 (sinceRelease s / secU) ++ le 4 (sinceRelease s % secU / 65536) ++ zeros 4

/-! ### The active-fault list (16 R417) -/

/-- The entry of a fault code, or an empty one. -/
def faultEntry (s : State) (code : Nat) : FaultEntry :=
  (s.faults.active.find? (·.code == code)).getD { (default : FaultEntry) with code := code }

/-- Put an entry in its place, codes rising. -/
def insFault (e : FaultEntry) : List FaultEntry → List FaultEntry
  | [] => [e]
  | f :: r => if e.code < f.code then e :: f :: r else if e.code = f.code then e :: r else f :: insFault e r

def setFault (e : FaultEntry) (s : State) : State := { s with faults.active := insFault e s.faults.active }

/-- A subject's cause is present from now on. -/
def addCause (code subject : Nat) (s : State) : State :=
  let e := faultEntry s code
  if e.causes.contains subject then s else setFault { e with causes := subject :: e.causes } s

/-- A log entry of a fault's transition. -/
def faultLog (code kind lflags eventId ecode subject count : Nat) (detail : List Byte) (occ : Nat) (time : List Byte) :
    LogEntry :=
  { (default : LogEntry) with fault := code, kind := kind, lflags := lflags, time := time, eventId := eventId,
                              ecode := ecode, subject := subject, count := count, detail := detail, occurrences := occ }

/-- The safety island's memory has room for a further entry of the 63 (16 R413); an event without a log entry takes none.
Log entry 86. -/
def rootRoom (s : State) : Bool := decide ((s.faults.rootLog.filter fun p => decide (p.1.kind ≠ 0)).length < 63)

/-- The safety island keeps an entry with its event, or counts it (16 R413). -/
def rootKeep (e : LogEntry) (v : Ev) (s : State) : State :=
  if e.kind = 0 ∨ rootRoom s = true then
    { s with faults.rootLog := s.faults.rootLog ++ [({ e with lflags := 4, eventId := 0, time := rootTime s }, v)] }
  else { s with faults.rootLost := s.faults.rootLost + 1 }

/-- An entry that goes with no event: ECODE 0 stands for none beside it. -/
def keepLog (e : LogEntry) (s : State) : State := if managerRuns s then pushLog e s else rootKeep e default s

/-- A log entry that goes with an event, by the fault manager or by the safety island. -/
def keepWith (e : LogEntry) (v : Ev) (s : State) : State := if managerRuns s then pushLog e s else rootKeep e v s

/-- SET is logged unless the code has logged one in this second (16 R417); its event stands either way. -/
def logSet (e : LogEntry) (v : Ev) (s : State) : State :=
  let f := faultEntry s e.fault
  if f.setInSecond then
    let s := setFault { f with unlogged := f.unlogged + 1 } s
    if managerRuns s then s else rootKeep { e with kind := 0 } v s
  else setFault { f with setInSecond := true } (keepWith { e with kind := 1 } v s)

/-- CLEAR likewise. -/
def logClear (e : LogEntry) (s : State) : State :=
  let f := faultEntry s e.fault
  if f.clearInSecond then setFault { f with unlogged := f.unlogged + 1 } s
  else setFault { f with clearInSecond := true } (keepLog { e with kind := 2 } s)

/-- A subject's cause ends; the last one clears the fault (16 R417). -/
def clearCause (ecode subject : Nat) (s : State) : State :=
  let e := faultEntry s (faultCode ecode)
  if ¬ e.causes.contains subject then s
  else
    let left := e.causes.filter (· != subject)
    let s := setFault { e with causes := left, active := e.active && !left.isEmpty } s
    if left.isEmpty && e.active then
      logClear (faultLog (faultCode ecode) 2 (2 * unsetFlag s) 0 ecode subject 1 [] e.occurrences (stampNow s)) s
    else s

/-- A subject has the cause of a fault now. -/
def hasCause (s : State) (ecode subject : Nat) : Bool := (faultEntry s (faultCode ecode)).causes.contains subject

/-! ### Events (10 R256) -/

/-- The next EVENT_ID. -/
def eventId (s : State) : Nat := s.store.base + s.faults.events

/-- An event record, its body filled to whole groups of 8 bytes. Log entry 122. -/
def eventBytes (ecode fault eflags strm : Nat) (time : List Byte) (id : Nat) (body : List Byte) : List Byte :=
  let n := 8 * ceilDiv body.length 8
  le 2 (32 + n) ++ le 2 ecode ++ le 2 fault ++ le 1 eflags ++ le 1 strm ++ time ++ le 8 id ++ fitBytes n body

/-- One EVENT record in a folio of its own on RING2 (log entry 13). -/
def issueRecord (ecode eflags strm : Nat) (time body : List Byte) (s : State) : State :=
  let s' := put2 0x20 1 (eventBytes ecode (faultCode ecode) (eflags + 2 * unsetFlag s) strm time (eventId s) body) s
  { s' with faults.events := s.faults.events + 1 }

/-- Issue an event with its fault: the record, the list and the log (16 R413, R417). -/
def issueAt (e : Ev) (eflags lflags count : Nat) (detail time : List Byte) (s : State) : State :=
  let id := eventId s
  let code := faultCode e.ecode
  let s := issueRecord e.ecode eflags e.stream time e.body s
  if code = 0 then s
  else
    let f := faultEntry s code
    let s := setFault { f with listed := true, occurrences := f.occurrences + 1, eventId := id } s
    let entry := faultLog code 1 (lflags + 2 * unsetFlag s) id e.ecode e.subject count detail (f.occurrences + 1) time
    if e.lasting then
      if f.active then s
      else
        let s := logSet entry e s
        let g := faultEntry s code
        if g.causes.isEmpty then logClear { entry with eventId := 0 } s else setFault { g with active := true } s
    else logSet entry e s

/-- Issue an event singly at the present. -/
def issue (e : Ev) (s : State) : State :=
  issueAt e 0 0 1 (e.body.take 16) (if e.time.isEmpty then stampNow s else e.time) s

/-- A NOTE of the trouble log with its event (15 R391, 11 R293). -/
def issueNote (e : Ev) (count : Nat) (s : State) : State :=
  if managerRuns s then
    let id := eventId s
    let s := issueRecord e.ecode 0 e.stream (stampNow s) e.body s
    pushLog (faultLog 0 3 (2 * unsetFlag s) id e.ecode e.subject count (e.body.take 16) 0 (stampNow s)) s
  else rootKeep (faultLog 0 3 4 0 e.ecode e.subject count (e.body.take 16) 0 []) e s

/-- An event before the fault manager runs: kept by the safety island, the earliest 63 entries (16 R413, R417). Log entry 86. -/
def raiseRoot (e : Ev) (s : State) : State :=
  let code := faultCode e.ecode
  let entry := fun (kind occ : Nat) => faultLog code kind 4 0 e.ecode e.subject 1 (e.body.take 16) occ []
  if code = 0 then rootKeep (entry 0 0) e s
  else
    let f := faultEntry s code
    let s := setFault { f with listed := true, occurrences := f.occurrences + 1, active := f.active || e.lasting } s
    if e.lasting && f.active then rootKeep (entry 0 0) e s else logSet (entry 1 (f.occurrences + 1)) e s

/-- An event of a coalesced code enters its window, or opens one (16 R418). -/
def raiseCoalesced (e : Ev) (s : State) : State :=
  let e := { e with time := if e.time.isEmpty then stampNow s else e.time }
  let q := subjectQuire e.ecode e.subject
  match s.faults.wins.find? (fun w => w.ecode == e.ecode && w.quire == q) with
  | some _ =>
    { s with faults.wins := s.faults.wins.map fun w =>
        if w.ecode = e.ecode ∧ w.quire = q then { w with evs := w.evs ++ [e] } else w }
  | none =>
    { s with faults.wins := s.faults.wins ++
        [{ ecode := e.ecode, quire := q, opened := s.now, phase := 0, evs := [e], last := s.now }] }

/-- An event: held before the fault manager runs, coalesced, or issued (16 R413, R418). Log entry 100. -/
def raise (e : Ev) (s : State) : State :=
  let s := when_ (e.lasting && decide (faultCode e.ecode ≠ 0)) (addCause (faultCode e.ecode) e.subject) s
  if ¬ managerRuns s then raiseRoot e s
  else if coalesced.contains e.ecode then raiseCoalesced e s
  else issue e s

/-- The body of an event whose layout no chapter gives: the subject and zeros (log entry 14). -/
def plainBody (subject : Nat) : List Byte := le 2 subject ++ zeros 6

/-- A plain event of one subject. -/
def ev (ecode subject : Nat) : Ev :=
  { ecode := ecode, subject := subject, stream := 0, body := plainBody subject, lasting := false, time := [] }

/-- An event with a body. -/
def evB (ecode subject : Nat) (body : List Byte) : Ev := { ev ecode subject with body := body }

/-- A fault with a lasting cause. -/
def evL (ecode subject : Nat) : Ev := { ev ecode subject with lasting := true }

/-- An event of a stream. -/
def evS (ecode subject strm : Nat) (body : List Byte) : Ev := { evB ecode subject body with stream := strm }

/-- A fault of a lasting cause is raised unless the subject already has it. Log entry 100. -/
def raiseOnce (e : Ev) (s : State) : State := if hasCause s e.ecode e.subject then s else raise e s

/-- Hand the safety island's entries over: log them in order, then issue their events with the new start count
(16 R413). Log entry 86. -/
def handOver (s : State) : State :=
  let held := s.faults.rootLog
  let s := { s with faults.rootLog := [] }
  let s := held.foldl (fun s (p : LogEntry × Ev) =>
    if p.2.ecode = 0 then pushLog p.1 s
    else
      let id := eventId s
      let s := issueRecord p.2.ecode 0 p.2.stream p.1.time p.2.body s
      let f := faultEntry s p.1.fault
      let s := if p.1.fault = 0 then s else setFault { f with eventId := id } s
      if p.1.kind = 0 then s else pushLog { p.1 with eventId := id } s) s
  let s := if s.faults.rootLost = 0 then s
    else pushLog (faultLog 0 4 4 0 0 0xFFFF (min s.faults.rootLost 65535) [] 0 (rootTime s)) s
  { s with faults.rootLost := 0 }

/-! ### Coalesced records (16 R418, R419) -/

/-- The subjects of a list of events, each once. -/
def subjectsOf (l : List Ev) : List Nat := (l.map (·.subject)).eraseDups

/-- The bitmap of a coalesced record. -/
def bitmapOf (ecode : Nat) (l : List Nat) : Nat := l.foldl (fun m x => setBits (subjectBit ecode x) (subjectBit ecode x) 1 m) 0

/-- The body of a coalesced record. Log entry 122. -/
def coalBody (q outcome count windowUs bitmap : Nat) : List Byte :=
  le 1 q ++ le 1 outcome ++ le 2 count ++ le 4 windowUs ++ le 16 bitmap ++ zeros 8

/-- Issue a coalesced record, and the hub-level one when it is the third quire's within 10 ms (16 R418, R419). Log entry 122. -/
def issueCoalesced (w : CoalWin) (outcome : Nat) (s : State) : State :=
  let subs := subjectsOf w.evs
  let length := if w.phase = 2 then w.last - w.opened else s.now - w.last
  let body := coalBody w.quire outcome subs.length (length / usU) (bitmapOf w.ecode subs)
  let lasting := w.evs.any (·.lasting)
  let s := issueAt { ecode := w.ecode, subject := w.quire, stream := 0, body := body, lasting := lasting, time := [] } 1 1
    subs.length (le 16 (bitmapOf w.ecode subs)) (stampNow s) s
  if w.phase = 1 then s
  else
    let near := (s.faults.opened.filter fun o => decide (o.1 = w.ecode) && decide (o.2.1 ≠ w.quire)
      && decide (w.opened - o.2.2.1 ≤ 10 * msU) && decide (o.2.2.1 - w.opened ≤ 10 * msU))
    let mine := (w.ecode, w.quire, w.opened, subs.length)
    let s := { s with faults.opened := mine :: s.faults.opened.filter fun o => decide (s.now - o.2.2.1 ≤ 100 * msU) }
    if near.length = 2 then
      let counts := (span 0 7).map fun q => match (mine :: near).find? (fun o => o.2.1 == q) with
        | some o => o.2.2.2
        | none => 0
      let b := (counts.map (le 2)).flatten ++ zeros 2
      issueAt { ecode := w.ecode, subject := 0xFFFF, stream := 0, body := b, lasting := lasting, time := [] } 0 8
        (total counts) b (stampNow s) s
    else s

/-! ### Events of originators (16 R420) -/

/-- An event of an originator joins its key of the present second; `extra` follows its identity, the latest standing. -/
def raiseOrigWith (extra : List Byte) (ecode idKind port : Nat) (ident : List Byte) (n : Nat) (s : State) : State :=
  let t := stampNow s
  match s.faults.orig.find? (fun k => k.ecode == ecode && k.idKind == idKind && k.ident == ident) with
  | some _ =>
    { s with faults.orig := s.faults.orig.map fun k =>
        if k.ecode = ecode ∧ k.idKind = idKind ∧ k.ident = ident then
          { k with count := k.count + n, last := t, extra := extra } else k }
  | none =>
    { s with faults.orig := s.faults.orig ++
        [{ ecode := ecode, idKind := idKind, port := port, ident := ident, count := n, first := t, last := t, extra := extra }] }

/-- The same with nothing behind the identity. -/
def raiseOrig (ecode idKind port : Nat) (ident : List Byte) (n : Nat) (s : State) : State :=
  raiseOrigWith [] ecode idKind port ident n s

/-- The record of a key. -/
def origBody (k : OrigKey) : List Byte :=
  le 1 k.idKind ++ le 1 k.port ++ le 2 0 ++ le 4 k.count ++ fitBytes 16 (k.ident ++ k.extra) ++ k.first

/-- The header of MG_FAULTS: worst class and number of active faults (02 R54, 16 R415). -/
def activeFaults (s : State) : List FaultEntry := s.faults.active.filter (fun f => f.listed && !f.causes.isEmpty)
def worstClass (s : State) : Nat := (activeFaults s).foldl (fun m f => max m (f.code / 4096)) 0

/-! ### The rows of chapter 16 that drive the fault manager -/

/-- The window of a code and quire. -/
def coalWin (s : State) (ecode q : Nat) : Option CoalWin :=
  s.faults.wins.find? (fun w => w.ecode == ecode && w.quire == q)

def dropWin (ecode q : Nat) (s : State) : State :=
  { s with faults.wins := s.faults.wins.filter fun w => !(w.ecode == ecode && w.quire == q) }

def putWin (w : CoalWin) (s : State) : State :=
  { s with faults.wins := s.faults.wins.map fun v => if v.ecode = w.ecode ∧ v.quire = w.quire then w else v }

/-- COALESCE_WINDOW_END (16 R418). -/
def coalesceEnd (ecode q : Nat) (s : State) : State :=
  match coalWin s ecode q with
  | none => s
  | some w =>
    if w.phase ≠ 0 ∨ s.now < w.opened + 2 * msU then s
    else if 8 ≤ (subjectsOf w.evs).length then
      if ecode = 0x0401 then putWin { w with phase := 2, last := s.now } s
      else
        let s := issueCoalesced w 0 s
        putWin { w with phase := 1, evs := [], last := s.now } s
    else dropWin ecode q (w.evs.foldl (fun s e => issue e s) s)

/-- COALESCE_REPEAT_PERIOD (16 R418). -/
def coalesceRepeat (ecode q : Nat) (s : State) : State :=
  match coalWin s ecode q with
  | none => s
  | some w =>
    if w.phase ≠ 1 ∨ s.now < w.last + 100 * msU then s
    else if w.evs.isEmpty then dropWin ecode q s
    else
      let s := issueCoalesced w 0 s
      putWin { w with evs := [], last := s.now } s

/-- ORIGINATOR_EVENT_SECOND: the keys of a second of device time that is over (16 R420). -/
def originSecond (s : State) : State :=
  let sec := devSec (devNow s)
  if sec = s.faults.origSec then s
  else
  let l := s.faults.orig
  let s := { s with faults.orig := [], faults.origSec := sec }
  l.foldl (fun s k =>
    issueAt { ecode := k.ecode, subject := 0xFFFF, stream := 0, body := origBody k, lasting := k.ecode = 0x0802, time := [] }
      0 0 1 ((origBody k).take 16) k.last s) s

/-- FLAP_SECOND_END: the end of a second of safety-oscillator time (16 R417). -/
def flapEnd (s : State) : State :=
  let sec := sinceRelease s / secU
  if sec = s.faults.flapSec then s
  else
  let l := s.faults.active
  let s := { s with faults.flapSec := sec }
  let s := l.foldl (fun s f => if f.unlogged = 0 then s
    else keepLog (faultLog f.code 4 (2 * unsetFlag s) 0 0 0xFFFF (min f.unlogged 65535) [] f.occurrences (stampNow s)) s) s
  { s with faults.active := s.faults.active.map fun f =>
      { f with setInSecond := false, clearInSecond := false, unlogged := 0 } }

/-- COALESCE_WINDOW_END: the 2 ms window of a code on a quire ends (16 R418). -/
def execCoalesceWindowEnd (at_ ecode q : Nat) (s : State) : Host.Outcome State Fault Refusal :=
  .next (coalesceEnd ecode q (s.tick at_))

/-- COALESCE_REPEAT_PERIOD: a further 100 ms of a code that keeps arising (16 R418). -/
def execCoalesceRepeatPeriod (at_ ecode q : Nat) (s : State) : Host.Outcome State Fault Refusal :=
  .next (coalesceRepeat ecode q (s.tick at_))

/-- ORIGINATOR_EVENT_SECOND (16 R420). -/
def execOriginatorEventSecond (at_ : Nat) (s : State) : Host.Outcome State Fault Refusal :=
  .next (when_ (managerRuns (s.tick at_)) originSecond (s.tick at_))

/-- FLAP_SECOND_END (16 R417). -/
def execFlapSecondEnd (at_ : Nat) (s : State) : Host.Outcome State Fault Refusal :=
  .next (flapEnd (s.tick at_))

end Sys2Proof.Machine
end

