-- ==== Sys2Proof/Machine/Journal.lean ====
section
/-! DEFINITION. The change journal: entries, their chain, the partition and its tail (16 R405 to R412). -/

namespace Sys2Proof.Machine

/-- Length of an entry (16 R405). -/
def jLen (e : JEntry) : Nat := 8 * ceilDiv (84 + e.body.length) 8

/-- Bytes 0 to ELEN - 5 of an entry, what its CRC and the chain's hash cover. -/
def jBody (e : JEntry) : List Byte :=
  fitBytes (jLen e - 4)
    (le 2 (jLen e) ++ le 2 e.kind ++ le 1 e.port ++ le 1 e.role ++ le 1 e.part ++ le 1 e.jflags ++ le 8 e.entry
      ++ fitBytes 16 e.time ++ le 4 e.session ++ le 4 e.credential ++ le 4 e.startCount ++ le 2 e.tag
      ++ le 2 e.body.length ++ fitBytes 32 e.prevHash ++ e.body)

/-- An entry as flash holds it. -/
def jBytes (e : JEntry) : List Byte := jBody e ++ le 4 (crc32c (jBody e) ^^^ e.crcXor)

/-- The entries of the partition, oldest first. -/
def jAll (s : State) : List JEntry := s.flash.journal.sectors.flatten

/-- The entries that are whole. -/
def jWhole (s : State) : List JEntry := (jAll s).filter (!·.torn)

/-- Number the next entry takes. -/
def jNext (s : State) : Nat :=
  match (jAll s).getLast? with
  | none => 0
  | some e => e.entry + 1

/-- The head hash: the digest of the newest entry; 32 zero bytes before entry 0 (16 R408). -/
def jHead (s : State) : List Byte :=
  match (jWhole s).getLast? with
  | none => zeros 32
  | some e => sha256 (jBody e)

/-- The oldest entry held. -/
def jFirst (s : State) : Nat :=
  match (jAll s).head? with
  | none => 0
  | some e => e.entry

/-- Bytes that a sector's entries take. -/
def sectorUsed (l : List JEntry) : Nat := total (l.map jLen)

/-- Bytes of a sector, and sectors of the partition (16 R409). -/
def sectorSize : Nat := 65536
def sectorCount : Nat := 128

/-- Append to the last sector. -/
def appendLast (e : JEntry) : List (List JEntry) → List (List JEntry)
  | [] => [[e]]
  | [l] => [l ++ [e]]
  | l :: r => l :: appendLast e r

/-- Program an entry into erased space, without the retention rule. -/
def jProgram (e : JEntry) (s : State) : State :=
  let secs := s.flash.journal.sectors
  let used := sectorUsed (secs.getLast?.getD [])
  let torn := ((secs.getLast?.getD []).getLast?.map (·.torn)).getD false
  let secs' := if used + jLen e ≤ sectorSize ∧ torn = false then appendLast e secs else secs ++ [[e]]
  { s with flash.journal.sectors := secs', flash.last := 1 }

/-- The new entry's place in the chain. -/
def jLink (e : JEntry) (s : State) : JEntry :=
  { e with entry := jNext s, prevHash := jHead s, startCount := s.flash.journal.startCount }

/-- The RETENTION entry that names the oldest sector's entries; its hash is the one that the next sector's first entry
carries, so a torn entry has none (16 R407, R409). -/
def retention (s : State) : JEntry :=
  let old := s.flash.journal.sectors.headD []
  let lo := (old.head?.map (·.entry)).getD 0
  let hi := (old.getLast?.map (·.entry)).getD 0
  let h := ((old.filter (!·.torn)).getLast?.map fun e => sha256 (jBody e)).getD
    ((s.flash.journal.sectors.drop 1).flatten.head?.map (·.prevHash) |>.getD (zeros 32))
  { (default : JEntry) with kind := 0xFF0A, port := 6, role := 0xFF, jflags := 2 * unsetFlag s, time := stampNow s,
                            body := le 8 lo ++ le 8 hi ++ h }

/-- The last sector ends in a torn entry: its rest is abandoned (16 R409). -/
def tornTail (s : State) : Bool := ((jAll s).getLast?.map (·.torn)).getD false

/-- Write an entry: when it does not fit in erased space, RETENTION first and the oldest sector erased; space for
that entry is kept in the last sector, and a torn tail is closed before it (16 R409; log entry 18). -/
def jWrite (e : JEntry) (s : State) : State :=
  let secs := s.flash.journal.sectors
  let used := sectorUsed (secs.getLast?.getD [])
  if secs.length = sectorCount ∧ tornTail s = true then
    let r := retention s
    let s := jProgram (jLink e s) { s with flash.journal.sectors := secs.drop 1 ++ [[]] }
    jProgram (jLink r s) s
  else if secs.length = sectorCount ∧ sectorSize - 136 < used + jLen e then
    let s := jProgram (jLink (retention s) s) s
    let s := { s with flash.journal.sectors := s.flash.journal.sectors.drop 1 ++ [[]] }
    jProgram (jLink e s) s
  else jProgram (jLink e s) s

/-- Bytes of a JOURNAL folio of one entry on RING3 while mirroring runs (14 R363; log entry 19). -/
def jMirror (s : State) : State :=
  if s.jrn.mirrorOn then
    ((jWhole s).filter fun e => decide (s.jrn.mirrorNext ≤ e.entry)).foldl
      (fun s e => { put3 0x21 1 (jBytes e) s with jrn.mirrorNext := e.entry + 1 }) s
  else s

/-- Append an entry: to flash, or held in SRAM while the journal is FAILED (16 R410). -/
def jAppend (e : JEntry) (s : State) : State :=
  if s.jrn.failed then
    { s with jrn.held := s.jrn.held + 1,
             jrn.heldEntries := if s.jrn.heldEntries.length < 256 then s.jrn.heldEntries ++ [e] else s.jrn.heldEntries }
  else if s.flash.bad.contains 0 then
    raiseOnce (evL 0x0E01 0xFFFF) { s with jrn.failed := true, jrn.held := 1, jrn.heldEntries := [e] }
  else jMirror (jWrite e s)

/-- Cut a body into parts of at most 1,964 bytes, whole units each (16 R406). -/
def jParts (fuel unit : Nat) (body : List Byte) : List (List Byte) :=
  match fuel with
  | 0 => []
  | n + 1 =>
    let size := 1964 / unit * unit
    if body.length ≤ size then [body] else body.take size :: jParts n unit (body.drop size)

/-- An entry whose body may need several parts. -/
def jSplit (e : JEntry) (unit : Nat) (body : List Byte) (s : State) : State :=
  let parts := jParts (body.length + 1) unit body
  (parts.zipIdx).foldl (fun s p =>
    jAppend { e with part := p.2, body := p.1, jflags := setBits 3 3 (b2n (decide (p.2 + 1 < parts.length))) e.jflags } s) s

/-- An internal entry of a change at a time, with its origin's port (16 R405, R407). Log entry 120. -/
def jInternalAt (port : Nat) (time : List Byte) (kind : Nat) (body : List Byte) (s : State) : State :=
  jAppend { (default : JEntry) with kind := kind, port := port, role := 0xFF, jflags := 2 * unsetFlag s, time := time,
                                    body := body } s

/-- An internal entry at the present. -/
def jInternal (kind : Nat) (body : List Byte) (s : State) : State := jInternalAt 6 (stampNow s) kind body s

/-- An entry of a command, at the instant at which it acted (16 R405, R406). Log entry 120. -/
def jCommand (r : Req) (accepted : Bool) (unit : Nat) (body : List Byte) (s : State) : State :=
  jSplit { (default : JEntry) with
    kind := r.opcode, port := r.port, role := r.role,
    jflags := b2n r.ranLate + 2 * unsetFlag s + 4 * b2n accepted,
    time := if r.ranAt.isEmpty then stampNow s else r.ranAt, session := r.session, credential := r.credential, tag := r.tag } unit body s

/-- The entry of a command that has succeeded: parameters, then final reply parameters (16 R406). -/
def jDone (r : Req) (reply : List Byte) (s : State) : State := jCommand r false 1 (r.params ++ reply) s

/-- What a check of the chain finds: entries checked, and the first bad entry with its reason
(1 HASH, 2 CRC, 3 SEQUENCE; 16 R412). -/
def jVerify : List JEntry → Nat → List Byte → Nat → Nat × Option (Nat × Nat)
  | [], _, _, k => (k, none)
  | e :: r, m, h, k =>
    let n := if e.kind = 0xFF09 ∧ e.entry = m + 1 ∧ fld 0 8 e.body = m then m + 1 else m
    if e.crcXor ≠ 0 then (k, some (m, 2))
    else if e.entry ≠ n then (k, some (n, 3))
    else if e.prevHash ≠ h then (k, some (n, 1))
    else jVerify r (n + 1) (sha256 (jBody e)) (k + 1)

/-- The anchor of a walk from the oldest entry held: the hash in the RETENTION entry that named the entries before it; zeros
for entry 0 (16 R412). An anchor that is no longer held is the entry's own. -/
def jAnchor (s : State) : List Byte :=
  match (jAll s).head? with
  | none => zeros 32
  | some e =>
    if e.entry = 0 then zeros 32
    else
      match (jWhole s).find? fun r => r.kind == 0xFF0A && decide (fld 8 8 r.body + 1 = e.entry) with
      | some r => slice 16 32 r.body
      | none => e.prevHash

/-- The last entry of the partition is torn. -/
def tearLast (s : State) : State :=
  { s with flash.journal.sectors := s.flash.journal.sectors.dropLast ++ (s.flash.journal.sectors.getLast?.toList.map fun l =>
      l.dropLast ++ (l.getLast?.toList.map fun e => { e with torn := true })) }

/-- Step 13: a tail that is partly programmed or whose CRC fails is torn, and TORN_TAIL in a fresh sector closes it (16 R409). -/
def jTail (s : State) : State :=
  match (jAll s).getLast? with
  | none => s
  | some e => if e.torn ∨ e.crcXor ≠ 0 then jInternal 0xFF09 (le 8 e.entry) (tearLast s) else s

/-- Erased space in KiB (16 R411). -/
def jFreeKib (s : State) : Nat :=
  (sectorCount * sectorSize - total (s.flash.journal.sectors.dropLast.map fun _ => sectorSize)
    - (if tornTail s then sectorSize else sectorUsed (s.flash.journal.sectors.getLast?.getD []))) / 1024

end Sys2Proof.Machine
end

