-- ==== Sys2Proof/Machine/Keys.lean ====
section
/-! DEFINITION. The KEYS partition: wrapped records in flash and their unwrapped values (16 R398, R399, R403). -/

namespace Sys2Proof.Machine

/-- The context of a record: its index followed by the write count (16 R399). -/
def keyContext (index writes : Nat) : List Byte := le 4 index ++ le 4 writes

/-- Records from the index `i` on, wrapped under the device key. -/
def wrapCreds (writes i : Nat) : List Credential → List KeyRecord
  | [] => []
  | c :: r =>
    { id := c.id, role := c.role, ports := c.ports, wrapped := wrapSecret Config.deviceKey (keyContext i writes) c.secret }
      :: wrapCreds writes (i + 1) r

/-- Group keys stand behind the 64 places of the credentials. -/
def wrapGroups (writes i : Nat) : Tab (List Byte) → List KeyRecord
  | [] => []
  | (g, k) :: r =>
    { id := g, role := 0, ports := 0, wrapped := wrapSecret Config.deviceKey (keyContext i writes) k } :: wrapGroups writes (i + 1) r

/-- KEYS takes new contents: flash and the unwrapped copy. A FAILED partition changes its policy fields only. Log entry 118. -/
def programKeys (k : Keys) (s : State) : State :=
  let f := s.flash.keys
  let n := (f.writes + 1) % 2 ^ 32
  let f : KeysFlash :=
    if k.state = 2 then { f with anonEn := k.anonEn, anonRole := k.anonRole }
    else { programmed := true, writes := n, creds := wrapCreds n 0 k.creds, groups := wrapGroups n 64 k.groupKeys,
           anonEn := k.anonEn, anonRole := k.anonRole }
  { s with cz.keys := k, flash.keys := f, flash.last := 5 }

/-- Every record unwraps, from the index `i` on. -/
def unwrapAll (writes i : Nat) : List KeyRecord → Option (List (KeyRecord × List Byte))
  | [] => some []
  | x :: r =>
    match unwrapSecret Config.deviceKey (keyContext i writes) x.wrapped, unwrapAll writes (i + 1) r with
    | some k, some l => some ((x, k) :: l)
    | _, _ => none

/-- KEYS as read: BLANK when erased, VALID when every record passes, otherwise FAILED (16 R403). -/
def readKeys (f : KeysFlash) : Keys :=
  if ¬ f.programmed then { (default : Keys) with anonEn := true }
  else
    match unwrapAll f.writes 0 f.creds, unwrapAll f.writes 64 f.groups with
    | some c, some g =>
      { state := 1, creds := c.map fun p => { id := p.1.id, role := p.1.role, ports := p.1.ports, secret := p.2 },
        groupKeys := g.map fun p => (p.1.id, p.2), anonEn := f.anonEn, anonRole := f.anonRole }
    | _, _ => { (default : Keys) with state := 2, anonEn := f.anonEn, anonRole := f.anonRole }

/-- KEYS is unwrapped in step 13 of the start; KEYS_FAILED is a fault that lasts (16 R403). -/
def loadKeys (s : State) : State := { s with cz.keys := readKeys s.flash.keys }

/-- A program of KEYS cut short leaves a record that does not pass (02 R39, 16 R403). -/
def cutKeys (f : KeysFlash) : KeysFlash := { f with programmed := true, creds := [default] }

end Sys2Proof.Machine
end

