-- ==== Sys2Proof/Machine/Cuzan.lean ====
section
/-! DEFINITION. The Cuzan protocol: packets and their checks, sessions, tags, replies (13; 14 R350 to R354). -/

namespace Sys2Proof.Machine

/-! ### Reply statuses (00 R15) -/

def stOk : Nat := 0x0000
def stQueued : Nat := 0x0001
def stBusy : Nat := 0x0101
def stLate : Nat := 0x0102
def stHeld : Nat := 0x0103
def stDenied : Nat := 0x0201
def stSealed : Nat := 0x0202
def stInvalid : Nat := 0x0301
def stUnknown : Nat := 0x0302
def stConflict : Nat := 0x0303
def stUnsupported : Nat := 0x0401
def stStage : Nat := 0x0501
def stFaulted : Nat := 0x0601
def stOut : Nat := 0x0602

/-- Parameters of a FAULTED reply: the fault code and a reserved word (14 R349). -/
def faultParams (ecode : Nat) : List Byte := le 2 (faultCode ecode) ++ le 2 0

/-! ### The opcode table (14 R352, R353) -/

/-- Role, allowed in Trunk, first minor version of major 2 (none: defined from 1.2), apply-at accepted, journaled whenever it
succeeds; PB_WRITE, journaled when it changes a field, judges that itself (14 R353). -/
structure OpRow where
  role : Nat
  trunk : Bool
  since : Option Nat
  applyAt : Bool
  journaled : Bool
  deriving DecidableEq, Repr

/-- The row of an opcode; none for an opcode no version defines. Role 0 Observer, 1 Operator, 2 Calibrator, 3 Safety
Officer, 4 Custodian; per-instance roles are judged by the command (14 R351). -/
def opRow (op : Nat) : Option OpRow :=
  match op with
  | 0x0000 => some ⟨0, true, none, false, true⟩
  | 0x0001 => some ⟨0, true, none, false, true⟩
  | 0x0002 => some ⟨0, true, none, false, false⟩
  | 0x0003 => some ⟨1, true, some 0, false, false⟩
  | 0x0004 => some ⟨0, true, some 2, false, false⟩
  | 0x0100 => some ⟨0, true, none, false, false⟩
  | 0x0101 => some ⟨0, true, none, false, false⟩
  | 0x0102 => some ⟨0, true, none, false, false⟩
  | 0x0103 => some ⟨0, false, none, true, true⟩
  | 0x0200 => some ⟨0, false, some 0, false, false⟩
  | 0x0201 => some ⟨0, false, some 3, false, false⟩
  | 0x0300 => some ⟨1, false, some 0, true, false⟩
  | 0x0301 => some ⟨1, false, some 0, false, false⟩
  | 0x0302 => some ⟨1, false, some 1, false, true⟩
  | 0x0303 => some ⟨1, false, some 1, false, true⟩
  | 0x0400 => some ⟨1, false, some 0, false, false⟩
  | 0x0401 => some ⟨1, false, some 0, false, false⟩
  | 0x0402 => some ⟨1, false, some 0, false, false⟩
  | 0x0403 => some ⟨2, false, some 0, false, true⟩
  | 0x0404 => some ⟨2, false, some 0, false, true⟩
  | 0x0405 => some ⟨2, false, some 0, false, true⟩
  | 0x0406 => some ⟨2, false, some 0, false, true⟩
  | 0x0407 => some ⟨0, true, some 0, false, false⟩
  | 0x0500 => some ⟨0, true, none, false, false⟩
  | 0x0501 => some ⟨1, false, some 0, false, true⟩
  | 0x0502 => some ⟨1, false, some 0, false, true⟩
  | 0x0503 => some ⟨1, false, some 0, true, false⟩
  | 0x0504 => some ⟨1, false, some 0, false, false⟩
  | 0x0600 => some ⟨1, false, some 0, false, false⟩
  | 0x0601 => some ⟨1, false, some 0, false, false⟩
  | 0x0602 => some ⟨1, false, some 0, false, false⟩
  | 0x0603 => some ⟨1, false, some 0, false, true⟩
  | 0x0604 => some ⟨1, false, some 1, true, true⟩
  | 0x0605 => some ⟨1, false, some 1, false, true⟩
  | 0x0606 => some ⟨1, false, some 1, false, false⟩
  | 0x0700 => some ⟨1, false, none, false, true⟩
  | 0x0701 => some ⟨1, false, none, false, true⟩
  | 0x0702 => some ⟨1, false, some 0, false, false⟩
  | 0x0800 => some ⟨0, true, some 0, false, false⟩
  | 0x0801 => some ⟨3, false, some 0, false, true⟩
  | 0x0802 => some ⟨3, false, some 0, false, true⟩
  | 0x0803 => some ⟨3, false, some 0, false, true⟩
  | 0x0804 => some ⟨3, false, some 3, false, false⟩
  | 0x0900 => some ⟨4, true, some 0, false, true⟩
  | 0x0901 => some ⟨4, true, some 0, false, true⟩
  | 0x0902 => some ⟨4, true, some 0, false, false⟩
  | 0x0903 => some ⟨0, true, some 0, false, false⟩
  | 0x0904 => some ⟨1, true, some 0, false, true⟩
  | 0x0905 => some ⟨0, true, some 2, false, false⟩
  | 0x0906 => some ⟨4, true, some 1, false, true⟩
  | 0x0A00 => some ⟨0, true, some 0, false, false⟩
  | 0x0A01 => some ⟨0, true, some 0, false, false⟩
  | 0x0A02 => some ⟨1, true, some 0, false, false⟩
  | 0x0A03 => some ⟨4, true, some 0, false, true⟩
  | 0x0A04 => some ⟨0, true, some 0, false, false⟩
  | 0x0B00 => some ⟨4, true, some 0, false, true⟩
  | 0x0B01 => some ⟨4, true, some 0, false, false⟩
  | 0x0B02 => some ⟨4, true, some 0, false, true⟩
  | 0x0B03 => some ⟨4, false, some 0, false, true⟩
  | 0x0B04 => some ⟨3, true, some 0, false, true⟩
  | 0x0B05 => some ⟨1, false, some 0, false, true⟩
  | 0x0B06 => some ⟨1, false, some 0, false, true⟩
  | 0x0B07 => some ⟨4, false, some 0, false, true⟩
  | 0x0B08 => some ⟨1, false, some 0, false, true⟩
  | 0x0C00 => some ⟨1, true, some 2, false, false⟩
  | 0x0C01 => some ⟨1, true, some 0, false, true⟩
  | 0x0C02 => some ⟨1, true, some 2, false, true⟩
  | _ => none

/-- A role meets a minimum role (14 R350). -/
def meets (role need : Nat) : Bool :=
  if role = 5 then true
  else if need = 0 then true
  else if need = 1 then decide (1 ≤ role)
  else decide (role = need)

/-- An opcode is defined in a version (14 R353). -/
def definedIn (row : OpRow) (major minor : Nat) : Bool :=
  match row.since with
  | none => true
  | some m => decide (major = 2 ∧ m ≤ minor)

/-! ### Sessions -/

/-- The session of an id. -/
def session? (s : State) (id : Nat) : Option Session := s.cz.sessions.find? (·.id == id)

/-- Put a session's record. -/
def putSession (v : Session) (s : State) : State :=
  { s with cz.sessions := s.cz.sessions.map fun x => if x.id = v.id then v else x }

/-- Change a session's record. -/
def onSession (id : Nat) (f : Session → Session) (s : State) : State :=
  { s with cz.sessions := s.cz.sessions.map fun x => if x.id = id then f x else x }

/-- Hub port of Cuzan datagrams (13 R320). -/
def cuzanPort : Nat := 18470

/-- Bytes go back to where the packet came from (13 R320, 11 R286). -/
def sendBytes (port : Nat) (source : List Byte) (srcPort : Nat) (bytes : List Byte) (s : State) : State :=
  if port = 0 then { s with host.backlog := s.host.backlog ++ [bytes] }
  else sendUdp (port - 1) source srcPort cuzanPort false bytes s

/-- The header of a packet (13 R321). -/
def packetHeader (op major minor tag paramLen sess flags : Nat) : List Byte :=
  le 2 op ++ le 1 major ++ le 1 minor ++ le 2 tag ++ le 2 paramLen ++ le 4 sess ++ le 4 flags

/-- A segment of a reply, with its trailer when the session uses one (13 R324, R325, R326). -/
def segment (op major minor tag sess : Nat) (key : Option (List Byte)) (final more ranLate : Bool)
    (prefix_ body : List Byte) : List Byte :=
  let flags := 8 * b2n key.isSome + 16 + 32 * b2n final + 64 * b2n more + 128 * b2n ranLate
  let m := packetHeader op major minor tag (prefix_.length + body.length) sess flags ++ prefix_ ++ body
  match key with
  | none => m
  | some k => m ++ hmac k m

/-- The segments of a reply. -/
def segments (fuel cap : Nat) (mk : Bool → List Byte → List Byte) (body : List Byte) : List (List Byte) :=
  match fuel with
  | 0 => []
  | n + 1 => if body.length ≤ cap then [mk false body] else mk true (body.take cap) :: segments n cap mk (body.drop cap)

/-- The bytes of a reply to a request (13 R325, R326). -/
def replyBytes (op major minor tag sess maxReply : Nat) (key : Option (List Byte)) (status : Nat) (final : Bool)
    (late : Option (List Byte)) (body : List Byte) : List (List Byte) :=
  let pre := le 2 status ++ le 2 0 ++ late.getD []
  let cap := max 1 (maxReply - 16 - pre.length - 32 * b2n key.isSome)
  segments (body.length + 1) cap (fun more b => segment op major minor tag sess key (final && !more) more late.isSome pre b)
    body

/-- Evict the oldest replies until a cache holds at most 32 KiB (13 R335). -/
def trimCache (fuel : Nat) (c : List (Nat × List Byte)) : List (Nat × List Byte) :=
  match fuel with
  | 0 => c
  | n + 1 => if total (c.map (·.2.length)) ≤ 32768 then c else trimCache n (c.drop 1)

/-- Send a reply within a session and cache it; a final one settles the tag (13 R325, R335, R337). -/
def sendReply (v : Session) (r : Req) (status : Nat) (final : Bool) (body : List Byte) (s : State) : State :=
  let late := if r.ranLate then some r.ranAt else none
  let parts := replyBytes r.opcode v.major v.minor r.tag v.id v.maxReply (if v.trailer then some v.key else none)
    status final late body
  let s := parts.foldl (fun s b => sendBytes v.port r.source r.srcPort b s) s
  let c := v.cache ++ parts.map fun b => (r.tag, b)
  onSession v.id (fun x => { x with cache := trimCache c.length c,
                                    owed := if final then x.owed.filter (· != r.tag) else x.owed }) s

/-- A reply within a session; while the command processor restarts it waits for the restart's end (17 R437). -/
def replyIn (v : Session) (r : Req) (status : Nat) (final : Bool) (body : List Byte) (s : State) : State :=
  if s.boot.restart.isSome then
    { s with cz.late := s.cz.late ++ [{ req := r, status := status, final := final, body := body }] }
  else sendReply v r status final body s

/-- A reply to a request; one to a session that has closed is dropped (11 R286). -/
def replyTo (r : Req) (status : Nat) (final : Bool) (body : List Byte) (s : State) : State :=
  match session? s r.session with
  | none => s
  | some v => replyIn v r status final body s

/-- The only or the last reply. -/
def answer (r : Req) (status : Nat) (body : List Byte) (s : State) : State := replyTo r status true body s

/-- QUEUED. -/
def queued (r : Req) (body : List Byte) (s : State) : State := replyTo r stQueued false body s

/-- A refusal: nothing has run, late or not (13 R345). -/
def refuse (r : Req) (status : Nat) (s : State) : State := answer { r with ranLate := false } status [] s

/-- FAULTED with its fault code (14 R349). -/
def faulted (r : Req) (ecode : Nat) (s : State) : State := answer { r with ranLate := false } stFaulted (faultParams ecode) s

/-- The final reply, or an EVENT record of RING2 when its session has closed (13 R333). -/
def answerOr (r : Req) (status : Nat) (body : List Byte) (ecode : Nat) (s : State) : State :=
  match session? s r.session with
  | some v => replyIn v r status true body s
  | none => raise (evB ecode 0xFFFF (le 2 status ++ le 2 r.opcode ++ le 4 r.session ++ le 2 r.tag ++ zeros 6 ++ body)) s

/-- A refusal, and FAULTED with its fault code, that outlive the session (13 R333). -/
def refuseOr (r : Req) (status : Nat) (s : State) : State := answerOr { r with ranLate := false } status [] 0x1010 s
def faultedOr (r : Req) (ecode : Nat) (s : State) : State := answerOr { r with ranLate := false } stFaulted (faultParams ecode) 0x1010 s

/-- Has the session that asked closed? -/
def sessionOpen (s : State) (r : Req) : Bool := (session? s r.session).isSome

/-! ### Closing a session (13 R333) -/

/-- The session closes: staged blocks and cached replies go with it, the streams bound to it stop sending, its
transfer of firmware is abandoned by the caller. -/
def dropSession (id : Nat) (s : State) : State := { s with cz.sessions := s.cz.sessions.filter (·.id != id) }

/-! ### Tags (13 R334) -/

/-- The verdict on a tag: 0 new, 1 new highest, 2 duplicate, 3 stale. -/
def judgeTag (v : Session) (t : Nat) : Nat :=
  let back := (v.high + 65536 - t % 65536) % 65536
  if back < 64 then (if v.seen.contains (t % 65536) then 2 else 0)
  else if (t % 65536 + 65536 - v.high) % 65536 < 32768 then 1 else 3

/-- The tag is marked seen and the window slides. -/
def seeTag (v : Session) (t : Nat) : Session :=
  let h := if judgeTag v t = 1 then t % 65536 else v.high
  { v with high := h, seen := (t % 65536 :: v.seen).filter fun x => decide ((h + 65536 - x) % 65536 < 64) }

/-- Re-send what is cached for a tag, or CONFLICT (13 R335). -/
def resend (v : Session) (r : Req) (tag : Nat) (s : State) : State :=
  let l := v.cache.filter (·.1 == tag)
  if l.isEmpty then
    (replyBytes r.opcode v.major v.minor r.tag v.id v.maxReply (if v.trailer then some v.key else none) stConflict true
      none []).foldl (fun s b => sendBytes v.port r.source r.srcPort b s) s
  else l.foldl (fun s b => sendBytes v.port r.source r.srcPort b.2 s) s

/-! ### The checks (13 R327, R328) -/

/-- The header and parameters as sent. -/
def packetBytes (op : Nat) (p : Packet) : List Byte :=
  packetHeader op p.major p.minor p.tag p.paramLen p.session p.flags ++ p.params

/-- Check 1: the length and FLAGS bits [31:8]. -/
def lengthOk (p : Packet) : Bool :=
  decide (p.bytes = 16 + p.paramLen + 32 * b2n (bit 3 p.flags) ∧ p.params.length = p.paramLen
    ∧ p.trailer.length = 32 * b2n (bit 3 p.flags) ∧ p.bytes ≤ (if p.port = 0 then 65536 else 8192)
    ∧ p.flags < 256)

/-- A packet dropped on its port, counted (13 R328); checks 2 and 3 also against its source (16 R404). -/
def dropPacket (p : Packet) (auth : Bool) (s : State) : State :=
  let s := { s with cz.dropped := s.cz.dropped.put p.port (s.cz.dropped.get p.port 0 + 1) }
  if auth then raiseOrig 0x0E10 (if p.source.length = 4 then 1 else 2) p.port p.source 1 s else s

/-- An answer outside any session, on PCIe only: TAG and SESSION echoed, no trailer (13 R328). -/
def answerBare (op : Nat) (p : Packet) (status : Nat) (s : State) : State :=
  (replyBytes op p.major p.minor p.tag p.session 8192 none status true none []).foldl
    (fun s b => sendBytes p.port p.source p.srcPort b s) s

/-- The request of a packet in a session. -/
def mkReq (op : Nat) (p : Packet) (v : Session) (s : State) : Req :=
  let applies := bit 0 p.flags
  { port := p.port, session := v.id, tag := p.tag % 65536, opcode := op, major := v.major, minor := v.minor,
    role := v.role, credential := v.credential, trailer := v.trailer,
    params := if applies then p.params.drop 12 else p.params,
    applyAt := if applies then readDt12 p.params else none,
    runNow := bits 2 1 p.flags = 1, ranLate := false, ranAt := [], source := p.source, srcPort := p.srcPort, accepted := s.now }

/-- Check 10 on flags and the apply-at time (13 R322, R323, R344, R354). -/
def flagsOk (row : OpRow) (p : Packet) (v : Session) (s : State) : Bool :=
  decide (bits 7 4 p.flags = 0) && decide (bits 2 1 p.flags ≤ 1)
    && (bit 0 p.flags || decide (bits 2 1 p.flags = 0))
    && (decide (v.major = 2) || decide (bits 2 0 p.flags = 0))
    && (!bit 0 p.flags || (row.applyAt && decide (12 ≤ p.paramLen) &&
        (match readDt12 p.params with
         | none => false
         | some t => decide (t ≤ devNow s + 10000000 * (secU : Int)))))

/-- The apply-at time of a request has passed (13 R344). -/
def isLate (r : Req) (s : State) : Bool :=
  match r.applyAt with
  | none => false
  | some t => decide (t ≤ devNow s)

/-- Checks 8 to 12 as far as every opcode shares them, then the command's own conditions and effect. -/
def passChecks (row : OpRow) (p : Packet) (v : Session) (r : Req) (need : Nat) (ok : Bool) (aligned : Req → State → Bool)
    (body : Req → State → State) (s : State) : State :=
  if ¬ meets v.role need then refuse r stDenied s
  else if ¬ (row.trunk || inCrown s) then refuse r stStage s
  else if ¬ (flagsOk row p v s && ok) then refuse r stInvalid s
  else
    let late := isLate r s
    let r' := if late then { r with ranLate := true, ranAt := stampNow s, applyAt := none } else r
    if (late && !r.runNow) || aligned r' s then refuse r stLate s
    else
      let r := r'
      let s := onSession v.id (fun x => { x with pending := none }) s
      if 64 < (((session? s v.id).map (·.owed.length)).getD 0) then refuse r stBusy s
      else if row.journaled && s.jrn.failed && decide (r.opcode ≠ 0x0B04) then faulted r 0x0E01 s
      else body r s

/-- A packet of a session: checks 1 to 12 in order (13 R327). `need` gives the role the parameters require, `ok` the
parameter checks of check 10, `aligned` the grid alignment of check 11. -/
def serveAt (aligned : Req → State → Bool) (op : Nat) (need : Req → State → Nat) (ok : Req → State → Bool) (body : Req → State → State) (p : Packet)
    (s : State) : State :=
  if ¬ lengthOk p then (if p.port = 0 then answerBare op p stInvalid s else dropPacket p false s)
  else
    match s.cz.sessions.find? (fun v => v.id == p.session && v.port == p.port) with
    | none => if p.port = 0 then answerBare op p stDenied s else dropPacket p true s
    | some v =>
      if (v.trailer && !bit 3 p.flags) || (bit 3 p.flags && hmac v.key (packetBytes op p) != p.trailer) then
        (if p.port = 0 then answerBare op p stDenied s else dropPacket p true s)
      else
        let s := onSession v.id (fun x => { x with lastPacket := s.now }) s
        let r := mkReq op p v s
        let verdict := judgeTag v p.tag
        if verdict = 3 then s
        else if verdict = 2 then resend v r r.tag s
        else
          let s := onSession v.id (fun x => { seeTag x p.tag with owed := r.tag :: x.owed }) s
          if p.major ≠ v.major ∨ p.minor ≠ v.minor then refuse r stUnsupported s
          else
            match opRow op with
            | none => refuse r stUnknown s
            | some row =>
              if ¬ definedIn row v.major v.minor then refuse r stUnsupported s
              else passChecks row p v r (need r s) (ok r s) aligned body s

/-- A packet of a session whose command is not aligned to the grid. -/
def serve (op : Nat) (need : Req → State → Nat) (ok : Req → State → Bool) (body : Req → State → State) (p : Packet)
    (s : State) : State := serveAt (fun _ _ => false) op need ok body p s

/-- The minimum role of the table. -/
def tableRole (r : Req) (_ : State) : Nat := ((opRow r.opcode).map (·.role)).getD 0

/-- Parameters of exactly `n` bytes. -/
def exactly (n : Nat) (r : Req) (_ : State) : Bool := decide (r.params.length = n)

/-- Reserved parameter bytes are zero (00 R10). -/
def zeroAt (off len : Nat) (r : Req) : Bool := allZero (slice off len r.params)

/-- A field of the parameters. -/
def Req.f (r : Req) (off len : Nat) : Nat := fld off len r.params

/-- Packets arrive: from RING0 in order, while it is ACTIVE and fewer than 256 replies wait (11 R286), or on an Ethernet port that is UP and
speaks the source's address family (12 R310). -/
def fetches (s : State) (p : Packet) : Bool :=
  if p.port = 0 then decide ((ring s 0).state = 1 ∧ s.host.backlog.length < 256 ∧ s.cz.unread = []) && dmaOk s
  else portSpeaks s (p.port - 1) (decide (p.source.length ≠ 4))

/-- The command processor takes a packet now, or on PCIe it stays unread in RING0 (02 R51, R52; 11 R286). -/
def receive (op : Nat) (p : Packet) (take : Packet → State → State) (s : State) : State :=
  if s.boot.fwRuns ∧ s.boot.restart = none ∧ fetches s p = true then take p s
  else if p.port = 0 ∧ ¬ s.boot.inReset then { s with cz.unread := s.cz.unread ++ [(op, p)] }
  else s

end Sys2Proof.Machine
end

