-- ==== Sys2Proof/Machine/Store.lean ====
section
/-! DEFINITION. Folios and the hold-back store: the folio frame, slots, the yield policies, GAP and DISCONTINUITY
records, acknowledgement (10). -/

namespace Sys2Proof.Machine

/-! ### Streams and their settings (10 R258, R262; 09 R241; 05 R130) -/

/-- A capture stream (09 R241). -/
def isCapture (s : State) (n : Nat) : Bool := cfBit s 0x0707 n 0x00 31

/-- The stream a cover stream covers; 0 when it covers none (10 R258). -/
def coverOf (s : State) (n : Nat) : Nat := cf s 0x0801 n 0x00 23 16

/-- A relay stream (12 R318). -/
def transport (s : State) (n : Nat) : Nat := cf s 0x0A04 n 0x00 31 28
def isRelay (s : State) (n : Nat) : Bool := decide (5 ≤ transport s n)

/-- SOURCE of a capture stream; the stream that a capture or a cover stream follows, its own source's for a capture of a
cover, and otherwise itself: it gives the channel set, K, N and response (10 R258). -/
def captureSource (s : State) (n : Nat) : Nat := cf s 0x0707 n 0x00 7 0
def sourceOf (s : State) (n : Nat) : Nat :=
  let m := if isCapture s n then captureSource s n else n
  if coverOf s m ≠ 0 then coverOf s m else m

/-- The channel codes of a channel set, ascending (10 R259). -/
def setMembers (s : State) (k : Nat) : List Nat :=
  (List.range 28).flatMap fun w =>
    let m := word s 0x0802 k (4 * w)
    if m = 0 then [] else (List.range 32).filterMap fun i => if bit i m then some (32 * w + i) else none

def streamSetNo (s : State) (n : Nat) : Nat := cf s 0x0801 (sourceOf s n) 0x00 5 0
def streamSet (s : State) (n : Nat) : List Nat := setMembers s (streamSetNo s n)
def streamK (s : State) (n : Nat) : Nat := cf s 0x0301 (sourceOf s n) 0x00 19 16
def streamN (s : State) (n : Nat) : Nat := cf s 0x0301 (sourceOf s n) 0x04 15 0 + 1
def streamReduce (s : State) (n : Nat) : Nat := if isCapture s n then 0 else cf s 0x0801 n 0x00 9 8
def streamF32 (s : State) (n : Nat) : Bool :=
  decide (cf s 0x0203 (if isCapture s n then captureSource s n else n) 0x00 1 0 = 1)

/-- The sample period T in 2^-16 ns (08 R208). -/
def periodOf (s : State) (n : Nat) : Nat := 2 ^ (streamK s n + 1) * streamN s n * sincU

/-- The first index whose instant lies at or after a device time. -/
def indexCeil (s : State) (n : Nat) (t : Int) : Nat := (-((-t) / (periodOf s n : Int))).toNat

/-- The index that covers a device time (08 R208). -/
def indexFloor (s : State) (n : Nat) (t : Int) : Nat := (t / (periodOf s n : Int)).toNat

/-- RUNNING, or STARTING or RUNNING. -/
def running (s : State) (n : Nat) : Bool := decide ((stream s n).state = 2)
def live (s : State) (n : Nat) : Bool := decide ((stream s n).state = 1 ∨ (stream s n).state = 2)
def runningStreams (s : State) : List Nat := streamList.filter (running s)
def anyRunning (s : State) : Bool := streamList.any (running s)

/-- Cover streams of a stream, and capture streams that take it as source. Log entry 105. -/
def coversOf (s : State) (n : Nat) : List Nat := streamList.filter fun m => decide (coverOf s m = n) && !isCapture s m
/-- Log entry 105. -/
def capturesOf (s : State) (n : Nat) : List Nat :=
  streamList.filter fun m => isCapture s m && decide (captureSource s m = n)
/-- Every capture stream that draws on a stream's samples, over a cover stream of it or not. -/
def rootCaptures (s : State) (n : Nat) : List Nat := streamList.filter fun m => isCapture s m && decide (sourceOf s m = n)

/-- The stream whose re-phases still lie ahead of a stream's next sample: its own for a capture stream. -/
def gridStream (s : State) (n : Nat) : Nat := if isCapture s n then n else sourceOf s n

/-- By how much the numbers of the next sample's sinc instants lie ahead of its grid's (05 R137). -/
def Stream.shift (st : Stream) : Int := st.grids.foldl (fun a g => a + g.delta) 0

/-- The sinc number of sample `i`'s instant. -/
def centre (s : State) (n i : Nat) : Int :=
  ((i * 2 ^ (streamK s n + 1) * streamN s n : Nat) : Int) + (stream s (gridStream s n)).shift

/-- The state with the configuration in force at a sinc number, and at a sample's instant (01 R32). -/
def State.at (m : Int) (s : State) : State :=
  match (s.past.filter fun p => decide (m < p.1)).getLast? with
  | none => s
  | some p => { s with cfg := p.2 }
def atSample (s : State) (n i : Nat) : State := s.at (centre s n i)

/-- An index of a stream lies on the provisional scale (08 R198). -/
def provisional (s : State) (n i : Nat) : Bool :=
  decide (s.time.state = 0) || (stream s n).unsetLast.any fun l => decide (i ≤ l)

/-! ### The folio frame (10 R246, R247) -/

/-- The folio of 4,096 bytes that leaves the hub. -/
def folioBytes (f : Folio) : List Byte :=
  let cnt := f.count
  let head := le 1 f.ftype ++ le 1 2 ++ le 1 f.stream ++ le 1 f.fflags ++ le 2 f.payload.length ++ le 2 f.chset
    ++ le 8 f.seq ++ le 8 f.firstIndex ++ le 4 cnt
  let body := fitBytes 4064 f.payload
  head ++ le 4 (crc32c (head ++ zeros 4 ++ body)) ++ body

/-! ### Slots (10 R264, R267, R269, R274) -/

/-- Slots in a number of MiB. -/
def slotsIn (mib : Nat) : Nat := mib * 1048576 / 4128

/-- The store's size in MiB (10 R267). -/
def storeMib (s : State) : Nat :=
  if s.boot.storeMode = 1 then s.store.lpMib else if s.boot.storeMode = 2 then 6 else 0

/-- Stream slots in total. -/
def storeSlots (s : State) : Nat :=
  if s.boot.storeMode = 1 then slotsIn s.store.lpMib else if s.boot.storeMode = 2 then 1524 else 0

def quotaMib (s : State) (n : Nat) : Nat := cf s 0x0801 n 0x0C 31 16
def reserveMib (s : State) (n : Nat) : Nat := if isCapture s n then cf s 0x0707 n 0x0C 15 0 else 0

/-- Slots a stream holds. -/
def occupancy (st : Stream) : Nat := total (st.q.folios.map (·.slots))

/-- A stream that takes part in the shares of a fallback store (10 R268). -/
def sharing (s : State) (n : Nat) : Bool := decide ((stream s n).state ≠ 0)
def shareWeight (s : State) (n : Nat) : Nat := (if isCapture s n then reserveMib s n else quotaMib s n) + 1

/-- The slots reserved for a stream: its quota and a capture stream's reserve, or its share of the fallback. -/
def quotaSlots (s : State) (n : Nat) : Nat :=
  if s.store.shareMode then
    if sharing s n then 1524 * shareWeight s n / total ((streamList.filter (sharing s)).map (shareWeight s)) else 0
  else slotsIn (quotaMib s n) + slotsIn (reserveMib s n)

/-- The shared pool (10 R269). -/
def poolSlots (s : State) : Nat :=
  if s.store.shareMode then 0 else storeSlots s - total (streamList.map (quotaSlots s))

/-- Pool slots that streams hold, and pool slots free. -/
def poolUsed (s : State) (n : Nat) : Nat := occupancy (stream s n) - quotaSlots s n
def poolFree (s : State) : Nat := poolSlots s - total (streamList.map (poolUsed s))

/-- The most a stream may draw from the pool. -/
def poolLimit (s : State) (n : Nat) : Nat :=
  min (slotsIn (cf s 0x0801 n 0x0C 15 0)) (poolSlots s)

/-- A stream's allowance and its free slots (10 R269). -/
def allowance (s : State) (n : Nat) : Nat := quotaSlots s n + poolLimit s n
def freeSlots (s : State) (n : Nat) : Nat :=
  (quotaSlots s n - occupancy (stream s n)) + min (poolFree s) (poolLimit s n - poolUsed s n)

/-- Slots free in all. -/
def slotsFree (s : State) : Nat := storeSlots s - total (streamList.map fun n => occupancy (stream s n))

/-! ### Records (10 R252, R253) -/

/-- A GAP record of 64 bytes. -/
def gapBytes (g : GapRec) : List Byte :=
  le 2 64 ++ le 1 g.reason ++ le 1 g.disposition ++ le 1 g.quire ++ le 1 g.cover ++ le 1 g.coverState ++ le 1 0
    ++ le 8 g.first ++ le 8 g.last ++ le 8 g.retiredFirst ++ le 4 g.retiredCount ++ le 4 g.channels
    ++ le 8 g.coverFirst ++ le 8 g.coverLast ++ le 2 g.firstSlot ++ le 2 g.lastSlot ++ le 4 0

/-- A DISCONTINUITY record of 64 bytes. -/
def discBytes (d : DiscRec) : List Byte :=
  le 2 64 ++ le 1 d.dkind ++ le 1 d.dflags ++ le 2 d.channel ++ le 2 d.count ++ le 8 d.index ++ le 8 d.oldLast
    ++ fitBytes 24 d.body ++ le 8 d.newBase ++ le 4 d.rebaseCount ++ le 4 0

/-- Words a record of a stream with `c` channels names: whole indices of the affected channels, less the slots cut off
at either end. -/
def gapWords (c : Nat) (g : GapRec) : Nat :=
  if g.channels ≠ 0 then (g.last + 1 - g.first) * g.channels
  else (g.last + 1 - g.first) * c - g.firstSlot - (c - 1 - g.lastSlot)

/-- The ledger's counts of a written GAP record (10 R272). -/
def countGap (c : Nat) (g : GapRec) (st : Stream) : Stream :=
  { st with undelivered := if g.disposition = 0 then (g.first, g.last) :: st.undelivered else st.undelivered,
            gapCount := st.gapCount + 1, retiredCount := st.retiredCount + g.retiredCount,
            notDelivered := if g.disposition = 0 then st.notDelivered + gapWords c g else st.notDelivered,
            degraded := if g.disposition = 1 then st.degraded + gapWords c g else st.degraded }

/-- The GAP records of a folio, as far as the ledger counts them; and what it counts no longer when they are lost. -/
def gapsIn (f : Folio) : List GapRec :=
  if f.ftype ≠ 0x11 then []
  else (List.range f.count).map fun k =>
    let b := slice (64 * k) 64 f.payload
    { (default : GapRec) with disposition := fld 3 1 b, first := fld 8 8 b, last := fld 16 8 b, retiredCount := fld 32 4 b,
                              channels := fld 36 4 b, firstSlot := fld 56 2 b, lastSlot := fld 58 2 b }
def uncountGap (c : Nat) (g : GapRec) (st : Stream) : Stream :=
  { st with retiredCount := st.retiredCount - g.retiredCount,
            notDelivered := if g.disposition = 0 then st.notDelivered - gapWords c g else st.notDelivered,
            degraded := if g.disposition = 1 then st.degraded - gapWords c g else st.degraded }

/-- The cover of a stream for a range: cover stream, state, first and last SEQ of the cover folios that overlap it. COMPLETE when
the whole range lies in cover folios that are in the store or acknowledged, PARTIAL when some of it does; with `acked` only
acknowledged ones count (10 R252, R268, R271). -/
def coverFor (s : State) (acked : Bool) (n first last : Nat) : Nat × Nat × Nat × Nat :=
  match coversOf s n with
  | [] => (0, 0, 0, 0)
  | m :: _ =>
    let st := stream s m
    let l := (st.coverLog.filter fun w => decide (w.1 ≤ last ∧ first ≤ w.2.1)).reverse
    let held := fun (w : Nat × Nat × Nat) =>
      (!acked && st.q.folios.any fun f => decide (f.seq = w.2.2 ∧ f.ftype < 0x10))
        || (decide (w.2.2 < st.q.ackNext) && !st.undelivered.any fun r => decide (r.1 ≤ w.1 ∧ w.2.1 ≤ r.2))
    let kept := l.filter held
    let missing := st.stalled.any (fun f => decide (f ≤ last)) || decide (st.lastIndex < last)
      || (!(st.mm.isEmpty : Bool) && decide (st.mmFirst ≤ last)) || st.opened.any (fun o => decide (o.firstIndex ≤ last))
      || st.undelivered.any fun r => decide (r.1 ≤ last ∧ first ≤ r.2)
    (m, if kept.isEmpty then 0 else if missing ∨ kept.length < l.length then 2 else 1, (l.head?.map (·.2.2)).getD 0,
      (l.getLast?.map (·.2.2)).getD 0)

/-- A GAP record of a stream over a range of whole indices. -/
def mkGap (s : State) (n reason disposition first last : Nat) : GapRec :=
  let c := coverFor s (reason == 6) n first last
  { (default : GapRec) with reason := reason, disposition := disposition, quire := 0xFF, cover := c.1, coverState := c.2.1,
                            first := first, last := last, coverFirst := c.2.2.1, coverLast := c.2.2.2,
                            firstSlot := 0, lastSlot := (streamSet s n).length - 1 }

/-- A DISCONTINUITY record of a whole stream. -/
def mkDisc (s : State) (dkind index oldLast : Nat) (body : List Byte) : DiscRec :=
  { (default : DiscRec) with dkind := dkind, dflags := 4 * unsetFlag s, channel := 0xFFFF, index := index,
                             oldLast := oldLast, body := body, rebaseCount := s.time.rebases }

/-! ### Writing folios -/

/-- CHSET of a folio that carries no samples, and the FFLAGS CAPTURE and TIME_UNSET of a record folio at an index (10 R246). -/
def noSet : Nat := 0xFFFF
def captureFlag (s : State) (n : Nat) : Nat := 32 * b2n (isCapture s n)
def streamFlags (s : State) (n i : Nat) : Nat := 16 * b2n (provisional s n i) + captureFlag s n

/-- Numbers that are left in a stream's range when it is closed: more than one index and one resume can use (log entry 130). -/
def rangeMargin : Nat := 64

/-- Before the index `i` a stream that nears the end of its range is due a SEQUENCE_BASE record, and the start count rises
(02 R59). -/
def seqRoom (n i : Nat) (s : State) : State :=
  let st := stream s n
  if 2 ^ 44 - rangeMargin ≤ st.q.nextSeq % 2 ^ 44 ∧ ¬ st.discs.any (·.dkind == 4) then
    let base := s.store.base + 2 ^ 44
    let d := { mkDisc s 4 i (i - 1) [] with newBase := base }
    let count := (s.flash.journal.startCount + 1) % 2 ^ 20
    { setStream n { st with discs := st.discs ++ [d] } s with store.base := base, flash.journal.startCount := count,
                                                               boot.startCount := count }
  else s

/-- A DISCONTINUITY folio's record of a kind. -/
def discIn (dkind : Nat) (f : Folio) : Option (List Byte) :=
  if f.ftype ≠ 0x12 then none
  else ((List.range f.count).map fun k => slice (64 * k) 64 f.payload).find? fun b => decide (fld 2 1 b = dkind)

/-- The row of the continuity table follows its stream with every folio (02 R58). A DISCONTINUITY folio names the first new
index: what it acknowledges ends before that. -/
def noteContinuity (n : Nat) (s : State) : State :=
  let st := stream s n
  if n < 4 ∨ st.state = 0 then { s with store.continuity := s.store.continuity.del n }
  else
    let old := s.store.continuity.get n default
    let end_ : Folio → Nat := fun f => if f.ftype = 0x12 then f.lastIndex - 1 else f.lastIndex
    let ackedIndex := match (st.q.folios.filter (·.acked)).getLast? with
      | none => old.ackedIndex
      | some f => if old.ackedSeq ≤ f.seq then end_ f else old.ackedIndex
    let row : Continuity :=
      { startCount := s.store.base / 2 ^ 44, written := st.q.nextSeq - 1, ackedSeq := st.q.ackNext - 1,
        ackedIndex := ackedIndex, produced := if st.produced then st.lastIndex else old.produced }
    { s with store.continuity := s.store.continuity.put n row }

/-- Put a folio of a stream into the store under its next sequence number: RUN_FIRST_SEQ is that of the STREAM_START folio, and
after a SEQUENCE_BASE record the numbers go on from the new base. -/
def pushFolio (n : Nat) (f : Folio) (s : State) : State :=
  let st := stream s n
  let q := st.q.push { f with stream := n, inLp := decide (s.boot.storeMode = 1), fflags := f.fflags ||| captureFlag s n }
  let q := match discIn 4 f with | none => q | some b => { q with nextSeq := fld 48 8 b }
  noteContinuity n (setStream n { st with
    q := q, runFirstSeq := if (discIn 5 f).isSome then st.q.nextSeq else st.runFirstSeq,
    coverLog := if coverOf s n ≠ 0 ∧ f.ftype < 0x10 then (f.firstIndex, f.lastIndex, st.q.nextSeq) :: st.coverLog
                else st.coverLog } s)

/-- A folio holds a sample that an armed sequencer has still to evaluate, that a CROSSING to come may be interpolated from, that
a waiting bookmark names, or that the fire kept for the ONE_SHOT decision will name (01 R31, 09 R224, R233, R239). -/
def named_ (s : State) (n : Nat) (f : Folio) : Bool :=
  let armed := (List.range 8).any fun k => decide ((seqr s k).run = 1 ∧ cf s 0x0701 k 0x00 15 8 = n)
  let crossed := (List.range 64).any fun k => decide (cf s 0x0702 k 0x00 31 28 = 2 ∧ cf s 0x0702 k 0x04 31 24 = n)
    && (cond s k).prev.any fun p => decide (p.1 ≤ f.lastIndex)
  (armed && crossed) ||
  (List.range 8).any (fun k => decide ((seqr s k).run = 1 ∧ cf s 0x0701 k 0x00 15 8 = n ∧ (seqr s k).next ≤ f.lastIndex))
    || s.trg.waiting.any (fun b => decide (b.stream = n ∧ f.firstIndex ≤ b.index ∧ b.index ≤ f.lastIndex))
    || (bit n (word s 0x0706 0 0x10) && (s.group.best.toList ++ s.group.kept).any fun b =>
          decide (f.firstIndex ≤ indexFloor s n b.1 ∧ indexFloor s n b.1 ≤ f.lastIndex))

/-- A folio of a stream held after its acknowledgement: the last ACCEPT_LATE_MS of a stream in MARK_STREAMS, and what a
bookmark may still name (01 R31, 09 R240). -/
def retained (s : State) (n : Nat) (f : Folio) : Bool :=
  decide (4 ≤ n)
    && (named_ s n f || (bit n (word s 0x0706 0 0x10)
      && decide (devNow s ≤ ((f.lastIndex + 1) * periodOf s n + cf s 0x0706 0 0x0C 31 16 * msU : Nat))))

/-- A data folio that has never been sent and is not retained (10 R271). -/
def sheddable (s : State) (n : Nat) (f : Folio) : Bool :=
  decide (f.ftype < 0x10) && !f.sent && !f.staged && !f.acked && !retained s n f

/-- The oldest run of at least two consecutive folios that may be shed, at most `m` long. -/
def shedRun (ok : Folio → Bool) (m : Nat) : List Folio → List Folio
  | [] => []
  | f :: r =>
    let run := ((f :: r).takeWhile ok).take m
    if 2 ≤ run.length then run else shedRun ok m r

/-- The first and the last slot of the words that folios hold: the pieces of dense indices and min/max groups (10 R246, R252).
Log entry 107. -/
def firstSlotOf (f : Folio) : Nat := if f.ftype = 1 ∨ f.ftype = 2 ∨ f.ftype = 4 then f.count / 65536 else 0
def lastSlotOf (c : Nat) (f : Folio) : Nat :=
  if (f.ftype = 1 ∨ f.ftype = 2 ∨ f.ftype = 4) ∧ c ≠ 0 then (f.count / 65536 + f.count % 65536 + c - 1) % c else c - 1

/-- The GAP record for a run of folios of a stream that are given up, from the first to the last. -/
def runGap (s : State) (n reason : Nat) (f l : Folio) : GapRec :=
  { mkGap s n reason 0 f.firstIndex l.lastIndex with
    retiredFirst := if l.seq = f.seq then 0 else f.seq + 1, retiredCount := l.seq - f.seq,
    firstSlot := firstSlotOf f, lastSlot := lastSlotOf (streamSet s n).length l }

/-- Shed: the run is replaced by one GAP folio under its first SEQ (10 R271). -/
def shed (n : Nat) (s : State) : Option State :=
  let st := stream s n
  let run := shedRun (sheddable s n) (max 2 (occupancy st / 64)) st.q.folios
  match run, run.getLast? with
  | f :: _, some l =>
    let g := runGap s n 2 f l
    let gf := { (default : Folio) with seq := f.seq, ftype := 0x11, stream := n, fflags := f.fflags &&& 48 ||| 4,
                                       chset := noSet, firstIndex := f.firstIndex, lastIndex := l.lastIndex, count := 1,
                                       payload := gapBytes g, slots := 2, inLp := f.inLp }
    let folios := st.q.folios.filterMap fun x =>
      if x.seq = f.seq then some gf else if run.any (·.seq == x.seq) then none else some x
    let q := { st.q with folios := folios, retired := st.q.retired ++ [(f.seq + 1, run.length - 1)] }
    some (setStream n (countGap (streamSet s n).length g { st with q := q }) s)
  | _, _ => none

/-- The stream becomes STALLED at the first sample of a folio that finds no slot (10 R270). -/
def stallAt (n : Nat) (f : Folio) (s : State) : State :=
  setStream n { stream s n with stalled := some f.firstIndex,
                                stalledSlot := firstSlotOf f } s

/-- Shed run after run until `need` slots are free, or no run can be shed; none when not even one could. -/
def shedFor (need n : Nat) : Nat → State → Option State
  | 0, _ => none
  | k + 1, s =>
    match (if cfBit s 0x0801 n 0x10 0 then shed n s else none) with
    | none => none
    | some s' => if need ≤ freeSlots s' n then some s' else some ((shedFor need n k s').getD s')

/-- Write a folio, leaving `kept` slots: into its slots, or by shedding, or the stream becomes STALLED at the folio's first index
(10 R269 to R271). -/
def writeInto (kept n : Nat) (f : Folio) (s : State) : State :=
  if (stream s n).stalled.isSome then s
  else if f.slots + kept ≤ freeSlots s n then pushFolio n f s
  else
    let s := (shedFor (f.slots + kept) n (stream s n).q.folios.length s).getD s
    if f.slots + kept ≤ freeSlots s n then pushFolio n f s else stallAt n f s

/-- Write a folio; two slots stay free for the GAP folio of a stall. -/
def writeFolio (n : Nat) (f : Folio) (s : State) : State := writeInto 2 n f s

/-- Close the open folio of a stream; `flushed` marks one closed by its flush interval (10 R246, R248). -/
def closeOpen (n : Nat) (flushed : Bool) (s : State) : State :=
  match (stream s n).opened with
  | none => s
  | some o =>
    let pay := if o.ftype = 2 then o.payload ++ o.flagPlane ++ zeros ((4 - o.flagPlane.length % 4) % 4) else o.payload
    let cnt := if o.ftype = 3 then o.count else o.firstSlot * 65536 + o.count
    let f := { (default : Folio) with ftype := o.ftype, chset := streamSetNo s n,
                                      fflags := 8 * b2n flushed + 16 * b2n o.unset,
                                      firstIndex := o.firstIndex, lastIndex := o.lastIndex, count := cnt,
                                      payload := pay, slots := 1 }
    writeFolio n f (setStream n { stream s n with opened := none } s)

/-! ### Assembly (10 R248 to R251; 04 R120) -/

/-- A P24 word: flag byte and value code, in the stream's alignment and the channel's coding (04 R120). -/
def p24Word (right offset : Bool) (flags : Nat) (code : Int) : Nat :=
  let v := (ofSigned 24 code + (if offset then 2 ^ 23 else 0)) % 2 ^ 24
  if right then flags * 2 ^ 24 + v else v * 2 ^ 8 + flags

/-- The open folio of a stream, opened at an index and a slot when there is none. Log entry 107. -/
def openAt (n ftype i slot : Nat) (s : State) : OpenFolio :=
  ((stream s n).opened).getD { (default : OpenFolio) with ftype := ftype, firstIndex := i, firstSlot := slot, since := s.now,
                                                          flush := cf s 0x0801 n 0x10 31 12,
                                                          unset := provisional s n i }

/-- Words, pairs or records that a folio holds (10 R249 to R251). -/
def folioCap (ftype : Nat) : Nat := if ftype = 1 then 1016 else if ftype = 2 then 812 else 508

/-- A unit of payload enters assembly; a full folio, one of the other format, or a SPARSE one whose delta would not fit, closes
first. -/
def append (n ftype i slot last : Nat) (bytes : Nat → List Byte) (flag : List Byte) (s : State) : State :=
  if (stream s n).stalled.isSome then s
  else
    let full : Bool := match (stream s n).opened with
      | none => false
      | some o => decide (folioCap ftype ≤ o.count) || ftype != o.ftype || (ftype == 3 && decide (o.firstIndex + 65535 < i))
    let s := if full then closeOpen n false s else s
    if (stream s n).stalled.isSome then s
    else
      let o := openAt n ftype i slot s
      let o := { o with count := o.count + 1, lastIndex := last, payload := o.payload ++ bytes o.firstIndex,
                        flagPlane := o.flagPlane ++ flag }
      setStream n { stream s n with opened := some o } s

/-- ALIGN = RIGHT of a stream; OFFSET_BINARY of the channel at a slot. -/
def alignRight (s : State) (n : Nat) : Bool :=
  cfBit s 0x0203 (if isCapture s n then captureSource s n else n) 0x00 8
def slotOffset (s : State) (n k : Nat) : Bool := cfBit s 0x0201 ((streamSet s n).getD k 0) 0x00 28

/-- The P24 word of a value code with the ALIGN and CODING that a state holds (04 R120). -/
def wordUnder (f : State) (n k flags : Nat) (code : Int) : Nat := p24Word (alignRight f n) (slotOffset f n k) flags code

/-- The pairs of the group in hand are emitted, coded as its last sample is (10 R251, 01 R32). -/
def emitGroup (n : Nat) (s : State) : State :=
  let st := stream s n
  let l := st.mm
  let f := atSample s n st.mmLast
  let s := setStream n { st with mm := [] } s
  l.foldl (fun s (p : Nat × MinMax) =>
    append n 4 st.mmFirst p.1 st.mmLast (fun _ => le 4 (wordUnder f n p.1 p.2.flags p.2.minCode)
      ++ le 4 (wordUnder f n p.1 p.2.flags p.2.maxCode)) [] s) s

/-- A cut: a partial group is emitted and the open folio closes (10 R248, R251). -/
def cutOpen (n : Nat) (s : State) : State :=
  closeOpen n false (emitGroup n s)

/-- One sample of every channel of a stream enters assembly, in slot order, in the format and coding of its instant. -/
def appendDense (n i : Nat) (l : List Sample) (s : State) : State :=
  let f := atSample s n i
  (l.zipIdx).foldl (fun s (p : Sample × Nat) =>
    if streamF32 f n then append n 2 i p.2 i (fun _ => le 4 p.1.f32) (le 1 p.1.flags) s
    else append n 1 i p.2 i (fun _ => le 4 (wordUnder f n p.2 p.1.flags p.1.code)) [] s) s

/-- SPARSE: a record where R250 asks for one; the open folio spans the index. -/
def appendSparse (n i : Nat) (l : List Sample) (s : State) : State :=
  let f := atSample s n i
  let s := l.foldl (fun s (x : Sample) =>
    let due : Bool := match (stream s n).sparse.find x.channel with
      | none => true
      | some (v, g) => decide (cf s 0x0801 n 0x08 23 0 ≤ (x.code - v).natAbs) || decide (g ≠ x.flags)
    if due then
      let s := append n 3 i 0 i (fun first => le 2 x.channel ++ le 2 (i - first)
        ++ le 4 (p24Word (alignRight f n) (cfBit f 0x0201 x.channel 0x00 28) x.flags x.code)) [] s
      setStream n { stream s n with sparse := (stream s n).sparse.put x.channel (x.code, x.flags) } s
    else s) s
  setStream n { stream s n with opened := (stream s n).opened.map fun o => { o with lastIndex := i } } s

/-- MINMAX: the sample joins its group; a group that is full is emitted. -/
def appendMinMax (n i : Nat) (l : List Sample) (s : State) : State :=
  if (stream s n).stalled.isSome then s
  else
    let g := cf s 0x0801 n 0x04 31 16
    let st := stream s n
    let mm := (l.zipIdx).foldl (fun (t : Tab MinMax) (p : Sample × Nat) =>
      t.put p.2 (match t.find p.2 with
        | none => { minCode := p.1.code, maxCode := p.1.code, flags := p.1.flags }
        | some m => { minCode := min m.minCode p.1.code, maxCode := max m.maxCode p.1.code, flags := m.flags ||| p.1.flags })) st.mm
    let s := setStream n { st with mm := mm, mmFirst := if st.mm.isEmpty then i else st.mmFirst, mmLast := i } s
    if (i + 1) % g = 0 then emitGroup n s else s

/-- A sample enters the assembly of a stream by its reduction. -/
def appendSample (n i : Nat) (l : List Sample) (s : State) : State :=
  if (stream s n).stalled.isSome then s
  else if streamReduce s n = 1 then appendMinMax n i l s
  else if streamReduce s n = 2 then appendSparse n i l s
  else appendDense n i l s

/-- A restate point of a SPARSE stream (10 R250). Log entry 106. -/
def restate (n : Nat) (s : State) : State := setStream n { stream s n with sparse := [] } s

/-- Write a folio of GAP records, leaving `kept` slots. Where the stream stalls first they stay pending, for the parts that a
resume leaves them (10 R270). Log entry 106. -/
def putGaps (kept n : Nat) (l : List GapRec) (s : State) : State :=
  match l, l.getLast? with
  | g :: _, some h =>
    let c := (streamSet s n).length
    let s := cutOpen n s
    let s := writeInto kept n { (default : Folio) with ftype := 0x11, chset := noSet, fflags := streamFlags s n g.first,
                                                       firstIndex := g.first, lastIndex := h.last, count := l.length,
                                                       payload := (l.map gapBytes).flatten, slots := 2 } s
    let st := stream s n
    restate n (if st.stalled.isSome then setStream n { st with gaps := st.gaps ++ l } s
      else setStream n (l.foldl (fun st g => countGap c g st) st) s)
  | _, _ => s

/-- GAP folios of at most 63 records, in index order. -/
def writeGaps (n : Nat) (l : List GapRec) (s : State) : State :=
  forAll (cutInto 63 l.length (sortOn (·.first) l)) (putGaps 2 n) s

/-- Write a folio of DISCONTINUITY records; while STALLED they stay pending, at most 16 (10 R254, R270). -/
def writeDiscs (n : Nat) (fflags : Nat) (l : List DiscRec) (s : State) : State :=
  match l, l.getLast? with
  | d :: _, some h =>
    let s := cutOpen n s
    let s := writeFolio n { (default : Folio) with ftype := 0x12, chset := noSet,
                                                   fflags := fflags + streamFlags s n d.index,
                                                   firstIndex := d.index, lastIndex := h.index, count := l.length,
                                                   payload := (l.map discBytes).flatten, slots := 2 } s
    let st := stream s n
    restate n (if st.stalled.isSome then setStream n { st with discs := st.discs ++ l } s else s)
  | _, _ => s

/-- A DISCONTINUITY record of a stream is due at its first affected sample (10 R254). -/
def dueDisc (n : Nat) (d : DiscRec) (s : State) : State :=
  setStream n { stream s n with discs := (stream s n).discs ++ [d] } s

/-- A GAP record likewise. -/
def dueGap (n : Nat) (g : GapRec) (s : State) : State :=
  setStream n { stream s n with gaps := (stream s n).gaps ++ [g] } s

/-- Before sample `index` of a stream is written, the records due at or before it stand in the sequence (10 R254).
Log entry 106. -/
def placeRecords (n index : Nat) (s : State) : State :=
  if (stream s n).stalled.isSome then s
  else
    let s := seqRoom n index s
    let st := stream s n
    let gs := st.gaps.filter fun g => decide (g.first ≤ index)
    let ds := st.discs.filter fun d => decide (d.index ≤ index)
    let s := setStream n { st with gaps := st.gaps.filter (fun g => decide (index < g.first)),
                                   discs := st.discs.filter (fun d => decide (index < d.index)) } s
    writeGaps n gs (writeDiscs n 0 (sortOn (·.index) ds) s)

/-! ### Bookmark records and capture windows leave (09 R232, R244) -/

/-- The open BOOKMARK folio closes. -/
def closeMarks (s : State) : State :=
  if s.trg.openRecs.isEmpty then s
  else put2 0x10 s.trg.openRecs.length s.trg.openRecs.flatten { s with trg.openRecs := [] }

/-- A record enters the BOOKMARK folio, which holds at most 63. -/
def markRecord (b : List Byte) (s : State) : State :=
  let since := if s.trg.openRecs.isEmpty then s.now else s.trg.openSince
  let s := { s with trg.openRecs := s.trg.openRecs ++ [b], trg.openSince := since }
  if 63 ≤ s.trg.openRecs.length then closeMarks s else s

/-- A CAPTURE_CLOSED record (09 R244). -/
def closedRecord (s : State) (n : Nat) (w : CapWindow) : List Byte :=
  le 2 64 ++ le 1 0x10 ++ le 1 n ++ le 1 (captureSource s n) ++ le 1 w.cflags ++ le 2 (min w.marks 65535) ++ le 8 w.first
    ++ le 8 w.last ++ le 8 w.reqFirst ++ le 8 w.reqLast ++ le 8 w.firstMark ++ le 4 w.id ++ zeros 12

/-- A capture stream's sample has been delivered: released, and no longer in assembly, in a stall or in a folio that has still
to be sent. -/
def delivered (st : Stream) (i : Nat) : Bool :=
  st.produced && decide (i ≤ st.lastIndex) && !st.stalled.any (fun f => decide (f ≤ i))
    && !st.opened.any (fun o => decide (o.firstIndex ≤ i ∧ i ≤ o.lastIndex))
    && !st.q.folios.any fun f => decide (f.firstIndex ≤ i ∧ i ≤ f.lastIndex ∧ f.ftype < 0x12) && !f.sent && !f.acked

/-- The windows whose last sample has been delivered are closed, with their records (09 R244). -/
def closeWindows (n : Nat) (s : State) : State :=
  let st := stream s n
  let done := st.windows.filter fun w => delivered st w.last
  if done.isEmpty then s
  else done.foldl (fun s w => markRecord (closedRecord s n w) s)
    (setStream n { st with windows := st.windows.filter fun w => !delivered st w.last } s)

/-! ### Acknowledgement and freeing (10 R269, 09 R240) -/

/-- The first number at or above `k` that is not retired. -/
def skipRetired (fuel : Nat) (l : List (Nat × Nat)) (k : Nat) : Nat :=
  match fuel with
  | 0 => k
  | n + 1 =>
    match l.find? (fun r => decide (r.1 ≤ k ∧ k < r.1 + r.2)) with
    | none => k
    | some r => skipRetired n l (r.1 + r.2)

/-- Free what is acknowledged, not retained and not in staging; acknowledging FINAL ends DRAINING (10 R257, 11 R285). -/
def freeFolios (n : Nat) (s : State) : State :=
  let st := stream s n
  let folios := st.q.folios.filter fun f => !(f.acked && !retained s n f && !f.staged)
  let done := decide (st.state = 3) && folios.isEmpty && decide (st.stalled = none) && st.opened.isNone
  let s := setStream n { st with q := { st.q with folios := folios }, state := if done then 0 else st.state } s
  if done then noteContinuity n s else s

/-- Every number up to `seq` is acknowledged. -/
def FolioQ.ack (q : FolioQ) (seq : Nat) : FolioQ :=
  let q := { q with folios := q.folios.map fun f => if f.seq ≤ seq then { f with acked := true } else f }
  if q.ackNext ≤ seq then { q with ackNext := skipRetired (q.retired.length + 1) q.retired (seq + 1) } else q

/-- Acknowledge on a stream. -/
def ackStream (n seq : Nat) (s : State) : State :=
  let st := stream s n
  freeFolios n (closeWindows n (noteContinuity n (setStream n { st with q := st.q.ack seq } s)))

/-- RING2 and RING3 free at acknowledgement. -/
def ackQ (q : FolioQ) (seq : Nat) : FolioQ :=
  let q := q.ack seq
  { q with folios := q.folios.filter fun f => !(f.acked && !f.staged) }

/-! ### Stall and resume (10 R270) -/

/-- The STORE_FULL records of a stalled range, split at each pending DISCONTINUITY record, with those records, in
index order; before a STREAM_START no index is missing, and none between the two grids of a re-base. Log entry 106. -/
def stallRecords (s : State) (n first last : Nat) : List DiscRec → List (Sum GapRec DiscRec)
  | [] => if first ≤ last then [.inl (mkGap s n 1 0 first last)] else []
  | d :: r =>
    let e := min last d.oldLast
    (if d.dkind ≠ 5 ∧ first ≤ e then [.inl (mkGap s n 1 0 first e)] else []) ++ [.inr d] ++ stallRecords s n (max first d.index) last r

/-- Neighbouring records of one kind share a folio (10 R254). -/
def recordFolios : List (Sum GapRec DiscRec) → List (Sum (List GapRec) (List DiscRec))
  | [] => []
  | .inl g :: r =>
    match recordFolios r with
    | .inl l :: t => .inl (g :: l) :: t
    | t => .inl [g] :: t
  | .inr d :: r =>
    match recordFolios r with
    | .inr l :: t => .inr (d :: l) :: t
    | t => .inr [d] :: t

/-- The stall may end: 64 slots of the allowance are free, or the whole of a smaller one; or a run can be shed (10 R270, R271). -/
def stallEnds (n : Nat) (s : State) : Option State :=
  if min 64 (allowance s n) ≤ freeSlots s n then some s else shedFor 5 n (stream s n).q.folios.length s

/-- The counts of a stream's run, and a stream with given counts. -/
def Stream.counts (st : Stream) : RunCounts :=
  { n0 := st.n0, nLast := st.nLast, produced := st.produced, lastIndex := st.lastIndex, runFirstSeq := st.runFirstSeq,
    undelivered := st.undelivered, notDelivered := st.notDelivered, degraded := st.degraded, skipped := st.skipped,
    retiredCount := st.retiredCount, dWords := st.dWords, gapCount := st.gapCount }
def Stream.withCounts (c : RunCounts) (st : Stream) : Stream :=
  { st with n0 := c.n0, nLast := c.nLast, produced := c.produced, lastIndex := c.lastIndex, runFirstSeq := c.runFirstSeq,
            undelivered := c.undelivered, notDelivered := c.notDelivered, degraded := c.degraded, skipped := c.skipped,
            retiredCount := c.retiredCount, dWords := c.dWords, gapCount := c.gapCount }

/-- An update of the run whose folios are still to be written: the one before, while a start has produced nothing yet. -/
def onLastRun (n : Nat) (f : State → State) (s : State) : State :=
  let st := stream s n
  match st.saved with
  | none => f s
  | some c =>
    let s := f (setStream n { st.withCounts c with saved := none } s)
    let old := stream s n
    setStream n { old.withCounts st.counts with saved := some old.counts } s

/-- The stall ends: its GAP folio and the records that fall due in it are written, and the run resumes. -/
def resumeRun (n : Nat) (s : State) : State :=
  match (stream s n).stalled, stallEnds n s with
  | some first, some s =>
    let st := stream s n
    let due := fun (d : DiscRec) => decide (d.index ≤ st.lastIndex + 1)
    let recs : List (Sum GapRec DiscRec) := match stallRecords s n first st.lastIndex (st.discs.filter due) with
      | .inl g :: r => .inl { g with firstSlot := st.stalledSlot } :: r
      | l => l
    let s := setStream n { st with stalled := none, discs := st.discs.filter fun d => !due d, opened := none, mm := [],
                                   gaps := (st.gaps.filter fun g => decide (st.lastIndex < g.last)).map fun g => { g with first := max g.first (st.lastIndex + 1) } } s
    (recordFolios recs).foldl (fun s r => match r with
      | .inl l => putGaps 0 n l s
      | .inr l => writeDiscs n (b2n (l.any (·.dkind == 6))) l s) s
  | _, _ => s

/-- The same of a stream whose last run still has folios. -/
def resumeStall (n : Nat) (s : State) : State := onLastRun n (resumeRun n) s

end Sys2Proof.Machine
end

