-- ==== Sys2Proof/Machine/HostPort.lean ====
section
/-! DEFINITION. The host port: BAR0, rings, host windows, interrupts, link and power states (11). -/

namespace Sys2Proof.Machine

/-! ### Interrupts (11 R295) -/

/-- Signal a vector: the message, or its pending bit when it is masked. -/
def signal (v : Nat) (s : State) : State :=
  let m := msix s v
  if m.masked || s.host.functionMask then setMsix v { m with pend := true } s
  else emit (.msix v m.addr m.data) s

/-- A write is refused: REG_ERR and the offset of the first, and vector 0 (11 R278, R295). -/
def regError (off : Nat) (s : State) : State :=
  if s.host.regErr then s else signal 0 { s with host.regErr := true, host.errOffset := off }

/-- The ring's vector: RING0 and the global conditions share vector 0. -/
def ringVector (r : Nat) (s : State) : State := signal r s

/-- A completion is signalled now or counted (11 R295). -/
def complete (r : Nat) (s : State) : State :=
  let g := ring s r
  let n := g.unsignalled + 1
  if g.intCount ≤ n then ringVector r (setRing r { g with unsignalled := 0 } s)
  else setRing r { g with unsignalled := n, firstAt := if g.unsignalled = 0 then s.now else g.firstAt } s

/-! ### Sessions of the port close (13 R333, 14 R367) -/

/-- A transfer of an image closes with its target left BAD: BAD_MARK is programmed (14 R367, 02 R45). -/
def abandonFw (s : State) : State :=
  match s.cz.fw with
  | none => s
  | some t =>
    let s := { s with cz.fw := none }
    match t.target with
    | 1 => { s with flash.fwA := s.flash.fwA.put 450 0 }
    | 2 => { s with flash.fwB := s.flash.fwB.put 450 0 }
    | _ => { s with flash.ucode := s.flash.ucode.put 450 0 }

/-- A session ends; its open transfer of an image closes with it. -/
def endSession (id : Nat) (s : State) : State :=
  let s := dropSession id s
  match s.cz.fw with
  | none => s
  | some t => if t.session = id then abandonFw s else s

/-- Replies that wait for RING1 and belong to a session that closes are dropped, but for one of which descriptors already hold a
part (11 R286). -/
def dropReplies (id : Nat) (s : State) : State :=
  let n := if s.host.replySent = 0 then 0 else 1
  { s with host.backlog := s.host.backlog.take n ++ (s.host.backlog.drop n).filter fun b => decide (fld 8 4 b ≠ id) }

/-- A session closes with the replies still owed to it. -/
def closeSession (id : Nat) (s : State) : State := endSession id (dropReplies id s)

/-- Every session of a port closes. -/
def closePort (p : Nat) (s : State) : State :=
  forAll ((s.cz.sessions.filter (·.port == p)).map (·.id)) closeSession s

/-! ### Translation (11 R288) -/

/-- The window that covers a device address. -/
def covering (s : State) (a : Nat) : Option (Nat × Window) :=
  s.host.windows.find? fun w => w.2.en && decide (w.2.dev ≤ a ∧ a < w.2.dev + 2 ^ w.2.log2)

/-- The host address of an access, or the ring fault: 1 TRANSLATION_MISS, 2 WINDOW_DENIED (11 R291). Log entry 113. -/
def translate (s : State) (r a : Nat) (write : Bool) : Sum Nat Nat :=
  match covering s a with
  | none => .inr 1
  | some (_, w) =>
    if bit r w.ringMask && (if write then w.write else w.read) then .inl (w.host + (a - w.dev)) else .inr 2

/-- A request split where it crosses 4 KiB, the least size of a window. -/
def pages (a : Nat) (bs : List Byte) : List (Nat × List Byte) :=
  let k := 4096 - a % 4096
  if bs.length ≤ k then [(a, bs)] else [(a, bs.take k), (a + k, bs.drop k)]

/-- The requests of a buffer at a device address, each 256 bytes of the buffer or what is left (11 R288). -/
def pieces (fuel a : Nat) (bs : List Byte) : List (Nat × List Byte) :=
  match fuel with
  | 0 => []
  | n + 1 => if bs.isEmpty then [] else (a, bs.take 256) :: pieces n (a + 256) (bs.drop 256)

/-- The writes of one request, every part of which translates; or its fault with the address. -/
def issueOne (s : State) (r : Nat) : List (Nat × List Byte) → Sum (List Out) (Nat × Nat)
  | [] => .inl []
  | (a, bs) :: l =>
    match translate s r a true with
    | .inr code => .inr (code, a)
    | .inl h => match issueOne s r l with
      | .inl t => .inl (.dma r h bs :: t)
      | .inr e => .inr e

/-- Issue the requests of a buffer: the writes made, and the fault with the bytes issued before it and its address.
Log entry 113. -/
def issueWrites (s : State) (r base : Nat) : List (Nat × List Byte) → List Out × Option (Nat × Nat × Nat)
  | [] => ([], none)
  | (a, bs) :: l =>
    match issueOne s r (pages a bs) with
    | .inr e => ([], some (e.1, a - base, e.2))
    | .inl w =>
      let t := issueWrites s r base l
      (w ++ t.1, t.2)

/-- The fault of reading a buffer of `len` bytes, with the bytes read before it and its address: its first address, and every
4 KiB, must translate. Log entry 113. -/
def readFault (s : State) (r a len : Nat) : Option (Nat × Nat × Nat) :=
  ((a :: (List.range (len / 4096 + 1)).map fun k => (a / 4096 + k + 1) * 4096).filter fun x => decide (x < a + len)).findSome?
    fun x => match translate s r x false with
      | .inl _ => none
      | .inr code => some (code, (x - a) / 256 * 256, x)

/-! ### Ring state (11 R283, R284, R291) -/

/-- The stream of a data ring, the queue of RING2 or RING3. -/
def ringQ (s : State) (r : Nat) : FolioQ :=
  if r = 2 then s.store.ring2 else if r = 3 then s.store.ring3 else (stream s r).q

def setRingQ (r : Nat) (q : FolioQ) (s : State) : State :=
  if r = 2 then { s with store.ring2 := q }
  else if r = 3 then { s with store.ring3 := q }
  else if r < 4 then s
  else setStream r { stream s r with q := q } s

/-- The SEQ that a ring delivers next, past those retired; and its folio, if the store holds it. -/
def ringNext (s : State) (r : Nat) : Nat :=
  let q := ringQ s r
  skipRetired (q.retired.length + 1) q.retired (ring s r).nextSeq
def nextFolio (s : State) (r : Nat) : Option Folio :=
  (ringQ s r).folios.find? fun f => f.seq == ringNext s r

/-- Change the folio of a SEQ. -/
def FolioQ.onSeq (q : FolioQ) (seq : Nat) (f : Folio → Folio) : FolioQ :=
  { q with folios := q.folios.map fun x => if x.seq = seq then f x else x }

/-- A ring halts (11 R291). `desc` adds 32 bytes of descriptor to nothing: FAULT_DESC is HEAD. -/
def haltRing (r code offset addr : Nat) (s : State) : State :=
  let g := ring s r
  let q := ringQ s r
  let next := ringNext s r
  let s := setRingQ r (q.onSeq next fun f => { f with staged := f.staged && isRelay s r }) s
  let s := setRing r { g with state := 2, fault := code, faultDesc := g.head, faultOffset := offset, faultAddr := addr,
                              haltSeq := next, nextSeq := next, unsignalled := 0 } s
  let s := raise { evB 0x0B01 r (le 2 r ++ le 1 code ++ le 1 0 ++ le 4 offset ++ le 8 addr) with lasting := true } s
  signal 0 (when_ (decide (r ≠ 0)) (ringVector r) s)

/-- The ring is no longer halted. -/
def unhalt (r : Nat) (s : State) : State := clearCause 0x0B01 r s

/-- Enabled: ACTIVE, HALTED or QUIESCING. -/
def enabled (g : Ring) : Bool := decide (g.state ≠ 0)

/-- Descriptors posted. -/
def posted (g : Ring) : Nat := (g.tail + 65536 - g.head) % 65536

/-- Limits of a descriptor (11 R281, R282). -/
def descOk (r : Nat) (d : Descriptor) : Bool :=
  decide (d.reserved = 0 ∧ bits 7 2 d.dflags = 0)
    && (if r = 0 then decide (16 ≤ d.len ∧ d.len ≤ 65536 ∧ d.addr % 8 = 0)
        else if r = 1 then decide (256 ≤ d.len ∧ d.len ≤ 65536 ∧ d.addr % 8 = 0)
        else decide (d.len = 4096 ∧ d.addr % 256 = 0))

/-- The descriptor's device address at a HEAD. -/
def descAddr (g : Ring) (head : Nat) : Nat := g.base + 32 * (head % 2 ^ g.log2)

/-- The write-back of a descriptor (11 R282). -/
def writeBack (d : Descriptor) (more : Bool) (status seq bytes : Nat) : List Byte :=
  le 8 d.addr ++ le 4 d.len ++ le 1 (2 * b2n more) ++ le 1 0 ++ le 2 status ++ le 8 seq ++ le 4 bytes ++ le 4 0

/-- One buffer with its descriptor: writes, write-back, HEAD and signal; or the fault that halts the ring: RING_BASE, then the
descriptor, then on RING0 the packet it names, then the buffer, then the write-back. The answer's Bool says that the write-back was
issued. -/
def transfer (r : Nat) (d : Descriptor) (buf : List Byte) (more : Bool) (status seq bytes : Nat) (s : State) : State × Bool :=
  let g := ring s r
  let a := descAddr g g.head
  match translate s r g.base false, translate s r a false with
  | .inr _, _ => (haltRing r 6 0 g.base s, false)
  | .inl _, .inr code => (haltRing r code 0 a s, false)
  | .inl _, .inl _ =>
    if ¬ descOk r d then (haltRing r 3 0 a s, false)
    else match (if r = 0 then readFault s 0 d.addr d.len else none) with
    | some (code, off, x) => (haltRing r code off x s, false)
    | none =>
      match issueWrites s r d.addr (pieces (buf.length + 1) d.addr buf) with
      | (outs, some (code, off, x)) => (haltRing r code off x (emitAll outs s), false)
      | (outs, none) =>
        match issueWrites s r 0 [(a, writeBack d more status seq bytes)] with
        | (_, some (code, _, x)) => (haltRing r code (buf.length / 256 * 256) x (emitAll outs s), false)
        | (wb, none) =>
          let s := emitAll wb (emitAll outs s)
          (complete r (setRing r { ring s r with head := (g.head + 1) % 65536 } s), true)

/-- A folio's transfer is in progress: it is staged, and a descriptor is posted for it. -/
def inProgress (s : State) (r : Nat) : Bool :=
  decide (2 ≤ r ∧ posted (ring s r) ≠ 0) && (nextFolio s r).any (·.staged)

/-- A quiescing ring is DISABLED once the transfer in progress has completed (11 R284). -/
def settle (r : Nat) (s : State) : State :=
  let g := ring s r
  if g.state = 3 then setRing r { g with state := 0, en := false } s else s

/-- STATUS of the descriptor that brings a folio: 0x00FF with the GAP that stands for folios discarded under R293 (11 R282; log
entry 133). -/
def folioStatus (f : Folio) : Nat :=
  if f.ftype = 0x11 ∧ fld 2 1 f.payload = 7 then 0xFF else 0

/-- A folio leaves on its ring: RING_TRANSFER_COMPLETE of RING2 to RING31 (11 R283). -/
def deliver (r : Nat) (d : Descriptor) (s : State) : State :=
  let g := ring s r
  match nextFolio s r with
  | none => s
  | some f =>
    if ¬ f.staged ∨ posted g = 0 then s
    else
      let t := transfer r d (folioBytes f) false (folioStatus f) f.seq 4096 s
      let s' := t.1
      if ¬ t.2 then s'
      else
        let q := (ringQ s' r).onSeq f.seq fun x => { x with sent := true, staged := false }
        let q := if isRelay s r then { q with folios := q.folios.filter fun x => decide (x.seq ≠ f.seq) } else q
        let s' := closeWindows r (setRingQ r q s')
        let g := ring s' r
        settle r (setRing r { g with doneSeq := f.seq, anyDone := true,
                                     nextSeq := skipRetired (q.retired.length + 1) q.retired (f.seq + 1) } s')

/-- The reply in front leaves on RING1, over as many descriptors as it needs; what no posted descriptor takes waits for the next
(11 R286). -/
def deliverReply (ds : List Descriptor) (s : State) : State :=
  match ds, s.host.backlog with
  | d :: r, b :: rest =>
    if posted (ring s 1) = 0 ∨ (ring s 1).state ≠ 1 then s
    else
      let left := b.drop s.host.replySent
      let more := decide (d.len < left.length)
      let t := transfer 1 d (left.take d.len) more 0 (fld 4 2 b) (min d.len left.length) s
      if ¬ t.2 then t.1
      else if more then deliverReply r { t.1 with host.replySent := t.1.host.replySent + d.len }
      else { t.1 with host.backlog := rest, host.replySent := 0 }
  | _, _ => s

/-! ### Acknowledgement on a ring (11 R285) -/

/-- The value of ACK_SEQ, written whole. -/
def ackRing (r v : Nat) (s : State) : State :=
  let g := ring s r
  if r < 2 ∨ (v < g.ackSeq ∧ g.ackSeq ≠ 0) then s
  else if ¬ g.anyDone then setRing r { g with ackClamped := if v = 0 then g.ackClamped else (g.ackClamped + 1) % 2 ^ 32 } s
  else
    let upto := min v g.doneSeq
    let s := setRing r { g with ackSeq := upto, ackClamped := if g.doneSeq < v then (g.ackClamped + 1) % 2 ^ 32 else g.ackClamped } s
    if r < 4 then sramDrain sramSlots (setRingQ r (ackQ (ringQ s r) upto) s) else ackStream r upto s

/-! ### Enabling, disabling, resuming, discarding (11 R284, R292, R293) -/

/-- A stream that is not delivered on its ring (11 R281). -/
def offRing (s : State) (r : Nat) : Bool := decide (4 ≤ r) && decide (1 ≤ transport s r ∧ transport s r ≤ 4)

/-- Setting EN: HEAD and TAIL to 0, delivery from the oldest SEQ neither acknowledged nor retired. Log entry 96. -/
def enableRing (r log2 : Nat) (s : State) : State :=
  let g := ring s r
  let q := ringQ s r
  let s := if r = 0 then { s with cz.unread := [] } else if r = 1 then { s with host.replySent := 0 } else s
  setRing r { g with en := true, log2 := log2, head := 0, tail := 0, state := 1, fault := 0, faultDesc := 0, faultOffset := 0,
                     faultAddr := 0, unsignalled := 0,
                     nextSeq := if isRelay s r then (q.folios.head?.map (·.seq)).getD g.nextSeq
                       else skipRetired (q.retired.length + 1) q.retired (max q.ackNext s.store.base) } s

/-- Clearing EN. Log entry 96. -/
def disableRing (r : Nat) (s : State) : State :=
  let g := ring s r
  if g.state = 2 then unhalt r (setRing r { g with state := 0, en := false } s)
  else if g.state = 1 then
    let s' := setRing r { g with state := 3, en := false } s
    if inProgress s r then s' else settle r s'
  else s

/-- RESUME: a halted ring restarts the buffer from byte 0. Log entry 96. -/
def resumeRing (r : Nat) (s : State) : State :=
  let g := ring s r
  if g.state = 2 then unhalt r (setRing r { g with state := if g.en then 1 else 3, fault := 0 } s) else s

/-- The folios a DISCARD gives up: from the halted one up to the limit, ending before the first GAP, DISCONTINUITY or
FINAL folio. -/
def discardRun (q : FolioQ) (from_ upto : Nat) : List Folio :=
  (q.folios.filter fun f => decide (from_ ≤ f.seq ∧ f.seq ≤ upto)).takeWhile
    fun f => !(decide (f.ftype = 0x11 ∨ f.ftype = 0x12)) && !bit 0 f.fflags

/-- The GAP folio that stands for a discarded run, with the queue and the ledger (11 R293). -/
def discardInto (r : Nat) (run : List Folio) (s : State) : State :=
  match run, run.getLast? with
  | f :: _, some l =>
    let q := ringQ s r
    let c := (streamSet s r).length
    let g : GapRec := if 4 ≤ r then runGap s r 7 f l
      else { (default : GapRec) with reason := 7, quire := 0xFF, retiredFirst := if run.length = 1 then 0 else f.seq + 1,
                                     retiredCount := run.length - 1 }
    let gf := { (default : Folio) with seq := f.seq, ftype := 0x11, stream := f.stream, chset := noSet,
                                       fflags := f.fflags &&& 48 ||| 4,
                                       firstIndex := f.firstIndex, lastIndex := l.lastIndex, count := 1,
                                       payload := gapBytes g, slots := 2, inLp := f.inLp }
    let folios := q.folios.filterMap fun x =>
      if x.seq = f.seq then some gf else if run.any (·.seq == x.seq) then none else some x
    let q := { q with folios := folios,
                      retired := if run.length = 1 then q.retired else q.retired ++ [(f.seq + 1, run.length - 1)] }
    let s := setRingQ r q s
    if 4 ≤ r then restate r (setStream r (countGap c g (stream s r)) s) else sramDrain sramSlots s
  | _, _ => s

/-- DISCARD on a halted ring: refused when DISCARD_TO lies outside what is written (11 R293). -/
def discardRing (r : Nat) (s : State) : State :=
  let g := ring s r
  if r < 2 ∨ g.state ≠ 2 then s
  else if g.discardTo < g.haltSeq ∨ (ringQ s r).nextSeq ≤ g.discardTo then regError (0x1000 + 0x80 * r + 0x40) s
  else
    let run := discardRun (ringQ s r) g.haltSeq g.discardTo
    let s := discardInto r run s
    let s := issueNote (evB 0x0B10 r (le 2 r ++ le 2 0 ++ le 4 run.length)) run.length s
    resumeRing r s

/-- A ring holds posted descriptors and waiting data: STARVED is waiting data without a descriptor. -/
def starved (s : State) (r : Nat) : Bool :=
  decide (2 ≤ r) && decide ((ring s r).state = 1) && decide (posted (ring s r) = 0)
    && !offRing s r && (nextFolio s r).isSome

/-- HP_HALTED. -/
def haltedMask (s : State) : Nat :=
  total ((List.range 32).map fun r => if (ring s r).state = 2 then 2 ^ r else 0)

/-- BUSY bits of the window table. -/
def busyMask (s : State) : Nat :=
  total ((List.range 64).map fun w => if (window s w).busy then 2 ^ w else 0)

/-! ### Windows (11 R287, R288) -/

/-- The window would overlap an enabled one. -/
def overlaps (s : State) (w dev log2 : Nat) : Bool :=
  s.host.windows.any fun x => x.1 != w && x.2.en
    && decide (dev < x.2.dev + 2 ^ x.2.log2 ∧ x.2.dev < dev + 2 ^ log2)

/-- A write of a window's control word. -/
def windowControl (w v off : Nat) (s : State) : State :=
  let x := window s w
  let en := bit 31 v
  let lg := bits 5 0 v
  if bits 27 6 v ≠ 0 then regError off s
  else if x.en then
    if bit 29 v = x.write ∧ bit 28 v = x.read ∧ lg = x.log2 then setWindow w { x with en := en } s else regError off s
  else if lg < 12 ∨ 46 < lg then regError off s
  else
    let y := { x with write := bit 29 v, read := bit 28 v, log2 := lg }
    if ¬ en then setWindow w y s
    else if x.dev % 2 ^ lg ≠ 0 ∨ overlaps s w x.dev lg then regError off s
    else setWindow w { y with en := true } s

/-- A write of DEV or HOST whole. -/
def windowBase (w : Nat) (host : Bool) (v off : Nat) (s : State) : State :=
  let x := window s w
  if x.en then (if v = (if host then x.host else x.dev) then s else regError off s)
  else setWindow w (if host then { x with host := v, loHost := none } else { x with dev := v, loDev := none }) s

/-! ### Reading BAR0 (11 R278 to R280) -/

/-- The registers that answer before the firmware runs and in the NO_IMAGE hold. -/
def earlyOffset (off : Nat) : Bool :=
  decide (off < 0x10 ∨ (0x3000 ≤ off ∧ off < 0x3200) ∨ (0x3800 ≤ off ∧ off < 0x3804) ∨ (0x8000 ≤ off ∧ off < 0x8020))

/-- HP_STATUS. -/
def hpStatus (s : State) : Nat :=
  2 ^ 31 * b2n s.host.regErr + 2 ^ 13 * s.host.width + 2 ^ 10 * s.host.gt + 256 * s.boot.image
    + 128 * b2n (s.boot.hold == 2) + s.boot.stage

/-- The time group as captured now: TIME_RAW (low, high), S_LO, S_HI, NS, FRAC and QUAL. -/
def timeGroup (s : State) : List Nat :=
  let t := devNow s
  let sec := (t / (secU : Int)).toNat
  let u := (t % (secU : Int)).toNat
  [rawNow s % 2 ^ 32, rawNow s / 2 ^ 32, sec % 2 ^ 32, sec / 2 ^ 32, u / 65536, u % 65536 * 65536 + s.time.state]

/-- A ring register's value. -/
def ringReg (s : State) (r o : Nat) : Nat :=
  let g := ring s r
  match o with
  | 0x00 => g.base % 2 ^ 32
  | 0x04 => g.hiBase
  | 0x08 => 2 ^ 31 * b2n g.en + 65536 * g.log2
  | 0x0C => 65536 * g.intUs + g.intCount
  | 0x10 => g.tail
  | 0x14 => g.head
  | 0x18 => 65536 * g.faultDesc + 256 * g.fault + 8 * b2n (starved s r) + g.state
  | 0x1C => g.faultOffset
  | 0x20 => g.faultAddr % 2 ^ 32
  | 0x24 => g.hiFault
  | 0x28 => g.ackSeq % 2 ^ 32
  | 0x2C => g.hiAck
  | 0x30 => g.doneSeq % 2 ^ 32
  | 0x34 => g.hiDone
  | 0x38 => g.discardTo % 2 ^ 32
  | 0x3C => g.hiDiscard
  | 0x44 => g.ackClamped
  | _ => 0

/-- A window register's value. -/
def windowReg (s : State) (w o : Nat) : Nat :=
  let x := window s w
  match o with
  | 0x00 => x.dev % 2 ^ 32
  | 0x04 => x.hiDev
  | 0x08 => x.host % 2 ^ 32
  | 0x0C => x.hiHost
  | 0x10 => 2 ^ 31 * b2n x.en + 2 ^ 30 * b2n x.busy + 2 ^ 29 * b2n x.write + 2 ^ 28 * b2n x.read + x.log2
  | 0x14 => x.ringMask
  | _ => 0

/-- An MSI-X table word's value. -/
def msixReg (s : State) (v o : Nat) : Nat :=
  let m := msix s v
  match o with
  | 0 => m.addr % 2 ^ 32
  | 4 => m.addr / 2 ^ 32
  | 8 => m.data
  | _ => b2n m.masked

/-- The recovery window reads 0 outside the NO_IMAGE hold (11 R296). -/
def recoveryReg (s : State) (o : Nat) : Nat :=
  if s.boot.hold ≠ 2 then 0
  else
    match o with
    | 0x00 => s.host.recovery.target
    | 0x04 => 65536 * s.host.recovery.percent + s.host.recovery.state
    | 0x08 => s.host.recovery.addr % 2 ^ 32
    | 0x0C => s.host.recovery.hiAddr
    | 0x10 => s.host.recovery.len
    | _ => 0

/-- A 4-byte register as it reads now. -/
def regValue (s : State) (off : Nat) : Nat :=
  if off < 0x100 then
    match off with
    | 0x00 => 0x4B410200 + s.part.quires
    | 0x04 => hpStatus s
    | 0x08 => s.host.errOffset
    | 0x0C => haltedMask s
    | 0x10 => (timeGroup s).headD 0
    | 0x14 => s.host.timeShadow.getD 0 0
    | 0x18 => s.host.timeShadow.getD 1 0
    | 0x1C => s.host.timeShadow.getD 2 0
    | 0x20 => s.host.timeShadow.getD 3 0
    | 0x24 => s.host.timeShadow.getD 4 0
    | 0x28 => busyMask s % 2 ^ 32
    | 0x2C => s.host.hiBusy
    | _ => 0
  else if 0x1000 ≤ off ∧ off < 0x2000 then ringReg s ((off - 0x1000) / 0x80) (off % 0x80)
  else if 0x2000 ≤ off ∧ off < 0x2800 then windowReg s ((off - 0x2000) / 0x20) (off % 0x20)
  else if 0x3000 ≤ off ∧ off < 0x3200 then msixReg s ((off - 0x3000) / 16) (off % 16)
  else if off = 0x3800 then total ((List.range 32).map fun v => if (msix s v).pend then 2 ^ v else 0)
  else if 0x8000 ≤ off ∧ off < 0x8020 then recoveryReg s (off - 0x8000)
  else 0

/-- What a read of a LO register captures (11 R279). -/
def capture (off : Nat) (s : State) : State :=
  if off = 0x10 then { s with host.timeShadow := (timeGroup s).drop 1 }
  else if off = 0x28 then { s with host.hiBusy := busyMask s / 2 ^ 32 }
  else if 0x1000 ≤ off ∧ off < 0x2000 then
    let r := (off - 0x1000) / 0x80
    let g := ring s r
    match off % 0x80 with
    | 0x00 => setRing r { g with hiBase := g.base / 2 ^ 32 } s
    | 0x20 => setRing r { g with hiFault := g.faultAddr / 2 ^ 32 } s
    | 0x28 => setRing r { g with hiAck := g.ackSeq / 2 ^ 32 } s
    | 0x30 => setRing r { g with hiDone := g.doneSeq / 2 ^ 32 } s
    | 0x38 => setRing r { g with hiDiscard := g.discardTo / 2 ^ 32 } s
    | _ => s
  else if 0x2000 ≤ off ∧ off < 0x2800 then
    let w := (off - 0x2000) / 0x20
    let x := window s w
    match off % 0x20 with
    | 0x00 => setWindow w { x with hiDev := x.dev / 2 ^ 32 } s
    | 0x08 => setWindow w { x with hiHost := x.host / 2 ^ 32 } s
    | _ => s
  else if off = 0x8008 ∧ s.boot.hold = 2 then { s with host.recovery.hiAddr := s.host.recovery.addr / 2 ^ 32 }
  else s

/-- An offset answers now. -/
def answers (s : State) (off : Nat) : Bool :=
  s.host.seenL0 && !s.host.d3 && (s.boot.fwRuns && decide (s.boot.hold ≠ 2) || earlyOffset off)

/-- A read of 4 or 8 bytes (11 R278, R279). -/
def barRead (off size : Nat) (s : State) : State :=
  if ¬ answers s off then emit (.bar0 off 0) s
  else
    let lo := regValue s off
    let s := capture off s
    emit (.bar0 off (if size = 8 then lo + 2 ^ 32 * regValue s (off + 4) else lo)) s

/-! ### Writing BAR0 -/

/-- A write of a ring register of 4 bytes; `off` is the offset within BAR0. -/
def ringWrite (r o v off : Nat) (s : State) : State :=
  let g := ring s r
  match o with
  | 0x00 => if g.en ∨ v % 64 ≠ 0 then regError off s else setRing r { g with loBase := some v } s
  | 0x04 => if g.en then regError off s
      else setRing r { g with base := g.loBase.getD (g.base % 2 ^ 32) + 2 ^ 32 * v, loBase := none } s
  | 0x08 =>
    if bits 30 20 v ≠ 0 ∨ bits 15 0 v ≠ 0 ∨ bits 19 16 v < 4 then regError off s
    else if g.en ∧ bits 19 16 v ≠ g.log2 then regError off s
    else if bit 31 v then
      if g.en then s else if offRing s r ∨ enabled g then regError off s else enableRing r (bits 19 16 v) s
    else if g.en ∨ g.state = 2 then disableRing r s
    else setRing r { g with log2 := bits 19 16 v } s
  | 0x0C => if v % 65536 = 0 then regError off s else setRing r { g with intUs := v / 65536, intCount := v % 65536 } s
  | 0x10 => if 65535 < v ∨ 2 ^ g.log2 < (v + 65536 - g.head) % 65536 then regError off s else setRing r { g with tail := v } s
  | 0x28 => if r < 2 then regError off s else setRing r { g with loAck := some v } s
  | 0x2C => if r < 2 then regError off s
      else ackRing r (g.loAck.getD (g.ackSeq % 2 ^ 32) + 2 ^ 32 * v) (setRing r { g with loAck := none } s)
  | 0x38 => setRing r { g with loDiscard := some v } s
  | 0x3C => setRing r { g with discardTo := g.loDiscard.getD (g.discardTo % 2 ^ 32) + 2 ^ 32 * v, loDiscard := none } s
  | 0x40 =>
    if v / 4 ≠ 0 then regError off s
    else if bit 1 v then discardRing r s
    else if bit 0 v then resumeRing r s
    else s
  | 0x14 => if v / 2 ^ 16 ≠ 0 then regError off s else s
  | 0x18 => if bits 7 4 v ≠ 0 ∨ bit 2 v then regError off s else s
  | 0x1C => if v / 2 ^ 17 ≠ 0 then regError off s else s
  | 0x20 | 0x24 | 0x30 | 0x34 | 0x44 => s
  | _ => if v = 0 then s else regError off s

/-- A write of a window register of 4 bytes. -/
def windowWrite (w o v off : Nat) (s : State) : State :=
  let x := window s w
  match o with
  | 0x00 => if x.en then (if v = x.dev % 2 ^ 32 then s else regError off s) else setWindow w { x with loDev := some v } s
  | 0x04 => windowBase w false (x.loDev.getD (x.dev % 2 ^ 32) + 2 ^ 32 * v) off s
  | 0x08 => if v % 4096 ≠ 0 ∨ (x.en ∧ v ≠ x.host % 2 ^ 32) then regError off s
      else if x.en then s else setWindow w { x with loHost := some v } s
  | 0x0C => windowBase w true (x.loHost.getD (x.host % 2 ^ 32) + 2 ^ 32 * v) off s
  | 0x10 => windowControl w v off s
  | 0x14 => if x.en ∧ v ≠ x.ringMask then regError off s else setWindow w { x with ringMask := v } s
  | _ => if v = 0 then s else regError off s

/-- A vector is unmasked: its pending signal follows (11 R295). -/
def unmask (v : Nat) (s : State) : State :=
  let m := msix s v
  if m.pend && !s.host.functionMask then emit (.msix v m.addr m.data) (setMsix v { m with masked := false, pend := false } s)
  else setMsix v { m with masked := false } s

/-- A write of an MSI-X table word; bits 31:1 of its Vector Control are taken as reserved (PRESUMED, log entry 125). -/
def msixWrite (v o x off : Nat) (s : State) : State :=
  let m := msix s v
  match o with
  | 0 => setMsix v { m with addr := m.addr / 2 ^ 32 * 2 ^ 32 + x } s
  | 4 => setMsix v { m with addr := m.addr % 2 ^ 32 + x * 2 ^ 32 } s
  | 8 => setMsix v { m with data := x } s
  | _ =>
    if 1 < x then regError off s
    else if bit 0 x then setMsix v { m with masked := true } s
    else if m.masked then unmask v s else s

/-- Bytes of a firmware partition. -/
def fwSize : Nat := 4194304

/-- GO: the loader starts to read the image, or the write is refused (11 R296). -/
def recoveryGo (target : Nat) (s : State) : State :=
  if s.boot.hold ≠ 2 then s
  else if target = 0 ∨ 3 ≤ target ∨ s.host.recovery.len < 4096 ∨ fwSize < s.host.recovery.len then regError 0x8000 s
  else { s with host.recovery.target := target, host.recovery.state := 1, host.recovery.percent := 0 }

/-- A write of the recovery window; ignored outside the NO_IMAGE hold. -/
def recoveryWrite (o v off : Nat) (s : State) : State :=
  if s.boot.hold ≠ 2 then s
  else
    match o with
    | 0x00 =>
      if bits 30 2 v ≠ 0 then regError off s
      else if bit 31 v then recoveryGo (v % 4) s
      else if v % 4 = 0 ∨ v % 4 = 3 then regError off s
      else { s with host.recovery.target := v % 4 }
    | 0x04 => if bits 31 24 v ≠ 0 ∨ bits 15 4 v ≠ 0 then regError off s else s
    | 0x08 => if v % 4096 ≠ 0 then regError off s else { s with host.recovery.loAddr := some v }
    | 0x0C => { s with host.recovery.addr := s.host.recovery.loAddr.getD (s.host.recovery.addr % 2 ^ 32) + 2 ^ 32 * v,
                       host.recovery.loAddr := none }
    | 0x10 => if v < 4096 ∨ fwSize < v then regError off s else { s with host.recovery.len := v }
    | _ => if v = 0 then s else regError off s

/-- A 4-byte write of BAR0. -/
def barWrite4 (off v : Nat) (s : State) : State :=
  if off = 0x04 then
    if bits 30 16 v ≠ 0 ∨ bits 6 4 v ≠ 0 then regError off s
    else if bit 31 v then { s with host.regErr := false, host.errOffset := 0 } else s
  else if off < 0x30 then (if off = 0x08 ∧ v / 65536 ≠ 0 then regError off s else s)
  else if 0x1000 ≤ off ∧ off < 0x2000 then ringWrite ((off - 0x1000) / 0x80) (off % 0x80) v off s
  else if 0x2000 ≤ off ∧ off < 0x2800 then windowWrite ((off - 0x2000) / 0x20) (off % 0x20) v off s
  else if 0x3000 ≤ off ∧ off < 0x3200 then msixWrite ((off - 0x3000) / 16) (off % 16) v off s
  else if off = 0x3800 then s
  else if 0x8000 ≤ off ∧ off < 0x8020 then recoveryWrite (off - 0x8000) v off s
  else regError off s

/-- A write of 4 bytes would be refused. -/
def refuses4 (off v : Nat) (s : State) : Bool := (barWrite4 off v { s with host.regErr := false }).host.regErr

/-- A write of 4 or 8 bytes; `full` says that every byte enable is set (11 R278, R279). A write that is refused changes
neither half (00 R10). -/
def barWrite (off size v : Nat) (full : Bool) (s : State) : State :=
  if ¬ answers s off then s
  else if ¬ full ∨ off % size ≠ 0 ∨ (size ≠ 4 ∧ size ≠ 8) then regError off s
  else if size = 4 then barWrite4 off (v % 2 ^ 32) s
  else
    let low := barWrite4 off (v % 2 ^ 32) s
    if refuses4 off (v % 2 ^ 32) s || refuses4 (off + 4) (v / 2 ^ 32 % 2 ^ 32) low then regError off s
    else barWrite4 (off + 4) (v / 2 ^ 32 % 2 ^ 32) low

/-! ### Link, reset and power (11 R294) -/

/-- The data link leaves DL_Active: every enabled ring halts, PCIe sessions close. -/
def linkDown (s : State) : State :=
  let s := { s with host.linkUp := false, host.width := 0, host.gt := 0, host.replySent := 0 }
  let quit := fun r s => setRing r { ring s r with state := 0 } (setRingQ r ((ringQ s r).onSeq (ringNext s r) fun f => { f with staged := false }) s)
  let s := forAll ((List.range 32).filter fun r => (ring s r).state = 3) quit s
  closePort 0 (forAll ((List.range 32).filter fun r => (ring s r).state = 1) (fun r => haltRing r 7 0 0) s)

/-- BAR0, ring and window tables and MSI-X at their reset values. -/
def resetPort (s : State) : State :=
  let s := forAll ((List.range 32).filter fun r => (ring s r).state = 2) unhalt s
  let unstage (q : FolioQ) : FolioQ := { q with folios := q.folios.map fun f => { f with staged := false } }
  let s := { s with store.ring2 := unstage s.store.ring2, store.ring3 := unstage s.store.ring3,
                    store.streams := s.store.streams.map fun (p : Nat × Stream) =>
                      if transport s p.1 = 0 then (p.1, { p.2 with q := unstage p.2.q }) else p }
  let h : HostPort := { (default : HostPort) with linkUp := s.host.linkUp, seenL0 := s.host.seenL0, width := s.host.width,
                                                   gt := s.host.gt, backlog := s.host.backlog }
  closePort 0 { s with host := h, cz.unread := [] }

/-! ### The rows of chapter 11 -/

/-- BAR0_LO_READ: a read, with the capture of a LO register (11 R279). -/
def execBar0LoRead (at_ off size : Nat) (s : State) : Host.Outcome State Fault Refusal :=
  .next (barRead off size (s.tick at_))

/-- RING_DOORBELL: a write of TAIL (11 R283). -/
def execRingDoorbell (at_ r tail : Nat) (s : State) : Host.Outcome State Fault Refusal :=
  .next (barWrite (0x1010 + 0x80 * (r % 32)) 4 tail true (s.tick at_))

/-- A RING0 descriptor is written back once its packet has been read (11 R283, R286). -/
def packetDone (d : Descriptor) (s : State) : State :=
  let g := ring s 0
  if posted g = 0 ∨ g.state ≠ 1 then s else (transfer 0 d [] false 0 0 d.len s).1

/-- A reply of the backlog leaves (11 R286). -/
def replyDone (ds : List Descriptor) (s : State) : State := settle 1 (deliverReply ds s)

/-! ### Which ring is served (11 R289) -/

/-- URGENT, COMMAND, EVENT, BULK. -/
def ringClass (r : Nat) : Nat := if r = 2 then 0 else if r < 2 then 1 else if r = 3 then 2 else 3

/-- A ring has something waiting and a posted descriptor. -/
def ringReady (s : State) (r : Nat) : Bool :=
  let g := ring s r
  decide ((g.state = 1 ∨ g.state = 3) ∧ posted g ≠ 0)
    && (if r = 0 then decide (s.host.backlog.length < 256) else if r = 1 then !(s.host.backlog.isEmpty : Bool)
        else !offRing s r && (nextFolio s r).isSome)

/-- A transfer of a ring may complete: no higher class is ready, and it is the ring's turn in its own: RING0 and RING1 alternate,
data rings go round. Log entry 113. -/
def ringTurn (s : State) (r : Nat) : Bool :=
  let l := (List.range 32).filter (ringReady s)
  !(l.any fun x => decide (ringClass x < ringClass r))
    && (if ringClass r = 1 then decide (s.host.lastCommand ≠ r) || !l.contains (1 - r)
        else decide (ringClass r < 3) || !l.any fun x =>
          decide (ringClass x = 3 ∧ (x + 31 - s.host.lastBulk) % 32 < (r + 31 - s.host.lastBulk) % 32))

/-- The ring served last in its class. -/
def served (r : Nat) (s : State) : State :=
  if r < 2 then { s with host.lastCommand := r } else if r = 2 ∨ r = 3 then s else { s with host.lastBulk := r }

/-- Descriptors that the hub holds fetched ahead of HEAD (11 R283). -/
def fetchAhead : Nat := 8

/-- RING_TRANSFER_COMPLETE: the hub finishes a buffer; the descriptors are as it fetched them, at most eight (11 R283). -/
def ringTransfer (r : Nat) (ds : List Descriptor) (s : State) : State :=
  let g := ring s r
  if ¬ dmaOk s ∨ 32 ≤ r ∨ (g.state ≠ 1 ∧ g.state ≠ 3) ∨ offRing s r = true ∨ ¬ ringTurn s r then s
  else if r = 1 then replyDone (ds.take fetchAhead) (served r s)
  else
    match ds with
    | [] => s
    | d :: _ => if r = 0 then packetDone d (served r s) else deliver r d (served r s)

/-- RING_FAULT: an error completion of a descriptor or packet read, or a fault of R291 seen from outside. -/
def ringFault (r code offset addr : Nat) (s : State) : State :=
  if r < 32 ∧ ((ring s r).state = 1 ∨ (ring s r).state = 3) ∧ 1 ≤ code ∧ code ≤ 7 then haltRing r code (min 65536 (offset / 256 * 256)) addr s else s

def execRingFault (at_ r code offset addr : Nat) (s : State) : Host.Outcome State Fault Refusal :=
  .next (ringFault r code offset addr (s.tick at_))

/-- RING_ACK_WRITE: ACK_SEQ written whole (11 R285). -/
def execRingAckWrite (at_ r seq : Nat) (s : State) : Host.Outcome State Fault Refusal :=
  .next (barWrite (0x1028 + 0x80 * (r % 32)) 8 seq true (s.tick at_))

/-- RING_DISCARD: DISCARD_TO stands as written before (11 R293). -/
def execRingDiscard (at_ r : Nat) (s : State) : Host.Outcome State Fault Refusal :=
  .next (barWrite (0x1040 + 0x80 * (r % 32)) 4 2 true (s.tick at_))

/-- RING_ENABLE: a write of EN with LOG2_ENTRIES (11 R284). -/
def execRingEnable (at_ r log2 : Nat) (s : State) : Host.Outcome State Fault Refusal :=
  .next (barWrite (0x1008 + 0x80 * (r % 32)) 4 (2 ^ 31 + 65536 * (log2 % 16)) true (s.tick at_))

/-- RING_DISABLE: a write that clears EN (11 R284). -/
def execRingDisable (at_ r : Nat) (s : State) : Host.Outcome State Fault Refusal :=
  .next (barWrite (0x1008 + 0x80 * (r % 32)) 4 (65536 * (ring s (r % 32)).log2) true (s.tick at_))

/-- WINDOW_ENABLE: the control word with EN, the permissions and the size (11 R288). -/
def execWindowEnable (at_ w : Nat) (wr rd : Bool) (log2 : Nat) (s : State) : Host.Outcome State Fault Refusal :=
  .next (barWrite (0x2010 + 0x20 * (w % 64)) 4 (2 ^ 31 + 2 ^ 29 * b2n wr + 2 ^ 28 * b2n rd + log2 % 64) true (s.tick at_))

/-- WINDOW_DISABLE: EN cleared; BUSY while requests translated through it are outstanding, as `busy` says (11 R288). -/
def windowDisable (w : Nat) (busy : Bool) (s : State) : State :=
  let x := window s w
  if ¬ answers s (0x2010 + 0x20 * w) ∨ ¬ x.en then s else setWindow w { x with en := false, busy := x.busy || busy } s

def execWindowDisable (at_ w : Nat) (busy : Bool) (s : State) : Host.Outcome State Fault Refusal :=
  .next (windowDisable (w % 64) busy (s.tick at_))

/-- WINDOW_BUSY_CLEAR: every request translated before EN was cleared has completed, whether or not the window has been enabled
again (11 R288, R295). -/
def windowIdle (w : Nat) (s : State) : State :=
  let x := window s w
  if x.busy then signal 0 (setWindow w { x with busy := false } s) else s

def execWindowBusyClear (at_ w : Nat) (s : State) : Host.Outcome State Fault Refusal :=
  .next (windowIdle (w % 64) (s.tick at_))

/-- INTERRUPT_MODERATION_TIMER (11 R295). -/
def moderation (r : Nat) (s : State) : State :=
  let g := ring s r
  if g.unsignalled = 0 ∨ g.intUs = 0 ∨ s.now < g.firstAt + g.intUs * usU then s
  else ringVector r (setRing r { g with unsignalled := 0 } s)

def execInterruptModerationTimer (at_ r : Nat) (s : State) : Host.Outcome State Fault Refusal :=
  .next (moderation (r % 32) (s.tick at_))

/-- The Function Mask of the MSI-X capability is written: once clear, the pending signals of unmasked vectors follow. -/
def functionMask (on : Bool) (s : State) : State :=
  let s := { s with host.functionMask := on }
  if on then s
  else forAll ((List.range 32).filter fun v => (msix s v).pend && !(msix s v).masked)
    (fun v s => emit (.msix v (msix s v).addr (msix s v).data) (setMsix v { msix s v with pend := false } s)) s

/-- MSIX_UNMASK: a write that clears the vector's mask bit, or one of the capability's Function Mask (11 R295). -/
def execMsixUnmask (at_ v : Nat) (fmask : Option Bool) (s : State) : Host.Outcome State Fault Refusal :=
  .next (match fmask with
    | none => barWrite (0x300C + 16 * (v % 32)) 4 0 true (s.tick at_)
    | some on => functionMask on (s.tick at_))

/-- The fixed values of configuration space (11 R277) and what the endpoint supports (R276). -/
structure ConfigSpace where
  vendor : Nat
  device : Nat
  revision : Nat
  classCode : Nat
  subsystemVendor : Nat
  subsystem : Nat
  /-- Low bits of BAR0: 64-bit memory, non-prefetchable; its size; BAR2 and BAR4 are not implemented. -/
  bar0Type : Nat
  bar0Bytes : Nat
  bar2 : Nat
  bar4 : Nat
  msixTable : Nat
  msixPending : Nat
  msixVectors : Nat
  interruptPin : Nat
  serial : Nat
  functions : Nat
  /-- Bytes of the largest payload, and of the largest read request issued. -/
  maxPayload : Nat
  maxRead : Nat
  /-- Bits of a tag, and reads that may be outstanding. -/
  tagBits : Nat
  maxReads : Nat
  relaxedOrdering : Bool
  idOrdering : Bool
  advancedErrors : Bool
  noSoftReset : Bool
  aspmL1 : Bool
  aspmL0s : Bool
  /-- Completion Timeout ranges, 1 for A and 2 for B, and Completion Timeout Disable. -/
  timeoutRanges : List Nat
  timeoutDisable : Bool
  deriving DecidableEq, Repr

/-- Configuration space of a part; the silicon stepping is a constant of the part (11 R276, R277). -/
def configSpace (p : PartId) : ConfigSpace :=
  { vendor := 0x1F73, device := 0x4B00 + p.quires, revision := (Config.stepping p.serial).toNat, classCode := 0x118000,
    subsystemVendor := 0x1F73, subsystem := b2n p.metrology, bar0Type := 4, bar0Bytes := 65536, bar2 := 0, bar4 := 0,
    msixTable := 0x3000, msixPending := 0x3800, msixVectors := 32, interruptPin := 0, serial := p.serial, functions := 1,
    maxPayload := 256, maxRead := 256, tagBits := 8, maxReads := 64, relaxedOrdering := false, idOrdering := false,
    advancedErrors := true, noSoftReset := true, aspmL1 := true, aspmL0s := false, timeoutRanges := [1, 2],
    timeoutDisable := true }

/-- The 64 bytes of the type 0 header, each field least significant byte first as PCI Express fixes (11 R277): the base of BAR0 is
the host's, so its type bits stand alone, and Bus Master Enable is bit 2 of the Command register. Log entry 134. -/
def configHeader (s : State) : List Byte :=
  let c := configSpace s.part
  le 2 c.vendor ++ le 2 c.device ++ le 2 (2 + 4 * b2n s.host.busMaster) ++ le 2 0x10 ++ le 1 c.revision ++ le 3 c.classCode
    ++ zeros 4 ++ le 4 c.bar0Type ++ zeros 4 ++ le 4 c.bar2 ++ zeros 4 ++ le 4 c.bar4 ++ zeros 8 ++ le 2 c.subsystemVendor
    ++ le 2 c.subsystem ++ zeros 13 ++ le 1 c.interruptPin ++ zeros 2

/-- PCIE_HOT_RESET: hot reset or Function Level Reset (11 R294). -/
def execPcieHotReset (at_ : Nat) (s : State) : Host.Outcome State Fault Refusal :=
  .next (resetPort (s.tick at_))

/-- Transfers stop: a partly written buffer restarts from byte 0, so nothing of it is kept (11 R294). -/
def execD3hotEntry (at_ : Nat) (d3 : Bool) (s : State) : Host.Outcome State Fault Refusal :=
  .next (if d3 then { s.tick at_ with host.d3 := true } else { s.tick at_ with host.busMaster := false })

/-- RECOVERY_GO (11 R296). -/
def execRecoveryGo (at_ target : Nat) (s : State) : Host.Outcome State Fault Refusal :=
  .next (barWrite 0x8000 4 (2 ^ 31 + target % 4) true (s.tick at_))

end Sys2Proof.Machine
end

