-- ==== Sys2Proof/Machine/Time.lean ====
section
/-! DEFINITION. Device time: the anchor, the servo, its sources and states, edge stamps and interval units
(08). The steps of device time stand with the re-phase of the grid. -/

namespace Sys2Proof.Machine

/-! ### The anchor and the rate (08 R193) -/

/-- The 64-bit strobe count: edges placed by now (04 R92). -/
def strobeCount (s : State) : Int := devNow s / (strobeU : Int)

/-- The raw count, a rational of ticks, at which a device time falls under the offset and rate in force. -/
def rawOf (s : State) (t : Int) : Rat :=
  (s.time.ancRaw : Rat) + ((t - s.time.ancDev : Int) : Rat) * ((2 ^ 48 : Nat) : Rat) / (160000 * ((2 ^ 48 + s.time.rate : Int) : Rat))

/-- Where the strobe generator places edge `k`: the timebase tick before its point, and the fine delay in steps of 4 ps
within the tick of 2,441.40625 ps (04 R92). -/
def strobeEdge (s : State) (k : Int) : Int × Int :=
  let r := rawOf s (k * (strobeU : Int))
  (r.floor, ((r - (r.floor : Rat)) * 244140625 / 400000).floor)

/-- Re-anchor at the present under the rate in force. -/
def reAnchor (s : State) : State :=
  { s with time.anchors := (s.time.ancRaw, s.time.ancDev, s.time.rate) :: s.time.anchors, time.ancDev := devNow s,
           time.ancRaw := rawNow s }

/-- The stretch of RATE_S in LOCKED that ends now enters the holdover average; REF_LOST excludes it (08 R200). -/
def closeSpan (s : State) : State :=
  if s.time.state = 1 ∧ ¬ s.time.refLost then
    { s with time.spans := ({ from_ := s.time.spanFrom, to_ := s.now, rate := s.time.rate } : RateSpan) :: s.time.spans,
             time.spanFrom := s.now }
  else { s with time.spanFrom := s.now }

/-- A new RATE_S: the anchor is taken under the old one first. -/
def setRate (r : Int) (s : State) : State :=
  let s := reAnchor (closeSpan s)
  { s with time.rate := r }

/-- Weights and rates of the last `left` units of LOCKED time. -/
def lastSpans (left : Nat) : List RateSpan → List (Nat × Int)
  | [] => []
  | x :: r =>
    let d := x.to_ - x.from_
    if left ≤ d then [(left, x.rate)] else (d, x.rate) :: lastSpans (left - d) r

/-- The averaging interval's spans, the present one included. -/
def averaged (s : State) : List (Nat × Int) :=
  lastSpans (cf s 0x0601 0 0x0C 31 16 * secU)
    (if s.time.state = 1 ∧ ¬ s.time.refLost then
      { from_ := s.time.spanFrom, to_ := s.now, rate := s.time.rate } :: s.time.spans else s.time.spans)

/-- The holdover mean of RATE_S (08 R200), rounded to a whole unit; the rate in force when nothing is averaged. -/
def holdoverMean (s : State) : Int :=
  let l := averaged s
  let w := total (l.map (·.1))
  if w = 0 then s.time.rate
  else roundAway ((l.foldl (fun a p => a + (p.1 : Rat) * (p.2 : Rat)) (0 : Rat)) / (w : Rat))

/-- The whole square root. -/
def isqrt (n : Nat) : Nat := Nat.sqrt n

/-- The standard deviation of RATE_S over the averaging interval, in ppb (08 R203). -/
def holdSigma (s : State) : Rat :=
  let l := averaged s
  let w := total (l.map (·.1))
  if w = 0 then 0
  else
    let m := (l.foldl (fun a p => a + (p.1 : Rat) * (p.2 : Rat)) (0 : Rat)) / (w : Rat)
    let v := (l.foldl (fun a p => a + (p.1 : Rat) * ((p.2 : Rat) - m) * ((p.2 : Rat) - m)) (0 : Rat)) / (w : Rat)
    ((isqrt (v.num.toNat / v.den) : Nat) : Rat) * 1000000000 / ((2 ^ 48 : Nat) : Rat)

/-- How long REF_LOST has been set since the estimate began, in 2^-16 ns. -/
def refLostTime (s : State) : Nat :=
  s.time.refLostAcc + (if s.time.refLost then s.now - max s.time.refLostAt s.time.estSince else 0)

/-- HOLD_EST_NS (08 R203). -/
def holdEst (s : State) : Nat :=
  let tr : Rat := (refLostTime s : Rat) / (secU : Rat)
  let t : Rat := ((s.now - s.time.estSince : Nat) : Rat) / (secU : Rat)
  let v : Rat := if s.time.state = 2 ∨ s.time.state = 3 ∨ s.time.state = 4 then holdSigma s * t + 2 * tr
    else if s.time.state = 5 then 2 * tr else 0
  satU 32 (v.num.toNat / v.den)

/-! ### States of the servo (08 R195) -/

/-- Enter a state: an EVENT record for every change; HOLDOVER and JUMP_REFUSED are the faults of their states. -/
def enterServo (st : Nat) (s : State) : State :=
  if s.time.state = st then s
  else
    let s := closeSpan s
    let old := s.time.state
    -- the estimate runs on through HOLDOVER, HOLDOVER_EXPIRED and SOURCE_REJECTED (08 R203)
    let on := decide ((old = 2 ∨ old = 3 ∨ old = 4) ∧ (st = 2 ∨ st = 3 ∨ st = 4))
    let s := { s with time.state := st, time.since := s.now, time.spanFrom := s.now,
                      time.refLostAcc := if on then s.time.refLostAcc else 0,
                      time.estSince := if on then s.time.estSince else s.now,
                      time.unsetReason := if st = 0 then s.time.unsetReason else 0 }
    let s := raise (ev 0x0810 st) s
    let s := if (st = 2 ∨ st = 3) then raiseOnce (evL 0x0803 0xFFFF) s else clearCause 0x0803 0xFFFF s
    if old = 4 then clearCause 0x0802 0xFFFF s else s

/-- The sources configured, in order (08 R196). -/
def srcOrder (s : State) : List Nat :=
  let w := word s 0x0601 0 0
  [bits 31 28 w, bits 27 24 w, bits 23 20 w, bits 19 16 w].filter (· != 0)

def srcOf (s : State) (x : Nat) : TimeSource := s.time.sources.get x default
def setSrc (x : Nat) (v : TimeSource) (s : State) : State := { s with time.sources := s.time.sources.put x v }

/-- The rank of a source; higher numbers rank lower. -/
def rank (s : State) (x : Nat) : Nat := (srcOrder s).findIdx (· == x)

/-- The threshold JUMP_NS in 2^-16 ns, and LOCK_MEAS. -/
def jumpLimit (s : State) : Nat := word s 0x0601 0 4 * 65536
def lockMeas (s : State) : Nat := cf s 0x0601 0 0 7 0

/-- The source that would be followed: the first configured one that is present. -/
def firstPresent (s : State) : Option Nat := (srcOrder s).find? fun x => (srcOf s x).present

/-- Refusals end with the last source present: there is nothing left that could be refused (08 R195, R201). -/
def unlessPresent (s : State) : State := if (firstPresent s).isSome then s else { s with time.refusedSince := none }

/-- No source is present: HOLDOVER with the holdover mean, or FREE when none is configured (08 R195, R203). -/
def noSource (s : State) : State :=
  if s.time.state = 0 then { s with time.source := 0, time.unsetReason := 1 }
  else if (srcOrder s).isEmpty then enterServo 5 { s with time.source := 0 }
  else if s.time.state = 2 ∨ s.time.state = 3 then s
  else enterServo 2 (setRate (holdoverMean s) { s with time.source := 0 })

/-- Follow a source from now on; another one than the last, or another grandmaster, is MASTER_CHANGE (08 R202). -/
def follow (x : Nat) (s : State) : State :=
  let me := (x, (srcOf s x).gmId)
  let s := if s.time.lastSource.1 ≠ 0 ∧ s.time.lastSource ≠ me then raiseOrig 0x0811 4 (x % 5) me.2 1 s else s
  enterServo 1 { s with time.source := x, time.lastSource := me, time.refusedSince := none }

/-- A source has gone four expected intervals without a measurement. One that is refused still measures (log entry 78). -/
def silent (s : State) (x : Nat) : Bool :=
  let v := srcOf s x
  decide (((v.meas.head?.map (·.1)).getD 0) + 4 * v.interval ≤ s.now)

/-- A source is present and its last measurement was accepted. -/
def acceptedSource (s : State) (x : Nat) : Bool := (srcOf s x).present && decide (1 ≤ (srcOf s x).within_)

/-- The first configured source that is present and not refused (08 R202). -/
def firstAccepted (s : State) : Option Nat := (srcOrder s).find? (acceptedSource s)

/-- Pi and the square root of 2 as rationals (log entry 21). -/
def piQ : Rat := 3141592653589793 / 1000000000000000
def sqrt2Q : Rat := 1414213562373095 / 1000000000000000

/-- The servo's loop (08 R200). -/
def servoStep (x : Nat) (e dt : Rat) (s : State) : State :=
  let bw : Rat := if x ≤ 2 then (cf s 0x0601 0 0x10 31 16 : Nat) else (cf s 0x0601 0 0x10 15 0 : Nat)
  let steer : Rat := (cf s 0x0601 0 8 15 0 : Nat)
  let wn := 2 * piQ * bw / 1000
  let f := s.time.f + wn * wn * e * dt
  let k := sqrt2Q * wn * e
  let k := if steer < k then steer else if k < -steer then -steer else k
  let f := if 200000 < f + k then 200000 - k else if f + k < -200000 then -200000 - k else f
  let s := setRate (roundAway ((f + k) * ((2 ^ 48 : Nat) : Rat) / 1000000000)) s
  { s with time.f := f, time.s := k }

/-! ### The first lock (08 R199) -/

/-- The slope of offsets over time by least squares, in 2^-16 ns per 2^-16 ns (log entry 22). -/
def slope (l : List (Nat × Int)) : Rat :=
  let n : Rat := (l.length : Nat)
  if l.length < 2 then 0
  else
    let mt := (l.foldl (fun a p => a + (p.1 : Rat)) (0 : Rat)) / n
    let me := (l.foldl (fun a p => a + (p.2 : Rat)) (0 : Rat)) / n
    let sxy := l.foldl (fun a p => a + ((p.1 : Rat) - mt) * ((p.2 : Rat) - me)) (0 : Rat)
    let sxx := l.foldl (fun a p => a + ((p.1 : Rat) - mt) * ((p.1 : Rat) - mt)) (0 : Rat)
    if sxx = 0 then 0 else sxy / sxx

/-- The mean of the offsets, to a whole unit. -/
def meanOffset (l : List (Nat × Int)) : Int :=
  if l.isEmpty then 0 else roundAway ((l.foldl (fun a p => a + (p.2 : Rat)) (0 : Rat)) / (l.length : Rat))

/-- The span of the offsets once the rate difference is removed. -/
def residualSpan (l : List (Nat × Int)) : Rat :=
  let k := slope l
  let t0 : Rat := ((l.map (·.1)).headD 0 : Nat)
  let r := l.map fun p => (p.2 : Rat) - k * ((p.1 : Rat) - t0)
  match r with
  | [] => 0
  | a :: m => m.foldl max a - m.foldl min a

/-- The newest LOCK_MEAS measurements of a source are consistent. -/
def qualifies (s : State) (x : Nat) : Bool :=
  let l := (srcOf s x).meas.take (lockMeas s)
  decide (l.length = lockMeas s) && decide (residualSpan l ≤ (jumpLimit s : Rat))

/-- A pending record that would be a stream's seventeenth (10 R270). -/
def discFull (s : State) : Bool := streamList.any fun n => running s n && (stream s n).stalled.isSome && decide (16 ≤ (stream s n).discs.length)

/-- Prepare a step: e_r is the first strobe edge at least 1 ms ahead, on every in-service quire (08 R199, R205). -/
def prepareStep (kind : Nat) (delta : Int) (source : Nat) (rate : Rat) (req : Option Req) (s : State) : State :=
  let edge := (strobeCeil (devNow s + (msU : Int))).toNat
  let s := { s with time.step := some { kind := kind, edge := edge, delta := delta, source := source, rate := rate, req := req,
                                        acks := [] } }
  forAll (servingQuires s) (fun q => toQuire q 1 edge) s

/-- A source's qualification before the first lock. -/
def tryLock (x : Nat) (s : State) : State :=
  if s.time.step.isSome then s
  else if ¬ qualifies s x then { s with time.unsetReason := 2 }
  else if ¬ inCrown s then { s with time.unsetReason := 2 }
  else
    let l := (srcOf s x).meas.take (lockMeas s)
    let d := meanOffset l
    if d < 0 ∧ anyRunning s then
      if s.time.unsetReason = 3 then s else raise (ev 0x0813 0xFFFF) { s with time.unsetReason := 3 }
    else if discFull s then { s with time.unsetReason := 2 }
    else prepareStep 0 d x (slope l * 1000000000) none { s with time.unsetReason := 2 }

/-! ### Measurements (08 R200 to R202) -/

/-- A measurement of a source: offset e, source time minus device time, in 2^-16 ns. -/
def measure (x : Nat) (e : Int) (s : State) : State :=
  let v := srcOf s x
  if ¬ (srcOrder s).contains x ∨ s.boot.restart.isSome then s
  else
    let near := decide (e.natAbs ≤ jumpLimit s)
    let last := v.lastAccepted
    let v := { v with meas := ((s.now, e) :: v.meas).take 64, within_ := if near then v.within_ + 1 else 0,
                      present := true, lastAccepted := if near ∨ s.time.state = 0 then s.now else v.lastAccepted }
    let s := setSrc x v s
    if s.time.state = 0 then
      if firstPresent s = some x then tryLock x { s with time.offset := e } else s
    else if s.time.source = x then
      let s := { s with time.offset := e }
      if ¬ near then
        if s.time.state = 1 ∧ s.time.refusedSince.isNone then
          setRate (holdoverMean s) { s with time.refusedSince := some s.now }
        else s
      else if s.time.state = 4 then (if lockMeas s ≤ v.within_ then follow x s else s)
      else if s.time.state = 1 then
        servoStep x ((e : Rat) / 65536) (((s.now - last : Nat) : Rat) / (secU : Rat)) { s with time.refusedSince := none }
      else s
    else if ¬ near then
      -- no source is followed and every one present is refused
      if s.time.state = 2 ∨ s.time.state = 3 ∨ s.time.state = 5 then
        { s with time.offset := e, time.refusedSince := some (s.time.refusedSince.getD s.now) }
      else s
    else if s.time.state = 2 ∨ s.time.state = 3 ∨ s.time.state = 5 then follow x { s with time.offset := e }
    else if lockMeas s ≤ v.within_ ∧ (s.time.state = 4 ∨ rank s x < rank s s.time.source) then follow x { s with time.offset := e }
    else s

/-- The source is lost (08 R202). -/
def loseSource (x : Nat) (s : State) : State :=
  let s := unlessPresent (setSrc x { srcOf s x with present := false, within_ := 0, meas := [] } s)
  if s.time.state = 0 then
    match firstPresent s with
    | none => { s with time.unsetReason := 1, time.source := 0 }
    | some _ => s
  else if s.time.source ≠ x then s
  else
    match firstAccepted s with
    | some y => follow y s
    | none => if s.time.state = 4 ∧ (firstPresent s).isSome then { s with time.source := (firstPresent s).getD 0 } else noSource s

/-- What a write of TIME_CTRL does to the source followed (08 R202). -/
def timeCtrlWritten (s : State) : State :=
  let s := unlessPresent s
  if s.time.state = 0 then s
  else if s.time.source ≠ 0 ∧ s.time.source ≠ 5 ∧ ¬ (srcOrder s).contains s.time.source then loseSource s.time.source s
  else if (srcOrder s).isEmpty ∨ s.time.state = 5 then noSource s
  else s

/-! ### The rows of the timebase and the servo -/

/-- REF_IN qualifies: the raw count starts (08 R189, R190); the start goes on in Start. -/
def refStart (s : State) : State :=
  match s.time.rawStart with
  | some _ => s
  | none => { s with time.rawStart := some s.now, time.ancRaw := 0, time.ancDev := 0, time.unsetReason := 1, time.since := s.now, time.estSince := s.now }

/-- REF_IN_LOST (08 R191). -/
def refLost (s : State) : State :=
  if s.time.rawStart.isNone ∨ s.time.refLost then s
  else raise (evL 0x0801 0xFFFF) { closeSpan s with time.refLost := true, time.refLostAt := s.now }

def execRefInLost (at_ : Nat) (s : State) : Host.Outcome State Fault Refusal := .next (refLost (s.tick at_))

/-- REF_IN_RELOCK: phase build-out; neither the raw count nor device time steps (08 R191). -/
def refBack (s : State) : State :=
  if ¬ s.time.refLost then s
  else clearCause 0x0801 0xFFFF { s with time.refLost := false, time.refLostAcc := refLostTime s, time.spanFrom := s.now }

def execRefInRelock (at_ : Nat) (s : State) : Host.Outcome State Fault Refusal := .next (refBack (s.tick at_))

/-- RE_ANCHOR (08 R193). -/
def execReAnchor (at_ : Nat) (s : State) : Host.Outcome State Fault Refusal := .next (reAnchor (s.tick at_))

/-- OFFSET_MEASUREMENT of source x: judged, refused or entered into the loop (08 R200, R201). -/
def execOffsetMeasurement (at_ x : Nat) (e : Int) (s : State) : Host.Outcome State Fault Refusal :=
  .next (unlessPaused (measure x e) (s.tick at_))

/-- JUMP_PERSIST_EXPIRY (08 R201): another source that is not refused is followed; else SOURCE_REJECTED, with the offset in
whole ns behind the grandmaster identity (log entry 79). -/
def jumpPersist (s : State) : State :=
  match s.time.refusedSince with
  | none => s
  | some t =>
    if s.time.state = 0 ∨ s.time.state = 4 ∨ s.now < t + cf s 0x0601 0 8 31 16 * msU then s
    else
      match firstAccepted s with
      | some y => follow y s
      | none =>
        let x := if s.time.source = 0 ∨ s.time.source = 5 then (firstPresent s).getD 0 else s.time.source
        let e := (((srcOf s x).meas.head?.map (·.2)).getD 0) / 65536
        let s := enterServo 4 (setRate (holdoverMean s) { s with time.source := x })
        raiseOrigWith (leS 8 e) 0x0802 4 x (srcOf s x).gmId 1 (addCause (faultCode 0x0802) 0xFFFF s)

def execJumpPersistExpiry (at_ : Nat) (s : State) : Host.Outcome State Fault Refusal := .next (unlessPaused (jumpPersist) (s.tick at_))

/-- HOLDOVER_EXPIRY (08 R203). -/
def holdExpiry (s : State) : State :=
  if s.time.state = 2 ∧ s.time.since + cf s 0x0601 0 0x0C 15 0 * secU ≤ s.now then
    enterServo 3 s
  else s

def execHoldoverExpiry (at_ : Nat) (s : State) : Host.Outcome State Fault Refusal := .next (unlessPaused (holdExpiry) (s.tick at_))

/-! ### Edge timing (08 R215 to R219) -/

/-- The interval between two stamps, under the rate in force at the stop edge (08 R217). -/
def toUnits (s : State) (fine stop : Nat) : Nat := (((fine : Int) * 10000 * (2 ^ 48 + (anchorAt s stop).2.2)) / 2 ^ 48).toNat

def edgeMatches (code : Nat) (rise : Bool) : Bool := decide (code = 2) || (if rise then decide (code = 0) else decide (code = 1))

/-- Latched settings of a unit. -/
def iuStart (v : Interval) (e : Nat × Bool × Nat) : Bool :=
  let w := v.cfg.getD 0 0
  decide (e.1 = bits 22 20 w) && edgeMatches (bits 27 26 w) e.2.1
def iuStop (v : Interval) (e : Nat × Bool × Nat) : Bool :=
  let w := v.cfg.getD 0 0
  decide (e.1 = bits 18 16 w) && edgeMatches (bits 25 24 w) e.2.1
def iuWindow (v : Interval) : Nat := v.cfg.getD 1 0 + 2 ^ 32 * (v.cfg.getD 2 0 % 256)
def iuCont (v : Interval) : Bool := bit 31 (v.cfg.getD 0 0)
def iuReport (v : Interval) : Bool := bit 30 (v.cfg.getD 0 0)

/-- A stamp lies before the first lock: time was UNSET then (08 R217). -/
def stampedUnset (s : State) (fine : Nat) : Bool :=
  match s.time.steps.getLast? with
  | none => true
  | some t => decide (fine < t)

/-- A step of device time lies between two stamps. -/
def steppedBetween (s : State) (lo hi : Nat) : Bool := s.time.steps.any fun t => decide (lo < t ∧ t ≤ hi)

/-- A result of a measurement that ends at a stamp: flags bit 8 UNRESOLVED, 9 NO_STOP, 10 REBASED, 11 TIME_UNSET, 12 OVERRUN
(08 R219). A start edge later than the stop fell into the holdoff. -/
def iuResult (u flags interval last : Nat) (s : State) : State :=
  let v := unit_ s u
  let start := v.start.getD 0
  let fl := flags + 1024 * b2n (steppedBetween s start last) + 2048 * b2n (stampedUnset s start) + 4096 * b2n v.overrunPend
  let missed := v.edges.any fun e => iuStart v e && decide (last < e.2.2)
  let s := setUnit u { v with
    state := 0, flags := fl, interval := interval, resDev := v.startDev, results := (v.results + 1) % 2 ^ 32, edges := [],
    start := none, overrunPend := iuCont v && missed,
    holdEnd := if iuCont v then some (16 * (rawNow s + v.cfg.getD 3 0)) else none } s
  if iuReport v then raise (ev 0x0814 u) s else s

/-- The earliest stamp of a list. -/
def earliest (l : List (Nat × Bool × Nat)) : Option (Nat × Bool × Nat) :=
  l.foldl (fun a e => match a with | none => some e | some b => if e.2.2 < b.2.2 then some e else some b) none

/-- How long a unit waits, after a stop edge's stamp, for an edge stamped earlier: 1 us, the time within which it reports (08
R217; log entry 131). -/
def iuSettle : Nat := 16 * 410

/-- The measurement that a unit's edges make, if its stop lies within the window: start and stop (08 R217). -/
def iuFound (v : Interval) : Option (Nat × Nat) :=
  (earliest (v.edges.filter (iuStart v))).bind fun st =>
    (earliest ((v.edges.filter (iuStop v)).filter fun x => decide (st.2.2 ≤ x.2.2) && !(x == st))).bind fun x =>
      if st.2.2 + 16 * iuWindow v < x.2.2 then none else some (st.2.2, x.2.2)

/-- The result of a measurement from a start to a stop edge (08 R217). -/
def iuGive (u a b : Nat) (s : State) : State :=
  if a = b then iuResult u 256 0 b s else iuResult u 0 (toUnits s (b - a) b) b s

/-- A unit whose stop edge no earlier stamp can replace any more gives its result (08 R217). -/
def iuJudge (u : Nat) (s : State) : State :=
  let v := unit_ s u
  match (if v.state = 2 then iuFound v else none) with
  | none => s
  | some (a, b) => if 16 * rawNow s < b + iuSettle then s else iuGive u a b s

/-- An edge reaches a unit; edges are judged by timestamp, not by arrival (08 R217). -/
def iuEdge (u pin : Nat) (rise : Bool) (fine : Nat) (s : State) : State :=
  let s := iuJudge u s
  let v := unit_ s u
  let e := (pin, rise, fine)
  if v.holdEnd.any fun h => decide (fine < h) then
    (if iuStart v e then setUnit u { v with overrunPend := true } s else s)
  else
    -- an edge stamped at the end of the holdoff or after it finds the unit armed again
    let v := match v.holdEnd with
      | some h => { v with state := 1, holdEnd := none, armedFine := h, edges := [] }
      | none => v
    let s := setUnit u v s
    if v.state = 0 ∨ fine < v.armedFine then s
    else
      let edges := v.edges ++ [e]
      match earliest (edges.filter (iuStart v)) with
      | none => setUnit u { v with edges := edges.filter (iuStop v) } s
      | some st =>
        let v := if v.start = some st.2.2 then v else { v with start := some st.2.2, startDev := devStamp s st.2.2, state := 2 }
        iuJudge u (setUnit u { v with edges := edges } s)

/-- IU_WINDOW_END: the measurement whose stop lies within the window, or NO_STOP (08 R217). -/
def iuWindowEnd (u : Nat) (s : State) : State :=
  let v := unit_ s u
  match v.start with
  | some t =>
    let e := t + 16 * iuWindow v
    if v.state ≠ 2 ∨ 16 * rawNow s ≤ e then s
    else match iuFound v with
      | some (a, b) => iuGive u a b s
      | none => iuResult u 512 0 e s
  | none => s

def execIuWindowEnd (at_ u : Nat) (s : State) : Host.Outcome State Fault Refusal :=
  .next (iuWindowEnd (u % 4) (s.tick at_))

/-- IU_HOLDOFF_END: a continuous unit rearms (08 R217). -/
def iuRearm (u : Nat) (s : State) : State :=
  let v := unit_ s u
  match v.holdEnd with
  | some h => if h ≤ 16 * rawNow s then setUnit u { v with state := 1, holdEnd := none, armedFine := h, edges := [] } s else s
  | none => s

def execIuHoldoffEnd (at_ u : Nat) (s : State) : Host.Outcome State Fault Refusal :=
  .next (iuRearm (u % 4) (s.tick at_))

/-- Arm a unit: IU_CFG is latched; edges stamped before the apply-at time, or before now, are ignored (08 R218, R220). -/
def iuArm (u : Nat) (at_ : Option Int) (s : State) : State :=
  let v := unit_ s u
  let from_ := match at_ with
    | none => 16 * rawNow s
    | some t => (16 * rawOf s t).ceil.toNat
  setUnit u { v with state := 1, cfg := [0x00, 0x04, 0x08, 0x0C].map (word s 0x0605 u), armedFine := from_,
                     edges := [], start := none, overrunPend := false, holdEnd := none } s

/-- An edge of a pin: kept, or dropped and counted when it follows one of its polarity within 2 ticks (08 R215). -/
def evtPin (s : State) (p : Nat) : EvtPin := s.evt.get p default
def edgeAccepted (s : State) (pin : Nat) (rise : Bool) (fine : Nat) : Bool :=
  match (if rise then (evtPin s pin).lastRise else (evtPin s pin).lastFall) with
  | none => true
  | some t => decide (t + 32 ≤ fine)
def recordEdge (pin : Nat) (rise : Bool) (fine : Nat) (s : State) : State :=
  let v := evtPin s pin
  let v := { v with level := rise }
  { s with evt := s.evt.put pin (if rise then { v with lastRise := some fine } else { v with lastFall := some fine }) }
def dropEdge (pin : Nat) (s : State) : State :=
  let v := evtPin s pin
  { s with evt := s.evt.put pin { v with dropped := v.dropped + 1 } }

/-! ### Commands of the group that need no step (08 R220) -/

/-- TIME_GET: the reply's parameters. -/
def timeGetReply (s : State) : List Byte :=
  le 8 (rawNow s) ++ stampNow s ++ leS 8 s.time.rate ++ le 1 s.time.state ++ le 1 s.time.source ++ le 2 0

def timeGet : Packet → State → State :=
  serve 0x0500 tableRole (exactly 0) fun r s => answer r stOk (timeGetReply s) s

def execTimeGet (at_ : Nat) (p : Packet) (s : State) : Host.Outcome State Fault Refusal :=
  .next (receive 0x0500 p timeGet (s.tick at_))

/-- IU_ARM and IU_DISARM name a unit. -/
def unitOk (r : Req) (_ : State) : Bool := decide (r.params.length = 4) && decide (r.f 0 1 < 4) && zeroAt 1 3 r

/-- Injections that wait for the first hold instant that their apply-at time gave them (04 R103). -/
def timedInjections (s : State) : List (Nat × Injection) :=
  (quireList s).flatMap fun q =>
    ((witOf s q).injections.filter fun j => decide (j.start = 1) && j.done.isEmpty && j.hold.any fun h => decide (devNow s < h * (witTickU : Int))).map (q, ·)

/-- The scheduled actions that are pending, commits and timed injections among them. -/
def scheduled (s : State) : Nat := s.cz.sched.length + s.cz.commits.length + (timedInjections s).length

/-- Put an action into the schedule, at most 256 (13 R344). -/
def schedule (r : Req) (t : Int) (s : State) : State :=
  if 256 ≤ scheduled s then refuse r stBusy s
  else { s with cz.sched := s.cz.sched ++ [{ req := r, time := t }] }

/-- IU_ARM runs now. -/
def iuArmRun (r : Req) (s : State) : State :=
  let u := r.f 0 1
  let s := iuJudge u s
  if (unit_ s u).state ≠ 0 ∨ (unit_ s u).holdEnd.isSome then refuseOr r stConflict s
  else answerOr r stOk [] 0x1010 (iuArm u r.applyAt s)

def iuArmServe : Packet → State → State :=
  serve 0x0503 tableRole unitOk fun r s =>
    match r.applyAt with
    | none => iuArmRun r s
    | some t => schedule r t s

def execIuArm (at_ : Nat) (p : Packet) (s : State) : Host.Outcome State Fault Refusal :=
  .next (receive 0x0503 p iuArmServe (s.tick at_))

/-- IU_DISARM (08 R217, R220). -/
def iuDisarmServe : Packet → State → State :=
  serve 0x0504 tableRole unitOk fun r s =>
    let u := r.f 0 1
    let s := iuJudge u s
    answer r stOk [] (setUnit u { unit_ s u with state := 0, edges := [], start := none, holdEnd := none } s)

def execIuDisarm (at_ : Nat) (p : Packet) (s : State) : Host.Outcome State Fault Refusal :=
  .next (receive 0x0504 p iuDisarmServe (s.tick at_))

end Sys2Proof.Machine
end

