-- ==== Sys2Proof/Machine/Ptp.lean ====
section
/-! DEFINITION. PTP: messages in the network byte order of IEEE 1588, ports, the best-master choice, and the loss of a source
(08 R202, R210 to R212). What IEEE 1588-2019 fixes and the spec only names is taken from the standard (log entry 80). -/

namespace Sys2Proof.Machine

/-! ### Settings and identities -/

/-- The octets of a port's MAC address. -/
def macBytes (s : State) (p : Nat) : List Byte := le 6 (if p = 0 then s.part.mac0 else s.part.mac1)

/-- The hub's clockIdentity: the EUI-64 of ETH0's MAC (log entry 23), and a port's identity. -/
def clockId (s : State) : List Byte := (macBytes s 0).take 3 ++ [0xFF, 0xFE] ++ (macBytes s 0).drop 3
def portId (s : State) (p : Nat) : List Byte := clockId s ++ be 2 (p + 1)

/-- 2^log seconds in 2^-16 ns, for log -7 to 5. -/
def logInterval (l : Int) : Nat := secU * 2 ^ (l + 7).toNat / 128

/-- Picoseconds as 2^-16 ns, rounded down. -/
def psU (ps : Int) : Int := ps * 65536 / 1000

def ptpEn (s : State) (p : Nat) : Bool := cfBit s 0x0603 p 0 31
def ptpTransport (s : State) (p : Nat) : Nat := cf s 0x0603 p 0 30 29
def ptpPeer (s : State) (p : Nat) : Bool := cfBit s 0x0603 p 0 28
def ptpTwoStep (s : State) (p : Nat) : Bool := cfBit s 0x0603 p 0 27
def ptpRole (s : State) (p : Nat) : Nat := cf s 0x0603 p 0 26 25
def ptpL1 (s : State) (p : Nat) : Bool := cfBit s 0x0603 p 0 24
def ptpDomain (s : State) (p : Nat) : Nat := cf s 0x0603 p 0 23 16
def asymU (s : State) (p : Nat) : Int := psU (toSigned 32 (word s 0x0603 p 8))
def egressU (s : State) (p : Nat) : Int := psU (cf s 0x0603 p 0x0C 15 0)

/-! ### Bytes, in network byte order (08 R211) -/

/-- Seconds and nanoseconds of a time; what is left below a nanosecond goes into the correction field. -/
def ptpTime (t : Int) : List Byte := be 6 (t / (secU : Int)).toNat ++ be 4 ((t % (secU : Int)).toNat / 65536)
def ptpFrac (t : Int) : Int := t % 65536

/-- Bytes of a kind of message, its controlField. -/
def ptpLength (k : Nat) : Nat :=
  match k with
  | 0 => 44 | 1 => 44 | 8 => 44 | 11 => 64 | 12 => 50 | _ => 54
def ptpControl (k : Nat) : Nat :=
  match k with
  | 0 => 0 | 1 => 1 | 8 => 2 | 9 => 3 | _ => 5

/-- The correction that a message carries: a Sync and the follow-ups add the fraction of their time stamp, the responses that
name an arrival take it away. -/
def ptpCorrection (m : PtpMessage) : Int :=
  if m.kind = 0 ∨ m.kind = 8 ∨ m.kind = 10 then m.correction + ptpFrac m.stamp
  else if m.kind = 9 ∨ m.kind = 3 then m.correction - ptpFrac m.stamp
  else m.correction

/-- The part of a message behind its 34-byte header. -/
def ptpTail (m : PtpMessage) : List Byte :=
  match m.kind with
  | 11 => zeros 10 ++ be 2 (ofSigned 16 m.utcOffset) ++ zeros 1 ++ be 1 m.gmPriority1 ++ be 1 m.gmClass ++ be 1 m.gmAccuracy
      ++ be 2 m.gmVariance ++ be 1 m.gmPriority2 ++ m.gmId ++ be 2 m.stepsRemoved ++ be 1 0xA0
  | 12 => List.replicate 10 0xFF ++ be 2 0x8001 ++ be 2 2 ++ be 2 (m.l1.getD 0)
  | 2 => ptpTime m.stamp ++ zeros 10
  | 9 => ptpTime m.stamp ++ m.requester
  | 3 => ptpTime m.stamp ++ m.requester
  | 10 => ptpTime m.stamp ++ m.requester
  | _ => ptpTime m.stamp

/-- A message as it leaves: version 2.1, every field most significant byte first. -/
def ptpBytes (m : PtpMessage) : List Byte :=
  be 1 m.kind ++ be 1 0x12 ++ be 2 (ptpLength m.kind) ++ be 1 m.domain ++ zeros 1 ++ be 1 (2 * b2n m.twoStep)
    ++ be 1 (8 * b2n m.ptpTimescale + 16 * b2n m.timeTraceable + 32 * b2n m.freqTraceable)
    ++ be 8 (ofSigned 64 (ptpCorrection m)) ++ zeros 4 ++ m.sender ++ be 2 m.seqId ++ be 1 (ptpControl m.kind)
    ++ be 1 (ofSigned 8 m.logInterval) ++ ptpTail m

/-- `n` bytes from an offset, most significant first. -/
def fldBe (off n : Nat) (b : List Byte) : Nat := ofBe (fitBytes n (slice off n b))

/-- A received message: version 2, at least as long as its kind. -/
def ptpRead (b : List Byte) : Option PtpMessage :=
  let k := fldBe 0 1 b % 16
  let f := fldBe 7 1 b
  if b.length < ptpLength k ∨ fldBe 1 1 b % 16 ≠ 2 then none
  else some
    { (default : PtpMessage) with
      kind := k, domain := fldBe 4 1 b, sender := slice 20 10 b, seqId := fldBe 30 2 b, logInterval := toSigned 8 (fldBe 33 1 b),
      twoStep := bit 1 (fldBe 6 1 b), ptpTimescale := bit 3 f, timeTraceable := bit 4 f, freqTraceable := bit 5 f,
      correction := toSigned 64 (fldBe 8 8 b), stamp := ((fldBe 34 6 b * secU + fldBe 40 4 b * 65536 : Nat) : Int),
      requester := if k = 9 ∨ k = 3 ∨ k = 10 then slice 44 10 b else [],
      utcOffset := if k = 11 then toSigned 16 (fldBe 44 2 b) else 0,
      gmPriority1 := fldBe 47 1 b, gmClass := fldBe 48 1 b, gmAccuracy := fldBe 49 1 b, gmVariance := fldBe 50 2 b,
      gmPriority2 := fldBe 52 1 b, gmId := if k = 11 then slice 53 8 b else [], stepsRemoved := fldBe 61 2 b,
      l1 := if k = 12 ∧ fldBe 44 2 b = 0x8001 then some (fldBe 48 2 b) else none }

/-- A message is an event message, which port 319 carries. -/
def ptpEvent (k : Nat) : Bool := decide (k < 4)

/-- The multicast address of a message on a transport: peer delay messages have their own. -/
def ptpAddr (transport k : Nat) : List Byte :=
  let peer := decide (k = 2 ∨ k = 3 ∨ k = 10)
  match transport with
  | 0 => if peer then [0x01, 0x80, 0xC2, 0, 0, 0x0E] else [0x01, 0x1B, 0x19, 0, 0, 0]
  | 1 => if peer then [224, 0, 0, 107] else [224, 0, 1, 129]
  | _ => if peer then [0xFF, 0x02] ++ zeros 13 ++ [0x6B] else [0xFF, 0x0E] ++ zeros 12 ++ [1, 0x81]

/-- A message leaves a port on its transport: Ethertype 0x88F7, or UDP port 319 or 320 (08 R210). -/
def ptpOut (p : Nat) (m : PtpMessage) (s : State) : State :=
  let tr := ptpTransport s p
  let proto := if tr = 0 then 0x88F7 else if ptpEvent m.kind then 319 else 320
  emit (.eth (vlanTag s p) (ptpAddr tr m.kind) (.ptp p proto (ptpAddr tr m.kind) (ptpBytes m))) s

/-! ### The best master (08 R210 to R212) -/

/-- A data set that the best-master choice compares: the attributes in order, the grandmaster, steps removed, the identities
of its sender and of the port that received it. -/
structure MasterSet where
  attrs : List Nat
  gm : Nat
  steps : Nat
  sender : Nat
  receiver : Nat
  deriving DecidableEq, Repr, Inhabited

/-- The data set of a master as port p received it. -/
def dataSet (s : State) (p : Nat) (m : PtpMessage) : MasterSet :=
  { attrs := [m.gmPriority1, m.gmClass, m.gmAccuracy, m.gmVariance, m.gmPriority2, ofBe m.gmId], gm := ofBe m.gmId,
    steps := m.stepsRemoved, sender := ofBe m.sender, receiver := ofBe (portId s p) }

/-- The hub's own data set on a port. -/
def ownData (s : State) (p : Nat) : MasterSet :=
  { attrs := [cf s 0x0603 p 0 15 8, cf s 0x0603 p 0x10 7 0, 0xFE, 0xFFFF, cf s 0x0603 p 0 7 0, ofBe (clockId s)],
    gm := ofBe (clockId s), steps := 0, sender := ofBe (portId s p), receiver := ofBe (portId s p) }

/-- The first list ranks better. -/
def better : List Nat → List Nat → Bool
  | a :: x, b :: y => if a < b then true else if b < a then false else better x y
  | _, _ => false

/-- The data-set comparison: 0 the first is better, 1 better by topology, 2 the second is better by topology, 3 better. -/
def compareSets (a b : MasterSet) : Nat :=
  if a.gm ≠ b.gm then (if better a.attrs b.attrs then 0 else 3)
  else if a.steps + 1 < b.steps then 0
  else if b.steps + 1 < a.steps then 3
  else if a.steps < b.steps then (if b.receiver < b.sender then 0 else 1)
  else if b.steps < a.steps then (if a.receiver < a.sender then 3 else 2)
  else if a.sender < b.sender then 1
  else if b.sender < a.sender then 2
  else if a.receiver ≤ b.receiver then 1 else 2

/-- The best master that a port has heard, if the port may follow one. -/
def foreign (s : State) (p : Nat) : Option PtpMessage :=
  if ptpEn s p ∧ ptpRole s p ≠ 2 then (ptpPort s p).announce.map (·.1) else none

/-- The same as a data set. -/
def heard (s : State) (p : Nat) : Option MasterSet := (foreign s p).map (dataSet s p)

/-- The best master of the two ports, with the port that heard it. -/
def bestHeard (s : State) : Option (Nat × MasterSet) :=
  match heard s 0, heard s 1 with
  | some a, some b => if compareSets a b < 2 then some (0, a) else some (1, b)
  | some a, none => some (0, a)
  | none, some b => some (1, b)
  | none, none => none

/-- MASTER, or LISTENING while the servo is UNSET (08 R211). -/
def masterState (s : State) : Nat := if s.time.state = 0 then 1 else 2

/-- The state decision of the best-master algorithm for a port (08 R212): with a class below 128 the port is MASTER or PASSIVE
by its own best master; else MASTER where the hub is better than every master heard, SLAVE where the best was heard, PASSIVE
where it is the same master by a better path, and MASTER where it is not. -/
def bmcaState (s : State) (p : Nat) : Nat :=
  let own := ownData s p
  if cf s 0x0603 p 0x10 7 0 < 128 then
    match heard s p with
    | none => masterState s
    | some m => if compareSets own m < 2 then masterState s else 4
  else match bestHeard s with
    | none => masterState s
    | some (q, b) =>
      if compareSets own b < 2 then masterState s
      else if q = p then 3
      else match heard s p with
        | none => masterState s
        | some m => if compareSets b m = 1 then 4 else masterState s

/-- The state a port takes from its role, its best master and the servo. -/
def portState (s : State) (p : Nat) : Nat :=
  if ¬ ptpEn s p then 5
  else match ptpRole s p with
    | 2 => masterState s
    | 1 => (match heard s p with
        | none => 1
        | some _ => if (bestHeard s).map (·.1) = some p then 3 else 4)
    | _ => bmcaState s p

/-- Take the state a port should have; a port that leaves SLAVE is no source (08 R202). -/
def ptpDecide (p : Nat) (s : State) : State :=
  let st := portState s p
  let v := ptpPort s p
  if v.state = st then s
  else
    let s := setPtp p { v with state := st, sync := none, delayReq := none, pdelay := none } s
    if v.state = 3 ∧ (srcOf s (p + 1)).present then loseSource (p + 1) s else s

/-- Both ports' states are judged again. -/
def ptpDecideBoth (s : State) : State := ptpDecide 1 (ptpDecide 0 s)

/-! ### The loss of a source (08 R202) -/

/-- The announce receipt timeout of a PTP port has run out (08 R202, R212). -/
def announceOut (s : State) (x : Nat) : Bool :=
  decide (x = 1 ∨ x = 2) &&
    (match (ptpPort s (x - 1)).announce with
     | none => false
     | some (_, t) => decide (t + cf s 0x0603 (x - 1) 4 7 0 * 2 ^ ((toSigned 8 (cf s 0x0603 (x - 1) 4 23 16) + 3).toNat) * secU / 8 ≤ s.now))

/-- SOURCE_LOST: no measurement for four expected intervals, or the announce receipt timeout, at which the port forgets its
master and the choice is made again. -/
def sourceLost (x : Nat) (s : State) : State :=
  let s := if announceOut s x then ptpDecideBoth (setPtp (x - 1) { ptpPort s (x - 1) with announce := none } s) else s
  if (srcOf s x).present && silent s x then loseSource x s else s

def execSourceLost (at_ x : Nat) (s : State) : Host.Outcome State Fault Refusal := .next (unlessPaused (sourceLost x) (s.tick at_))

/-! ### Messages -/

/-- The fields of a message this hub sends: a boundary clock passes its master's data set on. -/
def ptpMsg (s : State) (p kind seqId : Nat) (stamp : Int) : PtpMessage :=
  let gm := s.time.source
  let up := if gm = 1 ∨ gm = 2 then (ptpPort s (gm - 1)).announce.map (·.1) else none
  { kind := kind, domain := ptpDomain s p, sender := portId s p, seqId := seqId, logInterval := 0,
    twoStep := false, ptpTimescale := true,
    timeTraceable := s.time.state == 1 && (up.map (·.timeTraceable)).getD false,
    freqTraceable := s.time.state == 1 && (up.map (·.freqTraceable)).getD false,
    correction := 0, stamp := stamp, requester := [],
    gmPriority1 := (up.map (·.gmPriority1)).getD (cf s 0x0603 p 0 15 8),
    gmPriority2 := (up.map (·.gmPriority2)).getD (cf s 0x0603 p 0 7 0),
    gmClass := (up.map (·.gmClass)).getD (cf s 0x0603 p 0x10 7 0),
    gmAccuracy := (up.map (·.gmAccuracy)).getD 0xFE, gmVariance := (up.map (·.gmVariance)).getD 0xFFFF,
    gmId := (up.map (·.gmId)).getD (clockId s), stepsRemoved := (up.map (·.stepsRemoved + 1)).getD 0,
    utcOffset := (up.map (·.utcOffset)).getD 0, l1 := none }

/-- A port's offset measurement from t1 and t2, both in 2^-16 ns. -/
def ptpOffset (p : Nat) (t1 t2 : Int) (s : State) : State :=
  let s := setPtp p { ptpPort s p with masterToSlave := some (t2 - t1), sync := none } s
  match (ptpPort s p).meanPath, (ptpPort s p).announce with
  | some d, some (a, _) =>
    if a.ptpTimescale then
      let v := srcOf s (p + 1)
      measure (p + 1) (t1 + d + asymU s p - t2)
        (setSrc (p + 1) { v with interval := logInterval (toSigned 8 (cf s 0x0603 p 4 31 24)) } s)
    else s
  | _, _ => s

/-- Device time at the message point of a received message: its stamp, less the board's ingress latency. -/
def rxTime (s : State) (p raw phase : Nat) : Int := devPhase s raw phase - psU (cf s 0x0603 p 0x0C 31 16)

/-- An Announce: the best master of a port, and MASTER_CHANGE at another grandmaster identity on the port followed. -/
def ptpAnnounce (p : Nat) (m : PtpMessage) (s : State) : State :=
  let v := ptpPort s p
  let take : Bool := match v.announce with
    | none => true
    | some (a, _) => a.sender == m.sender || decide (compareSets (dataSet s p m) (dataSet s p a) < 2)
  if ¬ take then s
  else
    let src := srcOf s (p + 1)
    let s := setPtp p { v with announce := some (m, s.now) } s
    let s := setSrc (p + 1) { src with gmId := m.gmId, gmClass := m.gmClass, utc := m.utcOffset } s
    let s := if s.time.source = p + 1 ∧ s.time.lastSource ≠ (p + 1, m.gmId) then
        raiseOrig 0x0811 4 (p + 1) m.gmId 1 { s with time.lastSource := (p + 1, m.gmId) } else s
    ptpDecideBoth s

/-- The answer to a peer delay request: in one step with the turnaround in its correction, or in two. -/
def pdelayAnswer (p : Nat) (m : PtpMessage) (t2 : Int) (s : State) : State :=
  let t3 := devDeparts s + egressU s p
  if ptpTwoStep s p then
    let s := ptpOut p { ptpMsg s p 3 m.seqId t2 with requester := m.sender, twoStep := true } s
    ptpOut p { ptpMsg s p 10 m.seqId t3 with requester := m.sender, correction := m.correction } s
  else ptpOut p { ptpMsg s p 3 m.seqId 0 with requester := m.sender, correction := m.correction + (t3 - t2) } s

/-- A message of this domain from another clock, at message time t. -/
def ptpTake (p : Nat) (m : PtpMessage) (t : Int) (s : State) : State :=
  let v := ptpPort s p
  let parent : Bool := match v.announce with | some (a, _) => a.sender == m.sender | none => false
  match m.kind with
  | 11 => ptpAnnounce p m s
  | 12 => if ptpL1 s p ∧ m.l1.isSome then setPtp p { v with l1 := m.l1, l1At := s.now } s else s
  | 0 =>
    if v.state ≠ 3 ∨ ¬ parent then s
    else if m.twoStep then setPtp p { v with sync := some (m.seqId, t, m.correction) } s
    else ptpOffset p (m.stamp + m.correction) t s
  | 8 =>
    match v.sync with
    | some (q, t2, c) => if parent ∧ q = m.seqId then ptpOffset p (m.stamp + c + m.correction) t2 s else s
    | none => s
  | 9 =>
    match v.delayReq, v.masterToSlave with
    | some (q, t3), some d =>
      if parent ∧ q = m.seqId ∧ m.requester = portId s p then
        setPtp p { v with meanPath := some ((d + (m.stamp - m.correction - t3)) / 2), delayReq := none } s
      else s
    | _, _ => s
  | 1 =>
    if v.state ≠ 2 ∨ ptpPeer s p then s
    else ptpOut p { ptpMsg s p 9 m.seqId t with requester := m.sender, correction := m.correction,
                                                logInterval := toSigned 8 (cf s 0x0603 p 4 15 8) } s
  | 2 => if ptpPeer s p then pdelayAnswer p m t s else s
  | 3 =>
    match v.pdelay with
    | some (q, t1, _, _) =>
      if q = m.seqId ∧ m.requester = portId s p then
        if m.twoStep then setPtp p { v with pdelay := some (q, t1, t, m.stamp - m.correction) } s
        else setPtp p { v with meanPath := some ((t - t1 - m.correction) / 2), pdelay := none } s
      else s
    | none => s
  | 10 =>
    match v.pdelay with
    | some (q, t1, t4, t2) =>
      if q = m.seqId ∧ m.requester = portId s p then
        setPtp p { v with meanPath := some ((t4 - t1 - (m.stamp + m.correction - t2)) / 2), pdelay := none } s
      else s
    | none => s
  | _ => s

/-- PTP_MESSAGE_RECEIVE on a port, on transport `tr`, stamped at a raw count and a phase in steps of 16 ps (08 R210, R211). -/
def ptpReceive (p raw phase tr : Nat) (b : List Byte) (s : State) : State :=
  match ptpRead b with
  | none => s
  | some m =>
    if 2 ≤ p ∨ ¬ ptpEn s p ∨ tr ≠ ptpTransport s p ∨ m.domain ≠ ptpDomain s p ∨ m.sender.take 8 = clockId s
        ∨ s.time.rawStart.isNone then s
    else ptpTake p m (rxTime s p raw phase) s

def execPtpMessageReceive (at_ p raw phase tr : Nat) (b : List Byte) (s : State) : Host.Outcome State Fault Refusal :=
  .next (unlessPaused (ptpReceive p raw phase tr b) (s.tick at_))

/-- The L1_SYNC state of a port: 0 disabled, 1 idle while no TLV has come for three intervals, 2 link alive, 3 the partner asks
for the same coherence, 4 both ends are coherent (08 R210; log entry 132). -/
def l1State (s : State) (p : Nat) : Nat :=
  let v := ptpPort s p
  if ¬ ptpEn s p ∨ ¬ ptpL1 s p then 0
  else match v.l1 with
    | none => 1
    | some w =>
      if v.l1At + 3 * secU ≤ s.now then 1
      else if w / 256 % 8 ≠ 3 then 2
      else if w % 4 = 3 ∧ v.l1Own % 4 = 3 then 4
      else 3

/-- PTP_MESSAGE_SEND: Sync (0), Announce (11), the delay request (1, 2) or L1_SYNC (12) whose interval has passed (08 R210,
R211). -/
def ptpSend (p kind : Nat) (s : State) : State :=
  let v := ptpPort s p
  if 2 ≤ p ∨ ¬ ptpEn s p ∨ s.time.rawStart.isNone then s
  else
    let t := devDeparts s + egressU s p
    let lg := fun hi lo => toSigned 8 (cf s 0x0603 p 4 hi lo)
    match kind with
    | 0 =>
      if v.state ≠ 2 ∨ s.time.state = 0 ∨ s.now < v.lastSync + logInterval (lg 31 24) then s
      else
        let k := (v.syncSeq + 1) % 65536
        let s := setPtp p { v with syncSeq := k, lastSync := s.now } s
        let m := { ptpMsg s p 0 k t with logInterval := lg 31 24 }
        if ptpTwoStep s p then ptpOut p { m with kind := 8 } (ptpOut p { m with twoStep := true, stamp := 0 } s)
        else ptpOut p m s
    | 11 =>
      if v.state ≠ 2 ∨ s.time.state = 0 ∨ s.now < v.lastAnnounce + logInterval (lg 23 16) then s
      else
        let k := (v.announceSeq + 1) % 65536
        ptpOut p { ptpMsg s p 11 k 0 with logInterval := lg 23 16 } (setPtp p { v with announceSeq := k, lastAnnounce := s.now } s)
    | 1 =>
      if v.state ≠ 3 ∨ ptpPeer s p = true ∨ s.now < v.lastDelay + logInterval (lg 15 8) then s
      else
        let k := (v.delaySeq + 1) % 65536
        ptpOut p { ptpMsg s p 1 k 0 with logInterval := 0x7F }
          (setPtp p { v with delaySeq := k, lastDelay := s.now, delayReq := some (k, t) } s)
    | 2 =>
      if ¬ ptpPeer s p ∨ s.now < v.lastDelay + logInterval (lg 15 8) then s
      else
        let k := (v.delaySeq + 1) % 65536
        ptpOut p { ptpMsg s p 2 k 0 with logInterval := 0x7F }
          (setPtp p { v with delaySeq := k, lastDelay := s.now, pdelay := some (k, t, 0, 0) } s)
    | 12 =>
      if ¬ ptpL1 s p ∨ s.now < v.lastL1 + secU then s
      else
        let k := (v.l1Seq + 1) % 65536
        let own := if l1State s p < 3 then 0 else (Config.l1Coherent p k).toNat
        ptpOut p { ptpMsg s p 12 k 0 with l1 := some (0x0300 + own) } (setPtp p { v with l1Seq := k, lastL1 := s.now, l1Own := own } s)
    | _ => s

def execPtpMessageSend (at_ p kind : Nat) (s : State) : Host.Outcome State Fault Refusal :=
  .next (unlessPaused (ptpSend p kind) (s.tick at_))

/-- A write to EN, TRANSPORT, DELAY or DOMAIN restarts the port's state machine (08 R212). -/
def ptpRestart (p : Nat) (s : State) : State :=
  let s := setPtp p { (default : PtpPort) with state := if ptpEn s p then 1 else 5 } s
  ptpDecideBoth (if (srcOf s (p + 1)).present then loseSource (p + 1) s else s)

end Sys2Proof.Machine
end

