-- ==== Sys2Proof/Machine/Front.lean ====
section
/-! DEFINITION. What the front end, the witness, the filter and the limit watch share: settings in force, holds and marks
of sinc outputs, stand-in positions, and the end of a calibration run (03, 04, 07). -/

namespace Sys2Proof.Machine

/-! ### Settings (03 R64, R73; 04 R106; 15 R375 to R377) -/

def gainOf (s : State) (c : Nat) : Nat := cf s 0x0101 c 0x00 2 0
def modeOf (s : State) (c : Nat) : Nat := cf s 0x0101 c 0x00 5 4
def ratiometric (s : State) (c : Nat) : Bool := cfBit s 0x0101 c 0x00 8
def rtdI (s : State) (c : Nat) : Nat := cf s 0x0101 c 0x00 21 12
def wiring (s : State) (c : Nat) : Nat := cf s 0x0101 c 0x00 23 22
def excMode (s : State) (e : Nat) : Nat := cf s 0x0102 e 0x00 2 0
def revHalf (s : State) (e : Nat) : Nat := cf s 0x0102 e 0x04 16 0
def iLimit (s : State) (e : Nat) : Nat := cf s 0x0102 e 0x08 23 16
def blankPost (s : State) (e : Nat) : Nat := cf s 0x0102 e 0x08 11 0

/-- The partner of a group (03 R67). -/
def partner (e : Nat) : Nat := if e % 2 = 0 then e + 1 else e - 1

/-- The groups that switch together: the pair in REVERSAL, else the group alone. -/
def switched (s : State) (e : Nat) : List Nat :=
  if excMode s e = 2 then [2 * (e / 2), 2 * (e / 2) + 1] else [e]

/-- Channels of a group (01 R26). -/
def groupChans (e : Nat) : List Nat := span (4 * e) 4

/-- Nominal range in filter units, and filter units of one sinc step (04 R89, 05 R127). -/
def fsUnits (g : Nat) : Nat := 2 ^ (35 - 2 * g)
def sincStep (g : Nat) : Int := ((2 ^ (8 - 2 * g) : Nat) : Int)

/-- Nominal range in volts (03 R61). -/
def fsVolts (g : Nat) : Rat := 5 / ((4 ^ g : Nat) : Rat)

/-- Phase B of a reversal at a sinc number (03 R68). -/
def phaseB (s : State) (e : Nat) (m : Int) : Bool := decide (m / (revHalf s e : Int) % 2 = 1)

/-- The sign of R69 at a sinc number. It alternates on while the pair is TRIPPED: R69 makes no exception (log entry 43). -/
def phaseSign (s : State) (c : Nat) (m : Int) : Int :=
  if excMode s (groupOf c) = 2 ∧ ¬ ratiometric s c ∧ phaseB s (groupOf c) m then -1 else 1

/-- The sense that a ratiometric channel is divided by, in 0.1 mV: in REVERSAL the pair's signed difference
(03 R70, 04 R115). -/
def senseOf (s : State) (e : Nat) : Int :=
  if excMode s e = 2 then ((excOf s (2 * (e / 2))).sense : Int) - ((excOf s (2 * (e / 2) + 1)).sense : Int)
  else (excOf s e).sense

/-- A witness result in 10 nV on the main path's scale (04 R115). -/
def standinUnits (s : State) (c : Nat) (m : Int) (w : Rat) : Int :=
  if ratiometric s c then
    if senseOf s (groupOf c) = 0 then Config.standinNoSense (roundAway w)
    else roundAway (w / 100000000 / ((senseOf s (groupOf c) : Rat) / 10000) * ((2 ^ 35 : Nat) : Rat))
  else phaseSign s c m * roundAway (w * ((2 ^ 35 : Nat) : Rat) / 500000000)

/-- The channel code of modulator c of quire q; 128 and 129 are the keepers (01 R27). -/
def modCode (q c : Nat) : Nat := if c < 128 then 128 * q + c else 0x0380 + 2 * q + (c - 128)

/-- The quire of a modulator's code. -/
def modQuire (c : Nat) : Nat := if c < 0x0380 then c / 128 else (c - 0x0380) / 2

/-- The gain code that a modulator runs at: KEEPq.0 at ×256, KEEPq.1 at ×1 (07 R161). -/
def modGain (s : State) (c : Nat) : Nat := if c < 0x0380 then gainOf s c else if c % 2 = 0 then 4 else 0

/-! ### Safety membership (15 R372 to R376) -/

def pairEn (s : State) (p : Nat) : Bool := cfBit s 0x0B01 p 0x00 31
def pairGroup (s : State) (p : Nat) : Nat := cf s 0x0B01 p 0x00 25 24
def slotChan (s : State) (m : Nat) : Nat := cf s 0x0B03 m 0x00 31 16

/-- Enabled pairs. -/
def enabledPairs (s : State) : List Nat := (List.range 64).filter (pairEn s)

/-- Member slots of enabled pairs that name a channel. -/
def slotsOf (s : State) (c : Nat) : List Nat :=
  (enabledPairs s).flatMap fun p => [2 * p, 2 * p + 1].filter fun m => decide (slotChan s m = c)

/-- A channel is a member of an enabled pair. -/
def isMember (s : State) (c : Nat) : Bool := !(slotsOf s c).isEmpty

/-- Members on a group, and whether it serves any: SAFETY_HELD (03 R73). -/
def groupSlots (s : State) (e : Nat) : List Nat := (groupChans e).flatMap (slotsOf s)
def safetyHeld (s : State) (e : Nat) : Bool := !(groupSlots s e).isEmpty

/-- A member of a pair: its slot's place in the pair's record. -/
def member (s : State) (m : Nat) : SMember := if m % 2 = 0 then (safePair s (m / 2)).a else (safePair s (m / 2)).b
def setMember (m : Nat) (v : SMember) (s : State) : State :=
  if m % 2 = 0 then setPair (m / 2) { safePair s (m / 2) with a := v } s
  else setPair (m / 2) { safePair s (m / 2) with b := v } s

/-- The other member's slot. -/
def other (m : Nat) : Nat := if m % 2 = 0 then m + 1 else m - 1

/-- A member is available as its last evaluation left it (15 R383). -/
def available (s : State) (m : Nat) : Bool := decide ((member s m).cause = 0)

/-- "Conditions A" of 15 R393 but for the commit's own contents. -/
def conditionsA (s : State) (m : Nat) : Bool :=
  decide ((safePair s (m / 2)).state = 1) && available s (other m) && s.conv.simul.isNone
    && decide ((witOf s (quireOf (slotChan s m))).state ≠ 3)

/-! ### Fields that a commit changes -/

/-- A field of a block instance differs between two states. -/
def fieldChanged (o f : State) (b inst off hi lo : Nat) : Bool := cf o b inst off hi lo != cf f b inst off hi lo

/-- Fields of a channel that differ between two states: the GAIN; what changes the value's meaning; what causes a configured
switching event. -/
def gainChanged (o f : State) (c : Nat) : Bool := fieldChanged o f 0x0101 c 0x00 2 0
def modeChanged (o f : State) (c : Nat) : Bool := fieldChanged o f 0x0101 c 0x00 8 8 || fieldChanged o f 0x0101 c 0x00 5 4
def wireChanged (o f : State) (c : Nat) : Bool := fieldChanged o f 0x0101 c 0x00 23 12

/-! ### Marks -/

/-- A mark covers a sinc number; it meets an interval. -/
def Mark.covers (k : Mark) (m : Int) : Bool :=
  decide (k.first ≤ m) && (match k.last with | none => true | some l => decide (m ≤ l))
def Mark.meets (k : Mark) (lo hi : Int) : Bool :=
  decide (k.first ≤ hi) && (match k.last with | none => true | some l => decide (lo ≤ l))

def addMark (c : Nat) (kind : MarkKind) (first : Int) (last : Option Int) (s : State) : State :=
  let a := (witOf s (quireOf c)).posA.any (·.channel == c)
  setChan c { chan s c with marks := { kind := kind, first := first, last := last, atA := a } :: (chan s c).marks } s

/-- End the open marks of a kind at a number. -/
def endMarks (c : Nat) (kind : MarkKind) (last : Int) (s : State) : State :=
  setChan c { chan s c with marks := (chan s c).marks.map fun k =>
    if k.kind = kind ∧ k.last = none then { k with last := some last } else k } s

/-- The marks of a kind end before a number. -/
def cutMarks (c : Nat) (kind : MarkKind) (m : Int) (s : State) : State :=
  setChan c { chan s c with marks := (chan s c).marks.map fun k =>
    if k.kind = kind ∧ k.covers m = true then { k with last := some (m - 1) } else k } s

/-- A mark that replaces the output by the one before it. -/
def MarkKind.holds : MarkKind → Bool
  | .heldU | .rephase | .endLevel | .heldSU | .out | .lost => true
  | .over | .senseLow | .tripped | .standin | .range => false

/-- The number of the sinc instant at or before now, and of the first after now. -/
def sincNow (s : State) : Int := sincFloor (devNow s)
def sincNext (s : State) : Int := sincFloor (devNow s) + 1

/-- The device time of a sinc number. -/
def sincTime (m : Int) : Int := m * (sincU : Int)

/-- Half the sinc window, 7.5 microseconds. -/
def halfWin : Int := 491520000

/-- First and last output whose window, the clocks at both its ends included, holds part of [ts, tb] (03 R76, 04 R91). -/
def winFirst (ts : Int) : Int := -(-(ts - halfWin) / (sincU : Int))
def winLast (tb : Int) : Int := (tb + halfWin) / (sincU : Int)

/-- First and last output whose window holds more than an end of [ts, tb] (04 R94). -/
def spanFirst (ts : Int) : Int := (ts - halfWin) / (sincU : Int) + 1
def spanLast (tb : Int) : Int := -(-(tb + halfWin) / (sincU : Int)) - 1

/-- The device time of an instant of the model's clock. -/
def deviceAt (s : State) (n : Nat) : Int := devNow s - ((s.now : Int) - (n : Int))

/-! ### Q by instant (02 R50; 07 R160, R165, R171, R185) -/

/-- Q begins for a reason at a sinc number, unless it stands; it ends at one. -/
def openQ (y : QWhy) (m : Int) (l : List QSpan) : List QSpan :=
  if l.any (fun x => x.why == y && x.last.isNone) then l else { why := y, first := m, last := none } :: l
def closeQ (y : QWhy) (m : Int) (l : List QSpan) : List QSpan :=
  l.map fun x => if x.why = y ∧ x.last = none then { x with last := some m } else x

/-- Q begins or ends at a sinc number. Log entry 75. -/
def setQ (y : QWhy) (on : Bool) (m : Int) (l : List QSpan) : List QSpan := if on then openQ y m l else closeQ y m l

/-- A span covers a sinc number. -/
def QSpan.covers (x : QSpan) (m : Int) : Bool :=
  decide (x.first ≤ m) && (match x.last with | none => true | some l => decide (m < l))

/-- A quire's ensemble takes a warming state from a sinc number on; only STABLE_1PPM and STABLE_FULL are without Q. -/
def Ensemble.warmed (e : Ensemble) (st : Nat) (m : Int) : Ensemble :=
  { e with warm := st, qs := setQ .unstable (decide (st ≠ 3 ∧ st ≠ 4)) m e.qs }

/-! ### Holds (03 R76 to R78) -/

/-- A switching event joins the hold that runs, or begins a new one. -/
def joinHold (first last : Int) (conf : Bool) : List Hold → List Hold
  | [] => [{ first := first, last := last, ufrom := if conf then some first else none }]
  | h :: r =>
    if h.first ≤ first ∧ first ≤ h.last then
      { h with last := max h.last last,
               ufrom := if conf then some (match h.ufrom with | none => first | some u => min u first) else h.ufrom } :: r
    else { first := first, last := last, ufrom := if conf then some first else none } :: h :: r

/-- A switching event of a group at ts with blanking end tb; `conf` marks a configured event. -/
def holdGroup (ts tb : Int) (conf : Bool) (e : Nat) (s : State) : State :=
  let v := excOf s e
  setExc e { v with holds := joinHold (winFirst ts) (winLast tb) conf v.holds, blankEnd := max v.blankEnd tb,
                    events := ts :: v.events } s

/-- A number is held for a channel. -/
def heldAt (s : State) (c : Nat) (m : Int) : Bool :=
  (excOf s (groupOf c)).holds.any fun h => decide (h.first ≤ m ∧ m ≤ h.last)

/-- A group is BLANKING at a device time. -/
def blankingAt (s : State) (e : Nat) (t : Int) : Bool := decide (t < (excOf s e).blankEnd)

/-! ### Stand-in positions (04 R98, R115, R116) -/

/-- The stand-in that a channel holds. -/
def standinOf (s : State) (c : Nat) : Option StandIn :=
  let w := witOf s (quireOf c)
  match w.posA.filter (·.channel == c) with
  | some v => some v
  | none => w.posB.filter (·.channel == c)

/-- Change the stand-in of a channel. -/
def onStandin (c : Nat) (f : StandIn → Option StandIn) (s : State) : State :=
  let q := quireOf c
  let w := witOf s q
  let g := fun (p : Option StandIn) => match p with
    | none => none
    | some v => if v.channel = c then f v else some v
  setWit q { w with posA := g w.posA, posB := g w.posB } s

/-- Take a free position, A first. -/
def takePos (q : Nat) (v : StandIn) (s : State) : Option State :=
  let w := witOf s q
  if w.posA.isNone then some (setWit q { w with posA := some v } s)
  else if w.posB.isNone then some (setWit q { w with posB := some v } s)
  else none

/-- Any stand-in on a quire, and anywhere in the package. -/
def anyStandin (s : State) (q : Nat) : Bool := (witOf s q).posA.isSome || (witOf s q).posB.isSome

/-- A position held by a calibration. -/
def calStandin (s : State) (q : Nat) : Option StandIn :=
  let w := witOf s q
  match w.posA.filter (·.kind == 1) with
  | some v => some v
  | none => w.posB.filter (·.kind == 1)

/-- The permanent stand-in of a quire. -/
def permStandin (s : State) (q : Nat) : Option StandIn :=
  let w := witOf s q
  match w.posA.filter (·.kind == 2) with
  | some v => some v
  | none => w.posB.filter (·.kind == 2)

/-! ### The end of a calibration run (07 R173; 14 R357) -/

/-- The final reply of a CAL_CHANNEL. -/
def calReply (j : CalJob) : List Byte :=
  le 2 j.items.length ++ le 2 0 ++ (j.items.map fun p =>
    let v := p.2.getD (0, 0, 0, 0)
    le 2 p.1 ++ le 1 v.1 ++ le 1 v.2.1 ++ leS 4 v.2.2.1 ++ leS 4 v.2.2.2).flatten

/-- A channel's outcome enters the commands that named it; those that are done answer. -/
def calOutcome (c : Nat) (res : Nat × Nat × Int × Int) (s : State) : State :=
  let jobs := s.cal.jobs.map fun j => { j with items := j.items.map fun p =>
    if p.1 = c ∧ p.2 = none then (c, some res) else p }
  let done := jobs.filter fun j => j.items.all (·.2.isSome)
  let s := { s with cal.jobs := jobs.filter fun j => !(j.items.all (·.2.isSome)) }
  done.foldl (fun s j => answerOr j.req stOk (calReply j) 0x0714 s) s

/-- The number before which an abandoned channel's main path is not restored (07 R173). -/
def restoreAt (m : Int) : Int := m + 258

/-- A run's own stand-in ends at sinc number `m`: the channel's outputs are held until its main path is restored. A run
under a permanent stand-in has none of its own (17 R433). -/
def endCalStandin (c : Nat) (m : Int) (s : State) : State :=
  match calStandin s (quireOf c) with
  | none => s
  | some v =>
    if v.channel = c then
      let s := cutMarks c .standin m s
      let s := onStandin c (fun p => if p.kind = 1 then none else some p) s
      let s := setWit (quireOf c) { witOf s (quireOf c) with calFreed := s.now } s
      addMark c .heldSU m (some (restoreAt m - 1)) s
    else s

/-- A calibration run or request ends without a result: the stand-in ends at sinc number `m`, and the outputs up to the
restored main path are held (07 R173). -/
def abandonCal (c outcome : Nat) (m : Int) (s : State) : State :=
  let v := chan s c
  match v.run with
  | none => s
  | some r =>
    let s := { s with cal.queue := s.cal.queue.filter (·.1 != c) }
    let s := setChan c { v with run := none, lastOutcome := outcome, lastRange := r.range } s
    let s := if r.state = 2 then endCalStandin c m s else s
    calOutcome c (outcome, r.range, 0, 0) s

/-! ### A calibration run's segments (07 R169, R173) -/

/-- The first of the 3,840 averaged outputs of segment n of a run; repeated ones follow the third. Log entry 67. -/
def segFirst (r : CalRun) (n : Nat) : Int := r.first + ((4096 * n + 257 : Nat) : Int)

/-- The last output that a run's stand-in replaces: number 12,546, or 4,096 later for each repeated segment. -/
def CalRun.last (r : CalRun) : Int := r.first + ((12546 + 4096 * r.repeats.length : Nat) : Int)

/-- The averaging interval of a segment holds an output of a hold. -/
def segHit (r : CalRun) (first last : Int) (n : Nat) : Bool :=
  decide (first ≤ segFirst r n + 3839 ∧ segFirst r n ≤ last)

/-- A configured switching event holds outputs of a channel whose calibration runs: the segments that it hits are repeated
once, behind those that stand; a hit on a repeated one abandons the run. Log entry 67. -/
def calHit (first last : Int) (c : Nat) (s : State) : State :=
  match (chan s c).run with
  | none => s
  | some r =>
    if r.state ≠ 2 then s
    else if (span 3 r.repeats.length).any (segHit r first last) then abandonCal c 5 (sincNext s) s
    else
      let l := (List.range 3).filter fun n => segHit r first last n && !r.repeats.contains n
      if l.isEmpty then s
      else
        let r' : CalRun := { r with repeats := r.repeats ++ l }
        let s := setChan c { chan s c with
          run := some r'
          marks := (chan s c).marks.map fun k => if k.kind = .standin ∧ k.last = some r.last then { k with last := some r'.last } else k } s
        onStandin c (fun p => some (if p.kind = 1 then { p with last := some r'.last } else p)) s

/-- A switching event on the groups that switch together, with the blanking of the first. -/
def switchEvent (l : List Nat) (ts tb : Int) (conf : Bool) (s : State) : State :=
  forAll l (fun e s =>
    let s := holdGroup ts tb conf e s
    if conf then forAll (groupChans e) (calHit (winFirst ts) (winLast tb)) s else s) s

/-- The die temperature of a quire in mK (06 R153). -/
def dieTemp (s : State) (q : Nat) : Int := (ensOf s q).theta

/-- Channels are queued: commands before automatic entries; automatic ones by distance from their calibration
temperature, then by code (07 R172). -/
def calDistance (s : State) (c : Nat) : Nat :=
  let v := chan s c
  (dieTemp s (quireOf c) - ((v.cal.find (gainOf s c)).map (·.theta)).getD 0).natAbs

/-- The channel to be served next on a quire. -/
def nextCal (s : State) (q : Nat) : Option Nat :=
  let l := s.cal.queue.filter fun p => decide (quireOf p.1 = q)
  match l.find? (·.2) with
  | some p => some p.1
  | none => (l.foldl (fun (a : Option Nat) p => match a with
      | none => some p.1
      | some b => if calDistance s b < calDistance s p.1 ∨ (calDistance s b = calDistance s p.1 ∧ p.1 < b) then some p.1
                  else some b) none)

/-- A running calibration gives its position up and goes back to the head of the queue (04 R116, 07 R173). -/
def preemptCal (q : Nat) (m : Int) (s : State) : State :=
  match calStandin s q with
  | none => s
  | some v =>
    let c := v.channel
    match (chan s c).run with
    | none => s
    | some r =>
      let s := endCalStandin c m s
      let s := setChan c { chan s c with run := some { r with state := if isMember s c then 3 else 1, since := s.now },
                                         lastOutcome := 5, lastRange := r.range } s
      { s with cal.queue := (c, true) :: s.cal.queue }

/-- Queue a channel; a second request merges with the first (07 R173), as a calibration if either is one (DESIGN CHOICE, log
entry 129). -/
def queueCal (c : Nat) (selfTest : Bool) (req : Option Req) (s : State) : State :=
  let v := chan s c
  match v.run with
  | some r =>
    let s := setChan c { v with run := some { r with selfTest := r.selfTest && selfTest,
                                                     req := if r.req.isSome then r.req else req } } s
    -- a command's entry keeps its place; an automatic one becomes a command's
    if req.isSome ∧ r.state ≠ 2 ∧ ¬ s.cal.queue.contains (c, true) then
      { s with cal.queue := (s.cal.queue.filter (·.1 != c)) ++ [(c, true)] }
    else s
  | none =>
    let s := setChan c { v with run := some { state := if isMember s c then 3 else 1, since := s.now, selfTest := selfTest,
                                              req := req, range := gainOf s c, first := 0, repeats := [] } } s
    { s with cal.queue := s.cal.queue ++ [(c, req.isSome)] }

/-! ### Injections (04 R104) -/

/-- The result entries of an injection. -/
def convBytes (l : List Conversion) : List Byte :=
  (l.map fun v => le 8 v.instant ++ leS 4 v.value ++ le 1 v.gain ++ le 1 v.status ++ le 2 0).flatten

/-- An injection ends: its final reply, or a WITNESS folio on RING2 when its session has closed. -/
def endInjection (q id reason : Nat) (s : State) : State :=
  let w := witOf s q
  match w.injections.find? (·.id == id) with
  | none => s
  | some j =>
    let l := j.done
    let s := setWit q { w with injections := w.injections.filter (·.id != id) } s
    let body := le 2 id ++ le 2 l.length ++ le 1 reason ++ le 1 0 ++ le 2 0 ++ convBytes l
    -- an AT_TIME injection that ran late took place at its first hold (13 R325)
    let r := match l with
      | v :: _ => if j.start = 1 then { j.req with ranAt := stampOf s ((v.instant * witTickU : Nat) : Int) } else j.req
      | [] => { j.req with ranLate := false }
    if sessionOpen s r then answer r (if reason ≤ 2 then stOk else stFaulted) body s
    else
      -- at most 253 entries a folio
      let fin := fun (x : List Conversion) => le 1 0 ++ le 1 0 ++ le 2 x.length ++ le 4 0 ++ body.take 8 ++ convBytes x
      let s := put2 0x13 (min l.length 253) (fin (l.take 253)) s
      if l.length ≤ 253 then s else put2 0x13 (l.length - 253) (fin (l.drop 253)) s

/-- Every injection of a quire ends. -/
def endInjections (q reason : Nat) (s : State) : State :=
  (witOf s q).injections.foldl (fun s j => endInjection q j.id reason s) s

/-! ### The end of every stand-in of a quire (04 R118) -/

/-- Event 0x0310 (03 R473). -/
def standinEvent (c reason oldG newG : Nat) : Ev :=
  evB 0x0310 c (le 2 c ++ le 1 reason ++ le 1 oldG ++ le 1 newG ++ zeros 3)

/-- One stand-in ends at sinc number `m`: `reason` 4 WITNESS_FAULT, 5 the quire leaves service. -/
def breakStandin (m : Int) (reason : Nat) (v : StandIn) (s : State) : State :=
  let c := v.channel
  match v.kind with
  | 0 =>
    let s := cutMarks c .range m (onStandin c (fun _ => none) s)
    let s := match v.last with
      | some l => if m ≤ l then addMark c .heldU m (some l) s else s
      | none => s
    raise { standinEvent c reason (chan s c).oldGain (gainOf s c) with time := stampOf s (sincTime m) } s
  | 1 => onStandin c (fun _ => none) (abandonCal c (if reason = 4 then 6 else 7) m s)
  | _ =>
    -- a run under it is abandoned with it (07 R173, 17 R433)
    let s := if (chan s c).run.any (fun r => decide (r.state = 2)) then abandonCal c (if reason = 4 then 6 else 7) m s else s
    if v.suspended then s
    else
      let s := onStandin c (fun p => some { p with suspended := true }) s
      addMark c .heldSU m none (endMarks c .standin (m - 1) s)

/-- Every stand-in of a quire ends at sinc number `m`. -/
def breakStandins (q : Nat) (m : Int) (reason : Nat) (s : State) : State :=
  let w := witOf s q
  let s := match w.posA with | some v => breakStandin m reason v s | none => s
  match w.posB with | some v => breakStandin m reason v s | none => s

/-- A permanent stand-in resumes at sinc number `m` (04 R118, 17 R434). -/
def resumePerm (q : Nat) (m : Int) (s : State) : State :=
  match permStandin s q with
  | none => s
  | some v =>
    if v.suspended then
      let c := v.channel
      let s := onStandin c (fun p => some { p with suspended := false, first := m }) s
      addMark c .standin m none (endMarks c .heldSU (m - 1) s)
    else s

end Sys2Proof.Machine
end

