-- ==== Sys2Proof/Machine/Excitation.lean ====
section
/-! DEFINITION. Excitation groups: their status, switching events and test pulses (03 R67 to R83, R471, R472;
15 R384 to R387). -/

namespace Sys2Proof.Machine

/-- STATE of EXC_STATUS: 0 OFF, 1 ON, 2 BLANKING, 3 PULSE, 4 TRIPPED, 5 SENSE_LOW (03 R75). The partner of a pulsed group
reads BLANKING (log entry 44). -/
def excState (s : State) (e : Nat) : Nat :=
  let v := excOf s e
  if (v.pulse.map (·.phase)) = some 0 then 3
  else if v.tripped then 4
  else if excMode s e = 0 then 0
  else if v.senseLow then 5
  else if blankingAt s e (devNow s) then 2
  else 1

/-- A test pulse has opened the group's switches, its own or its partner's. -/
def pulseOpened (s : State) (e : Nat) : Bool := (switched s e).any fun g => ((excOf s g).pulse.map (·.phase)) == some 0

/-- PHASE as it stands: the opposite pair closes a microsecond after the edge (03 R68). -/
def phaseRead (s : State) (e : Nat) : Nat :=
  let v := excOf s e
  if excMode s e ≠ 2 then 0 else if devNow s < v.phaseFrom then 1 - v.phase else v.phase

/-- The group is the low side of a reversing pair whose switches are closed: phase A drives the even group (03 R67, R75). -/
def lowSide (s : State) (e : Nat) : Bool :=
  decide (excMode s e = 2) && !(excOf s e).tripped && !pulseOpened s e && decide ((excOf s e).phaseFrom ≤ devNow s)
    && decide (phaseRead s e = (e + 1) % 2)

/-- Switches close at a device time: the limit check is suspended for 10 us (03 R74). -/
def closeSwitches (l : List Nat) (t : Int) (s : State) : State :=
  forAll l (fun g s => setExc g { excOf s g with closedAt := (s.now + (t - devNow s)).toNat } s) s

/-- The earliest trip after a closure: 10 us without the check, then 20 us above the limit (03 R74). -/
def limitChecked (s : State) (e : Nat) : Bool := decide ((excOf s e).closedAt + 30 * usU ≤ s.now)

/-! ### The schedule of test pulses (15 R385) -/

/-- The safety groups of the members on a group. -/
def groupSafety (s : State) (e : Nat) : List Nat := (groupSlots s e).map fun m => pairGroup s (m / 2)

/-- Period in seconds and width in microseconds: the shorter period and the wider width; none for a group that serves no
member. -/
def pulsePlan (s : State) (e : Nat) : Option (Nat × Nat) :=
  match groupSafety s e with
  | [] => none
  | g :: r =>
    let per := fun g => cf s 0x0B02 g 0x04 31 16
    let wid := fun g => cf s 0x0B02 g 0x04 15 0
    some (r.foldl (fun a g => min a (per g)) (per g), r.foldl (fun a g => max a (wid g)) (wid g))

/-- The pulsed groups that share a period, ascending. -/
def pulsedWith (s : State) (p : Nat) : List Nat :=
  (List.range (groupCount s)).filter fun e => decide ((pulsePlan s e).map (·.1) = some p)

/-- Due time of a group's pulse in period k after the handover, as an instant. -/
def pulseDue (s : State) (h e k : Nat) : Nat :=
  match pulsePlan s e with
  | none => 0
  | some (p, _) =>
    let l := pulsedWith s p
    h + k * p * secU + l.findIdx (· == e) * p * secU / max 1 l.length

/-- A pulse of a group is pending, running or blanking. -/
def pulsePending (s : State) (e : Nat) : Bool := (excOf s e).schedDue || (excOf s e).nowReq.isSome
def pulseBusy (s : State) (e : Nat) : Bool := (excOf s e).pulse.isSome

/-- A member's group is the remaining member's group of a DEGRADED pair (15 R384). -/
def suspended (s : State) (e : Nat) : Bool :=
  (groupSlots s e).any fun m => (safePair s (m / 2)).degradedAt.isSome && available s m

/-- A pending commit changes a member's value or switches its group: it takes the member from availability for a while
(15 R385, R393). -/
def commitAwaits (s : State) (m : Nat) : Bool :=
  let c := slotChan s m
  s.cz.commits.any fun p => p.items.any fun x =>
    let changed := fun (off mask : Nat) => x.words.any fun w => w.1 == off && decide (w.2 &&& mask ≠ word s x.block x.inst off &&& mask)
    (x.block == 0x0101 && decide (x.inst = c) && changed 0 0x137)
      || (x.block == 0x0101 && decide (groupOf x.inst = groupOf c) && changed 0 0xFFF000)
      || (x.block == 0x0102 && decide (x.inst = groupOf c) && (changed 0 7 || changed 4 0x1FFFF))
      || (x.block == 0x0401 && decide (x.inst = c) && x.words.any fun w => w.2 != word s 0x0401 c w.1)

/-- A due pulse waits (15 R385). Of two pending partners the one of the lower group goes first (log entry 25). -/
def pulseDeferred (s : State) (e : Nat) : Bool :=
  ((switched s e).any fun g => blankingAt s g (devNow s)) ||
  (groupSlots s e).any fun m =>
    let o := groupOf (slotChan s (other m))
    (match (chan s (slotChan s m)).run with | some r => decide (r.state = 2) | none => false)
      || !available s (other m)
      || commitAwaits s (other m) || pulseBusy s o || (pulsePending s o && decide (o < e))

/-! ### Rows -/

/-- Members on the channels of a group that INPUT_STUCK names. -/
def stuckMembers (e stuck : Nat) (s : State) : State :=
  forAll ((groupSlots s e).filter fun m => bit (slotChan s m % 4) stuck) (fun m s =>
    setMember m { member s m with failed := true } s) s

/-- Apply a pulse's result to the members that the group serves (15 R386). -/
def pulseMembers (e result stuck : Nat) (s : State) : State :=
  if result = 1 then
    forAll (groupSlots s e) (fun m s => setMember m { member s m with failed := false, overdue := false } s)
      (setExc e { excOf s e with lastPass := (s.now : Int), pulseFailed := false } s)
  else
    let s := setExc e { excOf s e with pulseFailed := true } s
    if result = 4 then stuckMembers e stuck s
    else forAll (groupSlots s e) (fun m s => setMember m { member s m with failed := true } s) s

/-- The body of PULSE_FAILED (03 R472). -/
def pulseBody (e : Nat) (p : Pulse) : List Byte :=
  let z := fun n => if p.rtd then 0 else n
  le 2 e ++ le 1 p.result ++ le 1 (if p.result = 4 then p.stuck else 0) ++ le 1 (if p.result = 4 then p.stuckPair else 0)
    ++ le 1 0 ++ le 2 (satU 16 (z p.iPulse)) ++ le 2 (z p.preSense) ++ le 2 (z p.senseMid) ++ le 2 (z p.sensePost) ++ le 2 0

/-- Publish a completed pulse: step 7 of 03 R82. NOT_RUN counts no pulse. -/
def publishPulse (e : Nat) (s : State) : State :=
  match (excOf s e).pulse with
  | none => s
  | some p =>
    if p.phase ≠ 2 then s
    else
      let v := excOf s e
      let n := if p.result = 6 then v.pulseCount else (v.pulseCount + 1) % 2 ^ 32
      let s := setExc e { v with pulse := none, pulseResult := p.result, pulseCount := n } s
      let s := if 2 ≤ p.result then raise (evB 0x0303 e (pulseBody e p)) s else s
      let s := pulseMembers e p.result p.stuck s
      let s := if excMode s e = 2 ∧ p.result = 4 then stuckMembers (partner e) p.stuckPair s else s
      match p.now_ with
      | none => s
      | some r => answer r stOk (le 2 e ++ le 1 p.result ++ le 1 0) s

/-- EXC_STATUS_UPDATE: readings of groups, each SENSE in 0.1 mV and high-side current in 2 microampere (03 R75). -/
def excUpdate (l : List (Nat × Nat × Nat)) (s : State) : State :=
  let s := l.foldl (fun s (p : Nat × Nat × Nat) =>
    if p.1 < groupCount s then
      setExc p.1 { excOf s p.1 with sense := min p.2.1 55000,
                                    iMeas := if lowSide s p.1 then 0 else satU 16 p.2.2 } s
    else s) s
  forAll (List.range (groupCount s)) publishPulse s

def execExcStatusUpdate (at_ : Nat) (l : List (Nat × Nat × Nat)) (s : State) : Host.Outcome State Fault Refusal :=
  .next (excUpdate l (s.tick at_))

/-- The phase at a device time (03 R68). -/
def phaseNow (s : State) (e : Nat) : Nat := b2n (phaseB s e (sincNow s))

/-- The blanking of a group in units. -/
def blankU (s : State) (e : Nat) : Int := (blankPost s e * sincU : Nat)

/-- REVERSAL_EDGE of a pair: no switching of its own within a pulse or its blanking, and none while TRIPPED
(03 R68, R82, R74). An edge in the blanking that follows a pulse's closing changes PHASE under the pulse's hold (log
entry 45). -/
def reversalEdge (e : Nat) (s : State) : State :=
  let a := 2 * (e / 2)
  if groupCount s ≤ a + 1 ∨ excMode s a ≠ 2 ∨ (excOf s a).tripped then s
  else if pulseOpened s a then s
  else
    let p := phaseNow s a
    if (excOf s a).phase = p then s
    else
      let ts := sincTime (sincNow s / (revHalf s a : Int) * (revHalf s a : Int))
      let on := ts + (usU : Int)
      let s := forAll [a, a + 1] (fun g s => setExc g { excOf s g with phase := p, phaseFrom := on } s) s
      let s := closeSwitches [a, a + 1] on s
      if ((excOf s a).pulse.isSome ∨ (excOf s (a + 1)).pulse.isSome) ∧ blankingAt s a (devNow s) then s
      else switchEvent [a, a + 1] ts (ts + blankU s a) false s

def execReversalEdge (at_ e : Nat) (s : State) : Host.Outcome State Fault Refusal := .next (reversalEdge e (s.tick at_))

/-- The check of a pulse in the order of 03 R83. -/
def pulseResult (p : Pulse) : Nat :=
  if p.rtd then (if p.stuck ≠ 0 ∨ p.stuckPair ≠ 0 then 4 else 1)
  else if 250 ≤ p.iPulse then 2
  else if p.preSense < 10 * p.senseMid then 3
  else if p.stuck ≠ 0 ∨ p.stuckPair ≠ 0 then 4
  else if 2 * p.preSense < 100 * (p.sensePost - p.preSense) + 100 * (p.preSense - p.sensePost) then 5
  else 1

/-- BLANKING_END: a pulse's sense is compared at the end of its blanking; `sense` is that measurement
(03 R78, R82 step 6). -/
def blankingEnd (e sense : Nat) (s : State) : State :=
  let v := excOf s e
  if devNow s < v.blankEnd then s
  else
    match v.pulse with
    | none => s
    | some p =>
      if p.phase ≠ 1 then s
      else
        let p := { p with sensePost := min sense 65535 }
        setExc e { v with pulse := some { p with phase := 2, result := pulseResult p } } s

def execBlankingEnd (at_ e sense : Nat) (s : State) : Host.Outcome State Fault Refusal :=
  .next (blankingEnd e sense (s.tick at_))

/-- EXC_TRIPPED: the high-side current, in 2 microampere, has exceeded I_LIMIT for 20 us (03 R74, R471). -/
def excTrip (e i : Nat) (s : State) : State :=
  if groupCount s ≤ e ∨ ¬ (excMode s e = 1 ∨ excMode s e = 2) ∨ (excOf s e).tripped
      ∨ pulseOpened s e ∨ ¬ limitChecked s e ∨ i ≤ 500 * iLimit s e then s
  else
    let l := switched s e
    let m := winFirst (devNow s)
    let s := forAll l (fun g s => setExc g { excOf s g with tripped := true } s) s
    let s := forAll (l.flatMap groupChans) (fun c s => addMark c .tripped m none s) s
    raise { evB 0x0301 e (le 2 e ++ le 1 (b2n (l.length == 2)) ++ le 1 0 ++ le 4 i) with lasting := true, time := stampNow s } s

/-- Log entry 123. -/
def execExcTripped (at_ e i : Nat) (s : State) : Host.Outcome State Fault Refusal := .next (excTrip e i (s.tick at_))

/-- SENSE_LOW: the sense has stayed below 0.5 V for 1 ms while the group is ON, BLANKING included (03 R71; log entry 46). -/
def senseLow (e : Nat) (s : State) : State :=
  if groupCount s ≤ e ∨ ¬ (excMode s e = 1 ∨ excMode s e = 2) ∨ (excState s e ≠ 1 ∧ excState s e ≠ 2) then s
  else
    let m := winFirst (devNow s)
    forAll (switched s e) (fun g s =>
      let s := setExc g { excOf s g with senseLow := true } s
      let s := forAll ((groupChans g).filter (ratiometric s)) (fun c s => addMark c .senseLow m none s) s
      raise (evL 0x0302 g) s) s

def execSenseLow (at_ e : Nat) (s : State) : Host.Outcome State Fault Refusal := .next (senseLow e (s.tick at_))

/-- The end of SENSE_LOW on a group at a sinc number, without a switching event. -/
def clearSenseLow (m : Int) (g : Nat) (s : State) : State :=
  if (excOf s g).senseLow then
    let s := setExc g { excOf s g with senseLow := false } s
    clearCause 0x0302 g (forAll (groupChans g) (fun c s => endMarks c .senseLow m s) s)
  else s

/-- SENSE_LOW_EXIT: 1 ms after the sense returned above 0.55 V, as a configured switching event (03 R71, R76). -/
def senseLowExit (e : Nat) (s : State) : State :=
  if (excOf s e).senseLow then
    let l := switched s e
    let t := devNow s
    switchEvent l t (t + blankU s e) true (forAll l (clearSenseLow (winLast t)) s)
  else s

def execSenseLowExit (at_ e : Nat) (s : State) : Host.Outcome State Fault Refusal := .next (senseLowExit e (s.tick at_))

/-- A pulse that does not run: NOT_RUN, published at the next update (03 R83); its current and sense fields read 0 (DESIGN
CHOICE, log entry 127). -/
def notRun (e : Nat) (now_ : Option Req) (s : State) : State :=
  setExc e { excOf s e with
    pulse := some { (default : Pulse) with phase := 2, result := 6, now_ := now_, rtd := excMode s e = 3 },
    schedDue := now_.isSome && (excOf s e).schedDue, nowReq := if now_.isSome then none else (excOf s e).nowReq } s

/-- TEST_PULSE_DUE of the schedule: pending, suspended, or NOT_RUN (15 R385, 03 R83). -/
def pulseDueRow (e : Nat) (s : State) : State :=
  match s.safe.handover, pulsePlan s e with
  | some h, some (p, _) =>
    let v := excOf s e
    let k := (v.nextPulse.getD 0).toNat
    if s.now < pulseDue s h e k then s
    else
      let s := setExc e { v with nextPulse := some (((s.now - h) / (p * secU) + 1 : Nat) : Int) } s
      if suspended s e then s
      else if (excState s e = 0 ∨ excState s e = 4 ∨ excState s e = 5) ∧ ¬ pulseBusy s e then notRun e none s
      else setExc e { excOf s e with schedDue := true } s
  | _, _ => s

def execTestPulseDue (at_ e : Nat) (s : State) : Host.Outcome State Fault Refusal := .next (pulseDueRow e (s.tick at_))

/-- The width of a pulse in units. -/
def pulseWidth (s : State) (e : Nat) : Nat := (((pulsePlan s e).map (·.2)).getD 0) * usU

/-- TEST_PULSE_OPEN at a sinc instant: `sense` and the raw sinc words of the channels before it (03 R82, 15 R385). A
SAFE_PULSE_NOW that has come due goes first and leaves a due pulse of the schedule pending (15 R387). -/
def pulseOpen (e sense : Nat) (raw : List Int) (s : State) : State :=
  let v := excOf s e
  let asked := decide (v.nowReq.isSome ∧ v.nowAt ≤ sincNow s)
  if ¬ (v.schedDue || asked) ∨ pulseDeferred s e ∨ v.pulse.isSome then s
  else
    let req := if asked then v.nowReq else none
    -- judged again after a deferral (log entry 47)
    if excState s e = 0 ∨ excState s e = 4 ∨ excState s e = 5 then notRun e req s
    else
      let ts := sincTime (sincNow s)
      let w := pulseWidth s e
      let s := setExc e { v with
        pulse := some { (default : Pulse) with opened := ts, width := w, phase := 0, preSense := min sense 65535, preRaw := raw,
                                               rtd := excMode s e = 3, now_ := req },
        schedDue := asked && v.schedDue, nowReq := if asked then none else v.nowReq } s
      let tb := ts + w + blankU s e
      let s := forAll (switched s e) (fun g s => setExc g { excOf s g with pulseHold := some (winFirst ts, winLast tb) } s) s
      switchEvent (switched s e) ts tb false s

def execTestPulseOpen (at_ e sense : Nat) (raw : List Int) (s : State) : Host.Outcome State Fault Refusal :=
  .next (pulseOpen e sense raw (s.tick at_))

/-- A channel kept its input: pre-pulse raw above 10 per cent of nominal, and more than half of it in step 4; magnitudes are
compared (log entry 48). -/
def stuckAt (pre mid : Int) : Bool := decide (0x08000000 < 10 * pre.natAbs) && decide (pre.natAbs < 2 * mid.natAbs)

/-- Bits of the stuck channels among four pairs of raw words. -/
def stuckMask (l : List (Int × Int)) : Nat :=
  (l.take 4).zipIdx.foldl (fun m p => m + if stuckAt p.1.1 p.1.2 then 2 ^ p.2 else 0) 0

/-- TEST_PULSE_CLOSE at width W: the current 50 us after the opening, the sense and the raw words of step 4, group e's
channels first (03 R82, R83). -/
def pulseClose (e i sense : Nat) (raw : List Int) (s : State) : State :=
  let v := excOf s e
  match v.pulse with
  | none => s
  | some p =>
    if p.phase ≠ 0 ∨ devNow s < p.opened + p.width then s
    else
      let l := p.preRaw.zip raw
      let s := setExc e { v with pulse := some { p with phase := 1, iPulse := i, senseMid := min sense 65535,
                                                        stuck := stuckMask l,
                                                        stuckPair := if excMode s e = 2 then stuckMask (l.drop 4) else 0 } } s
      let t := p.opened + (p.width : Int)
      let s := closeSwitches (switched s e) t s
      let s := forAll (switched s e) (fun g s => setExc g { excOf s g with events := t :: (excOf s g).events } s) s
      if excMode s e = 2 then
        let n := phaseNow s e
        forAll (switched s e) (fun g s => setExc g { excOf s g with phase := n, phaseFrom := t } s) s
      else s

def execTestPulseClose (at_ e i sense : Nat) (raw : List Int) (s : State) : Host.Outcome State Fault Refusal :=
  .next (pulseClose e i sense raw (s.tick at_))

/-! ### A configured switching event at the edge (03 R71, R74, R76) -/

/-- Groups that switch: EXC_MODE changed, RTD_I or RTD_WIRING of a channel changed, or TRIPPED rewritten. -/
def switches (o s : State) (written : List Nat) (e : Nat) : Bool :=
  fieldChanged o s 0x0102 e 0x00 2 0 || (groupChans e).any (wireChanged o s) || (written.contains e && (excOf s e).tripped)

/-- A group at its configured event. -/
def excChange (m : Int) (e : Nat) (s : State) : State :=
  let t := sincTime m
  let s := if (excOf s e).tripped then
      clearCause 0x0301 e (forAll (groupChans e) (fun c s => endMarks c .tripped (m - 1) s)
        (setExc e { excOf s e with tripped := false } s))
    else s
  let s := if excMode s e = 1 ∨ excMode s e = 2 then s else clearSenseLow (winLast t) e s
  let s := closeSwitches [e] t (setExc e { excOf s e with phase := b2n (phaseB s e m), phaseFrom := t } s)
  switchEvent [e] t (t + blankU s e) true s

/-- Every group that a commit switches, with the partner in a reversing pair. -/
def excChanges (o : State) (m : Int) (written : List Nat) (s : State) : State :=
  let pair := fun e => if excMode o e = 2 ∨ excMode s e = 2 then [e, partner e] else [e]
  let all := (written.flatMap pair).eraseDups
  let l := ((List.range (groupCount s)).filter (switches o s all)).flatMap pair
  forAll l.eraseDups (excChange m) s

end Sys2Proof.Machine
end

