-- ==== Sys2Proof/Machine/Tones.lean ====
section
/-! DEFINITION. Tone scans and their results (03 R84 to R88). -/

namespace Sys2Proof.Machine

/-- The next round: up to eight channels, lowest first, each from a different excitation group (03 R85). -/
def toneRound : List Nat → List Nat → List Nat
  | [], acc => acc
  | c :: r, acc =>
    if acc.length < 8 ∧ (acc.map groupOf).contains (groupOf c) = false then toneRound r (acc ++ [c]) else toneRound r acc

/-- Channels of a quire with TONE_SCAN_EN. -/
def toneChans (s : State) (q : Nat) : List Nat := (span (128 * q) 128).filter fun c => cfBit s 0x0101 c 0x04 0

/-- The first sinc output of a round that starts now: the tone settles for 1 ms. -/
def toneFirst (s : State) : Int := sincCeil (devNow s + (msU : Int))

/-- A scan starts unless one runs; `sched` marks one of SCAN_PERIOD (03 R85). -/
def startScan (q : Nat) (sched : Bool) (s : State) : State :=
  let t := toneOf s q
  if t.scan.isSome ∨ ¬ inService s q then s
  else
    let l := toneChans s q
    let t := if sched then { t with lastStart := some s.now } else t
    if l.isEmpty then setTone q t s
    else
      setTone q { t with captureNext := false,
                         scan := some { remaining := l, round := toneRound l [], roundStart := s.now, first := toneFirst s,
                                        capture := t.captureNext } } s

/-- TONE_SCAN_START: the scan of SCAN_PERIOD (03 R85). The first is due as soon as SCAN_PERIOD is nonzero and the quire is in
service (log entry 50). -/
def scanDue (q : Nat) (s : State) : State :=
  let p := cf s 0x0104 q 0x00 31 16
  let due : Bool := match (toneOf s q).lastStart with
    | none => true
    | some t => decide (t + p * secU ≤ s.now)
  if q < s.part.quires ∧ p ≠ 0 ∧ due then startScan q true s else s

def execToneScanStart (at_ q : Nat) (s : State) : Host.Outcome State Fault Refusal := .next (scanDue q (s.tick at_))

/-! ### The lock-in (03 R86) -/

/-- cos(2 pi k / 64) in units of 2^-52, for k = 0 to 16 (log entry 42). -/
def cosQuarter : List Nat :=
  [4503599627370496, 4481913564205715, 4417064223354456, 4309676139419373, 4160783518353059, 3971820277489368,
   3744606236135634, 3481329589717920, 3184525836262886, 2857053358165739, 2502065894405220, 2122982168313231,
   1723452963400281, 1307325964314561, 878608701535425, 441429956664131, 0]

/-- cos(2 pi k / 64) in units of 2^-52. -/
def cos64 (k : Nat) : Int :=
  let k := k % 64
  let at_ := fun (i : Nat) => ((cosQuarter.getD i 0 : Nat) : Int)
  if k ≤ 16 then at_ k else if k ≤ 32 then -at_ (32 - k) else if k ≤ 48 then -at_ (k - 32) else at_ (64 - k)

/-- cos_table and sin_table of R86. -/
def cosTable (j : Nat) : Int := cos64 (25 * j)
def sinTable (j : Nat) : Int := cos64 (25 * j + 48)

/-- A raw sinc output of a channel, in 5 V / 2^35. -/
def rawAt_ (v : Chan) (m : Int) : Int := v.raw.getD (v.histNew - m).toNat 0

/-- One block of 64 raw sinc outputs from number m on: acc_i and acc_q. -/
def toneBlock (v : Chan) (m : Int) : Int × Int :=
  (List.range 64).foldl (fun a (j : Nat) =>
    let x := rawAt_ v (m + (j : Int))
    (a.1 + x * cosTable j, a.2 + x * sinTable j)) (0, 0)

/-- A switching event of the channel's group falls within the block from number m on. -/
def blockHit (s : State) (c : Nat) (m : Int) : Bool :=
  (excOf s (groupOf c)).events.any fun t => decide (sincTime m ≤ t ∧ t < sincTime (m + 64))

/-- The sign of a ratiometric channel's reference about a sinc number: in REVERSAL it alternates (03 R70). -/
def refSign (s : State) (c : Nat) (m : Int) : Int :=
  if ratiometric s c ∧ excMode s (groupOf c) = 2 ∧ phaseB s (groupOf c) m then -1 else 1

/-- tone_lockin of R86 from number m on: the sums, none for no_result, and the number after the last block looked at. -/
def toneSum (s : State) (c integ : Nat) : Nat → Int → Nat → Nat → Int × Int → Option (Int × Int) × Int
  | 0, m, _, _, acc => (some acc, m)
  | fuel + 1, m, blocks, extra, acc =>
    if integ ≤ blocks then (some acc, m)
    else if blockHit s c m then
      if extra = integ then (none, m) else toneSum s c integ fuel (m + 64) blocks (extra + 1) acc
    else
      let b := toneBlock (chan s c) m
      let k := refSign s c m
      toneSum s c integ fuel (m + 64) (blocks + 1) extra (acc.1 + k * b.1, acc.2 + k * b.2)

/-- The quotient of two complex numbers. -/
def divC (a b : Rat × Rat) : Rat × Rat :=
  let n := b.1 * b.1 + b.2 * b.2
  ((a.1 * b.1 + a.2 * b.2) / n, (a.2 * b.1 - a.1 * b.2) / n)

/-- The volts of a channel's reference: 5 V, or the group's latest sense (03 R61, R70). -/
def refVolts (s : State) (c : Nat) : Rat := if ratiometric s c then rabs ((senseOf s (groupOf c) : Rat) / 10000) else 5

/-- The impedance in milliohm from the sums of `integ` blocks: volts, sinc4 response, injector current. -/
def toneZ (s : State) (c integ : Nat) (acc : Int × Int) : Int × Int :=
  let volts := fun (x : Int) =>
    2 * (x : Rat) / ((2 ^ 52 : Nat) : Rat) * refVolts s c / ((2 ^ 35 : Nat) : Rat) / ((64 * integ : Nat) : Rat)
  let v := divC (volts acc.1, volts acc.2) Config.sincResponse100k
  let z := divC v (Config.toneCurrent c (cf s 0x0101 c 0x04 15 8))
  (roundAway (z.1 * 1000), roundAway (z.2 * 1000))

/-- What a channel's integration gives from number m on. -/
def toneSums (s : State) (c integ : Nat) (m : Int) : Option (Int × Int) × Int := toneSum s c integ (2 * integ + 1) m 0 0 (0, 0)

/-- The result of a channel of a round whose first output is number m; `limited` says that the injector reached compliance.
None: no result, or its outputs have not all come. -/
def toneReading (s : State) (c integ : Nat) (m : Int) (limited : Bool) : Option ToneReading :=
  if limited then
    let z := Config.toneOpen c s.now
    some { channel := c, re := z.1, im := z.2, limited := true }
  else (toneSums s c integ m).1.map fun acc =>
    let z := toneZ s c integ acc
    { channel := c, re := z.1, im := z.2, limited := false }

/-- Every output that the channel's integration takes has come. -/
def toneReady (s : State) (c integ : Nat) (m : Int) : Bool := decide ((toneSums s c integ m).2 ≤ (chan s c).histNew + 1)

/-! ### Results (03 R87, R88) -/

/-- The class of a result in the order of 03 R87. Log entry 100. -/
def toneClass (s : State) (q : Nat) (r : ToneReading) (base : Int) (capture : Bool) : Nat :=
  let short : Int := ((cf s 0x0104 q 0x04 31 16 : Nat) : Int) * 100
  let tol : Int := max (((cf s 0x0104 q 0x04 15 0 : Nat) : Int) * 100000) (((cf s 0x0104 q 0x08 7 0 : Nat) : Int) * base)
  if r.limited then 2
  else if r.re * r.re + r.im * r.im < short * short then 3
  else if capture then 1
  else if base = 0 then 6
  else if tol < 1000 * (r.re - base) then 4
  else if tol < 1000 * (base - r.re) then 5
  else 1

/-- Write a channel's result; a change of class issues TONE_CLASS (03 R87, R88). -/
def toneWrite (q : Nat) (capture : Bool) (r : ToneReading) (s : State) : State :=
  let v := chan s r.channel
  let cls := toneClass s q r v.tone.base capture
  let base := if capture ∧ cls ≠ 2 ∧ cls ≠ 3 then r.re else v.tone.base
  let s := setChan r.channel { v with tone := { re := r.re, im := r.im, base := base, cls := cls, seconds := secondsNow s } } s
  if cls = v.tone.cls then s
  else raise (evB 0x0304 r.channel (le 2 r.channel ++ le 1 v.tone.cls ++ le 1 cls ++ leS 4 r.re)) s

/-- CAPTURE_BASE and SCAN_NOW are written (03 R85). -/
def toneWritten (q wo : Nat) (s : State) : State :=
  let s := if bit 1 wo then setTone q { toneOf s q with captureNext := true } s else s
  if bit 0 wo then startScan q false s else s

/-- TONE_ROUND_END: every channel of the round has its blocks; `limited` are those whose injector reached compliance. A
channel without a result keeps its class (03 R86, R87). INTEG and TONE_AMP are those in force at the end (DESIGN CHOICE, log
entry 127). -/
def toneRoundEnd (q : Nat) (limited : List Nat) (s : State) : State :=
  match (toneOf s q).scan with
  | none => s
  | some k =>
    let integ := cf s 0x0104 q 0x00 11 0
    if s.now < k.roundStart + msU + integ * 250 * usU
        ∨ ¬ k.round.all (fun c => limited.contains c || toneReady s c integ k.first) then s
    else
      let l := k.round.filterMap fun c => toneReading s c integ k.first (limited.contains c)
      let s := l.foldl (fun s r => toneWrite q k.capture r s) s
      let left := k.remaining.filter fun c => !k.round.contains c
      let next : ToneScan := { k with remaining := left, round := toneRound left [], roundStart := s.now, first := toneFirst s }
      setTone q { toneOf s q with scan := if left.isEmpty then none else some next } s

def execToneRoundEnd (at_ q : Nat) (limited : List Nat) (s : State) : Host.Outcome State Fault Refusal :=
  .next (toneRoundEnd q limited (s.tick at_))

end Sys2Proof.Machine
end

