-- ==== Sys2Proof/Machine/Filter.lean ====
section
/-! DEFINITION. The filter engine: cascades, ROM responses, moving averages, fades, spans and the safety decimator
(05). Values are in 5 V / 2^35. -/

namespace Sys2Proof.Machine

/-- Division rounded half away from zero (05 R127). -/
def divAway (a : Int) (b : Nat) : Int :=
  if 0 ≤ a then (2 * a + b) / (2 * b : Int) else -((2 * (-a) + b) / (2 * b : Int))

/-! ### The ROM (05 R125, R474) -/

/-- Taps, d and linear phase of the sixteen responses. -/
def firShape (r : Nat) : Nat × Nat × Bool :=
  match r with
  | 0 => (127, 63, true) | 1 => (127, 63, true) | 2 => (63, 31, true) | 3 => (31, 15, true)
  | 4 => (127, 14, false) | 5 => (127, 13, false) | 6 => (63, 7, false) | 7 => (31, 3, false)
  | 8 => (63, 31, true) | 9 => (23, 11, true) | 10 => (95, 47, true) | 11 => (127, 63, true)
  | 12 => (63, 6, false) | 13 => (95, 47, true) | 14 => (95, 10, false) | _ => (95, 47, true)

def firL (r : Nat) : Nat := (firShape r).1
def firD (r : Nat) : Nat := (firShape r).2.1

/-- The sum of coefficients of a list of taps. -/
def sumInt (l : List Int) : Int := l.foldl (· + ·) 0

/-- Coefficient of tap j of response r: free but for the sum of 2^30 and the symmetry of a linear phase (05 R126;
log entry 7). -/
def firTap (r j : Nat) : Int :=
  let (l, d, lin) := firShape r
  if l ≤ j then 0
  else if lin then
    if j = d then 2 ^ 30 - 2 * sumInt ((List.range d).map (Config.firCoef r))
    else Config.firCoef r (min j (l - 1 - j))
  else if j = 0 then 2 ^ 30 - sumInt ((span 1 (l - 1)).map (Config.firCoef r))
  else Config.firCoef r j

/-- Coefficient of tap j of the half-band stage: centre one half, even offsets zero, pairs at odd offsets (05 R124). -/
def halfTap (j : Nat) : Int :=
  if j = 15 then 2 ^ 29
  else if 31 ≤ j ∨ j % 2 = 1 then 0
  else
    let i := min j (30 - j)
    if i = 14 then 2 ^ 28 - sumInt ((List.range 7).map fun k => Config.halfBandCoef (2 * k)) else Config.halfBandCoef i

/-- Coefficient of tap j of the safety decimator (05 R143). -/
def safetyTap (j : Nat) : Int :=
  if 127 ≤ j then 0
  else if j = 0 then 2 ^ 30 - sumInt ((span 1 126).map Config.safetyCoef)
  else Config.safetyCoef j

/-- The words of FILT_ROM (05 R474). -/
def romTap (r j : Nat) : Int := if r = 16 then halfTap j else if r = 17 then safetyTap j else firTap r j
def romL (r : Nat) : Nat := if r = 16 then 31 else if r = 17 then 127 else firL r
def romD (r : Nat) : Nat := if r = 16 then 15 else if r = 17 then 12 else firD r
def romWord (r off : Nat) : Nat :=
  let coef := fun j => if j < romL r then ofSigned 32 (romTap r j) else 0
  if off = 0 then romL r * 65536 + romD r
  else if off = 4 then crc32c ((List.range (romL r)).flatMap fun j => le 4 (coef j))
  else coef ((off - 8) / 4)

/-! ### Histories (05 R124, R136) -/

/-- The value of sinc number m: what entered the filter; before the first the first. -/
def sincAt (v : Chan) (m : Int) : Int :=
  let m := max m v.histFirst
  v.hist.getD (v.histNew - m).toNat 0

/-- The output of half-band stage j: index m stands for sinc number m * 2^j. -/
def cascade (x : Int → Int) : Nat → Int → Int
  | 0, m => x m
  | j + 1, m => divAway (sumInt ((List.range 31).map fun i => halfTap i * cascade x j (2 * m + 15 - i))) (2 ^ 30)

/-- The FIR output at input index p of stage k; inputs before the slot's first are its first (05 R136). -/
def firOut (x : Int → Int) (k r : Nat) (from_ : Int) (p : Int) : Int :=
  let lo := -((-from_) / ((2 ^ k : Nat) : Int))
  divAway (sumInt ((List.range (firL r)).map fun j => firTap r j * cascade x k (max lo (p + firD r - j)))) (2 ^ 30)

/-- A faded FIR output: the j-th from the fade's start of m (05 R138). -/
def fadeValue (old new : Int) (j m : Nat) : Int :=
  old + divAway ((new - old) * (((j + 1) * 2 ^ 32 / (m + 1) : Nat) : Int)) (2 ^ 32)

/-! ### Spans (05 R128, R129) -/

/-- The span before and after the instant, in sinc periods. -/
def spanA (k n r : Nat) : Nat := 2 ^ k * (firL r - 1 - firD r + n - 1) + 15 * (2 ^ k - 1)
def spanB (k n r : Nat) : Nat := 2 ^ k * (firD r + n - 1) + 15 * (2 ^ k - 1)

/-- Responses that run on sinc numbers lo to hi, from the fades newest first; `d` is the response before a later fade. -/
def respIn (d k nn : Nat) (lo hi : Int) : List Fade → List Nat
  | [] => [d]
  | f :: r =>
    if hi < f.e then respIn f.from_ k nn lo hi r
    else if f.e + ((f.len * nn * 2 ^ (k + 1) : Nat) : Int) ≤ lo then [f.to_]
    else f.to_ :: respIn f.from_ k nn lo hi r

/-- The response before the oldest fade, or the one in force. -/
def baseResp (st : Stream) : Nat := ((st.fades.getLast?).map (·.from_)).getD st.response

/-- The fades, numbered on the grid of the next sample. -/
def Stream.oldFades (st : Stream) : List Fade := st.fades.map fun f => { f with e := f.e - st.shift }

/-- The span before and after the instant of sample `i`, in sinc periods: the longer of the responses that run on it. -/
def fadeSpan (st : Stream) (k n i : Nat) : Nat × Nat :=
  let c : Int := ((i * 2 ^ (k + 1) * n : Nat) : Int)
  let half : Int := (((n - 1) * 2 ^ k : Nat) : Int)
  let l := respIn (baseResp st) k n (c - half) (c + half) st.oldFades
  (l.foldl (fun a r => max a (spanA k n r)) 0, l.foldl (fun a r => max a (spanB k n r)) 0)

/-- First and last sinc number of the span of sample `i` of stream `n`. -/
def sampleSpan (s : State) (n i : Nat) : Int × Int :=
  let c := centre s n i
  let w := fadeSpan (stream s (sourceOf s n)) (streamK s n) (streamN s n) i
  (c - w.1, c + w.2)

/-! ### The moving average (05 R135, R137) -/

/-- Input indices of the FIR outputs in the window of sample i. -/
def window_ (k nn i : Nat) (floor : Int) : List Int :=
  ((List.range nn).map fun j => ((2 * nn * i : Nat) : Int) + 2 * j - (nn - 1)).filter fun p =>
    decide (floor ≤ p * ((2 ^ k : Nat) : Int))

/-- The slot of a channel that a stream uses. -/
def slotFor (s : State) (n c : Nat) : Option Slot := (chan s c).slots.find? (·.users.contains n)

/-- FIR output of a stream's slot at input index p: of the newest fade that has begun, blended while it lasts
(05 R138). -/
def slotOut (d : Nat) (x : Int → Int) (k nn : Nat) (from_ : Int) (p : Int) : List Fade → Int
  | [] => firOut x k d from_ p
  | f :: r =>
    let inst := p * ((2 ^ k : Nat) : Int)
    if inst < f.e then slotOut f.from_ x k nn from_ p r
    else
      let m := f.len * nn
      let j := ((inst - f.e) / ((2 ^ (k + 1) : Nat) : Int)).toNat
      let new := firOut x k f.to_ from_ p
      if j < m then fadeValue (firOut x k f.from_ from_ p) new j m else new

/-- The filter's output for sample i of stream n on channel c, and whether its average is partial. -/
def filterOut (s : State) (n c i : Nat) : Int × Bool :=
  let k := streamK s n
  let nn := streamN s n
  let st := stream s n
  let sh := st.shift
  let from_ := ((slotFor s n c).map (·.from_)).getD 0 - sh
  let l := window_ k nn i (st.floor - sh)
  let x := fun m => sincAt (chan s c) (m + sh)
  (divAway (sumInt (l.map fun p => slotOut (baseResp st) x k nn from_ p st.oldFades)) (max 1 l.length), decide (l.length < nn))

/-- The safety decimator at instant k of 125 us (05 R143): from sinc number `from_` on. -/
def safetyOut (s : State) (c : Nat) (from_ : Int) (k : Int) : Int :=
  let v := chan s c
  divAway (sumInt ((List.range 127).map fun j => safetyTap j * sincAt v (max from_ (32 * k + 12 - j)))) (2 ^ 30)

/-! ### Slots (05 R131, R132) -/

/-- The slot key a stream needs: response, K, even N. -/
def slotKey (s : State) (n r : Nat) : Nat × Nat × Bool := (r, streamK s n, decide (streamN s n % 2 = 0))

/-- A cover or capture stream takes its source's samples and needs no slot of its own. -/
def filtered (s : State) (n : Nat) : Bool := !isCapture s n && decide (coverOf s n = 0) && !isRelay s n

/-- The first FIR output of a stream at or after a fade's edge, and the sinc number at which its j reaches m: the first output
of the new response alone, or the edge itself with FADE_LEN = 0 (05 R135, R138). -/
def firstFir (k nn : Nat) (e : Int) : Int :=
  e + ((((nn - 1) * 2 ^ k : Nat) : Int) - e) % ((2 ^ (k + 1) : Nat) : Int)
def fadeOver (s : State) (n : Nat) (f : Fade) : Int :=
  if f.len = 0 then f.e
  else firstFir (streamK s n) (streamN s n) f.e + ((f.len * streamN s n * 2 ^ (streamK s n + 1) : Nat) : Int)

/-- The response that a running stream takes from its slot, or fades to. -/
def wanted (s : State) (n : Nat) : Nat := (((stream s n).fade.map (·.to_))).getD (stream s n).response

/-- A slot that a stream may join for a key: one on that key that some user stays on, or one whose fade unit runs it
(05 R131). -/
def joinable (s : State) (key : Nat × Nat × Bool) (l : Slot) : Bool :=
  decide ((l.k, l.even) = key.2) && l.users.any fun n => decide (wanted s n = key.1)

/-- The lowest free place; a slot beyond the two takes one that has come free (log entry 57). -/
def freePos (l : List Slot) : Nat := if l.all (·.pos ≠ 0) then 0 else if l.all (·.pos ≠ 1) then 1 else 2
def settleSlots (l : List Slot) : List Slot :=
  l.foldl (fun a x => a ++ [if x.pos ≤ 1 then x else { x with pos := min x.pos (freePos (a ++ (l.filter fun y => decide (y.pos ≤ 1)))) }]) []

/-- Join or allocate a slot of a channel from sinc number `e` on. -/
def useSlot (n : Nat) (key : Nat × Nat × Bool) (e : Int) (c : Nat) (s : State) : State :=
  let v := chan s c
  match v.slots.find? (joinable s key) with
  | some x =>
    setChan c { v with slots := v.slots.map fun l =>
      if l.pos = x.pos ∧ ¬ l.users.contains n then { l with users := l.users ++ [n] } else l } s
  | none =>
    setChan c { v with slots := v.slots ++ [{ resp := key.1, k := key.2.1, even := key.2.2, users := [n], from_ := e,
                                              pos := freePos v.slots }] } s

/-- Release a channel's slot of a stream; its last user frees it. -/
def dropSlot (n : Nat) (c : Nat) (s : State) : State :=
  let v := chan s c
  setChan c { v with slots := settleSlots ((v.slots.map fun l => { l with users := l.users.filter (· != n) }).filter
    fun l => !l.users.isEmpty) } s

/-- A fade of stream n to response r ends: the slot key takes the new response (05 R138). Users that stay on the old one, as
they may who joined it while a further change was held, keep the slot, and those of the new one go on with its history in
a slot of their own. When another slot of the channel runs that key already, its users join this one, whose history reaches
at least as far back, or the other way round, and the slot left is released (05 R131; log entry 57). -/
def rekeySlot (n r : Nat) (c : Nat) (s : State) : State :=
  let v := chan s c
  match v.slots.find? (·.users.contains n) with
  | none => s
  | some l =>
    let rest := v.slots.filter fun y => y.pos != l.pos
    let stay := l.users.filter fun m => decide (wanted s m ≠ r)
    let old := if stay.isEmpty then rest else { l with users := stay } :: rest
    let x := { l with resp := r, users := l.users.filter fun m => decide (wanted s m = r),
                      pos := if stay.isEmpty then l.pos else freePos old }
    let l := match old.find? fun y => decide ((y.resp, y.k, y.even) = (x.resp, x.k, x.even))
        && (y.users.all fun m => (stream s m).fade.isNone) with
      | none => old ++ [x]
      | some y =>
        let keep := if y.from_ < x.from_ then y else x
        (old.filter fun z => z.pos != y.pos) ++ [{ keep with users := x.users ++ y.users }]
    setChan c { v with slots := settleSlots l } s

/-- Distinct slot keys that streams would need on a channel: the final response of each (05 R132). -/
def finalResp (st : Stream) : Nat :=
  match st.held with
  | some (r, _) => r
  | none => match st.fade with | some f => f.to_ | none => st.response

end Sys2Proof.Machine
end

