-- ==== Sys2Proof/Machine/Standards.lean ====
section
/-! DEFINITION. Binary64 arithmetic and the functions of the standards that the curves name: the natural logarithm, the
reference functions of IEC 60584-1 and of ITS-90 (06 R147, R150, R152; log entry 8). -/

namespace Sys2Proof.Machine

/-! ### Binary64 (06 R147) -/

/-- A binary64 value; zeros carry no sign. -/
inductive Flt where
  | fin (r : Rat)
  | inf (neg : Bool)
  | nan
  deriving DecidableEq, Repr

/-- A real rounded to binary64, to nearest and ties to even. -/
def Flt.ofRat (r : Rat) : Flt :=
  if (2 : Rat) ^ (1024 : Nat) - (2 : Rat) ^ (970 : Nat) ≤ rabs r then .inf (decide (r < 0)) else .fin (round64 r)

def Flt.neg : Flt → Flt
  | .fin r => .fin (-r)
  | .inf n => .inf (!n)
  | .nan => .nan

def fadd : Flt → Flt → Flt
  | .fin a, .fin b => .ofRat (a + b)
  | .inf a, .inf b => if a = b then .inf a else .nan
  | .nan, _ => .nan
  | _, .nan => .nan
  | .inf a, .fin _ => .inf a
  | .fin _, .inf b => .inf b

def fsub (a b : Flt) : Flt := fadd a b.neg

def fmul : Flt → Flt → Flt
  | .fin a, .fin b => .ofRat (a * b)
  | .nan, _ => .nan
  | _, .nan => .nan
  | .inf a, .inf b => .inf (a != b)
  | .inf a, .fin b => if b = 0 then .nan else .inf (a != decide (b < 0))
  | .fin a, .inf b => if a = 0 then .nan else .inf (b != decide (a < 0))

def fdiv : Flt → Flt → Flt
  | .fin a, .fin b => if b = 0 then (if a = 0 then .nan else .inf (decide (a < 0))) else .ofRat (a / b)
  | .nan, _ => .nan
  | _, .nan => .nan
  | .inf _, .inf _ => .nan
  | .inf a, .fin b => .inf (a != decide (b < 0))
  | .fin _, .inf _ => .fin 0

/-- The real of a value; an infinity stands beyond every binary64 number. -/
def Flt.toRat : Flt → Rat
  | .fin r => r
  | .inf n => if n then -(2 : Rat) ^ (1024 : Nat) else (2 : Rat) ^ (1024 : Nat)
  | .nan => 0

/-- A power, each product rounded. -/
def fpow (x : Flt) : Nat → Flt
  | 0 => .fin 1
  | n + 1 => fmul x (fpow x n)

/-! ### Logarithm and exponential, in units of 2^-160 -/

def fixU : Int := 2 ^ 160
def toFix (r : Rat) : Int := (r * (fixU : Rat)).floor

/-- Terms of the series of artanh z: z^(2 i + 1) / (2 i + 1). -/
def artanhSum (z2 : Int) : Nat → Int → Int → Int
  | 0, _, _ => 0
  | n + 1, t, i => t / i + artanhSum z2 n (t * z2 / fixU) (i + 2)

/-- ln m for 1 ≤ m < 2, or m = 2. -/
def lnFix (m : Rat) : Int :=
  let z := toFix ((m - 1) / (m + 1))
  2 * artanhSum (z * z / fixU) 64 z 1

/-- The natural logarithm of a positive rational, within 2^-140. -/
def lnQ (q : Rat) : Rat :=
  let e := expOf q
  let m := if 0 ≤ e then q / (2 : Rat) ^ e.toNat else q * (2 : Rat) ^ (-e).toNat
  ((lnFix m + e * lnFix 2 : Int) : Rat) / (fixU : Rat)

/-- Terms of the exponential series. -/
def expSum (x : Int) : Nat → Int → Int → Int
  | 0, _, _ => 0
  | n + 1, t, i => t + expSum x n (t * x / fixU / i) (i + 1)

/-- The exponential of a rational that is not positive, within 2^-140. -/
def expQ (x : Rat) : Rat :=
  let f := toFix x
  let l := lnFix 2
  let n := (-f / l).toNat
  ((expSum (f + n * l) 48 fixU 1 : Int) : Rat) / (fixU : Rat) / (2 : Rat) ^ n

/-! ### IEC 60584-1 (06 R150) -/

/-- A decimal coefficient: digits and negated exponent of ten. -/
def dec (p : Int × Nat) : Rat := (p.1 : Rat) / (10 : Rat) ^ p.2

/-- A polynomial and its derivative. -/
def polyQD (t : Rat) : List (Int × Nat) → Rat × Rat
  | [] => (0, 0)
  | c :: r => let v := polyQD t r; (dec c + t * v.1, v.1 + t * v.2)

/-- A polynomial by its coefficients, the constant first. -/
def polyQ (t : Rat) : List (Int × Nat) → Rat
  | [] => 0
  | c :: r => dec c + t * polyQ t r

/-- The reference function of a type: pieces by their upper end in units of 0.001 degrees C, in millivolts. -/
def iecPieces (k : Nat) : List (Nat × List (Int × Nat)) :=
  match k with
  | 0x10 =>
    [(630615,
      [(0, 0), (-24650818346, 14), (59040421171, 16), (-13257931636, 19), (15668291901, 22), (-1694452924, 24),
       (62990347094, 29)]),
     (1820000,
      [(-38938168621, 10), (2857174747, 11), (-84885104785, 15), (15785280164, 17), (-16835344864, 20),
       (11109794013, 23), (-44515431033, 27), (98975640821, 31), (-93791330289, 35)])]
  | 0x11 =>
    [(0,
      [(0, 0), (58665508708, 12), (45410977124, 15), (-77998048686, 17), (-25800160843, 18), (-59452583057, 20),
       (-93214058667, 22), (-10287605534, 23), (-80370123621, 26), (-43979497391, 28), (-16414776355, 30),
       (-39673619516, 33), (-55827328721, 36), (-34657842013, 39)]),
     (1000000,
      [(0, 0), (5866550871, 11), (45032275582, 15), (28908407212, 18), (-33056896652, 20), (6502440327, 22),
       (-19197495504, 26), (-12536600497, 28), (21489217569, 31), (-14388041782, 34), (35960899481, 38)])]
  | 0x12 =>
    [(760000,
      [(0, 0), (50381187815, 12), (3047583693, 14), (-8568106572, 17), (13228195295, 20), (-17052958337, 23),
       (20948090697, 26), (-12538395336, 29), (15631725697, 33)]),
     (1200000,
      [(29645625681, 8), (-14976127786, 10), (31787103924, 13), (-31847686701, 16), (15720819004, 19),
       (-30691369056, 23)])]
  | 0x13 =>
    [(0,
      [(0, 0), (39450128025, 12), (23622373598, 15), (-32858906784, 17), (-49904828777, 19), (-67509059173, 21),
       (-57410327428, 23), (-31088872894, 25), (-10451609365, 27), (-19889266878, 30), (-16322697486, 33)]),
     (1372000,
      [(-17600413686, 12), (38921204975, 12), (18558770032, 15), (-99457592874, 18), (31840945719, 20),
       (-56072844889, 23), (56075059059, 26), (-32020720003, 29), (97151147152, 33), (-12104721275, 36)])]
  | 0x14 =>
    [(0,
      [(0, 0), (26159105962, 12), (10957484228, 15), (-93841111554, 18), (-46412039759, 21), (-26303357716, 22),
       (-22653438003, 24), (-76089300791, 27), (-93419667835, 30)]),
     (1300000,
      [(0, 0), (25929394601, 12), (1571014188, 14), (43825627237, 18), (-25261169794, 20), (64311819339, 23),
       (-10063471519, 25), (99745338992, 29), (-60863245607, 32), (20849229339, 35), (-30682196151, 39)])]
  | 0x15 =>
    [(1064180,
      [(0, 0), (528961729765, 14), (139166589782, 16), (-238855693017, 19), (356916001063, 22), (-462347666298, 25),
       (500777441034, 28), (-373105886191, 31), (157716482367, 34), (-281038625251, 38)]),
     (1664500,
      [(295157925316, 11), (-252061251332, 14), (159564501865, 16), (-764085947576, 20), (205305291024, 23),
       (-293359668173, 27)]),
     (1768100,
      [(152232118209, 9), (-268819888545, 12), (171280280471, 15), (-345895706453, 19), (-934633971046, 26)])]
  | 0x16 =>
    [(1064180,
      [(0, 0), (540313308631, 14), (12593428974, 15), (-232477968689, 19), (322028823036, 22), (-331465196389, 25),
       (255744251786, 28), (-125068871393, 31), (271443176145, 35)]),
     (1664500,
      [(132900444085, 11), (334509311344, 14), (654805192818, 17), (-164856259209, 20), (129989605174, 25)]),
     (1768100,
      [(146628232636, 9), (-258430516752, 12), (163693574641, 15), (-330439046987, 19), (-943223690612, 26)])]
  | _ =>
    [(0,
      [(0, 0), (38748106364, 12), (44194434347, 15), (11844323105, 17), (20032973554, 18), (90138019559, 20),
       (22651156593, 21), (36071154205, 23), (38493939883, 25), (28213521925, 27), (14251594779, 29),
       (48768662286, 32), (1079553927, 33), (13945027062, 37), (79795153927, 41)]),
     (400000,
      [(0, 0), (38748106364, 12), (3329222788, 14), (20618243404, 17), (-21882256846, 19), (10996880928, 21),
       (-30815758772, 24), (4547913529, 26), (-27512901673, 30)])]

/-- The emf of a type at a temperature in its domain, in volts; type K has an exponential term above 0 degrees C. -/
def iecEmf (k : Nat) (t : Rat) : Rat :=
  let l := iecPieces k
  let c := match l.find? (fun p => decide (t * 1000 ≤ (p.1 : Rat))) with | some p => p.2 | none => (l.getLast?.map (·.2)).getD []
  let d := t - 1269686 / 10000
  let x := if k = 0x13 ∧ 0 < t then dec (1185976, 7) * expQ (dec (-1183432, 10) * d * d) else 0
  (polyQ t c + x) / 1000

/-! ### ITS-90 (06 R150) -/

/-- The coefficients of the two reference functions, in units of 10^-8. -/
def its90A : List (Int × Nat) :=
  [(-213534729, 8), (318324720, 8), (-180143597, 8), (71727204, 8), (50344027, 8), (-61899395, 8), (-5332322, 8),
   (28021362, 8), (10715224, 8), (-29302865, 8), (4459872, 8), (11868632, 8), (-5248134, 8)]
def its90C : List (Int × Nat) :=
  [(278157254, 8), (164650916, 8), (-13714390, 8), (-649767, 8), (-234444, 8), (511868, 8), (187982, 8), (-204472, 8),
   (-46122, 8), (45724, 8)]

/-- W_r of a temperature in degrees C; below the triple point of water its logarithm is a polynomial. -/
def its90Wr (t : Rat) : Rat :=
  let k := t + 27315 / 100
  if t < 1 / 100 then
    let y := polyQ ((lnQ (k / (27316 / 100)) + 3 / 2) / (3 / 2)) its90A
    if y ≤ 0 then expQ y else 1
  else polyQ ((k - 75415 / 100) / 481) its90C

/-- The derivatives of the emf and of W_r. -/
def iecSlope (k : Nat) (t : Rat) : Rat :=
  let l := iecPieces k
  let c := match l.find? (fun p => decide (t * 1000 ≤ (p.1 : Rat))) with | some p => p.2 | none => (l.getLast?.map (·.2)).getD []
  let d := t - 1269686 / 10000
  let e := dec (-1183432, 10)
  let x := if k = 0x13 ∧ 0 < t then dec (1185976, 7) * expQ (e * d * d) * (2 * e * d) else 0
  ((polyQD t c).2 + x) / 1000
def its90Slope (t : Rat) : Rat :=
  let k := t + 27315 / 100
  if t < 1 / 100 then
    its90Wr t * (polyQD ((lnQ (k / (27316 / 100)) + 3 / 2) / (3 / 2)) its90A).2 / (3 / 2) / k
  else (polyQD ((k - 75415 / 100) / 481) its90C).2 / 481

/-- Newton's iteration of f with derivative f' for the value y: it stops at a step below 10 microkelvin, or after n steps
(06 R152). -/
def newton (f f' : Rat → Rat) (y : Rat) : Nat → Rat → Rat
  | 0, t => t
  | n + 1, t =>
    let step := round64 (round64 (y - round64 (f t)) / round64 (f' t))
    let t' := round64 (t + step)
    if rabs step < 1 / 100000 then t' else newton f f' y n t'

/-- The root of a rising function by halving, n times. -/
def bisect (f : Rat → Rat) (y : Rat) : Nat → Rat → Rat → Rat
  | 0, lo, hi => (lo + hi) / 2
  | n + 1, lo, hi => let m := (lo + hi) / 2; if f m < y then bisect f y n m hi else bisect f y n lo m

end Sys2Proof.Machine
end

