-- ==== Sys2Proof/Machine/Correct.lean ====
section
/-! DEFINITION. The correction engine: coefficients and their slews, primary quantities, curves, temperatures, residuals,
coding and flags (06; 07 R175, R176; 04 R119 to R122). -/

namespace Sys2Proof.Machine

/-! ### Coefficients (07 R171, R175, R176) -/

/-- Calibration of a channel's range; unity gain and zero offset without a valid CAL (02 R48). -/
def rangeCal (s : State) (c g : Nat) : RangeCal :=
  (if s.cal.invalid then none else (chan s c).cal.find g).getD { (default : RangeCal) with g := 1 }

/-- The composite offset and gain of a channel's range; a keeper's gain is the scale of its quire, F_ens times K_ext. -/
def composite (s : State) (c g : Nat) : Rat × Rat :=
  let v := rangeCal s c g
  let e := ensOf s (modQuire c)
  (v.o, if ratiometric s c ∨ s.cal.invalid then v.g
    else round64 (round64 (round64 v.g * round64 e.fEns) * round64 e.kExt))

/-- The instant of a device time of this start, in the model's clock. -/
def instantOf (s : State) (t : Int) : Int := (s.now : Int) - (devNow s - t)

/-- The weight of a slew at a device time. -/
def slewWeight (s : State) (w : Slew) (t : Int) : Rat :=
  let d := instantOf s t - w.from_
  if d < 0 then 0 else if w.len = 0 ∨ (w.len : Int) ≤ d then 1 else round64 ((d : Rat) / (w.len : Rat))

/-- old + (new - old) * w in binary64; the new value itself at w = 1 (07 R175, 06 R147). -/
def slewed (old new w : Rat) : Rat :=
  if w = 1 then new else round64 (round64 old + round64 (round64 (round64 new - round64 old) * w))

/-- The coefficients of a channel's range at a device time: those of the newest slew that has begun (07 R175). -/
def coefAt (s : State) (c g : Nat) (t : Int) : Rat × Rat :=
  let l := (chan s c).slews.get g []
  match l.find? (fun w => decide ((w.from_ : Int) ≤ instantOf s t)), l.getLast? with
  | some w, _ =>
    let a := slewWeight s w t
    (slewed w.oldO w.newO a, slewed w.oldG w.newG a)
  | none, some w => (w.oldO, w.oldG)
  | none, none => composite s c g

/-- A change exceeds C_PPM (07 R176). -/
def exceedsC (s : State) (q g : Nat) (old new : Rat × Rat) : Bool :=
  let c : Rat := (cf s 0x0501 q 0x04 31 16 : Nat)
  decide (c < rabs (new.2 - old.2) * 10000000) || decide (c * (fsUnits g : Rat) < rabs (new.1 - old.1) * 10000000)

/-- Publish a change `f` of calibration or of REF_SEL from an instant on: the composites of the channels slew from the values in
force at that instant to their new ones; `step` marks a change that neither slews nor sets C (07 R160). -/
def publish (cs : List Nat) (from_ : Nat) (step : Bool) (f : State → State) (s : State) : State :=
  let s' := f s
  forAll cs (fun c st => forAll (List.range 5) (fun g st =>
    let new := composite s' c g
    if composite s c g = new then st
    else
      let old := coefAt s c g (deviceAt s from_)
      let w : Slew := { oldO := old.1, oldG := old.2, newO := new.1, newG := new.2, from_ := from_,
                        len := if step then 0 else cf s 0x0501 (modQuire c) 0x00 15 0 * secU,
                        big := !step && exceedsC s (modQuire c) g old new }
      setChan c { chan st c with slews := (chan st c).slews.put g (w :: (chan st c).slews.get g []) } st) st) s'

/-- The instant of the next whole millisecond of device time: every change of calibration is published there (log entry 60). -/
def nextMs (s : State) : Nat :=
  let t := devNow s
  s.now + ((t / (msU : Int) + 1) * (msU : Int) - t).toNat

/-- A sample at a device time carries C (07 R176). -/
def slewing (s : State) (c g : Nat) (period : Nat) (t : Int) : Bool :=
  ((chan s c).slews.get g []).any fun w =>
    let d := instantOf s t - w.from_
    w.big && decide (0 ≤ d) && decide (d < (max w.len period : Nat))

/-! ### Primary quantities (06 R147, R155) -/

/-- A channel that measures ohms. -/
def rtdSource (s : State) (c : Nat) : Bool := !ratiometric s c && decide (rtdI s c ≠ 0) && decide (wiring s c ≠ 2)

/-- I_cal in nA at a device time, as the working reference measured it (07 R170); the nominal current before a calibration. -/
def iCalNa (s : State) (c g : Nat) (t : Int) : Rat :=
  let v := rangeCal s c g
  let i := if (v.iFrom : Int) ≤ instantOf s t then v.iNa else v.iOld
  if i = 0 then 1000 * (rtdI s c : Rat) else i

/-- I_cal in A on the scale of the samples: F_ens and K_ext move the drop across R_INT and the channel's voltage alike, so that a
resistance does not move (07 R170). -/
def iCalA (s : State) (c : Nat) (t : Int) : Rat :=
  round64 (round64 (iCalNa s c (gainOf s c) t / 1000000000) * round64 (coefAt s (modCode (quireOf c) 129) 0 t).2)

def primary (s : State) (c : Nat) (t : Int) (u : Flt) : Flt :=
  if ratiometric s c then u else if rtdSource s c then fdiv (fmul u (.fin 5)) (.ofRat (iCalA s c t)) else fmul u (.fin 5)

/-- FS_p of a channel's range. -/
def fsPrimary (s : State) (c g : Nat) : Rat :=
  if ratiometric s c then fsVolts g / 5 else if rtdSource s c then fsVolts g / ((rtdI s c : Rat) / 1000000) else fsVolts g

/-! ### Curves (06 R150 to R152) -/

/-- Parameter k of a channel's curve. -/
def curveP (s : State) (c k : Nat) : Rat := cfF64 s 0x0401 c (0x20 + 8 * k)
def curveOf (s : State) (c : Nat) : Nat := cf s 0x0401 c 0x00 7 0

/-- The domain of a temperature curve in degrees C; the interval of r of a bridge. -/
def curveDomain (k : Nat) : Option (Rat × Rat) :=
  match k with
  | 0x10 => some (250, 1820) | 0x11 => some (-270, 1000) | 0x12 => some (-210, 1200) | 0x13 => some (-270, 1372)
  | 0x14 => some (-270, 1300) | 0x15 => some (-50, 17681 / 10) | 0x16 => some (-50, 17681 / 10)
  | 0x17 => some (-270, 400) | 0x20 => some (-200, 850) | 0x21 => some (-200, 850)
  | 0x30 => some (-1893442 / 10000, 1 / 100) | 0x31 => some (-388344 / 10000, 297646 / 10000)
  | 0x32 => some (1 / 100, 297646 / 10000) | 0x33 => some (1 / 100, 1565985 / 10000)
  | 0x34 => some (1 / 100, 231928 / 1000) | 0x35 => some (1 / 100, 419527 / 1000)
  | 0x36 => some (1 / 100, 660323 / 1000) | 0x37 => some (1 / 100, 96178 / 100) | 0x40 => some (-100, 300)
  | 0x50 => some (-1 / 4, 1 / 4) | 0x52 => some (-1 / 4, 1 / 4)
  | _ => none

/-- A curve that yields degrees C. -/
def yieldsC (k : Nat) : Bool := decide (0x10 ≤ k ∧ k ≤ 0x40)

/-- A value limited to an interval, and whether it was outside. -/
def limit (d : Option (Rat × Rat)) (x : Rat) : Rat × Bool :=
  match d with
  | none => (x, false)
  | some (lo, hi) => if x < lo then (lo, true) else if hi < x then (hi, true) else (x, false)

/-- The Callendar-Van Dusen ratio. -/
def cvd (a b c t : Rat) : Rat := 1 + a * t + b * t * t + (if t < 0 then c * (t - 100) * t * t * t else 0)

/-- The inverse of curve k's function by the iteration of R152, at most 8 steps from its starting value; across the domain from
lo to hi it lies within 0.1 mK of the exact inverse (log entry 8). -/
def iterated (k : Nat) (f f' : Rat → Rat) (p lo hi : Rat) : Rat :=
  let exact_ := bisect f p 100 lo hi
  let t := newton f f' p 8 (max lo (min hi (Config.newtonStart k p)))
  max (exact_ - 1 / 10000) (min (exact_ + 1 / 10000) t)

/-- PRT curves: outside the domain the value at its nearer end. -/
def prt (k : Nat) (r0 a b c p : Rat) : Rat × Bool :=
  let f := fun t => r0 * cvd a b c t
  if p < f (-200) then (-200, true)
  else if f 850 < p then (850, true)
  else
    let f' := fun t => r0 * (a + 2 * b * t + (if t < 0 then c * (4 * t - 300) * t * t else 0))
    (if p < r0 then iterated k f f' p (-200) 0 else bisect f p 100 (-200) 850, false)

/-- a (W - 1) + b (W - 1)^2 + c (W - 1)^3, in binary64. -/
def devPoly (a b c w1 : Flt) : Flt := fadd (fadd (fmul a w1) (fmul b (fpow w1 2))) (fmul c (fpow w1 3))

/-- W of an SPRT at 660.323 degrees C: where W less its deviation with a, b and c is the reference function's value. -/
def wAluminium (a b c : Rat) : Rat :=
  let g := fun (w : Rat) => w - (a * (w - 1) + b * (w - 1) * (w - 1) + c * (w - 1) * (w - 1) * (w - 1))
  bisect g (its90Wr (660323 / 1000)) 100 1 8

/-- The deviation function of an ITS-90 subrange (06 R150). -/
def sprtDev (k : Nat) (a b c d : Rat) (w : Flt) : Flt :=
  let f := Flt.ofRat
  let w1 := fsub w (.fin 1)
  if k = 0x30 then fadd (fmul (f a) w1) (fmul (fmul (f b) w1) (f (lnQ w.toRat)))
  else if k = 0x32 then fmul (f a) w1
  else
    let v := devPoly (f a) (f b) (if 0x36 ≤ k then f c else .fin 0) w1
    let wal := wAluminium a b c
    if k = 0x37 ∧ wal < w.toRat then fadd v (fmul (f d) (fpow (fsub w (f wal)) 2)) else v

/-- The W of an end of an SPRT's domain: that from which its deviation leaves W_r (06 R151). -/
def sprtEnd (k : Nat) (a b c d t : Rat) : Rat :=
  let wr := its90Wr t
  bisect (fun w => (fsub (.ofRat w) (sprtDev k a b c d (.ofRat w))).toRat) wr 100 (wr / 2) (2 * wr)

/-- An SPRT curve: W_r = W - dW(W), then the temperature of the reference function; the ends of the domain are told by W. -/
def sprt (k : Nat) (rTpw a b c d : Rat) (p : Flt) : Rat × Bool :=
  match curveDomain k with
  | none => (0, false)
  | some (lo, hi) =>
    let w := fdiv p (.ofRat rTpw)
    if w.toRat < sprtEnd k a b c d lo then (lo, true)
    else if sprtEnd k a b c d hi < w.toRat then (hi, true)
    else (iterated k its90Wr its90Slope (fsub w (sprtDev k a b c d w)).toRat lo hi, false)

/-- A thermocouple: E = p + E_ref(theta), and the temperature at which the type's reference function is E. -/
def thermocouple (k : Nat) (p : Flt) (theta : Rat) : Rat × Bool × Bool :=
  match curveDomain k with
  | none => (0, false, false)
  | some (lo, hi) =>
    let th := limit (some (lo, hi)) theta
    let e := (fadd p (.ofRat (iecEmf k th.1))).toRat
    if e < iecEmf k lo then (lo, true, th.2)
    else if iecEmf k hi < e then (hi, true, th.2)
    else (iterated k (iecEmf k) (iecSlope k) e lo hi, false, th.2)

/-- The Steinhart-Hart curve. -/
def thermistor (a b c p : Rat) : Rat × Bool :=
  let q := if p < 1 then 1 else if 10000000 < p then 10000000 else p
  let l := Flt.ofRat (lnQ q)
  let i := fadd (fadd (.ofRat a) (fmul (.ofRat b) l)) (fmul (.ofRat c) (fpow l 3))
  if i.toRat ≤ 0 then (300, true)
  else
    let r := limit (some (-100, 300)) (fsub (fdiv (.fin 1) i) (.ofRat (27315 / 100))).toRat
    (r.1, r.2 || decide (q ≠ p))

/-- A bridge's strain or load from r = p - R_ZERO. -/
def bridge (k : Nat) (p0 p2 : Flt) (r : Flt) : Flt :=
  let n := fun (x : Rat) => Flt.fin x
  if k = 0x50 then
    fdiv (fmul (fmul (n 1000000) p2) (fmul (n 4) r)) (fmul p0 (fsub (n 1) (fmul (n 2) r)))
  else if k = 0x51 then fdiv (fmul (n 1000000) (fmul (n 2) r)) p0
  else if k = 0x52 then
    fdiv (fmul (n 1000000) (fmul (n 4) r)) (fmul p0 (fsub (fadd (n 1) p2) (fmul (fmul (n 2) r) (fsub (n 1) p2))))
  else if k = 0x53 then fdiv (fmul (n 1000000) r) p0
  else fdiv (fmul p0 r) p2

/-- The curve of a channel: its output, O from its domain, Q from a cold junction outside it. -/
def curve (s : State) (c : Nat) (p : Flt) (theta : Rat) : Flt × Bool × Bool :=
  let k := curveOf s c
  let P := curveP s c
  let two := fun (r : Rat × Bool) => (Flt.ofRat r.1, r.2, false)
  if k = 0 then (p, false, false)
  else if k < 0x20 then
    let r := thermocouple k p theta
    (.ofRat r.1, r.2.1, r.2.2)
  else if k = 0x20 then two (prt k (P 0) (39083 / 10000000) (-5775 / 10000000000) (-4183 / 1000000000000000) p.toRat)
  else if k = 0x21 then two (prt k (P 0) (P 1) (P 2) (P 3) p.toRat)
  else if k < 0x38 then two (sprt k (P 0) (P 1) (P 2) (P 3) (P 4) p)
  else if k = 0x40 then two (thermistor (P 0) (P 1) (P 2) p.toRat)
  else
    let r := fsub p (.ofRat (P 1))
    let v := limit (curveDomain k) r.toRat
    (bridge k (.ofRat (P 0)) (.ofRat (P 2)) (if v.2 then .ofRat v.1 else r), v.2, false)

/-- The residual polynomial, term by term in binary64 (06 R154). -/
def residual (s : State) (c : Nat) (y d : Flt) : Flt :=
  ((List.range 4).flatMap fun i => (List.range 3).map fun j =>
    fmul (fmul (.ofRat (cfF64 s 0x0401 c (0x48 + 8 * (3 * i + j)))) (fpow y i)) (fpow d j)).foldl fadd (.fin 0)

/-- The largest magnitude an F32 sample takes. -/
def f32Max : Rat := 34028234 * (10 : Rat) ^ (31 : Nat)

/-- Curve output with its residual; a sum that overflows binary64 or is not a number is clamped with O (06 R154). -/
def withResidual (s : State) (c : Nat) (y : Flt) (theta : Rat) : Rat × Bool :=
  let th0 : Rat := (toSigned 32 (word s 0x0401 c 0x08) : Rat) / 10000
  match fadd y (residual s c y (fsub (.ofRat theta) (.ofRat th0))) with
  | .fin r => (r, false)
  | _ => (if y.toRat < 0 then -f32Max else f32Max, true)

/-! ### Temperatures (06 R153) -/

/-- The die temperature of a quire at a sinc number, in thirds of a mK as degrees C, and whether its words were lost: the
words of that period or the latest before it, of the quire's present service; before its first words, those (06 R153). -/
def dieAt (s : State) (q : Nat) (m : Int) : Int × Bool :=
  let e := ensOf s q
  let l := if e.thetaFrom ≤ m then e.thetas.filter fun p => decide (e.thetaFrom ≤ p.1) else e.thetas
  (match l.find? (fun p => decide (p.1 ≤ m)) with
   | some p => p.2
   | none => (l.getLast?.map (·.2)).getD 0, e.thetaLost.contains m)

/-- Stages 1 to 5 for a value x at a device time, in binary64: y, O and Q; `theta` is the temperature (06 R146, R147). -/
def engine (s : State) (c : Nat) (x : Rat) (t : Int) (theta : Rat) : Rat × Bool × Bool :=
  let co := coefAt s c (gainOf s c) t
  let u := fmul (fmul (fsub (.ofRat x) (.ofRat co.1)) (.ofRat co.2)) (.fin (1 / ((2 ^ 35 : Nat) : Rat)))
  let k := curve s c (primary s c t u) theta
  let r := withResidual s c k.1 theta
  (r.1, k.2.1 || r.2, k.2.2)

/-- The temperature of a channel without a source channel, and Q from lost words. -/
def ownTheta (s : State) (c : Nat) (m : Int) : Rat × Bool :=
  if cf s 0x0401 c 0x00 9 8 = 1 then
    let d := dieAt s (quireOf c) m
    (round64 ((d.1 : Rat) / 3000), d.2)
  else (round64 ((toSigned 32 (word s 0x0401 c 0x04) : Rat) / 10000), false)

/-! ### Flags (04 R119) -/

def flagU : Nat := 1
def flagO : Nat := 2
def flagW : Nat := 4
def flagS : Nat := 8
def flagC : Nat := 16
def flagT : Nat := 32
def flagD : Nat := 64
def flagQ : Nat := 128

/-- An interval is not wholly covered by holds. -/
def unheld (fuel : Nat) (l : List Hold) (lo hi : Int) : Bool :=
  match fuel with
  | 0 => decide (lo ≤ hi)
  | n + 1 =>
    if hi < lo then false
    else match l.find? (fun h => decide (h.first ≤ lo ∧ lo ≤ h.last)) with
      | none => true
      | some h => unheld n l (h.last + 1) hi

/-- A mark contributes a stand-in value to a span: some number of it is not held (04 R117). -/
def Mark.inSpan (k : Mark) (holds : List Hold) (lo hi : Int) : Bool :=
  k.meets lo hi && unheld (holds.length + 1) holds (max lo k.first) (match k.last with | none => hi | some l => min hi l)

/-- Any mark of a kind meets the span. -/
def marked (v : Chan) (kind : MarkKind) (lo hi : Int) : Bool := v.marks.any fun k => k.kind == kind && k.meets lo hi

/-- U from the span's marks, holds and history; `re` says whether the re-phase of R94 counts (15 R380). -/
def spanU (s : State) (c : Nat) (lo hi centre : Int) (re : Bool) : Bool :=
  let v := chan s c
  let h := (excOf s (groupOf c)).holds
  (h.any fun x => match x.ufrom with | none => false | some u => decide (u ≤ hi ∧ lo ≤ x.last))
    || marked v .heldU lo hi || (re && marked v .rephase lo hi) || marked v .endLevel lo hi || marked v .heldSU lo hi
    || marked v .lost lo hi || marked v .out lo hi
    || v.marks.any fun k => k.kind == .range && k.inSpan h lo hi && (match k.last with | none => false | some l => decide (l < centre))

/-- Log entry 122. -/
def spanO (s : State) (c : Nat) (lo hi : Int) : Bool :=
  marked (chan s c) .over lo hi || marked (chan s c) .senseLow lo hi || marked (chan s c) .endLevel lo hi

def spanS (s : State) (c : Nat) (lo hi centre : Int) : Bool :=
  let v := chan s c
  let h := (excOf s (groupOf c)).holds
  marked v .heldSU lo hi || v.marks.any fun k =>
    (k.kind == .standin && k.inSpan h lo hi)
      || (k.kind == .range && k.inSpan h lo hi && (match k.last with | none => true | some l => decide (centre ≤ l)))

/-- T: a held output in the span, or one measured while TRIPPED. Log entry 52. -/
def spanT (s : State) (c : Nat) (lo hi : Int) : Bool :=
  ((excOf s (groupOf c)).holds.any fun x => decide (x.first ≤ hi ∧ lo ≤ x.last)) || marked (chan s c) .tripped lo hi

/-- W at a device time (04 R109). -/
def inDisagree (s : State) (c : Nat) (t : Int) : Bool :=
  (chan s c).wFrom.any fun p => decide (p.1 ≤ t) && (match p.2 with | none => true | some e => decide (t < e))

/-- Q of a channel's reference and calibration at a sinc number (02 R48, R50; 07 R160, R165, R171, R172, R185): an overdue range
counts while it is in force, on an absolute channel, with Q_ON_DUE. -/
def refQ (s : State) (c : Nat) (m : Int) : Bool :=
  let q := quireOf c
  let e := ensOf s q
  let g := gainOf s c
  let dist := ((dieAt s q m).1 - 3 * (rangeCal s c g).theta).natAbs
  s.cal.invalid
    || e.qs.any (fun x => x.covers m && (match x.why with
        | .overdue r => decide (r = g) && !ratiometric s c && cfBit s 0x0501 q 0x04 2 | _ => true))
    || (chan s c).qs.any (·.covers m)
    || (((chan s c).cal.find g).isSome && decide (6 * cf s 0x0501 q 0x00 31 16 < dist))

/-- Q from marks of the span. -/
def spanQ (s : State) (c : Nat) (lo hi : Int) : Bool := marked (chan s c) .lost lo hi || marked (chan s c) .out lo hi

/-! ### Output coding (06 R155, R156; 04 R120, R122) -/

/-- The P24 code of y and whether it was clamped. -/
def p24 (s : State) (c : Nat) (y : Rat) : Int × Bool :=
  let l := cfF64 s 0x0401 c 0x10
  let lsb := if l = 0 then fsPrimary s c (gainOf s c) / 7864320 else l
  let v := roundAway ((y - cfF64 s 0x0401 c 0x18) / lsb)
  (clampInt (-8388608) 8388607 v, decide (v < -8388608 ∨ 8388607 < v))

/-- The F32 value of y and whether it was clamped. -/
def f32 (y : Rat) : Nat × Bool :=
  if f32Max < y then (toF32 f32Max, true) else if y < -f32Max then (toF32 (-f32Max), true) else (toF32 y, false)

/-- The span of a channel's sample as its marks are judged: outputs before a history's first do not enter a sample at or
after it (05 R136, 17 R428). -/
def clipSpan (s : State) (c : Nat) (m : Int) (w : Int × Int) : Int × Int :=
  let f := (chan s c).histFirst
  if f ≤ m then (max w.1 f, w.2) else w

/-- Every flag of a sample but O of the clamps, C and W by its instant. -/
def sampleFlags (s : State) (n i c : Nat) (partial_ oCurve q : Bool) : Nat :=
  let m := centre s n i
  let w0 := sampleSpan s n i
  let w := clipSpan s c m w0
  let t := sincTime m
  let slot : Bool := match slotFor s n c with | none => false | some l => decide (w0.1 < l.from_)
  let short := decide (w0.1 < (chan s c).histFirst)
  flagU * b2n (partial_ || slot || short || spanU s c w.1 w.2 m true) + flagO * b2n (oCurve || spanO s c w.1 w.2)
    + flagW * b2n (inDisagree s c t) + flagS * b2n (spanS s c w.1 w.2 m)
    + flagC * b2n (slewing s c (gainOf s c) (periodOf s n) t) + flagT * b2n (spanT s c w.1 w.2)
    + flagQ * b2n (q || refQ s c m || spanQ s c w.1 w.2)

/-- The corrected sample of a channel that takes its temperature from `theta`, for a stream in F32 or P24. -/
def correctWith (s : State) (n i : Nat) (f32_ : Bool) (c : Nat) (theta : Rat) (q : Bool) : Sample :=
  let m := centre s n i
  let f := filterOut s n c i
  let y := engine s c (f.1 : Rat) (sincTime m) theta
  let code := p24 s c y.1
  let fl := f32 y.1
  let clamp := if f32_ then fl.2 else code.2
  { channel := c, flags := sampleFlags s n i c f.2 (y.2.1 || clamp) (q || y.2.2), code := code.1, value := y.1, f32 := fl.1 }

/-- The corrected sample of channel c at index i of stream n, under the configuration of its instant, for a stream of the
given format (06 R146, R153, R155). -/
def correct (s : State) (n i : Nat) (f32_ : Bool) (c : Nat) : Sample :=
  let m := centre s n i
  let s := s.at m
  if cf s 0x0401 c 0x00 9 8 = 2 then
    let src := cf s 0x0401 c 0x00 31 16
    let a := ownTheta s src m
    let v := correctWith s n i f32_ src a.1 a.2
    correctWith s n i f32_ c v.value (decide (v.flags ≠ 0))
  else
    let a := ownTheta s c m
    correctWith s n i f32_ c a.1 a.2

end Sys2Proof.Machine
end

