-- ==== Sys2Proof/Machine/Slots.lean ====
section
/-! DEFINITION. The witness's conversions and its slot scheduler: results, reserved slots, timed injections, the queue, and
the round robin (04 R95 to R100, R103, R105). -/

namespace Sys2Proof.Machine

/-- The witness tick at or before a device time, at the present, and at an instant of the model's clock. -/
def tickOf (t : Int) : Int := t / (witTickU : Int)
def nowTick (s : State) : Int := tickOf (devNow s)
def tickAt (s : State) (a : Nat) : Int := tickOf (devNow s - ((s.now : Int) - (a : Int)))

/-- What a quire's witness does: simultaneous mode lasts to the next frame start (04 R113). -/
def witMode (s : State) (q : Nat) : Nat :=
  let w := witOf s q
  if w.state = 1 ∧ devNow s < w.simulUntil then 2 else w.state

/-- The round robin of a quire begins again at the present. -/
def startRobin (q : Nat) (s : State) : State :=
  setWit q { witOf s q with state := 1, rr := 0, slotEnd := nowTick s } s

/-! ### Results (04 R95) -/

/-- The quire of a channel or node code. -/
def codeQuire (c : Nat) : Nat := if c < 0x0380 then c / 128 else (c - 0x0400) / 16

/-- The witness gain of a code, 0 = x1 and 1 = x16; during a range change that of the wider range (04 R115). -/
def witGain (s : State) (c : Nat) : Nat :=
  if 0x0400 ≤ c then 0
  else
    let g := gainOf s c
    b2n (decide (2 ≤ match standinOf s c with
      | some v => if v.kind = 0 then min (chan s c).oldGain g else g
      | none => g))

/-- The span of a witness gain in 10 nV. -/
def witSpan (g : Nat) : Int := if g = 0 then 550000000 else 34375000

/-- A raw result in 10 nV after the witness's own offset and gain correction. -/
def witCorrected (s : State) (q g : Nat) (raw : Int) : Int :=
  let w := witOf s q
  roundAway (((raw : Rat) - w.zero) * (1 + (if g = 0 then w.gainErr1 else w.gainErr16)))

/-- The result entry of a conversion: corrected, and clamped to the span with OVERRANGE; HOLD_MOVED and TIME_UNSET. -/
def convertAt (s : State) (g c : Nat) (hold : Int) (moved : Bool) (raw : Int) : Conversion :=
  let v := witCorrected s (codeQuire c) g raw
  let lim := witSpan g
  { instant := hold.toNat, code := c, value := max (-lim) (min lim v), gain := g,
    status := b2n moved + 2 * b2n (decide (lim < v.natAbs)) + 4 * unsetFlag s }
def convert (s : State) (c : Nat) (hold : Int) (moved : Bool) (raw : Int) : Conversion := convertAt s (witGain s c) c hold moved raw

/-! ### Reserved slots (04 R98) -/

/-- Slots of 50 ticks, one a frame: the tick of the first in a frame, the first frame and the last. -/
structure Series where
  off : Int
  first : Int
  last : Option Int
  deriving DecidableEq, Repr

/-- The slots that the stand-ins of a quire reserve; B's two conversions for sinc m are held at 200 m - 100 and
200 m + 100. A permanent stand-in that has been accepted counts from its first output on. -/
def reserved (s : State) (q : Nat) : List Series :=
  let w := witOf s q
  let on := fun (p : Option StandIn) => (p.filter fun v => !v.suspended).toList
  let due := match w.permAt with
    | none => []
    | some m => if w.posA.isNone then [{ off := -13, first := m, last := none : Series }]
                else if w.posB.isNone then [{ off := 87, first := m - 1, last := none : Series }] else []
  ((on w.posA).map fun v => { off := -13, first := v.first, last := v.last : Series })
    ++ ((on w.posB).map fun v => { off := 87, first := v.first - 1, last := v.last : Series }) ++ due

/-- Where the slots of a series meet [t, t + len): the end of the first that does. -/
def Series.hit (x : Series) (t len : Int) : Option Int :=
  let i := max x.first ((t - x.off - 50) / 200 + 1)
  if (match x.last with | none => true | some l => decide (i ≤ l)) && decide (200 * i + x.off < t + len) then
    some (200 * i + x.off + 50)
  else none

/-- A slot that some other one occupies. -/
def spanHit (t len : Int) (p : Int × Int) : Option Int := if p.1 < t + len ∧ t < p.2 then some p.2 else none

/-- The first tick from `t` on at which a slot of `len` ticks fits beside the series and the spans. -/
def firstFit (rs : List Series) (ps : List (Int × Int)) (len : Int) : Nat → Int → Option Int
  | 0, _ => none
  | n + 1, t =>
    match rs.filterMap (·.hit t len) ++ ps.filterMap (spanHit t len) with
    | [] => some t
    | x :: r => firstFit rs ps len n (r.foldl max x)

/-- The largest gap of a frame beside the series that last for ever. -/
def lastingGap (rs : List Series) : Option Int :=
  match (rs.filter (·.last.isNone)).length with | 0 => none | 1 => some 150 | _ => some 50

/-- Where a slot goes; none when no gap will ever hold it. -/
def place (s : State) (q : Nat) (ps : List (Int × Int)) (t len : Int) : Option Int :=
  let rs := reserved s q
  if (lastingGap rs).any fun g => decide (g < len) then none else firstFit rs ps len 40000 t

/-! ### Timed injections (04 R100, R103) -/

/-- The settling delay of an injection's next conversion: later ones find the multiplexer in place (04 R97). -/
def Injection.settleNext (j : Injection) (n : Nat) : Int := if n = 0 then j.settle else 13

/-- Start and hold of conversion `n` of a timed injection whose conversion before it ended at `e`. Its own instant moves
when its slot meets a reserved one. -/
def timedNext (s : State) (q : Nat) (ps : List (Int × Int)) (j : Injection) (h : Int) (n : Nat) (e : Int) : Option (Int × Int) :=
  let st := j.settleNext n
  let want := if n = 0 then max (h - st) e else e
  (place s q ps want (st + 37)).map fun p => (p, p + st)

/-- The slots of the conversions still to come, at most `k` of them. -/
def timedSpans (s : State) (q : Nat) (ps : List (Int × Int)) (j : Injection) (h : Int) : Nat → Nat → Int → List (Int × Int)
  | 0, _, _ => []
  | k + 1, n, e =>
    match timedNext s q ps j h n e with
    | none => []
    | some (a, x) => (a, x + 37) :: timedSpans s q ps j h k (n + 1) (x + 37)

/-- Timed injections whose instant is known at tick `t`, the earlier instant first. -/
def timedAt (s : State) (q : Nat) (t : Int) : List (Injection × Int) :=
  let l := (witOf s q).injections.filterMap fun j => j.hold.bind fun h =>
    if decide (j.start ≠ 0) && decide (tickAt s j.due ≤ t) then some (j, h) else none
  l.foldl (fun a p => a.filter (fun x => decide (x.2 ≤ p.2)) ++ p :: a.filter fun x => decide (p.2 < x.2)) []

/-- The slots that timed injections occupy, as they stand at tick `t`. -/
def timedBusy (s : State) (q : Nat) (t : Int) (skip : Nat) : List (Int × Int) :=
  (timedAt s q t).foldl (fun ps p =>
    if p.1.id = skip then ps
    else ps ++ timedSpans s q ps p.1 p.2 (p.1.count - p.1.done.length) p.1.done.length
      (if p.1.done.isEmpty then p.2 - (p.1.settle : Int) else (witOf s q).slotEnd)) []

/-! ### The round robin (04 R99) -/

/-- Entry n of the list: a channel's number, or none for an internal node. -/
def rrChan (n : Nat) : Option Nat := if n % 9 < 8 then some (8 * (n / 9) + n % 9) else none

/-- Stand-ins active in the frame of a tick. -/
def activeStandins (s : State) (q : Nat) (t : Int) : Nat :=
  let on := fun (p : Option StandIn) => (p.toList.filter fun v => !v.suspended && decide (200 * v.first - 113 ≤ t)
    && (match v.last with | none => true | some l => decide (t < 200 * l + 137))).length
  on (witOf s q).posA + on (witOf s q).posB

/-- A channel's settling delay, and whether its slot fits some gap of the frame. -/
def settleOf (s : State) (c : Nat) : Nat := cf s 0x0201 c 0x00 11 0
def rrFits (s : State) (q c : Nat) (t : Int) : Bool :=
  match activeStandins s q t with
  | 0 => true | 1 => decide (settleOf s c ≤ 113) | _ => decide (settleOf s c ≤ 13)

/-- Where a round-robin slot goes: among the requests that have come by its own start. -/
def rrStart (s : State) (q : Nat) (busy : Int → List (Int × Int)) (len : Int) : Nat → Int → Option Int
  | 0, p => some p
  | n + 1, p =>
    match place s q (busy p) (witOf s q).slotEnd len with
    | none => none
    | some x => if x ≤ p then some p else rrStart s q busy len n x

/-- Length of the slot of the entry at hand; entries whose channel is not included are passed over. -/
def rrLen (s : State) (q : Nat) : Nat → Nat → Int
  | 0, _ => 50
  | k + 1, n =>
    match rrChan (n % 144) with
    | none => 50
    | some c => if cfBit s 0x0201 (128 * q + c) 0x00 31 then (settleOf s (128 * q + c) : Int) + 37 else rrLen s q k (n + 1)

/-- The first tick from `t` on at which the slot under way, if any, has ended. -/
def busyUntil (s : State) (q : Nat) (t : Int) : Int :=
  let w := witOf s q
  let len := rrLen s q 144 w.rr
  if w.state ≠ 1 then max w.slotEnd t
  else match rrStart s q (fun p => timedBusy s q p 65536) len 20 w.slotEnd with
    | none => max w.slotEnd t
    | some p => if p < t ∧ t < p + len then p + len else max w.slotEnd t

/-! ### Calibration requests and the queue (04 R100, R105; 07 R173; 15 R394) -/

/-- The safety island grants a member's calibration: partner available and not under calibration, pair NORMAL, no pulse
pending or running on either group (15 R394). -/
def calAllowed (s : State) (c : Nat) : Bool :=
  (slotsOf s c).all fun m =>
    let o := slotChan s (other m)
    decide ((safePair s (m / 2)).state = 1) && available s (other m)
      && (match (chan s o).run with | some r => decide (r.state ≠ 2) | none => true)
      && !pulsePending s (groupOf c) && !pulseBusy s (groupOf c) && !pulsePending s (groupOf o) && !pulseBusy s (groupOf o)

/-- A calibration of a quire runs. -/
def calRunning (s : State) (q : Nat) : Bool :=
  (span (128 * q) 128).any fun c => (chan s c).run.any fun r => decide (r.state = 2)

/-- The transfer of EXT_STD has a quire's KEEPq.1 (07 R161). -/
def extOn (s : State) (q : Nat) : Bool := match s.cal.ext with | none => false | some x => decide (x.todo.head? = some q)

/-- The channel whose turn it is on a quire that can calibrate. -/
def calTurn (s : State) (q : Nat) : Option Nat :=
  let e := ensOf s q
  if ¬ inCrown s ∨ (quire s q).svc ≠ 0 ∨ e.warm = 1 ∨ e.warm = 5 ∨ e.warm = 0 ∨ calRunning s q ∨ s.conv.simul.isSome
      ∨ witMode s q ≠ 1 then none
  else (nextCal s q).filter fun c => !(rtdSource s c && extOn s q)

/-- The channel whose calibration may start on a quire, but for what the witness still has to do. -/
def calReady (s : State) (q : Nat) : Option Nat := (calTurn s q).filter (calAllowed s)

/-- The instant at which the calibration manager asked for the witness: when the channel was queued, or when the run before
it ended. A channel in permanent stand-in needs no slot of its own. -/
def calAsked (s : State) (q : Nat) : Option Nat :=
  (calReady s q).bind fun c =>
    if (permStandin s q).any (·.channel == c) then none else (chan s c).run.map fun r => max r.since (witOf s q).calFreed

/-- A witness calibration is held: an unresolved REFERENCE_SHIFT, or more than 8 channels that read DISAGREE (07 R174). -/
def witHeld (s : State) (q : Nat) : Bool :=
  (ensOf s q).refShift || decide (8 < ((span (128 * q) 128).filter fun c => decide ((chan s c).wstate = 2)).length)

/-- Since when a witness calibration has had its place in the queue: 24 h after the last, or the die's departure, whichever
came first (07 R174). -/
def witAsked (s : State) (q : Nat) : Option Nat :=
  let w := witOf s q
  if ¬ inCrown s ∨ ¬ inService s q ∨ witMode s q ≠ 1 ∨ witHeld s q then none
  else
    let day := w.calAt + 86400 * secU
    let a := match w.calFar with | none => day | some f => min f day
    if a ≤ s.now then some a else none

/-- The first calibration request of a quire's queue. -/
def queueAsked (s : State) (q : Nat) : Option Nat :=
  match calAsked s q, witAsked s q with
  | none, b => b
  | a, none => a
  | some a, some b => some (min a b)

/-- An injection that a calibration asked for at `a` waits for: queued before, or timed with its start condition met by now
(DESIGN CHOICE, log entry 128). -/
def Injection.before (s : State) (a : Nat) (j : Injection) : Bool :=
  match j.start with
  | 0 => decide (j.due ≤ a)
  | 1 => j.hold.any fun h => decide (h ≤ nowTick s)
  | _ => j.hold.isSome
def injectionsBefore (s : State) (q a : Nat) : Bool := (witOf s q).injections.any (·.before s a)

/-- The slots of `n` node conversions with the multiplexer moved each time, from tick `t` on, ahead of the queue. -/
def nodeSpans (s : State) (q : Nat) : Nat → Int → List (Int × Int)
  | 0, _ => []
  | n + 1, t =>
    match place s q (timedBusy s q t 65536) t 50 with
    | none => []
    | some p => (p, p + 50) :: nodeSpans s q n (p + 50)

/-- The four slots of a common-cause test that is asked for: the next ones after the slot under way (04 R111, 16 R418). -/
def testSpans (s : State) (q : Nat) : List (Int × Int) :=
  match (coalWin s 0x0401 q).filter fun w => decide (w.phase = 2) with
  | none => []
  | some w => nodeSpans s q 4 (busyUntil s q (tickAt s w.last))

/-- What an entry of the queue finds taken at tick `t`: timed injections, and a common-cause test ahead of the queue. -/
def queueBusy (s : State) (q : Nat) (t : Int) : List (Int × Int) := timedBusy s q t 65536 ++ testSpans s q

/-- The untimed injection that is served: the oldest, unless a calibration asked before it. -/
def fifoHead (s : State) (q : Nat) : Option Injection :=
  ((witOf s q).injections.find? fun j => decide (j.start = 0)).filter fun j =>
    match queueAsked s q with | none => true | some a => decide (j.due ≤ a) || !j.done.isEmpty

/-- Start and length of its next slot. -/
def fifoSlot (s : State) (q : Nat) : Option (Int × Int) :=
  (fifoHead s q).bind fun j =>
    let t := if j.done.isEmpty then busyUntil s q (tickAt s j.due) else (witOf s q).slotEnd
    let len := j.settleNext j.done.length + 37
    (place s q (queueBusy s q t) t len).map fun p => (p, len)

/-- What stands in the way of a round-robin slot that would start at `p`. -/
def rrBusy (s : State) (q : Nat) (p : Int) : List (Int × Int) :=
  queueBusy s q p ++ (match fifoHead s q, fifoSlot s q with
    | some j, some (a, len) => if !j.done.isEmpty || decide (tickAt s j.due ≤ p) then [(a, a + len)] else []
    | _, _ => [])

/-- The start of the next round-robin slot of `len` ticks. -/
def rrPlace (s : State) (q : Nat) (len : Int) : Option Int := rrStart s q (rrBusy s q) len 20 (witOf s q).slotEnd

/-- The round robin goes on to the next entry that gives a result, over nodes whose slots have ended, entries passed over and
entries skipped; none at the end of the list, or while a node's slot lasts. -/
def rrWalk (q : Nat) : Nat → State → Option Nat × State
  | 0, s => (none, s)
  | k + 1, s =>
    let w := witOf s q
    if 144 ≤ w.rr then (none, s)
    else match rrChan w.rr with
      | none =>
        match rrPlace s q 50 with
        | none => (none, s)
        | some p => if p + 50 ≤ nowTick s then rrWalk q k (setWit q { w with rr := w.rr + 1, slotEnd := p + 50 } s) else (none, s)
      | some i =>
        let c := 128 * q + i
        if ¬ cfBit s 0x0201 c 0x00 31 then rrWalk q k (setWit q { w with rr := w.rr + 1 } s)
        else if ¬ rrFits s q c w.slotEnd then
          rrWalk q k (setWit q { w with rr := w.rr + 1, skips := (w.skips + 1) % 2 ^ 32 } s)
        else (some c, s)

/-- The first sinc number whose stand-in slot the witness can take from now on; position B begins half a period earlier. -/
def firstStandin (s : State) (q : Nat) : Int :=
  let t := busyUntil s q (nowTick s)
  let lead : Int := if (witOf s q).posA.isNone then 13 else 113
  max (sincNext s) (-(-(t + lead) / 200))

/-! ### Conversions of an injection -/

/-- The start and hold of the next conversion of an injection, when it is its turn. -/
def injectSlot (s : State) (q : Nat) (j : Injection) : Option (Int × Int) :=
  let n := j.done.length
  if j.start = 0 then
    if (fifoHead s q).any (·.id == j.id) then (fifoSlot s q).map fun p => (p.1, p.1 + j.settleNext n) else none
  else
    j.hold.bind fun h => timedNext s q (timedBusy s q h j.id) j h n (witOf s q).slotEnd

/-- The raw result of an injection's next conversion has come from its quire. -/
def injectTaken (q : Nat) (s : State) (p : Nat × Int) : State :=
  let w := witOf s q
  match w.injections.find? (·.id == p.1) with
  | none => s
  | some j =>
    match injectSlot s q j with
    | none => s
    | some (_, x) =>
      if witMode s q ≠ 1 ∨ j.count ≤ j.done.length ∨ nowTick s < x + 37 then s
      else
        let want := match j.done.getLast? with | none => j.hold | some v => some ((v.instant : Int) + 50)
        let moved := decide (j.start ≠ 0) && want.any (· != x)
        let v := convert s j.channel x moved p.2
        setWit q { w with slotEnd := max w.slotEnd (x + 37), injections := w.injections.map fun k =>
          if k.id = p.1 then { k with done := k.done ++ [v] } else k } s

end Sys2Proof.Machine
end

