-- ==== Sys2Proof/Machine/Witnesses.lean ====
section
/-! DEFINITION. The witness: visits and their judgement, cycles, the common-cause test, injections and simultaneous mode
(04 R91 to R114; 16 R418). -/

namespace Sys2Proof.Machine

/-! ### Comparisons started on demand (07 R163) -/

/-- SL fields of CAL_POLICY take effect at a comparison (07 R186). Log entry 72. -/
def latchPolicy (s : State) (q : Nat) (e : Ensemble) : Ensemble :=
  { e with outPpb := cf s 0x0501 q 0x0C 31 16, uLimits := (List.range 5).map fun r => word s 0x0501 q (0x10 + 4 * r) }

/-- A quick comparison starts, or restarts the one that runs; not on a quire that is COLD, in HEATER_FAULT or out of
service. -/
def startQuick (q : Nat) (s : State) : State :=
  let e := ensOf s q
  if e.warm = 1 ∨ e.warm = 5 ∨ e.warm = 0 ∨ ¬ inService s q then s
  else setEns q { latchPolicy s q e with comparing := 1, compStart := s.now } s

/-- F_ens - 1 in 0.001 ppm, as ENS_STATUS gives it. -/
def ppb (x : Rat) : Int := roundAway ((x - 1) * 1000000000)

/-- The final reply of an ENS_COMPARE_NOW (14 R357). -/
def compReply (j : CompJob) (s : State) : List Byte :=
  ((quireList s).filter fun q => bit q (j.req.f 0 1)).flatMap fun q =>
    le 1 q ++ le 1 (b2n (j.notRun.contains q)) ++ le 2 0 ++ leS 4 (ppb (ensOf s q).fEns)

/-- A quire's comparison is done, or cannot run: the commands that named it go on, and those that are complete answer. -/
def compDone (q : Nat) (ran : Bool) (s : State) : State :=
  let l := s.cal.comps.map fun j =>
    if j.todo.contains q then
      { j with todo := j.todo.filter (· != q), notRun := if ran then j.notRun else q :: j.notRun }
    else j
  let s := { s with cal.comps := l.filter fun j => !j.todo.isEmpty }
  (l.filter fun j => j.todo.isEmpty).foldl (fun s j => answer j.req stOk (compReply j s) s) s

/-! ### Modulators (04 R91) -/

/-- MODULATOR_END_LEVEL_RESET of modulator `c` of quire `q`, `clocks` after the first of its clocks at an end level. The fault
of a keeper's modulator names it by its calibration code (log entry 53). -/
def endLevel (q c clocks : Nat) (s : State) : State :=
  if ¬ inService s q ∨ 130 ≤ c ∨ ¬ (quire s q).running then s
  else
    let code := modCode q c
    let t := devNow s
    let v := chan s code
    let l := s.now :: v.resets.filter fun x => decide (s.now < x + secU)
    let s := setChan code { v with resets := l } s
    let s := addMark code .endLevel (winFirst (t - (clocks * strobeU : Nat))) (some (winLast t)) s
    if 10 < l.length ∧ v.resets.length ≤ 10 then raise (evB 0x0403 code (le 2 code ++ le 2 l.length ++ zeros 4)) s else s

/-- Log entry 123. -/
def execModulatorEndLevelReset (at_ q c clocks : Nat) (s : State) : Host.Outcome State Fault Refusal :=
  .next (endLevel q c clocks (s.tick at_))

/-! ### Plausibility (04 R106 to R110) -/

/-- Main-path volts of a channel's sinc output m at the balls (04 R107). -/
def sincVolts (s : State) (c : Nat) (m : Int) : Rat :=
  let co := coefAt s c (gainOf s c) (sincTime m)
  let u := ((phaseSign s c m * sincAt (chan s c) m : Int) - co.1) * co.2 / ((2 ^ 35 : Nat) : Rat)
  if ratiometric s c then u * ((senseOf s (groupOf c) : Rat) / 10000) else u * 5

/-- Nominal range of a channel in volts, of its group's sense where that is the reference (03 R70). -/
def nominalVolts (s : State) (c : Nat) : Rat :=
  if ratiometric s c then fsVolts (gainOf s c) / 5 * rabs ((senseOf s (groupOf c) : Rat) / 10000) else fsVolts (gainOf s c)

/-- Sinc output m may be judged: not held under R76, replaced under R91 or R94, lost or out, or a stand-in's, and within the
nominal range (04 R108). -/
def plainSinc (s : State) (c : Nat) (m : Int) : Bool :=
  let v := chan s c
  !heldAt s c m
    && (v.marks.all fun k => !k.covers m || !(k.kind == .endLevel || k.kind == .rephase || k.kind == .lost || k.kind == .out
        || k.kind == .standin || k.kind == .range || k.kind == .heldSU))
    && decide ((rawAt_ v m).natAbs ≤ fsUnits (gainOf (s.at m) c))

/-- The channel's tone injector runs. -/
def toneOn (s : State) (c : Nat) : Bool :=
  match (toneOf s (quireOf c)).scan with | none => false | some k => k.round.contains c

/-- A visit of channel c, whose sinc outputs have closed, is judged (04 R108). -/
def judged (s : State) (c : Nat) (v : Conversion) : Bool :=
  let i : Int := (v.instant / 200 : Nat)
  plainSinc s c i && plainSinc s c (i + 1) && decide ((chan s c).histFirst ≤ i) && !bit 1 v.status && !toneOn s c
    && (standinOf s c).isNone

/-- The body of WITNESS_DISAGREE and WITNESS_AGREE: channel, instant and d (log entry 14). -/
def disagreeBody (c : Nat) (h : Nat) (d : Int) : List Byte := le 2 c ++ zeros 6 ++ le 8 h ++ leS 4 d ++ zeros 4

/-- The judgement of a round-robin visit (04 R107 to R109). Until DISAGREE is entered a judged channel reads AGREE (DESIGN
CHOICE, log entry 128). -/
def judge (c : Nat) (v : Conversion) (s : State) : State :=
  if ¬ judged s c v then s
  else
    let i : Int := (v.instant / 200 : Nat)
    let a := sincVolts s c i
    let b := sincVolts s c (i + 1)
    let m := a + (b - a) * ((v.instant % 200 : Nat) : Rat) / 200
    let fs := nominalVolts s c
    let d := (v.value : Rat) / 100000000 - m
    let tol := (cf s 0x0201 c 0x04 31 16 : Rat) * fs / 100000 + (cf s 0x0201 c 0x04 15 0 : Rat) * rabs m / 100000
      + (cf s 0x0201 c 0x08 15 8 : Rat) / 256 * rabs (b - a)
    let bad := decide (tol < rabs d)
    let x := chan s c
    let run := if x.wstate ≠ 0 ∧ x.wdir = bad then min (x.wrun + 1) 255 else 1
    let last := if fs = 0 then x.lastD else roundAway (d * 100000 / fs)
    let persist := cf s 0x0201 c 0x08 7 0
    let was := decide (x.wstate = 2)
    let y := { x with wrun := run, wdir := bad, lastD := last, visits := (x.visits + 1) % 2 ^ 32,
                      disagreeing := (x.disagreeing + b2n bad) % 2 ^ 32, wstate := if was then 2 else 1 }
    let h : Int := (v.instant * witTickU : Nat)
    if bad && !was && decide (persist ≤ run) then
      raise { evB 0x0401 c (disagreeBody c v.instant last) with lasting := true }
        (setChan c { y with wstate := 2, wFrom := (h, none) :: y.wFrom } s)
    else if !bad && was && decide (persist ≤ run) then
      let s := setChan c { y with wstate := 1, wFrom := y.wFrom.map fun p => if p.2 = none then (p.1, some h) else p } s
      raise (evB 0x0410 c (disagreeBody c v.instant last)) (clearCause 0x0401 c s)
    else setChan c y s

/-- WITNESS_VISIT_JUDGE: the raw result of the round robin's next visit, whose slot has ended and whose two sinc outputs have
closed (04 R99, R107; log entry 54). -/
def visit (c : Nat) (raw : Int) (s : State) : State :=
  let q := quireOf c
  if ¬ isChan s c ∨ ¬ inService s q ∨ witMode s q ≠ 1 then s
  else
    let r := rrWalk q 145 s
    let w := witOf r.2 q
    let st : Int := settleOf s c
    match rrPlace r.2 q (st + 37) with
    | none => s
    | some p =>
      if r.1 ≠ some c ∨ nowTick s < p + st + 37 ∨ (chan s c).histNew < (p + st) / 200 + 1 then s
      else judge c (convert s c (p + st) false raw) (setWit q { w with rr := w.rr + 1, slotEnd := p + st + 37 } r.2)

def execWitnessVisitJudge (at_ c : Nat) (raw : Int) (s : State) : Host.Outcome State Fault Refusal :=
  .next (visit c raw (s.tick at_))

/-- The channels of a quire are no longer judged: W ends, and they stand at NOT_VISITED (04 R111, R113). Log entry 101. -/
def unjudge (q : Nat) (s : State) : State :=
  let t := devNow s
  forAll (span (128 * q) 128) (fun c s =>
    let x := chan s c
    let s := if x.wstate = 2 then clearCause 0x0401 c s else s
    if x.wstate = 0 then s
    else setChan c { x with wstate := 0, wrun := 0, wFrom := x.wFrom.map fun p => if p.2 = none then (p.1, some t) else p } s) s

/-- 50 microvolts in 10 nV, and a change beyond 100 ppm. -/
def beyond50uV (v : Int) : Bool := decide (5000 < v.natAbs)
def beyond100ppm (v ref : Int) : Bool := decide (ref ≠ 0) && decide (100 * ref.natAbs < 1000000 * (v - ref).natAbs)

/-- What a cycle's WIT_ZERO and RATIO_TAP, raw in 10 nV, say of the witness (04 R111). Log entry 101. -/
def cycleJudge (q : Nat) (zero ratio : Int) (s : State) : State :=
  let w := witOf s q
  let fail := beyond50uV (witCorrected s q 0 zero) || beyond100ppm (witCorrected s q 0 ratio) w.ratioTap
  let w := { w with cycles := (w.cycles + (if w.state = 1 then 1 else 0)) % 2 ^ 32, rr := 0,
                    failRow := if fail then w.failRow + 1 else 0, passRow := if fail then 0 else w.passRow + 1 }
  let s := setWit q w s
  if w.state = 1 ∧ 3 ≤ w.failRow then
    let s := setWit q { w with state := 3, passRow := 0 } s
    let s := raise (evL 0x0402 q) (unjudge q s)
    breakStandins q (sincNext s) 4 (endInjections q 4 s)
  else if w.state = 3 ∧ 3 ≤ w.passRow then
    let s := clearCause 0x0402 q (setWit q { w with state := 2, failRow := 0 } s)
    if s.conv.simul.isSome then s else resumePerm q (sincNext s) (startRobin q s)
  else s

/-- WITNESS_CYCLE_END: the round robin has come to the end of its list; in WITNESS_FAULT only the two nodes are converted. -/
def cycleEnd (q : Nat) (zero ratio : Int) (s : State) : State :=
  if ¬ inService s q then s
  else match witMode s q with
    | 3 => cycleJudge q zero ratio s
    | 1 =>
      let r := (rrWalk q 145 s).2
      if 144 ≤ (witOf r q).rr then cycleJudge q zero ratio r else s
    | _ => s

def execWitnessCycleEnd (at_ q : Nat) (zero ratio : Int) (s : State) : Host.Outcome State Fault Refusal :=
  .next (cycleEnd q zero ratio (s.tick at_))

/-- COMMON_CAUSE_TEST_DONE: AGND_Q, VREF_WORK, RATIO_TAP and WIT_ZERO, raw in 10 nV, from the witness's next four slots
(04 R111, 16 R418). RATIO_TAP enters no outcome. A test that finds the witness in WITNESS_FAULT or in simultaneous mode waits
(log entry 101). -/
def commonCause (q : Nat) (agnd vref ratio zero : Int) (s : State) : State :=
  match coalWin s 0x0401 q, (testSpans s q)[3]? with
  | some w, some (_, e) =>
    if witMode s q ≠ 1 ∨ nowTick s < e then s
    else
      let u := witCorrected s q 0
      let outcome := if beyond50uV (u zero) || beyond50uV (u agnd) then 1
        else if beyond100ppm (u vref) (witOf s q).vref then 2 else 3
      let _ := ratio
      let s := issueCoalesced w outcome (setWit q { witOf s q with slotEnd := max (witOf s q).slotEnd e } s)
      let s := putWin { w with phase := 1, evs := [], last := s.now } s
      if outcome = 2 then startQuick q (setEns q { ensOf s q with refShift := true } s) else s
  | _, _ => s

def execCommonCauseTestDone (at_ q : Nat) (agnd vref ratio zero : Int) (s : State) : Host.Outcome State Fault Refusal :=
  .next (commonCause q agnd vref ratio zero (s.tick at_))

/-! ### Injected conversions (04 R101 to R104) -/

/-- A code that the witness of the variant converts. -/
def witCode (s : State) (c : Nat) : Bool :=
  isChan s c || (decide (0x0400 ≤ c ∧ c < 0x0400 + 16 * s.part.quires))

def injectOk (r : Req) (s : State) : Bool :=
  let settle := r.f 4 2
  let start := r.f 6 1
  decide (r.params.length = 24) && witCode s (r.f 0 2) && decide (1 ≤ r.f 2 2 ∧ r.f 2 2 ≤ 256)
    && decide (settle = 0 ∨ (13 ≤ settle ∧ settle ≤ 3277)) && decide (start ≤ 2) && decide (bits 6 3 (r.f 7 1) = 0)
    && zeroAt 22 2 r
    && (decide (start ≠ 1) || r.applyAt.isSome)
    && (decide (start ≠ 2) || (decide (r.f 8 4 ≤ r.f 12 4) && decide (1024 ≤ r.f 16 4 ∧ r.f 16 4 ≤ 16777215)
        && decide (1 ≤ r.f 20 2)))

/-- The settling delay that an injection uses. -/
def injectSettle (r : Req) (s : State) : Nat :=
  if r.f 4 2 ≠ 0 then r.f 4 2 else if r.f 0 2 < 0x0380 then cf s 0x0201 (r.f 0 2) 0x00 11 0 else 13

/-- The quire that holds an injection. -/
def injectionQuire (s : State) (id : Nat) : Option Nat :=
  (quireList s).find? fun q => (witOf s q).injections.any (·.id == id)

/-- The next INJECT_ID that no pending injection has. -/
def nextId (s : State) : Nat :=
  ((List.range 113).find? fun i => (injectionQuire s ((s.conv.injectIds + i) % 65536)).isNone).getD 0

/-- CONV_INJECT is taken in: QUEUED with its INJECT_ID. `hold` is the first hold instant of AT_TIME. -/
def injectRun (hold : Option Int) (r : Req) (s : State) : State :=
  let c := r.f 0 2
  let q := codeQuire c
  if ¬ inService s q then refuseOr r stOut s
  else if s.conv.simul.isSome then refuseOr r stConflict s
  else if 16 ≤ (witOf s q).injections.length then refuseOr r stBusy s
  else if (permStandin s q).isSome ∧ 150 < injectSettle r s + 37 then refuseOr r stConflict s
  else
    let n := s.conv.injectIds + nextId s
    let j : Injection :=
      { id := n % 65536, req := r, channel := c, count := r.f 2 2, settle := injectSettle r s, start := r.f 6 1, evt := r.f 7 1,
        wMin := r.f 8 4, wMax := r.f 12 4, delay := r.f 16 4, deadline := s.now + r.f 20 2 * secU, hold := hold,
        lead := none, due := s.now, done := [] }
    let s := setWit q { witOf s q with injections := (witOf s q).injections ++ [j] } s
    queued { r with ranLate := false } (le 2 (n % 65536)) { s with conv.injectIds := n + 1 }

/-- An apply-at time with START = NOW or EVT_PULSE schedules the command; with AT_TIME it is the first hold instant. -/
def injectServe : Packet → State → State :=
  serve 0x0300 tableRole injectOk fun r s =>
    match r.applyAt with
    | some t =>
      if r.f 6 1 = 1 then
        (if 256 ≤ scheduled s then refuse r stBusy s
        else injectRun (some (-((-t) / (witTickU : Int)))) { r with applyAt := none } s)
      else schedule r t s
    | none => injectRun (if r.f 6 1 = 1 then some (-((-(devNow s)) / (witTickU : Int))) else none) r s

def execConvInject (at_ : Nat) (p : Packet) (s : State) : Host.Outcome State Fault Refusal :=
  .next (receive 0x0300 p injectServe (s.tick at_))

def cancelServe : Packet → State → State :=
  serve 0x0301 tableRole (exactly 2) fun r s =>
    match injectionQuire s (r.f 0 2) with
    | none => refuse r stInvalid s
    | some q => answer r stOk [] (endInjection q (r.f 0 2) 1 s)

def execConvInjectCancel (at_ : Nat) (p : Packet) (s : State) : Host.Outcome State Fault Refusal :=
  .next (receive 0x0301 p cancelServe (s.tick at_))

/-- INJECT_COMPLETE: every conversion of an injection is done. Log entry 102. -/
def injectDone (id : Nat) (s : State) : State :=
  match injectionQuire s id with
  | none => s
  | some q =>
    match (witOf s q).injections.find? (·.id == id) with
    | none => s
    | some j => if j.done.length = j.count then endInjection q id 0 s else s

def execInjectComplete (at_ id : Nat) (s : State) : Host.Outcome State Fault Refusal := .next (injectDone id (s.tick at_))

/-- INJECT_TIMEOUT (04 R103). -/
def injectTimeout (id : Nat) (s : State) : State :=
  match injectionQuire s id with
  | none => s
  | some q =>
    match (witOf s q).injections.find? (·.id == id) with
    | none => s
    | some j => if j.start = 2 ∧ j.hold = none ∧ j.deadline ≤ s.now then endInjection q id 2 s else s

def execInjectTimeout (at_ id : Nat) (s : State) : Host.Outcome State Fault Refusal := .next (injectTimeout id (s.tick at_))

/-- An edge of an EVT pin reaches the injections that wait for a pulse on it; widths count in whole ticks (04 R103, 08 R216). -/
def pulseEdge (pin : Nat) (rise : Bool) (fine : Nat) (j : Injection) (s : State) : Injection :=
  if j.start ≠ 2 ∨ j.hold ≠ none ∨ bits 2 0 j.evt ≠ pin then j
  else if rise ≠ bit 7 j.evt then { j with lead := some fine }
  else match j.lead with
    | none => j
    | some a =>
      if j.wMin ≤ (fine - a) / 16 ∧ (fine - a) / 16 ≤ j.wMax then
        { j with hold := some (tickOf (devStamp s fine) + j.delay), lead := none, due := s.now }
      else { j with lead := none }

def injectEdge (pin : Nat) (rise : Bool) (fine : Nat) (s : State) : State :=
  forAll (quireList s) (fun q s =>
    setWit q { witOf s q with injections := (witOf s q).injections.map fun j => pulseEdge pin rise fine j s } s) s

/-! ### Simultaneous mode (04 R112 to R114) -/

/-- Counts and lists of WIT_SIMUL_START. -/
def simulCounts (r : Req) : List Nat := (List.range 7).map fun q => r.f (6 + q) 1
def simulLists (r : Req) : List (List Nat) :=
  let c := simulCounts r
  (List.range 7).map fun q => (List.range (c.getD q 0)).map fun i => r.f (14 + 2 * (total (c.take q) + i)) 2

def simulOk (r : Req) (s : State) : Bool :=
  let c := simulCounts r
  decide (14 ≤ r.params.length) && decide (r.params.length = 14 + 2 * total c) && decide (4 ≤ r.f 0 1 ∧ r.f 0 1 ≤ 31)
    && zeroAt 1 1 r && zeroAt 13 1 r && c.all (fun n => decide (n ≤ 64))
    && decide (1 ≤ r.f 2 2) && decide (7 * c.foldl max 0 ≤ r.f 2 2)
    && (c.zipIdx.all fun p => decide (p.1 = 0 ∨ p.2 < s.part.quires))
    && ((simulLists r).zipIdx.all fun p => p.1.all fun x => witCode s x && decide (codeQuire x = p.2))

/-- Any stand-in, a permanent one that has still to start included, and any injection of the package. -/
def anyStandins (s : State) : Bool := (quireList s).any fun q => anyStandin s q || (witOf s q).perm.isSome
def anyInjection (s : State) : Bool := (quireList s).any fun q => !(witOf s q).injections.isEmpty

/-- Every witness in service changes its state. -/
def allWitness (st : Nat) (s : State) : State :=
  forAll ((servingQuires s).filter fun q => decide ((witOf s q).state ≠ 3)) (fun q s =>
    if st = 1 then startRobin q s else setWit q { witOf s q with state := st } s) s

/-- WIT_SIMUL_START (04 R114); while the mode runs already it answers CONFLICT (DESIGN CHOICE, log entry 128). -/
def simulServe : Packet → State → State :=
  serve 0x0302 tableRole simulOk fun r s =>
    let l := simulLists r
    if (l.zipIdx.any fun p => !p.1.isEmpty && !inService s p.2) then refuse r stOut s
    else if running s (r.f 0 1) || anyStandins s || anyInjection s || s.conv.simul.isSome then refuse r stConflict s
    else
      let s := jDone r [] s
      let d := r.f 4 2
      let k : Simul := { stream := r.f 0 1, period := r.f 2 2, ends := if d = 0 then none else some (s.now + d * secU),
                         lists := l, session := r.session }
      answer r stOk [] (allWitness 2 { s with conv.simul := some k })

def execWitSimulStart (at_ : Nat) (p : Packet) (s : State) : Host.Outcome State Fault Refusal :=
  .next (receive 0x0302 p simulServe (s.tick at_))

/-- Host simultaneous mode ends; the round robin restarts. -/
def simulEnd (s : State) : State :=
  if s.conv.simul.isSome then allWitness 1 { s with conv.simul := none } else s

def simulStopServe : Packet → State → State :=
  serve 0x0303 tableRole (exactly 0) fun r s => answer r stOk [] (simulEnd (jDone r [] s))

def execWitSimulStop (at_ : Nat) (p : Packet) (s : State) : Host.Outcome State Fault Refusal :=
  .next (receive 0x0303 p simulStopServe (s.tick at_))

/-- WIT_SIMUL_DURATION_END. -/
def simulExpiry (s : State) : State :=
  match s.conv.simul with
  | some k => (match k.ends with | some t => if t ≤ s.now then simulEnd s else s | none => s)
  | none => s

def execWitSimulDurationEnd (at_ : Nat) (s : State) : Host.Outcome State Fault Refusal := .next (simulExpiry (s.tick at_))

/-- A WITNESS folio of simultaneous results, at most 253 entries (10 R255). -/
def simulFolio (l : List Conversion) : List Byte :=
  le 1 1 ++ le 1 0 ++ le 2 l.length ++ le 4 0
    ++ (l.map fun v => le 8 v.instant ++ leS 4 v.value ++ le 2 v.code ++ le 1 v.gain ++ le 1 v.status).flatten

/-- The results of a frame go out in folios of the named stream. Log entry 102. -/
def simulFolios (fuel n : Nat) (l : List Conversion) (s : State) : State :=
  match fuel with
  | 0 => s
  | k + 1 =>
    if l.isEmpty then s
    else
      let a := l.take 253
      simulFolios k n (l.drop 253) (writeFolio n { (default : Folio) with
        ftype := 0x13, chset := 0xFFFF, count := a.length, payload := simulFolio a, slots := 1 } s)

/-! ### Frames (04 R112, R113) -/

/-- The lists of simultaneous mode: the host's, or those that the SAFE partition names (04 R113, R114). -/
def simulList (s : State) (q : Nat) : List Nat :=
  match s.conv.simul with
  | some k => k.lists.getD q []
  | none => ((enabledPairs s).flatMap fun p => [slotChan s (2 * p), slotChan s (2 * p + 1)]).filter fun c => decide (quireOf c = q)
def simulPeriod (s : State) : Nat := match s.conv.simul with | some k => k.period | none => 800

/-- The witnesses that convert in simultaneous mode. -/
def simulQuires (s : State) : List Nat := (servingQuires s).filter fun q => decide (witMode s q = 2)

/-- The results of a frame: entry j of a list is held 7 j strobe periods after the frame's start. -/
def frameResults (s : State) (start : Nat) (l : List (Nat × Int)) : List Conversion :=
  (simulQuires s).flatMap fun q => (simulList s q).zipIdx.filterMap fun p =>
    (l.find? (·.1 == p.1)).map fun v => convert s p.1 ((8 * (start + 7 * p.2) : Nat) : Int) false v.2

/-- The tick at which the last conversion of a frame has ended. -/
def frameEnd (s : State) (start : Nat) : Int :=
  8 * ((start : Int) + 7 * ((((simulQuires s).map fun q => (simulList s q).length).foldl max 0 : Nat) - 1 : Int)) + 37

/-- A frame's results in Root: each slot's member takes its result (15 R379). -/
def rootResults (l : List Conversion) (s : State) : State :=
  forAll (List.range 128) (fun m s =>
    match l.find? (fun v => decide (v.code = slotChan s m)) with
    | some v => setMember m { member s m with root := v.value, fresh := true } s
    | none => s) s

/-- SIMULTANEOUS_FRAME: the raw results of the frame that began at a strobe count, by code, go to the stream of host
simultaneous mode or to the safety island. In Root no grid exists, and the frames count on the safety oscillator (04 R94). -/
def simulFrame (start : Nat) (l : List (Nat × Int)) (s : State) : State :=
  if start % simulPeriod s ≠ 0 then s
  else match s.conv.simul with
    | some k => if nowTick s < frameEnd s start then s else simulFolios 4 k.stream (frameResults s start l) s
    | none => rootResults (frameResults s start l) s

def execSimultaneousFrame (at_ start : Nat) (l : List (Nat × Int)) (s : State) : Host.Outcome State Fault Refusal :=
  .next (simulFrame start l (s.tick at_))

end Sys2Proof.Machine
end

