-- ==== Sys2Proof/Machine/Image.lean ====
section
/-! DEFINITION. Firmware and microcode images in flash: header, state area, authentication and selection
(02 R45, R46; 16 R421). -/

namespace Sys2Proof.Machine

/-- A byte of a flash partition: an erased byte reads 0xFF. -/
def flashByte (t : Tab Nat) (i : Nat) : Nat := t.get i 255

/-- The canonical form of a partition: addresses rising, no listed byte equal to an erased one. -/
def Memory.wf : Tab Nat → Bool
  | [] => true
  | (i, v) :: r => v != 255 && (match r with | [] => true | (j, _) :: _ => decide (i < j)) && Memory.wf r

/-- Program bytes: one of 0xFF leaves its byte erased. -/
def programBytes (l : List (Nat × Nat)) (t : Tab Nat) : Tab Nat :=
  l.foldl (fun (t : Tab Nat) p => if p.2 = 255 then t else t.put p.1 p.2) t

/-- Bytes of a partition. -/
def flashBytes (t : Tab Nat) (off len : Nat) : List Byte := (span off len).map fun i => BitVec.ofNat 8 (flashByte t i)

/-- A little-endian field of the header. -/
def imgField (t : Tab Nat) (off len : Nat) : Nat := ofLe (flashBytes t off len)

/-- A byte of the state area counts as programmed unless it reads 0xFF. -/
def programmed (t : Tab Nat) (i : Nat) : Bool := decide (flashByte t i ≠ 255)

/-- Program a byte to 0x00. -/
def programByte (t : Tab Nat) (i : Nat) : Tab Nat := t.put i 0

/-- 0 BLANK, 1 TRIAL, 2 GOOD, 3 BAD. -/
def imgState (t : Tab Nat) : Nat :=
  if programmed t 450 then 3 else if programmed t 449 then 2 else if programmed t 448 then 1 else 0

/-- The try count. -/
def imgTries (t : Tab Nat) : Nat := ([451, 452, 453].filter (programmed t)).length

/-- A further try. -/
def imgTry (t : Tab Nat) : Tab Nat :=
  match [451, 452, 453].find? (fun i => !programmed t i) with
  | none => t
  | some i => programByte t i

def imgGeneration (t : Tab Nat) : Nat := imgField t 8 4
def imgSecurity (t : Tab Nat) : Nat := imgField t 12 2
def imgLock (t : Tab Nat) : Bool := bit 0 (flashByte t 14)
def imgLength (t : Tab Nat) : Nat := imgField t 16 4

/-- Partitions by number: 1 FW_A, 2 FW_B, 3 QUIRE_UCODE; their sizes and the KIND each holds. -/
def partition (s : State) (i : Nat) : Tab Nat :=
  match i with
  | 1 => s.flash.fwA
  | 2 => s.flash.fwB
  | _ => s.flash.ucode
def setPartition (i : Nat) (t : Tab Nat) (s : State) : State :=
  match i with
  | 1 => { s with flash.fwA := t }
  | 2 => { s with flash.fwB := t }
  | _ => { s with flash.ucode := t }
def partSize (i : Nat) : Nat := if i = 3 then 262144 else fwSize
def partKind (i : Nat) : Nat := if i = 3 then 2 else 1

/-- sha256_ok: the header's fields against the partition and the digest against the body. -/
def shaOk (i : Nat) (t : Tab Nat) : Bool :=
  decide (imgField t 0 4 = 0x4B414946 ∧ imgField t 4 2 = 1 ∧ imgField t 6 2 = partKind i
    ∧ 512 + imgLength t ≤ partSize i) && (sha256 (flashBytes t 512 (imgLength t)) == flashBytes t 24 32)

/-- ecdsa_p384_ok with the firmware-signing key. -/
def sigOk (t : Tab Nat) : Bool := Config.ecdsaOk 0 (sha256 (flashBytes t 0 256)) (flashBytes t 256 96)

/-- The checks of R46 and R421 on an image: 0 passed, else the reason 3 DIGEST, 4 SIGNATURE, 5 SECURITY_VERSION. -/
def imgCheck (s : State) (i : Nat) : Nat :=
  let t := partition s i
  if imgSecurity t < s.flash.fuses then 5 else if ¬ shaOk i t then 3 else if ¬ sigOk t then 4 else 0

/-- Change an image's state: TRIAL, GOOD or BAD. -/
def setImgState (i st : Nat) (s : State) : State :=
  setPartition i (programByte (partition s i) (if st = 1 then 448 else if st = 2 then 449 else 450)) s

/-- Candidates of R46, highest generation first; of equal generations FW_A first (log entry 27). -/
def candidates (s : State) : List Nat :=
  let ok := fun i => decide ((imgState (partition s i) = 1 ∨ imgState (partition s i) = 2)
    ∧ s.flash.fuses ≤ imgSecurity (partition s i))
  let l := if imgGeneration s.flash.fwA < imgGeneration s.flash.fwB then [2, 1] else [1, 2]
  l.filter ok

/-- select_image over a list of candidates: the state after its writes, the image taken, and those passed over with
their reasons. -/
def selectFrom : List Nat → State → State × Nat × List (Nat × Nat)
  | [], s => (s, 0, [])
  | i :: r, s =>
    let t := partition s i
    if imgState t = 1 ∧ 3 ≤ imgTries t then
      let x := selectFrom r (setImgState i 3 s)
      (x.1, x.2.1, (i, 2) :: x.2.2)
    else
      let s := if imgState t = 1 then setPartition i (imgTry t) s else s
      let c := imgCheck s i
      if c = 0 then (s, i, [])
      else
        let x := selectFrom r (setImgState i 3 s)
        (x.1, x.2.1, (i, c) :: x.2.2)

/-- Images that never were candidates: BAD, or below the fuse minimum; a BLANK partition holds no image. -/
def excluded (s : State) : List (Nat × Nat) :=
  [1, 2].filterMap fun i =>
    let t := partition s i
    if imgState t = 3 then some (i, 1)
    else if imgState t ≠ 0 ∧ imgSecurity t < s.flash.fuses then some (i, 5) else none

/-- select_image: the state after it, the image (0 none) and the rejected ones. -/
def selectImage (s : State) : State × Nat × List (Nat × Nat) :=
  let x := selectFrom (candidates s) s
  (x.1, x.2.1, excluded s ++ x.2.2)

/-- IMAGE_FALLBACK of a rejected image, journaled and raised (02 R46, 16 R407). Log entry 87. -/
def fallback (image reason : Nat) (s : State) : State :=
  raise (evB 0x0F01 0xFFFF (le 1 image ++ le 1 reason ++ zeros 6)) (jInternal 0xFF02 (le 1 image ++ le 1 reason) s)

/-- The digest of the ROM microcode (17 R426). -/
def romDigest : List Byte := (List.range 32).map Config.romDigest

end Sys2Proof.Machine
end

