-- ==== Sys2Proof/Machine/Quires.lean ====
section
/-! DEFINITION. Stitch links, the alignment of the sinc periods, the sideband's prepares, and a quire's way out of service
and back (01 R19 to R34; 17; 14 R366, R370, R371). -/

namespace Sys2Proof.Machine

/-! ### Marks of a sinc number that follows the last (01 R29) -/

/-- Extend the newest mark of a kind that ends at the number before, or add one. -/
def markOne (c : Nat) (kind : MarkKind) (m : Int) (s : State) : State :=
  let v := chan s c
  match v.marks.find? (fun k => k.kind == kind) with
  | some k =>
    if k.last = some (m - 1) then
      setChan c { v with marks := v.marks.map fun x => if x = k then { x with last := some m } else x } s
    else addMark c kind m (some m) s
  | none => addMark c kind m (some m) s

/-! ### Degraded ranges (01 R29, 17 R424; 10 R252) -/

/-- The channels of a stream that lie on a quire, with their slots. -/
def setOnQuire (s : State) (n q : Nat) : List (Nat × Nat) :=
  ((streamSet s n).zipIdx).filter fun p => decide (p.1 < 896 ∧ quireOf p.1 = q)

/-- Streams whose samples are named: running ones that the hub produces. -/
def producing (s : State) : List Nat := (runningStreams s).filter fun n => !isCapture s n && !isRelay s n

/-- The stretches of a stream's indices on one grid each: how far its numbers lie ahead, first and last index. -/
def gridSegs (first : Nat) : List Grid → List (Int × Nat × Option Nat)
  | [] => [(0, first, none)]
  | g :: r => (r.foldl (fun a x => a + x.delta) g.delta, first, some g.oldLast) :: gridSegs g.n0 r

/-- Indices of a stretch whose span includes sinc number m. -/
def indexRange (s : State) (n : Nat) (m : Int) (g : Int × Nat × Option Nat) : Nat × Nat :=
  let k := streamK s n
  let nn := streamN s n
  let w := fadeSpan (stream s n) k nn (stream s n).nNext
  let step : Int := ((2 ^ (k + 1) * nn : Nat) : Int)
  let last := ((m - g.1 + w.1) / step).toNat
  (max g.2.1 (-((-(m - g.1 - w.2)) / step)).toNat, match g.2.2 with | none => last | some l => min l last)

/-- A GAP record of samples delivered degraded: reason 3 or 4, quire q. -/
def degradedGap (s : State) (n reason q first last : Nat) : GapRec :=
  let l := setOnQuire s n q
  { mkGap s n reason 1 first last with
    quire := q, channels := l.length, firstSlot := (l.head?.map (·.2)).getD 0, lastSlot := (l.getLast?.map (·.2)).getD 0 }

/-- Name a range of a stream as degraded, from the first index of its grid that no record names yet. -/
def nameDegraded (n reason q first last : Nat) (s : State) : State :=
  let st := stream s n
  let bound := (st.grids.find? fun g => decide (first ≤ g.oldLast)).map (·.oldLast)
  let within : Nat → Bool := fun l => match bound with | none => true | some b => decide (l ≤ b)
  let first := st.named.foldl (fun a (r : Nat × Nat × Nat × Nat) =>
    if decide (r.2.1 = q) && within r.2.2.2 then max a (r.2.2.2 + 1) else a) (max first st.n0)
  let last := match bound with | some b => min last b | none => last
  let last := match st.nLast with | some l => min last l | none => last
  if (setOnQuire s n q).isEmpty ∨ last < first then s
  else
    let s := dueGap n (degradedGap s n reason q first last) s
    setStream n { stream s n with named := (stream s n).named ++ [(reason, q, first, last)] } s

/-- The samples that include sinc number m of a quire are named in every stream that carries them. -/
def lossGaps (reason q : Nat) (m : Int) (s : State) : State :=
  forAll (producing s) (fun n s => (gridSegs (stream s n).nNext (stream s n).grids).foldl (fun s g =>
    let r := indexRange s n m g
    nameDegraded n reason q r.1 r.2 s) s) s

/-! ### A sinc period enters the filter (01 R29; 03 R62, R69, R76; 04 R89, R115) -/

/-- The conversions of a stand-in for sinc number m: one at position A, two at position B (04 R115). -/
def standinCount (s : State) (c : Nat) (m : Int) : Nat :=
  if (chan s c).marks.any fun k => (k.kind == .standin || k.kind == .range) && k.covers m && k.atA then 1 else 2

/-- The witness gain at which a stand-in converts for sinc number m: within a range change that of the wider range (04 R115). -/
def standinGain (s : State) (c : Nat) (m : Int) : Nat :=
  let v := chan s c
  let g := gainOf s c
  b2n (decide (2 ≤ if v.marks.any (fun k => k.kind == .range && k.covers m) then min v.oldGain g else g))

/-- What a stand-in delivers for a channel at a sinc number, and whether a conversion was OVERRANGE. -/
def standinValue (s : State) (c : Nat) (m : Int) (oq : Option OpenQuire) : Option (Int × Bool) :=
  match oq.bind fun o => (o.standins.find? fun p => p.1 == c) with
  | none => none
  | some (_, l) =>
    if l.length ≠ standinCount s c m then none
    else
      let l := l.map fun x => convertAt s (standinGain s c m) c (200 * m) false x
      let w : Rat := (l.foldl (fun a (v : Conversion) => a + (v.value : Rat)) (0 : Rat)) / (l.length : Rat)
      some (standinUnits s c m w, l.any fun v => bit 1 v.status)

/-- A value enters a channel's history; `r` is what the modulator gave. -/
def pushHist (c : Nat) (m r x : Int) (s : State) : State :=
  let v := chan s c
  setChan c { v with hist := x :: v.hist, raw := r :: v.raw, histNew := m, histFirst := if v.hist.isEmpty then m else v.histFirst } s

/-- The output of a channel for a sinc number: held, a stand-in value, what arrived, or lost. `f` is the state with the
settings of that number. What enters the filter beyond the nominal range sets O, whatever it is; a hold of any rule takes
precedence over a stand-in (log entries 122 and 126). -/
def closeChan (f : State) (m : Int) (oq : Option OpenQuire) (c k : Nat) (s : State) : State :=
  let v := chan s c
  let prev := v.hist.headD 0
  let step := sincStep (modGain f c)
  let word := oq.bind fun o => (o.outs.find? fun p => p.1 == k).map (·.2)
  let push := fun (x : Int) s =>
    when_ (decide (2 ^ 27 * step < |x|)) (markOne c .over m) (pushHist c m ((word.map (· * step)).getD (v.raw.headD 0)) x s)
  let lost := fun s => markOne c .lost m (push prev s)
  let outside := (oq.map (·.common)).getD [] |>.contains k
  let s := when_ outside (markOne c .over m) s
  if heldAt s c m ∨ (v.marks.any fun x => x.kind.holds && x.covers m) then
    let gone := word.isNone && (quire s (modQuire c)).running && !(v.marks.any fun x => x.kind == .out && x.covers m)
    when_ gone (markOne c .lost m) (push prev s)
  else if v.marks.any fun x => (x.kind == .standin || x.kind == .range) && x.covers m then
    match standinValue f c m oq with
    | some (x, high) => when_ high (markOne c .over m) (push x s)
    | none => lost s
  else
    match word with
    | some x => push (phaseSign f c m * x * step) s
    | none => lost s

/-- The temperatures of a quire for a sinc number. -/
def closeTemps (q : Nat) (m : Int) (oq : Option OpenQuire) (s : State) : State :=
  let e := ensOf s q
  match oq.bind (·.temps) with
  | none => setEns q { e with thetaLost := m :: e.thetaLost } s
  | some (l, isl) =>
    let t := if l.isEmpty then 3 * e.theta else sumInt l
    let same := match e.thetas.head? with | none => false | some p => decide (e.thetaFrom ≤ p.1 ∧ p.2 = t)
    let d := e.dayIsl
    let w := witOf s q
    let far := decide (cf s 0x0501 q 0x00 31 16 < (roundAway ((t : Rat) / 3) - w.calTheta).natAbs)
    let s := if far && w.calFar.isNone then setWit q { w with calFar := some s.now } s else s
    setEns q { e with theta := roundAway ((t : Rat) / 3), island := isl,
                      dayIsl := if d.1 = 0 then (1, isl, isl, isl) else (d.1 + 1, d.2.1 + isl, min d.2.2.1 isl, max d.2.2.2 isl),
                      thetas := if same then e.thetas else (m, t) :: e.thetas } s

/-- A stand-in whose last output has come gives its position back; a calibration's says when (04 R105, R118). -/
def standinOver (m : Int) (v : StandIn) : Bool :=
  decide (v.kind < 2) && (match v.last with | none => false | some l => decide (l ≤ m))
def freePosition (m : Int) (p : Option StandIn) : Option StandIn := p.filter fun v => !standinOver m v
def freePositions (q : Nat) (m : Int) (s : State) : State :=
  let w := witOf s q
  if w.posA.isNone ∧ w.posB.isNone then s
  else
    let freed := [w.posA, w.posB].any fun p => p.any fun v => v.kind == 1 && standinOver m v
    setWit q { w with posA := freePosition m w.posA, posB := freePosition m w.posB,
                      calFreed := if freed then s.now else w.calFreed } s

/-- A quire's side of a period. -/
def closeQuire (f : State) (m : Int) (o : Option OpenPeriod) (q : Nat) (s : State) : State :=
  let oq := o.bind fun p => p.quires.find? fun x => x.quire == q
  let s := forAll (List.range 130) (fun k s => closeChan f m oq (modCode q k) k s) s
  let lost := (span (128 * q) 128).any fun c => (chan s c).marks.any fun x => x.kind == .lost && x.covers m
  let s := freePositions q m (when_ lost (lossGaps 3 q m) s)
  if (quire s q).running && decide ((ensOf s q).thetaFrom ≤ m) then closeTemps q m oq s else s

/-- Close one period on every quire. -/
def closeOne (m : Int) (s : State) : State :=
  let f := s.at m
  let o := s.conv.opens.find? fun p => p.number == m
  let s := forAll (quireList s) (closeQuire f m o) s
  { s with conv.opens := s.conv.opens.filter fun p => decide (m < p.number), conv.closed := some m }

/-- Every populated and in-service quire's outputs of a period have arrived. -/
def arrived (s : State) (p : OpenPeriod) : Bool :=
  (quireList s).all fun q => !(inService s q && (quire s q).running) ||
    (match p.quires.find? (fun x => x.quire == q) with | none => false | some x => decide (130 ≤ x.outs.length))

/-- SINC_PERIOD_CLOSE of sinc number m: all in-service quires have arrived, or 8 sinc periods have passed since the first;
periods before it that are still open close with it. -/
def periodClose (m : Int) (s : State) : State :=
  match s.conv.opens.find? fun p => p.number == m with
  | none => s
  | some p =>
    if arrived s p ∨ p.firstAt + 8 * sincU ≤ s.now then
      let from_ := match s.conv.closed with | none => m | some k => k + 1
      (List.range (m + 1 - from_).toNat).foldl (fun s (i : Nat) => closeOne (from_ + (i : Int)) s) s
    else s

def execSincPeriodClose (at_ : Nat) (m : Int) (s : State) : Host.Outcome State Fault Refusal :=
  .next (periodClose m (s.tick at_))

/-! ### A drain (17 R423, R424) -/

/-- The warming state as MG_WARMING gives it (02 R49). -/
def warmCode (s : State) (q : Nat) : Nat :=
  if s.part.quires ≤ q then 0 else if (quire s q).svc = 2 then 6 else (ensOf s q).warm

/-- EVENT 0x0710 at a change of warming state. -/
def warmEvent (q old new : Nat) (s : State) : State :=
  if old = new then s else raise (evB 0x0710 q (le 1 q ++ le 1 old ++ le 1 new ++ zeros 5)) s

/-- The channel codes of a quire, its keepers included. -/
def quireCodes (q : Nat) : List Nat := (List.range 130).map (modCode q)

/-- Step 2: from sinc number m on the quire's outputs are taken no more. -/
def drainEdge (q : Nat) (m : Int) (s : State) : State :=
  let s := breakStandins q m 5 s
  let s := forAll (quireCodes q) (fun c s => addMark c .out m none s) s
  let s := forAll ((span (128 * q) 128).flatMap (slotsOf s)) (fun k s => setMember k { member s k with cause := 1 } s) s
  setQuire q { quire s q with outSince := max 1 s.now, warmHeld := (ensOf s q).warm } s

/-- The final reply of a CAL_EXT_STD, quires ascending (07 R177). Log entry 74. -/
def extReply (x : ExtStd) : List Byte :=
  (List.range 8).flatMap fun q => (x.done.filter fun (d : Nat × Nat × Int × Nat) => d.1 == q).flatMap fun d =>
    le 1 d.1 ++ le 1 d.2.1 ++ le 2 0 ++ leS 4 d.2.2.1 ++ le 4 d.2.2.2

/-- When KEEPq.1 turns to a transfer: at once, or after the RTD current that it measures, which a run's first 16.00390625 ms
take (07 R161, R169). -/
def extTurn (s : State) (l : List Nat) : Nat :=
  match l with
  | [] => s.now
  | q :: _ =>
    (span (128 * q) 128).foldl (fun a c => match (chan s c).run with
      | some r => if r.state = 2 ∧ rtdSource s c then max a (r.since + 4097 * sincU) else a
      | none => a) s.now

/-- The transfer goes on to its next quire, or ends with its entry, which has the old values too, and its reply.
Log entry 74. -/
def extNext (x : ExtStd) (s : State) : State :=
  if x.todo.isEmpty then
    let s := { s with cal.ext := none }
    answerOr x.req stOk (extReply x) 0x0714 (if x.done.any (fun d => decide (d.2.1 = 0)) then
      jDone x.req (extReply x ++ x.olds.flatMap (leS 4)) s else s)
  else { s with cal.ext := some { x with since := extTurn s x.todo } }

/-- Quires whose transfer is ABANDONED; its uncertainty is a free value (log entry 35). -/
def extLost (l : List Nat) (s : State) : State :=
  match s.cal.ext with
  | none => s
  | some x =>
    let gone := x.todo.filter l.contains
    if gone.isEmpty then s
    else
      let y := { x with todo := x.todo.filter fun q => !l.contains q, olds := x.olds ++ gone.map fun q => ppb (ensOf s q).kExt,
                        done := x.done ++ gone.map fun q => (q, 2, ppb (ensOf s q).kExt, (Config.abandonedU q).toNat) }
      -- the quire at hand goes on with its readings, unless it is the one that is gone
      if y.todo.head? = x.todo.head? then { s with cal.ext := some y } else extNext y s

/-- Step 1: calibration is abandoned and injections end with QUIRE_LOST. -/
def drainBegin (q : Nat) (s : State) : State :=
  let s := match calStandin s q with
    | some v => abandonCal v.channel 7 (sincNext s) s
    | none =>
      match (span (128 * q) 128).find? (fun c => (chan s c).run.any fun r => decide (r.state = 2)) with
      | some c => abandonCal c 7 (sincNext s) s
      | none => s
  endInjections q 3 (extLost [q] s)

/-- Steps 3 and 4: modulators, keepers and witness stop; SVC reads OUT_OF_SERVICE. -/
def quireStop (q : Nat) (s : State) : State :=
  let v := quire s q
  let old := warmCode s q
  let e := ensOf s q
  let s := setQuire q { v with svc := 2, running := false, drainReq := none, drainEdge := none, drainAcks := [] } s
  let s := setWit q { witOf s q with state := 4 } s
  let s := compDone q false (setEns q { e with comparing := 0 } s)
  let s := warmEvent q old 6 (raiseOnce (evL 0x0202 q) s)
  match v.drainReq with
  | none => s
  | some r => answerOr r stOk [] 0x1010 s

/-- A load or a re-entry of a quire that fails (17 R426, R427): it stops again. Log entry 91. -/
def serviceFailed (q ecode : Nat) (s : State) : State :=
  let v := quire s q
  let s := setQuire q { v with reentry := 0, reentryReq := none, running := false, sweep := false, sweepLeft := [],
                               loading := none, loaded := v.loaded && v.loading.isNone,
                               digest := if v.loading.isSome ∧ v.digest ≠ zeros 32 then romDigest else v.digest } s
  let s := match v.reentryReq with | some r => faulted r ecode s | none => s
  match v.loading with | some r => faulted r ecode s | none => s

/-- A quire whose modulators have not started goes out of service, with the event that says why (01 R23, R25; 02 R49). -/
def neverStarted (q ecode : Nat) (s : State) : State :=
  let old := warmCode s q
  let s := setQuire q { quire s q with svc := 2, outSince := max 1 s.now } s
  let s := setWit q { witOf s q with state := 4 } s
  warmEvent q old 6 (raiseOnce (evL ecode q) s)

/-- A link or a sideband that fails takes its quire out of service (01 R22, R23). -/
def linkFailed (q : Nat) (s : State) : State :=
  let v := quire s q
  if v.svc = 2 then
    if v.loading.isSome then serviceFailed q 0x0F02 (raise (ev 0x0F02 q) s)
    else if v.reentry ≠ 0 then serviceFailed q 0x0202 s else s
  else if ¬ v.running then
    neverStarted q 0x0202 s
  else if v.outSince ≠ 0 then s
  else
    let m := match s.conv.closed with | none => sincNext s | some k => k + 1
    drainEdge q m (drainBegin q (setQuire q { v with svc := 1, drainEdge := none } s))

/-- QUIRE_STOP: 1 ms after the drain edge. -/
def stopAt (q : Nat) (s : State) : State :=
  let v := quire s q
  if v.svc = 1 ∧ v.outSince ≠ 0 ∧ v.outSince + msU ≤ s.now then quireStop q s else s

def execQuireStop (at_ q : Nat) (s : State) : Host.Outcome State Fault Refusal := .next (stopAt q (s.tick at_))

/-! ### Frames (01 R20 to R22) -/

/-- The sinc number nearest to now that a 16-bit period sequence number stands for (04 R93). -/
def unwrapPeriod (s : State) (tag : Nat) : Int :=
  sincNow s + ((((tag : Int) - sincNow s + 32768) % 65536) - 32768)

/-- What a good frame brings joins its open period. A late frame counts once in LATE_DISCARDED: R29 names no unit (log
entry 38). Log entry 97. -/
def takeFrame (f : StitchFrame) (s : State) : State :=
  let m := unwrapPeriod s f.period
  let q := f.quire
  if (match s.conv.closed with | none => false | some k => decide (m ≤ k)) then
    setQuire q { quire s q with late := ((quire s q).late + 1) % 2 ^ 32 } s
  else
    let add := fun (o : OpenQuire) =>
      { o with outs := o.outs ++ f.outputs, standins := o.standins ++ f.standins,
               temps := if f.temps.isSome then f.temps else o.temps, common := o.common ++ f.common }
    let fresh : OpenQuire := add { (default : OpenQuire) with quire := q }
    let join := fun (l : List OpenQuire) =>
      if l.any (·.quire == q) then l.map (fun o => if o.quire = q then add o else o) else l ++ [fresh]
    if s.conv.opens.any (·.number == m) then
      { s with conv.opens := s.conv.opens.map fun (p : OpenPeriod) =>
          if p.number = m then { p with quires := join p.quires } else p }
    else { s with conv.opens := s.conv.opens ++ [{ number := m, firstAt := s.now, quires := [fresh] }] }

/-- The results of injected conversions that a frame brings. -/
def takeInjected (f : StitchFrame) (s : State) : State := f.injected.foldl (injectTaken f.quire) s

/-- Four losses in succession: the frame numbers of a run of four that holds `seq` are all among them. -/
def fourInRow (l : List Nat) (seq : Nat) : Bool :=
  (List.range 4).any fun i => (List.range 4).all fun j => l.contains ((seq + 65536 + j - i) % 65536)

/-- A frame is lost after its third attempt; a link that loses too many is taken out of service (01 R21, R22). Frame numbers
come round in 10.24 ms: losses of the last 5 ms count as in succession. -/
def loseFrame (q seq : Nat) (s : State) : State :=
  let v := quire s q
  let l := (s.now, seq) :: v.lossAt.filter fun x => decide (s.now < x.1 + secU)
  let recent := (l.filter fun x => decide (s.now < x.1 + 5 * msU)).map (·.2)
  let v := { v with lost := (v.lost + 1) % 2 ^ 32, lossAt := l, tries := v.tries.filter fun x => x.1 != seq }
  let s := raise (evB 0x0201 q (le 1 q ++ zeros 3 ++ le 4 v.lost)) (setQuire q v s)
  if 16 < l.length ∨ fourInRow recent seq then linkFailed q s else s

/-- A frame fails its check: a replay is requested, or its third attempt has failed (01 R21). -/
def frameFails (f : StitchFrame) (s : State) : State :=
  let q := f.quire
  let v := { quire s q with crcFails := ((quire s q).crcFails + 1) % 2 ^ 32 }
  match v.tries.find? (fun x => x.1 == f.seq) with
  | some (_, 2, _) => loseFrame q f.seq (setQuire q v s)
  | some _ =>
    toQuire q 0 f.seq (setQuire q { v with replays := (v.replays + 1) % 2 ^ 32,
                                           tries := v.tries.map fun x => if x.1 = f.seq then (x.1, 2, x.2.2) else x } s)
  | none =>
    toQuire q 0 f.seq (setQuire q { v with replays := (v.replays + 1) % 2 ^ 32, tries := (f.seq, 1, s.now) :: v.tries } s)

/-- A frame that had failed has arrived whole; the longest such wait in ns (14 R366). -/
def frameReplayed (q seq : Nat) (s : State) : State :=
  let v := quire s q
  match v.tries.find? (fun x => x.1 == seq) with
  | some (_, _, t) =>
    setQuire q { v with tries := v.tries.filter fun x => x.1 != seq, longest := max v.longest ((s.now - t) / 65536) } s
  | none => s

/-- STITCH_FRAME_RECEIVE. Of a quire that re-enters only the temperature words count before E_r (06 R153, 17 R427). -/
def frameIn (f : StitchFrame) (s : State) : State :=
  let q := f.quire
  if s.part.quires ≤ q ∨ ¬ (quire s q).running then s
  else if crc32c f.body ≠ f.crc then frameFails f s
  else
    let s := frameReplayed q f.seq s
    if (quire s q).svc < 2 then takeInjected f (takeFrame f s)
    else takeFrame { f with outputs := [], standins := [], common := [] } s

def execStitchFrameReceive (at_ : Nat) (f : StitchFrame) (s : State) : Host.Outcome State Fault Refusal :=
  .next (frameIn f (s.tick at_))

/-- SIDEBAND_POLL_TIMEOUT: a quire has not answered within 1 ms (01 R23). -/
def execSidebandPollTimeout (at_ q : Nat) (s : State) : Host.Outcome State Fault Refusal :=
  .next (if q < s.part.quires then linkFailed q (s.tick at_) else s.tick at_)

/-- A sinc output is lost, before its period closes or after: the previous value stands in its place (01 R18, R29). -/
def loseOutput (m : Int) (c : Nat) (s : State) : State :=
  let v := chan s c
  let i := (v.histNew - m).toNat
  let s := if m ≤ v.histNew ∧ i + 1 < v.hist.length then
      setChan c { v with hist := v.hist.set i (v.hist.getD (i + 1) 0) } s
    else s
  addMark c .lost m (some m) s

/-- The channels whose output of sinc number m comes from the witness. -/
def onWitness (s : State) (q : Nat) (m : Int) : List Nat :=
  (span (128 * q) 128).filter fun c => (chan s c).marks.any fun x => (x.kind == .standin || x.kind == .range) && x.covers m

/-- CROSSING_FIFO_FULL: the stall of a crossing loses the modulators' outputs of a period (crossing 0), the witness's results
for it (1), or frames of a lane (any other), whose folios the store still holds (01 R18; log entry 39). -/
def crossingFull (crossing q : Nat) (m : Int) (s : State) : State :=
  let s := raise (evB 0x0204 q (le 1 crossing ++ le 1 q ++ zeros 6)) s
  let hit := if crossing = 0 then quireCodes q else if crossing = 1 then onWitness s q m else []
  if ¬ inService s q ∨ hit.isEmpty then s else lossGaps 4 q m (forAll hit (loseOutput m) s)

def execCrossingFifoFull (at_ crossing q : Nat) (m : Int) (s : State) : Host.Outcome State Fault Refusal :=
  .next (crossingFull crossing q m (s.tick at_))

/-! ### Deskew (01 R25) -/

/-- The step of a required delay in ps, 4 ps each, the nearest to it (log entry 40); none outside 0 to 1,020 ps. -/
def deskewStep (need : Int) : Option Nat := if 0 ≤ need ∧ need ≤ 1020 then some ((need + 2) / 4).toNat else none

/-- First whole second of device time at or after a device time. -/
def secondCeil (t : Int) : Nat := (-((-t) / (secU : Int))).toNat

/-- DESKEW_MEASUREMENT: the delay that a quire's round trip requires, in ps. Log entry 91. -/
def deskew (q : Nat) (need : Int) (s : State) : State :=
  let v := quire s q
  if s.part.quires ≤ q ∨ s.time.rawStart.isNone then s
  else if v.reentry = 1 then
    -- the quire has answered and reported its digest in step 2 (17 R427)
    let v := { v with digest := if v.loaded then v.digest else romDigest }
    let s := setQuire q v s
    match deskewStep need with
    | none => serviceFailed q 0x0203 (raiseOnce (evL 0x0203 q) s)
    | some d =>
      let s := clearCause 0x0203 q s
      setQuire q { v with delay := d, measured := true, reentry := 2,
                          reentryEdge := secondCeil (devNow s + (1250 * usU : Nat)) } s
  else if v.svc = 2 then s
  else if ¬ v.running then
    match deskewStep need with
    | none => neverStarted q 0x0203 s
    | some d => setQuire q { v with delay := d, measured := true } s
  else if s.boot.stage ≠ 3 ∨ (v.deskewAt ≠ 0 ∧ s.now < v.deskewAt + secU) then s
  else
    let have_ : Int := ((4 * v.delay : Nat) : Int)
    if have_ + 10 < need then setQuire q { v with delay := min 255 (v.delay + 1), deskewAt := max 1 s.now } s
    else if need + 10 < have_ then setQuire q { v with delay := v.delay - 1, deskewAt := max 1 s.now } s
    else s

def execDeskewMeasurement (at_ q : Nat) (need : Int) (s : State) : Host.Outcome State Fault Refusal :=
  .next (deskew q need (s.tick at_))

/-! ### Prepares over the sideband (01 R33) -/

/-- The latest device time at which a quire's acknowledgement of an edge counts. -/
def ackLimit (edge : Nat) : Int := ((edge * strobeU : Nat) : Int) - (50 * usU : Nat)

/-- Every quire in service has acknowledged. -/
def allAcked (s : State) (acks : List Nat) : Bool := (servingQuires s).all acks.contains

/-- SIDEBAND_PREPARE_ACK of a quire for an edge, by strobe count. The last acknowledgement of a commit sends its apply
(01 R19; log entry 41). -/
def prepareAck (q edge : Nat) (s : State) : State :=
  if ackLimit edge < devNow s then s
  else
    let ready := s.cz.commits.any fun c => decide (c.edge = edge) && !allAcked s c.acks && allAcked s (q :: c.acks)
    let s := { s with cz.commits := s.cz.commits.map fun (c : PendCommit) => if c.edge = edge then { c with acks := q :: c.acks } else c }
    let s := when_ ready (fun s => forAll (servingQuires s) (fun q => toQuire q 3 edge) s) s
    let s := match s.time.step with
      | some x => if x.edge = edge then { s with time.step := some { x with acks := q :: x.acks } } else s
      | none => s
    let v := quire s q
    if v.drainEdge = some edge then setQuire q { v with drainAcks := q :: v.drainAcks } s else s

def execSidebandPrepareAck (at_ q edge : Nat) (s : State) : Host.Outcome State Fault Refusal :=
  .next (prepareAck q edge (s.tick at_))

/-- The in-service quires whose acknowledgement is missing. -/
def lateQuires (s : State) (acks : List Nat) : List Nat := (servingQuires s).filter fun q => !acks.contains q

/-- A prepare is withdrawn: PREPARE_LATE names each late quire. -/
def withdraw (edge : Nat) (on late : List Nat) (s : State) : State :=
  let s := forAll on (fun q => toQuire q 2 edge) s
  forAll late (fun q => raise (evB 0x0205 q (le 1 q ++ zeros 3 ++ le 4 edge))) s

/-- The instances of a commit that fails return to the session's staging area, except those staged anew (13 R341). -/
def returnItems (c : PendCommit) (s : State) : State :=
  onSession c.req.session (fun v =>
    { v with staged := v.staged ++ c.items.filter fun x => !(v.staged.any fun y => y.block == x.block && y.inst == x.inst) }) s

/-- A commit whose prepare is late: nothing changes and the blocks are staged again. -/
def commitLate (c : PendCommit) (s : State) : State :=
  let late := lateQuires s c.acks
  if late.isEmpty then s
  else
    let s := withdraw c.edge (servingQuires s) late s
    faultedOr c.req 0x0205 (returnItems c { s with cz.commits := s.cz.commits.filter fun x => x != c })

/-- A step of device time whose prepare is late: a first lock is prepared again while its source still qualifies (08 R199,
R205). -/
def stepLate (edge : Nat) (s : State) : State :=
  match s.time.step with
  | none => s
  | some x =>
    let late := lateQuires s x.acks
    if x.edge ≠ edge ∨ late.isEmpty then s
    else
      let s := withdraw edge (servingQuires s) late { s with time.step := none }
      match x.req with
      | some r => faulted r 0x0205 s
      | none => tryLock x.source s

/-- A drain whose prepare is late. -/
def drainLate (edge q : Nat) (s : State) : State :=
  let v := quire s q
  if v.drainEdge = some edge ∧ v.svc = 1 ∧ v.outSince = 0 ∧ v.drainAcks.isEmpty then
    let s := withdraw edge [q] [q] (setQuire q { v with svc := 0, drainEdge := none, drainReq := none } s)
    match v.drainReq with | some r => faulted r 0x0205 s | none => s
  else s

/-- DRAIN_EDGE: the prepared edge of a drain, if the quire has acknowledged it (17 R423 step 2; 01 R33). -/
def drainAt (q : Nat) (s : State) : State :=
  let v := quire s q
  match v.drainEdge with
  | none => s
  | some e =>
    if v.svc = 1 ∧ v.outSince = 0 ∧ (e * strobeU : Nat) ≤ devNow s then
      if v.drainAcks.isEmpty then drainLate e q s else drainEdge q ((e / 25 : Nat) : Int) s
    else s

def execDrainEdge (at_ q : Nat) (s : State) : Host.Outcome State Fault Refusal := .next (drainAt q (s.tick at_))

/-- PREPARE_DEADLINE: 50 us before an edge. -/
def prepareDeadline (edge : Nat) (s : State) : State :=
  if devNow s < ackLimit edge then s
  else
    let s := (s.cz.commits.filter (·.edge == edge)).foldl (fun s c => commitLate c s) s
    forAll (quireList s) (drainLate edge) (stepLate edge s)

def execPrepareDeadline (at_ edge : Nat) (s : State) : Host.Outcome State Fault Refusal :=
  .next (prepareDeadline edge (s.tick at_))

/-! ### The service commands (14 R370; 17) -/

/-- A quire that the variant populates, in a body of `quire, then three bytes`. -/
def quireOk (flags : Nat) (r : Req) (s : State) : Bool :=
  decide (r.params.length = 4 ∧ r.f 0 1 < s.part.quires ∧ r.f 1 1 ≤ flags) && zeroAt 2 2 r

/-- Operator, or Safety Officer when the quire holds a member. -/
def quireRole (r : Req) (s : State) : Nat := if (span (128 * r.f 0 1) 128).any (isMember s) then 3 else 1

/-- A drain or a re-entry of any quire runs. -/
def serviceBusy (s : State) : Bool := (quireList s).any fun q => decide ((quire s q).svc = 1 ∨ (quire s q).reentry ≠ 0)

/-- Every pair with a member on the quire is NORMAL and its other member is available and elsewhere (15 R394). -/
def pairsSpared (s : State) (q : Nat) : Bool :=
  ((span (128 * q) 128).flatMap (slotsOf s)).all fun m =>
    decide ((safePair s (m / 2)).state = 1) && available s (other m) && decide (quireOf (slotChan s (other m)) ≠ q)

def drainServe : Packet → State → State :=
  serve 0x0B05 quireRole (quireOk 0) fun r s =>
    let q := r.f 0 1
    if (quire s q).svc = 2 then refuse r stOut s
    else if serviceBusy s || s.conv.simul.isSome || !pairsSpared s q then refuse r stConflict s
    else
      let edge := 25 * (sincCeil (devNow s + (msU : Int))).toNat
      let s := jCommand r true 1 r.params s
      let s := setQuire q { quire s q with svc := 1, drainEdge := some edge, drainReq := some r, drainAcks := [], outSince := 0 } s
      drainBegin q (toQuire q 1 edge (queued r [] s))

def execQuireDrain (at_ : Nat) (p : Packet) (s : State) : Host.Outcome State Fault Refusal :=
  .next (receive 0x0B05 p drainServe (s.tick at_))

def reenterServe : Packet → State → State :=
  serve 0x0B06 quireRole (quireOk 1) fun r s =>
    let q := r.f 0 1
    let v := quire s q
    if v.svc ≠ 2 ∨ v.reentry ≠ 0 ∨ v.loading.isSome then refuse r stConflict s
    else
      let s := setQuire q { v with reentry := 1, reentryReq := some r, sweep := bit 0 (r.f 1 1), sweepLeft := [] } s
      toQuire q 5 0 (queued r [] s)

def execQuireReenter (at_ : Nat) (p : Packet) (s : State) : Host.Outcome State Fault Refusal :=
  .next (receive 0x0B06 p reenterServe (s.tick at_))

/-- A transfer to QUIRE_UCODE is open. -/
def ucodeTransfer (s : State) : Bool := match s.cz.fw with | none => false | some f => decide (f.target = 3)

def ucodeServe : Packet → State → State :=
  serve 0x0B07 tableRole (quireOk 0) fun r s =>
    let q := r.f 0 1
    let v := quire s q
    if v.svc ≠ 2 ∨ v.reentry ≠ 0 ∨ v.loading.isSome ∨ ucodeTransfer s = true then refuse r stConflict s
    else
      let s := queued r [] s
      if imgCheck s 3 ≠ 0 ∨ (imgState s.flash.ucode ≠ 1 ∧ imgState s.flash.ucode ≠ 2) then
        faulted r 0x0F02 (raise (ev 0x0F02 q) s)
      else toQuire q 4 0 (setQuire q { v with loading := some r } s)

def execUcodeLoad (at_ : Nat) (p : Packet) (s : State) : Host.Outcome State Fault Refusal :=
  .next (receive 0x0B07 p ucodeServe (s.tick at_))

/-- UCODE_LOAD_DONE: the digest that the quire reports of what it holds (17 R426). -/
def ucodeDone (q : Nat) (digest : List Byte) (s : State) : State :=
  let v := quire s q
  match v.loading with
  | none => s
  | some r =>
    if digest = flashBytes s.flash.ucode 24 32 then
      let s := setQuire q { v with loading := none, loaded := true, digest := digest } s
      answer r stOk digest (jDone r digest s)
    else serviceFailed q 0x0F02 (raise (ev 0x0F02 q) (setQuire q { v with digest := romDigest } s))

def execUcodeLoadDone (at_ q : Nat) (digest : List Byte) (s : State) : Host.Outcome State Fault Refusal :=
  .next (ucodeDone q digest (s.tick at_))

/-- REENTRY_MODULATOR_START (17 R427 step 4). -/
def reentryStart (q : Nat) (s : State) : State :=
  let v := quire s q
  if v.reentry = 2 ∧ (v.sweep ∨ ((v.reentryEdge * secU : Nat) : Int) - msU ≤ devNow s) then
    let s := setEns q { ensOf s q with thetaFrom := sincNext s } s
    setQuire q { v with reentry := 3, running := true, sweepLeft := if v.sweep then span (128 * q) 128 else [] } s
  else s

def execReentryModulatorStart (at_ q : Nat) (s : State) : Host.Outcome State Fault Refusal :=
  .next (reentryStart q (s.tick at_))

/-- The words in force before a sinc number are kept for the outputs before it (01 R32). -/
def pushPast (m : Int) (s : State) : State := { s with past := (m, s.cfg) :: s.past }

/-- The staged fields of a word replace those in force: RW and RS (13 R339). -/
def stagedBits (b inst off old new : Nat) : Nat :=
  let m := accMask .rw b inst off ||| accMask .rs b inst off
  (old - (old &&& m)) + (new &&& m)

/-- ACCESS_POLICY is programmed into KEYS; a first write makes a BLANK partition VALID (16 R401). -/
def putPolicy (v : Nat) (s : State) : State :=
  programKeys { s.cz.keys with anonEn := bit 3 v, anonRole := v % 8, state := max 1 s.cz.keys.state } s

/-- The write-only bits that a staged instance writes to a word. -/
def writeOnly (b : Staged) (k : Nat) : Nat := ((b.words.find? (·.1 == k)).map (·.2)).getD 0 &&& accMask .wo b.block b.inst k

/-- Words of a block instance come into force. -/
def applyItem (b : Staged) (s : State) : State :=
  b.words.foldl (fun s w =>
    if b.block = 0x0C01 then (if w.1 = 0 then putPolicy w.2 s else s)
    else putWord b.block b.inst w.1 (stagedBits b.block b.inst w.1 (word s b.block b.inst w.1) w.2) s) s

/-- Words of blocks come into force. Log entry 116. -/
def applyWords (l : List Staged) (s : State) : State := l.foldl (fun s b => applyItem b s) s

/-- The DISCONTINUITY record of a re-entry in a stream that carries channels of the quire (17 R428). -/
def reentryRecord (q : Nat) (t : Int) (n : Nat) (s : State) : State :=
  match setOnQuire s n q with
  | [] => s
  | p :: r =>
    let i := indexCeil s n t
    dueDisc n { mkDisc s 3 i (i - 1) (le 1 q) with channel := p.1, count := r.length + 1 } s

/-- REENTRY_RELEASE_EDGE: step 5 at the whole second E_r; the island's departure from 90 C in microkelvin, and whether it
stayed within 0.01 K throughout (17 R427 to R430). Log entry 116. -/
def reentryRelease (q : Nat) (island : Int) (held : Bool) (s : State) : State :=
  let v := quire s q
  let t : Int := ((v.reentryEdge * secU : Nat) : Int)
  if v.reentry ≠ 3 ∨ ¬ v.sweepLeft.isEmpty ∨ devNow s < t then s
  else
    let m := sincCeil t
    let e := ensOf s q
    let warm := if held ∧ v.warmHeld ≠ 0 then v.warmHeld else if island.natAbs ≤ 1000000 then 2 else 1
    -- the excitation groups that the blocks switch have their event at E_r (03 R76)
    let insts := fun (b : Nat) => (v.held.filter (·.block == b)).map (·.inst)
    let new := publish (insts 0x0101) (instantOf s (sincTime m)).toNat true (applyWords v.held) (pushPast m s)
    let s := excChanges s m (insts 0x0102) new
    let s := forAll (quireCodes q) (fun c s => setChan c { chan s c with histFirst := m } (endMarks c .out (m - 1) s)) s
    let s := setQuire q { v with svc := 0, reentry := 0, reentryReq := none, sweep := false, held := [], outSince := 0,
                                 lossAt := [], tries := [] } s
    let s := setWit q { witOf s q with failRow := 0, passRow := 0 } s
    let s := if s.conv.simul.isSome then setWit q { witOf s q with state := 2 } s else startRobin q s
    let s := setEns q { e.warmed warm m with island := island, leftCold := if held then e.leftCold else s.now } s
    let s := forAll ((span (128 * q) 128).flatMap (slotsOf s)) (fun k s => setMember k { member s k with from_ := m } s) s
    let s := forAll (producing s) (reentryRecord q t) s
    let s := resumePerm q m s
    let s := (v.held.filter (·.block == 0x0104)).foldl (fun s y => toneWritten y.inst (writeOnly y 0x0C) s) s
    let s := forAll ((s.cz.commits.map (·.edge)).eraseDups) (fun x => toQuire q 1 x) s
    let s := match s.time.step with | some x => toQuire q 1 x.edge s | none => s
    let s := warmEvent q 6 warm (raise (ev 0x0210 q) (clearCause 0x0202 q s))
    match v.reentryReq with
    | none => s
    | some r => answerOr r stOk [] 0x1010 (jDone r [] s)

def execReentryReleaseEdge (at_ q : Nat) (island : Int) (held : Bool) (s : State) : Host.Outcome State Fault Refusal :=
  .next (reentryRelease q island held (s.tick at_))

/-! ### Permanent stand-ins (14 R371; 17 R431 to R434) -/

def standinOk (r : Req) (s : State) : Bool :=
  decide (r.params.length = 4) && isChan s (r.f 0 2) && decide (r.f 2 1 ≤ 1) && zeroAt 3 1 r

def standinRole (r : Req) (s : State) : Nat := if isMember s (r.f 0 2) then 3 else 1

/-- STANDIN_SET is refused (04 R116, 15 R394, 17 R431). -/
def standinRefused (s : State) (c : Nat) : Bool :=
  let q := quireOf c
  let w := witOf s q
  w.perm.isSome || s.conv.simul.isSome || decide (w.state = 3)
    || (w.posA.isSome && w.posB.isSome && (calStandin s q).isNone)
    || !((slotsOf s c).all (conditionsA s))

/-- The permanent stand-in of a channel is withdrawn: the main path returns at the next sinc instant. -/
def withdrawStandin (c : Nat) (s : State) : State :=
  let q := quireOf c
  let m := sincNext s
  let s := onStandin c (fun p => if p.kind = 2 then none else some p) s
  let s := endMarks c .heldSU (m - 1) (endMarks c .standin (m - 1) s)
  setWit q { witOf s q with perm := none, permAt := none } s

def standinServe : Packet → State → State :=
  serve 0x0B08 standinRole standinOk fun r s =>
    let c := r.f 0 2
    let q := quireOf c
    let w := witOf s q
    if ¬ inService s q then refuse r stOut s
    else if r.f 2 1 = 0 then
      if w.perm = some c then answer r stOk [] (withdrawStandin c (jDone r [] s)) else answer r stOk [] s
    else if w.perm = some c then answer r stOk [] s
    else if standinRefused s c then refuse r stConflict s
    else
      let s := jDone r [] s
      let m := sincCeil (devNow s + (msU : Int))
      answer r stOk [] (setWit q { witOf s q with perm := some c, permAt := some m, permReq := s.now } s)

def execStandinSet (at_ : Nat) (p : Packet) (s : State) : Host.Outcome State Fault Refusal :=
  .next (receive 0x0B08 p standinServe (s.tick at_))

/-- PERMANENT_STANDIN_START: the stand-in takes its position, a calibration's if both are held (17 R431); injections pending
complete first (04 R105, R116; log entry 55). -/
def permStart (q : Nat) (s : State) : State :=
  let w := witOf s q
  match w.perm, w.permAt with
  | some c, some m =>
    if sincNow s < m ∨ w.state = 3 ∨ w.state = 4 ∨ s.conv.simul.isSome ∨ injectionsBefore s q w.permReq then s
    else
      let m := sincNow s
      let mine := match calStandin s q with | some v => v.channel == c | none => false
      let s := if mine || (w.posA.isSome && w.posB.isSome) then preemptCal q m s else s
      match takePos q { channel := c, kind := 2, first := m, last := none, suspended := false } s with
      | none => s
      | some s =>
        let s := addMark c .standin m none (endMarks c .heldSU (m - 1) s)
        setWit q { witOf s q with permAt := none } s
  | _, _ => s

def execPermanentStandinStart (at_ q : Nat) (s : State) : Host.Outcome State Fault Refusal :=
  .next (permStart q (s.tick at_))

/-! ### DIAG_STITCH (14 R366) -/

def diagReply (r : Req) (s : State) : List Byte :=
  let l := quireList s
  let base := l.flatMap fun q =>
    let v := quire s q
    le 1 q ++ zeros 3 ++ le 4 v.crcFails ++ le 4 v.replays ++ le 4 v.lost ++ le 4 v.late
  if r.major = 2 ∧ 3 ≤ r.minor then
    base ++ l.flatMap (fun q => le 4 (satU 32 (quire s q).longest)) ++ l.flatMap fun q => fitBytes 32 (quire s q).digest
  else base

def diagServe : Packet → State → State :=
  serve 0x0A04 tableRole (exactly 0) fun r s => answer r stOk (diagReply r s) s

def execDiagStitch (at_ : Nat) (p : Packet) (s : State) : Host.Outcome State Fault Refusal :=
  .next (receive 0x0A04 p diagServe (s.tick at_))

end Sys2Proof.Machine
end

