-- ==== Sys2Proof/Machine/Calib.lean ====
section
/-! DEFINITION. The reference ensemble, channel and witness calibration, the seal, growth-ring records and the margin
planner (07; 14 R357). -/

namespace Sys2Proof.Machine

/-! ### Growth-ring records (07 R181, R182) -/

/-- Device seconds; 0 while time is unset. -/
def fullSeconds (s : State) : Nat := if s.time.state = 0 then 0 else devSec (devNow s)

/-- The 124 bytes before a record's CRC, and the record. -/
def ringHead (q kind rseq seconds startCount : Nat) (body : List Byte) : List Byte :=
  fitBytes 124 (le 1 kind ++ le 1 q ++ le 2 128 ++ le 4 rseq ++ le 8 seconds ++ le 4 startCount ++ body)
def ringBytes (h : List Byte) : List Byte := h ++ le 4 (crc32c h)

/-- Records the partition holds: 12 MiB. -/
def ringCap : Nat := 98304

/-- The weighted mean of a signed field of DAILY records, the weights their N_COMP. -/
def ringMean (l : List RingRec) (off : Nat) : Int :=
  let n := total (l.map fun r => fld 20 2 r.bytes)
  if n = 0 then 0
  else roundAway ((l.foldl (fun (a : Rat) r => a + (fld 20 2 r.bytes : Rat) * (toSigned 32 (fld off 4 r.bytes) : Rat)) 0) / (n : Rat))

/-- The standard deviation over the merged period: within and between the days, by N_COMP. -/
def ringSd (l : List RingRec) (i : Nat) : Nat :=
  let n := total (l.map fun r => fld 20 2 r.bytes)
  if n = 0 then 0
  else
    let m := ringMean l (32 + 4 * i)
    isqrt ((l.foldl (fun (a : Nat) r =>
      let d := toSigned 32 (fld (32 + 4 * i) 4 r.bytes) - m
      a + fld 20 2 r.bytes * ((fld (64 + 2 * i) 2 r.bytes) ^ 2 + d.natAbs ^ 2)) 0) / n)

/-- The body of the WEEKLY record that takes the place of seven DAILY ones (log entry 30). -/
def weeklyBody (l : List RingRec) : List Byte :=
  let z : RingRec := l.getLast?.getD default
  let dev := l.foldl (fun a r => max a (fld 88 2 r.bytes)) 0
  let isl := sumInt (l.map fun r => toSigned 32 (fld 84 4 r.bytes)) / (max 1 l.length : Nat)
  le 2 (satU 16 (total (l.map fun r => fld 20 2 r.bytes))) ++ le 2 (satU 16 (total (l.map fun r => fld 22 2 r.bytes)))
    ++ slice 24 4 z.bytes ++ leS 4 (ringMean l 28) ++ ((List.range 8).flatMap fun i => leS 4 (ringMean l (32 + 4 * i)))
    ++ ((List.range 8).flatMap fun i => le 2 (satU 16 (ringSd l i))) ++ slice 80 4 z.bytes ++ leS 4 isl ++ le 2 dev
    ++ slice 90 34 z.bytes

/-- Append a record to the partition. -/
def ringPush (q kind seconds : Nat) (body : List Byte) (s : State) : State :=
  let n := s.flash.rseq.get q 0
  let h := ringHead q kind n seconds s.boot.startCount body
  let r : RingRec := { quire := q, rseq := n, seconds := seconds, kind := kind, bytes := ringBytes h, bad := false }
  { s with flash.ring := s.flash.ring ++ [r], flash.rseq := s.flash.rseq.put q (n + 1), flash.last := 2 }

/-- The oldest seven DAILY records of a quire whose CRC holds, if it has seven: a record whose CRC fails is skipped (07 R182). -/
def oldestSeven (s : State) (q : Nat) : Option (List RingRec) :=
  let l := (s.flash.ring.filter fun r => decide (r.quire = q ∧ r.kind = 1 ∧ ¬ r.bad)).take 7
  if l.length = 7 then some l else none

/-- When RING is full, the oldest seven DAILY records of a quire become one WEEKLY record (07 R182): of the writing quire, or,
when it has fewer, of the lowest-numbered quire that has seven (log entry 61). -/
def ringMerge (q : Nat) (s : State) : State :=
  if s.flash.ring.length < ringCap then s
  else match (q :: quireList s).findSome? (fun q => (oldestSeven s q).map fun l => (q, l)) with
    | none => s
    | some (p, l) =>
      let s' := { s with flash.ring := s.flash.ring.filter fun r => !l.contains r }
      ringPush p 5 ((l.getLast?.map (·.seconds)).getD 0) (weeklyBody l) s'

/-- Write a growth-ring record of a quire, its SECONDS given. -/
def writeRingAt (q kind seconds : Nat) (body : List Byte) (s : State) : State :=
  if s.flash.bad.contains 6 then s
  else
    let s := ringMerge q s
    if s.flash.ring.length < ringCap then ringPush q kind seconds body s else s

/-- Write a growth-ring record of an event. -/
def writeRing (q kind : Nat) (body : List Byte) (s : State) : State := writeRingAt q kind (fullSeconds s) body s

/-! ### Members (07 R160, R164 to R167) -/

/-- Member i of an ensemble. -/
def zener (e : Ensemble) (i : Nat) : Member := e.members.getD i default

/-- Replace member i. -/
def setZener (i : Nat) (v : Member) (e : Ensemble) : Ensemble :=
  { e with members := (List.range 8).map fun j => if j = i then v else zener e j }

/-- A member is connected to AVG. -/
def connected (v : Member) : Bool := decide (v.state ≠ 4)

/-- MEMBER_STATE's 24 bits. -/
def memberWord (e : Ensemble) : Nat := (List.range 8).foldl (fun w i => w + (zener e i).state * 8 ^ i) 0

/-- A member's new state: ring record, event and fault; `internal` writes the journal's own entry (07 R166, 16 R407). -/
def memberState (q i st : Nat) (residual : Rat) (internal : Bool) (s : State) : State :=
  let e := ensOf s q
  let v := zener e i
  if v.state = st then s
  else
    let s := setEns q (setZener i { v with state := st } e) s
    let k := leS 4 (roundAway v.k)
    let s := when_ internal (jInternal 0xFF06 (le 1 q ++ le 1 i ++ le 1 v.state ++ le 1 st ++ k)) s
    let s := writeRing q 3 (le 1 i ++ le 1 v.state ++ le 1 st ++ le 1 0 ++ k ++ leS 4 (roundAway residual)) s
    let s := raise (evB 0x0711 q (le 1 q ++ le 1 i ++ le 1 v.state ++ le 1 st ++ k)) s
    if st = 3 ∨ st = 4 then raiseOnce (evL 0x0702 (8 * q + i)) s else clearCause 0x0702 (8 * q + i) s

/-- The mean and the variance of a list. -/
def meanQ (l : List Rat) : Rat := if l.isEmpty then 0 else (l.foldl (· + ·) 0) / (l.length : Rat)
def varQ (l : List Rat) : Rat := meanQ (l.map fun x => (x - meanQ l) * (x - meanQ l))

/-- The value of the least-squares line through values at comparisons 1, 2, …, newest first, at the next one. Log entry 68. -/
def lineNext (l : List Rat) : Rat :=
  let n : Rat := (l.length : Nat)
  if l.isEmpty then 0
  else if l.length = 1 then l.headD 0
  else
    -- x runs -1 (newest), -2, …; the next comparison is x = 0
    let p := l.zipIdx.map fun v => (-((v.2 + 1 : Nat) : Rat), v.1)
    let mx := (p.foldl (fun a v => a + v.1) (0 : Rat)) / n
    let my := (p.foldl (fun a v => a + v.2) (0 : Rat)) / n
    let sxy := p.foldl (fun a v => a + (v.1 - mx) * (v.2 - my)) (0 : Rat)
    let sxx := p.foldl (fun a v => a + (v.1 - mx) * (v.1 - mx)) (0 : Rat)
    my - mx * (sxy / sxx)

/-- One member at a full comparison: its trend, residual and outlier state (07 R166). Gives the member with its new
bookkeeping, the state it takes and the residual. Log entries 68 and 92. -/
def judgeMember (limit : Nat) (v : Member) : Member × Nat × Rat :=
  let x := v.d - v.k
  let r := if v.trend.isEmpty then 0 else x - lineNext v.trend
  let v := { v with trend := (x :: v.trend).take 720 }
  if v.state = 0 ∨ v.state = 2 then
    let n := if (limit : Rat) < rabs r then v.beyond + 1 else 0
    if n < 3 then ({ v with beyond := n }, v.state, r)
    else
      ({ v with beyond := 0, entries := v.entries + 1, watch := 0, residuals := [] }, if 4 ≤ v.entries + 1 then 3 else 1, r)
  else if v.state = 1 then
    let rs := r :: v.residuals
    if v.watch + 1 < 24 then ({ v with watch := v.watch + 1, residuals := rs }, 1, r)
    else if varQ rs < 2500 then
      let k := v.k + meanQ rs
      ({ v with watch := 0, residuals := [], k := k, trend := [v.d - k] }, 2, r)
    else ({ v with watch := 0, residuals := [] }, 3, r)
  else (v, v.state, r)

/-- What a member contributes to the median: a GOOD one its deviation as it is (07 R164). -/
def medianValue (v : Member) : Rat := if v.state = 0 then v.d else v.d - v.k

/-- The members in the median: those GOOD or CORRECTED, then the OUTLIERs nearest to it until five are in; their values,
whether an outlier or fewer than five had to do, and whether fewer than five remain (07 R165). -/
def inMedian (e : Ensemble) : List Rat × Bool × Bool :=
  let l := (List.range 8).map (zener e)
  let good := (l.filter fun v => decide (v.state = 0 ∨ v.state = 2)).map medianValue
  let out := (l.filter fun v => decide (v.state = 1)).map medianValue
  let left := good.length + out.length
  if 5 ≤ good.length then (good, false, false)
  else
    let m := median good
    let near := fun (x y : Rat) => decide (rabs (x - m) ≤ rabs (y - m))
    let sorted := out.foldr (fun x a => (a.takeWhile fun y => !near x y) ++ [x] ++ (a.dropWhile fun y => !near x y)) []
    (good ++ sorted.take (5 - good.length), true, decide (left < 5))

/-- The channels of a quire whose coefficients follow its ensemble, and the keeper that measures RTD currents. -/
def scaleCodes (q : Nat) : List Nat := span (128 * q) 128 ++ [modCode q 129]

/-- Members whose standing is good. -/
def goodStanding (e : Ensemble) : Nat := ((List.range 8).filter fun i => (zener e i).state = 0 ∨ (zener e i).state = 2).length

/-- The new working scale of a quire (07 R164, R165): published as a slew, or as the step of R160 that ends a hard failure's
Q. Log entry 69. -/
def newScale (q : Nat) (full : Bool) (s : State) : State :=
  let e := ensOf s q
  let m := inMedian e
  let s := if m.2.2 then raiseOnce (evL 0x0703 q) s else clearCause 0x0703 q s
  if m.1.isEmpty then s
  else
    let med := median m.1
    let f : Rat := 1 / (1 + med / 1000000000)
    let hard := e.qs.any fun x => x.why == .hard && x.last.isNone
    publish (scaleCodes q) (nextMs s) hard (fun s =>
      let e := ensOf s q
      let at_ := sincCeil (deviceAt s (nextMs s))
      setEns q { e with fEns := f, inMedian := m.1.length,
                        qs := setQ .outlier m.2.1 at_ (closeQ .hard at_ e.qs),
                        uEns := if full then Config.medianSd m.1 else e.uEns, lastComp := secondsNow s,
                        dayAvg := -med :: e.dayAvg } s) s

/-! ### The keepers and a comparison (05 R144; 07 R160 to R163) -/

/-- How long after its instant a keeper's FIR output arrives: its last sinc output. Log entry 65. -/
def keeperLate : Int := ((spanB 10 1 10 * sincU : Nat) : Int)

/-- The mean of the FIR outputs of a keeper that arrive from device time a up to b, in 5 V / 2^35: response 10 at K = 10, with
instants at multiples of 8 ms. Log entry 65. -/
def keeperMean (s : State) (code : Nat) (a b : Int) : Rat :=
  let v := chan s code
  let step : Int := ((8 * msU : Nat) : Int)
  let lo := -(-(a - keeperLate) / step)
  let n := (-(-(b - keeperLate) / step) - lo).toNat
  if v.hist.isEmpty then 0
  else meanQ ((List.range n).map fun (j : Nat) => (firOut (sincAt v) 10 10 v.histFirst (2 * (lo + (j : Int))) : Rat))

/-- Half the difference of the two polarity means of a measurement that began at device time t, each polarity settling for `a`
and averaged for `b` milliseconds; in volts. -/
def keeperVolts (s : State) (code : Nat) (t : Int) (a b : Nat) : Rat :=
  let w := fun (t : Int) => keeperMean s code (t + (a * msU : Nat)) (t + ((a + b) * msU : Nat))
  (w t - w (t + ((a + b) * msU : Nat))) / 2 * 5 / ((2 ^ 35 : Nat) : Rat)

/-- The settling and averaging of one polarity in ms: a full comparison, a quick one. -/
def polarity (full : Bool) : Nat × Nat := if full then (1000, 5000) else (500, 1500)

/-- The members that a comparison measures, in order. -/
def measuredMembers (e : Ensemble) : List Nat := (List.range 8).filter fun i => connected (zener e i)

/-- The voltage at AVG: the nominal 7.0 V of a zener (log entry 62). -/
def avgVolts : Rat := 7

/-- d_i in 0.001 ppm, as KEEPq.0 measured Zi less AVG (07 R162). -/
def deviation (s : State) (q i : Nat) : Rat :=
  let e := ensOf s q
  let p := polarity (decide (e.comparing = 2))
  let n := (measuredMembers e).takeWhile (· != i)
  let t := deviceAt s e.compStart + ((2 * (p.1 + p.2) * n.length * msU : Nat) : Int)
  keeperVolts s (modCode q 128) t p.1 p.2 / avgVolts * 1000000000

/-- COMPARISON_COMPLETE: which members are open or shorted; the deviations come from the keeper (07 R160, R162).
Log entries 69 and 92. -/
def compComplete (q : Nat) (l : List Bool) (s : State) : State :=
  let e := ensOf s q
  let ms := measuredMembers e
  let full := decide (e.comparing = 2)
  if e.comparing = 0 ∨ s.now < e.compStart + ms.length * (if full then 12 else 4) * secU then s
  else
    let d := (List.range 8).map fun i => if ms.contains i then deviation s q i else (zener e i).d
    let hard := ms.filter fun i => l.getD i false || decide (1000000 < rabs (d.getD i 0))
    if ¬ hard.isEmpty then
      -- a hard failure: disconnected at a sinc instant, and a quick comparison at once
      let s := forAll hard (fun i s => memberState q i 4 0 true s) s
      let e := ensOf s q
      startQuick q (setEns q { e with qs := openQ .hard (sincNext s) e.qs, comparing := 0 } s)
    else
      let upd := (List.range 8).map fun i =>
        let v := zener e i
        if ¬ connected v then (v, v.state, (0 : Rat))
        else
          let x := d.getD i 0
          let v := { v with d := x }
          if full then judgeMember e.outPpb { v with full := (x :: v.full).take 2 }
          else ({ v with quick := (x :: v.quick).take 10 }, v.state, (0 : Rat))
      let e' := { e with members := upd.map (·.1), comparing := 0, refShift := false,
                         fullCount := e.fullCount + b2n full, dayComp := e.dayComp + b2n full,
                         dayDev := if full then (upd.map fun p => p.1.d - p.1.k) :: e.dayDev else e.dayDev }
      let s := setEns q e' s
      let s := (upd.zipIdx).foldl (fun s p => memberState q p.2 p.1.2.1 p.1.2.2 true s) s
      compDone q true (newScale q full s)

def execComparisonComplete (at_ q : Nat) (l : List Bool) (s : State) : Host.Outcome State Fault Refusal :=
  .next (unlessPaused (compComplete q l) (s.tick at_))

/-- FULL_COMPARISON_DUE (07 R162). -/
def fullDue (q : Nat) (s : State) : State :=
  let e := ensOf s q
  match e.nextFull with
  | none => s
  | some t =>
    if s.now < t ∨ e.comparing ≠ 0 ∨ ¬ (e.warm = 3 ∨ e.warm = 4) ∨ ¬ inService s q then s
    else setEns q { latchPolicy s q e with comparing := 2, compStart := s.now, nextFull := some (s.now + cf s 0x0501 q 0x08 15 0 * secU) } s

def execFullComparisonDue (at_ q : Nat) (s : State) : Host.Outcome State Fault Refusal := .next (unlessPaused (fullDue q) (s.tick at_))

/-- QUICK_COMPARISON_DUE: every 60 s while WARMING (07 R163). -/
def quickDue (q : Nat) (s : State) : State :=
  let e := ensOf s q
  if e.warm = 2 ∧ e.lastQuick + 60 * secU ≤ s.now then startQuick q (setEns q { e with lastQuick := s.now } s) else s

def execQuickComparisonDue (at_ q : Nat) (s : State) : Host.Outcome State Fault Refusal := .next (unlessPaused (quickDue q) (s.tick at_))

/-! ### Warming (02 R49, 07 R159, R168) -/

/-- A quire's ensemble takes a warming state. -/
def setWarm (q st : Nat) (s : State) : State :=
  let old := warmCode s q
  let s := setEns q ((ensOf s q).warmed st (sincNext s)) s
  warmEvent q old (warmCode s q) s

/-- The span of a list of deviations. -/
def spreadQ (l : List Rat) : Rat :=
  match l with
  | [] => 0
  | a :: r => r.foldl max a - r.foldl min a

/-- Every connected member has changed by less than a limit over `n` comparisons. -/
def settledBy (e : Ensemble) (quick : Bool) (n : Nat) (limit : Rat) : Bool :=
  (List.range 8).all fun i =>
    let v := zener e i
    let l := if quick then v.quick else v.full
    !connected v || (decide (l.length = n) && decide (spreadQ l < limit))

/-- WARMING_STATE_ADVANCE: the island's departure from 90 C in microkelvin, and the seconds for which it has been within
0.01 K. Log entry 77. -/
def warmAdvance (q : Nat) (island : Int) (steady : Nat) (s : State) : State :=
  let e := ensOf s q
  if s.part.quires ≤ q then s
  else if e.warm = 1 then
    if island.natAbs ≤ 1000000 then setWarm q 2 (setEns q { e with leftCold := s.now, lastQuick := 0, island := island } s) else s
  else if e.warm = 2 then
    if 300 ≤ steady ∧ e.leftCold + e.warm1 * secU ≤ s.now ∧ settledBy e true 10 100 = true then
      let s := setWarm q 3 (setEns q { e with nextFull := some s.now, island := island } s)
      if cfBit s 0x0501 q 0x04 1 then
        forAll ((span (128 * q) 128).filter fun c => decide ((witOf s q).perm ≠ some c)) (fun c => queueCal c false none) s
      else s
    else s
  else if e.warm = 3 then
    if e.leftCold + e.warm2 * secU ≤ s.now ∧ settledBy e false 2 20 = true then setWarm q 4 s else s
  else s

def execWarmingStateAdvance (at_ q : Nat) (island : Int) (steady : Nat) (s : State) : Host.Outcome State Fault Refusal :=
  .next (warmAdvance q island steady (s.tick at_))

/-- HEATER_FAULT: HTR absent, or the seconds for which the island has departed by more than 0.05 K. Log entry 77. -/
def heaterFault (q : Nat) (absent : Bool) (departed : Nat) (s : State) : State :=
  let e := ensOf s q
  if e.warm = 0 ∨ e.warm = 5 ∨ s.part.quires ≤ q ∨ ¬ (absent = true ∨ (e.warm ≠ 1 ∧ 10 ≤ departed)) then s
  else
    let s := compDone q false (setEns q { e with comparing := 0, nextFull := none } s)
    writeRing q 6 (le 1 1) (raiseOnce (evL 0x0701 q) (setWarm q 5 s))

def execHeaterFault (at_ q : Nat) (absent : Bool) (departed : Nat) (s : State) : Host.Outcome State Fault Refusal :=
  .next (heaterFault q absent departed (s.tick at_))

/-- HEATER_REGAINED. -/
def heaterBack (q : Nat) (s : State) : State :=
  if (ensOf s q).warm = 5 then writeRing q 6 (le 1 0) (clearCause 0x0701 q (setWarm q 1 s)) else s

def execHeaterRegained (at_ q : Nat) (s : State) : Host.Outcome State Fault Refusal := .next (heaterBack q (s.tick at_))

/-! ### When calibrations run (07 R172, R173; 15 R394) -/

/-- The die temperature has been beyond a limit from the range's calibration temperature since a sinc number. -/
def beyondSince (s : State) (c : Nat) (m : Int) : Bool :=
  let e := ensOf s (quireOf c)
  let th := ((chan s c).cal.find (gainOf s c)).map (·.theta)
  let lim := cf s 0x0501 (quireOf c) 0x00 31 16
  match th with
  | none => false
  | some th =>
    let far := fun (p : Int × Int) => decide (3 * lim < (p.2 - 3 * th).natAbs)
    let since := e.thetas.filter fun p => decide (m < p.1)
    match e.thetas.find? (fun p => decide (p.1 ≤ m)) with
    | none => false
    | some p => far p && since.all far

/-- CAL_TEMPERATURE_TRIGGER: 10 s are 2,560,000 sinc periods. -/
def tempTrigger (c : Nat) (s : State) : State :=
  let q := quireOf c
  if isChan s c ∧ cfBit s 0x0501 q 0x04 0 = true ∧ (chan s c).run = none ∧ (witOf s q).perm ≠ some c
      ∧ beyondSince s c (sincNow s - 2560000) = true then queueCal c false none s
  else s

def execCalTemperatureTrigger (at_ c : Nat) (s : State) : Host.Outcome State Fault Refusal := .next (unlessPaused (tempTrigger c) (s.tick at_))

/-- CAL_AGE_TRIGGER. -/
def ageTrigger (c : Nat) (s : State) : State :=
  let q := quireOf c
  match (chan s c).cal.find (gainOf s c) with
  | none => s
  | some v =>
    if isChan s c ∧ (chan s c).run = none ∧ (witOf s q).perm ≠ some c
        ∧ v.at_ + cf s 0x0501 q 0x08 31 16 * 3600 * secU < s.now then queueCal c false none s
    else s

def execCalAgeTrigger (at_ c : Nat) (s : State) : Host.Outcome State Fault Refusal := .next (unlessPaused (ageTrigger c) (s.tick at_))

/-- CHANNEL_CAL_GRANT on a quire: the injections before the request have completed, and the next channel of its queue starts
at the next sinc instant whose slot the witness can take; injections queued after the request come behind it (04 R105;
07 R169, R173). -/
def calGrant (q : Nat) (s : State) : State :=
  match calReady s q with
  | none => s
  | some c =>
    match (chan s c).run with
    | none => s
    | some r =>
      let start := fun (m : Int) (s : State) =>
        setChan c { chan s c with run := some { r with state := 2, since := s.now, range := gainOf s c, first := m, repeats := [] } }
          { s with cal.queue := s.cal.queue.filter (·.1 != c) }
      match calAsked s q with
      | none => start (sincNext s) s
      | some a =>
        if injectionsBefore s q a ∨ (calStandin s q).isSome ∨ (witAsked s q).any (· < a) then s
        else
          let m := firstStandin s q
          match takePos q { channel := c, kind := 1, first := m, last := some (m + 12546), suspended := false } s with
          | none => s
          | some s =>
            let l := (witOf s q).injections.map fun j => if j.start = 0 then { j with due := max j.due s.now } else j
            start m (addMark c .standin m (some (m + 12546)) (setWit q { witOf s q with injections := l } s))

def execChannelCalGrant (at_ q : Nat) (s : State) : Host.Outcome State Fault Refusal := .next (unlessPaused (calGrant q) (s.tick at_))

/-- SAFETY_CAL_REFUSED: 10 s of its turn, in which the island alone withholds the grant (07 R173, 15 R394). -/
def safetyRefused (c : Nat) (s : State) : State :=
  match (chan s c).run with
  | none => s
  | some r =>
    let q := quireOf c
    if r.state = 3 ∧ calTurn s q = some c ∧ calReady s q = none ∧ max r.since (witOf s q).calFreed + 10 * secU ≤ s.now then
      abandonCal c 8 (sincNext s) s
    else s

def execSafetyCalRefused (at_ c : Nat) (s : State) : Host.Outcome State Fault Refusal := .next (unlessPaused (safetyRefused c) (s.tick at_))

/-! ### A calibration's result (07 R169 to R171) -/

/-- What one calibration measured: o and g, lin and the RTD current in nA. -/
structure CalMeas where
  o : Rat
  g : Rat
  lin : Rat
  iNa : Rat
  deriving DecidableEq, Repr

/-- The results of V0, V+ and V- in filter units, and of the mean drop across R_INT in nV in the two polarities: half their
difference over R_INT is I_cal (07 R169, R170). Log entry 66. -/
def calMeas (s : State) (c g : Nat) (v : Rat × Rat × Rat) (drop : Int × Int) : CalMeas :=
  let e := ensOf s (quireOf c)
  let r := if e.rInt = 0 then 1000 else e.rInt
  { o := v.1, g := (9 * (fsUnits g : Rat) / 5 * e.ratios.getD g 1) / (v.2.1 - v.2.2),
    lin := (v.2.1 + v.2.2) / 2 - v.1, iNa := ((drop.1 - drop.2 : Int) : Rat) / 2 / r }

/-- The first limit that a result fails, in the order of R171: 1 offset, 2 gain, 3 gain change, 4 lin, 5 I_cal. -/
def calFails (s : State) (c g : Nat) (x : CalMeas) : Nat :=
  let fs : Rat := (fsUnits g : Rat)
  let old := (chan s c).cal.find g
  if 200 * fs < rabs x.o * 1000000 then 1
  else if 2 < rabs (x.g - 1) * 1000 then 2
  else if (match old with | none => false | some v => v.valid && decide (50 < rabs (x.g - v.g) * 1000000)) then 3
  else if 20 * fs < rabs x.lin * 1000000 then 4
  else if rtdI s c ≠ 0 ∧ 5 * (rtdI s c : Rat) < rabs (x.iNa - 1000 * (rtdI s c : Rat)) then 5
  else 0

/-- Offset and gain changes of a final reply, in 0.001 ppm. -/
def calChange (g : Nat) (old : Rat × Rat) (x : CalMeas) : Int × Int :=
  (roundAway ((x.o - old.1) * 1000000000 / (fsUnits g : Rat)), roundAway ((x.g - old.2) * 1000000000))

/-- A result is checked and published, or rejected; `direct` says that no value of the channel is delivered (17 R429).
A self-test that passes ends the Q of an earlier rejection (DESIGN CHOICE, log entry 129). Log entry 71. -/
def calJudge (c g : Nat) (selfTest direct : Bool) (x : CalMeas) (s : State) : State :=
  let q := quireOf c
  let v := chan s c
  let bad := calFails s c g x
  let old := rangeCal s c g
  if bad = 0 ∧ ¬ selfTest then
    let t0 := nextMs s
    let s := publish [c] t0 direct (fun s =>
      let v := chan s c
      let i := if rtdI s c = 0 then 0 else x.iNa
      setChan c { v with
        cal := v.cal.put g { o := x.o, g := x.g, theta := dieTemp s q, seconds := fullSeconds s, at_ := s.now, valid := true,
                             iNa := i, iOld := old.iNa, iFrom := t0 },
        lastOutcome := 1, lastRange := g, calCount := (v.calCount + 1) % 2 ^ 32,
        qs := closeQ (.rejected g) (sincNext s) v.qs } s) s
    let s := setEns q { ensOf s q with dayCal := (ensOf s q).dayCal + 1 } s
    let ch := calChange g (old.o, old.g) x
    calOutcome c (1, g, ch.1, ch.2) s
  else if bad = 0 then
    let v := { v with lastOutcome := 2, lastRange := g, qs := closeQ (.rejected g) (sincNext s) v.qs }
    calOutcome c (2, g, 0, 0) (setChan c v s)
  else
    let code := if selfTest then 3 else 4
    let s := setChan c { v with lastOutcome := code, lastRange := g, qs := openQ (.rejected g) (sincNext s) v.qs } s
    let s := if selfTest then s else raise (evB 0x0704 c (le 2 c ++ le 1 g ++ le 1 bad ++ zeros 4)) s
    calOutcome c (code, g, 0, 0) s

/-- The mean of 3,840 raw sinc outputs of a channel, in filter units. -/
def rawMean (s : State) (c : Nat) (first : Int) : Rat :=
  let v := chan s c
  ((sumInt ((List.range 3840).map fun (i : Nat) => rawAt_ v (first + (i : Int))) : Int) : Rat) / 3840

/-- V0, V+ and V- of a run: a repeated segment stands for the one that it repeats (07 R169, R173). -/
def runVolts (s : State) (c : Nat) (r : CalRun) : Rat × Rat × Rat :=
  let seg := fun (n : Nat) =>
    rawMean s c (segFirst r (if r.repeats.contains n then 3 + (r.repeats.takeWhile (· != n)).length else n))
  (seg 0, seg 1, seg 2)

/-- CHANNEL_CAL_RESULT: the mean drop across R_INT in nV in two polarities; V0, V+ and V- come from the channel's own sinc
outputs. Before a re-entry's release edge, where no output is delivered, they are the sums `sweep` of 3,840 sinc words each
(17 R429). Log entry 66. -/
def calResult (c : Nat) (sweep : Int × Int × Int) (drop : Int × Int) (s : State) : State :=
  let q := quireOf c
  let z := quire s q
  if z.reentry = 3 ∧ z.sweepLeft.head? = some c then
    let g := gainOf s c
    let u := fun (x : Int) => (x : Rat) * (sincStep g : Rat) / 3840
    let s := calJudge c g false true (calMeas s c g (u sweep.1, u sweep.2.1, u sweep.2.2) drop) s
    let z := quire s q
    let left := z.sweepLeft.drop 1
    setQuire q { z with sweepLeft := left,
                        reentryEdge := if left.isEmpty then secondCeil (devNow s + (250 * usU : Nat)) else z.reentryEdge } s
  else
    match (chan s c).run with
    | none => s
    | some r =>
      -- the stand-in has ended, and every averaged output has entered
      if r.state ≠ 2 ∨ (chan s c).histNew ≤ r.last then s
      else
        let x := calMeas s c r.range (runVolts s c r) drop
        calJudge c r.range r.selfTest false x (setChan c { chan s c with run := none } s)

def execChannelCalResult (at_ c : Nat) (sweep : Int × Int × Int) (drop : Int × Int) (s : State) :
    Host.Outcome State Fault Refusal :=
  .next (calResult c sweep drop (s.tick at_))

/-! ### The witness (07 R174) -/

/-- The gain error that TEST_DAC at plus and minus 0.9 of a span shows (log entry 56). -/
def dacError (g : Nat) (plus minus : Int) : Rat :=
  if plus = minus then 0 else (9 * (witSpan g : Rat) / 5) / ((plus - minus : Int) : Rat) - 1

/-- WITNESS_CALIBRATION_DUE: the raw conversions of WIT_ZERO, of TEST_DAC at plus and minus 0.9 of each span, of RATIO_TAP and of
VREF_WORK give the witness's correction and the values that R111 compares against (07 R174). It has its place in the queue of
04 R100 from the instant on at which it became due. -/
def witnessCal (q : Nat) (zero : Int) (dac1 dac16 : Int × Int) (ratio vref : Int) (s : State) : State :=
  let w := witOf s q
  let turn : Bool := match witAsked s q with
    | none => false
    | some a => !injectionsBefore s q a && !(calAsked s q).any (· < a)
  if turn = false then s
  else
    let s := setWit q { w with zero := (zero : Rat), gainErr1 := dacError 0 dac1.1 dac1.2,
                               gainErr16 := dacError 1 dac16.1 dac16.2, slotEnd := max w.slotEnd (nowTick s) } s
    setWit q { witOf s q with ratioTap := witCorrected s q 0 ratio, vref := witCorrected s q 0 vref, calAt := s.now,
                              calTheta := dieTemp s q, calFar := none } s

def execWitnessCalibrationDue (at_ q : Nat) (zero : Int) (dac1 dac16 : Int × Int) (ratio vref : Int) (s : State) :
    Host.Outcome State Fault Refusal :=
  .next (unlessPaused (witnessCal q zero dac1 dac16 ratio vref) (s.tick at_))

/-! ### The margin planner (07 R183 to R185) -/

/-- Seconds of a year of 365.25 days (log entry 31). -/
def yearS : Nat := 31557600

/-- Years since the last accepted transfer of a quire. -/
def sinceTransfer (s : State) (q : Nat) : Option Rat :=
  match (ensOf s q).transfers with
  | [] => none
  | x :: _ => if s.time.state = 0 then none else some (((fullSeconds s : Rat) - (x.seconds : Rat)) / (yearS : Rat))

/-- Age of the part in years, from its FACTORY record. -/
def partAge (s : State) (q : Nat) : Rat :=
  match s.flash.ring.find? (fun r => decide (r.quire = q ∧ r.kind = 4)) with
  | none => 0
  | some r => ((fullSeconds s : Rat) - (r.seconds : Rat)) / (yearS : Rat)

/-- OBSERVED applies: two accepted transfers at least 90 days apart. -/
def observed (e : Ensemble) : Bool :=
  match e.transfers.head?, e.transfers.getLast? with
  | some a, some b => decide (b.seconds + 90 * 86400 ≤ a.seconds)
  | _, _ => false

/-- The grade's model. -/
def gradeModel (s : State) (q : Nat) : Nat := if s.part.metrology ∧ (ensOf s q).drift.isSome then 1 else 0
def gradeRate (s : State) (q : Nat) : Rat :=
  match (if s.part.metrology then (ensOf s q).drift else none) with
  | some (a, tau) => a / (1 + partAge s q / tau)
  | none => 2

/-- rate_c in ppm per year. -/
def rateC (s : State) (q : Nat) : Rat :=
  let e := ensOf s q
  if observed e then
    let p := e.transfers.map fun x => (x.seconds, ppb x.kExt)
    let k := slope p * (yearS : Rat) / 1000
    max (k + Config.slopeSigma p) (gradeRate s q)
  else gradeRate s q

/-- The static terms and the rates of u_exp, in ppm squared. -/
def planStatic (s : State) (q r : Nat) : Rat :=
  let e := ensOf s q
  let x : ExtTransfer := e.transfers.headD default
  let ur := e.ratioU.getD r 0
  (x.uRel / 2) * (x.uRel / 2) + x.uTr * x.uTr + e.uEns * e.uEns / 1000000 + ur * ur
def planRate (s : State) (q : Nat) : Rat := rateC s q * rateC s q + 4 / 100

/-- u_exp squared at dt years after the transfer. -/
def planU2 (s : State) (q r : Nat) (dt : Rat) : Rat := 4 * (planStatic s q r + planRate s q * dt * dt)

/-- U_LIMIT of a range in ppm, as the last comparison found it (07 R186). -/
def planLimit (s : State) (q r : Nat) : Rat := ((ensOf s q).uLimits.getD r 0 : Rat) / 1000

/-- A rational's square root, to the nearest whole. DEDUCED (log 124): 07's worked example of the planner rounds so. -/
def sqrtNear (x : Rat) : Nat := let y := x * 4; (isqrt (y.num.toNat / y.den) + 1) / 2

/-- A rational's whole square root in 10^-9. -/
def sqrtNano (x : Rat) : Nat := let y := x * 10 ^ 18; isqrt (y.num.toNat / y.den)

/-- U_NOW in 0.001 ppm and DUE_DAYS of a range (07 R187). -/
def planNow (s : State) (q r : Nat) : Nat :=
  match sinceTransfer s q with | none => 0 | some dt => satU 32 (sqrtNear (planU2 s q r dt * 1000000))
def planDays (s : State) (q r : Nat) : Nat :=
  let l := planLimit s q r
  match sinceTransfer s q with
  | none => 0xFFFFFFFF
  | some dt =>
    if l = 0 then 0xFFFFFFFF
    else
      let room := l * l / 4 - planStatic s q r
      if room ≤ 0 then 0
      else
        let due : Rat := (sqrtNano (room / planRate s q) : Rat) / 10 ^ 9
        satU 32 (((due - dt) * 36525 / 100).floor.toNat)

/-- The planner's limit is reached in `days` days. -/
def planReached (s : State) (q r days : Nat) : Bool :=
  match sinceTransfer s q with
  | none => false
  | some dt => decide (planLimit s q r ≠ 0) &&
      decide (planLimit s q r * planLimit s q r ≤ planU2 s q r (dt + (days * 86400 : Nat) / (yearS : Rat)))

/-- PLANNER_DUE_WARN of a range. -/
def planWarn (q r : Nat) (s : State) : State :=
  let e := ensOf s q
  if r < 5 ∧ ¬ e.warned.contains r ∧ planReached s q r (cf s 0x0501 q 0x0C 15 0) = true then
    raise (evB 0x0712 q (le 1 q ++ le 1 r ++ zeros 2 ++ le 4 (planDays s q r))) (setEns q { e with warned := r :: e.warned } s)
  else s

def execPlannerDueWarn (at_ q r : Nat) (s : State) : Host.Outcome State Fault Refusal := .next (unlessPaused (planWarn q r) (s.tick at_))

/-- PLANNER_DUE of a range. -/
def planDue (q r : Nat) (s : State) : State :=
  let e := ensOf s q
  if r < 5 ∧ ¬ e.due.contains r ∧ planReached s q r 0 = true then
    raise (evB 0x0713 q (le 1 q ++ le 1 r ++ zeros 6)) (setEns q { e with due := r :: e.due, qs := openQ (.overdue r) (sincNext s) e.qs } s)
  else s

def execPlannerDue (at_ q r : Nat) (s : State) : Host.Outcome State Fault Refusal := .next (unlessPaused (planDue q r) (s.tick at_))

/-- The planner's model, journaled at a change (07 R184, R188). -/
def planModel (q : Nat) (s : State) : State :=
  let e := ensOf s q
  let m := if observed e then 2 else gradeModel s q
  if e.model = m then s
  else setEns q { e with model := m } (jInternal 0xFF07 (le 1 q ++ le 1 e.model ++ le 1 m) s)

/-- The mean of the day's island departures in microkelvin, and the largest departure from it. -/
def dayIsland (e : Ensemble) : Int × Nat :=
  let d := e.dayIsl
  if d.1 = 0 then (0, 0)
  else
    let m := roundAway ((d.2.1 : Rat) / (d.1 : Rat))
    (m, max (d.2.2.2 - m).toNat (m - d.2.2.1).toNat)

/-- The body of a DAILY record (07 R181). -/
def dailyBody (s : State) (q : Nat) : List Byte :=
  let e := ensOf s q
  let col := fun i => e.dayDev.map fun l => l.getD i 0
  let days := (List.range 5).foldl (fun m r => min m (planDays s q r)) 0xFFFFFFFF
  let age := match sinceTransfer s q with
    | none => 0
    | some dt => satU 32 ((dt * 36525 / 100).floor.toNat)
  le 2 (satU 16 e.dayComp) ++ le 2 (satU 16 e.dayCal) ++ le 4 (memberWord e) ++ leS 4 (roundAway (meanQ e.dayAvg))
    ++ ((List.range 8).flatMap fun i => leS 4 (roundAway (meanQ (col i))))
    ++ ((List.range 8).flatMap fun i => le 2 (satU 16 (sqrtNear (varQ (col i)))))
    ++ leS 4 (ppb e.kExt) ++ leS 4 (dayIsland e).1 ++ le 2 (satU 16 (dayIsland e).2) ++ le 2 0
    ++ leS 4 (roundAway (rateC s q * 1000)) ++ le 4 (planNow s q 0) ++ le 4 days ++ le 4 age

/-- DAILY_RING_RECORD at 00:00:00 of device time, the end of the period. A step of device time to another day begins that day
without a record: the next one spans what was counted (07 R182). -/
def dailyRecords (s : State) : State :=
  let day := devSec (devNow s) / 86400
  if s.time.state = 0 then s
  else
    forAll (quireList s) (fun q s =>
      let e := ensOf s q
      if day ≤ e.dayLast then s
      else
        let s := writeRingAt q 1 (86400 * day) (dailyBody s q) s
        setEns q { ensOf s q with dayComp := 0, dayCal := 0, dayDev := [], dayAvg := [], dayLast := day, dayIsl := (0, 0, 0, 0) } s) s

def execDailyRingRecord (at_ : Nat) (s : State) : Host.Outcome State Fault Refusal :=
  .next (unlessPaused dailyRecords (s.tick at_))

/-! ### CAL_CHANNEL, CAL_ABORT, ENS_COMPARE_NOW (14 R357) -/

/-- COUNT channel codes of u16 each, from an offset. -/
def codesAt (r : Req) (off n : Nat) : List Nat := (List.range n).map fun i => r.f (off + 2 * i) 2

def calOk (r : Req) (s : State) : Bool :=
  let n := r.f 2 2
  let l := codesAt r 4 n
  decide (4 ≤ r.params.length ∧ r.f 0 1 ≤ 1 ∧ 1 ≤ n ∧ n ≤ 128 ∧ r.params.length = 4 + 2 * n) && zeroAt 1 1 r
    && l.all (isChan s) && decide l.Nodup

def calServe : Packet → State → State :=
  serve 0x0400 tableRole calOk fun r s =>
    let l := codesAt r 4 (r.f 2 2)
    if l.any fun c => !inService s (quireOf c) then refuse r stOut s
    else
      let s := { s with cal.jobs := s.cal.jobs ++ [{ req := r, items := l.map fun c => (c, none) }] }
      forAll l (fun c => queueCal c (decide (r.f 0 1 = 1)) (some r)) (queued r [] s)

def execCalChannel (at_ : Nat) (p : Packet) (s : State) : Host.Outcome State Fault Refusal :=
  .next (receive 0x0400 p calServe (s.tick at_))

def abortOk (r : Req) (s : State) : Bool :=
  let n := r.f 0 2
  decide (4 ≤ r.params.length ∧ 1 ≤ n ∧ n ≤ 128 ∧ r.params.length = 4 + 2 * n) && zeroAt 2 2 r
    && (codesAt r 4 n).all (isChan s)

/-- One code of a CAL_ABORT: 0 NOT_PENDING, 1 REMOVED, 2 ABANDONED. -/
def abortOne (s : State) (c : Nat) : State × Nat :=
  match (chan s c).run with
  | none => (s, 0)
  | some r => (abandonCal c 5 (sincNext s) s, if r.state = 2 then 2 else 1)

def abortServe : Packet → State → State :=
  serve 0x0401 tableRole abortOk fun r s =>
    let l := codesAt r 4 (r.f 0 2)
    let x := l.foldl (fun (a : State × List Byte) c =>
      let y := abortOne a.1 c
      (y.1, a.2 ++ le 2 c ++ le 1 y.2 ++ le 1 0)) (s, [])
    answer r stOk (le 2 l.length ++ le 2 0 ++ x.2) x.1

def execCalAbort (at_ : Nat) (p : Packet) (s : State) : Host.Outcome State Fault Refusal :=
  .next (receive 0x0401 p abortServe (s.tick at_))

/-- A mask of populated quires, not zero. -/
def maskOk (s : State) (m : Nat) : Bool := decide (m ≠ 0 ∧ m < 2 ^ s.part.quires)
def maskQuires (s : State) (m : Nat) : List Nat := (quireList s).filter fun q => bit q m

/-- Log entry 70. -/
def compareServe : Packet → State → State :=
  serve 0x0402 tableRole (fun r s => decide (r.params.length = 4) && zeroAt 1 3 r && maskOk s (r.f 0 1)) fun r s =>
    let l := maskQuires s (r.f 0 1)
    if l.any fun q => !inService s q then refuse r stOut s
    else
      let s := queued r [] { s with cal.comps := s.cal.comps ++ [{ req := r, todo := l, notRun := [] }] }
      forAll l (fun q s =>
        let e := ensOf s q
        if e.warm = 1 ∨ e.warm = 5 ∨ e.warm = 0 then compDone q false s else startQuick q s) s

def execEnsCompareNow (at_ : Nat) (p : Packet) (s : State) : Host.Outcome State Fault Refusal :=
  .next (receive 0x0402 p compareServe (s.tick at_))

/-! ### CAL_EXT_STD (07 R177) -/

def extOk (r : Req) (s : State) : Bool :=
  let v := ofF64 (r.f 8 8)
  decide (r.params.length = 24) && maskOk s (r.f 0 1) && decide (r.f 1 1 ≤ 1) && decide (10 ≤ r.f 2 2 ∧ r.f 2 2 ≤ 600)
    && finite64 (r.f 8 8) && finite64 (r.f 16 8) && decide (1 ≤ rabs v ∧ rabs v ≤ 5) && decide (0 < ofF64 (r.f 16 8))

def extServe : Packet → State → State :=
  serve 0x0403 tableRole extOk fun r s =>
    let l := maskQuires s (r.f 0 1)
    if ¬ s.cal.sealOpen then refuse r stSealed s
    else if l.any fun q => !(inService s q && decide ((ensOf s q).warm = 4)) then refuse r stConflict s
    else if s.cal.ext.isSome then refuse r stBusy s
    else
      let x : ExtStd := { req := r, todo := l, done := [], force := bit 0 (r.f 1 1), cert := r.f 4 4,
                          value := ofF64 (r.f 8 8), uV := ofF64 (r.f 16 8), valueBits := r.f 8 8, uBits := r.f 16 8,
                          olds := [], integ := r.f 2 2, since := extTurn s l }
      queued r [] { s with cal.ext := some x }

def execCalExtStd (at_ : Nat) (p : Packet) (s : State) : Host.Outcome State Fault Refusal :=
  .next (receive 0x0403 p extServe (s.tick at_))

/-- EXT_STD less zero in volts, as KEEPq.1 read AGND and then EXT_STD, each in both polarities, on the median scale (07 R161,
R177). AGND settles 1 s and is averaged 3 s a polarity, EXT_STD settles 1 s and is averaged INTEG_S seconds (log entry 63). -/
def extVolts (s : State) (q : Nat) (x : ExtStd) : Rat :=
  let t := deviceAt s x.since
  let v := fun (t : Int) b => keeperVolts s (modCode q 129) t 1000 b
  (v (t + (8 * secU : Nat)) (1000 * x.integ) - v t 3000) * (ensOf s q).fEns

/-- EXT_STD_QUIRE_DONE: the transfer uncertainty in 0.001 ppm comes with it; the rest KEEPq.1 has measured. Log entry 73. -/
def extDone (q : Nat) (u : Nat) (s : State) : State :=
  match s.cal.ext with
  | none => s
  | some x =>
    if x.todo.head? ≠ some q ∨ s.now < x.since + (10 + 2 * x.integ) * secU then s
    else
      let e := ensOf s q
      let v := extVolts s q x
      let k : Rat := x.value / v
      let limit : Rat := if x.force then 2000 else 100
      let x := { x with todo := x.todo.drop 1, olds := x.olds ++ [ppb e.kExt] }
      if v = 0 ∨ limit < rabs (k - 1) * 1000000 then extNext { x with done := x.done ++ [(q, 1, ppb e.kExt, u)] } s
      else
        let t : ExtTransfer := { seconds := fullSeconds s, kExt := k, uRel := x.uV / rabs x.value * 1000000,
                                 uTr := (u : Rat) / 1000 }
        let s := publish (scaleCodes q) (nextMs s) false (fun s =>
          let e := ensOf s q
          let qs := (List.range 5).foldl (fun l r => closeQ (.overdue r) (sincNext s) l) e.qs
          setEns q { e with kExt := k, transfers := t :: e.transfers, warned := [], due := [], qs := qs } s) s
        let s := writeRing q 2 (le 4 x.cert ++ le 8 x.valueBits ++ le 8 x.uBits ++ leS 4 (ppb e.kExt) ++ leS 4 (ppb k) ++ le 1 0) s
        extNext { x with done := x.done ++ [(q, 0, ppb k, u)] } (planModel q s)

def execExtStdQuireDone (at_ q u : Nat) (s : State) : Host.Outcome State Fault Refusal :=
  .next (extDone q u (s.tick at_))

/-! ### The seal (07 R179, R180) -/

def sealOpenServe : Packet → State → State :=
  serve 0x0404 tableRole (exactly 0) fun r s =>
    if s.cal.sealOpen then refuse r stConflict s
    else
      let n := s.flash.sealCount + 1
      let opened : CalSet → CalSet := fun c => { c with sealOk := false }
      let s := { s with flash.sealCount := n, flash.cal := s.flash.cal.map opened, flash.last := 4, cal.sealOpen := true }
      answer r stOk [] (jCommand r false 1 (r.params ++ le 4 n) s)

def execCalSealOpen (at_ : Nat) (p : Packet) (s : State) : Host.Outcome State Fault Refusal :=
  .next (receive 0x0404 p sealOpenServe (s.tick at_))

/-- What CAL holds of a quire. -/
def ensCal (s : State) (q : Nat) : EnsCal :=
  let e := ensOf s q
  { kExt := e.kExt, members := (List.range 8).map fun i => ((zener e i).state, (zener e i).k), ratios := e.ratios,
    rInt := e.rInt, ratioU := e.ratioU, warm1 := e.warm1, warm2 := e.warm2, drift := e.drift }

/-- The SL words of CAL_POLICY in force. -/
def policyWords (s : State) : List (BlockKey × Nat) :=
  s.cfg.filter fun p => decide (p.1.1 = 0x0501) && decide (accMask .sl 0x0501 p.1.2.1 p.1.2.2 ≠ 0)

/-- The numbers of a calibration set, in the order of 07 R179: of each quire, the drift model with it, of the SL words of
CAL_POLICY and of each channel's ranges, each after its key. -/
def calNumbers (ranges : Tab RangeCal) (ens : Tab EnsCal) (policy : List (BlockKey × Nat)) : List Rat :=
  (ens.flatMap fun (q, e) => ((q : Nat) : Rat) :: e.kExt :: (e.members.flatMap fun (m : Nat × Rat) => [((m.1 : Nat) : Rat), m.2])
      ++ e.ratios ++ e.rInt :: e.ratioU ++ [((e.warm1 : Nat) : Rat), ((e.warm2 : Nat) : Rat)]
      ++ (match e.drift with | some d => [d.1, d.2] | none => []))
    ++ (policy.flatMap fun p => [((p.1.1 : Nat) : Rat), ((p.1.2.1 : Nat) : Rat), ((p.1.2.2 : Nat) : Rat), ((p.2 : Nat) : Rat)])
    ++ (ranges.flatMap fun (k, x) => [((k : Nat) : Rat), x.o, x.g, ((x.theta : Int) : Rat), x.iNa])

/-- The sealed set as it stands, with the first eight bytes of the SHA-256 digest of its numbers as CAL lays them out. -/
def calSet (s : State) : CalSet :=
  let ranges := (List.range (chanCount s)).flatMap fun c => (chan s c).cal.map fun (p : Nat × RangeCal) => (8 * c + p.1, p.2)
  let ens := (quireList s).map fun q => (q, ensCal s q)
  { ranges := ranges
    ens := ens
    policy := policyWords s
    digest := (sha256 (Config.calLayout (calNumbers ranges ens (policyWords s)))).take 8
    closeSeconds := secondsNow s
    sealOk := true }

/-- The whole set is written; a valid set ends CAL_INVALID (02 R48). -/
def closeSeal (s : State) : State :=
  let c := calSet s
  let s := publish ((quireList s).flatMap scaleCodes) (nextMs s) true (fun s =>
    { s with flash.cal := some c, flash.last := 4, cal.sealOpen := false, cal.digest := c.digest, cal.closeSeconds := c.closeSeconds,
             cal.invalid := false,
             chans := s.chans.map fun (p : Nat × Chan) =>
               (p.1, { p.2 with cal := p.2.cal.map fun (x : Nat × RangeCal) => (x.1, { x.2 with valid := false }) }) }) s
  clearCause 0x0706 0xFFFF s

/-- Log entry 76. -/
def sealCloseServe : Packet → State → State :=
  serve 0x0405 tableRole (exactly 0) fun r s =>
    if ¬ s.cal.sealOpen then refuse r stConflict s
    else if s.cal.ext.isSome then refuse r stBusy s
    else if s.flash.bad.contains 5 then faulted r 0x0706 (raiseOnce (evL 0x0706 0xFFFF) s)
    else
      let s := closeSeal s
      answer r stOk [] (jCommand r false 1 (r.params ++ s.cal.digest) s)

def execCalSealClose (at_ : Nat) (p : Packet) (s : State) : Host.Outcome State Fault Refusal :=
  .next (receive 0x0405 p sealCloseServe (s.tick at_))

/-! ### ENS_MEMBER_SET, RING_EXPORT (14 R357) -/

def memberOk (r : Req) (s : State) : Bool :=
  decide (r.params.length = 4 ∧ r.f 0 1 < s.part.quires ∧ r.f 1 1 < 8 ∧ (r.f 2 1 = 0 ∨ r.f 2 1 = 3)) && zeroAt 3 1 r

def memberServe : Packet → State → State :=
  serve 0x0406 tableRole memberOk fun r s =>
    let q := r.f 0 1
    let i := r.f 1 1
    let st := r.f 2 1
    let v := zener (ensOf s q) i
    if ¬ s.cal.sealOpen then refuse r stSealed s
    else if (st = 0 ∧ v.state ≠ 3) ∨ (st = 3 ∧ ¬ (v.state = 0 ∨ v.state = 1 ∨ v.state = 2)) then refuse r stInvalid s
    else
      let fresh := if st = 0 then { v with trend := [], beyond := 0, watch := 0, residuals := [], quick := [], full := [] } else v
      let s := memberState q i st 0 false (setEns q (setZener i fresh (ensOf s q)) s)
      let reply := le 1 v.state ++ le 1 st ++ le 2 0
      startQuick q (answer r stOk reply (jDone r reply s))

def execEnsMemberSet (at_ : Nat) (p : Packet) (s : State) : Host.Outcome State Fault Refusal :=
  .next (receive 0x0406 p memberServe (s.tick at_))

/-- Records go out 31 to a folio on RING3. -/
def exportFolios (fuel : Nat) (l : List RingRec) (s : State) : State :=
  match fuel with
  | 0 => s
  | n + 1 =>
    if l.isEmpty then s
    else exportFolios n (l.drop 31) (put3 0x22 (l.take 31).length ((l.take 31).flatMap (·.bytes)) s)

def exportServe : Packet → State → State :=
  serve 0x0407 tableRole (fun r s => decide (r.params.length = 24) && zeroAt 1 7 r && maskOk s (r.f 0 1)
      && decide (r.f 8 8 ≤ r.f 16 8)) fun r s =>
    let a := r.f 8 8
    let b := r.f 16 8
    let l := (maskQuires s (r.f 0 1)).flatMap fun q => s.flash.ring.filter fun x =>
      decide (x.quire = q) && (decide (a ≤ x.seconds ∧ x.seconds ≤ b) || (decide (x.seconds = 0) && decide (a = 0)))
    let good := l.filter fun x => !x.bad
    let s := exportFolios (good.length + 1) good (queued r [] s)
    answer r stOk (le 4 good.length ++ le 4 (l.length - good.length)) s

def execRingExport (at_ : Nat) (p : Packet) (s : State) : Host.Outcome State Fault Refusal :=
  .next (receive 0x0407 p exportServe (s.tick at_))

/-! ### Status blocks (07 R187) -/

/-- ENS_STATUS, CAL_CH_STATUS, SEAL_STATUS and PLAN_STATUS. -/
def statusCal (s : State) (b inst off : Nat) : Nat :=
  let e := ensOf s inst
  let v := chan s inst
  match b with
  | 0x0502 =>
    if off = 0 then memberWord e
    else if off = 4 then satS32 (ppb e.fEns)
    else if off = 8 then satS32 (ppb e.kExt)
    else if off = 0x0C then e.lastComp
    else if off < 0x30 then
      let z := zener e ((off - 0x10) / 4)
      satS32 (roundAway (z.d - z.k))
    else if off = 0x30 then
      e.inMedian % 16 * 16 + (if e.inMedian = 0 then 0 else goodStanding e)
    else satS32 e.island
  | 0x0503 =>
    let r := v.cal.find (gainOf s inst)
    if off = 0 then v.lastOutcome * 65536 + v.lastRange * 4 + (v.run.map (·.state)).getD 0
    else if off = 4 then satS32 ((r.map (·.theta)).getD 0)
    else if off = 8 then (match r with | none => 0 | some x => satU 32 ((s.now - x.at_) / secU))
    else if off = 0x0C then v.calCount
    else if rtdI s inst = 0 then 0 else satU 32 (roundAway (iCalNa s inst (gainOf s inst) (devNow s))).toNat
  | 0x0504 =>
    if off = 0 then b2n s.cal.sealOpen
    else if off = 4 then s.flash.sealCount % 2 ^ 32
    else if off = 8 then fld 0 4 s.cal.digest
    else if off = 0x0C then fld 4 4 s.cal.digest
    else s.cal.closeSeconds
  | 0x0505 =>
    if off < 0x14 then planNow s inst (off / 4)
    else if off < 0x28 then planDays s inst ((off - 0x14) / 4)
    else if off = 0x28 then (if inCrown s then satS32 (roundAway (rateC s inst * 1000)) else 0)
    else e.model
  | _ => 0

end Sys2Proof.Machine
end

