-- ==== Sys2Proof/Machine/Limit.lean ====
section
/-! DEFINITION. The limit watch: the SAFE image and its checks, evaluation in Root and in Crown, degraded mode, groups and
TRIP outputs, locking and adoption (15; 14 R358 to R361). -/

namespace Sys2Proof.Machine

/-! ### The image (15 R372, R374 to R378) -/

/-- The words of a slot's section 2 copy in an image. -/
def corrCopy (s : State) (m : Nat) : List Nat := s.safe.corr.get m (List.replicate 42 0)

/-- The 168 bytes of 42 words. -/
def corrBytes (l : List Nat) : List Byte := (l.map (le 4)).flatten

/-- CORR_CRC of a slot: the CRC-32C of its section 2 copy (15 R376). -/
def corrCrc (s : State) (m : Nat) : Nat := crc32c (corrBytes (corrCopy s m))

/-- The words of CORR_CHANNEL in force on a channel. -/
def corrInForce (s : State) (c : Nat) : List Nat := (List.range 42).map fun i => word s 0x0401 c (4 * i)

/-- Section 1 from byte 16 and section 2 without CRC2 of the image that the island holds (15 R374). -/
def safeBytes (s : State) : List Byte :=
  ((List.range 64).flatMap fun p => (List.range 10).flatMap fun i => le 4 (word s 0x0B01 p (4 * i)))
    ++ ((List.range 4).flatMap fun g => (List.range 2).flatMap fun i => le 4 (word s 0x0B02 g (4 * i)))
    ++ ((List.range 128).flatMap fun m =>
         ((List.range 5).flatMap fun i => le 4 (word s 0x0B03 m (4 * i))) ++ le 4 (corrCrc s m))
    ++ ((List.range 128).flatMap fun m => corrBytes (corrCopy s m))

/-- SAFE_CRC (14 R358). -/
def safeCrc (s : State) : Nat := crc32c (safeBytes s)

/-- The output unit of a member's curve: 0 V, 1 V/V, 2 ohm, 3 degrees C, 4 strain, 5 load (15 R372, 06 R147, R150). -/
def memberUnit (s : State) (m : Nat) : Nat :=
  let k := bits 7 0 ((corrCopy s m).headD 0)
  if k = 0 then
    (if cfBit s 0x0B03 m 0x00 3 then 1
     else if cf s 0x0B03 m 0x08 21 12 ≠ 0 ∧ cf s 0x0B03 m 0x08 23 22 ≠ 2 then 2 else 0)
  else if k < 0x50 then 3 else if k < 0x54 then 4 else 5

/-- An enabled pair obeys the rules of R372. -/
def pairRules (s : State) (p : Nat) : Bool :=
  let a := slotChan s (2 * p)
  let b := slotChan s (2 * p + 1)
  isChan s a && isChan s b && decide (quireOf a ≠ quireOf b) && decide ((slotsOf s a).length = 1)
    && decide ((slotsOf s b).length = 1) && decide (memberUnit s (2 * p) = memberUnit s (2 * p + 1))

/-- The first instance in breach at a close, in ascending block id and instance (14 R359, 15 R378). -/
def firstBreach (s : State) : Option (Nat × Nat) :=
  match (List.range 64).find? (fun p => !(decide (cfF64 s 0x0B01 p 0x10 < cfF64 s 0x0B01 p 0x18)
      && (!pairEn s p || pairRules s p))) with
  | some p => some (0x0B01, p)
  | none => ((List.range 128).find? fun m =>
      !(decide (toSigned 32 (word s 0x0B03 m 0x0C) < toSigned 32 (word s 0x0B03 m 0x10))
        && bit (11 + cf s 0x0B03 m 0x00 10 8) (word s 0x0B03 m 0x00))).map fun m => (0x0B03, m)

/-- The configuration in force of a member is what section 1 says of it (15 R378). -/
def memberAgrees (s : State) (m : Nat) : Bool :=
  let c := slotChan s m
  let e := groupOf c
  bit (11 + gainOf s c) (word s 0x0B03 m 0x00) && decide (modeOf s c = cf s 0x0B03 m 0x00 5 4)
    && (ratiometric s c == cfBit s 0x0B03 m 0x00 3) && decide (rtdI s c = cf s 0x0B03 m 0x08 21 12)
    && decide (wiring s c = cf s 0x0B03 m 0x08 23 22) && decide (excMode s e = cf s 0x0B03 m 0x00 2 0)
    && decide (revHalf s e = cf s 0x0B03 m 0x04 16 0)
    && (!s.boot.modsOn || decide (crc32c (corrBytes (corrInForce s c)) = corrCrc s m))

/-! ### Groups (15 R389 to R391, R396) -/

/-- The enabled pairs of a group. -/
def groupPairs (s : State) (g : Nat) : List Nat := (enabledPairs s).filter fun p => decide (pairGroup s p = g)

/-- Bitwise or over a list. -/
def orAll (l : List Nat) : Nat := l.foldl (· ||| ·) 0

/-- The causes present on a group: its pairs' trip conditions, CONFIG, RECONFIG and NO_PAIR. Log entry 103. -/
def groupCauses (s : State) (g : Nat) : Nat :=
  let l := groupPairs s g
  let config := !s.safe.corrOk || s.safe.crcBad || (safeGroup s g).configBad || l.any fun p => !pairRules s p
  let reconf := l.any fun p => (safePair s p).a.reconfig || (safePair s p).b.reconfig
  orAll (l.map fun p => (safePair s p).trip) ||| (16 * b2n config) ||| (32 * b2n reconf) ||| (128 * b2n l.isEmpty)

/-- A group takes a state: every change is a NOTE with its event, a trip is a fault while it lasts (15 R391). -/
def setGState (g st : Nat) (s : State) : State :=
  let v := safeGroup s g
  if v.state = st then s
  else
    let run : Bool := decide (st = 1 ∨ st = 2)
    let s := setGroup g { v with state := st, toggling := v.toggling && run, readAt := if run then v.readAt else 0 } s
    let s := issueNote (evB 0x0D10 g (le 1 g ++ le 1 v.state ++ le 1 st ++ zeros 5)) 1 s
    if st = 3 then raiseOnce (evL 0x0D01 g) s else if run then clearCause 0x0D01 g s else s

/-- The running state that the pairs of a group give it. -/
def runState (s : State) (g : Nat) : Nat := if (groupPairs s g).any fun p => (safePair s p).degradedAt.isSome then 2 else 1

/-- A trip of the group with the given causes. -/
def groupTrip (g causes : Nat) (s : State) : State :=
  let v := safeGroup s g
  let old := if v.state = 3 ∨ v.state = 4 then v.latched else 0
  let v := { v with present := causes, latched := old ||| causes, clearSince := s.now }
  let v := if v.state = 3 then v
    else { v with trips := (v.trips + 1) % 2 ^ 32, tripSeconds := secondsNow s,
                  tripPair := ((groupPairs s g).find? fun p => decide ((safePair s p).trip ≠ 0)).getD 255 }
  setGState g 3 (setGroup g v s)

/-- Causes whose trip latches whatever LATCH says: DEGRADED_EXPIRED, CONFIG, RECONFIG, OUTPUT_FAULT (15 R391). -/
def latching : Nat := 0x78

/-- The state of a group follows its causes; `extra` holds causes that are present at this moment only. -/
def groupStep (extra g : Nat) (s : State) : State :=
  let v := safeGroup s g
  let c := groupCauses s g ||| extra
  if v.state = 0 ∧ c &&& 0xF8 = 0 ∧ ¬ (groupPairs s g).all (fun p => (safePair s p).proven) then
    setGroup g { v with present := c } s
  else if c ≠ 0 then groupTrip g c s
  else
    let s := setGroup g { v with present := 0, clearSince := if v.present = 0 then v.clearSince else s.now } s
    if v.state = 3 then
      (if cfBit s 0x0B02 g 0x00 31 ∨ v.latched &&& latching ≠ 0 then setGState g 4 s else s)
    else if v.state = 4 then s
    else setGState g (runState s g) s

/-- Every group follows. -/
def groupSteps (s : State) : State := forAll (List.range 4) (groupStep 0) s

/-- GROUP_RELEASE_TIMER: RELEASE_MS without a cause (15 R391). -/
def groupRelease (g : Nat) (s : State) : State :=
  let v := safeGroup s g
  if g < 4 ∧ v.state = 3 ∧ v.present = 0 ∧ groupCauses s g = 0 ∧ ¬ cfBit s 0x0B02 g 0x00 31 ∧ v.latched &&& latching = 0
      ∧ v.clearSince + cf s 0x0B02 g 0x00 15 0 * msU ≤ s.now then
    setGState g (runState s g) (setGroup g { v with present := 0, latched := 0 } s)
  else s

def execGroupReleaseTimer (at_ g : Nat) (s : State) : Host.Outcome State Fault Refusal :=
  .next (groupRelease g (s.tick at_))

/-- TRIP_TOGGLE_EDGE: a half-period boundary of the safety oscillator (15 R389, R391). -/
def tripEdge (g : Nat) (s : State) : State :=
  let v := safeGroup s g
  if g < 4 ∧ (v.state = 1 ∨ v.state = 2) then
    setGroup g { v with toggling := true, levelA := if v.toggling then !v.levelA else true, edges := v.edges + 1,
                        readAt := s.now + 250 * usU,
                        missA := if v.toggling then v.missA else 0, missB := if v.toggling then v.missB else 0 } s
  else s

def execTripToggleEdge (at_ g : Nat) (s : State) : Host.Outcome State Fault Refusal := .next (tripEdge g (s.tick at_))

/-- TRIP_READBACK: the levels of the two balls 250 us after an edge; three mismatches in a row are an OUTPUT_FAULT
(15 R390). Log entry 93. -/
def tripRead (g : Nat) (a b : Bool) (s : State) : State :=
  let v := safeGroup s g
  if g < 4 ∧ v.toggling ∧ v.readAt ≠ 0 ∧ v.readAt ≤ s.now then
    let v := { v with readAt := 0, missA := if a = v.levelA then 0 else v.missA + 1,
                      missB := if b = !v.levelA then 0 else v.missB + 1 }
    let s := setGroup g v s
    if 3 ≤ v.missA ∨ 3 ≤ v.missB then raise (ev 0x0D03 g) (groupStep 64 g s) else s
  else s

def execTripReadback (at_ g : Nat) (a b : Bool) (s : State) : Host.Outcome State Fault Refusal :=
  .next (tripRead g a b (s.tick at_))

/-! ### Pairs (15 R373, R379 to R384) -/

/-- What one path sees of a member: its cause (0 available), whether it lies outside its limits, its value. -/
structure Seen where
  cause : Nat
  out : Bool
  value : Rat
  word : Nat

/-- A member after an evaluation: a quire that is out or a value that is missing leaves the last value (15 R395). -/
def Seen.shown (x : Seen) (v : SMember) : SMember :=
  if x.cause = 1 ∨ x.cause = 2 then { v with cause := x.cause } else { v with cause := x.cause, value := x.value, word := x.word }

/-- One path's evaluation of a pair: new counts, trip bits LIMIT, DISCREPANCY, BOTH_UNAVAILABLE, and whether the members
agree; `far` says that their values differ by more than the tolerance (15 R373, R382). -/
def pathStep (le_ de : Nat) (far : Bool) (a b : Seen) (c : PathCount) : PathCount × Nat × Bool :=
  let lim := fun (x : Seen) (n : Nat) => if x.cause ≠ 0 then n else if x.out then n + 1 else 0
  let both : Bool := decide (a.cause = 0 ∧ b.cause = 0)
  let dis : Bool := (a.out != b.out) || far
  let run := if dis then 0 else c.run + 1
  let count := if dis then c.count + 1 else if 4 ≤ run then 0 else c.count
  let c := { (if both then { c with count := count, run := run } else c) with limA := lim a c.limA, limB := lim b c.limB }
  (c, b2n (decide (le_ ≤ c.limA ∨ le_ ≤ c.limB)) + 2 * b2n (decide (de ≤ c.count))
        + 4 * b2n (decide (a.cause ≠ 0 ∧ b.cause ≠ 0)), both && !dis)

/-- The trip conditions of a pair, from its paths and its timer; an entry counts. -/
def pairTrip (p : Nat) (s : State) : State :=
  let v := safePair s p
  let t := v.pathTrip ||| v.witTrip ||| (8 * b2n v.expired)
  setPair p { v with trip := t, trips := if v.trip = 0 ∧ t ≠ 0 then (v.trips + 1) % 2 ^ 32 else v.trips,
                     state := if t ≠ 0 then 3 else if v.degradedAt.isSome then 2 else 1 } s

/-- Degraded mode and the proof of R391 after an evaluation by the rules that now decide a pair's availability (15 R384). -/
def pairMode (p : Nat) (a b : Seen) (agree : Bool) (s : State) : State :=
  let v := safePair s p
  let one : Bool := decide ((a.cause ≠ 0 ∧ a.cause ≠ 4 ∧ b.cause = 0) ∨ (b.cause ≠ 0 ∧ b.cause ≠ 4 ∧ a.cause = 0))
  let rejoin := if v.degradedAt.isSome && agree then v.rejoin + 1 else 0
  let back : Bool := decide (8 ≤ rejoin)
  let within : Bool := decide (a.cause = 0 ∨ b.cause = 0) && !(decide (a.cause = 0) && a.out) && !(decide (b.cause = 0) && b.out)
  let since := if back then none else if v.degradedAt.isSome then v.degradedAt else if one then some s.now else none
  setPair p { v with degradedAt := since, expired := v.expired && !back, rejoin := if back then 0 else rejoin,
                     proven := v.proven || within,
                     a := a.shown v.a, b := b.shown v.b } s

def limitEvals (s : State) (p : Nat) : Nat := cf s 0x0B01 p 0x00 7 0
/-- Log entry 103. -/
def discEvals (s : State) (p : Nat) : Nat := word s 0x0B01 p 0x04

/-- What the witness shows of a member in a frame (15 R379). -/
def rootSeen (s : State) (m : Nat) : Seen :=
  let v := member s m
  let cause := if ¬ inService s (quireOf (slotChan s m)) then 1 else if ¬ v.fresh then 2 else if v.failed then 7
    else if v.overdue then 8 else if v.reconfig then 9 else 0
  { cause := cause, value := (v.root : Rat), word := satS32 v.root,
    out := decide (v.root < toSigned 32 (word s 0x0B03 m 0x0C) ∨ toSigned 32 (word s 0x0B03 m 0x10) < v.root) }

/-- Evaluation of a pair on the witness path: alone before the move, beside the main path within the overlap. -/
def rootPair (p : Nat) (s : State) : State :=
  let v := safePair s p
  let a := rootSeen s (2 * p)
  let b := rootSeen s (2 * p + 1)
  let r := pathStep (limitEvals s p) (discEvals s p) false a b v.wit
  let v := { v with wit := r.1, witTrip := r.2.1, a := { v.a with fresh := false }, b := { v.b with fresh := false } }
  let s := setPair p v s
  pairTrip p (if v.main then s else pairMode p a b r.2.2 s)

/-- ROOT_SAFETY_EVALUATION: the end of a frame (15 R379, R381). -/
def rootEval (s : State) : State :=
  if s.boot.stage = 0 then s
  else groupSteps (forAll ((enabledPairs s).filter fun p => !(safePair s p).main || decide (0 < (safePair s p).overlap)) rootPair s)

def execRootSafetyEvaluation (at_ : Nat) (s : State) : Host.Outcome State Fault Refusal := .next (rootEval (s.tick at_))

/-- A stage is reached: the hold of a deadline overrun ends with its fault (02 R42). -/
def stageReached (n : Nat) (s : State) : State :=
  clearCause 0x0101 n { s with boot.stage := n, boot.hold := 0 }

/-- ROOT_SETTLING_END: steps 6 and 7 of the start: every enabled pair is evaluated once, and Root is reached (02 R41). -/
def settlingEnd (s : State) : State :=
  match s.boot.release with
  | none => s
  | some t =>
    if s.boot.stage ≠ 0 ∨ s.now < t + 15 * msU then s
    else groupSteps (forAll (enabledPairs s) rootPair (stageReached 1 s))

def execRootSettlingEnd (at_ : Nat) (s : State) : Host.Outcome State Fault Refusal := .next (settlingEnd (s.tick at_))

/-- Every hold that meets a span belongs to the last test pulse on the group. -/
def pulseHeld (s : State) (e : Nat) (lo hi : Int) : Bool :=
  (excOf s e).holds.all fun h => decide (hi < h.first ∨ h.last < lo) ||
    (match (excOf s e).pulseHold with | none => false | some (f, l) => decide (f ≤ h.first ∧ h.last ≤ l))

/-- The first sinc number that counts for a member's decimator (05 R136, 15 R392). -/
def memberFrom (s : State) (m : Nat) : Int := max (chan s (slotChan s m)).histFirst (member s m).from_

/-- What the main path shows of a member at instant k of 125 us (15 R380, R383). -/
def crownSeen (s : State) (p m : Nat) (k : Int) : Seen :=
  let c := slotChan s m
  let v := member s m
  let n := 32 * k
  let f := memberFrom s m
  let s' := s.at n
  let lo := if f ≤ n then max (n - 114) f else n - 114
  let hi := n + 12
  let y := (engine s' c (safetyOut s c f k : Rat) (sincTime n) (ownTheta s' c n).1).1
  let trip : Bool := spanT s' c lo hi
  let pulse : Bool := pulseHeld s (groupOf c) lo hi && !marked (chan s c) .tripped lo hi
  let cause := if ¬ inService s (quireOf c) then 1 else if (chan s c).histNew < hi then 2
    else if n - 114 < f ∨ spanU s' c lo hi n false then 3
    else if trip ∧ ¬ pulse then 5 else if inDisagree s' c (sincTime n) then 6
    else if v.failed then 7 else if v.overdue then 8 else if v.reconfig then 9 else if trip then 4 else 0
  { cause := cause, value := y, word := toF32 y,
    out := decide (y < cfF64 s 0x0B01 p 0x10 ∨ cfF64 s 0x0B01 p 0x18 < y) }

/-- Evaluation of a pair on the main path. -/
def crownPair (k : Int) (p : Nat) (s : State) : State :=
  let v := safePair s p
  let a := crownSeen s p (2 * p) k
  let b := crownSeen s p (2 * p + 1) k
  let far : Bool := decide (cfF64 s 0x0B01 p 0x20 < rabs (a.value - b.value))
  let r := pathStep (limitEvals s p) (discEvals s p) far a b v.path
  let s := setPair p { v with path := r.1, pathTrip := r.2.1, overlap := if 1 < v.overlap then v.overlap - 1 else v.overlap } s
  pairTrip p (pairMode p a b r.2.2 s)

/-- SAFETY_EVALUATION of instant k, without an adoption (15 R380). -/
def crownEval (k : Nat) (s : State) : State :=
  groupSteps (forAll ((enabledPairs s).filter fun p => (safePair s p).main) (crownPair (k : Int)) { s with safe.lastEval := k })

/-- The degraded-mode timer of a pair, on the safety oscillator, whose 3 per cent the factor spans (15 R384; log entry 11). -/
def degradedTime (s : State) (p : Nat) : Nat :=
  match (safePair s p).degradedAt with
  | none => 0
  | some t => (((s.now - t : Nat) : Int) * (1000000 + clampInt (-29126) 30000 (Config.safetyOscPpm (s.boot.release.getD 0))) / 1000000).toNat

/-- DEGRADED_TIMER_EXPIRY of a pair (15 R384). -/
def degradedExpiry (p : Nat) (s : State) : State :=
  if pairEn s p ∧ (safePair s p).degradedAt.isSome ∧ cf s 0x0B01 p 0x08 11 0 * secU ≤ degradedTime s p then
    groupStep 0 (pairGroup s p) (pairTrip p (setPair p { safePair s p with expired := true } s))
  else s

def execDegradedTimerExpiry (at_ p : Nat) (s : State) : Host.Outcome State Fault Refusal :=
  .next (degradedExpiry p (s.tick at_))

/-- PULSE_OVERDUE of an excitation group: two periods of a member's safety group without a PASS (15 R386).
Log entries 93 and 104. -/
def pulseOverdue (e : Nat) (s : State) : State :=
  match s.safe.handover with
  | none => s
  | some h =>
    let since := max (h : Int) (excOf s e).lastPass
    forAll (groupSlots s e) (fun m s =>
      let per := cf s 0x0B02 (pairGroup s (m / 2)) 0x04 31 16
      if (safePair s (m / 2)).degradedAt.isSome ∧ available s m then s
      else if since + (2 * per * secU : Nat) ≤ (s.now : Int) then setMember m { member s m with overdue := true } s
      else s) s

def execPulseOverdue (at_ e : Nat) (s : State) : Host.Outcome State Fault Refusal := .next (pulseOverdue e (s.tick at_))

/-! ### The move to the main path (15 R381) -/

/-- A member's decimator is full: its newest output is free of the U of 05 R136. -/
def memberFull (s : State) (m : Nat) : Bool :=
  let n := 32 * (((chan s (slotChan s m)).histNew - 12) / 32)
  decide (memberFrom s m ≤ n - 114)

/-- The members of a pair on quires in service. -/
def servedSlots (s : State) (p : Nat) : List Nat :=
  [2 * p, 2 * p + 1].filter fun m => inService s (quireOf (slotChan s m))

/-- A pair has moved, with its overlap over. -/
def moved (s : State) (p : Nat) : Bool := (safePair s p).main && decide ((safePair s p).overlap = 0)

/-- Enabled pairs with a member on a quire. -/
def quirePairs (s : State) (q : Nat) : List Nat :=
  (enabledPairs s).filter fun p => decide (quireOf (slotChan s (2 * p)) = q ∨ quireOf (slotChan s (2 * p + 1)) = q)

/-- 800 strobe periods, a frame of the simultaneous mode of the start (04 R113). -/
def rootFrameU : Int := 800 * (strobeU : Int)

/-- A quire's witness leaves the simultaneous mode of the start once every pair on the quire has moved: the round robin
begins at the next frame start (04 R113). -/
def leaveSimul (q : Nat) (s : State) : State :=
  if s.conv.simul.isNone ∧ (witOf s q).state = 2 ∧ (quire s q).svc < 2 ∧ (quirePairs s q).all (moved s) then
    let t := -(-(devNow s) / rootFrameU) * rootFrameU
    unjudge q (setWit q { witOf s q with state := 1, rr := 0, slotEnd := tickOf t, simulUntil := t } s)
  else s

/-- The handover: every enabled pair with a member in service is on the main path (15 R385). -/
def handover (s : State) : State :=
  if s.safe.handover.isNone ∧ s.boot.modsOn
      ∧ (enabledPairs s).all (fun p => (safePair s p).main || (servedSlots s p).isEmpty) then
    { s with safe.handover := some s.now }
  else s

/-- HANDOVER_TO_MAIN_PATH of a pair. Log entry 103. -/
def toMain (p : Nat) (s : State) : State :=
  let l := servedSlots s p
  if pairEn s p ∧ ¬ (safePair s p).main ∧ s.boot.modsOn ∧ l ≠ [] ∧ l.all (memberFull s) then
    handover (setPair p { safePair s p with main := true, overlap := 65, path := default, pathTrip := 0 } s)
  else s

def execHandoverToMainPath (at_ p : Nat) (s : State) : Host.Outcome State Fault Refusal := .next (toMain p (s.tick at_))

/-- The larger counts of the two paths (15 R381). Log entry 103. -/
def PathCount.larger (a b : PathCount) : PathCount :=
  { count := max a.count b.count, run := if b.count < a.count then a.run else b.run, limA := max a.limA b.limA,
    limB := max a.limB b.limB }

/-- HANDOVER_OVERLAP_END of a pair: 64 evaluations are over. Log entry 103. -/
def overlapEnd (p : Nat) (s : State) : State :=
  let v := safePair s p
  if v.main ∧ v.overlap = 1 then
    let c := v.wit.larger v.path
    let bit_ := b2n (decide (limitEvals s p ≤ c.limA ∨ limitEvals s p ≤ c.limB)) + 2 * b2n (decide (discEvals s p ≤ c.count))
    let s := setPair p { v with overlap := 0, path := c, wit := default, witTrip := 0,
                                pathTrip := (v.pathTrip / 4) * 4 + bit_ } s
    let s := groupStep 0 (pairGroup s p) (pairTrip p s)
    forAll (quireList s) leaveSimul s
  else s

def execHandoverOverlapEnd (at_ p : Nat) (s : State) : Host.Outcome State Fault Refusal := .next (overlapEnd p (s.tick at_))

/-! ### The check of section 1, and adoption (15 R378, R392) -/

/-- Check section 1 against the configuration in force. Log entry 93. -/
def configCheck (s : State) : State :=
  let s := forAll (List.range 4) (fun g s =>
    let bad := (groupPairs s g).any fun p => !(memberAgrees s (2 * p) && memberAgrees s (2 * p + 1))
    let s := if bad then raiseOnce (evL 0x0D04 g) s else clearCause 0x0D04 g s
    setGroup g { safeGroup s g with configBad := bad } s) s
  groupSteps s

/-- SAFE_CONFIG_CHECK: once per second; `crcFail` says that CRC1 fails over the island's copy. -/
def configSecond (crcFail : Bool) (s : State) : State :=
  if s.boot.stage = 0 then s
  else
    let s := if crcFail then raiseOnce (evL 0x0D02 0xFFFF) { s with safe.crcBad := true } else s
    configCheck s

def execSafeConfigCheck (at_ : Nat) (crcFail : Bool) (s : State) : Host.Outcome State Fault Refusal :=
  .next (configSecond crcFail (s.tick at_))

/-- The words of an image that one pair rests on: its own and its members'. -/
def pairWords (s : State) (p : Nat) : List Nat :=
  ((List.range 10).map fun i => word s 0x0B01 p (4 * i))
    ++ ([2 * p, 2 * p + 1].flatMap fun m => ((List.range 5).map fun i => word s 0x0B03 m (4 * i)) ++ corrCopy s m)

/-- A pair differs between the image replaced and the new one. -/
def pairChanged (o s : State) (p : Nat) : Bool :=
  (pairEn o p || pairEn s p) && decide (pairWords o p ≠ pairWords s p)

/-- A group differs: its entry, a pair in it, or a pair that has left it. -/
def groupChanged (o s : State) (g : Nat) : Bool :=
  decide (word o 0x0B02 g 0x00 ≠ word s 0x0B02 g 0x00 ∨ word o 0x0B02 g 0x04 ≠ word s 0x0B02 g 0x04)
    || (List.range 64).any fun p => pairChanged o s p
        && ((pairEn s p && decide (pairGroup s p = g)) || (pairEn o p && decide (pairGroup o p = g)))

/-- A member of the new image: a channel that was watched before keeps its decimator, another starts one now. -/
def newMember (o s : State) (m : Nat) : SMember :=
  let c := slotChan s m
  match slotsOf o c with
  | k :: _ => { (default : SMember) with from_ := (member o k).from_, failed := (member o k).failed,
                                         overdue := (member o k).overdue }
  | [] => { (default : SMember) with from_ := sincNext s, failed := (excOf s (groupOf c)).pulseFailed }

/-- A changed pair restarts; one that is no longer enabled is DISABLED. -/
def restartPair (o : State) (p : Nat) (s : State) : State :=
  if ¬ pairEn s p then setPair p default s
  else if pairChanged o s p then
    setPair p { (default : SPair) with a := newMember o s (2 * p), b := newMember o s (2 * p + 1), trips := (safePair o p).trips,
                                       main := s.safe.handover.isSome || (safePair o p).main } s
  else setPair p { safePair o p with a := { (safePair o p).a with reconfig := false },
                                     b := { (safePair o p).b with reconfig := false } } s

/-- A group that becomes a pulsed group, or whose period changes, starts its schedule and its interval now. Log entry 104. -/
def restartPulse (o : State) (e : Nat) (s : State) : State :=
  match s.safe.handover, pulsePlan s e with
  | some h, some (per, _) =>
    if pulsePlan o e = pulsePlan s e then s
    else setExc e { excOf s e with
      nextPulse := some (((s.now - h) / (per * secU) + 1 : Nat) : Int),
      lastPass := if (pulsePlan o e).isNone then (s.now : Int) else (excOf s e).lastPass } s
  | _, _ => s

/-- Adoption of the new section 1, as SAFE holds it. Log entry 104. -/
def adopt (o : State) : State :=
  let s := { o with safe.image := o.flash.safe, safe.corr := o.flash.safeCorr, safe.corrOk := true, safe.crcBad := false,
                    safe.adopt := false, boot.safeOk := true }
  let s := clearCause 0x0D02 0xFFFF s
  let s := forAll (List.range 64) (restartPair o) s
  let s := forAll (List.range (groupCount s)) (restartPulse o) s
  let s := configCheck s
  forAll ((List.range 4).filter (groupChanged o s)) (groupStep 32) s

/-- The values of an instant have reached the island, or the 200 us that they have are over (15 R380). Log entry 104. -/
def valuesIn (s : State) (k : Nat) : Bool :=
  decide ((k * 125 * usU + 200 * usU : Nat) ≤ devNow s)
    || ((enabledPairs s).filter fun p => (safePair s p).main).all fun p =>
        (servedSlots s p).all fun m => decide ((32 * k + 12 : Nat) ≤ (chan s (slotChan s m)).histNew)

/-- SAFETY_EVALUATION of the instant k * 125 us: adoption first, then the evaluation (15 R380, R392). -/
def safetyEval (k : Nat) (s : State) : State :=
  if s.boot.modsOn ∧ s.safe.lastEval < k ∧ (k * 125 * usU : Nat) ≤ devNow s ∧ valuesIn s k = true then
    crownEval k (if s.safe.adopt then adopt s else s)
  else s

def execSafetyEvaluation (at_ k : Nat) (s : State) : Host.Outcome State Fault Refusal := .next (safetyEval k (s.tick at_))

/-! ### Commands (14 R358 to R361) -/

/-- SAFE_STATUS's reply. -/
def safeReply (s : State) : List Byte :=
  let mask := fun (f : SPair → Bool) => total ((enabledPairs s).map fun p => if f (safePair s p) then 2 ^ p else 0)
  le 1 (b2n s.boot.safeOk) ++ le 1 (b2n s.safe.lockOpen) ++ le 2 0 ++ le 4 (safeCrc s) ++ le 4 (s.flash.lockCount % 2 ^ 32)
    ++ ((List.range 4).flatMap fun g => le 1 (safeGroup s g).state)
    ++ le 8 (mask fun v => decide (v.trip &&& 3 ≠ 0)) ++ le 8 (mask fun v => v.degradedAt.isSome)

def safeStatusServe : Packet → State → State :=
  serve 0x0800 tableRole (exactly 0) fun r s => answer r stOk (safeReply s) s

/-- SAFE_STATUS (14 R358). -/
def execSafeStatus (at_ : Nat) (p : Packet) (s : State) : Host.Outcome State Fault Refusal :=
  .next (receive 0x0800 p safeStatusServe (s.tick at_))

def lockOpenServe : Packet → State → State :=
  serve 0x0801 tableRole (exactly 0) fun r s =>
    if s.safe.lockOpen then refuse r stConflict s
    else
      let n := s.flash.lockCount + 1
      let s := { s with flash.lockCount := n, safe.lockOpen := true,
                        safe.working := if s.safe.adopt then s.flash.safe else s.safe.image,
                        safe.workingCorr := if s.safe.adopt then s.flash.safeCorr else s.safe.corr }
      answer r stOk [] (jCommand r false 1 (r.params ++ le 4 n) s)

/-- SAFE_LOCK_OPEN (14 R359, 15 R392). -/
def execSafeLockOpen (at_ : Nat) (p : Packet) (s : State) : Host.Outcome State Fault Refusal :=
  .next (receive 0x0801 p lockOpenServe (s.tick at_))

/-- The working image with each used slot's CORR_CHANNEL in force captured, as the island would hold it (15 R392). -/
def workingImage (s : State) : State :=
  let w := { s with safe.image := s.safe.working }
  let corr := (List.range 128).filterMap fun m => if slotChan w m = 0xFFFF then none else some (m, corrInForce s (slotChan w m))
  { w with safe.corr := corr }

def lockCloseServe : Packet → State → State :=
  serve 0x0802 tableRole (exactly 4) fun r s =>
    let w := workingImage s
    let crc := safeCrc w
    if ¬ s.safe.lockOpen ∨ r.f 0 4 ≠ crc then answer r stConflict (zeros 4) s
    else
      match firstBreach w with
      | some (b, i) => answer r stConflict (le 2 b ++ le 2 i) s
      | none =>
        if s.flash.bad.contains 4 then faulted r 0x0D02 (raiseOnce (evL 0x0D02 0xFFFF) s)
        else
          let old := safeCrc s
          let s := { s with flash.safe := s.safe.working, flash.safeCorr := w.safe.corr, flash.safeOk1 := true, flash.last := 3,
                            flash.safeOk2 := true, safe.workingCorr := w.safe.corr, safe.lockOpen := false, safe.adopt := true }
          answer r stOk (le 4 old ++ le 4 crc) (jDone r (le 4 old ++ le 4 crc) s)

/-- SAFE_LOCK_CLOSE (14 R359, 15 R392). -/
def execSafeLockClose (at_ : Nat) (p : Packet) (s : State) : Host.Outcome State Fault Refusal :=
  .next (receive 0x0802 p lockCloseServe (s.tick at_))

/-- One group of a SAFE_TRIP_RESET: RELEASED, NOT_LATCHED or STILL_TRIPPED (15 R391, R392). -/
def resetGroup (g : Nat) (s : State) : State × Nat :=
  let v := safeGroup s g
  if v.state = 3 then (s, 3)
  else if v.state ≠ 4 then (s, 2)
  else if bit 5 v.latched ∧ ¬ (groupPairs s g).all (fun p => decide ((safePair s p).state = 1)) then (s, 3)
  else (setGState g (runState s g) (setGroup g { v with latched := 0 } s), 1)

def tripResetServe : Packet → State → State :=
  serve 0x0803 tableRole (fun r s => exactly 4 r s && decide (1 ≤ r.f 0 1 ∧ r.f 0 1 < 16) && zeroAt 1 3 r) fun r s =>
    let x := (List.range 4).foldl (fun (a : State × List Byte) g =>
      if bit g (r.f 0 1) then (let y := resetGroup g a.1; (y.1, a.2 ++ le 1 y.2)) else (a.1, a.2 ++ le 1 0)) (s, [])
    answer r stOk x.2 (jDone r x.2 x.1)

/-- SAFE_TRIP_RESET (14 R360). -/
def execSafeTripReset (at_ : Nat) (p : Packet) (s : State) : Host.Outcome State Fault Refusal :=
  .next (receive 0x0803 p tripResetServe (s.tick at_))

/-- Log entry 104. -/
def pulseNowServe : Packet → State → State :=
  serve 0x0804 tableRole
    (fun r s => exactly 4 r s && decide (r.f 0 2 < groupCount s) && zeroAt 2 2 r && safetyHeld s (r.f 0 2)) fun r s =>
    let e := r.f 0 2
    if ¬ inService s (e / 32) then refuse r stOut s
    else if pulsePending s e ∨ pulseBusy s e then refuse r stConflict s
    else queued r [] (setExc e { excOf s e with nowReq := some r, nowAt := sincCeil (devNow s + (msU : Int)) } s)

/-- SAFE_PULSE_NOW (14 R361, 15 R387). -/
def execSafePulseNow (at_ : Nat) (p : Packet) (s : State) : Host.Outcome State Fault Refusal :=
  .next (receive 0x0804 p pulseNowServe (s.tick at_))

/-! ### Status blocks (15 R395, R396) -/

/-- SAFE_PAIR_STATUS. -/
def pairStatus (s : State) (p off : Nat) : Nat :=
  let v := safePair s p
  if off = 0x00 then
    v.state * 2 ^ 28 + b2n (decide (v.state ≠ 0 ∧ v.a.cause = 0)) * 2 ^ 25 + b2n (decide (v.state ≠ 0 ∧ v.b.cause = 0)) * 2 ^ 24
      + v.a.cause * 2 ^ 16 + v.b.cause * 2 ^ 8 + b2n v.main
  else if off = 0x04 then satU 32 (if v.main then max v.path.count v.wit.count else v.wit.count)
  else if off = 0x08 then satU 32 (degradedTime s p / msU)
  else if off = 0x0C then v.trips
  else if off = 0x10 then v.a.word else v.b.word

/-- SAFE_GROUP_STATUS. -/
def groupStatus (s : State) (g off : Nat) : Nat :=
  let v := safeGroup s g
  if off = 0x00 then (v.present ||| (if v.state = 3 ∨ v.state = 4 then v.latched else 0)) * 2 ^ 16 + v.state
  else if off = 0x04 then v.trips
  else if off = 0x08 then v.tripSeconds
  else v.tripPair

end Sys2Proof.Machine
end

