-- ==== Sys2Proof/Machine/Conds.lean ====
section
/-! DEFINITION. The conditions and mask tests of the trigger engine, evaluated as samples are produced (09 R221 to R224,
R231). -/

namespace Sys2Proof.Machine

/-! ### Settings (09 R222, R228, R231) -/

def condType (s : State) (k : Nat) : Nat := cf s 0x0702 k 0x00 31 28
def condDir (s : State) (k : Nat) : Nat := cf s 0x0702 k 0x00 27 26
def condFlags (s : State) (k : Nat) : Nat := cf s 0x0702 k 0x00 23 16
def condChannel (s : State) (k : Nat) : Nat := cf s 0x0702 k 0x00 15 0
def condStream (s : State) (k : Nat) : Nat := cf s 0x0702 k 0x04 31 24
def condParam (s : State) (k : Nat) : Nat := cf s 0x0702 k 0x04 23 0
def refStream (s : State) (k : Nat) : Nat := cf s 0x0701 k 0x00 15 8
def maskStream (s : State) (k : Nat) : Nat := cf s 0x0704 k 0x00 31 24

/-- Armed sequencers that follow a stream. -/
def followers (s : State) (n : Nat) : List Nat :=
  (List.range 8).filter fun k => decide ((seqr s k).run = 1 ∧ refStream s k = n)

/-- The first index of a stream that an armed sequencer has still to evaluate. -/
def keepFrom (s : State) (n : Nat) : Option Nat :=
  (followers s n).foldl (fun a k => match a with
    | none => some (seqr s k).next
    | some x => some (min x (seqr s k).next)) none

/-- Samples still to be evaluated are kept. -/
def stillDue (from_ : Option Nat) (i : Nat) : Bool := match from_ with | none => false | some f => decide (f ≤ i)

/-! ### Conditions (09 R222 to R224) -/

/-- The position of a crossing between two evaluated samples. -/
def crossingPos (p n : Nat) (yp yn a : Rat) : Nat × Nat :=
  let f := round64 (round64 (a - yp) / round64 (yn - yp))
  let pos := p * 256 + (round64 (256 * f * ((n - p : Nat) : Rat))).floor.toNat
  (pos / 256, pos % 256)

/-- A CROSSING at an evaluated sample. -/
def crossing (v : Cond) (dir i : Nat) (a b y : Rat) : Cond :=
  let up := v.armed && decide (dir ≠ 1) && (match v.prev with | none => false | some p => decide (p.2 < a ∧ a ≤ y))
  let down := v.armedDown && decide (dir ≠ 0) && (match v.prev with | none => false | some p => decide (a < p.2 ∧ y ≤ a))
  let pos := match v.prev with | none => (i, 0) | some p => if up || down then crossingPos p.1 i p.2 y a else (i, 0)
  { v with value := up || down, armed := (v.armed && !up) || decide (y < round64 (a - b)),
           armedDown := (v.armedDown && !down) || decide (round64 (a + b) < y), pos := pos, prev := some (i, y) }

/-- A SLOPE at a sample; `y` is none when the sample is ignored. -/
def slopeCond (v : Cond) (dir i p period : Nat) (a y : Rat) : Cond :=
  let first := v.from_.getD i
  let old := v.hist.find? fun x => decide (x.1 + p = i)
  let v := { v with hist := ((i, y) :: v.hist).take p, pos := (i, 0) }
  match old with
  | some x =>
    let g := round64 ((y - x.2) * (secU : Rat) / ((p * period : Nat) : Rat))
    { v with value := if dir = 0 then decide (a < g) else decide (g < a) }
  | none => if i < first + p then { v with value := false } else v

/-- A condition of types 1 to 5 at sample i of its channel, under the configuration `f` of that sample. -/
def evalCond (f : State) (n k i : Nat) (x : Sample) (v : Cond) : Cond :=
  let ty := condType f k
  let dir := condDir f k
  let hit := decide (x.flags &&& condFlags f k ≠ 0)
  let a := cfF64 f 0x0702 k 0x08
  let b := cfF64 f 0x0702 k 0x10
  let y := round64 x.value
  let w :=
    if ty = 5 then { v with value := hit, pos := (i, 0) }
    else if hit then v
    else if ty = 1 then { v with value := if dir = 0 then decide (a < y) else decide (y < a), pos := (i, 0) }
    else if ty = 2 then crossing v dir i a b y
    else if ty = 3 then
      let inside := decide (a ≤ y ∧ y ≤ b)
      { v with value := if dir = 0 then inside else !inside, pos := (i, 0) }
    else slopeCond v dir i (condParam f k) (periodOf f n) a y
  { w with from_ := some (v.from_.getD i) }

/-- The conditions of a stream evaluate a sample. -/
def evalConds (n i : Nat) (l : List Sample) (s : State) : State :=
  let f := s.at (centre s n i)
  let from_ := keepFrom s n
  forAll ((List.range 64).filter fun k => decide (condStream f k = n ∧ 1 ≤ condType f k ∧ condType f k ≤ 5)) (fun k s =>
    match l.find? (fun x => x.channel == condChannel f k) with
    | none => s
    | some x =>
      let v := evalCond f n k i x (cond s k)
      let log := ({ index := i, value := v.value, pos := v.pos } : CondLog) :: v.log.filter fun e => stillDue from_ e.index
      setCond k { v with log := log } s) s

/-- Condition histories of a stream begin anew: at the start of a run, where no condition is true yet, and on a new grid,
where each keeps its truth value (09 R223). -/
def restartConds (keep : Bool) (n : Nat) (s : State) : State :=
  forAll ((List.range 64).filter fun k => decide (condStream s k = n)) (fun k s =>
    let v := cond s k
    setCond k { (default : Cond) with value := keep && v.value, log := if keep then v.log else [] } s) s

/-! ### Mask tests (09 R231) -/

/-- The order of binary32 words that are no NaN. -/
def key32 (w : Nat) : Int := if bit 31 w then -((w % 2 ^ 31 : Nat) : Int) else ((w % 2 ^ 31 : Nat) : Int)

/-- An infinity. -/
def inf32 (w : Nat) : Bool := decide (bits 30 23 w = 255)

/-- A value lies above an upper limit, or below a lower one. -/
def above32 (y : Rat) (w : Nat) : Bool := if inf32 w then bit 31 w else decide (ofF32 w < y)
def below32 (y : Rat) (w : Nat) : Bool := if inf32 w then !bit 31 w else decide (y < ofF32 w)

/-- One sample of a test: the point violated, and the last point passed. -/
def maskPoint (f : State) (k i : Nat) (l : List Sample) (m : MaskT) (t : MaskTest) : Bool × Bool :=
  let p := m.points.get (i - t.anchor) (0, 0)
  let viol := match l.find? (fun x => x.channel == cf f 0x0704 k 0x00 15 0) with
    | none => false
    | some x => decide (x.flags &&& cf f 0x0704 k 0x0C 31 24 = 0) && (above32 (round64 x.value) p.1 || below32 (round64 x.value) p.2)
  (viol, decide (i + 1 = t.anchor + m.count) && !(t.viol || viol))

/-- A mask test meets a sample. -/
def maskStep (n i k : Nat) (l : List Sample) (s : State) : State :=
  let m := maskT s k
  match m.test with
  | none => s
  | some t =>
    if t.anchor ≤ i ∧ i < t.anchor + m.count then
      let f := s.at (centre s n i)
      let on := cf f 0x0704 k 0x04 1 0
      let r := maskPoint f k i l m t
      let over_ := decide (i + 1 = t.anchor + m.count) || (r.1 && decide (on ≠ 0))
      let m := { m with test := if over_ then none else some { t with viol := t.viol || r.1 }, log := (i, r.1, r.2) :: m.log }
      let s := setMask k m s
      if r.1 ∧ on = 2 ∧ (seqr s t.seq).run = 1 ∧ ¬ (seqr s t.seq).haltAt.any (fun h => decide (h.1 ≤ i)) then setSeqr t.seq { seqr s t.seq with haltAt := some (i, k) } s else s
    else s

/-- The masks of a stream meet a sample. -/
def maskSteps (n i : Nat) (l : List Sample) (s : State) : State :=
  forAll ((List.range 16).filter fun k => decide (maskStream s k = n)) (fun k s => maskStep n i k l s) s

/-- A test ends with no result. -/
def maskEnded (k : Nat) (s : State) : State :=
  match (maskT s k).test with
  | none => s
  | some _ => raise (ev 0x0913 k) (setMask k { maskT s k with test := none } s)

/-- The tests of a stream's masks end with no result: it stops, or a re-base falls across them (09 R231). -/
def masksEnded (n : Nat) (s : State) : State :=
  forAll ((List.range 16).filter fun k => decide (maskStream s k = n)) maskEnded s

/-- Samples that a test compares, in index order. -/
def compareAll (n k : Nat) (l : List (Nat × List Sample)) (s : State) : State :=
  l.foldl (fun s p => maskStep n p.1 k p.2 s) s

/-- MASK_START at sample i: the test is anchored, and the samples already there are compared, up to the re-base that has fallen
across it. -/
def maskStart (n seq i k : Nat) (s : State) : State :=
  let m := maskT s k
  if ¬ m.loaded then raise (ev 0x0913 k) s
  else
    let s := setMask k { m with test := some { seq := seq, anchor := i + word s 0x0704 k 0x08, viol := false } } s
    let l := (stream s n).recent.reverse
    match (stream s n).ends.reverse.find? fun b => decide (i ≤ b) with
    | none => compareAll n k l s
    | some b => maskEnded k (compareAll n k (l.filter fun p => decide (p.1 ≤ b)) s)

/-! ### A sample reaches the trigger engine -/

/-- Logs and samples that no sequencer needs any more go. -/
def trimTrig (n : Nat) (s : State) : State :=
  let from_ := keepFrom s n
  let s := setStream n { stream s n with recent := (stream s n).recent.filter fun p => stillDue from_ p.1 } s
  let s := forAll ((List.range 16).filter fun k => decide (maskStream s k = n)) (fun k s =>
    setMask k { maskT s k with log := (maskT s k).log.filter fun e => stillDue from_ e.1 } s) s
  forAll ((List.range 64).filter fun k => decide (condStream s k = n)) (fun k s =>
    let v := cond s k
    setCond k { v with log := v.log.take 1 ++ (v.log.drop 1).filter fun e => stillDue from_ e.index } s) s

/-- Sample i of a stream: conditions, then masks (09 R225). -/
def trigSample (n i : Nat) (l : List Sample) (s : State) : State :=
  let s := maskSteps n i l (evalConds n i l s)
  if (keepFrom s n).isSome then setStream n { stream s n with recent := (i, l) :: (stream s n).recent } s else s

/-- A stream leaves the grid that ended at an index: mask tests that run across the step end (09 R231). -/
def leaveGrid (n b : Nat) (s : State) : State := masksEnded n (setStream n { stream s n with ends := b :: (stream s n).ends } s)

/-- The next index of a stream, once it lies past the old grid, is the first of the new one; histories restart there
(05 R137, 09 R223). -/
def advanceGrid (i n : Nat) (s : State) : State :=
  let st := stream s n
  match st.grids with
  | [] => s
  | g :: r =>
    if g.oldLast < i then
      restartConds true n (leaveGrid n g.oldLast (setStream n { st with grids := r, floor := g.edge, nNext := max st.nNext g.n0 } s))
    else s

end Sys2Proof.Machine
end

