-- ==== Sys2Proof/Machine/Streams.lean ====
section
/-! DEFINITION. Streams: starting, producing samples, ending, the stream commands, capture streams' samples, cross-fades at
their end, and the hold-back store's reads, scrub and failure (05 R138 to R142; 09 R241 to R244; 10). -/

namespace Sys2Proof.Machine

/-! ### What a stream needs (05 R132; 06 R149; 10 R261, R263) -/

/-- The streams that start and stop with a stream: its cover streams and its capture streams. -/
def dependents (s : State) (n : Nat) : List Nat := coversOf s n ++ rootCaptures s n

/-- A stream's response for slot keys: that of its block while STARTING, the last one asked for while RUNNING. -/
def keyResp (s : State) (n : Nat) : Nat := if running s n then finalResp (stream s n) else cf s 0x0301 n 0x00 3 0

/-- Streams that take slots on a channel: those STARTING or RUNNING, and the ones named. -/
def keyStreams (s : State) (more : List Nat) (c : Nat) : List Nat :=
  streamList.filter fun n => filtered s n && (live s n || more.contains n) && (streamSet s n).contains c

/-- Distinct slot keys that a channel would need. -/
def slotKeys (s : State) (more : List Nat) (c : Nat) : List (Nat × Nat × Bool) :=
  ((keyStreams s more c).map fun n => slotKey s n (keyResp s n)).eraseDups

/-- The response that a live stream takes from its slot at a sinc number, and the one that it fades to there. -/
def respAt (s : State) (e : Int) (n : Nat) : Nat × Nat :=
  match (stream s n).fade with
  | none => (keyResp s n, keyResp s n)
  | some f => if e < fadeOver s n f then (f.from_, f.to_) else (f.to_, finalResp (stream s n))

/-- A slot of a channel can run a stream that starts at a sinc number: one on its key, one whose fade unit runs it, or a free one
(05 R131). -/
def slotRoom (s : State) (n : Nat) (e : Int) (c : Nat) : Bool :=
  let l := streamList.filter fun x => decide (x ≠ n) && filtered s x && live s x && (streamSet s x).contains c
  let keys := (l.map fun x => slotKey s x (respAt s e x).1).eraseDups
  let mine := slotKey s n (keyResp s n)
  keys.contains mine || (l.map fun x => slotKey s x (respAt s e x).2).contains mine || decide (keys.length < 2)

/-- The samples per second of a stream that is live, or named, as the budget of R261 counts them. -/
def budget (s : State) (more : List Nat) : Rat :=
  ((streamList.filter fun n => (live s n || more.contains n) && !isRelay s n).map fun n =>
    (((streamSet s n).length * 128000 : Nat) : Rat) / ((2 ^ streamK s n * streamN s n : Nat) : Rat)).foldl (· + ·) 0

/-- Every channel of a set with TEMP_SRC = CHANNEL has its source in the set. -/
def sourcesIn (s : State) (l : List Nat) : Bool :=
  l.all fun c => decide (cf s 0x0401 c 0x00 9 8 ≠ 2) || l.contains (cf s 0x0401 c 0x00 31 16)

/-! ### Pending commits (13 R340 to R342) -/

/-- A commit in its place: edges rising, equal edges in order of acceptance. Log entry 116. -/
def insertCommit : PendCommit → List PendCommit → List PendCommit := insertOn (·.edge)

/-- The pending commits in the order in which they apply. -/
def byEdge (s : State) : List PendCommit := sortOn (·.edge) s.cz.commits

/-- The state as it stands after commits. -/
def afterCommits (l : List PendCommit) (s : State) : State := l.foldl (fun s c => applyWords c.items s) s

/-- Streams whose FILT_STREAM a list of commits holds. -/
def heldFilters (l : List PendCommit) : List Nat := l.flatMap fun c => (c.items.filter (·.block == 0x0301)).map (·.inst)

/-- The sinc number of an edge. Log entry 107. -/
def edgeSinc (edge : Nat) : Int := ((edge / 25 : Nat) : Int)

/-! ### Streams at a commit edge (05 R132). `m` is its sinc number -/

/-- STARTING or RUNNING at the edge, and RUNNING there. -/
def liveAt (s : State) (m : Int) (n : Nat) : Bool :=
  live s n && (match (stream s n).nLast with
    | none => true
    | some l => decide (m * (sincU : Int) ≤ ((l * periodOf s n + (fadeSpan (stream s n) (streamK s n) (streamN s n) l).2 * sincU : Nat) : Int)))
def runningAtE (s : State) (m : Int) (n : Nat) : Bool :=
  liveAt s m n && decide ((((stream s n).n0 * periodOf s n : Nat) : Int) ≤ m * (sincU : Int))

/-- The response that a stream ends on: that of its block when a commit holds it, else the last one asked for. -/
def endResp (f : State) (m : Int) (held : List Nat) (n : Nat) : Nat :=
  if held.contains n ∨ ¬ runningAtE f m n then cf f 0x0301 n 0x00 3 0 else finalResp (stream f n)

/-- Slot keys that a channel needs once every fade has ended. -/
def endKeys (f : State) (m : Int) (held : List Nat) (c : Nat) : List (Nat × Nat × Bool) :=
  ((streamList.filter fun n => filtered f n && liveAt f m n && (streamSet f n).contains c).map fun n =>
    slotKey f n (endResp f m held n)).eraseDups

/-- Another stream that is STARTING or RUNNING at the edge shares a slot with a stream on a channel that both carry: a slot
allocated already, or one for the same key (05 R132). `held` lists the streams whose FILT_STREAM the commits before it hold. -/
def sharesSlot (f : State) (m : Int) (held : List Nat) (n : Nat) : Bool :=
  (streamSet f n).any fun c =>
    ((chan f c).slots.any fun l => l.users.contains n && l.users.any fun x => decide (x ≠ n) && liveAt f m x)
      || streamList.any fun x => decide (x ≠ n) && filtered f x && liveAt f m x && (streamSet f x).contains c
        && decide (slotKey f x (endResp f m held x) = slotKey f n (endResp f m held n))

/-- A start breaks a rule of a commit that waits for its edge: slot keys, a shared slot, or a source outside the set
(05 R132, 06 R149, 13 R342; log entry 58). `held` lists the streams whose FILT_STREAM the commits so far hold. -/
def pendingBroken (n : Nat) (o : State) (held : List Nat) : List PendCommit → Bool
  | [] => false
  | c :: r =>
    let f := applyWords c.items o
    let m := edgeSinc c.edge
    let mine := heldFilters [c]
    let before := held
    let held := mine ++ held
    let l := streamSet f n
    l.any (fun c => decide (2 < (endKeys f m held c).length)) || !sourcesIn f l
      || mine.any (fun x => liveAt o m x && filtered o x && decide (cf o 0x0301 x 0x00 3 0 ≠ cf f 0x0301 x 0x00 3 0)
          && sharesSlot o m before x)
      || pendingBroken n f held r

/-! ### Held response changes and fades (05 R138 to R142) -/

/-- Other streams hold a change of the same commit. -/
def heldElsewhere (s : State) (n : Nat) (r : Req) : Bool :=
  streamList.any fun m => decide (m ≠ n) && match (stream s m).held with
    | none => false
    | some (_, q) => decide (q.session = r.session ∧ q.tag = r.tag ∧ q.accepted = r.accepted)

/-- The final reply of a held change: 0 STARTED, 1 SUPERSEDED, 2 APPLIED_STOPPED; an EVENT record when the session has
closed (05 R141). -/
def heldFinal (n outcome byTag index : Nat) (r : Req) (s : State) : State :=
  let body := le 1 n ++ le 1 outcome ++ le 2 byTag ++ le 4 0 ++ le 8 index
  let st := if outcome = 1 then stConflict else stOk
  match session? s r.session with
  | some v => replyIn v r st (!heldElsewhere s n r) body s
  | none => answerOr r st body 0x0510 s

/-- A response change of a running stream begins its fade at sample `nf`; `e` is the first sinc number at or after the edge.
With FADE_LEN = 0 the new response stands at once. -/
def beginFade (n to_ nf : Nat) (e : Int) (s : State) : State :=
  let st := stream s n
  let len := cf s 0x0301 n 0x08 12 0
  let f : Fade := { from_ := st.response, to_ := to_, nf := nf, len := len, e := e }
  setStream n { st with fade := some f, fades := f :: st.fades } (putWord 0x0301 n 0x00 (setBits 3 0 to_ (word s 0x0301 n 0x00)) s)

/-- The body of a STREAM_RECONFIG record. -/
def reconfigBody (change old new len : Nat) : List Byte := le 1 change ++ le 1 old ++ le 1 new ++ le 1 0 ++ le 2 len

/-- FADE_END: j has reached m and the running fade is over; a held change starts its own, whose edge is (n_f + F) T, unless the
stream stops before that sample (05 R138, R140, R142). -/
def fadeEnd (n : Nat) (s : State) : State :=
  let st := stream s n
  match st.fade with
  | none => s
  | some f =>
    if devNow s < sincTime (fadeOver s n f) then s
    else
      let s := setStream n { st with response := f.to_, fade := none } s
      let s := forAll (streamSet s n) (rekeySlot n f.to_) s
      match st.held.filter fun _ => st.nLast.all fun l => decide (f.nf + f.len ≤ l) with
      | none => s
      | some (r, q) =>
        let nf := f.nf + f.len
        let s := setStream n { stream s n with held := none } s
        let s := beginFade n r nf (((nf * 2 ^ (streamK s n + 1) * streamN s n : Nat) : Int)) s
        let rec_ := fun s m => dueDisc m (mkDisc s 2 nf (nf - 1) (reconfigBody 1 f.to_ r (cf s 0x0301 n 0x08 12 0))) s
        let s := (n :: dependents s n).foldl rec_ s
        heldFinal n 0 0 nf q s

def execFadeEnd (at_ n : Nat) (s : State) : Host.Outcome State Fault Refusal := .next (fadeEnd n (s.tick at_))

/-- A stream that stops ends its fade; a held change is applied at once (05 R142). -/
def stopFade (n : Nat) (s : State) : State :=
  let st := stream s n
  let s := setStream n { st with response := (st.fade.map (·.to_)).getD st.response, fade := none, held := none } s
  let s := match st.fade with
    | none => s
    | some f => forAll (streamSet s n) (rekeySlot n f.to_) s
  match st.held with
  | none => s
  | some (r, q) =>
    let s := putWord 0x0301 n 0x00 (setBits 3 0 r (word s 0x0301 n 0x00)) s
    heldFinal n 2 0 0 q (setStream n { stream s n with response := r } s)

/-! ### A run begins (10 R253, R257, R263) -/

/-- The body of a STREAM_START record. -/
def startBody (s : State) (n : Nat) : List Byte :=
  le 4 (streamN s n) ++ le 1 (streamK s n) ++ le 1 (cf s 0x0301 (sourceOf s n) 0x00 3 0) ++ le 1 (b2n (streamF32 s n))
    ++ le 1 (streamReduce s n) ++ le 4 (streamSet s n).length ++ le 2 (cf s 0x0801 n 0x04 31 16) ++ le 1 (coverOf s n)
    ++ le 1 0 ++ le 4 (cf s 0x0801 n 0x08 23 0)

/-- A start is accepted: the counts of the new run begin, and those of the last are kept until it has produced a sample. -/
def acceptStart (n0 n : Nat) (s : State) : State :=
  let st := stream s n
  setStream n { st with
    state := 1, n0 := n0, nLast := none, nNext := n0, produced := false, lastIndex := 0, runFirstSeq := 0, opened := none,
    saved := some st.counts, mm := [], sparse := [], gaps := [], named := [], undelivered := [], coverLog := [], discs := if st.stalled.isSome then st.discs else [],
    notDelivered := 0, degraded := 0, skipped := 0, retiredCount := 0, dWords := 0, gapCount := 0, last := none,
    grids := [], unsetLast := none, floor := ((n0 : Int) - 1) * ((2 ^ (streamK s n + 1) * streamN s n : Nat) : Int), fade := none, fades := [],
    held := none, look := [], windows := st.windows.filter fun w => decide (w.last ≤ st.lastIndex), recent := [] } s

/-- STARTING becomes RUNNING: slots are allocated, and the STREAM_START record falls due at the first index. Log entry 105. -/
def beginRun (n : Nat) (s : State) : State :=
  let st := stream s n
  if st.state ≠ 1 then s
  else
    let e : Int := ((st.n0 * 2 ^ (streamK s n + 1) * streamN s n : Nat) : Int)
    let resp := cf s 0x0301 (sourceOf s n) 0x00 3 0
    let s := setStream n { st with state := 2, response := resp } s
    let s := if filtered s n then forAll (streamSet s n) (useSlot n (slotKey s n resp) e) s else s
    restartConds false n (dueDisc n (mkDisc s 5 st.n0 (st.n0 - 1) (startBody s n)) s)

/-- STREAM_RUNNING: device time has reached n0 T (10 R257). -/
def streamRunning (n : Nat) (s : State) : State :=
  if (stream s n).state = 1 ∧ ((stream s n).n0 * periodOf s n : Nat) ≤ devNow s then forAll (n :: dependents s n) beginRun s
  else s

def execStreamRunning (at_ n : Nat) (s : State) : Host.Outcome State Fault Refusal := .next (streamRunning n (s.tick at_))

/-! ### Capture streams (09 R241 to R244) -/

def lagU (s : State) (n : Nat) : Nat := cf s 0x0707 n 0x0C 31 16 * msU
def preOf (s : State) (n : Nat) : Nat := word s 0x0707 n 0x04
def postOf (s : State) (n : Nat) : Nat := word s 0x0707 n 0x08

/-- A window that still takes samples holds the index. -/
def windowAt (st : Stream) (i : Nat) : Bool := st.windows.any fun w => decide (w.first ≤ i ∧ i ≤ w.last)

/-- An index of a window that has not been released. -/
def unreleased (st : Stream) (i : Nat) : Bool := windowAt st i && (!st.produced || decide (st.lastIndex < i))

/-- Samples that the look-back holds, or that wait for their release. -/
def keepLook (s : State) (n : Nat) (i : Nat) : Bool :=
  decide (devNow s ≤ ((i + preOf s n) * periodOf s n + lagU s n : Nat)) || unreleased (stream s n) i

/-- The store that samples of a look-back and the windowed samples that the host has not acknowledged take, with their folio
headers, times 4,064; and the reserve, or its share of the fallback, likewise (09 R241, R243; 10 R268). -/
def captureNeed (s : State) (n : Nat) (look : List Nat) : Nat :=
  let w := if streamF32 s n then 5 else 4
  let st := stream s n
  let folios := st.q.folios.filter fun f => !f.acked
  let held := total (folios.map (·.payload.length))
    + (match st.opened with | none => 0 | some o => o.payload.length + o.flagPlane.length)
  let extra := look.filter fun i => !(folios.any fun f => decide (f.ftype < 0x10 ∧ f.firstIndex ≤ i ∧ i ≤ f.lastIndex))
    && !st.opened.any fun o => decide (o.firstIndex ≤ i ∧ i ≤ o.lastIndex)
  (extra.length * (streamSet s n).length * w + held) * 4096
def reserveRoom (s : State) (n : Nat) : Nat := reserveMib s n * 1048576 * 4064
def captureRoom (s : State) (n : Nat) : Nat :=
  if s.store.shareMode then quotaSlots s n * 4128 * 4064 else reserveRoom s n

/-- A window ends at an index with a flag. -/
def endWindows (n last flag : Nat) (hit : CapWindow → Bool) (s : State) : State :=
  let cut := fun (w : CapWindow) =>
    if hit w then (if last < w.first then none else some { w with last := min w.last last, cflags := w.cflags ||| flag })
    else some w
  setStream n { stream s n with windows := (stream s n).windows.filterMap cut } s

/-- A source sample reaches a capture stream: a window that it would carry past the reserve ends before it (R243).
Log entry 105. -/
def captureTake (i : Nat) (l : List Sample) (n : Nat) (s : State) : State :=
  let st := stream s n
  let look := (i, l) :: st.look.filter fun p => keepLook s n p.1
  let s := if windowAt st i ∧ captureRoom s n < captureNeed s n (look.map (·.1)) then
      (if i = 0 then s else endWindows n (i - 1) 1 (fun w => decide (w.first ≤ i ∧ i ≤ w.last)) s)
    else s
  setStream n { stream s n with look := look } s

/-- The degraded ranges of the source that a released sample lies in are named in the capture stream too (01 R29). -/
def captureGaps (n src i : Nat) (s : State) : State :=
  (stream s src).named.foldl (fun s (g : Nat × Nat × Nat × Nat) =>
    if g.2.2.1 ≤ i ∧ i ≤ g.2.2.2 then
      let w := ((stream s n).windows.find? fun w => decide (w.first ≤ i ∧ i ≤ w.last)).map (·.last)
      nameDegraded n g.1 g.2.1 i (min g.2.2.2 (w.getD i)) s
    else s) s

/-- One windowed sample is released: its index follows on, or the open folio closes first. -/
def releaseOne (n : Nat) (p : Nat × List Sample) (s : State) : State :=
  let src := captureSource s n
  let s := advanceGrid p.1 n s
  let st := stream s n
  let s := if st.produced ∧ st.lastIndex + 1 ≠ p.1 then cutOpen n s else s
  let s := captureGaps n src p.1 s
  let st := stream s n
  let s := setStream n { st with produced := true, lastIndex := p.1, nNext := p.1 + 1, saved := none } s
  let s := trigSample n p.1 p.2 s
  let s := placeRecords n p.1 s
  appendSample n p.1 p.2 s

/-! ### A run ends (10 R253, R254; 05 R142; 09 R231) -/

/-- The STREAM_STOP folio, FINAL, closes a run at `last`; the stream is DRAINING until it is acknowledged. Log entry 105. -/
def finishRun (last n : Nat) (s : State) : State :=
  let s := cutOpen n s
  let s := placeRecords n last s
  let s := setStream n { stream s n with gaps := [], nLast := some last } s
  let s := writeDiscs n 1 [mkDisc s 6 (last + 1) last []] s
  let s := setStream n { stream s n with state := 3, last := none } s
  let s := masksEnded n s
  freeFolios n s

/-- A capture stream whose source has stopped ends once nothing waits for release. -/
def finishCapture (n : Nat) (s : State) : State :=
  let st := stream s n
  match st.nLast with
  | none => s
  | some l =>
    let released := st.windows.all fun w => st.produced && decide (w.last ≤ st.lastIndex)
    if st.state = 2 ∧ released ∧ ¬ live s (sourceOf s n) then finishRun l n s else s

/-- The last index of a run has been produced. -/
def endStream (n last : Nat) (s : State) : State :=
  let caps := rootCaptures s n
  let s := stopFade n s
  let s := forAll (streamSet s n) (dropSlot n) s
  let s := forAll (n :: (coversOf s n).filter (running s)) (finishRun last) s
  forAll (caps.filter (running s)) (fun m s =>
    let s := endWindows m last 8 (fun w => decide (last < w.last)) s
    finishCapture m (setStream m { stream s m with nLast := some last } s)) s

/-- CAPTURE_RELEASE: windowed samples whose instant lies RELEASE_LAG_MS back are released, in index order (09 R241).
Log entry 105. -/
def captureRelease (n : Nat) (s : State) : State :=
  if isCapture s n ∧ running s n then
    let l := ((stream s n).look.filter fun p => unreleased (stream s n) p.1
      && decide ((p.1 * periodOf s n + lagU s n : Nat) ≤ devNow s)).reverse
    let s := forAll l (releaseOne n) s
    let s := setStream n { stream s n with look := (stream s n).look.filter fun p => keepLook s n p.1 } s
    finishCapture n (closeWindows n s)
  else s

def execCaptureRelease (at_ n : Nat) (s : State) : Host.Outcome State Fault Refusal := .next (captureRelease n (s.tick at_))

/-! ### Producing (01 R28, 10 R254, 17 R424) -/

/-- The outage of a quire names the affected words, second by second (17 R424). -/
def outageGaps (n i : Nat) (s : State) : State :=
  let t := i * periodOf s n
  let last := (((t / secU + 1) * secU) - 1) / periodOf s n
  forAll (quireList s) (fun q s =>
    let hit := (setOnQuire s n q).any fun p =>
      let m := centre s n i
      let w := clipSpan s p.1 m (sampleSpan s n i)
      marked (chan s p.1) .out w.1 w.2
    if hit then nameDegraded n 3 q i last s else s) s

/-- A sample enters a stream that takes it: records first, then the word. Log entry 99. -/
def feed (i : Nat) (l : List Sample) (n : Nat) (s : State) : State :=
  let st := stream s n
  let s := setStream n { st with produced := true, lastIndex := i, nNext := i + 1, last := some (i, l), saved := none } s
  let s := trigSample n i l s
  let s := outageGaps n i s
  let s := placeRecords n i s
  appendSample n i l s

/-- No visit that precedes a sample's centre is still to be judged for a channel: its quire's round robin has come past the
centre, or does not visit it (04 R107). -/
def visitsDone (s : State) (centre : Int) (c : Nat) : Bool :=
  let q := quireOf c
  !isChan s c || decide (witMode s q ≠ 1) || !cfBit s 0x0201 c 0x00 31 || decide (centre ≤ (witOf s q).slotEnd * (witTickU : Int))

/-- The inputs of sample `i` have closed at the spine, and the visits before its centre are judged; the formatting stage waits
for them no longer than 16 microseconds after the periods have closed (01 R29, 04 R107). -/
def inputsReady (s : State) (n i : Nat) : Bool :=
  match s.conv.closed with
  | none => false
  | some m =>
    let hi := (sampleSpan s n i).2
    decide (hi ≤ m) && (decide (sincTime (hi + 8) + 16 * (usU : Int) ≤ devNow s)
      || (streamSet s n).all (visitsDone s ((i * periodOf s n : Nat) : Int)))

/-- OUTPUT_SAMPLE_PRODUCE: the next sample of a stream leaves the filter for its channels, is corrected, and passes on to the
trigger engine, to assembly and to the streams that follow it (01 R28). Log entry 99. -/
def produce (n : Nat) (s : State) : State :=
  let st := stream s n
  let i := st.nNext
  if st.state = 2 ∧ filtered s n ∧ inputsReady s n i then
    let f := streamF32 (atSample s n i)
    let l := fun (b : Bool) => (streamSet s n).map (correct s n i b)
    let l := (l true, l false)
    let pick := fun (m : Nat) => if f m then l.1 else l.2
    let s := forAll (n :: (coversOf s n).filter (running s)) (fun m => feed i (pick m) m) s
    let s := forAll ((rootCaptures s n).filter (running s)) (fun m => captureTake i (pick m) m) s
    let s := forAll (n :: (coversOf s n).filter (running s)) (advanceGrid (i + 1)) s
    match st.nLast with
    | none => s
    | some last => if last ≤ i then endStream n last s else s
  else s

def execOutputSampleProduce (at_ n : Nat) (s : State) : Host.Outcome State Fault Refusal := .next (produce n (s.tick at_))

/-- FOLIO_FLUSH_TIMER: FLUSHED marks a folio that is not full (10 R246, R248). -/
def flushTimer (n : Nat) (s : State) : State :=
  match (stream s n).opened with
  | none => s
  | some o => if o.since + o.flush * usU ≤ s.now then closeOpen n (decide (o.count < folioCap o.ftype)) s else s

def execFolioFlushTimer (at_ n : Nat) (s : State) : Host.Outcome State Fault Refusal := .next (flushTimer n (s.tick at_))

/-- STALL_RESUME (10 R270). -/
def stallResume (n : Nat) (s : State) : State := freeFolios n (resumeStall n s)

def execStallResume (at_ n : Nat) (s : State) : Host.Outcome State Fault Refusal := .next (stallResume n (s.tick at_))

/-- RETENTION_LAPSE (09 R240). -/
def retentionLapse (n : Nat) (s : State) : State := freeFolios n s

def execRetentionLapse (at_ n : Nat) (s : State) : Host.Outcome State Fault Refusal := .next (retentionLapse n (s.tick at_))

/-! ### The stream commands (10 R261, R263) -/

/-- 250 us in 2^-16 ns. -/
def leadU : Nat := 250 * usU

def streamParamsOk (r : Req) (s : State) : Bool :=
  exactly 12 r s && decide (4 ≤ r.f 0 1 ∧ r.f 0 1 < 32 ∧ r.f 1 1 ≤ 1) && zeroAt 2 2 r

/-- STREAM_START at first index `n0` is refused with CONFLICT. -/
def startRefused (s : State) (n n0 : Nat) : Bool :=
  let all := n :: dependents s n
  let l := streamSet s n
  live s n || !filtered s n || decide (229376000 < budget s all)
    || decide (quotaMib s n = 0 ∧ poolFree s = 0) || l.isEmpty
    || l.any (fun c => decide (2 < (slotKeys s [n] c).length)
        || !slotRoom s n ((n0 * 2 ^ (streamK s n + 1) * streamN s n : Nat) : Int) c) || !sourcesIn s l
    || pendingBroken n (setStream n { stream s n with state := 1, n0 := n0, nLast := none } s) [] (byEdge s)

/-- AT_INDEX names an instant less than 250 us ahead. -/
def indexLate (r : Req) (s : State) : Bool :=
  decide (r.f 1 1 = 1 ∧ ((r.f 4 8 * periodOf s (r.f 0 1) : Nat) : Int) < devNow s + (leadU : Int))

def startServe : Packet → State → State :=
  serveAt indexLate 0x0700 tableRole streamParamsOk fun r s =>
    let n := r.f 0 1
    let n0 := if r.f 1 1 = 1 then r.f 4 8 else indexCeil s n (devNow s + (leadU : Int))
    if startRefused s n n0 then refuse r stConflict s
    else
      answer r stOk [] (jDone r [] (forAll (n :: dependents s n) (acceptStart n0) s))

/-- STREAM_START (10 R263). -/
def execStreamStart (at_ : Nat) (p : Packet) (s : State) : Host.Outcome State Fault Refusal :=
  .next (receive 0x0700 p startServe (s.tick at_))

/-- A start is withdrawn: the stream is STOPPED again, or DRAINING while folios of its last run are held. -/
def withdrawStart (n : Nat) (s : State) : State :=
  let st := stream s n
  if st.state = 1 then
    let st := match st.saved with | none => st | some c => { st.withCounts c with saved := none }
    setStream n { st with state := if st.q.folios.isEmpty ∧ st.stalled = none then 0 else 3 } s
  else s

def stopServe : Packet → State → State :=
  serveAt indexLate 0x0701 tableRole streamParamsOk fun r s =>
    let n := r.f 0 1
    let soon := devNow s + (leadU : Int)
    if ¬ live s n ∨ ¬ filtered s n then refuse r stConflict s
    else
      let last : Int := if r.f 1 1 = 1 then (r.f 4 8 : Int) else (indexCeil s n soon : Int) - 1
      let s := if last < (stream s n).n0 then forAll (n :: dependents s n) withdrawStart s
        else forAll (n :: (coversOf s n).filter (live s)) (fun m s => setStream m { stream s m with nLast := some last.toNat } s) s
      answer r stOk [] (jDone r [] s)

/-- STREAM_STOP (10 R263). -/
def execStreamStop (at_ : Nat) (p : Packet) (s : State) : Host.Outcome State Fault Refusal :=
  .next (receive 0x0701 p stopServe (s.tick at_))

def flushServe : Packet → State → State :=
  serve 0x0702 tableRole (fun r s => exactly 4 r s && decide (r.f 0 4 % 16 = 0)) fun r s =>
    answer r stOk [] (forAll (streamList.filter fun n => bit n (r.f 0 4)) (closeOpen · false) s)

/-- STREAM_FLUSH (10 R263). -/
def execStreamFlush (at_ : Nat) (p : Packet) (s : State) : Host.Outcome State Fault Refusal :=
  .next (receive 0x0702 p flushServe (s.tick at_))

/-! ### The store fails (10 R268) -/

/-- A folio that is lost with LPDDR5. -/
def lostFolio (f : Folio) : Bool := f.inLp && !f.staged && !f.acked

/-- Lost folios in runs that no kept folio interrupts. Log entry 106. -/
def lostRuns (kept : List Nat) : List Folio → List (Folio × Folio)
  | [] => []
  | f :: r =>
    match lostRuns kept r with
    | (a, b) :: t => if kept.any fun k => decide (f.seq < k ∧ k < a.seq) then (f, f) :: (a, b) :: t else (f, b) :: t
    | [] => [(f, f)]

/-- One stream loses what only LPDDR5 held: a GAP folio under the oldest number retires the others, with one record for each run
between folios in staging; its ring goes back to it. Log entry 106. -/
def loseStore (n : Nat) (s : State) : State :=
  let st := stream s n
  let l := st.q.folios.filter lostFolio
  let keep := st.q.folios.filter fun f => !f.inLp || f.staged
  match l, l.getLast? with
  | f :: _, some h =>
    let recs := (lostRuns (keep.map (·.seq)) l).map fun p =>
      let g := runGap s n 6 p.1 p.2
      if p.1.seq = f.seq then g else { g with retiredFirst := p.1.seq, retiredCount := p.2.seq + 1 - p.1.seq }
    let fin := if l.any fun x => bit 0 x.fflags then 1 else 0
    let gf := { (default : Folio) with seq := f.seq, ftype := 0x11, stream := n, fflags := f.fflags &&& 48 ||| 4 ||| fin,
                                       chset := noSet, firstIndex := f.firstIndex, lastIndex := h.lastIndex, count := recs.length,
                                       payload := (recs.map gapBytes).flatten, slots := 2 }
    let before := keep.filter fun x => decide (x.seq < f.seq)
    let after := keep.filter fun x => decide (f.seq < x.seq)
    let st := (l.flatMap gapsIn).foldl (fun st g => uncountGap (streamSet s n).length g st) st
    let st := recs.foldl (fun st g => countGap (streamSet s n).length g st) st
    let back := decide (f.seq < ringNext s n)
    let s := setStream n { st with sparse := [],
                                   q := { st.q with folios := before ++ [gf] ++ after,
                                                    retired := st.q.retired ++ recs.map fun g => (g.retiredFirst, g.retiredCount) } } s
    if back then setRing n { ring s n with nextSeq := f.seq, haltSeq := if (ring s n).state = 2 then f.seq else (ring s n).haltSeq } s
    else s
  | _, _ => setStream n { st with q := { st.q with folios := keep } } s

/-- The hub abandons LPDDR5 for the rest of the start. -/
def storeFails (s : State) : State :=
  if s.boot.storeMode ≠ 1 then s
  else
    let s := raiseOnce (evL 0x0A01 0xFFFF) { s with boot.storeMode := 2, store.shareMode := true }
    forAll streamList loseStore s

/-- STORE_FAILURE: the LPDDR5 PHY reports an unrecoverable fault. -/
def execStoreFailure (at_ : Nat) (s : State) : Host.Outcome State Fault Refusal := .next (storeFails (s.tick at_))

/-! ### Codewords that cannot be corrected (10 R264, R265) -/

/-- Uncorrectable codewords are counted; more than 64 within 1 s fail the store. -/
def countEcc (k n : Nat) (s : State) : State :=
  if k = 0 then s
  else
    let times := List.replicate k s.now ++ s.store.eccTimes.filter fun t => decide (s.now < t + secU)
    let s := { s with store.uncorrectable := (s.store.uncorrectable + k) % 2 ^ 32, store.eccTimes := times }
    let s := raise (ev 0x0A02 n) s
    if 64 < times.length then storeFails s else s

/-- A byte range of a folio meets one of the codewords of copy 0. -/
def inWords (l : List EccHit) (off len : Nat) : Bool :=
  l.any fun h => decide (h.copy = 0 ∧ off < 256 * (h.word + 1) ∧ 256 * h.word < off + len)

/-- A dense folio with damaged samples marked D, and how many were marked anew. Log entry 106. -/
def damage (right : Bool) (coding : Nat → Bool) (c : Nat) (hits : List EccHit) (f : Folio) : Folio × Nat :=
  let w := f.count % 65536
  let slot := fun k => (f.count / 65536 + k) % max 1 c
  if f.ftype = 1 then
    let parts := (List.range w).map fun k =>
      let old := slice (4 * k) 4 f.payload
      let new := le 4 (p24Word right (coding (slot k)) 0x40 0)
      if inWords hits (32 + 4 * k) 4 then (new, decide (new ≠ old)) else (old, false)
    ({ f with payload := (parts.map (·.1)).flatten, fflags := f.fflags ||| (2 * b2n (parts.any (·.2))) },
      (parts.filter (·.2)).length)
  else
    let parts := (List.range w).map fun k =>
      let v := slice (4 * k) 4 f.payload
      let g := slice (4 * w + k) 1 f.payload
      if inWords hits (32 + 4 * k) 4 || inWords hits (32 + 4 * w + k) 1 then (zeros 4, le 1 0x40, decide (g ≠ le 1 0x40 ∨ v ≠ zeros 4))
      else (v, g, false)
    ({ f with payload := fitBytes f.payload.length ((parts.map (·.1)).flatten ++ (parts.map (·.2.1)).flatten),
              fflags := f.fflags ||| (2 * b2n (parts.any (·.2.2))) },
      (parts.filter (·.2.2)).length)

/-- A folio is replaced under its own SEQ by a GAP folio. -/
def replaceFolio (r : Nat) (g : GapRec) (f : Folio) (s : State) : State :=
  let gf := { f with ftype := 0x11, fflags := f.fflags &&& 48 ||| 4, chset := noSet, count := 1, payload := gapBytes g, slots := 2, ecc := [] }
  let q := ringQ s r
  setRingQ r { q with folios := q.folios.map fun x => if x.seq = f.seq then gf else x } s

/-- The last index of a SPARSE folio's unknown range: the one before the next restate point. -/
def beforeRestate (s : State) (n : Nat) (f : Folio) : Nat :=
  match (stream s n).q.folios.find? fun x => decide (f.seq < x.seq ∧ (x.ftype = 0x11 ∨ x.ftype = 0x12)) with
  | some x => x.firstIndex - 1
  | none => (stream s n).nNext - 1

/-- What an uncorrectable codeword does to the folio being read. -/
def spoil (r : Nat) (hits : List EccHit) (f : Folio) (s : State) : State :=
  if f.ftype = 0x11 ∨ f.ftype = 0x12 then
    (if hits.any (·.copy == 0) ∧ hits.any (·.copy == 1) then storeFails s else s)
  else if ¬ hits.any (·.copy == 0) then s
  else if r < 4 then
    replaceFolio r { (default : GapRec) with reason := 5, quire := 0xFF } f s
  else if f.ftype = 1 ∨ f.ftype = 2 then
    let d := damage (alignRight (atSample s r f.firstIndex) r) (slotOffset (atSample s r f.firstIndex) r) (streamSet s r).length hits f
    let q := ringQ s r
    let s := setRingQ r { q with folios := q.folios.map fun x => if x.seq = f.seq then d.1 else x } s
    setStream r { stream s r with dWords := (stream s r).dWords + d.2 } s
  else
    let sp : Bool := f.ftype == 3
    let s := if sp ∧ ((stream s r).q.folios.find? fun x => decide (f.seq < x.seq ∧ (x.ftype = 0x11 ∨ x.ftype = 0x12))) = none then
        restate r (closeOpen r false s) else s
    let last := if sp then beforeRestate s r f else f.lastIndex
    let c := (streamSet s r).length
    let g0 := mkGap s r 5 (if sp then 2 else 0) f.firstIndex last
    let w := f.count % 65536
    let g := if sp ∨ c = 0 then g0 else { g0 with firstSlot := f.count / 65536, lastSlot := (f.count / 65536 + w + c - 1) % c }
    let s := replaceFolio r g f s
    setStream r (countGap c g (stream s r)) s

/-- A folio of a queue. -/
def folioOf (s : State) (r seq : Nat) : Option Folio := (ringQ s r).folios.find? (·.seq == seq)

/-- DMA_STAGING_READ: a folio is read whole and every codeword checked; `corrected` single-bit errors and the uncorrectable
codewords found by this read (10 R265). A folio that is lost as these fail the store is not staged. -/
def stageRead (r seq corrected : Nat) (hits : List EccHit) (s : State) : State :=
  match folioOf s r seq with
  | none => s
  | some f =>
    let s := { s with store.corrected := (s.store.corrected + corrected) % 2 ^ 32 }
    let all := (f.ecc ++ hits).eraseDups
    let s := countEcc (hits.filter fun h => !f.ecc.contains h).length r s
    if folioOf s r seq ≠ some f then s
    else
      let s := if all.isEmpty then s else spoil r all f s
      setRingQ r ((ringQ s r).onSeq seq fun x => { x with staged := true, ecc := [] }) s

/-- STORE_SCRUB: a pass over every occupied slot: single-bit errors corrected in place, double errors recorded against
the slot of a folio, by ring or stream and SEQ (10 R264); both copies of a GAP or DISCONTINUITY folio fail the store (10 R268). -/
def scrub (corrected : Nat) (l : List (Nat × Nat × EccHit)) (s : State) : State :=
  let s := { s with store.corrected := (s.store.corrected + corrected) % 2 ^ 32, store.scrubs := (s.store.scrubs + 1) % 2 ^ 32 }
  l.foldl (fun s (p : Nat × Nat × EccHit) =>
    match folioOf s p.1 p.2.1 with
    | none => s
    | some f =>
      if f.ecc.contains p.2.2 then s
      else
        let s := countEcc 1 p.1 (setRingQ p.1 ((ringQ s p.1).onSeq f.seq fun x => { x with ecc := x.ecc ++ [p.2.2] }) s)
        let l := p.2.2 :: f.ecc
        if (f.ftype = 0x11 ∨ f.ftype = 0x12) ∧ l.any (·.copy == 0) ∧ l.any (·.copy == 1) then storeFails s else s) s

def execStoreScrub (at_ corrected : Nat) (l : List (Nat × Nat × EccHit)) (s : State) : Host.Outcome State Fault Refusal :=
  .next (scrub corrected l (s.tick at_))

end Sys2Proof.Machine
end

