-- ==== Sys2Proof/Machine/Marks.lean ====
section
/-! DEFINITION. Marks: capture windows, bookmark records and their emission (09 R227, R232 to R235, R239, R242). -/

namespace Sys2Proof.Machine

/-! ### Capture windows (09 R242) -/

/-- A window that a request may join. -/
def CapWindow.open_ (w : CapWindow) : Bool := decide (w.cflags &&& 25 = 0)

/-- The oldest sample that a capture stream retains. -/
def oldestKept (s : State) (n : Nat) : Nat :=
  match (stream s n).look.getLast? with
  | some p => p.1
  | none => (stream s (sourceOf s n)).nNext

/-- The last index that a request at mark index m can reach, with the flag of what ends it: the old grid, or a source that
has stopped. -/
def requestEnd (s : State) (n m : Nat) : Nat × Nat :=
  let last := m + postOf s n
  match (stream s n).grids.find? (fun g => decide (m ≤ g.oldLast)) with
  | some g => if g.oldLast < last then (g.oldLast, 16) else (last, 0)
  | none =>
    match (stream s n).nLast with
    | some l => if l < last then (l, 8) else (last, 0)
    | none => (last, 0)

/-- Request the window of mark index m on a capture stream: the state after it, and its CAPTURE_ID. -/
def requestWindow (m markId n : Nat) (s : State) : State × Option Nat :=
  let st := stream s n
  if ¬ (isCapture s n ∧ running s n) then (s, none)
  else
    let lo := m - preOf s n
    let e := requestEnd s n m
    let hits := st.windows.filter fun w => w.open_ && decide (lo ≤ w.last + 1 ∧ w.first ≤ e.1 + 1)
    let next := if st.produced then st.lastIndex + 1 else 0
    let first := max lo (max next (oldestKept s n))
    match hits with
    | [] =>
      if e.1 < first then (s, none)
      else
        let w : CapWindow := { id := st.captures, first := first, last := e.1, reqFirst := lo, reqLast := m + postOf s n, marks := 1,
                               firstMark := markId, cflags := e.2 ||| 2 * b2n (decide (lo < first)) }
        (setStream n { st with windows := st.windows ++ [w], captures := st.captures + 1 } s, some w.id)
    | h :: _ =>
      let o := hits.foldl (fun a w => if w.id < a.id then w else a) h
      let f := hits.foldl (fun a w => min a w.first) o.first
      let l := hits.foldl (fun a w => max a w.last) e.1
      let first := min f first
      let old := hits.foldl (fun a w => a ||| w.cflags) 4
      let w := { o with first := first, last := l, reqFirst := hits.foldl (fun a w => min a w.reqFirst) lo,
                        reqLast := hits.foldl (fun a w => max a w.reqLast) (m + postOf s n),
                        marks := total (hits.map (·.marks)) + 1,
                        cflags := old ||| (if l = e.1 then e.2 else 0) ||| 2 * b2n (decide (lo < first)) }
      let keep := st.windows.filter fun x => x.id == o.id || !(hits.any fun h => h.id == x.id)
      (setStream n { st with windows := keep.map fun x => if x.id = o.id then w else x } s, some o.id)

/-- Windows at the instant of a mark on the capture streams of a mask, each on its own grid: the state after them, and each
stream's CAPTURE_ID. -/
def requestAll (mask markId : Nat) (t : Int) (s : State) : State × List (Nat × Nat) :=
  (streamList.filter fun n => bit n mask).foldl (fun a n =>
    let r := requestWindow (indexFloor a.1 n t) markId n a.1
    (r.1, match r.2 with | none => a.2 | some i => a.2 ++ [(n, i)])) (s, [])

/-! ### Bookmark records (09 R232) -/

def noCapture : Nat := 0xFFFFFFFF

/-- A record as it is emitted: QUAL is the servo state at emission. -/
def markBytes (s : State) (b : Bookmark) (extra : Nat) : List Byte :=
  le 2 64 ++ le 1 b.kind ++ le 1 b.seq ++ le 1 b.stream ++ le 1 b.fraction ++ le 2 b.channel ++ le 8 b.index
    ++ stampOf s b.instant ++ le 8 b.condMet ++ le 1 b.transition ++ le 1 b.fromState ++ le 1 b.toState
    ++ le 1 (b.mflags ||| extra) ++ le 4 b.fireId ++ le 8 b.markId ++ le 4 b.captureId ++ le 4 b.origin

/-- The next MARK_ID (02 R59). -/
def nextMark (s : State) : Nat := s.store.base + s.trg.markCount

/-- A mark: its record waits for its sample. -/
def addMark_ (b : Bookmark) (s : State) : State :=
  { s with trg.waiting := s.trg.waiting ++ [{ b with markId := nextMark s,
                                                     mflags := b.mflags ||| 8 * b2n (provisional s b.stream b.index) }],
           trg.markCount := s.trg.markCount + 1 }

/-- The instant of a position on a stream's grid. -/
def posTime (s : State) (n : Nat) (p : Nat × Nat) : Int := (((p.1 * 256 + p.2) * (periodOf s n / 256) : Nat) : Int)

/-- The position of an instant on a stream's grid, as R224 gives it for an edge. -/
def edgePos (s : State) (n : Nat) (t : Int) : Nat × Nat :=
  let i := indexFloor s n t
  (i, ((t - ((i * periodOf s n : Nat) : Int)) * 256 / (periodOf s n : Int)).toNat % 256)

/-- An instant marked on the running streams of a mask, with windows on the capture streams of another: KIND 1 GROUP_FIRE or
2 HOST (09 R235, R239). A record carries the window of a capture stream that its stream feeds. -/
def markInstant (kind channel fireId origin streams caps : Nat) (t : Int) (s : State) : State :=
  let l := streamList.filter fun n => bit n streams && running s n
  let w := requestAll caps (if l.isEmpty then 0 else nextMark s) t s
  l.foldl (fun s n =>
    let p := edgePos s n t
    let cap := (w.2.find? fun x => decide (captureSource s x.1 = n)).map (·.2)
    addMark_ { (default : Bookmark) with kind := kind, seq := 255, stream := n, fraction := p.2, channel := channel, index := p.1,
                                         instant := t, transition := 255, fireId := fireId, captureId := cap.getD noCapture,
                                         origin := origin } s) w.1

/-! ### Emission (09 R233, R234) -/

/-- A data folio of a stream in the store spans an index. Log entry 108. -/
def inStore (s : State) (n i : Nat) : Bool :=
  (stream s n).q.folios.any fun f => decide (f.ftype < 0x10 ∧ f.firstIndex ≤ i ∧ i ≤ f.lastIndex)

/-- A running capture stream of a stream holds a sample: in its look-back, or in its folios. -/
def inCapture (s : State) (n i : Nat) : Bool :=
  (capturesOf s n).any fun m => running s m && ((stream s m).look.any (fun p => decide (p.1 = i)) || inStore s m i
    || (stream s m).opened.any fun o => decide (o.firstIndex ≤ i ∧ i ≤ o.lastIndex))

/-- Where a waiting mark's sample stands: none, not yet in the store; true, in it; false, it never enters it, or has left it.
Log entry 108. -/
def markFate (s : State) (b : Bookmark) : Option Bool :=
  let n := b.stream
  let st := stream s n
  let made := st.produced && decide (b.index ≤ st.lastIndex)
  if made ∧ streamReduce s n ≠ 0 ∧ inCapture s n b.index then some true
  else if st.undelivered.any (fun r => decide (r.1 ≤ b.index ∧ b.index ≤ r.2)) then some false
  else if made then
    if st.stalled.any (fun f => decide (f ≤ b.index)) then none
    else if decide (streamReduce s n ≠ 0) && (capturesOf s n).any (running s) then some (inCapture s n b.index)
    else if (!(st.mm.isEmpty : Bool) && decide (st.mmFirst ≤ b.index))
        || st.opened.any (fun o => decide (o.firstIndex ≤ b.index)) then none
    else some (inStore s n b.index)
  else if b.index < st.n0 ∨ ((st.state = 0 ∨ st.state = 3) ∧ st.stalled = none) then some false
  else none

/-- The source of a mark: sequencer 0-7, 8 the group, 9 the host. -/
def Bookmark.source (b : Bookmark) : Nat := if b.kind = 0 then b.seq else b.kind + 7

/-- A record beyond the limit of R234 is counted. -/
def suppressMark (b : Bookmark) (s : State) : State :=
  let v := s.trg.secSupp.get b.source (0, b.index, b.index)
  let s := { s with trg.secSupp := s.trg.secSupp.put b.source (v.1 + 1, min v.2.1 b.index, max v.2.2 b.index) }
  let s := if b.kind = 0 then setSeqr b.seq { seqr s b.seq with suppressed := ((seqr s b.seq).suppressed + 1) % 2 ^ 32 } s else s
  forAll streamList (fun n s => setStream n { stream s n with
    windows := (stream s n).windows.map fun w => if w.firstMark = b.markId then { w with firstMark := 0 } else w } s) s

/-- A record leaves, within the limit of 131,072 in a second of device time. Log entry 108. -/
def emitMark (b : Bookmark) (stored : Bool) (s : State) : State :=
  let sec := devSec (devNow s)
  let s := if s.trg.second = sec then s else { s with trg.second := sec, trg.secCount := 0 }
  if 131072 ≤ s.trg.secCount then suppressMark b s
  else
    let s := markRecord (markBytes s b (64 * b2n (!stored))) { s with trg.secCount := s.trg.secCount + 1 }
    if b.kind = 0 then setSeqr b.seq { seqr s b.seq with marks := ((seqr s b.seq).marks + 1) % 2 ^ 32 } s else s

/-- BOOKMARK_EMIT: the records whose samples are in the store, or never will be, leave by rising index; a sequencer's record
waits behind its earlier ones. -/
def emitMarks (s : State) : State :=
  let l := sortOn (·.index) s.trg.waiting
  let r := l.foldl (fun (a : State × List Bookmark) b =>
    if b.kind = 0 ∧ a.2.any (fun c => c.kind == 0 && c.seq == b.seq) then (a.1, a.2 ++ [b])
    else match markFate s b with
      | none => (a.1, a.2 ++ [b])
      | some ok => (emitMark b ok a.1, a.2)) (s, [])
  forAll (l.map (·.stream)).eraseDups freeFolios { r.1 with trg.waiting := r.2 }

def execBookmarkEmit (at_ : Nat) (s : State) : Host.Outcome State Fault Refusal := .next (emitMarks (s.tick at_))

/-- BOOKMARK_FOLIO_CLOSE: 100 us after the first record (09 R232). -/
def folioClose (s : State) : State := if s.trg.openSince + 100 * usU ≤ s.now then closeMarks s else s

def execBookmarkFolioClose (at_ : Nat) (s : State) : Host.Outcome State Fault Refusal := .next (folioClose (s.tick at_))

/-- MARK_RATE_SECOND_END: one record gives the suppressed marks by source (09 R234; log entry 14). -/
def markSecond (s : State) : State :=
  if s.trg.secSupp.isEmpty then s
  else
    let body := (s.trg.secSupp.map fun p => le 4 p.1 ++ le 4 p.2.1 ++ le 8 p.2.2.1 ++ le 8 p.2.2.2).flatten
    raise (evB 0x0911 0xFFFF body) { s with trg.secSupp := [] }

def execMarkRateSecondEnd (at_ : Nat) (s : State) : Host.Outcome State Fault Refusal := .next (markSecond (s.tick at_))

/-! ### TRG_MARK (09 R235, R245) -/

/-- Log entry 108. -/
def acceptLate (s : State) : Int := ((cf s 0x0706 0 0x0C 31 16 * msU : Nat) : Int)

/-- The parameters of TRG_MARK: streams 4 to 31 only, and a time within ACCEPT_LATE_MS back. Log entry 110. -/
def trgMarkOk (r : Req) (s : State) : Bool :=
  exactly 24 r s && decide (r.f 0 4 % 16 = 0 ∧ r.f 4 4 % 16 = 0) &&
    (match readDt16 (slice 8 16 r.params) with
     | none => false
     | some t => decide (devNow s - acceptLate s ≤ t ∧ t ≤ devNow s))

def markServe : Packet → State → State :=
  serve 0x0602 tableRole trgMarkOk fun r s =>
    let t := (readDt16 (slice 8 16 r.params)).getD 0
    answer r stOk [] (markInstant 2 0xFFFF 0 0 (r.f 0 4) (r.f 4 4) t s)

/-- TRG_MARK. -/
def execTrgMark (at_ : Nat) (p : Packet) (s : State) : Host.Outcome State Fault Refusal :=
  .next (receive 0x0602 p markServe (s.tick at_))

end Sys2Proof.Machine
end

