-- ==== Sys2Proof/Machine/Group.lean ====
section
/-! DEFINITION. The group of hubs: its messages over Skaing and Ethernet, arming, firing and the choice of a fire (09 R236 to
R240, R245; 12 R312, R315, R316). -/

namespace Sys2Proof.Machine

/-! ### Skaing frames (12 R315) -/

/-- The lane of a Skaing endpoint, and of an Ethernet port. -/
def skaingLane (x : Nat) : Nat := 6 + x
def ethLane (x : Nat) : Nat := 4 + x
def laneUp (s : State) (l : Nat) : Bool := decide ((lane s l).state = 5)

/-- An endpoint's link is UP, and its negotiated version. -/
def skaingUp (s : State) (x : Nat) : Bool := decide ((skaing s x).phase = 3) && laneUp s (skaingLane x)
def skaingVer (s : State) (x : Nat) : Nat := (lane s (skaingLane x)).ver

/-- Send a frame; VERSION is the one in force, 1 before any is (log entry 14). -/
def skaingSend (x ftype : Nat) (payload : List Byte) (s : State) : State :=
  let v := skaing s x
  let head := le 1 ftype ++ le 1 (max 1 (skaingVer s x)) ++ le 2 payload.length ++ le 4 v.fseq
  emit (.skaing x ftype (head ++ payload ++ le 4 (crc32c (head ++ payload)))) (setSkaing x { v with fseq := (v.fseq + 1) % 2 ^ 32 } s)

/-! ### Group messages (09 R236) -/

def groupNo (s : State) : Nat := cf s 0x0706 0 0x00 31 16
def hubTag (s : State) : Nat := word s 0x0706 0 0x04
def masterTag (s : State) : Nat := word s 0x0706 0 0x08
def groupPort (s : State) (p : Nat) : Bool := bit p (cf s 0x0706 0 0x0C 3 0)

/-- A group message of 40 bytes. -/
def groupBytes (msg hops group origin gen fireId : Nat) (instant : List Byte) (mode channel : Nat) : List Byte :=
  le 1 msg ++ le 1 hops ++ le 2 group ++ le 4 origin ++ le 4 gen ++ le 4 fireId ++ fitBytes 16 instant ++ le 1 mode ++ le 1 0
    ++ le 2 channel ++ le 4 0

/-- The key of a group, if one is set; none while KEYS is FAILED (16 R403). -/
def groupKey (s : State) (g : Nat) : Option (List Byte) :=
  if s.cz.keys.state = 2 then none else s.cz.keys.groupKeys.find g

/-- A message is to be sent again in 50 us. -/
def repeatLater (p left : Nat) (bytes m : List Byte) (s : State) : State :=
  { s with group.repeats := s.group.repeats ++
      [{ port := p, origin := fld 4 4 m, msg := fld 0 1 m, gen := fld 8 4 m, fireId := fld 12 4 m, bytes := bytes, left := left,
         due := s.now + 50 * usU }] }

/-- The multicast address of a group (12 R312). -/
def groupMac (g : Nat) : List Byte := le 1 0x03 ++ le 1 0x4B ++ le 1 0x41 ++ le 1 0x00 ++ be 2 g

/-- Send a message on a port: 0, 1 SKAING0, 1; 2, 3 ETH0, 1, there under the hub's COUNT. Without the group's key nothing leaves on
Ethernet. Log entries 111 and 120. -/
def groupSend (m : List Byte) (p : Nat) (s : State) : State :=
  if ¬ groupPort s p then s
  else if p < 2 then
    if skaingUp s p then repeatLater p (if skaingVer s p = 2 then 19 else 2) m m (skaingSend p 3 m s) else s
  else
    match groupKey s (groupNo s) with
    | none => s
    | some k =>
      if laneUp s (ethLane (p - 2)) then
        let h := le 1 5 ++ le 1 0 ++ le 2 0 ++ le 4 0 ++ le 8 s.group.count ++ m
        let bytes := h ++ hmac k h
        repeatLater p 2 bytes m (sendFrame (p - 2) (groupMac (groupNo s)) 0x88B5 bytes s)
      else s

/-- Remember a tuple; those older than 10 s go. -/
def remember (m : List Byte) (s : State) : State :=
  { s with group.seen := (fld 4 4 m, fld 0 1 m, fld 8 4 m, fld 12 4 m, s.now) ::
      s.group.seen.filter fun e => decide (s.now < e.2.2.2.2 + 10 * secU) }

/-- A tuple seen in the last 10 s. -/
def duplicate (m : List Byte) (s : State) : Bool :=
  s.group.seen.any fun e => decide (e.1 = fld 4 4 m ∧ e.2.1 = fld 0 1 m ∧ e.2.2.1 = fld 8 4 m ∧ e.2.2.2.1 = fld 12 4 m
    ∧ s.now < e.2.2.2.2 + 10 * secU)

/-- A message on several ports, under the next COUNT (12 R312). -/
def groupSendAll (ports : List Nat) (m : List Byte) (s : State) : State :=
  forAll ports (groupSend m) { s with group.count := s.group.count + 1 }

/-- A message of this hub's own on every enabled port. -/
def originate (m : List Byte) (s : State) : State := groupSendAll (List.range 4) m (remember m s)

/-- An accepted message goes on to the other ports. -/
def forward (port : Nat) (m : List Byte) (s : State) : State :=
  if fld 1 1 m < 8 then
    let m' := m.take 1 ++ le 1 (fld 1 1 m + 1) ++ m.drop 2
    groupSendAll ((List.range 4).filter (· != port)) m' s
  else s

/-- The device time of a DT16 as sent, and its QUAL. -/
def stampTime (bs : List Byte) : Int := toSigned 64 (fld 0 8 bs) * (secU : Int) + ((fld 8 4 bs * 65536 + fld 12 2 bs : Nat) : Int)
def stampQual (bs : List Byte) : Nat := fld 14 2 bs

/-! ### Arming and firing (09 R237 to R239) -/

/-- The journal's PORT of a group port; 6 INTERNAL for the hub's own (16 R408). Log entry 120. -/
def journalPort (port : Nat) : Nat := if port < 2 then 3 + port else if port < 4 then port - 1 else 6

/-- A dropped fire: counted by reason, and for its originator when another hub sent it, with the PORT on which it arrived
(16 R420). -/
def dropFire (reason port origin : Nat) (s : State) : State :=
  let s := { s with group.drops := s.group.drops.put reason (s.group.drops.get reason 0 + 1) }
  if origin = hubTag s then s else raiseOrig 0x0912 3 port (le 4 origin) 1 s

/-- Why a fire is not accepted: 1 another group or generation, 2 before the ARM, 3 at or after the DISARM, 4 too old,
5 in the future, 6 unset time, 7 before the last step; 0 it is accepted. -/
def fireRefused (s : State) (group gen : Nat) (t : Int) (qual : Nat) : Nat :=
  let g := s.group
  if group ≠ groupNo s ∨ group = 0 ∨ gen ≠ g.gen ∨ gen = 0 then 1
  else if qual = 0 ∨ s.time.state = 0 then 6
  else if t < g.armAt then 2
  else if (match g.disarmAt with | none => false | some d => decide (d ≤ t)) then 3
  else if devNow s < t then 5
  else if t + acceptLate s < devNow s then 4
  else if (match g.lastStep with | none => false | some e => decide (t < e)) then 7
  else 0

/-- A fire is marked on MARK_STREAMS, with windows on CAP_STREAMS. -/
def markFire (t : Int) (origin channel fireId : Nat) (s : State) : State :=
  markInstant 1 channel fireId origin (word s 0x0706 0 0x10) (word s 0x0706 0 0x14) t s

/-- A fire meets the group, from a journal PORT: true when it is accepted. -/
def takeFire (port group gen origin channel fireId : Nat) (t : Int) (qual : Nat) (s : State) : State × Bool :=
  let why := fireRefused s group gen t qual
  if why ≠ 0 then (dropFire why port origin s, false)
  else if s.group.multi then (markFire t origin channel fireId s, true)
  else if s.group.decided then (dropFire 8 port origin s, true)
  else
    let kept := { s with group.best := some (t, origin, channel, fireId), group.bestPort := port }
    match s.group.best with
    | none => (kept, true)
    | some b =>
      if t < b.1 ∨ (t = b.1 ∧ origin < b.2.1) then (dropFire 8 s.group.bestPort b.2.1 kept, true)
      else (dropFire 8 port origin s, true)

/-- A FIRE action: the FIRE_ID sent, or 0 when the hub is not ARMED. -/
def fireAction (channel : Nat) (t : Int) (s : State) : State × Nat :=
  if s.group.gstate ≠ 1 then ({ s with group.notSent := s.group.notSent + 1 }, 0)
  else
    let id := s.group.fires + 1
    let m := groupBytes 3 0 (groupNo s) (hubTag s) s.group.gen id (stampOf s t) 0 channel
    let s := originate m { s with group.fires := id }
    ((takeFire 6 (groupNo s) s.group.gen (hubTag s) channel id t s.time.state s).1, id)

/-- The group is armed for a generation; a fire kept for the one before still waits for its decision (09 R239). -/
def armGroup (gen mode : Nat) (t : Int) (s : State) : State :=
  { s with group.gen := gen, group.gstate := 1, group.multi := decide (mode = 1), group.armAt := t, group.disarmAt := none,
           group.kept := s.group.kept ++ s.group.best.toList, group.best := none, group.decided := false }

/-- The group is disarmed from an instant on. Log entry 111. -/
def disarmGroup (t : Int) (s : State) : State := { s with group.gstate := 0, group.disarmAt := some t }

/-- An ARM or DISARM accepted from the master is journaled (16 R407). -/
def groupRx (port : Nat) (m : List Byte) (s : State) : State :=
  jInternalAt (journalPort port) (stampNow s) 0xFF08 (slice 0 1 m ++ zeros 3 ++ slice 4 4 m ++ slice 8 4 m ++ slice 16 16 m) s

/-- A message that is no duplicate, from a group port: true when it is accepted. -/
def takeMessage (port : Nat) (m : List Byte) (s : State) : State × Bool :=
  let inst := slice 16 16 m
  let group := fld 2 2 m
  let origin := fld 4 4 m
  let gen := fld 8 4 m
  if fld 0 1 m = 3 then takeFire (journalPort port) group gen origin (fld 34 2 m) (fld 12 4 m) (stampTime inst) (stampQual inst) s
  else if group ≠ groupNo s ∨ group = 0 ∨ origin ≠ masterTag s then (s, false)
  else if fld 0 1 m = 1 ∧ s.group.gen < gen ∧ s.time.state ≠ 0 ∧ fld 32 1 m ≤ 1 then
    (groupRx port m (armGroup gen (fld 32 1 m) (stampTime inst) s), true)
  else if fld 0 1 m = 2 ∧ gen = s.group.gen then (groupRx port m (disarmGroup (stampTime inst) s), true)
  else (s, false)

/-- A message whose frame is sound: duplicates are dropped, the others are taken, and accepted ones forwarded. -/
def groupMessage (port : Nat) (m : List Byte) (s : State) : State :=
  if m.length ≠ 40 ∨ duplicate m s then s
  else
    let r := takeMessage port m (remember m s)
    if r.2 then forward port m r.1 else r.1

/-- A frame whose CRC fails is dropped and counted (12 R315). -/
def crcDrop (x : Nat) (s : State) : State := setSkaing x { skaing s x with crcDrops := (skaing s x).crcDrops + 1 } s

/-- The frame of an Ethernet message: HMAC, then COUNT (12 R312). -/
def groupFrame (port sender : Nat) (hdr body mac : List Byte) (s : State) : State :=
  match groupKey s (groupNo s) with
  | none => s
  | some k =>
    if hmac k (hdr ++ body) ≠ mac then
      raiseOrig 0x0912 5 (journalPort port) (le 1 (journalPort port)) 1 { s with group.hmacFails := s.group.hmacFails + 1 }
    else
      let n := fld 8 8 hdr
      let old := (s.group.peers.find? fun x => decide (x.1 = port ∧ x.2.1 = sender)).map (·.2.2)
      let stale : Bool := match old with | none => false | some c => decide (n ≤ c)
      if fld 0 1 hdr ≠ 5 ∨ stale then s
      else groupMessage port body { s with
        group.peers := (port, sender, n) :: s.group.peers.filter fun x => !decide (x.1 = port ∧ x.2.1 = sender) }

/-- GROUP_MESSAGE_RECEIVE on a port (0, 1 SKAING0, 1; 2, 3 ETH0, 1) from a station `sender`; over Skaing the frame's CRC
holds, and version 2 acknowledges (12 R316). -/
def groupReceive (port sender : Nat) (hdr body mac : List Byte) (crcOk : Bool) (s : State) : State :=
  if port < 2 ∧ ¬ crcOk then crcDrop port s
  else if ¬ groupPort s port ∨ ¬ s.boot.fwRuns then s
  else if port < 2 then
    if ¬ skaingUp s port then s
    else
      let s := setSkaing port { skaing s port with lastRx := s.now } s
      let s := if skaingVer s port = 2 then skaingSend port 4 (slice 4 4 body ++ slice 0 1 body ++ zeros 3 ++ slice 8 8 body) s else s
      groupMessage port body s
  else groupFrame port sender hdr body mac s

def execGroupMessageReceive (at_ port sender : Nat) (hdr body mac : List Byte) (crcOk : Bool) (s : State) :
    Host.Outcome State Fault Refusal :=
  .next (groupReceive port sender hdr body mac crcOk (s.tick at_))

/-- GROUP_MESSAGE_REPEAT: messages that are due go out again (12 R312, R316). -/
def groupRepeat (s : State) : State :=
  let l := s.group.repeats
  let due := l.filter fun r => decide (r.due ≤ s.now)
  let keep := l.filterMap fun r =>
    if r.due ≤ s.now then (if r.left ≤ 1 then none else some { r with left := r.left - 1, due := r.due + 50 * usU }) else some r
  due.foldl (fun s r => if r.port < 2 then (if skaingUp s r.port then skaingSend r.port 3 r.bytes s else s)
    else (if laneUp s (ethLane (r.port - 2)) then sendFrame (r.port - 2) (groupMac (groupNo s)) 0x88B5 r.bytes s else s))
    { s with group.repeats := keep }

def execGroupMessageRepeat (at_ : Nat) (s : State) : Host.Outcome State Fault Refusal := .next (groupRepeat (s.tick at_))

/-- SKAING_GROUP_ACK: a version 2 partner has a message (12 R316). -/
def groupAck (x origin msg gen fireId : Nat) (crcOk : Bool) (s : State) : State :=
  if 2 ≤ x then s
  else if ¬ crcOk then crcDrop x s
  else if ¬ skaingUp s x then s
  else
    let s := setSkaing x { skaing s x with lastRx := s.now } s
    { s with group.repeats := s.group.repeats.filter fun r =>
        !decide (r.port = x ∧ r.origin = origin ∧ r.msg = msg ∧ r.gen = gen ∧ r.fireId = fireId) }

def execSkaingGroupAck (at_ x origin msg gen fireId : Nat) (crcOk : Bool) (s : State) : Host.Outcome State Fault Refusal :=
  .next (groupAck x origin msg gen fireId crcOk (s.tick at_))

/-- The kept fires of earlier generations that are due are marked (09 R239). -/
def earlierShots (s : State) : State :=
  let due := s.group.kept.filter fun b => decide (b.1 + acceptLate s ≤ devNow s)
  let s := { s with group.kept := s.group.kept.filter fun b => decide (devNow s < b.1 + acceptLate s) }
  due.foldl (fun s b => markFire b.1 b.2.1 b.2.2.1 b.2.2.2 s) s

/-- ONE_SHOT_DECISION: at the earliest fire's instant + ACCEPT_LATE_MS it is marked alone (09 R239). Log entry 111. -/
def oneShot (s : State) : State :=
  let s := earlierShots s
  match s.group.best with
  | none => s
  | some b =>
    if devNow s < b.1 + acceptLate s then s
    else markFire b.1 b.2.1 b.2.2.1 b.2.2.2 { s with group.best := none, group.decided := true, group.gstate := 2 }

def execOneShotDecision (at_ : Nat) (s : State) : Host.Outcome State Fault Refusal := .next (oneShot (s.tick at_))

/-- FIRES_DROPPED_REPORT: counts by reason 1 to 8, actions not sent, messages with a bad HMAC (09 R236, R238; log entry 14). -/
def firesReport (s : State) : State :=
  let g := s.group
  if g.drops.isEmpty ∧ g.notSent = 0 ∧ g.hmacFails = 0 then s
  else
    let body := ((span 1 8).map fun r => le 4 (g.drops.get r 0)).flatten ++ le 4 g.notSent ++ le 4 g.hmacFails
    raise (evB 0x0912 0xFFFF body) { s with group.drops := [], group.notSent := 0, group.hmacFails := 0 }

def execFiresDroppedReport (at_ : Nat) (s : State) : Host.Outcome State Fault Refusal := .next (firesReport (s.tick at_))

/-! ### The group commands (09 R245) -/

def isMaster (s : State) : Bool := decide (hubTag s = masterTag s ∧ hubTag s ≠ 0 ∧ groupNo s ≠ 0)

/-- GROUP_ARM runs, with the instant from which it holds. Log entry 111. -/
def groupArmRun (r : Req) (t : Int) (s : State) : State :=
  if ¬ isMaster s ∨ s.time.state = 0 then refuseOr r stConflict s
  else
    let gen := s.group.gen + 1
    let m := groupBytes 1 0 (groupNo s) (hubTag s) gen 0 (stampOf s t) (r.f 0 1) 0
    answerOr r stOk [] 0x1010 (jDone { r with ranAt := stampOf s t } [] (originate m (armGroup gen (r.f 0 1) t s)))

/-- Log entry 111. -/
def groupArmServe : Packet → State → State :=
  serve 0x0604 tableRole (fun r s => exactly 4 r s && decide (r.f 0 1 ≤ 1) && zeroAt 1 3 r) fun r s =>
    match r.applyAt with
    | none => groupArmRun r (devNow s) s
    | some t => if ¬ isMaster s then refuse r stConflict s else schedule r t s

/-- GROUP_ARM. -/
def execGroupArm (at_ : Nat) (p : Packet) (s : State) : Host.Outcome State Fault Refusal :=
  .next (receive 0x0604 p groupArmServe (s.tick at_))

def groupDisarmServe : Packet → State → State :=
  serve 0x0605 tableRole (exactly 0) fun r s =>
    if ¬ isMaster s then refuse r stConflict s
    else
      let t := devNow s
      let m := groupBytes 2 0 (groupNo s) (hubTag s) s.group.gen 0 (stampOf s t) 0 0
      answerOr r stOk [] 0x1010 (jDone r [] (originate m (disarmGroup t s)))

/-- GROUP_DISARM. -/
def execGroupDisarm (at_ : Nat) (p : Packet) (s : State) : Host.Outcome State Fault Refusal :=
  .next (receive 0x0605 p groupDisarmServe (s.tick at_))

def groupFireServe : Packet → State → State :=
  serve 0x0606 tableRole (fun r s => exactly 18 r s && (readDt16 (slice 0 16 r.params)).isSome
      && (isChan s (r.f 16 2) || decide (r.f 16 2 = 0xFFFF))) fun r s =>
    if s.group.gstate ≠ 1 then refuse r stConflict s
    else
      let t := if allZero (slice 0 16 r.params) then devNow s else (readDt16 (slice 0 16 r.params)).getD 0
      answer r stOk [] (fireAction (r.f 16 2) t s).1

/-- GROUP_FIRE. -/
def execGroupFire (at_ : Nat) (p : Packet) (s : State) : Host.Outcome State Fault Refusal :=
  .next (receive 0x0606 p groupFireServe (s.tick at_))

end Sys2Proof.Machine
end

