-- ==== Sys2Proof/Machine/Trigger.lean ====
section
/-! DEFINITION. Sequencers and the trigger commands (09 R225 to R231, R245). -/

namespace Sys2Proof.Machine

/-! ### What a sequencer sees (09 R222, R225, R226) -/

/-- What a condition holds at a sample, the position and the instant that its mark carries, INTERPOLATED and REBASED. -/
structure CondView where
  value : Bool
  pos : Nat × Nat
  time : Int
  interp : Bool
  rebased : Bool
  deriving DecidableEq, Repr, Inhabited

/-- A view at the sample's own instant. -/
def plainView (s : State) (n i : Nat) (v : Bool) : CondView :=
  { value := v, pos := (i, 0), time := posTime s n (i, 0), interp := false, rebased := false }

/-- Edges of a pin with the polarity asked for, within the period of a sample: the earliest. -/
def edgeIn (s : State) (n i pin dir : Nat) : Option Int :=
  let lo : Int := ((i * periodOf s n : Nat) : Int)
  let hit := fun (e : Nat × Bool × Int) =>
    decide (e.1 = pin ∧ lo ≤ e.2.2 ∧ e.2.2 < lo + (periodOf s n : Int)) && (decide (dir = 2) || (e.2.1 == decide (dir = 0)))
  (s.trg.edges.filter hit).foldl (fun a e => match a with | none => some e.2.2 | some t => some (min t e.2.2)) none

/-- A counter of a sequencer has reached its limit; a timer expires at index i, or in the range skipped before it. -/
def counterAt (s : State) (k j : Nat) : Bool :=
  if j = 0 then decide (cf s 0x0701 k 0x08 31 16 ≤ (seqr s k).cnt0) else decide (cf s 0x0701 k 0x08 15 0 ≤ (seqr s k).cnt1)
def timerOf (s : State) (k j : Nat) : Option Nat := if j = 0 then (seqr s k).tmr0 else (seqr s k).tmr1

/-- A condition at sample i, as sequencer k sees it. Log entry 109. -/
def condView (s : State) (k i c : Nat) : CondView :=
  let n := refStream s k
  let ty := condType s c
  let p := condParam s c
  if 1 ≤ ty ∧ ty ≤ 5 then
    match (cond s c).log.find? (fun e => e.index == i) with
    | none => plainView s n i (cond s c).value
    | some e => if ty = 2 then { value := e.value, pos := e.pos, time := posTime s n e.pos, interp := true, rebased := false }
                else plainView s n i e.value
  else if ty = 6 then
    match edgeIn s n i p (condDir s c) with
    | none => plainView s n i false
    | some t => { value := true, pos := edgePos s n t, time := t, interp := false, rebased := false }
  else if ty = 7 then plainView s n i (counterAt s k (p % 2))
  else if ty = 8 then
    match timerOf s k (p % 2) with
    | none => plainView s n i false
    | some e => { plainView s n i (decide ((seqr s k).next ≤ e ∧ e ≤ i)) with rebased := decide (e < i) }
  else if ty = 9 then plainView s n i ((maskT s p).log.any fun e => decide (e.1 = i) && e.2.1)
  else if ty = 10 then plainView s n i ((maskT s p).log.any fun e => decide (e.1 = i) && e.2.2)
  else plainView s n i false

/-- The word of transition t of a sequencer. Log entry 109. -/
def transWord (s : State) (k t : Nat) : Nat := word s 0x0703 k (4 * t)

/-- Valid transitions of a state whose condition allows them, ascending: transition, condition, view. Log entry 109. -/
def takeable (s : State) (k i : Nat) : List (Nat × Nat × CondView) :=
  (List.range 4).filterMap fun j =>
    let t := 4 * (seqr s k).state + j
    let w := transWord s k t
    if bit 24 w then
      let c := bits 31 26 w
      let v := condView s k i c
      if bit 25 w then (if v.value then none else some (t, c, plainView s (refStream s k) i true))
      else if v.value then some (t, c, v) else none
    else none

/-! ### Actions (09 R227) -/

/-- Conditions met, one bit each. -/
def metBits (l : List (Nat × Nat × CondView)) : Nat := l.foldl (fun a x => a ||| 2 ^ x.2.1) 0

/-- The channel of a deciding condition. -/
def markChannel (s : State) (c : Nat) : Nat := if 1 ≤ condType s c ∧ condType s c ≤ 5 then condChannel s c else 0xFFFF

/-- The sequencer's counters and timers after a transition at sample i. -/
def countersAfter (s : State) (k i w : Nat) : Seqr :=
  let v := seqr s k
  let v := if bit 4 w then { v with cnt0 := 0, cnt1 := 0 } else v
  let v := if bit 2 w then { v with cnt0 := min 65535 (v.cnt0 + 1) } else v
  let v := if bit 3 w then { v with cnt1 := min 65535 (v.cnt1 + 1) } else v
  let v := if bit 5 w then { v with tmr0 := some (i + word s 0x0701 k 0x0C) } else v
  if bit 6 w then { v with tmr1 := some (i + word s 0x0701 k 0x10) } else v

/-- What the actions after MARK gave a record that has its number: the fire sent and the window opened. -/
def completeMark (id fire capture : Nat) (s : State) : State :=
  { s with trg.waiting := s.trg.waiting.map fun b => if b.markId = id then { b with fireId := fire, captureId := capture } else b }

/-- MARK, FIRE and CAPTURE of a transition, in this order, and MASK_HALT when a test halts the sequencer at this sample. CAPTURE
acts with MARK; within the holdoff it acts without a record. -/
def markActions (k i : Nat) (halt : Bool) (from_ w : Nat) (met : List (Nat × Nat × CondView)) (t : Nat × Nat × CondView)
    (s : State) : State :=
  let n := refStream s k
  let mark := bit 0 w
  let v := seqr s k
  let quiet := mark && (match v.holdoff with | none => false | some h => decide (i ≤ h))
  let chan_ := markChannel s t.2.1
  let id := if mark && !quiet then nextMark s else 0
  let s :=
    if quiet then setSeqr k { v with suppressed := (v.suppressed + 1) % 2 ^ 32, suppBefore := true } s
    else if mark then
      let fl := b2n t.2.2.interp + 2 * b2n (decide (1 < met.length)) + 4 * b2n t.2.2.rebased + 16 * b2n halt + 32 * b2n v.suppBefore
      let s := addMark_ { (default : Bookmark) with
        kind := 0, seq := k, stream := n, fraction := t.2.2.pos.2, channel := chan_, index := t.2.2.pos.1, instant := t.2.2.time,
        condMet := metBits met, transition := t.1, fromState := from_, toState := bits 23 20 w, mflags := fl,
        captureId := noCapture } s
      let h := cf s 0x0701 k 0x14 31 16
      setSeqr k { v with suppBefore := false, lastIndex := t.2.2.pos.1, holdoff := if h = 0 then none else some (i + h) } s
    else s
  let f := if bit 1 w then fireAction chan_ t.2.2.time s else (s, 0)
  let c := if mark then requestAll (word f.1 0x0701 k 0x04) id t.2.2.time f.1 else (f.1, [])
  if mark && !quiet then
    let own := (c.2.find? fun x => decide (captureSource c.1 x.1 = n)).map (·.2)
    completeMark id f.2 ((own.orElse fun _ => (c.2.head?).map (·.2)).getD noCapture) c.1
  else c.1

/-- A record of its own for a HALT_SEQ violation at sample i whose transition, if any, has not been marked. Log entry 109. -/
def haltMark (k i m : Nat) (met : List (Nat × Nat × CondView)) (from_ : Nat) (s : State) : State :=
  let n := refStream s k
  let s := addMark_ { (default : Bookmark) with
    kind := 0, seq := k, stream := n, channel := cf s 0x0704 m 0x00 15 0, index := i, instant := posTime s n (i, 0),
    condMet := metBits met, transition := 255, fromState := from_, toState := (seqr s k).state,
    mflags := 16 + 32 * b2n (seqr s k).suppBefore, captureId := noCapture } s
  setSeqr k { seqr s k with suppBefore := false, lastIndex := i } s

/-- A sequencer evaluates sample i: at most one transition, with its actions in the order of R227. Log entry 109. -/
def seqStep (k i : Nat) (s : State) : State :=
  let met := takeable s k i
  let from_ := (seqr s k).state
  let s := match met with
    | [] => s
    | t :: _ =>
      let w := transWord s k t.1
      let s := setSeqr k (countersAfter s k i w) s
      let s := if bit 7 w then maskStart (refStream s k) k i (bits 19 16 w) s else s
      let halt := (seqr s k).haltAt.any fun h => decide (h.1 = i ∧ t.2.2.pos.1 = i)
      let s := markActions k i halt from_ w met t s
      setSeqr k { seqr s k with state := bits 23 20 w, run := if bit 8 w then 2 else (seqr s k).run } s
  let s := match (seqr s k).haltAt with
    | none => s
    | some h =>
      if h.1 ≤ i then
        let marked_ : Bool := decide (h.1 = i) && match met with
          | [] => false
          | t :: _ => decide (t.2.2.pos.1 = i) && bit 0 (transWord s k t.1) && (match (seqr s k).holdoff with
              | none => true
              | some x => decide (x = i + cf s 0x0701 k 0x14 31 16))
        let s := if marked_ then s else haltMark k h.1 h.2 met from_ s
        setSeqr k { seqr s k with run := 2, haltAt := none } s
      else s
  setSeqr k { seqr s k with next := i + 1, pend := false } s

/-- A sequencer names an EVT condition. -/
def namesEvt (s : State) (k : Nat) : Bool :=
  (List.range 64).any fun t => bit 24 (transWord s k t) && decide (condType s (bits 31 26 (transWord s k t)) = 6)

/-- The next sample of its stream that a sequencer has not evaluated. Log entry 109. -/
def nextSample (s : State) (k : Nat) : Option Nat :=
  ((stream s (refStream s k)).recent.reverse.find? fun p => decide ((seqr s k).next ≤ p.1)).map (·.1)

/-- Edges that no sample still to come can need go. -/
def trimEdges (s : State) : State :=
  let due := (runningStreams s).map (fun n => (stream s n).nNext * periodOf s n)
    ++ ((List.range 8).filter fun k => decide ((seqr s k).run = 1)).map fun k => (seqr s k).next * periodOf s (refStream s k)
  match due with
  | [] => { s with trg.edges := [] }
  | d :: r => let lo : Int := ((r.foldl min d : Nat) : Int); { s with trg.edges := s.trg.edges.filter fun e => decide (lo ≤ e.2.2) }

/-- SEQUENCER_EVALUATE (09 R225). -/
def evaluate (k : Nat) (s : State) : State :=
  if (seqr s k).run ≠ 1 then s
  else
    match nextSample s k with
    | none => s
    | some i =>
      let n := refStream s k
      if namesEvt s k ∧ devNow s ≤ (((i + 1) * periodOf s n + usU : Nat) : Int) then s
      else freeFolios n (trimEdges (trimTrig n (seqStep k i s)))

def execSequencerEvaluate (at_ k : Nat) (s : State) : Host.Outcome State Fault Refusal := .next (evaluate k (s.tick at_))

/-- SEQUENCER_IDLE: its stream has stopped (09 R230). -/
def seqIdle (k : Nat) (s : State) : State :=
  let st := (stream s (refStream s k)).state
  if (seqr s k).run ≠ 0 ∧ (st = 0 ∨ st = 3) ∧ nextSample s k = none then
    raise (ev 0x0910 k) (setSeqr k { seqr s k with run := 0, haltAt := none } s)
  else s

def execSequencerIdle (at_ k : Nat) (s : State) : Host.Outcome State Fault Refusal := .next (seqIdle k (s.tick at_))

/-! ### TRG_ARM, TRG_DISARM (09 R229, R231, R245) -/

/-- A valid transition of a sequencer names what it may not: another stream's condition, another sequencer's counter or timer,
another stream's mask, or starts a mask that is not loaded. -/
def badTransition (s : State) (k w : Nat) : Bool :=
  let n := refStream s k
  let c := bits 31 26 w
  let ty := condType s c
  bit 24 w && (decide (condStream s c ≠ n)
    || (decide (ty = 7 ∨ ty = 8) && decide (condParam s c / 2 ≠ k))
    || (decide (ty = 9 ∨ ty = 10) && decide (maskStream s (condParam s c) ≠ n))
    || (bit 7 w && (!(maskT s (bits 19 16 w)).loaded || decide (maskStream s (bits 19 16 w) ≠ n))))

/-- A sequencer may not be armed. -/
def armRefused (s : State) (k : Nat) : Bool :=
  let n := refStream s k
  !running s n || (List.range 64).any (fun t => badTransition s k (transWord s k t))
    || (decide (streamReduce s n ≠ 0) && (capturesOf s n).isEmpty)

/-- Arm a sequencer from an index on; `pend`: the host chose the index. -/
def armSeq (pend : Bool) (i k : Nat) (s : State) : State :=
  let v := seqr s k
  setSeqr k { v with run := 1, pend := pend, state := cf s 0x0701 k 0x00 3 0, next := i, cnt0 := 0, cnt1 := 0, tmr0 := none, tmr1 := none,
                     holdoff := none, suppBefore := false, haltAt := none } s

def seqMask (m : Nat) : List Nat := (List.range 8).filter fun k => bit k m

/-- AT_INDEX names an index whose sample has been evaluated already. -/
def armLate (r : Req) (s : State) : Bool :=
  decide (r.f 1 1 = 1) && (seqMask (r.f 0 1)).any fun k =>
    running s (refStream s k) && decide (r.f 4 8 < (stream s (refStream s k)).nNext)

def trgArmServe : Packet → State → State :=
  serveAt armLate 0x0600 tableRole (fun r s => exactly 12 r s && decide (r.f 0 1 ≠ 0 ∧ r.f 1 1 ≤ 1) && zeroAt 2 2 r) fun r s =>
    let l := seqMask (r.f 0 1)
    if l.any (armRefused s) then refuse r stConflict s
    else
      answer r stOk [] (forAll l (fun k s => armSeq (decide (r.f 1 1 = 1)) (if r.f 1 1 = 1 then r.f 4 8 else (stream s (refStream s k)).nNext) k s) s)

/-- TRG_ARM. -/
def execTrgArm (at_ : Nat) (p : Packet) (s : State) : Host.Outcome State Fault Refusal :=
  .next (receive 0x0600 p trgArmServe (s.tick at_))

/-- A sequencer becomes IDLE and its mask tests end. -/
def disarmSeq (k : Nat) (s : State) : State :=
  let s := setSeqr k { seqr s k with run := 0, haltAt := none, pend := false } s
  forAll ((List.range 16).filter fun m => (maskT s m).test.any fun t => t.seq == k)
    (fun m s => setMask m { maskT s m with test := none } s) s

/-- Log entry 110. -/
def trgDisarmServe : Packet → State → State :=
  serve 0x0601 tableRole (fun r s => exactly 4 r s && decide (r.f 0 1 ≠ 0) && zeroAt 1 3 r) fun r s =>
    answer r stOk [] (forAll (seqMask (r.f 0 1)) disarmSeq s)

/-- TRG_DISARM. -/
def execTrgDisarm (at_ : Nat) (p : Packet) (s : State) : Host.Outcome State Fault Refusal :=
  .next (receive 0x0601 p trgDisarmServe (s.tick at_))

/-! ### TRG_MASK_LOAD (09 R231, R245) -/

/-- Points of the store in use by the other masks. -/
def pointsUsed (s : State) (k : Nat) : Nat :=
  total (((List.range 16).filter (· != k)).map fun m => if (maskT s m).loaded || (maskT s m).loading then (maskT s m).count else 0)

/-- The points that a packet carries from an offset on. -/
def packetPoints (bs : List Byte) : List (Nat × Nat) :=
  (List.range (bs.length / 8)).map fun j => (fld (8 * j) 4 bs, fld (8 * j + 4) 4 bs)

/-- A point that may be loaded. -/
def pointOk (p : Nat × Nat) : Bool := !nan32 p.1 && !nan32 p.2 && decide (key32 p.2 ≤ key32 p.1)

/-- Log entry 110. -/
def maskLoadOk (r : Req) (s : State) : Bool :=
  let part := decide (r.f 1 1 = 1)
  let off := if part then 8 else 4
  let pts := packetPoints (r.params.drop off)
  let cnt := r.f 2 2 + 1
  let first := if part then r.f 4 4 else 0
  decide (off ≤ r.params.length ∧ (r.params.length - off) % 8 = 0 ∧ r.f 0 1 < 16 ∧ r.f 1 1 ≤ 1) && pts.all pointOk
    && (if part then decide (pts ≠ [] ∧ first + pts.length ≤ cnt) else decide (pts.length = cnt))
    && (decide (part = true ∧ first ≠ 0) || decide (pointsUsed s (r.f 0 1) + cnt ≤ 262144))

/-- Points enter a mask from a first one on. -/
def putPoints (first : Nat) (l : List (Nat × Nat)) (t : Tab (Nat × Nat)) : Tab (Nat × Nat) :=
  (l.zipIdx).foldl (fun t p => t.put (first + p.2) p.1) t

/-- A load that has every point is complete. -/
def loadDone (m : MaskT) : MaskT :=
  if m.points.length = m.count then { m with loaded := true, loading := false } else m

def maskLoadServe : Packet → State → State :=
  serve 0x0603 tableRole maskLoadOk fun r s =>
    let k := r.f 0 1
    let m := maskT s k
    let cnt := r.f 2 2 + 1
    let done := fun m s => answer r stOk [] (jDone r [] (setMask k m s))
    if m.test.isSome then refuse r stConflict s
    else if r.f 1 1 = 0 then
      done { m with loaded := true, loading := false, count := cnt, points := putPoints 0 (packetPoints (r.params.drop 4)) [] } s
    else
      let first := r.f 4 4
      let pts := packetPoints (r.params.drop 8)
      if first = 0 then done (loadDone { m with loaded := false, loading := true, count := cnt, points := putPoints 0 pts [] }) s
      else if ¬ m.loading then refuse r stConflict s
      else if cnt ≠ m.count ∨ (pts.zipIdx).any (fun p => match m.points.find (first + p.2) with
          | none => false
          | some x => decide (x ≠ p.1)) then refuse r stInvalid s
      else done (loadDone { m with points := putPoints first pts m.points }) s

/-- TRG_MASK_LOAD. -/
def execTrgMaskLoad (at_ : Nat) (p : Packet) (s : State) : Host.Outcome State Fault Refusal :=
  .next (receive 0x0603 p maskLoadServe (s.tick at_))

end Sys2Proof.Machine
end

