-- ==== Sys2Proof/Machine/Rebase.lean ====
section
/-! DEFINITION. Steps of device time: the first lock, TIME_SET_INITIAL and TIME_REBASE, the re-phase of the grid, and edge
stamps (04 R94; 05 R137; 08 R199, R205 to R207, R215, R220; 09 R230). -/

namespace Sys2Proof.Machine

/-! ### What is withdrawn (08 R206) -/

/-- A scheduled action at or after e_r is withdrawn: an IU_ARM with its event, another with CONFLICT. -/
def dropSched (e : Int) (s : State) : State :=
  let l := s.cz.sched.filter fun x => decide (e ≤ x.time)
  let s := { s with cz.sched := s.cz.sched.filter fun x => decide (x.time < e) }
  l.foldl (fun s x =>
    if x.req.opcode = 0x0503 then
      raise (ev 0x0815 (x.req.f 0 1)) (onSession x.req.session (fun v => { v with owed := v.owed.filter (· != x.req.tag) }) s)
    else refuseOr x.req stConflict s) s

/-- A commit at or after e_r, by strobe count, ends with CONFLICT and its blocks are staged again. -/
def dropCommits (edge : Nat) (s : State) : State :=
  let l := s.cz.commits.filter fun c => decide (edge ≤ c.edge)
  let s := { s with cz.commits := s.cz.commits.filter fun c => decide (c.edge < edge) }
  l.foldl (fun s c => refuseOr c.req stConflict (returnItems c (forAll (servingQuires s) (fun q => toQuire q 2 c.edge) s))) s

/-- Timed injections at or after e_r end CANCELLED. -/
def dropInjections (e : Int) (s : State) : State :=
  forAll (quireList s) (fun q s =>
    let l := (witOf s q).injections.filter fun j => match j.hold with | none => false | some h => decide (e ≤ h * (witTickU : Int))
    l.foldl (fun s j => endInjection q j.id 1 s) s) s

/-- Streams that are STARTING begin when their first sample lies before e_r; the others are withdrawn, and so are stops at or
after it. Log entry 112. -/
def dropStreams (e : Int) (s : State) : State :=
  forAll streamList (fun n s =>
    let st := stream s n
    let before := fun (i : Nat) => decide (((i * periodOf s n : Nat) : Int) < e)
    if st.state = 1 then
      if before st.n0 then beginRun n s
      else
        let s := withdrawStart n s
        if filtered s n then raise (evS 0x1011 n n (plainBody n)) s else s
    else if st.state = 2 ∧ st.nLast.any (fun l => !before l) then setStream n { st with nLast := none } s
    else s) s

/-- A TRG_ARM AT_INDEX whose index lies at or after e_r, and that no sample has reached, is withdrawn: the sequencer is IDLE.
Log entry 112. -/
def dropArms (e : Int) (s : State) : State :=
  forAll (List.range 8) (fun k s =>
    if (seqr s k).run = 1 ∧ (seqr s k).pend = true ∧ e ≤ (((seqr s k).next * periodOf s (refStream s k) : Nat) : Int) then
      raise (ev 0x0910 k) (setSeqr k { seqr s k with run := 0, pend := false, haltAt := none } s)
    else s) s

/-- A step at e_r withdraws what was chosen on the old scale. Log entry 112. -/
def withdrawAll (edge : Nat) (s : State) : State :=
  let e : Int := ((edge * strobeU : Nat) : Int)
  dropStreams e (dropInjections e (dropCommits edge (dropSched e (dropArms e s))))

/-! ### Renumbering of sinc instants (04 R94) -/

def Mark.shift (d : Int) (k : Mark) : Mark := { k with first := k.first + d, last := k.last.map (· + d) }
/-- Log entry 75. -/
def QSpan.shift (d : Int) (x : QSpan) : QSpan := { x with first := x.first + d, last := x.last.map (· + d) }
def Hold.shift (d : Int) (h : Hold) : Hold := { first := h.first + d, last := h.last + d, ufrom := h.ufrom.map (· + d) }
def StandIn.shift (d : Int) (v : StandIn) : StandIn := { v with first := v.first + d, last := v.last.map (· + d) }

/-- A channel: its numbers move by d, its device times by the step. -/
def Chan.shift (d step : Int) (v : Chan) : Chan :=
  { v with histNew := v.histNew + d, histFirst := v.histFirst + d, marks := v.marks.map (Mark.shift d),
           slots := v.slots.map (fun l => { l with from_ := l.from_ + d }), qs := v.qs.map (QSpan.shift d),
           run := v.run.map (fun r => { r with first := r.first + d }),
           wFrom := v.wFrom.map fun p => (p.1 + step, p.2.map (· + step)) }

def ExcGroup.shift (d step : Int) (v : ExcGroup) : ExcGroup :=
  { v with holds := v.holds.map (Hold.shift d), blankEnd := v.blankEnd + step, nowAt := v.nowAt + d,
           phaseFrom := v.phaseFrom + step, events := v.events.map (· + step),
           pulse := v.pulse.map (fun p => { p with opened := p.opened + step }),
           pulseHold := v.pulseHold.map fun p => (p.1 + d, p.2 + d) }

def Tone.shift (d : Int) (v : Tone) : Tone := { v with scan := v.scan.map fun k => { k with first := k.first + d } }

def Witness.shift (d : Int) (v : Witness) : Witness :=
  { v with posA := v.posA.map (StandIn.shift d), posB := v.posB.map (StandIn.shift d), permAt := v.permAt.map (· + d),
           slotEnd := v.slotEnd + 200 * d, simulUntil := v.simulUntil + d * (sincU : Int) }

def Ensemble.shift (d : Int) (v : Ensemble) : Ensemble :=
  { v with qs := v.qs.map (QSpan.shift d), thetas := v.thetas.map (fun p => (p.1 + d, p.2)), thetaLost := v.thetaLost.map (· + d), thetaFrom := v.thetaFrom + d }

def SPair.shift (d : Int) (v : SPair) : SPair :=
  { v with a := { v.a with from_ := v.a.from_ + d }, b := { v.b with from_ := v.b.from_ + d } }

/-- An edge by strobe count, moved in elapsed time. -/
def moveEdge (step : Int) (e : Nat) : Nat := (strobeCeil (((e * strobeU : Nat) : Int) + step)).toNat

/-- Edges of a service action that waits, by strobe count; 0 where none is set. -/
def Quire.shift (step : Int) (v : Quire) : Quire :=
  { v with drainEdge := v.drainEdge.map (moveEdge step), reentryEdge := if v.reentryEdge = 0 then 0 else moveEdge step v.reentryEdge }

def Stream.shiftBy (d : Int) (st : Stream) : Stream :=
  { st with floor := st.floor + d, fades := st.fades.map (fun f => { f with e := f.e + d }),
            fade := st.fade.map (fun f => { f with e := f.e + d }),
            grids := st.grids.map fun g => { g with edge := g.edge + d } }

/-- The table with a function applied to every entry. -/
def Tab.mapV {α : Type} (f : α → α) (t : Tab α) : Tab α := t.map fun p => (p.1, f p.2)

/-- Every number moves by d, and device times kept by the converters by the step. Log entry 98. -/
def renumber (d step : Int) (s : State) : State :=
  { s with
    chans := Tab.mapV (Chan.shift d step) s.chans
    exc := Tab.mapV (ExcGroup.shift d step) s.exc
    wit := Tab.mapV (Witness.shift d) s.wit
    tone := Tab.mapV (Tone.shift d) s.tone
    quires := Tab.mapV (Quire.shift step) s.quires
    cal.ens := Tab.mapV (Ensemble.shift d) s.cal.ens
    safe.pairs := Tab.mapV (SPair.shift d) s.safe.pairs
    store.streams := Tab.mapV (Stream.shiftBy d) s.store.streams
    past := s.past.map fun p => (p.1 + d, p.2)
    conv.closed := s.conv.closed.map (· + d)
    conv.opens := s.conv.opens.map fun p => { p with number := p.number + d } }

/-! ### The streams at a re-phase (05 R137; 08 R205; 10 R253) -/

/-- The body of a TIME_REBASE record. -/
def rebaseBody (step : Int) (m0 : Nat) : List Byte :=
  leS 8 (step / (secU : Int)) ++ le 4 ((step % (secU : Int)).toNat / 65536) ++ le 2 ((step % (secU : Int)).toNat % 65536) ++ le 2 0
    ++ le 4 m0 ++ le 4 0

/-- A running stream's old grid ends; n0 and m0 of the new one go into its record. `old` and `new` are the times of e_r.
Log entry 98. -/
def regrid (first : Bool) (old new d : Int) (n : Nat) (s : State) : State :=
  if ¬ running s n ∨ isRelay s n then s
  else
    let oldLast := indexCeil s n old - 1
    let n0 := indexCeil s n new
    let e := sincCeil new
    let m0 := (window_ (streamK s n) (streamN s n) n0 e).length
    let g : Grid := { oldLast := oldLast, n0 := n0, delta := d, edge := e, unset := first }
    let st := { stream s n with unsetLast := if first then some oldLast else (stream s n).unsetLast,
                                skipped := (stream s n).skipped + (n0 - 1 - oldLast) }
    let s := setStream n (if st.nNext ≤ oldLast then { st with grids := st.grids ++ [g] }
      else { st with floor := e, nNext := max st.nNext n0, grids := st.grids }) s
    let s := if st.nNext ≤ oldLast then s else restartConds true n (leaveGrid n oldLast s)
    let s := endWindows n oldLast 16 (fun w => decide (oldLast < w.last)) s
    dueDisc n { mkDisc s 1 n0 oldLast (rebaseBody (new - old) m0) with
      dflags := b2n first + 2 * b2n (decide (m0 < streamN s n)) } s

/-- The fade that runs on a stream begins at the same edge, by the new index (05 R140). -/
def refade (n : Nat) (s : State) : State :=
  let st := stream s n
  setStream n { st with fade := st.fade.map fun f => { f with nf := indexCeil s n (sincTime f.e) } } s

/-- The outputs whose window holds part of the stretched period, up to the first sinc edge of the new grid, are replaced (04
R94). Log entry 98. -/
def markRephase (lo hi : Int) (s : State) : State :=
  forAll (quireList s) (fun q s => if (quire s q).running then forAll (quireCodes q) (fun c => addMark c .rephase lo (some hi)) s else s) s

/-! ### The edge -/

/-- PTP and Skaing exchanges under way are dropped: their stamps lie on the old scale. Log entry 112. -/
def dropExchanges (step : Int) (s : State) : State :=
  { s with
    ptp := Tab.mapV (fun (v : PtpPort) => { v with sync := none, masterToSlave := none, delayReq := none, pdelay := none }) s.ptp
    skaing := Tab.mapV (fun (v : Skaing) => { v with heardTime := false, tx := 0 }) s.skaing
    time.sources := Tab.mapV (fun (v : TimeSource) =>
      { v with meas := v.meas.map (fun p => (p.1, p.2 - step)), within_ := 0 }) s.time.sources
    time.offset := s.time.offset - step }

/-- Follow a source after a step: its last measurement counts as accepted. -/
def followStepped (x : Nat) (s : State) : State :=
  let v := srcOf s x
  follow x (setSrc x { v with lastAccepted := (v.meas.head?.map (·.1)).getD s.now } s)

/-- The rate difference that qualification removed, in ppb: the loop's frequency estimate at a first lock (08 R200). -/
def lockRate (f : Rat) (s : State) : State :=
  let f := if 200000 < f then 200000 else if f < -200000 then -200000 else f
  { setRate (roundAway (f * ((2 ^ 48 : Nat) : Rat) / 1000000000)) s with time.f := f, time.s := 0 }

/-- The last measurement of a source lies within JUMP_NS of device time as it stands. -/
def nearNow (s : State) (x : Nat) : Bool :=
  (srcOf s x).present && (match (srcOf s x).meas with | [] => false | p :: _ => decide (p.2.natAbs ≤ jumpLimit s))

/-- The servo after a step: it follows the source of a first lock or of TO_SOURCE; after a value of the host it is FREE, or
takes the state that its sources produce (08 R199, R202, R203). -/
def servoAfter (x : TimeStep) (s : State) : State :=
  if x.source ≠ 0 then
    let gone := ¬ (srcOf s x.source).present
    let s := followStepped x.source (if x.kind = 0 then lockRate x.rate s else s)
    -- a source lost since the step was prepared is lost at once (08 R202)
    if gone then loseSource x.source s else s
  else if x.kind = 2 then s
  else if (srcOrder s).isEmpty then enterServo 5 { s with time.source := 5 }
  else match (srcOrder s).find? (nearNow s) with
    | some y => followStepped y s
    | none =>
      let any := (srcOrder s).any fun y => (srcOf s y).present
      enterServo 2 { s with time.source := 5, time.refusedSince := if any then some s.now else none }

/-- The journal entry and the final reply of a step, with the raw count at e_r (16 R407, 08 R220). Log entry 111. -/
def stepRecord (x : TimeStep) (old new : Int) (raw q : Nat) (s : State) : State :=
  match x.req with
  | none => jInternalAt 6 (stampOf s new) 0xFF05 (dt16 old q ++ stampOf s new ++ le 1 x.source) s
  | some r =>
    let reply := le 8 raw ++ (if x.kind = 2 then dt16 old q else []) ++ stampOf s new
      ++ (if x.kind = 2 then le 4 s.time.rebases else [])
    answer r stOk reply (jDone { r with ranAt := stampOf s new } reply s)

/-- The step itself at e_r: `old` and `new` are its times on the two scales. -/
def timeStep (x : TimeStep) (s : State) : State :=
  let old : Int := ((x.edge * strobeU : Nat) : Int)
  let new := old + x.delta
  let q := s.time.state
  let raw := (rawOf s old).floor.toNat
  let s := withdrawAll x.edge s
  let lo := spanFirst old
  let d := sincCeil new - sincCeil old
  let s := reAnchor s
  let s := { s with time.step := none, time.ancDev := s.time.ancDev + x.delta, time.rebases := (s.time.rebases + 1) % 2 ^ 32,
                    time.steps := 16 * raw :: s.time.steps }
  let s := renumber d x.delta (dropExchanges x.delta s)
  let s := ptpDecideBoth (servoAfter x s)
  let s := forAll streamList (fun n s => refade n (regrid (decide (x.kind < 2)) old new d n s)) s
  let s := markRephase (lo + d) (spanLast (sincTime (sincCeil new))) s
  let s := forAll (quireList s) (fun q s => setEns q { ensOf s q with dayLast := (new / ((86400 * secU : Nat) : Int)).toNat } s) s
  let s := { s with group.lastStep := some new, safe.lastEval := (new / (125 * (usU : Int))).toNat }
  stepRecord x old new raw q s

/-- A stream runs at e_r: it is RUNNING, or STARTING with a first sample before it (08 R206). -/
def runsAtStep (s : State) (edge : Nat) : Bool :=
  anyRunning s || streamList.any fun n => decide ((stream s n).state = 1 ∧ (stream s n).n0 * periodOf s n < edge * strobeU)

/-- A backward step that finds a stream running at its edge does not happen: a first lock stays UNSET, a command ends with
CONFLICT (08 R194, R199, R205; log entry 81). -/
def stepRefused (x : TimeStep) (s : State) : State :=
  let s := forAll (servingQuires s) (fun q => toQuire q 2 x.edge) { s with time.step := none }
  match x.req with
  | some r => refuseOr r stConflict s
  | none => raise (ev 0x0813 0xFFFF) { s with time.unsetReason := 3 }

/-- The step prepared, when its edge has come, its kind is as asked, and every quire in service has acknowledged it (01 R33). -/
def stepAt (rebase : Bool) (s : State) : State :=
  match s.time.step with
  | none => s
  | some x =>
    if (x.kind == 2) != rebase || decide (devNow s < ((x.edge * strobeU : Nat) : Int)) then s
    else if ¬ (lateQuires s x.acks).isEmpty then stepLate x.edge s
    else if x.delta < 0 ∧ runsAtStep s x.edge then stepRefused x s
    else timeStep x s

/-- FIRST_LOCK_EDGE (08 R199). -/
def execFirstLockEdge (at_ : Nat) (s : State) : Host.Outcome State Fault Refusal := .next (stepAt false (s.tick at_))

/-- REBASE_EDGE (08 R205). -/
def execRebaseEdge (at_ : Nat) (s : State) : Host.Outcome State Fault Refusal := .next (stepAt true (s.tick at_))

/-! ### TIME_SET_INITIAL and TIME_REBASE (08 R199, R205, R207, R220) -/

/-- AT_RAW of a command: 0 means the present. -/
def rawAt (s : State) (v : Nat) : Nat := if v = 0 then rawNow s else v

/-- AT_RAW lies within 10 s of the present raw count, and TIME is a device time. -/
def valueOk (s : State) (raw : Nat) (time : List Byte) : Bool :=
  decide (((rawAt s raw : Int) - (rawNow s : Int)).natAbs ≤ 4096000000) && (readDt16 time).isSome

/-- The step that makes device time at AT_RAW equal TIME. -/
def valueStep (s : State) (raw : Nat) (time : List Byte) : Int := (readDt16 time).getD 0 - devRaw s (rawAt s raw)

/-- Refusals that both share, else the step is prepared with QUEUED. -/
def stepServe (kind : Nat) (delta : Int) (source : Nat) (r : Req) (s : State) : State :=
  if s.time.step.isSome then refuse r stBusy s
  else if delta < 0 ∧ anyRunning s then refuse r stConflict s
  else if discFull s then refuse r stBusy s
  else queued r [] (prepareStep kind delta source 0 (some r) s)

def timeSetServe : Packet → State → State :=
  serve 0x0501 tableRole (fun r s => exactly 24 r s && valueOk s (r.f 0 8) (slice 8 16 r.params)) fun r s =>
    if s.time.step.isSome then refuse r stBusy s
    else if s.time.state ≠ 0 then refuse r stConflict s else stepServe 1 (valueStep s (r.f 0 8) (slice 8 16 r.params)) 0 r s

/-- TIME_SET_INITIAL. -/
def execTimeSetInitial (at_ : Nat) (p : Packet) (s : State) : Host.Outcome State Fault Refusal :=
  .next (receive 0x0501 p timeSetServe (s.tick at_))

def rebaseServe : Packet → State → State :=
  serve 0x0502 tableRole (fun r s => exactly 32 r s && decide (r.f 0 1 ≤ 1) && zeroAt 1 7 r
      && (readDt16 (slice 16 16 r.params)).isSome
      && (decide (r.f 0 1 = 0) || valueOk s (r.f 8 8) (slice 16 16 r.params))) fun r s =>
    if s.time.step.isSome then refuse r stBusy s
    else if s.time.state = 0 then refuse r stConflict s
    else if r.f 0 1 = 1 then stepServe 2 (valueStep s (r.f 8 8) (slice 16 16 r.params)) 0 r s
    else
      match firstPresent s with
      | none => refuse r stConflict s
      | some x => stepServe 2 (((srcOf s x).meas.head?.map (·.2)).getD 0) x r s

/-- TIME_REBASE. -/
def execTimeRebase (at_ : Nat) (p : Packet) (s : State) : Host.Outcome State Fault Refusal :=
  .next (receive 0x0502 p rebaseServe (s.tick at_))

/-! ### Edge stamps (08 R215) -/

/-- EVT_EDGE_STAMP of a pin, in fine units of the raw count: it reaches the interval units, the injections and the trigger
engine. -/
def edgeStamp (pin : Nat) (rise : Bool) (fine : Nat) (s : State) : State :=
  if s.time.rawStart = none ∨ 8 ≤ pin then s
  else if ¬ edgeAccepted s pin rise fine then dropEdge pin s
  else
    let s := recordEdge pin rise fine s
    let s := forAll (List.range 4) (fun u => iuEdge u pin rise fine) s
    let s := injectEdge pin rise fine s
    trimEdges { s with trg.edges := s.trg.edges ++ [(pin, rise, devStamp s fine)] }

def execEvtEdgeStamp (at_ pin : Nat) (rise : Bool) (fine : Nat) (s : State) : Host.Outcome State Fault Refusal :=
  .next (edgeStamp pin rise fine (s.tick at_))

end Sys2Proof.Machine
end

