-- ==== Sys2Proof/Machine/Lanes.lean ====
section
/-! DEFINITION. Serial lanes, the Ethernet ports and streams over them, the Skaing link (12; 08 R213). -/

namespace Sys2Proof.Machine

/-! ### Training (12 R303, R304) -/

def laneEn (s : State) (l : Nat) : Bool := cfBit s 0x0A01 l 0x00 31
def standby (s : State) (l : Nat) : Bool := cfBit s 0x0A01 l 0x00 30 && decide (l = 5 ∨ l = 7)

/-- The lanes of the link that a lane belongs to. -/
def linkLanes (l : Nat) : List Nat := if l < 4 then [0, 1, 2, 3] else [l]

/-- A scan that runs on a lane ends without a result; a commanded one is answered with CONFLICT. Log entry 114. -/
def dropScan (l : Nat) (s : State) : State :=
  let v := lane s l
  match v.scan with
  | some (_, some r) => refuseOr r stConflict (setLane l { v with scan := none } s)
  | _ => setLane l { v with scan := none } s

/-- A lane begins to train: from Detect, with the count of attempts, RATE and FEC as they now stand; the time without UP runs on
from an earlier attempt. Log entry 114. -/
def startLane (l : Nat) (s : State) : State :=
  let s := dropScan l s
  let v := lane s l
  setLane l { v with state := if l = 4 ∨ l = 5 then 4 else 3, lock := false, rateNow := 0, ver := 0, loop := 0,
                     trainAttempts := (v.trainAttempts + 1) % 2 ^ 32, trainSince := s.now,
                     downSince := if v.state = 5 ∨ v.state = 0 then s.now else v.downSince,
                     rateSet := cf s 0x0A01 l 0x00 19 16, fecSet := cf s 0x0A01 l 0x00 9 8 } s

/-- The link of a lane begins to train, if the lane is enabled; a lane in a loopback stays there until that ends (R302). -/
def startLink (l : Nat) (s : State) : State :=
  let s := forAll (linkLanes l) (fun k s => if laneEn s k && decide ((lane s k).state ≠ 6) then startLane k s else s) s
  if l < 6 then s
  else
    let k := { skaing s (l - 6) with phase := 0, peerHeard := false, linkSent := false, mismatch := false, heardTime := false, delay := none }
    setSkaing (l - 6) k s

/-- The transmitter of a lane is in electrical idle (12 R300): LN6 and LN7 with IDLE_EN whenever no frame is pending, and frames leave
in the step that makes them; LN4 and LN5 while disabled; a host lane that the link does not use. -/
def electricalIdle (s : State) (l : Nat) : Bool :=
  if 6 ≤ l then decide ((lane s l).state = 5) && cfBit s 0x0A01 l 0x00 29
  else if 4 ≤ l then decide ((lane s l).state = 0)
  else decide ((lane s l).state = 1)

/-- PCIE_LINK_DOWN: the data link leaves DL_Active, and the lanes go back to Detect (11 R294, 12 R303). -/
def hostDown (s : State) : State := if s.host.linkUp then startLink 0 (linkDown s) else s

def execPcieLinkDown (at_ : Nat) (s : State) : Host.Outcome State Fault Refusal := .next (hostDown (s.tick at_))

/-- Every lane begins to train: step 14 of the start (02 R41). -/
def startLanes (s : State) : State := forAll [0, 4, 5, 6, 7] startLink s

/-! ### Streams over a link (12 R311 to R314, R318) -/

/-- A standby lane has taken over and not returned: it came UP before its primary did. -/
def tookOver (s : State) (l : Nat) : Bool :=
  standby s l && laneUp s l && laneUp s (l - 1) && decide ((lane s l).upSince < (lane s (l - 1)).upSince)

/-- The link that a stream leaves by now: 0, 1 ETH0, 1; 2, 3 SKAING0, 1 under version 2. With FAILOVER the second of a pair
serves while the first is down, and as a standby until it returns to the deep state (12 R301, R311). -/
def netPort (s : State) (n : Nat) : Option Nat :=
  let fo := cfBit s 0x0A04 n 0x00 27
  let eth := fun p => portSpeaks s p (cfBit s 0x0A04 n 0x00 26)
  let sk := fun x => skaingUp s x && decide (skaingVer s x = 2)
  match transport s n with
  | 1 => if eth 0 && !(fo && tookOver s 5 && eth 1) then some 0 else if fo && eth 1 then some 1 else none
  | 2 => if eth 1 then some 1 else none
  | 3 => if sk 0 && !(fo && tookOver s 7 && sk 1) then some 2 else if fo && sk 1 then some 3 else none
  | 4 => if sk 1 then some 3 else none
  | _ => none

/-- The destination and source of a stream's datagrams. Log entry 113. -/
def netDest (s : State) (n : Nat) : List Byte :=
  let a := (span 0 4).flatMap fun i => le 4 (word s 0x0A04 n (8 + 4 * i))
  if cfBit s 0x0A04 n 0x00 26 then a else a.take 4
def netSource (s : State) (n : Nat) : Nat := let p := cf s 0x0A04 n 0x04 15 0; if p = 0 then 49152 + n else p

/-- A datagram of a stream: KIND and body, under the key of the bound session. -/
def netDatagram (n port kind : Nat) (body : List Byte) (v : Session) (s : State) : State :=
  let st := stream s n
  let c := st.netCount + 1
  let m := le 1 kind ++ le 1 n ++ le 2 0 ++ le 4 v.id ++ le 8 c ++ body
  sendUdp port (netDest s n) (cf s 0x0A04 n 0x00 15 0) (netSource s n) true (m ++ hmac v.key m)
    (setStream n { st with netCount := c, lastSend := s.now } s)

/-- A folio leaves on a stream's link, if it can: the state after it, and whether it left. -/
def netFolio (n : Nat) (again : Bool) (f : Folio) (s : State) : State × Bool :=
  match netPort s n with
  | none => (s, false)
  | some p =>
    if p < 2 then
      match session? s (stream s n).session with
      | none => (s, false)
      | some v => (netDatagram n p (if again then 2 else 1) (folioBytes f) v s, true)
    else
      let st := stream s n
      if st.credits = 0 then (s, false)
      else (skaingSend (p - 2) 5 (folioBytes f) (setStream n { st with credits := st.credits - 1, lastSend := s.now } s), true)

/-- A folio has not been sent. -/
def unsent (st : Stream) (f : Folio) : Bool := !st.netAny || decide (st.netSent < f.seq)

/-- SEQs that wait to be sent again and are still held unacknowledged. -/
def againList (st : Stream) : List Nat :=
  st.again.filter fun q => st.q.folios.any fun f => decide (f.seq = q) && !f.acked

/-- A folio read from the store goes out if it is the next: one to be sent again ahead of the new ones, those in SEQ order. One
that cannot leave is not kept in staging. -/
def netSend (n seq : Nat) (s : State) : State :=
  let st := stream s n
  let drop := fun (s : State) => setRingQ n ((ringQ s n).onSeq seq fun x => { x with staged := false }) s
  let again := againList st
  let next : Option Folio := match again with
    | q :: _ => st.q.folios.find? fun f => decide (f.seq = q)
    | [] => st.q.folios.find? fun f => unsent st f
  match next with
  | none => drop s
  | some f =>
    if f.seq ≠ seq then drop s
    else
      let r := netFolio n (!(again.isEmpty : Bool) || f.sent) f s
      if ¬ r.2 then drop s
      else
        let st := stream r.1 n
        let q := st.q.onSeq seq fun x => { x with staged := false, sent := true }
        if again.isEmpty then
          let idle := !st.netAny || decide (st.netSent < st.q.ackNext)
          freeFolios n <| closeWindows n <| setStream n
            { st with q := q, netAny := true, netSent := seq,
                      lastAdvance := if idle then s.now else st.lastAdvance } r.1
        else
          freeFolios n (setStream n { st with q := q, again := again.drop 1,
                                              resend := (seq, s.now) :: st.resend.filter fun x => decide (x.1 ≠ seq) } r.1)

/-- DMA_STAGING_READ: the folio is read; that of a stream over a link goes out (10 R265; 12 R312, R318). -/
def stageAndSend (r seq corrected : Nat) (hits : List EccHit) (s : State) : State :=
  let s := stageRead r seq corrected hits s
  if offRing s r then netSend r seq s else s

def execDmaStagingRead (at_ r seq corrected : Nat) (hits : List EccHit) (s : State) : Host.Outcome State Fault Refusal :=
  .next (stageAndSend r seq corrected hits (s.tick at_))

/-- Go-back: what has been sent and not acknowledged is to be sent again, in order; over Skaing one folio for each credit that the
relay grants anew. Log entry 115. -/
def goBack (n : Nat) (s : State) : State :=
  let st := stream s n
  match netPort s n with
  | none => s
  | some p =>
    let l := st.q.folios.filter fun f => decide (st.q.ackNext ≤ f.seq) && st.netAny && decide (f.seq ≤ st.netSent)
    setStream n { st with again := l.map (·.seq), credits := if p < 2 then st.credits else 0, lastAdvance := s.now } s

/-- Streams that leave by a link now go back. -/
def goBackPort (p : Nat) (s : State) : State :=
  forAll (streamList.filter fun n => decide (netPort s n = some p)) goBack s

/-- FAILOVER streams that leave by another port than before go back (12 R314). -/
def movedStreams (old s : State) : State :=
  forAll (streamList.filter fun n => cfBit s 0x0A04 n 0x00 27 && (netPort old n).isSome && (netPort s n).isSome
    && decide (netPort old n ≠ netPort s n)) goBack s

/-- GO_BACK_TIMER: ACK_SEQ has not advanced for RETX_MS while folios have been sent (12 R314). -/
def goBackTimer (n : Nat) (s : State) : State :=
  let st := stream s n
  let waits := st.netAny && st.q.folios.any fun f => decide (st.q.ackNext ≤ f.seq ∧ f.seq ≤ st.netSent)
  if waits ∧ (transport s n = 1 ∨ transport s n = 2) ∧ st.lastAdvance + cf s 0x0A04 n 0x04 31 16 * msU ≤ s.now then goBack n s else s

def execGoBackTimer (at_ n : Nat) (s : State) : Host.Outcome State Fault Refusal := .next (unlessPaused (goBackTimer n) (s.tick at_))

/-- STREAM_HEARTBEAT: nothing to send for 100 ms (12 R312). -/
def heartbeat (n : Nat) (s : State) : State :=
  let st := stream s n
  match netPort s n, session? s st.session with
  | some p, some v =>
    if p < 2 ∧ ¬ (st.q.folios.any (unsent st)) ∧ againList st = [] ∧ st.lastSend + 100 * msU ≤ s.now then
      netDatagram n p 4 (le 8 (st.q.nextSeq - 1)) v s
    else s
  | _, _ => s

def execStreamHeartbeat (at_ n : Nat) (s : State) : Host.Outcome State Fault Refusal := .next (heartbeat n (s.tick at_))

/-- An acknowledgement over a link, clamped at the highest SEQ sent. -/
def netAck (n seq : Nat) (s : State) : State :=
  let st := stream s n
  if ¬ st.netAny then s
  else
    let v := min seq st.netSent
    let s := if st.q.ackNext ≤ v then setStream n { st with lastAdvance := s.now } s else s
    ackStream n v s

/-- The GAP folio that retired a SEQ. -/
def retiredBy (q : FolioQ) (seq : Nat) : Option Folio :=
  (q.retired.find? fun r => decide (r.1 ≤ seq ∧ seq < r.1 + r.2)).bind fun r => q.folios.find? fun f => f.seq + 1 == r.1

/-- A NACKed SEQ: a folio that is held and has been sent is to be sent again, at most once per RETX_MS; a retired one is answered
by its GAP folio. -/
def nackOne (n seq : Nat) (s : State) : State :=
  let st := stream s n
  let f? := match st.q.folios.find? (fun f => f.seq == seq) with | some f => some f | none => retiredBy st.q seq
  match f? with
  | none => s
  | some f =>
    let lately := st.resend.any fun r => decide (r.1 = f.seq ∧ s.now < r.2 + cf s 0x0A04 n 0x04 31 16 * msU)
    if f.acked ∨ unsent st f ∨ lately ∨ st.again.contains f.seq then s else setStream n { st with again := st.again ++ [f.seq] } s

/-- STREAM_ACK_DATAGRAM to a stream: header, body and HMAC; COUNT must exceed every one accepted (12 R312, R313). -/
def ackDatagram (n : Nat) (hdr body mac : List Byte) (s : State) : State :=
  let st := stream s n
  match session? s st.session with
  | none => s
  | some v =>
    let c := fld 8 8 hdr
    let k := fld 8 2 body
    if hmac v.key (hdr ++ body) ≠ mac ∨ fld 0 1 hdr ≠ 3 ∨ fld 1 1 hdr ≠ n ∨ fld 4 4 hdr ≠ v.id ∨ c ≤ st.ackCounts.get v.id 0 ∨ 32 < k
        ∨ body.length ≠ 16 + 16 * k ∨ ¬ (netPort s n).any (· < 2) then s
    else
      let s := netAck n (fld 0 8 body) (setStream n { st with ackCounts := st.ackCounts.put v.id c } s)
      (List.range k).foldl (fun s i =>
        let first := fld (16 + 16 * i) 8 body
        let last := first + fld (24 + 16 * i) 4 body
        let cuts := ((stream s n).q.retired.filter fun r => decide (r.1 < last ∧ first < r.1 + r.2)).map fun r => max first r.1
        let held := (stream s n).q.folios.map (·.seq) ++ cuts
        (held.filter fun q => decide (first ≤ q ∧ q < last)).foldl (fun s q => nackOne n q s) s) s

def execStreamAckDatagram (at_ n : Nat) (hdr body mac : List Byte) (s : State) : Host.Outcome State Fault Refusal :=
  .next (ackDatagram n hdr body mac (s.tick at_))

/-! ### Loss of lock and of a link (12 R298, R305, R306, R308) -/

/-- The source of time on a lane. -/
def laneSource (l : Nat) : Nat := l - 3

/-- What follows when a single-lane link has gone down, `old` the state before: a Skaing source is lost, and streams with FAILOVER
change port. -/
def linkLost (old : State) (l : Nat) (s : State) : State :=
  movedStreams old (if 6 ≤ l then loseSource (laneSource l) s else s)

/-- A single-lane link goes down and trains again. -/
def dropLink (l : Nat) (s : State) : State := linkLost s l (startLink l s)

/-- The link retrains at the next lower rate code. -/
def stepDown (l : Nat) (s : State) : State :=
  let r := (lane s l).rateNow
  if r = 0 then s else dropLink l (setLane l { lane s l with cap := r } s)

/-- Training has ended without UP: the link is back in Detect, or auto-negotiation restarts, with another attempt (R303). -/
def trainAgain (l : Nat) (s : State) : State :=
  let s := forAll (linkLanes l) (fun k s =>
    let v := lane s k
    if v.state = 3 ∨ v.state = 4 ∨ v.state = 7 then
      setLane k { v with state := if v.state = 7 then 7 else if k = 4 ∨ k = 5 then 4 else 3, lock := false,
                         trainAttempts := (v.trainAttempts + 1) % 2 ^ 32 } s
    else s) s
  if l < 6 then s
  else setSkaing (l - 6) { skaing s (l - 6) with phase := 0, peerHeard := false, linkSent := false } s

/-- LANE_LOCK_LOSS; of a Skaing lane in training, the partner is lost and it is back in DETECT (R303), and of one that is UP, more
than ten within an hour step it down. -/
def lockLoss (l : Nat) (s : State) : State :=
  let v := lane s l
  if 8 ≤ l ∨ ¬ v.lock then s
  else
    let losses := s.now :: v.losses.filter fun t => decide (s.now < t + 3600 * secU)
    let s := setLane l { v with lock := false, lockLosses := (v.lockLosses + 1) % 2 ^ 32, lossAt := s.now, losses := losses } s
    if 6 ≤ l ∧ v.state = 5 ∧ 10 < losses.length ∧ cfBit s 0x0A01 l 0x00 28 then
      stepDown l (setLane l { lane s l with losses := [] } s)
    else if 6 ≤ l ∧ v.state ≠ 5 ∧ (skaing s (l - 6)).phase ≠ 0 then trainAgain l s
    else s

def execLaneLockLoss (at_ l : Nat) (s : State) : Host.Outcome State Fault Refusal := .next (lockLoss l (s.tick at_))

/-- LANE_LOCK_REGAINED of a lane whose receiver is on: a host link in Recovery goes on at its width (R305). -/
def lockBack (l : Nat) (s : State) : State :=
  if l < 8 ∧ 3 ≤ (lane s l).state then setLane l { lane s l with lock := true } s else s

def execLaneLockRegained (at_ l : Nat) (s : State) : Host.Outcome State Fault Refusal := .next (lockBack l (s.tick at_))

/-- The widest set of working lanes that the link used, in the order of R305; `rev`: the partner supports lane reversal. -/
def workingLanes (rev : Bool) (s : State) : List Nat :=
  let ok := fun k => (lane s k).lock && decide ((lane s k).state = 5)
  if [0, 1, 2, 3].all ok then [0, 1, 2, 3]
  else if [0, 1].all ok then [0, 1]
  else if rev && [3, 2].all ok then [3, 2]
  else if ok 0 then [0]
  else if rev && ok 3 then [3]
  else []

/-- A lane that the link does not use is IDLE. -/
def leaveService (k : Nat) (s : State) : State :=
  let s := dropScan k s
  setLane k { lane s k with state := 1, lock := false, rateNow := 0 } s

/-- PCIE_LINK_REFORM: Recovery has failed for a lane; the link goes on, narrower, or is down. Log entry 114. -/
def linkReform (rev : Bool) (s : State) : State :=
  if ¬ s.host.linkUp then s
  else
    let used := [0, 1, 2, 3].filter fun k => decide ((lane s k).state = 5)
    let lost := used.filter fun k => !(lane s k).lock
    if lost.isEmpty then s
    else
      let l := workingLanes rev s
      let s := forAll lost (fun k => raiseOnce (evL 0x0C03 k)) s
      if l.isEmpty then startLink 0 (linkDown s)
      else
        let s := forAll used (fun k s => if l.contains k then s else leaveService k s) s
        { s with host.width := l.length }

def execPcieLinkReform (at_ : Nat) (rev : Bool) (s : State) : Host.Outcome State Fault Refusal :=
  .next (linkReform rev (s.tick at_))

/-- SINGLE_LANE_LINK_DOWN: lock has not come back within 1 ms. -/
def singleDown (l : Nat) (s : State) : State :=
  let v := lane s l
  if 4 ≤ l ∧ l < 8 ∧ v.state = 5 ∧ ¬ v.lock ∧ v.lossAt + msU ≤ s.now then dropLink l s else s

def execSingleLaneLinkDown (at_ l : Nat) (s : State) : Host.Outcome State Fault Refusal := .next (singleDown l (s.tick at_))

/-! ### A link comes up (12 R301, R303, R304) -/

/-- A standby lane enters the deep state: a link that it carried is down. -/
def goDeep (l : Nat) (s : State) : State :=
  let s := dropScan l s
  let s := if 6 ≤ l ∧ (lane s l).state = 5 then loseSource (laneSource l) s else s
  let s := if 6 ≤ l then setSkaing (l - 6) { skaing s (l - 6) with phase := 0 } s else s
  setLane l { lane s l with state := 2, lock := false, rateNow := 0, ver := 0 } s

/-- The link of a lane is UP: its faults clear, and a standby lane may leave service. Log entry 114. -/
def laneIsUp (l rate fec : Nat) (s : State) : State :=
  let v := lane s l
  let s := setLane l { v with state := 5, lock := true, rateNow := rate, fecNow := fec, upSince := s.now, lastScan := s.now,
                              lowScans := 0, faultRaised := false } s
  let s := clearCause 0x0C03 l (clearCause 0x0C01 l s)
  if (l = 4 ∨ l = 6) ∧ standby s (l + 1) ∧ laneEn s (l + 1) ∧ (lane s (l + 1)).state ≠ 5 ∧ (lane s (l + 1)).state ≠ 6 then
    goDeep (l + 1) s
  else s

/-- The FEC that an Ethernet port trains with: the one that FEC names, else the one negotiated. -/
def fecNow (v : Lane) (fec : Nat) : Nat := if v.fecSet = 0 then max 1 (min fec (if v.rateSet = 1 then 3 else 2)) else v.fecSet

/-- LINK_TRAINING_DONE: the host port at a width and LINK_GT, an Ethernet port at its RATE and a FEC, or a Skaing endpoint whose
receiver has locked at the base rate and begins to negotiate (R317). Width 0: the training ended without UP, because the partner fell
silent or was lost (R303). -/
def trained (l rate fec width : Nat) (s : State) : State :=
  let v := lane s l
  if 8 ≤ l ∨ ¬ (v.state = 3 ∨ v.state = 4 ∨ v.state = 7) ∨ (linkLanes l).any (fun k => decide ((lane s k).state = 6)) then s
  else if width = 0 then trainAgain l s
  else if l < 4 then
    if rate = 0 ∨ 4 < rate then s
    else
      let w := if 4 ≤ width then 4 else if 2 ≤ width then 2 else 1
      let s := forAll (List.range w) (laneIsUp · rate 0) s
      let s := forAll (span w (4 - w)) leaveService s
      { s with host.linkUp := true, host.seenL0 := true, host.width := w, host.gt := rate }
  else if l < 6 then goBackPort (l - 4) (laneIsUp l v.rateSet (fecNow v fec) s)
  else
    setSkaing (l - 6) { skaing s (l - 6) with phase := 1, peerHeard := false, linkSent := false, mismatch := false, lastLink := s.now,
                                              prbsFrom := s.now }
      (setLane l { v with state := if v.state = 7 then 7 else 4, lock := true } s)

def execLinkTrainingDone (at_ l rate fec width : Nat) (s : State) : Host.Outcome State Fault Refusal :=
  .next (trained l rate fec width (s.tick at_))

/-- NO_PARTNER_TIMEOUT: 1 s without UP, for every lane of the link. -/
def noPartner (l : Nat) (s : State) : State :=
  let v := lane s l
  if l < 8 ∧ (v.state = 3 ∨ v.state = 4) ∧ v.trainSince + secU ≤ s.now then
    raise (ev 0x0C10 l) (forAll (linkLanes l) (fun k s =>
      if (lane s k).state = 3 ∨ (lane s k).state = 4 then setLane k { lane s k with state := 7 } s else s) s)
  else s

def execNoPartnerTimeout (at_ l : Nat) (s : State) : Host.Outcome State Fault Refusal := .next (noPartner l (s.tick at_))

/-- TRAINING_FAULT_TIMEOUT: 10 s without UP, once for the link. -/
def trainFault (l : Nat) (s : State) : State :=
  let v := lane s l
  if l < 8 ∧ (v.state = 3 ∨ v.state = 4 ∨ v.state = 7) ∧ ¬ v.faultRaised ∧ v.downSince + 10 * secU ≤ s.now then
    raise (evL 0x0C01 l) (forAll (linkLanes l) (fun k s => setLane k { lane s k with faultRaised := true } s) s)
  else s

def execTrainingFaultTimeout (at_ l : Nat) (s : State) : Host.Outcome State Fault Refusal := .next (trainFault l (s.tick at_))

/-- STANDBY_WAKE: the primary has been out of UP for 100 ms, or the detector sees a partner training. -/
def standbyWake (l : Nat) (seen : Bool) (s : State) : State :=
  let p := lane s (l - 1)
  if (lane s l).state = 2 ∧ (seen ∨ (p.state ≠ 5 ∧ p.downSince + 100 * msU ≤ s.now)) then startLink l s else s

def execStandbyWake (at_ l : Nat) (seen : Bool) (s : State) : Host.Outcome State Fault Refusal := .next (standbyWake l seen (s.tick at_))

/-- STANDBY_RETURN: the primary has been UP for 10 s; streams with FAILOVER are back on it and go back. Log entry 114. -/
def standbyReturn (l : Nat) (s : State) : State :=
  let p := lane s (l - 1)
  if standby s l ∧ laneEn s l ∧ (lane s l).state ≠ 2 ∧ (lane s l).state ≠ 6 ∧ p.state = 5 ∧ p.upSince + 10 * secU ≤ s.now then
    movedStreams s (goDeep l s)
  else s

def execStandbyReturn (at_ l : Nat) (s : State) : Host.Outcome State Fault Refusal := .next (standbyReturn l (s.tick at_))

/-- A write of LANE_CFG: EN and STANDBY (R299, R301). Log entry 114. -/
def laneCfgWritten (l : Nat) (s : State) : State :=
  let v := lane s l
  if v.state = 6 then (if laneEn s l then s else setLane l { v with loopEnd := s.now } s)
  else if ¬ laneEn s l then
    let s' := clearCause 0x0C01 l (goDeep l s)
    movedStreams s (setLane l { lane s' l with state := 0, faultRaised := false, downSince := if v.state = 5 then s'.now else v.downSince } s')
  else if v.state = 0 then startLink l s
  else if standby s l ∧ laneUp s (l - 1) then (if v.state = 2 then s else goDeep l s)
  else if ¬ standby s l ∧ v.state = 2 then startLink l s
  else s

/-! ### Eye scans (12 R307, R308) -/

/-- EYE_SCAN_DUE. -/
def scanDueRow (l : Nat) (s : State) : State :=
  let v := lane s l
  let m := cf s 0x0A01 l 0x00 7 0
  if l < 8 ∧ v.state = 5 ∧ v.scan = none ∧ m ≠ 0 ∧ v.lastScan + m * 60 * secU ≤ s.now then
    setLane l { v with scan := some (s.now, none), lastScan := s.now } s
  else s

def execEyeScanDue (at_ l : Nat) (s : State) : Host.Outcome State Fault Refusal := .next (scanDueRow l (s.tick at_))

/-- Steps of the open run through the middle of 33 points: a point is open with fewer than 10 differences. -/
def openSteps (l : List Nat) : Nat :=
  let open_ := fun (k : Nat) => decide (k < 10)
  if (l.drop 16).head?.all open_ then ((l.take 16).reverse.takeWhile open_).length + ((l.drop 17).takeWhile open_).length else 0

/-- EYE_H in UI/64 and EYE_V in mV of a matrix of 33 thresholds by 33 phases, the phases of one threshold together.
Log entry 114. -/
def eyeH (m : List Byte) : Nat := 2 * openSteps ((List.range 33).map fun p => fld (33 * 16 + p) 1 m)
/-- Log entry 114. -/
def eyeV (m : List Byte) : Nat := openSteps ((List.range 33).map fun t => fld (33 * t + 16) 1 m) * 25 / 2

/-- EYE_SCAN_COMPLETE: the matrix, and the width and height of its open eye. -/
def scanDone (l : Nat) (m : List Byte) (s : State) : State :=
  let x := lane s l
  match (if x.state = 5 then x.scan else none) with
  | none => s
  | some (_, req) =>
    let h := eyeH m
    let v := eyeV m
    let low := decide (h < cf s 0x0A01 l 0x04 31 16 ∨ v < cf s 0x0A01 l 0x04 15 0)
    let s := setLane l { x with scan := none, eyeH := h, eyeV := v, scanSeconds := secondsNow s,
                                lowScans := if req.isSome then x.lowScans else if low then x.lowScans + 1 else 0 } s
    match req with
    | some r => answer r stOk (le 2 h ++ le 2 v ++ fitBytes 1089 m) s
    | none =>
      if ¬ low then clearCause 0x0C02 l s
      else if x.lowScans + 1 = 3 then
        let s := raiseOnce (evL 0x0C02 l) s
        if 6 ≤ l ∧ cfBit s 0x0A01 l 0x00 28 then stepDown l s else s
      else s

def execEyeScanComplete (at_ l : Nat) (m : List Byte) (s : State) : Host.Outcome State Fault Refusal :=
  .next (scanDone l m (s.tick at_))

/-! ### The lane commands (12 R302, R319) -/

def laneParam (r : Req) (s : State) : Bool := exactly 4 r s && decide (r.f 0 1 < 8) && zeroAt 1 3 r

/-- The command came over the link of a lane. -/
def overLane (r : Req) (l : Nat) : Bool := decide ((r.port = 0 ∧ l < 4) ∨ (r.port = 1 ∧ l = 4) ∨ (r.port = 2 ∧ l = 5))

def eyeScanServe : Packet → State → State :=
  serve 0x0C00 tableRole laneParam fun r s =>
    let v := lane s (r.f 0 1)
    if v.state ≠ 5 ∨ v.scan.isSome then refuse r stConflict s
    else queued r [] (setLane (r.f 0 1) { v with scan := some (s.now, some r) } s)

/-- LANE_EYE_SCAN. -/
def execLaneEyeScan (at_ : Nat) (p : Packet) (s : State) : Host.Outcome State Fault Refusal :=
  .next (receive 0x0C00 p eyeScanServe (s.tick at_))

def retrainServe : Packet → State → State :=
  serve 0x0C01 tableRole laneParam fun r s =>
    let l := r.f 0 1
    if overLane r l ∨ (lane s l).state = 6 then refuse r stConflict s
    else
      let s := answer r stOk [] (jDone r [] s)
      let s := forAll (linkLanes l) (fun k s => setLane k { lane s k with cap := 0 } s) s
      if l < 4 then startLink l (if s.host.linkUp then linkDown s else s)
      else if (lane s l).state = 5 then dropLink l s
      else startLink l s

/-- LANE_RETRAIN. -/
def execLaneRetrain (at_ : Nat) (p : Packet) (s : State) : Host.Outcome State Fault Refusal :=
  .next (receive 0x0C01 p retrainServe (s.tick at_))

/-- A lane enters a loopback: its link is down for the duration, the host port with the effects of 11 R294 (12 R302). -/
def loopStart (mode seconds : Nat) (r : Req) (l : Nat) (s : State) : State :=
  let up := decide ((lane s l).state = 5)
  let s1 := dropScan l (if l < 4 ∧ s.host.linkUp then linkDown s else s)
  let s1 := if 6 ≤ l then setSkaing (l - 6) { skaing s1 (l - 6) with phase := 0 } s1 else s1
  let s1 := setLane l { lane s1 l with
    state := 6, loop := mode, loopReq := some r, loopEnd := s.now + seconds * secU, prbsErrors := 0, lock := false, rateNow := 0, ver := 0,
    downSince := if up then s.now else (lane s1 l).downSince } s1
  if l < 4 then startLink l s1 else if up then linkLost s l s1 else s1

/-- Log entry 114. -/
def loopbackServe : Packet → State → State :=
  serve 0x0C02 tableRole (fun r s => exactly 4 r s && decide (r.f 0 1 < 8 ∧ r.f 1 1 ≤ 3)
      && decide (r.f 1 1 = 0 ∨ (1 ≤ r.f 2 2 ∧ r.f 2 2 ≤ 3600)) && !decide (r.f 1 1 = 3 ∧ r.f 0 1 < 4)) fun r s =>
    let l := r.f 0 1
    if r.f 1 1 = 0 then
      if (lane s l).state ≠ 6 then refuse r stConflict s
      else answer r stOk [] (jDone r [] (setLane l { lane s l with loopEnd := s.now } s))
    else if overLane r l ∨ (lane s l).state = 6 ∨ (4 ≤ l ∧ s.time.source = laneSource l) then refuse r stConflict s
    else
      let s := replyTo r stOk false [] (jDone r [] s)
      loopStart (r.f 1 1) (r.f 2 2) r l s

/-- LANE_LOOPBACK. -/
def execLaneLoopback (at_ : Nat) (p : Packet) (s : State) : Host.Outcome State Fault Refusal :=
  .next (receive 0x0C02 p loopbackServe (s.tick at_))

/-- LOOPBACK_END: DURATION has passed, or the loopback was stopped; bits compared and errors (R319). Log entry 114. -/
def loopbackEnd (l bitsSeen errors : Nat) (s : State) : State :=
  let v := lane s l
  if v.state ≠ 6 ∨ s.now < v.loopEnd then s
  else
    let s := setLane l { v with state := 3, loop := 0, loopReq := none, prbsErrors := errors % 2 ^ 32 } s
    let s := match v.loopReq with
      | none => s
      | some r => answerOr r stOk (le 8 bitsSeen ++ le 8 errors) 0x0C12 s
    if laneEn s l then startLink l s else setLane l { lane s l with state := 0, faultRaised := false } s

def execLoopbackEnd (at_ l bitsSeen errors : Nat) (s : State) : Host.Outcome State Fault Refusal :=
  .next (loopbackEnd l bitsSeen errors (s.tick at_))

/-! ### Skaing negotiation (12 R316, R317) -/

/-- The highest rate code this end tries. -/
def rateMax (s : State) (x : Nat) : Nat :=
  let r := (lane s (skaingLane x)).rateSet
  let c := (lane s (skaingLane x)).cap
  if c = 0 then r else min r (c - 1)

/-- Both ends have sent and received a LINK frame: the version and the rate are chosen, and the PRBS31 exchange begins; or the versions
do not match (R317). -/
def agreeLink (x : Nat) (s : State) : State :=
  let v := skaing s x
  if v.phase ≠ 1 ∨ ¬ v.peerHeard ∨ ¬ v.linkSent ∨ s.now < v.prbsFrom then s
  else
    let ver := min 2 v.peerMax
    if ver < max 1 v.peerMin then
      let s := if v.mismatch then s else raiseOrig 0x0C11 3 (3 + x) (le 4 v.peerTag) 1 s
      setLane (skaingLane x) { lane s (skaingLane x) with state := 7 } (setSkaing x { v with mismatch := true } s)
    else
      let r := min (rateMax s x) v.peerRate
      setLane (skaingLane x) { lane s (skaingLane x) with ver := ver }
        (setSkaing x { v with phase := 2, rate := if ver = 1 then min r 4 else r, prbsFrom := s.now, mismatch := false } s)

/-- SKAING_LINK_FRAME: versions, rate and tag of the partner; a keepalive once UP. -/
def linkFrame (x vmin vmax rmax tag : Nat) (crcOk : Bool) (s : State) : State :=
  let v := skaing s x
  if 2 ≤ x then s
  else if ¬ crcOk then crcDrop x s
  else if v.phase = 0 then s
  else
    agreeLink x (setSkaing x { v with lastRx := s.now, peerMin := vmin, peerMax := vmax, peerRate := rmax, peerTag := tag,
                                      peerHeard := true } s)

def execSkaingLinkFrame (at_ x vmin vmax rmax tag : Nat) (crcOk : Bool) (s : State) : Host.Outcome State Fault Refusal :=
  .next (linkFrame x vmin vmax rmax tag crcOk (s.tick at_))

/-- The relay streams of an endpoint. -/
def relays (s : State) (x : Nat) : List Nat := streamList.filter fun n => decide (transport s n = 5 + x)

/-- A link that has come UP starts without credits: what its relays granted before is void, as the origin has given it up (R318). -/
def freshRelays (x : Nat) (s : State) : State := forAll (relays s x) (fun n s => setStream n { stream s n with credits := 0 } s) s

/-- SKAING_PRBS_CHECK_END: zero errors bring the link UP; else the next lower code, or negotiation again. -/
def prbsEnd (x errors : Nat) (s : State) : State :=
  let v := skaing s x
  if v.phase ≠ 2 ∨ s.now < v.prbsFrom + msU then s
  else if errors = 0 then
    let s := setSkaing x { v with phase := 3, lastRx := s.now, lastLink := s.now, heardTime := false, delay := none } s
    freshRelays x (goBackPort (2 + x) (laneIsUp (skaingLane x) v.rate 0 s))
  else if v.rate = 0 then setSkaing x { v with phase := 1, peerHeard := false, linkSent := false, prbsFrom := s.now + 100 * msU } s
  else setSkaing x { v with rate := v.rate - 1, prbsFrom := s.now } s

def execSkaingPrbsCheckEnd (at_ x errors : Nat) (s : State) : Host.Outcome State Fault Refusal :=
  .next (prbsEnd x errors (s.tick at_))

/-- A relay grants credits for the descriptors posted on its ring, at most 64, and passes on its host's ACK_SEQ.
Log entry 115. -/
def grant (x n : Nat) (s : State) : State :=
  let st := stream s n
  let g := ring s n
  let want := min 64 (posted g - (st.q.folios.filter (·.staged)).length)
  let new := want - st.credits
  if new = 0 ∧ st.relayAck = g.ackSeq then s
  else
    skaingSend x 6 (le 1 (cf s 0x0A04 n 0x00 23 16) ++ le 1 new ++ le 2 0 ++ le 4 0 ++ le 8 g.ackSeq)
      (setStream n { st with credits := st.credits + new, relayAck := g.ackSeq } s)

/-- SKAING_KEEPALIVE_SEND: a LINK frame every 100 us in negotiation and every 250 us once UP; CREDIT frames go with it.
Log entry 115. -/
def keepalive (x : Nat) (s : State) : State :=
  let v := skaing s x
  let due := if v.phase = 1 then 100 * usU else 250 * usU
  if 2 ≤ x ∨ ¬ (v.phase = 1 ∨ v.phase = 3) ∨ s.now < v.lastLink + due ∨ (v.phase = 1 ∧ s.now < v.prbsFrom) then s
  else if v.phase = 1 ∧ ¬ v.peerHeard ∧ v.prbsFrom + 100 * msU ≤ s.now then trainAgain (skaingLane x) s
  else
    let s := setSkaing x { v with lastLink := s.now, linkSent := true } s
    let s := skaingSend x 1 (le 1 1 ++ le 1 2 ++ le 1 (rateMax s x) ++ le 1 0 ++ le 4 (hubTag s)) s
    if v.phase = 3 ∧ skaingVer s x = 2 then forAll (relays s x) (grant x) s else agreeLink x s

def execSkaingKeepaliveSend (at_ x : Nat) (s : State) : Host.Outcome State Fault Refusal := .next (keepalive x (s.tick at_))

/-- SKAING_LINK_TIMEOUT: no valid frame for 1 ms. -/
def linkTimeout (x : Nat) (s : State) : State :=
  let v := skaing s x
  if x < 2 ∧ v.phase = 3 ∧ v.lastRx + msU ≤ s.now then dropLink (skaingLane x) s else s

def execSkaingLinkTimeout (at_ x : Nat) (s : State) : Host.Outcome State Fault Refusal := .next (linkTimeout x (s.tick at_))

/-! ### Time over Skaing (08 R202, R213) -/

def skaingRole (s : State) (x : Nat) : Nat := cf s 0x0604 x 0x00 1 0

/-- SKAING_TIME_SEND: every 1 ms an endpoint with a role sends its time, stamped at departure. -/
def timeSend (x : Nat) (s : State) : State :=
  let v := skaing s x
  if 2 ≤ x ∨ ¬ skaingUp s x ∨ skaingRole s x = 0 ∨ s.now < v.lastTime + msU then s
  else
    let t := devDeparts s
    let s := setSkaing x { v with lastTime := s.now, tx := t } s
    skaingSend x 2 (le 1 (skaingRole s x) ++ le 1 s.time.state ++ le 2 0 ++ stampOf s t ++ dt16 v.peerTx v.txQual ++ dt16 v.peerRx v.rxQual) s

def execSkaingTimeSend (at_ x : Nat) (s : State) : Host.Outcome State Fault Refusal := .next (timeSend x (s.tick at_))

/-- The link delay from this end to the partner and back, halved: own departure, its arrival there, departure there, arrival
here. -/
def linkDelay (tx rx' tx' rx : Int) : Int := ((rx - tx) - (tx' - rx')) / 2

/-- SKAING_TIME_FRAME: role, servo state and times of the partner, its TX_TIME with QUAL, arriving at raw count `rx` and a phase in steps
of 16 ps. The delay of the direction
towards this end takes half of ASYM_PS, forward being from UPSTREAM to DOWNSTREAM (log entry 23). -/
def timeFrame (x role st : Nat) (tx' peerTx peerRx : Int) (qual rx phase : Nat) (crcOk : Bool) (s : State) : State :=
  let v := skaing s x
  let mine := skaingRole s x
  if 2 ≤ x then s
  else if ¬ crcOk then crcDrop x s
  else if ¬ skaingUp s x then s
  else
    let t := devPhase s rx phase
    let d := if peerTx = v.tx ∧ v.tx ≠ 0 then some (linkDelay v.tx peerRx tx' t) else v.delay
    let s := setSkaing x { v with lastRx := s.now, peerTx := tx', peerRx := t, txQual := qual, rxQual := s.time.state, heardTime := true, peerRole := role, peerState := st,
                                  delay := d } s
    if mine = 0 then s
    else if mine = role then raiseOrig 0x0812 3 (3 + x) (le 4 v.peerTag) 1 s
    else if mine ≠ 2 ∨ role ≠ 1 then s
    else if st = 0 then (if (srcOf s (3 + x)).present then loseSource (3 + x) s else s)
    else
      match d with
      | none => s
      | some d =>
        let asym := psU (toSigned 32 (word s 0x0604 x 0x04))
        measure (3 + x) (tx' + d + asym / 2 - t) (setSrc (3 + x) { srcOf s (3 + x) with interval := msU } s)

def execSkaingTimeFrame (at_ x role st : Nat) (tx' peerTx peerRx : Int) (qual rx phase : Nat) (crcOk : Bool) (s : State) :
    Host.Outcome State Fault Refusal :=
  .next (timeFrame x role st tx' peerTx peerRx qual rx phase crcOk (s.tick at_))

/-! ### Forwarding (12 R318) -/

/-- A folio as its bytes give it. -/
def readFolio (b : List Byte) : Folio :=
  { (default : Folio) with
    ftype := fld 0 1 b, stream := fld 2 1 b, fflags := fld 3 1 b, payload := slice 32 (fld 4 2 b) b, chset := fld 6 2 b,
    seq := fld 8 8 b, firstIndex := fld 16 8 b, count := fld 24 4 b, staged := true }

/-- A DATA frame's folio waits in staging for the relay's ring; SEQs that its origin has retired are passed over.
Log entry 115. -/
def relayTake (r : Nat) (f : Folio) (s : State) : State :=
  let st := stream s r
  let g := ring s r
  let st := { st with credits := st.credits - 1 }
  if (g.anyDone ∧ f.seq ≤ g.doneSeq) ∨ st.q.folios.any (fun x => decide (f.seq ≤ x.seq)) then setStream r st s
  else
    let q := st.q
    let waiting := q.folios.filter (·.staged)
    let q' := match waiting.getLast? with
      | none => q
      | some l => if l.seq + 1 < f.seq then { q with retired := q.retired ++ [(l.seq + 1, f.seq - l.seq - 1)] } else q
    let s := setStream r { st with q := { q' with folios := q'.folios ++ [f], nextSeq := f.seq + 1 } } s
    if waiting.isEmpty then setRing r { g with nextSeq := f.seq } s else s

/-- SKAING_DATA_FRAME: one folio for a relay of this endpoint. -/
def dataFrame (x : Nat) (b : List Byte) (crcOk : Bool) (s : State) : State :=
  if 2 ≤ x then s
  else if ¬ crcOk then crcDrop x s
  else if ¬ skaingUp s x ∨ skaingVer s x ≠ 2 then s
  else
    let s := setSkaing x { skaing s x with lastRx := s.now } s
    let f := readFolio b
    match (relays s x).find? (fun n => cf s 0x0A04 n 0x00 23 16 == f.stream) with
    | none => s
    | some r => relayTake r f s

def execSkaingDataFrame (at_ x : Nat) (b : List Byte) (crcOk : Bool) (s : State) : Host.Outcome State Fault Refusal :=
  .next (dataFrame x b crcOk (s.tick at_))

/-- SKAING_CREDIT_FRAME: credits for an origin stream, and the relay host's ACK_SEQ. -/
def creditFrame (x n credits ack : Nat) (crcOk : Bool) (s : State) : State :=
  if 2 ≤ x then s
  else if ¬ crcOk then crcDrop x s
  else if ¬ skaingUp s x ∨ skaingVer s x ≠ 2 then s
  else
    let s := setSkaing x { skaing s x with lastRx := s.now } s
    if netPort s n ≠ some (2 + x) then s
    else netAck n ack (setStream n { stream s n with credits := min 64 ((stream s n).credits + credits) } s)

def execSkaingCreditFrame (at_ x n credits ack : Nat) (crcOk : Bool) (s : State) : Host.Outcome State Fault Refusal :=
  .next (creditFrame x n credits ack crcOk (s.tick at_))

/-! ### ARP, Neighbor Discovery, echo (12 R309, R310) -/

/-- The Internet checksum of the published standards, over bytes. -/
def inetSum (b : List Byte) : Nat :=
  let t := total ((List.range ((b.length + 1) / 2)).map fun i => ofBe (fitBytes 2 (slice (2 * i) 2 b)))
  let t := t % 65536 + t / 65536
  65535 - (t % 65536 + t / 65536)

def ipv4 (s : State) (p : Nat) : List Byte := le 4 (word s 0x0A03 p 0x04)
def ipv6 (s : State) (p : Nat) : List Byte := (span 0 4).flatMap fun i => le 4 (word s 0x0A03 p (0x10 + 4 * i))

/-- An echo reply of that data fits into a frame of 9,216 bytes: link header and check sequence, tag, IP header, ICMP header (12
R309). -/
def frameFits (s : State) (p : Nat) (v6 : Bool) (data : List Byte) : Bool :=
  decide (18 + 4 * b2n (vlanTag s p).isSome + (if v6 then 40 else 20) + 4 + data.length ≤ 9216)

/-- ETH_ARP_ND_ECHO: kind 0 ARP request, 1 Neighbor Solicitation, 2 ICMP echo, 3 ICMPv6 echo; the sender's MAC and IP address,
the address asked, and the echo's identifier, sequence number and data. The answer is the message itself, without the link and
IP headers (log entry 3). -/
def echo (p kind : Nat) (mac ip target data : List Byte) (s : State) : State :=
  let own := if kind = 0 ∨ kind = 2 then ipv4 s p else ipv6 s p
  let en := if kind = 0 ∨ kind = 2 then cfBit s 0x0A03 p 0x00 31 else cfBit s 0x0A03 p 0x00 30
  if 2 ≤ p ∨ ¬ laneUp s (ethLane p) ∨ ¬ en ∨ target ≠ own ∨ (2 ≤ kind ∧ ¬ frameFits s p (kind ≠ 2) data) then s
  else
    let pseudo := fun (n : Nat) => own ++ ip ++ be 4 n ++ be 4 58
    match kind with
    | 0 => sendFrame p mac 0x0806 (be 2 1 ++ be 2 0x0800 ++ le 1 6 ++ le 1 4 ++ be 2 2 ++ macBytes s p ++ own ++ mac ++ ip) s
    | 1 =>
      let t := be 4 0x60000000 ++ own ++ le 1 2 ++ le 1 1 ++ macBytes s p
      let c := inetSum (pseudo (4 + t.length) ++ le 1 136 ++ le 1 0 ++ be 2 0 ++ t)
      sendFrame p mac 0x86DD (le 1 136 ++ le 1 0 ++ be 2 c ++ t) s
    | 2 => sendFrame p mac 0x0800 (le 1 0 ++ le 1 0 ++ be 2 (inetSum (be 4 0 ++ data)) ++ data) s
    | _ =>
      let c := inetSum (pseudo (4 + data.length) ++ le 1 129 ++ le 1 0 ++ be 2 0 ++ data)
      sendFrame p mac 0x86DD (le 1 129 ++ le 1 0 ++ be 2 c ++ data) s

def execEthArpNdEcho (at_ p kind : Nat) (mac ip target data : List Byte) (s : State) : Host.Outcome State Fault Refusal :=
  .next (echo p kind mac ip target data (s.tick at_))

end Sys2Proof.Machine
end

