-- ==== Sys2Proof/Machine/Status.lean ====
section
/-! DEFINITION. What the read-only fields of the parameter blocks read (03 R73, R75, R87; 04 R110; 05 R133, R134, R474;
08 R197, R219; 09 R230, R231, R240; 10 R259, R272; 12 R299, R310, R311; 16 R401, R402, R411). -/

namespace Sys2Proof.Machine

/-- EXC_STATUS. -/
def statusExc (s : State) (e off : Nat) : Nat :=
  let v := excOf s e
  if off = 0x00 then min v.sense 65535 * 65536 + (if lowSide s e then 0 else min v.iMeas 65535)
  else if off = 0x04 then v.pulseResult * 65536 + phaseRead s e * 16 + excState s e
  else v.pulseCount % 2 ^ 32

/-- TONE_RESULT. -/
def statusTone (s : State) (c off : Nat) : Nat :=
  let t := (chan s c).tone
  if off = 0x00 then satS32 t.re
  else if off = 0x04 then satS32 t.im
  else if off = 0x08 then satS32 t.base
  else if off = 0x0C then t.cls
  else t.seconds % 2 ^ 32

/-- WIT_QUIRE_STATUS. -/
def statusWitQuire (s : State) (q off : Nat) : Nat :=
  let w := witOf s q
  let code := fun (p : Option StandIn) => (p.map (·.channel)).getD 0xFFFF
  if off = 0x00 then w.injections.length * 256 + b2n w.posB.isSome * 32 + b2n w.posA.isSome * 16 + witMode s q
  else if off = 0x04 then code w.posA * 65536 + code w.posB
  else if off = 0x08 then w.cycles % 2 ^ 32
  else w.skips % 2 ^ 32

/-- STATE of WIT_STATUS: a stand-in, or paused in WITNESS_FAULT and host simultaneous mode (04 R111, R114). -/
def chanWitState (s : State) (c : Nat) : Nat :=
  if (witOf s (quireOf c)).state = 3 ∨ s.conv.simul.isSome then 3
  else
    match standinOf s c with
    | some v => if v.suspended then (chan s c).wstate else 4
    | none => (chan s c).wstate

/-- WIT_STATUS. -/
def statusWit (s : State) (c off : Nat) : Nat :=
  let v := chan s c
  if off = 0x00 then v.wrun * 256 + chanWitState s c
  else if off = 0x04 then satS32 v.lastD
  else if off = 0x08 then v.visits % 2 ^ 32
  else v.disagreeing % 2 ^ 32

/-- FIR outputs of the running fade already weighted: those whose instants have come (05 R133, R138). -/
def fadeDone (s : State) (n : Nat) (f : Fade) : Nat :=
  let u : Int := ((2 ^ streamK s n : Nat) : Int)
  -- the first FIR output at or after the edge: an odd or even multiple of u, as N is even or odd
  let p := -(-f.e / u)
  let p := if (p + (streamN s n : Int) - 1) % 2 = 0 then p else p + 1
  if sincNow s < p * u then 0 else min (f.len * streamN s n) ((sincNow s - p * u) / (2 * u) + 1).toNat

/-- FILT_STATUS; a stream that is not RUNNING reads the reset values (log entry 59). -/
def statusFilter (s : State) (n off : Nat) : Nat :=
  let st := stream s n
  let held := (st.held.map (·.1)).getD 0
  let target := (st.fade.map (·.to_)).getD 0
  let active := (st.fade.map (·.from_)).getD st.response
  let mode := if ¬ running s n then 0 else if st.fade.isNone then 1 else if st.held.isNone then 2 else 3
  if ¬ running s n then 0
  else if off = 0x00 then held * 2 ^ 24 + target * 2 ^ 20 + active * 2 ^ 16 + mode
  else if off = 0x04 then ((st.fade.map (fadeDone s n)).getD 0) % 2 ^ 32
  else if off = 0x08 then ((st.fade.map (·.nf)).getD 0) % 2 ^ 32
  else if off = 0x0C then ((st.fade.map (·.nf)).getD 0) / 2 ^ 32 % 2 ^ 32
  else
    let b := fun r => spanB (streamK s n) (streamN s n) r
    let d := match st.fade with
      | none => b active
      | some f => max (b f.from_) (b f.to_)
    satU 32 (ceilDiv (d * sincU) usU)

/-- A slot's word of FILT_SLOTS. -/
def slotWord (s : State) (v : Slot) : Nat :=
  let fading := v.users.any fun n => (stream s n).fade.isSome
  v.users.length * 2 ^ 24 + b2n fading * 2 ^ 16 + 2 ^ 15 + b2n v.even * 2 ^ 14 + v.k * 256 + v.resp

/-- TIME_STATUS. -/
def statusTime (s : State) (off : Nat) : Nat :=
  let t := s.time
  let r := ofSigned 40 t.rate
  let src := srcOf s t.source
  match off with
  | 0x00 => t.source * 2 ^ 24 + t.unsetReason * 256 + b2n t.refLost * 16 + t.state
  | 0x04 => satS32 (t.offset / 65536)
  | 0x08 => r % 2 ^ 32
  | 0x0C => r / 2 ^ 32
  | 0x10 => holdEst s
  | 0x14 => t.rebases % 2 ^ 32
  | 0x18 => fld 0 4 src.gmId
  | 0x1C => fld 4 4 src.gmId
  | _ => src.gmClass % 256 * 65536 + ofSigned 16 src.utc

/-- IU_RESULT, with a result that is due. -/
def statusUnit (s : State) (u off : Nat) : Nat :=
  let v := unit_ (iuJudge u s) u
  let ns := (v.resDev % (secU : Int)).toNat
  match off with
  | 0x00 => v.flags + v.state
  | 0x04 => v.interval % 2 ^ 32
  | 0x08 => v.interval / 2 ^ 32 % 2 ^ 32
  | 0x0C => devSec v.resDev % 2 ^ 32
  | 0x10 => ns / 65536
  | 0x14 => ns % 65536
  | _ => v.results

/-- TRG_STATUS. -/
def statusSeq (s : State) (k off : Nat) : Nat :=
  let v := seqr s k
  match off with
  | 0x00 => v.state * 65536 + v.run
  | 0x04 => v.cnt0 % 65536 * 65536 + v.cnt1 % 65536
  | 0x08 => v.marks
  | 0x0C => v.suppressed
  | 0x10 => v.lastIndex % 2 ^ 32
  | _ => v.lastIndex / 2 ^ 32 % 2 ^ 32

/-- LEDGER; that of a relay stream reads STOPPED (12 R318). -/
def statusLedger (s : State) (n off : Nat) : Nat :=
  let st := stream s n
  let w := fun (x : Nat) => if off % 8 = 0 then x % 2 ^ 32 else x / 2 ^ 32 % 2 ^ 32
  if off = 0x00 then b2n st.stalled.isSome * 8 + (if isRelay s n then 0 else st.state)
  else if off = 0x04 then occupancy st
  else if off < 0x10 then w st.runFirstSeq
  else if off < 0x18 then w st.q.nextSeq
  else if off < 0x20 then w (st.q.ackNext - 1)
  else if off < 0x28 then w st.n0
  else if off < 0x30 then w st.lastIndex
  else if off < 0x38 then w st.notDelivered
  else if off < 0x40 then w st.degraded
  else if off < 0x48 then w st.skipped
  else if off = 0x48 then st.retiredCount % 2 ^ 32
  else if off = 0x4C then st.dWords % 2 ^ 32
  else st.gapCount % 2 ^ 32

/-- STORE_STATUS. -/
def statusStore (s : State) (off : Nat) : Nat :=
  match off with
  | 0x00 => storeMib s % 65536 * 65536 + (if s.boot.storeMode = 1 then s.store.lpRate else 0) * 2 ^ 14 + s.boot.storeMode
  | 0x04 => storeSlots s
  | 0x08 => slotsFree s
  | 0x0C => poolFree s
  | 0x10 => s.store.corrected % 2 ^ 32
  | 0x14 => s.store.uncorrectable % 2 ^ 32
  | _ => s.store.scrubs % 2 ^ 32

/-- LANE_STATUS. -/
def statusLane (s : State) (l off : Nat) : Nat :=
  let v := lane s l
  match off with
  | 0x00 => v.state * 2 ^ 28 + v.rateNow * 2 ^ 24 + b2n v.lock * 2 ^ 15 + v.loop * 2 ^ 12 + v.fecNow * 2 ^ 10 + v.ver * 256
  | 0x04 => v.lockLosses % 2 ^ 32
  | 0x08 => v.trainAttempts % 2 ^ 32
  | 0x0C => v.prbsErrors % 2 ^ 32
  | 0x10 => min v.eyeH 65535 * 65536 + min v.eyeV 65535
  | _ => v.scanSeconds % 2 ^ 32

/-- JOURNAL_STATUS. -/
def statusJournal (s : State) (off : Nat) : Nat :=
  match off with
  | 0x00 => b2n s.jrn.failed
  | 0x04 => satU 32 s.jrn.held
  | 0x08 => jFirst s % 2 ^ 32
  | 0x0C => jFirst s / 2 ^ 32 % 2 ^ 32
  | 0x10 => jNext s % 2 ^ 32
  | 0x14 => jNext s / 2 ^ 32 % 2 ^ 32
  | 0x38 => jFreeKib s
  | _ => fld (off - 0x18) 4 (jHead s)

/-- A session's SERVICE_AUTH fields that can be read, and VALID (16 R402). -/
def statusAuth (s : State) (off : Nat) : Nat :=
  if off = 0xA8 then b2n s.cz.authValid else if off < 0x14 then fld off 4 s.cz.authBytes else 0

/-- The RO part of a block's word as it reads now. -/
def statusWord (s : State) (b inst off : Nat) : Nat :=
  match b with
  | 0x0102 => if off = 0 then b2n (safetyHeld s inst) * 2 ^ 31 else 0
  | 0x0103 => statusExc s inst off
  | 0x0105 => statusTone s inst off
  | 0x0202 => statusWitQuire s inst off
  | 0x0204 => statusWit s inst off
  | 0x0302 => statusFilter s inst off
  | 0x0303 => (((chan s inst).slots.find? fun l => decide (l.pos = off / 4)).map (slotWord s)).getD 0
  | 0x0304 => romWord inst off
  | 0x0602 => statusTime s off
  | 0x0606 => statusUnit s inst off
  | 0x0704 =>
    let m := maskT s inst
    if off = 4 then (if m.loaded then (m.count - 1) * 65536 + 4 else 0) else 0
  | 0x0705 => statusSeq s inst off
  | 0x0706 => if off = 0x18 then s.group.gen % 2 ^ 32 else if off = 0x1C then s.group.gstate else 0
  | 0x0802 => if off = 0x70 then (setMembers s inst).length else 0
  | 0x0803 => statusLedger s inst off
  | 0x0804 => statusStore s off
  | 0x0A02 => statusLane s inst off
  | 0x0A03 =>
    let m := if inst = 0 then s.part.mac0 else s.part.mac1
    if off = 0x34 then m % 2 ^ 32 else if off = 0x38 then m / 2 ^ 32 % 65536 else 0
  | 0x0A04 => if off = 0x18 then (stream s inst).session else 0
  | 0x0B03 => if off = 0x14 then corrCrc s inst else 0
  | 0x0B04 => pairStatus s inst off
  | 0x0B05 => groupStatus s inst off
  | 0x0C01 => if off = 4 then s.cz.keys.creds.length * 256 + s.cz.keys.state else 0
  | 0x0C02 => statusAuth s off
  | 0x0C03 => statusJournal s off
  | _ => if 0x0502 ≤ b ∧ b ≤ 0x0505 then statusCal s b inst off else 0

/-- The RW fields of ACCESS_POLICY (16 R401). -/
def policyWord (s : State) : Nat := b2n s.cz.keys.anonEn * 8 + s.cz.keys.anonRole

/-- A word as PB_READ gives it in force: write-only fields read 0 (00 R11). -/
def readWord (s : State) (b inst off : Nat) : Nat :=
  let ro := accMask .ro b inst off
  let wo := accMask .wo b inst off
  let w := if b = 0x0C01 ∧ off = 0 then policyWord s else if b = 0x0C02 then statusAuth s off else word s b inst off
  ((w &&& (2 ^ 32 - 1)) - (w &&& (ro ||| wo))) + (statusWord s b inst off &&& ro)

end Sys2Proof.Machine
end

