-- ==== Sys2Proof/Machine/Rules.lean ====
section
/-! DEFINITION. The rules between fields that a PB_COMMIT must leave whole (03 R65; 04 R106, R121; 05 R132; 06 R149; 08 R212;
09 R222, R229, R240, R241; 10 R260; 12 R301, R311; 15 R393), as conditions on the state that the commit would produce. A
channel, group or stream whose block stands at reset breaks none of them. -/

namespace Sys2Proof.Machine

/-- Instances of a block with a word that differs from its reset value. -/
def listedInsts (s : State) (b : Nat) : List Nat :=
  ((s.cfg.filter fun p => p.1.1 == b).map fun p => p.1.2.1).eraseDups

/-- Offsets of the words of a block. -/
def blockOffs (b : Nat) : List Nat := (List.range (blockSize b / 4)).map fun i => 4 * i

/-- A block instance differs between two states in some word. -/
def instChanged (o f : State) (b inst : Nat) : Bool := (blockOffs b).any fun k => word o b inst k != word f b inst k

/-! ### Front end, excitation, converters (03 R65, 04 R106) -/

def feOk (f : State) (c : Nat) : Bool :=
  let m := excMode f (groupOf c)
  (decide (rtdI f c = 0) || decide (m = 3)) && (!ratiometric f c || decide (m = 1 ∨ m = 2))
    && (decide (wiring f c ≠ 1) || decide (c % 2 = 0 ∧ wiring f (c + 1) = 2 ∧ rtdI f (c + 1) = 0 ∧ rtdI f c ≠ 0))
    && (decide (wiring f c ≠ 2) || decide (c % 2 = 1 ∧ wiring f (c - 1) = 1))

def excOk (f : State) (e : Nat) : Bool :=
  let p := partner e
  decide (excMode f e ≠ 2)
    || decide (excMode f p = 2 ∧ revHalf f e = revHalf f p ∧ blankPost f e = blankPost f p ∧ blankPost f e + 8 ≤ revHalf f e)

def codingOk (f : State) (c : Nat) : Bool := !cfBit f 0x0201 c 0x00 28 || decide (modeOf f c = 1)

/-! ### Correction (06 R149, R150) -/

/-- Parameters that a curve uses. -/
def curveUses (k : Nat) : Nat :=
  match k with
  | 0x20 => 1
  | 0x32 => 2
  | 0x51 | 0x53 => 2
  | 0x30 | 0x31 | 0x33 | 0x34 | 0x35 | 0x40 | 0x50 | 0x52 | 0x54 => 3
  | 0x21 | 0x36 => 4
  | 0x37 => 5
  | _ => 0

/-- The configuration that a curve requires of its channel. -/
def curveNeeds (f : State) (c k : Nat) : Bool :=
  if k = 0 then true
  else if k < 0x20 then !ratiometric f c && decide (rtdI f c = 0 ∧ excMode f (groupOf c) = 0)
  else if k < 0x50 then rtdSource f c
  else ratiometric f c

/-- 1 + A t + B t^2 + C (t - 100) t^3 rises strictly over -200 to 850 degrees C: its slope is nowhere negative, at the ends of
the two pieces and at the least of the lower one. -/
def cvdRises (a b c : Rat) : Bool :=
  let d := 625 - b / (6 * c)
  let al := a + 50 * b - 125000 * c
  decide (0 ≤ a ∧ 0 ≤ a + 1700 * b ∧ ¬ (a = 0 ∧ b = 0) ∧ 0 ≤ a - 400 * b - 44000000 * c)
    && (decide (0 ≤ c) || decide (d ≤ 625 ∨ 50625 ≤ d) || decide (0 ≤ al ∧ 64 * c * c * d * d * d ≤ al * al))

/-- B + 3 C (ln R)^2 is positive from 1 ohm to 10 megohm. -/
def steinhartRises (b c : Rat) : Bool :=
  let l := lnQ 10000000
  decide (0 < b ∧ 0 < b + 3 * c * l * l)

/-- The curve's parameters lie within the limits of R150. -/
def curveLimits (f : State) (c k : Nat) : Bool :=
  let p := curveP f c
  let used := if k < 0x20 then true
    else if k = 0x21 then decide (0 < p 0) && cvdRises (p 1) (p 2) (p 3)
    else if k < 0x40 then decide (0 < p 0)
    else if k = 0x40 then steinhartRises (p 1) (p 2)
    else if k = 0x50 then decide (0 < p 0 ∧ 1 ≤ p 2)
    else if k = 0x52 then decide (0 < p 0 ∧ 0 ≤ p 2 ∧ 2 * p 2 ≤ 1)
    else if k = 0x54 then decide (p 0 ≠ 0 ∧ 0 < p 2)
    else decide (0 < p 0)
  used && (List.range 5).all fun j => decide (j < curveUses k) || decide (p j = 0)

def corrOk (f : State) (c : Nat) : Bool :=
  let k := curveOf f c
  let src := cf f 0x0401 c 0x00 31 16
  curveNeeds f c k && curveLimits f c k && (decide (k = 0) || decide (cfF64 f 0x0401 c 0x10 ≠ 0))
    && (decide (cf f 0x0401 c 0x00 9 8 ≠ 2)
        || (decide (src ≠ c) && yieldsC (curveOf f src) && decide (cf f 0x0401 src 0x00 9 8 ≠ 2)))

/-- No member of a safety pair takes its temperature from a channel; of enabled pairs alone (DESIGN CHOICE, log entry 129). -/
def membersOwn (f : State) : Bool :=
  (enabledPairs f).all fun p => [2 * p, 2 * p + 1].all fun m =>
    decide (chanCount f ≤ slotChan f m) || decide (cf f 0x0401 (slotChan f m) 0x00 9 8 ≠ 2)

/-! ### Triggers and capture (09 R222, R240, R241) -/

def condOk (f : State) (k : Nat) : Bool :=
  match cf f 0x0702 k 0x00 31 28 with
  | 3 => decide (cfF64 f 0x0702 k 0x08 ≤ cfF64 f 0x0702 k 0x10)
  | 2 => decide (0 ≤ cfF64 f 0x0702 k 0x10)
  | _ => true

/-- Streams named as a sequencer's REF_STREAM or in MARK_STREAMS. -/
def namedStreams (f : State) : List Nat :=
  streamList.filter fun n => bit n (word f 0x0706 0 0x10) || (listedInsts f 0x0701).any fun k => cf f 0x0701 k 0x00 15 8 == n

/-- A reduced stream that is named has an enabled capture stream whose release lag covers ACCEPT_LATE_MS. -/
def markedOk (f : State) (n : Nat) : Bool :=
  decide (streamReduce f n = 0)
    || (capturesOf f n).any fun x => decide (cf f 0x0706 0 0x0C 31 16 ≤ cf f 0x0707 x 0x0C 31 16)

/-- A capture stream's source is no capture stream, and its reserve holds the look-back and 1 MiB more. -/
def captureOk (f : State) (n : Nat) : Bool :=
  let src := captureSource f n
  let look := preOf f n + ceilDiv (lagU f n) (periodOf f n)
  let w := if streamF32 f n then 5 else 4
  !isCapture f n || decide (src = 0)
    || (!isCapture f src && decide (look * (streamSet f n).length * w * 4096 + 1048576 * 4064 ≤ reserveRoom f n))

/-! ### Streams and the store (04 R121; 10 R260) -/

def formatOk (f : State) (n : Nat) : Bool := decide (cf f 0x0203 n 0x00 1 0 ≠ 1) || !cfBit f 0x0203 n 0x00 8

def streamOk (f : State) (n : Nat) : Bool :=
  let red := cf f 0x0801 n 0x00 9 8
  let cov := coverOf f n
  (decide (red = 0) || decide (cf f 0x0203 n 0x00 1 0 = 0)) && (!cfBit f 0x0801 n 0x10 0 || decide (red ≠ 2))
    && (decide (cov = 0) || (decide (red ≠ 0) && decide (cf f 0x0801 cov 0x00 9 8 = 0) && !isCapture f cov
        && streamList.all fun x => decide (x = n ∨ coverOf f x ≠ cov)))

/-- The sum of quotas and reserves fits in the store. -/
def quotaOk (f : State) : Bool :=
  decide (total (streamList.map fun n => quotaMib f n + (if isCapture f n then reserveMib f n else 0)) ≤ storeMib f)

/-! ### Lanes and PTP ports (12 R301, 08 R212): also rules of a PB_WRITE -/

/-- STANDBY is not set while the primary lane has EN = 0; both PTP ports are not enabled with different domains. -/
def linkRules (f : State) (b inst : Nat) : Bool :=
  if b = 0x0A01 then !cfBit f 0x0A01 inst 0x00 30 || cfBit f 0x0A01 (inst - 1) 0x00 31
  else if b = 0x0603 then
    !(cfBit f 0x0603 0 0x00 31 && cfBit f 0x0603 1 0x00 31) || decide (cf f 0x0603 0 0x00 23 16 = cf f 0x0603 1 0x00 23 16)
  else true

/-- Every rule on the state that a commit would produce by itself. -/
def stateRules (f : State) : Bool :=
  (listedInsts f 0x0101).all (feOk f) && (listedInsts f 0x0102).all (excOk f) && (listedInsts f 0x0201).all (codingOk f)
    && (listedInsts f 0x0401).all (corrOk f) && membersOwn f && (listedInsts f 0x0702).all (condOk f)
    && (namedStreams f).all (markedOk f) && streamList.all (captureOk f) && streamList.all (formatOk f)
    && streamList.all (streamOk f) && quotaOk f

/-! ### Streams at the edge (05 R132; 06 R149; 10 R260; 12 R311). `m` is the sinc number of the edge -/

/-- What a commit may not change on a stream that is live at its edge. -/
def liveRules (o f : State) (m : Int) (before : List Nat) (n : Nat) : Bool :=
  !(instChanged o f 0x0301 n && (fieldChanged o f 0x0301 n 0x00 19 16 || fieldChanged o f 0x0301 n 0x04 15 0))
    && !(fieldChanged o f 0x0801 n 0x00 23 0 || fieldChanged o f 0x0801 n 0x04 31 16 || fieldChanged o f 0x0801 n 0x08 23 0
      || fieldChanged o f 0x0801 n 0x10 0 0)
    && !instChanged o f 0x0802 (streamSetNo o n)
    && !(fieldChanged o f 0x0301 n 0x00 3 0 && filtered o n && sharesSlot o m before n)
    && sourcesIn f (streamSet f n)

/-- `held` lists the streams whose FILT_STREAM a pending commit, or this one, holds; `before` those of the commits before it. -/
def streamRules (o f : State) (m : Int) (before held : List Nat) : Bool :=
  (streamList.filter (liveAt o m)).all (fun n => liveRules o f m before n)
    && (((streamList.filter fun n => held.contains n && liveAt f m n).flatMap (streamSet f)).eraseDups).all
      (fun c => decide ((endKeys f m held c).length ≤ 2))
    && streamList.all fun n => decide ((stream o n).state = 0) || decide (quotaMib o n ≤ quotaMib f n)

/-- STREAM_NET of the instances a commit holds: unchanged on a stream that is not STOPPED; an Ethernet port with its address
family and a destination port. -/
def netRules (o f : State) (n : Nat) : Bool :=
  let t := cf f 0x0A04 n 0x00 31 28
  (decide ((stream o n).state = 0) || !instChanged o f 0x0A04 n)
    && (decide (t ≠ 1 ∧ t ≠ 2) || (cfBit f 0x0A03 (t - 1) 0x00 (if cfBit f 0x0A04 n 0x00 26 then 30 else 31)
        && decide (cf f 0x0A04 n 0x00 15 0 ≠ 0)))

/-! ### Sequencers that are armed or halted (09 R229) -/

def seqRules (o f : State) (k : Nat) : Bool :=
  decide ((seqr o k).run = 0)
    || (!instChanged o f 0x0701 k && !instChanged o f 0x0703 k
      && (blockOffs 0x0703).all fun t =>
        let w := word o 0x0703 k t
        !bit 24 w || !instChanged o f 0x0702 (bits 31 26 w))

/-! ### Safety members (15 R393) -/

/-- A commit changes the excitation of a group in force or its reversing. -/
def groupModeChanged (o f : State) (e : Nat) : Bool :=
  fieldChanged o f 0x0102 e 0x00 2 0 || fieldChanged o f 0x0102 e 0x04 16 0

/-- A commit reconfigures the member in a slot: with the lock open only. -/
def memberReconf (o f : State) (k : Nat) : Bool :=
  let c := slotChan o k
  let mask := bits 15 11 (if o.safe.lockOpen then keyWord o.safe.working 0x0B03 k 0x00 else word o 0x0B03 k 0x00)
  modeChanged o f c || wireChanged o f c || instChanged o f 0x0401 c || groupModeChanged o f (groupOf c)
    || (gainChanged o f c && !bit (gainOf f c) mask)

/-- A commit changes the member in a slot at all. -/
def memberTouched (o f : State) (k : Nat) : Bool := memberReconf o f k || gainChanged o f (slotChan o k)

/-- Conditions A of a slot's member, the commit's own contents included. -/
def commitA (o f : State) (k : Nat) : Bool := conditionsA o k && !memberTouched o f (other k)

/-- The rules of R393 for a slot of an enabled pair. -/
def memberRules (o f : State) (k : Nat) : Bool :=
  let c := slotChan o k
  let near := (groupChans (groupOf c)).any fun x => decide (x ≠ c) && wireChanged o f x
  decide (chanCount o ≤ c)
    || ((!memberReconf o f k || o.safe.lockOpen)
      && (!(gainChanged o f c && !memberReconf o f k) || commitA o f k)
      && (!near || commitA o f k))

def safetyRules (o f : State) : Bool :=
  (enabledPairs o).all fun p => memberRules o f (2 * p) && memberRules o f (2 * p + 1)

end Sys2Proof.Machine
end

