-- ==== Sys2Proof/Machine/Commit.lean ====
section
/-! DEFINITION. PB_COMMIT: its acceptance, the edge it takes effect at, and what a change of each block does there
(01 R32 to R34; 03 R74, R76, R79 to R81; 05 R138 to R142; 06 R158; 13 R341 to R343; 15 R393). -/

namespace Sys2Proof.Machine

/-! ### Instances (01 R34, 14 R351) -/

/-- The quire that holds a block instance, if one does. -/
def itemQuire (b inst : Nat) : Option Nat :=
  match b with
  | 0x0101 | 0x0201 | 0x0401 => some (inst / 128)
  | 0x0102 => some (inst / 32)
  | 0x0104 | 0x0501 => some inst
  | _ => none

/-- A staged instance belongs to a quire that is out of service. -/
def itemOut (s : State) (x : Staged) : Bool :=
  match itemQuire x.block x.inst with
  | none => false
  | some q => !inService s q

/-- The role that an instance requires of PB_WRITE, PB_STAGE and PB_COMMIT; `sl` says that the range holds SL fields. -/
def instRole (s : State) (b inst : Nat) (sl : Bool) : Nat :=
  if b = 0x0C02 then 0
  else if 0x0C00 ≤ b ∧ b < 0x0D00 then 4
  else if 0x0B00 ≤ b ∧ b < 0x0C00 then 3
  else if (b = 0x0101 ∨ b = 0x0401) ∧ isMember s inst then 3
  else if b = 0x0102 ∧ safetyHeld s inst then 3
  else if b = 0x0501 ∧ sl then 2
  else 1

/-- The role that several instances require together: two that no single role below Service meets give 6. -/
def joinRole (a b : Nat) : Nat := if a ≤ 1 then max a b else if b ≤ 1 ∨ a = b then a else 6

/-- A word of a block as software set it: ACCESS_POLICY stands in KEYS, SERVICE_AUTH in SRAM. -/
def setWord (s : State) (b inst off : Nat) : Nat :=
  if b = 0x0C01 then (if off = 0 then policyWord s else 0)
  else if b = 0x0C02 then fld off 4 s.cz.authBytes
  else word s b inst off

/-- The image of an instance. -/
def imageOf (s : State) (b inst : Nat) : List Byte := (blockOffs b).flatMap fun k => le 4 (setWord s b inst k)

/-- The journal's item of an instance that has changed (16 R406). -/
def journalItem (o s : State) (b inst : Nat) : List Byte :=
  le 2 b ++ le 2 inst ++ le 4 (crc32c (imageOf o b inst)) ++ le 4 (crc32c (imageOf s b inst))

/-! ### The rules of pending commits (13 R342) -/

/-- A commit's rules against the state before it and after it. Log entry 116. -/
def commitRules (o f : State) (c : PendCommit) (before : List Nat) : Bool :=
  stateRules f && streamRules o f (edgeSinc c.edge) before (heldFilters [c] ++ before)
    && (c.items.filter (·.block == 0x0A04)).all (fun x => netRules o f x.inst)
    && c.items.all (fun x => linkRules f x.block x.inst) && (List.range 8).all (seqRules o f)

/-- Every commit from edge `from_` on keeps the rules, each on the state that those before it leave. -/
def chainRules (from_ : Nat) (o : State) (held : List Nat) : List PendCommit → Bool
  | [] => true
  | c :: r =>
    let f := applyWords c.items o
    (decide (c.edge < from_) || commitRules o f c held) && chainRules from_ f (heldFilters [c] ++ held) r

/-- No pending commit with a later edge comes to break a safety rule by a new one: `o` is the state before it with the new
commit, `was` without (13 R342, 15 R393). -/
def laterSafe (o was : State) : List PendCommit → Bool
  | [] => true
  | c :: r =>
    let f := applyWords c.items o
    let g := applyWords c.items was
    (safetyRules o f || !safetyRules was g) && laterSafe f g r

/-- Another pending commit of the same edge holds one of its instances. -/
def sameEdge (c : PendCommit) (s : State) : Bool :=
  s.cz.commits.any fun x => decide (x.edge = c.edge) && x.items.any fun a => c.items.any fun b => a.block == b.block && a.inst == b.inst

/-! ### STREAM_RECONFIG (05 R139; 06 R158; 10 R253) -/

/-- A channel's correction changes: its block, what R147 reads, or its source's block. -/
def corrTouched (o f : State) (c : Nat) : Bool :=
  modeChanged o f c || wireChanged o f c || instChanged o f 0x0401 c
    || (decide (cf f 0x0401 c 0x00 9 8 = 2) && instChanged o f 0x0401 (cf f 0x0401 c 0x00 31 16))

/-- The record a commit leaves in a stream: `resp` holds the responses of a fade that begins and its length. -/
def reconfigRecord (o f : State) (m : Int) (resp : Option (Nat × Nat × Nat)) (n : Nat) : Option DiscRec :=
  let l := (streamSet f n).filter (corrTouched o f)
  let change := b2n resp.isSome + 2 * b2n (l.any (modeChanged o f)) + 4 * b2n (!l.isEmpty)
  let st := stream f (sourceOf f n)
  let now_ := (st.fade.map (·.to_)).getD st.response
  let r := resp.getD (now_, now_, cf f 0x0301 (sourceOf f n) 0x08 12 0)
  let i := indexCeil f n (sincTime m)
  if change = 0 ∨ isRelay f n then none
  else
    let d := mkDisc f 2 i (i - 1) (reconfigBody change r.1 r.2.1 r.2.2)
    some (if resp.isSome then d else { d with channel := l.headD 0xFFFF, count := l.length })

/-- A commit adds a record to a stream: the response that it runs on changes, or a channel's correction. -/
def addsRecord (o f : State) (m : Int) (n : Nat) : Bool :=
  runningAtE o m n && (fieldChanged o f 0x0301 (sourceOf o n) 0x00 3 0 || (reconfigRecord o f m none n).isSome)

/-- Records that pending commits would add to a stream, the new one among them. -/
def addedRecords (n : Nat) (o : State) : List PendCommit → Nat
  | [] => 0
  | c :: r =>
    let f := applyWords c.items o
    b2n (addsRecord o f (edgeSinc c.edge) n) + addedRecords n f r

/-- A STALLED stream would get a seventeenth pending record (10 R270). -/
def commitFull (l : List PendCommit) (c : PendCommit) (s : State) : Bool :=
  streamList.any fun n => (stream s n).stalled.isSome
    && (let o := afterCommits (l.filter fun x => decide (x.edge ≤ c.edge)) s
        addsRecord o (applyWords c.items o) (edgeSinc c.edge) n)
    && decide (16 < (stream s n).discs.length + addedRecords n s (insertCommit c l))

/-! ### PB_COMMIT is accepted (13 R341) -/

/-- What the session has staged. -/
def stagedOf (s : State) (r : Req) : List Staged := ((session? s r.session).map (·.staged)).getD []

/-- Log entry 117. -/
def commitParams (r : Req) (s : State) : Bool :=
  exactly 16 r s && decide (r.f 0 1 ≤ 2) && zeroAt 2 6 r && (decide (r.f 0 1 = 1) == r.applyAt.isSome)
    && (decide (r.f 0 1 ≠ 2) || decide (4 ≤ r.f 1 1 ∧ r.f 1 1 < 32))

def commitRole (r : Req) (s : State) : Nat :=
  (stagedOf s r).foldl (fun a x => joinRole a (instRole s x.block x.inst false)) 0

/-- The sinc number of the edge; none when AT_INDEX names a stream that is neither STARTING nor RUNNING. -/
def commitTarget (r : Req) (s : State) : Option Int :=
  let n := r.f 1 1
  if r.f 0 1 = 2 then (if live s n then some ((r.f 8 8 * 2 ^ (streamK s n + 1) * streamN s n : Nat) : Int) else none)
  else
    match r.applyAt with
    | some t => some (sincCeil t)
    | none => some (sincCeil (devNow s + (msU : Int)))

/-- Instances of quires that are out of service wait for their re-entry, each word as it was staged last (01 R34).
Log entry 116. -/
def holdItem (x : Staged) (s : State) : State :=
  match itemQuire x.block x.inst with
  | none => s
  | some q =>
    let v := quire s q
    let mine := fun (y : Staged) => y.block == x.block && y.inst == x.inst
    let old := ((v.held.find? mine).map (·.words)).getD []
    let words := old.filter (fun w => !x.words.any (·.1 == w.1)) ++ x.words
    setQuire q { v with held := v.held.filter (fun y => !mine y) ++ [{ x with words := words }] } s

/-- The commit is pending: the staging area empties, every in-service quire gets the prepare, and QUEUED names the edge. -/
def acceptCommit (c : PendCommit) (out : List Staged) (s : State) : State :=
  let s := onSession c.req.session (fun v => { v with staged := [] }) s
  let s := forAll out holdItem { s with cz.commits := s.cz.commits ++ [c] }
  let s := forAll (servingQuires s) (fun q => toQuire q 1 c.edge) s
  queued { c.req with ranLate := false } (le 8 c.edge ++ stampOf s ((c.edge * strobeU : Nat) : Int)) s

/-- The edge lies less than 250 us ahead (01 R33). -/
def edgeLate (r : Req) (s : State) : Bool :=
  (commitTarget r s).any fun m => decide (sincTime m < devNow s + (leadU : Int))

def commitServe : Packet → State → State :=
  serveAt edgeLate 0x0103 commitRole commitParams fun r s =>
    match commitTarget r s with
    | none => refuse r stConflict s
    | some m =>
      let all := stagedOf s r
      let inn := all.filter fun x => !itemOut s x
      let c : PendCommit := { req := r, edge := 25 * m.toNat, items := inn, acks := [] }
      let l := byEdge s
      let o := afterCommits (l.filter fun x => decide (x.edge ≤ c.edge)) s
      if ¬ all.isEmpty ∧ inn.isEmpty then refuse r stOut s
      else if 256 ≤ scheduled s then refuse r stBusy s
      else if sameEdge c s || !safetyRules o (applyWords inn o) || !chainRules c.edge s [] (insertCommit c l)
          || !laterSafe (applyWords inn o) o (l.filter fun x => decide (c.edge < x.edge)) then
        refuse r stConflict s
      else if commitFull l c s then refuse r stBusy s
      else acceptCommit c (all.filter (itemOut s)) s

/-- PB_COMMIT. -/
def execPbCommit (at_ : Nat) (p : Packet) (s : State) : Host.Outcome State Fault Refusal :=
  .next (receive 0x0103 p commitServe (s.tick at_))

/-! ### What a write or a commit of a block sets going (03 R85; 08 R202, R212; 12 R299, R301) -/

/-- After the words of an instance have changed from those of `o`; `wo` gives write-only bits written to a word. -/
def blockWritten (o : State) (b inst : Nat) (wo : Nat → Nat) (s : State) : State :=
  match b with
  | 0x0104 => toneWritten inst (wo 0x0C) s
  | 0x0601 => timeCtrlWritten s
  | 0x0603 =>
    if fieldChanged o s 0x0603 inst 0x00 31 28 || fieldChanged o s 0x0603 inst 0x00 23 16 then ptpRestart inst s
    else ptpDecideBoth s
  | 0x0A01 => laneCfgWritten inst s
  | _ => s

/-! ### A response change at the edge (05 R138 to R141) -/

/-- The response change that a commit makes on a running stream: the state, the fade that begins, and whether it is held. -/
def changeResponse (r : Req) (m : Int) (n to_ : Nat) (s : State) : State × Option (Nat × Nat × Nat) × Bool :=
  let st := stream s n
  match st.fade with
  | none =>
    if to_ = st.response then (s, none, false)
    else
      (beginFade n to_ (indexCeil s n (sincTime m)) m s, some (st.response, to_, cf s 0x0301 n 0x08 12 0), false)
  | some fd =>
    let s := setStream n { st with held := none } s
    let s := match st.held with
      | none => s
      | some (_, q) => heldFinal n 1 r.tag 0 q s
    if to_ = fd.to_ then (s, none, false)
    else (setStream n { stream s n with held := some (to_, r) } s, none, true)

/-- A running stream keeps the response in force while its block's other words are applied. -/
def keepResponse (o : State) (m : Int) (x : Staged) : Staged :=
  if x.block = 0x0301 ∧ runningAtE o m x.inst then
    { x with words := x.words.map fun w => if w.1 = 0 then (0, setBits 3 0 (cf o 0x0301 x.inst 0x00 3 0) w.2) else w }
  else x

/-- The response that a committed instance asks of a running stream. -/
def askedResponse (o : State) (m : Int) (x : Staged) : Option (Nat × Nat) :=
  if x.block = 0x0301 ∧ filtered o x.inst ∧ runningAtE o m x.inst then
    (x.words.find? (·.1 == 0)).map fun w => (x.inst, bits 3 0 w.2)
  else none

/-! ### A range change at the edge (03 R79 to R81, R473; 04 R116) -/

/-- Eleven outputs, from the one before the edge. -/
def changeFirst (m : Int) : Int := m - 1
def changeLast (m : Int) : Int := m + 9

/-- The stand-in is refused: the outputs are held. -/
def rangeRefused (o : State) (m : Int) (c reason : Nat) (s : State) : State :=
  raise { standinEvent c reason (gainOf o c) (gainOf s c) with time := stampOf s (sincTime m) }
    (addMark c .heldU (changeFirst m) (some (changeLast m)) s)

/-- The stand-in is granted. -/
def rangeGranted (m : Int) (c : Nat) (s : State) : Option State :=
  (takePos (quireOf c) { channel := c, kind := 0, first := changeFirst m, last := some (changeLast m), suspended := false } s).map
    (addMark c .range (changeFirst m) (some (changeLast m)))

/-- A calibration of the channel itself is abandoned and the channel queued for its new range. Log entry 116. -/
def rangeRequeue (c : Nat) (s : State) : State :=
  let v := chan s c
  match v.run with
  | none => s
  | some r =>
    if r.state = 2 then
      let s := { s with cal.queue := s.cal.queue.filter (·.1 != c) }
      let s := setChan c { v with run := none, lastOutcome := 5, lastRange := r.range } s
      queueCal c r.selfTest none (calOutcome c (5, r.range, 0, 0) s)
    else setChan c { v with run := some { r with range := gainOf s c } } s

/-- A channel that is in stand-in uses the one that it has. -/
def rangeInStandin (m : Int) (c : Nat) (v : StandIn) (s : State) : State :=
  if v.kind = 2 then s
  else
    let s := if v.kind = 1 then cutMarks c .standin (changeFirst m) s else s
    let s := onStandin c (fun p => some { p with kind := 0, first := changeFirst m, last := some (changeLast m) }) s
    addMark c .range (changeFirst m) (some (changeLast m)) s

/-- A range change that enters a range whose calibration temperature lies more than TRIG_MK away queues the channel (07
R172). -/
def rangeDistant (c : Nat) (s : State) : State :=
  if ((chan s c).cal.find (gainOf s c)).isSome ∧ cf s 0x0501 (quireOf c) 0x00 31 16 < calDistance s c
      ∧ (witOf s (quireOf c)).perm ≠ some c then queueCal c false none s
  else s

/-- GAIN of a channel has changed at sinc number m: its outputs about the edge come from a stand-in, or are held. -/
def rangeCover (o : State) (m : Int) (c : Nat) (s : State) : State :=
  let q := quireOf c
  let w := witOf s q
  let s := setChan c { chan s c with oldGain := gainOf o c } s
  if s.conv.simul.isSome ∨ witMode s q = 2 then rangeRequeue c (rangeRefused o m c 2 s)
  else if w.state = 3 then rangeRequeue c (rangeRefused o m c 3 s)
  else
    match standinOf s c with
    | some v => rangeRequeue c (rangeInStandin m c v s)
    | none =>
      let s := rangeRequeue c s
      let s := if w.posA.isSome ∧ w.posB.isSome then preemptCal q (changeFirst m) s else s
      match rangeGranted m c s with
      | some t => t
      | none => rangeRefused o m c 1 s

/-- Log entry 116. -/
def rangeChange (o : State) (m : Int) (c : Nat) (s : State) : State := rangeDistant c (rangeCover o m c s)

/-- While SENSE_LOW lasts, O follows REF_SEL (03 R71). -/
def senseLowMark (o : State) (m : Int) (c : Nat) (s : State) : State :=
  if ¬ (excOf s (groupOf c)).senseLow ∨ ratiometric o c = ratiometric s c then s
  else if ratiometric s c then addMark c .senseLow m none s
  else endMarks c .senseLow (m - 1) s

/-- MODE or REF_SEL of a channel has changed: its outputs are held. A calibration of the channel is queued again and its
stand-in stays open until then (log entry 49). -/
def modeChange (o : State) (m : Int) (c : Nat) (s : State) : State :=
  let s := addMark c .heldU (changeFirst m) (some (changeLast m)) (setChan c { chan s c with oldGain := gainOf o c } s)
  rangeRequeue c (senseLowMark o m c s)

/-- The channels of a commit, each by its rule, the lowest first. -/
def frontChange (o : State) (m : Int) (c : Nat) (s : State) : State :=
  if modeChanged o s c then modeChange o m c s
  else if gainChanged o s c then rangeChange o m c s
  else s

/-! ### The edge (01 R32; 13 R341, R343; 15 R378, R393) -/

/-- Streams and fades that fall due before the edge or at it come first. -/
def dueAtEdge (m : Int) (s : State) : State :=
  forAll streamList (fun n s =>
    let st := stream s n
    let s := if ((st.n0 * periodOf s n : Nat) : Int) ≤ sincTime m then streamRunning n s else s
    match (stream s n).fade with
    | some f => if fadeOver s n f ≤ m then fadeEnd n s else s
    | none => s) s

/-- Members that a commit reconfigures: their groups trip with RECONFIG. -/
def reconfigMembers (o : State) (s : State) : State :=
  let l := ((enabledPairs o).flatMap fun p => [2 * p, 2 * p + 1]).filter fun k => decide (slotChan o k < chanCount o) && memberReconf o s k
  let s := forAll l (fun k s => setMember k { member s k with reconfig := true } s) s
  forAll ((l.map fun k => pairGroup s (k / 2)).eraseDups) (groupStep 32) s

/-- The streams of a commit's STREAM_NET are bound to its session; one that is not STOPPED goes back. -/
def bindStream (r : Req) (n : Nat) (s : State) : State :=
  let st := stream s n
  let s := setStream n { st with session := r.session } s
  if st.state = 0 then s else goBack n s

/-- The response changes of a commit, in order: the state, the fades that begin by stream, and the streams held. -/
def changeResponses (r : Req) (m : Int) (l : List (Nat × Nat)) (s : State) : State × List (Nat × Nat × Nat × Nat) × List Nat :=
  l.foldl (fun (a : State × List (Nat × Nat × Nat × Nat) × List Nat) p =>
    let x := changeResponse r m p.1 p.2 a.1
    (x.1, (match x.2.1 with | some f => a.2.1 ++ [(p.1, f)] | none => a.2.1), if x.2.2 then a.2.2 ++ [p.1] else a.2.2)) (s, [], [])

/-- A commit takes effect. -/
def commitNow (c : PendCommit) (s : State) : State :=
  let m := edgeSinc c.edge
  let r := { c.req with ranAt := stampOf s ((c.edge * strobeU : Nat) : Int) }
  let s := { s with cz.commits := s.cz.commits.filter fun x => x != c }
  let s := forAll (c.items.filter (itemOut s)) holdItem s
  let o := dueAtEdge m s
  let items := c.items.filter fun x => !itemOut o x
  let insts := fun (b : Nat) => (items.filter (·.block == b)).map (·.inst)
  -- a change of REF_SEL moves a composite at the edge, as a step (07 R175; log entry 64)
  let s := publish ((items.filter (·.block == 0x0101)).map (·.inst)) (instantOf o (sincTime m)).toNat true
    (applyWords (items.map (keepResponse o m))) (pushPast m o)
  let x := changeResponses r m (items.filterMap (askedResponse o m)) s
  let s := forAll (List.range (chanCount s)) (fun k t => if (insts 0x0101).contains k then frontChange o m k t else t) x.1
  let s := excChanges o m (insts 0x0102) s
  let fades := fun s n => (x.2.1.find? fun p => p.1 == sourceOf s n).map (·.2)
  let s := forAll (streamList.filter (runningAtE o m)) (fun n s =>
    match reconfigRecord o s m (fades s n) n with
    | some d => dueDisc n d s
    | none => s) s
  let s := forAll (insts 0x0A04) (bindStream r) s
  let s := items.foldl (fun s y => blockWritten o y.block y.inst
    (writeOnly y) s) s
  let s := configCheck (reconfigMembers o s)
  let body := items.flatMap fun y => if imageOf o y.block y.inst = imageOf s y.block y.inst then []
    else journalItem o s y.block y.inst
  let s := jCommand r false 12 body s
  if x.2.2.isEmpty then answerOr r stOk [] 0x1010 s else replyTo r stHeld false [] s

/-- COMMIT_EDGE by strobe count: the commits that are due take effect in order; one whose prepare is late does not. -/
def commitEdge (edge : Nat) (s : State) : State :=
  if devNow s < ((edge * strobeU : Nat) : Int) then s
  else
    ((byEdge s).filter fun c => decide (c.edge ≤ edge)).foldl
      (fun s c => if (lateQuires s c.acks).isEmpty then commitNow c s else commitLate c s) s

def execCommitEdge (at_ edge : Nat) (s : State) : Host.Outcome State Fault Refusal := .next (commitEdge edge (s.tick at_))

end Sys2Proof.Machine
end

