-- ==== Sys2Proof/Machine/Blocks.lean ====
section
/-! DEFINITION. PB_WRITE, PB_READ and PB_STAGE, with what a value must satisfy on the image that it makes (13 R338 to R340,
R343; 14 R351; 16 R401, R402). -/

namespace Sys2Proof.Machine

/-! ### The range (13 R338) -/

def pbBlock (r : Req) : Nat := r.f 0 2
def pbInst (r : Req) : Nat := r.f 2 2
def pbOff (r : Req) : Nat := r.f 4 2
def pbLen (r : Req) : Nat := r.f 6 2

/-- Offsets of the words in range. -/
def pbOffs (r : Req) : List Nat := (List.range (pbLen r / 4)).map fun i => pbOff r + 4 * i

/-- The word that DATA gives an offset. -/
def pbWord (r : Req) (off : Nat) : Nat := fld (8 + (off - pbOff r)) 4 r.params

/-- A block instance that the variant populates. -/
def instOk (s : State) (b inst : Nat) : Bool :=
  match blockInstances s.part b with
  | none => false
  | some (first, n) => decide (first ≤ inst ∧ inst < first + n)

def rangeOk (r : Req) (s : State) : Bool :=
  instOk s (pbBlock r) (pbInst r) && decide (pbOff r % 4 = 0 ∧ pbLen r % 4 = 0 ∧ pbOff r + pbLen r ≤ blockSize (pbBlock r))

/-- The range holds a field of the given access. -/
def rangeHas (a : Acc) (r : Req) : Bool := (pbOffs r).any fun k => accMask a (pbBlock r) (pbInst r) k != 0

/-- The role of R351, by instance and fields named. Log entry 117. -/
def pbRole (r : Req) (s : State) : Nat := instRole s (pbBlock r) (pbInst r) (decide (pbBlock r = 0x0501) && rangeHas .sl r)

/-- PB_READ requires Custodian on the blocks of access and journal. -/
def readRole (r : Req) (_ : State) : Nat := if 0x0C00 ≤ pbBlock r ∧ pbBlock r < 0x0D00 ∧ pbBlock r ≠ 0x0C02 then 4 else 0

/-! ### Values of an image (00 R4; 03 R64, R65; 06 R148; 08 R196, R218; 09 R222; 12 R299, R310) -/

/-- A binary64 field at an offset of an image holds a finite number. -/
def doublesOk (b : Nat) (w : Nat → Nat) : Bool :=
  (blockOffs b).all fun k => !doubleAt b k || finite64 (w k + 2 ^ 32 * w (k + 4))

/-- DIR and PARAM as a condition's TYPE defines them. -/
def condFields (w0 w4 : Nat) : Bool :=
  let dir := bits 27 26 w0
  let p := bits 23 0 w4
  match bits 31 28 w0 with
  | 0 => true
  | 1 => decide (dir ≤ 1)
  | 2 => decide (dir ≤ 2)
  | 3 => decide (dir ≤ 1)
  | 4 => decide (dir ≤ 1 ∧ 1 ≤ p ∧ p ≤ 65535)
  | 5 => decide (dir = 0)
  | 6 => decide (dir ≤ 2 ∧ p ≤ 7)
  | _ => decide (dir = 0 ∧ p ≤ 15)

/-- No source code is listed twice. -/
def sourcesOnce (w : Nat) : Bool :=
  let l := [bits 31 28 w, bits 27 24 w, bits 23 20 w, bits 19 16 w].filter (· != 0)
  decide (l.eraseDups.length = l.length)

/-- What the values of an image must satisfy beside each field's own range. Log entry 117. -/
def imageOk (b inst : Nat) (w : Nat → Nat) : Bool :=
  doublesOk b w && match b with
    | 0x0101 => decide (bits 23 22 (w 0) = 0 ∨ (bits 23 22 (w 0) = 1 ∧ inst % 2 = 0) ∨ (bits 23 22 (w 0) = 2 ∧ inst % 2 = 1))
    | 0x0401 => decide (0 ≤ ofF64 (w 0x10 + 2 ^ 32 * w 0x14))
    | 0x0601 => sourcesOnce (w 0)
    | 0x0605 => decide (w 4 ≠ 0 ∨ w 8 % 256 ≠ 0)
    | 0x0702 => condFields (w 0) (w 4)
    | 0x0A01 => (bit 31 (w 0) || decide (4 ≤ inst)) && (!bit 30 (w 0) || decide (inst = 5 ∨ inst = 7))
        && (decide (inst ≠ 4 ∧ inst ≠ 5) || decide (bits 9 8 (w 0) ≠ 3 ∨ bits 19 16 (w 0) = 1))
    | 0x0A03 => !bit 29 (w 0) || decide (1 ≤ bits 11 0 (w 0) ∧ bits 11 0 (w 0) ≤ 4094)
    | 0x0A04 => decide (bits 31 28 (w 0) < 5 ∨ 4 ≤ bits 23 16 (w 0))
    | _ => true

/-- The image that a range makes of one in force. -/
def overRange (r : Req) (base : Nat → Nat) (off : Nat) : Nat :=
  if pbOff r ≤ off ∧ off < pbOff r + pbLen r then
    let b := pbBlock r
    let m := accMask .rw b (pbInst r) off ||| accMask .rs b (pbInst r) off ||| accMask .sl b (pbInst r) off
      ||| accMask .wo b (pbInst r) off
    (base off - (base off &&& m)) + (pbWord r off &&& m)
  else base off

/-- Reserved fields are zero and every value is one its field admits. Log entry 117. -/
def dataOk (r : Req) (s : State) : Bool :=
  (pbOffs r).all fun k => reservedOk (pbBlock r) (pbInst r) k (pbWord r k) && fieldsOk s.part (pbBlock r) (pbInst r) k (pbWord r k)

/-- Fields of an access in range equal those of an image. -/
def sameBits (a : Acc) (r : Req) (base : Nat → Nat) : Bool :=
  (pbOffs r).all fun k =>
    let m := accMask a (pbBlock r) (pbInst r) k
    decide (base k &&& m = pbWord r k &&& m)

/-! ### PB_WRITE (13 R339, R343) -/

/-- The image that a write changes: the working image of the safety island for its blocks. -/
def writeBase (s : State) (b inst off : Nat) : Nat :=
  if 0x0B00 ≤ b ∧ b < 0x0C00 then keyWord s.safe.working b inst off else setWord s b inst off

/-- The seal or the lock that guards a block's SL fields is open. -/
def guardOpen (s : State) (b : Nat) : Bool := if b = 0x0501 then s.cal.sealOpen else s.safe.lockOpen

/-- Log entry 117. -/
def writeOk (r : Req) (s : State) : Bool :=
  let b := pbBlock r
  rangeOk r s && decide (pbLen r ≠ 0 ∧ r.params.length = 8 + pbLen r) && dataOk r s
    && sameBits .rs r (setWord s b (pbInst r)) && imageOk b (pbInst r) (overRange r (writeBase s b (pbInst r)))
    && (decide (b ≠ 0x0C02) || decide (pbOff r = 0 ∧ pbLen r = 0xA8))

/-- The words of a write enter the configuration, KEYS or the working image. -/
def writeWords (r : Req) (s : State) : State :=
  let b := pbBlock r
  let i := pbInst r
  (pbOffs r).foldl (fun s k =>
    let keep := accMask .rw b i k ||| accMask .sl b i k
    let old := writeBase s b i k
    let w := (old - (old &&& keep)) + (pbWord r k &&& keep)
    if b = 0x0C01 then (if k = 0 then putPolicy w s else s)
    else if 0x0B00 ≤ b ∧ b < 0x0C00 then { s with safe.working := keyPut s.safe.working (b, i, k) w }
    else putWord b i k w s) s

/-- The image that a write leaves, for the journal. -/
def writeImage (s : State) (b inst : Nat) : List Byte := (blockOffs b).flatMap fun k => le 4 (writeBase s b inst k)

/-- A write takes effect: its words, what they set going, and the journal when a field has changed. Log entry 117. -/
def writeRun (r : Req) (s : State) : State :=
  let b := pbBlock r
  let i := pbInst r
  let t := writeWords r s
  let changes : Bool := writeImage s b i != writeImage t b i
  if ¬ linkRules t b i then refuse r stConflict s
  else if changes && s.jrn.failed then faulted r 0x0E01 s
  else
    let t := blockWritten s b i (fun k => if pbOff r ≤ k ∧ k < pbOff r + pbLen r then pbWord r k &&& accMask .wo b i k else 0) t
    let body := le 2 b ++ le 2 i ++ le 4 (crc32c (writeImage s b i)) ++ le 4 (crc32c (writeImage t b i))
    let t := if !changes then t
      else jCommand r false 12 body t
    answer r stOk [] t

/-! ### SERVICE_AUTH (16 R402) -/

/-- Sessions of the Service role close. -/
def closeService (s : State) : State :=
  forAll ((s.cz.sessions.filter fun v => decide (v.role = 5)).map (·.id)) closeSession s

/-- NOT_AFTER of an authorization in bytes has passed. -/
def authPast (bs : List Byte) (s : State) : Bool :=
  decide (s.time.state ≠ 0) && decide ((fld 8 8 bs * secU : Nat) ≤ devNow s)

/-- The service secret that a write carries; none when one of the refusals holds. -/
def authSecret (r : Req) (bs : List Byte) (s : State) : Option (List Byte) :=
  match session? s r.session with
  | none => none
  | some v =>
    if ¬ v.trailer ∨ fld 0 8 bs ≠ s.part.serial ∨ authPast bs s then none
    else
      match unwrapSecret v.key (le 2 r.tag ++ le 4 0) (slice 0x18 48 bs) with
      | none => none
      | some k => if Config.ecdsaOk 1 (sha256 (slice 0 0x18 bs ++ sha256 k)) (slice 0x48 96 bs) then some k else none

/-- The journal's body of a write: the wrapped secret is zeros. -/
def authBody (r : Req) : List Byte := r.params.take 0x20 ++ zeros 48 ++ r.params.drop 0x50

/-- SERVICE_AUTH is written whole. Log entry 117. -/
def authRun (r : Req) (s : State) : State :=
  let bs := r.params.drop 8
  if s.jrn.failed then faulted r 0x0E01 s
  else if allZero bs then
    let s := jCommand r false 1 (authBody r) s
    closeService (answer r stOk [] { s with cz.authBytes := [], cz.authSecret := [], cz.authValid := false, cz.authUnset := false })
  else
    match authSecret r bs s with
    | none => refuse r stInvalid s
    | some k =>
      let s := jCommand r false 1 (authBody r) s
      answer r stOk [] { s with cz.authBytes := bs.take 0x18, cz.authSecret := k, cz.authValid := true, cz.authAt := s.now,
                                cz.authUnset := s.time.state == 0 }

/-- SERVICE_AUTH_EXPIRY: NOT_AFTER, or 86,400 s after a write that device time had not judged (16 R402). -/
def authExpiry (s : State) : State :=
  if s.cz.authValid && (authPast s.cz.authBytes s
      || (s.cz.authUnset && decide (s.cz.authAt + 86400 * secU ≤ s.now))) then
    closeService { s with cz.authValid := false }
  else s

def execServiceAuthExpiry (at_ : Nat) (s : State) : Host.Outcome State Fault Refusal := .next (authExpiry (s.tick at_))

/-- PB_WRITE. -/
def writeServe : Packet → State → State :=
  serve 0x0100 pbRole writeOk fun r s =>
    if rangeHas .sl r && !guardOpen s (pbBlock r) then refuse r stSealed s
    else if pbBlock r = 0x0C02 then authRun r s
    else writeRun r s

/-! ### PB_READ -/

/-- Log entry 117. -/
def readOk (r : Req) (s : State) : Bool :=
  rangeOk r s && decide (pbLen r ≠ 0 ∧ r.params.length = 12 ∧ r.f 8 1 ≤ 1) && zeroAt 9 3 r

/-- A staged instance of the session, or the working image of the safety island for a Safety Officer (15 R378). -/
def stagedWord (s : State) (r : Req) : Option (Nat → Nat) :=
  let b := pbBlock r
  let i := pbInst r
  if 0x0B00 ≤ b ∧ b < 0x0C00 ∧ s.safe.lockOpen ∧ meets r.role 3 then some (keyWord s.safe.working b i)
  else
    match (stagedOf s r).find? fun x => x.block == b && x.inst == i with
    | none => none
    | some x => some fun k => ((x.words.find? (·.1 == k)).map (·.2)).getD 0

/-- A word of an image as PB_READ gives it: read-only fields as they stand, write-only ones as 0. -/
def viewWord (s : State) (b inst off w : Nat) : Nat :=
  let ro := accMask .ro b inst off
  let wo := accMask .wo b inst off
  (w - (w &&& (ro ||| wo))) + (statusWord s b inst off &&& ro)

def readServe : Packet → State → State :=
  serve 0x0101 readRole readOk fun r s =>
    let b := pbBlock r
    let i := pbInst r
    if r.f 8 1 = 0 then answer r stOk ((pbOffs r).flatMap fun k => le 4 (readWord s b i k)) s
    else
      match stagedWord s r with
      | none => refuse r stInvalid s
      | some w => answer r stOk ((pbOffs r).flatMap fun k => le 4 (viewWord s b i k (w k))) s

/-! ### PB_STAGE (13 R340) -/

/-- Offsets of the words that hold fields which software can set. -/
def setOffs (b inst : Nat) : List Nat :=
  (blockOffs b).filter fun k => (accMask .rw b inst k ||| accMask .rs b inst k ||| accMask .sl b inst k ||| accMask .wo b inst k) != 0

/-- The image that a stage overlays: the session's own, or the one after every pending commit. -/
def stageBase (s : State) (r : Req) : Nat → Nat :=
  match (stagedOf s r).find? fun x => x.block == pbBlock r && x.inst == pbInst r with
  | some x => fun k => ((x.words.find? (·.1 == k)).map (·.2)).getD 0
  | none =>
    let o := afterCommits (byEdge s) s
    setWord o (pbBlock r) (pbInst r)

def stageOk (r : Req) (s : State) : Bool :=
  let b := pbBlock r
  let base := stageBase s r
  rangeOk r s && decide (r.params.length = 8 + pbLen r ∧ b ≠ 0x0C02) && dataOk r s
    && sameBits .sl r (setWord s b (pbInst r)) && (decide (pbLen r = 0) || imageOk b (pbInst r) (overRange r base))

/-- Bytes that all sessions together stage. -/
def stagedBytes (s : State) : Nat := total (s.cz.sessions.map fun v => total (v.staged.map fun x => blockSize x.block))

def stageServe : Packet → State → State :=
  serve 0x0102 pbRole stageOk fun r s =>
    let b := pbBlock r
    let i := pbInst r
    let mine := fun (x : Staged) => x.block == b && x.inst == i
    if pbLen r = 0 then answer r stOk [] (onSession r.session (fun v => { v with staged := v.staged.filter fun x => !mine x }) s)
    else if ¬ (stagedOf s r).any mine ∧ 1048576 < stagedBytes s + blockSize b then refuse r stBusy s
    else
      let base := stageBase s r
      let x : Staged := { block := b, inst := i, words := (setOffs b i).map fun k => (k, overRange r base k) }
      answer r stOk [] (onSession r.session (fun v =>
        { v with staged := if v.staged.any mine then v.staged.map (fun y => if mine y then x else y) else v.staged ++ [x] }) s)

/-! ### Rows. The rows that name a block are PB_WRITE packets to it -/

/-- PB_WRITE. -/
def execPbWrite (at_ : Nat) (p : Packet) (s : State) : Host.Outcome State Fault Refusal :=
  .next (receive 0x0100 p writeServe (s.tick at_))

/-- PB_READ. -/
def execPbRead (at_ : Nat) (p : Packet) (s : State) : Host.Outcome State Fault Refusal :=
  .next (receive 0x0101 p readServe (s.tick at_))

/-- PB_STAGE. -/
def execPbStage (at_ : Nat) (p : Packet) (s : State) : Host.Outcome State Fault Refusal :=
  .next (receive 0x0102 p stageServe (s.tick at_))

/-- TONE_SCAN_NOW: a PB_WRITE of SCAN_NOW in TONE_CTRL (03 R85). -/
def execToneScanNow (at_ : Nat) (p : Packet) (s : State) : Host.Outcome State Fault Refusal :=
  .next (receive 0x0100 p writeServe (s.tick at_))

/-- TONE_CAPTURE_BASE: a PB_WRITE of CAPTURE_BASE in TONE_CTRL (03 R85). -/
def execToneCaptureBase (at_ : Nat) (p : Packet) (s : State) : Host.Outcome State Fault Refusal :=
  .next (receive 0x0100 p writeServe (s.tick at_))

/-- TIME_CTRL_WRITE (08 R196). -/
def execTimeCtrlWrite (at_ : Nat) (p : Packet) (s : State) : Host.Outcome State Fault Refusal :=
  .next (receive 0x0100 p writeServe (s.tick at_))

/-- PTP_PORT_WRITE (08 R212). -/
def execPtpPortWrite (at_ : Nat) (p : Packet) (s : State) : Host.Outcome State Fault Refusal :=
  .next (receive 0x0100 p writeServe (s.tick at_))

/-- ETH_PORT_WRITE (12 R310). -/
def execEthPortWrite (at_ : Nat) (p : Packet) (s : State) : Host.Outcome State Fault Refusal :=
  .next (receive 0x0100 p writeServe (s.tick at_))

/-- SERVICE_AUTH_WRITE (16 R402). -/
def execServiceAuthWrite (at_ : Nat) (p : Packet) (s : State) : Host.Outcome State Fault Refusal :=
  .next (receive 0x0100 p writeServe (s.tick at_))

/-- ACCESS_POLICY_WRITE (16 R401). -/
def execAccessPolicyWrite (at_ : Nat) (p : Packet) (s : State) : Host.Outcome State Fault Refusal :=
  .next (receive 0x0100 p writeServe (s.tick at_))

end Sys2Proof.Machine
end

