-- ==== Sys2Proof/Machine/Sessions.lean ====
section
/-! DEFINITION. Sessions: opening, closing, resending, and the scheduled actions (13 R329 to R337, R344; 16 R400). -/

namespace Sys2Proof.Machine

/-! ### SESSION_OPEN (13 R329 to R332) -/

/-- The versions that the hub speaks, lowest first (13 R330). -/
def hubVersions : List (Nat × Nat) := [(1, 2), (2, 0), (2, 1), (2, 2), (2, 3)]

/-- The header offers 1.2 alone, in the forerunner's form (13 R330, 14 R354). -/
def oldForm (p : Packet) : Bool := decide (p.major = 1 ∧ p.minor = 2)

/-- The highest version in the hub's set and in the host's range. -/
def negotiate (p : Packet) : Option (Nat × Nat) :=
  if oldForm p then some (1, 2)
  else
    let lo := 256 * fld 0 1 p.params + fld 1 1 p.params
    let hi := 256 * p.major + p.minor
    (hubVersions.filter fun v => decide (lo ≤ 256 * v.1 + v.2 ∧ 256 * v.1 + v.2 ≤ hi)).getLast?

/-- What a SESSION_OPEN asks for: credential, nonce, trailer, keepalive in s and largest reply. -/
structure OpenAsk where
  credential : Nat
  nonce : List Byte
  trailer : Bool
  keepalive : Nat
  maxReply : Nat
  deriving DecidableEq, Repr, Inhabited

/-- The parameters by the packet's form; none where one is out of place (13 R329, 14 R354). -/
def openAsk (p : Packet) : Option OpenAsk :=
  let l := p.params
  if p.flags ≠ 0 then none
  else if oldForm p then
    if l.length = 20 then
      some { credential := fld 0 4 l, nonce := slice 4 16 l, trailer := decide (p.port ≠ 0), keepalive := 60, maxReply := 8192 }
    else none
  else
    let keep := fld 24 2 l
    let reply := fld 26 2 l
    if l.length ≠ 28 ∨ fld 2 1 l / 2 ≠ 0 ∨ fld 3 1 l ≠ 0 then none
    else if p.port = 0 then
      if keep = 0 ∧ reply = 0 then
        some { credential := fld 4 4 l, nonce := slice 8 16 l, trailer := bit 0 (fld 2 1 l), keepalive := 0, maxReply := 8192 }
      else none
    else if 10 ≤ keep ∧ keep ≤ 3600 ∧ 1024 ≤ reply ∧ reply ≤ 8192 then
      some { credential := fld 4 4 l, nonce := slice 8 16 l, trailer := true, keepalive := keep, maxReply := reply }
    else none

/-- The role and the secret that a port and a credential give; none is DENIED (16 R400, R403). -/
def openGrant (port cred : Nat) (s : State) : Option (Nat × List Byte) :=
  let k := s.cz.keys
  if cred = 0xFFFFFFFF then
    if s.cz.authValid && bit port (fld 0x10 4 s.cz.authBytes % 8) then some (5, s.cz.authSecret) else none
  else if cred ≠ 0 then
    if k.state = 2 then none
    else (k.creds.find? fun (c : Credential) => c.id == cred && bit port c.ports).map fun c => (c.role, c.secret)
  else if port ≠ 0 then none
  else if k.state = 0 then some (4, zeros 32)
  else if k.state = 2 then some (0, zeros 32)
  else if k.anonEn then some (k.anonRole, zeros 32)
  else none

/-- A reply to a SESSION_OPEN: SESSION 0 echoed, no trailer. Log entry 94. -/
def openReply (p : Packet) (v : Nat × Nat) (status : Nat) (body : List Byte) : List (List Byte) :=
  replyBytes 0 v.1 v.2 p.tag 0 8192 none status true none body

def sendOpen (p : Packet) (v : Nat × Nat) (status : Nat) (body : List Byte) (s : State) : State :=
  (openReply p v status body).foldl (fun s b => sendBytes p.port p.source p.srcPort b s) s

/-- No further session on the port, or none in this start (13 R332). -/
def portFull (port : Nat) (s : State) : Bool :=
  decide (8 ≤ (s.cz.sessions.filter (·.port == port)).length ∨ 0xFFFFF ≤ s.cz.opened)

/-- The session opens; it is PENDING when it uses the trailer. -/
def openSession (p : Packet) (v : Nat × Nat) (a : OpenAsk) (g : Nat × List Byte) (s : State) : State :=
  let id := s.boot.startCount % 4096 * 2 ^ 20 + (s.cz.opened + 1)
  let nonce := le 16 (Config.nonce s.boot.startCount (BitVec.ofNat 128 s.draw)).toNat
  let reply := le 4 id ++ le 1 g.1 ++ zeros 3 ++ nonce
  let tag := p.tag % 65536
  let pend : Option Nat := if a.trailer then some s.now else none
  let w : Session :=
    { id := id, port := p.port, major := v.1, minor := v.2, role := g.1, credential := a.credential, trailer := a.trailer,
      pending := pend, key := sessionKey g.2 a.nonce nonce id, keepalive := a.keepalive,
      maxReply := a.maxReply, lastPacket := s.now, high := tag, seen := [tag],
      cache := (openReply p v stOk reply).map fun b => (tag, b), owed := [], staged := [], source := p.source,
      srcPort := p.srcPort }
  let r := mkReq 0 p w s
  let s := { s with cz.opened := s.cz.opened + 1, draw := s.draw + 1 }
  sendOpen p v stOk reply (jDone r reply { s with cz.sessions := s.cz.sessions ++ [w] })

/-- Checks 5, 10 and 12 of a SESSION_OPEN outside any session. -/
def openNew (p : Packet) (s : State) : State :=
  match negotiate p with
  | none => sendOpen p (p.major, p.minor) stUnsupported [1, 2, 2, 3] s
  | some v =>
    match openAsk p with
    | none => sendOpen p v stInvalid [] s
    | some a =>
      match openGrant p.port a.credential s with
      | none => sendOpen p v stDenied [] s
      | some g =>
        if portFull p.port s then sendOpen p v stBusy [] s
        else if s.jrn.failed then sendOpen p v stFaulted (faultParams 0x0E01) s
        else openSession p v a g s

/-- SESSION_OPEN; one that names a session is judged in it and refused with INVALID_PARAM, and a trailer has no key that
could verify it (13 R321, R327, R329). -/
def openServe (p : Packet) (s : State) : State :=
  if p.session ≠ 0 then serve 0x0000 tableRole (fun _ _ => false) (fun _ s => s) p s
  else if ¬ lengthOk p then (if p.port = 0 then answerBare 0 p stInvalid s else dropPacket p false s)
  else if bit 3 p.flags then (if p.port = 0 then answerBare 0 p stDenied s else dropPacket p true s)
  else openNew p s

def execSessionOpen (at_ : Nat) (p : Packet) (s : State) : Host.Outcome State Fault Refusal :=
  .next (receive 0x0000 p openServe (s.tick at_))

/-! ### The other session commands (13 R333, R335, R347) -/

def closeServe : Packet → State → State :=
  serve 0x0001 tableRole (exactly 0) fun r s => endSession r.session (answer r stOk [] (jDone r [] (dropReplies r.session s)))

/-- SESSION_CLOSE. -/
def execSessionClose (at_ : Nat) (p : Packet) (s : State) : Host.Outcome State Fault Refusal :=
  .next (receive 0x0001 p closeServe (s.tick at_))

def pingServe : Packet → State → State :=
  serve 0x0002 tableRole (exactly 0) fun r s => answer r stOk (stampNow s) s

/-- SESSION_PING. -/
def execSessionPing (at_ : Nat) (p : Packet) (s : State) : Host.Outcome State Fault Refusal :=
  .next (receive 0x0002 p pingServe (s.tick at_))

/-- A TAG and a reserved u16 (log entry 32). -/
def tagOk (r : Req) (s : State) : Bool := exactly 4 r s && zeroAt 2 2 r

/-- The cached replies of a TAG go out again; they stand for the command's own reply. -/
def resendRun (r : Req) (s : State) : State :=
  match session? s r.session with
  | none => s
  | some v =>
    let l := v.cache.filter (·.1 == r.f 0 2)
    if l.isEmpty then refuse r stConflict s
    else
      let s := l.foldl (fun s b => sendBytes v.port r.source r.srcPort b.2 s) s
      onSession r.session (fun x => { x with owed := x.owed.filter (· != r.tag) }) s

def resendServe : Packet → State → State := serve 0x0004 tableRole tagOk resendRun

/-- SESSION_RESEND. -/
def execSessionResend (at_ : Nat) (p : Packet) (s : State) : Host.Outcome State Fault Refusal :=
  .next (receive 0x0004 p resendServe (s.tick at_))

/-! ### Scheduled actions (13 R344) -/

/-- The request is the session's own with a TAG. -/
def ownTag (r : Req) (tag : Nat) (x : Req) : Bool := x.session == r.session && x.tag == tag

/-- SCHED_CANCEL: an action that waits, or a commit, whose blocks are staged again (log entry 33). -/
def cancelRun (r : Req) (s : State) : State :=
  let tag := r.f 0 2
  match s.cz.sched.find? fun (x : Sched) => ownTag r tag x.req with
  | some x =>
    let s := { s with cz.sched := s.cz.sched.filter fun y => !ownTag r tag y.req }
    refuse x.req stConflict (answer r stOk [] s)
  | none =>
    match s.cz.commits.find? fun (c : PendCommit) => ownTag r tag c.req with
    | some c =>
      let s := { s with cz.commits := s.cz.commits.filter fun y => !ownTag r tag y.req }
      let s := returnItems c (forAll (servingQuires s) (fun q => toQuire q 2 c.edge) s)
      refuse c.req stConflict (answer r stOk [] s)
    | none =>
      match (timedInjections s).find? fun p => ownTag r tag p.2.req with
      | some p =>
        let w := witOf s p.1
        refuse p.2.req stConflict
          (answer r stOk [] (setWit p.1 { w with injections := w.injections.filter (·.id != p.2.id) } s))
      | none => refuse r stInvalid s

def schedCancelServe : Packet → State → State := serve 0x0003 tableRole tagOk cancelRun

/-- SCHED_CANCEL. -/
def execSchedCancel (at_ : Nat) (p : Packet) (s : State) : Host.Outcome State Fault Refusal :=
  .next (receive 0x0003 p schedCancelServe (s.tick at_))

/-- A scheduled action runs. -/
def runSched (x : Sched) (s : State) : State :=
  if x.req.opcode = 0x0503 then iuArmRun x.req s
  else if x.req.opcode = 0x0604 then groupArmRun x.req x.time s
  else injectRun none x.req s

/-- The earliest of the actions, the first accepted of those at one instant. -/
def earliestSched : List Sched → Option Sched
  | [] => none
  | x :: r =>
    match earliestSched r with
    | none => some x
    | some y => if x.time ≤ y.time then some x else some y

/-- Every action whose instant has come runs, by instant and order of acceptance. -/
def dueSched (fuel : Nat) (s : State) : State :=
  match fuel with
  | 0 => s
  | n + 1 =>
    match earliestSched s.cz.sched with
    | none => s
    | some x =>
      if x.time ≤ devNow s then dueSched n (runSched x { s with cz.sched := s.cz.sched.erase x }) else s

/-- SCHEDULED_ACTION_DUE. While the command processor restarts nothing runs (17 R435). -/
def execScheduledActionDue (at_ : Nat) (s : State) : Host.Outcome State Fault Refusal :=
  let s := s.tick at_
  .next (if s.boot.restart.isSome then s else dueSched s.cz.sched.length s)

/-! ### Time runs out for a session (13 R329, R333) -/

/-- SESSION_KEEPALIVE_EXPIRY. -/
def keepaliveExpiry (id : Nat) (s : State) : State :=
  match session? s id with
  | none => s
  | some v => if v.port ≠ 0 ∧ v.lastPacket + v.keepalive * secU ≤ s.now then closeSession id s else s

def execSessionKeepaliveExpiry (at_ id : Nat) (s : State) : Host.Outcome State Fault Refusal :=
  .next (unlessPaused (keepaliveExpiry id) (s.tick at_))

/-- PENDING_SESSION_DISCARD. -/
def pendingDiscard (id : Nat) (s : State) : State :=
  match session? s id with
  | none => s
  | some v =>
    match v.pending with
    | none => s
    | some t => if t + 5 * secU ≤ s.now then closeSession id s else s

def execPendingSessionDiscard (at_ id : Nat) (s : State) : Host.Outcome State Fault Refusal :=
  .next (unlessPaused (pendingDiscard id) (s.tick at_))

/-! ### Packets whose opcode no version defines (14 R352) -/

def unknownServe (op : Nat) : Packet → State → State := serve op tableRole (fun _ _ => true) fun _ s => s

/-- UNKNOWN_OPCODE_PACKET: an opcode of the table is no such packet and changes nothing. -/
def execUnknownOpcodePacket (at_ op : Nat) (p : Packet) (s : State) : Host.Outcome State Fault Refusal :=
  .next (if (opRow (op % 65536)).isSome then s.tick at_ else receive (op % 65536) p (unknownServe (op % 65536)) (s.tick at_))

end Sys2Proof.Machine
end

