-- ==== Sys2Proof/Machine/Access.lean ====
section
/-! DEFINITION. Acquisition control, credentials, the journal's commands, the trouble log and the fault list
(14 R355, R356, R362 to R365; 16 R399, R403, R412). -/

namespace Sys2Proof.Machine

/-! ### Acquisition control (14 R355, R356) -/

/-- The entry of a quire in ACQ_STATUS. -/
def acqEntry (s : State) (q : Nat) : List Byte :=
  le 1 q ++ le 1 (quire s q).svc ++ le 1 (warmCode s q) ++ le 1 (witMode s q)
    ++ le 2 (((permStandin s q).map (·.channel)).getD 0xFFFF) ++ zeros 2

def acqReply (s : State) : List Byte :=
  le 1 s.part.quires ++ le 1 s.boot.stage ++ zeros 2 ++ (quireList s).flatMap (acqEntry s)

def acqStatusServe : Packet → State → State :=
  serve 0x0200 tableRole (exactly 0) fun r s => answer r stOk (acqReply s) s

/-- ACQ_STATUS. -/
def execAcqStatus (at_ : Nat) (p : Packet) (s : State) : Host.Outcome State Fault Refusal :=
  .next (receive 0x0200 p acqStatusServe (s.tick at_))

/-- The channel codes that ACQ_READ names. -/
def acqCodes (r : Req) : List Nat := (List.range (r.f 2 2)).map fun i => r.f (4 + 2 * i) 2

def acqReadOk (r : Req) (s : State) : Bool :=
  decide (4 ≤ r.f 0 1 ∧ r.f 0 1 ≤ 31 ∧ r.f 1 1 = 0 ∧ 1 ≤ r.f 2 2 ∧ r.f 2 2 ≤ 128 ∧ r.params.length = 4 + 2 * r.f 2 2)
    && (acqCodes r).all fun c => (streamSet s (r.f 0 1)).contains c

/-- A channel's word: its P24 word, or the binary32 value of an F32 stream; a reduced stream gives P24. -/
def acqWord (s : State) (n k : Nat) (x : Sample) : Nat :=
  if streamF32 s n then x.f32 else wordUnder s n k x.flags x.code

/-- A channel's entry: its sample of the index in the slot order of the stream. -/
def acqValue (s : State) (n : Nat) (l : List Sample) (c : Nat) : List Byte :=
  match (l.zipIdx).find? fun (p : Sample × Nat) => p.1.channel == c with
  | none => le 2 c ++ zeros 6
  | some (x, k) => le 2 c ++ le 1 x.flags ++ zeros 1 ++ le 4 (acqWord s n k x)

/-- ACQ_READ: the last sample of the stream whose correction has completed. -/
def acqReadRun (r : Req) (s : State) : State :=
  let n := r.f 0 1
  if ¬ running s n ∨ isCapture s n ∨ coverOf s n ≠ 0 then refuse r stConflict s
  else
    match (stream s n).last with
    | none => refuse r stConflict s
    | some (i, l) => answer r stOk (le 8 i ++ (acqCodes r).flatMap (acqValue (atSample s n i) n l)) s

def acqReadServe : Packet → State → State := serve 0x0201 tableRole acqReadOk acqReadRun

/-- ACQ_READ. -/
def execAcqRead (at_ : Nat) (p : Packet) (s : State) : Host.Outcome State Fault Refusal :=
  .next (receive 0x0201 p acqReadServe (s.tick at_))

/-! ### Credentials (14 R362; 16 R398, R399, R403) -/

def credOk (r : Req) (s : State) : Bool :=
  exactly 56 r s && decide (1 ≤ r.f 0 4 ∧ r.f 0 4 ≤ 0xFFFFFFFE ∧ r.f 4 1 ≤ 4 ∧ 1 ≤ r.f 5 1 ∧ r.f 5 1 ≤ 7) && zeroAt 6 2 r

/-- A 48-byte wrapped form at an offset of the parameters, unwrapped under the sending session's key with the context that
the packet gives. -/
def unwrapFrom (r : Req) (v : Session) (off ctx : Nat) : Option (List Byte) :=
  unwrapSecret v.key (le 2 r.tag ++ le 4 ctx) (slice off 48 r.params)

/-- The credentials that KEYS holds: none while it is FAILED. -/
def creds (s : State) : List Credential := if s.cz.keys.state = 2 then [] else s.cz.keys.creds

/-- The credential is stored; a FAILED partition is erased first, and KEYS becomes VALID. -/
def addCred (c : Credential) (s : State) : State :=
  let k := if s.cz.keys.state = 2 then { (default : Keys) with anonEn := true } else s.cz.keys
  programKeys { k with state := 1, creds := k.creds ++ [c] } s

/-- KEYS_REBUILT when the partition was FAILED (16 R403): its fault ends with it. Log entry 118. -/
def rebuilt (was id : Nat) (s : State) : State :=
  if was = 2 then clearCause 0x0E02 0xFFFF (jInternal 0xFF0B (le 4 id) s) else s

def credAddRun (r : Req) (s : State) : State :=
  let id := r.f 0 4
  match session? s r.session with
  | none => s
  | some v =>
    if ¬ v.trailer ∨ (creds s).any (·.id == id) then refuse r stConflict s
    else if 64 ≤ (creds s).length then refuse r stBusy s
    else
      match unwrapFrom r v 8 id with
      | none => refuse r stInvalid s
      | some k =>
        let t := addCred { id := id, role := r.f 4 1, ports := r.f 5 1, secret := k } s
        let t := jCommand r false 1 (r.params.take 8 ++ zeros 48) (rebuilt s.cz.keys.state id t)
        answer r stOk [] t

def credAddServe : Packet → State → State := serve 0x0900 tableRole credOk credAddRun

/-- CRED_ADD. -/
def execCredAdd (at_ : Nat) (p : Packet) (s : State) : Host.Outcome State Fault Refusal :=
  .next (receive 0x0900 p credAddServe (s.tick at_))

/-- Sessions opened with a credential. -/
def credSessions (s : State) (id : Nat) : List Nat := (s.cz.sessions.filter (·.credential == id)).map (·.id)

def credRevokeRun (r : Req) (s : State) : State :=
  let id := r.f 0 4
  match (creds s).find? (·.id == id) with
  | none => refuse r stInvalid s
  | some c =>
    if c.role = 4 ∧ ((creds s).filter (·.role == 4)).length = 1 then refuse r stConflict s
    else
      let l := credSessions s id
      let s := programKeys { s.cz.keys with creds := s.cz.keys.creds.filter (·.id != id) } s
      let s := jCommand r false 1 (le 4 id ++ le 2 l.length ++ l.flatMap (le 4)) s
      forAll l endSession (answer r stOk [] (forAll l dropReplies s))

def credRevokeServe : Packet → State → State := serve 0x0901 tableRole (exactly 4) credRevokeRun

/-- CRED_REVOKE. -/
def execCredRevoke (at_ : Nat) (p : Packet) (s : State) : Host.Outcome State Fault Refusal :=
  .next (receive 0x0901 p credRevokeServe (s.tick at_))

/-- Log entry 118. -/
def credListReply (s : State) : List Byte :=
  le 2 (creds s).length ++ zeros 2 ++ (creds s).flatMap fun c =>
    le 4 c.id ++ le 1 c.role ++ le 1 c.ports
      ++ le 2 (s.cz.sessions.filter fun v => v.credential == c.id && v.pending.isNone).length

def credListServe : Packet → State → State :=
  serve 0x0902 tableRole (exactly 0) fun r s => answer r stOk (credListReply s) s

/-- CRED_LIST. -/
def execCredList (at_ : Nat) (p : Packet) (s : State) : Host.Outcome State Fault Refusal :=
  .next (receive 0x0902 p credListServe (s.tick at_))

/-! ### GROUP_KEY_SET (14 R364) -/

def groupKeyOk (r : Req) (s : State) : Bool := exactly 52 r s && decide (1 ≤ r.f 0 2) && zeroAt 2 2 r

/-- The key is stored; a seventeenth group is refused (log entry 34). -/
def groupKeyRun (r : Req) (s : State) : State :=
  let g := r.f 0 2
  match session? s r.session with
  | none => s
  | some v =>
    if ¬ v.trailer then refuse r stConflict s
    else
      match unwrapFrom r v 4 g with
      | none => refuse r stInvalid s
      | some k =>
        if (s.cz.keys.groupKeys.find g).isNone ∧ 16 ≤ s.cz.keys.groupKeys.length then refuse r stConflict s
        else
          let s := jCommand r false 1 (r.params.take 4 ++ zeros 48) s
          let ks := { s.cz.keys with groupKeys := s.cz.keys.groupKeys.put g k, state := max 1 s.cz.keys.state }
          answer r stOk [] (programKeys ks s)

def groupKeyServe : Packet → State → State := serve 0x0906 tableRole groupKeyOk groupKeyRun

/-- GROUP_KEY_SET. -/
def execGroupKeySet (at_ : Nat) (p : Packet) (s : State) : Host.Outcome State Fault Refusal :=
  .next (receive 0x0906 p groupKeyServe (s.tick at_))

/-! ### The journal's commands (14 R363; 16 R411, R412) -/

def jReadOk (r : Req) (s : State) : Bool :=
  exactly 16 r s && decide (1 ≤ r.f 8 2 ∧ r.f 8 2 ≤ 1024) && zeroAt 10 6 r && decide (r.f 0 8 < jNext s)

/-- JOURNAL_READ's reply: from the oldest entry held where FIRST is older. -/
def jReadReply (r : Req) (s : State) : List Byte :=
  let first := max (r.f 0 8) (jFirst s)
  let l := ((jWhole s).filter fun e => decide (first ≤ e.entry)).take (r.f 8 2)
  le 8 first ++ le 2 l.length ++ zeros 6 ++ l.flatMap jBytes

def jReadServe : Packet → State → State :=
  serve 0x0903 tableRole jReadOk fun r s => answer r stOk (jReadReply r s) s

/-- JOURNAL_READ. -/
def execJournalRead (at_ : Nat) (p : Packet) (s : State) : Host.Outcome State Fault Refusal :=
  .next (receive 0x0903 p jReadServe (s.tick at_))

/-- Log entry 120. -/
def jMirrorOk (r : Req) (s : State) : Bool :=
  exactly 12 r s && decide (r.f 0 1 ≤ 1) && zeroAt 1 3 r && decide (r.f 0 1 = 0 ∨ jFirst s ≤ r.f 4 8)

/-- JOURNAL_MIRROR: its own entry is the first new one. -/
def jMirrorRun (r : Req) (s : State) : State :=
  let en : Bool := r.f 0 1 == 1
  let s := { s with jrn.mirrorOn := en, jrn.mirrorNext := if en then r.f 4 8 else s.jrn.mirrorNext }
  answer r stOk [] (jDone r [] s)

def jMirrorServe : Packet → State → State := serve 0x0904 tableRole jMirrorOk jMirrorRun

/-- JOURNAL_MIRROR. -/
def execJournalMirror (at_ : Nat) (p : Packet) (s : State) : Host.Outcome State Fault Refusal :=
  .next (receive 0x0904 p jMirrorServe (s.tick at_))

def jVerifyServe : Packet → State → State :=
  serve 0x0905 tableRole (exactly 0) fun r s =>
    if s.cz.verify.isSome then refuse r stBusy s else queued r [] { s with cz.verify := some r }

/-- JOURNAL_VERIFY. -/
def execJournalVerify (at_ : Nat) (p : Packet) (s : State) : Host.Outcome State Fault Refusal :=
  .next (receive 0x0905 p jVerifyServe (s.tick at_))

/-- What the walk of the chain has found. -/
def jVerifyReply (s : State) : List Byte :=
  let l := jWhole s
  let x := jVerify l ((l.head?.map (·.entry)).getD 0) (jAnchor s) 0
  match x.2 with
  | none => le 8 x.1 ++ le 8 (2 ^ 64 - 1) ++ zeros 8
  | some (n, reason) => le 8 x.1 ++ le 8 n ++ le 1 reason ++ zeros 7

/-- JOURNAL_VERIFY_DONE: the walk has reached the newest entry. -/
def jVerifyDone (s : State) : State :=
  match s.cz.verify with
  | none => s
  | some r => answer r stOk (jVerifyReply s) { s with cz.verify := none }

def execJournalVerifyDone (at_ : Nat) (s : State) : Host.Outcome State Fault Refusal := .next (jVerifyDone (s.tick at_))

/-! ### The trouble log and the fault list (14 R365) -/

/-- The entries of the log from a number on; none when it is not held. -/
def logFrom (s : State) (first : Nat) : List LogEntry := s.faults.log.dropWhile fun e => e.number != first

def logReadOk (r : Req) (s : State) : Bool :=
  exactly 8 r s && decide (1 ≤ r.f 4 2 ∧ r.f 4 2 ≤ 512) && zeroAt 6 2 r && !(logFrom s (r.f 0 4)).isEmpty

def logReadReply (r : Req) (s : State) : List Byte :=
  le 4 (r.f 0 4) ++ le 4 s.faults.next ++ ((logFrom s (r.f 0 4)).take (r.f 4 2)).flatMap logBytes

def logReadServe : Packet → State → State :=
  serve 0x0A00 tableRole logReadOk fun r s => answer r stOk (logReadReply r s) s

/-- LOG_READ. -/
def execLogRead (at_ : Nat) (p : Packet) (s : State) : Host.Outcome State Fault Refusal :=
  .next (receive 0x0A00 p logReadServe (s.tick at_))

/-- The listed faults. -/
def listed (s : State) : List FaultEntry := s.faults.active.filter (·.listed)

def faultListReply (s : State) : List Byte :=
  le 2 (listed s).length ++ zeros 2 ++ (listed s).flatMap fun f =>
    le 2 f.code ++ le 1 (b2n (!f.causes.isEmpty)) ++ zeros 1 ++ le 4 f.occurrences ++ le 8 f.eventId

def faultListServe : Packet → State → State :=
  serve 0x0A01 tableRole (exactly 0) fun r s => answer r stOk (faultListReply s) s

/-- FAULT_LIST. -/
def execFaultList (at_ : Nat) (p : Packet) (s : State) : Host.Outcome State Fault Refusal :=
  .next (receive 0x0A01 p faultListServe (s.tick at_))

def faultClearRun (r : Req) (s : State) : State :=
  match (listed s).find? (·.code == r.f 0 2) with
  | none => refuse r stInvalid s
  | some f =>
    if ¬ f.causes.isEmpty then refuse r stConflict s
    else answer r stOk [] (setFault { f with listed := false } s)

def faultClearServe : Packet → State → State :=
  serve 0x0A02 tableRole (fun r s => exactly 4 r s && zeroAt 2 2 r) faultClearRun

/-- FAULT_CLEAR. -/
def execFaultClear (at_ : Nat) (p : Packet) (s : State) : Host.Outcome State Fault Refusal :=
  .next (receive 0x0A02 p faultClearServe (s.tick at_))

def logClearServe : Packet → State → State :=
  serve 0x0A03 tableRole (exactly 0) fun r s =>
    let n := s.faults.log.length
    answer r stOk [] (jCommand r false 1 (le 4 n) { s with faults.log := [] })

/-- LOG_CLEAR: the fault list stays. -/
def execLogClear (at_ : Nat) (p : Packet) (s : State) : Host.Outcome State Fault Refusal :=
  .next (receive 0x0A03 p logClearServe (s.tick at_))

end Sys2Proof.Machine
end

