-- ==== Sys2Proof/Machine/Firmware.lean ====
section
/-! DEFINITION. Transfers of images, the exchange of the spine firmware, and the restart of the command processor
(14 R367, R368; 16 R421; 17 R435 to R438; 02 R46, R52). -/

namespace Sys2Proof.Machine

/-! ### FW_BEGIN (14 R367) -/

def fwBeginOk (r : Req) (s : State) : Bool :=
  let t := r.f 0 1
  let n := r.f 4 4
  exactly 8 r s && decide (1 ≤ t ∧ t ≤ 3 ∧ n % 4 = 0 ∧ 4096 ≤ n ∧ n ≤ partSize t) && zeroAt 1 3 r

/-- A UCODE_LOAD runs. -/
def ucodeLoading (s : State) : Bool := (quireList s).any fun q => (quire s q).loading.isSome

/-- Log entry 119. -/
def fwBeginRun (r : Req) (s : State) : State :=
  let t := r.f 0 1
  if s.cz.fw.isSome then refuse r stBusy s
  else if t = s.boot.image ∨ (t = 3 ∧ ucodeLoading s) then refuse r stConflict s
  else
    let s := jCommand r true 1 r.params (setImgState t 3 s)
    let x : FwTransfer := { target := t, length := r.f 4 4, session := r.session, erased := false, req := r, commit := none, data := [],
                            buffered := 0, last := s.now }
    queued r [] { s with cz.fw := some x }

def fwBeginServe : Packet → State → State := serve 0x0B00 tableRole fwBeginOk fwBeginRun

/-- FW_BEGIN. -/
def execFwBegin (at_ : Nat) (p : Packet) (s : State) : Host.Outcome State Fault Refusal :=
  .next (receive 0x0B00 p fwBeginServe (s.tick at_))

/-! ### FW_DATA -/

/-- The session's own transfer. -/
def ownFw (r : Req) (s : State) : Option FwTransfer := s.cz.fw.filter fun x => x.session == r.session

/-- The range, with each byte's offset in the image. -/
def fwRange (r : Req) : List (Nat × Nat) := ((r.params.drop 4).zipIdx).map fun p => (r.f 0 4 + p.2, p.1.toNat)

/-- A range beyond LENGTH, or one that would program the state area, is refused (14 R367, 02 R45). -/
def fwDataOk (r : Req) (s : State) : Bool :=
  decide (4 ≤ r.params.length ∧ r.params.length % 4 = 0 ∧ r.f 0 4 % 4 = 0)
    && match ownFw r s with
      | none => true
      | some x => decide (r.f 0 4 + (r.params.length - 4) ≤ x.length)
          && (fwRange r).all fun (p : Nat × Nat) => decide (p.1 < 448 ∨ 512 ≤ p.1 ∨ p.2 = 255)

/-- Bytes in the programming buffer now. -/
def fwBuffered (x : FwTransfer) (s : State) : Nat := x.buffered - Config.flashRate * (s.now - x.last) / secU

/-- Log entry 119. -/
def fwDataRun (r : Req) (s : State) : State :=
  match ownFw r s with
  | none => refuse r stConflict s
  | some x =>
    let l := fwRange r
    if ¬ x.erased ∨ l.any (fun (p : Nat × Nat) => match x.data.find p.1 with | none => false | some v => v != p.2) then
      refuse r stConflict s
    else
      let fresh := l.filter fun (p : Nat × Nat) => (x.data.find p.1).isNone
      let level := fwBuffered x s + fresh.length
      if 262144 < level then refuse r stBusy s
      else
        let data := fresh.foldl (fun (t : Tab Nat) p => t.put p.1 p.2) x.data
        answer r stOk [] { s with cz.fw := some { x with data := data, buffered := level, last := s.now } }

def fwDataServe : Packet → State → State := serve 0x0B01 tableRole fwDataOk fwDataRun

/-- FW_DATA. -/
def execFwData (at_ : Nat) (p : Packet) (s : State) : Host.Outcome State Fault Refusal :=
  .next (receive 0x0B01 p fwDataServe (s.tick at_))

/-! ### FW_COMMIT -/

/-- REASON of a commit: 0 NONE, 1 INCOMPLETE, 2 SIGNATURE, 3 SECURITY_VERSION, 4 FLASH_ERROR. -/
def fwReason (x : FwTransfer) (s : State) : Nat :=
  if x.data.length < x.length then 1
  else if s.flash.bad.contains x.target then 4
  else
    match imgCheck s x.target with
    | 0 => 0
    | 5 => 3
    | _ => 2

/-- The transfer closes: TRIAL, or GOOD for QUIRE_UCODE (log entry 37), or BAD. Log entry 119. -/
def fwCommitEnd (r : Req) (x : FwTransfer) (s : State) : State :=
  let s := setPartition x.target (programBytes x.data []) s
  let reason := fwReason x s
  let body := le 1 reason ++ zeros 3
  if reason = 0 then
    let s := setImgState x.target (if x.target = 3 then 2 else 1) { s with cz.fw := none }
    let t := partition s x.target
    answer r stOk body (jCommand r false 1 (r.params ++ body ++ le 4 (imgGeneration t) ++ le 2 (imgSecurity t) ++ le 2 0) s)
  else answer r (if reason = 4 then stFaulted else stConflict) body (abandonFw s)

/-- FW_COMMIT waits for an erase under way; a second one is refused (14 R367; log entry 119). -/
def fwCommitRun (r : Req) (s : State) : State :=
  match ownFw r s with
  | none => refuse r stConflict s
  | some x =>
    if x.commit.isSome then refuse r stConflict s
    else if x.erased then fwCommitEnd r x (queued r [] s)
    else queued r [] { s with cz.fw := some { x with commit := some r } }

def fwCommitServe : Packet → State → State := serve 0x0B02 tableRole (exactly 0) fwCommitRun

/-- FW_COMMIT. -/
def execFwCommit (at_ : Nat) (p : Packet) (s : State) : Host.Outcome State Fault Refusal :=
  .next (receive 0x0B02 p fwCommitServe (s.tick at_))

/-- FW_ERASE_DONE: the partition is erased, and an FW_COMMIT that waited runs; or the erase fails. Log entry 119. -/
def fwErased (s : State) : State :=
  match s.cz.fw with
  | none => s
  | some x =>
    if x.erased then s
    else if s.flash.bad.contains x.target then
      let s := answer x.req stFaulted (le 2 (Config.flashFault x.target).toNat ++ le 2 0) (abandonFw s)
      match x.commit with
      | none => s
      | some r => answer r stFaulted (le 1 4 ++ zeros 3) s
    else
      let s := answer x.req stOk [] { setPartition x.target [] s with cz.fw := some { x with erased := true } }
      match x.commit with
      | none => s
      | some r => fwCommitEnd r x s

def execFwEraseDone (at_ : Nat) (s : State) : Host.Outcome State Fault Refusal := .next (fwErased (s.tick at_))

/-- A request ends with CONFLICT. -/
def endReq (r : Option Req) (s : State) : State :=
  match r with
  | none => s
  | some r => refuseOr r stConflict s

/-- A transfer given up, with the replies it still owes: FW_BEGIN's while the erase runs, and a waiting FW_COMMIT's. -/
def endFw (x : FwTransfer) (s : State) : State :=
  endReq x.commit (endReq (if x.erased then none else some x.req) (abandonFw s))

/-- FW_TRANSFER_IDLE_TIMEOUT: 600 s without an FW_DATA. -/
def fwIdle (s : State) : State :=
  match s.cz.fw with
  | none => s
  | some x => if x.last + 600 * secU ≤ s.now then endFw x s else s

def execFwTransferIdleTimeout (at_ : Nat) (s : State) : Host.Outcome State Fault Refusal := .next (fwIdle (s.tick at_))

/-! ### The restart of the command processor begins (17 R435, R437) -/

/-- A request that has been answered belongs to no session. -/
def spent (r : Option Req) : Option Req := r.map fun r => { r with session := 0 }

/-- Calibrations that run, and those that a command waits for, are ABANDONED_PREEMPTED. -/
def endCals (s : State) : State :=
  let asked := fun (c : Nat) => s.cal.jobs.any fun j => j.items.any fun p => p.1 == c && p.2.isNone
  forAll ((List.range (chanCount s)).filter fun c => asked c || (chan s c).run.any fun r => decide (r.state = 2)) (fun c s =>
    match (chan s c).run with
    | some _ => abandonCal c 5 (sincNext s) s
    | none => calOutcome c (5, gainOf s c, 0, 0) s) s

/-- Comparisons that a command waits for. -/
def endComps (s : State) : State :=
  s.cal.comps.foldl (fun s j => refuseOr j.req stConflict s) { s with cal.comps := [] }

/-- A drain whose edge has not come is taken back; a later one goes on without its reply. -/
def endDrain (q : Nat) (s : State) : State :=
  let v := quire s q
  match v.drainReq with
  | none => s
  | some r =>
    let s := if v.svc = 1 ∧ v.outSince = 0 then
        toQuire q 2 (v.drainEdge.getD 0) (setQuire q { v with svc := 0, drainEdge := none, drainReq := none, drainAcks := [] } s)
      else setQuire q { v with drainReq := none } s
    refuseOr r stConflict s

/-- A re-entry or a load under way is given up. -/
def endService (q : Nat) (s : State) : State :=
  let v := quire s q
  let s := endReq v.loading (endReq v.reentryReq s)
  if v.reentry ≠ 0 ∨ v.loading.isSome then
    serviceFailed q 0 (setQuire q { quire s q with reentryReq := none, loading := spent v.loading } s)
  else s

/-- A SAFE_PULSE_NOW: a pulse not yet open does not run, an open one ends without its reply. -/
def endPulse (e : Nat) (s : State) : State :=
  let v := excOf s e
  let s := endReq v.nowReq (setExc e { v with nowReq := none } s)
  match v.pulse with
  | none => s
  | some p => endReq p.now_ (setExc e { excOf s e with pulse := some { p with now_ := spent p.now_ } } s)

/-- An eye scan and a loopback go on without their replies. -/
def endLane (l : Nat) (s : State) : State :=
  let v := lane s l
  let s := setLane l { v with scan := v.scan.map fun (p : Nat × Option Req) => (p.1, none), loopReq := none } s
  endReq v.loopReq (endReq (v.scan.bind fun (p : Nat × Option Req) => p.2) s)

/-- Held response changes are dropped, with one reply for each commit. -/
def endHeld (s : State) : State :=
  let held := streamList.filterMap fun n => (stream s n).held.map (·.2)
  let s := forAll streamList (fun n s => if (stream s n).held.isSome then setStream n { stream s n with held := none } s else s) s
  held.eraseDups.foldl (fun s r => refuseOr r stConflict s) s

/-- What waits for its instant. -/
def endWaiting (s : State) : State :=
  let s := dropCommits 0 s
  let s := s.cz.sched.foldl (fun s x => refuseOr x.req stConflict s) { s with cz.sched := [] }
  let s := match s.time.step with
    | none => s
    | some x => endReq x.req (forAll (servingQuires s) (fun q => toQuire q 2 x.edge) { s with time.step := none })
  let s := endReq s.cz.verify { s with cz.verify := none }
  match s.cz.fw with
  | none => s
  | some x => if x.erased then s else endFw x s

/-- The command processor restarts into an image; final replies wait until it runs again. Log entry 90. -/
def cpRestart (target : Nat) (s : State) : State :=
  let s := { s with boot.restart := some target }
  let s := forAll (quireList s) (fun q => endInjections q 1) s
  let s := extLost (quireList s) (endComps (endCals s))
  let s := forAll (quireList s) (fun q s => endService q (endDrain q s)) s
  let s := forAll (List.range (groupCount s)) endPulse s
  endWaiting (endHeld (forAll (List.range 8) endLane s))

/-! ### FW_SWAP (14 R368; 17 R438) -/

/-- The image that does not run. -/
def otherImage (s : State) : Nat := if s.boot.image = 1 then 2 else 1

/-- The image may start: TRIAL with a try left, or GOOD, and it passes the checks of R46 again. -/
def imgReady (i : Nat) (s : State) : Bool :=
  let t := partition s i
  (decide (imgState t = 2) || decide (imgState t = 1 ∧ imgTries t < 3)) && decide (imgCheck s i = 0)

/-- Log entry 119. -/
def swapRun (r : Req) (s : State) : State :=
  let i := otherImage s
  if ¬ imgReady i s ∨ s.cz.fw.isSome ∨ s.cal.sealOpen ∨ s.safe.lockOpen ∨ scheduled s ≠ 0 then
    refuse r stConflict s
  else
    let s := answer r stOk [] (jDone r [] s)
    let s := setPartition i (imgTry (partition s i)) { s with boot.swapped := some (s.now, s.boot.image) }
    cpRestart i s

def swapServe : Packet → State → State := serve 0x0B03 tableRole (fun r s => exactly 4 r s && zeroAt 0 4 r) swapRun

/-- FW_SWAP: the restart follows the reply at once. -/
def execFwSwap (at_ : Nat) (p : Packet) (s : State) : Host.Outcome State Fault Refusal :=
  .next (receive 0x0B03 p swapServe (s.tick at_))

/-! ### The restart ends (17 R435 to R437) -/

/-- Sessions after the restart: every one is lost with the table, and one whose credential KEYS no longer holds closes.
Log entry 90. -/
def keptSession (s : State) (v : Session) : Bool :=
  decide (v.credential = 0 ∨ v.credential = 0xFFFFFFFF) || (creds s).any (·.id == v.credential)

/-- The event code of a reply that outlives its session; 0 for one that does not (13 R333, 07 R188). -/
def lateCode (op : Nat) : Nat :=
  if op = 0x0400 ∨ op = 0x0403 then 0x0714
  else if op = 0x0C02 then 0x0C12
  else if op = 0x0103 ∨ op = 0x0503 ∨ op = 0x0604 then 0x1010
  else 0

/-- A reply that waited for the restart. Log entry 90. -/
def sendLate (x : LateReply) (s : State) : State :=
  if (session? s x.req.session).isNone ∧ lateCode x.req.opcode ≠ 0 then
    answerOr x.req x.status x.body (lateCode x.req.opcode) s
  else replyTo x.req x.status x.final x.body s

/-- The image runs; sessions, replies, comparisons and retransmission go on. `lost` says that the session table failed its
CRC. Log entry 90. -/
def cpDone (lost : Bool) (s : State) : State :=
  match s.boot.restart with
  | none => s
  | some img =>
    let s := { s with boot.restart := none, boot.image := img }
    let gone := s.cz.sessions.filter fun v => lost || !keptSession s v
    let s := forAll (gone.map (·.id)) closeSession s
    let bare := fun (v : Session) => { v with cache := [] }
    let s := { s with cz.sessions := s.cz.sessions.map bare }
    let l := s.cz.late
    let s := l.foldl (fun s x => sendLate x s) { s with cz.late := [] }
    let s := forAll ((quireList s).filter fun q => (ensOf s q).comparing ≠ 0) startQuick s
    forAll (streamList.filter fun n => decide (transport s n = 1 ∨ transport s n = 2)) goBack s

/-! ### A TRIAL image becomes GOOD (02 R46; 16 R421) -/

/-- The fuse minimum rises to the image's security version, at most 32. -/
def raiseFuses (t : Tab Nat) (s : State) : State :=
  let new := min 32 (imgSecurity t)
  if imgLock t && decide (s.flash.fuses < new) then
    jInternal 0xFF04 (le 1 s.flash.fuses ++ le 1 new) { s with flash.fuses := new }
  else s

/-- Crown has been held for 60 s by this image without a watchdog expiry. -/
def heldCrown (s : State) : Bool :=
  match s.boot.crownAt with
  | none => false
  | some c =>
    let since := max c (max (s.boot.lastWatchdog.getD 0) ((s.boot.swapped.map (·.1)).getD 0))
    decide (since + 60 * secU ≤ s.now) && s.boot.restart.isNone

/-- IMAGE_TRIAL_TO_GOOD. -/
def trialGood (s : State) : State :=
  let i := s.boot.image
  let t := partition s i
  if heldCrown s ∧ (i = 1 ∨ i = 2) ∧ imgState t = 1 then
    let s := setImgState i 2 s
    let s := jInternal 0xFF03 (le 1 i ++ le 1 0 ++ le 2 (imgSecurity t) ++ le 4 (imgGeneration t)) s
    raiseFuses t (raise (ev 0x0F10 0xFFFF) s)
  else s

def execImageTrialToGood (at_ : Nat) (s : State) : Host.Outcome State Fault Refusal := .next (trialGood (s.tick at_))

end Sys2Proof.Machine
end

