-- ==== Sys2Proof/Machine/Start.lean ====
section
/-! DEFINITION. Power and reset, the staged start with its holds and deadlines, the watchdog, the management bus, recovery
and HUB_RESET (02; 11 R296; 14 R369; 16 R413; 18 R452, R457). -/

namespace Sys2Proof.Machine

/-! ### Reset (02 R37 to R39, R55 to R58) -/

/-- Rows of one continuity table laid over those of another. -/
def overlay (old new : Tab Continuity) : Tab Continuity := new.foldl (fun (t : Tab Continuity) p => t.put p.1 p.2) old

/-- Causes of a reset join those already detected in it; the first rail named stands. -/
def joinCauses (old new : Nat) : Nat := if bits 23 20 old ≠ 0 then old ||| (new % 2 ^ 20) else old ||| new

/-- A flash program or erase under way when reset is asserted is abandoned (02 R39): the partition's own check finds it at
the next Trunk (16 R409, 07 R181, 15 R374, 07 R179, 16 R403). -/
def abandonWrite (cut : Bool) (s : State) : State :=
  let f := s.flash
  let f := if ¬ cut then f else match f.last with
    | 1 => (tearLast s).flash
    | 2 => { f with ring := f.ring.dropLast ++ (f.ring.getLast?.toList.map fun r => { r with bad := true }) }
    | 3 => { f with safeOk1 := false, safeOk2 := false }
    | 4 => { f with cal := none }
    | 5 => { f with keys := cutKeys f.keys }
    | _ => f
  { s with flash := { f with last := 0 } }

/-- The hub enters reset: flash, the trouble log, the continuity table and the causes stay (02 R56, R57). -/
def enterReset (causes : Nat) (s : State) : State :=
  let kept := overlay s.store.continuityDue s.store.continuity
  let z := State.reset
  { z with part := s.part, flash := (abandonFw s).flash, now := s.now, draw := s.draw, out := s.out, pending := s.pending,
           boot := { z.boot with rails := s.boot.rails, railsSince := s.boot.railsSince, hot := s.boot.hot,
                                 cause := s.boot.cause, prevCause := s.boot.prevCause,
                                 newCause := joinCauses (if s.boot.inReset then s.boot.newCause else 0) causes },
           faults := { z.faults with log := s.faults.log, next := s.faults.next },
           store := { z.store with continuity := kept } }

/-- POWER_ON: a rail enters its window; `fromOff` says that power had been off, so nothing but flash has lasted.
Log entry 84. -/
def powerOn (rail : Nat) (fromOff : Bool) (s : State) : State :=
  let s := if fromOff then
      let z := State.reset
      { z with part := s.part, flash := (abandonFw s).flash, now := s.now, draw := s.draw, out := s.out, pending := s.pending }
    else s
  if rail < 1 ∨ 9 < rail ∨ bit (rail - 1) s.boot.rails then s
  else { s with boot.rails := s.boot.rails ||| 2 ^ (rail - 1), boot.railsSince := s.now }

def execPowerOn (at_ rail : Nat) (fromOff : Bool) (s : State) : Host.Outcome State Fault Refusal :=
  .next (powerOn rail fromOff (s.tick at_))

/-- BROWNOUT: a monitored rail leaves its window. -/
def brownout (rail : Nat) (cut : Bool) (s : State) : State :=
  if rail < 1 ∨ 9 < rail ∨ ¬ bit (rail - 1) s.boot.rails then s
  else enterReset (2 + rail * 2 ^ 20) (abandonWrite cut { s with boot.rails := s.boot.rails - 2 ^ (rail - 1) })

/-- `cut`, here and below: a flash program or erase was under way. -/
def execBrownout (at_ rail : Nat) (cut : Bool) (s : State) : Host.Outcome State Fault Refusal :=
  .next (brownout rail cut (s.tick at_))

/-- A level on RESET_N passes the glitch filter: 10.5 us do, less than 9.5 us do not, between them either (02 R38). -/
def filterPasses (len : Nat) (s : State) : Bool :=
  decide (21 * usU ≤ 2 * len) || (decide (19 * usU ≤ 2 * len) && Config.resetFilterPasses s.now)

/-- RESET_N_ASSERT: a low level of the given length. -/
def pinReset (low : Nat) (cut : Bool) (s : State) : State :=
  if filterPasses low s then enterReset 4 (abandonWrite cut s) else s

def execResetNAssert (at_ low : Nat) (cut : Bool) (s : State) : Host.Outcome State Fault Refusal :=
  .next (pinReset low cut (s.tick at_))

/-- THERMAL_SHUTDOWN (18 R457). Log entry 123. -/
def execThermalShutdown (at_ : Nat) (cut : Bool) (s : State) : Host.Outcome State Fault Refusal :=
  .next (enterReset 128 (abandonWrite cut { s.tick at_ with boot.hot := true }))

/-- LOCKSTEP_MISMATCH of the safety island or of the command processor. -/
def execLockstepMismatch (at_ : Nat) (island cut : Bool) (s : State) : Host.Outcome State Fault Refusal :=
  .next (enterReset (if island then 32 else 64) (abandonWrite cut (s.tick at_)))

/-! ### Reset release and Root (02 R37, R41, R43, R53; 03 R66; 04 R113) -/

/-- Step 4: section 1 of SAFE. -/
def readSafe (s : State) : State :=
  let ok := s.flash.safeOk1
  let image := if ok then s.flash.safe else []
  let s := { s with safe.image := image, safe.corr := s.flash.safeCorr, safe.corrOk := ok, boot.safeOk := ok }
  if ok then s else raiseOnce (evL 0x0D02 0xFFFF) s

/-- FE_CHANNEL and EXC_GROUP of a member as its SAFE_MEMBER names them; in REVERSAL the
partner group stays OFF unless a member of its own names it (03 R66; DESIGN CHOICE, log entry 127). -/
def rootFront (m : Nat) (s : State) : State :=
  let c := slotChan s m
  if ¬ isChan s c then s
  else
    let fe := cf s 0x0B03 m 0x00 10 8 + 16 * cf s 0x0B03 m 0x00 5 4 + 256 * b2n (cfBit s 0x0B03 m 0x00 3)
      + 4096 * cf s 0x0B03 m 0x08 21 12 + 2 ^ 22 * cf s 0x0B03 m 0x08 23 22
    let mode := cf s 0x0B03 m 0x00 2 0
    let half := cf s 0x0B03 m 0x04 16 0
    let s := setExc (groupOf c) { excOf s (groupOf c) with closedAt := s.now } s
    putWord 0x0102 (groupOf c) 0x04 half (putWord 0x0102 (groupOf c) 0x00 mode (putWord 0x0101 c 0x00 fe s))

/-- The member slots of enabled pairs. -/
def memberSlots (s : State) : List Nat := (enabledPairs s).flatMap fun p => [2 * p, 2 * p + 1]

/-- Step 3: a quire that answers its sideband poll runs its ROM microcode with its heater on and its witness in simultaneous
mode; another is out of service. -/
def pollQuire (ups : List Nat) (q : Nat) (s : State) : State :=
  let s := toQuire q 5 0 s
  if ups.contains q then
    let s := setQuire q { (default : Quire) with svc := 0, digest := romDigest } s
    let s := setEns q { Ensemble.init with heaterOn := true, warm := 1 } s
    setWit q { (default : Witness) with state := 2 } s
  else
    let s := setQuire q { (default : Quire) with svc := 2, digest := zeros 32, outSince := max 1 s.now } s
    raiseOnce (evL 0x0202 q) (setWit q { (default : Witness) with state := 4 } s)

/-- Causes that no one asks for: BROWNOUT, WATCHDOG, the lockstep mismatches, THERMAL. -/
def unplanned : Nat := 0xF2

/-- Reset release: the causes, what the reset kept, and steps 1 to 5. `ups` answer the sideband poll; `sramOk` says that the
trouble log and the continuity table pass their CRC after a brownout. Log entry 84. -/
def release (strap : Nat) (ups : List Nat) (sramOk : Bool) (s : State) : State :=
  let nc := s.boot.newCause
  let lost : Bool := bit 1 nc && !bit 0 nc && !sramOk
  let cleared : Bool := bit 0 nc || lost
  let cause := if lost then nc ||| 256 else nc
  let boot := { s.boot with inReset := false, release := some s.now, strap := strap % 4, cause := cause,
                            prevCause := if bit 0 nc then 0 else s.boot.cause, newCause := 0, continuityUnknown := cleared,
                            flashRstN := true, xspi := 1, strobe := 1 }
  let due := if cleared then [] else s.store.continuity
  let faults := if cleared then default else s.faults
  let s := { s with boot := boot, faults := faults, store.continuity := [], store.continuityDue := due }
  let s := when_ lost (raise (ev 0x0102 0xFFFF)) s
  let s := when_ (decide (cause &&& unplanned ≠ 0)) (raise (ev 0x0103 0xFFFF)) s
  let s := when_ (decide (cause &&& 0x60 ≠ 0)) (raise (ev 0x0F03 0xFFFF)) s
  let s := readSafe (forAll (quireList s) (pollQuire ups) s)
  forAll (memberSlots s) rootFront s

/-- Every monitored rail has been in its window for 2 ms, RESET_N is high past its filter, no die is hot, and TEST_MODE has
not been read high (18 R464). -/
def mayRelease (high : Nat) (s : State) : Bool :=
  s.boot.inReset && !s.boot.hot && !s.boot.testHeld
    && decide (s.boot.rails = 0x1FF ∧ s.boot.railsSince + 2 * msU ≤ s.now) && filterPasses high s

/-- RESET_RELEASE: `high` is how long RESET_N has been high, `test` the level of TEST_MODE: high, the hub stays in reset
until it enters reset anew (18 R464). -/
def tryRelease (high strap : Nat) (ups : List Nat) (sramOk test : Bool) (s : State) : State :=
  if ¬ mayRelease high s then s
  else if test then { s with boot.testHeld := true }
  else release strap ups sramOk s

def execResetRelease (at_ high strap : Nat) (ups : List Nat) (sramOk test : Bool) (s : State) :
    Host.Outcome State Fault Refusal :=
  .next (tryRelease high strap ups sramOk test (s.tick at_))

/-- THERMAL_RESTART: every die is below 105 C, and the hub leaves reset by itself (18 R457). -/
def execThermalRestart (at_ high strap : Nat) (ups : List Nat) (sramOk test : Bool) (s : State) :
    Host.Outcome State Fault Refusal :=
  .next (tryRelease high strap ups sramOk test { s.tick at_ with boot.hot := false })

/-! ### Trunk (02 R41, R44, R46, R47; 08 R189, R190; 18 R452) -/

/-- REF_IN is absent at step 8: the hold of R44. Log entry 85. -/
def refAbsent (s : State) : Bool :=
  match s.boot.release with
  | none => false
  | some t => decide (s.boot.stage = 1) && s.time.rawStart.isNone && decide (t + 75 * msU ≤ s.now)

/-- REF_IN_QUALIFIED: step 8; the strobe switches to timebase / 64 (01 R24). -/
def refQualified (s : State) : State :=
  match s.boot.release with
  | none => s
  | some t =>
    if s.boot.stage ≠ 1 ∨ s.time.rawStart.isSome then s
    else refStart { s with boot.refDone := true, boot.strobe := 2, boot.refWait := s.now - (t + 75 * msU) }

def execRefInQualified (at_ : Nat) (s : State) : Host.Outcome State Fault Refusal := .next (refQualified (s.tick at_))

/-- LPDDR5_TRAINING_DONE: the rate code and the capacity in MiB; capacity 0: training failed at every rate. -/
def lpTrained (rate mib : Nat) (s : State) : State :=
  if s.boot.inReset ∨ s.boot.lpDone ∨ s.boot.stage < 1 ∨ 2 < s.boot.stage then s
  else if mib = 0 then raiseOnce (evL 0x0A03 0xFFFF) { s with boot.lpDone := true, boot.lpCke := true, boot.storeMode := 2 }
  else { s with boot.lpDone := true, boot.lpCke := true, boot.storeMode := 1, store.lpMib := mib, store.lpRate := rate % 4 }

def execLpddr5TrainingDone (at_ rate mib : Nat) (s : State) : Host.Outcome State Fault Refusal :=
  .next (lpTrained rate mib (s.tick at_))

/-- Step 12: QUIRE_UCODE is authenticated and loaded into every quire, or every quire keeps its ROM microcode. Log entry 87. -/
def loadUcode (s : State) : State :=
  if imgCheck s 3 = 0 ∧ (imgState s.flash.ucode = 1 ∨ imgState s.flash.ucode = 2) then
    let digest := flashBytes s.flash.ucode 24 32
    forAll (servingQuires s) (fun q s => toQuire q 4 0 (setQuire q { quire s q with loaded := true, digest := digest } s)) s
  else raise (ev 0x0F02 0xFFFF) s

/-- The SL bits of a CAL_POLICY word come from CAL. Log entry 121. -/
def policyFrom (k : BlockKey) (v : Nat) (s : State) : State :=
  let m := accMask .sl k.1 k.2.1 k.2.2
  putWord k.1 k.2.1 k.2.2 ((resetWord k.1 k.2.1 k.2.2 &&& (2 ^ 32 - 1 - m)) ||| (v &&& m)) s

/-- Step 13: CAL and its seal are checked. -/
def checkCal (s : State) : State :=
  match s.flash.cal with
  | none => raiseOnce (evL 0x0706 0xFFFF) { s with cal.invalid := true, cal.sealOpen := true }
  | some c =>
    let s := { s with cal.invalid := false, cal.sealOpen := !c.sealOk, cal.digest := c.digest, cal.closeSeconds := c.closeSeconds }
    c.policy.foldl (fun s (p : BlockKey × Nat) => policyFrom p.1 p.2 s) s

/-- Section 2 of SAFE is read; CRC2 (15 R374). -/
def checkCorr (s : State) : State :=
  if s.flash.safeOk1 ∧ s.flash.safeOk2 then s
  else raiseOnce (evL 0x0D02 0xFFFF) { s with safe.corrOk := false, boot.safeOk := false }

/-- The start count goes up, and every sequence number starts from the new base (02 R59). -/
def newStart (s : State) : State :=
  let n := (s.flash.journal.startCount + 1) % 2 ^ 20
  let base := n * 2 ^ 44
  let q0 : FolioQ := { (default : FolioQ) with nextSeq := base, ackNext := base }
  let s := { s with flash.journal.startCount := n, boot.startCount := n, store.base := base, store.ring2 := q0, store.ring3 := q0 }
  forAll streamList (fun k s => setStream k { stream s k with q := q0 } s) s

/-- The continuity EVENT that tells of a cleared table, the first of the start (02 R58, 10 R256). -/
def unknownEvent (s : State) : State :=
  if s.boot.continuityUnknown then issue (evB 0x0110 0xFFFF (le 1 0 ++ le 1 1 ++ zeros 38)) { s with boot.continuityUnknown := false }
  else s

/-- Rejected images whose generation is above that of the image that starts (02 R46). Log entry 87. -/
def higherRejects (i : Nat) (l : List (Nat × Nat)) (s : State) : List (Nat × Nat) :=
  l.filter fun p => decide (imgGeneration (partition s i) < imgGeneration (partition s p.1))

/-- Steps 10 to 14 with the image taken. -/
def startFirmware (i : Nat) (rejected : List (Nat × Nat)) (s : State) : State :=
  let s := newStart { s with boot.fwRuns := true, boot.image := i }
  let s := jTail (loadKeys (handOver (unknownEvent s)))
  let s := jInternal 0xFF01 (le 4 s.boot.cause ++ le 1 i ++ le 1 s.cz.keys.state ++ zeros 2 ++ le 4 (satU 32 (s.boot.refWait / msU))) s
  let s := (higherRejects i rejected s).foldl (fun s (p : Nat × Nat) => fallback p.1 p.2 s) s
  let s := loadUcode s
  let s := when_ (decide (s.cz.keys.state = 2)) (raiseOnce (evL 0x0E02 0xFFFF)) s
  let s := checkCorr (checkCal s)
  let s := match s.flash.ring.find? (·.bad) with | none => s | some r => raise (ev 0x0705 r.quire) s
  startLanes s

/-- IMAGE_SELECT: steps 9 and 10: the xSPI pins pass to the ROM loader; with no image the hub stays in Trunk under NO_IMAGE, and the ROM loader brings up the
endpoint (02 R47). -/
def imageSelect (s : State) : State :=
  if s.boot.stage ≠ 1 ∨ ¬ s.boot.refDone ∨ s.boot.fwRuns then s
  else
    let x := selectImage { s with boot.xspi := 2 }
    if x.2.1 = 0 then startLink 0 { x.1 with boot.hold := 2, boot.stage := 2 } else startFirmware x.2.1 x.2.2 x.1

/-- TRUNK_REACHED: steps 8 to 13 are complete. -/
def trunkReached (s : State) : State :=
  if s.boot.stage = 1 ∧ s.boot.refDone ∧ s.boot.fwRuns ∧ s.boot.lpDone then
    { stageReached 2 s with boot.trunkAt := some s.now }
  else s

def execTrunkReached (at_ : Nat) (s : State) : Host.Outcome State Fault Refusal := .next (trunkReached (s.tick at_))

/-! ### Crown (02 R41, R48; 07 R179; 15 R374) -/

/-- An accepted transfer as its EXT_STD record tells of it (07 R181). -/
def recordTransfer (r : RingRec) : Option ExtTransfer :=
  let value := ofF64 (fld 24 8 r.bytes)
  if r.kind ≠ 2 ∨ r.bad ∨ fld 48 1 r.bytes ≠ 0 ∨ value = 0 then none
  else some { seconds := r.seconds, kExt := 1 + (toSigned 32 (fld 44 4 r.bytes) : Rat) / 1000000000,
              uRel := ofF64 (fld 32 8 r.bytes) / rabs value * 1000000, uTr := Config.transferU r.quire r.rseq }

/-- Entries of a member into OUTLIER in the part's life (07 R166). -/
def outlierEntries (s : State) (q i : Nat) : Nat :=
  (s.flash.ring.filter fun r => decide (r.quire = q ∧ r.kind = 3) && !r.bad && decide (fld 20 1 r.bytes = i ∧ fld 22 1 r.bytes = 1)).length

/-- A quire's ensemble from CAL, its transfers and its members' history from RING. -/
def loadEns (q : Nat) (c : EnsCal) (s : State) : State :=
  let e := ensOf s q
  let tr := ((s.flash.ring.filter fun r => decide (r.quire = q)).filterMap recordTransfer).reverse
  let members := c.members.zipIdx.map fun (p : (Nat × Rat) × Nat) =>
    { (default : Member) with state := p.1.1, k := p.1.2, entries := outlierEntries s q p.2 }
  let e := { e with kExt := c.kExt, members := members, ratios := c.ratios, rInt := c.rInt, ratioU := c.ratioU, warm1 := c.warm1,
                    warm2 := c.warm2, drift := c.drift, transfers := tr }
  let e := latchPolicy s q e
  let s := setEns q e s
  setEns q { e with model := if observed e then 2 else gradeModel s q } s

/-- Per-channel coefficients of a range. Log entry 121. -/
def loadRange (k : Nat) (r : RangeCal) (s : State) : State :=
  let v := chan s (k / 8)
  setChan (k / 8) { v with cal := v.cal.put (k % 8) { r with valid := false } } s

/-- Step 17: coefficients from CAL, and the members' corrections from section 2 of SAFE. Log entry 121. -/
def loadCoefs (s : State) : State :=
  let s := match s.flash.cal with
    | none => s
    | some c =>
      let s := c.ranges.foldl (fun s (p : Nat × RangeCal) => loadRange p.1 p.2 s) s
      c.ens.foldl (fun s (p : Nat × EnsCal) => loadEns p.1 p.2 s) s
  if ¬ s.safe.corrOk then s
  else
    forAll (memberSlots s) (fun m s =>
      let c := slotChan s m
      if ¬ isChan s c then s
      else ((corrCopy s m).zipIdx).foldl (fun s (p : Nat × Nat) => putWord 0x0401 c (4 * p.2) p.1 s) s) s

/-- A quire out of service at the start: its outputs never come. -/
def absentQuire (q : Nat) (s : State) : State :=
  let m := sincNext s
  let s := forAll (quireCodes q) (fun c s => addMark c .out m none s) s
  forAll ((span (128 * q) 128).flatMap (slotsOf s)) (fun k s => setMember k { member s k with cause := 1 } s) s

/-- MODULATORS_START: step 16, 5 ms after Trunk, once every quire in service has its deskew (01 R25), and the load of
step 17. -/
def modulatorsStart (s : State) : State :=
  match s.boot.trunkAt with
  | none => s
  | some t =>
    if s.boot.modsOn ∨ s.now < t + 5 * msU ∨ ¬ (servingQuires s).all (fun q => (quire s q).measured) then s
    else
      let s := { s with boot.modsOn := true }
      let s := forAll (quireList s) (fun q s =>
        if inService s q then setQuire q { quire s q with running := true } s else absentQuire q s) s
      forAll (quireList s) leaveSimul (handover (loadCoefs s))

def execModulatorsStart (at_ : Nat) (s : State) : Host.Outcome State Fault Refusal := .next (modulatorsStart (s.tick at_))

/-- CROWN_REACHED: every pair with a member in service is on the main path, one whose members have since left service
among them (02 R48). -/
def crownReached (s : State) : State :=
  let h := handover s
  if s.boot.stage = 2 ∧ s.boot.fwRuns ∧ s.boot.modsOn ∧ h.safe.handover.isSome
      ∧ (s.conv.closed.isSome ∨ (servingQuires s).isEmpty) then
    { stageReached 3 h with boot.crownAt := some s.now }
  else s

def execCrownReached (at_ : Nat) (s : State) : Host.Outcome State Fault Refusal := .next (crownReached (s.tick at_))

/-- The continuity EVENT of a stream (02 R58, 10 R256). -/
def continuityEvent (n : Nat) (v : Continuity) : Ev :=
  evS 0x0110 n n (le 1 n ++ le 1 0 ++ le 2 0 ++ le 4 v.startCount ++ le 8 v.written ++ le 8 v.ackedSeq ++ le 8 v.ackedIndex ++ le 8 v.produced)

/-- STREAM_CONTINUITY_EVENTS: at Crown, once RING2 is configured. -/
def continuityEvents (s : State) : State :=
  if inCrown s ∧ (ring s 2).en then
    s.store.continuityDue.foldl (fun s (p : Nat × Continuity) => issue (continuityEvent p.1 p.2) s) { s with store.continuityDue := [] }
  else s

def execStreamContinuityEvents (at_ : Nat) (s : State) : Host.Outcome State Fault Refusal := .next (continuityEvents (s.tick at_))

/-- The deadline of a stage from reset release; Root's does not move with REF_IN (02 R41, R44). -/
def deadline (stage : Nat) (s : State) : Nat :=
  if stage = 1 then 25 * msU else (if stage = 2 then 400 * msU else 2500 * msU) + s.boot.refWait

/-- STAGE_DEADLINE_OVERRUN of a stage (02 R42). Log entry 85. -/
def overrunAt (stage : Nat) (s : State) : State :=
  match s.boot.release with
  | none => s
  | some t =>
    if stage < 1 ∨ 3 < stage ∨ stage ≤ s.boot.stage ∨ bit stage s.boot.overrun ∨ refAbsent s ∨ s.boot.hold = 2
        ∨ s.now < t + deadline stage s then s
    else raiseOnce (evL 0x0101 stage) { s with boot.hold := 3, boot.overrun := s.boot.overrun ||| 2 ^ stage }

def execStageDeadlineOverrun (at_ stage : Nat) (s : State) : Host.Outcome State Fault Refusal := .next (overrunAt stage (s.tick at_))

/-! ### The watchdog (02 R52, 17 R438) -/

/-- An instant lies within the last 60 s. -/
def within60 (t : Option Nat) (s : State) : Bool := match t with | none => false | some t => decide (s.now < t + 60 * secU)

/-- WATCHDOG_EXPIRY. -/
def watchdog (cut : Bool) (s : State) : State :=
  if ¬ s.boot.fwRuns then s
  else if within60 s.boot.lastWatchdog s then enterReset 16 (abandonWrite cut s)
  else
    let s := raise (ev 0x0F04 0xFFFF) { s with boot.lastWatchdog := some s.now }
    match s.boot.swapped with
    | none => cpRestart (s.boot.restart.getD s.boot.image) s
    | some (t, old) =>
      if within60 (some t) s then
        let new := if old = 1 then 2 else 1
        cpRestart old (fallback new 2 (setImgState new 3 { s with boot.swapped := none }))
      else cpRestart (s.boot.restart.getD s.boot.image) s

def execWatchdogExpiry (at_ : Nat) (cut : Bool) (s : State) : Host.Outcome State Fault Refusal :=
  .next (watchdog cut (s.tick at_))

/-! ### The management bus (02 R53, R54) -/

/-- HOLD as MG_STAGE reads it. Log entry 85. -/
def holdCode (s : State) : Nat := if s.boot.hold ≠ 0 then s.boot.hold else if refAbsent s then 1 else 0

/-- A register of the management bus; none for an offset that is not listed. -/
def mgRegister (s : State) (off : Nat) : Option Nat :=
  match off with
  | 0x00 => some (0x4B410000 + 256 * b2n s.part.metrology + s.part.quires)
  | 0x04 => some (total ((quireList s).map fun q => if inService s q then 2 ^ (16 + q) else 0) + 2 ^ 11 * s.boot.storeMode
      + 2 ^ 10 * b2n s.boot.safeOk + 256 * s.boot.image + 16 * holdCode s + s.boot.stage)
  | 0x08 => some s.boot.cause
  | 0x0C => some s.boot.prevCause
  | 0x10 => some (sinceRelease s / msU % 2 ^ 32)
  | 0x14 => some (total ((List.range 4).map fun g => if (safeGroup s g).toggling then 3 * 4 ^ g else 0))
  | 0x18 => some (total ((List.range 7).map fun q => warmCode s q * 16 ^ q))
  | 0x1C => some s.boot.startCount
  | 0x20 => some (worstClass s * 65536 + (activeFaults s).length)
  | _ => none

/-- One bit of the SMBus PEC: CRC-8 with polynomial x^8 + x^2 + x + 1. -/
def pecBit (c : Nat) : Nat := if 128 ≤ c then ((2 * c) % 256) ^^^ 7 else 2 * c
def pecByte (c : Nat) (b : Byte) : Nat := (List.range 8).foldl (fun c _ => pecBit c) (c ^^^ b.toNat)
def pec (l : List Byte) : Byte := BitVec.ofNat 8 (l.foldl pecByte 0)

/-- The bytes of a read of `n` bytes: a count of 4 first in the block form, the register, its PEC. -/
def mgBytes (addr off n v : Nat) (block : Bool) : List Byte :=
  let pre := if block then le 1 4 else []
  let sent := le 1 (2 * addr) ++ le 1 off ++ le 1 (2 * addr + 1) ++ pre ++ le 4 v
  pre ++ (le 4 v ++ [pec sent]).take n

/-- MGMT_READ: the register is captured whole; `extra` says that a data byte follows the offset in the write. Log entry 88. -/
def mgmtRead (addr off n : Nat) (block extra : Bool) (s : State) : State :=
  if s.boot.inReset ∨ addr ≠ 0x4C + s.boot.strap then emit (.mgmt false []) s
  else
    match (if extra then none else mgRegister s off) with
    | none => emit (.mgmt false []) s
    | some v => emit (.mgmt true (mgBytes addr off n v block)) { s with boot.mgmtReg := v, boot.mgmtHeld := decide (n < 4) }

def execMgmtRead (at_ addr off n : Nat) (block extra : Bool) (s : State) : Host.Outcome State Fault Refusal :=
  .next (mgmtRead addr off n block extra (s.tick at_))

/-- MGMT_CLOCK_LOW_TIMEOUT: the target releases the bus. -/
def execMgmtClockLowTimeout (at_ : Nat) (s : State) : Host.Outcome State Fault Refusal :=
  .next { s.tick at_ with boot.mgmtHeld := false, boot.mgmtReg := 0 }

/-! ### Recovery (11 R296) -/

/-- An image as the recovery window programs it: its state area erased. -/
def recoveryTable (l : List Byte) : Tab Nat :=
  programBytes ((l.zipIdx.map fun (p : Byte × Nat) => (p.2, p.1.toNat)).filter fun (p : Nat × Nat) => decide (p.1 < 448 ∨ 512 ≤ p.1)) []

/-- The loader reports that it has come to a phase of the recovery, `percent` of it done: 1 READING, 2 AUTHENTICATING, 3
PROGRAMMING, which an image that fails authentication does not reach (11 R296). -/
def recoveryPhase (t : Tab Nat) (phase percent : Nat) (s : State) : State :=
  let r := s.host.recovery
  if phase < r.state then s
  else if phase = 3 ∧ imgCheck (setPartition r.target t s) r.target ≠ 0 then { s with host.recovery.state := 5 }
  else { s with host.recovery.state := phase, host.recovery.percent := min 100 percent }

/-- The recovery of an image of REC_LEN bytes goes on: `outcome` 1 to 3 a phase, 6 READ_ERROR while reading, 7 FLASH_ERROR with what
the failed step left, else the image was read and programmed and REC_STATE reads DONE. Log entry 88. -/
def recoveryStep (image left : List Byte) (outcome percent : Nat) (s : State) : State :=
  let r := s.host.recovery
  let t := recoveryTable (image.take r.len)
  if 1 ≤ outcome ∧ outcome ≤ 3 then recoveryPhase t outcome percent s
  else if outcome = 6 ∧ r.state = 1 then { s with host.recovery.state := 6 }
  else if imgCheck (setPartition r.target t s) r.target ≠ 0 then { s with host.recovery.state := 5 }
  else if outcome = 7 ∨ s.flash.bad.contains r.target then
    let rest := left.zipIdx.map fun (p : Byte × Nat) => (p.2, p.1.toNat)
    setPartition r.target (programBytes rest []) { s with host.recovery.state := 7 }
  else setImgState r.target 1 (setPartition r.target t { s with host.recovery.state := 4, host.recovery.percent := 100 })

/-- RECOVERY_DONE: a recovery under way goes on or ends; after DONE, the warm reset with cause COMMAND follows (11 R296, 02 R47).
Log entry 88. -/
def recoveryDone (image left : List Byte) (outcome percent : Nat) (s : State) : State :=
  let r := s.host.recovery
  if s.boot.hold ≠ 2 then s
  else if r.state = 4 then enterReset 8 s
  else if r.state = 0 ∨ 4 < r.state then s
  else recoveryStep image left outcome percent s

def execRecoveryDone (at_ : Nat) (image left : List Byte) (outcome percent : Nat) (s : State) : Host.Outcome State Fault Refusal :=
  .next (recoveryDone image left outcome percent (s.tick at_))

/-! ### HUB_RESET (14 R369) -/

/-- Journaled and answered; the replies of the backlog leave over the given descriptors before the reset. Log entry 89. -/
def hubResetRun (ds : List (List Descriptor)) (r : Req) (s : State) : State :=
  let s := answer r stOk [] (jCommand r true 1 r.params s)
  enterReset 8 (if r.port = 0 ∧ dmaOk s then ds.foldl (fun s d => ringTransfer 1 d s) s else s)

def hubResetServe (ds : List (List Descriptor)) : Packet → State → State :=
  serve 0x0B04 tableRole (fun r s => exactly 4 r s && decide (r.f 0 4 = 0x4B410001)) (hubResetRun ds)

/-- HUB_RESET: the reset follows the reply at once. -/
def execHubReset (at_ : Nat) (p : Packet) (ds : List (List Descriptor)) (s : State) : Host.Outcome State Fault Refusal :=
  .next (receive 0x0B04 p (hubResetServe ds) (s.tick at_))

end Sys2Proof.Machine
end

