-- ==== Sys2Proof/Machine/Packets.lean ====
section
/-! DEFINITION. Packets that waited unread in RING0 are served when the command processor takes them again: after the firmware
starts, after a restart, and when the backlog of replies falls below 256 (02 R51; 11 R286; 17 R435). -/

namespace Sys2Proof.Machine

/-- A packet by its opcode. -/
def takePacket (op : Nat) (p : Packet) (s : State) : State :=
  match op with
  | 0x0000 => openServe p s
  | 0x0001 => closeServe p s
  | 0x0002 => pingServe p s
  | 0x0003 => schedCancelServe p s
  | 0x0004 => resendServe p s
  | 0x0100 => writeServe p s
  | 0x0101 => readServe p s
  | 0x0102 => stageServe p s
  | 0x0103 => commitServe p s
  | 0x0200 => acqStatusServe p s
  | 0x0201 => acqReadServe p s
  | 0x0300 => injectServe p s
  | 0x0301 => cancelServe p s
  | 0x0302 => simulServe p s
  | 0x0303 => simulStopServe p s
  | 0x0400 => calServe p s
  | 0x0401 => abortServe p s
  | 0x0402 => compareServe p s
  | 0x0403 => extServe p s
  | 0x0404 => sealOpenServe p s
  | 0x0405 => sealCloseServe p s
  | 0x0406 => memberServe p s
  | 0x0407 => exportServe p s
  | 0x0500 => timeGet p s
  | 0x0501 => timeSetServe p s
  | 0x0502 => rebaseServe p s
  | 0x0503 => iuArmServe p s
  | 0x0504 => iuDisarmServe p s
  | 0x0600 => trgArmServe p s
  | 0x0601 => trgDisarmServe p s
  | 0x0602 => markServe p s
  | 0x0603 => maskLoadServe p s
  | 0x0604 => groupArmServe p s
  | 0x0605 => groupDisarmServe p s
  | 0x0606 => groupFireServe p s
  | 0x0700 => startServe p s
  | 0x0701 => stopServe p s
  | 0x0702 => flushServe p s
  | 0x0800 => safeStatusServe p s
  | 0x0801 => lockOpenServe p s
  | 0x0802 => lockCloseServe p s
  | 0x0803 => tripResetServe p s
  | 0x0804 => pulseNowServe p s
  | 0x0900 => credAddServe p s
  | 0x0901 => credRevokeServe p s
  | 0x0902 => credListServe p s
  | 0x0903 => jReadServe p s
  | 0x0904 => jMirrorServe p s
  | 0x0905 => jVerifyServe p s
  | 0x0906 => groupKeyServe p s
  | 0x0A00 => logReadServe p s
  | 0x0A01 => faultListServe p s
  | 0x0A02 => faultClearServe p s
  | 0x0A03 => logClearServe p s
  | 0x0A04 => diagServe p s
  | 0x0B00 => fwBeginServe p s
  | 0x0B01 => fwDataServe p s
  | 0x0B02 => fwCommitServe p s
  | 0x0B03 => swapServe p s
  | 0x0B04 => hubResetServe [] p s
  | 0x0B05 => drainServe p s
  | 0x0B06 => reenterServe p s
  | 0x0B07 => ucodeServe p s
  | 0x0B08 => standinServe p s
  | 0x0C00 => eyeScanServe p s
  | 0x0C01 => retrainServe p s
  | 0x0C02 => loopbackServe p s
  | _ => unknownServe op p s

/-- The unread packets, in the order in which they came. -/
def drainUnread (s : State) : State :=
  s.cz.unread.foldl (fun s (x : Nat × Packet) => receive x.1 x.2 (takePacket x.1) s) { s with cz.unread := [] }

/-- IMAGE_SELECT (02 R46, R51). -/
def execImageSelect (at_ : Nat) (s : State) : Host.Outcome State Fault Refusal := .next (drainUnread (imageSelect (s.tick at_)))

/-- CP_RESTART_DONE: `lost` says that the session table failed its CRC (17 R435 to R437). -/
def execCpRestartDone (at_ : Nat) (lost : Bool) (s : State) : Host.Outcome State Fault Refusal :=
  .next (drainUnread (cpDone lost (s.tick at_)))

/-- BAR0_REGISTER_WRITE; a RESUME of RING0 lets its packets go on (11 R278, R279, R286). -/
def execBar0RegisterWrite (at_ off size v : Nat) (full : Bool) (s : State) : Host.Outcome State Fault Refusal :=
  .next (when_ (decide (off = 0x1040)) drainUnread (barWrite off size v full (s.tick at_)))

/-- RING_RESUME; RING0 goes on with the packets that it holds (11 R286, R292). -/
def execRingResume (at_ r : Nat) (s : State) : Host.Outcome State Fault Refusal :=
  .next (when_ (decide (r % 32 = 0)) drainUnread (barWrite (0x1040 + 0x80 * (r % 32)) 4 1 true (s.tick at_)))

/-- D0_RETURN, or Bus Master Enable set again: rings go on where they stopped (11 R286, R294). -/
def execD0Return (at_ : Nat) (s : State) : Host.Outcome State Fault Refusal :=
  .next (drainUnread (if (s.tick at_).host.d3 then { s.tick at_ with host.d3 := false } else { s.tick at_ with host.busMaster := true }))

/-- RING_TRANSFER_COMPLETE: the hub finishes a buffer of a ring; the descriptors are as it fetched them (11 R283, R286). -/
def execRingTransferComplete (at_ r : Nat) (ds : List Descriptor) (s : State) : Host.Outcome State Fault Refusal :=
  .next (when_ (decide (r < 2)) drainUnread (ringTransfer r ds (s.tick at_)))

end Sys2Proof.Machine
end

