-- ==== Sys2Proof/Machine/Dispatch.lean ====
section
/-! DEFINITION. The dispatch: one arm per command, each one direct call of its meaning. -/

namespace Sys2Proof.Machine

def exec (i : Instr) (s : State) : Host.Outcome State Fault Refusal :=
  match i with
  | .powerOn at_ rail fromOff => Sys2Proof.Machine.execPowerOn at_ rail fromOff s
  | .resetRelease at_ high strap ups sramOk test => Sys2Proof.Machine.execResetRelease at_ high strap ups sramOk test s
  | .rootSettlingEnd at_ => Sys2Proof.Machine.execRootSettlingEnd at_ s
  | .resetNAssert at_ low cut => Sys2Proof.Machine.execResetNAssert at_ low cut s
  | .brownout at_ rail cut => Sys2Proof.Machine.execBrownout at_ rail cut s
  | .thermalShutdown at_ cut => Sys2Proof.Machine.execThermalShutdown at_ cut s
  | .thermalRestart at_ high strap ups sramOk test => Sys2Proof.Machine.execThermalRestart at_ high strap ups sramOk test s
  | .lockstepMismatch at_ island cut => Sys2Proof.Machine.execLockstepMismatch at_ island cut s
  | .refInQualified at_ => Sys2Proof.Machine.execRefInQualified at_ s
  | .imageSelect at_ => Sys2Proof.Machine.execImageSelect at_ s
  | .lpddr5TrainingDone at_ rate mib => Sys2Proof.Machine.execLpddr5TrainingDone at_ rate mib s
  | .trunkReached at_ => Sys2Proof.Machine.execTrunkReached at_ s
  | .modulatorsStart at_ => Sys2Proof.Machine.execModulatorsStart at_ s
  | .crownReached at_ => Sys2Proof.Machine.execCrownReached at_ s
  | .streamContinuityEvents at_ => Sys2Proof.Machine.execStreamContinuityEvents at_ s
  | .stageDeadlineOverrun at_ stage => Sys2Proof.Machine.execStageDeadlineOverrun at_ stage s
  | .watchdogExpiry at_ cut => Sys2Proof.Machine.execWatchdogExpiry at_ cut s
  | .imageTrialToGood at_ => Sys2Proof.Machine.execImageTrialToGood at_ s
  | .cpRestartDone at_ lost => Sys2Proof.Machine.execCpRestartDone at_ lost s
  | .mgmtRead at_ addr off n block extra => Sys2Proof.Machine.execMgmtRead at_ addr off n block extra s
  | .mgmtClockLowTimeout at_ => Sys2Proof.Machine.execMgmtClockLowTimeout at_ s
  | .stitchFrameReceive at_ f => Sys2Proof.Machine.execStitchFrameReceive at_ f s
  | .sidebandPollTimeout at_ q => Sys2Proof.Machine.execSidebandPollTimeout at_ q s
  | .sincPeriodClose at_ m => Sys2Proof.Machine.execSincPeriodClose at_ m s
  | .crossingFifoFull at_ crossing q m => Sys2Proof.Machine.execCrossingFifoFull at_ crossing q m s
  | .deskewMeasurement at_ q need => Sys2Proof.Machine.execDeskewMeasurement at_ q need s
  | .sidebandPrepareAck at_ q edge => Sys2Proof.Machine.execSidebandPrepareAck at_ q edge s
  | .prepareDeadline at_ edge => Sys2Proof.Machine.execPrepareDeadline at_ edge s
  | .commitEdge at_ edge => Sys2Proof.Machine.execCommitEdge at_ edge s
  | .fadeEnd at_ n => Sys2Proof.Machine.execFadeEnd at_ n s
  | .excStatusUpdate at_ l => Sys2Proof.Machine.execExcStatusUpdate at_ l s
  | .reversalEdge at_ e => Sys2Proof.Machine.execReversalEdge at_ e s
  | .blankingEnd at_ e sense => Sys2Proof.Machine.execBlankingEnd at_ e sense s
  | .excTripped at_ e cur => Sys2Proof.Machine.execExcTripped at_ e cur s
  | .senseLow at_ e => Sys2Proof.Machine.execSenseLow at_ e s
  | .senseLowExit at_ e => Sys2Proof.Machine.execSenseLowExit at_ e s
  | .testPulseDue at_ e => Sys2Proof.Machine.execTestPulseDue at_ e s
  | .testPulseOpen at_ e sense raw => Sys2Proof.Machine.execTestPulseOpen at_ e sense raw s
  | .testPulseClose at_ e cur sense raw => Sys2Proof.Machine.execTestPulseClose at_ e cur sense raw s
  | .toneScanStart at_ q => Sys2Proof.Machine.execToneScanStart at_ q s
  | .toneScanNow at_ p => Sys2Proof.Machine.execToneScanNow at_ p s
  | .toneCaptureBase at_ p => Sys2Proof.Machine.execToneCaptureBase at_ p s
  | .toneRoundEnd at_ q limited => Sys2Proof.Machine.execToneRoundEnd at_ q limited s
  | .modulatorEndLevelReset at_ q c clocks => Sys2Proof.Machine.execModulatorEndLevelReset at_ q c clocks s
  | .witnessVisitJudge at_ c raw => Sys2Proof.Machine.execWitnessVisitJudge at_ c raw s
  | .witnessCycleEnd at_ q zero ratio => Sys2Proof.Machine.execWitnessCycleEnd at_ q zero ratio s
  | .commonCauseTestDone at_ q agnd vref ratio zero => Sys2Proof.Machine.execCommonCauseTestDone at_ q agnd vref ratio zero s
  | .convInject at_ p => Sys2Proof.Machine.execConvInject at_ p s
  | .convInjectCancel at_ p => Sys2Proof.Machine.execConvInjectCancel at_ p s
  | .injectComplete at_ id => Sys2Proof.Machine.execInjectComplete at_ id s
  | .injectTimeout at_ id => Sys2Proof.Machine.execInjectTimeout at_ id s
  | .witSimulStart at_ p => Sys2Proof.Machine.execWitSimulStart at_ p s
  | .witSimulStop at_ p => Sys2Proof.Machine.execWitSimulStop at_ p s
  | .witSimulDurationEnd at_ => Sys2Proof.Machine.execWitSimulDurationEnd at_ s
  | .simultaneousFrame at_ start l => Sys2Proof.Machine.execSimultaneousFrame at_ start l s
  | .handoverToMainPath at_ p => Sys2Proof.Machine.execHandoverToMainPath at_ p s
  | .handoverOverlapEnd at_ p => Sys2Proof.Machine.execHandoverOverlapEnd at_ p s
  | .outputSampleProduce at_ n => Sys2Proof.Machine.execOutputSampleProduce at_ n s
  | .folioFlushTimer at_ n => Sys2Proof.Machine.execFolioFlushTimer at_ n s
  | .streamRunning at_ n => Sys2Proof.Machine.execStreamRunning at_ n s
  | .stallResume at_ n => Sys2Proof.Machine.execStallResume at_ n s
  | .storeScrub at_ corrected l => Sys2Proof.Machine.execStoreScrub at_ corrected l s
  | .storeFailure at_ => Sys2Proof.Machine.execStoreFailure at_ s
  | .dmaStagingRead at_ r seq corrected hits => Sys2Proof.Machine.execDmaStagingRead at_ r seq corrected hits s
  | .fullComparisonDue at_ q => Sys2Proof.Machine.execFullComparisonDue at_ q s
  | .quickComparisonDue at_ q => Sys2Proof.Machine.execQuickComparisonDue at_ q s
  | .comparisonComplete at_ q l => Sys2Proof.Machine.execComparisonComplete at_ q l s
  | .warmingStateAdvance at_ q island steady => Sys2Proof.Machine.execWarmingStateAdvance at_ q island steady s
  | .heaterFault at_ q absent departed => Sys2Proof.Machine.execHeaterFault at_ q absent departed s
  | .heaterRegained at_ q => Sys2Proof.Machine.execHeaterRegained at_ q s
  | .calTemperatureTrigger at_ c => Sys2Proof.Machine.execCalTemperatureTrigger at_ c s
  | .calAgeTrigger at_ c => Sys2Proof.Machine.execCalAgeTrigger at_ c s
  | .channelCalGrant at_ q => Sys2Proof.Machine.execChannelCalGrant at_ q s
  | .channelCalResult at_ c sweep drop => Sys2Proof.Machine.execChannelCalResult at_ c sweep drop s
  | .safetyCalRefused at_ c => Sys2Proof.Machine.execSafetyCalRefused at_ c s
  | .witnessCalibrationDue at_ q zero dac1 dac16 ratio vref => Sys2Proof.Machine.execWitnessCalibrationDue at_ q zero dac1 dac16 ratio vref s
  | .extStdQuireDone at_ q u => Sys2Proof.Machine.execExtStdQuireDone at_ q u s
  | .plannerDueWarn at_ q r => Sys2Proof.Machine.execPlannerDueWarn at_ q r s
  | .plannerDue at_ q r => Sys2Proof.Machine.execPlannerDue at_ q r s
  | .dailyRingRecord at_ => Sys2Proof.Machine.execDailyRingRecord at_ s
  | .calChannel at_ p => Sys2Proof.Machine.execCalChannel at_ p s
  | .calAbort at_ p => Sys2Proof.Machine.execCalAbort at_ p s
  | .ensCompareNow at_ p => Sys2Proof.Machine.execEnsCompareNow at_ p s
  | .calExtStd at_ p => Sys2Proof.Machine.execCalExtStd at_ p s
  | .calSealOpen at_ p => Sys2Proof.Machine.execCalSealOpen at_ p s
  | .calSealClose at_ p => Sys2Proof.Machine.execCalSealClose at_ p s
  | .ensMemberSet at_ p => Sys2Proof.Machine.execEnsMemberSet at_ p s
  | .ringExport at_ p => Sys2Proof.Machine.execRingExport at_ p s
  | .refInLost at_ => Sys2Proof.Machine.execRefInLost at_ s
  | .refInRelock at_ => Sys2Proof.Machine.execRefInRelock at_ s
  | .reAnchor at_ => Sys2Proof.Machine.execReAnchor at_ s
  | .ptpMessageReceive at_ p raw phase tr b => Sys2Proof.Machine.execPtpMessageReceive at_ p raw phase tr b s
  | .offsetMeasurement at_ x e => Sys2Proof.Machine.execOffsetMeasurement at_ x e s
  | .jumpPersistExpiry at_ => Sys2Proof.Machine.execJumpPersistExpiry at_ s
  | .sourceLost at_ x => Sys2Proof.Machine.execSourceLost at_ x s
  | .holdoverExpiry at_ => Sys2Proof.Machine.execHoldoverExpiry at_ s
  | .firstLockEdge at_ => Sys2Proof.Machine.execFirstLockEdge at_ s
  | .rebaseEdge at_ => Sys2Proof.Machine.execRebaseEdge at_ s
  | .timeCtrlWrite at_ p => Sys2Proof.Machine.execTimeCtrlWrite at_ p s
  | .ptpPortWrite at_ p => Sys2Proof.Machine.execPtpPortWrite at_ p s
  | .skaingTimeSend at_ x => Sys2Proof.Machine.execSkaingTimeSend at_ x s
  | .evtEdgeStamp at_ pin rise fine => Sys2Proof.Machine.execEvtEdgeStamp at_ pin rise fine s
  | .iuWindowEnd at_ u => Sys2Proof.Machine.execIuWindowEnd at_ u s
  | .iuHoldoffEnd at_ u => Sys2Proof.Machine.execIuHoldoffEnd at_ u s
  | .timeGet at_ p => Sys2Proof.Machine.execTimeGet at_ p s
  | .timeSetInitial at_ p => Sys2Proof.Machine.execTimeSetInitial at_ p s
  | .timeRebase at_ p => Sys2Proof.Machine.execTimeRebase at_ p s
  | .iuArm at_ p => Sys2Proof.Machine.execIuArm at_ p s
  | .iuDisarm at_ p => Sys2Proof.Machine.execIuDisarm at_ p s
  | .sequencerEvaluate at_ k => Sys2Proof.Machine.execSequencerEvaluate at_ k s
  | .sequencerIdle at_ k => Sys2Proof.Machine.execSequencerIdle at_ k s
  | .bookmarkEmit at_ => Sys2Proof.Machine.execBookmarkEmit at_ s
  | .bookmarkFolioClose at_ => Sys2Proof.Machine.execBookmarkFolioClose at_ s
  | .markRateSecondEnd at_ => Sys2Proof.Machine.execMarkRateSecondEnd at_ s
  | .groupMessageReceive at_ port sender hdr body mac crcOk => Sys2Proof.Machine.execGroupMessageReceive at_ port sender hdr body mac crcOk s
  | .oneShotDecision at_ => Sys2Proof.Machine.execOneShotDecision at_ s
  | .firesDroppedReport at_ => Sys2Proof.Machine.execFiresDroppedReport at_ s
  | .captureRelease at_ n => Sys2Proof.Machine.execCaptureRelease at_ n s
  | .trgArm at_ p => Sys2Proof.Machine.execTrgArm at_ p s
  | .trgDisarm at_ p => Sys2Proof.Machine.execTrgDisarm at_ p s
  | .trgMark at_ p => Sys2Proof.Machine.execTrgMark at_ p s
  | .trgMaskLoad at_ p => Sys2Proof.Machine.execTrgMaskLoad at_ p s
  | .groupArm at_ p => Sys2Proof.Machine.execGroupArm at_ p s
  | .groupDisarm at_ p => Sys2Proof.Machine.execGroupDisarm at_ p s
  | .groupFire at_ p => Sys2Proof.Machine.execGroupFire at_ p s
  | .streamStart at_ p => Sys2Proof.Machine.execStreamStart at_ p s
  | .streamStop at_ p => Sys2Proof.Machine.execStreamStop at_ p s
  | .streamFlush at_ p => Sys2Proof.Machine.execStreamFlush at_ p s
  | .bar0RegisterWrite at_ off size v full => Sys2Proof.Machine.execBar0RegisterWrite at_ off size v full s
  | .bar0LoRead at_ off size => Sys2Proof.Machine.execBar0LoRead at_ off size s
  | .ringDoorbell at_ r tail => Sys2Proof.Machine.execRingDoorbell at_ r tail s
  | .ringTransferComplete at_ r ds => Sys2Proof.Machine.execRingTransferComplete at_ r ds s
  | .ringFault at_ r code offset addr => Sys2Proof.Machine.execRingFault at_ r code offset addr s
  | .ringAckWrite at_ r seq => Sys2Proof.Machine.execRingAckWrite at_ r seq s
  | .ringResume at_ r => Sys2Proof.Machine.execRingResume at_ r s
  | .ringDiscard at_ r => Sys2Proof.Machine.execRingDiscard at_ r s
  | .ringEnable at_ r log2 => Sys2Proof.Machine.execRingEnable at_ r log2 s
  | .ringDisable at_ r => Sys2Proof.Machine.execRingDisable at_ r s
  | .windowEnable at_ w wr rd log2 => Sys2Proof.Machine.execWindowEnable at_ w wr rd log2 s
  | .windowDisable at_ w busy => Sys2Proof.Machine.execWindowDisable at_ w busy s
  | .windowBusyClear at_ w => Sys2Proof.Machine.execWindowBusyClear at_ w s
  | .interruptModerationTimer at_ r => Sys2Proof.Machine.execInterruptModerationTimer at_ r s
  | .msixUnmask at_ v fmask => Sys2Proof.Machine.execMsixUnmask at_ v fmask s
  | .pcieLinkDown at_ => Sys2Proof.Machine.execPcieLinkDown at_ s
  | .pcieHotReset at_ => Sys2Proof.Machine.execPcieHotReset at_ s
  | .d3hotEntry at_ d3 => Sys2Proof.Machine.execD3hotEntry at_ d3 s
  | .d0Return at_ => Sys2Proof.Machine.execD0Return at_ s
  | .recoveryGo at_ target => Sys2Proof.Machine.execRecoveryGo at_ target s
  | .recoveryDone at_ image left outcome percent => Sys2Proof.Machine.execRecoveryDone at_ image left outcome percent s
  | .laneLockLoss at_ l => Sys2Proof.Machine.execLaneLockLoss at_ l s
  | .pcieLinkReform at_ rev => Sys2Proof.Machine.execPcieLinkReform at_ rev s
  | .singleLaneLinkDown at_ l => Sys2Proof.Machine.execSingleLaneLinkDown at_ l s
  | .linkTrainingDone at_ l rate fec width => Sys2Proof.Machine.execLinkTrainingDone at_ l rate fec width s
  | .noPartnerTimeout at_ l => Sys2Proof.Machine.execNoPartnerTimeout at_ l s
  | .trainingFaultTimeout at_ l => Sys2Proof.Machine.execTrainingFaultTimeout at_ l s
  | .standbyWake at_ l seen => Sys2Proof.Machine.execStandbyWake at_ l seen s
  | .standbyReturn at_ l => Sys2Proof.Machine.execStandbyReturn at_ l s
  | .eyeScanDue at_ l => Sys2Proof.Machine.execEyeScanDue at_ l s
  | .eyeScanComplete at_ l m => Sys2Proof.Machine.execEyeScanComplete at_ l m s
  | .loopbackEnd at_ l bitsSeen errors => Sys2Proof.Machine.execLoopbackEnd at_ l bitsSeen errors s
  | .laneEyeScan at_ p => Sys2Proof.Machine.execLaneEyeScan at_ p s
  | .laneRetrain at_ p => Sys2Proof.Machine.execLaneRetrain at_ p s
  | .laneLoopback at_ p => Sys2Proof.Machine.execLaneLoopback at_ p s
  | .ethPortWrite at_ p => Sys2Proof.Machine.execEthPortWrite at_ p s
  | .streamAckDatagram at_ n hdr body mac => Sys2Proof.Machine.execStreamAckDatagram at_ n hdr body mac s
  | .goBackTimer at_ n => Sys2Proof.Machine.execGoBackTimer at_ n s
  | .streamHeartbeat at_ n => Sys2Proof.Machine.execStreamHeartbeat at_ n s
  | .groupMessageRepeat at_ => Sys2Proof.Machine.execGroupMessageRepeat at_ s
  | .skaingLinkFrame at_ x vmin vmax rmax tag crcOk => Sys2Proof.Machine.execSkaingLinkFrame at_ x vmin vmax rmax tag crcOk s
  | .skaingPrbsCheckEnd at_ x errors => Sys2Proof.Machine.execSkaingPrbsCheckEnd at_ x errors s
  | .skaingTimeFrame at_ x role st txp peerTx peerRx qual rx phase crcOk => Sys2Proof.Machine.execSkaingTimeFrame at_ x role st txp peerTx peerRx qual rx phase crcOk s
  | .skaingGroupAck at_ x origin msg gen fireId crcOk => Sys2Proof.Machine.execSkaingGroupAck at_ x origin msg gen fireId crcOk s
  | .skaingDataFrame at_ x b crcOk => Sys2Proof.Machine.execSkaingDataFrame at_ x b crcOk s
  | .skaingCreditFrame at_ x n credits ack crcOk => Sys2Proof.Machine.execSkaingCreditFrame at_ x n credits ack crcOk s
  | .skaingLinkTimeout at_ x => Sys2Proof.Machine.execSkaingLinkTimeout at_ x s
  | .sessionOpen at_ p => Sys2Proof.Machine.execSessionOpen at_ p s
  | .sessionClose at_ p => Sys2Proof.Machine.execSessionClose at_ p s
  | .sessionPing at_ p => Sys2Proof.Machine.execSessionPing at_ p s
  | .schedCancel at_ p => Sys2Proof.Machine.execSchedCancel at_ p s
  | .sessionResend at_ p => Sys2Proof.Machine.execSessionResend at_ p s
  | .pbWrite at_ p => Sys2Proof.Machine.execPbWrite at_ p s
  | .pbRead at_ p => Sys2Proof.Machine.execPbRead at_ p s
  | .pbStage at_ p => Sys2Proof.Machine.execPbStage at_ p s
  | .pbCommit at_ p => Sys2Proof.Machine.execPbCommit at_ p s
  | .sessionKeepaliveExpiry at_ id => Sys2Proof.Machine.execSessionKeepaliveExpiry at_ id s
  | .pendingSessionDiscard at_ id => Sys2Proof.Machine.execPendingSessionDiscard at_ id s
  | .scheduledActionDue at_ => Sys2Proof.Machine.execScheduledActionDue at_ s
  | .acqStatus at_ p => Sys2Proof.Machine.execAcqStatus at_ p s
  | .acqRead at_ p => Sys2Proof.Machine.execAcqRead at_ p s
  | .safeStatus at_ p => Sys2Proof.Machine.execSafeStatus at_ p s
  | .safeLockOpen at_ p => Sys2Proof.Machine.execSafeLockOpen at_ p s
  | .safeLockClose at_ p => Sys2Proof.Machine.execSafeLockClose at_ p s
  | .safeTripReset at_ p => Sys2Proof.Machine.execSafeTripReset at_ p s
  | .safePulseNow at_ p => Sys2Proof.Machine.execSafePulseNow at_ p s
  | .credAdd at_ p => Sys2Proof.Machine.execCredAdd at_ p s
  | .credRevoke at_ p => Sys2Proof.Machine.execCredRevoke at_ p s
  | .credList at_ p => Sys2Proof.Machine.execCredList at_ p s
  | .journalRead at_ p => Sys2Proof.Machine.execJournalRead at_ p s
  | .journalMirror at_ p => Sys2Proof.Machine.execJournalMirror at_ p s
  | .journalVerify at_ p => Sys2Proof.Machine.execJournalVerify at_ p s
  | .journalVerifyDone at_ => Sys2Proof.Machine.execJournalVerifyDone at_ s
  | .groupKeySet at_ p => Sys2Proof.Machine.execGroupKeySet at_ p s
  | .logRead at_ p => Sys2Proof.Machine.execLogRead at_ p s
  | .faultList at_ p => Sys2Proof.Machine.execFaultList at_ p s
  | .faultClear at_ p => Sys2Proof.Machine.execFaultClear at_ p s
  | .logClear at_ p => Sys2Proof.Machine.execLogClear at_ p s
  | .diagStitch at_ p => Sys2Proof.Machine.execDiagStitch at_ p s
  | .fwBegin at_ p => Sys2Proof.Machine.execFwBegin at_ p s
  | .fwEraseDone at_ => Sys2Proof.Machine.execFwEraseDone at_ s
  | .fwData at_ p => Sys2Proof.Machine.execFwData at_ p s
  | .fwCommit at_ p => Sys2Proof.Machine.execFwCommit at_ p s
  | .fwTransferIdleTimeout at_ => Sys2Proof.Machine.execFwTransferIdleTimeout at_ s
  | .fwSwap at_ p => Sys2Proof.Machine.execFwSwap at_ p s
  | .hubReset at_ p ds => Sys2Proof.Machine.execHubReset at_ p ds s
  | .quireDrain at_ p => Sys2Proof.Machine.execQuireDrain at_ p s
  | .quireReenter at_ p => Sys2Proof.Machine.execQuireReenter at_ p s
  | .ucodeLoad at_ p => Sys2Proof.Machine.execUcodeLoad at_ p s
  | .ucodeLoadDone at_ q digest => Sys2Proof.Machine.execUcodeLoadDone at_ q digest s
  | .standinSet at_ p => Sys2Proof.Machine.execStandinSet at_ p s
  | .permanentStandinStart at_ q => Sys2Proof.Machine.execPermanentStandinStart at_ q s
  | .drainEdge at_ q => Sys2Proof.Machine.execDrainEdge at_ q s
  | .quireStop at_ q => Sys2Proof.Machine.execQuireStop at_ q s
  | .reentryModulatorStart at_ q => Sys2Proof.Machine.execReentryModulatorStart at_ q s
  | .reentryReleaseEdge at_ q island held => Sys2Proof.Machine.execReentryReleaseEdge at_ q island held s
  | .safetyEvaluation at_ k => Sys2Proof.Machine.execSafetyEvaluation at_ k s
  | .rootSafetyEvaluation at_ => Sys2Proof.Machine.execRootSafetyEvaluation at_ s
  | .degradedTimerExpiry at_ p => Sys2Proof.Machine.execDegradedTimerExpiry at_ p s
  | .pulseOverdue at_ e => Sys2Proof.Machine.execPulseOverdue at_ e s
  | .tripReadback at_ g a b => Sys2Proof.Machine.execTripReadback at_ g a b s
  | .groupReleaseTimer at_ g => Sys2Proof.Machine.execGroupReleaseTimer at_ g s
  | .safeConfigCheck at_ crcFail => Sys2Proof.Machine.execSafeConfigCheck at_ crcFail s
  | .serviceAuthWrite at_ p => Sys2Proof.Machine.execServiceAuthWrite at_ p s
  | .serviceAuthExpiry at_ => Sys2Proof.Machine.execServiceAuthExpiry at_ s
  | .accessPolicyWrite at_ p => Sys2Proof.Machine.execAccessPolicyWrite at_ p s
  | .coalesceWindowEnd at_ ecode q => Sys2Proof.Machine.execCoalesceWindowEnd at_ ecode q s
  | .coalesceRepeatPeriod at_ ecode q => Sys2Proof.Machine.execCoalesceRepeatPeriod at_ ecode q s
  | .originatorEventSecond at_ => Sys2Proof.Machine.execOriginatorEventSecond at_ s
  | .flapSecondEnd at_ => Sys2Proof.Machine.execFlapSecondEnd at_ s
  | .laneLockRegained at_ l => Sys2Proof.Machine.execLaneLockRegained at_ l s
  | .ptpMessageSend at_ p kind => Sys2Proof.Machine.execPtpMessageSend at_ p kind s
  | .tripToggleEdge at_ g => Sys2Proof.Machine.execTripToggleEdge at_ g s
  | .retentionLapse at_ n => Sys2Proof.Machine.execRetentionLapse at_ n s
  | .unknownOpcodePacket at_ op p => Sys2Proof.Machine.execUnknownOpcodePacket at_ op p s
  | .ethArpNdEcho at_ p kind mac ip target data => Sys2Proof.Machine.execEthArpNdEcho at_ p kind mac ip target data s
  | .skaingKeepaliveSend at_ x => Sys2Proof.Machine.execSkaingKeepaliveSend at_ x s

end Sys2Proof.Machine
end

