-- ==== Sys2Proof/Machine/Package.lean ====
section
/-! DEFINITION. What the balls carry and where the flash's partitions lie (18 R460 to R464, R468). -/

namespace Sys2Proof.Machine

/-- The nets of the package. -/
inductive Net where
  | agnd | dgnd | avp | avn | avdd | htr | htrRtn | dvddQ | vddSp | vddSd | vddio18 | vddqLp | vdd2Lp | nc
  | excSup (q : Nat)
  | ainP (g : Nat) | ainN (g : Nat) | excF (e : Nat) | excS (e : Nat)
  | laneTx (n : Nat) (positive : Bool) | laneRx (n : Nat) (positive : Bool)
  | pcieRefclk (positive : Bool) | refIn | resetN | mgmtScl | mgmtSda | mgmtAddr (i : Nat) | evt (k : Nat)
  | tripN (g : Nat) (b : Bool) | testMode | extStd (positive : Bool) | flashRstN | xspiSck | xspiCsN | xspiDqs | xspiIo (i : Nat)
  | lpDq (m i : Nat) | lpDmi (m b : Nat) | lpRdqs (m b : Nat) (true_ : Bool) | lpWck (m b : Nat) (true_ : Bool)
  | lpCa (m i : Nat) | lpCs (m : Nat) | lpCk (m : Nat) (true_ : Bool) | lpResetN | lpZq
  deriving DecidableEq, Repr

/-- The letters of row names. -/
def rowLetters : List Char :=
  ['A', 'B', 'C', 'D', 'E', 'F', 'G', 'H', 'J', 'K', 'L', 'M', 'N', 'P', 'T', 'U', 'V', 'W', 'Y']

/-- The name of row index i, from 1 (18 R460). -/
def rowName (i : Nat) : List Char :=
  let l := fun n => rowLetters.getD n '?'
  if i ≤ 19 then [l (i - 1)] else if i ≤ 38 then ['A', l (i - 20)] else if i ≤ 57 then ['B', l (i - 39)] else ['C', l (i - 58)]

/-- The package is FB55: the HKA-896; the other variants have an FB45. -/
def isFb55 (p : PartId) : Bool := decide (p.quires = 7)

/-- Rows and columns of the array (18 R459, R460). -/
def arraySize (p : PartId) : Nat := if isFb55 p then 60 else 48

/-- The origin of a quire's field (18 R461). -/
def quireOrigin (p : PartId) (q : Nat) : Nat × Nat :=
  if isFb55 p then ((q / 3) * 18 + 1, (q % 3) * 20 + 1) else ((q / 2) * 18 + 1, (q % 2) * 28 + 1)

/-- Quires whose fields the package has. -/
def fieldCount (p : PartId) : Nat := if isFb55 p then 7 else 4

/-- quire_balls: the row of the inputs, their two columns, the rows of EXC_F and EXC_S, and the column of both (18 R461).
Log entry 123. -/
def quireBalls (p : PartId) (q c : Nat) : Nat × Nat × Nat × Nat × Nat × Nat :=
  let k := c / 4
  let n := c % 4
  let y := (quireOrigin p q).1
  let x := (quireOrigin p q).2
  let i := y + 2 * (k / 4) + n / 2
  let jp := x + 5 * (k % 4) + 3 * (n % 2)
  let f := y + 2 * (k / 4)
  (i, jp, jp + 1, f, f + 1, x + 5 * (k % 4) + 2)

/-- The net at row y and column x of a quire's field, both from 0 (18 R461). -/
def quireNet (q y x : Nat) : Net :=
  let k := 4 * (y / 2) + x / 5
  let t := x % 5
  if t = 2 then (if y % 2 = 0 then .excF (32 * q + k) else .excS (32 * q + k))
  else
    let c := 128 * q + 4 * k + 2 * (y % 2) + t / 3
    if t % 3 = 0 then .ainP c else .ainN c

/-- The net at row s and column t of a quire's supply strip (18 R462). -/
def stripNet (q s t : Nat) : Net :=
  if t = 1 ∨ t = 3 ∨ t = 5 then (if s = 0 then .avp else .avn)
  else if t = 7 ∨ t = 9 then .avdd
  else if t = 11 ∨ t = 12 ∨ t = 13 then .excSup q
  else if t = 15 ∨ t = 16 then .htr
  else if t = 17 then .htrRtn
  else if t = 18 then (if s = 0 then .agnd else .dgnd)
  else if t = 19 then .dvddQ
  else .agnd

/-- Row 3 of the spine's field. -/
def spineRow3 (v : Nat) : Net :=
  if v ≤ 2 then .pcieRefclk (v == 1) else if v = 3 then .dgnd else if v = 4 then .refIn else if v = 5 then .dgnd
  else if v = 6 then .resetN else if v = 7 then .mgmtScl else if v = 8 then .mgmtSda else if v ≤ 10 then .mgmtAddr (v - 9)
  else if v ≤ 18 then .evt (v - 11) else if v ≤ 26 then .tripN ((v - 19) / 2) (v % 2 == 0) else if v = 27 then .testMode
  else if v ≤ 29 then .extStd (v == 28) else if v = 30 then .agnd else if v = 31 then .flashRstN else if v = 32 then .xspiSck
  else if v = 33 then .xspiCsN else if v = 34 then .xspiDqs else .xspiIo (v - 35)

/-- Rows 5 and 6: a byte b of LPDDR5 channel m. -/
def spineByte (m b w : Nat) : Net :=
  if w ≤ 8 then .lpDq m (8 * b + w - 1) else if w = 9 then .lpDmi m b else if w ≤ 11 then .lpRdqs m b (w == 10)
  else if w ≤ 13 then .lpWck m b (w == 12) else if w % 2 = 0 then .vddqLp else .dgnd

/-- Row 7: command and address of LPDDR5 channel m. -/
def spineCommand (m w : Nat) : Net :=
  if w ≤ 7 then .lpCa m (w - 1) else if w = 8 then .lpCs m else if w ≤ 10 then .lpCk m (w == 9)
  else if w = 11 then (if m = 0 then .lpResetN else .nc) else if w = 12 then (if m = 0 then .lpZq else .nc)
  else if w % 2 = 0 then .vdd2Lp else .dgnd

/-- The net at local row u and column v of the spine's field, both from 1 (18 R463). -/
def spineNet (u v : Nat) : Net :=
  let m := (v - 1) / 20
  let w := (v - 1) % 20 + 1
  let n := (v - 1) / 5
  match u with
  | 1 => (match (v - 1) % 5 with
    | 0 => .laneTx n true
    | 1 => .laneTx n false
    | 2 => .dgnd
    | 3 => .laneRx n true
    | _ => .laneRx n false)
  | 3 => spineRow3 v
  | 4 => if v ≤ 2 then .xspiIo (v + 5) else if v % 2 = 1 then .vddio18 else .dgnd
  | 5 => spineByte m 0 w
  | 6 => spineByte m 1 w
  | 7 => spineCommand m w
  | 8 => if v % 2 = 0 then .vddqLp else .dgnd
  | 9 => .vddSd
  | 11 => .vddSp
  | _ => .dgnd

/-- The quire whose field or supply strip holds a ball, with the ball's place in them. -/
def quirePlace (p : PartId) (i j : Nat) : Option (Nat × Nat × Nat) :=
  ((List.range (fieldCount p)).find? fun q =>
    let o := quireOrigin p q
    decide (o.1 ≤ i ∧ i < o.1 + 18 ∧ o.2 ≤ j ∧ j < o.2 + 20)).map fun q => (q, i - (quireOrigin p q).1, j - (quireOrigin p q).2)

/-- The spine's local row and column of a ball. -/
def spinePlace (p : PartId) (i j : Nat) : Option (Nat × Nat) :=
  let top := if isFb55 p then 61 else 49
  let left := if isFb55 p then 20 else 4
  if top - 12 ≤ i ∧ i < top ∧ left < j ∧ j ≤ left + 40 then some (top - i, j - left) else none

/-- The net of the ball at row i and column j, both from 1; NC where the variant has no such quire (18 R461 to R464). -/
def ballNet (p : PartId) (i j : Nat) : Net :=
  match quirePlace p i j with
  | some (q, y, x) => if p.quires ≤ q then .nc else if y < 16 then quireNet q y x else stripNet q (y - 16) x
  | none =>
    match spinePlace p i j with
    | some (u, v) => spineNet u v
    | none => if (i + j) % 2 = 0 then .dgnd else .vddSp

/-- The flash's partitions: FW_A, FW_B, QUIRE_UCODE, SAFE, KEYS, CAL, JOURNAL, RING, each with its offset and size (18 R468). -/
def flashMap : List (Nat × Nat) :=
  [(0x00000000, 4 * 2 ^ 20), (0x00400000, 4 * 2 ^ 20), (0x00800000, 256 * 2 ^ 10), (0x00840000, 64 * 2 ^ 10),
   (0x00850000, 64 * 2 ^ 10), (0x00860000, 2 ^ 20), (0x00960000, 8 * 2 ^ 20), (0x01160000, 12 * 2 ^ 20)]

end Sys2Proof.Machine
end

