-- ==== Sys2Proof/WellFormed.lean ====
section
/-! DEFINITION. Which commands the outside world can send: operands within the numbers that the spec gives the parts they name.
An operand that these checks let through may still name what a variant does not populate; the meaning deals with that. -/

namespace Sys2Proof

/-- Numbers of quires, channels, excitation groups (01 R27), rings, streams (10 R257), host windows (11 R287). -/
def quireOk (q : Nat) : Bool := decide (q < 7)
def chanOk (c : Nat) : Bool := decide (c < 896)
def groupOk (e : Nat) : Bool := decide (e < 224)
def ringOk (r : Nat) : Bool := decide (r < 32)
def streamOk (n : Nat) : Bool := decide (4 ≤ n ∧ n < 32)
def windowOk (w : Nat) : Bool := decide (w < 64)

/-- Safety pairs (15 R372), lanes and Skaing endpoints (12 R297), Ethernet ports, interval units (08 R217), sequencers
(09 R225), supply rails (02 R54), sources of time (08 R199). -/
def pairOk (p : Nat) : Bool := decide (p < 64)
def laneOk (l : Nat) : Bool := decide (l < 8)
def endpointOk (x : Nat) : Bool := decide (x < 2)
def portOk (p : Nat) : Bool := decide (p < 2)
def unitOk (u : Nat) : Bool := decide (u < 4)
def seqOk (k : Nat) : Bool := decide (k < 8)
def railOk (r : Nat) : Bool := decide (1 ≤ r ∧ r ≤ 9)
def sourceOk (x : Nat) : Bool := decide (1 ≤ x ∧ x ≤ 4)

/-- Widths of words. -/
def word16 (v : Nat) : Bool := decide (v < 2 ^ 16)
def word32 (v : Nat) : Bool := decide (v < 2 ^ 32)
def word64 (v : Nat) : Bool := decide (v < 2 ^ 64)

/-- An access of BAR0: 4 or 8 bytes within its 64 KiB (11 R278). -/
def barOk (off size : Nat) : Bool := decide (off < 2 ^ 16) && decide (size = 4 ∨ size = 8)

/-- A coalesced event of a quire (16 R418). -/
def coalOk (ecode q : Nat) : Bool := word16 ecode && quireOk q

/-- A packet: a header of 16 bytes, parameters, and a trailer of 32 bytes or none; an address that fits its port (13 R321). -/
def packetOk (p : Packet) : Bool :=
  decide (p.port ≤ 2) && (if p.port = 0 then p.source.isEmpty else decide (p.source.length = 4 ∨ p.source.length = 16))
    && word16 p.srcPort && decide (p.major < 256 ∧ p.minor < 256) && word16 p.tag && word32 p.paramLen && word32 p.session
    && word32 p.flags && decide (p.trailer.length = 0 ∨ p.trailer.length = 32)

/-- A raw result of a witness in 10 nV (04 R95): a signed word. -/
def rawOk (v : Int) : Bool := decide (-2 ^ 31 ≤ v ∧ v < 2 ^ 31)

/-- A stitch frame: 508 bytes under a CRC of 32 bits; 32-bit outputs of a quire's modulators (01 R20). -/
def frameOk (f : StitchFrame) : Bool :=
  quireOk f.quire && word16 f.seq && word16 f.ftype && word16 f.period && decide (f.body.length = 508) && word32 f.crc
    && f.outputs.all (fun o => decide (o.1 < 130 ∧ -2 ^ 31 ≤ o.2 ∧ o.2 < 2 ^ 31)) && (f.common.all fun k => decide (k < 130))
    && (f.standins.all fun x => chanOk x.1 && x.2.all rawOk) && (f.injected.all fun x => word16 x.1 && rawOk x.2)
    && (match f.temps with | none => true | some t => decide (t.1.length = 3))

/-- A phase in steps of 16 ps within a tick of 2,441.40625 ps (08 R211). -/
def phaseOk (k : Nat) : Bool := decide (k < 153)

/-- A descriptor of 32 bytes (11 R282). -/
def descriptorOk (d : Descriptor) : Bool := word64 d.addr && word32 d.len && decide (d.dflags < 256)

/-- A codeword of a slot: one of two copies, 16 words each (10 R264). -/
def eccOk (h : EccHit) : Bool := decide (h.copy < 2) && decide (h.word < 16)

/-- A well-formed command. -/
def Instr.wf : Instr → Bool
  | .powerOn _ rail _ => railOk rail
  | .resetRelease _ _ strap ups _ _ => decide (strap < 4) && ups.all quireOk
  | .rootSettlingEnd _ => true
  | .resetNAssert _ _ _ => true
  | .brownout _ rail _ => railOk rail
  | .thermalShutdown _ _ => true
  | .thermalRestart _ _ strap ups _ _ => decide (strap < 4) && ups.all quireOk
  | .lockstepMismatch _ _ _ => true
  | .refInQualified _ => true
  | .imageSelect _ => true
  | .lpddr5TrainingDone _ rate _ => decide (rate < 3)
  | .trunkReached _ => true
  | .modulatorsStart _ => true
  | .crownReached _ => true
  | .streamContinuityEvents _ => true
  | .stageDeadlineOverrun _ stage => decide (1 ≤ stage ∧ stage ≤ 3)
  | .watchdogExpiry _ _ => true
  | .imageTrialToGood _ => true
  | .cpRestartDone _ _ => true
  | .mgmtRead _ addr off _ _ _ => decide (addr < 128) && decide (off < 256)
  | .mgmtClockLowTimeout _ => true
  | .stitchFrameReceive _ f => frameOk f
  | .sidebandPollTimeout _ q => quireOk q
  | .sincPeriodClose _ _ => true
  | .crossingFifoFull _ _ q _ => quireOk q
  | .deskewMeasurement _ q _ => quireOk q
  | .sidebandPrepareAck _ q _ => quireOk q
  | .prepareDeadline _ _ => true
  | .commitEdge _ _ => true
  | .fadeEnd _ n => streamOk n
  | .excStatusUpdate _ l => (l.all fun (x : Nat × Nat × Nat) => groupOk x.1)
  | .reversalEdge _ e => groupOk e
  | .blankingEnd _ e _ => groupOk e
  | .excTripped _ e _ => groupOk e
  | .senseLow _ e => groupOk e
  | .senseLowExit _ e => groupOk e
  | .testPulseDue _ e => groupOk e
  | .testPulseOpen _ e _ raw => groupOk e && decide (raw.length = 4 ∨ raw.length = 8)
  | .testPulseClose _ e _ _ raw => groupOk e && decide (raw.length = 4 ∨ raw.length = 8)
  | .toneScanStart _ q => quireOk q
  | .toneScanNow _ p => packetOk p
  | .toneCaptureBase _ p => packetOk p
  | .toneRoundEnd _ q limited => quireOk q && limited.all chanOk
  | .modulatorEndLevelReset _ q c _ => quireOk q && decide (c < 130)
  | .witnessVisitJudge _ c raw => chanOk c && rawOk raw
  | .witnessCycleEnd _ q zero ratio => quireOk q && rawOk zero && rawOk ratio
  | .commonCauseTestDone _ q agnd vref ratio zero => quireOk q && rawOk agnd && rawOk vref && rawOk ratio && rawOk zero
  | .convInject _ p => packetOk p
  | .convInjectCancel _ p => packetOk p
  | .injectComplete _ id => word16 id
  | .injectTimeout _ _ => true
  | .witSimulStart _ p => packetOk p
  | .witSimulStop _ p => packetOk p
  | .witSimulDurationEnd _ => true
  | .simultaneousFrame _ start l => word64 start && (l.all fun (x : Nat × Int) => word16 x.1 && rawOk x.2)
  | .handoverToMainPath _ p => pairOk p
  | .handoverOverlapEnd _ p => pairOk p
  | .outputSampleProduce _ n => streamOk n
  | .folioFlushTimer _ n => streamOk n
  | .streamRunning _ n => streamOk n
  | .stallResume _ n => streamOk n
  | .storeScrub _ _ l => (l.all fun (x : Nat × Nat × EccHit) => streamOk x.1 && eccOk x.2.2)
  | .storeFailure _ => true
  | .dmaStagingRead _ r _ _ hits => ringOk r && hits.all eccOk
  | .fullComparisonDue _ q => quireOk q
  | .quickComparisonDue _ q => quireOk q
  | .comparisonComplete _ q l => quireOk q && decide (l.length = 8)
  | .warmingStateAdvance _ q _ _ => quireOk q
  | .heaterFault _ q _ _ => quireOk q
  | .heaterRegained _ q => quireOk q
  | .calTemperatureTrigger _ c => chanOk c
  | .calAgeTrigger _ c => chanOk c
  | .channelCalGrant _ q => quireOk q
  | .channelCalResult _ c _ _ => chanOk c
  | .safetyCalRefused _ c => chanOk c
  | .witnessCalibrationDue _ q zero dac1 dac16 ratio vref => quireOk q && rawOk zero && rawOk dac1.1 && rawOk dac1.2 && rawOk dac16.1 && rawOk dac16.2 && rawOk ratio && rawOk vref
  | .extStdQuireDone _ q _ => quireOk q
  | .plannerDueWarn _ q r => quireOk q && decide (r < 5)
  | .plannerDue _ q r => quireOk q && decide (r < 5)
  | .dailyRingRecord _ => true
  | .calChannel _ p => packetOk p
  | .calAbort _ p => packetOk p
  | .ensCompareNow _ p => packetOk p
  | .calExtStd _ p => packetOk p
  | .calSealOpen _ p => packetOk p
  | .calSealClose _ p => packetOk p
  | .ensMemberSet _ p => packetOk p
  | .ringExport _ p => packetOk p
  | .refInLost _ => true
  | .refInRelock _ => true
  | .reAnchor _ => true
  | .ptpMessageReceive _ p _ phase tr _ => portOk p && phaseOk phase && decide (tr < 3)
  | .offsetMeasurement _ x _ => sourceOk x
  | .jumpPersistExpiry _ => true
  | .sourceLost _ x => sourceOk x
  | .holdoverExpiry _ => true
  | .firstLockEdge _ => true
  | .rebaseEdge _ => true
  | .timeCtrlWrite _ p => packetOk p
  | .ptpPortWrite _ p => packetOk p
  | .skaingTimeSend _ x => endpointOk x
  | .evtEdgeStamp _ pin _ _ => decide (pin < 8)
  | .iuWindowEnd _ u => unitOk u
  | .iuHoldoffEnd _ u => unitOk u
  | .timeGet _ p => packetOk p
  | .timeSetInitial _ p => packetOk p
  | .timeRebase _ p => packetOk p
  | .iuArm _ p => packetOk p
  | .iuDisarm _ p => packetOk p
  | .sequencerEvaluate _ k => seqOk k
  | .sequencerIdle _ k => seqOk k
  | .bookmarkEmit _ => true
  | .bookmarkFolioClose _ => true
  | .markRateSecondEnd _ => true
  | .groupMessageReceive _ port _ _ _ _ _ => decide (port < 4)
  | .oneShotDecision _ => true
  | .firesDroppedReport _ => true
  | .captureRelease _ n => streamOk n
  | .trgArm _ p => packetOk p
  | .trgDisarm _ p => packetOk p
  | .trgMark _ p => packetOk p
  | .trgMaskLoad _ p => packetOk p
  | .groupArm _ p => packetOk p
  | .groupDisarm _ p => packetOk p
  | .groupFire _ p => packetOk p
  | .streamStart _ p => packetOk p
  | .streamStop _ p => packetOk p
  | .streamFlush _ p => packetOk p
  | .bar0RegisterWrite _ off size v _ => barOk off size && word64 v
  | .bar0LoRead _ off size => barOk off size
  | .ringDoorbell _ r tail => ringOk r && word16 tail
  | .ringTransferComplete _ r ds => ringOk r && ds.all descriptorOk
  | .ringFault _ r code _ addr => ringOk r && decide (1 ≤ code ∧ code ≤ 7) && word64 addr
  | .ringAckWrite _ r seq => ringOk r && word64 seq
  | .ringResume _ r => ringOk r
  | .ringDiscard _ r => ringOk r
  | .ringEnable _ r log2 => ringOk r && decide (log2 < 16)
  | .ringDisable _ r => ringOk r
  | .windowEnable _ w _ _ log2 => windowOk w && decide (log2 < 64)
  | .windowDisable _ w _ => windowOk w
  | .windowBusyClear _ w => windowOk w
  | .interruptModerationTimer _ r => ringOk r
  | .msixUnmask _ v _ => ringOk v
  | .pcieLinkDown _ => true
  | .pcieHotReset _ => true
  | .d3hotEntry _ _ => true
  | .d0Return _ => true
  | .recoveryGo _ target => decide (target < 4)
  | .recoveryDone _ image left _ percent => decide (image.length ≤ 4194304 ∧ left.length ≤ 4194304 ∧ percent ≤ 100)
  | .laneLockLoss _ l => laneOk l
  | .pcieLinkReform _ _ => true
  | .singleLaneLinkDown _ l => laneOk l
  | .linkTrainingDone _ l rate _ width => laneOk l && decide (4 ≤ l ∨ width = 0 ∨ (1 ≤ rate ∧ rate ≤ 4))
  | .noPartnerTimeout _ l => laneOk l
  | .trainingFaultTimeout _ l => laneOk l
  | .standbyWake _ l _ => laneOk l
  | .standbyReturn _ l => laneOk l
  | .eyeScanDue _ l => laneOk l
  | .eyeScanComplete _ l m => laneOk l && decide (m.length = 1089)
  | .loopbackEnd _ l _ _ => laneOk l
  | .laneEyeScan _ p => packetOk p
  | .laneRetrain _ p => packetOk p
  | .laneLoopback _ p => packetOk p
  | .ethPortWrite _ p => packetOk p
  | .streamAckDatagram _ n _ _ _ => streamOk n
  | .goBackTimer _ n => streamOk n
  | .streamHeartbeat _ n => streamOk n
  | .groupMessageRepeat _ => true
  | .skaingLinkFrame _ x _ _ _ _ _ => endpointOk x
  | .skaingPrbsCheckEnd _ x _ => endpointOk x
  | .skaingTimeFrame _ x _ _ _ _ _ qual _ phase _ => phaseOk phase && word16 qual && endpointOk x
  | .skaingGroupAck _ x _ _ _ _ _ => endpointOk x
  | .skaingDataFrame _ x _ _ => endpointOk x
  | .skaingCreditFrame _ x _ _ _ _ => endpointOk x
  | .skaingLinkTimeout _ x => endpointOk x
  | .sessionOpen _ p => packetOk p
  | .sessionClose _ p => packetOk p
  | .sessionPing _ p => packetOk p
  | .schedCancel _ p => packetOk p
  | .sessionResend _ p => packetOk p
  | .pbWrite _ p => packetOk p
  | .pbRead _ p => packetOk p
  | .pbStage _ p => packetOk p
  | .pbCommit _ p => packetOk p
  | .sessionKeepaliveExpiry _ id => word32 id
  | .pendingSessionDiscard _ id => word32 id
  | .scheduledActionDue _ => true
  | .acqStatus _ p => packetOk p
  | .acqRead _ p => packetOk p
  | .safeStatus _ p => packetOk p
  | .safeLockOpen _ p => packetOk p
  | .safeLockClose _ p => packetOk p
  | .safeTripReset _ p => packetOk p
  | .safePulseNow _ p => packetOk p
  | .credAdd _ p => packetOk p
  | .credRevoke _ p => packetOk p
  | .credList _ p => packetOk p
  | .journalRead _ p => packetOk p
  | .journalMirror _ p => packetOk p
  | .journalVerify _ p => packetOk p
  | .journalVerifyDone _ => true
  | .groupKeySet _ p => packetOk p
  | .logRead _ p => packetOk p
  | .faultList _ p => packetOk p
  | .faultClear _ p => packetOk p
  | .logClear _ p => packetOk p
  | .diagStitch _ p => packetOk p
  | .fwBegin _ p => packetOk p
  | .fwEraseDone _ => true
  | .fwData _ p => packetOk p
  | .fwCommit _ p => packetOk p
  | .fwTransferIdleTimeout _ => true
  | .fwSwap _ p => packetOk p
  | .hubReset _ p ds => packetOk p && (ds.all fun l => l.all descriptorOk)
  | .quireDrain _ p => packetOk p
  | .quireReenter _ p => packetOk p
  | .ucodeLoad _ p => packetOk p
  | .ucodeLoadDone _ q digest => quireOk q && decide (digest.length = 32)
  | .standinSet _ p => packetOk p
  | .permanentStandinStart _ q => quireOk q
  | .drainEdge _ q => quireOk q
  | .quireStop _ q => quireOk q
  | .reentryModulatorStart _ q => quireOk q
  | .reentryReleaseEdge _ q _ _ => quireOk q
  | .safetyEvaluation _ _ => true
  | .rootSafetyEvaluation _ => true
  | .degradedTimerExpiry _ p => pairOk p
  | .pulseOverdue _ e => groupOk e
  | .tripReadback _ g _ _ => decide (g < 4)
  | .groupReleaseTimer _ g => decide (g < 4)
  | .safeConfigCheck _ _ => true
  | .serviceAuthWrite _ p => packetOk p
  | .serviceAuthExpiry _ => true
  | .accessPolicyWrite _ p => packetOk p
  | .coalesceWindowEnd _ ecode q => coalOk ecode q
  | .coalesceRepeatPeriod _ ecode q => coalOk ecode q
  | .originatorEventSecond _ => true
  | .flapSecondEnd _ => true
  | .laneLockRegained _ l => laneOk l
  | .ptpMessageSend _ p kind => portOk p && decide (kind < 16)
  | .tripToggleEdge _ g => decide (g < 4)
  | .retentionLapse _ n => streamOk n
  | .unknownOpcodePacket _ op p => packetOk p && word16 op
  | .ethArpNdEcho _ p _ mac _ _ data => portOk p && decide (mac.length = 6 ∧ data.length ≤ 9216)
  | .skaingKeepaliveSend _ x => endpointOk x

end Sys2Proof
end

