-- ==== Sys2Proof/Safety.lean ====
section
/-! DEFINITION. What counts as a safe run, and when a packet passes every check, in the terms that the statements use. -/

namespace Sys2Proof.Machine

/-- No TRIP output toggles: every safety group reads as trip (15 R389). -/
def State.allTrip (s : State) : Bool := (List.range 4).all fun g => !(safeGroup s g).toggling

/-- Every TRIP output that toggles belongs to a group that is HEALTHY or DEGRADED (15 R389, R391). -/
def State.tripOk (s : State) : Prop :=
  ∀ g, (safeGroup s g).toggling = true → (safeGroup s g).state = 1 ∨ (safeGroup s g).state = 2

/-- The parameter words and the partitions of images are in their canonical form. -/
def State.canonical (s : State) : Prop :=
  cfgWf s.cfg = true ∧ Memory.wf s.flash.fwA = true ∧ Memory.wf s.flash.fwB = true ∧ Memory.wf s.flash.ucode = true

/-- Nothing but reports differs: events, journal entries, replies and folios change the fault manager, the journal, the command
processor, the host port, the store and what has left the hub. -/
structure Still (s t : State) : Prop where
  part : t.part = s.part
  time : t.time = s.time
  ptp : t.ptp = s.ptp
  evt : t.evt = s.evt
  iu : t.iu = s.iu
  quires : t.quires = s.quires
  exc : t.exc = s.exc
  tone : t.tone = s.tone
  chans : t.chans = s.chans
  wit : t.wit = s.wit
  conv : t.conv = s.conv
  cal : t.cal = s.cal
  trg : t.trg = s.trg
  group : t.group = s.group
  lanes : t.lanes = s.lanes
  skaing : t.skaing = s.skaing
  safe : t.safe = s.safe
  cfg : t.cfg = s.cfg
  past : t.past = s.past
  now : t.now = s.now
  draw : t.draw = s.draw
  pending : t.pending = s.pending
  flash : { t.flash with journal := s.flash.journal, last := s.flash.last } = s.flash
  boot : { t.boot with startCount := s.boot.startCount } = s.boot

/-! ### Packets that pass every check (13 R327) -/

/-- The command processor takes packets of a port (02 R51; 11 R286). -/
abbrev takesPackets (p : Packet) (s : State) : Prop :=
  s.boot.fwRuns ∧ s.boot.restart = none ∧ fetches s p = true

/-- The session that a packet names on its port. -/
def packetSession (p : Packet) (s : State) : Option Session :=
  s.cz.sessions.find? fun v => v.id == p.session && v.port == p.port

/-- The state after checks 1 to 5: the packet's arrival noted, its tag seen and owed (13 R333 to R335). -/
def seenState (p : Packet) (v : Session) (s : State) : State :=
  onSession v.id (fun x => { seeTag x p.tag with owed := p.tag % 65536 :: x.owed })
    (onSession v.id (fun x => { x with lastPacket := s.now }) s)

/-- The state in which an accepted command acts: a PENDING session has opened (13 R329). -/
def takenState (p : Packet) (v : Session) (s : State) : State :=
  onSession v.id (fun x => { x with pending := none }) (seenState p v s)

/-- The apply-at time of a packet has passed (13 R344). -/
def lateAt (op : Nat) (p : Packet) (v : Session) (s : State) : Bool := isLate (mkReq op p v s) s

/-- The request that an accepted command runs with. -/
def request (op : Nat) (p : Packet) (v : Session) (s : State) : Req :=
  let r := mkReq op p v s
  if lateAt op p v s then { r with ranLate := true, ranAt := stampNow s, applyAt := none } else r

/-- Check 6 on: what the opcode table, the role, the stage, the parameters, the tags and the journal ask. -/
abbrev commandOk (row : OpRow) (op : Nat) (p : Packet) (need : Req → State → Nat) (ok : Req → State → Bool) (v : Session)
    (s : State) : Prop :=
  let r := mkReq op p v s
  let t := seenState p v s
  definedIn row v.major v.minor = true ∧ meets v.role (need r t) = true ∧ (row.trunk || inCrown t) = true
    ∧ (flagsOk row p v t && ok r t) = true ∧ ¬ (lateAt op p v s = true ∧ r.runNow = false)
    ∧ ¬ 64 < (((session? (takenState p v s) v.id).map (·.owed.length)).getD 0)
    ∧ ¬ (row.journaled = true ∧ s.jrn.failed = true ∧ op ≠ 0x0B04)

/-- A packet of session v passes the twelve checks (13 R327). -/
def Accepted (op : Nat) (p : Packet) (need : Req → State → Nat) (ok : Req → State → Bool) (v : Session) (s : State) : Prop :=
  takesPackets p s ∧ lengthOk p = true ∧ packetSession p s = some v
    ∧ ((v.trailer && !bit 3 p.flags) || (bit 3 p.flags && hmac v.key (packetBytes op p) != p.trailer)) = false
    ∧ judgeTag v p.tag ≤ 1 ∧ p.major = v.major ∧ p.minor = v.minor
    ∧ ∃ row, opRow op = some row ∧ commandOk row op p need ok v s

/-! ### The host's check of a run (10 R273) -/

/-- A folio of a run as the host holds it, one copy for each SEQ: a data folio with its range of indices and the words marked
D, or the records of a GAP or DISCONTINUITY folio. -/
structure HostFolio where
  seq : Nat
  /-- 0 data, 1 GAP, 2 DISCONTINUITY. -/
  kind : Nat
  first : Nat
  last : Nat
  dWords : Nat
  gaps : List GapRec
  discs : List DiscRec
  deriving DecidableEq, Repr

/-- The account of a run: NOT_DELIVERED, DEGRADED, SKIPPED, RETIRED and D_WORDS. -/
structure RunTotals where
  notDelivered : Nat
  degraded : Nat
  skipped : Nat
  retired : Nat
  dWords : Nat
  deriving DecidableEq, Repr

/-- The folios of a run of a dense stream with `slots` words an index. -/
structure HostRun where
  slots : Nat
  firstSeq : Nat
  finalSeq : Nat
  firstIndex : Nat
  stopLast : Nat
  folios : List HostFolio
  deriving DecidableEq, Repr

def HostRun.gaps (r : HostRun) : List GapRec := r.folios.flatMap (·.gaps)

/-- A sequence number is named by a GAP record as retired. -/
def HostRun.retiredIn (r : HostRun) (q : Nat) : Bool :=
  r.gaps.any fun g => decide (g.retiredFirst ≤ q ∧ q < g.retiredFirst + g.retiredCount)

/-- Check 1: every sequence number is received or retired. -/
def HostRun.seqsOk (r : HostRun) : Bool :=
  (List.range (r.finalSeq + 1 - r.firstSeq)).all fun i =>
    r.folios.any (fun f => decide (f.seq = r.firstSeq + i)) || r.retiredIn (r.firstSeq + i)

/-- A re-base skips an index: it lies between OLD_LAST and INDEX of a TIME_REBASE record. -/
def HostRun.skips (r : HostRun) (n : Nat) : Bool :=
  r.folios.any fun f => f.discs.any fun d => decide (d.dkind = 1 ∧ d.oldLast < n ∧ n < d.index)

/-- A record names the word of an index and a slot. -/
def gapNames (g : GapRec) (n slot : Nat) : Bool :=
  decide ((g.first < n ∨ (g.first = n ∧ g.firstSlot ≤ slot)) ∧ (n < g.last ∨ (n = g.last ∧ slot ≤ g.lastSlot)))

/-- count_cover: the data folios and the NOT_DELIVERED records that account for a word. -/
def HostRun.cover (r : HostRun) (n slot : Nat) : Nat :=
  (r.folios.filter fun f => decide (f.kind = 0 ∧ f.first ≤ n ∧ n ≤ f.last)).length
    + (r.gaps.filter fun g => decide (g.disposition = 0) && gapNames g n slot).length

/-- Check 2: every word is delivered, named, or never existed. -/
def HostRun.wordsOk (r : HostRun) : Bool :=
  (List.range (r.stopLast + 1 - r.firstIndex)).all fun i =>
    r.skips (r.firstIndex + i) || (List.range r.slots).all fun k => decide (r.cover (r.firstIndex + i) k = 1)

/-- Words that a record names: whole indices between its ends, and the slots of the ends. -/
def HostRun.wordsOf (r : HostRun) (g : GapRec) : Nat :=
  if g.channels = 0 then (g.last - g.first) * r.slots + g.lastSlot + 1 - g.firstSlot
  else (g.last + 1 - g.first) * g.channels

/-- What the host has counted. -/
def HostRun.totals (r : HostRun) : RunTotals :=
  let sum := fun (d : Nat) => total ((r.gaps.filter fun g => decide (g.disposition = d)).map r.wordsOf)
  { notDelivered := sum 0, degraded := sum 1,
    skipped := total (r.folios.map fun f => total ((f.discs.filter fun d => decide (d.dkind = 1)).map fun d => d.index - d.oldLast - 1)),
    retired := total (r.gaps.map (·.retiredCount)), dWords := total (r.folios.map (·.dWords)) }

/-- run_complete: the three checks, against the ledger as read after the FINAL folio (10 R273). -/
def HostRun.complete (r : HostRun) (ledger : RunTotals) : Bool := r.seqsOk && r.wordsOk && decide (r.totals = ledger)

/-- The ledger's side of the account (10 R272). -/
def ledgerTotals (s : State) (n : Nat) : RunTotals :=
  let st := stream s n
  { notDelivered := st.notDelivered, degraded := st.degraded, skipped := st.skipped, retired := st.retiredCount, dWords := st.dWords }

end Sys2Proof.Machine
end

