-- ==== Sys2Proof/Certificates/Slice0/Obligations.lean ====
section
/-! DEFINITION. The statements for the provers. Each clause of a statement is about one command or one operation; `s` is the
state before the command and `u` that state at the command's instant. -/

open Sys2Proof Sys2Proof.Machine

/-- A step takes the command at the front, and an empty queue idles (log entry 4). -/
def Obligations.StepRunsFrontCommand : Prop :=
  (∀ (s : State), s.pending = [] → step s = .next s)
  ∧ (
    ∀ (c : Instr) (rest : List Instr) (s : State),
        step { s with pending := c :: rest } = exec c { s with pending := rest })

/-- Every command completes, each constructor named. -/
def Obligations.EveryCommandCompletes : Prop :=
  (∀ (s : State) (at_ : Nat) (rail : Nat) (fromOff : Bool),
    ∀ cmd ∈ ([Instr.powerOn at_ rail fromOff, Instr.resetNAssert at_ rail fromOff, Instr.brownout at_ rail fromOff,
      Instr.windowDisable at_ rail fromOff, Instr.standbyWake at_ rail fromOff] : List Instr),
          ∃ t, exec cmd s = .next t ∧ t.part = s.part ∧ t.pending = s.pending ∧ s.now ≤ t.now ∧ at_ ≤ t.now)
  ∧ (∀ (s : State) (at_ : Nat) (high : Nat) (strap : Nat) (ups : List Nat) (sramOk : Bool) (test : Bool),
    ∀ cmd ∈ ([Instr.resetRelease at_ high strap ups sramOk test, Instr.thermalRestart at_ high strap ups sramOk test]
      : List Instr),
          ∃ t, exec cmd s = .next t ∧ t.part = s.part ∧ t.pending = s.pending ∧ s.now ≤ t.now ∧ at_ ≤ t.now)
  ∧ (∀ (s : State) (at_ : Nat),
    ∀ cmd ∈ ([Instr.rootSettlingEnd at_, Instr.refInQualified at_, Instr.imageSelect at_, Instr.trunkReached at_,
      Instr.modulatorsStart at_, Instr.crownReached at_, Instr.streamContinuityEvents at_, Instr.imageTrialToGood at_,
      Instr.mgmtClockLowTimeout at_, Instr.witSimulDurationEnd at_, Instr.storeFailure at_, Instr.dailyRingRecord at_,
      Instr.refInLost at_, Instr.refInRelock at_, Instr.reAnchor at_, Instr.jumpPersistExpiry at_,
      Instr.holdoverExpiry at_, Instr.firstLockEdge at_, Instr.rebaseEdge at_, Instr.bookmarkEmit at_,
      Instr.bookmarkFolioClose at_, Instr.markRateSecondEnd at_, Instr.oneShotDecision at_, Instr.firesDroppedReport
      at_, Instr.pcieLinkDown at_, Instr.pcieHotReset at_, Instr.d0Return at_, Instr.groupMessageRepeat at_,
      Instr.scheduledActionDue at_, Instr.journalVerifyDone at_, Instr.fwEraseDone at_, Instr.fwTransferIdleTimeout
      at_, Instr.rootSafetyEvaluation at_, Instr.serviceAuthExpiry at_, Instr.originatorEventSecond at_,
      Instr.flapSecondEnd at_] : List Instr),
          ∃ t, exec cmd s = .next t ∧ t.part = s.part ∧ t.pending = s.pending ∧ s.now ≤ t.now ∧ at_ ≤ t.now)
  ∧ (∀ (s : State) (at_ : Nat) (cut : Bool),
    ∀ cmd ∈ ([Instr.thermalShutdown at_ cut, Instr.watchdogExpiry at_ cut, Instr.cpRestartDone at_ cut,
      Instr.d3hotEntry at_ cut, Instr.pcieLinkReform at_ cut, Instr.safeConfigCheck at_ cut] : List Instr),
          ∃ t, exec cmd s = .next t ∧ t.part = s.part ∧ t.pending = s.pending ∧ s.now ≤ t.now ∧ at_ ≤ t.now)
  ∧ (∀ (s : State) (at_ : Nat) (island : Bool) (cut : Bool),
    ∀ cmd ∈ ([Instr.lockstepMismatch at_ island cut] : List Instr),
          ∃ t, exec cmd s = .next t ∧ t.part = s.part ∧ t.pending = s.pending ∧ s.now ≤ t.now ∧ at_ ≤ t.now)
  ∧ (∀ (s : State) (at_ : Nat) (rate : Nat) (mib : Nat),
    ∀ cmd ∈ ([Instr.lpddr5TrainingDone at_ rate mib, Instr.sidebandPrepareAck at_ rate mib, Instr.blankingEnd at_ rate
      mib, Instr.excTripped at_ rate mib, Instr.extStdQuireDone at_ rate mib, Instr.plannerDueWarn at_ rate mib,
      Instr.plannerDue at_ rate mib, Instr.bar0LoRead at_ rate mib, Instr.ringDoorbell at_ rate mib,
      Instr.ringAckWrite at_ rate mib, Instr.ringEnable at_ rate mib, Instr.skaingPrbsCheckEnd at_ rate mib,
      Instr.coalesceWindowEnd at_ rate mib, Instr.coalesceRepeatPeriod at_ rate mib, Instr.ptpMessageSend at_ rate
      mib] : List Instr),
          ∃ t, exec cmd s = .next t ∧ t.part = s.part ∧ t.pending = s.pending ∧ s.now ≤ t.now ∧ at_ ≤ t.now)
  ∧ (∀ (s : State) (at_ : Nat) (stage : Nat),
    ∀ cmd ∈ ([Instr.stageDeadlineOverrun at_ stage, Instr.sidebandPollTimeout at_ stage, Instr.prepareDeadline at_
      stage, Instr.commitEdge at_ stage, Instr.fadeEnd at_ stage, Instr.reversalEdge at_ stage, Instr.senseLow at_
      stage, Instr.senseLowExit at_ stage, Instr.testPulseDue at_ stage, Instr.toneScanStart at_ stage,
      Instr.injectComplete at_ stage, Instr.injectTimeout at_ stage, Instr.handoverToMainPath at_ stage,
      Instr.handoverOverlapEnd at_ stage, Instr.outputSampleProduce at_ stage, Instr.folioFlushTimer at_ stage,
      Instr.streamRunning at_ stage, Instr.stallResume at_ stage, Instr.fullComparisonDue at_ stage,
      Instr.quickComparisonDue at_ stage, Instr.heaterRegained at_ stage, Instr.calTemperatureTrigger at_ stage,
      Instr.calAgeTrigger at_ stage, Instr.channelCalGrant at_ stage, Instr.safetyCalRefused at_ stage,
      Instr.sourceLost at_ stage, Instr.skaingTimeSend at_ stage, Instr.iuWindowEnd at_ stage, Instr.iuHoldoffEnd at_
      stage, Instr.sequencerEvaluate at_ stage, Instr.sequencerIdle at_ stage, Instr.captureRelease at_ stage,
      Instr.ringResume at_ stage, Instr.ringDiscard at_ stage, Instr.ringDisable at_ stage, Instr.windowBusyClear at_
      stage, Instr.interruptModerationTimer at_ stage, Instr.recoveryGo at_ stage, Instr.laneLockLoss at_ stage,
      Instr.singleLaneLinkDown at_ stage, Instr.noPartnerTimeout at_ stage, Instr.trainingFaultTimeout at_ stage,
      Instr.standbyReturn at_ stage, Instr.eyeScanDue at_ stage, Instr.goBackTimer at_ stage, Instr.streamHeartbeat
      at_ stage, Instr.skaingLinkTimeout at_ stage, Instr.sessionKeepaliveExpiry at_ stage,
      Instr.pendingSessionDiscard at_ stage, Instr.permanentStandinStart at_ stage, Instr.drainEdge at_ stage,
      Instr.quireStop at_ stage, Instr.reentryModulatorStart at_ stage, Instr.safetyEvaluation at_ stage,
      Instr.degradedTimerExpiry at_ stage, Instr.pulseOverdue at_ stage, Instr.groupReleaseTimer at_ stage,
      Instr.laneLockRegained at_ stage, Instr.tripToggleEdge at_ stage, Instr.retentionLapse at_ stage,
      Instr.skaingKeepaliveSend at_ stage] : List Instr),
          ∃ t, exec cmd s = .next t ∧ t.part = s.part ∧ t.pending = s.pending ∧ s.now ≤ t.now ∧ at_ ≤ t.now)
  ∧ (∀ (s : State) (at_ : Nat) (addr : Nat) (off : Nat) (n : Nat) (block : Bool) (extra : Bool),
    ∀ cmd ∈ ([Instr.mgmtRead at_ addr off n block extra] : List Instr),
          ∃ t, exec cmd s = .next t ∧ t.part = s.part ∧ t.pending = s.pending ∧ s.now ≤ t.now ∧ at_ ≤ t.now)
  ∧ (∀ (s : State) (at_ : Nat) (f : StitchFrame),
    ∀ cmd ∈ ([Instr.stitchFrameReceive at_ f] : List Instr),
          ∃ t, exec cmd s = .next t ∧ t.part = s.part ∧ t.pending = s.pending ∧ s.now ≤ t.now ∧ at_ ≤ t.now)
  ∧ (∀ (s : State) (at_ : Nat) (m : Int),
    ∀ cmd ∈ ([Instr.sincPeriodClose at_ m] : List Instr),
          ∃ t, exec cmd s = .next t ∧ t.part = s.part ∧ t.pending = s.pending ∧ s.now ≤ t.now ∧ at_ ≤ t.now)
  ∧ (∀ (s : State) (at_ : Nat) (crossing : Nat) (q : Nat) (m : Int),
    ∀ cmd ∈ ([Instr.crossingFifoFull at_ crossing q m] : List Instr),
          ∃ t, exec cmd s = .next t ∧ t.part = s.part ∧ t.pending = s.pending ∧ s.now ≤ t.now ∧ at_ ≤ t.now)
  ∧ (∀ (s : State) (at_ : Nat) (q : Nat) (need : Int),
    ∀ cmd ∈ ([Instr.deskewMeasurement at_ q need, Instr.witnessVisitJudge at_ q need, Instr.offsetMeasurement at_ q
      need] : List Instr),
          ∃ t, exec cmd s = .next t ∧ t.part = s.part ∧ t.pending = s.pending ∧ s.now ≤ t.now ∧ at_ ≤ t.now)
  ∧ (∀ (s : State) (at_ : Nat) (l : List (Nat × Nat × Nat)),
    ∀ cmd ∈ ([Instr.excStatusUpdate at_ l] : List Instr),
          ∃ t, exec cmd s = .next t ∧ t.part = s.part ∧ t.pending = s.pending ∧ s.now ≤ t.now ∧ at_ ≤ t.now)
  ∧ (∀ (s : State) (at_ : Nat) (e : Nat) (sense : Nat) (raw : List Int),
    ∀ cmd ∈ ([Instr.testPulseOpen at_ e sense raw] : List Instr),
          ∃ t, exec cmd s = .next t ∧ t.part = s.part ∧ t.pending = s.pending ∧ s.now ≤ t.now ∧ at_ ≤ t.now)
  ∧ (∀ (s : State) (at_ : Nat) (e : Nat) (cur : Nat) (sense : Nat) (raw : List Int),
    ∀ cmd ∈ ([Instr.testPulseClose at_ e cur sense raw] : List Instr),
          ∃ t, exec cmd s = .next t ∧ t.part = s.part ∧ t.pending = s.pending ∧ s.now ≤ t.now ∧ at_ ≤ t.now)
  ∧ (∀ (s : State) (at_ : Nat) (p : Packet),
    ∀ cmd ∈ ([Instr.toneScanNow at_ p, Instr.toneCaptureBase at_ p, Instr.convInject at_ p, Instr.convInjectCancel at_
      p, Instr.witSimulStart at_ p, Instr.witSimulStop at_ p, Instr.calChannel at_ p, Instr.calAbort at_ p,
      Instr.ensCompareNow at_ p, Instr.calExtStd at_ p, Instr.calSealOpen at_ p, Instr.calSealClose at_ p,
      Instr.ensMemberSet at_ p, Instr.ringExport at_ p, Instr.timeCtrlWrite at_ p, Instr.ptpPortWrite at_ p,
      Instr.timeGet at_ p, Instr.timeSetInitial at_ p, Instr.timeRebase at_ p, Instr.iuArm at_ p, Instr.iuDisarm at_
      p, Instr.trgArm at_ p, Instr.trgDisarm at_ p, Instr.trgMark at_ p, Instr.trgMaskLoad at_ p, Instr.groupArm at_
      p, Instr.groupDisarm at_ p, Instr.groupFire at_ p, Instr.streamStart at_ p, Instr.streamStop at_ p,
      Instr.streamFlush at_ p, Instr.laneEyeScan at_ p, Instr.laneRetrain at_ p, Instr.laneLoopback at_ p,
      Instr.ethPortWrite at_ p, Instr.sessionOpen at_ p, Instr.sessionClose at_ p, Instr.sessionPing at_ p,
      Instr.schedCancel at_ p, Instr.sessionResend at_ p, Instr.pbWrite at_ p, Instr.pbRead at_ p, Instr.pbStage at_
      p, Instr.pbCommit at_ p, Instr.acqStatus at_ p, Instr.acqRead at_ p, Instr.safeStatus at_ p, Instr.safeLockOpen
      at_ p, Instr.safeLockClose at_ p, Instr.safeTripReset at_ p, Instr.safePulseNow at_ p, Instr.credAdd at_ p,
      Instr.credRevoke at_ p, Instr.credList at_ p, Instr.journalRead at_ p, Instr.journalMirror at_ p,
      Instr.journalVerify at_ p, Instr.groupKeySet at_ p, Instr.logRead at_ p, Instr.faultList at_ p, Instr.faultClear
      at_ p, Instr.logClear at_ p, Instr.diagStitch at_ p, Instr.fwBegin at_ p, Instr.fwData at_ p, Instr.fwCommit at_
      p, Instr.fwSwap at_ p, Instr.quireDrain at_ p, Instr.quireReenter at_ p, Instr.ucodeLoad at_ p, Instr.standinSet
      at_ p, Instr.serviceAuthWrite at_ p, Instr.accessPolicyWrite at_ p] : List Instr),
          ∃ t, exec cmd s = .next t ∧ t.part = s.part ∧ t.pending = s.pending ∧ s.now ≤ t.now ∧ at_ ≤ t.now)
  ∧ (∀ (s : State) (at_ : Nat) (q : Nat) (limited : List Nat),
    ∀ cmd ∈ ([Instr.toneRoundEnd at_ q limited] : List Instr),
          ∃ t, exec cmd s = .next t ∧ t.part = s.part ∧ t.pending = s.pending ∧ s.now ≤ t.now ∧ at_ ≤ t.now)
  ∧ (∀ (s : State) (at_ : Nat) (q : Nat) (c : Nat) (clocks : Nat),
    ∀ cmd ∈ ([Instr.modulatorEndLevelReset at_ q c clocks, Instr.loopbackEnd at_ q c clocks] : List Instr),
          ∃ t, exec cmd s = .next t ∧ t.part = s.part ∧ t.pending = s.pending ∧ s.now ≤ t.now ∧ at_ ≤ t.now)
  ∧ (∀ (s : State) (at_ : Nat) (q : Nat) (zero : Int) (ratio : Int),
    ∀ cmd ∈ ([Instr.witnessCycleEnd at_ q zero ratio] : List Instr),
          ∃ t, exec cmd s = .next t ∧ t.part = s.part ∧ t.pending = s.pending ∧ s.now ≤ t.now ∧ at_ ≤ t.now)
  ∧ (∀ (s : State) (at_ : Nat) (q : Nat) (agnd : Int) (vref : Int) (ratio : Int) (zero : Int),
    ∀ cmd ∈ ([Instr.commonCauseTestDone at_ q agnd vref ratio zero] : List Instr),
          ∃ t, exec cmd s = .next t ∧ t.part = s.part ∧ t.pending = s.pending ∧ s.now ≤ t.now ∧ at_ ≤ t.now)
  ∧ (∀ (s : State) (at_ : Nat) (start : Nat) (l : List (Nat × Int)),
    ∀ cmd ∈ ([Instr.simultaneousFrame at_ start l] : List Instr),
          ∃ t, exec cmd s = .next t ∧ t.part = s.part ∧ t.pending = s.pending ∧ s.now ≤ t.now ∧ at_ ≤ t.now)
  ∧ (∀ (s : State) (at_ : Nat) (corrected : Nat) (l : List (Nat × Nat × EccHit)),
    ∀ cmd ∈ ([Instr.storeScrub at_ corrected l] : List Instr),
          ∃ t, exec cmd s = .next t ∧ t.part = s.part ∧ t.pending = s.pending ∧ s.now ≤ t.now ∧ at_ ≤ t.now)
  ∧ (∀ (s : State) (at_ : Nat) (r : Nat) (seq : Nat) (corrected : Nat) (hits : List EccHit),
    ∀ cmd ∈ ([Instr.dmaStagingRead at_ r seq corrected hits] : List Instr),
          ∃ t, exec cmd s = .next t ∧ t.part = s.part ∧ t.pending = s.pending ∧ s.now ≤ t.now ∧ at_ ≤ t.now)
  ∧ (∀ (s : State) (at_ : Nat) (q : Nat) (l : List Bool),
    ∀ cmd ∈ ([Instr.comparisonComplete at_ q l] : List Instr),
          ∃ t, exec cmd s = .next t ∧ t.part = s.part ∧ t.pending = s.pending ∧ s.now ≤ t.now ∧ at_ ≤ t.now)
  ∧ (∀ (s : State) (at_ : Nat) (q : Nat) (island : Int) (steady : Nat),
    ∀ cmd ∈ ([Instr.warmingStateAdvance at_ q island steady] : List Instr),
          ∃ t, exec cmd s = .next t ∧ t.part = s.part ∧ t.pending = s.pending ∧ s.now ≤ t.now ∧ at_ ≤ t.now)
  ∧ (∀ (s : State) (at_ : Nat) (q : Nat) (absent : Bool) (departed : Nat),
    ∀ cmd ∈ ([Instr.heaterFault at_ q absent departed, Instr.evtEdgeStamp at_ q absent departed] : List Instr),
          ∃ t, exec cmd s = .next t ∧ t.part = s.part ∧ t.pending = s.pending ∧ s.now ≤ t.now ∧ at_ ≤ t.now)
  ∧ (∀ (s : State) (at_ : Nat) (c : Nat) (sweep : Int × Int × Int) (drop : Int × Int),
    ∀ cmd ∈ ([Instr.channelCalResult at_ c sweep drop] : List Instr),
          ∃ t, exec cmd s = .next t ∧ t.part = s.part ∧ t.pending = s.pending ∧ s.now ≤ t.now ∧ at_ ≤ t.now)
  ∧ (∀ (s : State) (at_ : Nat) (q : Nat) (zero : Int) (dac1 : Int × Int) (dac16 : Int × Int) (ratio : Int) (vref : Int),
    ∀ cmd ∈ ([Instr.witnessCalibrationDue at_ q zero dac1 dac16 ratio vref] : List Instr),
          ∃ t, exec cmd s = .next t ∧ t.part = s.part ∧ t.pending = s.pending ∧ s.now ≤ t.now ∧ at_ ≤ t.now)
  ∧ (∀ (s : State) (at_ : Nat) (p : Nat) (raw : Nat) (phase : Nat) (tr : Nat) (b : List Byte),
    ∀ cmd ∈ ([Instr.ptpMessageReceive at_ p raw phase tr b] : List Instr),
          ∃ t, exec cmd s = .next t ∧ t.part = s.part ∧ t.pending = s.pending ∧ s.now ≤ t.now ∧ at_ ≤ t.now)
  ∧ (∀ (s : State) (at_ : Nat) (port : Nat) (sender : Nat) (hdr : List Byte) (body : List Byte) (mac : List Byte) (crcOk :
    Bool),
    ∀ cmd ∈ ([Instr.groupMessageReceive at_ port sender hdr body mac crcOk] : List Instr),
          ∃ t, exec cmd s = .next t ∧ t.part = s.part ∧ t.pending = s.pending ∧ s.now ≤ t.now ∧ at_ ≤ t.now)
  ∧ (∀ (s : State) (at_ : Nat) (off : Nat) (size : Nat) (v : Nat) (full : Bool),
    ∀ cmd ∈ ([Instr.bar0RegisterWrite at_ off size v full] : List Instr),
          ∃ t, exec cmd s = .next t ∧ t.part = s.part ∧ t.pending = s.pending ∧ s.now ≤ t.now ∧ at_ ≤ t.now)
  ∧ (∀ (s : State) (at_ : Nat) (r : Nat) (ds : List Descriptor),
    ∀ cmd ∈ ([Instr.ringTransferComplete at_ r ds] : List Instr),
          ∃ t, exec cmd s = .next t ∧ t.part = s.part ∧ t.pending = s.pending ∧ s.now ≤ t.now ∧ at_ ≤ t.now)
  ∧ (∀ (s : State) (at_ : Nat) (r : Nat) (code : Nat) (offset : Nat) (addr : Nat),
    ∀ cmd ∈ ([Instr.ringFault at_ r code offset addr, Instr.linkTrainingDone at_ r code offset addr] : List Instr),
          ∃ t, exec cmd s = .next t ∧ t.part = s.part ∧ t.pending = s.pending ∧ s.now ≤ t.now ∧ at_ ≤ t.now)
  ∧ (∀ (s : State) (at_ : Nat) (w : Nat) (wr : Bool) (rd : Bool) (log2 : Nat),
    ∀ cmd ∈ ([Instr.windowEnable at_ w wr rd log2] : List Instr),
          ∃ t, exec cmd s = .next t ∧ t.part = s.part ∧ t.pending = s.pending ∧ s.now ≤ t.now ∧ at_ ≤ t.now)
  ∧ (∀ (s : State) (at_ : Nat) (v : Nat) (fmask : Option Bool),
    ∀ cmd ∈ ([Instr.msixUnmask at_ v fmask] : List Instr),
          ∃ t, exec cmd s = .next t ∧ t.part = s.part ∧ t.pending = s.pending ∧ s.now ≤ t.now ∧ at_ ≤ t.now)
  ∧ (∀ (s : State) (at_ : Nat) (image : List Byte) (left : List Byte) (outcome : Nat) (percent : Nat),
    ∀ cmd ∈ ([Instr.recoveryDone at_ image left outcome percent] : List Instr),
          ∃ t, exec cmd s = .next t ∧ t.part = s.part ∧ t.pending = s.pending ∧ s.now ≤ t.now ∧ at_ ≤ t.now)
  ∧ (∀ (s : State) (at_ : Nat) (l : Nat) (m : List Byte),
    ∀ cmd ∈ ([Instr.eyeScanComplete at_ l m, Instr.ucodeLoadDone at_ l m] : List Instr),
          ∃ t, exec cmd s = .next t ∧ t.part = s.part ∧ t.pending = s.pending ∧ s.now ≤ t.now ∧ at_ ≤ t.now)
  ∧ (∀ (s : State) (at_ : Nat) (n : Nat) (hdr : List Byte) (body : List Byte) (mac : List Byte),
    ∀ cmd ∈ ([Instr.streamAckDatagram at_ n hdr body mac] : List Instr),
          ∃ t, exec cmd s = .next t ∧ t.part = s.part ∧ t.pending = s.pending ∧ s.now ≤ t.now ∧ at_ ≤ t.now)
  ∧ (∀ (s : State) (at_ : Nat) (x : Nat) (vmin : Nat) (vmax : Nat) (rmax : Nat) (tag : Nat) (crcOk : Bool),
    ∀ cmd ∈ ([Instr.skaingLinkFrame at_ x vmin vmax rmax tag crcOk, Instr.skaingGroupAck at_ x vmin vmax rmax tag
      crcOk] : List Instr),
          ∃ t, exec cmd s = .next t ∧ t.part = s.part ∧ t.pending = s.pending ∧ s.now ≤ t.now ∧ at_ ≤ t.now)
  ∧ (∀ (s : State) (at_ : Nat) (x : Nat) (role : Nat) (st : Nat) (txp : Int) (peerTx : Int) (peerRx : Int) (qual : Nat) (rx
    : Nat) (phase : Nat) (crcOk : Bool),
    ∀ cmd ∈ ([Instr.skaingTimeFrame at_ x role st txp peerTx peerRx qual rx phase crcOk] : List Instr),
          ∃ t, exec cmd s = .next t ∧ t.part = s.part ∧ t.pending = s.pending ∧ s.now ≤ t.now ∧ at_ ≤ t.now)
  ∧ (∀ (s : State) (at_ : Nat) (x : Nat) (b : List Byte) (crcOk : Bool),
    ∀ cmd ∈ ([Instr.skaingDataFrame at_ x b crcOk] : List Instr),
          ∃ t, exec cmd s = .next t ∧ t.part = s.part ∧ t.pending = s.pending ∧ s.now ≤ t.now ∧ at_ ≤ t.now)
  ∧ (∀ (s : State) (at_ : Nat) (x : Nat) (n : Nat) (credits : Nat) (ack : Nat) (crcOk : Bool),
    ∀ cmd ∈ ([Instr.skaingCreditFrame at_ x n credits ack crcOk] : List Instr),
          ∃ t, exec cmd s = .next t ∧ t.part = s.part ∧ t.pending = s.pending ∧ s.now ≤ t.now ∧ at_ ≤ t.now)
  ∧ (∀ (s : State) (at_ : Nat) (p : Packet) (ds : List (List Descriptor)),
    ∀ cmd ∈ ([Instr.hubReset at_ p ds] : List Instr),
          ∃ t, exec cmd s = .next t ∧ t.part = s.part ∧ t.pending = s.pending ∧ s.now ≤ t.now ∧ at_ ≤ t.now)
  ∧ (∀ (s : State) (at_ : Nat) (q : Nat) (island : Int) (held : Bool),
    ∀ cmd ∈ ([Instr.reentryReleaseEdge at_ q island held] : List Instr),
          ∃ t, exec cmd s = .next t ∧ t.part = s.part ∧ t.pending = s.pending ∧ s.now ≤ t.now ∧ at_ ≤ t.now)
  ∧ (∀ (s : State) (at_ : Nat) (g : Nat) (a : Bool) (b : Bool),
    ∀ cmd ∈ ([Instr.tripReadback at_ g a b] : List Instr),
          ∃ t, exec cmd s = .next t ∧ t.part = s.part ∧ t.pending = s.pending ∧ s.now ≤ t.now ∧ at_ ≤ t.now)
  ∧ (∀ (s : State) (at_ : Nat) (op : Nat) (p : Packet),
    ∀ cmd ∈ ([Instr.unknownOpcodePacket at_ op p] : List Instr),
          ∃ t, exec cmd s = .next t ∧ t.part = s.part ∧ t.pending = s.pending ∧ s.now ≤ t.now ∧ at_ ≤ t.now)
  ∧ (∀ (s : State) (at_ : Nat) (p : Nat) (kind : Nat) (mac : List Byte) (ip : List Byte) (target : List Byte) (data : List
    Byte),
    ∀ cmd ∈ ([Instr.ethArpNdEcho at_ p kind mac ip target data] : List Instr),
          ∃ t, exec cmd s = .next t ∧ t.part = s.part ∧ t.pending = s.pending ∧ s.now ≤ t.now ∧ at_ ≤ t.now)

/-- What every step keeps holds at reset. -/
def Obligations.ResetIsCanonical : Prop :=
   State.reset.canonical ∧ State.reset.tripOk ∧ State.reset.allTrip = true

/-- The canonical forms are an invariant. -/
def Obligations.StepKeepsCanonical : Prop :=
  ∀ (s t : State), step s = .next t → s.canonical → t.canonical

/-- TRIP outputs run only with their group. -/
def Obligations.StepKeepsTripOk : Prop :=
  ∀ (s t : State), step s = .next t → s.tripOk → t.tripOk

/-- The counters of the part's life only rise. -/
def Obligations.StepRatchets : Prop :=
  ∀ (s t : State), step s = .next t →
    t.part = s.part ∧ s.flash.sealCount ≤ t.flash.sealCount ∧ s.flash.lockCount ≤ t.flash.lockCount ∧ s.flash.fuses ≤
      t.flash.fuses ∧ s.now ≤ t.now

/-- Into reset (02 R37 to R39, R56, R57; 18 R457); which write was under way is the model's operand, log entry 83.
Commands shown to complete: powerOn, brownout, resetNAssert, thermalShutdown, lockstepMismatch. -/
def Obligations.EnteringReset : Prop :=
  (∀ (at_ : Nat) (rail : Nat) (s u : State), u = s.tick at_ → 1 ≤ rail → rail ≤ 9 → bit (rail - 1) u.boot.rails = false →
    exec (.powerOn at_ rail false) s = .next
      { u with boot.rails := u.boot.rails ||| 2 ^ (rail - 1), boot.railsSince := u.now })
  ∧ (∀ (at_ : Nat) (rail : Nat) (s u : State), u = s.tick at_ → 1 ≤ rail → rail ≤ 9 →
    exec (.powerOn at_ rail true) s = .next
      { State.reset with part := s.part, flash := (abandonFw s).flash, now := u.now, draw := s.draw, out := s.out, pending := s.pending, boot := { State.reset.boot with rails := 0 ||| 2 ^ (rail - 1), railsSince := u.now } })
  ∧ (∀ (at_ : Nat) (rail : Nat) (s u : State), u = s.tick at_ → bit (rail - 1) u.boot.rails = true →
    exec (.powerOn at_ rail false) s = .next u)
  ∧ (∀ (at_ : Nat) (rail : Nat) (cut : Bool) (s u : State), u = s.tick at_ → 1 ≤ rail → rail ≤ 9 → bit (rail - 1)
    u.boot.rails = true →
    exec (.brownout at_ rail cut) s = .next (enterReset (2 + rail * 2 ^ 20) (abandonWrite cut
      { u with boot.rails := u.boot.rails - 2 ^ (rail - 1) })))
  ∧ (∀ (at_ : Nat) (low : Nat) (cut : Bool) (s u : State), u = s.tick at_ → 21 * usU ≤ 2 * low →
    exec (.resetNAssert at_ low cut) s = .next (enterReset 4 (abandonWrite cut u)))
  ∧ (∀ (at_ : Nat) (low : Nat) (cut : Bool) (s u : State), u = s.tick at_ → 2 * low < 19 * usU →
    exec (.resetNAssert at_ low cut) s = .next u)
  ∧ (∀ (at_ : Nat) (low : Nat) (cut : Bool) (s u : State), u = s.tick at_ → 19 * usU ≤ 2 * low → 2 * low < 21 * usU →
    exec (.resetNAssert at_ low cut) s = .next u ∨ exec (.resetNAssert at_ low cut) s = .next (enterReset 4 (abandonWrite
      cut u)))
  ∧ (∀ (at_ : Nat) (cut : Bool) (s u : State), u = s.tick at_ →
    exec (.thermalShutdown at_ cut) s = .next (enterReset 128 (abandonWrite cut { u with boot.hot := true })))
  ∧ (∀ (at_ : Nat) (island cut : Bool) (s u : State), u = s.tick at_ →
    exec (.lockstepMismatch at_ island cut) s = .next (enterReset (if island then 32 else 64) (abandonWrite cut u)))
  ∧ (∀ (causes : Nat) (s t : State), t = enterReset causes s →
    t.boot.inReset = true ∧ t.boot.rails = s.boot.rails ∧ t.boot.cause = s.boot.cause ∧ t.boot.prevCause =
      s.boot.prevCause ∧ (s.boot.inReset = false → t.boot.newCause = 0 ||| causes) ∧ t.flash = (abandonFw s).flash ∧
      t.part = s.part ∧ t.faults.log = s.faults.log ∧ t.out = s.out ∧ t.faults.active = [] ∧ t.cz = State.reset.cz ∧
      t.jrn = State.reset.jrn ∧ t.host = State.reset.host ∧ t.time = State.reset.time ∧ t.ptp = [] ∧ t.evt = [] ∧ t.iu
      = [] ∧ t.quires = [] ∧ t.exc = [] ∧ t.tone = [] ∧ t.chans = [] ∧ t.wit = [] ∧ t.conv = State.reset.conv ∧ t.cal
      = State.reset.cal ∧ t.trg = State.reset.trg ∧ t.group = State.reset.group ∧ t.lanes = [] ∧ t.skaing = [] ∧
      t.safe = State.reset.safe ∧ t.cfg = [] ∧ t.past = [])
  ∧ (∀ (cut : Bool) (s t : State), t = abandonWrite cut s →
    t = { s with flash := t.flash } ∧ t.flash.last = 0 ∧ (cut = false → t = { s with flash.last := 0 }) ∧ (cut = true →
      s.flash.last = 3 → t.flash.safeOk1 = false ∧ t.flash.safeOk2 = false) ∧ (cut = true → s.flash.last = 4 →
      t.flash.cal = none) ∧ (cut = true → s.flash.last = 2 → t.flash.ring.length = s.flash.ring.length ∧ ∀ r,
      t.flash.ring.getLast? = some r → r.bad = true))

/-- Out of reset and to Root (02 R37, R41; 01 R24; 08 R189; 18 R452, R464). Commands shown to complete: resetRelease,
thermalRestart, rootSettlingEnd, refInQualified, lpddr5TrainingDone. -/
def Obligations.ReleaseAndRoot : Prop :=
  (∀ (at_ : Nat) (high strap : Nat) (ups : List Nat) (ok : Bool) (s u : State), u = s.tick at_ → u.boot.inReset = true →
    u.boot.hot = false → u.boot.testHeld = false → u.boot.rails = 0x1FF → u.boot.railsSince + 2 * msU ≤ u.now → 21 *
    usU ≤ 2 * high → exec (.resetRelease at_ high strap ups ok false) s = .next (release strap ups ok u))
  ∧ (∀ (at_ : Nat) (high strap : Nat) (ups : List Nat) (ok : Bool) (s u : State), u = s.tick at_ → u.boot.inReset = true →
    u.boot.hot = false → u.boot.testHeld = false → u.boot.rails = 0x1FF → u.boot.railsSince + 2 * msU ≤ u.now → 21 *
    usU ≤ 2 * high → exec (.resetRelease at_ high strap ups ok true) s = .next { u with boot.testHeld := true })
  ∧ (∀ (at_ : Nat) (high strap : Nat) (ups : List Nat) (ok test : Bool) (s u : State), u = s.tick at_ → (u.boot.inReset =
    false ∨ u.boot.hot = true ∨ u.boot.testHeld = true ∨ u.boot.rails ≠ 0x1FF ∨ u.now < u.boot.railsSince + 2 * msU ∨
    2 * high < 19 * usU) → exec (.resetRelease at_ high strap ups ok test) s = .next u)
  ∧ (∀ (at_ : Nat) (high strap : Nat) (ups : List Nat) (ok : Bool) (s u : State), u = s.tick at_ → u.boot.inReset = true →
    u.boot.testHeld = false → u.boot.rails = 0x1FF → u.boot.railsSince + 2 * msU ≤ u.now → 21 * usU ≤ 2 * high →
    exec (.thermalRestart at_ high strap ups ok false) s = .next (release strap ups ok { u with boot.hot := false }))
  ∧ (∀ (strap : Nat) (ups : List Nat) (ok : Bool) (s t : State), t = release strap ups ok s →
    t.boot.inReset = false ∧ t.boot.release = some s.now ∧ t.boot.strap = strap % 4 ∧ t.boot.newCause = 0 ∧ t.boot.strobe
      = 1 ∧ (ok = true → t.boot.cause = s.boot.newCause) ∧ (bit 0 s.boot.newCause = false → t.boot.prevCause =
      s.boot.cause) ∧ (∀ q, q < s.part.quires → (quire t q).svc = (if ups.contains q then 0 else 2)) ∧ (∀ q, q <
      s.part.quires → (witOf t q).state = (if ups.contains q then 2 else 4)) ∧ (∀ q, q < s.part.quires → ups.contains
      q = true → (ensOf t q).heaterOn = true) ∧ t.safe.image = (if s.flash.safeOk1 then s.flash.safe else []) ∧
      t.flash.safe = s.flash.safe)
  ∧ (∀ (at_ : Nat) (r : Nat) (s u : State), u = s.tick at_ → u.boot.release = some r → u.boot.stage = 0 → r + 15 * msU ≤
    u.now →
    ∃ t, exec (.rootSettlingEnd at_) s = .next t ∧ t.boot.stage = 1 ∧ t.boot.hold = 0 ∧ Still
      { u with boot.stage := 1, boot.hold := 0, safe := t.safe } t)
  ∧ (∀ (at_ : Nat) (r : Nat) (s u : State), u = s.tick at_ → u.boot.release = some r → u.boot.stage = 1 → u.time.rawStart =
    none →
    exec (.refInQualified at_) s = .next
      { u with boot.refDone := true, boot.strobe := 2, boot.refWait := u.now - (r + 75 * msU), time.rawStart := some u.now, time.ancRaw := 0, time.ancDev := 0, time.unsetReason := 1, time.since := u.now, time.estSince := u.now })
  ∧ (∀ (at_ : Nat) (rate mib : Nat) (s u : State), u = s.tick at_ → u.boot.inReset = false → u.boot.lpDone = false → 1 ≤
    u.boot.stage → u.boot.stage ≤ 2 → mib ≠ 0 →
    exec (.lpddr5TrainingDone at_ rate mib) s = .next
      { u with boot.lpDone := true, boot.lpCke := true, boot.storeMode := 1, store.lpMib := mib, store.lpRate := rate % 4 })
  ∧ (∀ (at_ : Nat) (rate : Nat) (s u : State), u = s.tick at_ → u.boot.inReset = false → u.boot.lpDone = false → 1 ≤
    u.boot.stage → u.boot.stage ≤ 2 →
    exec (.lpddr5TrainingDone at_ rate 0) s = .next (raiseOnce (evL 0x0A03 0xFFFF)
      { u with boot.lpDone := true, boot.lpCke := true, boot.storeMode := 2 }))

/-- Trunk and Crown (02 R41, R42, R46 to R48, R58, R59). Commands shown to complete: imageSelect, trunkReached,
modulatorsStart, crownReached, streamContinuityEvents, stageDeadlineOverrun. -/
def Obligations.TrunkAndCrown : Prop :=
  (∀ (at_ : Nat) (x : State × Nat × List (Nat × Nat)) (s u : State), u = s.tick at_ → u.boot.stage = 1 → u.boot.refDone =
    true → u.boot.fwRuns = false → x = selectImage { u with boot.xspi := 2 } →
    exec (.imageSelect at_) s = .next (drainUnread (if x.2.1 = 0 then startLink 0
      { x.1 with boot.hold := 2, boot.stage := 2 } else startFirmware x.2.1 x.2.2 x.1)))
  ∧ (∀ (at_ : Nat) (s u : State), u = s.tick at_ → u.boot.stage = 1 → u.boot.refDone = true → u.boot.fwRuns = false →
    u.cz.unread = [] → (selectImage { u with boot.xspi := 2 }).2.1 = 0 → ((List.range 4).all fun l => (lane u
    l).scan.isNone) = true →
    ∃ t, exec (.imageSelect at_) s = .next t ∧ t.boot.stage = 2 ∧ t.boot.hold = 2 ∧ t.boot.fwRuns = false ∧ t.boot.image =
      u.boot.image ∧ t.cfg = u.cfg ∧ t.safe = u.safe ∧ t.chans = u.chans ∧ t.quires = u.quires ∧ t.cz = u.cz)
  ∧ (∀ (i : Nat) (l : List (Nat × Nat)) (s t : State), t = startFirmware i l s →
    t.boot.fwRuns = true ∧ t.boot.image = i ∧ t.boot.stage = s.boot.stage ∧ t.quires.length = s.quires.length ∧ t.part =
      s.part ∧ t.safe.image = s.safe.image)
  ∧ (∀ (s t : State), t = newStart s →
    t.boot.startCount = (s.flash.journal.startCount + 1) % 2 ^ 20 ∧ t.flash.journal.startCount = t.boot.startCount ∧
      t.store.base = t.boot.startCount * 2 ^ 44 ∧ t.store.ring2.nextSeq = t.store.base ∧ t.store.ring3.nextSeq =
      t.store.base ∧ (∀ n, n < 32 → 4 ≤ n → (stream t n).q.nextSeq = t.store.base) ∧ t.cfg = s.cfg ∧ t.cz = s.cz ∧
      t.safe = s.safe)
  ∧ (∀ (at_ : Nat) (s u : State), u = s.tick at_ → u.boot.stage = 1 → u.boot.refDone = true → u.boot.fwRuns = true →
    u.boot.lpDone = true →
    ∃ t, exec (.trunkReached at_) s = .next t ∧ t.boot.trunkAt = some u.now ∧ Still
      { u with boot.stage := 2, boot.hold := 0, boot.trunkAt := some u.now } t)
  ∧ (∀ (at_ : Nat) (k : Nat) (s u : State), u = s.tick at_ → u.boot.trunkAt = some k → u.boot.modsOn = false → k + 5 * msU
    ≤ u.now → (∀ q, q ∈ servingQuires u → (quire u q).measured = true) →
    ∃ t, exec (.modulatorsStart at_) s = .next t ∧ t.boot.modsOn = true ∧ t.boot.stage = u.boot.stage ∧ t.part = u.part ∧
      ∀ q, q < u.part.quires → inService u q = true → (quire t q).running = true)
  ∧ (∀ (at_ : Nat) (x : State) (s u : State), u = s.tick at_ → x = handover u → u.boot.stage = 2 → u.boot.fwRuns = true →
    u.boot.modsOn = true → x.safe.handover.isSome = true → (u.conv.closed.isSome = true ∨ (servingQuires u).isEmpty =
    true) →
    ∃ t, exec (.crownReached at_) s = .next t ∧ t.boot.crownAt = some u.now ∧ Still
      { x with boot.stage := 3, boot.hold := 0, boot.crownAt := some u.now } t)
  ∧ (∀ (at_ : Nat) (s u : State), u = s.tick at_ → inCrown u = true → (ring u 2).en = true →
    exec (.streamContinuityEvents at_) s = .next (u.store.continuityDue.foldl (fun x (p : Nat × Continuity) => issue
      (continuityEvent p.1 p.2) x) { u with store.continuityDue := [] }))
  ∧ (∀ (at_ : Nat) (stage k : Nat) (s u : State), u = s.tick at_ → u.boot.release = some k → 1 ≤ stage → stage ≤ 3 →
    u.boot.stage < stage → bit stage u.boot.overrun = false → refAbsent u = false → u.boot.hold ≠ 2 → k + deadline
    stage u ≤ u.now →
    exec (.stageDeadlineOverrun at_ stage) s = .next (raiseOnce (evL 0x0101 stage)
      { u with boot.hold := 3, boot.overrun := u.boot.overrun ||| 2 ^ stage }))
  ∧ (∀ (at_ : Nat) (stage : Nat) (s u : State), u = s.tick at_ → (stage ≤ u.boot.stage ∨ bit stage u.boot.overrun = true ∨
    refAbsent u = true ∨ u.boot.hold = 2) → exec (.stageDeadlineOverrun at_ stage) s = .next u)

/-- Watchdog, management bus, recovery (02 R46, R52 to R54; 11 R296). Commands shown to complete: watchdogExpiry,
cpRestartDone, mgmtRead, mgmtClockLowTimeout, recoveryGo, recoveryDone, imageTrialToGood. -/
def Obligations.WatchdogAndRecovery : Prop :=
  (∀ (at_ : Nat) (cut : Bool) (s u : State), u = s.tick at_ → u.boot.fwRuns = true → within60 u.boot.lastWatchdog u =
    false → u.boot.swapped = none →
    exec (.watchdogExpiry at_ cut) s = .next (cpRestart (u.boot.restart.getD u.boot.image) (raise (ev 0x0F04 0xFFFF)
      { u with boot.lastWatchdog := some u.now })))
  ∧ (∀ (at_ : Nat) (k : Nat) (cut : Bool) (s u : State), u = s.tick at_ → u.boot.fwRuns = true → u.boot.lastWatchdog = some
    k → u.now < k + 60 * secU → exec (.watchdogExpiry at_ cut) s = .next (enterReset 16 (abandonWrite cut u)))
  ∧ (∀ (i : Nat) (s t : State), t = cpRestart i s →
    t.boot.restart = some i ∧ t.boot.image = s.boot.image ∧ t.cfg = s.cfg ∧ t.safe.image = s.safe.image ∧ t.flash.fuses =
      s.flash.fuses ∧ t.part = s.part)
  ∧ (∀ (at_ : Nat) (i : Nat) (lost : Bool) (s u : State), u = s.tick at_ → u.boot.restart = some i → u.cz.unread = [] →
    ∃ t, exec (.cpRestartDone at_ lost) s = .next t ∧ t.boot.restart = none ∧ t.boot.image = i ∧ t.flash.fuses =
      u.flash.fuses ∧ t.cfg = u.cfg ∧ t.safe = u.safe)
  ∧ (∀ (at_ : Nat) (addr off n v : Nat) (block : Bool) (s u : State), u = s.tick at_ → u.boot.inReset = false → addr = 0x4C
    + u.boot.strap → mgRegister u off = some v →
    exec (.mgmtRead at_ addr off n block false) s = .next (emit (.mgmt true (mgBytes addr off n v block))
      { u with boot.mgmtReg := v, boot.mgmtHeld := decide (n < 4) }))
  ∧ (∀ (at_ : Nat) (addr off n : Nat) (block extra : Bool) (s u : State), u = s.tick at_ → (u.boot.inReset = true ∨ addr ≠
    0x4C + u.boot.strap ∨ mgRegister u off = none) →
    exec (.mgmtRead at_ addr off n block extra) s = .next (emit (.mgmt false []) u))
  ∧ (∀ (at_ : Nat) (s u : State), u = s.tick at_ →
    exec (.mgmtClockLowTimeout at_) s = .next { u with boot.mgmtHeld := false, boot.mgmtReg := 0 })
  ∧ (∀ (at_ : Nat) (target : Nat) (s u : State), u = s.tick at_ → answers u 0x8000 = true → u.boot.hold = 2 → 1 ≤ target →
    target ≤ 2 → 4096 ≤ u.host.recovery.len → u.host.recovery.len ≤ fwSize →
    exec (.recoveryGo at_ target) s = .next
      { u with host.recovery.target := target, host.recovery.state := 1, host.recovery.percent := 0 })
  ∧ (∀ (at_ : Nat) (image left : List Byte) (percent k : Nat) (g : Tab Nat) (s u : State), u = s.tick at_ → u.boot.hold = 2
    → 1 ≤ u.host.recovery.state → u.host.recovery.state ≤ 3 → k = u.host.recovery.target → g = recoveryTable
    (image.take u.host.recovery.len) → u.flash.bad.contains k = false →
    exec (.recoveryDone at_ image left 0 percent) s = .next (if imgCheck (setPartition k g u) k = 0
      then setImgState k 1 (setPartition k g { u with host.recovery.state := 4, host.recovery.percent := 100 })
      else { u with host.recovery.state := 5 }))
  ∧ (∀ (at_ : Nat) (image left : List Byte) (phase percent k : Nat) (g : Tab Nat) (s u : State), u = s.tick at_ →
    u.boot.hold = 2 → 1 ≤ u.host.recovery.state → u.host.recovery.state ≤ phase → phase ≤ 3 → k =
    u.host.recovery.target → g = recoveryTable (image.take u.host.recovery.len) →
    exec (.recoveryDone at_ image left phase percent) s = .next (if phase = 3 ∧ imgCheck (setPartition k g u) k ≠ 0
      then { u with host.recovery.state := 5 }
      else { u with host.recovery.state := phase, host.recovery.percent := min 100 percent }))
  ∧ (∀ (at_ : Nat) (image left : List Byte) (outcome percent : Nat) (s u : State), u = s.tick at_ → u.boot.hold = 2 →
    u.host.recovery.state = 4 → exec (.recoveryDone at_ image left outcome percent) s = .next (enterReset 8 u))
  ∧ (∀ (at_ : Nat) (g : Tab Nat) (s u : State), u = s.tick at_ → heldCrown u = true → (u.boot.image = 1 ∨ u.boot.image = 2)
    → g = partition u u.boot.image → imgState g = 1 →
    ∃ t, exec (.imageTrialToGood at_) s = .next t ∧ partition t u.boot.image = programByte g 449 ∧ imgState (partition t
      u.boot.image) = 2 ∧ t.flash.fuses = (if imgLock g then max u.flash.fuses (min 32 (imgSecurity g)) else
      u.flash.fuses) ∧ Still { u with flash := t.flash } t)

/-- The registers of a ring (11 R278, R283 to R285, R292, R293). Commands shown to complete: ringDoorbell, ringEnable,
ringDisable, ringAckWrite, ringResume, ringDiscard. -/
def Obligations.RingRegisters : Prop :=
  (∀ (at_ : Nat) (r tail : Nat) (s u : State), u = s.tick at_ → r < 32 → answers u (0x1010 + 0x80 * r) = true → tail ≤
    65535 → (tail + 65536 - (ring u r).head) % 65536 ≤ 2 ^ (ring u r).log2 →
    exec (.ringDoorbell at_ r tail) s = .next (setRing r { ring u r with tail := tail } u))
  ∧ (∀ (at_ : Nat) (r tail : Nat) (s u : State), u = s.tick at_ → r < 32 → answers u (0x1010 + 0x80 * r) = true → tail ≤
    65535 → 2 ^ (ring u r).log2 < (tail + 65536 - (ring u r).head) % 65536 →
    exec (.ringDoorbell at_ r tail) s = .next (regError (0x1010 + 0x80 * r) u))
  ∧ (∀ (at_ : Nat) (r log2 : Nat) (s u : State), u = s.tick at_ → r < 32 → answers u (0x1008 + 0x80 * r) = true → 4 ≤ log2
    → log2 < 16 → (ring u r).en = false → (ring u r).state = 0 → offRing u r = false →
    exec (.ringEnable at_ r log2) s = .next (setRing r
      { ring u r with en := true, log2 := log2, head := 0, tail := 0, state := 1, fault := 0, faultDesc := 0, faultOffset := 0, faultAddr := 0, unsignalled := 0, nextSeq := if isRelay u r then ((ringQ u r).folios.head?.map (·.seq)).getD (ring u r).nextSeq else skipRetired ((ringQ u r).retired.length + 1) (ringQ u r).retired (max (ringQ u r).ackNext u.store.base) }
      (if r = 0 then { u with cz.unread := [] } else u)))
  ∧ (∀ (at_ : Nat) (r : Nat) (s u : State), u = s.tick at_ → r < 32 → answers u (0x1008 + 0x80 * r) = true → 4 ≤ (ring u
    r).log2 → (ring u r).log2 < 16 → (ring u r).en = true → (ring u r).state = 1 →
    ∃ t, exec (.ringDisable at_ r) s = .next t ∧ ring t r =
      { ring u r with en := false, state := if (ringQ u r).folios.all (fun f => !f.staged) then 0 else 3 } ∧ (∀ k, k ≠
      r → ring t k = ring u k) ∧ t.host.windows = u.host.windows ∧ t.host.msix = u.host.msix ∧ Still u t)
  ∧ (∀ (at_ : Nat) (r : Nat) (s u : State), u = s.tick at_ → r < 32 → answers u (0x1008 + 0x80 * r) = true → 4 ≤ (ring u
    r).log2 → (ring u r).log2 < 16 → (ring u r).state = 2 →
    exec (.ringDisable at_ r) s = .next (clearCause 0x0B01 r (setRing r { ring u r with state := 0, en := false } u)))
  ∧ (∀ (at_ : Nat) (r seq : Nat) (s u : State), u = s.tick at_ → 2 ≤ r → r < 32 → answers u (0x1028 + 0x80 * r) = true →
    seq < 2 ^ 64 → (ring u r).anyDone = true → (ring u r).ackSeq ≤ seq →
    ∃ t, exec (.ringAckWrite at_ r seq) s = .next t ∧ (ring t r).ackSeq = min seq (ring u r).doneSeq ∧ (ring t
      r).ackClamped = (if (ring u r).doneSeq < seq then ((ring u r).ackClamped + 1) % 2 ^ 32 else (ring u
      r).ackClamped) ∧ (∀ k, k ≠ r → ring t k = ring u k) ∧ (r < 4 → ringQ t r = ackQ (ringQ u r) (min seq (ring u
      r).doneSeq)) ∧ Still u t)
  ∧ (∀ (q : FolioQ) (seq : Nat),
    (∀ f, f ∈ (q.ack seq).folios → f.seq ≤ seq → f.acked = true) ∧ (q.ack seq).folios.length = q.folios.length ∧ (seq <
      q.ackNext → (q.ack seq).ackNext = q.ackNext))
  ∧ (∀ (at_ : Nat) (r : Nat) (s u : State), u = s.tick at_ → r < 32 → answers u (0x1040 + 0x80 * r) = true → (ring u
    r).state = 2 →
    exec (.ringResume at_ r) s = .next (clearCause 0x0B01 r (setRing r
      { ring u r with state := if (ring u r).en then 1 else 3, fault := 0 } u)))
  ∧ (∀ (at_ : Nat) (r : Nat) (run : List Folio) (s u : State), u = s.tick at_ → 2 ≤ r → r < 32 → answers u (0x1040 + 0x80 *
    r) = true → (ring u r).state = 2 → (ring u r).haltSeq ≤ (ring u r).discardTo → (ring u r).discardTo < (ringQ u
    r).nextSeq → run = discardRun (ringQ u r) (ring u r).haltSeq (ring u r).discardTo →
    exec (.ringDiscard at_ r) s = .next (resumeRing r (issueNote (evB 0x0B10 r (le 2 r ++ le 2 0 ++ le 4 run.length))
      run.length (discardInto r run u))))
  ∧ (∀ (at_ : Nat) (r : Nat) (s u : State), u = s.tick at_ → 2 ≤ r → r < 32 → answers u (0x1040 + 0x80 * r) = true → (ring
    u r).state = 2 → ((ring u r).discardTo < (ring u r).haltSeq ∨ (ringQ u r).nextSeq ≤ (ring u r).discardTo) →
    exec (.ringDiscard at_ r) s = .next (regError (0x1040 + 0x80 * r) u))

/-- BAR0 and transfers (11 R278, R279, R283, R286, R289, R291, R295; 00 R10). Commands shown to complete:
bar0RegisterWrite, bar0LoRead, ringTransferComplete, ringFault, interruptModerationTimer. -/
def Obligations.BarAndTransfers : Prop :=
  (∀ (at_ : Nat) (off v : Nat) (x : State) (s u : State), u = s.tick at_ → answers u off = true → off % 8 = 0 → x =
    barWrite4 off (v % 2 ^ 32) u → refuses4 off (v % 2 ^ 32) u = false → refuses4 (off + 4) (v / 2 ^ 32 % 2 ^ 32) x =
    false → exec (.bar0RegisterWrite at_ off 8 v true) s = .next (barWrite4 (off + 4) (v / 2 ^ 32 % 2 ^ 32) x))
  ∧ (∀ (at_ : Nat) (off v : Nat) (x : State) (s u : State), u = s.tick at_ → answers u off = true → off % 8 = 0 → x =
    barWrite4 off (v % 2 ^ 32) u → (refuses4 off (v % 2 ^ 32) u = true ∨ refuses4 (off + 4) (v / 2 ^ 32 % 2 ^ 32) x =
    true) → exec (.bar0RegisterWrite at_ off 8 v true) s = .next (regError off u))
  ∧ (∀ (at_ : Nat) (off size v : Nat) (full : Bool) (s u : State), u = s.tick at_ → answers u off = true → (full = false ∨
    off % size ≠ 0 ∨ (size ≠ 4 ∧ size ≠ 8)) →
    exec (.bar0RegisterWrite at_ off size v full) s = .next (if u.host.regErr then u else signal 0
      { u with host.regErr := true, host.errOffset := off }))
  ∧ (∀ (at_ : Nat) (s u : State), u = s.tick at_ → answers u 4 = true →
    exec (.bar0RegisterWrite at_ 4 4 (2 ^ 31) true) s = .next { u with host.regErr := false, host.errOffset := 0 })
  ∧ (∀ (at_ : Nat) (r us n : Nat) (s u : State), u = s.tick at_ → r < 32 → answers u (0x100C + 0x80 * r) = true → us <
    65536 → 0 < n → n < 65536 →
    exec (.bar0RegisterWrite at_ (0x100C + 0x80 * r) 4 (65536 * us + n) true) s = .next (setRing r
      { ring u r with intUs := us, intCount := n } u))
  ∧ (∀ (at_ : Nat) (off : Nat) (s u : State), u = s.tick at_ → answers u off = true →
    exec (.bar0LoRead at_ off 4) s = .next (emit (.bar0 off (regValue u off)) (capture off u)))
  ∧ (∀ (at_ : Nat) (s u : State), u = s.tick at_ → answers u 0x10 = true →
    ∃ t, exec (.bar0LoRead at_ 0x10 4) s = .next t ∧ t.out = .bar0 0x10 (rawNow u % 2 ^ 32) :: u.out ∧ t.host.timeShadow =
      (timeGroup u).drop 1 ∧ t.host.rings = u.host.rings ∧ Still u t)
  ∧ (∀ (at_ : Nat) (d : Descriptor) (ds : List Descriptor) (s u : State), u = s.tick at_ → dmaOk u = true → ((ring u
    0).state = 1 ∨ (ring u 0).state = 3) → ringTurn u 0 = true →
    exec (.ringTransferComplete at_ 0 (d :: ds)) s = .next (drainUnread (packetDone d { u with host.lastCommand := 0 })))
  ∧ (∀ (at_ : Nat) (ds : List Descriptor) (s u : State), u = s.tick at_ → dmaOk u = true → ((ring u 1).state = 1 ∨ (ring u
    1).state = 3) → ringTurn u 1 = true →
    exec (.ringTransferComplete at_ 1 ds) s = .next (drainUnread (replyDone ds { u with host.lastCommand := 1 })))
  ∧ (∀ (at_ : Nat) (r : Nat) (d : Descriptor) (ds : List Descriptor) (f : Folio) (s u : State), u = s.tick at_ → 2 ≤ r → r
    < 32 → dmaOk u = true → ((ring u r).state = 1 ∨ (ring u r).state = 3) → offRing u r = false → ringTurn u r = true
    → nextFolio u r = some f → f.staged = true → posted (ring u r) ≠ 0 → (transfer r d (folioBytes f) false
    (folioStatus f) f.seq 4096 (served r u)).2 = true →
    ∃ t, exec (.ringTransferComplete at_ r (d :: ds)) s = .next t ∧ (ring t r).doneSeq = f.seq ∧ (ring t r).anyDone = true
      ∧ (∀ k, k ≠ r → ring t k = ring u k) ∧ Still u t)
  ∧ (∀ (at_ : Nat) (r code off addr : Nat) (s u : State), u = s.tick at_ → r < 32 → (ring u r).state = 1 → 1 ≤ code → code
    ≤ 7 →
    ∃ t, exec (.ringFault at_ r code off addr) s = .next t ∧ (ring t r).state = 2 ∧ (ring t r).fault = code ∧ (ring t
      r).faultDesc = (ring u r).head ∧ (ring t r).faultOffset = min 65536 (off / 256 * 256) ∧ (ring t r).faultAddr =
      addr ∧ (ring t r).haltSeq = ringNext u r ∧ (∀ k, k ≠ r → ring t k = ring u k) ∧ Still u t)
  ∧ (∀ (at_ : Nat) (r : Nat) (s u : State), u = s.tick at_ → r < 32 → (ring u r).unsignalled ≠ 0 → (ring u r).intUs ≠ 0 →
    (ring u r).firstAt + (ring u r).intUs * usU ≤ u.now →
    exec (.interruptModerationTimer at_ r) s = .next (signal r (setRing r { ring u r with unsignalled := 0 } u)))

/-- Windows, vectors, link (11 R287, R288, R294, R295). Commands shown to complete: windowEnable, windowDisable,
windowBusyClear, msixUnmask, pcieLinkDown, pcieHotReset, d3hotEntry, d0Return. -/
def Obligations.WindowsAndLink : Prop :=
  (∀ (at_ : Nat) (w log2 : Nat) (wr rd : Bool) (s u : State), u = s.tick at_ → w < 64 → answers u (0x2010 + 0x20 * w) =
    true → 12 ≤ log2 → log2 ≤ 46 → (window u w).en = false → (window u w).dev % 2 ^ log2 = 0 → overlaps u w (window u
    w).dev log2 = false →
    exec (.windowEnable at_ w wr rd log2) s = .next (setWindow w
      { window u w with write := wr, read := rd, log2 := log2, en := true } u))
  ∧ (∀ (at_ : Nat) (w log2 : Nat) (wr rd : Bool) (s u : State), u = s.tick at_ → w < 64 → answers u (0x2010 + 0x20 * w) =
    true → 12 ≤ log2 → log2 ≤ 46 → (window u w).en = false → overlaps u w (window u w).dev log2 = true →
    exec (.windowEnable at_ w wr rd log2) s = .next (regError (0x2010 + 0x20 * w) u))
  ∧ (∀ (at_ : Nat) (w : Nat) (busy : Bool) (s u : State), u = s.tick at_ → w < 64 → answers u (0x2010 + 0x20 * w) = true →
    (window u w).en = true →
    exec (.windowDisable at_ w busy) s = .next (setWindow w { window u w with en := false, busy := busy } u))
  ∧ (∀ (at_ : Nat) (w : Nat) (s u : State), u = s.tick at_ → w < 64 → (window u w).busy = true → (window u w).en = false →
    exec (.windowBusyClear at_ w) s = .next (signal 0 (setWindow w { window u w with busy := false } u)))
  ∧ (∀ (at_ : Nat) (v : Nat) (s u : State), u = s.tick at_ → v < 32 → answers u (0x300C + 16 * v) = true → (msix u
    v).masked = true → u.host.functionMask = false →
    exec (.msixUnmask at_ v none) s = .next (if (msix u v).pend then emit (.msix v (msix u v).addr (msix u v).data)
      (setMsix v { msix u v with masked := false, pend := false } u) else setMsix v { msix u v with masked := false }
      u))
  ∧ (∀ (at_ : Nat) (v : Nat) (s u : State), u = s.tick at_ →
    exec (.msixUnmask at_ v (some true)) s = .next { u with host.functionMask := true })
  ∧ (∀ (at_ : Nat) (v : Nat) (s u : State), u = s.tick at_ →
    ∃ t, exec (.msixUnmask at_ v (some false)) s = .next t ∧ t.host.functionMask = false ∧ (∀ k, k < 32 → (msix t k).pend
      = ((msix u k).pend && (msix u k).masked)) ∧ t.host.rings = u.host.rings ∧ Still u t)
  ∧ (∀ (at_ : Nat) (s u : State), u = s.tick at_ → u.host.linkUp = true →
    ∃ t, exec (.pcieLinkDown at_) s = .next t ∧ t.host.linkUp = false ∧ (∀ v ∈ t.cz.sessions, v.port ≠ 0) ∧ (∀ r, r < 32 →
      (ring u r).state = 1 → (ring t r).state = 2 ∧ (ring t r).fault = 7) ∧ t.cfg = u.cfg ∧ t.chans = u.chans ∧ t.safe
      = u.safe)
  ∧ (∀ (at_ : Nat) (s u : State), u = s.tick at_ →
    ∃ t, exec (.pcieHotReset at_) s = .next t ∧ t.host.rings = [] ∧ t.host.windows = [] ∧ t.host.msix = [] ∧ t.host.regErr
      = false ∧ t.host.linkUp = u.host.linkUp ∧ (∀ v ∈ t.cz.sessions, v.port ≠ 0) ∧ t.cfg = u.cfg ∧ t.chans = u.chans
      ∧ t.safe = u.safe)
  ∧ (∀ (at_ : Nat) (d3 : Bool) (s u : State), u = s.tick at_ →
    exec (.d3hotEntry at_ d3) s = .next (if d3 then { u with host.d3 := true } else { u with host.busMaster := false }))
  ∧ (∀ (at_ : Nat) (s u : State), u = s.tick at_ → u.cz.unread = [] →
    exec (.d0Return at_) s = .next (if u.host.d3 then { u with host.d3 := false } else { u with host.busMaster := true }))

/-- The timebase and the servo (08 R191, R193, R195, R200 to R203); the clause on silence rests on log entry 78. Commands
shown to complete: refInLost, refInRelock, reAnchor, offsetMeasurement, jumpPersistExpiry, sourceLost, holdoverExpiry. -/
def Obligations.TimebaseAndServo : Prop :=
  (∀ (at_ : Nat) (s u : State), u = s.tick at_ → u.time.rawStart.isSome = true → u.time.refLost = false →
    exec (.refInLost at_) s
        = .next (raise (evL 0x0801 0xFFFF) { closeSpan u with time.refLost := true, time.refLostAt := u.now }))
  ∧ (∀ (at_ : Nat) (s u : State), u = s.tick at_ → u.time.refLost = true →
    exec (.refInRelock at_) s = .next (clearCause 0x0801 0xFFFF
          { u with time.refLost := false, time.refLostAcc := refLostTime u, time.spanFrom := u.now }))
  ∧ (∀ (at_ : Nat) (s u : State), u = s.tick at_ →
    exec (.reAnchor at_) s = .next
      { u with time.anchors := (u.time.ancRaw, u.time.ancDev, u.time.rate) :: u.time.anchors, time.ancDev := devNow u, time.ancRaw := rawNow u })
  ∧ (∀ (at_ : Nat) (x : Nat) (e : Int) (m : TimeSource) (s u : State), u = s.tick at_ → (srcOrder u).contains x = true →
    u.boot.restart = none → u.time.state = 1 → u.time.source = x → e.natAbs ≤ jumpLimit u → m =
    { srcOf u x with meas := ((u.now, e) :: (srcOf u x).meas).take 64, within_ := (srcOf u x).within_ + 1, present := true, lastAccepted := u.now }
    →
    exec (.offsetMeasurement at_ x e) s = .next (servoStep x ((e : Rat) / 65536)
          (((u.now - (srcOf u x).lastAccepted : Nat) : Rat) / (secU : Rat))
          { setSrc x m u with time.offset := e, time.refusedSince := none }))
  ∧ (∀ (at_ : Nat) (x : Nat) (e : Int) (s u : State), u = s.tick at_ → (srcOrder u).contains x = true → u.boot.restart =
    none → u.time.state = 1 → u.time.source = x → jumpLimit u < e.natAbs → u.time.refusedSince = none →
    ∃ t, exec (.offsetMeasurement at_ x e) s = .next t ∧ t.time.refusedSince = some u.now ∧ t.time.offset = e
          ∧ (srcOf t x).within_ = 0 ∧ (srcOf t x).lastAccepted = (srcOf u x).lastAccepted ∧ t.time.state = 1 ∧
              t.time.source = x
          ∧ Still { u with time := t.time } t)
  ∧ (∀ (at_ : Nat) (k : Nat) (s u : State), u = s.tick at_ → u.boot.restart = none → u.time.refusedSince = some k →
    u.time.state ≠ 0 → u.time.state ≠ 4 → k + cf u 0x0601 0 8 31 16 * msU ≤ u.now → firstAccepted u = none →
    ∃ t, exec (.jumpPersistExpiry at_) s = .next t ∧ t.time.state = 4 ∧ t.time.rate = holdoverMean u ∧ Still
      { u with time := t.time } t)
  ∧ (∀ (at_ : Nat) (x : Nat) (s u : State), u = s.tick at_ → u.boot.restart = none → announceOut u x = false → (srcOf u
    x).present = true → silent u x = true → u.time.state = 1 → u.time.source = x → firstAccepted (setSrc x
    { srcOf u x with present := false, within_ := 0, meas := [] } u) = none →
    ∃ t, exec (.sourceLost at_ x) s = .next t ∧ (srcOf t x).present = false ∧ (srcOf t x).meas = [] ∧ t.time.source =
      0
          ∧ t.time.state = (if (srcOrder u).isEmpty then 5 else 2) ∧ Still { u with time := t.time } t)
  ∧ (∀ (at_ : Nat) (s u : State), u = s.tick at_ → u.boot.restart = none → u.time.state = 2 → u.time.since + cf u 0x0601 0
    0x0C 15 0 * secU ≤ u.now →
    ∃ t, exec (.holdoverExpiry at_) s = .next t ∧ t.time.state = 3 ∧ t.time.rate = u.time.rate
          ∧ t.time.refLostAcc = u.time.refLostAcc ∧ t.time.estSince = u.time.estSince ∧ Still
              { u with time := t.time } t)

/-- PTP, edges and intervals (08 R210, R211, R215 to R220); the message layouts are IEEE 1588's, log entry 80. Commands
shown to complete: ptpMessageReceive, ptpMessageSend, evtEdgeStamp, iuWindowEnd, iuHoldoffEnd, iuArm, iuDisarm. -/
def Obligations.PtpAndEdges : Prop :=
  (∀ (at_ : Nat) (p raw phase tr : Nat) (b : List Byte) (m a : PtpMessage) (k : Nat) (s u : State), u = s.tick at_ →
    u.boot.restart = none → p < 2 → ptpEn u p = true → tr = ptpTransport u p → ptpRead b = some m → m.domain =
    ptpDomain u p → m.sender.take 8 ≠ clockId u → u.time.rawStart.isSome = true → m.kind = 0 → m.twoStep = true →
    (ptpPort u p).state = 3 → (ptpPort u p).announce = some (a, k) → a.sender = m.sender →
    exec (.ptpMessageReceive at_ p raw phase tr b) s
        = .next (setPtp p { ptpPort u p with sync := some (m.seqId, rxTime u p raw phase, m.correction) } u))
  ∧ (∀ (at_ : Nat) (p raw phase tr : Nat) (b : List Byte) (m : PtpMessage) (s u : State), u = s.tick at_ → u.boot.restart =
    none → p < 2 → ptpEn u p = true → tr = ptpTransport u p → ptpRead b = some m → m.domain = ptpDomain u p →
    m.sender.take 8 ≠ clockId u → u.time.rawStart.isSome = true → m.kind = 1 → (ptpPort u p).state = 2 → ptpPeer u p =
    false →
    exec (.ptpMessageReceive at_ p raw phase tr b) s = .next (ptpOut p
      { ptpMsg u p 9 m.seqId (rxTime u p raw phase) with requester := m.sender, correction := m.correction, logInterval := toSigned 8 (cf u 0x0603 p 4 15 8) }
      u))
  ∧ (∀ (at_ : Nat) (p : Nat) (s u : State), u = s.tick at_ → u.boot.restart = none → p < 2 → ptpEn u p = true →
    u.time.rawStart.isSome = true → (ptpPort u p).state = 2 → u.time.state ≠ 0 → (ptpPort u p).lastSync + logInterval
    (toSigned 8 (cf u 0x0603 p 4 31 24)) ≤ u.now →
    ∃ t, exec (.ptpMessageSend at_ p 0) s = .next t ∧ t.ptp = u.ptp.put p
      { ptpPort u p with syncSeq := ((ptpPort u p).syncSeq + 1) % 65536, lastSync := u.now }
          ∧ t.out.length = u.out.length + (if ptpTwoStep u p then 2 else 1) ∧ Still { u with ptp := t.ptp } t)
  ∧ (∀ (at_ : Nat) (pin fine : Nat) (rise : Bool) (s u : State), u = s.tick at_ → u.time.rawStart.isSome = true → pin < 8 →
    edgeAccepted u pin rise fine = false →
    exec (.evtEdgeStamp at_ pin rise fine) s
        = .next { u with evt := u.evt.put pin { evtPin u pin with dropped := (evtPin u pin).dropped + 1 } })
  ∧ (∀ (at_ : Nat) (pin fine : Nat) (rise : Bool) (s u : State), u = s.tick at_ → u.time.rawStart.isSome = true → pin < 8 →
    edgeAccepted u pin rise fine = true →
    ∃ t, exec (.evtEdgeStamp at_ pin rise fine) s = .next t ∧ (evtPin t pin).level = rise
          ∧ (if rise then (evtPin t pin).lastRise else (evtPin t pin).lastFall) = some fine ∧ (evtPin t pin).dropped =
              (evtPin u pin).dropped ∧ t.cfg = u.cfg ∧ t.chans = u.chans ∧ t.safe = u.safe)
  ∧ (∀ (at_ : Nat) (n k : Nat) (s u : State), u = s.tick at_ → n < 4 → (unit_ u n).start = some k → (unit_ u n).state = 2 →
    k + 16 * iuWindow (unit_ u n) < 16 * rawNow u →
    ∃ t, exec (.iuWindowEnd at_ n) s = .next t ∧ (unit_ t n).state = 0 ∧ bit 9 (unit_ t n).flags = true
          ∧ (unit_ t n).interval = 0 ∧ (unit_ t n).results = ((unit_ u n).results + 1) % 2 ^ 32 ∧ (unit_ t n).start =
              none
          ∧ (∀ j, j ≠ n → unit_ t j = unit_ u j) ∧ Still { u with iu := t.iu } t)
  ∧ (∀ (at_ : Nat) (n k : Nat) (s u : State), u = s.tick at_ → n < 4 → (unit_ u n).holdEnd = some k → k ≤ 16 * rawNow u →
    exec (.iuHoldoffEnd at_ n) s
        = .next (setUnit n { unit_ u n with state := 1, holdEnd := none, armedFine := k, edges := [] } u))
  ∧ (∀ (at_ : Nat) (p : Packet) (v : Session) (r : Req) (z : State) (n : Nat) (s u : State), u = s.tick at_ → Accepted
    0x0503 p tableRole Machine.unitOk v u → r = request 0x0503 p v u → z = takenState p v u → n = r.f 0 1 → r.applyAt
    = none → (unit_ z n).state = 0 → (unit_ z n).holdEnd = none →
    exec (.iuArm at_ p) s = .next (answerOr r stOk [] 0x1010 (setUnit n
      { unit_ z n with state := 1, cfg := [0x00, 0x04, 0x08, 0x0C].map (word z 0x0605 n), armedFine := 16 * rawNow z, edges := [], start := none, overrunPend := false, holdEnd := none }
      z)))
  ∧ (∀ (at_ : Nat) (p : Packet) (v : Session) (r : Req) (z : State) (k : Int) (s u : State), u = s.tick at_ → Accepted
    0x0503 p tableRole Machine.unitOk v u → r = request 0x0503 p v u → z = takenState p v u → r.applyAt = some k →
    scheduled z < 256 →
    exec (.iuArm at_ p) s = .next { z with cz.sched := z.cz.sched ++ [{ req := r, time := k }] })
  ∧ (∀ (at_ : Nat) (p : Packet) (v : Session) (r : Req) (z : State) (n : Nat) (s u : State), u = s.tick at_ → Accepted
    0x0504 p tableRole Machine.unitOk v u → r = request 0x0504 p v u → z = takenState p v u → n = r.f 0 1 →
    exec (.iuDisarm at_ p) s
        = .next (answer r stOk [] (setUnit n
            { unit_ (iuJudge n z) n with state := 0, edges := [], start := none, holdEnd := none } (iuJudge n z))))

/-- The commands of device time (08 R193, R199, R205, R207, R220; 01 R33); that a re-base to a value keeps the servo's
state is the model's choice, log entry 95. Commands shown to complete: timeGet, timeSetInitial, timeRebase,
firstLockEdge, rebaseEdge. -/
def Obligations.TimeCommands : Prop :=
  (∀ (at_ : Nat) (p : Packet) (v : Session) (r : Req) (z : State) (s u : State), u = s.tick at_ → Accepted 0x0500 p
    tableRole (exactly 0) v u → r = request 0x0500 p v u → z = takenState p v u →
    exec (.timeGet at_ p) s = .next (answer r stOk
          (le 8 (rawNow z) ++ stampNow z ++ leS 8 z.time.rate ++ le 1 z.time.state ++ le 1 z.time.source ++ le 2 0) z))
  ∧ (∀ (at_ : Nat) (p : Packet) (v : Session) (r : Req) (z : State) (d : Int) (s u : State), u = s.tick at_ → Accepted
    0x0501 p tableRole (fun r s => exactly 24 r s && valueOk s (r.f 0 8) (slice 8 16 r.params)) v u → r = request
    0x0501 p v u → z = takenState p v u → z.time.state = 0 → z.time.step = none → d = valueStep z (r.f 0 8) (slice 8
    16 r.params) → 0 ≤ d ∨ anyRunning z = false → discFull z = false →
    exec (.timeSetInitial at_ p) s = .next (queued r [] (prepareStep 1 d 0 0 (some r) z)))
  ∧ (∀ (at_ : Nat) (p : Packet) (v : Session) (r : Req) (z : State) (s u : State), u = s.tick at_ → Accepted 0x0501 p
    tableRole (fun r s => exactly 24 r s && valueOk s (r.f 0 8) (slice 8 16 r.params)) v u → r = request 0x0501 p v u
    → z = takenState p v u → z.time.step ≠ none → exec (.timeSetInitial at_ p) s = .next (refuse r stBusy z))
  ∧ (∀ (at_ : Nat) (p : Packet) (v : Session) (r : Req) (z : State) (d : Int) (s u : State), u = s.tick at_ → Accepted
    0x0502 p tableRole (fun r s => exactly 32 r s && decide (r.f 0 1 ≤ 1) && zeroAt 1 7 r && (readDt16 (slice 16 16
    r.params)).isSome && (decide (r.f 0 1 = 0) || valueOk s (r.f 8 8) (slice 16 16 r.params))) v u → r = request
    0x0502 p v u → z = takenState p v u → z.time.state ≠ 0 → r.f 0 1 = 1 → z.time.step = none → d = valueStep z (r.f 8
    8) (slice 16 16 r.params) → 0 ≤ d ∨ anyRunning z = false → discFull z = false →
    exec (.timeRebase at_ p) s = .next (queued r [] (prepareStep 2 d 0 0 (some r) z)))
  ∧ (∀ (at_ : Nat) (p : Packet) (v : Session) (r : Req) (z : State) (s u : State), u = s.tick at_ → Accepted 0x0502 p
    tableRole (fun r s => exactly 32 r s && decide (r.f 0 1 ≤ 1) && zeroAt 1 7 r && (readDt16 (slice 16 16
    r.params)).isSome && (decide (r.f 0 1 = 0) || valueOk s (r.f 8 8) (slice 16 16 r.params))) v u → r = request
    0x0502 p v u → z = takenState p v u → z.time.step ≠ none →
    exec (.timeRebase at_ p) s = .next (refuse r stBusy z))
  ∧ (∀ (at_ : Nat) (x : TimeStep) (s u : State), u = s.tick at_ → u.time.step = some x → x.kind ≤ 1 → ((x.edge * strobeU :
    Nat) : Int) ≤ devNow u → (lateQuires u x.acks).isEmpty = true → (0 ≤ x.delta ∨ runsAtStep u x.edge = false) →
    exec (.firstLockEdge at_) s = .next (timeStep x u))
  ∧ (∀ (at_ : Nat) (x : TimeStep) (s u : State), u = s.tick at_ → u.time.step = some x → x.kind = 2 → ((x.edge * strobeU :
    Nat) : Int) ≤ devNow u → (lateQuires u x.acks).isEmpty = true → (0 ≤ x.delta ∨ runsAtStep u x.edge = false) →
    exec (.rebaseEdge at_) s = .next (timeStep x u))
  ∧ (∀ (x : TimeStep) (s t : State), t = timeStep x s →
    t.time.step = none ∧ t.time.rebases = (s.time.rebases + 1) % 2 ^ 32 ∧ t.cfg = s.cfg ∧ t.safe.image = s.safe.image
      ∧ t.part = s.part
          ∧ (x.source = 0 → x.kind = 2 → t.time.state = s.time.state))
  ∧ (∀ (x : TimeStep) (s t : State), t = timeStep x s → x.source = 0 → x.kind = 2 →
    t.time.ancDev = devNow s + x.delta ∧ t.time.ancRaw = rawNow s)

/-- Excitation status, reversal, trip and low sense (03 R67, R68, R71, R74 to R76); log entry 46. Commands shown to
complete: excStatusUpdate, reversalEdge, excTripped, senseLow, senseLowExit. -/
def Obligations.ExcitationStatusAndTrips : Prop :=
  (∀ (at_ : Nat) (e a i : Nat) (s u : State), u = s.tick at_ → e < groupCount u → (∀ g, g < groupCount u → (excOf u
    g).pulse = none) →
    exec (.excStatusUpdate at_ [(e, a, i)]) s
        = .next (setExc e { excOf u e with sense := min a 55000, iMeas := if lowSide u e then 0 else satU 16 i } u))
  ∧ (∀ (at_ : Nat) (e a : Nat) (s u : State), u = s.tick at_ → a = 2 * (e / 2) → a + 1 < groupCount u → excMode u a = 2 →
    (excOf u a).tripped = false → pulseOpened u a = false → (excOf u a).phase ≠ phaseNow u a →
    ∃ t, exec (.reversalEdge at_ e) s = .next t ∧ (∀ g ∈ switched u a, (excOf t g).phase = phaseNow u a
          ∧ (excOf t g).phaseFrom = sincTime (sincNow u / (revHalf u a : Int) * (revHalf u a : Int)) + (usU : Int))
          ∧ (∀ g, g ∉ switched u a → excOf t g = excOf u g) ∧ Still { u with exc := t.exc } t)
  ∧ (∀ (at_ : Nat) (e i : Nat) (s u : State), u = s.tick at_ → e < groupCount u → (excMode u e = 1 ∨ excMode u e = 2) →
    (excOf u e).tripped = false → pulseOpened u e = false → limitChecked u e = true → 500 * iLimit u e < i →
    ∃ t, exec (.excTripped at_ e i) s = .next t ∧ (∀ g, g ∈ switched u e → (excOf t g).tripped = true)
          ∧ (∀ g, g ∉ switched u e → excOf t g = excOf u g)
          ∧ (∀ c ∈ (switched u e).flatMap groupChans, (chan t c).marks
              = { kind := .tripped, first := winFirst (devNow u), last := none } :: (chan u c).marks)
          ∧ (∀ c, c ∉ (switched u e).flatMap groupChans → chan t c = chan u c)
          ∧ Still { u with exc := t.exc, chans := t.chans } t)
  ∧ (∀ (at_ : Nat) (e i : Nat) (s u : State), u = s.tick at_ → (i ≤ 500 * iLimit u e ∨ limitChecked u e = false) →
    exec (.excTripped at_ e i) s = .next u)
  ∧ (∀ (at_ : Nat) (e : Nat) (s u : State), u = s.tick at_ → e < groupCount u → (excMode u e = 1 ∨ excMode u e = 2) →
    (excState u e = 1 ∨ excState u e = 2) →
    ∃ t, exec (.senseLow at_ e) s = .next t ∧ (∀ g ∈ switched u e, (excOf t g).senseLow = true)
          ∧ (∀ g, g ∉ switched u e → excOf t g = excOf u g) ∧ Still { u with exc := t.exc, chans := t.chans } t)
  ∧ (∀ (at_ : Nat) (e : Nat) (s u : State), u = s.tick at_ → (excOf u e).senseLow = true →
    ∃ t, exec (.senseLowExit at_ e) s = .next t ∧ (∀ g ∈ switched u e, (excOf t g).senseLow = false
          ∧ devNow u + blankU u e ≤ (excOf t g).blankEnd) ∧ (∀ g, g ∉ switched u e → excOf t g = excOf u g) ∧ t.cfg =
              u.cfg
          ∧ t.time = u.time ∧ t.store.streams = u.store.streams)

/-- The life of a test pulse (03 R82, R83; 15 R385, R386); log entry 47. Commands shown to complete: testPulseDue,
testPulseOpen, testPulseClose, blankingEnd, excStatusUpdate. -/
def Obligations.TestPulses : Prop :=
  (∀ (at_ : Nat) (e h p w : Nat) (s u : State), u = s.tick at_ → u.safe.handover = some h → pulsePlan u e = some (p, w) →
    pulseDue u h e ((excOf u e).nextPulse.getD 0).toNat ≤ u.now → suspended u e = false → pulsePending u e = false →
    pulseBusy u e = false → excState u e = 1 →
    exec (.testPulseDue at_ e) s
        = .next (setExc e
            { excOf u e with nextPulse := some (((u.now - h) / (p * secU) + 1 : Nat) : Int), schedDue := true } u))
  ∧ (∀ (at_ : Nat) (e h p w : Nat) (s u : State), u = s.tick at_ → u.safe.handover = some h → pulsePlan u e = some (p, w) →
    pulseDue u h e ((excOf u e).nextPulse.getD 0).toNat ≤ u.now → suspended u e = false → pulsePending u e = false →
    pulseBusy u e = false → (excState u e = 0 ∨ excState u e = 4 ∨ excState u e = 5) →
    exec (.testPulseDue at_ e) s
        = .next (setExc e
            { excOf u e with nextPulse := some (((u.now - h) / (p * secU) + 1 : Nat) : Int), pulse := some { (default : Pulse) with phase := 2, result := 6, rtd := excMode u e = 3 }, schedDue := false, nowReq := none }
            u))
  ∧ (∀ (at_ : Nat) (e sense : Nat) (raw : List Int) (s u : State), u = s.tick at_ → (excOf u e).schedDue = true → (excOf u
    e).nowReq = none → pulseDeferred u e = false → (excOf u e).pulse = none → excState u e ≠ 0 → excState u e ≠ 4 →
    excState u e ≠ 5 →
    ∃ t, exec (.testPulseOpen at_ e sense raw) s = .next t ∧ (excOf t e).schedDue = false
          ∧ (excOf t e).pulse = some { (default : Pulse) with
              opened := sincTime (sincNow u), width := pulseWidth u e, phase := 0, preSense := min sense 65535, preRaw
                  := raw,
              rtd := excMode u e = 3 }
          ∧ (∀ g ∈ switched u e, sincTime (sincNow u) + pulseWidth u e + blankU u e ≤ (excOf t g).blankEnd)
          ∧ (∀ g, g ∉ switched u e → excOf t g = excOf u g) ∧ Still { u with exc := t.exc } t)
  ∧ (∀ (at_ : Nat) (e sense : Nat) (raw : List Int) (r : Req) (s u : State), u = s.tick at_ → (excOf u e).nowReq = some r →
    (excOf u e).nowAt ≤ sincNow u → pulseDeferred u e = false → (excOf u e).pulse = none → excState u e ≠ 0 → excState
    u e ≠ 4 → excState u e ≠ 5 →
    ∃ t, exec (.testPulseOpen at_ e sense raw) s = .next t ∧ (excOf t e).nowReq = none
          ∧ (excOf t e).pulse = some { (default : Pulse) with
              opened := sincTime (sincNow u), width := pulseWidth u e, phase := 0, preSense := min sense 65535, preRaw
                  := raw,
              rtd := excMode u e = 3, now_ := some r }
          ∧ (∀ g ∈ switched u e, sincTime (sincNow u) + pulseWidth u e + blankU u e ≤ (excOf t g).blankEnd)
          ∧ (∀ g, g ∉ switched u e → excOf t g = excOf u g) ∧ Still { u with exc := t.exc } t)
  ∧ (∀ (at_ : Nat) (e i sense : Nat) (raw : List Int) (k : Pulse) (s u : State), u = s.tick at_ → (excOf u e).pulse = some
    k → k.phase = 0 → k.opened + k.width ≤ devNow u →
    ∃ t, exec (.testPulseClose at_ e i sense raw) s = .next t
          ∧ (excOf t e).pulse = some
              { k with phase := 1, iPulse := i, senseMid := min sense 65535, stuck := stuckMask (k.preRaw.zip raw), stuckPair := if excMode u e = 2 then stuckMask ((k.preRaw.zip raw).drop 4) else 0 }
          ∧ (∀ g ∈ switched u e, (excOf t g).closedAt = (u.now + (k.opened + k.width - devNow u)).toNat)
          ∧ (∀ g, g ∉ switched u e → excOf t g = excOf u g) ∧ Still { u with exc := t.exc } t)
  ∧ (∀ (at_ : Nat) (e sense : Nat) (k : Pulse) (s u : State), u = s.tick at_ → (excOf u e).blankEnd ≤ devNow u → (excOf u
    e).pulse = some k → k.phase = 1 →
    exec (.blankingEnd at_ e sense) s
        = .next (setExc e
            { excOf u e with pulse := some { k with sensePost := min sense 65535, phase := 2, result := pulseResult { k with sensePost := min sense 65535 } } }
            u))
  ∧ (∀ (at_ : Nat) (e : Nat) (k : Pulse) (s u : State), u = s.tick at_ → e < groupCount u → (excOf u e).pulse = some k →
    k.phase = 2 → (∀ g, g < groupCount u → g ≠ e → (excOf u g).pulse = none) →
    ∃ t, exec (.excStatusUpdate at_ []) s = .next t ∧ (excOf t e).pulse = none ∧ (excOf t e).pulseResult = k.result
          ∧ (excOf t e).pulseCount = (if k.result = 6 then (excOf u e).pulseCount else ((excOf u e).pulseCount + 1) %
              2 ^ 32)
          ∧ (∀ g, g ≠ e → excOf t g = excOf u g) ∧ Still { u with exc := t.exc, safe := t.safe } t)

/-- Tone scans (03 R84 to R88); log entry 50. Commands shown to complete: toneScanStart, toneRoundEnd. -/
def Obligations.ToneScans : Prop :=
  (∀ (at_ : Nat) (q : Nat) (s u : State), u = s.tick at_ → q < u.part.quires → inService u q = true → cf u 0x0104 q 0 31
    16 ≠ 0 → (toneOf u q).scan = none → (toneOf u q).lastStart = none → toneChans u q ≠ [] →
    exec (.toneScanStart at_ q) s
        = .next (setTone q
            { toneOf u q with lastStart := some u.now, captureNext := false, scan := some { remaining := toneChans u q, round := toneRound (toneChans u q) [], roundStart := u.now, first := toneFirst u, capture := (toneOf u q).captureNext } }
            u))
  ∧ (∀ (at_ : Nat) (q c : Nat) (k : ToneScan) (z : ToneReading) (s u : State), u = s.tick at_ → (toneOf u q).scan = some k
    → k.roundStart + msU + cf u 0x0104 q 0 11 0 * 250 * usU ≤ u.now → k.round = [c] → k.remaining.filter (fun c =>
    !k.round.contains c) = [] → z =
    { channel := c, re := (Config.toneOpen c u.now).1, im := (Config.toneOpen c u.now).2, limited := true } →
    ∃ t, exec (.toneRoundEnd at_ q [c]) s = .next t ∧ (toneOf t q).scan = none
          ∧ (chan t c).tone.cls = toneClass u q z (chan u c).tone.base k.capture
          ∧ (chan t c).tone.re = z.re ∧ (chan t c).tone.im = z.im ∧ (chan t c).tone.seconds = secondsNow u
          ∧ (∀ d, d ≠ c → chan t d = chan u d) ∧ Still { u with chans := t.chans, tone := t.tone } t)
  ∧ (∀ (at_ : Nat) (q c : Nat) (k : ToneScan) (a : Int × Int) (z : ToneReading) (s u : State), u = s.tick at_ → (toneOf u
    q).scan = some k → k.roundStart + msU + cf u 0x0104 q 0 11 0 * 250 * usU ≤ u.now → k.round = [c] →
    k.remaining.filter (fun c => !k.round.contains c) = [] → toneReady u c (cf u 0x0104 q 0 11 0) k.first = true →
    (toneSums u c (cf u 0x0104 q 0 11 0) k.first).1 = some a → z =
    { channel := c, re := (toneZ u c (cf u 0x0104 q 0 11 0) a).1, im := (toneZ u c (cf u 0x0104 q 0 11 0) a).2, limited := false }
    →
    ∃ t, exec (.toneRoundEnd at_ q []) s = .next t ∧ (toneOf t q).scan = none
          ∧ (chan t c).tone.cls = toneClass u q z (chan u c).tone.base k.capture
          ∧ (chan t c).tone.re = z.re ∧ (chan t c).tone.im = z.im ∧ (chan t c).tone.seconds = secondsNow u
          ∧ (∀ d, d ≠ c → chan t d = chan u d) ∧ Still { u with chans := t.chans, tone := t.tone } t)
  ∧ (∀ (at_ : Nat) (q : Nat) (k : ToneScan) (s u : State), u = s.tick at_ → (toneOf u q).scan = some k → k.roundStart + msU
    + cf u 0x0104 q 0 11 0 * 250 * usU ≤ u.now → (∀ c ∈ k.round, toneReady u c (cf u 0x0104 q 0 11 0) k.first = true ∧
    (toneSums u c (cf u 0x0104 q 0 11 0) k.first).1 = none) → k.remaining.filter (fun c => !k.round.contains c) ≠ [] →
    exec (.toneRoundEnd at_ q []) s
        = .next (setTone q
            { toneOf u q with scan := some { k with remaining := k.remaining.filter (fun c => !k.round.contains c), round := toneRound (k.remaining.filter (fun c => !k.round.contains c)) [], roundStart := u.now, first := toneFirst u } }
            u))
  ∧ (∀ (at_ : Nat) (q : Nat) (k : ToneScan) (s u : State), u = s.tick at_ → (toneOf u q).scan = some k → k.roundStart + msU
    + cf u 0x0104 q 0 11 0 * 250 * usU ≤ u.now → (∀ c ∈ k.round, toneReady u c (cf u 0x0104 q 0 11 0) k.first = true ∧
    (toneSums u c (cf u 0x0104 q 0 11 0) k.first).1 = none) → k.remaining.filter (fun c => !k.round.contains c) = [] →
    exec (.toneRoundEnd at_ q []) s = .next (setTone q { toneOf u q with scan := none } u))

/-- Periods of the fault manager (16 R417, R418, R420). Commands shown to complete: coalesceWindowEnd,
coalesceRepeatPeriod, originatorEventSecond, flapSecondEnd. -/
def Obligations.CoalescedAndPeriodicReports : Prop :=
  (∀ (at_ : Nat) (ecode q : Nat) (w : CoalWin) (s u : State), u = s.tick at_ → coalWin u ecode q = some w → w.phase = 0 →
    w.opened + 2 * msU ≤ u.now → (subjectsOf w.evs).length < 8 →
    exec (.coalesceWindowEnd at_ ecode q) s = .next (dropWin ecode q (w.evs.foldl (fun s e => issue e s) u)))
  ∧ (∀ (at_ : Nat) (ecode q : Nat) (w : CoalWin) (s u : State), u = s.tick at_ → coalWin u ecode q = some w → w.phase = 0 →
    w.opened + 2 * msU ≤ u.now → 8 ≤ (subjectsOf w.evs).length → ecode ≠ 0x0401 →
    ∃ t, exec (.coalesceWindowEnd at_ ecode q) s = .next t
          ∧ coalWin t ecode q = some { w with phase := 1, evs := [], last := u.now } ∧ Still u t)
  ∧ (∀ (at_ : Nat) (q : Nat) (w : CoalWin) (s u : State), u = s.tick at_ → coalWin u 0x0401 q = some w → w.phase = 0 →
    w.opened + 2 * msU ≤ u.now → 8 ≤ (subjectsOf w.evs).length →
    exec (.coalesceWindowEnd at_ 0x0401 q) s = .next (putWin { w with phase := 2, last := u.now } u))
  ∧ (∀ (at_ : Nat) (ecode q : Nat) (w : CoalWin) (s u : State), u = s.tick at_ → coalWin u ecode q = some w → w.phase = 1 →
    w.last + 100 * msU ≤ u.now → w.evs ≠ [] →
    ∃ t, exec (.coalesceRepeatPeriod at_ ecode q) s = .next t
          ∧ coalWin t ecode q = some { w with evs := [], last := u.now } ∧ Still u t)
  ∧ (∀ (at_ : Nat) (ecode q : Nat) (w : CoalWin) (s u : State), u = s.tick at_ → coalWin u ecode q = some w → w.phase = 1 →
    w.last + 100 * msU ≤ u.now → w.evs = [] →
    exec (.coalesceRepeatPeriod at_ ecode q) s = .next (dropWin ecode q u))
  ∧ (∀ (at_ : Nat) (s u : State), u = s.tick at_ → managerRuns u = true → devSec (devNow u) ≠ u.faults.origSec →
    ∃ t, exec (.originatorEventSecond at_) s = .next t ∧ t.faults.orig = [] ∧ t.faults.origSec = devSec (devNow u) ∧ Still
      u t)
  ∧ (∀ (at_ : Nat) (s u : State), u = s.tick at_ → managerRuns u = true → devSec (devNow u) = u.faults.origSec →
    exec (.originatorEventSecond at_) s = .next u)
  ∧ (∀ (at_ : Nat) (s u : State), u = s.tick at_ → managerRuns u = true → sinceRelease u / secU ≠ u.faults.flapSec →
    ∃ t, exec (.flapSecondEnd at_) s = .next t ∧ t.faults.flapSec = sinceRelease u / secU
          ∧ t.faults.active = u.faults.active.map (fun f =>
              { f with setInSecond := false, clearInSecond := false, unlogged := 0 })
          ∧ Still u t)

/-- The witness's visits and cycles (04 R91, R99, R107 to R111; 16 R418); log entries 53 and 54. Commands shown to
complete: modulatorEndLevelReset, witnessVisitJudge, witnessCycleEnd, commonCauseTestDone. -/
def Obligations.WitnessVisits : Prop :=
  (∀ (at_ : Nat) (q c clocks : Nat) (s u : State), u = s.tick at_ → inService u q = true → c < 130 → (quire u q).running
    = true →
    ∃ t, exec (.modulatorEndLevelReset at_ q c clocks) s = .next t
          ∧ (chan t (modCode q c)).resets = u.now :: (chan u (modCode q c)).resets.filter (fun x => decide (u.now < x
              + secU))
          ∧ (∀ x, x ≠ modCode q c → chan t x = chan u x) ∧ Still { u with chans := t.chans } t)
  ∧ (∀ (at_ : Nat) (c q : Nat) (raw st p : Int) (x : Conversion) (r y : State) (s u : State), u = s.tick at_ → q = quireOf
    c → isChan u c = true → inService u q = true → witMode u q = 1 → (rrWalk q 145 u).1 = some c → r = (rrWalk q 145
    u).2 → st = (settleOf u c : Int) → rrPlace r q (st + 37) = some p → p + st + 37 ≤ nowTick u → (p + st) / 200 + 1 ≤
    (chan u c).histNew → x = convert u c (p + st) false raw → y = setWit q
    { witOf r q with rr := (witOf r q).rr + 1, slotEnd := p + st + 37 } r → judged y c x = true →
    ∃ t, exec (.witnessVisitJudge at_ c raw) s = .next t ∧ (chan t c).visits = ((chan u c).visits + 1) % 2 ^ 32
          ∧ (chan t c).wstate ≠ 0 ∧ (∀ k, k ≠ c → chan t k = chan u k) ∧ witOf t q = witOf y q
          ∧ Still { u with chans := t.chans, wit := t.wit } t)
  ∧ (∀ (at_ : Nat) (c q : Nat) (raw st p : Int) (x : Conversion) (r y : State) (s u : State), u = s.tick at_ → q = quireOf
    c → isChan u c = true → inService u q = true → witMode u q = 1 → (rrWalk q 145 u).1 = some c → r = (rrWalk q 145
    u).2 → st = (settleOf u c : Int) → rrPlace r q (st + 37) = some p → p + st + 37 ≤ nowTick u → (p + st) / 200 + 1 ≤
    (chan u c).histNew → x = convert u c (p + st) false raw → y = setWit q
    { witOf r q with rr := (witOf r q).rr + 1, slotEnd := p + st + 37 } r → judged y c x = false →
    exec (.witnessVisitJudge at_ c raw) s = .next y)
  ∧ (∀ (at_ : Nat) (q : Nat) (zero ratio : Int) (r : State) (s u : State), u = s.tick at_ → inService u q = true → witMode
    u q = 1 → r = (rrWalk q 145 u).2 → 144 ≤ (witOf r q).rr → beyond50uV (witCorrected u q 0 zero) = false →
    beyond100ppm (witCorrected u q 0 ratio) (witOf u q).ratioTap = false →
    exec (.witnessCycleEnd at_ q zero ratio) s
        = .next (setWit q
            { witOf r q with cycles := ((witOf u q).cycles + 1) % 2 ^ 32, rr := 0, failRow := 0, passRow := (witOf u q).passRow + 1 }
            r))
  ∧ (∀ (at_ : Nat) (q : Nat) (zero ratio : Int) (s u : State), u = s.tick at_ → inService u q = true → witMode u q = 1 →
    144 ≤ (witOf (rrWalk q 145 u).2 q).rr → (witOf u q).failRow = 2 → (beyond50uV (witCorrected u q 0 zero) ||
    beyond100ppm (witCorrected u q 0 ratio) (witOf u q).ratioTap) = true →
    ∃ t, exec (.witnessCycleEnd at_ q zero ratio) s = .next t ∧ (witOf t q).state = 3 ∧ (witOf t q).injections = []
          ∧ (witOf t q).cycles = ((witOf u q).cycles + 1) % 2 ^ 32 ∧ (∀ c ∈ span (128 * q) 128, (chan t c).wstate = 0)
          ∧ Still { u with wit := t.wit, chans := t.chans, cal := t.cal } t)
  ∧ (∀ (at_ : Nat) (q : Nat) (zero ratio : Int) (s u : State), u = s.tick at_ → inService u q = true → (witOf u q).state =
    3 → (witOf u q).passRow = 2 → u.conv.simul = none → (beyond50uV (witCorrected u q 0 zero) || beyond100ppm
    (witCorrected u q 0 ratio) (witOf u q).ratioTap) = false →
    ∃ t, exec (.witnessCycleEnd at_ q zero ratio) s = .next t ∧ (witOf t q).state = 1 ∧ (witOf t q).rr = 0
          ∧ (witOf t q).failRow = 0 ∧ (witOf t q).cycles = (witOf u q).cycles % 2 ^ 32
          ∧ (∀ k, k ≠ q → witOf t k = witOf u k) ∧ Still { u with wit := t.wit, chans := t.chans } t)
  ∧ (∀ (at_ : Nat) (q : Nat) (agnd vref ratio zero b e : Int) (w : CoalWin) (s u : State), u = s.tick at_ → coalWin u
    0x0401 q = some w → w.phase = 2 → witMode u q = 1 → (testSpans u q)[3]? = some (b, e) → e ≤ nowTick u →
    ∃ t, exec (.commonCauseTestDone at_ q agnd vref ratio zero) s = .next t
          ∧ coalWin t 0x0401 q = some { w with phase := 1, evs := [], last := u.now } ∧ (witOf t q).slotEnd = max
              (witOf u q).slotEnd e
          ∧ Still { u with wit := t.wit, cal := t.cal } t)

/-- Injected conversions (04 R102 to R104). Commands shown to complete: convInject, convInjectCancel, injectComplete,
injectTimeout. -/
def Obligations.Injections : Prop :=
  (∀ (at_ : Nat) (p : Packet) (v : Session) (r : Req) (z : State) (q : Nat) (s u : State), u = s.tick at_ → Accepted
    0x0300 p tableRole injectOk v u → r = request 0x0300 p v u → z = takenState p v u → q = codeQuire (r.f 0 2) →
    r.applyAt = none → r.f 6 1 = 0 → inService z q = true → z.conv.simul = none → (witOf z q).injections.length < 16 →
    (permStandin z q = none ∨ injectSettle r z ≤ 113) →
    exec (.convInject at_ p) s = .next (queued { r with ranLate := false } (le 2 ((z.conv.injectIds + nextId z) % 65536))
      { setWit q { witOf z q with injections := (witOf z q).injections ++ [{ id := (z.conv.injectIds + nextId z) % 65536, req := r, channel := r.f 0 2, count := r.f 2 2, settle := injectSettle r z, start := 0, evt := r.f 7 1, wMin := r.f 8 4, wMax := r.f 12 4, delay := r.f 16 4, deadline := z.now + r.f 20 2 * secU, hold := none, due := z.now, done := [], lead := none }] } z with conv.injectIds := z.conv.injectIds + nextId z + 1 }))
  ∧ (∀ (at_ : Nat) (p : Packet) (v : Session) (r : Req) (z : State) (s u : State), u = s.tick at_ → Accepted 0x0300 p
    tableRole injectOk v u → r = request 0x0300 p v u → z = takenState p v u → r.applyAt = none → r.f 6 1 = 0 →
    inService z (codeQuire (r.f 0 2)) = true → z.conv.simul.isSome = true →
    exec (.convInject at_ p) s = .next (refuse r stConflict z))
  ∧ (∀ (at_ : Nat) (p : Packet) (v : Session) (r : Req) (z : State) (s u : State), u = s.tick at_ → Accepted 0x0300 p
    tableRole injectOk v u → r = request 0x0300 p v u → z = takenState p v u → r.applyAt = none → r.f 6 1 = 0 →
    inService z (codeQuire (r.f 0 2)) = true → z.conv.simul = none → 16 ≤ (witOf z (codeQuire (r.f 0
    2))).injections.length → exec (.convInject at_ p) s = .next (refuse r stBusy z))
  ∧ (∀ (at_ : Nat) (p : Packet) (v : Session) (r : Req) (z : State) (q : Nat) (s u : State), u = s.tick at_ → Accepted
    0x0301 p tableRole (exactly 2) v u → r = request 0x0301 p v u → z = takenState p v u → injectionQuire z (r.f 0 2)
    = some q → exec (.convInjectCancel at_ p) s = .next (answer r stOk [] (endInjection q (r.f 0 2) 1 z)))
  ∧ (∀ (at_ : Nat) (q id : Nat) (j : Injection) (s u : State), u = s.tick at_ → injectionQuire u id = some q → (witOf u
    q).injections.find? (·.id == id) = some j → j.done.length = j.count →
    ∃ t, exec (.injectComplete at_ id) s = .next t
          ∧ witOf t q = { witOf u q with injections := (witOf u q).injections.filter (·.id != id) }
          ∧ (∀ k, k ≠ q → witOf t k = witOf u k) ∧ Still { u with wit := t.wit } t)
  ∧ (∀ (at_ : Nat) (q id : Nat) (j : Injection) (s u : State), u = s.tick at_ → injectionQuire u id = some q → (witOf u
    q).injections.find? (·.id == id) = some j → j.done.length ≠ j.count → exec (.injectComplete at_ id) s = .next u)
  ∧ (∀ (at_ : Nat) (q id : Nat) (j : Injection) (s u : State), u = s.tick at_ → injectionQuire u id = some q → (witOf u
    q).injections.find? (·.id == id) = some j → j.start = 2 → j.hold = none → j.deadline ≤ u.now →
    ∃ t, exec (.injectTimeout at_ id) s = .next t
          ∧ witOf t q = { witOf u q with injections := (witOf u q).injections.filter (·.id != id) }
          ∧ (∀ k, k ≠ q → witOf t k = witOf u k) ∧ Still { u with wit := t.wit } t)

/-- Simultaneous mode (04 R112 to R114, 15 R379). Commands shown to complete: witSimulStart, witSimulStop,
witSimulDurationEnd, simultaneousFrame. -/
def Obligations.SimultaneousMode : Prop :=
  (∀ (at_ : Nat) (p : Packet) (v : Session) (r : Req) (z : State) (s u : State), u = s.tick at_ → Accepted 0x0302 p
    tableRole simulOk v u → r = request 0x0302 p v u → z = takenState p v u → ((simulLists r).zipIdx.any fun x =>
    !x.1.isEmpty && !inService z x.2) = false → (Machine.running z (r.f 0 1) || anyStandins z || anyInjection z ||
    z.conv.simul.isSome) = false →
    ∃ t, exec (.witSimulStart at_ p) s = .next t
          ∧ t.conv =
              { z.conv with simul := some { stream := r.f 0 1, period := r.f 2 2, ends := if r.f 4 2 = 0 then none else some (z.now + r.f 4 2 * secU), lists := simulLists r, session := r.session } }
          ∧ (∀ q, q < z.part.quires → inService z q = true → (witOf z q).state ≠ 3 → witOf t q =
              { witOf z q with state := 2 })
          ∧ Still { z with conv := t.conv, wit := t.wit } t)
  ∧ (∀ (at_ : Nat) (p : Packet) (v : Session) (r : Req) (z : State) (s u : State), u = s.tick at_ → Accepted 0x0302 p
    tableRole simulOk v u → r = request 0x0302 p v u → z = takenState p v u → ((simulLists r).zipIdx.any fun x =>
    !x.1.isEmpty && !inService z x.2) = false → (Machine.running z (r.f 0 1) || anyStandins z || anyInjection z ||
    z.conv.simul.isSome) = true → exec (.witSimulStart at_ p) s = .next (refuse r stConflict z))
  ∧ (∀ (at_ : Nat) (p : Packet) (v : Session) (r : Req) (z : State) (s u : State), u = s.tick at_ → Accepted 0x0303 p
    tableRole (exactly 0) v u → r = request 0x0303 p v u → z = takenState p v u → z.conv.simul.isSome = true →
    ∃ t, exec (.witSimulStop at_ p) s = .next t ∧ t.conv = { z.conv with simul := none }
          ∧ (∀ q, q < z.part.quires → inService z q = true → (witOf z q).state ≠ 3 →
              witOf t q = { witOf z q with state := 1, rr := 0, slotEnd := nowTick z })
          ∧ Still { z with conv := t.conv, wit := t.wit } t)
  ∧ (∀ (at_ : Nat) (k : Simul) (e : Nat) (s u : State), u = s.tick at_ → u.conv.simul = some k → k.ends = some e → e ≤
    u.now → exec (.witSimulDurationEnd at_) s = .next (allWitness 1 { u with conv.simul := none }))
  ∧ (∀ (at_ : Nat) (k : Simul) (start : Nat) (l : List (Nat × Int)) (s u : State), u = s.tick at_ → u.conv.simul = some k →
    start % k.period = 0 → frameEnd u start ≤ nowTick u →
    exec (.simultaneousFrame at_ start l) s = .next (simulFolios 4 k.stream (frameResults u start l) u))
  ∧ (∀ (at_ : Nat) (start : Nat) (l : List (Nat × Int)) (s u : State), u = s.tick at_ → start % simulPeriod u ≠ 0 →
    exec (.simultaneousFrame at_ start l) s = .next u)
  ∧ (∀ (at_ : Nat) (start : Nat) (l : List (Nat × Int)) (s u : State), u = s.tick at_ → u.conv.simul = none → start % 800 =
    0 →
    ∃ t, exec (.simultaneousFrame at_ start l) s = .next t
          ∧ (∀ m, m < 128 → member t m = match (frameResults u start l).find? (fun v => decide (v.code = slotChan u
              m)) with
              | some v => { member u m with root := v.value, fresh := true }
              | none => member u m)
          ∧ Still { u with safe := t.safe } t)
  ∧ (∀ (s : State) (start : Nat) (l : List (Nat × Int)),
    ∀ x ∈ frameResults s start l, (simulQuires s).any (fun q => (simulList s q).contains x.code) = true
          ∧ l.any (fun v => v.1 == x.code) = true)

/-- The stitch links (01 R18 to R25, R29; 04 R93, R103); log entries 38 to 40. Commands shown to complete:
stitchFrameReceive, sincPeriodClose, sidebandPollTimeout, crossingFifoFull, deskewMeasurement. -/
def Obligations.StitchFrames : Prop :=
  (∀ (at_ : Nat) (f : StitchFrame) (s u : State), u = s.tick at_ → f.quire < u.part.quires → (quire u f.quire).running =
    true → (quire u f.quire).svc < 2 → (quire u f.quire).tries = [] → crc32c f.body = f.crc → f.injected = [] →
    u.conv.closed = none → u.conv.opens = [] →
    exec (.stitchFrameReceive at_ f) s = .next
      { u with conv.opens := [{ number := unwrapPeriod u f.period, firstAt := u.now, quires := [{ quire := f.quire, outs := f.outputs, standins := f.standins, temps := f.temps, common := f.common }] }] })
  ∧ (∀ (at_ : Nat) (f : StitchFrame) (k : Int) (s u : State), u = s.tick at_ → f.quire < u.part.quires → (quire u
    f.quire).running = true → (quire u f.quire).svc < 2 → (quire u f.quire).tries = [] → crc32c f.body = f.crc →
    f.injected = [] → u.conv.closed = some k → unwrapPeriod u f.period ≤ k →
    exec (.stitchFrameReceive at_ f) s
        = .next (setQuire f.quire { quire u f.quire with late := ((quire u f.quire).late + 1) % 2 ^ 32 } u))
  ∧ (∀ (at_ : Nat) (f : StitchFrame) (id : Nat) (raw a x : Int) (j : Injection) (s u : State), u = s.tick at_ → f.quire <
    u.part.quires → (quire u f.quire).running = true → (quire u f.quire).svc < 2 → crc32c f.body = f.crc → f.injected
    = [(id, raw)] → (witOf u f.quire).injections.find? (·.id == id) = some j → witMode u f.quire = 1 → j.done.length <
    j.count → injectSlot u f.quire j = some (a, x) → x + 37 ≤ nowTick u →
    ∃ t, exec (.stitchFrameReceive at_ f) s = .next t
          ∧ witOf t f.quire =
              { witOf u f.quire with slotEnd := max (witOf u f.quire).slotEnd (x + 37), injections := (witOf u f.quire).injections.map fun k => if k.id = id then { k with done := k.done ++ [convert u j.channel x (decide (j.start ≠ 0) && (match j.done.getLast? with | none => j.hold | some v => some ((v.instant : Int) + 50)).any (· != x)) raw] } else k }
          ∧ Still { u with wit := t.wit, conv := t.conv, quires := t.quires } t)
  ∧ (∀ (at_ : Nat) (f : StitchFrame) (s u : State), u = s.tick at_ → f.quire < u.part.quires → (quire u f.quire).running =
    true → ((quire u f.quire).tries.find? fun x => x.1 == f.seq) = none → crc32c f.body ≠ f.crc →
    exec (.stitchFrameReceive at_ f) s
        = .next (toQuire f.quire 0 f.seq (setQuire f.quire
            { quire u f.quire with crcFails := ((quire u f.quire).crcFails + 1) % 2 ^ 32, replays := ((quire u f.quire).replays + 1) % 2 ^ 32, tries := (f.seq, 1, u.now) :: (quire u f.quire).tries }
            u)))
  ∧ (∀ (at_ : Nat) (f : StitchFrame) (a : Nat) (s u : State), u = s.tick at_ → f.quire < u.part.quires → (quire u
    f.quire).running = true → ((quire u f.quire).tries.find? fun x => x.1 == f.seq) = some (f.seq, 2, a) → crc32c
    f.body ≠ f.crc →
    ∃ t, exec (.stitchFrameReceive at_ f) s = .next t ∧ (quire t f.quire).lost = ((quire u f.quire).lost + 1) % 2 ^ 32
          ∧ (quire t f.quire).tries = (quire u f.quire).tries.filter (fun x => x.1 != f.seq)
          ∧ (∀ k, k ≠ f.quire → quire t k = quire u k) ∧ t.cfg = u.cfg ∧ t.time = u.time ∧ t.exc = u.exc)
  ∧ (∀ (at_ : Nat) (m : Int) (x : OpenPeriod) (s u : State), u = s.tick at_ → u.conv.opens.find? (fun y => y.number == m) =
    some x → (arrived u x = true ∨ x.firstAt + 8 * sincU ≤ u.now) → (u.conv.closed = none ∨ u.conv.closed = some (m -
    1)) →
    ∃ t, exec (.sincPeriodClose at_ m) s = .next t ∧ t.conv.closed = some m
          ∧ t.conv.opens = u.conv.opens.filter (fun y => decide (m < y.number))
          ∧ Still { u with chans := t.chans, wit := t.wit, cal := t.cal, conv := t.conv } t)
  ∧ (∀ (at_ : Nat) (q : Nat) (s u : State), u = s.tick at_ → q < u.part.quires → (quire u q).running = true → (quire u
    q).svc ≠ 2 → (quire u q).outSince = 0 →
    ∃ t, exec (.sidebandPollTimeout at_ q) s = .next t ∧ (quire t q).svc = 1 ∧ (quire t q).drainEdge = none
          ∧ (quire t q).outSince = max 1 u.now ∧ (∀ k, k ≠ q → quire t k = quire u k)
          ∧ Still { u with quires := t.quires, chans := t.chans, wit := t.wit, cal := t.cal, safe := t.safe } t)
  ∧ (∀ (at_ : Nat) (q : Nat) (s u : State), u = s.tick at_ → q < u.part.quires → (quire u q).running = false → (quire u
    q).svc ≠ 2 →
    ∃ t, exec (.sidebandPollTimeout at_ q) s = .next t ∧ (quire t q).svc = 2 ∧ (witOf t q).state = 4
          ∧ (∀ k, k ≠ q → quire t k = quire u k) ∧ Still { u with quires := t.quires, wit := t.wit } t)
  ∧ (∀ (at_ : Nat) (q : Nat) (m : Int) (s u : State), u = s.tick at_ → inService u q = true →
    ∃ t, exec (.crossingFifoFull at_ 0 q m) s = .next t
          ∧ (∀ k, k < 130 → ((chan t (modCode q k)).marks.any fun y => y.kind == .lost && y.covers m) = true)
          ∧ Still { u with chans := t.chans } t)
  ∧ (∀ (at_ : Nat) (x q : Nat) (m : Int) (s u : State), u = s.tick at_ → 2 ≤ x →
    exec (.crossingFifoFull at_ x q m) s = .next (raise (evB 0x0204 q (le 1 x ++ le 1 q ++ zeros 6)) u))
  ∧ (∀ (at_ : Nat) (q : Nat) (need : Int) (s u : State), u = s.tick at_ → q < u.part.quires → u.time.rawStart.isSome = true
    → (quire u q).reentry ≠ 1 → (quire u q).svc ≠ 2 → (quire u q).running = true → u.boot.stage = 3 → ((quire u
    q).deskewAt = 0 ∨ (quire u q).deskewAt + secU ≤ u.now) →
    exec (.deskewMeasurement at_ q need) s = .next (if ((4 * (quire u q).delay : Nat) : Int) + 10 < need then
            setQuire q { quire u q with delay := min 255 ((quire u q).delay + 1), deskewAt := max 1 u.now } u
          else if need + 10 < ((4 * (quire u q).delay : Nat) : Int) then
            setQuire q { quire u q with delay := (quire u q).delay - 1, deskewAt := max 1 u.now } u
          else u))
  ∧ (∀ (at_ : Nat) (q : Nat) (need : Int) (s u : State), u = s.tick at_ → (quire u q).reentry ≠ 1 → (quire u q).running =
    true → (u.boot.stage ≠ 3 ∨ ((quire u q).deskewAt ≠ 0 ∧ u.now < (quire u q).deskewAt + secU)) →
    exec (.deskewMeasurement at_ q need) s = .next u)
  ∧ (∀ (at_ : Nat) (q d : Nat) (need : Int) (s u : State), u = s.tick at_ → q < u.part.quires → u.time.rawStart.isSome =
    true → (quire u q).reentry ≠ 1 → (quire u q).svc ≠ 2 → (quire u q).running = false → deskewStep need = some d →
    exec (.deskewMeasurement at_ q need) s = .next (setQuire q { quire u q with delay := d, measured := true } u))
  ∧ (∀ (at_ : Nat) (q : Nat) (need : Int) (s u : State), u = s.tick at_ → q < u.part.quires → u.time.rawStart.isSome = true
    → (quire u q).reentry ≠ 1 → (quire u q).svc ≠ 2 → (quire u q).running = false → deskewStep need = none →
    ∃ t, exec (.deskewMeasurement at_ q need) s = .next t ∧ (quire t q).svc = 2 ∧ (witOf t q).state = 4
          ∧ (∀ k, k ≠ q → quire t k = quire u k) ∧ Still { u with quires := t.quires, wit := t.wit } t)
  ∧ (∀ (at_ : Nat) (q d : Nat) (need : Int) (s u : State), u = s.tick at_ → q < u.part.quires → u.time.rawStart.isSome =
    true → (quire u q).reentry = 1 → deskewStep need = some d →
    ∃ t, exec (.deskewMeasurement at_ q need) s = .next t
          ∧ quire t q =
              { quire u q with digest := if (quire u q).loaded then (quire u q).digest else romDigest, delay := d, measured := true, reentry := 2, reentryEdge := secondCeil (devNow u + (1250 * usU : Nat)) }
          ∧ (∀ k, k ≠ q → quire t k = quire u k) ∧ Still { u with quires := t.quires } t)

/-- The output of one channel for a sinc number (01 R29; 03 R62; 04 R89, R115). -/
def Obligations.SincPeriodOutput : Prop :=
  (∀ (f s t : State) (m w : Int) (o : OpenQuire) (c k : Nat), heldAt s c m = false → ((chan s c).marks.any fun x =>
    x.covers m) = false → o.outs.find? (fun p => p.1 == k) = some (k, w) → o.common.contains k = false → w.natAbs ≤ 2
    ^ 27 → t = closeChan f m (some o) c k s →
    (chan t c).hist = phaseSign f c m * w * sincStep (modGain f c) :: (chan s c).hist
          ∧ (chan t c).raw = w * sincStep (modGain f c) :: (chan s c).raw
          ∧ (chan t c).histNew = m ∧ (chan t c).marks = (chan s c).marks ∧ (∀ x, x ≠ c → chan t x = chan s x)
          ∧ Still { s with chans := t.chans } t ∧ t.store = s.store)
  ∧ (∀ (f s t : State) (m : Int) (c k : Nat), heldAt s c m = false → (chan s c).marks = [] → t = closeChan f m none c k s →
    (chan t c).hist = (chan s c).hist.headD 0 :: (chan s c).hist ∧ (chan t c).raw = (chan s c).raw.headD 0 :: (chan s
      c).raw
          ∧ (chan t c).histNew = m ∧ ((chan t c).marks.any fun y => y.kind == .lost && y.covers m) = true
          ∧ (∀ x, x ≠ c → chan t x = chan s x) ∧ Still { s with chans := t.chans } t ∧ t.store = s.store)
  ∧ (∀ (f s t : State) (m w : Int) (o : OpenQuire) (c k : Nat), heldAt s c m = true → o.outs.find? (fun p => p.1 == k) =
    some (k, w) → o.common.contains k = false → ((chan s c).hist.headD 0).natAbs ≤ 2 ^ 27 * (sincStep (modGain f
    c)).natAbs → t = closeChan f m (some o) c k s →
    (chan t c).hist = (chan s c).hist.headD 0 :: (chan s c).hist
          ∧ (chan t c).raw = w * sincStep (modGain f c) :: (chan s c).raw ∧ (chan t c).marks = (chan s c).marks
          ∧ (∀ x, x ≠ c → chan t x = chan s x) ∧ Still { s with chans := t.chans } t ∧ t.store = s.store)
  ∧ (∀ (f s t : State) (m y : Int) (o : OpenQuire) (c k : Nat), heldAt s c m = false → ((chan s c).marks.any fun x =>
    x.kind.holds && x.covers m) = false → ((chan s c).marks.any fun x => (x.kind == .standin || x.kind == .range) &&
    x.covers m) = true → o.common.contains k = false → y.natAbs ≤ 2 ^ 27 * (sincStep (modGain f c)).natAbs →
    standinValue f c m (some o) = some (y, false) → t = closeChan f m (some o) c k s →
    (chan t c).hist = y :: (chan s c).hist ∧ (chan t c).histNew = m ∧ (chan t c).marks = (chan s c).marks
          ∧ (∀ x, x ≠ c → chan t x = chan s x) ∧ Still { s with chans := t.chans } t ∧ t.store = s.store)

/-- Draining a quire, and prepares (01 R19, R33; 17 R423, R424); log entry 41. Commands shown to complete: quireDrain,
sidebandPrepareAck, prepareDeadline, drainEdge, quireStop. -/
def Obligations.DrainsAndPrepares : Prop :=
  (∀ (at_ : Nat) (p : Packet) (v : Session) (r : Req) (z : State) (q : Nat) (s u : State), u = s.tick at_ → Accepted
    0x0B05 p quireRole (Machine.quireOk 0) v u → r = request 0x0B05 p v u → z = takenState p v u → q = r.f 0 1 →
    (quire z q).svc = 0 → serviceBusy z = false → z.conv.simul = none → pairsSpared z q = true →
    ∃ t, exec (.quireDrain at_ p) s = .next t ∧ (quire t q).svc = 1 ∧ (quire t q).drainReq = some r
          ∧ (quire t q).drainEdge = some (25 * (sincCeil (devNow z + (msU : Int))).toNat)
          ∧ (∀ k, k ≠ q → quire t k = quire z k)
          ∧ Still { z with quires := t.quires, chans := t.chans, wit := t.wit, cal := t.cal } t)
  ∧ (∀ (at_ : Nat) (q edge : Nat) (s u : State), u = s.tick at_ → devNow u ≤ ackLimit edge → u.time.step = none →
    ∃ t, exec (.sidebandPrepareAck at_ q edge) s = .next t
          ∧ t.cz.commits = u.cz.commits.map (fun c => if c.edge = edge then { c with acks := q :: c.acks } else c)
          ∧ (quire t q).drainAcks = (if (quire u q).drainEdge = some edge then q :: (quire u q).drainAcks else (quire
              u q).drainAcks)
          ∧ Still { u with quires := t.quires } t)
  ∧ (∀ (at_ : Nat) (c : PendCommit) (q edge : Nat) (s u : State), u = s.tick at_ → devNow u ≤ ackLimit edge → u.cz.commits
    = [c] → c.edge = edge → allAcked u c.acks = false → allAcked u (q :: c.acks) = true →
    ∃ t, exec (.sidebandPrepareAck at_ q edge) s = .next t ∧ t.out = (forAll (servingQuires u) (fun q => toQuire q 3 edge)
      u).out)
  ∧ (∀ (at_ : Nat) (q edge : Nat) (s u : State), u = s.tick at_ → ackLimit edge < devNow u →
    exec (.sidebandPrepareAck at_ q edge) s = .next u)
  ∧ (∀ (at_ : Nat) (c : PendCommit) (edge : Nat) (s u : State), u = s.tick at_ → ackLimit edge ≤ devNow u → u.cz.commits =
    [c] → c.edge = edge → lateQuires u c.acks ≠ [] → u.time.step = none → (∀ q, q < u.part.quires → (quire u q).svc =
    0) → ∃ t, exec (.prepareDeadline at_ edge) s = .next t ∧ t.cz.commits = [] ∧ Still u t)
  ∧ (∀ (at_ : Nat) (q e : Nat) (s u : State), u = s.tick at_ → (quire u q).drainEdge = some e → (quire u q).svc = 1 →
    (quire u q).outSince = 0 → (quire u q).drainAcks ≠ [] → ((e * strobeU : Nat) : Int) ≤ devNow u →
    ∃ t, exec (.drainEdge at_ q) s = .next t
          ∧ quire t q = { quire u q with outSince := max 1 u.now, warmHeld := (ensOf u q).warm }
          ∧ (∀ k, k < 130 → ((chan t (modCode q k)).marks.any fun y => y.kind == .out && y.covers (e / 25 : Nat)) =
              true)
          ∧ Still { u with quires := t.quires, chans := t.chans, wit := t.wit, cal := t.cal, safe := t.safe } t)
  ∧ (∀ (at_ : Nat) (q e : Nat) (s u : State), u = s.tick at_ → (quire u q).drainEdge = some e → (quire u q).svc = 1 →
    (quire u q).outSince = 0 → (quire u q).drainAcks = [] → ((e * strobeU : Nat) : Int) ≤ devNow u →
    ∃ t, exec (.drainEdge at_ q) s = .next t ∧ quire t q =
      { quire u q with svc := 0, drainEdge := none, drainReq := none }
          ∧ (∀ k, k ≠ q → quire t k = quire u k) ∧ Still { u with quires := t.quires } t)
  ∧ (∀ (at_ : Nat) (q : Nat) (s u : State), u = s.tick at_ → (quire u q).svc = 1 → (quire u q).outSince ≠ 0 → (quire u
    q).outSince + msU ≤ u.now →
    ∃ t, exec (.quireStop at_ q) s = .next t ∧ (quire t q).svc = 2 ∧ (quire t q).running = false
          ∧ (witOf t q).state = 4 ∧ (ensOf t q).comparing = 0 ∧ (∀ x, x ≠ q → quire t x = quire u x)
          ∧ Still { u with quires := t.quires, wit := t.wit, cal := t.cal } t)

/-- Back into service (17 R426 to R430). Commands shown to complete: quireReenter, ucodeLoad, ucodeLoadDone,
reentryModulatorStart, reentryReleaseEdge. -/
def Obligations.ReentryAndMicrocode : Prop :=
  (∀ (at_ : Nat) (p : Packet) (v : Session) (r : Req) (z : State) (q : Nat) (s u : State), u = s.tick at_ → Accepted
    0x0B06 p quireRole (Machine.quireOk 1) v u → r = request 0x0B06 p v u → z = takenState p v u → q = r.f 0 1 →
    (quire z q).svc = 2 → (quire z q).reentry = 0 → (quire z q).loading = none →
    exec (.quireReenter at_ p) s = .next (toQuire q 5 0 (queued r [] (setQuire q
      { quire z q with reentry := 1, reentryReq := some r, sweep := bit 0 (r.f 1 1), sweepLeft := [] } z))))
  ∧ (∀ (at_ : Nat) (p : Packet) (v : Session) (r : Req) (z : State) (s u : State), u = s.tick at_ → Accepted 0x0B06 p
    quireRole (Machine.quireOk 1) v u → r = request 0x0B06 p v u → z = takenState p v u → ((quire z (r.f 0 1)).svc ≠ 2
    ∨ (quire z (r.f 0 1)).reentry ≠ 0 ∨ (quire z (r.f 0 1)).loading ≠ none) →
    exec (.quireReenter at_ p) s = .next (refuse r stConflict z))
  ∧ (∀ (at_ : Nat) (p : Packet) (v : Session) (r : Req) (z : State) (q : Nat) (y : State) (s u : State), u = s.tick at_ →
    Accepted 0x0B07 p tableRole (Machine.quireOk 0) v u → r = request 0x0B07 p v u → z = takenState p v u → q = r.f 0
    1 → (quire z q).svc = 2 → (quire z q).reentry = 0 → (quire z q).loading = none → ucodeTransfer z = false → y =
    queued r [] z →
    exec (.ucodeLoad at_ p) s = .next (if imgCheck y 3 ≠ 0 ∨ (imgState y.flash.ucode ≠ 1 ∧ imgState y.flash.ucode ≠ 2)
      then
            faulted r 0x0F02 (raise (ev 0x0F02 q) y)
          else toQuire q 4 0 (setQuire q { quire y q with loading := some r } y)))
  ∧ (∀ (at_ : Nat) (q : Nat) (d : List Byte) (r : Req) (s u : State), u = s.tick at_ → (quire u q).loading = some r → d =
    flashBytes u.flash.ucode 24 32 →
    exec (.ucodeLoadDone at_ q d) s
        = .next (answer r stOk d (jDone r d (setQuire q
            { quire u q with loading := none, loaded := true, digest := d } u))))
  ∧ (∀ (at_ : Nat) (q : Nat) (d : List Byte) (r : Req) (s u : State), u = s.tick at_ → (quire u q).loading = some r → d ≠
    flashBytes u.flash.ucode 24 32 →
    ∃ t, exec (.ucodeLoadDone at_ q d) s = .next t ∧ (quire t q).loading = none ∧ (quire t q).loaded = false
          ∧ (quire t q).digest = romDigest ∧ (∀ k, k ≠ q → quire t k = quire u k) ∧ Still
              { u with quires := t.quires } t)
  ∧ (∀ (at_ : Nat) (q : Nat) (s u : State), u = s.tick at_ → (quire u q).reentry = 2 → ((quire u q).sweep = true ∨ (((quire
    u q).reentryEdge * secU : Nat) : Int) - msU ≤ devNow u) →
    exec (.reentryModulatorStart at_ q) s = .next (setQuire q
      { quire u q with reentry := 3, running := true, sweepLeft := if (quire u q).sweep then span (128 * q) 128 else [] }
      (setEns q { ensOf u q with thetaFrom := sincNext u } u)))
  ∧ (∀ (at_ : Nat) (q : Nat) (island : Int) (held : Bool) (s u : State), u = s.tick at_ → (quire u q).reentry = 3 → (quire
    u q).sweepLeft = [] → (((quire u q).reentryEdge * secU : Nat) : Int) ≤ devNow u →
    ∃ t, exec (.reentryReleaseEdge at_ q island held) s = .next t ∧ (quire t q).svc = 0 ∧ (quire t q).reentry = 0
          ∧ (quire t q).outSince = 0 ∧ (quire t q).held = [] ∧ (quire t q).lossAt = []
          ∧ (witOf t q).state = (if u.conv.simul.isSome then 2 else 1)
          ∧ (ensOf t q).warm = (if held ∧ (quire u q).warmHeld ≠ 0 then (quire u q).warmHeld else if island.natAbs ≤
              1000000 then 2 else 1)
          ∧ t.cfg = (applyWords (quire u q).held u).cfg ∧ ((quire u q).held = [] → t.exc = u.exc)
          ∧ (∀ x, x ≠ q → quire t x = quire u x) ∧ t.time = u.time ∧ t.lanes = u.lanes)

/-- Permanent stand-ins (14 R371, 17 R431); log entry 55. Commands shown to complete: standinSet, permanentStandinStart,
diagStitch. -/
def Obligations.PermanentStandins : Prop :=
  (∀ (at_ : Nat) (p : Packet) (v : Session) (r : Req) (z : State) (c : Nat) (s u : State), u = s.tick at_ → Accepted
    0x0B08 p standinRole standinOk v u → r = request 0x0B08 p v u → z = takenState p v u → c = r.f 0 2 → r.f 2 1 = 1 →
    inService z (quireOf c) = true → (witOf z (quireOf c)).perm ≠ some c → standinRefused z c = false →
    exec (.standinSet at_ p) s = .next (answer r stOk [] (setWit (quireOf c)
      { witOf (jDone r [] z) (quireOf c) with perm := some c, permAt := some (sincCeil (devNow (jDone r [] z) + (msU : Int))), permReq := (jDone r [] z).now }
      (jDone r [] z))))
  ∧ (∀ (at_ : Nat) (p : Packet) (v : Session) (r : Req) (z : State) (c : Nat) (s u : State), u = s.tick at_ → Accepted
    0x0B08 p standinRole standinOk v u → r = request 0x0B08 p v u → z = takenState p v u → c = r.f 0 2 → r.f 2 1 = 1 →
    inService z (quireOf c) = true → (witOf z (quireOf c)).perm ≠ some c → standinRefused z c = true →
    exec (.standinSet at_ p) s = .next (refuse r stConflict z))
  ∧ (∀ (at_ : Nat) (p : Packet) (v : Session) (r : Req) (z : State) (c : Nat) (s u : State), u = s.tick at_ → Accepted
    0x0B08 p standinRole standinOk v u → r = request 0x0B08 p v u → z = takenState p v u → c = r.f 0 2 → inService z
    (quireOf c) = true → (witOf z (quireOf c)).perm = some c →
    exec (.standinSet at_ p) s
        = .next (answer r stOk [] (if r.f 2 1 = 0 then withdrawStandin c (jDone r [] z) else z)))
  ∧ (∀ (at_ : Nat) (q c : Nat) (m : Int) (s u : State), u = s.tick at_ → (witOf u q).perm = some c → (witOf u q).permAt =
    some m → quireOf c = q → m ≤ sincNow u → (witOf u q).state ≠ 3 → (witOf u q).state ≠ 4 → injectionsBefore u q
    u.now = false → (witOf u q).posA = none → calStandin u q = none →
    ∃ t, exec (.permanentStandinStart at_ q) s = .next t ∧ (witOf t q).permAt = none
          ∧ (witOf t q).posA = some { channel := c, kind := 2, first := sincNow u, last := none, suspended := false }
          ∧ (∀ x, x ≠ c → chan t x = chan u x) ∧ Still { u with wit := t.wit, chans := t.chans } t)
  ∧ (∀ (at_ : Nat) (q : Nat) (s u : State), u = s.tick at_ → injectionsBefore u q u.now = true →
    exec (.permanentStandinStart at_ q) s = .next u)
  ∧ (∀ (at_ : Nat) (p : Packet) (v : Session) (r : Req) (z : State) (s u : State), u = s.tick at_ → Accepted 0x0A04 p
    tableRole (exactly 0) v u → r = request 0x0A04 p v u → z = takenState p v u →
    exec (.diagStitch at_ p) s = .next (answer r stOk (diagReply r z) z))

/-- Comparisons and warming (07 R159 to R168, R186; 02 R49). Commands shown to complete: fullComparisonDue,
quickComparisonDue, comparisonComplete, warmingStateAdvance, heaterFault, heaterRegained. -/
def Obligations.EnsembleComparisons : Prop :=
  (∀ (at_ : Nat) (q e : Nat) (s u : State), u = s.tick at_ → u.boot.restart = none → (ensOf u q).nextFull = some e → e ≤
    u.now → (ensOf u q).comparing = 0 → ((ensOf u q).warm = 3 ∨ (ensOf u q).warm = 4) → inService u q = true →
    exec (.fullComparisonDue at_ q) s = .next (setEns q
      { latchPolicy u q (ensOf u q) with comparing := 2, compStart := u.now, nextFull := some (u.now + cf u 0x0501 q 8 15 0 * secU) }
      u))
  ∧ (∀ (at_ : Nat) (q : Nat) (s u : State), u = s.tick at_ → u.boot.restart = none → (ensOf u q).warm = 2 → (ensOf u
    q).lastQuick + 60 * secU ≤ u.now → inService u q = true →
    ∃ t, exec (.quickComparisonDue at_ q) s = .next t
          ∧ ensOf t q = { latchPolicy u q (ensOf u q) with lastQuick := u.now, comparing := 1, compStart := u.now }
          ∧ (∀ x, x ≠ q → ensOf t x = ensOf u x) ∧ Still { u with cal := t.cal } t)
  ∧ (∀ (at_ : Nat) (q : Nat) (l : List Bool) (s u : State), u = s.tick at_ → u.boot.restart = none → (ensOf u q).comparing
    = 1 → (ensOf u q).compStart + 32 * secU ≤ u.now → (∀ i, i < 8 → connected (zener (ensOf u q) i) = true) → (∀ i, i
    < 8 → l.getD i false = false) → (∀ i, i < 8 → rabs (deviation u q i) ≤ 1000000) →
    ∃ t, exec (.comparisonComplete at_ q l) s = .next t ∧ (ensOf t q).comparing = 0
          ∧ (∀ i, i < 8 → (zener (ensOf t q) i).d = deviation u q i ∧ (zener (ensOf t q) i).state = (zener (ensOf u q)
              i).state)
          ∧ (ensOf t q).fullCount = (ensOf u q).fullCount ∧ (∀ x, x ≠ q → ensOf t x = ensOf u x)
          ∧ Still { u with cal := t.cal, chans := t.chans } t)
  ∧ (∀ (at_ : Nat) (q : Nat) (l : List Bool) (s u : State), u = s.tick at_ → u.boot.restart = none → (ensOf u q).comparing
    = 2 → (ensOf u q).compStart + 96 * secU ≤ u.now → (∀ i, i < 8 → connected (zener (ensOf u q) i) = true) → (∀ i, i
    < 8 → l.getD i false = false) → (∀ i, i < 8 → rabs (deviation u q i) ≤ 1000000) →
    ∃ t, exec (.comparisonComplete at_ q l) s = .next t ∧ (ensOf t q).comparing = 0
          ∧ (∀ i, i < 8 → (zener (ensOf t q) i).d = deviation u q i)
          ∧ (ensOf t q).fullCount = (ensOf u q).fullCount + 1 ∧ (ensOf t q).dayComp = (ensOf u q).dayComp + 1
          ∧ (∀ x, x ≠ q → ensOf t x = ensOf u x) ∧ t.cfg = u.cfg ∧ t.time = u.time ∧ t.wit = u.wit)
  ∧ (∀ (at_ : Nat) (q : Nat) (l : List Bool) (s u : State), u = s.tick at_ → u.boot.restart = none → inService u q = true →
    (ensOf u q).warm = 4 → (ensOf u q).comparing = 2 → (ensOf u q).compStart + 96 * secU ≤ u.now → (∀ i, i < 8 →
    connected (zener (ensOf u q) i) = true) → l[0]? = some true →
    ∃ t, exec (.comparisonComplete at_ q l) s = .next t ∧ (zener (ensOf t q) 0).state = 4
          ∧ ((ensOf t q).qs.any fun x => x.why == .hard && x.last.isNone) = true
          ∧ (ensOf t q).comparing = 1 ∧ (ensOf t q).compStart = u.now ∧ (ensOf t q).fEns = (ensOf u q).fEns
          ∧ (∀ x, x ≠ q → ensOf t x = ensOf u x) ∧ Still { u with cal := t.cal, flash := t.flash } t)
  ∧ (∀ (at_ : Nat) (q : Nat) (isl : Int) (n : Nat) (s u : State), u = s.tick at_ → q < u.part.quires → (ensOf u q).warm = 1
    → isl.natAbs ≤ 1000000 →
    ∃ t, exec (.warmingStateAdvance at_ q isl n) s = .next t
          ∧ ensOf t q = Ensemble.warmed { ensOf u q with leftCold := u.now, lastQuick := 0, island := isl } 2
              (sincNext u)
          ∧ (∀ x, x ≠ q → ensOf t x = ensOf u x) ∧ Still { u with cal := t.cal } t)
  ∧ (∀ (at_ : Nat) (q : Nat) (isl : Int) (n : Nat) (s u : State), u = s.tick at_ → q < u.part.quires → (ensOf u q).warm = 2
    → 300 ≤ n → (ensOf u q).leftCold + (ensOf u q).warm1 * secU ≤ u.now → settledBy (ensOf u q) true 10 100 = true →
    cfBit u 0x0501 q 4 1 = false →
    ∃ t, exec (.warmingStateAdvance at_ q isl n) s = .next t
          ∧ ensOf t q = Ensemble.warmed { ensOf u q with nextFull := some u.now, island := isl } 3 (sincNext u)
          ∧ (∀ x, x ≠ q → ensOf t x = ensOf u x) ∧ Still { u with cal := t.cal } t)
  ∧ (∀ (at_ : Nat) (q : Nat) (isl : Int) (n : Nat) (s u : State), u = s.tick at_ → q < u.part.quires → (ensOf u q).warm = 3
    → (ensOf u q).leftCold + (ensOf u q).warm2 * secU ≤ u.now → settledBy (ensOf u q) false 2 20 = true →
    ∃ t, exec (.warmingStateAdvance at_ q isl n) s = .next t ∧ ensOf t q = (ensOf u q).warmed 4 (sincNext u)
          ∧ (∀ x, x ≠ q → ensOf t x = ensOf u x) ∧ Still { u with cal := t.cal } t)
  ∧ (∀ (at_ : Nat) (q n : Nat) (absent : Bool) (s u : State), u = s.tick at_ → q < u.part.quires → (ensOf u q).warm = 2 →
    (absent = true ∨ 10 ≤ n) →
    ∃ t, exec (.heaterFault at_ q absent n) s = .next t
          ∧ ensOf t q = Ensemble.warmed { ensOf u q with comparing := 0, nextFull := none } 5 (sincNext u)
          ∧ (∀ x, x ≠ q → ensOf t x = ensOf u x) ∧ Still { u with cal := t.cal, flash := t.flash } t)
  ∧ (∀ (at_ : Nat) (q : Nat) (s u : State), u = s.tick at_ → (ensOf u q).warm = 5 →
    ∃ t, exec (.heaterRegained at_ q) s = .next t ∧ ensOf t q = (ensOf u q).warmed 1 (sincNext u)
          ∧ (∀ x, x ≠ q → ensOf t x = ensOf u x) ∧ Still { u with cal := t.cal, flash := t.flash } t)

/-- Calibration of channels and witnesses (04 R105; 07 R169 to R174; 17 R429, R433). Commands shown to complete:
calTemperatureTrigger, calAgeTrigger, channelCalGrant, safetyCalRefused, channelCalResult, witnessCalibrationDue. -/
def Obligations.CalibrationRuns : Prop :=
  (∀ (at_ : Nat) (c : Nat) (s u : State), u = s.tick at_ → u.boot.restart = none → isChan u c = true → cfBit u 0x0501
    (quireOf c) 4 0 = true → (chan u c).run = none → (witOf u (quireOf c)).perm ≠ some c → beyondSince u c (sincNow u
    - 2560000) = true → exec (.calTemperatureTrigger at_ c) s = .next (queueCal c false none u))
  ∧ (∀ (at_ : Nat) (c : Nat) (x : RangeCal) (s u : State), u = s.tick at_ → u.boot.restart = none → isChan u c = true →
    (chan u c).run = none → (witOf u (quireOf c)).perm ≠ some c → (chan u c).cal.find (gainOf u c) = some x → x.at_ +
    cf u 0x0501 (quireOf c) 8 31 16 * 3600 * secU < u.now →
    exec (.calAgeTrigger at_ c) s = .next (queueCal c false none u))
  ∧ (∀ (c : Nat) (st : Bool) (s t : State), (chan s c).run = none → t = queueCal c st none s →
    (chan t c).run = some
      { state := if isMember s c then 3 else 1, since := s.now, selfTest := st, req := none, range := gainOf s c, first := 0, repeats := [] }
          ∧ t.cal.queue = s.cal.queue ++ [(c, false)] ∧ (∀ x, x ≠ c → chan t x = chan s x)
          ∧ Still { s with chans := t.chans, cal := t.cal } t)
  ∧ (∀ (at_ : Nat) (q c a : Nat) (r : CalRun) (m : Int) (s u : State), u = s.tick at_ → u.boot.restart = none → calReady u
    q = some c → (chan u c).run = some r → calAsked u q = some a → injectionsBefore u q a = false → calStandin u q =
    none → (witAsked u q).any (· < a) = false → (witOf u q).posA = none → m = firstStandin u q →
    ∃ t, exec (.channelCalGrant at_ q) s = .next t
          ∧ (chan t c).run = some
              { r with state := 2, since := u.now, range := gainOf u c, first := m, repeats := [] }
          ∧ (chan t c).marks = { kind := .standin, first := m, last := some (m + 12546), atA := true } :: (chan u
              c).marks
          ∧ (witOf t q).posA = some
              { channel := c, kind := 1, first := m, last := some (m + 12546), suspended := false }
          ∧ (∀ j ∈ (witOf t q).injections, j.start = 0 → u.now ≤ j.due)
          ∧ t.cal.queue = u.cal.queue.filter (·.1 != c) ∧ (∀ x, x ≠ c → chan t x = chan u x)
          ∧ Still { u with chans := t.chans, wit := t.wit, cal := t.cal } t)
  ∧ (∀ (at_ : Nat) (q c : Nat) (r : CalRun) (s u : State), u = s.tick at_ → u.boot.restart = none → calReady u q = some c →
    (chan u c).run = some r → calAsked u q = none →
    ∃ t, exec (.channelCalGrant at_ q) s = .next t
          ∧ chan t c =
              { chan u c with run := some { r with state := 2, since := u.now, range := gainOf u c, first := sincNext u, repeats := [] } }
          ∧ t.cal.queue = u.cal.queue.filter (·.1 != c) ∧ (∀ x, x ≠ c → chan t x = chan u x)
          ∧ Still { u with chans := t.chans, cal := t.cal } t)
  ∧ (∀ (s : State) (q c : Nat), calReady s q = some c →
    inCrown s = true ∧ (quire s q).svc = 0 ∧ (ensOf s q).warm ≠ 1 ∧ (ensOf s q).warm ≠ 5 ∧ calRunning s q = false
          ∧ s.conv.simul = none ∧ witMode s q = 1 ∧ nextCal s q = some c ∧ calAllowed s c = true)
  ∧ (∀ (at_ : Nat) (c : Nat) (r : CalRun) (s u : State), u = s.tick at_ → u.boot.restart = none → (chan u c).run = some r →
    r.state = 3 → calTurn u (quireOf c) = some c → calReady u (quireOf c) = none → max r.since (witOf u (quireOf
    c)).calFreed + 10 * secU ≤ u.now →
    ∃ t, exec (.safetyCalRefused at_ c) s = .next t ∧ chan t c =
      { chan u c with run := none, lastOutcome := 8, lastRange := r.range }
          ∧ t.cal.queue = u.cal.queue.filter (·.1 != c) ∧ (∀ x, x ≠ c → chan t x = chan u x)
          ∧ Still { u with chans := t.chans, cal := t.cal } t)
  ∧ (∀ (at_ : Nat) (c : Nat) (r : CalRun) (sweep : Int × Int × Int) (drop : Int × Int) (s u : State), u = s.tick at_ → ¬
    ((quire u (quireOf c)).reentry = 3 ∧ (quire u (quireOf c)).sweepLeft.head? = some c) → (chan u c).run = some r →
    r.state = 2 → r.last < (chan u c).histNew →
    exec (.channelCalResult at_ c sweep drop) s
        = .next (calJudge c r.range r.selfTest false (calMeas u c r.range (runVolts u c r) drop) (setChan c
            { chan u c with run := none } u)))
  ∧ (∀ (at_ : Nat) (c q : Nat) (a b d : Int) (drop : Int × Int) (s u : State), u = s.tick at_ → q = quireOf c → (quire u
    q).reentry = 3 → (quire u q).sweepLeft.head? = some c →
    ∃ t, exec (.channelCalResult at_ c (a, b, d) drop) s = .next t ∧ (quire t q).sweepLeft = (quire u
      q).sweepLeft.drop 1
          ∧ chan t c = chan (calJudge c (gainOf u c) false true (calMeas u c (gainOf u c) ((a : Rat) * (sincStep
              (gainOf u c) : Rat) / 3840, (b : Rat) * (sincStep (gainOf u c) : Rat) / 3840, (d : Rat) * (sincStep
              (gainOf u c) : Rat) / 3840) drop) u) c
          ∧ (∀ x, x ≠ q → quire t x = quire u x) ∧ Still { u with chans := t.chans, cal := t.cal, quires := t.quires }
              t)
  ∧ (∀ (c g : Nat) (x : CalMeas) (s t : State), calFails s c g x = 0 → t = calJudge c g false true x s →
    (chan t c).cal.find g = some
      { o := x.o, g := x.g, theta := dieTemp s (quireOf c), seconds := fullSeconds s, at_ := s.now, valid := true, iNa := if rtdI s c = 0 then 0 else x.iNa, iOld := (rangeCal s c g).iNa, iFrom := nextMs s }
          ∧ (chan t c).lastOutcome = 1 ∧ (chan t c).calCount = ((chan s c).calCount + 1) % 2 ^ 32
          ∧ (∀ k, k ≠ c → chan t k = chan s k) ∧ Still { s with chans := t.chans, cal := t.cal } t)
  ∧ (∀ (c g : Nat) (x : CalMeas) (st : Bool) (s t : State), calFails s c g x ≠ 0 → t = calJudge c g st false x s →
    (chan t c).cal = (chan s c).cal ∧ (chan t c).lastOutcome = (if st then 3 else 4) ∧ (chan t c).calCount = (chan s
      c).calCount
          ∧ (∀ k, k ≠ c → chan t k = chan s k) ∧ Still { s with chans := t.chans, cal := t.cal } t)
  ∧ (∀ (at_ : Nat) (q : Nat) (zero ratio vref : Int) (d1 d16 : Int × Int) (s u : State), u = s.tick at_ → u.boot.restart =
    none → inCrown u = true → inService u q = true → witMode u q = 1 → (ensOf u q).refShift = false → ((span (128 * q)
    128).filter fun c => decide ((chan u c).wstate = 2)).length ≤ 8 → injectionsBefore u q u.now = false → (witOf u
    q).calAt + 86400 * secU ≤ u.now →
    ∃ t, exec (.witnessCalibrationDue at_ q zero d1 d16 ratio vref) s = .next t
          ∧ (witOf t q).zero = zero ∧ (witOf t q).gainErr1 = dacError 0 d1.1 d1.2 ∧ (witOf t q).gainErr16 = dacError 1
              d16.1 d16.2
          ∧ (witOf t q).ratioTap = witCorrected t q 0 ratio ∧ (witOf t q).vref = witCorrected t q 0 vref
          ∧ (witOf t q).calAt = u.now ∧ (witOf t q).calTheta = dieTemp u q ∧ (∀ x, x ≠ q → witOf t x = witOf u x)
          ∧ Still { u with wit := t.wit } t)
  ∧ (∀ (at_ : Nat) (q : Nat) (zero ratio vref : Int) (d1 d16 : Int × Int) (s u : State), u = s.tick at_ → (ensOf u
    q).refShift = true → exec (.witnessCalibrationDue at_ q zero d1 d16 ratio vref) s = .next u)

/-- The margin planner and RING (07 R181 to R185). Commands shown to complete: plannerDueWarn, plannerDue,
dailyRingRecord. -/
def Obligations.PlannerAndRings : Prop :=
  (∀ (at_ : Nat) (q r : Nat) (s u : State), u = s.tick at_ → u.boot.restart = none → r < 5 → (ensOf u q).warned.contains
    r = false → planReached u q r (cf u 0x0501 q 0x0C 15 0) = true →
    ∃ t, exec (.plannerDueWarn at_ q r) s = .next t ∧ ensOf t q = { ensOf u q with warned := r :: (ensOf u q).warned }
          ∧ (∀ x, x ≠ q → ensOf t x = ensOf u x) ∧ Still { u with cal := t.cal } t)
  ∧ (∀ (at_ : Nat) (q r : Nat) (s u : State), u = s.tick at_ → u.boot.restart = none → r < 5 → (ensOf u q).due.contains r =
    false → planReached u q r 0 = true →
    ∃ t, exec (.plannerDue at_ q r) s = .next t
          ∧ ensOf t q =
              { ensOf u q with due := r :: (ensOf u q).due, qs := openQ (.overdue r) (sincNext u) (ensOf u q).qs }
          ∧ (∀ x, x ≠ q → ensOf t x = ensOf u x) ∧ Still { u with cal := t.cal } t)
  ∧ (∀ (at_ : Nat) (q r : Nat) (s u : State), u = s.tick at_ → (ensOf u q).warned.contains r = true → (ensOf u
    q).due.contains r = true → exec (.plannerDueWarn at_ q r) s = .next u ∧ exec (.plannerDue at_ q r) s = .next u)
  ∧ (∀ (at_ : Nat) (day : Nat) (s u : State), u = s.tick at_ → u.boot.restart = none → u.time.state ≠ 0 → day = devSec
    (devNow u) / 86400 → u.part.quires = 1 → (ensOf u 0).dayLast < day → u.flash.ring.length < ringCap → u.flash.bad =
    [] →
    ∃ t, exec (.dailyRingRecord at_) s = .next t
          ∧ ensOf t 0 =
              { ensOf u 0 with dayComp := 0, dayCal := 0, dayDev := [], dayAvg := [], dayLast := day, dayIsl := (0, 0, 0, 0) }
          ∧ t.flash.ring.length = u.flash.ring.length + 1 ∧ t.flash.rseq.get 0 0 = u.flash.rseq.get 0 0 + 1
          ∧ (t.flash.ring.getLast?.map fun x => (x.quire, x.kind, x.rseq, x.seconds)) = some (0, 1, u.flash.rseq.get 0
              0, 86400 * day)
          ∧ Still { u with cal := t.cal, flash := t.flash } t)
  ∧ (∀ (at_ : Nat) (s u : State), u = s.tick at_ → u.time.state ≠ 0 → u.part.quires = 1 → devSec (devNow u) / 86400 ≤
    (ensOf u 0).dayLast → exec (.dailyRingRecord at_) s = .next u)

/-- The calibration commands (14 R357, 07 R177); log entry 63. Commands shown to complete: calChannel, calAbort,
ensCompareNow, calExtStd, extStdQuireDone. -/
def Obligations.CalibrationCommands : Prop :=
  (∀ (at_ : Nat) (p : Packet) (v : Session) (r : Req) (z : State) (l : List Nat) (s u : State), u = s.tick at_ → Accepted
    0x0400 p tableRole calOk v u → r = request 0x0400 p v u → z = takenState p v u → l = codesAt r 4 (r.f 2 2) → (∀ c,
    c ∈ l → inService z (quireOf c) = true) →
    exec (.calChannel at_ p) s = .next (forAll l (fun c => queueCal c (decide (r.f 0 1 = 1)) (some r)) (queued r []
      { z with cal.jobs := z.cal.jobs ++ [{ req := r, items := l.map fun c => (c, none) }] })))
  ∧ (∀ (at_ : Nat) (p : Packet) (v : Session) (r : Req) (z : State) (c : Nat) (s u : State), u = s.tick at_ → Accepted
    0x0401 p tableRole abortOk v u → r = request 0x0401 p v u → z = takenState p v u → r.f 0 2 = 1 → c = r.f 4 2 →
    (chan z c).run = none →
    exec (.calAbort at_ p) s = .next (answer r stOk (le 2 1 ++ le 2 0 ++ (le 2 c ++ le 1 0 ++ le 1 0)) z))
  ∧ (∀ (at_ : Nat) (p : Packet) (v : Session) (r : Req) (z : State) (c : Nat) (x : CalRun) (s u : State), u = s.tick at_ →
    Accepted 0x0401 p tableRole abortOk v u → r = request 0x0401 p v u → z = takenState p v u → r.f 0 2 = 1 → c = r.f
    4 2 → (chan z c).run = some x → x.state = 1 →
    exec (.calAbort at_ p) s
        = .next (answer r stOk (le 2 1 ++ le 2 0 ++ (le 2 c ++ le 1 1 ++ le 1 0)) (abandonCal c 5 (sincNext z) z)))
  ∧ (∀ (at_ : Nat) (p : Packet) (v : Session) (r : Req) (z : State) (q : Nat) (s u : State), u = s.tick at_ → Accepted
    0x0402 p tableRole (fun r s => decide (r.params.length = 4) && zeroAt 1 3 r && maskOk s (r.f 0 1)) v u → r =
    request 0x0402 p v u → z = takenState p v u → maskQuires z (r.f 0 1) = [q] → inService z q = true → (ensOf z
    q).warm = 2 ∨ (ensOf z q).warm = 3 ∨ (ensOf z q).warm = 4 →
    exec (.ensCompareNow at_ p) s = .next (startQuick q (queued r []
      { z with cal.comps := z.cal.comps ++ [{ req := r, todo := [q], notRun := [] }] })))
  ∧ (∀ (at_ : Nat) (p : Packet) (v : Session) (r : Req) (z : State) (s u : State), u = s.tick at_ → Accepted 0x0403 p
    tableRole extOk v u → r = request 0x0403 p v u → z = takenState p v u → z.cal.sealOpen = true → z.cal.ext = none →
    (∀ q, q ∈ maskQuires z (r.f 0 1) → inService z q = true ∧ (ensOf z q).warm = 4) →
    exec (.calExtStd at_ p) s = .next (queued r []
      { z with cal.ext := some { req := r, todo := maskQuires z (r.f 0 1), done := [], force := bit 0 (r.f 1 1), cert := r.f 4 4, value := ofF64 (r.f 8 8), uV := ofF64 (r.f 16 8), valueBits := r.f 8 8, uBits := r.f 16 8, olds := [], integ := r.f 2 2, since := extTurn z (maskQuires z (r.f 0 1)) } }))
  ∧ (∀ (at_ : Nat) (p : Packet) (v : Session) (r : Req) (z : State) (s u : State), u = s.tick at_ → Accepted 0x0403 p
    tableRole extOk v u → r = request 0x0403 p v u → z = takenState p v u → z.cal.sealOpen = false →
    exec (.calExtStd at_ p) s = .next (refuse r stSealed z))
  ∧ (∀ (at_ : Nat) (q n : Nat) (x : ExtStd) (s u : State), u = s.tick at_ → u.cal.ext = some x → x.todo = [q] → x.since +
    (10 + 2 * x.integ) * secU ≤ u.now → extVolts u q x = 0 →
    exec (.extStdQuireDone at_ q n) s = .next (extNext
      { x with todo := [], olds := x.olds ++ [ppb (ensOf u q).kExt], done := x.done ++ [(q, 1, ppb (ensOf u q).kExt, n)] }
      u))
  ∧ (∀ (at_ : Nat) (q n : Nat) (x : ExtStd) (k : Rat) (s u : State), u = s.tick at_ → u.cal.ext = some x → x.todo = [q] →
    x.since + (10 + 2 * x.integ) * secU ≤ u.now → extVolts u q x ≠ 0 → k = x.value / extVolts u q x → rabs (k - 1) *
    1000000 ≤ (if x.force then 2000 else 100) →
    ∃ t, exec (.extStdQuireDone at_ q n) s = .next t ∧ (ensOf t q).kExt = k ∧ t.cal.ext = none
          ∧ (ensOf t q).transfers =
              { seconds := fullSeconds u, kExt := k, uRel := x.uV / rabs x.value * 1000000, uTr := (n : Rat) / 1000 }
              :: (ensOf u q).transfers
          ∧ (ensOf t q).warned = [] ∧ (ensOf t q).due = [] ∧ (∀ y, y ≠ q → ensOf t y = ensOf u y)
          ∧ Still { u with cal := t.cal, chans := t.chans, flash := t.flash } t)

/-- The seal and RING_EXPORT (07 R179 to R181). Commands shown to complete: calSealOpen, calSealClose, ensMemberSet,
ringExport. -/
def Obligations.SealAndExport : Prop :=
  (∀ (at_ : Nat) (p : Packet) (v : Session) (r : Req) (z : State) (s u : State), u = s.tick at_ → Accepted 0x0404 p
    tableRole (exactly 0) v u → r = request 0x0404 p v u → z = takenState p v u → z.cal.sealOpen = false →
    ∃ t, exec (.calSealOpen at_ p) s = .next t ∧ t.cal = { z.cal with sealOpen := true }
          ∧ t.flash.sealCount = z.flash.sealCount + 1 ∧ t.flash.cal = z.flash.cal.map (fun c =>
              { c with sealOk := false })
          ∧ Still { z with cal := t.cal, flash := t.flash } t)
  ∧ (∀ (at_ : Nat) (p : Packet) (v : Session) (r : Req) (z : State) (s u : State), u = s.tick at_ → Accepted 0x0405 p
    tableRole (exactly 0) v u → r = request 0x0405 p v u → z = takenState p v u → z.cal.sealOpen = true → z.cal.ext =
    none → z.flash.bad.contains 5 = false →
    ∃ t, exec (.calSealClose at_ p) s = .next t ∧ t.cal.sealOpen = false ∧ t.cal.invalid = false
          ∧ t.flash.cal = some (calSet z) ∧ t.cal.digest = (calSet z).digest ∧ t.cal.closeSeconds = secondsNow z
          ∧ t.flash.sealCount = z.flash.sealCount ∧ Still { z with cal := t.cal, flash := t.flash, chans := t.chans }
              t)
  ∧ (∀ (at_ : Nat) (p : Packet) (v : Session) (r : Req) (z : State) (q i : Nat) (s u : State), u = s.tick at_ → Accepted
    0x0406 p tableRole memberOk v u → r = request 0x0406 p v u → z = takenState p v u → q = r.f 0 1 → i = r.f 1 1 →
    z.cal.sealOpen = true → r.f 2 1 = 3 → (zener (ensOf z q) i).state = 0 → inService z q = true → (ensOf z q).warm =
    4 →
    ∃ t, exec (.ensMemberSet at_ p) s = .next t ∧ (zener (ensOf t q) i).state = 3 ∧ (ensOf t q).comparing = 1
          ∧ (ensOf t q).compStart = z.now ∧ (∀ x, x ≠ q → ensOf t x = ensOf z x)
          ∧ Still { z with cal := t.cal, flash := t.flash } t)
  ∧ (∀ (at_ : Nat) (p : Packet) (v : Session) (r : Req) (z : State) (s u : State), u = s.tick at_ → Accepted 0x0406 p
    tableRole memberOk v u → r = request 0x0406 p v u → z = takenState p v u → z.cal.sealOpen = false →
    exec (.ensMemberSet at_ p) s = .next (refuse r stSealed z))
  ∧ (∀ (at_ : Nat) (p : Packet) (v : Session) (r : Req) (z : State) (s u : State), u = s.tick at_ → Accepted 0x0407 p
    tableRole (fun r s => decide (r.params.length = 24) && zeroAt 1 7 r && maskOk s (r.f 0 1) && decide (r.f 8 8 ≤ r.f
    16 8)) v u → r = request 0x0407 p v u → z = takenState p v u → z.flash.ring = [] →
    exec (.ringExport at_ p) s = .next (answer r stOk (le 4 0 ++ le 4 0) (queued r [] z)))
  ∧ (∀ (at_ : Nat) (p : Packet) (v : Session) (r : Req) (z : State) (q : Nat) (x : RingRec) (s u : State), u = s.tick at_ →
    Accepted 0x0407 p tableRole (fun r s => decide (r.params.length = 24) && zeroAt 1 7 r && maskOk s (r.f 0 1) &&
    decide (r.f 8 8 ≤ r.f 16 8)) v u → r = request 0x0407 p v u → z = takenState p v u → maskQuires z (r.f 0 1) = [q]
    → z.flash.ring = [x] → x.quire = q → r.f 8 8 ≤ x.seconds → x.seconds ≤ r.f 16 8 → x.bad = false →
    exec (.ringExport at_ p) s = .next (answer r stOk (le 4 1 ++ le 4 0) (put3 0x22 1 x.bytes (queued r [] z))))

/-- The TRIP outputs (15 R384 to R391); log entry 11. Commands shown to complete: groupReleaseTimer, tripToggleEdge,
tripReadback, degradedTimerExpiry, pulseOverdue. -/
def Obligations.TripOutputs : Prop :=
  (∀ (at_ : Nat) (g : Nat) (s u : State), u = s.tick at_ → g < 4 → (safeGroup u g).state = 3 → (safeGroup u g).present =
    0 → groupCauses u g = 0 → cfBit u 0x0B02 g 0 31 = false → (safeGroup u g).latched &&& latching = 0 → (safeGroup u
    g).clearSince + cf u 0x0B02 g 0 15 0 * msU ≤ u.now →
    ∃ t, exec (.groupReleaseTimer at_ g) s = .next t ∧ (safeGroup t g).state = runState u g ∧ (safeGroup t g).latched
      = 0
          ∧ (∀ x, x ≠ g → safeGroup t x = safeGroup u x) ∧ t.safe.pairs = u.safe.pairs ∧ Still
              { u with safe := t.safe } t)
  ∧ (∀ (at_ : Nat) (g : Nat) (s u : State), u = s.tick at_ → g < 4 → ((safeGroup u g).state = 1 ∨ (safeGroup u g).state =
    2) → (safeGroup u g).toggling = true →
    exec (.tripToggleEdge at_ g) s = .next (setGroup g
      { safeGroup u g with levelA := !(safeGroup u g).levelA, edges := (safeGroup u g).edges + 1, readAt := u.now + 250 * usU }
      u))
  ∧ (∀ (at_ : Nat) (g : Nat) (s u : State), u = s.tick at_ → g < 4 → ((safeGroup u g).state = 1 ∨ (safeGroup u g).state =
    2) → (safeGroup u g).toggling = false →
    exec (.tripToggleEdge at_ g) s = .next (setGroup g
      { safeGroup u g with toggling := true, levelA := true, edges := (safeGroup u g).edges + 1, readAt := u.now + 250 * usU, missA := 0, missB := 0 }
      u))
  ∧ (∀ (at_ : Nat) (g : Nat) (s u : State), u = s.tick at_ → g < 4 → (safeGroup u g).state ≠ 1 → (safeGroup u g).state ≠ 2
    → exec (.tripToggleEdge at_ g) s = .next u)
  ∧ (∀ (at_ : Nat) (g : Nat) (s u : State), u = s.tick at_ → g < 4 → (safeGroup u g).toggling = true → (safeGroup u
    g).readAt ≠ 0 → (safeGroup u g).readAt ≤ u.now →
    exec (.tripReadback at_ g (safeGroup u g).levelA (!(safeGroup u g).levelA)) s
        = .next (setGroup g { safeGroup u g with readAt := 0, missA := 0, missB := 0 } u))
  ∧ (∀ (at_ : Nat) (g : Nat) (b : Bool) (s u : State), u = s.tick at_ → g < 4 → ((safeGroup u g).state = 1 ∨ (safeGroup u
    g).state = 2) → (safeGroup u g).toggling = true → (safeGroup u g).readAt ≠ 0 → (safeGroup u g).readAt ≤ u.now →
    (safeGroup u g).missA = 2 →
    ∃ t, exec (.tripReadback at_ g (!(safeGroup u g).levelA) b) s = .next t ∧ (safeGroup t g).state = 3
          ∧ bit 6 (safeGroup t g).latched = true ∧ (safeGroup t g).toggling = false
          ∧ (∀ x, x ≠ g → safeGroup t x = safeGroup u x) ∧ t.safe.pairs = u.safe.pairs ∧ Still
              { u with safe := t.safe } t)
  ∧ (∀ (at_ : Nat) (p d : Nat) (s u : State), u = s.tick at_ → p < 64 → pairEn u p = true → (safePair u p).degradedAt =
    some d → cf u 0x0B01 p 8 11 0 * secU * 1000000 ≤ (u.now - d) * 970874 →
    ∃ t, exec (.degradedTimerExpiry at_ p) s = .next t ∧ (safePair t p).expired = true ∧ (safePair t p).state = 3
          ∧ bit 3 (safePair t p).trip = true ∧ (safeGroup t (pairGroup u p)).state = 3
          ∧ (∀ x, x ≠ p → safePair t x = safePair u x) ∧ (∀ x, x ≠ pairGroup u p → safeGroup t x = safeGroup u x) ∧
              Still { u with safe := t.safe } t)
  ∧ (∀ (at_ : Nat) (e h m : Nat) (s u : State), u = s.tick at_ → u.safe.handover = some h → groupSlots u e = [m] →
    ((safePair u (m / 2)).degradedAt = none ∨ available u m = false) → max (h : Int) (excOf u e).lastPass + (2 * cf u
    0x0B02 (pairGroup u (m / 2)) 4 31 16 * secU : Nat) ≤ u.now →
    exec (.pulseOverdue at_ e) s = .next (setMember m { member u m with overdue := true } u))

/-- Evaluations (15 R378 to R381, R391, R392). Commands shown to complete: rootSafetyEvaluation, safetyEvaluation,
handoverToMainPath, handoverOverlapEnd, safeConfigCheck. -/
def Obligations.SafetyEvaluation : Prop :=
  (∀ (at_ : Nat) (s u : State), u = s.tick at_ → u.boot.stage ≠ 0 →
    ∃ t, exec (.rootSafetyEvaluation at_) s = .next t
          ∧ (∀ g, g < 4 → groupPairs u g = [] → (safeGroup t g).state = 3 ∧ bit 7 (safeGroup t g).latched = true)
          ∧ t.safe.image = u.safe.image ∧ Still { u with safe := t.safe } t)
  ∧ (∀ (at_ : Nat) (k : Nat) (s u : State), u = s.tick at_ → u.boot.modsOn = true → u.safe.lastEval < k → ((k * 125 * usU :
    Nat) : Int) ≤ devNow u → valuesIn u k = true →
    exec (.safetyEvaluation at_ k) s = .next (crownEval k (if u.safe.adopt then adopt u else u)))
  ∧ (∀ (at_ : Nat) (k : Nat) (s u : State), u = s.tick at_ → (k ≤ u.safe.lastEval ∨ devNow u < ((k * 125 * usU : Nat) :
    Int)) → exec (.safetyEvaluation at_ k) s = .next u)
  ∧ (∀ (k : Nat) (s t : State), t = crownEval k s →
    t.safe.lastEval = k ∧ (∀ g, g < 4 → groupPairs s g = [] → (safeGroup t g).state = 3) ∧ t.safe.image = s.safe.image
          ∧ Still { s with safe := t.safe } t)
  ∧ (∀ (s t : State), t = adopt s →
    t.safe.image = s.flash.safe ∧ t.safe.corr = s.flash.safeCorr ∧ t.safe.adopt = false ∧ t.safe.corrOk = true
          ∧ t.safe.crcBad = false ∧ t.boot.safeOk = true
          ∧ Still { s with safe := t.safe, exc := t.exc, boot.safeOk := true } t)
  ∧ (∀ (at_ : Nat) (p : Nat) (s u : State), u = s.tick at_ → pairEn u p = true → (safePair u p).main = false →
    u.boot.modsOn = true → servedSlots u p ≠ [] → (servedSlots u p).all (memberFull u) = true →
    ∃ t, exec (.handoverToMainPath at_ p) s = .next t
          ∧ safePair t p = { safePair u p with main := true, overlap := 65, path := default, pathTrip := 0 }
          ∧ (∀ x, x ≠ p → safePair t x = safePair u x) ∧ t.safe.groups = u.safe.groups ∧ Still
              { u with safe := t.safe } t)
  ∧ (∀ (at_ : Nat) (p : Nat) (s u : State), u = s.tick at_ → (safePair u p).main = true → (safePair u p).overlap = 1 →
    ∃ t, exec (.handoverOverlapEnd at_ p) s = .next t ∧ (safePair t p).overlap = 0 ∧ (safePair t p).main = true
          ∧ (safePair t p).path = (safePair u p).wit.larger (safePair u p).path ∧ (safePair t p).witTrip = 0
          ∧ (∀ x, x ≠ p → safePair t x = safePair u x) ∧ Still
              { u with safe := t.safe, wit := t.wit, chans := t.chans } t)
  ∧ (∀ (at_ : Nat) (bad : Bool) (s u : State), u = s.tick at_ → u.boot.stage ≠ 0 →
    ∃ t, exec (.safeConfigCheck at_ bad) s = .next t
          ∧ (∀ g, g < 4 → (safeGroup t g).configBad = ((groupPairs u g).any fun p => !(memberAgrees u (2 * p) &&
              memberAgrees u (2 * p + 1))))
          ∧ (∀ g, g < 4 → groupPairs u g = [] → (safeGroup t g).state = 3)
          ∧ t.safe.crcBad = (u.safe.crcBad || bad) ∧ t.safe.pairs = u.safe.pairs ∧ Still { u with safe := t.safe } t)

/-- One evaluation of a pair (15 R373, R382). -/
def Obligations.LimitCounts : Prop :=
  (∀ (l d : Nat) (far : Bool) (a b : Seen) (c : PathCount),
    (pathStep l d far a b c).1.limA = (if a.cause ≠ 0 then c.limA else if a.out then c.limA + 1 else 0)
          ∧ (pathStep l d far a b c).1.limB = (if b.cause ≠ 0 then c.limB else if b.out then c.limB + 1 else 0)
          ∧ (bit 0 (pathStep l d far a b c).2.1 = true ↔ l ≤ (pathStep l d far a b c).1.limA ∨ l ≤ (pathStep l d far a
              b c).1.limB)
          ∧ (bit 1 (pathStep l d far a b c).2.1 = true ↔ d ≤ (pathStep l d far a b c).1.count)
          ∧ (bit 2 (pathStep l d far a b c).2.1 = true ↔ a.cause ≠ 0 ∧ b.cause ≠ 0))
  ∧ (∀ (l d : Nat) (far : Bool) (a b : Seen) (c : PathCount), a.cause ≠ 0 ∨ b.cause ≠ 0 →
    (pathStep l d far a b c).1.count = c.count ∧ (pathStep l d far a b c).1.run = c.run)
  ∧ (∀ (l d : Nat) (far : Bool) (a b : Seen) (c : PathCount), a.cause = 0 → b.cause = 0 → far = true ∨ a.out ≠ b.out →
    (pathStep l d far a b c).1.count = c.count + 1 ∧ (pathStep l d far a b c).1.run = 0)
  ∧ (∀ (l d : Nat) (a b : Seen) (c : PathCount), a.cause = 0 → b.cause = 0 → a.out = b.out → 3 ≤ c.run →
    (pathStep l d false a b c).1.count = 0)

/-- The commands of the limit watch (14 R358 to R361). Commands shown to complete: safeStatus, safeLockOpen,
safeLockClose, safeTripReset, safePulseNow. -/
def Obligations.SafetyCommands : Prop :=
  (∀ (at_ : Nat) (p : Packet) (v : Session) (r : Req) (z : State) (s u : State), u = s.tick at_ → Accepted 0x0800 p
    tableRole (exactly 0) v u → r = request 0x0800 p v u → z = takenState p v u →
    exec (.safeStatus at_ p) s = .next (answer r stOk (safeReply z) z))
  ∧ (∀ (at_ : Nat) (p : Packet) (v : Session) (r : Req) (z : State) (s u : State), u = s.tick at_ → Accepted 0x0801 p
    tableRole (exactly 0) v u → r = request 0x0801 p v u → z = takenState p v u → z.safe.lockOpen = false →
    ∃ t, exec (.safeLockOpen at_ p) s = .next t
          ∧ t.safe =
              { z.safe with lockOpen := true, working := if z.safe.adopt then z.flash.safe else z.safe.image, workingCorr := if z.safe.adopt then z.flash.safeCorr else z.safe.corr }
          ∧ t.flash.lockCount = z.flash.lockCount + 1 ∧ t.flash.safe = z.flash.safe ∧ Still
              { z with safe := t.safe, flash := t.flash } t)
  ∧ (∀ (at_ : Nat) (p : Packet) (v : Session) (r : Req) (z : State) (s u : State), u = s.tick at_ → Accepted 0x0802 p
    tableRole (exactly 4) v u → r = request 0x0802 p v u → z = takenState p v u → z.safe.lockOpen = true → r.f 0 4 =
    safeCrc (workingImage z) → firstBreach (workingImage z) = none → z.flash.bad.contains 4 = false →
    ∃ t, exec (.safeLockClose at_ p) s = .next t ∧ t.safe.lockOpen = false ∧ t.safe.adopt = true
          ∧ t.safe.image = z.safe.image ∧ t.flash.safe = z.safe.working ∧ t.flash.safeCorr = (workingImage
              z).safe.corr
          ∧ t.flash.safeOk1 = true ∧ t.flash.safeOk2 = true ∧ t.flash.lockCount = z.flash.lockCount
          ∧ Still { z with safe := t.safe, flash := t.flash } t)
  ∧ (∀ (at_ : Nat) (p : Packet) (v : Session) (r : Req) (z : State) (s u : State), u = s.tick at_ → Accepted 0x0802 p
    tableRole (exactly 4) v u → r = request 0x0802 p v u → z = takenState p v u → (z.safe.lockOpen = false ∨ r.f 0 4 ≠
    safeCrc (workingImage z)) → exec (.safeLockClose at_ p) s = .next (answer r stConflict (zeros 4) z))
  ∧ (∀ (at_ : Nat) (p : Packet) (v : Session) (r : Req) (z : State) (s u : State), u = s.tick at_ → Accepted 0x0803 p
    tableRole (fun r s => exactly 4 r s && decide (1 ≤ r.f 0 1 ∧ r.f 0 1 < 16) && zeroAt 1 3 r) v u → r = request
    0x0803 p v u → z = takenState p v u → r.f 0 1 = 8 → (safeGroup z 3).state = 4 → bit 5 (safeGroup z 3).latched =
    false →
    ∃ t, exec (.safeTripReset at_ p) s = .next t ∧ (safeGroup t 3).state = runState z 3 ∧ (safeGroup t 3).latched = 0
          ∧ (∀ x, x ≠ 3 → safeGroup t x = safeGroup z x) ∧ t.safe.pairs = z.safe.pairs ∧ Still
              { z with safe := t.safe } t)
  ∧ (∀ (at_ : Nat) (p : Packet) (v : Session) (r : Req) (z : State) (e : Nat) (s u : State), u = s.tick at_ → Accepted
    0x0804 p tableRole (fun r s => exactly 4 r s && decide (r.f 0 2 < groupCount s) && zeroAt 2 2 r && safetyHeld s
    (r.f 0 2)) v u → r = request 0x0804 p v u → z = takenState p v u → e = r.f 0 2 → inService z (e / 32) = true →
    pulsePending z e = false → pulseBusy z e = false →
    exec (.safePulseNow at_ p) s = .next (queued r [] (setExc e
      { excOf z e with nowReq := some r, nowAt := sincCeil (devNow z + (msU : Int)) } z)))
  ∧ (∀ (at_ : Nat) (p : Packet) (v : Session) (r : Req) (z : State) (s u : State), u = s.tick at_ → Accepted 0x0804 p
    tableRole (fun r s => exactly 4 r s && decide (r.f 0 2 < groupCount s) && zeroAt 2 2 r && safetyHeld s (r.f 0 2))
    v u → r = request 0x0804 p v u → z = takenState p v u → inService z (r.f 0 2 / 32) = true → (pulsePending z (r.f 0
    2) = true ∨ pulseBusy z (r.f 0 2) = true) → exec (.safePulseNow at_ p) s = .next (refuse r stConflict z))

/-- The commands of a stream (10 R257, R263). Commands shown to complete: streamStart, streamRunning, streamStop,
streamFlush, fadeEnd. -/
def Obligations.StreamCommands : Prop :=
  (∀ (at_ : Nat) (p : Packet) (v : Session) (r : Req) (z : State) (n n0 : Nat) (s u : State), u = s.tick at_ → Accepted
    0x0700 p tableRole streamParamsOk v u → r = request 0x0700 p v u → z = takenState p v u → n = r.f 0 1 → n0 = (if
    r.f 1 1 = 1 then r.f 4 8 else indexCeil z n (devNow z + (leadU : Int))) → indexLate r (seenState p v u) = false →
    startRefused z n n0 = false → dependents z n = [] →
    ∃ t, exec (.streamStart at_ p) s = .next t ∧ (stream t n).state = 1 ∧ (stream t n).n0 = n0
          ∧ (stream t n).nNext = (stream t n).n0 ∧ (stream t n).nLast = none ∧ (stream t n).q = (stream z n).q
          ∧ (∀ m, m ≠ n → stream t m = stream z m) ∧ Still { z with chans := t.chans } t)
  ∧ (∀ (at_ : Nat) (n : Nat) (s u : State), u = s.tick at_ → (stream u n).state = 1 → (((stream u n).n0 * periodOf u n :
    Nat) : Int) ≤ devNow u → dependents u n = [] →
    ∃ t, exec (.streamRunning at_ n) s = .next t ∧ (stream t n).state = 2
          ∧ (stream t n).response = cf u 0x0301 (sourceOf u n) 0 3 0 ∧ (stream t n).q = (stream u n).q
          ∧ (∀ m, m ≠ n → stream t m = stream u m) ∧ t.cfg = u.cfg ∧ t.time = u.time)
  ∧ (∀ (at_ : Nat) (p : Packet) (v : Session) (r : Req) (z : State) (n k : Nat) (s u : State), u = s.tick at_ → Accepted
    0x0701 p tableRole streamParamsOk v u → r = request 0x0701 p v u → z = takenState p v u → n = r.f 0 1 → indexLate
    r (seenState p v u) = false → live z n = true → filtered z n = true → coversOf z n = [] → (k : Int) = (if r.f 1 1
    = 1 then (r.f 4 8 : Int) else (indexCeil z n (devNow z + (leadU : Int)) : Int) - 1) → (stream z n).n0 ≤ k →
    exec (.streamStop at_ p) s
        = .next (answer r stOk [] (jDone r [] (setStream n { stream z n with nLast := some k } z))))
  ∧ (∀ (at_ : Nat) (p : Packet) (v : Session) (r : Req) (z : State) (s u : State), u = s.tick at_ → Accepted 0x0700 p
    tableRole streamParamsOk v u → r = request 0x0700 p v u → z = takenState p v u → indexLate r (seenState p v u) =
    true → ∃ t, exec (.streamStart at_ p) s = .next t ∧ Still u t ∧ t.store = u.store)
  ∧ (∀ (at_ : Nat) (p : Packet) (v : Session) (r : Req) (z : State) (s u : State), u = s.tick at_ → Accepted 0x0701 p
    tableRole streamParamsOk v u → r = request 0x0701 p v u → z = takenState p v u → indexLate r (seenState p v u) =
    true → ∃ t, exec (.streamStop at_ p) s = .next t ∧ Still u t ∧ t.store = u.store)
  ∧ (∀ (at_ : Nat) (p : Packet) (v : Session) (r : Req) (z : State) (s u : State), u = s.tick at_ → Accepted 0x0702 p
    tableRole (fun r s => exactly 4 r s && decide (r.f 0 4 % 16 = 0)) v u → r = request 0x0702 p v u → z = takenState
    p v u →
    exec (.streamFlush at_ p) s
        = .next (answer r stOk [] (forAll (streamList.filter fun n => bit n (r.f 0 4)) (closeOpen · false) z)))
  ∧ (∀ (at_ : Nat) (n : Nat) (f : Fade) (s u : State), u = s.tick at_ → (stream u n).fade = some f → sincTime (fadeOver u n
    f) ≤ devNow u → (stream u n).held = none →
    ∃ t, exec (.fadeEnd at_ n) s = .next t ∧ stream t n = { stream u n with response := f.to_, fade := none }
          ∧ (∀ m, m ≠ n → stream t m = stream u m) ∧ t.cfg = u.cfg ∧ t.time = u.time ∧ t.trg = u.trg)

/-- Samples and folios (01 R28, 10 R246 to R270). Commands shown to complete: outputSampleProduce, folioFlushTimer,
retentionLapse, stallResume, captureRelease. -/
def Obligations.SamplesAndFolios : Prop :=
  (∀ (at_ : Nat) (n i : Nat) (s u : State), u = s.tick at_ → i = (stream u n).nNext → (stream u n).state = 2 → filtered u
    n = true → inputsReady u n i = true → coversOf u n = [] → capturesOf u n = [] → (stream u n).nLast = none →
    (stream u n).grids = [] →
    ∃ t, exec (.outputSampleProduce at_ n) s = .next t ∧ (stream t n).nNext = i + 1 ∧ (stream t n).lastIndex = i
          ∧ (stream t n).produced = true ∧ (stream t n).last = some (i, (streamSet u n).map (correct u n i (streamF32
              (atSample u n i) n)))
          ∧ (stream t n).state = 2 ∧ t.cfg = u.cfg ∧ t.time = u.time ∧ t.chans = u.chans)
  ∧ (∀ (at_ : Nat) (n : Nat) (o : OpenFolio) (s u : State), u = s.tick at_ → (stream u n).opened = some o → o.since +
    o.flush * usU ≤ u.now →
    exec (.folioFlushTimer at_ n) s = .next (closeOpen n (decide (o.count < folioCap o.ftype)) u))
  ∧ (∀ (n : Nat) (f : Folio) (s t : State), (stream s n).stalled = none → f.slots + 2 ≤ freeSlots s n → (stream s
    n).q.nextSeq % 2 ^ 44 ≠ 2 ^ 44 - 1 → t = writeFolio n f s →
    (stream t n).q.folios = (stream s n).q.folios ++
      [{ f with seq := (stream s n).q.nextSeq, stream := n, inLp := decide (s.boot.storeMode = 1), fflags := f.fflags ||| captureFlag s n }]
          ∧ (stream t n).q.nextSeq = (stream s n).q.nextSeq + 1 ∧ (stream t n).stalled = none
          ∧ (∀ m, m ≠ n → stream t m = stream s m) ∧ t.cfg = s.cfg)
  ∧ (∀ (n : Nat) (f : Folio) (s t : State), (stream s n).stalled = none → ¬ f.slots + 2 ≤ freeSlots s n → cfBit s 0x0801 n
    0x10 0 = false → t = writeFolio n f s →
    (stream t n).stalled = some f.firstIndex ∧ (stream t n).q = (stream s n).q ∧ (∀ m, m ≠ n → stream t m = stream s
      m)
          ∧ t.cfg = s.cfg)
  ∧ (∀ (at_ : Nat) (n : Nat) (s u : State), u = s.tick at_ → (stream u n).state ≠ 3 →
    exec (.retentionLapse at_ n) s = .next (setStream n
      { stream u n with q := { (stream u n).q with folios := (stream u n).q.folios.filter fun f => !(f.acked && !retained u n f && !f.staged) } }
      u))
  ∧ (∀ (at_ : Nat) (n k : Nat) (s u : State), u = s.tick at_ → (stream u n).stalled = some k → min 64 (allowance u n) ≤
    freeSlots u n →
    ∃ t, exec (.stallResume at_ n) s = .next t ∧ (stream t n).opened = none ∧ (∀ m, m ≠ n → stream t m = stream u m)
          ∧ t.cfg = u.cfg ∧ t.time = u.time)
  ∧ (∀ (at_ : Nat) (n i : Nat) (l : List Sample) (w : CapWindow) (s u : State), u = s.tick at_ → isCapture u n = true →
    running u n = true → (stream u n).look = [(i, l)] → (stream u n).windows = [w] → w.first ≤ i ∧ i ≤ w.last →
    (stream u n).produced = false → (stream u n).grids = [] → (stream u n).nLast = none → ((i * periodOf u n + lagU u
    n : Nat) : Int) ≤ devNow u →
    ∃ t, exec (.captureRelease at_ n) s = .next t ∧ (stream t n).produced = true ∧ (stream t n).lastIndex = i
          ∧ (stream t n).nNext = i + 1 ∧ (∀ m, m ≠ n → stream t m = stream u m) ∧ t.cfg = u.cfg ∧ t.time = u.time)

/-- The hold-back store (10 R264, R265, R268). Commands shown to complete: dmaStagingRead, storeScrub, storeFailure. -/
def Obligations.HoldBackStore : Prop :=
  (∀ (at_ : Nat) (r seq k : Nat) (f : Folio) (s u : State), u = s.tick at_ → folioOf u r seq = some f → f.ecc = [] →
    offRing u r = false →
    exec (.dmaStagingRead at_ r seq k []) s
        = .next (setRingQ r ((ringQ u r).onSeq seq fun x => { x with staged := true, ecc := [] })
            { u with store.corrected := (u.store.corrected + k) % 2 ^ 32 }))
  ∧ (∀ (at_ : Nat) (k : Nat) (s u : State), u = s.tick at_ →
    exec (.storeScrub at_ k []) s = .next
      { u with store.corrected := (u.store.corrected + k) % 2 ^ 32, store.scrubs := (u.store.scrubs + 1) % 2 ^ 32 })
  ∧ (∀ (at_ : Nat) (r seq : Nat) (x : EccHit) (f : Folio) (s u : State), u = s.tick at_ → folioOf u r seq = some f → f.ecc
    = [] → 4 ≤ r → u.store.eccTimes = [] →
    ∃ t, exec (.storeScrub at_ 0 [(r, seq, x)]) s = .next t ∧ t.store.uncorrectable = (u.store.uncorrectable + 1) % 2
      ^ 32
          ∧ (stream t r).q = (stream u r).q.onSeq f.seq (fun y => { y with ecc := y.ecc ++ [x] }) ∧ t.store.eccTimes =
              [u.now]
          ∧ (∀ m, m ≠ r → stream t m = stream u m) ∧ t.cfg = u.cfg)
  ∧ (∀ (at_ : Nat) (s u : State), u = s.tick at_ → u.boot.storeMode = 1 →
    ∃ t, exec (.storeFailure at_) s = .next t ∧ t.boot.storeMode = 2 ∧ t.store.shareMode = true
          ∧ (∀ n, n < 32 → 4 ≤ n → ((stream t n).q.folios.any lostFolio) = false) ∧ t.cfg = u.cfg ∧ t.time = u.time ∧
              t.chans = u.chans)

/-- Bookmarks (09 R232 to R235). That a mark is judged by the folios in the store, or by the capture streams of a stream
that they reduce, is the model's reading; the layout of the record of suppressed marks is log entry 14. Commands shown
to complete: bookmarkEmit, bookmarkFolioClose, markRateSecondEnd, trgMark. -/
def Obligations.MarksAndRecords : Prop :=
  (∀ (at_ : Nat) (b : Bookmark) (ok : Bool) (cnt : Nat) (s u : State), u = s.tick at_ → u.trg.waiting = [b] → b.kind ≠ 0
    → markFate u b = some ok → cnt = (if u.trg.second = devSec (devNow u) then u.trg.secCount else 0) → cnt < 131072 →
    u.trg.openRecs.length < 62 →
    exec (.bookmarkEmit at_) s = .next (freeFolios b.stream
      { u with trg := { u.trg with waiting := [], second := devSec (devNow u), secCount := cnt + 1, openRecs := u.trg.openRecs ++ [markBytes u b (64 * b2n (!ok))], openSince := if u.trg.openRecs.isEmpty then u.now else u.trg.openSince } }))
  ∧ (∀ (at_ : Nat) (b : Bookmark) (ok : Bool) (x : Nat × Nat × Nat) (s u : State), u = s.tick at_ → u.trg.waiting = [b] →
    b.kind ≠ 0 → markFate u b = some ok → u.trg.second = devSec (devNow u) → 131072 ≤ u.trg.secCount → x =
    u.trg.secSupp.get b.source (0, b.index, b.index) →
    ∃ t, exec (.bookmarkEmit at_) s = .next t
          ∧ t.trg =
              { u.trg with waiting := [], secSupp := u.trg.secSupp.put b.source (x.1 + 1, min x.2.1 b.index, max x.2.2 b.index) }
          ∧ Still { u with trg := t.trg } t)
  ∧ (∀ (at_ : Nat) (s u : State), u = s.tick at_ → u.trg.openSince + 100 * usU ≤ u.now → u.trg.openRecs ≠ [] →
    exec (.bookmarkFolioClose at_) s = .next (put2 0x10 u.trg.openRecs.length u.trg.openRecs.flatten
      { u with trg.openRecs := [] }))
  ∧ (∀ (at_ : Nat) (s u : State), u = s.tick at_ → u.now < u.trg.openSince + 100 * usU →
    exec (.bookmarkFolioClose at_) s = .next u)
  ∧ (∀ (at_ : Nat) (s u : State), u = s.tick at_ → u.trg.secSupp ≠ [] →
    ∃ t, exec (.markRateSecondEnd at_) s = .next t ∧ t.trg = { u.trg with secSupp := [] } ∧ Still u
      { t with trg := u.trg })
  ∧ (∀ (at_ : Nat) (s u : State), u = s.tick at_ → u.trg.secSupp = [] → exec (.markRateSecondEnd at_) s = .next u)
  ∧ (∀ (at_ : Nat) (p : Packet) (v : Session) (r : Req) (z : State) (i : Int) (s u : State), u = s.tick at_ → Accepted
    0x0602 p tableRole trgMarkOk v u → r = request 0x0602 p v u → z = takenState p v u → readDt16 (slice 8 16
    r.params) = some i →
    exec (.trgMark at_ p) s = .next (answer r stOk [] (markInstant 2 0xFFFF 0 0 (r.f 0 4) (r.f 4 4) i z)))

/-- The sequencers and masks (09 R225 to R231). Commands shown to complete: sequencerEvaluate, sequencerIdle, trgArm,
trgDisarm, trgMaskLoad. -/
def Obligations.Sequencers : Prop :=
  (∀ (at_ : Nat) (k i : Nat) (s u : State), u = s.tick at_ → (seqr u k).run = 1 → (seqr u k).haltAt = none → nextSample u
    k = some i → namesEvt u k = false →
    ∃ t, exec (.sequencerEvaluate at_ k) s = .next t ∧ (seqr t k).next = i + 1 ∧ (seqr t k).pend = false
          ∧ (seqr t k).state = (match takeable u k i with | [] => (seqr u k).state | x :: _ => bits 23 20 (transWord u
              k x.1))
          ∧ (∀ x, x ≠ k → (seqr t x).state = (seqr u x).state ∧ (seqr t x).next = (seqr u x).next) ∧ t.cfg = u.cfg ∧
              t.time = u.time ∧ t.chans = u.chans)
  ∧ (∀ (at_ : Nat) (k i : Nat) (s u : State), u = s.tick at_ → (seqr u k).run = 1 → (seqr u k).haltAt = none → nextSample u
    k = some i → namesEvt u k = false → takeable u k i = [] →
    ∃ t, exec (.sequencerEvaluate at_ k) s = .next t ∧ seqr t k = { seqr u k with next := i + 1, pend := false }
          ∧ (∀ x, x ≠ k → seqr t x = seqr u x) ∧ t.trg.waiting = u.trg.waiting ∧ t.trg.markCount = u.trg.markCount
          ∧ Still { u with trg := t.trg } t)
  ∧ (∀ (at_ : Nat) (k : Nat) (s u : State), u = s.tick at_ → ((seqr u k).run ≠ 1 ∨ nextSample u k = none) →
    exec (.sequencerEvaluate at_ k) s = .next u)
  ∧ (∀ (at_ : Nat) (k : Nat) (s u : State), u = s.tick at_ → (seqr u k).run ≠ 0 → ((stream u (refStream u k)).state = 0 ∨
    (stream u (refStream u k)).state = 3) → nextSample u k = none →
    ∃ t, exec (.sequencerIdle at_ k) s = .next t ∧ t.trg = (setSeqr k { seqr u k with run := 0, haltAt := none } u).trg ∧
      Still u { t with trg := u.trg })
  ∧ (∀ (at_ : Nat) (p : Packet) (v : Session) (r : Req) (z : State) (k : Nat) (s u : State), u = s.tick at_ → Accepted
    0x0600 p tableRole (fun r s => exactly 12 r s && decide (r.f 0 1 ≠ 0 ∧ r.f 1 1 ≤ 1) && zeroAt 2 2 r) v u → r =
    request 0x0600 p v u → z = takenState p v u → seqMask (r.f 0 1) = [k] → armLate r (seenState p v u) = false →
    armRefused z k = false →
    exec (.trgArm at_ p) s = .next (answer r stOk [] (setSeqr k
      { seqr z k with run := 1, pend := decide (r.f 1 1 = 1), state := cf z 0x0701 k 0 3 0, next := if r.f 1 1 = 1 then r.f 4 8 else (stream z (refStream z k)).nNext, cnt0 := 0, cnt1 := 0, tmr0 := none, tmr1 := none, holdoff := none, suppBefore := false, haltAt := none }
      z)))
  ∧ (∀ (at_ : Nat) (p : Packet) (v : Session) (r : Req) (z : State) (s u : State), u = s.tick at_ → Accepted 0x0600 p
    tableRole (fun r s => exactly 12 r s && decide (r.f 0 1 ≠ 0 ∧ r.f 1 1 ≤ 1) && zeroAt 2 2 r) v u → r = request
    0x0600 p v u → z = takenState p v u → (seqMask (r.f 0 1)).any (armRefused z) = true → armLate r (seenState p v u)
    = false → exec (.trgArm at_ p) s = .next (refuse r stConflict z))
  ∧ (∀ (at_ : Nat) (p : Packet) (v : Session) (r : Req) (z : State) (s u : State), u = s.tick at_ → Accepted 0x0600 p
    tableRole (fun r s => exactly 12 r s && decide (r.f 0 1 ≠ 0 ∧ r.f 1 1 ≤ 1) && zeroAt 2 2 r) v u → r = request
    0x0600 p v u → z = takenState p v u → armLate r (seenState p v u) = true →
    ∃ t, exec (.trgArm at_ p) s = .next t ∧ Still u t ∧ t.trg = u.trg)
  ∧ (∀ (at_ : Nat) (p : Packet) (v : Session) (r : Req) (z : State) (s u : State), u = s.tick at_ → Accepted 0x0601 p
    tableRole (fun r s => exactly 4 r s && decide (r.f 0 1 ≠ 0) && zeroAt 1 3 r) v u → r = request 0x0601 p v u → z =
    takenState p v u →
    ∃ t, exec (.trgDisarm at_ p) s = .next t
          ∧ (∀ k, k < 8 → seqr t k = if bit k (r.f 0 1) then { seqr z k with run := 0, haltAt := none, pend := false }
              else seqr z k)
          ∧ (∀ m, m < 16 → maskT t m = if (maskT z m).test.any (fun x => decide (x.seq < 8) && bit x.seq (r.f 0 1))
              then { maskT z m with test := none } else maskT z m)
          ∧ t.trg.conds = z.trg.conds ∧ t.trg.waiting = z.trg.waiting ∧ Still { z with trg := t.trg } t)
  ∧ (∀ (at_ : Nat) (p : Packet) (v : Session) (r : Req) (z : State) (k : Nat) (s u : State), u = s.tick at_ → Accepted
    0x0603 p tableRole maskLoadOk v u → r = request 0x0603 p v u → z = takenState p v u → k = r.f 0 1 → (maskT z
    k).test = none → r.f 1 1 = 0 →
    exec (.trgMaskLoad at_ p) s = .next (answer r stOk [] (jDone r [] (setMask k
      { maskT z k with loaded := true, loading := false, count := r.f 2 2 + 1, points := putPoints 0 (packetPoints (r.params.drop 4)) [] }
      z))))
  ∧ (∀ (at_ : Nat) (p : Packet) (v : Session) (r : Req) (z : State) (s u : State), u = s.tick at_ → Accepted 0x0603 p
    tableRole maskLoadOk v u → r = request 0x0603 p v u → z = takenState p v u → (maskT z (r.f 0 1)).test.isSome =
    true → exec (.trgMaskLoad at_ p) s = .next (refuse r stConflict z))

/-- The group of hubs (09 R236 to R239, R245; 12 R312, R316). Commands shown to complete: groupArm, groupDisarm,
groupFire, groupMessageReceive, groupMessageRepeat, skaingGroupAck, oneShotDecision, firesDroppedReport. -/
def Obligations.GroupOfHubs : Prop :=
  (∀ (at_ : Nat) (p : Packet) (v : Session) (r : Req) (z : State) (s u : State), u = s.tick at_ → Accepted 0x0604 p
    tableRole (fun r s => exactly 4 r s && decide (r.f 0 1 ≤ 1) && zeroAt 1 3 r) v u → r = request 0x0604 p v u → z =
    takenState p v u → r.applyAt = none → isMaster z = true → z.time.state ≠ 0 →
    ∃ t, exec (.groupArm at_ p) s = .next t ∧ t.group.gen = z.group.gen + 1 ∧ t.group.gstate = 1
          ∧ t.group.multi = decide (r.f 0 1 = 1) ∧ t.group.armAt = devNow z ∧ t.group.disarmAt = none ∧ t.group.best =
              none ∧ t.group.kept = z.group.kept ++ z.group.best.toList
          ∧ t.group.decided = false ∧ t.group.fires = z.group.fires ∧ Still
              { z with group := t.group, skaing := t.skaing } t)
  ∧ (∀ (at_ : Nat) (p : Packet) (v : Session) (r : Req) (z : State) (s u : State), u = s.tick at_ → Accepted 0x0604 p
    tableRole (fun r s => exactly 4 r s && decide (r.f 0 1 ≤ 1) && zeroAt 1 3 r) v u → r = request 0x0604 p v u → z =
    takenState p v u → r.applyAt = none → (isMaster z = false ∨ z.time.state = 0) →
    exec (.groupArm at_ p) s = .next (refuseOr r stConflict z))
  ∧ (∀ (at_ : Nat) (p : Packet) (v : Session) (r : Req) (z : State) (s u : State), u = s.tick at_ → Accepted 0x0605 p
    tableRole (exactly 0) v u → r = request 0x0605 p v u → z = takenState p v u → isMaster z = false →
    exec (.groupDisarm at_ p) s = .next (refuse r stConflict z))
  ∧ (∀ (at_ : Nat) (p : Packet) (v : Session) (r : Req) (z : State) (s u : State), u = s.tick at_ → Accepted 0x0605 p
    tableRole (exactly 0) v u → r = request 0x0605 p v u → z = takenState p v u → isMaster z = true →
    ∃ t, exec (.groupDisarm at_ p) s = .next t ∧ t.group.gstate = 0 ∧ t.group.disarmAt = some (devNow z)
          ∧ t.group.gen = z.group.gen ∧ t.group.armAt = z.group.armAt ∧ Still
              { z with group := t.group, skaing := t.skaing } t)
  ∧ (∀ (at_ : Nat) (p : Packet) (v : Session) (r : Req) (z : State) (i : Int) (s u : State), u = s.tick at_ → Accepted
    0x0606 p tableRole (fun r s => exactly 18 r s && (readDt16 (slice 0 16 r.params)).isSome && (isChan s (r.f 16 2)
    || decide (r.f 16 2 = 0xFFFF))) v u → r = request 0x0606 p v u → z = takenState p v u → z.group.gstate = 1 → i =
    (if allZero (slice 0 16 r.params) then devNow z else (readDt16 (slice 0 16 r.params)).getD 0) →
    exec (.groupFire at_ p) s = .next (answer r stOk [] (fireAction (r.f 16 2) i z).1))
  ∧ (∀ (at_ : Nat) (p : Packet) (v : Session) (r : Req) (z : State) (s u : State), u = s.tick at_ → Accepted 0x0606 p
    tableRole (fun r s => exactly 18 r s && (readDt16 (slice 0 16 r.params)).isSome && (isChan s (r.f 16 2) || decide
    (r.f 16 2 = 0xFFFF))) v u → r = request 0x0606 p v u → z = takenState p v u → z.group.gstate ≠ 1 →
    exec (.groupFire at_ p) s = .next (refuse r stConflict z))
  ∧ (∀ (at_ : Nat) (x sender : Nat) (hdr m mac : List Byte) (s u : State), u = s.tick at_ → x < 2 → groupPort u x = true →
    u.boot.fwRuns = true → skaingUp u x = true → skaingVer u x = 1 → m.length = 40 → duplicate m u = false → fld 0 1 m
    = 1 → fld 2 2 m = groupNo u → groupNo u ≠ 0 → fld 4 4 m = masterTag u → u.group.gen < fld 8 4 m → u.time.state ≠ 0
    → fld 32 1 m ≤ 1 →
    ∃ t, exec (.groupMessageReceive at_ x sender hdr m mac true) s = .next t ∧ t.group.gen = fld 8 4 m ∧
      t.group.gstate = 1
          ∧ t.group.multi = decide (fld 32 1 m = 1) ∧ t.group.armAt = stampTime (slice 16 16 m) ∧ t.group.disarmAt =
              none
          ∧ Still { u with group := t.group, skaing := t.skaing } t)
  ∧ (∀ (at_ : Nat) (x sender : Nat) (hdr m mac k : List Byte) (good : Bool) (s u : State), u = s.tick at_ → 2 ≤ x →
    groupPort u x = true → u.boot.fwRuns = true → groupKey u (groupNo u) = some k → hmac k (hdr ++ m) ≠ mac →
    ∃ t, exec (.groupMessageReceive at_ x sender hdr m mac good) s = .next t
          ∧ t.group = { u.group with hmacFails := u.group.hmacFails + 1 } ∧ Still { u with group := t.group } t)
  ∧ (∀ (at_ : Nat) (x : Repeat) (s u : State), u = s.tick at_ → u.group.repeats = [x] → x.due ≤ u.now →
    ∃ t, exec (.groupMessageRepeat at_) s = .next t
          ∧ t.group =
              { u.group with repeats := if x.left ≤ 1 then [] else [{ x with left := x.left - 1, due := x.due + 50 * usU }] }
          ∧ Still { u with group := t.group, skaing := t.skaing } t)
  ∧ (∀ (at_ : Nat) (x a b c d sender : Nat) (hdr m mac : List Byte) (s u : State), u = s.tick at_ → x < 2 →
    exec (.skaingGroupAck at_ x a b c d false) s = .next (crcDrop x u) ∧ exec (.groupMessageReceive at_ x sender hdr m mac
      false) s = .next (crcDrop x u))
  ∧ (∀ (at_ : Nat) (x a b c d : Nat) (s u : State), u = s.tick at_ → x < 2 → skaingUp u x = true →
    exec (.skaingGroupAck at_ x a b c d true) s = .next
      { setSkaing x { skaing u x with lastRx := u.now } u with group.repeats := u.group.repeats.filter fun y => !decide (y.port = x ∧ y.origin = a ∧ y.msg = b ∧ y.gen = c ∧ y.fireId = d) })
  ∧ (∀ (at_ : Nat) (b : Int × Nat × Nat × Nat) (s u : State), u = s.tick at_ → u.group.kept = [] → u.group.best = some b →
    b.1 + acceptLate u ≤ devNow u →
    exec (.oneShotDecision at_) s = .next (markFire b.1 b.2.1 b.2.2.1 b.2.2.2
      { u with group := { u.group with best := none, decided := true, gstate := 2 } }))
  ∧ (∀ (at_ : Nat) (b : Int × Nat × Nat × Nat) (s u : State), u = s.tick at_ → u.group.kept = [] → u.group.best = some b →
    devNow u < b.1 + acceptLate u → exec (.oneShotDecision at_) s = .next u)
  ∧ (∀ (at_ : Nat) (s u : State), u = s.tick at_ → u.group.notSent ≠ 0 →
    ∃ t, exec (.firesDroppedReport at_) s = .next t ∧ t.group =
      { u.group with drops := [], notSent := 0, hmacFails := 0 }
          ∧ Still u { t with group := u.group })

/-- Lanes and their links (12 R303 to R308). Commands shown to complete: laneLockLoss, laneLockRegained, pcieLinkReform,
singleLaneLinkDown, linkTrainingDone, noPartnerTimeout, trainingFaultTimeout. -/
def Obligations.LaneEvents : Prop :=
  (∀ (at_ : Nat) (l : Nat) (s u : State), u = s.tick at_ → l < 6 → (lane u l).lock = true →
    exec (.laneLockLoss at_ l) s = .next (setLane l
      { lane u l with lock := false, lockLosses := ((lane u l).lockLosses + 1) % 2 ^ 32, lossAt := u.now, losses := u.now :: (lane u l).losses.filter fun x => decide (u.now < x + 3600 * secU) }
      u))
  ∧ (∀ (at_ : Nat) (l : Nat) (s u : State), u = s.tick at_ → l < 8 → 3 ≤ (lane u l).state →
    exec (.laneLockRegained at_ l) s = .next (setLane l { lane u l with lock := true } u))
  ∧ (∀ (at_ : Nat) (l : List Nat) (rev : Bool) (s u : State), u = s.tick at_ → u.host.linkUp = true → ([0, 1, 2, 3].any fun
    k => decide ((lane u k).state = 5) && !(lane u k).lock) = true → l = workingLanes rev u → l ≠ [] → ([0, 1, 2,
    3].all fun k => decide ((lane u k).scan = none)) = true →
    ∃ t, exec (.pcieLinkReform at_ rev) s = .next t ∧ t.host = { u.host with width := l.length }
          ∧ (∀ k, k < 4 → (lane u k).state = 5 → lane t k = if l.contains k then lane u k else
              { lane u k with state := 1, lock := false, rateNow := 0 })
          ∧ (∀ k, ¬ k < 4 → lane t k = lane u k) ∧ Still { u with host := t.host, lanes := t.lanes } t)
  ∧ (∀ (at_ : Nat) (rev : Bool) (s u : State), u = s.tick at_ → (u.host.linkUp = false ∨ ([0, 1, 2, 3].any fun k => decide
    ((lane u k).state = 5) && !(lane u k).lock) = false) → exec (.pcieLinkReform at_ rev) s = .next u)
  ∧ (∀ (at_ : Nat) (rev : Bool) (s u : State), u = s.tick at_ → u.host.linkUp = true → ([0, 1, 2, 3].any fun k => decide
    ((lane u k).state = 5) && !(lane u k).lock) = true → workingLanes rev u = [] →
    ∃ t, exec (.pcieLinkReform at_ rev) s = .next t ∧ t.host.linkUp = false ∧ (∀ k, ¬ k < 4 → lane t k = lane u k) ∧
      t.cfg = u.cfg
          ∧ t.time = u.time)
  ∧ (∀ (at_ : Nat) (l : Nat) (s u : State), u = s.tick at_ → 4 ≤ l → l < 8 → (lane u l).state = 5 → (lane u l).lock = false
    → (lane u l).lossAt + msU ≤ u.now → laneEn u l = true →
    ∃ t, exec (.singleLaneLinkDown at_ l) s = .next t ∧ (lane t l).state = (if l < 6 then 4 else 3)
          ∧ (lane t l).trainAttempts = ((lane u l).trainAttempts + 1) % 2 ^ 32 ∧ (lane t l).downSince = u.now
          ∧ (∀ k, k ≠ l → lane t k = lane u k) ∧ t.cfg = u.cfg)
  ∧ (∀ (at_ : Nat) (l g f w n : Nat) (s u : State), u = s.tick at_ → l < 4 → ((lane u l).state = 3 ∨ (lane u l).state = 4 ∨
    (lane u l).state = 7) → ([0, 1, 2, 3].any fun k => decide ((lane u k).state = 6)) = false → 1 ≤ w → 1 ≤ g → g ≤ 4
    → ([0, 1, 2, 3].all fun k => decide ((lane u k).scan = none)) = true → n = (if 4 ≤ w then 4 else if 2 ≤ w then 2
    else 1) →
    ∃ t, exec (.linkTrainingDone at_ l g f w) s = .next t
          ∧ t.host = { u.host with linkUp := true, seenL0 := true, width := n, gt := g }
          ∧ (∀ k, k < n → (lane t k).state = 5 ∧ (lane t k).rateNow = g) ∧ (∀ k, k < 4 → n ≤ k → (lane t k).state = 1)
          ∧ (∀ k, ¬ k < 4 → lane t k = lane u k) ∧ t.cfg = u.cfg ∧ t.time = u.time)
  ∧ (∀ (at_ : Nat) (l g f w : Nat) (s u : State), u = s.tick at_ → (l = 4 ∨ l = 5) → w ≠ 0 → ((lane u l).state = 3 ∨ (lane
    u l).state = 4 ∨ (lane u l).state = 7) →
    ∃ t, exec (.linkTrainingDone at_ l g f w) s = .next t ∧ (lane t l).state = 5 ∧ (lane t l).lock = true
          ∧ (lane t l).rateNow = (lane u l).rateSet ∧ (lane t l).fecNow = fecNow (lane u l) f ∧ (lane t l).upSince =
              u.now
          ∧ t.cfg = u.cfg ∧ t.time = u.time)
  ∧ (∀ (at_ : Nat) (l g f w : Nat) (s u : State), u = s.tick at_ → (l = 6 ∨ l = 7) → w ≠ 0 → ((lane u l).state = 3 ∨ (lane
    u l).state = 4) →
    exec (.linkTrainingDone at_ l g f w) s = .next (setSkaing (l - 6)
      { skaing u (l - 6) with phase := 1, peerHeard := false, linkSent := false, mismatch := false, lastLink := u.now, prbsFrom := u.now }
      (setLane l { lane u l with state := 4, lock := true } u)))
  ∧ (∀ (at_ : Nat) (l g f : Nat) (s u : State), u = s.tick at_ → 4 ≤ l → l < 6 → ((lane u l).state = 3 ∨ (lane u l).state =
    4) →
    exec (.linkTrainingDone at_ l g f 0) s = .next (setLane l
      { lane u l with state := 4, lock := false, trainAttempts := ((lane u l).trainAttempts + 1) % 2 ^ 32 } u))
  ∧ (∀ (at_ : Nat) (l : Nat) (s u : State), u = s.tick at_ → l < 8 → ((lane u l).state = 3 ∨ (lane u l).state = 4) → (lane
    u l).trainSince + secU ≤ u.now →
    ∃ t, exec (.noPartnerTimeout at_ l) s = .next t ∧ t.lanes = (forAll (linkLanes l) (fun k x => if ((lane x k).state = 3
      ∨ (lane x k).state = 4) then setLane k { lane x k with state := 7 } x else x) u).lanes ∧ Still u
      { t with lanes := u.lanes })
  ∧ (∀ (at_ : Nat) (l : Nat) (s u : State), u = s.tick at_ → l < 8 → ((lane u l).state = 3 ∨ (lane u l).state = 4 ∨ (lane u
    l).state = 7) → (lane u l).faultRaised = false → (lane u l).downSince + 10 * secU ≤ u.now →
    ∃ t, exec (.trainingFaultTimeout at_ l) s = .next t ∧ t.lanes = (forAll (linkLanes l) (fun k x => setLane k
      { lane x k with faultRaised := true } x) u).lanes
          ∧ Still u { t with lanes := u.lanes })

/-- The commands of a lane (12 R301, R302, R307, R319). Commands shown to complete: standbyWake, standbyReturn,
eyeScanDue, eyeScanComplete, laneEyeScan, laneRetrain, laneLoopback, loopbackEnd. -/
def Obligations.LaneCommands : Prop :=
  (∀ (at_ : Nat) (l : Nat) (seen : Bool) (s u : State), u = s.tick at_ → (l = 5 ∨ l = 7) → (lane u l).state = 2 → (seen =
    true ∨ ((lane u (l - 1)).state ≠ 5 ∧ (lane u (l - 1)).downSince + 100 * msU ≤ u.now)) → laneEn u l = true →
    ∃ t, exec (.standbyWake at_ l seen) s = .next t ∧ (lane t l).state = (if l = 5 then 4 else 3)
          ∧ (∀ k, k ≠ l → lane t k = lane u k) ∧ t.cfg = u.cfg ∧ t.time = u.time)
  ∧ (∀ (at_ : Nat) (l : Nat) (s u : State), u = s.tick at_ → standby u l = true → laneEn u l = true → (lane u l).state ≠ 2
    → (lane u l).state ≠ 6 → (lane u (l - 1)).state = 5 → (lane u (l - 1)).upSince + 10 * secU ≤ u.now →
    ∃ t, exec (.standbyReturn at_ l) s = .next t ∧ lane t l =
      { lane u l with state := 2, lock := false, rateNow := 0, ver := 0, scan := none }
          ∧ (∀ k, k ≠ l → lane t k = lane u k) ∧ t.cfg = u.cfg ∧ t = movedStreams u (goDeep l u))
  ∧ (∀ (at_ : Nat) (l : Nat) (s u : State), u = s.tick at_ → l < 8 → (lane u l).state = 5 → (lane u l).scan = none → cf u
    0x0A01 l 0 7 0 ≠ 0 → (lane u l).lastScan + cf u 0x0A01 l 0 7 0 * 60 * secU ≤ u.now →
    exec (.eyeScanDue at_ l) s = .next (setLane l { lane u l with scan := some (u.now, none), lastScan := u.now } u))
  ∧ (∀ (at_ : Nat) (l k : Nat) (m : List Byte) (s u : State), u = s.tick at_ → (lane u l).state = 5 → (lane u l).scan =
    some (k, none) → cf u 0x0A01 l 4 31 16 ≤ eyeH m → cf u 0x0A01 l 4 15 0 ≤ eyeV m →
    ∃ t, exec (.eyeScanComplete at_ l m) s = .next t
          ∧ t.lanes = (setLane l
              { lane u l with scan := none, eyeH := eyeH m, eyeV := eyeV m, scanSeconds := secondsNow u, lowScans := 0 }
              u).lanes
          ∧ Still u { t with lanes := u.lanes })
  ∧ (∀ (at_ : Nat) (l : Nat) (m : List Byte) (s u : State), u = s.tick at_ → (lane u l).scan = none →
    exec (.eyeScanComplete at_ l m) s = .next u)
  ∧ (∀ (at_ : Nat) (p : Packet) (v : Session) (r : Req) (z : State) (l : Nat) (s u : State), u = s.tick at_ → Accepted
    0x0C00 p tableRole laneParam v u → r = request 0x0C00 p v u → z = takenState p v u → l = r.f 0 1 → (lane z
    l).state = 5 → (lane z l).scan = none →
    exec (.laneEyeScan at_ p) s = .next (queued r [] (setLane l { lane z l with scan := some (z.now, some r) } z)))
  ∧ (∀ (at_ : Nat) (p : Packet) (v : Session) (r : Req) (z : State) (s u : State), u = s.tick at_ → Accepted 0x0C00 p
    tableRole laneParam v u → r = request 0x0C00 p v u → z = takenState p v u → ((lane z (r.f 0 1)).state ≠ 5 ∨ (lane
    z (r.f 0 1)).scan.isSome = true) → exec (.laneEyeScan at_ p) s = .next (refuse r stConflict z))
  ∧ (∀ (at_ : Nat) (p : Packet) (v : Session) (r : Req) (z : State) (s u : State), u = s.tick at_ → Accepted 0x0C01 p
    tableRole laneParam v u → r = request 0x0C01 p v u → z = takenState p v u → (overLane r (r.f 0 1) = true ∨ (lane z
    (r.f 0 1)).state = 6) → exec (.laneRetrain at_ p) s = .next (refuse r stConflict z))
  ∧ (∀ (at_ : Nat) (p : Packet) (v : Session) (r : Req) (z : State) (l : Nat) (s u : State), u = s.tick at_ → Accepted
    0x0C01 p tableRole laneParam v u → r = request 0x0C01 p v u → z = takenState p v u → l = r.f 0 1 → 4 ≤ l →
    overLane r l = false → (lane z l).state ≠ 6 → laneEn z l = true →
    ∃ t, exec (.laneRetrain at_ p) s = .next t ∧ (lane t l).state = (if l < 6 then 4 else 3) ∧ (lane t l).cap = 0
          ∧ (lane t l).lock = false ∧ (∀ k, k ≠ l → lane t k = lane z k) ∧ t.cfg = z.cfg)
  ∧ (∀ (at_ : Nat) (p : Packet) (v : Session) (r : Req) (z : State) (l : Nat) (s u : State), u = s.tick at_ → Accepted
    0x0C02 p tableRole (fun r s => exactly 4 r s && decide (r.f 0 1 < 8 ∧ r.f 1 1 ≤ 3) && decide (r.f 1 1 = 0 ∨ (1 ≤
    r.f 2 2 ∧ r.f 2 2 ≤ 3600)) && !decide (r.f 1 1 = 3 ∧ r.f 0 1 < 4)) v u → r = request 0x0C02 p v u → z = takenState
    p v u → l = r.f 0 1 → 4 ≤ l → r.f 1 1 ≠ 0 → overLane r l = false → (lane z l).state ≠ 6 → z.time.source ≠
    laneSource l →
    ∃ t, exec (.laneLoopback at_ p) s = .next t ∧ (lane t l).state = 6 ∧ (lane t l).loop = r.f 1 1
          ∧ (lane t l).loopEnd = z.now + r.f 2 2 * secU ∧ (lane t l).prbsErrors = 0 ∧ (lane t l).loopReq = some r
          ∧ (∀ k, k ≠ l → lane t k = lane z k) ∧ t.cfg = z.cfg)
  ∧ (∀ (at_ : Nat) (p : Packet) (v : Session) (r : Req) (z : State) (s u : State), u = s.tick at_ → Accepted 0x0C02 p
    tableRole (fun r s => exactly 4 r s && decide (r.f 0 1 < 8 ∧ r.f 1 1 ≤ 3) && decide (r.f 1 1 = 0 ∨ (1 ≤ r.f 2 2 ∧
    r.f 2 2 ≤ 3600)) && !decide (r.f 1 1 = 3 ∧ r.f 0 1 < 4)) v u → r = request 0x0C02 p v u → z = takenState p v u →
    r.f 1 1 ≠ 0 → (overLane r (r.f 0 1) = true ∨ (lane z (r.f 0 1)).state = 6 ∨ (4 ≤ r.f 0 1 ∧ z.time.source =
    laneSource (r.f 0 1))) → exec (.laneLoopback at_ p) s = .next (refuse r stConflict z))
  ∧ (∀ (at_ : Nat) (p : Packet) (v : Session) (r : Req) (z : State) (s u : State), u = s.tick at_ → Accepted 0x0C02 p
    tableRole (fun r s => exactly 4 r s && decide (r.f 0 1 < 8 ∧ r.f 1 1 ≤ 3) && decide (r.f 1 1 = 0 ∨ (1 ≤ r.f 2 2 ∧
    r.f 2 2 ≤ 3600)) && !decide (r.f 1 1 = 3 ∧ r.f 0 1 < 4)) v u → r = request 0x0C02 p v u → z = takenState p v u →
    r.f 1 1 = 0 → (lane z (r.f 0 1)).state = 6 →
    exec (.laneLoopback at_ p) s = .next (answer r stOk [] (jDone r [] (setLane (r.f 0 1)
      { lane z (r.f 0 1) with loopEnd := z.now } z))))
  ∧ (∀ (at_ : Nat) (p : Packet) (v : Session) (r : Req) (z : State) (s u : State), u = s.tick at_ → Accepted 0x0C02 p
    tableRole (fun r s => exactly 4 r s && decide (r.f 0 1 < 8 ∧ r.f 1 1 ≤ 3) && decide (r.f 1 1 = 0 ∨ (1 ≤ r.f 2 2 ∧
    r.f 2 2 ≤ 3600)) && !decide (r.f 1 1 = 3 ∧ r.f 0 1 < 4)) v u → r = request 0x0C02 p v u → z = takenState p v u →
    r.f 1 1 = 0 → (lane z (r.f 0 1)).state ≠ 6 → exec (.laneLoopback at_ p) s = .next (refuse r stConflict z))
  ∧ (∀ (at_ : Nat) (l n e : Nat) (s u : State), u = s.tick at_ → 4 ≤ l → (lane u l).state = 6 → (lane u l).loopEnd ≤ u.now
    → laneEn u l = true →
    ∃ t, exec (.loopbackEnd at_ l n e) s = .next t ∧ (lane t l).state = (if l < 6 then 4 else 3) ∧ (lane t l).loop = 0
          ∧ (lane t l).prbsErrors = e % 2 ^ 32 ∧ (lane t l).loopReq = none ∧ (∀ k, k ≠ l → lane t k = lane u k) ∧
              t.cfg = u.cfg
          ∧ t.time = u.time)

/-- The Skaing link (12 R315 to R317; 08 R202, R213). Commands shown to complete: skaingLinkFrame, skaingPrbsCheckEnd,
skaingKeepaliveSend, skaingLinkTimeout, skaingTimeSend, skaingTimeFrame. -/
def Obligations.SkaingLink : Prop :=
  (∀ (at_ : Nat) (x a b c d : Nat) (s u : State), u = s.tick at_ → x < 2 → (skaing u x).phase = 1 → (skaing u x).prbsFrom
    ≤ u.now → (skaing u x).linkSent = true → max 1 a ≤ min 2 b →
    exec (.skaingLinkFrame at_ x a b c d true) s = .next (setLane (skaingLane x)
      { lane u (skaingLane x) with ver := min 2 b } (setSkaing x
      { skaing u x with lastRx := u.now, peerMin := a, peerMax := b, peerRate := c, peerTag := d, peerHeard := true, phase := 2, rate := if min 2 b = 1 then min (min (rateMax u x) c) 4 else min (rateMax u x) c, prbsFrom := u.now, mismatch := false }
      u)))
  ∧ (∀ (at_ : Nat) (x a b c d : Nat) (s u : State), u = s.tick at_ → x < 2 → (skaing u x).phase = 1 → (skaing u x).prbsFrom
    ≤ u.now → (skaing u x).linkSent = true → min 2 b < max 1 a →
    ∃ t, exec (.skaingLinkFrame at_ x a b c d true) s = .next t
          ∧ t.lanes = (setLane (skaingLane x) { lane u (skaingLane x) with state := 7 } u).lanes
          ∧ skaing t x =
              { skaing u x with lastRx := u.now, peerMin := a, peerMax := b, peerRate := c, peerTag := d, peerHeard := true, mismatch := true }
          ∧ (∀ k, k ≠ x → skaing t k = skaing u k) ∧ Still { u with lanes := t.lanes, skaing := t.skaing } t)
  ∧ (∀ (at_ : Nat) (x a b c d : Nat) (s u : State), u = s.tick at_ → x < 2 → (skaing u x).phase ≠ 0 →
    exec (.skaingLinkFrame at_ x a b c d false) s = .next (setSkaing x
      { skaing u x with crcDrops := (skaing u x).crcDrops + 1 } u))
  ∧ (∀ (at_ : Nat) (x : Nat) (s u : State), u = s.tick at_ → (skaing u x).phase = 2 → (skaing u x).prbsFrom + msU ≤ u.now →
    ∃ t, exec (.skaingPrbsCheckEnd at_ x 0) s = .next t ∧ (skaing t x).phase = 3 ∧ (skaing t x).lastRx = u.now
          ∧ (lane t (skaingLane x)).state = 5 ∧ (lane t (skaingLane x)).rateNow = (skaing u x).rate ∧ t.cfg = u.cfg ∧
              t.time = u.time)
  ∧ (∀ (at_ : Nat) (x e : Nat) (s u : State), u = s.tick at_ → (skaing u x).phase = 2 → (skaing u x).prbsFrom + msU ≤ u.now
    → e ≠ 0 →
    exec (.skaingPrbsCheckEnd at_ x e) s = .next (setSkaing x (if (skaing u x).rate = 0 then
      { skaing u x with phase := 1, peerHeard := false, linkSent := false, prbsFrom := u.now + 100 * msU } else
      { skaing u x with rate := (skaing u x).rate - 1, prbsFrom := u.now }) u))
  ∧ (∀ (at_ : Nat) (x : Nat) (s u : State), u = s.tick at_ → x < 2 → (skaing u x).phase = 1 → (skaing u x).prbsFrom ≤ u.now
    → (u.now < (skaing u x).prbsFrom + 100 * msU ∨ (skaing u x).peerHeard = true) → (skaing u x).lastLink + 100 * usU
    ≤ u.now →
    exec (.skaingKeepaliveSend at_ x) s = .next (agreeLink x (skaingSend x 1 (le 1 1 ++ le 1 2 ++ le 1 (rateMax u x) ++ le
      1 0 ++ le 4 (hubTag u)) (setSkaing x { skaing u x with lastLink := u.now, linkSent := true } u))))
  ∧ (∀ (at_ : Nat) (x : Nat) (s u : State), u = s.tick at_ → x < 2 → (skaing u x).phase = 3 → (skaing u x).lastRx + msU ≤
    u.now → (lane u (skaingLane x)).state ≠ 6 → laneEn u (skaingLane x) = true →
    ∃ t, exec (.skaingLinkTimeout at_ x) s = .next t ∧ (skaing t x).phase = 0 ∧ (lane t (skaingLane x)).state = 3 ∧ t.cfg
      = u.cfg)
  ∧ (∀ (at_ : Nat) (x : Nat) (s u : State), u = s.tick at_ → x < 2 → skaingUp u x = true → skaingRole u x ≠ 0 → (skaing u
    x).lastTime + msU ≤ u.now →
    exec (.skaingTimeSend at_ x) s = .next (skaingSend x 2 (le 1 (skaingRole u x) ++ le 1 u.time.state ++ le 2 0 ++
      stampOf u (devDeparts u) ++ dt16 (skaing u x).peerTx (skaing u x).txQual ++ dt16 (skaing u x).peerRx (skaing u
      x).rxQual) (setSkaing x { skaing u x with lastTime := u.now, tx := devDeparts u } u)))
  ∧ (∀ (at_ : Nat) (x role st qual rx ph : Nat) (a b c d : Int) (y : State) (s u : State), u = s.tick at_ → x < 2 →
    skaingUp u x = true → skaingRole u x = 2 → role = 1 → st ≠ 0 → (skaing u x).tx = 0 → (skaing u x).delay = some d →
    y = setSkaing x
    { skaing u x with lastRx := u.now, peerTx := a, peerRx := devPhase u rx ph, txQual := qual, rxQual := u.time.state, heardTime := true, peerRole := role, peerState := st }
    u →
    exec (.skaingTimeFrame at_ x role st a b c qual rx ph true) s = .next (measure (3 + x) (a + d + psU (toSigned 32 (word
      u 0x0604 x 4)) / 2 - devPhase u rx ph) (setSrc (3 + x) { srcOf y (3 + x) with interval := msU } y)))

/-- Streams over links (12 R309 to R318). Commands shown to complete: goBackTimer, streamHeartbeat, streamAckDatagram,
skaingDataFrame, skaingCreditFrame, ethArpNdEcho. -/
def Obligations.StreamsOverLinks : Prop :=
  (∀ (at_ : Nat) (n : Nat) (s u : State), u = s.tick at_ → u.boot.restart = none → (stream u n).netAny = true → ((stream
    u n).q.folios.any fun f => decide ((stream u n).q.ackNext ≤ f.seq ∧ f.seq ≤ (stream u n).netSent)) = true →
    (transport u n = 1 ∨ transport u n = 2) → (stream u n).lastAdvance + cf u 0x0A04 n 4 31 16 * msU ≤ u.now →
    exec (.goBackTimer at_ n) s = .next (goBack n u))
  ∧ (∀ (at_ : Nat) (n : Nat) (s u : State), u = s.tick at_ → transport u n ≠ 1 → transport u n ≠ 2 →
    exec (.goBackTimer at_ n) s = .next u)
  ∧ (∀ (at_ : Nat) (n x : Nat) (v : Session) (s u : State), u = s.tick at_ → netPort u n = some x → x < 2 → session? u
    (stream u n).session = some v → (stream u n).q.folios.any (unsent (stream u n)) = false → (stream u n).again = []
    → (stream u n).lastSend + 100 * msU ≤ u.now →
    exec (.streamHeartbeat at_ n) s = .next (netDatagram n x 4 (le 8 ((stream u n).q.nextSeq - 1)) v u))
  ∧ (∀ (at_ : Nat) (n : Nat) (hdr body mac : List Byte) (v : Session) (s u : State), u = s.tick at_ → session? u (stream u
    n).session = some v → hmac v.key (hdr ++ body) = mac → fld 0 1 hdr = 3 → fld 1 1 hdr = n → fld 4 4 hdr = v.id →
    (stream u n).ackCounts.get v.id 0 < fld 8 8 hdr → fld 8 2 body = 0 → body.length = 16 → (netPort u n = some 0 ∨
    netPort u n = some 1) →
    exec (.streamAckDatagram at_ n hdr body mac) s = .next (netAck n (fld 0 8 body) (setStream n
      { stream u n with ackCounts := (stream u n).ackCounts.put v.id (fld 8 8 hdr) } u)))
  ∧ (∀ (at_ : Nat) (n : Nat) (hdr body mac : List Byte) (v : Session) (s u : State), u = s.tick at_ → session? u (stream u
    n).session = some v → (hmac v.key (hdr ++ body) ≠ mac ∨ fld 8 8 hdr ≤ (stream u n).ackCounts.get v.id 0) →
    exec (.streamAckDatagram at_ n hdr body mac) s = .next u)
  ∧ (∀ (at_ : Nat) (x n : Nat) (b : List Byte) (s u : State), u = s.tick at_ → x < 2 → skaingUp u x = true → skaingVer u x
    = 2 → (relays u x).find? (fun k => cf u 0x0A04 k 0 23 16 == (readFolio b).stream) = some n →
    exec (.skaingDataFrame at_ x b true) s = .next (relayTake n (readFolio b) (setSkaing x
      { skaing u x with lastRx := u.now } u)))
  ∧ (∀ (at_ : Nat) (x n c a : Nat) (s u : State), u = s.tick at_ → x < 2 → skaingUp u x = true → skaingVer u x = 2 →
    netPort u n = some (2 + x) →
    exec (.skaingCreditFrame at_ x n c a true) s = .next (netAck n a (setStream n
      { stream u n with credits := min 64 ((stream u n).credits + c) } (setSkaing x
      { skaing u x with lastRx := u.now } u))))
  ∧ (∀ (at_ : Nat) (x : Nat) (mac ip data : List Byte) (s u : State), u = s.tick at_ → x < 2 → laneUp u (ethLane x) = true
    → cfBit u 0x0A03 x 0 31 = true →
    exec (.ethArpNdEcho at_ x 0 mac ip (ipv4 u x) data) s = .next (sendFrame x mac 0x0806 (be 2 1 ++ be 2 0x0800 ++ le 1 6
      ++ le 1 4 ++ be 2 2 ++ macBytes u x ++ ipv4 u x ++ mac ++ ip) u))
  ∧ (∀ (at_ : Nat) (x : Nat) (mac ip data : List Byte) (s u : State), u = s.tick at_ → x < 2 → laneUp u (ethLane x) = true
    → cfBit u 0x0A03 x 0 31 = true → frameFits u x false data = true →
    exec (.ethArpNdEcho at_ x 2 mac ip (ipv4 u x) data) s = .next (sendFrame x mac 0x0800 (le 1 0 ++ le 1 0 ++ be 2
      (inetSum (be 4 0 ++ data)) ++ data) u))
  ∧ (∀ (at_ : Nat) (x k : Nat) (mac ip target data : List Byte) (s u : State), u = s.tick at_ → target ≠ (if (k = 0 ∨ k =
    2) then ipv4 u x else ipv6 u x) → exec (.ethArpNdEcho at_ x k mac ip target data) s = .next u)
  ∧ (∀ (at_ : Nat) (x n c a : Nat) (s u : State), u = s.tick at_ → x < 2 → skaingUp u x = true → skaingVer u x = 2 →
    exec (.skaingCreditFrame at_ x n c a false) s = .next (setSkaing x
      { skaing u x with crcDrops := (skaing u x).crcDrops + 1 } u))

/-- PB_WRITE and the blocks that act when written (13 R338, R339). The outcome of the signature's arithmetic is a free
value (log entry 3). Commands shown to complete: pbWrite, toneScanNow, toneCaptureBase, timeCtrlWrite, ptpPortWrite,
ethPortWrite, accessPolicyWrite, serviceAuthWrite, serviceAuthExpiry. -/
def Obligations.ParameterWrites : Prop :=
  (∀ (at_ : Nat) (p : Packet) (v : Session) (r : Req) (z : State) (b i k m : Nat) (s u : State), u = s.tick at_ →
    Accepted 0x0100 p pbRole writeOk v u → r = request 0x0100 p v u → z = takenState p v u → b = pbBlock r → i =
    pbInst r → k = pbOff r → m = (accMask .rw b i k ||| accMask .sl b i k) → pbLen r = 4 → [0x0104, 0x0601, 0x0603,
    0x0A01].contains b = false → b < 0x0B00 → (rangeHas .sl r = false ∨ guardOpen z b = true) → z.jrn.failed = false →
    linkRules (writeWords r z) b i = true →
    ∃ t, exec (.pbWrite at_ p) s = .next t
          ∧ t.cfg = keyPut z.cfg (b, i, k) ((word z b i k - (word z b i k &&& m)) + (pbWord r k &&& m))
          ∧ Still u { t with cfg := u.cfg })
  ∧ (∀ (at_ : Nat) (p : Packet) (v : Session) (r : Req) (z : State) (s u : State), u = s.tick at_ → Accepted 0x0100 p
    pbRole writeOk v u → r = request 0x0100 p v u → z = takenState p v u → rangeHas .sl r = true → guardOpen z
    (pbBlock r) = false → exec (.pbWrite at_ p) s = .next (refuse r stSealed z))
  ∧ (∀ (at_ : Nat) (p : Packet) (v : Session) (r : Req) (z : State) (s u : State), u = s.tick at_ → Accepted 0x0100 p
    pbRole writeOk v u → r = request 0x0100 p v u → z = takenState p v u → rangeHas .sl r = false → pbBlock r ≠ 0x0C02
    → linkRules (writeWords r z) (pbBlock r) (pbInst r) = false →
    exec (.pbWrite at_ p) s = .next (refuse r stConflict z))
  ∧ (∀ (at_ : Nat) (p : Packet) (v : Session) (r : Req) (z : State) (q : Nat) (s u : State), u = s.tick at_ → Accepted
    0x0100 p pbRole writeOk v u → r = request 0x0100 p v u → z = takenState p v u → q = pbInst r → pbBlock r = 0x0104
    → pbOff r = 12 → pbLen r = 4 → z.jrn.failed = false → pbWord r 12 % 4 = 1 →
    ∃ t, exec (.toneScanNow at_ p) s = .next t ∧ toneOf t q = toneOf (startScan q false (writeWords r z)) q
          ∧ (∀ k, k ≠ q → toneOf t k = toneOf z k) ∧ t.chans = z.chans ∧ t.cal = z.cal)
  ∧ (∀ (at_ : Nat) (p : Packet) (v : Session) (r : Req) (z : State) (q : Nat) (s u : State), u = s.tick at_ → Accepted
    0x0100 p pbRole writeOk v u → r = request 0x0100 p v u → z = takenState p v u → q = pbInst r → pbBlock r = 0x0104
    → pbOff r = 12 → pbLen r = 4 → z.jrn.failed = false → pbWord r 12 % 4 = 2 →
    ∃ t, exec (.toneCaptureBase at_ p) s = .next t ∧ toneOf t q = { toneOf z q with captureNext := true }
          ∧ (∀ k, k ≠ q → toneOf t k = toneOf z k) ∧ t.chans = z.chans ∧ t.cal = z.cal)
  ∧ (∀ (at_ : Nat) (p : Packet) (v : Session) (r : Req) (z : State) (s u : State), u = s.tick at_ → Accepted 0x0100 p
    pbRole writeOk v u → r = request 0x0100 p v u → z = takenState p v u → pbBlock r = 0x0601 → z.jrn.failed = false →
    ∃ t, exec (.timeCtrlWrite at_ p) s = .next t ∧ t.cfg = (writeWords r z).cfg
          ∧ t.time = (timeCtrlWritten (writeWords r z)).time ∧ t.chans = z.chans ∧ t.lanes = z.lanes)
  ∧ (∀ (at_ : Nat) (p : Packet) (v : Session) (r : Req) (z : State) (i : Nat) (s u : State), u = s.tick at_ → Accepted
    0x0100 p pbRole writeOk v u → r = request 0x0100 p v u → z = takenState p v u → i = pbInst r → pbBlock r = 0x0603
    → z.jrn.failed = false → linkRules (writeWords r z) 0x0603 i = true → (fieldChanged z (writeWords r z) 0x0603 i 0
    31 28 || fieldChanged z (writeWords r z) 0x0603 i 0 23 16) = true →
    ∃ t, exec (.ptpPortWrite at_ p) s = .next t ∧ t.cfg = (writeWords r z).cfg
          ∧ t.ptp = (ptpRestart i (writeWords r z)).ptp ∧ t.chans = z.chans ∧ t.lanes = z.lanes)
  ∧ (∀ (at_ : Nat) (p : Packet) (v : Session) (r : Req) (z : State) (i : Nat) (s u : State), u = s.tick at_ → Accepted
    0x0100 p pbRole writeOk v u → r = request 0x0100 p v u → z = takenState p v u → i = pbInst r → pbBlock r = 0x0A03
    → z.jrn.failed = false → linkRules (writeWords r z) 0x0A03 i = true →
    ∃ t, exec (.ethPortWrite at_ p) s = .next t ∧ t.cfg = (writeWords r z).cfg ∧ Still u { t with cfg := u.cfg })
  ∧ (∀ (at_ : Nat) (p : Packet) (v : Session) (r : Req) (z : State) (i : Nat) (s u : State), u = s.tick at_ → Accepted
    0x0100 p pbRole writeOk v u → r = request 0x0100 p v u → z = takenState p v u → i = pbInst r → pbBlock r = 0x0C01
    → z.jrn.failed = false → pbOff r = 0 → pbLen r = 4 →
    ∃ t, exec (.accessPolicyWrite at_ p) s = .next t ∧ t.cfg = z.cfg
          ∧ t.cz.keys =
              { z.cz.keys with anonEn := bit 3 (pbWord r 0), anonRole := pbWord r 0 % 8, state := max 1 z.cz.keys.state }
          ∧ t.flash.keys.anonEn = bit 3 (pbWord r 0) ∧ t.flash.keys.anonRole = pbWord r 0 % 8)
  ∧ (∀ (at_ : Nat) (p : Packet) (v : Session) (r : Req) (z : State) (s u : State), u = s.tick at_ → Accepted 0x0100 p
    pbRole writeOk v u → r = request 0x0100 p v u → z = takenState p v u → pbBlock r = 0x0C02 → z.jrn.failed = false →
    allZero (r.params.drop 8) = true →
    ∃ t, exec (.serviceAuthWrite at_ p) s = .next t ∧ t.cz.authValid = false ∧ t.cz.authSecret = []
          ∧ (t.cz.sessions.all fun x => decide (x.role ≠ 5)) = true ∧ t.cfg = z.cfg)
  ∧ (∀ (at_ : Nat) (p : Packet) (v : Session) (r : Req) (z : State) (l : List Byte) (s u : State), u = s.tick at_ →
    Accepted 0x0100 p pbRole writeOk v u → r = request 0x0100 p v u → z = takenState p v u → l = r.params.drop 8 →
    pbBlock r = 0x0C02 → z.jrn.failed = false → allZero l = false →
    exec (.serviceAuthWrite at_ p) s = .next (match authSecret r l z with
          | none => refuse r stInvalid z
          | some k => answer r stOk []
              { jCommand r false 1 (authBody r) z with cz.authBytes := l.take 0x18, cz.authSecret := k, cz.authValid := true, cz.authAt := z.now, cz.authUnset := z.time.state == 0 }))
  ∧ (∀ (at_ : Nat) (s u : State), u = s.tick at_ → u.cz.authValid = true → u.time.state ≠ 0 → (fld 8 8 u.cz.authBytes *
    secU : Nat) ≤ devNow u →
    ∃ t, exec (.serviceAuthExpiry at_) s = .next t ∧ t.cz.authValid = false ∧ (t.cz.sessions.all fun x => decide
      (x.role ≠ 5)) = true
          ∧ t.cfg = u.cfg ∧ t.time = u.time)
  ∧ (∀ (at_ : Nat) (s u : State), u = s.tick at_ → authPast u.cz.authBytes u = false → (u.time.state ≠ 0 ∨ u.now <
    u.cz.authAt + 86400 * secU) → exec (.serviceAuthExpiry at_) s = .next u)

/-- Reading and staging (13 R338, R340). Commands shown to complete: pbRead, pbStage. -/
def Obligations.ParameterReadsAndStages : Prop :=
  (∀ (at_ : Nat) (p : Packet) (v : Session) (r : Req) (z : State) (s u : State), u = s.tick at_ → Accepted 0x0101 p
    readRole readOk v u → r = request 0x0101 p v u → z = takenState p v u → r.f 8 1 = 0 →
    exec (.pbRead at_ p) s = .next (answer r stOk ((pbOffs r).flatMap fun k => le 4 (readWord z (pbBlock r) (pbInst r) k))
      z))
  ∧ (∀ (at_ : Nat) (p : Packet) (v : Session) (r : Req) (z : State) (s u : State), u = s.tick at_ → Accepted 0x0101 p
    readRole readOk v u → r = request 0x0101 p v u → z = takenState p v u → r.f 8 1 = 1 →
    exec (.pbRead at_ p) s = .next (match stagedWord z r with
          | none => refuse r stInvalid z
          | some w => answer r stOk ((pbOffs r).flatMap fun k => le 4 (viewWord z (pbBlock r) (pbInst r) k (w k))) z))
  ∧ (∀ (at_ : Nat) (p : Packet) (v : Session) (r : Req) (z : State) (x : Staged) (s u : State), u = s.tick at_ → Accepted
    0x0102 p pbRole stageOk v u → r = request 0x0102 p v u → z = takenState p v u → x =
    { block := pbBlock r, inst := pbInst r, words := (setOffs (pbBlock r) (pbInst r)).map fun k => (k, overRange r (stageBase z r) k) }
    → pbLen r ≠ 0 → ((stagedOf z r).any fun y => y.block == x.block && y.inst == x.inst) = false → stagedBytes z +
    blockSize (pbBlock r) ≤ 1048576 →
    exec (.pbStage at_ p) s = .next (answer r stOk [] (onSession r.session (fun v => { v with staged := v.staged ++ [x] })
      z)))
  ∧ (∀ (at_ : Nat) (p : Packet) (v : Session) (r : Req) (z : State) (s u : State), u = s.tick at_ → Accepted 0x0102 p
    pbRole stageOk v u → r = request 0x0102 p v u → z = takenState p v u → pbLen r = 0 →
    exec (.pbStage at_ p) s = .next (answer r stOk [] (onSession r.session (fun v =>
      { v with staged := v.staged.filter fun x => !(x.block == pbBlock r && x.inst == pbInst r) }) z)))

/-- Commits (13 R341 to R343). Commands shown to complete: pbCommit, commitEdge. -/
def Obligations.Commits : Prop :=
  (∀ (at_ : Nat) (p : Packet) (v : Session) (r : Req) (z : State) (m : Int) (c : PendCommit) (s u : State), u = s.tick
    at_ → Accepted 0x0103 p commitRole commitParams v u → r = request 0x0103 p v u → z = takenState p v u →
    commitTarget r z = some m → c = { req := r, edge := 25 * m.toNat, items := stagedOf z r, acks := [] } → ((stagedOf
    z r).any (itemOut z)) = false → devNow z + (leadU : Int) ≤ sincTime m → scheduled z < 256 → sameEdge c z = false →
    safetyRules (afterCommits ((byEdge z).filter fun x => decide (x.edge ≤ c.edge)) z) (applyWords c.items
    (afterCommits ((byEdge z).filter fun x => decide (x.edge ≤ c.edge)) z)) = true → chainRules c.edge z []
    (insertCommit c (byEdge z)) = true → laterSafe (applyWords c.items (afterCommits ((byEdge z).filter fun x =>
    decide (x.edge ≤ c.edge)) z)) (afterCommits ((byEdge z).filter fun x => decide (x.edge ≤ c.edge)) z) ((byEdge
    z).filter fun x => decide (c.edge < x.edge)) = true → commitFull (byEdge z) c z = false →
    exec (.pbCommit at_ p) s = .next (queued { r with ranLate := false } (le 8 c.edge ++ stampOf z ((c.edge * strobeU
      : Nat) : Int))
          (forAll (servingQuires z) (fun q => toQuire q 1 c.edge)
            { onSession r.session (fun v => { v with staged := [] }) z with cz.commits := z.cz.commits ++ [c] })))
  ∧ (∀ (at_ : Nat) (p : Packet) (v : Session) (r : Req) (z : State) (m : Int) (s u : State), u = s.tick at_ → Accepted
    0x0103 p commitRole commitParams v u → r = request 0x0103 p v u → z = takenState p v u → commitTarget r z = some m
    → sincTime m < devNow z + (leadU : Int) → exec (.pbCommit at_ p) s = .next (refuse r stLate (seenState p v u)))
  ∧ (∀ (at_ : Nat) (p : Packet) (v : Session) (r : Req) (z : State) (m : Int) (s u : State), u = s.tick at_ → Accepted
    0x0103 p commitRole commitParams v u → r = request 0x0103 p v u → z = takenState p v u → commitTarget r z = some m
    → devNow z + (leadU : Int) ≤ sincTime m → stagedOf z r ≠ [] → (stagedOf z r).all (itemOut z) = true →
    exec (.pbCommit at_ p) s = .next (refuse r stOut z))
  ∧ (∀ (at_ : Nat) (p : Packet) (v : Session) (r : Req) (z : State) (m : Int) (s u : State), u = s.tick at_ → Accepted
    0x0103 p commitRole commitParams v u → r = request 0x0103 p v u → z = takenState p v u → commitTarget r z = some m
    → devNow z + (leadU : Int) ≤ sincTime m → ((stagedOf z r).any (itemOut z)) = false → 256 ≤ scheduled z →
    exec (.pbCommit at_ p) s = .next (refuse r stBusy z))
  ∧ (∀ (at_ : Nat) (edge : Nat) (s u : State), u = s.tick at_ → devNow u < ((edge * strobeU : Nat) : Int) →
    exec (.commitEdge at_ edge) s = .next u)
  ∧ (∀ (at_ : Nat) (edge : Nat) (c : PendCommit) (s u : State), u = s.tick at_ → ((byEdge u).filter fun x => decide (x.edge
    ≤ edge)) = [c] → ((edge * strobeU : Nat) : Int) ≤ devNow u → lateQuires u c.acks = [] →
    exec (.commitEdge at_ edge) s = .next (commitNow c u))
  ∧ (∀ (c : PendCommit) (s o t : State), o = dueAtEdge (edgeSinc c.edge) (forAll (c.items.filter (itemOut s)) holdItem
    { s with cz.commits := s.cz.commits.filter fun x => x != c }) → t = commitNow c s → (c.items.all fun x => decide
    (x.block ≠ 0x0301)) = true →
    t.cfg = (applyWords ((c.items.filter fun x => !itemOut o x).map (keepResponse o (edgeSinc c.edge))) o).cfg)
  ∧ (∀ (at_ : Nat) (edge : Nat) (c : PendCommit) (s u : State), u = s.tick at_ → ((byEdge u).filter fun x => decide (x.edge
    ≤ edge)) = [c] → ((edge * strobeU : Nat) : Int) ≤ devNow u → lateQuires u c.acks ≠ [] →
    ∃ t, exec (.commitEdge at_ edge) s = .next t ∧ t.cfg = u.cfg ∧ t.cz.commits = (u.cz.commits.filter fun x => x != c) ∧
      t.chans = u.chans ∧ t.time = u.time ∧ t.exc = u.exc)

/-- Sessions (13 R329 to R335). Commands shown to complete: sessionOpen, sessionClose, sessionPing, sessionResend,
sessionKeepaliveExpiry, pendingSessionDiscard, unknownOpcodePacket. -/
def Obligations.Sessions : Prop :=
  (∀ (at_ : Nat) (p : Packet) (v : Nat × Nat) (a : OpenAsk) (g : Nat × List Byte) (s u : State), u = s.tick at_ →
    takesPackets p u → p.session = 0 → lengthOk p = true → bit 3 p.flags = false → negotiate p = some v → openAsk p =
    some a → openGrant p.port a.credential u = some g → portFull p.port u = false → u.jrn.failed = false →
    exec (.sessionOpen at_ p) s = .next (openSession p v a g u))
  ∧ (∀ (p : Packet) (v : Nat × Nat) (a : OpenAsk) (g : Nat × List Byte) (s t : State), t = openSession p v a g s →
    t.cz.sessions.map (·.id) = s.cz.sessions.map (·.id) ++ [s.boot.startCount % 4096 * 2 ^ 20 + (s.cz.opened + 1)]
          ∧ t.cz.sessions.map (·.role) = s.cz.sessions.map (·.role) ++ [g.1]
          ∧ t.cz.opened = s.cz.opened + 1 ∧ t.draw = s.draw + 1 ∧ t.cfg = s.cfg ∧ t.time = s.time ∧ t.chans = s.chans
              ∧ t.trg = s.trg)
  ∧ (∀ (at_ : Nat) (p : Packet) (v : Nat × Nat) (a : OpenAsk) (s u : State), u = s.tick at_ → takesPackets p u → p.session
    = 0 → lengthOk p = true → bit 3 p.flags = false → negotiate p = some v → openAsk p = some a → openGrant p.port
    a.credential u = none → exec (.sessionOpen at_ p) s = .next (sendOpen p v stDenied [] u))
  ∧ (∀ (at_ : Nat) (p : Packet) (s u : State), u = s.tick at_ → takesPackets p u → p.session = 0 → lengthOk p = true → bit
    3 p.flags = false → negotiate p = none →
    exec (.sessionOpen at_ p) s = .next (sendOpen p (p.major, p.minor) stUnsupported [1, 2, 2, 3] u))
  ∧ (∀ (at_ : Nat) (p : Packet) (v : Nat × Nat) (a : OpenAsk) (g : Nat × List Byte) (s u : State), u = s.tick at_ →
    takesPackets p u → p.session = 0 → lengthOk p = true → bit 3 p.flags = false → negotiate p = some v → openAsk p =
    some a → openGrant p.port a.credential u = some g → portFull p.port u = true →
    exec (.sessionOpen at_ p) s = .next (sendOpen p v stBusy [] u))
  ∧ (∀ (at_ : Nat) (p : Packet) (v : Session) (r : Req) (z : State) (s u : State), u = s.tick at_ → Accepted 0x0001 p
    tableRole (exactly 0) v u → r = request 0x0001 p v u → z = takenState p v u → z.cz.fw = none →
    ∃ t, exec (.sessionClose at_ p) s = .next t ∧ (t.cz.sessions.all fun x => decide (x.id ≠ r.session)) = true
          ∧ (t.cz.sessions.length < z.cz.sessions.length) ∧ t.cfg = z.cfg ∧ t.chans = z.chans ∧ t.time = z.time)
  ∧ (∀ (at_ : Nat) (p : Packet) (v : Session) (r : Req) (z : State) (s u : State), u = s.tick at_ → Accepted 0x0002 p
    tableRole (exactly 0) v u → r = request 0x0002 p v u → z = takenState p v u →
    exec (.sessionPing at_ p) s = .next (answer r stOk (stampNow z) z))
  ∧ (∀ (at_ : Nat) (p : Packet) (v : Session) (r : Req) (z : State) (x : Session) (s u : State), u = s.tick at_ → Accepted
    0x0004 p tableRole tagOk v u → r = request 0x0004 p v u → z = takenState p v u → session? z r.session = some x →
    (x.cache.filter (·.1 == r.f 0 2)).isEmpty = false →
    exec (.sessionResend at_ p) s = .next (onSession r.session (fun y =>
      { y with owed := y.owed.filter (· != r.tag) })
          ((x.cache.filter (·.1 == r.f 0 2)).foldl (fun s b => sendBytes x.port r.source r.srcPort b.2 s) z)))
  ∧ (∀ (at_ : Nat) (p : Packet) (v : Session) (r : Req) (z : State) (x : Session) (s u : State), u = s.tick at_ → Accepted
    0x0004 p tableRole tagOk v u → r = request 0x0004 p v u → z = takenState p v u → session? z r.session = some x →
    (x.cache.filter (·.1 == r.f 0 2)).isEmpty = true →
    exec (.sessionResend at_ p) s = .next (refuse r stConflict z))
  ∧ (∀ (at_ : Nat) (v : Session) (s u : State), u = s.tick at_ → u.boot.restart = none → session? u v.id = some v → v.port
    ≠ 0 → v.lastPacket + v.keepalive * secU ≤ u.now →
    exec (.sessionKeepaliveExpiry at_ v.id) s = .next (closeSession v.id u))
  ∧ (∀ (at_ : Nat) (v : Session) (s u : State), u = s.tick at_ → session? u v.id = some v → (v.port = 0 ∨ u.now <
    v.lastPacket + v.keepalive * secU) → exec (.sessionKeepaliveExpiry at_ v.id) s = .next u)
  ∧ (∀ (at_ : Nat) (v : Session) (since : Nat) (s u : State), u = s.tick at_ → u.boot.restart = none → session? u v.id =
    some v → v.pending = some since → since + 5 * secU ≤ u.now →
    exec (.pendingSessionDiscard at_ v.id) s = .next (closeSession v.id u))
  ∧ (∀ (id : Nat) (s t : State), t = closeSession id s →
    t.cz.sessions = s.cz.sessions.filter (·.id != id) ∧ t.cfg = s.cfg ∧ t.chans = s.chans ∧ t.time = s.time ∧ t.trg =
      s.trg
          ∧ t.lanes = s.lanes ∧ t.safe = s.safe ∧ t.out = s.out)
  ∧ (∀ (at_ : Nat) (p : Packet) (op : Nat) (v : Session) (s u : State), u = s.tick at_ → op < 65536 → (opRow op).isNone =
    true → takesPackets p u → lengthOk p = true → packetSession p u = some v → v.trailer = false → bit 3 p.flags =
    false → judgeTag v p.tag ≤ 1 → p.major = v.major → p.minor = v.minor →
    exec (.unknownOpcodePacket at_ op p) s = .next (refuse (mkReq op p v u) stUnknown (seenState p v u)))

/-- Scheduled actions (13 R344). Commands shown to complete: scheduledActionDue, schedCancel. -/
def Obligations.ScheduledActions : Prop :=
  (∀ (at_ : Nat) (x : Sched) (s u : State), u = s.tick at_ → u.boot.restart = none → u.cz.sched = [x] → x.time ≤ devNow u
    → exec (.scheduledActionDue at_) s = .next (runSched x { u with cz.sched := [] }))
  ∧ (∀ (at_ : Nat) (x : Sched) (s u : State), u = s.tick at_ → u.boot.restart = none → earliestSched u.cz.sched = some x →
    devNow u < x.time → exec (.scheduledActionDue at_) s = .next u)
  ∧ (∀ (at_ : Nat) (p : Packet) (v : Session) (r : Req) (z : State) (x : Sched) (s u : State), u = s.tick at_ → Accepted
    0x0003 p tableRole tagOk v u → r = request 0x0003 p v u → z = takenState p v u → (z.cz.sched.find? fun y => ownTag
    r (r.f 0 2) y.req) = some x →
    exec (.schedCancel at_ p) s
        = .next (refuse x.req stConflict (answer r stOk []
            { z with cz.sched := z.cz.sched.filter fun y => !ownTag r (r.f 0 2) y.req })))
  ∧ (∀ (at_ : Nat) (p : Packet) (v : Session) (r : Req) (z : State) (c : PendCommit) (s u : State), u = s.tick at_ →
    Accepted 0x0003 p tableRole tagOk v u → r = request 0x0003 p v u → z = takenState p v u → (z.cz.sched.any fun y =>
    ownTag r (r.f 0 2) y.req) = false → (z.cz.commits.find? fun y => ownTag r (r.f 0 2) y.req) = some c →
    exec (.schedCancel at_ p) s = .next (refuse c.req stConflict (answer r stOk [] (returnItems c (forAll (servingQuires
      z) (fun q => toQuire q 2 c.edge)
      { z with cz.commits := z.cz.commits.filter fun y => !ownTag r (r.f 0 2) y.req })))))
  ∧ (∀ (at_ : Nat) (p : Packet) (v : Session) (r : Req) (z : State) (s u : State), u = s.tick at_ → Accepted 0x0003 p
    tableRole tagOk v u → r = request 0x0003 p v u → z = takenState p v u → (z.cz.sched.any fun y => ownTag r (r.f 0
    2) y.req) = false → (z.cz.commits.any fun y => ownTag r (r.f 0 2) y.req) = false →
    exec (.schedCancel at_ p) s = .next (refuse r stInvalid z))

/-- Acquisition control, credentials and group keys (14 R355, R356, R362, R364). Commands shown to complete: acqStatus,
acqRead, credAdd, credRevoke, credList, groupKeySet. -/
def Obligations.AcquisitionAndCredentials : Prop :=
  (∀ (at_ : Nat) (p : Packet) (v : Session) (r : Req) (z : State) (s u : State), u = s.tick at_ → Accepted 0x0200 p
    tableRole (exactly 0) v u → r = request 0x0200 p v u → z = takenState p v u →
    exec (.acqStatus at_ p) s = .next (answer r stOk (acqReply z) z))
  ∧ (∀ (at_ : Nat) (p : Packet) (v : Session) (r : Req) (z : State) (n i : Nat) (l : List Sample) (s u : State), u = s.tick
    at_ → Accepted 0x0201 p tableRole acqReadOk v u → r = request 0x0201 p v u → z = takenState p v u → n = r.f 0 1 →
    running z n = true → isCapture z n = false → coverOf z n = 0 → (stream z n).last = some (i, l) →
    exec (.acqRead at_ p) s = .next (answer r stOk (le 8 i ++ (acqCodes r).flatMap (acqValue z n l)) z))
  ∧ (∀ (at_ : Nat) (p : Packet) (v : Session) (r : Req) (z : State) (s u : State), u = s.tick at_ → Accepted 0x0201 p
    tableRole acqReadOk v u → r = request 0x0201 p v u → z = takenState p v u → (stream z (r.f 0 1)).last = none →
    exec (.acqRead at_ p) s = .next (refuse r stConflict z))
  ∧ (∀ (at_ : Nat) (p : Packet) (v : Session) (r : Req) (z : State) (x : Session) (k : List Byte) (s u : State), u = s.tick
    at_ → Accepted 0x0900 p tableRole credOk v u → r = request 0x0900 p v u → z = takenState p v u → session? z
    r.session = some x → x.trailer = true → ((creds z).any (·.id == r.f 0 4)) = false → (creds z).length < 64 →
    z.cz.keys.state ≠ 2 → unwrapFrom r x 8 (r.f 0 4) = some k →
    ∃ t, exec (.credAdd at_ p) s = .next t
          ∧ t.cz.keys =
              { z.cz.keys with state := 1, creds := z.cz.keys.creds ++ [{ id := r.f 0 4, role := r.f 4 1, ports := r.f 5 1, secret := k }] }
          ∧ t.flash.keys.programmed = true ∧ t.flash.keys.writes = (z.flash.keys.writes + 1) % 2 ^ 32
          ∧ t.flash.keys.creds = wrapCreds t.flash.keys.writes 0 t.cz.keys.creds
          ∧ Still { z with flash := t.flash } t)
  ∧ (∀ (at_ : Nat) (p : Packet) (v : Session) (r : Req) (z : State) (x : Session) (k : List Byte) (s u : State), u = s.tick
    at_ → Accepted 0x0900 p tableRole credOk v u → r = request 0x0900 p v u → z = takenState p v u → session? z
    r.session = some x → x.trailer = true → z.cz.keys.state = 2 → unwrapFrom r x 8 (r.f 0 4) = some k →
    ∃ t, exec (.credAdd at_ p) s = .next t
          ∧ t.cz.keys =
              { (default : Keys) with state := 1, anonEn := true, creds := [{ id := r.f 0 4, role := r.f 4 1, ports := r.f 5 1, secret := k }] }
          ∧ Still { z with flash := t.flash } t)
  ∧ (∀ (at_ : Nat) (p : Packet) (v : Session) (r : Req) (z : State) (x : Session) (s u : State), u = s.tick at_ → Accepted
    0x0900 p tableRole credOk v u → r = request 0x0900 p v u → z = takenState p v u → session? z r.session = some x →
    (x.trailer = false ∨ ((creds z).any (·.id == r.f 0 4)) = true) →
    exec (.credAdd at_ p) s = .next (refuse r stConflict z))
  ∧ (∀ (at_ : Nat) (p : Packet) (v : Session) (r : Req) (z : State) (x : Session) (s u : State), u = s.tick at_ → Accepted
    0x0900 p tableRole credOk v u → r = request 0x0900 p v u → z = takenState p v u → session? z r.session = some x →
    x.trailer = true → ((creds z).any (·.id == r.f 0 4)) = false → 64 ≤ (creds z).length →
    exec (.credAdd at_ p) s = .next (refuse r stBusy z))
  ∧ (∀ (at_ : Nat) (p : Packet) (v : Session) (r : Req) (z : State) (c : Credential) (s u : State), u = s.tick at_ →
    Accepted 0x0901 p tableRole (exactly 4) v u → r = request 0x0901 p v u → z = takenState p v u → ((creds z).find?
    (·.id == r.f 0 4)) = some c → (c.role ≠ 4 ∨ ((creds z).filter (·.role == 4)).length ≠ 1) →
    ∃ t, exec (.credRevoke at_ p) s = .next t ∧ t.cz.keys.creds = z.cz.keys.creds.filter (·.id != r.f 0 4)
          ∧ (t.cz.sessions.all fun x => decide (x.credential ≠ r.f 0 4)) = true ∧ t.cfg = z.cfg ∧ t.time = z.time ∧
              t.chans = z.chans)
  ∧ (∀ (at_ : Nat) (p : Packet) (v : Session) (r : Req) (z : State) (c : Credential) (s u : State), u = s.tick at_ →
    Accepted 0x0901 p tableRole (exactly 4) v u → r = request 0x0901 p v u → z = takenState p v u → ((creds z).find?
    (·.id == r.f 0 4)) = some c → c.role = 4 → ((creds z).filter (·.role == 4)).length = 1 →
    exec (.credRevoke at_ p) s = .next (refuse r stConflict z))
  ∧ (∀ (at_ : Nat) (p : Packet) (v : Session) (r : Req) (z : State) (s u : State), u = s.tick at_ → Accepted 0x0901 p
    tableRole (exactly 4) v u → r = request 0x0901 p v u → z = takenState p v u → ((creds z).find? (·.id == r.f 0 4))
    = none → exec (.credRevoke at_ p) s = .next (refuse r stInvalid z))
  ∧ (∀ (at_ : Nat) (p : Packet) (v : Session) (r : Req) (z : State) (s u : State), u = s.tick at_ → Accepted 0x0902 p
    tableRole (exactly 0) v u → r = request 0x0902 p v u → z = takenState p v u →
    exec (.credList at_ p) s = .next (answer r stOk (credListReply z) z))
  ∧ (∀ (at_ : Nat) (p : Packet) (v : Session) (r : Req) (z : State) (x : Session) (k : List Byte) (s u : State), u = s.tick
    at_ → Accepted 0x0906 p tableRole groupKeyOk v u → r = request 0x0906 p v u → z = takenState p v u → session? z
    r.session = some x → x.trailer = true → unwrapFrom r x 4 (r.f 0 2) = some k → ((z.cz.keys.groupKeys.find (r.f 0
    2)).isSome = true ∨ z.cz.keys.groupKeys.length < 16) →
    ∃ t, exec (.groupKeySet at_ p) s = .next t ∧ t.cz.keys.groupKeys = z.cz.keys.groupKeys.put (r.f 0 2) k
          ∧ t.cz.keys.creds = z.cz.keys.creds ∧ Still { z with flash := t.flash } t)
  ∧ (∀ (at_ : Nat) (p : Packet) (v : Session) (r : Req) (z : State) (x : Session) (k : List Byte) (s u : State), u = s.tick
    at_ → Accepted 0x0906 p tableRole groupKeyOk v u → r = request 0x0906 p v u → z = takenState p v u → session? z
    r.session = some x → x.trailer = true → unwrapFrom r x 4 (r.f 0 2) = some k → z.cz.keys.groupKeys.find (r.f 0 2) =
    none → 16 ≤ z.cz.keys.groupKeys.length → exec (.groupKeySet at_ p) s = .next (refuse r stConflict z))

/-- Journal, log and fault list (14 R363, R365). Commands shown to complete: journalRead, journalMirror, journalVerify,
journalVerifyDone, logRead, faultList, faultClear, logClear. -/
def Obligations.JournalAndLog : Prop :=
  (∀ (at_ : Nat) (p : Packet) (v : Session) (r : Req) (z : State) (s u : State), u = s.tick at_ → Accepted 0x0903 p
    tableRole jReadOk v u → r = request 0x0903 p v u → z = takenState p v u →
    exec (.journalRead at_ p) s = .next (answer r stOk (jReadReply r z) z))
  ∧ (∀ (at_ : Nat) (p : Packet) (v : Session) (r : Req) (z : State) (s u : State), u = s.tick at_ → Accepted 0x0904 p
    tableRole jMirrorOk v u → r = request 0x0904 p v u → z = takenState p v u → r.f 0 1 = 1 →
    exec (.journalMirror at_ p) s
        = .next (answer r stOk [] (jDone r [] { z with jrn.mirrorOn := true, jrn.mirrorNext := r.f 4 8 })))
  ∧ (∀ (at_ : Nat) (p : Packet) (v : Session) (r : Req) (z : State) (s u : State), u = s.tick at_ → Accepted 0x0904 p
    tableRole jMirrorOk v u → r = request 0x0904 p v u → z = takenState p v u → r.f 0 1 = 0 →
    exec (.journalMirror at_ p) s = .next (answer r stOk [] (jDone r [] { z with jrn.mirrorOn := false })))
  ∧ (∀ (at_ : Nat) (p : Packet) (v : Session) (r : Req) (z : State) (s u : State), u = s.tick at_ → Accepted 0x0905 p
    tableRole (exactly 0) v u → r = request 0x0905 p v u → z = takenState p v u → z.cz.verify = none →
    exec (.journalVerify at_ p) s = .next (queued r [] { z with cz.verify := some r }))
  ∧ (∀ (at_ : Nat) (p : Packet) (v : Session) (r : Req) (z : State) (s u : State), u = s.tick at_ → Accepted 0x0905 p
    tableRole (exactly 0) v u → r = request 0x0905 p v u → z = takenState p v u → z.cz.verify ≠ none →
    exec (.journalVerify at_ p) s = .next (refuse r stBusy z))
  ∧ (∀ (at_ : Nat) (r : Req) (s u : State), u = s.tick at_ → u.cz.verify = some r →
    exec (.journalVerifyDone at_) s = .next (answer r stOk (jVerifyReply u) { u with cz.verify := none }))
  ∧ (∀ (at_ : Nat) (p : Packet) (v : Session) (r : Req) (z : State) (s u : State), u = s.tick at_ → Accepted 0x0A00 p
    tableRole logReadOk v u → r = request 0x0A00 p v u → z = takenState p v u →
    exec (.logRead at_ p) s = .next (answer r stOk (logReadReply r z) z))
  ∧ (∀ (at_ : Nat) (p : Packet) (v : Session) (r : Req) (z : State) (s u : State), u = s.tick at_ → Accepted 0x0A01 p
    tableRole (exactly 0) v u → r = request 0x0A01 p v u → z = takenState p v u →
    exec (.faultList at_ p) s = .next (answer r stOk (faultListReply z) z))
  ∧ (∀ (at_ : Nat) (p : Packet) (v : Session) (r : Req) (z : State) (f : FaultEntry) (s u : State), u = s.tick at_ →
    Accepted 0x0A02 p tableRole (fun r s => exactly 4 r s && zeroAt 2 2 r) v u → r = request 0x0A02 p v u → z =
    takenState p v u → ((listed z).find? (·.code == r.f 0 2)) = some f → f.causes = [] →
    exec (.faultClear at_ p) s = .next (answer r stOk [] (setFault { f with listed := false } z)))
  ∧ (∀ (at_ : Nat) (p : Packet) (v : Session) (r : Req) (z : State) (f : FaultEntry) (s u : State), u = s.tick at_ →
    Accepted 0x0A02 p tableRole (fun r s => exactly 4 r s && zeroAt 2 2 r) v u → r = request 0x0A02 p v u → z =
    takenState p v u → ((listed z).find? (·.code == r.f 0 2)) = some f → f.causes ≠ [] →
    exec (.faultClear at_ p) s = .next (refuse r stConflict z))
  ∧ (∀ (at_ : Nat) (p : Packet) (v : Session) (r : Req) (z : State) (s u : State), u = s.tick at_ → Accepted 0x0A02 p
    tableRole (fun r s => exactly 4 r s && zeroAt 2 2 r) v u → r = request 0x0A02 p v u → z = takenState p v u →
    ((listed z).find? (·.code == r.f 0 2)) = none → exec (.faultClear at_ p) s = .next (refuse r stInvalid z))
  ∧ (∀ (at_ : Nat) (p : Packet) (v : Session) (r : Req) (z : State) (s u : State), u = s.tick at_ → Accepted 0x0A03 p
    tableRole (exactly 0) v u → r = request 0x0A03 p v u → z = takenState p v u → (z.flash.bad.contains 0) = false →
    ∃ t, exec (.logClear at_ p) s = .next t ∧ t.faults.log = [] ∧ t.faults.next = z.faults.next ∧ t.cfg = z.cfg ∧ Still u
      t)

/-- Firmware (14 R367 to R369). Commands shown to complete: fwBegin, fwEraseDone, fwData, fwCommit, fwTransferIdleTimeout,
fwSwap, hubReset. -/
def Obligations.FirmwareTransfers : Prop :=
  (∀ (at_ : Nat) (p : Packet) (v : Session) (r : Req) (z : State) (n : Nat) (s u : State), u = s.tick at_ → Accepted
    0x0B00 p tableRole fwBeginOk v u → r = request 0x0B00 p v u → z = takenState p v u → n = r.f 0 1 → z.cz.fw = none
    → n ≠ z.boot.image → (n ≠ 3 ∨ ucodeLoading z = false) →
    ∃ t, exec (.fwBegin at_ p) s = .next t
          ∧ t.cz.fw = some
              { target := n, length := r.f 4 4, session := r.session, erased := false, req := r, commit := none, data := [], buffered := 0, last := z.now }
          ∧ t.cfg = z.cfg ∧ t.chans = z.chans ∧ t.time = z.time)
  ∧ (∀ (at_ : Nat) (p : Packet) (v : Session) (r : Req) (z : State) (s u : State), u = s.tick at_ → Accepted 0x0B00 p
    tableRole fwBeginOk v u → r = request 0x0B00 p v u → z = takenState p v u → z.cz.fw ≠ none →
    exec (.fwBegin at_ p) s = .next (refuse r stBusy z))
  ∧ (∀ (at_ : Nat) (p : Packet) (v : Session) (r : Req) (z : State) (s u : State), u = s.tick at_ → Accepted 0x0B00 p
    tableRole fwBeginOk v u → r = request 0x0B00 p v u → z = takenState p v u → z.cz.fw = none → (r.f 0 1 =
    z.boot.image ∨ (r.f 0 1 = 3 ∧ ucodeLoading z = true)) → exec (.fwBegin at_ p) s = .next (refuse r stConflict z))
  ∧ (∀ (at_ : Nat) (x : FwTransfer) (s u : State), u = s.tick at_ → u.cz.fw = some x → x.erased = false → x.commit = none →
    (u.flash.bad.contains x.target) = false →
    exec (.fwEraseDone at_) s = .next (answer x.req stOk []
      { setPartition x.target [] u with cz.fw := some { x with erased := true } }))
  ∧ (∀ (at_ : Nat) (x : FwTransfer) (a : Req) (s u : State), u = s.tick at_ → u.cz.fw = some x → x.erased = false →
    x.commit = some a → (u.flash.bad.contains x.target) = false →
    exec (.fwEraseDone at_) s = .next (fwCommitEnd a x (answer x.req stOk []
      { setPartition x.target [] u with cz.fw := some { x with erased := true } })))
  ∧ (∀ (at_ : Nat) (p : Packet) (v : Session) (r : Req) (z : State) (x : FwTransfer) (fresh : List (Nat × Nat)) (s u :
    State), u = s.tick at_ → Accepted 0x0B01 p tableRole fwDataOk v u → r = request 0x0B01 p v u → z = takenState p v
    u → ownFw r z = some x → x.erased = true → ((fwRange r).any fun k => ((x.data.find k.1).getD k.2) != k.2) = false
    → fresh = ((fwRange r).filter fun k => (x.data.find k.1).isNone) → fresh.length + x.buffered ≤ 262144 →
    ∃ t, exec (.fwData at_ p) s = .next t
          ∧ (t.cz.fw.map (·.data)) = some (fresh.foldl (fun (y : Tab Nat) k => y.put k.1 k.2) x.data)
          ∧ (t.cz.fw.map (·.last)) = some z.now ∧ t.cfg = z.cfg ∧ t.flash = z.flash)
  ∧ (∀ (at_ : Nat) (p : Packet) (v : Session) (r : Req) (z : State) (x : FwTransfer) (s u : State), u = s.tick at_ →
    Accepted 0x0B01 p tableRole fwDataOk v u → r = request 0x0B01 p v u → z = takenState p v u → ownFw r z = some x →
    x.erased = true → x.last = z.now → ((fwRange r).any fun k => ((x.data.find k.1).getD k.2) != k.2) = false → 262144
    < x.buffered + ((fwRange r).filter fun k => (x.data.find k.1).isNone).length →
    exec (.fwData at_ p) s = .next (refuse r stBusy z))
  ∧ (∀ (at_ : Nat) (p : Packet) (v : Session) (r : Req) (z : State) (s u : State), u = s.tick at_ → Accepted 0x0B01 p
    tableRole fwDataOk v u → r = request 0x0B01 p v u → z = takenState p v u → ownFw r z = none →
    exec (.fwData at_ p) s = .next (refuse r stConflict z))
  ∧ (∀ (at_ : Nat) (p : Packet) (v : Session) (r : Req) (z : State) (s u : State), u = s.tick at_ → Accepted 0x0B02 p
    tableRole (exactly 0) v u → r = request 0x0B02 p v u → z = takenState p v u → ownFw r z = none →
    exec (.fwCommit at_ p) s = .next (refuse r stConflict z))
  ∧ (∀ (at_ : Nat) (p : Packet) (v : Session) (r : Req) (z : State) (x : FwTransfer) (s u : State), u = s.tick at_ →
    Accepted 0x0B02 p tableRole (exactly 0) v u → r = request 0x0B02 p v u → z = takenState p v u → ownFw r z = some x
    → x.erased = false → x.commit = none →
    exec (.fwCommit at_ p) s = .next (queued r [] { z with cz.fw := some { x with commit := some r } }))
  ∧ (∀ (at_ : Nat) (p : Packet) (v : Session) (r : Req) (z : State) (x : FwTransfer) (a : Req) (s u : State), u = s.tick
    at_ → Accepted 0x0B02 p tableRole (exactly 0) v u → r = request 0x0B02 p v u → z = takenState p v u → ownFw r z =
    some x → x.commit = some a → exec (.fwCommit at_ p) s = .next (refuse r stConflict z))
  ∧ (∀ (at_ : Nat) (p : Packet) (v : Session) (r : Req) (z : State) (x : FwTransfer) (y : State) (s u : State), u = s.tick
    at_ → Accepted 0x0B02 p tableRole (exactly 0) v u → r = request 0x0B02 p v u → z = takenState p v u → ownFw r z =
    some x → x.erased = true → x.commit = none → x.data.length < x.length → y = setPartition x.target (programBytes
    x.data []) (queued r [] z) → exec (.fwCommit at_ p) s = .next (answer r stConflict [1, 0, 0, 0] (abandonFw y)))
  ∧ (∀ (at_ : Nat) (p : Packet) (v : Session) (r : Req) (z : State) (x : FwTransfer) (y : State) (s u : State), u = s.tick
    at_ → Accepted 0x0B02 p tableRole (exactly 0) v u → r = request 0x0B02 p v u → z = takenState p v u → ownFw r z =
    some x → x.erased = true → x.commit = none → x.length ≤ x.data.length → (z.flash.bad.contains x.target) = false →
    y = setPartition x.target (programBytes x.data []) (queued r [] z) →
    ∃ t, exec (.fwCommit at_ p) s = .next t ∧ t.cz.fw = none ∧ t.cfg = z.cfg
          ∧ (partition t x.target) = (if imgCheck y x.target = 0 then partition (setImgState x.target (if x.target = 3
              then 2 else 1) y) x.target else partition (abandonFw y) x.target))
  ∧ (∀ (at_ : Nat) (x : FwTransfer) (s u : State), u = s.tick at_ → u.cz.fw = some x → x.last + 600 * secU ≤ u.now →
    exec (.fwTransferIdleTimeout at_) s = .next (endFw x u))
  ∧ (∀ (at_ : Nat) (x : FwTransfer) (s u : State), u = s.tick at_ → u.cz.fw = some x → u.now < x.last + 600 * secU →
    exec (.fwTransferIdleTimeout at_) s = .next u)
  ∧ (∀ (at_ : Nat) (p : Packet) (v : Session) (r : Req) (z : State) (s u : State), u = s.tick at_ → Accepted 0x0B03 p
    tableRole (fun r s => exactly 4 r s && zeroAt 0 4 r) v u → r = request 0x0B03 p v u → z = takenState p v u →
    (z.cz.fw ≠ none ∨ z.cal.sealOpen = true ∨ z.safe.lockOpen = true ∨ z.cz.commits ≠ [] ∨ z.cz.sched ≠ []) →
    exec (.fwSwap at_ p) s = .next (refuse r stConflict z))
  ∧ (∀ (at_ : Nat) (p : Packet) (v : Session) (r : Req) (z : State) (i : Nat) (s u : State), u = s.tick at_ → Accepted
    0x0B03 p tableRole (fun r s => exactly 4 r s && zeroAt 0 4 r) v u → r = request 0x0B03 p v u → z = takenState p v
    u → i = otherImage z → z.cz.fw = none → z.cal.sealOpen = false → z.safe.lockOpen = false → z.cz.commits = [] →
    z.cz.sched = [] →
    exec (.fwSwap at_ p) s = .next (if imgReady i z = true then
            cpRestart i
                { setPartition i (imgTry (partition (answer r stOk [] (jDone r [] z)) i)) (answer r stOk [] (jDone r [] z)) with boot.swapped := some (z.now, z.boot.image) }
          else refuse r stConflict z))
  ∧ (∀ (at_ : Nat) (p : Packet) (v : Session) (r : Req) (z : State) (s u : State), u = s.tick at_ → Accepted 0x0B04 p
    tableRole (fun r s => exactly 4 r s && decide (r.f 0 4 = 0x4B410001)) v u → r = request 0x0B04 p v u → z =
    takenState p v u →
    ∃ t, exec (.hubReset at_ p []) s = .next t ∧ t.boot.inReset = true ∧ (z.boot.inReset = false → t.boot.newCause =
      8)
          ∧ t.cfg = [] ∧ t.cz = State.reset.cz ∧ t.part = z.part)

/-- 13 R334, the whole of judge_tag. -/
def Obligations.TagsAreJudged : Prop :=
  (∀ (v : Session) (k : Nat), v.high < 65536 → 1 ≤ k → k < 32768 → judgeTag v ((v.high + k) % 65536) = 1)
  ∧ (∀ (v : Session) (k : Nat), v.high < 65536 → k < 64 →
    judgeTag v ((v.high + 65536 - k) % 65536) = (if v.seen.contains ((v.high + 65536 - k) % 65536) then 2 else 0))
  ∧ (∀ (v : Session) (k : Nat), v.high < 65536 → 64 ≤ k → k ≤ 32768 → judgeTag v ((v.high + 65536 - k) % 65536) = 3)
  ∧ (∀ (v w : Session) (t : Nat), v.high < 65536 → t < 65536 → judgeTag v t ≤ 1 → w = seeTag v t →
    w.high = (if judgeTag v t = 1 then t else v.high) ∧ judgeTag w t = 2
          ∧ (∀ x ∈ v.seen, (w.high + 65536 - x) % 65536 < 64 → x ∈ w.seen))
  ∧ (∀ (op : Nat) (need : Req → State → Nat) (ok : Req → State → Bool) (body : Req → State → State) (p : Packet) (v :
    Session) (s : State), takesPackets p s → lengthOk p = true → packetSession p s = some v → ((v.trailer && !bit 3
    p.flags) || (bit 3 p.flags && hmac v.key (packetBytes op p) != p.trailer)) = false → judgeTag v p.tag = 3 →
    receive op p (serve op need ok body) s = onSession v.id (fun x => { x with lastPacket := s.now }) s)
  ∧ (∀ (op : Nat) (need : Req → State → Nat) (ok : Req → State → Bool) (body : Req → State → State) (p : Packet) (v :
    Session) (s : State), takesPackets p s → lengthOk p = true → packetSession p s = some v → ((v.trailer && !bit 3
    p.flags) || (bit 3 p.flags && hmac v.key (packetBytes op p) != p.trailer)) = false → judgeTag v p.tag = 2 →
    (v.cache.any fun b => decide (b.1 = p.tag % 65536)) = true →
    receive op p (serve op need ok body) s = (v.cache.filter fun b => b.1 == p.tag % 65536).foldl (fun s b => sendBytes
      v.port p.source p.srcPort b.2 s) (onSession v.id (fun x => { x with lastPacket := s.now }) s))
  ∧ (∀ (op : Nat) (need : Req → State → Nat) (ok : Req → State → Bool) (body : Req → State → State) (p : Packet) (v :
    Session) (s : State), Accepted op p need ok v s →
    receive op p (serve op need ok body) s = body (request op p v s) (takenState p v s))
  ∧ (∀ (p : Packet) (v : Nat × Nat) (a : OpenAsk) (g : Nat × List Byte) (s t : State), t = openSession p v a g s →
    (t.cz.sessions.getLast?.map (·.high)) = some (p.tag % 65536))

/-- 16 R398. Commands shown to complete: credAdd, groupKeySet, serviceAuthWrite. -/
def Obligations.SecretsAreWrapped : Prop :=
  (∀ (k x sec : List Byte), sec.length = 32 →
    wrapSecret k x sec = xorBytes sec (hmac k (ascii "HKA-WRAP" ++ x))
            ++ (hmac k (ascii "HKA-WTAG" ++ x ++ xorBytes sec (hmac k (ascii "HKA-WRAP" ++ x)))).take 16
          ∧ (wrapSecret k x sec).length = 48 ∧ unwrapSecret k x (wrapSecret k x sec) = some sec)
  ∧ (∀ (k x c t : List Byte), c.length = 32 → (hmac k (ascii "HKA-WTAG" ++ x ++ c)).take 16 ≠ t →
    unwrapSecret k x (c ++ t) = none)
  ∧ (∀ (at_ : Nat) (p : Packet) (v : Session) (r : Req) (z : State) (x : Session) (k : List Byte) (s u : State), u = s.tick
    at_ → Accepted 0x0900 p tableRole credOk v u → r = request 0x0900 p v u → z = takenState p v u → session? z
    r.session = some x → x.trailer = true → ((creds z).any (·.id == r.f 0 4)) = false → (creds z).length < 64 →
    k.length = 32 → slice 8 48 r.params = wrapSecret x.key (le 2 r.tag ++ le 4 (r.f 0 4)) k →
    ∃ t, exec (.credAdd at_ p) s = .next t
          ∧ (t.cz.keys.creds.getLast?) = some { id := r.f 0 4, role := r.f 4 1, ports := r.f 5 1, secret := k })
  ∧ (∀ (at_ : Nat) (p : Packet) (v : Session) (r : Req) (z : State) (x : Session) (s u : State), u = s.tick at_ → Accepted
    0x0900 p tableRole credOk v u → r = request 0x0900 p v u → z = takenState p v u → session? z r.session = some x →
    x.trailer = true → ((creds z).any (·.id == r.f 0 4)) = false → (creds z).length < 64 → unwrapSecret x.key (le 2
    r.tag ++ le 4 (r.f 0 4)) (slice 8 48 r.params) = none → exec (.credAdd at_ p) s = .next (refuse r stInvalid z))
  ∧ (∀ (at_ : Nat) (p : Packet) (v : Session) (r : Req) (z : State) (x : Session) (s u : State), u = s.tick at_ → Accepted
    0x0906 p tableRole groupKeyOk v u → r = request 0x0906 p v u → z = takenState p v u → session? z r.session = some
    x → x.trailer = true → unwrapSecret x.key (le 2 r.tag ++ le 4 (r.f 0 2)) (slice 4 48 r.params) = none →
    exec (.groupKeySet at_ p) s = .next (refuse r stInvalid z))
  ∧ (∀ (at_ : Nat) (p : Packet) (v : Session) (r : Req) (z : State) (x : Session) (k : List Byte) (s u : State), u = s.tick
    at_ → Accepted 0x0906 p tableRole groupKeyOk v u → r = request 0x0906 p v u → z = takenState p v u → session? z
    r.session = some x → x.trailer = true → k.length = 32 → slice 4 48 r.params = wrapSecret x.key (le 2 r.tag ++ le 4
    (r.f 0 2)) k → z.cz.keys.groupKeys.length < 16 →
    ∃ t, exec (.groupKeySet at_ p) s = .next t ∧ t.cz.keys.groupKeys.find (r.f 0 2) = some k)
  ∧ (∀ (at_ : Nat) (p : Packet) (v : Session) (r : Req) (z : State) (x : Session) (l : List Byte) (s u : State), u = s.tick
    at_ → Accepted 0x0100 p pbRole writeOk v u → r = request 0x0100 p v u → z = takenState p v u → session? z
    r.session = some x → l = r.params.drop 8 → pbBlock r = 0x0C02 → allZero l = false → z.jrn.failed = false →
    unwrapSecret x.key (le 2 r.tag ++ le 4 0) (slice 24 48 l) = none →
    exec (.serviceAuthWrite at_ p) s = .next (refuse r stInvalid z))
  ∧ (∀ (r : Req) (l k : List Byte) (x : Session) (s : State), session? s r.session = some x → x.trailer = true → fld 0 8 l
    = s.part.serial → authPast l s = false → k.length = 32 → slice 24 48 l = wrapSecret x.key (le 2 r.tag ++ le 4 0) k
    →
    authSecret r l s = (if Config.ecdsaOk 1 (sha256 (slice 0 0x18 l ++ sha256 k)) (slice 0x48 96 l) then some k else none))

/-- 13 R337. -/
def Obligations.SixtyFourRequests : Prop :=
  (∀ (op : Nat) (need : Req → State → Nat) (ok : Req → State → Bool) (body : Req → State → State) (p : Packet) (v :
    Session) (row : OpRow) (s : State), takesPackets p s → lengthOk p = true → packetSession p s = some v →
    ((v.trailer && !bit 3 p.flags) || (bit 3 p.flags && hmac v.key (packetBytes op p) != p.trailer)) = false →
    judgeTag v p.tag ≤ 1 → p.major = v.major → p.minor = v.minor → opRow op = some row → definedIn row v.major v.minor
    = true → meets v.role (need (mkReq op p v s) (seenState p v s)) = true → (row.trunk || inCrown (seenState p v s))
    = true → (flagsOk row p v (seenState p v s) && ok (mkReq op p v s) (seenState p v s)) = true → ¬ (lateAt op p v s
    = true ∧ (mkReq op p v s).runNow = false) → 64 < (((session? (takenState p v s) v.id).map (·.owed.length)).getD 0)
    → receive op p (serve op need ok body) s = refuse (request op p v s) stBusy (takenState p v s))
  ∧ (∀ (op : Nat) (need : Req → State → Nat) (ok : Req → State → Bool) (p : Packet) (v : Session) (s : State), Accepted op
    p need ok v s → (((session? (takenState p v s) v.id).map (·.owed.length)).getD 0) ≤ 64)

/-- 13 R328. -/
def Obligations.PacketsThatFailAuthentication : Prop :=
  (∀ (op : Nat) (need : Req → State → Nat) (ok : Req → State → Bool) (body : Req → State → State) (p : Packet) (s t :
    State), takesPackets p s → p.port ≠ 0 → (lengthOk p = false ∨ packetSession p s = none) → t = receive op p (serve
    op need ok body) s →
    t.cz.dropped.get p.port 0 = s.cz.dropped.get p.port 0 + 1 ∧ t.out = s.out ∧ t.host.backlog = s.host.backlog ∧
      t.cz.sessions = s.cz.sessions)
  ∧ (∀ (op : Nat) (need : Req → State → Nat) (ok : Req → State → Bool) (body : Req → State → State) (p : Packet) (v :
    Session) (s t : State), takesPackets p s → p.port ≠ 0 → lengthOk p = true → packetSession p s = some v →
    ((v.trailer && !bit 3 p.flags) || (bit 3 p.flags && hmac v.key (packetBytes op p) != p.trailer)) = true → t =
    receive op p (serve op need ok body) s →
    t.cz.dropped.get p.port 0 = s.cz.dropped.get p.port 0 + 1 ∧ t.out = s.out ∧ t.host.backlog = s.host.backlog ∧
      t.cz.sessions = s.cz.sessions)
  ∧ (∀ (op : Nat) (need : Req → State → Nat) (ok : Req → State → Bool) (body : Req → State → State) (p : Packet) (s :
    State), takesPackets p s → p.port = 0 → lengthOk p = false →
    receive op p (serve op need ok body) s =
      { s with host.backlog := s.host.backlog ++ [packetHeader op p.major p.minor p.tag 4 p.session 48 ++ (le 2 stInvalid ++ le 2 0)] })
  ∧ (∀ (op : Nat) (need : Req → State → Nat) (ok : Req → State → Bool) (body : Req → State → State) (p : Packet) (s :
    State), takesPackets p s → p.port = 0 → lengthOk p = true → packetSession p s = none →
    receive op p (serve op need ok body) s =
      { s with host.backlog := s.host.backlog ++ [packetHeader op p.major p.minor p.tag 4 p.session 48 ++ (le 2 stDenied ++ le 2 0)] })
  ∧ (∀ (op : Nat) (need : Req → State → Nat) (ok : Req → State → Bool) (body : Req → State → State) (p : Packet) (v :
    Session) (s : State), takesPackets p s → p.port = 0 → lengthOk p = true → packetSession p s = some v → ((v.trailer
    && !bit 3 p.flags) || (bit 3 p.flags && hmac v.key (packetBytes op p) != p.trailer)) = true →
    receive op p (serve op need ok body) s =
      { s with host.backlog := s.host.backlog ++ [packetHeader op p.major p.minor p.tag 4 p.session 48 ++ (le 2 stDenied ++ le 2 0)] })

/-- 13 R330. Commands shown to complete: sessionOpen. -/
def Obligations.VersionsAreNegotiated : Prop :=
  ( hubVersions = [(1, 2), (2, 0), (2, 1), (2, 2), (2, 3)])
  ∧ (∀ (p : Packet), p.major = 1 → p.minor = 2 → negotiate p = some (1, 2))
  ∧ (∀ (p : Packet) (v : Nat × Nat) (lo hi : Nat), ¬ (p.major = 1 ∧ p.minor = 2) → lo = 256 * fld 0 1 p.params + fld 1 1
    p.params → hi = 256 * p.major + p.minor → negotiate p = some v →
    v ∈ hubVersions ∧ lo ≤ 256 * v.1 + v.2 ∧ 256 * v.1 + v.2 ≤ hi ∧ (∀ w ∈ hubVersions, lo ≤ 256 * w.1 + w.2 → 256 * w.1 +
      w.2 ≤ hi → 256 * w.1 + w.2 ≤ 256 * v.1 + v.2))
  ∧ (∀ (at_ : Nat) (p : Packet) (lo hi : Nat) (s u : State), u = s.tick at_ → takesPackets p u → p.session = 0 → p.port = 0
    → lengthOk p = true → bit 3 p.flags = false → ¬ (p.major = 1 ∧ p.minor = 2) → lo = 256 * fld 0 1 p.params + fld 1
    1 p.params → hi = 256 * p.major + p.minor → (hubVersions.any fun w => decide (lo ≤ 256 * w.1 + w.2 ∧ 256 * w.1 +
    w.2 ≤ hi)) = false →
    exec (.sessionOpen at_ p) s = .next
      { u with host.backlog := u.host.backlog ++ [packetHeader 0 p.major p.minor p.tag 8 0 48 ++ (le 2 stUnsupported ++ le 2 0) ++ [1, 2, 2, 3]] })
  ∧ (∀ (at_ : Nat) (p : Packet) (lo hi : Nat) (s u : State), u = s.tick at_ → takesPackets p u → p.session = 0 → p.port ≠ 0
    → lengthOk p = true → bit 3 p.flags = false → ¬ (p.major = 1 ∧ p.minor = 2) → lo = 256 * fld 0 1 p.params + fld 1
    1 p.params → hi = 256 * p.major + p.minor → (hubVersions.any fun w => decide (lo ≤ 256 * w.1 + w.2 ∧ 256 * w.1 +
    w.2 ≤ hi)) = false →
    exec (.sessionOpen at_ p) s = .next (sendUdp (p.port - 1) p.source p.srcPort cuzanPort false (packetHeader 0 p.major
      p.minor p.tag 8 0 48 ++ (le 2 stUnsupported ++ le 2 0) ++ [1, 2, 2, 3]) u))
  ∧ (∀ (p : Packet) (v : Nat × Nat) (a : OpenAsk) (g : Nat × List Byte) (s t : State), t = openSession p v a g s →
    (t.cz.sessions.getLast?.map fun x => (x.major, x.minor)) = some v)
end

