-- ==== Sys2Proof/Laws/Gain.lean ====
section
/-! SUPPORT. A constant input passes through the half-band stages, a response's FIR and a keeper's averaging unchanged: the
coefficients sum to 2^30 whatever they are (05 R126, R127). -/

namespace Sys2Proof.Machine

theorem divAway_unit (c : Int) : divAway (2 ^ 30 * c) (2 ^ 30) = c := by
  unfold divAway; split <;> omega

theorem sumInt_acc (l : List Int) (a : Int) : l.foldl (· + ·) a = a + sumInt l := by
  induction l generalizing a with
  | nil => simp [sumInt]
  | cons x r ih => simp only [sumInt, List.foldl_cons]; rw [ih, ih (0 + x)]; omega

theorem sumInt_cons (x : Int) (l : List Int) : sumInt (x :: l) = x + sumInt l := by
  show List.foldl (· + ·) (0 + x) l = _
  rw [sumInt_acc]; omega

theorem sumInt_scale (l : List Nat) (f : Nat → Int) (c : Int) : sumInt (l.map fun i => f i * c) = sumInt (l.map f) * c := by
  induction l with
  | nil => simp [sumInt]
  | cons x r ih => rw [List.map_cons, sumInt_cons, ih, List.map_cons, sumInt_cons]; exact (Int.add_mul _ _ _).symm

/-- The half-band coefficients sum to 2^30. -/
theorem halfTap_sum : sumInt ((List.range 31).map halfTap) = 2 ^ 30 := by
  simp only [List.range, List.range.loop, List.map, halfTap, sumInt, List.foldl]
  simp; omega

/-- A weighted sum of equal values with weights that sum to 2^30, rounded at the end, is that value. -/
theorem weighted_const (n : Nat) (f g : Nat → Int) (c : Int) (hf : sumInt ((List.range n).map f) = 2 ^ 30)
    (hg : ∀ i, i < n → g i = c) : divAway (sumInt ((List.range n).map fun i => f i * g i)) (2 ^ 30) = c := by
  rw [List.map_congr_left (g := fun i => f i * c) fun i hi => by rw [hg i (List.mem_range.1 hi)], sumInt_scale, hf]
  exact divAway_unit c

/-- The half-band stages keep a value that is constant over all that an output depends on. -/
theorem cascade_const (x : Int → Int) (c lo hi : Int) (hx : ∀ i, lo ≤ i → i ≤ hi → x i = c) :
    ∀ k m, lo ≤ 2 ^ k * m - 15 * (2 ^ k - 1) → 2 ^ k * m + 15 * (2 ^ k - 1) ≤ hi → cascade x k m = c := by
  intro k
  induction k with
  | zero => intro m h1 h2; exact hx m (by simpa using h1) (by simpa using h2)
  | succ k ih =>
    intro m h1 h2
    have hk : (2 : Int) ^ (k + 1) = 2 * 2 ^ k := by rw [pow_succ]; ring
    have hp : (0 : Int) < 2 ^ k := by positivity
    rw [hk] at h1 h2
    refine weighted_const 31 halfTap _ c halfTap_sum fun i hi => ih _ ?_ ?_
    · have : (0 : Int) ≤ 2 ^ k * (30 - i) := mul_nonneg hp.le (by omega)
      nlinarith
    · have : (0 : Int) ≤ 2 ^ k * (i : Int) := mul_nonneg hp.le (by omega)
      nlinarith

/-- The coefficients of response 10 sum to 2^30. -/
theorem firTap10_sum : sumInt ((List.range 95).map (firTap 10)) = 2 ^ 30 := by
  simp only [List.range, List.range.loop, List.map, firTap, firShape, sumInt, List.foldl]
  simp; omega

/-- Response 10 at stage 10 keeps a value that is constant over the span of the output. -/
theorem firOut10_const (x : Int → Int) (c lo hi from_ p : Int) (hx : ∀ i, lo ≤ i → i ≤ hi → x i = c)
    (hf : from_ ≤ lo - 100000) (h1 : lo ≤ 1024 * p - 63473) (h2 : 1024 * p + 63473 ≤ hi) : firOut x 10 10 from_ p = c := by
  unfold firOut
  refine weighted_const 95 (firTap 10) _ c firTap10_sum fun j hj => cascade_const x c lo hi hx 10 _ ?_ ?_
  all_goals
    rw [show ((2 ^ 10 : Nat) : Int) = 1024 by norm_num, show (firD 10 : Int) = 47 by rfl]
    norm_num
    omega

theorem sumQ_replicate (n : Nat) (c a : Rat) : (List.replicate n c).foldl (· + ·) a = a + n * c := by
  induction n generalizing a with
  | zero => simp
  | succ n ih => rw [List.replicate_succ, List.foldl_cons, ih]; push_cast; ring

/-- The mean of equal values. -/
theorem meanQ_const (l : List Rat) (c : Rat) (hl : l ≠ []) (h : ∀ x ∈ l, x = c) : meanQ l = c := by
  have e : l = List.replicate l.length c := List.eq_replicate_iff.2 ⟨rfl, h⟩
  have hn : (l.length : Rat) ≠ 0 := by
    have : l.length ≠ 0 := fun h0 => hl (List.length_eq_zero_iff.1 h0)
    exact_mod_cast this
  have hs : l.foldl (· + ·) 0 = l.length * c := by
    conv_lhs => rw [e]
    rw [sumQ_replicate]; simp
  unfold meanQ
  have hb : l.isEmpty = false := by cases l with | nil => exact absurd rfl hl | cons _ _ => rfl
  rw [hb, hs]; simp [hn]

/-- A keeper's mean over a time in which its sinc outputs are constant is that constant. -/
theorem keeperMean_const (s : State) (code : Nat) (a b : Int) (c : Int) (lo hi L N : Int)
    (he : (chan s code).hist ≠ []) (hx : ∀ i, lo ≤ i → i ≤ hi → sincAt (chan s code) i = c)
    (hf : (chan s code).histFirst ≤ lo - 100000)
    (hL : L = -(-(a - keeperLate) / ((8 * msU : Nat) : Int))) (hN : N = -(-(b - keeperLate) / ((8 * msU : Nat) : Int)))
    (hLN : L < N) (h1 : lo ≤ 2048 * L - 63473) (h2 : 2048 * N + 63473 ≤ hi) : keeperMean s code a b = c := by
  unfold keeperMean
  have hb : (chan s code).hist.isEmpty = false := by
    cases h : (chan s code).hist with | nil => exact absurd h he | cons _ _ => rfl
  simp only [hb, Bool.false_eq_true, if_false]
  rw [← hL, ← hN]
  refine meanQ_const _ _ ?_ ?_
  · intro h
    have := congrArg List.length h
    simp at this; omega
  · intro y hy
    obtain ⟨j, hj, rfl⟩ := List.mem_map.1 hy
    have hj := List.mem_range.1 hj
    refine congrArg _ (firOut10_const _ c lo hi _ _ hx hf ?_ ?_) <;> omega

end Sys2Proof.Machine
end

