-- ==== Sys2Proof/Laws/State.lean ====
section
/-! SUPPORT. What each update of the state leaves, one lemma for each field, and what each table reads after a write. -/

namespace Sys2Proof.Machine

/-- A table after a write: the new value at its key, the old one elsewhere. -/
theorem Tab.get_put {α : Type} (t : Tab α) (k j : Nat) (v d : α) :
    (t.put k v).get j d = if k = j then v else t.get j d := by
  induction t with
  | nil => simp only [Tab.put, Tab.get]
  | cons p r ih =>
    obtain ⟨i, w⟩ := p
    unfold Tab.put
    by_cases h1 : k < i
    · simp only [if_pos h1, Tab.get]
    · by_cases h2 : k = i
      · subst h2; simp only [if_neg h1, if_pos, Tab.get]; split <;> rfl
      · simp only [if_neg h1, if_neg h2, Tab.get, ih]
        by_cases h3 : k = j
        · subst h3; simp [Ne.symm h2]
        · simp [h3]

/-! ### State.tick -/

@[simp] theorem tick_part (t : Nat) (s : State) : (State.tick t s).part = s.part := rfl
@[simp] theorem tick_flash (t : Nat) (s : State) : (State.tick t s).flash = s.flash := rfl
@[simp] theorem tick_boot (t : Nat) (s : State) : (State.tick t s).boot = s.boot := rfl
@[simp] theorem tick_faults (t : Nat) (s : State) : (State.tick t s).faults = s.faults := rfl
@[simp] theorem tick_jrn (t : Nat) (s : State) : (State.tick t s).jrn = s.jrn := rfl
@[simp] theorem tick_cz (t : Nat) (s : State) : (State.tick t s).cz = s.cz := rfl
@[simp] theorem tick_host (t : Nat) (s : State) : (State.tick t s).host = s.host := rfl
@[simp] theorem tick_store (t : Nat) (s : State) : (State.tick t s).store = s.store := rfl
@[simp] theorem tick_time (t : Nat) (s : State) : (State.tick t s).time = s.time := rfl
@[simp] theorem tick_ptp (t : Nat) (s : State) : (State.tick t s).ptp = s.ptp := rfl
@[simp] theorem tick_evt (t : Nat) (s : State) : (State.tick t s).evt = s.evt := rfl
@[simp] theorem tick_iu (t : Nat) (s : State) : (State.tick t s).iu = s.iu := rfl
@[simp] theorem tick_quires (t : Nat) (s : State) : (State.tick t s).quires = s.quires := rfl
@[simp] theorem tick_exc (t : Nat) (s : State) : (State.tick t s).exc = s.exc := rfl
@[simp] theorem tick_tone (t : Nat) (s : State) : (State.tick t s).tone = s.tone := rfl
@[simp] theorem tick_chans (t : Nat) (s : State) : (State.tick t s).chans = s.chans := rfl
@[simp] theorem tick_wit (t : Nat) (s : State) : (State.tick t s).wit = s.wit := rfl
@[simp] theorem tick_conv (t : Nat) (s : State) : (State.tick t s).conv = s.conv := rfl
@[simp] theorem tick_cal (t : Nat) (s : State) : (State.tick t s).cal = s.cal := rfl
@[simp] theorem tick_trg (t : Nat) (s : State) : (State.tick t s).trg = s.trg := rfl
@[simp] theorem tick_group (t : Nat) (s : State) : (State.tick t s).group = s.group := rfl
@[simp] theorem tick_lanes (t : Nat) (s : State) : (State.tick t s).lanes = s.lanes := rfl
@[simp] theorem tick_skaing (t : Nat) (s : State) : (State.tick t s).skaing = s.skaing := rfl
@[simp] theorem tick_safe (t : Nat) (s : State) : (State.tick t s).safe = s.safe := rfl
@[simp] theorem tick_cfg (t : Nat) (s : State) : (State.tick t s).cfg = s.cfg := rfl
@[simp] theorem tick_past (t : Nat) (s : State) : (State.tick t s).past = s.past := rfl
@[simp] theorem tick_now (t : Nat) (s : State) : (State.tick t s).now = max s.now t := rfl
@[simp] theorem tick_draw (t : Nat) (s : State) : (State.tick t s).draw = s.draw := rfl
@[simp] theorem tick_out (t : Nat) (s : State) : (State.tick t s).out = s.out := rfl
@[simp] theorem tick_pending (t : Nat) (s : State) : (State.tick t s).pending = s.pending := rfl

/-! ### emit -/

@[simp] theorem emit_part (o : Out) (s : State) : (emit o s).part = s.part := rfl
@[simp] theorem emit_flash (o : Out) (s : State) : (emit o s).flash = s.flash := rfl
@[simp] theorem emit_boot (o : Out) (s : State) : (emit o s).boot = s.boot := rfl
@[simp] theorem emit_faults (o : Out) (s : State) : (emit o s).faults = s.faults := rfl
@[simp] theorem emit_jrn (o : Out) (s : State) : (emit o s).jrn = s.jrn := rfl
@[simp] theorem emit_cz (o : Out) (s : State) : (emit o s).cz = s.cz := rfl
@[simp] theorem emit_host (o : Out) (s : State) : (emit o s).host = s.host := rfl
@[simp] theorem emit_store (o : Out) (s : State) : (emit o s).store = s.store := rfl
@[simp] theorem emit_time (o : Out) (s : State) : (emit o s).time = s.time := rfl
@[simp] theorem emit_ptp (o : Out) (s : State) : (emit o s).ptp = s.ptp := rfl
@[simp] theorem emit_evt (o : Out) (s : State) : (emit o s).evt = s.evt := rfl
@[simp] theorem emit_iu (o : Out) (s : State) : (emit o s).iu = s.iu := rfl
@[simp] theorem emit_quires (o : Out) (s : State) : (emit o s).quires = s.quires := rfl
@[simp] theorem emit_exc (o : Out) (s : State) : (emit o s).exc = s.exc := rfl
@[simp] theorem emit_tone (o : Out) (s : State) : (emit o s).tone = s.tone := rfl
@[simp] theorem emit_chans (o : Out) (s : State) : (emit o s).chans = s.chans := rfl
@[simp] theorem emit_wit (o : Out) (s : State) : (emit o s).wit = s.wit := rfl
@[simp] theorem emit_conv (o : Out) (s : State) : (emit o s).conv = s.conv := rfl
@[simp] theorem emit_cal (o : Out) (s : State) : (emit o s).cal = s.cal := rfl
@[simp] theorem emit_trg (o : Out) (s : State) : (emit o s).trg = s.trg := rfl
@[simp] theorem emit_group (o : Out) (s : State) : (emit o s).group = s.group := rfl
@[simp] theorem emit_lanes (o : Out) (s : State) : (emit o s).lanes = s.lanes := rfl
@[simp] theorem emit_skaing (o : Out) (s : State) : (emit o s).skaing = s.skaing := rfl
@[simp] theorem emit_safe (o : Out) (s : State) : (emit o s).safe = s.safe := rfl
@[simp] theorem emit_cfg (o : Out) (s : State) : (emit o s).cfg = s.cfg := rfl
@[simp] theorem emit_past (o : Out) (s : State) : (emit o s).past = s.past := rfl
@[simp] theorem emit_now (o : Out) (s : State) : (emit o s).now = s.now := rfl
@[simp] theorem emit_draw (o : Out) (s : State) : (emit o s).draw = s.draw := rfl
@[simp] theorem emit_out (o : Out) (s : State) : (emit o s).out = o :: s.out := rfl
@[simp] theorem emit_pending (o : Out) (s : State) : (emit o s).pending = s.pending := rfl

/-! ### putWord -/

@[simp] theorem putWord_part (b i a w : Nat) (s : State) : (putWord b i a w s).part = s.part := rfl
@[simp] theorem putWord_flash (b i a w : Nat) (s : State) : (putWord b i a w s).flash = s.flash := rfl
@[simp] theorem putWord_boot (b i a w : Nat) (s : State) : (putWord b i a w s).boot = s.boot := rfl
@[simp] theorem putWord_faults (b i a w : Nat) (s : State) : (putWord b i a w s).faults = s.faults := rfl
@[simp] theorem putWord_jrn (b i a w : Nat) (s : State) : (putWord b i a w s).jrn = s.jrn := rfl
@[simp] theorem putWord_cz (b i a w : Nat) (s : State) : (putWord b i a w s).cz = s.cz := rfl
@[simp] theorem putWord_host (b i a w : Nat) (s : State) : (putWord b i a w s).host = s.host := rfl
@[simp] theorem putWord_store (b i a w : Nat) (s : State) : (putWord b i a w s).store = s.store := rfl
@[simp] theorem putWord_time (b i a w : Nat) (s : State) : (putWord b i a w s).time = s.time := rfl
@[simp] theorem putWord_ptp (b i a w : Nat) (s : State) : (putWord b i a w s).ptp = s.ptp := rfl
@[simp] theorem putWord_evt (b i a w : Nat) (s : State) : (putWord b i a w s).evt = s.evt := rfl
@[simp] theorem putWord_iu (b i a w : Nat) (s : State) : (putWord b i a w s).iu = s.iu := rfl
@[simp] theorem putWord_quires (b i a w : Nat) (s : State) : (putWord b i a w s).quires = s.quires := rfl
@[simp] theorem putWord_exc (b i a w : Nat) (s : State) : (putWord b i a w s).exc = s.exc := rfl
@[simp] theorem putWord_tone (b i a w : Nat) (s : State) : (putWord b i a w s).tone = s.tone := rfl
@[simp] theorem putWord_chans (b i a w : Nat) (s : State) : (putWord b i a w s).chans = s.chans := rfl
@[simp] theorem putWord_wit (b i a w : Nat) (s : State) : (putWord b i a w s).wit = s.wit := rfl
@[simp] theorem putWord_conv (b i a w : Nat) (s : State) : (putWord b i a w s).conv = s.conv := rfl
@[simp] theorem putWord_cal (b i a w : Nat) (s : State) : (putWord b i a w s).cal = s.cal := rfl
@[simp] theorem putWord_trg (b i a w : Nat) (s : State) : (putWord b i a w s).trg = s.trg := rfl
@[simp] theorem putWord_group (b i a w : Nat) (s : State) : (putWord b i a w s).group = s.group := rfl
@[simp] theorem putWord_lanes (b i a w : Nat) (s : State) : (putWord b i a w s).lanes = s.lanes := rfl
@[simp] theorem putWord_skaing (b i a w : Nat) (s : State) : (putWord b i a w s).skaing = s.skaing := rfl
@[simp] theorem putWord_safe (b i a w : Nat) (s : State) : (putWord b i a w s).safe = s.safe := rfl
@[simp] theorem putWord_cfg (b i a w : Nat) (s : State) : (putWord b i a w s).cfg = keyPut s.cfg (b, i, a) w := rfl
@[simp] theorem putWord_past (b i a w : Nat) (s : State) : (putWord b i a w s).past = s.past := rfl
@[simp] theorem putWord_now (b i a w : Nat) (s : State) : (putWord b i a w s).now = s.now := rfl
@[simp] theorem putWord_draw (b i a w : Nat) (s : State) : (putWord b i a w s).draw = s.draw := rfl
@[simp] theorem putWord_out (b i a w : Nat) (s : State) : (putWord b i a w s).out = s.out := rfl
@[simp] theorem putWord_pending (b i a w : Nat) (s : State) : (putWord b i a w s).pending = s.pending := rfl

/-! ### setChan -/

@[simp] theorem setChan_part (c : Nat) (v : Chan) (s : State) : (setChan c v s).part = s.part := rfl
@[simp] theorem setChan_flash (c : Nat) (v : Chan) (s : State) : (setChan c v s).flash = s.flash := rfl
@[simp] theorem setChan_boot (c : Nat) (v : Chan) (s : State) : (setChan c v s).boot = s.boot := rfl
@[simp] theorem setChan_faults (c : Nat) (v : Chan) (s : State) : (setChan c v s).faults = s.faults := rfl
@[simp] theorem setChan_jrn (c : Nat) (v : Chan) (s : State) : (setChan c v s).jrn = s.jrn := rfl
@[simp] theorem setChan_cz (c : Nat) (v : Chan) (s : State) : (setChan c v s).cz = s.cz := rfl
@[simp] theorem setChan_host (c : Nat) (v : Chan) (s : State) : (setChan c v s).host = s.host := rfl
@[simp] theorem setChan_store (c : Nat) (v : Chan) (s : State) : (setChan c v s).store = s.store := rfl
@[simp] theorem setChan_time (c : Nat) (v : Chan) (s : State) : (setChan c v s).time = s.time := rfl
@[simp] theorem setChan_ptp (c : Nat) (v : Chan) (s : State) : (setChan c v s).ptp = s.ptp := rfl
@[simp] theorem setChan_evt (c : Nat) (v : Chan) (s : State) : (setChan c v s).evt = s.evt := rfl
@[simp] theorem setChan_iu (c : Nat) (v : Chan) (s : State) : (setChan c v s).iu = s.iu := rfl
@[simp] theorem setChan_quires (c : Nat) (v : Chan) (s : State) : (setChan c v s).quires = s.quires := rfl
@[simp] theorem setChan_exc (c : Nat) (v : Chan) (s : State) : (setChan c v s).exc = s.exc := rfl
@[simp] theorem setChan_tone (c : Nat) (v : Chan) (s : State) : (setChan c v s).tone = s.tone := rfl
@[simp] theorem setChan_chans (c : Nat) (v : Chan) (s : State) : (setChan c v s).chans = s.chans.put c v := rfl
@[simp] theorem setChan_wit (c : Nat) (v : Chan) (s : State) : (setChan c v s).wit = s.wit := rfl
@[simp] theorem setChan_conv (c : Nat) (v : Chan) (s : State) : (setChan c v s).conv = s.conv := rfl
@[simp] theorem setChan_cal (c : Nat) (v : Chan) (s : State) : (setChan c v s).cal = s.cal := rfl
@[simp] theorem setChan_trg (c : Nat) (v : Chan) (s : State) : (setChan c v s).trg = s.trg := rfl
@[simp] theorem setChan_group (c : Nat) (v : Chan) (s : State) : (setChan c v s).group = s.group := rfl
@[simp] theorem setChan_lanes (c : Nat) (v : Chan) (s : State) : (setChan c v s).lanes = s.lanes := rfl
@[simp] theorem setChan_skaing (c : Nat) (v : Chan) (s : State) : (setChan c v s).skaing = s.skaing := rfl
@[simp] theorem setChan_safe (c : Nat) (v : Chan) (s : State) : (setChan c v s).safe = s.safe := rfl
@[simp] theorem setChan_cfg (c : Nat) (v : Chan) (s : State) : (setChan c v s).cfg = s.cfg := rfl
@[simp] theorem setChan_past (c : Nat) (v : Chan) (s : State) : (setChan c v s).past = s.past := rfl
@[simp] theorem setChan_now (c : Nat) (v : Chan) (s : State) : (setChan c v s).now = s.now := rfl
@[simp] theorem setChan_draw (c : Nat) (v : Chan) (s : State) : (setChan c v s).draw = s.draw := rfl
@[simp] theorem setChan_out (c : Nat) (v : Chan) (s : State) : (setChan c v s).out = s.out := rfl
@[simp] theorem setChan_pending (c : Nat) (v : Chan) (s : State) : (setChan c v s).pending = s.pending := rfl

theorem chan_setChan (c j : Nat) (v : Chan) (s : State) : chan (setChan c v s) j = if c = j then v else chan s j :=
  Tab.get_put _ _ _ _ _

/-! ### setQuire -/

@[simp] theorem setQuire_part (q : Nat) (v : Quire) (s : State) : (setQuire q v s).part = s.part := rfl
@[simp] theorem setQuire_flash (q : Nat) (v : Quire) (s : State) : (setQuire q v s).flash = s.flash := rfl
@[simp] theorem setQuire_boot (q : Nat) (v : Quire) (s : State) : (setQuire q v s).boot = s.boot := rfl
@[simp] theorem setQuire_faults (q : Nat) (v : Quire) (s : State) : (setQuire q v s).faults = s.faults := rfl
@[simp] theorem setQuire_jrn (q : Nat) (v : Quire) (s : State) : (setQuire q v s).jrn = s.jrn := rfl
@[simp] theorem setQuire_cz (q : Nat) (v : Quire) (s : State) : (setQuire q v s).cz = s.cz := rfl
@[simp] theorem setQuire_host (q : Nat) (v : Quire) (s : State) : (setQuire q v s).host = s.host := rfl
@[simp] theorem setQuire_store (q : Nat) (v : Quire) (s : State) : (setQuire q v s).store = s.store := rfl
@[simp] theorem setQuire_time (q : Nat) (v : Quire) (s : State) : (setQuire q v s).time = s.time := rfl
@[simp] theorem setQuire_ptp (q : Nat) (v : Quire) (s : State) : (setQuire q v s).ptp = s.ptp := rfl
@[simp] theorem setQuire_evt (q : Nat) (v : Quire) (s : State) : (setQuire q v s).evt = s.evt := rfl
@[simp] theorem setQuire_iu (q : Nat) (v : Quire) (s : State) : (setQuire q v s).iu = s.iu := rfl
@[simp] theorem setQuire_quires (q : Nat) (v : Quire) (s : State) : (setQuire q v s).quires = s.quires.put q v := rfl
@[simp] theorem setQuire_exc (q : Nat) (v : Quire) (s : State) : (setQuire q v s).exc = s.exc := rfl
@[simp] theorem setQuire_tone (q : Nat) (v : Quire) (s : State) : (setQuire q v s).tone = s.tone := rfl
@[simp] theorem setQuire_chans (q : Nat) (v : Quire) (s : State) : (setQuire q v s).chans = s.chans := rfl
@[simp] theorem setQuire_wit (q : Nat) (v : Quire) (s : State) : (setQuire q v s).wit = s.wit := rfl
@[simp] theorem setQuire_conv (q : Nat) (v : Quire) (s : State) : (setQuire q v s).conv = s.conv := rfl
@[simp] theorem setQuire_cal (q : Nat) (v : Quire) (s : State) : (setQuire q v s).cal = s.cal := rfl
@[simp] theorem setQuire_trg (q : Nat) (v : Quire) (s : State) : (setQuire q v s).trg = s.trg := rfl
@[simp] theorem setQuire_group (q : Nat) (v : Quire) (s : State) : (setQuire q v s).group = s.group := rfl
@[simp] theorem setQuire_lanes (q : Nat) (v : Quire) (s : State) : (setQuire q v s).lanes = s.lanes := rfl
@[simp] theorem setQuire_skaing (q : Nat) (v : Quire) (s : State) : (setQuire q v s).skaing = s.skaing := rfl
@[simp] theorem setQuire_safe (q : Nat) (v : Quire) (s : State) : (setQuire q v s).safe = s.safe := rfl
@[simp] theorem setQuire_cfg (q : Nat) (v : Quire) (s : State) : (setQuire q v s).cfg = s.cfg := rfl
@[simp] theorem setQuire_past (q : Nat) (v : Quire) (s : State) : (setQuire q v s).past = s.past := rfl
@[simp] theorem setQuire_now (q : Nat) (v : Quire) (s : State) : (setQuire q v s).now = s.now := rfl
@[simp] theorem setQuire_draw (q : Nat) (v : Quire) (s : State) : (setQuire q v s).draw = s.draw := rfl
@[simp] theorem setQuire_out (q : Nat) (v : Quire) (s : State) : (setQuire q v s).out = s.out := rfl
@[simp] theorem setQuire_pending (q : Nat) (v : Quire) (s : State) : (setQuire q v s).pending = s.pending := rfl

theorem quire_setQuire (q j : Nat) (v : Quire) (s : State) : quire (setQuire q v s) j = if q = j then v else quire s j :=
  Tab.get_put _ _ _ _ _

/-! ### setExc -/

@[simp] theorem setExc_part (e : Nat) (v : ExcGroup) (s : State) : (setExc e v s).part = s.part := rfl
@[simp] theorem setExc_flash (e : Nat) (v : ExcGroup) (s : State) : (setExc e v s).flash = s.flash := rfl
@[simp] theorem setExc_boot (e : Nat) (v : ExcGroup) (s : State) : (setExc e v s).boot = s.boot := rfl
@[simp] theorem setExc_faults (e : Nat) (v : ExcGroup) (s : State) : (setExc e v s).faults = s.faults := rfl
@[simp] theorem setExc_jrn (e : Nat) (v : ExcGroup) (s : State) : (setExc e v s).jrn = s.jrn := rfl
@[simp] theorem setExc_cz (e : Nat) (v : ExcGroup) (s : State) : (setExc e v s).cz = s.cz := rfl
@[simp] theorem setExc_host (e : Nat) (v : ExcGroup) (s : State) : (setExc e v s).host = s.host := rfl
@[simp] theorem setExc_store (e : Nat) (v : ExcGroup) (s : State) : (setExc e v s).store = s.store := rfl
@[simp] theorem setExc_time (e : Nat) (v : ExcGroup) (s : State) : (setExc e v s).time = s.time := rfl
@[simp] theorem setExc_ptp (e : Nat) (v : ExcGroup) (s : State) : (setExc e v s).ptp = s.ptp := rfl
@[simp] theorem setExc_evt (e : Nat) (v : ExcGroup) (s : State) : (setExc e v s).evt = s.evt := rfl
@[simp] theorem setExc_iu (e : Nat) (v : ExcGroup) (s : State) : (setExc e v s).iu = s.iu := rfl
@[simp] theorem setExc_quires (e : Nat) (v : ExcGroup) (s : State) : (setExc e v s).quires = s.quires := rfl
@[simp] theorem setExc_exc (e : Nat) (v : ExcGroup) (s : State) : (setExc e v s).exc = s.exc.put e v := rfl
@[simp] theorem setExc_tone (e : Nat) (v : ExcGroup) (s : State) : (setExc e v s).tone = s.tone := rfl
@[simp] theorem setExc_chans (e : Nat) (v : ExcGroup) (s : State) : (setExc e v s).chans = s.chans := rfl
@[simp] theorem setExc_wit (e : Nat) (v : ExcGroup) (s : State) : (setExc e v s).wit = s.wit := rfl
@[simp] theorem setExc_conv (e : Nat) (v : ExcGroup) (s : State) : (setExc e v s).conv = s.conv := rfl
@[simp] theorem setExc_cal (e : Nat) (v : ExcGroup) (s : State) : (setExc e v s).cal = s.cal := rfl
@[simp] theorem setExc_trg (e : Nat) (v : ExcGroup) (s : State) : (setExc e v s).trg = s.trg := rfl
@[simp] theorem setExc_group (e : Nat) (v : ExcGroup) (s : State) : (setExc e v s).group = s.group := rfl
@[simp] theorem setExc_lanes (e : Nat) (v : ExcGroup) (s : State) : (setExc e v s).lanes = s.lanes := rfl
@[simp] theorem setExc_skaing (e : Nat) (v : ExcGroup) (s : State) : (setExc e v s).skaing = s.skaing := rfl
@[simp] theorem setExc_safe (e : Nat) (v : ExcGroup) (s : State) : (setExc e v s).safe = s.safe := rfl
@[simp] theorem setExc_cfg (e : Nat) (v : ExcGroup) (s : State) : (setExc e v s).cfg = s.cfg := rfl
@[simp] theorem setExc_past (e : Nat) (v : ExcGroup) (s : State) : (setExc e v s).past = s.past := rfl
@[simp] theorem setExc_now (e : Nat) (v : ExcGroup) (s : State) : (setExc e v s).now = s.now := rfl
@[simp] theorem setExc_draw (e : Nat) (v : ExcGroup) (s : State) : (setExc e v s).draw = s.draw := rfl
@[simp] theorem setExc_out (e : Nat) (v : ExcGroup) (s : State) : (setExc e v s).out = s.out := rfl
@[simp] theorem setExc_pending (e : Nat) (v : ExcGroup) (s : State) : (setExc e v s).pending = s.pending := rfl

theorem excOf_setExc (e j : Nat) (v : ExcGroup) (s : State) : excOf (setExc e v s) j = if e = j then v else excOf s j :=
  Tab.get_put _ _ _ _ _

/-! ### setWit -/

@[simp] theorem setWit_part (q : Nat) (v : Witness) (s : State) : (setWit q v s).part = s.part := rfl
@[simp] theorem setWit_flash (q : Nat) (v : Witness) (s : State) : (setWit q v s).flash = s.flash := rfl
@[simp] theorem setWit_boot (q : Nat) (v : Witness) (s : State) : (setWit q v s).boot = s.boot := rfl
@[simp] theorem setWit_faults (q : Nat) (v : Witness) (s : State) : (setWit q v s).faults = s.faults := rfl
@[simp] theorem setWit_jrn (q : Nat) (v : Witness) (s : State) : (setWit q v s).jrn = s.jrn := rfl
@[simp] theorem setWit_cz (q : Nat) (v : Witness) (s : State) : (setWit q v s).cz = s.cz := rfl
@[simp] theorem setWit_host (q : Nat) (v : Witness) (s : State) : (setWit q v s).host = s.host := rfl
@[simp] theorem setWit_store (q : Nat) (v : Witness) (s : State) : (setWit q v s).store = s.store := rfl
@[simp] theorem setWit_time (q : Nat) (v : Witness) (s : State) : (setWit q v s).time = s.time := rfl
@[simp] theorem setWit_ptp (q : Nat) (v : Witness) (s : State) : (setWit q v s).ptp = s.ptp := rfl
@[simp] theorem setWit_evt (q : Nat) (v : Witness) (s : State) : (setWit q v s).evt = s.evt := rfl
@[simp] theorem setWit_iu (q : Nat) (v : Witness) (s : State) : (setWit q v s).iu = s.iu := rfl
@[simp] theorem setWit_quires (q : Nat) (v : Witness) (s : State) : (setWit q v s).quires = s.quires := rfl
@[simp] theorem setWit_exc (q : Nat) (v : Witness) (s : State) : (setWit q v s).exc = s.exc := rfl
@[simp] theorem setWit_tone (q : Nat) (v : Witness) (s : State) : (setWit q v s).tone = s.tone := rfl
@[simp] theorem setWit_chans (q : Nat) (v : Witness) (s : State) : (setWit q v s).chans = s.chans := rfl
@[simp] theorem setWit_wit (q : Nat) (v : Witness) (s : State) : (setWit q v s).wit = s.wit.put q v := rfl
@[simp] theorem setWit_conv (q : Nat) (v : Witness) (s : State) : (setWit q v s).conv = s.conv := rfl
@[simp] theorem setWit_cal (q : Nat) (v : Witness) (s : State) : (setWit q v s).cal = s.cal := rfl
@[simp] theorem setWit_trg (q : Nat) (v : Witness) (s : State) : (setWit q v s).trg = s.trg := rfl
@[simp] theorem setWit_group (q : Nat) (v : Witness) (s : State) : (setWit q v s).group = s.group := rfl
@[simp] theorem setWit_lanes (q : Nat) (v : Witness) (s : State) : (setWit q v s).lanes = s.lanes := rfl
@[simp] theorem setWit_skaing (q : Nat) (v : Witness) (s : State) : (setWit q v s).skaing = s.skaing := rfl
@[simp] theorem setWit_safe (q : Nat) (v : Witness) (s : State) : (setWit q v s).safe = s.safe := rfl
@[simp] theorem setWit_cfg (q : Nat) (v : Witness) (s : State) : (setWit q v s).cfg = s.cfg := rfl
@[simp] theorem setWit_past (q : Nat) (v : Witness) (s : State) : (setWit q v s).past = s.past := rfl
@[simp] theorem setWit_now (q : Nat) (v : Witness) (s : State) : (setWit q v s).now = s.now := rfl
@[simp] theorem setWit_draw (q : Nat) (v : Witness) (s : State) : (setWit q v s).draw = s.draw := rfl
@[simp] theorem setWit_out (q : Nat) (v : Witness) (s : State) : (setWit q v s).out = s.out := rfl
@[simp] theorem setWit_pending (q : Nat) (v : Witness) (s : State) : (setWit q v s).pending = s.pending := rfl

theorem witOf_setWit (q j : Nat) (v : Witness) (s : State) : witOf (setWit q v s) j = if q = j then v else witOf s j :=
  Tab.get_put _ _ _ _ _

/-! ### setTone -/

@[simp] theorem setTone_part (q : Nat) (v : Tone) (s : State) : (setTone q v s).part = s.part := rfl
@[simp] theorem setTone_flash (q : Nat) (v : Tone) (s : State) : (setTone q v s).flash = s.flash := rfl
@[simp] theorem setTone_boot (q : Nat) (v : Tone) (s : State) : (setTone q v s).boot = s.boot := rfl
@[simp] theorem setTone_faults (q : Nat) (v : Tone) (s : State) : (setTone q v s).faults = s.faults := rfl
@[simp] theorem setTone_jrn (q : Nat) (v : Tone) (s : State) : (setTone q v s).jrn = s.jrn := rfl
@[simp] theorem setTone_cz (q : Nat) (v : Tone) (s : State) : (setTone q v s).cz = s.cz := rfl
@[simp] theorem setTone_host (q : Nat) (v : Tone) (s : State) : (setTone q v s).host = s.host := rfl
@[simp] theorem setTone_store (q : Nat) (v : Tone) (s : State) : (setTone q v s).store = s.store := rfl
@[simp] theorem setTone_time (q : Nat) (v : Tone) (s : State) : (setTone q v s).time = s.time := rfl
@[simp] theorem setTone_ptp (q : Nat) (v : Tone) (s : State) : (setTone q v s).ptp = s.ptp := rfl
@[simp] theorem setTone_evt (q : Nat) (v : Tone) (s : State) : (setTone q v s).evt = s.evt := rfl
@[simp] theorem setTone_iu (q : Nat) (v : Tone) (s : State) : (setTone q v s).iu = s.iu := rfl
@[simp] theorem setTone_quires (q : Nat) (v : Tone) (s : State) : (setTone q v s).quires = s.quires := rfl
@[simp] theorem setTone_exc (q : Nat) (v : Tone) (s : State) : (setTone q v s).exc = s.exc := rfl
@[simp] theorem setTone_tone (q : Nat) (v : Tone) (s : State) : (setTone q v s).tone = s.tone.put q v := rfl
@[simp] theorem setTone_chans (q : Nat) (v : Tone) (s : State) : (setTone q v s).chans = s.chans := rfl
@[simp] theorem setTone_wit (q : Nat) (v : Tone) (s : State) : (setTone q v s).wit = s.wit := rfl
@[simp] theorem setTone_conv (q : Nat) (v : Tone) (s : State) : (setTone q v s).conv = s.conv := rfl
@[simp] theorem setTone_cal (q : Nat) (v : Tone) (s : State) : (setTone q v s).cal = s.cal := rfl
@[simp] theorem setTone_trg (q : Nat) (v : Tone) (s : State) : (setTone q v s).trg = s.trg := rfl
@[simp] theorem setTone_group (q : Nat) (v : Tone) (s : State) : (setTone q v s).group = s.group := rfl
@[simp] theorem setTone_lanes (q : Nat) (v : Tone) (s : State) : (setTone q v s).lanes = s.lanes := rfl
@[simp] theorem setTone_skaing (q : Nat) (v : Tone) (s : State) : (setTone q v s).skaing = s.skaing := rfl
@[simp] theorem setTone_safe (q : Nat) (v : Tone) (s : State) : (setTone q v s).safe = s.safe := rfl
@[simp] theorem setTone_cfg (q : Nat) (v : Tone) (s : State) : (setTone q v s).cfg = s.cfg := rfl
@[simp] theorem setTone_past (q : Nat) (v : Tone) (s : State) : (setTone q v s).past = s.past := rfl
@[simp] theorem setTone_now (q : Nat) (v : Tone) (s : State) : (setTone q v s).now = s.now := rfl
@[simp] theorem setTone_draw (q : Nat) (v : Tone) (s : State) : (setTone q v s).draw = s.draw := rfl
@[simp] theorem setTone_out (q : Nat) (v : Tone) (s : State) : (setTone q v s).out = s.out := rfl
@[simp] theorem setTone_pending (q : Nat) (v : Tone) (s : State) : (setTone q v s).pending = s.pending := rfl

theorem toneOf_setTone (q j : Nat) (v : Tone) (s : State) : toneOf (setTone q v s) j = if q = j then v else toneOf s j :=
  Tab.get_put _ _ _ _ _

/-! ### setEns -/

@[simp] theorem setEns_part (q : Nat) (v : Ensemble) (s : State) : (setEns q v s).part = s.part := rfl
@[simp] theorem setEns_flash (q : Nat) (v : Ensemble) (s : State) : (setEns q v s).flash = s.flash := rfl
@[simp] theorem setEns_boot (q : Nat) (v : Ensemble) (s : State) : (setEns q v s).boot = s.boot := rfl
@[simp] theorem setEns_faults (q : Nat) (v : Ensemble) (s : State) : (setEns q v s).faults = s.faults := rfl
@[simp] theorem setEns_jrn (q : Nat) (v : Ensemble) (s : State) : (setEns q v s).jrn = s.jrn := rfl
@[simp] theorem setEns_cz (q : Nat) (v : Ensemble) (s : State) : (setEns q v s).cz = s.cz := rfl
@[simp] theorem setEns_host (q : Nat) (v : Ensemble) (s : State) : (setEns q v s).host = s.host := rfl
@[simp] theorem setEns_store (q : Nat) (v : Ensemble) (s : State) : (setEns q v s).store = s.store := rfl
@[simp] theorem setEns_time (q : Nat) (v : Ensemble) (s : State) : (setEns q v s).time = s.time := rfl
@[simp] theorem setEns_ptp (q : Nat) (v : Ensemble) (s : State) : (setEns q v s).ptp = s.ptp := rfl
@[simp] theorem setEns_evt (q : Nat) (v : Ensemble) (s : State) : (setEns q v s).evt = s.evt := rfl
@[simp] theorem setEns_iu (q : Nat) (v : Ensemble) (s : State) : (setEns q v s).iu = s.iu := rfl
@[simp] theorem setEns_quires (q : Nat) (v : Ensemble) (s : State) : (setEns q v s).quires = s.quires := rfl
@[simp] theorem setEns_exc (q : Nat) (v : Ensemble) (s : State) : (setEns q v s).exc = s.exc := rfl
@[simp] theorem setEns_tone (q : Nat) (v : Ensemble) (s : State) : (setEns q v s).tone = s.tone := rfl
@[simp] theorem setEns_chans (q : Nat) (v : Ensemble) (s : State) : (setEns q v s).chans = s.chans := rfl
@[simp] theorem setEns_wit (q : Nat) (v : Ensemble) (s : State) : (setEns q v s).wit = s.wit := rfl
@[simp] theorem setEns_conv (q : Nat) (v : Ensemble) (s : State) : (setEns q v s).conv = s.conv := rfl
@[simp] theorem setEns_cal (q : Nat) (v : Ensemble) (s : State) : (setEns q v s).cal = { s.cal with ens := s.cal.ens.put q v } := rfl
@[simp] theorem setEns_trg (q : Nat) (v : Ensemble) (s : State) : (setEns q v s).trg = s.trg := rfl
@[simp] theorem setEns_group (q : Nat) (v : Ensemble) (s : State) : (setEns q v s).group = s.group := rfl
@[simp] theorem setEns_lanes (q : Nat) (v : Ensemble) (s : State) : (setEns q v s).lanes = s.lanes := rfl
@[simp] theorem setEns_skaing (q : Nat) (v : Ensemble) (s : State) : (setEns q v s).skaing = s.skaing := rfl
@[simp] theorem setEns_safe (q : Nat) (v : Ensemble) (s : State) : (setEns q v s).safe = s.safe := rfl
@[simp] theorem setEns_cfg (q : Nat) (v : Ensemble) (s : State) : (setEns q v s).cfg = s.cfg := rfl
@[simp] theorem setEns_past (q : Nat) (v : Ensemble) (s : State) : (setEns q v s).past = s.past := rfl
@[simp] theorem setEns_now (q : Nat) (v : Ensemble) (s : State) : (setEns q v s).now = s.now := rfl
@[simp] theorem setEns_draw (q : Nat) (v : Ensemble) (s : State) : (setEns q v s).draw = s.draw := rfl
@[simp] theorem setEns_out (q : Nat) (v : Ensemble) (s : State) : (setEns q v s).out = s.out := rfl
@[simp] theorem setEns_pending (q : Nat) (v : Ensemble) (s : State) : (setEns q v s).pending = s.pending := rfl

theorem ensOf_setEns (q j : Nat) (v : Ensemble) (s : State) : ensOf (setEns q v s) j = if q = j then v else ensOf s j :=
  Tab.get_put _ _ _ _ _

/-! ### setStream -/

@[simp] theorem setStream_part (n : Nat) (v : Stream) (s : State) : (setStream n v s).part = s.part := rfl
@[simp] theorem setStream_flash (n : Nat) (v : Stream) (s : State) : (setStream n v s).flash = s.flash := rfl
@[simp] theorem setStream_boot (n : Nat) (v : Stream) (s : State) : (setStream n v s).boot = s.boot := rfl
@[simp] theorem setStream_faults (n : Nat) (v : Stream) (s : State) : (setStream n v s).faults = s.faults := rfl
@[simp] theorem setStream_jrn (n : Nat) (v : Stream) (s : State) : (setStream n v s).jrn = s.jrn := rfl
@[simp] theorem setStream_cz (n : Nat) (v : Stream) (s : State) : (setStream n v s).cz = s.cz := rfl
@[simp] theorem setStream_host (n : Nat) (v : Stream) (s : State) : (setStream n v s).host = s.host := rfl
@[simp] theorem setStream_store (n : Nat) (v : Stream) (s : State) : (setStream n v s).store = { s.store with streams := s.store.streams.put n v } := rfl
@[simp] theorem setStream_time (n : Nat) (v : Stream) (s : State) : (setStream n v s).time = s.time := rfl
@[simp] theorem setStream_ptp (n : Nat) (v : Stream) (s : State) : (setStream n v s).ptp = s.ptp := rfl
@[simp] theorem setStream_evt (n : Nat) (v : Stream) (s : State) : (setStream n v s).evt = s.evt := rfl
@[simp] theorem setStream_iu (n : Nat) (v : Stream) (s : State) : (setStream n v s).iu = s.iu := rfl
@[simp] theorem setStream_quires (n : Nat) (v : Stream) (s : State) : (setStream n v s).quires = s.quires := rfl
@[simp] theorem setStream_exc (n : Nat) (v : Stream) (s : State) : (setStream n v s).exc = s.exc := rfl
@[simp] theorem setStream_tone (n : Nat) (v : Stream) (s : State) : (setStream n v s).tone = s.tone := rfl
@[simp] theorem setStream_chans (n : Nat) (v : Stream) (s : State) : (setStream n v s).chans = s.chans := rfl
@[simp] theorem setStream_wit (n : Nat) (v : Stream) (s : State) : (setStream n v s).wit = s.wit := rfl
@[simp] theorem setStream_conv (n : Nat) (v : Stream) (s : State) : (setStream n v s).conv = s.conv := rfl
@[simp] theorem setStream_cal (n : Nat) (v : Stream) (s : State) : (setStream n v s).cal = s.cal := rfl
@[simp] theorem setStream_trg (n : Nat) (v : Stream) (s : State) : (setStream n v s).trg = s.trg := rfl
@[simp] theorem setStream_group (n : Nat) (v : Stream) (s : State) : (setStream n v s).group = s.group := rfl
@[simp] theorem setStream_lanes (n : Nat) (v : Stream) (s : State) : (setStream n v s).lanes = s.lanes := rfl
@[simp] theorem setStream_skaing (n : Nat) (v : Stream) (s : State) : (setStream n v s).skaing = s.skaing := rfl
@[simp] theorem setStream_safe (n : Nat) (v : Stream) (s : State) : (setStream n v s).safe = s.safe := rfl
@[simp] theorem setStream_cfg (n : Nat) (v : Stream) (s : State) : (setStream n v s).cfg = s.cfg := rfl
@[simp] theorem setStream_past (n : Nat) (v : Stream) (s : State) : (setStream n v s).past = s.past := rfl
@[simp] theorem setStream_now (n : Nat) (v : Stream) (s : State) : (setStream n v s).now = s.now := rfl
@[simp] theorem setStream_draw (n : Nat) (v : Stream) (s : State) : (setStream n v s).draw = s.draw := rfl
@[simp] theorem setStream_out (n : Nat) (v : Stream) (s : State) : (setStream n v s).out = s.out := rfl
@[simp] theorem setStream_pending (n : Nat) (v : Stream) (s : State) : (setStream n v s).pending = s.pending := rfl

theorem stream_setStream (n j : Nat) (v : Stream) (s : State) : stream (setStream n v s) j = if n = j then v else stream s j :=
  Tab.get_put _ _ _ _ _

/-! ### setRing -/

@[simp] theorem setRing_part (r : Nat) (v : Ring) (s : State) : (setRing r v s).part = s.part := rfl
@[simp] theorem setRing_flash (r : Nat) (v : Ring) (s : State) : (setRing r v s).flash = s.flash := rfl
@[simp] theorem setRing_boot (r : Nat) (v : Ring) (s : State) : (setRing r v s).boot = s.boot := rfl
@[simp] theorem setRing_faults (r : Nat) (v : Ring) (s : State) : (setRing r v s).faults = s.faults := rfl
@[simp] theorem setRing_jrn (r : Nat) (v : Ring) (s : State) : (setRing r v s).jrn = s.jrn := rfl
@[simp] theorem setRing_cz (r : Nat) (v : Ring) (s : State) : (setRing r v s).cz = s.cz := rfl
@[simp] theorem setRing_host (r : Nat) (v : Ring) (s : State) : (setRing r v s).host = { s.host with rings := s.host.rings.put r v } := rfl
@[simp] theorem setRing_store (r : Nat) (v : Ring) (s : State) : (setRing r v s).store = s.store := rfl
@[simp] theorem setRing_time (r : Nat) (v : Ring) (s : State) : (setRing r v s).time = s.time := rfl
@[simp] theorem setRing_ptp (r : Nat) (v : Ring) (s : State) : (setRing r v s).ptp = s.ptp := rfl
@[simp] theorem setRing_evt (r : Nat) (v : Ring) (s : State) : (setRing r v s).evt = s.evt := rfl
@[simp] theorem setRing_iu (r : Nat) (v : Ring) (s : State) : (setRing r v s).iu = s.iu := rfl
@[simp] theorem setRing_quires (r : Nat) (v : Ring) (s : State) : (setRing r v s).quires = s.quires := rfl
@[simp] theorem setRing_exc (r : Nat) (v : Ring) (s : State) : (setRing r v s).exc = s.exc := rfl
@[simp] theorem setRing_tone (r : Nat) (v : Ring) (s : State) : (setRing r v s).tone = s.tone := rfl
@[simp] theorem setRing_chans (r : Nat) (v : Ring) (s : State) : (setRing r v s).chans = s.chans := rfl
@[simp] theorem setRing_wit (r : Nat) (v : Ring) (s : State) : (setRing r v s).wit = s.wit := rfl
@[simp] theorem setRing_conv (r : Nat) (v : Ring) (s : State) : (setRing r v s).conv = s.conv := rfl
@[simp] theorem setRing_cal (r : Nat) (v : Ring) (s : State) : (setRing r v s).cal = s.cal := rfl
@[simp] theorem setRing_trg (r : Nat) (v : Ring) (s : State) : (setRing r v s).trg = s.trg := rfl
@[simp] theorem setRing_group (r : Nat) (v : Ring) (s : State) : (setRing r v s).group = s.group := rfl
@[simp] theorem setRing_lanes (r : Nat) (v : Ring) (s : State) : (setRing r v s).lanes = s.lanes := rfl
@[simp] theorem setRing_skaing (r : Nat) (v : Ring) (s : State) : (setRing r v s).skaing = s.skaing := rfl
@[simp] theorem setRing_safe (r : Nat) (v : Ring) (s : State) : (setRing r v s).safe = s.safe := rfl
@[simp] theorem setRing_cfg (r : Nat) (v : Ring) (s : State) : (setRing r v s).cfg = s.cfg := rfl
@[simp] theorem setRing_past (r : Nat) (v : Ring) (s : State) : (setRing r v s).past = s.past := rfl
@[simp] theorem setRing_now (r : Nat) (v : Ring) (s : State) : (setRing r v s).now = s.now := rfl
@[simp] theorem setRing_draw (r : Nat) (v : Ring) (s : State) : (setRing r v s).draw = s.draw := rfl
@[simp] theorem setRing_out (r : Nat) (v : Ring) (s : State) : (setRing r v s).out = s.out := rfl
@[simp] theorem setRing_pending (r : Nat) (v : Ring) (s : State) : (setRing r v s).pending = s.pending := rfl

theorem ring_setRing (r j : Nat) (v : Ring) (s : State) : ring (setRing r v s) j = if r = j then v else ring s j :=
  Tab.get_put _ _ _ _ _

/-! ### setWindow -/

@[simp] theorem setWindow_part (w : Nat) (v : Window) (s : State) : (setWindow w v s).part = s.part := rfl
@[simp] theorem setWindow_flash (w : Nat) (v : Window) (s : State) : (setWindow w v s).flash = s.flash := rfl
@[simp] theorem setWindow_boot (w : Nat) (v : Window) (s : State) : (setWindow w v s).boot = s.boot := rfl
@[simp] theorem setWindow_faults (w : Nat) (v : Window) (s : State) : (setWindow w v s).faults = s.faults := rfl
@[simp] theorem setWindow_jrn (w : Nat) (v : Window) (s : State) : (setWindow w v s).jrn = s.jrn := rfl
@[simp] theorem setWindow_cz (w : Nat) (v : Window) (s : State) : (setWindow w v s).cz = s.cz := rfl
@[simp] theorem setWindow_host (w : Nat) (v : Window) (s : State) : (setWindow w v s).host = { s.host with windows := s.host.windows.put w v } := rfl
@[simp] theorem setWindow_store (w : Nat) (v : Window) (s : State) : (setWindow w v s).store = s.store := rfl
@[simp] theorem setWindow_time (w : Nat) (v : Window) (s : State) : (setWindow w v s).time = s.time := rfl
@[simp] theorem setWindow_ptp (w : Nat) (v : Window) (s : State) : (setWindow w v s).ptp = s.ptp := rfl
@[simp] theorem setWindow_evt (w : Nat) (v : Window) (s : State) : (setWindow w v s).evt = s.evt := rfl
@[simp] theorem setWindow_iu (w : Nat) (v : Window) (s : State) : (setWindow w v s).iu = s.iu := rfl
@[simp] theorem setWindow_quires (w : Nat) (v : Window) (s : State) : (setWindow w v s).quires = s.quires := rfl
@[simp] theorem setWindow_exc (w : Nat) (v : Window) (s : State) : (setWindow w v s).exc = s.exc := rfl
@[simp] theorem setWindow_tone (w : Nat) (v : Window) (s : State) : (setWindow w v s).tone = s.tone := rfl
@[simp] theorem setWindow_chans (w : Nat) (v : Window) (s : State) : (setWindow w v s).chans = s.chans := rfl
@[simp] theorem setWindow_wit (w : Nat) (v : Window) (s : State) : (setWindow w v s).wit = s.wit := rfl
@[simp] theorem setWindow_conv (w : Nat) (v : Window) (s : State) : (setWindow w v s).conv = s.conv := rfl
@[simp] theorem setWindow_cal (w : Nat) (v : Window) (s : State) : (setWindow w v s).cal = s.cal := rfl
@[simp] theorem setWindow_trg (w : Nat) (v : Window) (s : State) : (setWindow w v s).trg = s.trg := rfl
@[simp] theorem setWindow_group (w : Nat) (v : Window) (s : State) : (setWindow w v s).group = s.group := rfl
@[simp] theorem setWindow_lanes (w : Nat) (v : Window) (s : State) : (setWindow w v s).lanes = s.lanes := rfl
@[simp] theorem setWindow_skaing (w : Nat) (v : Window) (s : State) : (setWindow w v s).skaing = s.skaing := rfl
@[simp] theorem setWindow_safe (w : Nat) (v : Window) (s : State) : (setWindow w v s).safe = s.safe := rfl
@[simp] theorem setWindow_cfg (w : Nat) (v : Window) (s : State) : (setWindow w v s).cfg = s.cfg := rfl
@[simp] theorem setWindow_past (w : Nat) (v : Window) (s : State) : (setWindow w v s).past = s.past := rfl
@[simp] theorem setWindow_now (w : Nat) (v : Window) (s : State) : (setWindow w v s).now = s.now := rfl
@[simp] theorem setWindow_draw (w : Nat) (v : Window) (s : State) : (setWindow w v s).draw = s.draw := rfl
@[simp] theorem setWindow_out (w : Nat) (v : Window) (s : State) : (setWindow w v s).out = s.out := rfl
@[simp] theorem setWindow_pending (w : Nat) (v : Window) (s : State) : (setWindow w v s).pending = s.pending := rfl

theorem window_setWindow (w j : Nat) (v : Window) (s : State) : window (setWindow w v s) j = if w = j then v else window s j :=
  Tab.get_put _ _ _ _ _

/-! ### setMsix -/

@[simp] theorem setMsix_part (k : Nat) (v : MsixEntry) (s : State) : (setMsix k v s).part = s.part := rfl
@[simp] theorem setMsix_flash (k : Nat) (v : MsixEntry) (s : State) : (setMsix k v s).flash = s.flash := rfl
@[simp] theorem setMsix_boot (k : Nat) (v : MsixEntry) (s : State) : (setMsix k v s).boot = s.boot := rfl
@[simp] theorem setMsix_faults (k : Nat) (v : MsixEntry) (s : State) : (setMsix k v s).faults = s.faults := rfl
@[simp] theorem setMsix_jrn (k : Nat) (v : MsixEntry) (s : State) : (setMsix k v s).jrn = s.jrn := rfl
@[simp] theorem setMsix_cz (k : Nat) (v : MsixEntry) (s : State) : (setMsix k v s).cz = s.cz := rfl
@[simp] theorem setMsix_host (k : Nat) (v : MsixEntry) (s : State) : (setMsix k v s).host = { s.host with msix := s.host.msix.put k v } := rfl
@[simp] theorem setMsix_store (k : Nat) (v : MsixEntry) (s : State) : (setMsix k v s).store = s.store := rfl
@[simp] theorem setMsix_time (k : Nat) (v : MsixEntry) (s : State) : (setMsix k v s).time = s.time := rfl
@[simp] theorem setMsix_ptp (k : Nat) (v : MsixEntry) (s : State) : (setMsix k v s).ptp = s.ptp := rfl
@[simp] theorem setMsix_evt (k : Nat) (v : MsixEntry) (s : State) : (setMsix k v s).evt = s.evt := rfl
@[simp] theorem setMsix_iu (k : Nat) (v : MsixEntry) (s : State) : (setMsix k v s).iu = s.iu := rfl
@[simp] theorem setMsix_quires (k : Nat) (v : MsixEntry) (s : State) : (setMsix k v s).quires = s.quires := rfl
@[simp] theorem setMsix_exc (k : Nat) (v : MsixEntry) (s : State) : (setMsix k v s).exc = s.exc := rfl
@[simp] theorem setMsix_tone (k : Nat) (v : MsixEntry) (s : State) : (setMsix k v s).tone = s.tone := rfl
@[simp] theorem setMsix_chans (k : Nat) (v : MsixEntry) (s : State) : (setMsix k v s).chans = s.chans := rfl
@[simp] theorem setMsix_wit (k : Nat) (v : MsixEntry) (s : State) : (setMsix k v s).wit = s.wit := rfl
@[simp] theorem setMsix_conv (k : Nat) (v : MsixEntry) (s : State) : (setMsix k v s).conv = s.conv := rfl
@[simp] theorem setMsix_cal (k : Nat) (v : MsixEntry) (s : State) : (setMsix k v s).cal = s.cal := rfl
@[simp] theorem setMsix_trg (k : Nat) (v : MsixEntry) (s : State) : (setMsix k v s).trg = s.trg := rfl
@[simp] theorem setMsix_group (k : Nat) (v : MsixEntry) (s : State) : (setMsix k v s).group = s.group := rfl
@[simp] theorem setMsix_lanes (k : Nat) (v : MsixEntry) (s : State) : (setMsix k v s).lanes = s.lanes := rfl
@[simp] theorem setMsix_skaing (k : Nat) (v : MsixEntry) (s : State) : (setMsix k v s).skaing = s.skaing := rfl
@[simp] theorem setMsix_safe (k : Nat) (v : MsixEntry) (s : State) : (setMsix k v s).safe = s.safe := rfl
@[simp] theorem setMsix_cfg (k : Nat) (v : MsixEntry) (s : State) : (setMsix k v s).cfg = s.cfg := rfl
@[simp] theorem setMsix_past (k : Nat) (v : MsixEntry) (s : State) : (setMsix k v s).past = s.past := rfl
@[simp] theorem setMsix_now (k : Nat) (v : MsixEntry) (s : State) : (setMsix k v s).now = s.now := rfl
@[simp] theorem setMsix_draw (k : Nat) (v : MsixEntry) (s : State) : (setMsix k v s).draw = s.draw := rfl
@[simp] theorem setMsix_out (k : Nat) (v : MsixEntry) (s : State) : (setMsix k v s).out = s.out := rfl
@[simp] theorem setMsix_pending (k : Nat) (v : MsixEntry) (s : State) : (setMsix k v s).pending = s.pending := rfl

theorem msix_setMsix (k j : Nat) (v : MsixEntry) (s : State) : msix (setMsix k v s) j = if k = j then v else msix s j :=
  Tab.get_put _ _ _ _ _

/-! ### setLane -/

@[simp] theorem setLane_part (l : Nat) (v : Lane) (s : State) : (setLane l v s).part = s.part := rfl
@[simp] theorem setLane_flash (l : Nat) (v : Lane) (s : State) : (setLane l v s).flash = s.flash := rfl
@[simp] theorem setLane_boot (l : Nat) (v : Lane) (s : State) : (setLane l v s).boot = s.boot := rfl
@[simp] theorem setLane_faults (l : Nat) (v : Lane) (s : State) : (setLane l v s).faults = s.faults := rfl
@[simp] theorem setLane_jrn (l : Nat) (v : Lane) (s : State) : (setLane l v s).jrn = s.jrn := rfl
@[simp] theorem setLane_cz (l : Nat) (v : Lane) (s : State) : (setLane l v s).cz = s.cz := rfl
@[simp] theorem setLane_host (l : Nat) (v : Lane) (s : State) : (setLane l v s).host = s.host := rfl
@[simp] theorem setLane_store (l : Nat) (v : Lane) (s : State) : (setLane l v s).store = s.store := rfl
@[simp] theorem setLane_time (l : Nat) (v : Lane) (s : State) : (setLane l v s).time = s.time := rfl
@[simp] theorem setLane_ptp (l : Nat) (v : Lane) (s : State) : (setLane l v s).ptp = s.ptp := rfl
@[simp] theorem setLane_evt (l : Nat) (v : Lane) (s : State) : (setLane l v s).evt = s.evt := rfl
@[simp] theorem setLane_iu (l : Nat) (v : Lane) (s : State) : (setLane l v s).iu = s.iu := rfl
@[simp] theorem setLane_quires (l : Nat) (v : Lane) (s : State) : (setLane l v s).quires = s.quires := rfl
@[simp] theorem setLane_exc (l : Nat) (v : Lane) (s : State) : (setLane l v s).exc = s.exc := rfl
@[simp] theorem setLane_tone (l : Nat) (v : Lane) (s : State) : (setLane l v s).tone = s.tone := rfl
@[simp] theorem setLane_chans (l : Nat) (v : Lane) (s : State) : (setLane l v s).chans = s.chans := rfl
@[simp] theorem setLane_wit (l : Nat) (v : Lane) (s : State) : (setLane l v s).wit = s.wit := rfl
@[simp] theorem setLane_conv (l : Nat) (v : Lane) (s : State) : (setLane l v s).conv = s.conv := rfl
@[simp] theorem setLane_cal (l : Nat) (v : Lane) (s : State) : (setLane l v s).cal = s.cal := rfl
@[simp] theorem setLane_trg (l : Nat) (v : Lane) (s : State) : (setLane l v s).trg = s.trg := rfl
@[simp] theorem setLane_group (l : Nat) (v : Lane) (s : State) : (setLane l v s).group = s.group := rfl
@[simp] theorem setLane_lanes (l : Nat) (v : Lane) (s : State) : (setLane l v s).lanes = s.lanes.put l v := rfl
@[simp] theorem setLane_skaing (l : Nat) (v : Lane) (s : State) : (setLane l v s).skaing = s.skaing := rfl
@[simp] theorem setLane_safe (l : Nat) (v : Lane) (s : State) : (setLane l v s).safe = s.safe := rfl
@[simp] theorem setLane_cfg (l : Nat) (v : Lane) (s : State) : (setLane l v s).cfg = s.cfg := rfl
@[simp] theorem setLane_past (l : Nat) (v : Lane) (s : State) : (setLane l v s).past = s.past := rfl
@[simp] theorem setLane_now (l : Nat) (v : Lane) (s : State) : (setLane l v s).now = s.now := rfl
@[simp] theorem setLane_draw (l : Nat) (v : Lane) (s : State) : (setLane l v s).draw = s.draw := rfl
@[simp] theorem setLane_out (l : Nat) (v : Lane) (s : State) : (setLane l v s).out = s.out := rfl
@[simp] theorem setLane_pending (l : Nat) (v : Lane) (s : State) : (setLane l v s).pending = s.pending := rfl

theorem lane_setLane (l j : Nat) (v : Lane) (s : State) : lane (setLane l v s) j = if l = j then v else lane s j :=
  Tab.get_put _ _ _ _ _

/-! ### setSkaing -/

@[simp] theorem setSkaing_part (x : Nat) (v : Skaing) (s : State) : (setSkaing x v s).part = s.part := rfl
@[simp] theorem setSkaing_flash (x : Nat) (v : Skaing) (s : State) : (setSkaing x v s).flash = s.flash := rfl
@[simp] theorem setSkaing_boot (x : Nat) (v : Skaing) (s : State) : (setSkaing x v s).boot = s.boot := rfl
@[simp] theorem setSkaing_faults (x : Nat) (v : Skaing) (s : State) : (setSkaing x v s).faults = s.faults := rfl
@[simp] theorem setSkaing_jrn (x : Nat) (v : Skaing) (s : State) : (setSkaing x v s).jrn = s.jrn := rfl
@[simp] theorem setSkaing_cz (x : Nat) (v : Skaing) (s : State) : (setSkaing x v s).cz = s.cz := rfl
@[simp] theorem setSkaing_host (x : Nat) (v : Skaing) (s : State) : (setSkaing x v s).host = s.host := rfl
@[simp] theorem setSkaing_store (x : Nat) (v : Skaing) (s : State) : (setSkaing x v s).store = s.store := rfl
@[simp] theorem setSkaing_time (x : Nat) (v : Skaing) (s : State) : (setSkaing x v s).time = s.time := rfl
@[simp] theorem setSkaing_ptp (x : Nat) (v : Skaing) (s : State) : (setSkaing x v s).ptp = s.ptp := rfl
@[simp] theorem setSkaing_evt (x : Nat) (v : Skaing) (s : State) : (setSkaing x v s).evt = s.evt := rfl
@[simp] theorem setSkaing_iu (x : Nat) (v : Skaing) (s : State) : (setSkaing x v s).iu = s.iu := rfl
@[simp] theorem setSkaing_quires (x : Nat) (v : Skaing) (s : State) : (setSkaing x v s).quires = s.quires := rfl
@[simp] theorem setSkaing_exc (x : Nat) (v : Skaing) (s : State) : (setSkaing x v s).exc = s.exc := rfl
@[simp] theorem setSkaing_tone (x : Nat) (v : Skaing) (s : State) : (setSkaing x v s).tone = s.tone := rfl
@[simp] theorem setSkaing_chans (x : Nat) (v : Skaing) (s : State) : (setSkaing x v s).chans = s.chans := rfl
@[simp] theorem setSkaing_wit (x : Nat) (v : Skaing) (s : State) : (setSkaing x v s).wit = s.wit := rfl
@[simp] theorem setSkaing_conv (x : Nat) (v : Skaing) (s : State) : (setSkaing x v s).conv = s.conv := rfl
@[simp] theorem setSkaing_cal (x : Nat) (v : Skaing) (s : State) : (setSkaing x v s).cal = s.cal := rfl
@[simp] theorem setSkaing_trg (x : Nat) (v : Skaing) (s : State) : (setSkaing x v s).trg = s.trg := rfl
@[simp] theorem setSkaing_group (x : Nat) (v : Skaing) (s : State) : (setSkaing x v s).group = s.group := rfl
@[simp] theorem setSkaing_lanes (x : Nat) (v : Skaing) (s : State) : (setSkaing x v s).lanes = s.lanes := rfl
@[simp] theorem setSkaing_skaing (x : Nat) (v : Skaing) (s : State) : (setSkaing x v s).skaing = s.skaing.put x v := rfl
@[simp] theorem setSkaing_safe (x : Nat) (v : Skaing) (s : State) : (setSkaing x v s).safe = s.safe := rfl
@[simp] theorem setSkaing_cfg (x : Nat) (v : Skaing) (s : State) : (setSkaing x v s).cfg = s.cfg := rfl
@[simp] theorem setSkaing_past (x : Nat) (v : Skaing) (s : State) : (setSkaing x v s).past = s.past := rfl
@[simp] theorem setSkaing_now (x : Nat) (v : Skaing) (s : State) : (setSkaing x v s).now = s.now := rfl
@[simp] theorem setSkaing_draw (x : Nat) (v : Skaing) (s : State) : (setSkaing x v s).draw = s.draw := rfl
@[simp] theorem setSkaing_out (x : Nat) (v : Skaing) (s : State) : (setSkaing x v s).out = s.out := rfl
@[simp] theorem setSkaing_pending (x : Nat) (v : Skaing) (s : State) : (setSkaing x v s).pending = s.pending := rfl

theorem skaing_setSkaing (x j : Nat) (v : Skaing) (s : State) : skaing (setSkaing x v s) j = if x = j then v else skaing s j :=
  Tab.get_put _ _ _ _ _

/-! ### setPtp -/

@[simp] theorem setPtp_part (p : Nat) (v : PtpPort) (s : State) : (setPtp p v s).part = s.part := rfl
@[simp] theorem setPtp_flash (p : Nat) (v : PtpPort) (s : State) : (setPtp p v s).flash = s.flash := rfl
@[simp] theorem setPtp_boot (p : Nat) (v : PtpPort) (s : State) : (setPtp p v s).boot = s.boot := rfl
@[simp] theorem setPtp_faults (p : Nat) (v : PtpPort) (s : State) : (setPtp p v s).faults = s.faults := rfl
@[simp] theorem setPtp_jrn (p : Nat) (v : PtpPort) (s : State) : (setPtp p v s).jrn = s.jrn := rfl
@[simp] theorem setPtp_cz (p : Nat) (v : PtpPort) (s : State) : (setPtp p v s).cz = s.cz := rfl
@[simp] theorem setPtp_host (p : Nat) (v : PtpPort) (s : State) : (setPtp p v s).host = s.host := rfl
@[simp] theorem setPtp_store (p : Nat) (v : PtpPort) (s : State) : (setPtp p v s).store = s.store := rfl
@[simp] theorem setPtp_time (p : Nat) (v : PtpPort) (s : State) : (setPtp p v s).time = s.time := rfl
@[simp] theorem setPtp_ptp (p : Nat) (v : PtpPort) (s : State) : (setPtp p v s).ptp = s.ptp.put p v := rfl
@[simp] theorem setPtp_evt (p : Nat) (v : PtpPort) (s : State) : (setPtp p v s).evt = s.evt := rfl
@[simp] theorem setPtp_iu (p : Nat) (v : PtpPort) (s : State) : (setPtp p v s).iu = s.iu := rfl
@[simp] theorem setPtp_quires (p : Nat) (v : PtpPort) (s : State) : (setPtp p v s).quires = s.quires := rfl
@[simp] theorem setPtp_exc (p : Nat) (v : PtpPort) (s : State) : (setPtp p v s).exc = s.exc := rfl
@[simp] theorem setPtp_tone (p : Nat) (v : PtpPort) (s : State) : (setPtp p v s).tone = s.tone := rfl
@[simp] theorem setPtp_chans (p : Nat) (v : PtpPort) (s : State) : (setPtp p v s).chans = s.chans := rfl
@[simp] theorem setPtp_wit (p : Nat) (v : PtpPort) (s : State) : (setPtp p v s).wit = s.wit := rfl
@[simp] theorem setPtp_conv (p : Nat) (v : PtpPort) (s : State) : (setPtp p v s).conv = s.conv := rfl
@[simp] theorem setPtp_cal (p : Nat) (v : PtpPort) (s : State) : (setPtp p v s).cal = s.cal := rfl
@[simp] theorem setPtp_trg (p : Nat) (v : PtpPort) (s : State) : (setPtp p v s).trg = s.trg := rfl
@[simp] theorem setPtp_group (p : Nat) (v : PtpPort) (s : State) : (setPtp p v s).group = s.group := rfl
@[simp] theorem setPtp_lanes (p : Nat) (v : PtpPort) (s : State) : (setPtp p v s).lanes = s.lanes := rfl
@[simp] theorem setPtp_skaing (p : Nat) (v : PtpPort) (s : State) : (setPtp p v s).skaing = s.skaing := rfl
@[simp] theorem setPtp_safe (p : Nat) (v : PtpPort) (s : State) : (setPtp p v s).safe = s.safe := rfl
@[simp] theorem setPtp_cfg (p : Nat) (v : PtpPort) (s : State) : (setPtp p v s).cfg = s.cfg := rfl
@[simp] theorem setPtp_past (p : Nat) (v : PtpPort) (s : State) : (setPtp p v s).past = s.past := rfl
@[simp] theorem setPtp_now (p : Nat) (v : PtpPort) (s : State) : (setPtp p v s).now = s.now := rfl
@[simp] theorem setPtp_draw (p : Nat) (v : PtpPort) (s : State) : (setPtp p v s).draw = s.draw := rfl
@[simp] theorem setPtp_out (p : Nat) (v : PtpPort) (s : State) : (setPtp p v s).out = s.out := rfl
@[simp] theorem setPtp_pending (p : Nat) (v : PtpPort) (s : State) : (setPtp p v s).pending = s.pending := rfl

theorem ptpPort_setPtp (p j : Nat) (v : PtpPort) (s : State) : ptpPort (setPtp p v s) j = if p = j then v else ptpPort s j :=
  Tab.get_put _ _ _ _ _

/-! ### setUnit -/

@[simp] theorem setUnit_part (u : Nat) (v : Interval) (s : State) : (setUnit u v s).part = s.part := rfl
@[simp] theorem setUnit_flash (u : Nat) (v : Interval) (s : State) : (setUnit u v s).flash = s.flash := rfl
@[simp] theorem setUnit_boot (u : Nat) (v : Interval) (s : State) : (setUnit u v s).boot = s.boot := rfl
@[simp] theorem setUnit_faults (u : Nat) (v : Interval) (s : State) : (setUnit u v s).faults = s.faults := rfl
@[simp] theorem setUnit_jrn (u : Nat) (v : Interval) (s : State) : (setUnit u v s).jrn = s.jrn := rfl
@[simp] theorem setUnit_cz (u : Nat) (v : Interval) (s : State) : (setUnit u v s).cz = s.cz := rfl
@[simp] theorem setUnit_host (u : Nat) (v : Interval) (s : State) : (setUnit u v s).host = s.host := rfl
@[simp] theorem setUnit_store (u : Nat) (v : Interval) (s : State) : (setUnit u v s).store = s.store := rfl
@[simp] theorem setUnit_time (u : Nat) (v : Interval) (s : State) : (setUnit u v s).time = s.time := rfl
@[simp] theorem setUnit_ptp (u : Nat) (v : Interval) (s : State) : (setUnit u v s).ptp = s.ptp := rfl
@[simp] theorem setUnit_evt (u : Nat) (v : Interval) (s : State) : (setUnit u v s).evt = s.evt := rfl
@[simp] theorem setUnit_iu (u : Nat) (v : Interval) (s : State) : (setUnit u v s).iu = s.iu.put u v := rfl
@[simp] theorem setUnit_quires (u : Nat) (v : Interval) (s : State) : (setUnit u v s).quires = s.quires := rfl
@[simp] theorem setUnit_exc (u : Nat) (v : Interval) (s : State) : (setUnit u v s).exc = s.exc := rfl
@[simp] theorem setUnit_tone (u : Nat) (v : Interval) (s : State) : (setUnit u v s).tone = s.tone := rfl
@[simp] theorem setUnit_chans (u : Nat) (v : Interval) (s : State) : (setUnit u v s).chans = s.chans := rfl
@[simp] theorem setUnit_wit (u : Nat) (v : Interval) (s : State) : (setUnit u v s).wit = s.wit := rfl
@[simp] theorem setUnit_conv (u : Nat) (v : Interval) (s : State) : (setUnit u v s).conv = s.conv := rfl
@[simp] theorem setUnit_cal (u : Nat) (v : Interval) (s : State) : (setUnit u v s).cal = s.cal := rfl
@[simp] theorem setUnit_trg (u : Nat) (v : Interval) (s : State) : (setUnit u v s).trg = s.trg := rfl
@[simp] theorem setUnit_group (u : Nat) (v : Interval) (s : State) : (setUnit u v s).group = s.group := rfl
@[simp] theorem setUnit_lanes (u : Nat) (v : Interval) (s : State) : (setUnit u v s).lanes = s.lanes := rfl
@[simp] theorem setUnit_skaing (u : Nat) (v : Interval) (s : State) : (setUnit u v s).skaing = s.skaing := rfl
@[simp] theorem setUnit_safe (u : Nat) (v : Interval) (s : State) : (setUnit u v s).safe = s.safe := rfl
@[simp] theorem setUnit_cfg (u : Nat) (v : Interval) (s : State) : (setUnit u v s).cfg = s.cfg := rfl
@[simp] theorem setUnit_past (u : Nat) (v : Interval) (s : State) : (setUnit u v s).past = s.past := rfl
@[simp] theorem setUnit_now (u : Nat) (v : Interval) (s : State) : (setUnit u v s).now = s.now := rfl
@[simp] theorem setUnit_draw (u : Nat) (v : Interval) (s : State) : (setUnit u v s).draw = s.draw := rfl
@[simp] theorem setUnit_out (u : Nat) (v : Interval) (s : State) : (setUnit u v s).out = s.out := rfl
@[simp] theorem setUnit_pending (u : Nat) (v : Interval) (s : State) : (setUnit u v s).pending = s.pending := rfl

theorem unit_setUnit (u j : Nat) (v : Interval) (s : State) : unit_ (setUnit u v s) j = if u = j then v else unit_ s j :=
  Tab.get_put _ _ _ _ _

/-! ### setPair -/

@[simp] theorem setPair_part (p : Nat) (v : SPair) (s : State) : (setPair p v s).part = s.part := rfl
@[simp] theorem setPair_flash (p : Nat) (v : SPair) (s : State) : (setPair p v s).flash = s.flash := rfl
@[simp] theorem setPair_boot (p : Nat) (v : SPair) (s : State) : (setPair p v s).boot = s.boot := rfl
@[simp] theorem setPair_faults (p : Nat) (v : SPair) (s : State) : (setPair p v s).faults = s.faults := rfl
@[simp] theorem setPair_jrn (p : Nat) (v : SPair) (s : State) : (setPair p v s).jrn = s.jrn := rfl
@[simp] theorem setPair_cz (p : Nat) (v : SPair) (s : State) : (setPair p v s).cz = s.cz := rfl
@[simp] theorem setPair_host (p : Nat) (v : SPair) (s : State) : (setPair p v s).host = s.host := rfl
@[simp] theorem setPair_store (p : Nat) (v : SPair) (s : State) : (setPair p v s).store = s.store := rfl
@[simp] theorem setPair_time (p : Nat) (v : SPair) (s : State) : (setPair p v s).time = s.time := rfl
@[simp] theorem setPair_ptp (p : Nat) (v : SPair) (s : State) : (setPair p v s).ptp = s.ptp := rfl
@[simp] theorem setPair_evt (p : Nat) (v : SPair) (s : State) : (setPair p v s).evt = s.evt := rfl
@[simp] theorem setPair_iu (p : Nat) (v : SPair) (s : State) : (setPair p v s).iu = s.iu := rfl
@[simp] theorem setPair_quires (p : Nat) (v : SPair) (s : State) : (setPair p v s).quires = s.quires := rfl
@[simp] theorem setPair_exc (p : Nat) (v : SPair) (s : State) : (setPair p v s).exc = s.exc := rfl
@[simp] theorem setPair_tone (p : Nat) (v : SPair) (s : State) : (setPair p v s).tone = s.tone := rfl
@[simp] theorem setPair_chans (p : Nat) (v : SPair) (s : State) : (setPair p v s).chans = s.chans := rfl
@[simp] theorem setPair_wit (p : Nat) (v : SPair) (s : State) : (setPair p v s).wit = s.wit := rfl
@[simp] theorem setPair_conv (p : Nat) (v : SPair) (s : State) : (setPair p v s).conv = s.conv := rfl
@[simp] theorem setPair_cal (p : Nat) (v : SPair) (s : State) : (setPair p v s).cal = s.cal := rfl
@[simp] theorem setPair_trg (p : Nat) (v : SPair) (s : State) : (setPair p v s).trg = s.trg := rfl
@[simp] theorem setPair_group (p : Nat) (v : SPair) (s : State) : (setPair p v s).group = s.group := rfl
@[simp] theorem setPair_lanes (p : Nat) (v : SPair) (s : State) : (setPair p v s).lanes = s.lanes := rfl
@[simp] theorem setPair_skaing (p : Nat) (v : SPair) (s : State) : (setPair p v s).skaing = s.skaing := rfl
@[simp] theorem setPair_safe (p : Nat) (v : SPair) (s : State) : (setPair p v s).safe = { s.safe with pairs := s.safe.pairs.put p v } := rfl
@[simp] theorem setPair_cfg (p : Nat) (v : SPair) (s : State) : (setPair p v s).cfg = s.cfg := rfl
@[simp] theorem setPair_past (p : Nat) (v : SPair) (s : State) : (setPair p v s).past = s.past := rfl
@[simp] theorem setPair_now (p : Nat) (v : SPair) (s : State) : (setPair p v s).now = s.now := rfl
@[simp] theorem setPair_draw (p : Nat) (v : SPair) (s : State) : (setPair p v s).draw = s.draw := rfl
@[simp] theorem setPair_out (p : Nat) (v : SPair) (s : State) : (setPair p v s).out = s.out := rfl
@[simp] theorem setPair_pending (p : Nat) (v : SPair) (s : State) : (setPair p v s).pending = s.pending := rfl

theorem safePair_setPair (p j : Nat) (v : SPair) (s : State) : safePair (setPair p v s) j = if p = j then v else safePair s j :=
  Tab.get_put _ _ _ _ _

/-! ### setGroup -/

@[simp] theorem setGroup_part (g : Nat) (v : SGroup) (s : State) : (setGroup g v s).part = s.part := rfl
@[simp] theorem setGroup_flash (g : Nat) (v : SGroup) (s : State) : (setGroup g v s).flash = s.flash := rfl
@[simp] theorem setGroup_boot (g : Nat) (v : SGroup) (s : State) : (setGroup g v s).boot = s.boot := rfl
@[simp] theorem setGroup_faults (g : Nat) (v : SGroup) (s : State) : (setGroup g v s).faults = s.faults := rfl
@[simp] theorem setGroup_jrn (g : Nat) (v : SGroup) (s : State) : (setGroup g v s).jrn = s.jrn := rfl
@[simp] theorem setGroup_cz (g : Nat) (v : SGroup) (s : State) : (setGroup g v s).cz = s.cz := rfl
@[simp] theorem setGroup_host (g : Nat) (v : SGroup) (s : State) : (setGroup g v s).host = s.host := rfl
@[simp] theorem setGroup_store (g : Nat) (v : SGroup) (s : State) : (setGroup g v s).store = s.store := rfl
@[simp] theorem setGroup_time (g : Nat) (v : SGroup) (s : State) : (setGroup g v s).time = s.time := rfl
@[simp] theorem setGroup_ptp (g : Nat) (v : SGroup) (s : State) : (setGroup g v s).ptp = s.ptp := rfl
@[simp] theorem setGroup_evt (g : Nat) (v : SGroup) (s : State) : (setGroup g v s).evt = s.evt := rfl
@[simp] theorem setGroup_iu (g : Nat) (v : SGroup) (s : State) : (setGroup g v s).iu = s.iu := rfl
@[simp] theorem setGroup_quires (g : Nat) (v : SGroup) (s : State) : (setGroup g v s).quires = s.quires := rfl
@[simp] theorem setGroup_exc (g : Nat) (v : SGroup) (s : State) : (setGroup g v s).exc = s.exc := rfl
@[simp] theorem setGroup_tone (g : Nat) (v : SGroup) (s : State) : (setGroup g v s).tone = s.tone := rfl
@[simp] theorem setGroup_chans (g : Nat) (v : SGroup) (s : State) : (setGroup g v s).chans = s.chans := rfl
@[simp] theorem setGroup_wit (g : Nat) (v : SGroup) (s : State) : (setGroup g v s).wit = s.wit := rfl
@[simp] theorem setGroup_conv (g : Nat) (v : SGroup) (s : State) : (setGroup g v s).conv = s.conv := rfl
@[simp] theorem setGroup_cal (g : Nat) (v : SGroup) (s : State) : (setGroup g v s).cal = s.cal := rfl
@[simp] theorem setGroup_trg (g : Nat) (v : SGroup) (s : State) : (setGroup g v s).trg = s.trg := rfl
@[simp] theorem setGroup_group (g : Nat) (v : SGroup) (s : State) : (setGroup g v s).group = s.group := rfl
@[simp] theorem setGroup_lanes (g : Nat) (v : SGroup) (s : State) : (setGroup g v s).lanes = s.lanes := rfl
@[simp] theorem setGroup_skaing (g : Nat) (v : SGroup) (s : State) : (setGroup g v s).skaing = s.skaing := rfl
@[simp] theorem setGroup_safe (g : Nat) (v : SGroup) (s : State) : (setGroup g v s).safe = { s.safe with groups := s.safe.groups.put g v } := rfl
@[simp] theorem setGroup_cfg (g : Nat) (v : SGroup) (s : State) : (setGroup g v s).cfg = s.cfg := rfl
@[simp] theorem setGroup_past (g : Nat) (v : SGroup) (s : State) : (setGroup g v s).past = s.past := rfl
@[simp] theorem setGroup_now (g : Nat) (v : SGroup) (s : State) : (setGroup g v s).now = s.now := rfl
@[simp] theorem setGroup_draw (g : Nat) (v : SGroup) (s : State) : (setGroup g v s).draw = s.draw := rfl
@[simp] theorem setGroup_out (g : Nat) (v : SGroup) (s : State) : (setGroup g v s).out = s.out := rfl
@[simp] theorem setGroup_pending (g : Nat) (v : SGroup) (s : State) : (setGroup g v s).pending = s.pending := rfl

theorem safeGroup_setGroup (g j : Nat) (v : SGroup) (s : State) : safeGroup (setGroup g v s) j = if g = j then v else safeGroup s j :=
  Tab.get_put _ _ _ _ _

/-! ### setSeqr -/

@[simp] theorem setSeqr_part (k : Nat) (v : Seqr) (s : State) : (setSeqr k v s).part = s.part := rfl
@[simp] theorem setSeqr_flash (k : Nat) (v : Seqr) (s : State) : (setSeqr k v s).flash = s.flash := rfl
@[simp] theorem setSeqr_boot (k : Nat) (v : Seqr) (s : State) : (setSeqr k v s).boot = s.boot := rfl
@[simp] theorem setSeqr_faults (k : Nat) (v : Seqr) (s : State) : (setSeqr k v s).faults = s.faults := rfl
@[simp] theorem setSeqr_jrn (k : Nat) (v : Seqr) (s : State) : (setSeqr k v s).jrn = s.jrn := rfl
@[simp] theorem setSeqr_cz (k : Nat) (v : Seqr) (s : State) : (setSeqr k v s).cz = s.cz := rfl
@[simp] theorem setSeqr_host (k : Nat) (v : Seqr) (s : State) : (setSeqr k v s).host = s.host := rfl
@[simp] theorem setSeqr_store (k : Nat) (v : Seqr) (s : State) : (setSeqr k v s).store = s.store := rfl
@[simp] theorem setSeqr_time (k : Nat) (v : Seqr) (s : State) : (setSeqr k v s).time = s.time := rfl
@[simp] theorem setSeqr_ptp (k : Nat) (v : Seqr) (s : State) : (setSeqr k v s).ptp = s.ptp := rfl
@[simp] theorem setSeqr_evt (k : Nat) (v : Seqr) (s : State) : (setSeqr k v s).evt = s.evt := rfl
@[simp] theorem setSeqr_iu (k : Nat) (v : Seqr) (s : State) : (setSeqr k v s).iu = s.iu := rfl
@[simp] theorem setSeqr_quires (k : Nat) (v : Seqr) (s : State) : (setSeqr k v s).quires = s.quires := rfl
@[simp] theorem setSeqr_exc (k : Nat) (v : Seqr) (s : State) : (setSeqr k v s).exc = s.exc := rfl
@[simp] theorem setSeqr_tone (k : Nat) (v : Seqr) (s : State) : (setSeqr k v s).tone = s.tone := rfl
@[simp] theorem setSeqr_chans (k : Nat) (v : Seqr) (s : State) : (setSeqr k v s).chans = s.chans := rfl
@[simp] theorem setSeqr_wit (k : Nat) (v : Seqr) (s : State) : (setSeqr k v s).wit = s.wit := rfl
@[simp] theorem setSeqr_conv (k : Nat) (v : Seqr) (s : State) : (setSeqr k v s).conv = s.conv := rfl
@[simp] theorem setSeqr_cal (k : Nat) (v : Seqr) (s : State) : (setSeqr k v s).cal = s.cal := rfl
@[simp] theorem setSeqr_trg (k : Nat) (v : Seqr) (s : State) : (setSeqr k v s).trg = { s.trg with seqs := s.trg.seqs.put k v } := rfl
@[simp] theorem setSeqr_group (k : Nat) (v : Seqr) (s : State) : (setSeqr k v s).group = s.group := rfl
@[simp] theorem setSeqr_lanes (k : Nat) (v : Seqr) (s : State) : (setSeqr k v s).lanes = s.lanes := rfl
@[simp] theorem setSeqr_skaing (k : Nat) (v : Seqr) (s : State) : (setSeqr k v s).skaing = s.skaing := rfl
@[simp] theorem setSeqr_safe (k : Nat) (v : Seqr) (s : State) : (setSeqr k v s).safe = s.safe := rfl
@[simp] theorem setSeqr_cfg (k : Nat) (v : Seqr) (s : State) : (setSeqr k v s).cfg = s.cfg := rfl
@[simp] theorem setSeqr_past (k : Nat) (v : Seqr) (s : State) : (setSeqr k v s).past = s.past := rfl
@[simp] theorem setSeqr_now (k : Nat) (v : Seqr) (s : State) : (setSeqr k v s).now = s.now := rfl
@[simp] theorem setSeqr_draw (k : Nat) (v : Seqr) (s : State) : (setSeqr k v s).draw = s.draw := rfl
@[simp] theorem setSeqr_out (k : Nat) (v : Seqr) (s : State) : (setSeqr k v s).out = s.out := rfl
@[simp] theorem setSeqr_pending (k : Nat) (v : Seqr) (s : State) : (setSeqr k v s).pending = s.pending := rfl

theorem seqr_setSeqr (k j : Nat) (v : Seqr) (s : State) : seqr (setSeqr k v s) j = if k = j then v else seqr s j :=
  Tab.get_put _ _ _ _ _

/-! ### setCond -/

@[simp] theorem setCond_part (k : Nat) (v : Cond) (s : State) : (setCond k v s).part = s.part := rfl
@[simp] theorem setCond_flash (k : Nat) (v : Cond) (s : State) : (setCond k v s).flash = s.flash := rfl
@[simp] theorem setCond_boot (k : Nat) (v : Cond) (s : State) : (setCond k v s).boot = s.boot := rfl
@[simp] theorem setCond_faults (k : Nat) (v : Cond) (s : State) : (setCond k v s).faults = s.faults := rfl
@[simp] theorem setCond_jrn (k : Nat) (v : Cond) (s : State) : (setCond k v s).jrn = s.jrn := rfl
@[simp] theorem setCond_cz (k : Nat) (v : Cond) (s : State) : (setCond k v s).cz = s.cz := rfl
@[simp] theorem setCond_host (k : Nat) (v : Cond) (s : State) : (setCond k v s).host = s.host := rfl
@[simp] theorem setCond_store (k : Nat) (v : Cond) (s : State) : (setCond k v s).store = s.store := rfl
@[simp] theorem setCond_time (k : Nat) (v : Cond) (s : State) : (setCond k v s).time = s.time := rfl
@[simp] theorem setCond_ptp (k : Nat) (v : Cond) (s : State) : (setCond k v s).ptp = s.ptp := rfl
@[simp] theorem setCond_evt (k : Nat) (v : Cond) (s : State) : (setCond k v s).evt = s.evt := rfl
@[simp] theorem setCond_iu (k : Nat) (v : Cond) (s : State) : (setCond k v s).iu = s.iu := rfl
@[simp] theorem setCond_quires (k : Nat) (v : Cond) (s : State) : (setCond k v s).quires = s.quires := rfl
@[simp] theorem setCond_exc (k : Nat) (v : Cond) (s : State) : (setCond k v s).exc = s.exc := rfl
@[simp] theorem setCond_tone (k : Nat) (v : Cond) (s : State) : (setCond k v s).tone = s.tone := rfl
@[simp] theorem setCond_chans (k : Nat) (v : Cond) (s : State) : (setCond k v s).chans = s.chans := rfl
@[simp] theorem setCond_wit (k : Nat) (v : Cond) (s : State) : (setCond k v s).wit = s.wit := rfl
@[simp] theorem setCond_conv (k : Nat) (v : Cond) (s : State) : (setCond k v s).conv = s.conv := rfl
@[simp] theorem setCond_cal (k : Nat) (v : Cond) (s : State) : (setCond k v s).cal = s.cal := rfl
@[simp] theorem setCond_trg (k : Nat) (v : Cond) (s : State) : (setCond k v s).trg = { s.trg with conds := s.trg.conds.put k v } := rfl
@[simp] theorem setCond_group (k : Nat) (v : Cond) (s : State) : (setCond k v s).group = s.group := rfl
@[simp] theorem setCond_lanes (k : Nat) (v : Cond) (s : State) : (setCond k v s).lanes = s.lanes := rfl
@[simp] theorem setCond_skaing (k : Nat) (v : Cond) (s : State) : (setCond k v s).skaing = s.skaing := rfl
@[simp] theorem setCond_safe (k : Nat) (v : Cond) (s : State) : (setCond k v s).safe = s.safe := rfl
@[simp] theorem setCond_cfg (k : Nat) (v : Cond) (s : State) : (setCond k v s).cfg = s.cfg := rfl
@[simp] theorem setCond_past (k : Nat) (v : Cond) (s : State) : (setCond k v s).past = s.past := rfl
@[simp] theorem setCond_now (k : Nat) (v : Cond) (s : State) : (setCond k v s).now = s.now := rfl
@[simp] theorem setCond_draw (k : Nat) (v : Cond) (s : State) : (setCond k v s).draw = s.draw := rfl
@[simp] theorem setCond_out (k : Nat) (v : Cond) (s : State) : (setCond k v s).out = s.out := rfl
@[simp] theorem setCond_pending (k : Nat) (v : Cond) (s : State) : (setCond k v s).pending = s.pending := rfl

theorem cond_setCond (k j : Nat) (v : Cond) (s : State) : cond (setCond k v s) j = if k = j then v else cond s j :=
  Tab.get_put _ _ _ _ _

/-! ### setMask -/

@[simp] theorem setMask_part (k : Nat) (v : MaskT) (s : State) : (setMask k v s).part = s.part := rfl
@[simp] theorem setMask_flash (k : Nat) (v : MaskT) (s : State) : (setMask k v s).flash = s.flash := rfl
@[simp] theorem setMask_boot (k : Nat) (v : MaskT) (s : State) : (setMask k v s).boot = s.boot := rfl
@[simp] theorem setMask_faults (k : Nat) (v : MaskT) (s : State) : (setMask k v s).faults = s.faults := rfl
@[simp] theorem setMask_jrn (k : Nat) (v : MaskT) (s : State) : (setMask k v s).jrn = s.jrn := rfl
@[simp] theorem setMask_cz (k : Nat) (v : MaskT) (s : State) : (setMask k v s).cz = s.cz := rfl
@[simp] theorem setMask_host (k : Nat) (v : MaskT) (s : State) : (setMask k v s).host = s.host := rfl
@[simp] theorem setMask_store (k : Nat) (v : MaskT) (s : State) : (setMask k v s).store = s.store := rfl
@[simp] theorem setMask_time (k : Nat) (v : MaskT) (s : State) : (setMask k v s).time = s.time := rfl
@[simp] theorem setMask_ptp (k : Nat) (v : MaskT) (s : State) : (setMask k v s).ptp = s.ptp := rfl
@[simp] theorem setMask_evt (k : Nat) (v : MaskT) (s : State) : (setMask k v s).evt = s.evt := rfl
@[simp] theorem setMask_iu (k : Nat) (v : MaskT) (s : State) : (setMask k v s).iu = s.iu := rfl
@[simp] theorem setMask_quires (k : Nat) (v : MaskT) (s : State) : (setMask k v s).quires = s.quires := rfl
@[simp] theorem setMask_exc (k : Nat) (v : MaskT) (s : State) : (setMask k v s).exc = s.exc := rfl
@[simp] theorem setMask_tone (k : Nat) (v : MaskT) (s : State) : (setMask k v s).tone = s.tone := rfl
@[simp] theorem setMask_chans (k : Nat) (v : MaskT) (s : State) : (setMask k v s).chans = s.chans := rfl
@[simp] theorem setMask_wit (k : Nat) (v : MaskT) (s : State) : (setMask k v s).wit = s.wit := rfl
@[simp] theorem setMask_conv (k : Nat) (v : MaskT) (s : State) : (setMask k v s).conv = s.conv := rfl
@[simp] theorem setMask_cal (k : Nat) (v : MaskT) (s : State) : (setMask k v s).cal = s.cal := rfl
@[simp] theorem setMask_trg (k : Nat) (v : MaskT) (s : State) : (setMask k v s).trg = { s.trg with masks := s.trg.masks.put k v } := rfl
@[simp] theorem setMask_group (k : Nat) (v : MaskT) (s : State) : (setMask k v s).group = s.group := rfl
@[simp] theorem setMask_lanes (k : Nat) (v : MaskT) (s : State) : (setMask k v s).lanes = s.lanes := rfl
@[simp] theorem setMask_skaing (k : Nat) (v : MaskT) (s : State) : (setMask k v s).skaing = s.skaing := rfl
@[simp] theorem setMask_safe (k : Nat) (v : MaskT) (s : State) : (setMask k v s).safe = s.safe := rfl
@[simp] theorem setMask_cfg (k : Nat) (v : MaskT) (s : State) : (setMask k v s).cfg = s.cfg := rfl
@[simp] theorem setMask_past (k : Nat) (v : MaskT) (s : State) : (setMask k v s).past = s.past := rfl
@[simp] theorem setMask_now (k : Nat) (v : MaskT) (s : State) : (setMask k v s).now = s.now := rfl
@[simp] theorem setMask_draw (k : Nat) (v : MaskT) (s : State) : (setMask k v s).draw = s.draw := rfl
@[simp] theorem setMask_out (k : Nat) (v : MaskT) (s : State) : (setMask k v s).out = s.out := rfl
@[simp] theorem setMask_pending (k : Nat) (v : MaskT) (s : State) : (setMask k v s).pending = s.pending := rfl

theorem maskT_setMask (k j : Nat) (v : MaskT) (s : State) : maskT (setMask k v s) j = if k = j then v else maskT s j :=
  Tab.get_put _ _ _ _ _

end Sys2Proof.Machine
end

