-- ==== Sys2Proof/Laws/Keep.lean ====
section
/-! SUPPORT. What no command undoes: the part, the queue, the counters that never fall, the canonical form of the parameter
words, and TRIP outputs that toggle only in a running group. One lemma for each operation says that it keeps them. -/

namespace Sys2Proof.Machine

/-- Every TRIP output that toggles belongs to a group that is HEALTHY or DEGRADED (15 R389, R391). -/
def TripOk (l : Tab SGroup) : Prop := ∀ g, (l.get g SGroup.init).toggling = true → (l.get g SGroup.init).state = 1 ∨ (l.get g SGroup.init).state = 2

/-- The three partitions of images in their canonical form. -/
def PartsOk (f : Flash) : Prop := Memory.wf f.fwA = true ∧ Memory.wf f.fwB = true ∧ Memory.wf f.ucode = true

/-- What holds between a state and one that follows it, whatever the command. -/
structure Keep (s t : State) : Prop where
  part : t.part = s.part
  pending : t.pending = s.pending
  sealN : s.flash.sealCount ≤ t.flash.sealCount
  lock : s.flash.lockCount ≤ t.flash.lockCount
  fuse : s.flash.fuses ≤ t.flash.fuses
  cfg : cfgWf s.cfg = true → cfgWf t.cfg = true
  trip : TripOk s.safe.groups → TripOk t.safe.groups
  mem : PartsOk s.flash → PartsOk t.flash
  clock : s.now ≤ t.now

theorem Keep.refl (s : State) : Keep s s :=
  ⟨rfl, rfl, Nat.le_refl _, Nat.le_refl _, Nat.le_refl _, id, id, id, Nat.le_refl _⟩

theorem Keep.trans {a b c : State} (h : Keep a b) (k : Keep b c) : Keep a c :=
  ⟨k.part.trans h.part, k.pending.trans h.pending, h.sealN.trans k.sealN, h.lock.trans k.lock, h.fuse.trans k.fuse,
   fun x => k.cfg (h.cfg x), fun x => k.trip (h.trip x), fun x => k.mem (h.mem x),
   h.clock.trans k.clock⟩

theorem Keep.same {s t : State} (hp : t.part = s.part) (hq : t.pending = s.pending)
    (h1 : t.flash.sealCount = s.flash.sealCount) (h2 : t.flash.lockCount = s.flash.lockCount)
    (h3 : t.flash.fuses = s.flash.fuses) (hc : t.cfg = s.cfg) (hg : t.safe.groups = s.safe.groups)
    (hA : t.flash.fwA = s.flash.fwA) (hB : t.flash.fwB = s.flash.fwB) (hU : t.flash.ucode = s.flash.ucode)
    (hn : t.now = s.now) : Keep s t :=
  ⟨hp, hq, h1.ge, h2.ge, h3.ge, fun h => hc ▸ h, fun h => hg ▸ h, fun h => by unfold PartsOk; rw [hA, hB, hU]; exact h, hn.ge⟩

/-- A state that a let names, and what is kept up to it. -/
theorem Keep.cut {s0 x : State} {P : Prop} (hx : Keep s0 x) (h : Keep s0 x → P) : P := h hx

/-- An update that touches none of it. -/
theorem keep_upd {s0 s : State} (boot : Boot) (faults : Faults) (jrn : Journal) (cz : Cuzan) (host : HostPort) (store
    : Store) (time : TimeS) (ptp : Tab PtpPort) (evt : Tab EvtPin) (iu : Tab Interval) (quires : Tab Quire) (exc : Tab
    ExcGroup) (tone : Tab Tone) (chans : Tab Chan) (wit : Tab Witness) (conv : Conv) (cal : Cal) (trg : Trg) (group :
    Group) (lanes : Tab Lane) (skaing : Tab Skaing) (past : List (Int × List (BlockKey × Nat))) (draw :
    Nat) (out : List Out) (h : Keep s0 s) : Keep s0 (State.mk s.part s.flash boot faults jrn cz host store time ptp
    evt iu quires exc tone chans wit conv cal trg group lanes skaing s.safe s.cfg past s.now draw out s.pending) :=
  h.trans (Keep.same rfl rfl rfl rfl rfl rfl rfl rfl rfl rfl rfl)

/-- An update of flash that leaves its counters. -/
theorem keep_flash {s0 s : State} (boot : Boot) (faults : Faults) (jrn : Journal) (cz : Cuzan) (host : HostPort)
    (store : Store) (time : TimeS) (ptp : Tab PtpPort) (evt : Tab EvtPin) (iu : Tab Interval) (quires : Tab Quire)
    (exc : Tab ExcGroup) (tone : Tab Tone) (chans : Tab Chan) (wit : Tab Witness) (conv : Conv) (cal : Cal) (trg :
    Trg) (group : Group) (lanes : Tab Lane) (skaing : Tab Skaing) (past : List (Int × List (BlockKey × Nat))) (draw : Nat) (out : List Out) (f_safe : List
    (BlockKey × Nat)) (f_safeCorr : Tab (List Nat)) (f_safeOk1 : Bool) (f_safeOk2 : Bool) (f_keys : KeysFlash) (f_cal :
    Option CalSet) (f_journal : JournalFlash) (f_ring : List RingRec) (f_rseq : Tab Nat) (f_bad : List Nat) (f_last : Nat) (h : Keep
    s0 s) : Keep s0 (State.mk s.part (Flash.mk s.flash.fwA s.flash.fwB s.flash.ucode f_safe f_safeCorr f_safeOk1 f_safeOk2 f_keys f_cal
    f_journal f_ring f_rseq s.flash.sealCount s.flash.lockCount s.flash.fuses f_bad f_last) boot faults jrn cz host store
    time ptp evt iu quires exc tone chans wit conv cal trg group lanes skaing s.safe s.cfg past s.now draw out
    s.pending) :=
  h.trans (Keep.same rfl rfl rfl rfl rfl rfl rfl rfl rfl rfl rfl)

/-- An update of the safety island that leaves its groups. -/
theorem keep_safe {s0 s : State} (boot : Boot) (faults : Faults) (jrn : Journal) (cz : Cuzan) (host : HostPort) (store
    : Store) (time : TimeS) (ptp : Tab PtpPort) (evt : Tab EvtPin) (iu : Tab Interval) (quires : Tab Quire) (exc : Tab
    ExcGroup) (tone : Tab Tone) (chans : Tab Chan) (wit : Tab Witness) (conv : Conv) (cal : Cal) (trg : Trg) (group :
    Group) (lanes : Tab Lane) (skaing : Tab Skaing) (past : List (Int × List (BlockKey × Nat))) (draw :
    Nat) (out : List Out) (a_image : List (BlockKey × Nat)) (a_corr : Tab (List Nat)) (a_corrOk : Bool) (a_crcBad :
    Bool) (a_lockOpen : Bool) (a_working : List (BlockKey × Nat)) (a_workingCorr : Tab (List Nat)) (a_adopt : Bool)
    (a_pairs : Tab SPair) (a_handover : Option Nat) (a_lastEval : Nat) (h : Keep s0 s) : Keep s0 (State.mk s.part
    s.flash boot faults jrn cz host store time ptp evt iu quires exc tone chans wit conv cal trg group lanes skaing
    (Safety.mk a_image a_corr a_corrOk a_crcBad a_lockOpen a_working a_workingCorr a_adopt a_pairs s.safe.groups
    a_handover a_lastEval) s.cfg past s.now draw out s.pending) :=
  h.trans (Keep.same rfl rfl rfl rfl rfl rfl rfl rfl rfl rfl rfl)

/-- An update of both. -/
theorem keep_both {s0 s : State} (boot : Boot) (faults : Faults) (jrn : Journal) (cz : Cuzan) (host : HostPort) (store
    : Store) (time : TimeS) (ptp : Tab PtpPort) (evt : Tab EvtPin) (iu : Tab Interval) (quires : Tab Quire) (exc : Tab
    ExcGroup) (tone : Tab Tone) (chans : Tab Chan) (wit : Tab Witness) (conv : Conv) (cal : Cal) (trg : Trg) (group :
    Group) (lanes : Tab Lane) (skaing : Tab Skaing) (past : List (Int × List (BlockKey × Nat))) (draw :
    Nat) (out : List Out) (f_safe : List (BlockKey × Nat))
    (f_safeCorr : Tab (List Nat)) (f_safeOk1 : Bool) (f_safeOk2 : Bool) (f_keys : KeysFlash) (f_cal : Option CalSet)
    (f_journal : JournalFlash) (f_ring : List RingRec) (f_rseq : Tab Nat) (f_bad : List Nat) (f_last : Nat) (a_image : List (BlockKey
    × Nat)) (a_corr : Tab (List Nat)) (a_corrOk : Bool) (a_crcBad : Bool) (a_lockOpen : Bool) (a_working : List
    (BlockKey × Nat)) (a_workingCorr : Tab (List Nat)) (a_adopt : Bool) (a_pairs : Tab SPair) (a_handover : Option
    Nat) (a_lastEval : Nat) (h : Keep s0 s) : Keep s0 (State.mk s.part (Flash.mk s.flash.fwA s.flash.fwB s.flash.ucode f_safe f_safeCorr
    f_safeOk1 f_safeOk2 f_keys f_cal f_journal f_ring f_rseq s.flash.sealCount s.flash.lockCount s.flash.fuses f_bad f_last)
    boot faults jrn cz host store time ptp evt iu quires exc tone chans wit conv cal trg group lanes skaing (Safety.mk
    a_image a_corr a_corrOk a_crcBad a_lockOpen a_working a_workingCorr a_adopt a_pairs s.safe.groups a_handover
    a_lastEval) s.cfg past s.now draw out s.pending) :=
  h.trans (Keep.same rfl rfl rfl rfl rfl rfl rfl rfl rfl rfl rfl)

/-- A counter of flash rises. -/
theorem keep_raised {s : State} (f : Flash) (a : Safety) (cal : Cal) (h1 : s.flash.sealCount ≤ f.sealCount)
    (h2 : s.flash.lockCount ≤ f.lockCount) (h3 : s.flash.fuses ≤ f.fuses) (h4 : a.groups = s.safe.groups)
    (hA : f.fwA = s.flash.fwA) (hB : f.fwB = s.flash.fwB) (hU : f.ucode = s.flash.ucode) :
    Keep s { s with flash := f, safe := a, cal := cal } :=
  ⟨rfl, rfl, h1, h2, h3, id, fun h => h4 ▸ h, fun h => by
    show PartsOk f
    unfold PartsOk; rw [hA, hB, hU]; exact h, Nat.le_refl _⟩

theorem ite_keep {c : Prop} [Decidable c] {s0 a b : State} (ha : Keep s0 a) (hb : Keep s0 b) :
    Keep s0 (if c then a else b) := by split <;> assumption

theorem foldl_keep {α : Type} {s0 s : State} {f : State → α → State} (l : List α) (hf : ∀ x t, Keep t (f t x))
    (h : Keep s0 s) : Keep s0 (l.foldl f s) := by
  induction l generalizing s with
  | nil => exact h
  | cons x r ih => exact ih (h.trans (hf x s))

theorem foldl_pair_keep {α β : Type} {s0 : State} {f : State × β → α → State × β} (l : List α)
    (hf : ∀ p x, Keep p.1 (f p x).1) {p : State × β} (h : Keep s0 p.1) : Keep s0 (l.foldl f p).1 := by
  induction l generalizing p with
  | nil => exact h
  | cons x r ih => exact ih (h.trans (hf p x))

theorem forAll_keep {α : Type} {s0 s : State} {f : α → State → State} (l : List α) (hf : ∀ x t, Keep t (f x t))
    (h : Keep s0 s) : Keep s0 (forAll l f s) := foldl_keep l hf h

theorem when_keep {s0 s : State} {b : Bool} {f : State → State} (hf : ∀ t, Keep t (f t)) (h : Keep s0 s) :
    Keep s0 (when_ b f s) := by
  unfold when_; exact ite_keep (h.trans (hf s)) h

theorem unlessPaused_keep {s0 s : State} {f : State → State} (hf : ∀ t, Keep t (f t)) (h : Keep s0 s) :
    Keep s0 (unlessPaused f s) := by
  unfold unlessPaused; exact ite_keep h (h.trans (hf s))

/-! ### The tables of the groups -/

/-- A group's record changes to one that toggles only in a running state. -/
theorem setGroup_keep {s0 s : State} {g : Nat} {v : SGroup} (hv : TripOk s.safe.groups → v.toggling = true → v.state = 1 ∨ v.state = 2)
    (h : Keep s0 s) : Keep s0 (setGroup g v s) := by
  refine h.trans ⟨rfl, rfl, Nat.le_refl _, Nat.le_refl _, Nat.le_refl _, id, fun k j => ?_, id, Nat.le_refl _⟩
  show ((s.safe.groups.put g v).get j SGroup.init).toggling = true → _
  simp only [setGroup, Tab.get_put]
  split
  · exact hv k
  · exact k j

/-- A group's record changes, its state and its output as they were. -/
theorem setGroup_same {s0 s : State} {g : Nat} {v : SGroup} (h1 : v.toggling = (safeGroup s g).toggling)
    (h2 : v.state = (safeGroup s g).state) (h : Keep s0 s) : Keep s0 (setGroup g v s) :=
  setGroup_keep (fun k e => by rw [h2]; exact k g (h1 ▸ e)) h

/-! ### The partitions of flash (02 R45) -/

theorem Memory.wf_cons {i v : Nat} {r : Tab Nat} :
    Memory.wf ((i, v) :: r) = true ↔ v ≠ 255 ∧ (∀ p ∈ r.head?, i < p.1) ∧ Memory.wf r = true := by
  cases r with
  | nil => simp [Memory.wf]
  | cons p r => obtain ⟨j, w⟩ := p; simp [Memory.wf, and_assoc]

/-- Putting a byte that is not erased keeps the canonical form. -/
theorem Memory.wf_put {t : Tab Nat} {i v : Nat} (hv : v ≠ 255) (h : Memory.wf t = true) : Memory.wf (t.put i v) = true := by
  induction t with
  | nil => simp [Tab.put, Memory.wf, hv]
  | cons p r ih =>
    obtain ⟨j, w⟩ := p
    rw [Memory.wf_cons] at h
    unfold Tab.put
    split
    · rename_i hlt
      rw [Memory.wf_cons]
      exact ⟨hv, by intro q hq; cases hq; exact hlt, Memory.wf_cons.mpr h⟩
    · split
      · rename_i he
        subst he
        exact Memory.wf_cons.mpr ⟨hv, h.2⟩
      · rename_i hge hne
        refine Memory.wf_cons.mpr ⟨h.1, fun q hq => ?_, ih h.2.2⟩
        cases r with
        | nil => simp [Tab.put] at hq; subst hq; show j < i; omega
        | cons a b =>
          obtain ⟨k, x⟩ := a
          have hk : j < k := h.2.1 (k, x) rfl
          unfold Tab.put at hq
          split at hq
          · simp at hq; subst hq; show j < i; omega
          · split at hq
            · simp at hq; subst hq; show j < i; omega
            · simp at hq; subst hq; exact hk

/-- A byte after a put. -/
theorem flashByte_put (t : Tab Nat) (i j v : Nat) : flashByte (t.put i v) j = if i = j then v else flashByte t j :=
  Tab.get_put _ _ _ _ _

theorem programByte_wf {t : Tab Nat} {i : Nat} (h : Memory.wf t = true) : Memory.wf (programByte t i) = true :=
  Memory.wf_put (by decide) h

theorem imgTry_wf {t : Tab Nat} (h : Memory.wf t = true) : Memory.wf (imgTry t) = true := by
  unfold imgTry
  split
  · exact h
  · exact programByte_wf h

theorem programBytes_wf (l : List (Nat × Nat)) {t : Tab Nat} (h : Memory.wf t = true) :
    Memory.wf (programBytes l t) = true := by
  unfold programBytes
  induction l generalizing t with
  | nil => exact h
  | cons p r ih =>
    refine ih ?_
    dsimp only
    split
    · exact h
    · rename_i hv; exact Memory.wf_put hv h

theorem partition_wf {s : State} (i : Nat) (h : PartsOk s.flash) : Memory.wf (partition s i) = true := by
  unfold partition
  split
  · exact h.1
  · exact h.2.1
  · exact h.2.2

/-- A partition takes a table in canonical form. -/
theorem setPartition_keep {s0 s : State} {i : Nat} {t : Tab Nat} (ht : PartsOk s.flash → Memory.wf t = true)
    (h : Keep s0 s) : Keep s0 (setPartition i t s) := by
  refine h.trans ?_
  unfold setPartition
  split
  · exact ⟨rfl, rfl, Nat.le_refl _, Nat.le_refl _, Nat.le_refl _, id, id, fun k => ⟨ht k, k.2.1, k.2.2⟩, Nat.le_refl _⟩
  · exact ⟨rfl, rfl, Nat.le_refl _, Nat.le_refl _, Nat.le_refl _, id, id, fun k => ⟨k.1, ht k, k.2.2⟩, Nat.le_refl _⟩
  · exact ⟨rfl, rfl, Nat.le_refl _, Nat.le_refl _, Nat.le_refl _, id, id, fun k => ⟨k.1, k.2.1, ht k⟩, Nat.le_refl _⟩

/-! ### The parameter words (13 R338) -/

theorem keyLt_iff (a b : BlockKey) :
    keyLt a b = true ↔ a.1 < b.1 ∨ (a.1 = b.1 ∧ (a.2.1 < b.2.1 ∨ (a.2.1 = b.2.1 ∧ a.2.2 < b.2.2))) := by
  simp [keyLt]

theorem keyLt_trans {a b c : BlockKey} (h : keyLt a b = true) (k : keyLt b c = true) : keyLt a c = true := by
  rw [keyLt_iff] at *; omega

theorem keyLt_total {a b : BlockKey} (h : ¬ keyLt a b = true) (k : a ≠ b) : keyLt b a = true := by
  obtain ⟨a1, a2, a3⟩ := a; obtain ⟨b1, b2, b3⟩ := b
  rw [keyLt_iff] at *
  simp only [ne_eq, Prod.mk.injEq] at *; omega

/-- The canonical form as a property of the list. -/
theorem cfgWf_iff (l : List (BlockKey × Nat)) :
    cfgWf l = true ↔ l.Pairwise (fun p q => keyLt p.1 q.1 = true) ∧ ∀ p ∈ l, p.2 ≠ resetWord p.1.1 p.1.2.1 p.1.2.2 := by
  induction l with
  | nil => simp [cfgWf]
  | cons p r ih =>
    obtain ⟨k, v⟩ := p
    cases r with
    | nil => simp [cfgWf]
    | cons q r =>
      obtain ⟨j, w⟩ := q
      rw [cfgWf, Bool.and_eq_true, Bool.and_eq_true, ih]
      constructor
      · rintro ⟨⟨h1, h2⟩, h3, h4⟩
        refine ⟨List.pairwise_cons.mpr ⟨fun a ha => ?_, h3⟩, List.forall_mem_cons.mpr ⟨by simpa using h1, h4⟩⟩
        rcases List.mem_cons.mp ha with rfl | ha
        · exact h2
        · exact keyLt_trans h2 ((List.pairwise_cons.mp h3).1 a ha)
      · rintro ⟨h3, h4⟩
        rw [List.pairwise_cons] at h3
        rw [List.forall_mem_cons] at h4
        exact ⟨⟨by simpa using h4.1, h3.1 _ List.mem_cons_self⟩, h3.2, h4.2⟩

theorem keyDel_wf {l : List (BlockKey × Nat)} (k : BlockKey) (h : cfgWf l = true) : cfgWf (keyDel l k) = true := by
  rw [cfgWf_iff] at *
  exact ⟨h.1.sublist List.filter_sublist, fun p hp => h.2 p (List.mem_of_mem_filter hp)⟩

theorem mem_keyIns {l : List (BlockKey × Nat)} {k : BlockKey} {v : Nat} {p : BlockKey × Nat} (h : p ∈ keyIns l k v) :
    p = (k, v) ∨ p ∈ l := by
  induction l with
  | nil => exact .inl (by simpa [keyIns] using h)
  | cons q r ih =>
    obtain ⟨j, w⟩ := q
    unfold keyIns at h
    split at h
    · simpa using h
    · rcases List.mem_cons.mp h with h | h
      · exact .inr (h ▸ List.mem_cons_self)
      · exact (ih h).imp id (List.mem_cons_of_mem _)

theorem keyIns_pairwise {l : List (BlockKey × Nat)} {k : BlockKey} (v : Nat)
    (h : l.Pairwise (fun p q => keyLt p.1 q.1 = true)) (hk : ∀ p ∈ l, p.1 ≠ k) :
    (keyIns l k v).Pairwise (fun p q => keyLt p.1 q.1 = true) := by
  induction l with
  | nil => simp [keyIns]
  | cons q r ih =>
    obtain ⟨j, w⟩ := q
    rw [List.pairwise_cons] at h
    unfold keyIns
    split
    · rename_i hlt
      refine List.pairwise_cons.mpr ⟨fun a ha => ?_, List.pairwise_cons.mpr h⟩
      rcases List.mem_cons.mp ha with rfl | ha
      · exact hlt
      · exact keyLt_trans hlt (h.1 a ha)
    · rename_i hge
      have hj : keyLt j k = true := keyLt_total hge (hk _ List.mem_cons_self).symm
      refine List.pairwise_cons.mpr ⟨fun a ha => ?_, ih h.2 fun p hp => hk p (List.mem_cons_of_mem _ hp)⟩
      rcases mem_keyIns ha with rfl | ha
      · exact hj
      · exact h.1 a ha

theorem keyPut_wf {l : List (BlockKey × Nat)} (k : BlockKey) (v : Nat) (h : cfgWf l = true) : cfgWf (keyPut l k v) = true := by
  unfold keyPut
  split
  · exact keyDel_wf k h
  · rename_i hv
    have hd := keyDel_wf k h
    rw [cfgWf_iff] at hd ⊢
    refine ⟨keyIns_pairwise v hd.1 fun p hp => ?_, fun p hp => ?_⟩
    · simpa using (List.mem_filter.mp hp).2
    · rcases mem_keyIns hp with rfl | hp
      · exact hv
      · exact hd.2 p hp

theorem putWord_keep {s0 s : State} {b i o w : Nat} (h : Keep s0 s) : Keep s0 (putWord b i o w s) :=
  h.trans ⟨rfl, rfl, Nat.le_refl _, Nat.le_refl _, Nat.le_refl _, keyPut_wf _ _, id, id, Nat.le_refl _⟩

end Sys2Proof.Machine
end

