-- ==== Sys2Proof/Laws/KeepOps.lean ====
section
/-! SUPPORT. Each operation of Ops keeps what no command undoes. -/

set_option linter.all false

namespace Sys2Proof.Machine

theorem state_tick_keep {s0 s : State} {t : Nat} (hk : Keep s0 s) : Keep s0 (State.tick t s) :=
  hk.trans ⟨rfl, rfl, Nat.le_refl _, Nat.le_refl _, Nat.le_refl _, id, id, id, Nat.le_max_left _ _⟩

theorem emit_keep {s0 s : State} {o : Out} (hk : Keep s0 s) :
    Keep s0 (emit o s) := by
  unfold emit
  repeat' (
    first
      | with_reducible assumption | with_reducible exact Keep.refl _
      | fail_if_no_progress with_reducible apply keep_upd
      | (intro x; refine Keep.cut (s0 := s0) (x := x) ?_ ?_; (on_goal 1 => dsimp -zeta only [x]); (on_goal 2 => (intro _; clear_value x)))
      | (intro x; clear_value x) | lift_lets -underBinder | (intro s0))

theorem emitAll_keep {s0 s : State} {l : List Out} (hk : Keep s0 s) :
    Keep s0 (emitAll l s) := by
  unfold emitAll
  repeat' (
    first
      | with_reducible assumption | with_reducible exact Keep.refl _ | with_reducible apply foldl_keep
      | with_reducible apply emit_keep | (intro s0))

theorem toQuire_keep {s0 s : State} {q : Nat} {kind : Nat} {arg : Nat} (hk : Keep s0 s) :
    Keep s0 (toQuire q kind arg s) := by
  unfold toQuire
  repeat' (
    first
      | with_reducible assumption | with_reducible exact Keep.refl _ | with_reducible apply emit_keep | (intro s0))

theorem setChan_keep {s0 s : State} {c : Nat} {v : Chan} (hk : Keep s0 s) :
    Keep s0 (setChan c v s) := by
  unfold setChan
  repeat' (
    first
      | with_reducible assumption | with_reducible exact Keep.refl _
      | fail_if_no_progress with_reducible apply keep_upd
      | (intro x; refine Keep.cut (s0 := s0) (x := x) ?_ ?_; (on_goal 1 => dsimp -zeta only [x]); (on_goal 2 => (intro _; clear_value x)))
      | (intro x; clear_value x) | lift_lets -underBinder | (intro s0))

theorem setQuire_keep {s0 s : State} {q : Nat} {v : Quire} (hk : Keep s0 s) :
    Keep s0 (setQuire q v s) := by
  unfold setQuire
  repeat' (
    first
      | with_reducible assumption | with_reducible exact Keep.refl _
      | fail_if_no_progress with_reducible apply keep_upd
      | (intro x; refine Keep.cut (s0 := s0) (x := x) ?_ ?_; (on_goal 1 => dsimp -zeta only [x]); (on_goal 2 => (intro _; clear_value x)))
      | (intro x; clear_value x) | lift_lets -underBinder | (intro s0))

theorem setExc_keep {s0 s : State} {e : Nat} {v : ExcGroup} (hk : Keep s0 s) :
    Keep s0 (setExc e v s) := by
  unfold setExc
  repeat' (
    first
      | with_reducible assumption | with_reducible exact Keep.refl _
      | fail_if_no_progress with_reducible apply keep_upd
      | (intro x; refine Keep.cut (s0 := s0) (x := x) ?_ ?_; (on_goal 1 => dsimp -zeta only [x]); (on_goal 2 => (intro _; clear_value x)))
      | (intro x; clear_value x) | lift_lets -underBinder | (intro s0))

theorem setWit_keep {s0 s : State} {q : Nat} {v : Witness} (hk : Keep s0 s) :
    Keep s0 (setWit q v s) := by
  unfold setWit
  repeat' (
    first
      | with_reducible assumption | with_reducible exact Keep.refl _
      | fail_if_no_progress with_reducible apply keep_upd
      | (intro x; refine Keep.cut (s0 := s0) (x := x) ?_ ?_; (on_goal 1 => dsimp -zeta only [x]); (on_goal 2 => (intro _; clear_value x)))
      | (intro x; clear_value x) | lift_lets -underBinder | (intro s0))

theorem setTone_keep {s0 s : State} {q : Nat} {v : Tone} (hk : Keep s0 s) :
    Keep s0 (setTone q v s) := by
  unfold setTone
  repeat' (
    first
      | with_reducible assumption | with_reducible exact Keep.refl _
      | fail_if_no_progress with_reducible apply keep_upd
      | (intro x; refine Keep.cut (s0 := s0) (x := x) ?_ ?_; (on_goal 1 => dsimp -zeta only [x]); (on_goal 2 => (intro _; clear_value x)))
      | (intro x; clear_value x) | lift_lets -underBinder | (intro s0))

theorem setEns_keep {s0 s : State} {q : Nat} {v : Ensemble} (hk : Keep s0 s) :
    Keep s0 (setEns q v s) := by
  unfold setEns
  repeat' (
    first
      | with_reducible assumption | with_reducible exact Keep.refl _
      | fail_if_no_progress with_reducible apply keep_upd
      | (intro x; refine Keep.cut (s0 := s0) (x := x) ?_ ?_; (on_goal 1 => dsimp -zeta only [x]); (on_goal 2 => (intro _; clear_value x)))
      | (intro x; clear_value x) | lift_lets -underBinder | (intro s0))

theorem setStream_keep {s0 s : State} {n : Nat} {v : Stream} (hk : Keep s0 s) :
    Keep s0 (setStream n v s) := by
  unfold setStream
  repeat' (
    first
      | with_reducible assumption | with_reducible exact Keep.refl _
      | fail_if_no_progress with_reducible apply keep_upd
      | (intro x; refine Keep.cut (s0 := s0) (x := x) ?_ ?_; (on_goal 1 => dsimp -zeta only [x]); (on_goal 2 => (intro _; clear_value x)))
      | (intro x; clear_value x) | lift_lets -underBinder | (intro s0))

theorem setRing_keep {s0 s : State} {r : Nat} {v : Ring} (hk : Keep s0 s) :
    Keep s0 (setRing r v s) := by
  unfold setRing
  repeat' (
    first
      | with_reducible assumption | with_reducible exact Keep.refl _
      | fail_if_no_progress with_reducible apply keep_upd
      | (intro x; refine Keep.cut (s0 := s0) (x := x) ?_ ?_; (on_goal 1 => dsimp -zeta only [x]); (on_goal 2 => (intro _; clear_value x)))
      | (intro x; clear_value x) | lift_lets -underBinder | (intro s0))

theorem setWindow_keep {s0 s : State} {w : Nat} {v : Window} (hk : Keep s0 s) :
    Keep s0 (setWindow w v s) := by
  unfold setWindow
  repeat' (
    first
      | with_reducible assumption | with_reducible exact Keep.refl _
      | fail_if_no_progress with_reducible apply keep_upd
      | (intro x; refine Keep.cut (s0 := s0) (x := x) ?_ ?_; (on_goal 1 => dsimp -zeta only [x]); (on_goal 2 => (intro _; clear_value x)))
      | (intro x; clear_value x) | lift_lets -underBinder | (intro s0))

theorem setMsix_keep {s0 s : State} {v : Nat} {m : MsixEntry} (hk : Keep s0 s) :
    Keep s0 (setMsix v m s) := by
  unfold setMsix
  repeat' (
    first
      | with_reducible assumption | with_reducible exact Keep.refl _
      | fail_if_no_progress with_reducible apply keep_upd
      | (intro x; refine Keep.cut (s0 := s0) (x := x) ?_ ?_; (on_goal 1 => dsimp -zeta only [x]); (on_goal 2 => (intro _; clear_value x)))
      | (intro x; clear_value x) | lift_lets -underBinder | (intro s0))

theorem setLane_keep {s0 s : State} {l : Nat} {v : Lane} (hk : Keep s0 s) :
    Keep s0 (setLane l v s) := by
  unfold setLane
  repeat' (
    first
      | with_reducible assumption | with_reducible exact Keep.refl _
      | fail_if_no_progress with_reducible apply keep_upd
      | (intro x; refine Keep.cut (s0 := s0) (x := x) ?_ ?_; (on_goal 1 => dsimp -zeta only [x]); (on_goal 2 => (intro _; clear_value x)))
      | (intro x; clear_value x) | lift_lets -underBinder | (intro s0))

theorem setSkaing_keep {s0 s : State} {x : Nat} {v : Skaing} (hk : Keep s0 s) :
    Keep s0 (setSkaing x v s) := by
  unfold setSkaing
  repeat' (
    first
      | with_reducible assumption | with_reducible exact Keep.refl _
      | fail_if_no_progress with_reducible apply keep_upd
      | (intro x; refine Keep.cut (s0 := s0) (x := x) ?_ ?_; (on_goal 1 => dsimp -zeta only [x]); (on_goal 2 => (intro _; clear_value x)))
      | (intro x; clear_value x) | lift_lets -underBinder | (intro s0))

theorem setPtp_keep {s0 s : State} {p : Nat} {v : PtpPort} (hk : Keep s0 s) :
    Keep s0 (setPtp p v s) := by
  unfold setPtp
  repeat' (
    first
      | with_reducible assumption | with_reducible exact Keep.refl _
      | fail_if_no_progress with_reducible apply keep_upd
      | (intro x; refine Keep.cut (s0 := s0) (x := x) ?_ ?_; (on_goal 1 => dsimp -zeta only [x]); (on_goal 2 => (intro _; clear_value x)))
      | (intro x; clear_value x) | lift_lets -underBinder | (intro s0))

theorem setUnit_keep {s0 s : State} {u : Nat} {v : Interval} (hk : Keep s0 s) :
    Keep s0 (setUnit u v s) := by
  unfold setUnit
  repeat' (
    first
      | with_reducible assumption | with_reducible exact Keep.refl _
      | fail_if_no_progress with_reducible apply keep_upd
      | (intro x; refine Keep.cut (s0 := s0) (x := x) ?_ ?_; (on_goal 1 => dsimp -zeta only [x]); (on_goal 2 => (intro _; clear_value x)))
      | (intro x; clear_value x) | lift_lets -underBinder | (intro s0))

theorem setPair_keep {s0 s : State} {p : Nat} {v : SPair} (hk : Keep s0 s) :
    Keep s0 (setPair p v s) := by
  unfold setPair
  repeat' (
    first
      | with_reducible assumption | with_reducible exact Keep.refl _
      | fail_if_no_progress with_reducible apply keep_upd | fail_if_no_progress with_reducible apply keep_safe
      | (intro x; refine Keep.cut (s0 := s0) (x := x) ?_ ?_; (on_goal 1 => dsimp -zeta only [x]); (on_goal 2 => (intro _; clear_value x)))
      | (intro x; refine (fun (_ : Safety) => ?_) x; subst x) | (intro x; clear_value x) | lift_lets -underBinder
      | (intro s0))

theorem setSeqr_keep {s0 s : State} {k : Nat} {v : Seqr} (hk : Keep s0 s) :
    Keep s0 (setSeqr k v s) := by
  unfold setSeqr
  repeat' (
    first
      | with_reducible assumption | with_reducible exact Keep.refl _
      | fail_if_no_progress with_reducible apply keep_upd
      | (intro x; refine Keep.cut (s0 := s0) (x := x) ?_ ?_; (on_goal 1 => dsimp -zeta only [x]); (on_goal 2 => (intro _; clear_value x)))
      | (intro x; clear_value x) | lift_lets -underBinder | (intro s0))

theorem setCond_keep {s0 s : State} {k : Nat} {v : Cond} (hk : Keep s0 s) :
    Keep s0 (setCond k v s) := by
  unfold setCond
  repeat' (
    first
      | with_reducible assumption | with_reducible exact Keep.refl _
      | fail_if_no_progress with_reducible apply keep_upd
      | (intro x; refine Keep.cut (s0 := s0) (x := x) ?_ ?_; (on_goal 1 => dsimp -zeta only [x]); (on_goal 2 => (intro _; clear_value x)))
      | (intro x; clear_value x) | lift_lets -underBinder | (intro s0))

theorem setMask_keep {s0 s : State} {k : Nat} {v : MaskT} (hk : Keep s0 s) :
    Keep s0 (setMask k v s) := by
  unfold setMask
  repeat' (
    first
      | with_reducible assumption | with_reducible exact Keep.refl _
      | fail_if_no_progress with_reducible apply keep_upd
      | (intro x; refine Keep.cut (s0 := s0) (x := x) ?_ ?_; (on_goal 1 => dsimp -zeta only [x]); (on_goal 2 => (intro _; clear_value x)))
      | (intro x; clear_value x) | lift_lets -underBinder | (intro s0))

end Sys2Proof.Machine
end

