-- ==== Sys2Proof/Laws/KeepOperands.lean ====
section
/-! SUPPORT. Each operation of Operands keeps what no command undoes. -/

set_option linter.all false

namespace Sys2Proof.Machine

theorem sendUdp_keep {s0 s : State} {p : Nat} {dest : List Byte} {dport : Nat} {sport : Nat} {df : Bool} {bytes : List Byte} (hk : Keep s0 s) :
    Keep s0 (sendUdp p dest dport sport df bytes s) := by
  unfold sendUdp
  repeat' (
    first
      | with_reducible assumption | with_reducible exact Keep.refl _ | with_reducible apply emit_keep | (intro s0))

theorem sendFrame_keep {s0 s : State} {p : Nat} {mac : List Byte} {etherType : Nat} {bytes : List Byte} (hk : Keep s0 s) :
    Keep s0 (sendFrame p mac etherType bytes s) := by
  unfold sendFrame
  repeat' (
    first
      | with_reducible assumption | with_reducible exact Keep.refl _ | with_reducible apply emit_keep | (intro s0))

end Sys2Proof.Machine
end

