-- ==== Sys2Proof/Laws/KeepEvents.lean ====
section
/-! SUPPORT. Each operation of Events keeps what no command undoes. -/

set_option linter.all false

namespace Sys2Proof.Machine

theorem put2_keep {s0 s : State} {ftype : Nat} {count : Nat} {payload : List Byte} (hk : Keep s0 s) :
    Keep s0 (put2 ftype count payload s) := by
  unfold put2
  repeat' (
    first
      | with_reducible assumption | with_reducible exact Keep.refl _ | with_reducible apply ite_keep
      | fail_if_no_progress with_reducible apply keep_upd
      | (intro x; refine Keep.cut (s0 := s0) (x := x) ?_ ?_; (on_goal 1 => dsimp -zeta only [x]); (on_goal 2 => (intro _; clear_value x)))
      | (intro x; clear_value x) | lift_lets -underBinder | (intro s0) | split)

theorem put3_keep {s0 s : State} {ftype : Nat} {count : Nat} {payload : List Byte} (hk : Keep s0 s) :
    Keep s0 (put3 ftype count payload s) := by
  unfold put3
  repeat' (
    first
      | with_reducible assumption | with_reducible exact Keep.refl _ | with_reducible apply ite_keep
      | fail_if_no_progress with_reducible apply keep_upd
      | (intro x; refine Keep.cut (s0 := s0) (x := x) ?_ ?_; (on_goal 1 => dsimp -zeta only [x]); (on_goal 2 => (intro _; clear_value x)))
      | (intro x; clear_value x) | lift_lets -underBinder | (intro s0) | split)

theorem sramDrain_keep {k : Nat} {s0 s : State} (h : Keep s0 s) : Keep s0 (sramDrain k s) := by
  induction k generalizing s with
  | zero => exact h
  | succ k ih =>
    unfold sramDrain
    refine ite_keep h ?_
    split
    · exact ih (h.trans (keep_upd _ _ _ _ _ _ _ _ _ _ _ _ _ _ _ _ _ _ _ _ _ _ _ _ (Keep.refl _)))
    · exact ih (h.trans (keep_upd _ _ _ _ _ _ _ _ _ _ _ _ _ _ _ _ _ _ _ _ _ _ _ _ (Keep.refl _)))
    · exact h

theorem pushLog_keep {s0 s : State} {e : LogEntry} (hk : Keep s0 s) :
    Keep s0 (pushLog e s) := by
  unfold pushLog
  repeat' (
    first
      | with_reducible assumption | with_reducible exact Keep.refl _ | with_reducible apply ite_keep
      | fail_if_no_progress with_reducible apply keep_upd
      | (intro x; refine Keep.cut (s0 := s0) (x := x) ?_ ?_; (on_goal 1 => dsimp -zeta only [x]); (on_goal 2 => (intro _; clear_value x)))
      | (intro x; clear_value x) | lift_lets -underBinder | (intro s0) | split)

theorem setFault_keep {s0 s : State} {e : FaultEntry} (hk : Keep s0 s) :
    Keep s0 (setFault e s) := by
  unfold setFault
  repeat' (
    first
      | with_reducible assumption | with_reducible exact Keep.refl _
      | fail_if_no_progress with_reducible apply keep_upd
      | (intro x; refine Keep.cut (s0 := s0) (x := x) ?_ ?_; (on_goal 1 => dsimp -zeta only [x]); (on_goal 2 => (intro _; clear_value x)))
      | (intro x; clear_value x) | lift_lets -underBinder | (intro s0))

theorem addCause_keep {s0 s : State} {code : Nat} {subject : Nat} (hk : Keep s0 s) :
    Keep s0 (addCause code subject s) := by
  unfold addCause
  repeat' (
    first
      | with_reducible assumption | with_reducible exact Keep.refl _ | with_reducible apply setFault_keep
      | with_reducible apply ite_keep | fail_if_no_progress with_reducible apply keep_upd
      | (intro x; refine Keep.cut (s0 := s0) (x := x) ?_ ?_; (on_goal 1 => dsimp -zeta only [x]); (on_goal 2 => (intro _; clear_value x)))
      | (intro x; clear_value x) | lift_lets -underBinder | (intro s0) | split)

theorem rootKeep_keep {s0 s : State} {e : LogEntry} {v : Ev} (hk : Keep s0 s) :
    Keep s0 (rootKeep e v s) := by
  unfold rootKeep
  repeat' (
    first
      | with_reducible assumption | with_reducible exact Keep.refl _ | with_reducible apply ite_keep
      | fail_if_no_progress with_reducible apply keep_upd
      | (intro x; refine Keep.cut (s0 := s0) (x := x) ?_ ?_; (on_goal 1 => dsimp -zeta only [x]); (on_goal 2 => (intro _; clear_value x)))
      | (intro x; clear_value x) | lift_lets -underBinder | (intro s0) | split)

theorem keepLog_keep {s0 s : State} {e : LogEntry} (hk : Keep s0 s) :
    Keep s0 (keepLog e s) := by
  unfold keepLog
  repeat' (
    first
      | with_reducible assumption | with_reducible exact Keep.refl _ | with_reducible apply pushLog_keep
      | with_reducible apply rootKeep_keep | with_reducible apply ite_keep | (intro s0) | split)

theorem keepWith_keep {s0 s : State} {e : LogEntry} {v : Ev} (hk : Keep s0 s) :
    Keep s0 (keepWith e v s) := by
  unfold keepWith
  repeat' (
    first
      | with_reducible assumption | with_reducible exact Keep.refl _ | with_reducible apply pushLog_keep
      | with_reducible apply rootKeep_keep | with_reducible apply ite_keep | (intro s0) | split)

theorem logSet_keep {s0 s : State} {e : LogEntry} {v : Ev} (hk : Keep s0 s) :
    Keep s0 (logSet e v s) := by
  unfold logSet
  repeat' (
    first
      | with_reducible assumption | with_reducible exact Keep.refl _ | with_reducible apply setFault_keep
      | with_reducible apply rootKeep_keep | with_reducible apply keepWith_keep | with_reducible apply ite_keep
      | fail_if_no_progress with_reducible apply keep_upd
      | (intro x; refine Keep.cut (s0 := s0) (x := x) ?_ ?_; (on_goal 1 => dsimp -zeta only [x]); (on_goal 2 => (intro _; clear_value x)))
      | (intro x; clear_value x) | lift_lets -underBinder | (intro s0) | split)

theorem logClear_keep {s0 s : State} {e : LogEntry} (hk : Keep s0 s) :
    Keep s0 (logClear e s) := by
  unfold logClear
  repeat' (
    first
      | with_reducible assumption | with_reducible exact Keep.refl _ | with_reducible apply setFault_keep
      | with_reducible apply keepLog_keep | with_reducible apply ite_keep
      | fail_if_no_progress with_reducible apply keep_upd
      | (intro x; refine Keep.cut (s0 := s0) (x := x) ?_ ?_; (on_goal 1 => dsimp -zeta only [x]); (on_goal 2 => (intro _; clear_value x)))
      | (intro x; clear_value x) | lift_lets -underBinder | (intro s0) | split)

theorem clearCause_keep {s0 s : State} {ecode : Nat} {subject : Nat} (hk : Keep s0 s) :
    Keep s0 (clearCause ecode subject s) := by
  unfold clearCause
  repeat' (
    first
      | with_reducible assumption | with_reducible exact Keep.refl _ | with_reducible apply setFault_keep
      | with_reducible apply logClear_keep | with_reducible apply ite_keep
      | fail_if_no_progress with_reducible apply keep_upd
      | (intro x; refine Keep.cut (s0 := s0) (x := x) ?_ ?_; (on_goal 1 => dsimp -zeta only [x]); (on_goal 2 => (intro _; clear_value x)))
      | (intro x; clear_value x) | lift_lets -underBinder | (intro s0) | split)

theorem issueRecord_keep {s0 s : State} {ecode : Nat} {eflags : Nat} {strm : Nat} {time : List Byte} {body : List Byte} (hk : Keep s0 s) :
    Keep s0 (issueRecord ecode eflags strm time body s) := by
  unfold issueRecord
  repeat' (
    first
      | with_reducible assumption | with_reducible exact Keep.refl _ | with_reducible apply put2_keep
      | fail_if_no_progress with_reducible apply keep_upd
      | (intro x; refine Keep.cut (s0 := s0) (x := x) ?_ ?_; (on_goal 1 => dsimp -zeta only [x]); (on_goal 2 => (intro _; clear_value x)))
      | (intro x; clear_value x) | lift_lets -underBinder | (intro s0))

theorem issueAt_keep {s0 s : State} {e : Ev} {eflags : Nat} {lflags : Nat} {count : Nat} {detail : List Byte} {time : List Byte} (hk : Keep s0 s) :
    Keep s0 (issueAt e eflags lflags count detail time s) := by
  unfold issueAt
  repeat' (
    first
      | with_reducible assumption | with_reducible exact Keep.refl _ | with_reducible apply setFault_keep
      | with_reducible apply logSet_keep | with_reducible apply logClear_keep
      | with_reducible apply issueRecord_keep | with_reducible apply ite_keep
      | fail_if_no_progress with_reducible apply keep_upd
      | (intro x; refine Keep.cut (s0 := s0) (x := x) ?_ ?_; (on_goal 1 => dsimp -zeta only [x]); (on_goal 2 => (intro _; clear_value x)))
      | (intro x; clear_value x) | lift_lets -underBinder | (intro s0) | split)

theorem issue_keep {s0 s : State} {e : Ev} (hk : Keep s0 s) :
    Keep s0 (issue e s) := by
  unfold issue
  repeat' (
    first
      | with_reducible assumption | with_reducible exact Keep.refl _ | with_reducible apply issueAt_keep
      | with_reducible apply ite_keep | (intro s0) | split)

theorem issueNote_keep {s0 s : State} {e : Ev} {count : Nat} (hk : Keep s0 s) :
    Keep s0 (issueNote e count s) := by
  unfold issueNote
  repeat' (
    first
      | with_reducible assumption | with_reducible exact Keep.refl _ | with_reducible apply pushLog_keep
      | with_reducible apply rootKeep_keep | with_reducible apply issueRecord_keep | with_reducible apply ite_keep
      | (intro x; refine Keep.cut (s0 := s0) (x := x) ?_ ?_; (on_goal 1 => dsimp -zeta only [x]); (on_goal 2 => (intro _; clear_value x)))
      | (intro x; clear_value x) | lift_lets -underBinder | (intro s0) | split)

theorem raiseRoot_keep {s0 s : State} {e : Ev} (hk : Keep s0 s) :
    Keep s0 (raiseRoot e s) := by
  unfold raiseRoot
  repeat' (
    first
      | with_reducible assumption | with_reducible exact Keep.refl _ | with_reducible apply setFault_keep
      | with_reducible apply rootKeep_keep | with_reducible apply logSet_keep | with_reducible apply ite_keep
      | fail_if_no_progress with_reducible apply keep_upd
      | (intro x; refine Keep.cut (s0 := s0) (x := x) ?_ ?_; (on_goal 1 => dsimp -zeta only [x]); (on_goal 2 => (intro _; clear_value x)))
      | (intro x; clear_value x) | lift_lets -underBinder | (intro s0) | split)

theorem raiseCoalesced_keep {s0 s : State} {e : Ev} (hk : Keep s0 s) :
    Keep s0 (raiseCoalesced e s) := by
  unfold raiseCoalesced
  repeat' (
    first
      | with_reducible assumption | with_reducible exact Keep.refl _ | with_reducible apply ite_keep
      | fail_if_no_progress with_reducible apply keep_upd
      | (intro x; refine Keep.cut (s0 := s0) (x := x) ?_ ?_; (on_goal 1 => dsimp -zeta only [x]); (on_goal 2 => (intro _; clear_value x)))
      | (intro x; clear_value x) | lift_lets -underBinder | (intro s0) | split)

theorem raise_keep {s0 s : State} {e : Ev} (hk : Keep s0 s) :
    Keep s0 (raise e s) := by
  unfold raise
  repeat' (
    first
      | with_reducible assumption | with_reducible exact Keep.refl _ | with_reducible apply when_keep
      | with_reducible apply addCause_keep | with_reducible apply issue_keep | with_reducible apply raiseRoot_keep
      | with_reducible apply raiseCoalesced_keep | with_reducible apply ite_keep
      | (intro x; refine Keep.cut (s0 := s0) (x := x) ?_ ?_; (on_goal 1 => dsimp -zeta only [x]); (on_goal 2 => (intro _; clear_value x)))
      | (intro x; clear_value x) | lift_lets -underBinder | (intro s0) | split)

theorem raiseOnce_keep {s0 s : State} {e : Ev} (hk : Keep s0 s) :
    Keep s0 (raiseOnce e s) := by
  unfold raiseOnce
  repeat' (
    first
      | with_reducible assumption | with_reducible exact Keep.refl _ | with_reducible apply raise_keep
      | with_reducible apply ite_keep | (intro s0) | split)

theorem handOver_keep {s0 s : State} (hk : Keep s0 s) :
    Keep s0 (handOver s) := by
  unfold handOver
  repeat' (
    first
      | with_reducible assumption | with_reducible exact Keep.refl _ | with_reducible apply foldl_keep
      | with_reducible apply pushLog_keep | with_reducible apply setFault_keep
      | with_reducible apply issueRecord_keep | with_reducible apply ite_keep
      | fail_if_no_progress with_reducible apply keep_upd
      | (intro x; refine Keep.cut (s0 := s0) (x := x) ?_ ?_; (on_goal 1 => dsimp -zeta only [x]); (on_goal 2 => (intro _; clear_value x)))
      | (intro x; clear_value x) | lift_lets -underBinder | (intro s0) | split)

theorem issueCoalesced_keep {s0 s : State} {w : CoalWin} {outcome : Nat} (hk : Keep s0 s) :
    Keep s0 (issueCoalesced w outcome s) := by
  unfold issueCoalesced
  repeat' (
    first
      | with_reducible assumption | with_reducible exact Keep.refl _ | with_reducible apply issueAt_keep
      | with_reducible apply ite_keep | fail_if_no_progress with_reducible apply keep_upd
      | (intro x; refine Keep.cut (s0 := s0) (x := x) ?_ ?_; (on_goal 1 => dsimp -zeta only [x]); (on_goal 2 => (intro _; clear_value x)))
      | (intro x; clear_value x) | lift_lets -underBinder | (intro s0) | split)

theorem raiseOrigWith_keep {s0 s : State} {extra : List Byte} {ecode : Nat} {idKind : Nat} {port : Nat} {ident : List Byte} {n : Nat} (hk : Keep s0 s) :
    Keep s0 (raiseOrigWith extra ecode idKind port ident n s) := by
  unfold raiseOrigWith
  repeat' (
    first
      | with_reducible assumption | with_reducible exact Keep.refl _ | with_reducible apply ite_keep
      | fail_if_no_progress with_reducible apply keep_upd
      | (intro x; refine Keep.cut (s0 := s0) (x := x) ?_ ?_; (on_goal 1 => dsimp -zeta only [x]); (on_goal 2 => (intro _; clear_value x)))
      | (intro x; clear_value x) | lift_lets -underBinder | (intro s0) | split)

theorem raiseOrig_keep {s0 s : State} {ecode : Nat} {idKind : Nat} {port : Nat} {ident : List Byte} {n : Nat} (hk : Keep s0 s) :
    Keep s0 (raiseOrig ecode idKind port ident n s) := by
  unfold raiseOrig
  repeat' (
    first
      | with_reducible assumption | with_reducible exact Keep.refl _ | with_reducible apply raiseOrigWith_keep
      | (intro s0))

theorem dropWin_keep {s0 s : State} {ecode : Nat} {q : Nat} (hk : Keep s0 s) :
    Keep s0 (dropWin ecode q s) := by
  unfold dropWin
  repeat' (
    first
      | with_reducible assumption | with_reducible exact Keep.refl _
      | fail_if_no_progress with_reducible apply keep_upd
      | (intro x; refine Keep.cut (s0 := s0) (x := x) ?_ ?_; (on_goal 1 => dsimp -zeta only [x]); (on_goal 2 => (intro _; clear_value x)))
      | (intro x; clear_value x) | lift_lets -underBinder | (intro s0))

theorem putWin_keep {s0 s : State} {w : CoalWin} (hk : Keep s0 s) :
    Keep s0 (putWin w s) := by
  unfold putWin
  repeat' (
    first
      | with_reducible assumption | with_reducible exact Keep.refl _ | with_reducible apply ite_keep
      | fail_if_no_progress with_reducible apply keep_upd
      | (intro x; refine Keep.cut (s0 := s0) (x := x) ?_ ?_; (on_goal 1 => dsimp -zeta only [x]); (on_goal 2 => (intro _; clear_value x)))
      | (intro x; clear_value x) | lift_lets -underBinder | (intro s0) | split)

theorem coalesceEnd_keep {s0 s : State} {ecode : Nat} {q : Nat} (hk : Keep s0 s) :
    Keep s0 (coalesceEnd ecode q s) := by
  unfold coalesceEnd
  repeat' (
    first
      | with_reducible assumption | with_reducible exact Keep.refl _ | with_reducible apply foldl_keep
      | with_reducible apply issue_keep | with_reducible apply issueCoalesced_keep
      | with_reducible apply dropWin_keep | with_reducible apply putWin_keep | with_reducible apply ite_keep
      | fail_if_no_progress with_reducible apply keep_upd
      | (intro x; refine Keep.cut (s0 := s0) (x := x) ?_ ?_; (on_goal 1 => dsimp -zeta only [x]); (on_goal 2 => (intro _; clear_value x)))
      | (intro x; clear_value x) | lift_lets -underBinder | (intro s0) | split)

theorem coalesceRepeat_keep {s0 s : State} {ecode : Nat} {q : Nat} (hk : Keep s0 s) :
    Keep s0 (coalesceRepeat ecode q s) := by
  unfold coalesceRepeat
  repeat' (
    first
      | with_reducible assumption | with_reducible exact Keep.refl _ | with_reducible apply issueCoalesced_keep
      | with_reducible apply dropWin_keep | with_reducible apply putWin_keep | with_reducible apply ite_keep
      | fail_if_no_progress with_reducible apply keep_upd
      | (intro x; refine Keep.cut (s0 := s0) (x := x) ?_ ?_; (on_goal 1 => dsimp -zeta only [x]); (on_goal 2 => (intro _; clear_value x)))
      | (intro x; clear_value x) | lift_lets -underBinder | (intro s0) | split)

theorem originSecond_keep {s0 s : State} (hk : Keep s0 s) :
    Keep s0 (originSecond s) := by
  unfold originSecond
  repeat' (
    first
      | with_reducible assumption | with_reducible exact Keep.refl _ | with_reducible apply foldl_keep
      | with_reducible apply issueAt_keep | with_reducible apply ite_keep
      | fail_if_no_progress with_reducible apply keep_upd
      | (intro x; refine Keep.cut (s0 := s0) (x := x) ?_ ?_; (on_goal 1 => dsimp -zeta only [x]); (on_goal 2 => (intro _; clear_value x)))
      | (intro x; clear_value x) | lift_lets -underBinder | (intro s0) | split)

theorem flapEnd_keep {s0 s : State} (hk : Keep s0 s) :
    Keep s0 (flapEnd s) := by
  unfold flapEnd
  repeat' (
    first
      | with_reducible assumption | with_reducible exact Keep.refl _ | with_reducible apply foldl_keep
      | with_reducible apply keepLog_keep | with_reducible apply ite_keep
      | fail_if_no_progress with_reducible apply keep_upd
      | (intro x; refine Keep.cut (s0 := s0) (x := x) ?_ ?_; (on_goal 1 => dsimp -zeta only [x]); (on_goal 2 => (intro _; clear_value x)))
      | (intro x; clear_value x) | lift_lets -underBinder | (intro s0) | split)

end Sys2Proof.Machine
end

