-- ==== Sys2Proof/Laws/KeepJournal.lean ====
section
/-! SUPPORT. Each operation of Journal keeps what no command undoes. -/

set_option linter.all false

namespace Sys2Proof.Machine

theorem jProgram_keep {s0 s : State} {e : JEntry} (hk : Keep s0 s) :
    Keep s0 (jProgram e s) := by
  unfold jProgram
  repeat' (
    first
      | with_reducible assumption | with_reducible exact Keep.refl _ | with_reducible apply ite_keep
      | fail_if_no_progress with_reducible apply keep_upd | fail_if_no_progress with_reducible apply keep_flash
      | (intro x; refine Keep.cut (s0 := s0) (x := x) ?_ ?_; (on_goal 1 => dsimp -zeta only [x]); (on_goal 2 => (intro _; clear_value x)))
      | (intro x; refine (fun (_ : Flash) => ?_) x; subst x) | (intro x; clear_value x) | lift_lets -underBinder
      | (intro s0) | split)

theorem jWrite_keep {s0 s : State} {e : JEntry} (hk : Keep s0 s) :
    Keep s0 (jWrite e s) := by
  unfold jWrite
  repeat' (
    first
      | with_reducible assumption | with_reducible exact Keep.refl _ | with_reducible apply jProgram_keep
      | with_reducible apply ite_keep | fail_if_no_progress with_reducible apply keep_upd
      | fail_if_no_progress with_reducible apply keep_flash
      | (intro x; refine Keep.cut (s0 := s0) (x := x) ?_ ?_; (on_goal 1 => dsimp -zeta only [x]); (on_goal 2 => (intro _; clear_value x)))
      | (intro x; refine (fun (_ : Flash) => ?_) x; subst x) | (intro x; clear_value x) | lift_lets -underBinder
      | (intro s0) | split)

theorem jMirror_keep {s0 s : State} (hk : Keep s0 s) :
    Keep s0 (jMirror s) := by
  unfold jMirror
  repeat' (
    first
      | with_reducible assumption | with_reducible exact Keep.refl _ | with_reducible apply foldl_keep
      | with_reducible apply put3_keep | with_reducible apply ite_keep
      | fail_if_no_progress with_reducible apply keep_upd
      | (intro x; refine Keep.cut (s0 := s0) (x := x) ?_ ?_; (on_goal 1 => dsimp -zeta only [x]); (on_goal 2 => (intro _; clear_value x)))
      | (intro x; clear_value x) | lift_lets -underBinder | (intro s0) | split)

theorem jAppend_keep {s0 s : State} {e : JEntry} (hk : Keep s0 s) :
    Keep s0 (jAppend e s) := by
  unfold jAppend
  repeat' (
    first
      | with_reducible assumption | with_reducible exact Keep.refl _ | with_reducible apply raiseOnce_keep
      | with_reducible apply jWrite_keep | with_reducible apply jMirror_keep | with_reducible apply ite_keep
      | fail_if_no_progress with_reducible apply keep_upd | fail_if_no_progress with_reducible apply keep_flash
      | (intro x; refine Keep.cut (s0 := s0) (x := x) ?_ ?_; (on_goal 1 => dsimp -zeta only [x]); (on_goal 2 => (intro _; clear_value x)))
      | (intro x; refine (fun (_ : Flash) => ?_) x; subst x) | (intro x; clear_value x) | lift_lets -underBinder
      | (intro s0) | split)

theorem jSplit_keep {s0 s : State} {e : JEntry} {unit : Nat} {body : List Byte} (hk : Keep s0 s) :
    Keep s0 (jSplit e unit body s) := by
  unfold jSplit
  repeat' (
    first
      | with_reducible assumption | with_reducible exact Keep.refl _ | with_reducible apply foldl_keep
      | with_reducible apply jAppend_keep | fail_if_no_progress with_reducible apply keep_upd
      | (intro x; refine Keep.cut (s0 := s0) (x := x) ?_ ?_; (on_goal 1 => dsimp -zeta only [x]); (on_goal 2 => (intro _; clear_value x)))
      | (intro x; clear_value x) | lift_lets -underBinder | (intro s0))

theorem jInternalAt_keep {s0 s : State} {port : Nat} {time : List Byte} {kind : Nat} {body : List Byte} (hk : Keep s0 s) :
    Keep s0 (jInternalAt port time kind body s) := by
  unfold jInternalAt
  repeat' (
    first
      | with_reducible assumption | with_reducible exact Keep.refl _ | with_reducible apply jAppend_keep
      | fail_if_no_progress with_reducible apply keep_upd
      | (intro x; refine Keep.cut (s0 := s0) (x := x) ?_ ?_; (on_goal 1 => dsimp -zeta only [x]); (on_goal 2 => (intro _; clear_value x)))
      | (intro x; clear_value x) | lift_lets -underBinder | (intro s0))

theorem jInternal_keep {s0 s : State} {kind : Nat} {body : List Byte} (hk : Keep s0 s) :
    Keep s0 (jInternal kind body s) := by
  unfold jInternal
  repeat' (
    first
      | with_reducible assumption | with_reducible exact Keep.refl _ | with_reducible apply jInternalAt_keep
      | (intro s0))

theorem jCommand_keep {s0 s : State} {r : Req} {accepted : Bool} {unit : Nat} {body : List Byte} (hk : Keep s0 s) :
    Keep s0 (jCommand r accepted unit body s) := by
  unfold jCommand
  repeat' (
    first
      | with_reducible assumption | with_reducible exact Keep.refl _ | with_reducible apply jSplit_keep
      | with_reducible apply ite_keep | fail_if_no_progress with_reducible apply keep_upd
      | (intro x; refine Keep.cut (s0 := s0) (x := x) ?_ ?_; (on_goal 1 => dsimp -zeta only [x]); (on_goal 2 => (intro _; clear_value x)))
      | (intro x; clear_value x) | lift_lets -underBinder | (intro s0) | split)

theorem jDone_keep {s0 s : State} {r : Req} {reply : List Byte} (hk : Keep s0 s) :
    Keep s0 (jDone r reply s) := by
  unfold jDone
  repeat' (
    first
      | with_reducible assumption | with_reducible exact Keep.refl _ | with_reducible apply jCommand_keep
      | (intro s0))

theorem tearLast_keep {s0 s : State} (hk : Keep s0 s) :
    Keep s0 (tearLast s) := by
  unfold tearLast
  repeat' (
    first
      | with_reducible assumption | with_reducible exact Keep.refl _
      | fail_if_no_progress with_reducible apply keep_upd | fail_if_no_progress with_reducible apply keep_flash
      | (intro x; refine Keep.cut (s0 := s0) (x := x) ?_ ?_; (on_goal 1 => dsimp -zeta only [x]); (on_goal 2 => (intro _; clear_value x)))
      | (intro x; refine (fun (_ : Flash) => ?_) x; subst x) | (intro x; clear_value x) | lift_lets -underBinder
      | (intro s0))

theorem jTail_keep {s0 s : State} (hk : Keep s0 s) :
    Keep s0 (jTail s) := by
  unfold jTail
  repeat' (
    first
      | with_reducible assumption | with_reducible exact Keep.refl _ | with_reducible apply jInternal_keep
      | with_reducible apply tearLast_keep | with_reducible apply ite_keep
      | fail_if_no_progress with_reducible apply keep_upd
      | (intro x; refine Keep.cut (s0 := s0) (x := x) ?_ ?_; (on_goal 1 => dsimp -zeta only [x]); (on_goal 2 => (intro _; clear_value x)))
      | (intro x; clear_value x) | lift_lets -underBinder | (intro s0) | split)

end Sys2Proof.Machine
end

