-- ==== Sys2Proof/Laws/KeepKeys.lean ====
section
/-! SUPPORT. Each operation of Keys keeps what no command undoes. -/

set_option linter.all false

namespace Sys2Proof.Machine

theorem programKeys_keep {s0 s : State} {k : Keys} (hk : Keep s0 s) :
    Keep s0 (programKeys k s) := by
  unfold programKeys
  repeat' (
    first
      | with_reducible assumption | with_reducible exact Keep.refl _ | with_reducible apply ite_keep
      | fail_if_no_progress with_reducible apply keep_upd | fail_if_no_progress with_reducible apply keep_flash
      | (intro x; refine Keep.cut (s0 := s0) (x := x) ?_ ?_; (on_goal 1 => dsimp -zeta only [x]); (on_goal 2 => (intro _; clear_value x)))
      | (intro x; refine (fun (_ : Flash) => ?_) x; subst x) | (intro x; clear_value x) | lift_lets -underBinder
      | (intro s0) | split)

theorem loadKeys_keep {s0 s : State} (hk : Keep s0 s) :
    Keep s0 (loadKeys s) := by
  unfold loadKeys
  repeat' (
    first
      | with_reducible assumption | with_reducible exact Keep.refl _
      | fail_if_no_progress with_reducible apply keep_upd | fail_if_no_progress with_reducible apply keep_flash
      | (intro x; refine Keep.cut (s0 := s0) (x := x) ?_ ?_; (on_goal 1 => dsimp -zeta only [x]); (on_goal 2 => (intro _; clear_value x)))
      | (intro x; refine (fun (_ : Flash) => ?_) x; subst x) | (intro x; clear_value x) | lift_lets -underBinder
      | (intro s0))

end Sys2Proof.Machine
end

