-- ==== Sys2Proof/Laws/KeepCuzan.lean ====
section
/-! SUPPORT. Each operation of Cuzan keeps what no command undoes. -/

set_option linter.all false

namespace Sys2Proof.Machine

theorem putSession_keep {s0 s : State} {v : Session} (hk : Keep s0 s) :
    Keep s0 (putSession v s) := by
  unfold putSession
  repeat' (
    first
      | with_reducible assumption | with_reducible exact Keep.refl _ | with_reducible apply ite_keep
      | fail_if_no_progress with_reducible apply keep_upd
      | (intro x; refine Keep.cut (s0 := s0) (x := x) ?_ ?_; (on_goal 1 => dsimp -zeta only [x]); (on_goal 2 => (intro _; clear_value x)))
      | (intro x; clear_value x) | lift_lets -underBinder | (intro s0) | split)

theorem onSession_keep {s0 s : State} {id : Nat} {f : Session → Session} (hk : Keep s0 s) :
    Keep s0 (onSession id f s) := by
  unfold onSession
  repeat' (
    first
      | with_reducible assumption | with_reducible exact Keep.refl _ | with_reducible apply ite_keep
      | fail_if_no_progress with_reducible apply keep_upd
      | (intro x; refine Keep.cut (s0 := s0) (x := x) ?_ ?_; (on_goal 1 => dsimp -zeta only [x]); (on_goal 2 => (intro _; clear_value x)))
      | (intro x; clear_value x) | lift_lets -underBinder | (intro s0) | split)

theorem sendBytes_keep {s0 s : State} {port : Nat} {source : List Byte} {srcPort : Nat} {bytes : List Byte} (hk : Keep s0 s) :
    Keep s0 (sendBytes port source srcPort bytes s) := by
  unfold sendBytes
  repeat' (
    first
      | with_reducible assumption | with_reducible exact Keep.refl _ | with_reducible apply sendUdp_keep
      | with_reducible apply ite_keep | fail_if_no_progress with_reducible apply keep_upd
      | (intro x; refine Keep.cut (s0 := s0) (x := x) ?_ ?_; (on_goal 1 => dsimp -zeta only [x]); (on_goal 2 => (intro _; clear_value x)))
      | (intro x; clear_value x) | lift_lets -underBinder | (intro s0) | split)

theorem sendReply_keep {s0 s : State} {v : Session} {r : Req} {status : Nat} {final : Bool} {body : List Byte} (hk : Keep s0 s) :
    Keep s0 (sendReply v r status final body s) := by
  unfold sendReply
  repeat' (
    first
      | with_reducible assumption | with_reducible exact Keep.refl _ | with_reducible apply foldl_keep
      | with_reducible apply onSession_keep | with_reducible apply sendBytes_keep | with_reducible apply ite_keep
      | fail_if_no_progress with_reducible apply keep_upd
      | (intro x; refine Keep.cut (s0 := s0) (x := x) ?_ ?_; (on_goal 1 => dsimp -zeta only [x]); (on_goal 2 => (intro _; clear_value x)))
      | (intro x; clear_value x) | lift_lets -underBinder | (intro s0) | split)

theorem replyIn_keep {s0 s : State} {v : Session} {r : Req} {status : Nat} {final : Bool} {body : List Byte} (hk : Keep s0 s) :
    Keep s0 (replyIn v r status final body s) := by
  unfold replyIn
  repeat' (
    first
      | with_reducible assumption | with_reducible exact Keep.refl _ | with_reducible apply sendReply_keep
      | with_reducible apply ite_keep | fail_if_no_progress with_reducible apply keep_upd
      | (intro x; refine Keep.cut (s0 := s0) (x := x) ?_ ?_; (on_goal 1 => dsimp -zeta only [x]); (on_goal 2 => (intro _; clear_value x)))
      | (intro x; clear_value x) | lift_lets -underBinder | (intro s0) | split)

theorem replyTo_keep {s0 s : State} {r : Req} {status : Nat} {final : Bool} {body : List Byte} (hk : Keep s0 s) :
    Keep s0 (replyTo r status final body s) := by
  unfold replyTo
  repeat' (
    first
      | with_reducible assumption | with_reducible exact Keep.refl _ | with_reducible apply replyIn_keep
      | fail_if_no_progress with_reducible apply keep_upd
      | (intro x; refine Keep.cut (s0 := s0) (x := x) ?_ ?_; (on_goal 1 => dsimp -zeta only [x]); (on_goal 2 => (intro _; clear_value x)))
      | (intro x; clear_value x) | lift_lets -underBinder | (intro s0) | split)

theorem answer_keep {s0 s : State} {r : Req} {status : Nat} {body : List Byte} (hk : Keep s0 s) :
    Keep s0 (answer r status body s) := by
  unfold answer
  repeat' (
    first
      | with_reducible assumption | with_reducible exact Keep.refl _ | with_reducible apply replyTo_keep
      | (intro s0))

theorem queued_keep {s0 s : State} {r : Req} {body : List Byte} (hk : Keep s0 s) :
    Keep s0 (queued r body s) := by
  unfold queued
  repeat' (
    first
      | with_reducible assumption | with_reducible exact Keep.refl _ | with_reducible apply replyTo_keep
      | (intro s0))

theorem refuse_keep {s0 s : State} {r : Req} {status : Nat} (hk : Keep s0 s) :
    Keep s0 (refuse r status s) := by
  unfold refuse
  repeat' (
    first
      | with_reducible assumption | with_reducible exact Keep.refl _ | with_reducible apply answer_keep
      | fail_if_no_progress with_reducible apply keep_upd
      | (intro x; refine Keep.cut (s0 := s0) (x := x) ?_ ?_; (on_goal 1 => dsimp -zeta only [x]); (on_goal 2 => (intro _; clear_value x)))
      | (intro x; clear_value x) | lift_lets -underBinder | (intro s0))

theorem faulted_keep {s0 s : State} {r : Req} {ecode : Nat} (hk : Keep s0 s) :
    Keep s0 (faulted r ecode s) := by
  unfold faulted
  repeat' (
    first
      | with_reducible assumption | with_reducible exact Keep.refl _ | with_reducible apply answer_keep
      | fail_if_no_progress with_reducible apply keep_upd
      | (intro x; refine Keep.cut (s0 := s0) (x := x) ?_ ?_; (on_goal 1 => dsimp -zeta only [x]); (on_goal 2 => (intro _; clear_value x)))
      | (intro x; clear_value x) | lift_lets -underBinder | (intro s0))

theorem answerOr_keep {s0 s : State} {r : Req} {status : Nat} {body : List Byte} {ecode : Nat} (hk : Keep s0 s) :
    Keep s0 (answerOr r status body ecode s) := by
  unfold answerOr
  repeat' (
    first
      | with_reducible assumption | with_reducible exact Keep.refl _ | with_reducible apply raise_keep
      | with_reducible apply replyIn_keep | fail_if_no_progress with_reducible apply keep_upd
      | (intro x; refine Keep.cut (s0 := s0) (x := x) ?_ ?_; (on_goal 1 => dsimp -zeta only [x]); (on_goal 2 => (intro _; clear_value x)))
      | (intro x; clear_value x) | lift_lets -underBinder | (intro s0) | split)

theorem refuseOr_keep {s0 s : State} {r : Req} {status : Nat} (hk : Keep s0 s) :
    Keep s0 (refuseOr r status s) := by
  unfold refuseOr
  repeat' (
    first
      | with_reducible assumption | with_reducible exact Keep.refl _ | with_reducible apply answerOr_keep
      | fail_if_no_progress with_reducible apply keep_upd
      | (intro x; refine Keep.cut (s0 := s0) (x := x) ?_ ?_; (on_goal 1 => dsimp -zeta only [x]); (on_goal 2 => (intro _; clear_value x)))
      | (intro x; clear_value x) | lift_lets -underBinder | (intro s0))

theorem faultedOr_keep {s0 s : State} {r : Req} {ecode : Nat} (hk : Keep s0 s) :
    Keep s0 (faultedOr r ecode s) := by
  unfold faultedOr
  repeat' (
    first
      | with_reducible assumption | with_reducible exact Keep.refl _ | with_reducible apply answerOr_keep
      | fail_if_no_progress with_reducible apply keep_upd
      | (intro x; refine Keep.cut (s0 := s0) (x := x) ?_ ?_; (on_goal 1 => dsimp -zeta only [x]); (on_goal 2 => (intro _; clear_value x)))
      | (intro x; clear_value x) | lift_lets -underBinder | (intro s0))

theorem dropSession_keep {s0 s : State} {id : Nat} (hk : Keep s0 s) :
    Keep s0 (dropSession id s) := by
  unfold dropSession
  repeat' (
    first
      | with_reducible assumption | with_reducible exact Keep.refl _
      | fail_if_no_progress with_reducible apply keep_upd
      | (intro x; refine Keep.cut (s0 := s0) (x := x) ?_ ?_; (on_goal 1 => dsimp -zeta only [x]); (on_goal 2 => (intro _; clear_value x)))
      | (intro x; clear_value x) | lift_lets -underBinder | (intro s0))

theorem resend_keep {s0 s : State} {v : Session} {r : Req} {tag : Nat} (hk : Keep s0 s) :
    Keep s0 (resend v r tag s) := by
  unfold resend
  repeat' (
    first
      | with_reducible assumption | with_reducible exact Keep.refl _ | with_reducible apply foldl_keep
      | with_reducible apply sendBytes_keep | with_reducible apply ite_keep
      | (intro x; refine Keep.cut (s0 := s0) (x := x) ?_ ?_; (on_goal 1 => dsimp -zeta only [x]); (on_goal 2 => (intro _; clear_value x)))
      | (intro x; clear_value x) | lift_lets -underBinder | (intro s0) | split)

theorem dropPacket_keep {s0 s : State} {p : Packet} {auth : Bool} (hk : Keep s0 s) :
    Keep s0 (dropPacket p auth s) := by
  unfold dropPacket
  repeat' (
    first
      | with_reducible assumption | with_reducible exact Keep.refl _ | with_reducible apply raiseOrig_keep
      | with_reducible apply ite_keep | fail_if_no_progress with_reducible apply keep_upd
      | (intro x; refine Keep.cut (s0 := s0) (x := x) ?_ ?_; (on_goal 1 => dsimp -zeta only [x]); (on_goal 2 => (intro _; clear_value x)))
      | (intro x; clear_value x) | lift_lets -underBinder | (intro s0) | split)

theorem answerBare_keep {s0 s : State} {op : Nat} {p : Packet} {status : Nat} (hk : Keep s0 s) :
    Keep s0 (answerBare op p status s) := by
  unfold answerBare
  repeat' (
    first
      | with_reducible assumption | with_reducible exact Keep.refl _ | with_reducible apply foldl_keep
      | with_reducible apply sendBytes_keep | (intro s0))

theorem passChecks_keep {s0 s : State} {row : OpRow} {p : Packet} {v : Session} {r : Req} {need : Nat} {ok : Bool} {aligned : Req → State → Bool} {body : Req → State → State} (hbody : ∀ x0 t, Keep t (body x0 t)) (hk : Keep s0 s) :
    Keep s0 (passChecks row p v r need ok aligned body s) := by
  unfold passChecks
  repeat' (
    first
      | with_reducible assumption | with_reducible exact Keep.refl _
      | with_reducible refine Keep.trans ?_ (hbody _ _) | with_reducible apply onSession_keep
      | with_reducible apply refuse_keep | with_reducible apply faulted_keep | with_reducible apply ite_keep
      | fail_if_no_progress with_reducible apply keep_upd
      | (intro x; refine Keep.cut (s0 := s0) (x := x) ?_ ?_; (on_goal 1 => dsimp -zeta only [x]); (on_goal 2 => (intro _; clear_value x)))
      | (intro x; clear_value x) | lift_lets -underBinder | (intro s0) | split)

theorem serveAt_keep {s0 s : State} {aligned : Req → State → Bool} {op : Nat} {need : Req → State → Nat} {ok : Req → State → Bool} {body : Req → State → State} {p : Packet} (hbody : ∀ x0 t, Keep t (body x0 t)) (hk : Keep s0 s) :
    Keep s0 (serveAt aligned op need ok body p s) := by
  unfold serveAt
  repeat' (
    first
      | with_reducible assumption | with_reducible exact Keep.refl _
      | with_reducible refine Keep.trans ?_ (hbody _ _) | with_reducible apply onSession_keep
      | with_reducible apply refuse_keep | with_reducible apply resend_keep | with_reducible apply dropPacket_keep
      | with_reducible apply answerBare_keep | with_reducible apply passChecks_keep | with_reducible apply ite_keep
      | fail_if_no_progress with_reducible apply keep_upd
      | (intro x; refine Keep.cut (s0 := s0) (x := x) ?_ ?_; (on_goal 1 => dsimp -zeta only [x]); (on_goal 2 => (intro _; clear_value x)))
      | (intro x; clear_value x) | lift_lets -underBinder | (intro s0) | split)

theorem serve_keep {s0 s : State} {op : Nat} {need : Req → State → Nat} {ok : Req → State → Bool} {body : Req → State → State} {p : Packet} (hbody : ∀ x0 t, Keep t (body x0 t)) (hk : Keep s0 s) :
    Keep s0 (serve op need ok body p s) := by
  unfold serve
  repeat' (
    first
      | with_reducible assumption | with_reducible exact Keep.refl _
      | with_reducible refine Keep.trans ?_ (hbody _ _) | with_reducible apply serveAt_keep | (intro s0))

theorem receive_keep {s0 s : State} {op : Nat} {p : Packet} {take : Packet → State → State} (htake : ∀ x0 t, Keep t (take x0 t)) (hk : Keep s0 s) :
    Keep s0 (receive op p take s) := by
  unfold receive
  repeat' (
    first
      | with_reducible assumption | with_reducible exact Keep.refl _
      | with_reducible refine Keep.trans ?_ (htake _ _) | with_reducible apply ite_keep
      | fail_if_no_progress with_reducible apply keep_upd
      | (intro x; refine Keep.cut (s0 := s0) (x := x) ?_ ?_; (on_goal 1 => dsimp -zeta only [x]); (on_goal 2 => (intro _; clear_value x)))
      | (intro x; clear_value x) | lift_lets -underBinder | (intro s0) | split)

end Sys2Proof.Machine
end

