-- ==== Sys2Proof/Laws/KeepStore.lean ====
section
/-! SUPPORT. Each operation of Store keeps what no command undoes. -/

set_option linter.all false

namespace Sys2Proof.Machine

theorem seqRoom_keep {s0 s : State} {n : Nat} {i : Nat} (hk : Keep s0 s) :
    Keep s0 (seqRoom n i s) := by
  unfold seqRoom
  repeat' (
    first
      | with_reducible assumption | with_reducible exact Keep.refl _ | with_reducible apply setStream_keep
      | with_reducible apply ite_keep | fail_if_no_progress with_reducible apply keep_upd
      | fail_if_no_progress with_reducible apply keep_flash
      | (intro x; refine Keep.cut (s0 := s0) (x := x) ?_ ?_; (on_goal 1 => dsimp -zeta only [x]); (on_goal 2 => (intro _; clear_value x)))
      | (intro x; refine (fun (_ : Flash) => ?_) x; subst x) | (intro x; clear_value x) | lift_lets -underBinder
      | (intro s0) | split)

theorem noteContinuity_keep {s0 s : State} {n : Nat} (hk : Keep s0 s) :
    Keep s0 (noteContinuity n s) := by
  unfold noteContinuity
  repeat' (
    first
      | with_reducible assumption | with_reducible exact Keep.refl _ | with_reducible apply ite_keep
      | fail_if_no_progress with_reducible apply keep_upd
      | (intro x; refine Keep.cut (s0 := s0) (x := x) ?_ ?_; (on_goal 1 => dsimp -zeta only [x]); (on_goal 2 => (intro _; clear_value x)))
      | (intro x; clear_value x) | lift_lets -underBinder | (intro s0) | split)

theorem pushFolio_keep {s0 s : State} {n : Nat} {f : Folio} (hk : Keep s0 s) :
    Keep s0 (pushFolio n f s) := by
  unfold pushFolio
  repeat' (
    first
      | with_reducible assumption | with_reducible exact Keep.refl _ | with_reducible apply setStream_keep
      | with_reducible apply noteContinuity_keep | with_reducible apply ite_keep
      | fail_if_no_progress with_reducible apply keep_upd
      | (intro x; refine Keep.cut (s0 := s0) (x := x) ?_ ?_; (on_goal 1 => dsimp -zeta only [x]); (on_goal 2 => (intro _; clear_value x)))
      | (intro x; clear_value x) | lift_lets -underBinder | (intro s0) | split)

theorem shed_keep {s0 s t : State} {n : Nat} (h : Keep s0 s) (e : shed n s = some t) : Keep s0 t := by
  unfold shed at e
  dsimp only at e
  split at e
  · injection e with e; rw [← e]; exact setStream_keep h
  · cases e

theorem stallAt_keep {s0 s : State} {n : Nat} {f : Folio} (hk : Keep s0 s) :
    Keep s0 (stallAt n f s) := by
  unfold stallAt
  repeat' (
    first
      | with_reducible assumption | with_reducible exact Keep.refl _ | with_reducible apply setStream_keep
      | fail_if_no_progress with_reducible apply keep_upd
      | (intro x; refine Keep.cut (s0 := s0) (x := x) ?_ ?_; (on_goal 1 => dsimp -zeta only [x]); (on_goal 2 => (intro _; clear_value x)))
      | (intro x; clear_value x) | lift_lets -underBinder | (intro s0))

theorem shedFor_keep {need n k : Nat} {s0 s t : State} (h : Keep s0 s) (e : shedFor need n k s = some t) : Keep s0 t := by
  induction k generalizing s t with
  | zero => unfold shedFor at e; cases e
  | succ k ih =>
    unfold shedFor at e
    split at e
    · cases e
    · rename_i u hu
      have hk : Keep s0 u := by
        split at hu
        · exact shed_keep h hu
        · cases hu
      split at e
      · injection e with e; rw [← e]; exact hk
      · injection e with e
        rw [← e]
        cases f : shedFor need n k u with
        | none => exact hk
        | some w => exact ih hk f

theorem writeInto_keep {s0 s : State} {kept n : Nat} {f : Folio} (h : Keep s0 s) : Keep s0 (writeInto kept n f s) := by
  unfold writeInto
  refine ite_keep h (ite_keep (pushFolio_keep h) ?_)
  have k : Keep s0 ((shedFor (f.slots + kept) n (stream s n).q.folios.length s).getD s) := by
    cases e : shedFor (f.slots + kept) n (stream s n).q.folios.length s with
    | none => exact h
    | some t => exact shedFor_keep h e
  exact ite_keep (pushFolio_keep k) (stallAt_keep k)

theorem writeFolio_keep {s0 s : State} {n : Nat} {f : Folio} (hk : Keep s0 s) :
    Keep s0 (writeFolio n f s) := by
  unfold writeFolio
  repeat' (
    first
      | with_reducible assumption | with_reducible exact Keep.refl _ | with_reducible apply writeInto_keep
      | (intro s0))

theorem closeOpen_keep {s0 s : State} {n : Nat} {flushed : Bool} (hk : Keep s0 s) :
    Keep s0 (closeOpen n flushed s) := by
  unfold closeOpen
  repeat' (
    first
      | with_reducible assumption | with_reducible exact Keep.refl _ | with_reducible apply setStream_keep
      | with_reducible apply writeFolio_keep | with_reducible apply ite_keep
      | fail_if_no_progress with_reducible apply keep_upd
      | (intro x; refine Keep.cut (s0 := s0) (x := x) ?_ ?_; (on_goal 1 => dsimp -zeta only [x]); (on_goal 2 => (intro _; clear_value x)))
      | (intro x; clear_value x) | lift_lets -underBinder | (intro s0) | split)

theorem append_keep {s0 s : State} {n : Nat} {ftype : Nat} {i : Nat} {slot : Nat} {last : Nat} {bytes : Nat → List Byte} {flag : List Byte} (hk : Keep s0 s) :
    Keep s0 (append n ftype i slot last bytes flag s) := by
  unfold append
  repeat' (
    first
      | with_reducible assumption | with_reducible exact Keep.refl _ | with_reducible apply setStream_keep
      | with_reducible apply closeOpen_keep | with_reducible apply ite_keep
      | fail_if_no_progress with_reducible apply keep_upd
      | (intro x; refine Keep.cut (s0 := s0) (x := x) ?_ ?_; (on_goal 1 => dsimp -zeta only [x]); (on_goal 2 => (intro _; clear_value x)))
      | (intro x; clear_value x) | lift_lets -underBinder | (intro s0) | split)

theorem emitGroup_keep {s0 s : State} {n : Nat} (hk : Keep s0 s) :
    Keep s0 (emitGroup n s) := by
  unfold emitGroup
  repeat' (
    first
      | with_reducible assumption | with_reducible exact Keep.refl _ | with_reducible apply foldl_keep
      | with_reducible apply setStream_keep | with_reducible apply append_keep
      | fail_if_no_progress with_reducible apply keep_upd
      | (intro x; refine Keep.cut (s0 := s0) (x := x) ?_ ?_; (on_goal 1 => dsimp -zeta only [x]); (on_goal 2 => (intro _; clear_value x)))
      | (intro x; clear_value x) | lift_lets -underBinder | (intro s0))

theorem cutOpen_keep {s0 s : State} {n : Nat} (hk : Keep s0 s) :
    Keep s0 (cutOpen n s) := by
  unfold cutOpen
  repeat' (
    first
      | with_reducible assumption | with_reducible exact Keep.refl _ | with_reducible apply closeOpen_keep
      | with_reducible apply emitGroup_keep | (intro s0))

theorem appendDense_keep {s0 s : State} {n : Nat} {i : Nat} {l : List Sample} (hk : Keep s0 s) :
    Keep s0 (appendDense n i l s) := by
  unfold appendDense
  repeat' (
    first
      | with_reducible assumption | with_reducible exact Keep.refl _ | with_reducible apply foldl_keep
      | with_reducible apply append_keep | with_reducible apply ite_keep
      | (intro x; refine Keep.cut (s0 := s0) (x := x) ?_ ?_; (on_goal 1 => dsimp -zeta only [x]); (on_goal 2 => (intro _; clear_value x)))
      | (intro x; clear_value x) | lift_lets -underBinder | (intro s0) | split)

theorem appendSparse_keep {s0 s : State} {n : Nat} {i : Nat} {l : List Sample} (hk : Keep s0 s) :
    Keep s0 (appendSparse n i l s) := by
  unfold appendSparse
  repeat' (
    first
      | with_reducible assumption | with_reducible exact Keep.refl _ | with_reducible apply foldl_keep
      | with_reducible apply setStream_keep | with_reducible apply append_keep | with_reducible apply ite_keep
      | fail_if_no_progress with_reducible apply keep_upd
      | (intro x; refine Keep.cut (s0 := s0) (x := x) ?_ ?_; (on_goal 1 => dsimp -zeta only [x]); (on_goal 2 => (intro _; clear_value x)))
      | (intro x; clear_value x) | lift_lets -underBinder | (intro s0) | split)

theorem appendMinMax_keep {s0 s : State} {n : Nat} {i : Nat} {l : List Sample} (hk : Keep s0 s) :
    Keep s0 (appendMinMax n i l s) := by
  unfold appendMinMax
  repeat' (
    first
      | with_reducible assumption | with_reducible exact Keep.refl _ | with_reducible apply foldl_keep
      | with_reducible apply setStream_keep | with_reducible apply emitGroup_keep | with_reducible apply ite_keep
      | fail_if_no_progress with_reducible apply keep_upd
      | (intro x; refine Keep.cut (s0 := s0) (x := x) ?_ ?_; (on_goal 1 => dsimp -zeta only [x]); (on_goal 2 => (intro _; clear_value x)))
      | (intro x; clear_value x) | lift_lets -underBinder | (intro s0) | split)

theorem appendSample_keep {s0 s : State} {n : Nat} {i : Nat} {l : List Sample} (hk : Keep s0 s) :
    Keep s0 (appendSample n i l s) := by
  unfold appendSample
  repeat' (
    first
      | with_reducible assumption | with_reducible exact Keep.refl _ | with_reducible apply appendDense_keep
      | with_reducible apply appendSparse_keep | with_reducible apply appendMinMax_keep
      | with_reducible apply ite_keep | (intro s0) | split)

theorem restate_keep {s0 s : State} {n : Nat} (hk : Keep s0 s) :
    Keep s0 (restate n s) := by
  unfold restate
  repeat' (
    first
      | with_reducible assumption | with_reducible exact Keep.refl _ | with_reducible apply setStream_keep
      | fail_if_no_progress with_reducible apply keep_upd
      | (intro x; refine Keep.cut (s0 := s0) (x := x) ?_ ?_; (on_goal 1 => dsimp -zeta only [x]); (on_goal 2 => (intro _; clear_value x)))
      | (intro x; clear_value x) | lift_lets -underBinder | (intro s0))

theorem putGaps_keep {s0 s : State} {kept : Nat} {n : Nat} {l : List GapRec} (hk : Keep s0 s) :
    Keep s0 (putGaps kept n l s) := by
  unfold putGaps
  repeat' (
    first
      | with_reducible assumption | with_reducible exact Keep.refl _ | with_reducible apply foldl_keep
      | with_reducible apply setStream_keep | with_reducible apply writeInto_keep
      | with_reducible apply cutOpen_keep | with_reducible apply restate_keep | with_reducible apply ite_keep
      | fail_if_no_progress with_reducible apply keep_upd
      | (intro x; refine Keep.cut (s0 := s0) (x := x) ?_ ?_; (on_goal 1 => dsimp -zeta only [x]); (on_goal 2 => (intro _; clear_value x)))
      | (intro x; clear_value x) | lift_lets -underBinder | (intro s0) | split)

theorem writeGaps_keep {s0 s : State} {n : Nat} {l : List GapRec} (hk : Keep s0 s) :
    Keep s0 (writeGaps n l s) := by
  unfold writeGaps
  repeat' (
    first
      | with_reducible assumption | with_reducible exact Keep.refl _ | with_reducible apply forAll_keep
      | with_reducible apply putGaps_keep | (intro s0))

theorem writeDiscs_keep {s0 s : State} {n : Nat} {fflags : Nat} {l : List DiscRec} (hk : Keep s0 s) :
    Keep s0 (writeDiscs n fflags l s) := by
  unfold writeDiscs
  repeat' (
    first
      | with_reducible assumption | with_reducible exact Keep.refl _ | with_reducible apply setStream_keep
      | with_reducible apply writeFolio_keep | with_reducible apply cutOpen_keep | with_reducible apply restate_keep
      | with_reducible apply ite_keep | fail_if_no_progress with_reducible apply keep_upd
      | (intro x; refine Keep.cut (s0 := s0) (x := x) ?_ ?_; (on_goal 1 => dsimp -zeta only [x]); (on_goal 2 => (intro _; clear_value x)))
      | (intro x; clear_value x) | lift_lets -underBinder | (intro s0) | split)

theorem dueDisc_keep {s0 s : State} {n : Nat} {d : DiscRec} (hk : Keep s0 s) :
    Keep s0 (dueDisc n d s) := by
  unfold dueDisc
  repeat' (
    first
      | with_reducible assumption | with_reducible exact Keep.refl _ | with_reducible apply setStream_keep
      | fail_if_no_progress with_reducible apply keep_upd
      | (intro x; refine Keep.cut (s0 := s0) (x := x) ?_ ?_; (on_goal 1 => dsimp -zeta only [x]); (on_goal 2 => (intro _; clear_value x)))
      | (intro x; clear_value x) | lift_lets -underBinder | (intro s0))

theorem dueGap_keep {s0 s : State} {n : Nat} {g : GapRec} (hk : Keep s0 s) :
    Keep s0 (dueGap n g s) := by
  unfold dueGap
  repeat' (
    first
      | with_reducible assumption | with_reducible exact Keep.refl _ | with_reducible apply setStream_keep
      | fail_if_no_progress with_reducible apply keep_upd
      | (intro x; refine Keep.cut (s0 := s0) (x := x) ?_ ?_; (on_goal 1 => dsimp -zeta only [x]); (on_goal 2 => (intro _; clear_value x)))
      | (intro x; clear_value x) | lift_lets -underBinder | (intro s0))

theorem placeRecords_keep {s0 s : State} {n : Nat} {index : Nat} (hk : Keep s0 s) :
    Keep s0 (placeRecords n index s) := by
  unfold placeRecords
  repeat' (
    first
      | with_reducible assumption | with_reducible exact Keep.refl _ | with_reducible apply setStream_keep
      | with_reducible apply seqRoom_keep | with_reducible apply writeGaps_keep
      | with_reducible apply writeDiscs_keep | with_reducible apply ite_keep
      | fail_if_no_progress with_reducible apply keep_upd
      | (intro x; refine Keep.cut (s0 := s0) (x := x) ?_ ?_; (on_goal 1 => dsimp -zeta only [x]); (on_goal 2 => (intro _; clear_value x)))
      | (intro x; clear_value x) | lift_lets -underBinder | (intro s0) | split)

theorem closeMarks_keep {s0 s : State} (hk : Keep s0 s) :
    Keep s0 (closeMarks s) := by
  unfold closeMarks
  repeat' (
    first
      | with_reducible assumption | with_reducible exact Keep.refl _ | with_reducible apply put2_keep
      | with_reducible apply ite_keep | fail_if_no_progress with_reducible apply keep_upd
      | (intro x; refine Keep.cut (s0 := s0) (x := x) ?_ ?_; (on_goal 1 => dsimp -zeta only [x]); (on_goal 2 => (intro _; clear_value x)))
      | (intro x; clear_value x) | lift_lets -underBinder | (intro s0) | split)

theorem markRecord_keep {s0 s : State} {b : List Byte} (hk : Keep s0 s) :
    Keep s0 (markRecord b s) := by
  unfold markRecord
  repeat' (
    first
      | with_reducible assumption | with_reducible exact Keep.refl _ | with_reducible apply closeMarks_keep
      | with_reducible apply ite_keep | fail_if_no_progress with_reducible apply keep_upd
      | (intro x; refine Keep.cut (s0 := s0) (x := x) ?_ ?_; (on_goal 1 => dsimp -zeta only [x]); (on_goal 2 => (intro _; clear_value x)))
      | (intro x; clear_value x) | lift_lets -underBinder | (intro s0) | split)

theorem closeWindows_keep {s0 s : State} {n : Nat} (hk : Keep s0 s) :
    Keep s0 (closeWindows n s) := by
  unfold closeWindows
  repeat' (
    first
      | with_reducible assumption | with_reducible exact Keep.refl _ | with_reducible apply foldl_keep
      | with_reducible apply setStream_keep | with_reducible apply markRecord_keep | with_reducible apply ite_keep
      | fail_if_no_progress with_reducible apply keep_upd
      | (intro x; refine Keep.cut (s0 := s0) (x := x) ?_ ?_; (on_goal 1 => dsimp -zeta only [x]); (on_goal 2 => (intro _; clear_value x)))
      | (intro x; clear_value x) | lift_lets -underBinder | (intro s0) | split)

theorem freeFolios_keep {s0 s : State} {n : Nat} (hk : Keep s0 s) :
    Keep s0 (freeFolios n s) := by
  unfold freeFolios
  repeat' (
    first
      | with_reducible assumption | with_reducible exact Keep.refl _ | with_reducible apply setStream_keep
      | with_reducible apply noteContinuity_keep | with_reducible apply ite_keep
      | fail_if_no_progress with_reducible apply keep_upd
      | (intro x; refine Keep.cut (s0 := s0) (x := x) ?_ ?_; (on_goal 1 => dsimp -zeta only [x]); (on_goal 2 => (intro _; clear_value x)))
      | (intro x; clear_value x) | lift_lets -underBinder | (intro s0) | split)

theorem ackStream_keep {s0 s : State} {n : Nat} {seq : Nat} (hk : Keep s0 s) :
    Keep s0 (ackStream n seq s) := by
  unfold ackStream
  repeat' (
    first
      | with_reducible assumption | with_reducible exact Keep.refl _ | with_reducible apply setStream_keep
      | with_reducible apply noteContinuity_keep | with_reducible apply closeWindows_keep
      | with_reducible apply freeFolios_keep | fail_if_no_progress with_reducible apply keep_upd
      | (intro x; refine Keep.cut (s0 := s0) (x := x) ?_ ?_; (on_goal 1 => dsimp -zeta only [x]); (on_goal 2 => (intro _; clear_value x)))
      | (intro x; clear_value x) | lift_lets -underBinder | (intro s0))

theorem stallEnds_keep {s0 s t : State} {n : Nat} (h : Keep s0 s) (e : stallEnds n s = some t) : Keep s0 t := by
  unfold stallEnds at e
  split at e
  · injection e with e; rw [← e]; exact h
  · exact shedFor_keep h e

theorem onLastRun_keep {s0 s : State} {n : Nat} {f : State → State} (hf : ∀ t, Keep t (f t)) (hk : Keep s0 s) :
    Keep s0 (onLastRun n f s) := by
  unfold onLastRun
  repeat' (
    first
      | with_reducible assumption | with_reducible exact Keep.refl _ | with_reducible refine Keep.trans ?_ (hf _)
      | with_reducible apply setStream_keep | fail_if_no_progress with_reducible apply keep_upd
      | (intro x; refine Keep.cut (s0 := s0) (x := x) ?_ ?_; (on_goal 1 => dsimp -zeta only [x]); (on_goal 2 => (intro _; clear_value x)))
      | (intro x; clear_value x) | lift_lets -underBinder | (intro s0) | split)

theorem resumeRun_keep {s0 s : State} {n : Nat} (hk : Keep s0 s) :
    Keep s0 (resumeRun n s) := by
  unfold resumeRun
  repeat' (
    first
      | with_reducible assumption | with_reducible exact Keep.refl _ | with_reducible apply foldl_keep
      | with_reducible apply setStream_keep | with_reducible apply putGaps_keep
      | with_reducible apply writeDiscs_keep | fail_if_no_progress with_reducible apply keep_upd
      | (intro x; refine Keep.cut (s0 := s0) (x := x) ?_ ?_; (on_goal 1 => dsimp -zeta only [x]); (on_goal 2 => (intro _; clear_value x)))
      | (intro x; clear_value x) | lift_lets -underBinder | with_reducible refine stallEnds_keep ?_ ‹_› | (intro s0)
      | split)

theorem resumeStall_keep {s0 s : State} {n : Nat} (hk : Keep s0 s) :
    Keep s0 (resumeStall n s) := by
  unfold resumeStall
  repeat' (
    first
      | with_reducible assumption | with_reducible exact Keep.refl _ | with_reducible apply onLastRun_keep
      | with_reducible apply resumeRun_keep | (intro s0))

end Sys2Proof.Machine
end

