-- ==== Sys2Proof/Laws/KeepHostPort.lean ====
section
/-! SUPPORT. Each operation of HostPort keeps what no command undoes. -/

set_option linter.all false

namespace Sys2Proof.Machine

theorem signal_keep {s0 s : State} {v : Nat} (hk : Keep s0 s) :
    Keep s0 (signal v s) := by
  unfold signal
  repeat' (
    first
      | with_reducible assumption | with_reducible exact Keep.refl _ | with_reducible apply emit_keep
      | with_reducible apply setMsix_keep | with_reducible apply ite_keep
      | fail_if_no_progress with_reducible apply keep_upd
      | (intro x; refine Keep.cut (s0 := s0) (x := x) ?_ ?_; (on_goal 1 => dsimp -zeta only [x]); (on_goal 2 => (intro _; clear_value x)))
      | (intro x; clear_value x) | lift_lets -underBinder | (intro s0) | split)

theorem regError_keep {s0 s : State} {off : Nat} (hk : Keep s0 s) :
    Keep s0 (regError off s) := by
  unfold regError
  repeat' (
    first
      | with_reducible assumption | with_reducible exact Keep.refl _ | with_reducible apply signal_keep
      | with_reducible apply ite_keep | fail_if_no_progress with_reducible apply keep_upd
      | (intro x; refine Keep.cut (s0 := s0) (x := x) ?_ ?_; (on_goal 1 => dsimp -zeta only [x]); (on_goal 2 => (intro _; clear_value x)))
      | (intro x; clear_value x) | lift_lets -underBinder | (intro s0) | split)

theorem ringVector_keep {s0 s : State} {r : Nat} (hk : Keep s0 s) :
    Keep s0 (ringVector r s) := by
  unfold ringVector
  repeat' (
    first
      | with_reducible assumption | with_reducible exact Keep.refl _ | with_reducible apply signal_keep | (intro s0))

theorem complete_keep {s0 s : State} {r : Nat} (hk : Keep s0 s) :
    Keep s0 (complete r s) := by
  unfold complete
  repeat' (
    first
      | with_reducible assumption | with_reducible exact Keep.refl _ | with_reducible apply setRing_keep
      | with_reducible apply ringVector_keep | with_reducible apply ite_keep
      | fail_if_no_progress with_reducible apply keep_upd
      | (intro x; refine Keep.cut (s0 := s0) (x := x) ?_ ?_; (on_goal 1 => dsimp -zeta only [x]); (on_goal 2 => (intro _; clear_value x)))
      | (intro x; clear_value x) | lift_lets -underBinder | (intro s0) | split)

theorem abandonFw_keep {s0 s : State} (h : Keep s0 s) : Keep s0 (abandonFw s) := by
  refine h.trans ?_
  unfold abandonFw
  split
  · exact Keep.refl _
  · dsimp only
    split
    · exact ⟨rfl, rfl, Nat.le_refl _, Nat.le_refl _, Nat.le_refl _, id, id, fun k => ⟨Memory.wf_put (by decide) k.1, k.2⟩, Nat.le_refl _⟩
    · exact ⟨rfl, rfl, Nat.le_refl _, Nat.le_refl _, Nat.le_refl _, id, id,
        fun k => ⟨k.1, Memory.wf_put (by decide) k.2.1, k.2.2⟩, Nat.le_refl _⟩
    · exact ⟨rfl, rfl, Nat.le_refl _, Nat.le_refl _, Nat.le_refl _, id, id,
        fun k => ⟨k.1, k.2.1, Memory.wf_put (by decide) k.2.2⟩, Nat.le_refl _⟩

theorem endSession_keep {s0 s : State} {id : Nat} (hk : Keep s0 s) :
    Keep s0 (endSession id s) := by
  unfold endSession
  repeat' (
    first
      | with_reducible assumption | with_reducible exact Keep.refl _ | with_reducible apply dropSession_keep
      | with_reducible apply abandonFw_keep | with_reducible apply ite_keep
      | fail_if_no_progress with_reducible apply keep_upd
      | (intro x; refine Keep.cut (s0 := s0) (x := x) ?_ ?_; (on_goal 1 => dsimp -zeta only [x]); (on_goal 2 => (intro _; clear_value x)))
      | (intro x; clear_value x) | lift_lets -underBinder | (intro s0) | split)

theorem dropReplies_keep {s0 s : State} {id : Nat} (hk : Keep s0 s) :
    Keep s0 (dropReplies id s) := by
  unfold dropReplies
  repeat' (
    first
      | with_reducible assumption | with_reducible exact Keep.refl _ | with_reducible apply ite_keep
      | fail_if_no_progress with_reducible apply keep_upd
      | (intro x; refine Keep.cut (s0 := s0) (x := x) ?_ ?_; (on_goal 1 => dsimp -zeta only [x]); (on_goal 2 => (intro _; clear_value x)))
      | (intro x; clear_value x) | lift_lets -underBinder | (intro s0) | split)

theorem closeSession_keep {s0 s : State} {id : Nat} (hk : Keep s0 s) :
    Keep s0 (closeSession id s) := by
  unfold closeSession
  repeat' (
    first
      | with_reducible assumption | with_reducible exact Keep.refl _ | with_reducible apply endSession_keep
      | with_reducible apply dropReplies_keep | (intro s0))

theorem closePort_keep {s0 s : State} {p : Nat} (hk : Keep s0 s) :
    Keep s0 (closePort p s) := by
  unfold closePort
  repeat' (
    first
      | with_reducible assumption | with_reducible exact Keep.refl _ | with_reducible apply forAll_keep
      | with_reducible apply closeSession_keep | (intro s0))

theorem setRingQ_keep {s0 s : State} {r : Nat} {q : FolioQ} (hk : Keep s0 s) :
    Keep s0 (setRingQ r q s) := by
  unfold setRingQ
  repeat' (
    first
      | with_reducible assumption | with_reducible exact Keep.refl _ | with_reducible apply setStream_keep
      | with_reducible apply ite_keep | fail_if_no_progress with_reducible apply keep_upd
      | (intro x; refine Keep.cut (s0 := s0) (x := x) ?_ ?_; (on_goal 1 => dsimp -zeta only [x]); (on_goal 2 => (intro _; clear_value x)))
      | (intro x; clear_value x) | lift_lets -underBinder | (intro s0) | split)

theorem haltRing_keep {s0 s : State} {r : Nat} {code : Nat} {offset : Nat} {addr : Nat} (hk : Keep s0 s) :
    Keep s0 (haltRing r code offset addr s) := by
  unfold haltRing
  repeat' (
    first
      | with_reducible assumption | with_reducible exact Keep.refl _ | with_reducible apply when_keep
      | with_reducible apply setRing_keep | with_reducible apply raise_keep | with_reducible apply signal_keep
      | with_reducible apply ringVector_keep | with_reducible apply setRingQ_keep
      | fail_if_no_progress with_reducible apply keep_upd
      | (intro x; refine Keep.cut (s0 := s0) (x := x) ?_ ?_; (on_goal 1 => dsimp -zeta only [x]); (on_goal 2 => (intro _; clear_value x)))
      | (intro x; clear_value x) | lift_lets -underBinder | (intro s0))

theorem unhalt_keep {s0 s : State} {r : Nat} (hk : Keep s0 s) :
    Keep s0 (unhalt r s) := by
  unfold unhalt
  repeat' (
    first
      | with_reducible assumption | with_reducible exact Keep.refl _ | with_reducible apply clearCause_keep
      | (intro s0))

theorem transfer_keep {s0 s : State} {r : Nat} {d : Descriptor} {buf : List Byte} {more : Bool} {status : Nat} {seq : Nat} {bytes : Nat} (hk : Keep s0 s) :
    Keep s0 (transfer r d buf more status seq bytes s).1 := by
  unfold transfer
  repeat' (
    first
      | with_reducible assumption | with_reducible exact Keep.refl _ | with_reducible apply emitAll_keep
      | with_reducible apply setRing_keep | with_reducible apply complete_keep | with_reducible apply haltRing_keep
      | with_reducible apply ite_keep | fail_if_no_progress with_reducible apply keep_upd
      | (intro x; refine Keep.cut (s0 := s0) (x := x) ?_ ?_; (on_goal 1 => dsimp -zeta only [x]); (on_goal 2 => (intro _; clear_value x)))
      | (intro x; clear_value x) | lift_lets -underBinder | dsimp -zeta only | (intro s0) | split)

theorem settle_keep {s0 s : State} {r : Nat} (hk : Keep s0 s) :
    Keep s0 (settle r s) := by
  unfold settle
  repeat' (
    first
      | with_reducible assumption | with_reducible exact Keep.refl _ | with_reducible apply setRing_keep
      | with_reducible apply ite_keep | fail_if_no_progress with_reducible apply keep_upd
      | (intro x; refine Keep.cut (s0 := s0) (x := x) ?_ ?_; (on_goal 1 => dsimp -zeta only [x]); (on_goal 2 => (intro _; clear_value x)))
      | (intro x; clear_value x) | lift_lets -underBinder | (intro s0) | split)

theorem deliver_keep {s0 s : State} {r : Nat} {d : Descriptor} (hk : Keep s0 s) :
    Keep s0 (deliver r d s) := by
  unfold deliver
  repeat' (
    first
      | with_reducible assumption | with_reducible exact Keep.refl _ | with_reducible apply setRing_keep
      | with_reducible apply closeWindows_keep | with_reducible apply setRingQ_keep
      | with_reducible apply transfer_keep | with_reducible apply settle_keep | with_reducible apply ite_keep
      | fail_if_no_progress with_reducible apply keep_upd
      | (intro x; refine Keep.cut (s0 := s0) (x := x) ?_ ?_; (on_goal 1 => dsimp -zeta only [x]); (on_goal 2 => (intro _; clear_value x)))
      | (intro x; refine Keep.cut (s0 := s0) (x := x.1) ?_ ?_; (on_goal 1 => dsimp -zeta only [x]); (on_goal 2 => (intro _; clear_value x)))
      | (intro x; clear_value x) | lift_lets -underBinder | (intro s0) | split)

theorem deliverReply_keep {s0 s : State} (ds : List Descriptor) (h : Keep s0 s) : Keep s0 (deliverReply ds s) := by
  induction ds generalizing s with
  | nil => exact h
  | cons d r ih =>
    cases hb : s.host.backlog with
    | nil => unfold deliverReply; simp only [hb]; exact h
    | cons b rest =>
      unfold deliverReply; simp only [hb]
      refine ite_keep h (ite_keep (transfer_keep h) (ite_keep (ih ?_) ?_))
      · exact (transfer_keep h).trans (keep_upd _ _ _ _ _ _ _ _ _ _ _ _ _ _ _ _ _ _ _ _ _ _ _ _ (Keep.refl _))
      · exact (transfer_keep h).trans (keep_upd _ _ _ _ _ _ _ _ _ _ _ _ _ _ _ _ _ _ _ _ _ _ _ _ (Keep.refl _))

theorem ackRing_keep {s0 s : State} {r : Nat} {v : Nat} (hk : Keep s0 s) :
    Keep s0 (ackRing r v s) := by
  unfold ackRing
  repeat' (
    first
      | with_reducible assumption | with_reducible exact Keep.refl _ | with_reducible apply setRing_keep
      | with_reducible apply sramDrain_keep | with_reducible apply ackStream_keep
      | with_reducible apply setRingQ_keep | with_reducible apply ite_keep
      | fail_if_no_progress with_reducible apply keep_upd
      | (intro x; refine Keep.cut (s0 := s0) (x := x) ?_ ?_; (on_goal 1 => dsimp -zeta only [x]); (on_goal 2 => (intro _; clear_value x)))
      | (intro x; clear_value x) | lift_lets -underBinder | (intro s0) | split)

theorem enableRing_keep {s0 s : State} {r : Nat} {log2 : Nat} (hk : Keep s0 s) :
    Keep s0 (enableRing r log2 s) := by
  unfold enableRing
  repeat' (
    first
      | with_reducible assumption | with_reducible exact Keep.refl _ | with_reducible apply setRing_keep
      | with_reducible apply ite_keep | fail_if_no_progress with_reducible apply keep_upd
      | (intro x; refine Keep.cut (s0 := s0) (x := x) ?_ ?_; (on_goal 1 => dsimp -zeta only [x]); (on_goal 2 => (intro _; clear_value x)))
      | (intro x; clear_value x) | lift_lets -underBinder | (intro s0) | split)

theorem disableRing_keep {s0 s : State} {r : Nat} (hk : Keep s0 s) :
    Keep s0 (disableRing r s) := by
  unfold disableRing
  repeat' (
    first
      | with_reducible assumption | with_reducible exact Keep.refl _ | with_reducible apply setRing_keep
      | with_reducible apply unhalt_keep | with_reducible apply settle_keep | with_reducible apply ite_keep
      | fail_if_no_progress with_reducible apply keep_upd
      | (intro x; refine Keep.cut (s0 := s0) (x := x) ?_ ?_; (on_goal 1 => dsimp -zeta only [x]); (on_goal 2 => (intro _; clear_value x)))
      | (intro x; clear_value x) | lift_lets -underBinder | (intro s0) | split)

theorem resumeRing_keep {s0 s : State} {r : Nat} (hk : Keep s0 s) :
    Keep s0 (resumeRing r s) := by
  unfold resumeRing
  repeat' (
    first
      | with_reducible assumption | with_reducible exact Keep.refl _ | with_reducible apply setRing_keep
      | with_reducible apply unhalt_keep | with_reducible apply ite_keep
      | fail_if_no_progress with_reducible apply keep_upd
      | (intro x; refine Keep.cut (s0 := s0) (x := x) ?_ ?_; (on_goal 1 => dsimp -zeta only [x]); (on_goal 2 => (intro _; clear_value x)))
      | (intro x; clear_value x) | lift_lets -underBinder | (intro s0) | split)

theorem discardInto_keep {s0 s : State} {r : Nat} {run : List Folio} (hk : Keep s0 s) :
    Keep s0 (discardInto r run s) := by
  unfold discardInto
  repeat' (
    first
      | with_reducible assumption | with_reducible exact Keep.refl _ | with_reducible apply setStream_keep
      | with_reducible apply sramDrain_keep | with_reducible apply restate_keep | with_reducible apply setRingQ_keep
      | with_reducible apply ite_keep | fail_if_no_progress with_reducible apply keep_upd
      | (intro x; refine Keep.cut (s0 := s0) (x := x) ?_ ?_; (on_goal 1 => dsimp -zeta only [x]); (on_goal 2 => (intro _; clear_value x)))
      | (intro x; clear_value x) | lift_lets -underBinder | (intro s0) | split)

theorem discardRing_keep {s0 s : State} {r : Nat} (hk : Keep s0 s) :
    Keep s0 (discardRing r s) := by
  unfold discardRing
  repeat' (
    first
      | with_reducible assumption | with_reducible exact Keep.refl _ | with_reducible apply issueNote_keep
      | with_reducible apply regError_keep | with_reducible apply resumeRing_keep
      | with_reducible apply discardInto_keep | with_reducible apply ite_keep
      | (intro x; refine Keep.cut (s0 := s0) (x := x) ?_ ?_; (on_goal 1 => dsimp -zeta only [x]); (on_goal 2 => (intro _; clear_value x)))
      | (intro x; clear_value x) | lift_lets -underBinder | (intro s0) | split)

theorem windowControl_keep {s0 s : State} {w : Nat} {v : Nat} {off : Nat} (hk : Keep s0 s) :
    Keep s0 (windowControl w v off s) := by
  unfold windowControl
  repeat' (
    first
      | with_reducible assumption | with_reducible exact Keep.refl _ | with_reducible apply setWindow_keep
      | with_reducible apply regError_keep | with_reducible apply ite_keep
      | fail_if_no_progress with_reducible apply keep_upd
      | (intro x; refine Keep.cut (s0 := s0) (x := x) ?_ ?_; (on_goal 1 => dsimp -zeta only [x]); (on_goal 2 => (intro _; clear_value x)))
      | (intro x; clear_value x) | lift_lets -underBinder | (intro s0) | split)

theorem windowBase_keep {s0 s : State} {w : Nat} {host : Bool} {v : Nat} {off : Nat} (hk : Keep s0 s) :
    Keep s0 (windowBase w host v off s) := by
  unfold windowBase
  repeat' (
    first
      | with_reducible assumption | with_reducible exact Keep.refl _ | with_reducible apply setWindow_keep
      | with_reducible apply regError_keep | with_reducible apply ite_keep
      | fail_if_no_progress with_reducible apply keep_upd
      | (intro x; refine Keep.cut (s0 := s0) (x := x) ?_ ?_; (on_goal 1 => dsimp -zeta only [x]); (on_goal 2 => (intro _; clear_value x)))
      | (intro x; clear_value x) | lift_lets -underBinder | (intro s0) | split)

theorem capture_keep {s0 s : State} {off : Nat} (hk : Keep s0 s) :
    Keep s0 (capture off s) := by
  unfold capture
  repeat' (
    first
      | with_reducible assumption | with_reducible exact Keep.refl _ | with_reducible apply setRing_keep
      | with_reducible apply setWindow_keep | with_reducible apply ite_keep
      | fail_if_no_progress with_reducible apply keep_upd
      | (intro x; refine Keep.cut (s0 := s0) (x := x) ?_ ?_; (on_goal 1 => dsimp -zeta only [x]); (on_goal 2 => (intro _; clear_value x)))
      | (intro x; clear_value x) | lift_lets -underBinder | (intro s0) | split)

theorem barRead_keep {s0 s : State} {off : Nat} {size : Nat} (hk : Keep s0 s) :
    Keep s0 (barRead off size s) := by
  unfold barRead
  repeat' (
    first
      | with_reducible assumption | with_reducible exact Keep.refl _ | with_reducible apply emit_keep
      | with_reducible apply capture_keep | with_reducible apply ite_keep
      | (intro x; refine Keep.cut (s0 := s0) (x := x) ?_ ?_; (on_goal 1 => dsimp -zeta only [x]); (on_goal 2 => (intro _; clear_value x)))
      | (intro x; clear_value x) | lift_lets -underBinder | (intro s0) | split)

theorem ringWrite_keep {s0 s : State} {r : Nat} {o : Nat} {v : Nat} {off : Nat} (hk : Keep s0 s) :
    Keep s0 (ringWrite r o v off s) := by
  unfold ringWrite
  repeat' (
    first
      | with_reducible assumption | with_reducible exact Keep.refl _ | with_reducible apply setRing_keep
      | with_reducible apply regError_keep | with_reducible apply ackRing_keep
      | with_reducible apply enableRing_keep | with_reducible apply disableRing_keep
      | with_reducible apply resumeRing_keep | with_reducible apply discardRing_keep | with_reducible apply ite_keep
      | fail_if_no_progress with_reducible apply keep_upd
      | (intro x; refine Keep.cut (s0 := s0) (x := x) ?_ ?_; (on_goal 1 => dsimp -zeta only [x]); (on_goal 2 => (intro _; clear_value x)))
      | (intro x; clear_value x) | lift_lets -underBinder | (intro s0) | split)

theorem windowWrite_keep {s0 s : State} {w : Nat} {o : Nat} {v : Nat} {off : Nat} (hk : Keep s0 s) :
    Keep s0 (windowWrite w o v off s) := by
  unfold windowWrite
  repeat' (
    first
      | with_reducible assumption | with_reducible exact Keep.refl _ | with_reducible apply setWindow_keep
      | with_reducible apply regError_keep | with_reducible apply windowControl_keep
      | with_reducible apply windowBase_keep | with_reducible apply ite_keep
      | fail_if_no_progress with_reducible apply keep_upd
      | (intro x; refine Keep.cut (s0 := s0) (x := x) ?_ ?_; (on_goal 1 => dsimp -zeta only [x]); (on_goal 2 => (intro _; clear_value x)))
      | (intro x; clear_value x) | lift_lets -underBinder | (intro s0) | split)

theorem unmask_keep {s0 s : State} {v : Nat} (hk : Keep s0 s) :
    Keep s0 (unmask v s) := by
  unfold unmask
  repeat' (
    first
      | with_reducible assumption | with_reducible exact Keep.refl _ | with_reducible apply emit_keep
      | with_reducible apply setMsix_keep | with_reducible apply ite_keep
      | fail_if_no_progress with_reducible apply keep_upd
      | (intro x; refine Keep.cut (s0 := s0) (x := x) ?_ ?_; (on_goal 1 => dsimp -zeta only [x]); (on_goal 2 => (intro _; clear_value x)))
      | (intro x; clear_value x) | lift_lets -underBinder | (intro s0) | split)

theorem msixWrite_keep {s0 s : State} {v : Nat} {o : Nat} {x : Nat} {off : Nat} (hk : Keep s0 s) :
    Keep s0 (msixWrite v o x off s) := by
  unfold msixWrite
  repeat' (
    first
      | with_reducible assumption | with_reducible exact Keep.refl _ | with_reducible apply setMsix_keep
      | with_reducible apply regError_keep | with_reducible apply unmask_keep | with_reducible apply ite_keep
      | fail_if_no_progress with_reducible apply keep_upd
      | (intro x; refine Keep.cut (s0 := s0) (x := x) ?_ ?_; (on_goal 1 => dsimp -zeta only [x]); (on_goal 2 => (intro _; clear_value x)))
      | (intro x; clear_value x) | lift_lets -underBinder | (intro s0) | split)

theorem recoveryGo_keep {s0 s : State} {target : Nat} (hk : Keep s0 s) :
    Keep s0 (recoveryGo target s) := by
  unfold recoveryGo
  repeat' (
    first
      | with_reducible assumption | with_reducible exact Keep.refl _ | with_reducible apply regError_keep
      | with_reducible apply ite_keep | fail_if_no_progress with_reducible apply keep_upd
      | (intro x; refine Keep.cut (s0 := s0) (x := x) ?_ ?_; (on_goal 1 => dsimp -zeta only [x]); (on_goal 2 => (intro _; clear_value x)))
      | (intro x; clear_value x) | lift_lets -underBinder | (intro s0) | split)

theorem recoveryWrite_keep {s0 s : State} {o : Nat} {v : Nat} {off : Nat} (hk : Keep s0 s) :
    Keep s0 (recoveryWrite o v off s) := by
  unfold recoveryWrite
  repeat' (
    first
      | with_reducible assumption | with_reducible exact Keep.refl _ | with_reducible apply regError_keep
      | with_reducible apply recoveryGo_keep | with_reducible apply ite_keep
      | fail_if_no_progress with_reducible apply keep_upd
      | (intro x; refine Keep.cut (s0 := s0) (x := x) ?_ ?_; (on_goal 1 => dsimp -zeta only [x]); (on_goal 2 => (intro _; clear_value x)))
      | (intro x; clear_value x) | lift_lets -underBinder | (intro s0) | split)

theorem barWrite4_keep {s0 s : State} {off : Nat} {v : Nat} (hk : Keep s0 s) :
    Keep s0 (barWrite4 off v s) := by
  unfold barWrite4
  repeat' (
    first
      | with_reducible assumption | with_reducible exact Keep.refl _ | with_reducible apply regError_keep
      | with_reducible apply ringWrite_keep | with_reducible apply windowWrite_keep
      | with_reducible apply msixWrite_keep | with_reducible apply recoveryWrite_keep
      | with_reducible apply ite_keep | fail_if_no_progress with_reducible apply keep_upd
      | (intro x; refine Keep.cut (s0 := s0) (x := x) ?_ ?_; (on_goal 1 => dsimp -zeta only [x]); (on_goal 2 => (intro _; clear_value x)))
      | (intro x; clear_value x) | lift_lets -underBinder | (intro s0) | split)

theorem barWrite_keep {s0 s : State} {off : Nat} {size : Nat} {v : Nat} {full : Bool} (hk : Keep s0 s) :
    Keep s0 (barWrite off size v full s) := by
  unfold barWrite
  repeat' (
    first
      | with_reducible assumption | with_reducible exact Keep.refl _ | with_reducible apply regError_keep
      | with_reducible apply barWrite4_keep | with_reducible apply ite_keep
      | (intro x; refine Keep.cut (s0 := s0) (x := x) ?_ ?_; (on_goal 1 => dsimp -zeta only [x]); (on_goal 2 => (intro _; clear_value x)))
      | (intro x; clear_value x) | lift_lets -underBinder | (intro s0) | split)

theorem linkDown_keep {s0 s : State} (hk : Keep s0 s) :
    Keep s0 (linkDown s) := by
  unfold linkDown
  repeat' (
    first
      | with_reducible assumption | with_reducible exact Keep.refl _ | with_reducible apply forAll_keep
      | with_reducible apply setRing_keep | with_reducible apply closePort_keep | with_reducible apply setRingQ_keep
      | with_reducible apply haltRing_keep | fail_if_no_progress with_reducible apply keep_upd
      | (intro x; refine Keep.cut (s0 := s0) (x := x) ?_ ?_; (on_goal 1 => dsimp -zeta only [x]); (on_goal 2 => (intro _; clear_value x)))
      | (intro x; clear_value x) | lift_lets -underBinder | (intro s0))

theorem resetPort_keep {s0 s : State} (hk : Keep s0 s) :
    Keep s0 (resetPort s) := by
  unfold resetPort
  repeat' (
    first
      | with_reducible assumption | with_reducible exact Keep.refl _ | with_reducible apply forAll_keep
      | with_reducible apply closePort_keep | with_reducible apply unhalt_keep | with_reducible apply ite_keep
      | fail_if_no_progress with_reducible apply keep_upd
      | (intro x; refine Keep.cut (s0 := s0) (x := x) ?_ ?_; (on_goal 1 => dsimp -zeta only [x]); (on_goal 2 => (intro _; clear_value x)))
      | (intro x; clear_value x) | lift_lets -underBinder | (intro s0) | split)

theorem packetDone_keep {s0 s : State} {d : Descriptor} (hk : Keep s0 s) :
    Keep s0 (packetDone d s) := by
  unfold packetDone
  repeat' (
    first
      | with_reducible assumption | with_reducible exact Keep.refl _ | with_reducible apply transfer_keep
      | with_reducible apply ite_keep
      | (intro x; refine Keep.cut (s0 := s0) (x := x) ?_ ?_; (on_goal 1 => dsimp -zeta only [x]); (on_goal 2 => (intro _; clear_value x)))
      | (intro x; refine Keep.cut (s0 := s0) (x := x.1) ?_ ?_; (on_goal 1 => dsimp -zeta only [x]); (on_goal 2 => (intro _; clear_value x)))
      | (intro x; clear_value x) | lift_lets -underBinder | (intro s0) | split)

theorem replyDone_keep {s0 s : State} {ds : List Descriptor} (hk : Keep s0 s) :
    Keep s0 (replyDone ds s) := by
  unfold replyDone
  repeat' (
    first
      | with_reducible assumption | with_reducible exact Keep.refl _ | with_reducible apply settle_keep
      | with_reducible apply deliverReply_keep | (intro s0))

theorem served_keep {s0 s : State} {r : Nat} (hk : Keep s0 s) :
    Keep s0 (served r s) := by
  unfold served
  repeat' (
    first
      | with_reducible assumption | with_reducible exact Keep.refl _ | with_reducible apply ite_keep
      | fail_if_no_progress with_reducible apply keep_upd
      | (intro x; refine Keep.cut (s0 := s0) (x := x) ?_ ?_; (on_goal 1 => dsimp -zeta only [x]); (on_goal 2 => (intro _; clear_value x)))
      | (intro x; clear_value x) | lift_lets -underBinder | (intro s0) | split)

theorem ringTransfer_keep {s0 s : State} {r : Nat} {ds : List Descriptor} (hk : Keep s0 s) :
    Keep s0 (ringTransfer r ds s) := by
  unfold ringTransfer
  repeat' (
    first
      | with_reducible assumption | with_reducible exact Keep.refl _ | with_reducible apply deliver_keep
      | with_reducible apply packetDone_keep | with_reducible apply replyDone_keep
      | with_reducible apply served_keep | with_reducible apply ite_keep
      | fail_if_no_progress with_reducible apply keep_upd
      | (intro x; refine Keep.cut (s0 := s0) (x := x) ?_ ?_; (on_goal 1 => dsimp -zeta only [x]); (on_goal 2 => (intro _; clear_value x)))
      | (intro x; clear_value x) | lift_lets -underBinder | (intro s0) | split)

theorem ringFault_keep {s0 s : State} {r : Nat} {code : Nat} {offset : Nat} {addr : Nat} (hk : Keep s0 s) :
    Keep s0 (ringFault r code offset addr s) := by
  unfold ringFault
  repeat' (
    first
      | with_reducible assumption | with_reducible exact Keep.refl _ | with_reducible apply haltRing_keep
      | with_reducible apply ite_keep | (intro s0) | split)

theorem windowDisable_keep {s0 s : State} {w : Nat} {busy : Bool} (hk : Keep s0 s) :
    Keep s0 (windowDisable w busy s) := by
  unfold windowDisable
  repeat' (
    first
      | with_reducible assumption | with_reducible exact Keep.refl _ | with_reducible apply setWindow_keep
      | with_reducible apply ite_keep | fail_if_no_progress with_reducible apply keep_upd
      | (intro x; refine Keep.cut (s0 := s0) (x := x) ?_ ?_; (on_goal 1 => dsimp -zeta only [x]); (on_goal 2 => (intro _; clear_value x)))
      | (intro x; clear_value x) | lift_lets -underBinder | (intro s0) | split)

theorem windowIdle_keep {s0 s : State} {w : Nat} (hk : Keep s0 s) :
    Keep s0 (windowIdle w s) := by
  unfold windowIdle
  repeat' (
    first
      | with_reducible assumption | with_reducible exact Keep.refl _ | with_reducible apply setWindow_keep
      | with_reducible apply signal_keep | with_reducible apply ite_keep
      | fail_if_no_progress with_reducible apply keep_upd
      | (intro x; refine Keep.cut (s0 := s0) (x := x) ?_ ?_; (on_goal 1 => dsimp -zeta only [x]); (on_goal 2 => (intro _; clear_value x)))
      | (intro x; clear_value x) | lift_lets -underBinder | (intro s0) | split)

theorem moderation_keep {s0 s : State} {r : Nat} (hk : Keep s0 s) :
    Keep s0 (moderation r s) := by
  unfold moderation
  repeat' (
    first
      | with_reducible assumption | with_reducible exact Keep.refl _ | with_reducible apply setRing_keep
      | with_reducible apply ringVector_keep | with_reducible apply ite_keep
      | fail_if_no_progress with_reducible apply keep_upd
      | (intro x; refine Keep.cut (s0 := s0) (x := x) ?_ ?_; (on_goal 1 => dsimp -zeta only [x]); (on_goal 2 => (intro _; clear_value x)))
      | (intro x; clear_value x) | lift_lets -underBinder | (intro s0) | split)

theorem functionMask_keep {s0 s : State} {on : Bool} (hk : Keep s0 s) :
    Keep s0 (functionMask on s) := by
  unfold functionMask
  repeat' (
    first
      | with_reducible assumption | with_reducible exact Keep.refl _ | with_reducible apply forAll_keep
      | with_reducible apply emit_keep | with_reducible apply setMsix_keep | with_reducible apply ite_keep
      | fail_if_no_progress with_reducible apply keep_upd
      | (intro x; refine Keep.cut (s0 := s0) (x := x) ?_ ?_; (on_goal 1 => dsimp -zeta only [x]); (on_goal 2 => (intro _; clear_value x)))
      | (intro x; clear_value x) | lift_lets -underBinder | (intro s0) | split)

end Sys2Proof.Machine
end

