-- ==== Sys2Proof/Laws/KeepTime.lean ====
section
/-! SUPPORT. Each operation of Time keeps what no command undoes. -/

set_option linter.all false

namespace Sys2Proof.Machine

theorem reAnchor_keep {s0 s : State} (hk : Keep s0 s) :
    Keep s0 (reAnchor s) := by
  unfold reAnchor
  repeat' (
    first
      | with_reducible assumption | with_reducible exact Keep.refl _
      | fail_if_no_progress with_reducible apply keep_upd
      | (intro x; refine Keep.cut (s0 := s0) (x := x) ?_ ?_; (on_goal 1 => dsimp -zeta only [x]); (on_goal 2 => (intro _; clear_value x)))
      | (intro x; clear_value x) | lift_lets -underBinder | (intro s0))

theorem closeSpan_keep {s0 s : State} (hk : Keep s0 s) :
    Keep s0 (closeSpan s) := by
  unfold closeSpan
  repeat' (
    first
      | with_reducible assumption | with_reducible exact Keep.refl _ | with_reducible apply ite_keep
      | fail_if_no_progress with_reducible apply keep_upd
      | (intro x; refine Keep.cut (s0 := s0) (x := x) ?_ ?_; (on_goal 1 => dsimp -zeta only [x]); (on_goal 2 => (intro _; clear_value x)))
      | (intro x; clear_value x) | lift_lets -underBinder | (intro s0) | split)

theorem setRate_keep {s0 s : State} {r : Int} (hk : Keep s0 s) :
    Keep s0 (setRate r s) := by
  unfold setRate
  repeat' (
    first
      | with_reducible assumption | with_reducible exact Keep.refl _ | with_reducible apply reAnchor_keep
      | with_reducible apply closeSpan_keep | fail_if_no_progress with_reducible apply keep_upd
      | (intro x; refine Keep.cut (s0 := s0) (x := x) ?_ ?_; (on_goal 1 => dsimp -zeta only [x]); (on_goal 2 => (intro _; clear_value x)))
      | (intro x; clear_value x) | lift_lets -underBinder | (intro s0))

theorem enterServo_keep {s0 s : State} {st : Nat} (hk : Keep s0 s) :
    Keep s0 (enterServo st s) := by
  unfold enterServo
  repeat' (
    first
      | with_reducible assumption | with_reducible exact Keep.refl _ | with_reducible apply clearCause_keep
      | with_reducible apply raise_keep | with_reducible apply raiseOnce_keep | with_reducible apply closeSpan_keep
      | with_reducible apply ite_keep | fail_if_no_progress with_reducible apply keep_upd
      | (intro x; refine Keep.cut (s0 := s0) (x := x) ?_ ?_; (on_goal 1 => dsimp -zeta only [x]); (on_goal 2 => (intro _; clear_value x)))
      | (intro x; clear_value x) | lift_lets -underBinder | (intro s0) | split)

theorem setSrc_keep {s0 s : State} {x : Nat} {v : TimeSource} (hk : Keep s0 s) :
    Keep s0 (setSrc x v s) := by
  unfold setSrc
  repeat' (
    first
      | with_reducible assumption | with_reducible exact Keep.refl _
      | fail_if_no_progress with_reducible apply keep_upd
      | (intro x; refine Keep.cut (s0 := s0) (x := x) ?_ ?_; (on_goal 1 => dsimp -zeta only [x]); (on_goal 2 => (intro _; clear_value x)))
      | (intro x; clear_value x) | lift_lets -underBinder | (intro s0))

theorem unlessPresent_keep {s0 s : State} (hk : Keep s0 s) :
    Keep s0 (unlessPresent s) := by
  unfold unlessPresent
  repeat' (
    first
      | with_reducible assumption | with_reducible exact Keep.refl _ | with_reducible apply ite_keep
      | fail_if_no_progress with_reducible apply keep_upd
      | (intro x; refine Keep.cut (s0 := s0) (x := x) ?_ ?_; (on_goal 1 => dsimp -zeta only [x]); (on_goal 2 => (intro _; clear_value x)))
      | (intro x; clear_value x) | lift_lets -underBinder | (intro s0) | split)

theorem noSource_keep {s0 s : State} (hk : Keep s0 s) :
    Keep s0 (noSource s) := by
  unfold noSource
  repeat' (
    first
      | with_reducible assumption | with_reducible exact Keep.refl _ | with_reducible apply setRate_keep
      | with_reducible apply enterServo_keep | with_reducible apply ite_keep
      | fail_if_no_progress with_reducible apply keep_upd
      | (intro x; refine Keep.cut (s0 := s0) (x := x) ?_ ?_; (on_goal 1 => dsimp -zeta only [x]); (on_goal 2 => (intro _; clear_value x)))
      | (intro x; clear_value x) | lift_lets -underBinder | (intro s0) | split)

theorem follow_keep {s0 s : State} {x : Nat} (hk : Keep s0 s) :
    Keep s0 (follow x s) := by
  unfold follow
  repeat' (
    first
      | with_reducible assumption | with_reducible exact Keep.refl _ | with_reducible apply raiseOrig_keep
      | with_reducible apply enterServo_keep | with_reducible apply ite_keep
      | fail_if_no_progress with_reducible apply keep_upd
      | (intro x; refine Keep.cut (s0 := s0) (x := x) ?_ ?_; (on_goal 1 => dsimp -zeta only [x]); (on_goal 2 => (intro _; clear_value x)))
      | (intro x; clear_value x) | lift_lets -underBinder | (intro s0) | split)

theorem servoStep_keep {s0 s : State} {x : Nat} {e : Rat} {dt : Rat} (hk : Keep s0 s) :
    Keep s0 (servoStep x e dt s) := by
  unfold servoStep
  repeat' (
    first
      | with_reducible assumption | with_reducible exact Keep.refl _ | with_reducible apply setRate_keep
      | with_reducible apply ite_keep | fail_if_no_progress with_reducible apply keep_upd
      | (intro x; refine Keep.cut (s0 := s0) (x := x) ?_ ?_; (on_goal 1 => dsimp -zeta only [x]); (on_goal 2 => (intro _; clear_value x)))
      | (intro x; clear_value x) | lift_lets -underBinder | (intro s0) | split)

theorem prepareStep_keep {s0 s : State} {kind : Nat} {delta : Int} {source : Nat} {rate : Rat} {req : Option Req} (hk : Keep s0 s) :
    Keep s0 (prepareStep kind delta source rate req s) := by
  unfold prepareStep
  repeat' (
    first
      | with_reducible assumption | with_reducible exact Keep.refl _ | with_reducible apply forAll_keep
      | with_reducible apply toQuire_keep | fail_if_no_progress with_reducible apply keep_upd
      | (intro x; refine Keep.cut (s0 := s0) (x := x) ?_ ?_; (on_goal 1 => dsimp -zeta only [x]); (on_goal 2 => (intro _; clear_value x)))
      | (intro x; clear_value x) | lift_lets -underBinder | (intro s0))

theorem tryLock_keep {s0 s : State} {x : Nat} (hk : Keep s0 s) :
    Keep s0 (tryLock x s) := by
  unfold tryLock
  repeat' (
    first
      | with_reducible assumption | with_reducible exact Keep.refl _ | with_reducible apply raise_keep
      | with_reducible apply prepareStep_keep | with_reducible apply ite_keep
      | fail_if_no_progress with_reducible apply keep_upd
      | (intro x; refine Keep.cut (s0 := s0) (x := x) ?_ ?_; (on_goal 1 => dsimp -zeta only [x]); (on_goal 2 => (intro _; clear_value x)))
      | (intro x; clear_value x) | lift_lets -underBinder | (intro s0) | split)

theorem measure_keep {s0 s : State} {x : Nat} {e : Int} (hk : Keep s0 s) :
    Keep s0 (measure x e s) := by
  unfold measure
  repeat' (
    first
      | with_reducible assumption | with_reducible exact Keep.refl _ | with_reducible apply setRate_keep
      | with_reducible apply setSrc_keep | with_reducible apply follow_keep | with_reducible apply servoStep_keep
      | with_reducible apply tryLock_keep | with_reducible apply ite_keep
      | fail_if_no_progress with_reducible apply keep_upd
      | (intro x; refine Keep.cut (s0 := s0) (x := x) ?_ ?_; (on_goal 1 => dsimp -zeta only [x]); (on_goal 2 => (intro _; clear_value x)))
      | (intro x; clear_value x) | lift_lets -underBinder | (intro s0) | split)

theorem loseSource_keep {s0 s : State} {x : Nat} (hk : Keep s0 s) :
    Keep s0 (loseSource x s) := by
  unfold loseSource
  repeat' (
    first
      | with_reducible assumption | with_reducible exact Keep.refl _ | with_reducible apply setSrc_keep
      | with_reducible apply unlessPresent_keep | with_reducible apply noSource_keep
      | with_reducible apply follow_keep | with_reducible apply ite_keep
      | fail_if_no_progress with_reducible apply keep_upd
      | (intro x; refine Keep.cut (s0 := s0) (x := x) ?_ ?_; (on_goal 1 => dsimp -zeta only [x]); (on_goal 2 => (intro _; clear_value x)))
      | (intro x; clear_value x) | lift_lets -underBinder | (intro s0) | split)

theorem timeCtrlWritten_keep {s0 s : State} (hk : Keep s0 s) :
    Keep s0 (timeCtrlWritten s) := by
  unfold timeCtrlWritten
  repeat' (
    first
      | with_reducible assumption | with_reducible exact Keep.refl _ | with_reducible apply unlessPresent_keep
      | with_reducible apply noSource_keep | with_reducible apply loseSource_keep | with_reducible apply ite_keep
      | (intro x; refine Keep.cut (s0 := s0) (x := x) ?_ ?_; (on_goal 1 => dsimp -zeta only [x]); (on_goal 2 => (intro _; clear_value x)))
      | (intro x; clear_value x) | lift_lets -underBinder | (intro s0) | split)

theorem refStart_keep {s0 s : State} (hk : Keep s0 s) :
    Keep s0 (refStart s) := by
  unfold refStart
  repeat' (
    first
      | with_reducible assumption | with_reducible exact Keep.refl _
      | fail_if_no_progress with_reducible apply keep_upd
      | (intro x; refine Keep.cut (s0 := s0) (x := x) ?_ ?_; (on_goal 1 => dsimp -zeta only [x]); (on_goal 2 => (intro _; clear_value x)))
      | (intro x; clear_value x) | lift_lets -underBinder | (intro s0) | split)

theorem refLost_keep {s0 s : State} (hk : Keep s0 s) :
    Keep s0 (refLost s) := by
  unfold refLost
  repeat' (
    first
      | with_reducible assumption | with_reducible exact Keep.refl _ | with_reducible apply raise_keep
      | with_reducible apply closeSpan_keep | with_reducible apply ite_keep
      | fail_if_no_progress with_reducible apply keep_upd
      | (intro x; refine Keep.cut (s0 := s0) (x := x) ?_ ?_; (on_goal 1 => dsimp -zeta only [x]); (on_goal 2 => (intro _; clear_value x)))
      | (intro x; clear_value x) | lift_lets -underBinder | (intro s0) | split)

theorem refBack_keep {s0 s : State} (hk : Keep s0 s) :
    Keep s0 (refBack s) := by
  unfold refBack
  repeat' (
    first
      | with_reducible assumption | with_reducible exact Keep.refl _ | with_reducible apply clearCause_keep
      | with_reducible apply ite_keep | fail_if_no_progress with_reducible apply keep_upd
      | (intro x; refine Keep.cut (s0 := s0) (x := x) ?_ ?_; (on_goal 1 => dsimp -zeta only [x]); (on_goal 2 => (intro _; clear_value x)))
      | (intro x; clear_value x) | lift_lets -underBinder | (intro s0) | split)

theorem jumpPersist_keep {s0 s : State} (hk : Keep s0 s) :
    Keep s0 (jumpPersist s) := by
  unfold jumpPersist
  repeat' (
    first
      | with_reducible assumption | with_reducible exact Keep.refl _ | with_reducible apply addCause_keep
      | with_reducible apply raiseOrigWith_keep | with_reducible apply setRate_keep
      | with_reducible apply enterServo_keep | with_reducible apply follow_keep | with_reducible apply ite_keep
      | fail_if_no_progress with_reducible apply keep_upd
      | (intro x; refine Keep.cut (s0 := s0) (x := x) ?_ ?_; (on_goal 1 => dsimp -zeta only [x]); (on_goal 2 => (intro _; clear_value x)))
      | (intro x; clear_value x) | lift_lets -underBinder | (intro s0) | split)

theorem holdExpiry_keep {s0 s : State} (hk : Keep s0 s) :
    Keep s0 (holdExpiry s) := by
  unfold holdExpiry
  repeat' (
    first
      | with_reducible assumption | with_reducible exact Keep.refl _ | with_reducible apply enterServo_keep
      | with_reducible apply ite_keep | (intro s0) | split)

theorem iuResult_keep {s0 s : State} {u : Nat} {flags : Nat} {interval : Nat} {last : Nat} (hk : Keep s0 s) :
    Keep s0 (iuResult u flags interval last s) := by
  unfold iuResult
  repeat' (
    first
      | with_reducible assumption | with_reducible exact Keep.refl _ | with_reducible apply setUnit_keep
      | with_reducible apply raise_keep | with_reducible apply ite_keep
      | fail_if_no_progress with_reducible apply keep_upd
      | (intro x; refine Keep.cut (s0 := s0) (x := x) ?_ ?_; (on_goal 1 => dsimp -zeta only [x]); (on_goal 2 => (intro _; clear_value x)))
      | (intro x; clear_value x) | lift_lets -underBinder | (intro s0) | split)

theorem iuGive_keep {s0 s : State} {u : Nat} {a : Nat} {b : Nat} (hk : Keep s0 s) :
    Keep s0 (iuGive u a b s) := by
  unfold iuGive
  repeat' (
    first
      | with_reducible assumption | with_reducible exact Keep.refl _ | with_reducible apply iuResult_keep
      | with_reducible apply ite_keep | (intro s0) | split)

theorem iuJudge_keep {s0 s : State} {u : Nat} (hk : Keep s0 s) :
    Keep s0 (iuJudge u s) := by
  unfold iuJudge
  repeat' (
    first
      | with_reducible assumption | with_reducible exact Keep.refl _ | with_reducible apply iuGive_keep
      | with_reducible apply ite_keep | fail_if_no_progress with_reducible apply keep_upd
      | (intro x; refine Keep.cut (s0 := s0) (x := x) ?_ ?_; (on_goal 1 => dsimp -zeta only [x]); (on_goal 2 => (intro _; clear_value x)))
      | (intro x; clear_value x) | lift_lets -underBinder | (intro s0) | split)

theorem iuEdge_keep {s0 s : State} {u : Nat} {pin : Nat} {rise : Bool} {fine : Nat} (hk : Keep s0 s) :
    Keep s0 (iuEdge u pin rise fine s) := by
  unfold iuEdge
  repeat' (
    first
      | with_reducible assumption | with_reducible exact Keep.refl _ | with_reducible apply setUnit_keep
      | with_reducible apply iuJudge_keep | with_reducible apply ite_keep
      | fail_if_no_progress with_reducible apply keep_upd
      | (intro x; refine Keep.cut (s0 := s0) (x := x) ?_ ?_; (on_goal 1 => dsimp -zeta only [x]); (on_goal 2 => (intro _; clear_value x)))
      | (intro x; clear_value x) | lift_lets -underBinder | (intro s0) | split)

theorem iuWindowEnd_keep {s0 s : State} {u : Nat} (hk : Keep s0 s) :
    Keep s0 (iuWindowEnd u s) := by
  unfold iuWindowEnd
  repeat' (
    first
      | with_reducible assumption | with_reducible exact Keep.refl _ | with_reducible apply iuResult_keep
      | with_reducible apply iuGive_keep | with_reducible apply ite_keep
      | fail_if_no_progress with_reducible apply keep_upd
      | (intro x; refine Keep.cut (s0 := s0) (x := x) ?_ ?_; (on_goal 1 => dsimp -zeta only [x]); (on_goal 2 => (intro _; clear_value x)))
      | (intro x; clear_value x) | lift_lets -underBinder | (intro s0) | split)

theorem iuRearm_keep {s0 s : State} {u : Nat} (hk : Keep s0 s) :
    Keep s0 (iuRearm u s) := by
  unfold iuRearm
  repeat' (
    first
      | with_reducible assumption | with_reducible exact Keep.refl _ | with_reducible apply setUnit_keep
      | with_reducible apply ite_keep | fail_if_no_progress with_reducible apply keep_upd
      | (intro x; refine Keep.cut (s0 := s0) (x := x) ?_ ?_; (on_goal 1 => dsimp -zeta only [x]); (on_goal 2 => (intro _; clear_value x)))
      | (intro x; clear_value x) | lift_lets -underBinder | (intro s0) | split)

theorem iuArm_keep {s0 s : State} {u : Nat} {at_ : Option Int} (hk : Keep s0 s) :
    Keep s0 (iuArm u at_ s) := by
  unfold iuArm
  repeat' (
    first
      | with_reducible assumption | with_reducible exact Keep.refl _ | with_reducible apply setUnit_keep
      | fail_if_no_progress with_reducible apply keep_upd
      | (intro x; refine Keep.cut (s0 := s0) (x := x) ?_ ?_; (on_goal 1 => dsimp -zeta only [x]); (on_goal 2 => (intro _; clear_value x)))
      | (intro x; clear_value x) | lift_lets -underBinder | (intro s0) | split)

theorem recordEdge_keep {s0 s : State} {pin : Nat} {rise : Bool} {fine : Nat} (hk : Keep s0 s) :
    Keep s0 (recordEdge pin rise fine s) := by
  unfold recordEdge
  repeat' (
    first
      | with_reducible assumption | with_reducible exact Keep.refl _ | with_reducible apply ite_keep
      | fail_if_no_progress with_reducible apply keep_upd
      | (intro x; refine Keep.cut (s0 := s0) (x := x) ?_ ?_; (on_goal 1 => dsimp -zeta only [x]); (on_goal 2 => (intro _; clear_value x)))
      | (intro x; clear_value x) | lift_lets -underBinder | (intro s0) | split)

theorem dropEdge_keep {s0 s : State} {pin : Nat} (hk : Keep s0 s) :
    Keep s0 (dropEdge pin s) := by
  unfold dropEdge
  repeat' (
    first
      | with_reducible assumption | with_reducible exact Keep.refl _
      | fail_if_no_progress with_reducible apply keep_upd
      | (intro x; refine Keep.cut (s0 := s0) (x := x) ?_ ?_; (on_goal 1 => dsimp -zeta only [x]); (on_goal 2 => (intro _; clear_value x)))
      | (intro x; clear_value x) | lift_lets -underBinder | (intro s0))

theorem timeGet_keep {s0 s : State} {p : Packet} (hk : Keep s0 s) :
    Keep s0 (timeGet  p s) := by
  unfold timeGet
  repeat' (
    first
      | with_reducible assumption | with_reducible exact Keep.refl _ | with_reducible apply answer_keep
      | with_reducible apply serve_keep | (intro s0))

theorem schedule_keep {s0 s : State} {r : Req} {t : Int} (hk : Keep s0 s) :
    Keep s0 (schedule r t s) := by
  unfold schedule
  repeat' (
    first
      | with_reducible assumption | with_reducible exact Keep.refl _ | with_reducible apply refuse_keep
      | with_reducible apply ite_keep | fail_if_no_progress with_reducible apply keep_upd
      | (intro x; refine Keep.cut (s0 := s0) (x := x) ?_ ?_; (on_goal 1 => dsimp -zeta only [x]); (on_goal 2 => (intro _; clear_value x)))
      | (intro x; clear_value x) | lift_lets -underBinder | (intro s0) | split)

theorem iuArmRun_keep {s0 s : State} {r : Req} (hk : Keep s0 s) :
    Keep s0 (iuArmRun r s) := by
  unfold iuArmRun
  repeat' (
    first
      | with_reducible assumption | with_reducible exact Keep.refl _ | with_reducible apply answerOr_keep
      | with_reducible apply refuseOr_keep | with_reducible apply iuJudge_keep | with_reducible apply iuArm_keep
      | with_reducible apply ite_keep
      | (intro x; refine Keep.cut (s0 := s0) (x := x) ?_ ?_; (on_goal 1 => dsimp -zeta only [x]); (on_goal 2 => (intro _; clear_value x)))
      | (intro x; clear_value x) | lift_lets -underBinder | (intro s0) | split)

theorem iuArmServe_keep {s0 s : State} {p : Packet} (hk : Keep s0 s) :
    Keep s0 (iuArmServe  p s) := by
  unfold iuArmServe
  repeat' (
    first
      | with_reducible assumption | with_reducible exact Keep.refl _ | with_reducible apply serve_keep
      | with_reducible apply schedule_keep | with_reducible apply iuArmRun_keep
      | fail_if_no_progress with_reducible apply keep_upd
      | (intro x; refine Keep.cut (s0 := s0) (x := x) ?_ ?_; (on_goal 1 => dsimp -zeta only [x]); (on_goal 2 => (intro _; clear_value x)))
      | (intro x; clear_value x) | lift_lets -underBinder | (intro s0) | split)

theorem iuDisarmServe_keep {s0 s : State} {p : Packet} (hk : Keep s0 s) :
    Keep s0 (iuDisarmServe  p s) := by
  unfold iuDisarmServe
  repeat' (
    first
      | with_reducible assumption | with_reducible exact Keep.refl _ | with_reducible apply setUnit_keep
      | with_reducible apply answer_keep | with_reducible apply serve_keep | with_reducible apply iuJudge_keep
      | fail_if_no_progress with_reducible apply keep_upd
      | (intro x; refine Keep.cut (s0 := s0) (x := x) ?_ ?_; (on_goal 1 => dsimp -zeta only [x]); (on_goal 2 => (intro _; clear_value x)))
      | (intro x; clear_value x) | lift_lets -underBinder | (intro s0))

end Sys2Proof.Machine
end

