-- ==== Sys2Proof/Laws/KeepPtp.lean ====
section
/-! SUPPORT. Each operation of Ptp keeps what no command undoes. -/

set_option linter.all false

namespace Sys2Proof.Machine

theorem ptpOut_keep {s0 s : State} {p : Nat} {m : PtpMessage} (hk : Keep s0 s) :
    Keep s0 (ptpOut p m s) := by
  unfold ptpOut
  repeat' (
    first
      | with_reducible assumption | with_reducible exact Keep.refl _ | with_reducible apply emit_keep
      | with_reducible apply ite_keep
      | (intro x; refine Keep.cut (s0 := s0) (x := x) ?_ ?_; (on_goal 1 => dsimp -zeta only [x]); (on_goal 2 => (intro _; clear_value x)))
      | (intro x; clear_value x) | lift_lets -underBinder | (intro s0) | split)

theorem ptpDecide_keep {s0 s : State} {p : Nat} (hk : Keep s0 s) :
    Keep s0 (ptpDecide p s) := by
  unfold ptpDecide
  repeat' (
    first
      | with_reducible assumption | with_reducible exact Keep.refl _ | with_reducible apply setPtp_keep
      | with_reducible apply loseSource_keep | with_reducible apply ite_keep
      | fail_if_no_progress with_reducible apply keep_upd
      | (intro x; refine Keep.cut (s0 := s0) (x := x) ?_ ?_; (on_goal 1 => dsimp -zeta only [x]); (on_goal 2 => (intro _; clear_value x)))
      | (intro x; clear_value x) | lift_lets -underBinder | (intro s0) | split)

theorem ptpDecideBoth_keep {s0 s : State} (hk : Keep s0 s) :
    Keep s0 (ptpDecideBoth s) := by
  unfold ptpDecideBoth
  repeat' (
    first
      | with_reducible assumption | with_reducible exact Keep.refl _ | with_reducible apply ptpDecide_keep
      | (intro s0))

theorem sourceLost_keep {s0 s : State} {x : Nat} (hk : Keep s0 s) :
    Keep s0 (sourceLost x s) := by
  unfold sourceLost
  repeat' (
    first
      | with_reducible assumption | with_reducible exact Keep.refl _ | with_reducible apply setPtp_keep
      | with_reducible apply loseSource_keep | with_reducible apply ptpDecideBoth_keep
      | with_reducible apply ite_keep | fail_if_no_progress with_reducible apply keep_upd
      | (intro x; refine Keep.cut (s0 := s0) (x := x) ?_ ?_; (on_goal 1 => dsimp -zeta only [x]); (on_goal 2 => (intro _; clear_value x)))
      | (intro x; clear_value x) | lift_lets -underBinder | (intro s0) | split)

theorem ptpOffset_keep {s0 s : State} {p : Nat} {t1 : Int} {t2 : Int} (hk : Keep s0 s) :
    Keep s0 (ptpOffset p t1 t2 s) := by
  unfold ptpOffset
  repeat' (
    first
      | with_reducible assumption | with_reducible exact Keep.refl _ | with_reducible apply setPtp_keep
      | with_reducible apply setSrc_keep | with_reducible apply measure_keep | with_reducible apply ite_keep
      | fail_if_no_progress with_reducible apply keep_upd
      | (intro x; refine Keep.cut (s0 := s0) (x := x) ?_ ?_; (on_goal 1 => dsimp -zeta only [x]); (on_goal 2 => (intro _; clear_value x)))
      | (intro x; clear_value x) | lift_lets -underBinder | (intro s0) | split)

theorem ptpAnnounce_keep {s0 s : State} {p : Nat} {m : PtpMessage} (hk : Keep s0 s) :
    Keep s0 (ptpAnnounce p m s) := by
  unfold ptpAnnounce
  repeat' (
    first
      | with_reducible assumption | with_reducible exact Keep.refl _ | with_reducible apply setPtp_keep
      | with_reducible apply raiseOrig_keep | with_reducible apply setSrc_keep
      | with_reducible apply ptpDecideBoth_keep | with_reducible apply ite_keep
      | fail_if_no_progress with_reducible apply keep_upd
      | (intro x; refine Keep.cut (s0 := s0) (x := x) ?_ ?_; (on_goal 1 => dsimp -zeta only [x]); (on_goal 2 => (intro _; clear_value x)))
      | (intro x; clear_value x) | lift_lets -underBinder | (intro s0) | split)

theorem pdelayAnswer_keep {s0 s : State} {p : Nat} {m : PtpMessage} {t2 : Int} (hk : Keep s0 s) :
    Keep s0 (pdelayAnswer p m t2 s) := by
  unfold pdelayAnswer
  repeat' (
    first
      | with_reducible assumption | with_reducible exact Keep.refl _ | with_reducible apply ptpOut_keep
      | with_reducible apply ite_keep | fail_if_no_progress with_reducible apply keep_upd
      | (intro x; refine Keep.cut (s0 := s0) (x := x) ?_ ?_; (on_goal 1 => dsimp -zeta only [x]); (on_goal 2 => (intro _; clear_value x)))
      | (intro x; clear_value x) | lift_lets -underBinder | (intro s0) | split)

theorem ptpTake_keep {s0 s : State} {p : Nat} {m : PtpMessage} {t : Int} (hk : Keep s0 s) :
    Keep s0 (ptpTake p m t s) := by
  unfold ptpTake
  repeat' (
    first
      | with_reducible assumption | with_reducible exact Keep.refl _ | with_reducible apply setPtp_keep
      | with_reducible apply ptpOut_keep | with_reducible apply ptpOffset_keep
      | with_reducible apply ptpAnnounce_keep | with_reducible apply pdelayAnswer_keep
      | with_reducible apply ite_keep | fail_if_no_progress with_reducible apply keep_upd
      | (intro x; refine Keep.cut (s0 := s0) (x := x) ?_ ?_; (on_goal 1 => dsimp -zeta only [x]); (on_goal 2 => (intro _; clear_value x)))
      | (intro x; clear_value x) | lift_lets -underBinder | (intro s0) | split)

theorem ptpReceive_keep {s0 s : State} {p : Nat} {raw : Nat} {phase : Nat} {tr : Nat} {b : List Byte} (hk : Keep s0 s) :
    Keep s0 (ptpReceive p raw phase tr b s) := by
  unfold ptpReceive
  repeat' (
    first
      | with_reducible assumption | with_reducible exact Keep.refl _ | with_reducible apply ptpTake_keep
      | with_reducible apply ite_keep | fail_if_no_progress with_reducible apply keep_upd
      | (intro x; refine Keep.cut (s0 := s0) (x := x) ?_ ?_; (on_goal 1 => dsimp -zeta only [x]); (on_goal 2 => (intro _; clear_value x)))
      | (intro x; clear_value x) | lift_lets -underBinder | (intro s0) | split)

theorem ptpSend_keep {s0 s : State} {p : Nat} {kind : Nat} (hk : Keep s0 s) :
    Keep s0 (ptpSend p kind s) := by
  unfold ptpSend
  repeat' (
    first
      | with_reducible assumption | with_reducible exact Keep.refl _ | with_reducible apply setPtp_keep
      | with_reducible apply ptpOut_keep | with_reducible apply ite_keep
      | fail_if_no_progress with_reducible apply keep_upd
      | (intro x; refine Keep.cut (s0 := s0) (x := x) ?_ ?_; (on_goal 1 => dsimp -zeta only [x]); (on_goal 2 => (intro _; clear_value x)))
      | (intro x; clear_value x) | lift_lets -underBinder | (intro s0) | split)

theorem ptpRestart_keep {s0 s : State} {p : Nat} (hk : Keep s0 s) :
    Keep s0 (ptpRestart p s) := by
  unfold ptpRestart
  repeat' (
    first
      | with_reducible assumption | with_reducible exact Keep.refl _ | with_reducible apply setPtp_keep
      | with_reducible apply loseSource_keep | with_reducible apply ptpDecideBoth_keep
      | with_reducible apply ite_keep | fail_if_no_progress with_reducible apply keep_upd
      | (intro x; refine Keep.cut (s0 := s0) (x := x) ?_ ?_; (on_goal 1 => dsimp -zeta only [x]); (on_goal 2 => (intro _; clear_value x)))
      | (intro x; clear_value x) | lift_lets -underBinder | (intro s0) | split)

end Sys2Proof.Machine
end

