-- ==== Sys2Proof/Laws/KeepFront.lean ====
section
/-! SUPPORT. Each operation of Front keeps what no command undoes. -/

set_option linter.all false

namespace Sys2Proof.Machine

theorem setMember_keep {s0 s : State} {m : Nat} {v : SMember} (hk : Keep s0 s) :
    Keep s0 (setMember m v s) := by
  unfold setMember
  repeat' (
    first
      | with_reducible assumption | with_reducible exact Keep.refl _ | with_reducible apply setPair_keep
      | with_reducible apply ite_keep | fail_if_no_progress with_reducible apply keep_upd
      | (intro x; refine Keep.cut (s0 := s0) (x := x) ?_ ?_; (on_goal 1 => dsimp -zeta only [x]); (on_goal 2 => (intro _; clear_value x)))
      | (intro x; clear_value x) | lift_lets -underBinder | (intro s0) | split)

theorem addMark_keep {s0 s : State} {c : Nat} {kind : MarkKind} {first : Int} {last : Option Int} (hk : Keep s0 s) :
    Keep s0 (addMark c kind first last s) := by
  unfold addMark
  repeat' (
    first
      | with_reducible assumption | with_reducible exact Keep.refl _ | with_reducible apply setChan_keep
      | fail_if_no_progress with_reducible apply keep_upd
      | (intro x; refine Keep.cut (s0 := s0) (x := x) ?_ ?_; (on_goal 1 => dsimp -zeta only [x]); (on_goal 2 => (intro _; clear_value x)))
      | (intro x; clear_value x) | lift_lets -underBinder | (intro s0))

theorem endMarks_keep {s0 s : State} {c : Nat} {kind : MarkKind} {last : Int} (hk : Keep s0 s) :
    Keep s0 (endMarks c kind last s) := by
  unfold endMarks
  repeat' (
    first
      | with_reducible assumption | with_reducible exact Keep.refl _ | with_reducible apply setChan_keep
      | with_reducible apply ite_keep | fail_if_no_progress with_reducible apply keep_upd
      | (intro x; refine Keep.cut (s0 := s0) (x := x) ?_ ?_; (on_goal 1 => dsimp -zeta only [x]); (on_goal 2 => (intro _; clear_value x)))
      | (intro x; clear_value x) | lift_lets -underBinder | (intro s0) | split)

theorem cutMarks_keep {s0 s : State} {c : Nat} {kind : MarkKind} {m : Int} (hk : Keep s0 s) :
    Keep s0 (cutMarks c kind m s) := by
  unfold cutMarks
  repeat' (
    first
      | with_reducible assumption | with_reducible exact Keep.refl _ | with_reducible apply setChan_keep
      | with_reducible apply ite_keep | fail_if_no_progress with_reducible apply keep_upd
      | (intro x; refine Keep.cut (s0 := s0) (x := x) ?_ ?_; (on_goal 1 => dsimp -zeta only [x]); (on_goal 2 => (intro _; clear_value x)))
      | (intro x; clear_value x) | lift_lets -underBinder | (intro s0) | split)

theorem holdGroup_keep {s0 s : State} {ts : Int} {tb : Int} {conf : Bool} {e : Nat} (hk : Keep s0 s) :
    Keep s0 (holdGroup ts tb conf e s) := by
  unfold holdGroup
  repeat' (
    first
      | with_reducible assumption | with_reducible exact Keep.refl _ | with_reducible apply setExc_keep
      | fail_if_no_progress with_reducible apply keep_upd
      | (intro x; refine Keep.cut (s0 := s0) (x := x) ?_ ?_; (on_goal 1 => dsimp -zeta only [x]); (on_goal 2 => (intro _; clear_value x)))
      | (intro x; clear_value x) | lift_lets -underBinder | (intro s0))

theorem onStandin_keep {s0 s : State} {c : Nat} {f : StandIn → Option StandIn} (hk : Keep s0 s) :
    Keep s0 (onStandin c f s) := by
  unfold onStandin
  repeat' (
    first
      | with_reducible assumption | with_reducible exact Keep.refl _ | with_reducible apply setWit_keep
      | with_reducible apply ite_keep | fail_if_no_progress with_reducible apply keep_upd
      | (intro x; refine Keep.cut (s0 := s0) (x := x) ?_ ?_; (on_goal 1 => dsimp -zeta only [x]); (on_goal 2 => (intro _; clear_value x)))
      | (intro x; clear_value x) | lift_lets -underBinder | (intro s0) | split)

theorem takePos_keep {s0 s t : State} {q : Nat} {v : StandIn} (h : Keep s0 s) (e : takePos q v s = some t) : Keep s0 t := by
  unfold takePos at e
  dsimp only at e
  split at e
  · injection e with e; rw [← e]; exact setWit_keep h
  · split at e
    · injection e with e; rw [← e]; exact setWit_keep h
    · cases e

theorem calOutcome_keep {s0 s : State} {c : Nat} {res : Nat × Nat × Int × Int} (hk : Keep s0 s) :
    Keep s0 (calOutcome c res s) := by
  unfold calOutcome
  repeat' (
    first
      | with_reducible assumption | with_reducible exact Keep.refl _ | with_reducible apply foldl_keep
      | with_reducible apply answerOr_keep | with_reducible apply ite_keep
      | fail_if_no_progress with_reducible apply keep_upd
      | (intro x; refine Keep.cut (s0 := s0) (x := x) ?_ ?_; (on_goal 1 => dsimp -zeta only [x]); (on_goal 2 => (intro _; clear_value x)))
      | (intro x; clear_value x) | lift_lets -underBinder | (intro s0) | split)

theorem endCalStandin_keep {s0 s : State} {c : Nat} {m : Int} (hk : Keep s0 s) :
    Keep s0 (endCalStandin c m s) := by
  unfold endCalStandin
  repeat' (
    first
      | with_reducible assumption | with_reducible exact Keep.refl _ | with_reducible apply setWit_keep
      | with_reducible apply addMark_keep | with_reducible apply cutMarks_keep | with_reducible apply onStandin_keep
      | with_reducible apply ite_keep | fail_if_no_progress with_reducible apply keep_upd
      | (intro x; refine Keep.cut (s0 := s0) (x := x) ?_ ?_; (on_goal 1 => dsimp -zeta only [x]); (on_goal 2 => (intro _; clear_value x)))
      | (intro x; clear_value x) | lift_lets -underBinder | (intro s0) | split)

theorem abandonCal_keep {s0 s : State} {c : Nat} {outcome : Nat} {m : Int} (hk : Keep s0 s) :
    Keep s0 (abandonCal c outcome m s) := by
  unfold abandonCal
  repeat' (
    first
      | with_reducible assumption | with_reducible exact Keep.refl _ | with_reducible apply setChan_keep
      | with_reducible apply calOutcome_keep | with_reducible apply endCalStandin_keep
      | with_reducible apply ite_keep | fail_if_no_progress with_reducible apply keep_upd
      | (intro x; refine Keep.cut (s0 := s0) (x := x) ?_ ?_; (on_goal 1 => dsimp -zeta only [x]); (on_goal 2 => (intro _; clear_value x)))
      | (intro x; clear_value x) | lift_lets -underBinder | (intro s0) | split)

theorem calHit_keep {s0 s : State} {first : Int} {last : Int} {c : Nat} (hk : Keep s0 s) :
    Keep s0 (calHit first last c s) := by
  unfold calHit
  repeat' (
    first
      | with_reducible assumption | with_reducible exact Keep.refl _ | with_reducible apply setChan_keep
      | with_reducible apply onStandin_keep | with_reducible apply abandonCal_keep | with_reducible apply ite_keep
      | fail_if_no_progress with_reducible apply keep_upd
      | (intro x; refine Keep.cut (s0 := s0) (x := x) ?_ ?_; (on_goal 1 => dsimp -zeta only [x]); (on_goal 2 => (intro _; clear_value x)))
      | (intro x; clear_value x) | lift_lets -underBinder | (intro s0) | split)

theorem switchEvent_keep {s0 s : State} {l : List Nat} {ts : Int} {tb : Int} {conf : Bool} (hk : Keep s0 s) :
    Keep s0 (switchEvent l ts tb conf s) := by
  unfold switchEvent
  repeat' (
    first
      | with_reducible assumption | with_reducible exact Keep.refl _ | with_reducible apply forAll_keep
      | with_reducible apply holdGroup_keep | with_reducible apply calHit_keep | with_reducible apply ite_keep
      | (intro x; refine Keep.cut (s0 := s0) (x := x) ?_ ?_; (on_goal 1 => dsimp -zeta only [x]); (on_goal 2 => (intro _; clear_value x)))
      | (intro x; clear_value x) | lift_lets -underBinder | (intro s0) | split)

theorem preemptCal_keep {s0 s : State} {q : Nat} {m : Int} (hk : Keep s0 s) :
    Keep s0 (preemptCal q m s) := by
  unfold preemptCal
  repeat' (
    first
      | with_reducible assumption | with_reducible exact Keep.refl _ | with_reducible apply setChan_keep
      | with_reducible apply endCalStandin_keep | with_reducible apply ite_keep
      | fail_if_no_progress with_reducible apply keep_upd
      | (intro x; refine Keep.cut (s0 := s0) (x := x) ?_ ?_; (on_goal 1 => dsimp -zeta only [x]); (on_goal 2 => (intro _; clear_value x)))
      | (intro x; clear_value x) | lift_lets -underBinder | (intro s0) | split)

theorem queueCal_keep {s0 s : State} {c : Nat} {selfTest : Bool} {req : Option Req} (hk : Keep s0 s) :
    Keep s0 (queueCal c selfTest req s) := by
  unfold queueCal
  repeat' (
    first
      | with_reducible assumption | with_reducible exact Keep.refl _ | with_reducible apply setChan_keep
      | with_reducible apply ite_keep | fail_if_no_progress with_reducible apply keep_upd
      | (intro x; refine Keep.cut (s0 := s0) (x := x) ?_ ?_; (on_goal 1 => dsimp -zeta only [x]); (on_goal 2 => (intro _; clear_value x)))
      | (intro x; clear_value x) | lift_lets -underBinder | (intro s0) | split)

theorem endInjection_keep {s0 s : State} {q : Nat} {id : Nat} {reason : Nat} (hk : Keep s0 s) :
    Keep s0 (endInjection q id reason s) := by
  unfold endInjection
  repeat' (
    first
      | with_reducible assumption | with_reducible exact Keep.refl _ | with_reducible apply setWit_keep
      | with_reducible apply put2_keep | with_reducible apply answer_keep | with_reducible apply ite_keep
      | fail_if_no_progress with_reducible apply keep_upd
      | (intro x; refine Keep.cut (s0 := s0) (x := x) ?_ ?_; (on_goal 1 => dsimp -zeta only [x]); (on_goal 2 => (intro _; clear_value x)))
      | (intro x; clear_value x) | lift_lets -underBinder | (intro s0) | split)

theorem endInjections_keep {s0 s : State} {q : Nat} {reason : Nat} (hk : Keep s0 s) :
    Keep s0 (endInjections q reason s) := by
  unfold endInjections
  repeat' (
    first
      | with_reducible assumption | with_reducible exact Keep.refl _ | with_reducible apply foldl_keep
      | with_reducible apply endInjection_keep | (intro s0))

theorem breakStandin_keep {s0 s : State} {m : Int} {reason : Nat} {v : StandIn} (hk : Keep s0 s) :
    Keep s0 (breakStandin m reason v s) := by
  unfold breakStandin
  repeat' (
    first
      | with_reducible assumption | with_reducible exact Keep.refl _ | with_reducible apply raise_keep
      | with_reducible apply addMark_keep | with_reducible apply endMarks_keep | with_reducible apply cutMarks_keep
      | with_reducible apply onStandin_keep | with_reducible apply abandonCal_keep | with_reducible apply ite_keep
      | fail_if_no_progress with_reducible apply keep_upd
      | (intro x; refine Keep.cut (s0 := s0) (x := x) ?_ ?_; (on_goal 1 => dsimp -zeta only [x]); (on_goal 2 => (intro _; clear_value x)))
      | (intro x; clear_value x) | lift_lets -underBinder | (intro s0) | split)

theorem breakStandins_keep {s0 s : State} {q : Nat} {m : Int} {reason : Nat} (hk : Keep s0 s) :
    Keep s0 (breakStandins q m reason s) := by
  unfold breakStandins
  repeat' (
    first
      | with_reducible assumption | with_reducible exact Keep.refl _ | with_reducible apply breakStandin_keep
      | fail_if_no_progress with_reducible apply keep_upd
      | (intro x; refine Keep.cut (s0 := s0) (x := x) ?_ ?_; (on_goal 1 => dsimp -zeta only [x]); (on_goal 2 => (intro _; clear_value x)))
      | (intro x; clear_value x) | lift_lets -underBinder | (intro s0) | split)

theorem resumePerm_keep {s0 s : State} {q : Nat} {m : Int} (hk : Keep s0 s) :
    Keep s0 (resumePerm q m s) := by
  unfold resumePerm
  repeat' (
    first
      | with_reducible assumption | with_reducible exact Keep.refl _ | with_reducible apply addMark_keep
      | with_reducible apply endMarks_keep | with_reducible apply onStandin_keep | with_reducible apply ite_keep
      | fail_if_no_progress with_reducible apply keep_upd
      | (intro x; refine Keep.cut (s0 := s0) (x := x) ?_ ?_; (on_goal 1 => dsimp -zeta only [x]); (on_goal 2 => (intro _; clear_value x)))
      | (intro x; clear_value x) | lift_lets -underBinder | (intro s0) | split)

end Sys2Proof.Machine
end

