-- ==== Sys2Proof/Laws/KeepExcitation.lean ====
section
/-! SUPPORT. Each operation of Excitation keeps what no command undoes. -/

set_option linter.all false

namespace Sys2Proof.Machine

theorem closeSwitches_keep {s0 s : State} {l : List Nat} {t : Int} (hk : Keep s0 s) :
    Keep s0 (closeSwitches l t s) := by
  unfold closeSwitches
  repeat' (
    first
      | with_reducible assumption | with_reducible exact Keep.refl _ | with_reducible apply forAll_keep
      | with_reducible apply setExc_keep | fail_if_no_progress with_reducible apply keep_upd
      | (intro x; refine Keep.cut (s0 := s0) (x := x) ?_ ?_; (on_goal 1 => dsimp -zeta only [x]); (on_goal 2 => (intro _; clear_value x)))
      | (intro x; clear_value x) | lift_lets -underBinder | (intro s0))

theorem stuckMembers_keep {s0 s : State} {e : Nat} {stuck : Nat} (hk : Keep s0 s) :
    Keep s0 (stuckMembers e stuck s) := by
  unfold stuckMembers
  repeat' (
    first
      | with_reducible assumption | with_reducible exact Keep.refl _ | with_reducible apply forAll_keep
      | with_reducible apply setMember_keep | fail_if_no_progress with_reducible apply keep_upd
      | (intro x; refine Keep.cut (s0 := s0) (x := x) ?_ ?_; (on_goal 1 => dsimp -zeta only [x]); (on_goal 2 => (intro _; clear_value x)))
      | (intro x; clear_value x) | lift_lets -underBinder | (intro s0))

theorem pulseMembers_keep {s0 s : State} {e : Nat} {result : Nat} {stuck : Nat} (hk : Keep s0 s) :
    Keep s0 (pulseMembers e result stuck s) := by
  unfold pulseMembers
  repeat' (
    first
      | with_reducible assumption | with_reducible exact Keep.refl _ | with_reducible apply forAll_keep
      | with_reducible apply setExc_keep | with_reducible apply setMember_keep
      | with_reducible apply stuckMembers_keep | with_reducible apply ite_keep
      | fail_if_no_progress with_reducible apply keep_upd
      | (intro x; refine Keep.cut (s0 := s0) (x := x) ?_ ?_; (on_goal 1 => dsimp -zeta only [x]); (on_goal 2 => (intro _; clear_value x)))
      | (intro x; clear_value x) | lift_lets -underBinder | (intro s0) | split)

theorem publishPulse_keep {s0 s : State} {e : Nat} (hk : Keep s0 s) :
    Keep s0 (publishPulse e s) := by
  unfold publishPulse
  repeat' (
    first
      | with_reducible assumption | with_reducible exact Keep.refl _ | with_reducible apply setExc_keep
      | with_reducible apply raise_keep | with_reducible apply answer_keep | with_reducible apply stuckMembers_keep
      | with_reducible apply pulseMembers_keep | with_reducible apply ite_keep
      | fail_if_no_progress with_reducible apply keep_upd
      | (intro x; refine Keep.cut (s0 := s0) (x := x) ?_ ?_; (on_goal 1 => dsimp -zeta only [x]); (on_goal 2 => (intro _; clear_value x)))
      | (intro x; clear_value x) | lift_lets -underBinder | (intro s0) | split)

theorem excUpdate_keep {s0 s : State} {l : List (Nat × Nat × Nat)} (hk : Keep s0 s) :
    Keep s0 (excUpdate l s) := by
  unfold excUpdate
  repeat' (
    first
      | with_reducible assumption | with_reducible exact Keep.refl _ | with_reducible apply forAll_keep
      | with_reducible apply foldl_keep | with_reducible apply setExc_keep | with_reducible apply publishPulse_keep
      | with_reducible apply ite_keep | fail_if_no_progress with_reducible apply keep_upd
      | (intro x; refine Keep.cut (s0 := s0) (x := x) ?_ ?_; (on_goal 1 => dsimp -zeta only [x]); (on_goal 2 => (intro _; clear_value x)))
      | (intro x; clear_value x) | lift_lets -underBinder | (intro s0) | split)

theorem reversalEdge_keep {s0 s : State} {e : Nat} (hk : Keep s0 s) :
    Keep s0 (reversalEdge e s) := by
  unfold reversalEdge
  repeat' (
    first
      | with_reducible assumption | with_reducible exact Keep.refl _ | with_reducible apply forAll_keep
      | with_reducible apply setExc_keep | with_reducible apply switchEvent_keep
      | with_reducible apply closeSwitches_keep | with_reducible apply ite_keep
      | fail_if_no_progress with_reducible apply keep_upd
      | (intro x; refine Keep.cut (s0 := s0) (x := x) ?_ ?_; (on_goal 1 => dsimp -zeta only [x]); (on_goal 2 => (intro _; clear_value x)))
      | (intro x; clear_value x) | lift_lets -underBinder | (intro s0) | split)

theorem blankingEnd_keep {s0 s : State} {e : Nat} {sense : Nat} (hk : Keep s0 s) :
    Keep s0 (blankingEnd e sense s) := by
  unfold blankingEnd
  repeat' (
    first
      | with_reducible assumption | with_reducible exact Keep.refl _ | with_reducible apply setExc_keep
      | with_reducible apply ite_keep | fail_if_no_progress with_reducible apply keep_upd
      | (intro x; refine Keep.cut (s0 := s0) (x := x) ?_ ?_; (on_goal 1 => dsimp -zeta only [x]); (on_goal 2 => (intro _; clear_value x)))
      | (intro x; clear_value x) | lift_lets -underBinder | (intro s0) | split)

theorem excTrip_keep {s0 s : State} {e : Nat} {i : Nat} (hk : Keep s0 s) :
    Keep s0 (excTrip e i s) := by
  unfold excTrip
  repeat' (
    first
      | with_reducible assumption | with_reducible exact Keep.refl _ | with_reducible apply forAll_keep
      | with_reducible apply setExc_keep | with_reducible apply raise_keep | with_reducible apply addMark_keep
      | with_reducible apply ite_keep | fail_if_no_progress with_reducible apply keep_upd
      | (intro x; refine Keep.cut (s0 := s0) (x := x) ?_ ?_; (on_goal 1 => dsimp -zeta only [x]); (on_goal 2 => (intro _; clear_value x)))
      | (intro x; clear_value x) | lift_lets -underBinder | (intro s0) | split)

theorem senseLow_keep {s0 s : State} {e : Nat} (hk : Keep s0 s) :
    Keep s0 (senseLow e s) := by
  unfold senseLow
  repeat' (
    first
      | with_reducible assumption | with_reducible exact Keep.refl _ | with_reducible apply forAll_keep
      | with_reducible apply setExc_keep | with_reducible apply raise_keep | with_reducible apply addMark_keep
      | with_reducible apply ite_keep | fail_if_no_progress with_reducible apply keep_upd
      | (intro x; refine Keep.cut (s0 := s0) (x := x) ?_ ?_; (on_goal 1 => dsimp -zeta only [x]); (on_goal 2 => (intro _; clear_value x)))
      | (intro x; clear_value x) | lift_lets -underBinder | (intro s0) | split)

theorem clearSenseLow_keep {s0 s : State} {m : Int} {g : Nat} (hk : Keep s0 s) :
    Keep s0 (clearSenseLow m g s) := by
  unfold clearSenseLow
  repeat' (
    first
      | with_reducible assumption | with_reducible exact Keep.refl _ | with_reducible apply forAll_keep
      | with_reducible apply setExc_keep | with_reducible apply clearCause_keep | with_reducible apply endMarks_keep
      | with_reducible apply senseLow_keep | with_reducible apply ite_keep
      | fail_if_no_progress with_reducible apply keep_upd
      | (intro x; refine Keep.cut (s0 := s0) (x := x) ?_ ?_; (on_goal 1 => dsimp -zeta only [x]); (on_goal 2 => (intro _; clear_value x)))
      | (intro x; clear_value x) | lift_lets -underBinder | (intro s0) | split)

theorem senseLowExit_keep {s0 s : State} {e : Nat} (hk : Keep s0 s) :
    Keep s0 (senseLowExit e s) := by
  unfold senseLowExit
  repeat' (
    first
      | with_reducible assumption | with_reducible exact Keep.refl _ | with_reducible apply forAll_keep
      | with_reducible apply switchEvent_keep | with_reducible apply clearSenseLow_keep
      | with_reducible apply ite_keep
      | (intro x; refine Keep.cut (s0 := s0) (x := x) ?_ ?_; (on_goal 1 => dsimp -zeta only [x]); (on_goal 2 => (intro _; clear_value x)))
      | (intro x; clear_value x) | lift_lets -underBinder | (intro s0) | split)

theorem notRun_keep {s0 s : State} {e : Nat} {now_ : Option Req} (hk : Keep s0 s) :
    Keep s0 (notRun e now_ s) := by
  unfold notRun
  repeat' (
    first
      | with_reducible assumption | with_reducible exact Keep.refl _ | with_reducible apply setExc_keep
      | with_reducible apply ite_keep | fail_if_no_progress with_reducible apply keep_upd
      | (intro x; refine Keep.cut (s0 := s0) (x := x) ?_ ?_; (on_goal 1 => dsimp -zeta only [x]); (on_goal 2 => (intro _; clear_value x)))
      | (intro x; clear_value x) | lift_lets -underBinder | (intro s0) | split)

theorem pulseDueRow_keep {s0 s : State} {e : Nat} (hk : Keep s0 s) :
    Keep s0 (pulseDueRow e s) := by
  unfold pulseDueRow
  repeat' (
    first
      | with_reducible assumption | with_reducible exact Keep.refl _ | with_reducible apply setExc_keep
      | with_reducible apply notRun_keep | with_reducible apply ite_keep
      | fail_if_no_progress with_reducible apply keep_upd | fail_if_no_progress with_reducible apply keep_safe
      | (intro x; refine Keep.cut (s0 := s0) (x := x) ?_ ?_; (on_goal 1 => dsimp -zeta only [x]); (on_goal 2 => (intro _; clear_value x)))
      | (intro x; refine (fun (_ : Safety) => ?_) x; subst x) | (intro x; clear_value x) | lift_lets -underBinder
      | (intro s0) | split)

theorem pulseOpen_keep {s0 s : State} {e : Nat} {sense : Nat} {raw : List Int} (hk : Keep s0 s) :
    Keep s0 (pulseOpen e sense raw s) := by
  unfold pulseOpen
  repeat' (
    first
      | with_reducible assumption | with_reducible exact Keep.refl _ | with_reducible apply forAll_keep
      | with_reducible apply setExc_keep | with_reducible apply switchEvent_keep | with_reducible apply notRun_keep
      | with_reducible apply ite_keep | fail_if_no_progress with_reducible apply keep_upd
      | (intro x; refine Keep.cut (s0 := s0) (x := x) ?_ ?_; (on_goal 1 => dsimp -zeta only [x]); (on_goal 2 => (intro _; clear_value x)))
      | (intro x; clear_value x) | lift_lets -underBinder | (intro s0) | split)

theorem pulseClose_keep {s0 s : State} {e : Nat} {i : Nat} {sense : Nat} {raw : List Int} (hk : Keep s0 s) :
    Keep s0 (pulseClose e i sense raw s) := by
  unfold pulseClose
  repeat' (
    first
      | with_reducible assumption | with_reducible exact Keep.refl _ | with_reducible apply forAll_keep
      | with_reducible apply setExc_keep | with_reducible apply closeSwitches_keep | with_reducible apply ite_keep
      | fail_if_no_progress with_reducible apply keep_upd
      | (intro x; refine Keep.cut (s0 := s0) (x := x) ?_ ?_; (on_goal 1 => dsimp -zeta only [x]); (on_goal 2 => (intro _; clear_value x)))
      | (intro x; clear_value x) | lift_lets -underBinder | (intro s0) | split)

theorem excChange_keep {s0 s : State} {m : Int} {e : Nat} (hk : Keep s0 s) :
    Keep s0 (excChange m e s) := by
  unfold excChange
  repeat' (
    first
      | with_reducible assumption | with_reducible exact Keep.refl _ | with_reducible apply forAll_keep
      | with_reducible apply setExc_keep | with_reducible apply clearCause_keep | with_reducible apply endMarks_keep
      | with_reducible apply switchEvent_keep | with_reducible apply closeSwitches_keep
      | with_reducible apply clearSenseLow_keep | with_reducible apply ite_keep
      | fail_if_no_progress with_reducible apply keep_upd
      | (intro x; refine Keep.cut (s0 := s0) (x := x) ?_ ?_; (on_goal 1 => dsimp -zeta only [x]); (on_goal 2 => (intro _; clear_value x)))
      | (intro x; clear_value x) | lift_lets -underBinder | (intro s0) | split)

theorem excChanges_keep {s0 s : State} {o : State} {m : Int} {written : List Nat} (hk : Keep s0 s) :
    Keep s0 (excChanges o m written s) := by
  unfold excChanges
  repeat' (
    first
      | with_reducible assumption | with_reducible exact Keep.refl _ | with_reducible apply forAll_keep
      | with_reducible apply excChange_keep | with_reducible apply ite_keep
      | (intro x; refine Keep.cut (s0 := s0) (x := x) ?_ ?_; (on_goal 1 => dsimp -zeta only [x]); (on_goal 2 => (intro _; clear_value x)))
      | (intro x; clear_value x) | lift_lets -underBinder | (intro s0) | split)

end Sys2Proof.Machine
end

