-- ==== Sys2Proof/Laws/KeepTones.lean ====
section
/-! SUPPORT. Each operation of Tones keeps what no command undoes. -/

set_option linter.all false

namespace Sys2Proof.Machine

theorem startScan_keep {s0 s : State} {q : Nat} {sched : Bool} (hk : Keep s0 s) :
    Keep s0 (startScan q sched s) := by
  unfold startScan
  repeat' (
    first
      | with_reducible assumption | with_reducible exact Keep.refl _ | with_reducible apply setTone_keep
      | with_reducible apply capture_keep | with_reducible apply ite_keep
      | fail_if_no_progress with_reducible apply keep_upd
      | (intro x; refine Keep.cut (s0 := s0) (x := x) ?_ ?_; (on_goal 1 => dsimp -zeta only [x]); (on_goal 2 => (intro _; clear_value x)))
      | (intro x; clear_value x) | lift_lets -underBinder | (intro s0) | split)

theorem scanDue_keep {s0 s : State} {q : Nat} (hk : Keep s0 s) :
    Keep s0 (scanDue q s) := by
  unfold scanDue
  repeat' (
    first
      | with_reducible assumption | with_reducible exact Keep.refl _ | with_reducible apply startScan_keep
      | with_reducible apply ite_keep | fail_if_no_progress with_reducible apply keep_upd
      | (intro x; refine Keep.cut (s0 := s0) (x := x) ?_ ?_; (on_goal 1 => dsimp -zeta only [x]); (on_goal 2 => (intro _; clear_value x)))
      | (intro x; clear_value x) | lift_lets -underBinder | (intro s0) | split)

theorem toneWrite_keep {s0 s : State} {q : Nat} {capture : Bool} {r : ToneReading} (hk : Keep s0 s) :
    Keep s0 (toneWrite q capture r s) := by
  unfold toneWrite
  repeat' (
    first
      | with_reducible assumption | with_reducible exact Keep.refl _ | with_reducible apply setChan_keep
      | with_reducible apply raise_keep | with_reducible apply capture_keep | with_reducible apply ite_keep
      | fail_if_no_progress with_reducible apply keep_upd
      | (intro x; refine Keep.cut (s0 := s0) (x := x) ?_ ?_; (on_goal 1 => dsimp -zeta only [x]); (on_goal 2 => (intro _; clear_value x)))
      | (intro x; clear_value x) | lift_lets -underBinder | (intro s0) | split)

theorem toneWritten_keep {s0 s : State} {q : Nat} {wo : Nat} (hk : Keep s0 s) :
    Keep s0 (toneWritten q wo s) := by
  unfold toneWritten
  repeat' (
    first
      | with_reducible assumption | with_reducible exact Keep.refl _ | with_reducible apply setTone_keep
      | with_reducible apply startScan_keep | with_reducible apply ite_keep
      | fail_if_no_progress with_reducible apply keep_upd
      | (intro x; refine Keep.cut (s0 := s0) (x := x) ?_ ?_; (on_goal 1 => dsimp -zeta only [x]); (on_goal 2 => (intro _; clear_value x)))
      | (intro x; clear_value x) | lift_lets -underBinder | (intro s0) | split)

theorem toneRoundEnd_keep {s0 s : State} {q : Nat} {limited : List Nat} (hk : Keep s0 s) :
    Keep s0 (toneRoundEnd q limited s) := by
  unfold toneRoundEnd
  repeat' (
    first
      | with_reducible assumption | with_reducible exact Keep.refl _ | with_reducible apply foldl_keep
      | with_reducible apply setTone_keep | with_reducible apply toneWrite_keep | with_reducible apply ite_keep
      | fail_if_no_progress with_reducible apply keep_upd
      | (intro x; refine Keep.cut (s0 := s0) (x := x) ?_ ?_; (on_goal 1 => dsimp -zeta only [x]); (on_goal 2 => (intro _; clear_value x)))
      | (intro x; clear_value x) | lift_lets -underBinder | (intro s0) | split)

end Sys2Proof.Machine
end

