-- ==== Sys2Proof/Laws/KeepFilter.lean ====
section
/-! SUPPORT. Each operation of Filter keeps what no command undoes. -/

set_option linter.all false

namespace Sys2Proof.Machine

theorem useSlot_keep {s0 s : State} {n : Nat} {key : Nat × Nat × Bool} {e : Int} {c : Nat} (hk : Keep s0 s) :
    Keep s0 (useSlot n key e c s) := by
  unfold useSlot
  repeat' (
    first
      | with_reducible assumption | with_reducible exact Keep.refl _ | with_reducible apply setChan_keep
      | with_reducible apply ite_keep | fail_if_no_progress with_reducible apply keep_upd
      | (intro x; refine Keep.cut (s0 := s0) (x := x) ?_ ?_; (on_goal 1 => dsimp -zeta only [x]); (on_goal 2 => (intro _; clear_value x)))
      | (intro x; clear_value x) | lift_lets -underBinder | (intro s0) | split)

theorem dropSlot_keep {s0 s : State} {n : Nat} {c : Nat} (hk : Keep s0 s) :
    Keep s0 (dropSlot n c s) := by
  unfold dropSlot
  repeat' (
    first
      | with_reducible assumption | with_reducible exact Keep.refl _ | with_reducible apply setChan_keep
      | fail_if_no_progress with_reducible apply keep_upd
      | (intro x; refine Keep.cut (s0 := s0) (x := x) ?_ ?_; (on_goal 1 => dsimp -zeta only [x]); (on_goal 2 => (intro _; clear_value x)))
      | (intro x; clear_value x) | lift_lets -underBinder | (intro s0))

theorem rekeySlot_keep {s0 s : State} {n : Nat} {r : Nat} {c : Nat} (hk : Keep s0 s) :
    Keep s0 (rekeySlot n r c s) := by
  unfold rekeySlot
  repeat' (
    first
      | with_reducible assumption | with_reducible exact Keep.refl _ | with_reducible apply setChan_keep
      | with_reducible apply ite_keep | fail_if_no_progress with_reducible apply keep_upd
      | (intro x; refine Keep.cut (s0 := s0) (x := x) ?_ ?_; (on_goal 1 => dsimp -zeta only [x]); (on_goal 2 => (intro _; clear_value x)))
      | (intro x; clear_value x) | lift_lets -underBinder | (intro s0) | split)

end Sys2Proof.Machine
end

