-- ==== Sys2Proof/Laws/KeepCorrect.lean ====
section
/-! SUPPORT. Each operation of Correct keeps what no command undoes. -/

set_option linter.all false

namespace Sys2Proof.Machine

theorem publish_keep {s0 s : State} {cs : List Nat} {from_ : Nat} {step : Bool} {f : State → State} (hf : ∀ t, Keep t (f t)) (hk : Keep s0 s) :
    Keep s0 (publish cs from_ step f s) := by
  unfold publish
  repeat' (
    first
      | with_reducible assumption | with_reducible exact Keep.refl _ | with_reducible refine Keep.trans ?_ (hf _)
      | with_reducible apply forAll_keep | with_reducible apply setChan_keep | with_reducible apply ite_keep
      | fail_if_no_progress with_reducible apply keep_upd
      | (intro x; refine Keep.cut (s0 := s0) (x := x) ?_ ?_; (on_goal 1 => dsimp -zeta only [x]); (on_goal 2 => (intro _; clear_value x)))
      | (intro x; clear_value x) | lift_lets -underBinder | (intro s0) | split)

end Sys2Proof.Machine
end

