-- ==== Sys2Proof/Laws/KeepSlots.lean ====
section
/-! SUPPORT. Each operation of Slots keeps what no command undoes. -/

set_option linter.all false

namespace Sys2Proof.Machine

theorem startRobin_keep {s0 s : State} {q : Nat} (hk : Keep s0 s) :
    Keep s0 (startRobin q s) := by
  unfold startRobin
  repeat' (
    first
      | with_reducible assumption | with_reducible exact Keep.refl _ | with_reducible apply setWit_keep
      | fail_if_no_progress with_reducible apply keep_upd
      | (intro x; refine Keep.cut (s0 := s0) (x := x) ?_ ?_; (on_goal 1 => dsimp -zeta only [x]); (on_goal 2 => (intro _; clear_value x)))
      | (intro x; clear_value x) | lift_lets -underBinder | (intro s0))

theorem rrWalk_keep {q : Nat} (n : Nat) {s0 s : State} (h : Keep s0 s) : Keep s0 (rrWalk q n s).2 := by
  induction n generalizing s with
  | zero => exact h
  | succ k ih =>
    unfold rrWalk
    dsimp only
    repeat' (first | exact h | exact ih (setWit_keep h) | exact ih h | split)

theorem injectTaken_keep {s0 s : State} {q : Nat} {p : Nat × Int} (hk : Keep s0 s) :
    Keep s0 (injectTaken q s p) := by
  unfold injectTaken
  repeat' (
    first
      | with_reducible assumption | with_reducible exact Keep.refl _ | with_reducible apply setWit_keep
      | with_reducible apply ite_keep | fail_if_no_progress with_reducible apply keep_upd
      | (intro x; refine Keep.cut (s0 := s0) (x := x) ?_ ?_; (on_goal 1 => dsimp -zeta only [x]); (on_goal 2 => (intro _; clear_value x)))
      | (intro x; clear_value x) | lift_lets -underBinder | (intro s0) | split)

end Sys2Proof.Machine
end

