-- ==== Sys2Proof/Laws/KeepWitnesses.lean ====
section
/-! SUPPORT. Each operation of Witnesses keeps what no command undoes. -/

set_option linter.all false

namespace Sys2Proof.Machine

theorem startQuick_keep {s0 s : State} {q : Nat} (hk : Keep s0 s) :
    Keep s0 (startQuick q s) := by
  unfold startQuick
  repeat' (
    first
      | with_reducible assumption | with_reducible exact Keep.refl _ | with_reducible apply setEns_keep
      | with_reducible apply ite_keep | fail_if_no_progress with_reducible apply keep_upd
      | (intro x; refine Keep.cut (s0 := s0) (x := x) ?_ ?_; (on_goal 1 => dsimp -zeta only [x]); (on_goal 2 => (intro _; clear_value x)))
      | (intro x; clear_value x) | lift_lets -underBinder | (intro s0) | split)

theorem compDone_keep {s0 s : State} {q : Nat} {ran : Bool} (hk : Keep s0 s) :
    Keep s0 (compDone q ran s) := by
  unfold compDone
  repeat' (
    first
      | with_reducible assumption | with_reducible exact Keep.refl _ | with_reducible apply foldl_keep
      | with_reducible apply answer_keep | with_reducible apply notRun_keep | with_reducible apply ite_keep
      | fail_if_no_progress with_reducible apply keep_upd
      | (intro x; refine Keep.cut (s0 := s0) (x := x) ?_ ?_; (on_goal 1 => dsimp -zeta only [x]); (on_goal 2 => (intro _; clear_value x)))
      | (intro x; clear_value x) | lift_lets -underBinder | (intro s0) | split)

theorem endLevel_keep {s0 s : State} {q : Nat} {c : Nat} {clocks : Nat} (hk : Keep s0 s) :
    Keep s0 (endLevel q c clocks s) := by
  unfold endLevel
  repeat' (
    first
      | with_reducible assumption | with_reducible exact Keep.refl _ | with_reducible apply setChan_keep
      | with_reducible apply raise_keep | with_reducible apply addMark_keep | with_reducible apply ite_keep
      | fail_if_no_progress with_reducible apply keep_upd
      | (intro x; refine Keep.cut (s0 := s0) (x := x) ?_ ?_; (on_goal 1 => dsimp -zeta only [x]); (on_goal 2 => (intro _; clear_value x)))
      | (intro x; clear_value x) | lift_lets -underBinder | (intro s0) | split)

theorem judge_keep {s0 s : State} {c : Nat} {v : Conversion} (hk : Keep s0 s) :
    Keep s0 (judge c v s) := by
  unfold judge
  repeat' (
    first
      | with_reducible assumption | with_reducible exact Keep.refl _ | with_reducible apply setChan_keep
      | with_reducible apply clearCause_keep | with_reducible apply raise_keep | with_reducible apply ite_keep
      | fail_if_no_progress with_reducible apply keep_upd
      | (intro x; refine Keep.cut (s0 := s0) (x := x) ?_ ?_; (on_goal 1 => dsimp -zeta only [x]); (on_goal 2 => (intro _; clear_value x)))
      | (intro x; clear_value x) | lift_lets -underBinder | (intro s0) | split)

theorem visit_keep {s0 s : State} {c : Nat} {raw : Int} (h : Keep s0 s) : Keep s0 (visit c raw s) := by
  unfold visit
  dsimp only
  refine ite_keep h ?_
  split
  · exact h
  · exact ite_keep h (judge_keep (setWit_keep (rrWalk_keep 145 h)))

theorem unjudge_keep {s0 s : State} {q : Nat} (hk : Keep s0 s) :
    Keep s0 (unjudge q s) := by
  unfold unjudge
  repeat' (
    first
      | with_reducible assumption | with_reducible exact Keep.refl _ | with_reducible apply forAll_keep
      | with_reducible apply setChan_keep | with_reducible apply clearCause_keep | with_reducible apply ite_keep
      | fail_if_no_progress with_reducible apply keep_upd
      | (intro x; refine Keep.cut (s0 := s0) (x := x) ?_ ?_; (on_goal 1 => dsimp -zeta only [x]); (on_goal 2 => (intro _; clear_value x)))
      | (intro x; clear_value x) | lift_lets -underBinder | (intro s0) | split)

theorem cycleJudge_keep {s0 s : State} {q : Nat} {zero : Int} {ratio : Int} (hk : Keep s0 s) :
    Keep s0 (cycleJudge q zero ratio s) := by
  unfold cycleJudge
  repeat' (
    first
      | with_reducible assumption | with_reducible exact Keep.refl _ | with_reducible apply setWit_keep
      | with_reducible apply clearCause_keep | with_reducible apply raise_keep
      | with_reducible apply endInjections_keep | with_reducible apply breakStandins_keep
      | with_reducible apply resumePerm_keep | with_reducible apply startRobin_keep
      | with_reducible apply unjudge_keep | with_reducible apply ite_keep
      | fail_if_no_progress with_reducible apply keep_upd
      | (intro x; refine Keep.cut (s0 := s0) (x := x) ?_ ?_; (on_goal 1 => dsimp -zeta only [x]); (on_goal 2 => (intro _; clear_value x)))
      | (intro x; clear_value x) | lift_lets -underBinder | (intro s0) | split)

theorem cycleEnd_keep {s0 s : State} {q : Nat} {zero ratio : Int} (h : Keep s0 s) :
    Keep s0 (cycleEnd q zero ratio s) := by
  unfold cycleEnd
  refine ite_keep h ?_
  split
  · exact cycleJudge_keep h
  · dsimp only
    exact ite_keep (cycleJudge_keep (rrWalk_keep _ h)) h
  · exact h

theorem commonCause_keep {s0 s : State} {q : Nat} {agnd : Int} {vref : Int} {ratio : Int} {zero : Int} (hk : Keep s0 s) :
    Keep s0 (commonCause q agnd vref ratio zero s) := by
  unfold commonCause
  repeat' (
    first
      | with_reducible assumption | with_reducible exact Keep.refl _ | with_reducible apply setWit_keep
      | with_reducible apply setEns_keep | with_reducible apply issueCoalesced_keep
      | with_reducible apply putWin_keep | with_reducible apply startQuick_keep | with_reducible apply ite_keep
      | fail_if_no_progress with_reducible apply keep_upd
      | (intro x; refine Keep.cut (s0 := s0) (x := x) ?_ ?_; (on_goal 1 => dsimp -zeta only [x]); (on_goal 2 => (intro _; clear_value x)))
      | (intro x; clear_value x) | lift_lets -underBinder | (intro s0) | split)

theorem injectRun_keep {s0 s : State} {hold : Option Int} {r : Req} (hk : Keep s0 s) :
    Keep s0 (injectRun hold r s) := by
  unfold injectRun
  repeat' (
    first
      | with_reducible assumption | with_reducible exact Keep.refl _ | with_reducible apply setWit_keep
      | with_reducible apply queued_keep | with_reducible apply refuseOr_keep | with_reducible apply settle_keep
      | with_reducible apply ite_keep | fail_if_no_progress with_reducible apply keep_upd
      | (intro x; refine Keep.cut (s0 := s0) (x := x) ?_ ?_; (on_goal 1 => dsimp -zeta only [x]); (on_goal 2 => (intro _; clear_value x)))
      | (intro x; clear_value x) | lift_lets -underBinder | (intro s0) | split)

theorem injectServe_keep {s0 s : State} {p : Packet} (hk : Keep s0 s) :
    Keep s0 (injectServe  p s) := by
  unfold injectServe
  repeat' (
    first
      | with_reducible assumption | with_reducible exact Keep.refl _ | with_reducible apply refuse_keep
      | with_reducible apply serve_keep | with_reducible apply schedule_keep | with_reducible apply injectRun_keep
      | with_reducible apply ite_keep | fail_if_no_progress with_reducible apply keep_upd
      | (intro x; refine Keep.cut (s0 := s0) (x := x) ?_ ?_; (on_goal 1 => dsimp -zeta only [x]); (on_goal 2 => (intro _; clear_value x)))
      | (intro x; clear_value x) | lift_lets -underBinder | (intro s0) | split)

theorem cancelServe_keep {s0 s : State} {p : Packet} (hk : Keep s0 s) :
    Keep s0 (cancelServe  p s) := by
  unfold cancelServe
  repeat' (
    first
      | with_reducible assumption | with_reducible exact Keep.refl _ | with_reducible apply answer_keep
      | with_reducible apply refuse_keep | with_reducible apply serve_keep | with_reducible apply endInjection_keep
      | fail_if_no_progress with_reducible apply keep_upd
      | (intro x; refine Keep.cut (s0 := s0) (x := x) ?_ ?_; (on_goal 1 => dsimp -zeta only [x]); (on_goal 2 => (intro _; clear_value x)))
      | (intro x; clear_value x) | lift_lets -underBinder | (intro s0) | split)

theorem injectDone_keep {s0 s : State} {id : Nat} (hk : Keep s0 s) :
    Keep s0 (injectDone id s) := by
  unfold injectDone
  repeat' (
    first
      | with_reducible assumption | with_reducible exact Keep.refl _ | with_reducible apply endInjection_keep
      | with_reducible apply ite_keep | fail_if_no_progress with_reducible apply keep_upd
      | (intro x; refine Keep.cut (s0 := s0) (x := x) ?_ ?_; (on_goal 1 => dsimp -zeta only [x]); (on_goal 2 => (intro _; clear_value x)))
      | (intro x; clear_value x) | lift_lets -underBinder | (intro s0) | split)

theorem injectTimeout_keep {s0 s : State} {id : Nat} (hk : Keep s0 s) :
    Keep s0 (injectTimeout id s) := by
  unfold injectTimeout
  repeat' (
    first
      | with_reducible assumption | with_reducible exact Keep.refl _ | with_reducible apply endInjection_keep
      | with_reducible apply ite_keep | fail_if_no_progress with_reducible apply keep_upd
      | (intro x; refine Keep.cut (s0 := s0) (x := x) ?_ ?_; (on_goal 1 => dsimp -zeta only [x]); (on_goal 2 => (intro _; clear_value x)))
      | (intro x; clear_value x) | lift_lets -underBinder | (intro s0) | split)

theorem injectEdge_keep {s0 s : State} {pin : Nat} {rise : Bool} {fine : Nat} (hk : Keep s0 s) :
    Keep s0 (injectEdge pin rise fine s) := by
  unfold injectEdge
  repeat' (
    first
      | with_reducible assumption | with_reducible exact Keep.refl _ | with_reducible apply forAll_keep
      | with_reducible apply setWit_keep | fail_if_no_progress with_reducible apply keep_upd
      | (intro x; refine Keep.cut (s0 := s0) (x := x) ?_ ?_; (on_goal 1 => dsimp -zeta only [x]); (on_goal 2 => (intro _; clear_value x)))
      | (intro x; clear_value x) | lift_lets -underBinder | (intro s0))

theorem allWitness_keep {s0 s : State} {st : Nat} (hk : Keep s0 s) :
    Keep s0 (allWitness st s) := by
  unfold allWitness
  repeat' (
    first
      | with_reducible assumption | with_reducible exact Keep.refl _ | with_reducible apply forAll_keep
      | with_reducible apply setWit_keep | with_reducible apply startRobin_keep | with_reducible apply ite_keep
      | fail_if_no_progress with_reducible apply keep_upd
      | (intro x; refine Keep.cut (s0 := s0) (x := x) ?_ ?_; (on_goal 1 => dsimp -zeta only [x]); (on_goal 2 => (intro _; clear_value x)))
      | (intro x; clear_value x) | lift_lets -underBinder | (intro s0) | split)

theorem simulServe_keep {s0 s : State} {p : Packet} (hk : Keep s0 s) :
    Keep s0 (simulServe  p s) := by
  unfold simulServe
  repeat' (
    first
      | with_reducible assumption | with_reducible exact Keep.refl _ | with_reducible apply jDone_keep
      | with_reducible apply answer_keep | with_reducible apply refuse_keep | with_reducible apply serve_keep
      | with_reducible apply allWitness_keep | with_reducible apply ite_keep
      | fail_if_no_progress with_reducible apply keep_upd
      | (intro x; refine Keep.cut (s0 := s0) (x := x) ?_ ?_; (on_goal 1 => dsimp -zeta only [x]); (on_goal 2 => (intro _; clear_value x)))
      | (intro x; clear_value x) | lift_lets -underBinder | (intro s0) | split)

theorem simulEnd_keep {s0 s : State} (hk : Keep s0 s) :
    Keep s0 (simulEnd s) := by
  unfold simulEnd
  repeat' (
    first
      | with_reducible assumption | with_reducible exact Keep.refl _ | with_reducible apply allWitness_keep
      | with_reducible apply ite_keep | fail_if_no_progress with_reducible apply keep_upd
      | (intro x; refine Keep.cut (s0 := s0) (x := x) ?_ ?_; (on_goal 1 => dsimp -zeta only [x]); (on_goal 2 => (intro _; clear_value x)))
      | (intro x; clear_value x) | lift_lets -underBinder | (intro s0) | split)

theorem simulStopServe_keep {s0 s : State} {p : Packet} (hk : Keep s0 s) :
    Keep s0 (simulStopServe  p s) := by
  unfold simulStopServe
  repeat' (
    first
      | with_reducible assumption | with_reducible exact Keep.refl _ | with_reducible apply jDone_keep
      | with_reducible apply answer_keep | with_reducible apply serve_keep | with_reducible apply simulEnd_keep
      | (intro s0))

theorem simulExpiry_keep {s0 s : State} (hk : Keep s0 s) :
    Keep s0 (simulExpiry s) := by
  unfold simulExpiry
  repeat' (
    first
      | with_reducible assumption | with_reducible exact Keep.refl _ | with_reducible apply simulEnd_keep
      | with_reducible apply ite_keep | fail_if_no_progress with_reducible apply keep_upd
      | (intro x; refine Keep.cut (s0 := s0) (x := x) ?_ ?_; (on_goal 1 => dsimp -zeta only [x]); (on_goal 2 => (intro _; clear_value x)))
      | (intro x; clear_value x) | lift_lets -underBinder | (intro s0) | split)

theorem simulFolios_keep {s0 s : State} {n : Nat} {l : List Conversion} (fuel : Nat) (h : Keep s0 s) :
    Keep s0 (simulFolios fuel n l s) := by
  induction fuel generalizing s l with
  | zero => exact h
  | succ k ih =>
    unfold simulFolios
    exact ite_keep h (ih (writeFolio_keep h))

theorem rootResults_keep {s0 s : State} {l : List Conversion} (hk : Keep s0 s) :
    Keep s0 (rootResults l s) := by
  unfold rootResults
  repeat' (
    first
      | with_reducible assumption | with_reducible exact Keep.refl _ | with_reducible apply forAll_keep
      | with_reducible apply setMember_keep | fail_if_no_progress with_reducible apply keep_upd
      | (intro x; refine Keep.cut (s0 := s0) (x := x) ?_ ?_; (on_goal 1 => dsimp -zeta only [x]); (on_goal 2 => (intro _; clear_value x)))
      | (intro x; clear_value x) | lift_lets -underBinder | (intro s0) | split)

theorem simulFrame_keep {s0 s : State} {start : Nat} {l : List (Nat × Int)} (hk : Keep s0 s) :
    Keep s0 (simulFrame start l s) := by
  unfold simulFrame
  repeat' (
    first
      | with_reducible assumption | with_reducible exact Keep.refl _ | with_reducible apply simulFolios_keep
      | with_reducible apply rootResults_keep | with_reducible apply ite_keep
      | fail_if_no_progress with_reducible apply keep_upd
      | (intro x; refine Keep.cut (s0 := s0) (x := x) ?_ ?_; (on_goal 1 => dsimp -zeta only [x]); (on_goal 2 => (intro _; clear_value x)))
      | (intro x; clear_value x) | lift_lets -underBinder | (intro s0) | split)

end Sys2Proof.Machine
end

