-- ==== Sys2Proof/Laws/KeepImage.lean ====
section
/-! SUPPORT. Each operation of Image keeps what no command undoes. -/

set_option linter.all false

namespace Sys2Proof.Machine

theorem setImgState_keep {s0 s : State} {i st : Nat} (h : Keep s0 s) : Keep s0 (setImgState i st s) :=
  setPartition_keep (fun k => programByte_wf (partition_wf _ k)) h

theorem selectFrom_keep {s0 s : State} (l : List Nat) (h : Keep s0 s) : Keep s0 (selectFrom l s).1 := by
  induction l generalizing s with
  | nil => exact h
  | cons i r ih =>
    unfold selectFrom
    dsimp only
    split
    · exact ih (setImgState_keep h)
    · split
      · split
        · exact setPartition_keep (fun k => imgTry_wf (partition_wf _ k)) h
        · exact ih (setImgState_keep (setPartition_keep (fun k => imgTry_wf (partition_wf _ k)) h))
      · split
        · exact h
        · exact ih (setImgState_keep h)

theorem selectImage_keep {s0 s : State} (h : Keep s0 s) : Keep s0 (selectImage s).1 := by
  have k := selectFrom_keep (candidates s) h
  unfold selectImage
  exact k

theorem fallback_keep {s0 s : State} {image : Nat} {reason : Nat} (hk : Keep s0 s) :
    Keep s0 (fallback image reason s) := by
  unfold fallback
  repeat' (
    first
      | with_reducible assumption | with_reducible exact Keep.refl _ | with_reducible apply raise_keep
      | with_reducible apply jInternal_keep | (intro s0))

end Sys2Proof.Machine
end

