-- ==== Sys2Proof/Laws/KeepQuires.lean ====
section
/-! SUPPORT. Each operation of Quires keeps what no command undoes. -/

set_option linter.all false

namespace Sys2Proof.Machine

theorem markOne_keep {s0 s : State} {c : Nat} {kind : MarkKind} {m : Int} (hk : Keep s0 s) :
    Keep s0 (markOne c kind m s) := by
  unfold markOne
  repeat' (
    first
      | with_reducible assumption | with_reducible exact Keep.refl _ | with_reducible apply setChan_keep
      | with_reducible apply addMark_keep | with_reducible apply ite_keep
      | fail_if_no_progress with_reducible apply keep_upd
      | (intro x; refine Keep.cut (s0 := s0) (x := x) ?_ ?_; (on_goal 1 => dsimp -zeta only [x]); (on_goal 2 => (intro _; clear_value x)))
      | (intro x; clear_value x) | lift_lets -underBinder | (intro s0) | split)

theorem nameDegraded_keep {s0 s : State} {n : Nat} {reason : Nat} {q : Nat} {first : Nat} {last : Nat} (hk : Keep s0 s) :
    Keep s0 (nameDegraded n reason q first last s) := by
  unfold nameDegraded
  repeat' (
    first
      | with_reducible assumption | with_reducible exact Keep.refl _ | with_reducible apply foldl_keep
      | with_reducible apply setStream_keep | with_reducible apply dueGap_keep | with_reducible apply ite_keep
      | fail_if_no_progress with_reducible apply keep_upd
      | (intro x; refine Keep.cut (s0 := s0) (x := x) ?_ ?_; (on_goal 1 => dsimp -zeta only [x]); (on_goal 2 => (intro _; clear_value x)))
      | (intro x; clear_value x) | lift_lets -underBinder | (intro s0) | split)

theorem lossGaps_keep {s0 s : State} {reason : Nat} {q : Nat} {m : Int} (hk : Keep s0 s) :
    Keep s0 (lossGaps reason q m s) := by
  unfold lossGaps
  repeat' (
    first
      | with_reducible assumption | with_reducible exact Keep.refl _ | with_reducible apply forAll_keep
      | with_reducible apply foldl_keep | with_reducible apply nameDegraded_keep
      | (intro x; refine Keep.cut (s0 := s0) (x := x) ?_ ?_; (on_goal 1 => dsimp -zeta only [x]); (on_goal 2 => (intro _; clear_value x)))
      | (intro x; clear_value x) | lift_lets -underBinder | (intro s0))

theorem pushHist_keep {s0 s : State} {c : Nat} {m : Int} {r : Int} {x : Int} (hk : Keep s0 s) :
    Keep s0 (pushHist c m r x s) := by
  unfold pushHist
  repeat' (
    first
      | with_reducible assumption | with_reducible exact Keep.refl _ | with_reducible apply setChan_keep
      | with_reducible apply ite_keep | fail_if_no_progress with_reducible apply keep_upd
      | (intro x; refine Keep.cut (s0 := s0) (x := x) ?_ ?_; (on_goal 1 => dsimp -zeta only [x]); (on_goal 2 => (intro _; clear_value x)))
      | (intro x; clear_value x) | lift_lets -underBinder | (intro s0) | split)

theorem closeChan_keep {s0 s : State} {f : State} {m : Int} {oq : Option OpenQuire} {c : Nat} {k : Nat} (hk : Keep s0 s) :
    Keep s0 (closeChan f m oq c k s) := by
  unfold closeChan
  repeat' (
    first
      | with_reducible assumption | with_reducible exact Keep.refl _ | with_reducible apply when_keep
      | with_reducible apply markOne_keep | with_reducible apply pushHist_keep | with_reducible apply ite_keep
      | fail_if_no_progress with_reducible apply keep_upd
      | (intro x; refine Keep.cut (s0 := s0) (x := x) ?_ ?_; (on_goal 1 => dsimp -zeta only [x]); (on_goal 2 => (intro _; clear_value x)))
      | (intro x; clear_value x) | lift_lets -underBinder | (intro s0) | split)

theorem closeTemps_keep {s0 s : State} {q : Nat} {m : Int} {oq : Option OpenQuire} (hk : Keep s0 s) :
    Keep s0 (closeTemps q m oq s) := by
  unfold closeTemps
  repeat' (
    first
      | with_reducible assumption | with_reducible exact Keep.refl _ | with_reducible apply setWit_keep
      | with_reducible apply setEns_keep | with_reducible apply ite_keep
      | fail_if_no_progress with_reducible apply keep_upd
      | (intro x; refine Keep.cut (s0 := s0) (x := x) ?_ ?_; (on_goal 1 => dsimp -zeta only [x]); (on_goal 2 => (intro _; clear_value x)))
      | (intro x; clear_value x) | lift_lets -underBinder | (intro s0) | split)

theorem freePositions_keep {s0 s : State} {q : Nat} {m : Int} (hk : Keep s0 s) :
    Keep s0 (freePositions q m s) := by
  unfold freePositions
  repeat' (
    first
      | with_reducible assumption | with_reducible exact Keep.refl _ | with_reducible apply setWit_keep
      | with_reducible apply ite_keep | fail_if_no_progress with_reducible apply keep_upd
      | (intro x; refine Keep.cut (s0 := s0) (x := x) ?_ ?_; (on_goal 1 => dsimp -zeta only [x]); (on_goal 2 => (intro _; clear_value x)))
      | (intro x; clear_value x) | lift_lets -underBinder | (intro s0) | split)

theorem closeQuire_keep {s0 s : State} {f : State} {m : Int} {o : Option OpenPeriod} {q : Nat} (hk : Keep s0 s) :
    Keep s0 (closeQuire f m o q s) := by
  unfold closeQuire
  repeat' (
    first
      | with_reducible assumption | with_reducible exact Keep.refl _ | with_reducible apply forAll_keep
      | with_reducible apply when_keep | with_reducible apply lossGaps_keep | with_reducible apply closeChan_keep
      | with_reducible apply closeTemps_keep | with_reducible apply freePositions_keep
      | with_reducible apply ite_keep
      | (intro x; refine Keep.cut (s0 := s0) (x := x) ?_ ?_; (on_goal 1 => dsimp -zeta only [x]); (on_goal 2 => (intro _; clear_value x)))
      | (intro x; clear_value x) | lift_lets -underBinder | (intro s0) | split)

theorem closeOne_keep {s0 s : State} {m : Int} (hk : Keep s0 s) :
    Keep s0 (closeOne m s) := by
  unfold closeOne
  repeat' (
    first
      | with_reducible assumption | with_reducible exact Keep.refl _ | with_reducible apply forAll_keep
      | with_reducible apply closeQuire_keep | fail_if_no_progress with_reducible apply keep_upd
      | (intro x; refine Keep.cut (s0 := s0) (x := x) ?_ ?_; (on_goal 1 => dsimp -zeta only [x]); (on_goal 2 => (intro _; clear_value x)))
      | (intro x; clear_value x) | lift_lets -underBinder | (intro s0))

theorem periodClose_keep {s0 s : State} {m : Int} (hk : Keep s0 s) :
    Keep s0 (periodClose m s) := by
  unfold periodClose
  repeat' (
    first
      | with_reducible assumption | with_reducible exact Keep.refl _ | with_reducible apply foldl_keep
      | with_reducible apply closeOne_keep | with_reducible apply ite_keep
      | fail_if_no_progress with_reducible apply keep_upd
      | (intro x; refine Keep.cut (s0 := s0) (x := x) ?_ ?_; (on_goal 1 => dsimp -zeta only [x]); (on_goal 2 => (intro _; clear_value x)))
      | (intro x; clear_value x) | lift_lets -underBinder | (intro s0) | split)

theorem warmEvent_keep {s0 s : State} {q : Nat} {old : Nat} {new : Nat} (hk : Keep s0 s) :
    Keep s0 (warmEvent q old new s) := by
  unfold warmEvent
  repeat' (
    first
      | with_reducible assumption | with_reducible exact Keep.refl _ | with_reducible apply raise_keep
      | with_reducible apply ite_keep | (intro s0) | split)

theorem drainEdge_keep {s0 s : State} {q : Nat} {m : Int} (hk : Keep s0 s) :
    Keep s0 (drainEdge q m s) := by
  unfold drainEdge
  repeat' (
    first
      | with_reducible assumption | with_reducible exact Keep.refl _ | with_reducible apply forAll_keep
      | with_reducible apply setQuire_keep | with_reducible apply setMember_keep | with_reducible apply addMark_keep
      | with_reducible apply breakStandins_keep | fail_if_no_progress with_reducible apply keep_upd
      | (intro x; refine Keep.cut (s0 := s0) (x := x) ?_ ?_; (on_goal 1 => dsimp -zeta only [x]); (on_goal 2 => (intro _; clear_value x)))
      | (intro x; clear_value x) | lift_lets -underBinder | (intro s0))

theorem extNext_keep {s0 s : State} {x : ExtStd} (hk : Keep s0 s) :
    Keep s0 (extNext x s) := by
  unfold extNext
  repeat' (
    first
      | with_reducible assumption | with_reducible exact Keep.refl _ | with_reducible apply jDone_keep
      | with_reducible apply answerOr_keep | with_reducible apply ite_keep
      | fail_if_no_progress with_reducible apply keep_upd
      | (intro x; refine Keep.cut (s0 := s0) (x := x) ?_ ?_; (on_goal 1 => dsimp -zeta only [x]); (on_goal 2 => (intro _; clear_value x)))
      | (intro x; clear_value x) | lift_lets -underBinder | (intro s0) | split)

theorem extLost_keep {s0 s : State} {l : List Nat} (hk : Keep s0 s) :
    Keep s0 (extLost l s) := by
  unfold extLost
  repeat' (
    first
      | with_reducible assumption | with_reducible exact Keep.refl _ | with_reducible apply extNext_keep
      | with_reducible apply ite_keep | fail_if_no_progress with_reducible apply keep_upd
      | (intro x; refine Keep.cut (s0 := s0) (x := x) ?_ ?_; (on_goal 1 => dsimp -zeta only [x]); (on_goal 2 => (intro _; clear_value x)))
      | (intro x; clear_value x) | lift_lets -underBinder | (intro s0) | split)

theorem drainBegin_keep {s0 s : State} {q : Nat} (hk : Keep s0 s) :
    Keep s0 (drainBegin q s) := by
  unfold drainBegin
  repeat' (
    first
      | with_reducible assumption | with_reducible exact Keep.refl _ | with_reducible apply abandonCal_keep
      | with_reducible apply endInjections_keep | with_reducible apply extLost_keep
      | fail_if_no_progress with_reducible apply keep_upd
      | (intro x; refine Keep.cut (s0 := s0) (x := x) ?_ ?_; (on_goal 1 => dsimp -zeta only [x]); (on_goal 2 => (intro _; clear_value x)))
      | (intro x; clear_value x) | lift_lets -underBinder | (intro s0) | split)

theorem quireStop_keep {s0 s : State} {q : Nat} (hk : Keep s0 s) :
    Keep s0 (quireStop q s) := by
  unfold quireStop
  repeat' (
    first
      | with_reducible assumption | with_reducible exact Keep.refl _ | with_reducible apply setQuire_keep
      | with_reducible apply setWit_keep | with_reducible apply setEns_keep | with_reducible apply raiseOnce_keep
      | with_reducible apply answerOr_keep | with_reducible apply compDone_keep
      | with_reducible apply warmEvent_keep | with_reducible apply drainEdge_keep
      | fail_if_no_progress with_reducible apply keep_upd
      | (intro x; refine Keep.cut (s0 := s0) (x := x) ?_ ?_; (on_goal 1 => dsimp -zeta only [x]); (on_goal 2 => (intro _; clear_value x)))
      | (intro x; clear_value x) | lift_lets -underBinder | (intro s0) | split)

theorem serviceFailed_keep {s0 s : State} {q : Nat} {ecode : Nat} (hk : Keep s0 s) :
    Keep s0 (serviceFailed q ecode s) := by
  unfold serviceFailed
  repeat' (
    first
      | with_reducible assumption | with_reducible exact Keep.refl _ | with_reducible apply setQuire_keep
      | with_reducible apply faulted_keep | with_reducible apply ite_keep
      | fail_if_no_progress with_reducible apply keep_upd
      | (intro x; refine Keep.cut (s0 := s0) (x := x) ?_ ?_; (on_goal 1 => dsimp -zeta only [x]); (on_goal 2 => (intro _; clear_value x)))
      | (intro x; clear_value x) | lift_lets -underBinder | (intro s0) | split)

theorem neverStarted_keep {s0 s : State} {q : Nat} {ecode : Nat} (hk : Keep s0 s) :
    Keep s0 (neverStarted q ecode s) := by
  unfold neverStarted
  repeat' (
    first
      | with_reducible assumption | with_reducible exact Keep.refl _ | with_reducible apply setQuire_keep
      | with_reducible apply setWit_keep | with_reducible apply raiseOnce_keep | with_reducible apply warmEvent_keep
      | fail_if_no_progress with_reducible apply keep_upd
      | (intro x; refine Keep.cut (s0 := s0) (x := x) ?_ ?_; (on_goal 1 => dsimp -zeta only [x]); (on_goal 2 => (intro _; clear_value x)))
      | (intro x; clear_value x) | lift_lets -underBinder | (intro s0))

theorem linkFailed_keep {s0 s : State} {q : Nat} (hk : Keep s0 s) :
    Keep s0 (linkFailed q s) := by
  unfold linkFailed
  repeat' (
    first
      | with_reducible assumption | with_reducible exact Keep.refl _ | with_reducible apply setQuire_keep
      | with_reducible apply raise_keep | with_reducible apply drainEdge_keep | with_reducible apply drainBegin_keep
      | with_reducible apply serviceFailed_keep | with_reducible apply neverStarted_keep
      | with_reducible apply ite_keep | fail_if_no_progress with_reducible apply keep_upd
      | (intro x; refine Keep.cut (s0 := s0) (x := x) ?_ ?_; (on_goal 1 => dsimp -zeta only [x]); (on_goal 2 => (intro _; clear_value x)))
      | (intro x; clear_value x) | lift_lets -underBinder | (intro s0) | split)

theorem stopAt_keep {s0 s : State} {q : Nat} (hk : Keep s0 s) :
    Keep s0 (stopAt q s) := by
  unfold stopAt
  repeat' (
    first
      | with_reducible assumption | with_reducible exact Keep.refl _ | with_reducible apply quireStop_keep
      | with_reducible apply ite_keep
      | (intro x; refine Keep.cut (s0 := s0) (x := x) ?_ ?_; (on_goal 1 => dsimp -zeta only [x]); (on_goal 2 => (intro _; clear_value x)))
      | (intro x; clear_value x) | lift_lets -underBinder | (intro s0) | split)

theorem takeFrame_keep {s0 s : State} {f : StitchFrame} (hk : Keep s0 s) :
    Keep s0 (takeFrame f s) := by
  unfold takeFrame
  repeat' (
    first
      | with_reducible assumption | with_reducible exact Keep.refl _ | with_reducible apply setQuire_keep
      | with_reducible apply ite_keep | fail_if_no_progress with_reducible apply keep_upd
      | (intro x; refine Keep.cut (s0 := s0) (x := x) ?_ ?_; (on_goal 1 => dsimp -zeta only [x]); (on_goal 2 => (intro _; clear_value x)))
      | (intro x; clear_value x) | lift_lets -underBinder | (intro s0) | split)

theorem takeInjected_keep {s0 s : State} {f : StitchFrame} (hk : Keep s0 s) :
    Keep s0 (takeInjected f s) := by
  unfold takeInjected
  repeat' (
    first
      | with_reducible assumption | with_reducible exact Keep.refl _ | with_reducible apply foldl_keep
      | with_reducible apply injectTaken_keep | (intro s0))

theorem loseFrame_keep {s0 s : State} {q : Nat} {seq : Nat} (hk : Keep s0 s) :
    Keep s0 (loseFrame q seq s) := by
  unfold loseFrame
  repeat' (
    first
      | with_reducible assumption | with_reducible exact Keep.refl _ | with_reducible apply setQuire_keep
      | with_reducible apply raise_keep | with_reducible apply linkFailed_keep | with_reducible apply ite_keep
      | fail_if_no_progress with_reducible apply keep_upd
      | (intro x; refine Keep.cut (s0 := s0) (x := x) ?_ ?_; (on_goal 1 => dsimp -zeta only [x]); (on_goal 2 => (intro _; clear_value x)))
      | (intro x; clear_value x) | lift_lets -underBinder | (intro s0) | split)

theorem frameFails_keep {s0 s : State} {f : StitchFrame} (hk : Keep s0 s) :
    Keep s0 (frameFails f s) := by
  unfold frameFails
  repeat' (
    first
      | with_reducible assumption | with_reducible exact Keep.refl _ | with_reducible apply toQuire_keep
      | with_reducible apply setQuire_keep | with_reducible apply loseFrame_keep | with_reducible apply ite_keep
      | fail_if_no_progress with_reducible apply keep_upd
      | (intro x; refine Keep.cut (s0 := s0) (x := x) ?_ ?_; (on_goal 1 => dsimp -zeta only [x]); (on_goal 2 => (intro _; clear_value x)))
      | (intro x; clear_value x) | lift_lets -underBinder | (intro s0) | split)

theorem frameReplayed_keep {s0 s : State} {q : Nat} {seq : Nat} (hk : Keep s0 s) :
    Keep s0 (frameReplayed q seq s) := by
  unfold frameReplayed
  repeat' (
    first
      | with_reducible assumption | with_reducible exact Keep.refl _ | with_reducible apply setQuire_keep
      | fail_if_no_progress with_reducible apply keep_upd
      | (intro x; refine Keep.cut (s0 := s0) (x := x) ?_ ?_; (on_goal 1 => dsimp -zeta only [x]); (on_goal 2 => (intro _; clear_value x)))
      | (intro x; clear_value x) | lift_lets -underBinder | (intro s0) | split)

theorem frameIn_keep {s0 s : State} {f : StitchFrame} (hk : Keep s0 s) :
    Keep s0 (frameIn f s) := by
  unfold frameIn
  repeat' (
    first
      | with_reducible assumption | with_reducible exact Keep.refl _ | with_reducible apply takeFrame_keep
      | with_reducible apply takeInjected_keep | with_reducible apply frameFails_keep
      | with_reducible apply frameReplayed_keep | with_reducible apply ite_keep
      | fail_if_no_progress with_reducible apply keep_upd
      | (intro x; refine Keep.cut (s0 := s0) (x := x) ?_ ?_; (on_goal 1 => dsimp -zeta only [x]); (on_goal 2 => (intro _; clear_value x)))
      | (intro x; clear_value x) | lift_lets -underBinder | (intro s0) | split)

theorem loseOutput_keep {s0 s : State} {m : Int} {c : Nat} (hk : Keep s0 s) :
    Keep s0 (loseOutput m c s) := by
  unfold loseOutput
  repeat' (
    first
      | with_reducible assumption | with_reducible exact Keep.refl _ | with_reducible apply setChan_keep
      | with_reducible apply addMark_keep | with_reducible apply ite_keep
      | fail_if_no_progress with_reducible apply keep_upd
      | (intro x; refine Keep.cut (s0 := s0) (x := x) ?_ ?_; (on_goal 1 => dsimp -zeta only [x]); (on_goal 2 => (intro _; clear_value x)))
      | (intro x; clear_value x) | lift_lets -underBinder | (intro s0) | split)

theorem crossingFull_keep {s0 s : State} {crossing : Nat} {q : Nat} {m : Int} (hk : Keep s0 s) :
    Keep s0 (crossingFull crossing q m s) := by
  unfold crossingFull
  repeat' (
    first
      | with_reducible assumption | with_reducible exact Keep.refl _ | with_reducible apply forAll_keep
      | with_reducible apply raise_keep | with_reducible apply lossGaps_keep | with_reducible apply loseOutput_keep
      | with_reducible apply ite_keep
      | (intro x; refine Keep.cut (s0 := s0) (x := x) ?_ ?_; (on_goal 1 => dsimp -zeta only [x]); (on_goal 2 => (intro _; clear_value x)))
      | (intro x; clear_value x) | lift_lets -underBinder | (intro s0) | split)

theorem deskew_keep {s0 s : State} {q : Nat} {need : Int} (hk : Keep s0 s) :
    Keep s0 (deskew q need s) := by
  unfold deskew
  repeat' (
    first
      | with_reducible assumption | with_reducible exact Keep.refl _ | with_reducible apply setQuire_keep
      | with_reducible apply clearCause_keep | with_reducible apply raiseOnce_keep
      | with_reducible apply serviceFailed_keep | with_reducible apply neverStarted_keep
      | with_reducible apply ite_keep | fail_if_no_progress with_reducible apply keep_upd
      | (intro x; refine Keep.cut (s0 := s0) (x := x) ?_ ?_; (on_goal 1 => dsimp -zeta only [x]); (on_goal 2 => (intro _; clear_value x)))
      | (intro x; clear_value x) | lift_lets -underBinder | (intro s0) | split)

theorem prepareAck_keep {s0 s : State} {q : Nat} {edge : Nat} (hk : Keep s0 s) :
    Keep s0 (prepareAck q edge s) := by
  unfold prepareAck
  repeat' (
    first
      | with_reducible assumption | with_reducible exact Keep.refl _ | with_reducible apply forAll_keep
      | with_reducible apply when_keep | with_reducible apply toQuire_keep | with_reducible apply setQuire_keep
      | with_reducible apply ite_keep | fail_if_no_progress with_reducible apply keep_upd
      | (intro x; refine Keep.cut (s0 := s0) (x := x) ?_ ?_; (on_goal 1 => dsimp -zeta only [x]); (on_goal 2 => (intro _; clear_value x)))
      | (intro x; clear_value x) | lift_lets -underBinder | (intro s0) | split)

theorem withdraw_keep {s0 s : State} {edge : Nat} {on : List Nat} {late : List Nat} (hk : Keep s0 s) :
    Keep s0 (withdraw edge on late s) := by
  unfold withdraw
  repeat' (
    first
      | with_reducible assumption | with_reducible exact Keep.refl _ | with_reducible apply forAll_keep
      | with_reducible apply toQuire_keep | with_reducible apply raise_keep
      | (intro x; refine Keep.cut (s0 := s0) (x := x) ?_ ?_; (on_goal 1 => dsimp -zeta only [x]); (on_goal 2 => (intro _; clear_value x)))
      | (intro x; clear_value x) | lift_lets -underBinder | (intro s0))

theorem returnItems_keep {s0 s : State} {c : PendCommit} (hk : Keep s0 s) :
    Keep s0 (returnItems c s) := by
  unfold returnItems
  repeat' (
    first
      | with_reducible assumption | with_reducible exact Keep.refl _ | with_reducible apply onSession_keep
      | fail_if_no_progress with_reducible apply keep_upd
      | (intro x; refine Keep.cut (s0 := s0) (x := x) ?_ ?_; (on_goal 1 => dsimp -zeta only [x]); (on_goal 2 => (intro _; clear_value x)))
      | (intro x; clear_value x) | lift_lets -underBinder | (intro s0))

theorem commitLate_keep {s0 s : State} {c : PendCommit} (hk : Keep s0 s) :
    Keep s0 (commitLate c s) := by
  unfold commitLate
  repeat' (
    first
      | with_reducible assumption | with_reducible exact Keep.refl _ | with_reducible apply faultedOr_keep
      | with_reducible apply withdraw_keep | with_reducible apply returnItems_keep | with_reducible apply ite_keep
      | fail_if_no_progress with_reducible apply keep_upd
      | (intro x; refine Keep.cut (s0 := s0) (x := x) ?_ ?_; (on_goal 1 => dsimp -zeta only [x]); (on_goal 2 => (intro _; clear_value x)))
      | (intro x; clear_value x) | lift_lets -underBinder | (intro s0) | split)

theorem stepLate_keep {s0 s : State} {edge : Nat} (hk : Keep s0 s) :
    Keep s0 (stepLate edge s) := by
  unfold stepLate
  repeat' (
    first
      | with_reducible assumption | with_reducible exact Keep.refl _ | with_reducible apply faulted_keep
      | with_reducible apply tryLock_keep | with_reducible apply withdraw_keep | with_reducible apply ite_keep
      | fail_if_no_progress with_reducible apply keep_upd
      | (intro x; refine Keep.cut (s0 := s0) (x := x) ?_ ?_; (on_goal 1 => dsimp -zeta only [x]); (on_goal 2 => (intro _; clear_value x)))
      | (intro x; clear_value x) | lift_lets -underBinder | (intro s0) | split)

theorem drainLate_keep {s0 s : State} {edge : Nat} {q : Nat} (hk : Keep s0 s) :
    Keep s0 (drainLate edge q s) := by
  unfold drainLate
  repeat' (
    first
      | with_reducible assumption | with_reducible exact Keep.refl _ | with_reducible apply setQuire_keep
      | with_reducible apply faulted_keep | with_reducible apply drainEdge_keep | with_reducible apply withdraw_keep
      | with_reducible apply ite_keep | fail_if_no_progress with_reducible apply keep_upd
      | (intro x; refine Keep.cut (s0 := s0) (x := x) ?_ ?_; (on_goal 1 => dsimp -zeta only [x]); (on_goal 2 => (intro _; clear_value x)))
      | (intro x; clear_value x) | lift_lets -underBinder | (intro s0) | split)

theorem drainAt_keep {s0 s : State} {q : Nat} (hk : Keep s0 s) :
    Keep s0 (drainAt q s) := by
  unfold drainAt
  repeat' (
    first
      | with_reducible assumption | with_reducible exact Keep.refl _ | with_reducible apply drainEdge_keep
      | with_reducible apply drainLate_keep | with_reducible apply ite_keep
      | fail_if_no_progress with_reducible apply keep_upd
      | (intro x; refine Keep.cut (s0 := s0) (x := x) ?_ ?_; (on_goal 1 => dsimp -zeta only [x]); (on_goal 2 => (intro _; clear_value x)))
      | (intro x; clear_value x) | lift_lets -underBinder | (intro s0) | split)

theorem prepareDeadline_keep {s0 s : State} {edge : Nat} (hk : Keep s0 s) :
    Keep s0 (prepareDeadline edge s) := by
  unfold prepareDeadline
  repeat' (
    first
      | with_reducible assumption | with_reducible exact Keep.refl _ | with_reducible apply forAll_keep
      | with_reducible apply foldl_keep | with_reducible apply commitLate_keep | with_reducible apply stepLate_keep
      | with_reducible apply drainLate_keep | with_reducible apply ite_keep
      | (intro x; refine Keep.cut (s0 := s0) (x := x) ?_ ?_; (on_goal 1 => dsimp -zeta only [x]); (on_goal 2 => (intro _; clear_value x)))
      | (intro x; clear_value x) | lift_lets -underBinder | (intro s0) | split)

theorem drainServe_keep {s0 s : State} {p : Packet} (hk : Keep s0 s) :
    Keep s0 (drainServe  p s) := by
  unfold drainServe
  repeat' (
    first
      | with_reducible assumption | with_reducible exact Keep.refl _ | with_reducible apply toQuire_keep
      | with_reducible apply setQuire_keep | with_reducible apply jCommand_keep | with_reducible apply queued_keep
      | with_reducible apply refuse_keep | with_reducible apply serve_keep | with_reducible apply drainEdge_keep
      | with_reducible apply drainBegin_keep | with_reducible apply ite_keep
      | fail_if_no_progress with_reducible apply keep_upd
      | (intro x; refine Keep.cut (s0 := s0) (x := x) ?_ ?_; (on_goal 1 => dsimp -zeta only [x]); (on_goal 2 => (intro _; clear_value x)))
      | (intro x; clear_value x) | lift_lets -underBinder | (intro s0) | split)

theorem reenterServe_keep {s0 s : State} {p : Packet} (hk : Keep s0 s) :
    Keep s0 (reenterServe  p s) := by
  unfold reenterServe
  repeat' (
    first
      | with_reducible assumption | with_reducible exact Keep.refl _ | with_reducible apply toQuire_keep
      | with_reducible apply setQuire_keep | with_reducible apply queued_keep | with_reducible apply refuse_keep
      | with_reducible apply serve_keep | with_reducible apply ite_keep
      | fail_if_no_progress with_reducible apply keep_upd
      | (intro x; refine Keep.cut (s0 := s0) (x := x) ?_ ?_; (on_goal 1 => dsimp -zeta only [x]); (on_goal 2 => (intro _; clear_value x)))
      | (intro x; clear_value x) | lift_lets -underBinder | (intro s0) | split)

theorem ucodeServe_keep {s0 s : State} {p : Packet} (hk : Keep s0 s) :
    Keep s0 (ucodeServe  p s) := by
  unfold ucodeServe
  repeat' (
    first
      | with_reducible assumption | with_reducible exact Keep.refl _ | with_reducible apply toQuire_keep
      | with_reducible apply setQuire_keep | with_reducible apply raise_keep | with_reducible apply queued_keep
      | with_reducible apply refuse_keep | with_reducible apply faulted_keep | with_reducible apply serve_keep
      | with_reducible apply ite_keep | fail_if_no_progress with_reducible apply keep_upd
      | fail_if_no_progress with_reducible apply keep_flash
      | (intro x; refine Keep.cut (s0 := s0) (x := x) ?_ ?_; (on_goal 1 => dsimp -zeta only [x]); (on_goal 2 => (intro _; clear_value x)))
      | (intro x; refine (fun (_ : Flash) => ?_) x; subst x) | (intro x; clear_value x) | lift_lets -underBinder
      | (intro s0) | split)

theorem ucodeDone_keep {s0 s : State} {q : Nat} {digest : List Byte} (hk : Keep s0 s) :
    Keep s0 (ucodeDone q digest s) := by
  unfold ucodeDone
  repeat' (
    first
      | with_reducible assumption | with_reducible exact Keep.refl _ | with_reducible apply setQuire_keep
      | with_reducible apply raise_keep | with_reducible apply jDone_keep | with_reducible apply answer_keep
      | with_reducible apply serviceFailed_keep | with_reducible apply ite_keep
      | fail_if_no_progress with_reducible apply keep_upd | fail_if_no_progress with_reducible apply keep_flash
      | (intro x; refine Keep.cut (s0 := s0) (x := x) ?_ ?_; (on_goal 1 => dsimp -zeta only [x]); (on_goal 2 => (intro _; clear_value x)))
      | (intro x; refine (fun (_ : Flash) => ?_) x; subst x) | (intro x; clear_value x) | lift_lets -underBinder
      | (intro s0) | split)

theorem reentryStart_keep {s0 s : State} {q : Nat} (hk : Keep s0 s) :
    Keep s0 (reentryStart q s) := by
  unfold reentryStart
  repeat' (
    first
      | with_reducible assumption | with_reducible exact Keep.refl _ | with_reducible apply setQuire_keep
      | with_reducible apply setEns_keep | with_reducible apply ite_keep
      | fail_if_no_progress with_reducible apply keep_upd
      | (intro x; refine Keep.cut (s0 := s0) (x := x) ?_ ?_; (on_goal 1 => dsimp -zeta only [x]); (on_goal 2 => (intro _; clear_value x)))
      | (intro x; clear_value x) | lift_lets -underBinder | (intro s0) | split)

theorem pushPast_keep {s0 s : State} {m : Int} (hk : Keep s0 s) :
    Keep s0 (pushPast m s) := by
  unfold pushPast
  repeat' (
    first
      | with_reducible assumption | with_reducible exact Keep.refl _
      | fail_if_no_progress with_reducible apply keep_upd
      | (intro x; refine Keep.cut (s0 := s0) (x := x) ?_ ?_; (on_goal 1 => dsimp -zeta only [x]); (on_goal 2 => (intro _; clear_value x)))
      | (intro x; clear_value x) | lift_lets -underBinder | (intro s0))

theorem putPolicy_keep {s0 s : State} {v : Nat} (hk : Keep s0 s) :
    Keep s0 (putPolicy v s) := by
  unfold putPolicy
  repeat' (
    first
      | with_reducible assumption | with_reducible exact Keep.refl _ | with_reducible apply programKeys_keep
      | fail_if_no_progress with_reducible apply keep_upd
      | (intro x; refine Keep.cut (s0 := s0) (x := x) ?_ ?_; (on_goal 1 => dsimp -zeta only [x]); (on_goal 2 => (intro _; clear_value x)))
      | (intro x; clear_value x) | lift_lets -underBinder | (intro s0))

theorem applyItem_keep {s0 s : State} {b : Staged} (hk : Keep s0 s) :
    Keep s0 (applyItem b s) := by
  unfold applyItem
  repeat' (
    first
      | with_reducible assumption | with_reducible exact Keep.refl _ | with_reducible apply putWord_keep
      | with_reducible apply foldl_keep | with_reducible apply putPolicy_keep | with_reducible apply ite_keep
      | (intro s0) | split)

theorem applyWords_keep {s0 s : State} {l : List Staged} (hk : Keep s0 s) :
    Keep s0 (applyWords l s) := by
  unfold applyWords
  repeat' (
    first
      | with_reducible assumption | with_reducible exact Keep.refl _ | with_reducible apply foldl_keep
      | with_reducible apply applyItem_keep | (intro s0))

theorem reentryRecord_keep {s0 s : State} {q : Nat} {t : Int} {n : Nat} (hk : Keep s0 s) :
    Keep s0 (reentryRecord q t n s) := by
  unfold reentryRecord
  repeat' (
    first
      | with_reducible assumption | with_reducible exact Keep.refl _ | with_reducible apply dueDisc_keep
      | fail_if_no_progress with_reducible apply keep_upd
      | (intro x; refine Keep.cut (s0 := s0) (x := x) ?_ ?_; (on_goal 1 => dsimp -zeta only [x]); (on_goal 2 => (intro _; clear_value x)))
      | (intro x; clear_value x) | lift_lets -underBinder | (intro s0) | split)

theorem reentryRelease_keep {s0 s : State} {q : Nat} {island : Int} {held : Bool} (hk : Keep s0 s) :
    Keep s0 (reentryRelease q island held s) := by
  unfold reentryRelease
  repeat' (
    first
      | with_reducible assumption | with_reducible exact Keep.refl _ | with_reducible apply forAll_keep
      | with_reducible apply foldl_keep | with_reducible apply toQuire_keep | with_reducible apply setChan_keep
      | with_reducible apply setQuire_keep | with_reducible apply setWit_keep | with_reducible apply setEns_keep
      | with_reducible apply clearCause_keep | with_reducible apply raise_keep | with_reducible apply jDone_keep
      | with_reducible apply answerOr_keep | with_reducible apply setMember_keep
      | with_reducible apply endMarks_keep | with_reducible apply resumePerm_keep
      | with_reducible apply excChanges_keep | with_reducible apply toneWritten_keep
      | with_reducible apply publish_keep | with_reducible apply startRobin_keep
      | with_reducible apply warmEvent_keep | with_reducible apply pushPast_keep
      | with_reducible apply applyWords_keep | with_reducible apply reentryRecord_keep
      | with_reducible apply ite_keep | fail_if_no_progress with_reducible apply keep_upd
      | (intro x; refine Keep.cut (s0 := s0) (x := x) ?_ ?_; (on_goal 1 => dsimp -zeta only [x]); (on_goal 2 => (intro _; clear_value x)))
      | (intro x; clear_value x) | lift_lets -underBinder | (intro s0) | split)

theorem withdrawStandin_keep {s0 s : State} {c : Nat} (hk : Keep s0 s) :
    Keep s0 (withdrawStandin c s) := by
  unfold withdrawStandin
  repeat' (
    first
      | with_reducible assumption | with_reducible exact Keep.refl _ | with_reducible apply setWit_keep
      | with_reducible apply endMarks_keep | with_reducible apply onStandin_keep | with_reducible apply ite_keep
      | fail_if_no_progress with_reducible apply keep_upd
      | (intro x; refine Keep.cut (s0 := s0) (x := x) ?_ ?_; (on_goal 1 => dsimp -zeta only [x]); (on_goal 2 => (intro _; clear_value x)))
      | (intro x; clear_value x) | lift_lets -underBinder | (intro s0) | split)

theorem standinServe_keep {s0 s : State} {p : Packet} (hk : Keep s0 s) :
    Keep s0 (standinServe  p s) := by
  unfold standinServe
  repeat' (
    first
      | with_reducible assumption | with_reducible exact Keep.refl _ | with_reducible apply setWit_keep
      | with_reducible apply jDone_keep | with_reducible apply answer_keep | with_reducible apply refuse_keep
      | with_reducible apply serve_keep | with_reducible apply withdrawStandin_keep | with_reducible apply ite_keep
      | fail_if_no_progress with_reducible apply keep_upd
      | (intro x; refine Keep.cut (s0 := s0) (x := x) ?_ ?_; (on_goal 1 => dsimp -zeta only [x]); (on_goal 2 => (intro _; clear_value x)))
      | (intro x; clear_value x) | lift_lets -underBinder | (intro s0) | split)

theorem permStart_keep {s0 s : State} {q : Nat} (hk : Keep s0 s) :
    Keep s0 (permStart q s) := by
  unfold permStart
  repeat' (
    first
      | with_reducible assumption | with_reducible exact Keep.refl _ | with_reducible apply setWit_keep
      | with_reducible apply addMark_keep | with_reducible apply endMarks_keep
      | with_reducible apply preemptCal_keep | with_reducible apply ite_keep
      | fail_if_no_progress with_reducible apply keep_upd
      | (intro x; refine Keep.cut (s0 := s0) (x := x) ?_ ?_; (on_goal 1 => dsimp -zeta only [x]); (on_goal 2 => (intro _; clear_value x)))
      | (intro x; clear_value x) | lift_lets -underBinder | with_reducible refine takePos_keep ?_ ‹_› | (intro s0)
      | split)

theorem diagServe_keep {s0 s : State} {p : Packet} (hk : Keep s0 s) :
    Keep s0 (diagServe  p s) := by
  unfold diagServe
  repeat' (
    first
      | with_reducible assumption | with_reducible exact Keep.refl _ | with_reducible apply answer_keep
      | with_reducible apply serve_keep | (intro s0))

end Sys2Proof.Machine
end

