-- ==== Sys2Proof/Laws/KeepCalib.lean ====
section
/-! SUPPORT. Each operation of Calib keeps what no command undoes. -/

set_option linter.all false

namespace Sys2Proof.Machine

theorem ringPush_keep {s0 s : State} {q : Nat} {kind : Nat} {seconds : Nat} {body : List Byte} (hk : Keep s0 s) :
    Keep s0 (ringPush q kind seconds body s) := by
  unfold ringPush
  repeat' (
    first
      | with_reducible assumption | with_reducible exact Keep.refl _
      | fail_if_no_progress with_reducible apply keep_upd | fail_if_no_progress with_reducible apply keep_flash
      | (intro x; refine Keep.cut (s0 := s0) (x := x) ?_ ?_; (on_goal 1 => dsimp -zeta only [x]); (on_goal 2 => (intro _; clear_value x)))
      | (intro x; refine (fun (_ : Flash) => ?_) x; subst x) | (intro x; clear_value x) | lift_lets -underBinder
      | (intro s0))

theorem ringMerge_keep {s0 s : State} {q : Nat} (hk : Keep s0 s) :
    Keep s0 (ringMerge q s) := by
  unfold ringMerge
  repeat' (
    first
      | with_reducible assumption | with_reducible exact Keep.refl _ | with_reducible apply ringPush_keep
      | with_reducible apply ite_keep | fail_if_no_progress with_reducible apply keep_upd
      | fail_if_no_progress with_reducible apply keep_flash
      | (intro x; refine Keep.cut (s0 := s0) (x := x) ?_ ?_; (on_goal 1 => dsimp -zeta only [x]); (on_goal 2 => (intro _; clear_value x)))
      | (intro x; refine (fun (_ : Flash) => ?_) x; subst x) | (intro x; clear_value x) | lift_lets -underBinder
      | (intro s0) | split)

theorem writeRingAt_keep {s0 s : State} {q : Nat} {kind : Nat} {seconds : Nat} {body : List Byte} (hk : Keep s0 s) :
    Keep s0 (writeRingAt q kind seconds body s) := by
  unfold writeRingAt
  repeat' (
    first
      | with_reducible assumption | with_reducible exact Keep.refl _ | with_reducible apply ringPush_keep
      | with_reducible apply ringMerge_keep | with_reducible apply ite_keep
      | (intro x; refine Keep.cut (s0 := s0) (x := x) ?_ ?_; (on_goal 1 => dsimp -zeta only [x]); (on_goal 2 => (intro _; clear_value x)))
      | (intro x; refine (fun (_ : Flash) => ?_) x; subst x) | (intro x; clear_value x) | lift_lets -underBinder
      | (intro s0) | split)

theorem writeRing_keep {s0 s : State} {q : Nat} {kind : Nat} {body : List Byte} (hk : Keep s0 s) :
    Keep s0 (writeRing q kind body s) := by
  unfold writeRing
  repeat' (
    first
      | with_reducible assumption | with_reducible exact Keep.refl _ | with_reducible apply writeRingAt_keep
      | (intro s0))

theorem memberState_keep {s0 s : State} {q : Nat} {i : Nat} {st : Nat} {residual : Rat} {internal : Bool} (hk : Keep s0 s) :
    Keep s0 (memberState q i st residual internal s) := by
  unfold memberState
  repeat' (
    first
      | with_reducible assumption | with_reducible exact Keep.refl _ | with_reducible apply when_keep
      | with_reducible apply setEns_keep | with_reducible apply clearCause_keep | with_reducible apply raise_keep
      | with_reducible apply raiseOnce_keep | with_reducible apply jInternal_keep
      | with_reducible apply writeRing_keep | with_reducible apply ite_keep
      | fail_if_no_progress with_reducible apply keep_upd
      | (intro x; refine Keep.cut (s0 := s0) (x := x) ?_ ?_; (on_goal 1 => dsimp -zeta only [x]); (on_goal 2 => (intro _; clear_value x)))
      | (intro x; clear_value x) | lift_lets -underBinder | (intro s0) | split)

theorem newScale_keep {s0 s : State} {q : Nat} {full : Bool} (hk : Keep s0 s) :
    Keep s0 (newScale q full s) := by
  unfold newScale
  repeat' (
    first
      | with_reducible assumption | with_reducible exact Keep.refl _ | with_reducible apply setEns_keep
      | with_reducible apply clearCause_keep | with_reducible apply raiseOnce_keep
      | with_reducible apply publish_keep | with_reducible apply ite_keep
      | fail_if_no_progress with_reducible apply keep_upd
      | (intro x; refine Keep.cut (s0 := s0) (x := x) ?_ ?_; (on_goal 1 => dsimp -zeta only [x]); (on_goal 2 => (intro _; clear_value x)))
      | (intro x; clear_value x) | lift_lets -underBinder | (intro s0) | split)

theorem compComplete_keep {s0 s : State} {q : Nat} {l : List Bool} (hk : Keep s0 s) :
    Keep s0 (compComplete q l s) := by
  unfold compComplete
  repeat' (
    first
      | with_reducible assumption | with_reducible exact Keep.refl _ | with_reducible apply forAll_keep
      | with_reducible apply foldl_keep | with_reducible apply setEns_keep | with_reducible apply startQuick_keep
      | with_reducible apply compDone_keep | with_reducible apply memberState_keep
      | with_reducible apply newScale_keep | with_reducible apply ite_keep
      | fail_if_no_progress with_reducible apply keep_upd
      | (intro x; refine Keep.cut (s0 := s0) (x := x) ?_ ?_; (on_goal 1 => dsimp -zeta only [x]); (on_goal 2 => (intro _; clear_value x)))
      | (intro x; clear_value x) | lift_lets -underBinder | (intro s0) | split)

theorem fullDue_keep {s0 s : State} {q : Nat} (hk : Keep s0 s) :
    Keep s0 (fullDue q s) := by
  unfold fullDue
  repeat' (
    first
      | with_reducible assumption | with_reducible exact Keep.refl _ | with_reducible apply setEns_keep
      | with_reducible apply ite_keep | fail_if_no_progress with_reducible apply keep_upd
      | (intro x; refine Keep.cut (s0 := s0) (x := x) ?_ ?_; (on_goal 1 => dsimp -zeta only [x]); (on_goal 2 => (intro _; clear_value x)))
      | (intro x; clear_value x) | lift_lets -underBinder | (intro s0) | split)

theorem quickDue_keep {s0 s : State} {q : Nat} (hk : Keep s0 s) :
    Keep s0 (quickDue q s) := by
  unfold quickDue
  repeat' (
    first
      | with_reducible assumption | with_reducible exact Keep.refl _ | with_reducible apply setEns_keep
      | with_reducible apply startQuick_keep | with_reducible apply ite_keep
      | fail_if_no_progress with_reducible apply keep_upd
      | (intro x; refine Keep.cut (s0 := s0) (x := x) ?_ ?_; (on_goal 1 => dsimp -zeta only [x]); (on_goal 2 => (intro _; clear_value x)))
      | (intro x; clear_value x) | lift_lets -underBinder | (intro s0) | split)

theorem setWarm_keep {s0 s : State} {q : Nat} {st : Nat} (hk : Keep s0 s) :
    Keep s0 (setWarm q st s) := by
  unfold setWarm
  repeat' (
    first
      | with_reducible assumption | with_reducible exact Keep.refl _ | with_reducible apply setEns_keep
      | with_reducible apply warmEvent_keep
      | (intro x; refine Keep.cut (s0 := s0) (x := x) ?_ ?_; (on_goal 1 => dsimp -zeta only [x]); (on_goal 2 => (intro _; clear_value x)))
      | (intro x; clear_value x) | lift_lets -underBinder | (intro s0))

theorem warmAdvance_keep {s0 s : State} {q : Nat} {island : Int} {steady : Nat} (hk : Keep s0 s) :
    Keep s0 (warmAdvance q island steady s) := by
  unfold warmAdvance
  repeat' (
    first
      | with_reducible assumption | with_reducible exact Keep.refl _ | with_reducible apply forAll_keep
      | with_reducible apply setEns_keep | with_reducible apply queueCal_keep | with_reducible apply setWarm_keep
      | with_reducible apply ite_keep | fail_if_no_progress with_reducible apply keep_upd
      | (intro x; refine Keep.cut (s0 := s0) (x := x) ?_ ?_; (on_goal 1 => dsimp -zeta only [x]); (on_goal 2 => (intro _; clear_value x)))
      | (intro x; clear_value x) | lift_lets -underBinder | (intro s0) | split)

theorem heaterFault_keep {s0 s : State} {q : Nat} {absent : Bool} {departed : Nat} (hk : Keep s0 s) :
    Keep s0 (heaterFault q absent departed s) := by
  unfold heaterFault
  repeat' (
    first
      | with_reducible assumption | with_reducible exact Keep.refl _ | with_reducible apply setEns_keep
      | with_reducible apply raiseOnce_keep | with_reducible apply compDone_keep
      | with_reducible apply writeRing_keep | with_reducible apply setWarm_keep | with_reducible apply ite_keep
      | fail_if_no_progress with_reducible apply keep_upd
      | (intro x; refine Keep.cut (s0 := s0) (x := x) ?_ ?_; (on_goal 1 => dsimp -zeta only [x]); (on_goal 2 => (intro _; clear_value x)))
      | (intro x; clear_value x) | lift_lets -underBinder | (intro s0) | split)

theorem heaterBack_keep {s0 s : State} {q : Nat} (hk : Keep s0 s) :
    Keep s0 (heaterBack q s) := by
  unfold heaterBack
  repeat' (
    first
      | with_reducible assumption | with_reducible exact Keep.refl _ | with_reducible apply clearCause_keep
      | with_reducible apply writeRing_keep | with_reducible apply setWarm_keep | with_reducible apply ite_keep
      | (intro s0) | split)

theorem tempTrigger_keep {s0 s : State} {c : Nat} (hk : Keep s0 s) :
    Keep s0 (tempTrigger c s) := by
  unfold tempTrigger
  repeat' (
    first
      | with_reducible assumption | with_reducible exact Keep.refl _ | with_reducible apply queueCal_keep
      | with_reducible apply ite_keep
      | (intro x; refine Keep.cut (s0 := s0) (x := x) ?_ ?_; (on_goal 1 => dsimp -zeta only [x]); (on_goal 2 => (intro _; clear_value x)))
      | (intro x; clear_value x) | lift_lets -underBinder | (intro s0) | split)

theorem ageTrigger_keep {s0 s : State} {c : Nat} (hk : Keep s0 s) :
    Keep s0 (ageTrigger c s) := by
  unfold ageTrigger
  repeat' (
    first
      | with_reducible assumption | with_reducible exact Keep.refl _ | with_reducible apply queueCal_keep
      | with_reducible apply ite_keep | fail_if_no_progress with_reducible apply keep_upd
      | (intro x; refine Keep.cut (s0 := s0) (x := x) ?_ ?_; (on_goal 1 => dsimp -zeta only [x]); (on_goal 2 => (intro _; clear_value x)))
      | (intro x; clear_value x) | lift_lets -underBinder | (intro s0) | split)

theorem calGrant_keep {s0 s : State} {q : Nat} (h : Keep s0 s) : Keep s0 (calGrant q s) := by
  unfold calGrant
  split
  · exact h
  · split
    · exact h
    · rename_i r e
      have k : ∀ (c : Nat) (v : Chan) (l : List (Nat × Bool)) {t : State}, Keep s0 t →
          Keep s0 (setChan c v { t with cal.queue := l }) := fun c v l t h =>
        setChan_keep (keep_upd _ _ _ _ _ _ _ _ _ _ _ _ _ _ _ _ _ _ _ _ _ _ _ _ h)
      extract_lets start
      have ks : ∀ (m : Int) {t : State}, Keep s0 t → Keep s0 (start m t) := fun m t h => k _ _ _ h
      clear_value start
      split
      · exact ks _ h
      · refine ite_keep h ?_
        dsimp only
        split
        · exact h
        · rename_i t et
          exact ks _ (addMark_keep (setWit_keep (takePos_keep h et)))

theorem safetyRefused_keep {s0 s : State} {c : Nat} (hk : Keep s0 s) :
    Keep s0 (safetyRefused c s) := by
  unfold safetyRefused
  repeat' (
    first
      | with_reducible assumption | with_reducible exact Keep.refl _ | with_reducible apply abandonCal_keep
      | with_reducible apply ite_keep | fail_if_no_progress with_reducible apply keep_upd
      | (intro x; refine Keep.cut (s0 := s0) (x := x) ?_ ?_; (on_goal 1 => dsimp -zeta only [x]); (on_goal 2 => (intro _; clear_value x)))
      | (intro x; clear_value x) | lift_lets -underBinder | (intro s0) | split)

theorem calJudge_keep {s0 s : State} {c : Nat} {g : Nat} {selfTest : Bool} {direct : Bool} {x : CalMeas} (hk : Keep s0 s) :
    Keep s0 (calJudge c g selfTest direct x s) := by
  unfold calJudge
  repeat' (
    first
      | with_reducible assumption | with_reducible exact Keep.refl _ | with_reducible apply setChan_keep
      | with_reducible apply setEns_keep | with_reducible apply raise_keep | with_reducible apply calOutcome_keep
      | with_reducible apply publish_keep | with_reducible apply ite_keep
      | fail_if_no_progress with_reducible apply keep_upd
      | (intro x; refine Keep.cut (s0 := s0) (x := x) ?_ ?_; (on_goal 1 => dsimp -zeta only [x]); (on_goal 2 => (intro _; clear_value x)))
      | (intro x; clear_value x) | lift_lets -underBinder | (intro s0) | split)

theorem calResult_keep {s0 s : State} {c : Nat} {sweep : Int × Int × Int} {drop : Int × Int} (hk : Keep s0 s) :
    Keep s0 (calResult c sweep drop s) := by
  unfold calResult
  repeat' (
    first
      | with_reducible assumption | with_reducible exact Keep.refl _ | with_reducible apply setChan_keep
      | with_reducible apply setQuire_keep | with_reducible apply calJudge_keep | with_reducible apply ite_keep
      | fail_if_no_progress with_reducible apply keep_upd
      | (intro x; refine Keep.cut (s0 := s0) (x := x) ?_ ?_; (on_goal 1 => dsimp -zeta only [x]); (on_goal 2 => (intro _; clear_value x)))
      | (intro x; clear_value x) | lift_lets -underBinder | (intro s0) | split)

theorem witnessCal_keep {s0 s : State} {q : Nat} {zero : Int} {dac1 : Int × Int} {dac16 : Int × Int} {ratio : Int} {vref : Int} (hk : Keep s0 s) :
    Keep s0 (witnessCal q zero dac1 dac16 ratio vref s) := by
  unfold witnessCal
  repeat' (
    first
      | with_reducible assumption | with_reducible exact Keep.refl _ | with_reducible apply setWit_keep
      | with_reducible apply ite_keep | fail_if_no_progress with_reducible apply keep_upd
      | (intro x; refine Keep.cut (s0 := s0) (x := x) ?_ ?_; (on_goal 1 => dsimp -zeta only [x]); (on_goal 2 => (intro _; clear_value x)))
      | (intro x; clear_value x) | lift_lets -underBinder | (intro s0) | split)

theorem planWarn_keep {s0 s : State} {q : Nat} {r : Nat} (hk : Keep s0 s) :
    Keep s0 (planWarn q r s) := by
  unfold planWarn
  repeat' (
    first
      | with_reducible assumption | with_reducible exact Keep.refl _ | with_reducible apply setEns_keep
      | with_reducible apply raise_keep | with_reducible apply ite_keep
      | fail_if_no_progress with_reducible apply keep_upd
      | (intro x; refine Keep.cut (s0 := s0) (x := x) ?_ ?_; (on_goal 1 => dsimp -zeta only [x]); (on_goal 2 => (intro _; clear_value x)))
      | (intro x; clear_value x) | lift_lets -underBinder | (intro s0) | split)

theorem planDue_keep {s0 s : State} {q : Nat} {r : Nat} (hk : Keep s0 s) :
    Keep s0 (planDue q r s) := by
  unfold planDue
  repeat' (
    first
      | with_reducible assumption | with_reducible exact Keep.refl _ | with_reducible apply setEns_keep
      | with_reducible apply raise_keep | with_reducible apply ite_keep
      | fail_if_no_progress with_reducible apply keep_upd
      | (intro x; refine Keep.cut (s0 := s0) (x := x) ?_ ?_; (on_goal 1 => dsimp -zeta only [x]); (on_goal 2 => (intro _; clear_value x)))
      | (intro x; clear_value x) | lift_lets -underBinder | (intro s0) | split)

theorem planModel_keep {s0 s : State} {q : Nat} (hk : Keep s0 s) :
    Keep s0 (planModel q s) := by
  unfold planModel
  repeat' (
    first
      | with_reducible assumption | with_reducible exact Keep.refl _ | with_reducible apply setEns_keep
      | with_reducible apply jInternal_keep | with_reducible apply ite_keep
      | fail_if_no_progress with_reducible apply keep_upd
      | (intro x; refine Keep.cut (s0 := s0) (x := x) ?_ ?_; (on_goal 1 => dsimp -zeta only [x]); (on_goal 2 => (intro _; clear_value x)))
      | (intro x; clear_value x) | lift_lets -underBinder | (intro s0) | split)

theorem dailyRecords_keep {s0 s : State} (hk : Keep s0 s) :
    Keep s0 (dailyRecords s) := by
  unfold dailyRecords
  repeat' (
    first
      | with_reducible assumption | with_reducible exact Keep.refl _ | with_reducible apply forAll_keep
      | with_reducible apply setEns_keep | with_reducible apply writeRingAt_keep | with_reducible apply ite_keep
      | fail_if_no_progress with_reducible apply keep_upd
      | (intro x; refine Keep.cut (s0 := s0) (x := x) ?_ ?_; (on_goal 1 => dsimp -zeta only [x]); (on_goal 2 => (intro _; clear_value x)))
      | (intro x; clear_value x) | lift_lets -underBinder | (intro s0) | split)

theorem calServe_keep {s0 s : State} {p : Packet} (hk : Keep s0 s) :
    Keep s0 (calServe  p s) := by
  unfold calServe
  repeat' (
    first
      | with_reducible assumption | with_reducible exact Keep.refl _ | with_reducible apply forAll_keep
      | with_reducible apply queued_keep | with_reducible apply refuse_keep | with_reducible apply serve_keep
      | with_reducible apply queueCal_keep | with_reducible apply ite_keep
      | fail_if_no_progress with_reducible apply keep_upd
      | (intro x; refine Keep.cut (s0 := s0) (x := x) ?_ ?_; (on_goal 1 => dsimp -zeta only [x]); (on_goal 2 => (intro _; clear_value x)))
      | (intro x; clear_value x) | lift_lets -underBinder | (intro s0) | split)

theorem abortOne_keep {s0 s : State} {c : Nat} (hk : Keep s0 s) :
    Keep s0 (abortOne s c).1 := by
  unfold abortOne
  repeat' (
    first
      | with_reducible assumption | with_reducible exact Keep.refl _ | with_reducible apply abandonCal_keep
      | with_reducible apply ite_keep | fail_if_no_progress with_reducible apply keep_upd
      | (intro x; refine Keep.cut (s0 := s0) (x := x) ?_ ?_; (on_goal 1 => dsimp -zeta only [x]); (on_goal 2 => (intro _; clear_value x)))
      | (intro x; clear_value x) | lift_lets -underBinder | dsimp -zeta only | (intro s0) | split)

theorem abortServe_keep {s0 s : State} {p : Packet} (h : Keep s0 s) : Keep s0 (abortServe p s) := by
  unfold abortServe
  refine serve_keep (fun r t => ?_) h
  refine answer_keep (foldl_pair_keep _ (fun a c => ?_) (Keep.refl t))
  exact abortOne_keep (Keep.refl a.1)

theorem compareServe_keep {s0 s : State} {p : Packet} (hk : Keep s0 s) :
    Keep s0 (compareServe  p s) := by
  unfold compareServe
  repeat' (
    first
      | with_reducible assumption | with_reducible exact Keep.refl _ | with_reducible apply forAll_keep
      | with_reducible apply queued_keep | with_reducible apply refuse_keep | with_reducible apply serve_keep
      | with_reducible apply notRun_keep | with_reducible apply startQuick_keep | with_reducible apply compDone_keep
      | with_reducible apply ite_keep | fail_if_no_progress with_reducible apply keep_upd
      | (intro x; refine Keep.cut (s0 := s0) (x := x) ?_ ?_; (on_goal 1 => dsimp -zeta only [x]); (on_goal 2 => (intro _; clear_value x)))
      | (intro x; clear_value x) | lift_lets -underBinder | (intro s0) | split)

theorem extServe_keep {s0 s : State} {p : Packet} (hk : Keep s0 s) :
    Keep s0 (extServe  p s) := by
  unfold extServe
  repeat' (
    first
      | with_reducible assumption | with_reducible exact Keep.refl _ | with_reducible apply queued_keep
      | with_reducible apply refuse_keep | with_reducible apply serve_keep | with_reducible apply ite_keep
      | fail_if_no_progress with_reducible apply keep_upd
      | (intro x; refine Keep.cut (s0 := s0) (x := x) ?_ ?_; (on_goal 1 => dsimp -zeta only [x]); (on_goal 2 => (intro _; clear_value x)))
      | (intro x; clear_value x) | lift_lets -underBinder | (intro s0) | split)

theorem extDone_keep {s0 s : State} {q : Nat} {u : Nat} (hk : Keep s0 s) :
    Keep s0 (extDone q u s) := by
  unfold extDone
  repeat' (
    first
      | with_reducible assumption | with_reducible exact Keep.refl _ | with_reducible apply foldl_keep
      | with_reducible apply setEns_keep | with_reducible apply publish_keep | with_reducible apply extNext_keep
      | with_reducible apply writeRing_keep | with_reducible apply planModel_keep | with_reducible apply ite_keep
      | fail_if_no_progress with_reducible apply keep_upd
      | (intro x; refine Keep.cut (s0 := s0) (x := x) ?_ ?_; (on_goal 1 => dsimp -zeta only [x]); (on_goal 2 => (intro _; clear_value x)))
      | (intro x; clear_value x) | lift_lets -underBinder | (intro s0) | split)

theorem sealOpenServe_keep {s0 s : State} {p : Packet} (h : Keep s0 s) : Keep s0 (sealOpenServe p s) := by
  unfold sealOpenServe
  refine serve_keep (fun r t => ite_keep (refuse_keep (Keep.refl t)) (answer_keep (jCommand_keep ?_))) h
  exact ⟨rfl, rfl, Nat.le_succ _, Nat.le_refl _, Nat.le_refl _, id, id, id, Nat.le_refl _⟩

theorem closeSeal_keep {s0 s : State} (hk : Keep s0 s) :
    Keep s0 (closeSeal s) := by
  unfold closeSeal
  repeat' (
    first
      | with_reducible assumption | with_reducible exact Keep.refl _ | with_reducible apply clearCause_keep
      | with_reducible apply publish_keep | fail_if_no_progress with_reducible apply keep_upd
      | fail_if_no_progress with_reducible apply keep_flash
      | (intro x; refine Keep.cut (s0 := s0) (x := x) ?_ ?_; (on_goal 1 => dsimp -zeta only [x]); (on_goal 2 => (intro _; clear_value x)))
      | (intro x; refine (fun (_ : Flash) => ?_) x; subst x) | (intro x; clear_value x) | lift_lets -underBinder
      | (intro s0))

theorem sealCloseServe_keep {s0 s : State} {p : Packet} (hk : Keep s0 s) :
    Keep s0 (sealCloseServe  p s) := by
  unfold sealCloseServe
  repeat' (
    first
      | with_reducible assumption | with_reducible exact Keep.refl _ | with_reducible apply raiseOnce_keep
      | with_reducible apply jCommand_keep | with_reducible apply answer_keep | with_reducible apply refuse_keep
      | with_reducible apply faulted_keep | with_reducible apply serve_keep | with_reducible apply closeSeal_keep
      | with_reducible apply ite_keep
      | (intro x; refine Keep.cut (s0 := s0) (x := x) ?_ ?_; (on_goal 1 => dsimp -zeta only [x]); (on_goal 2 => (intro _; clear_value x)))
      | (intro x; refine (fun (_ : Flash) => ?_) x; subst x) | (intro x; clear_value x) | lift_lets -underBinder
      | (intro s0) | split)

theorem memberServe_keep {s0 s : State} {p : Packet} (hk : Keep s0 s) :
    Keep s0 (memberServe  p s) := by
  unfold memberServe
  repeat' (
    first
      | with_reducible assumption | with_reducible exact Keep.refl _ | with_reducible apply setEns_keep
      | with_reducible apply jDone_keep | with_reducible apply answer_keep | with_reducible apply refuse_keep
      | with_reducible apply serve_keep | with_reducible apply startQuick_keep
      | with_reducible apply memberState_keep | with_reducible apply ite_keep
      | fail_if_no_progress with_reducible apply keep_upd
      | (intro x; refine Keep.cut (s0 := s0) (x := x) ?_ ?_; (on_goal 1 => dsimp -zeta only [x]); (on_goal 2 => (intro _; clear_value x)))
      | (intro x; clear_value x) | lift_lets -underBinder | (intro s0) | split)

theorem exportFolios_keep {s0 s : State} {l : List RingRec} (fuel : Nat) (h : Keep s0 s) :
    Keep s0 (exportFolios fuel l s) := by
  induction fuel generalizing s l with
  | zero => exact h
  | succ k ih =>
    unfold exportFolios
    exact ite_keep h (ih (put3_keep h))

theorem exportServe_keep {s0 s : State} {p : Packet} (hk : Keep s0 s) :
    Keep s0 (exportServe  p s) := by
  unfold exportServe
  repeat' (
    first
      | with_reducible assumption | with_reducible exact Keep.refl _ | with_reducible apply answer_keep
      | with_reducible apply queued_keep | with_reducible apply serve_keep | with_reducible apply exportFolios_keep
      | (intro x; refine Keep.cut (s0 := s0) (x := x) ?_ ?_; (on_goal 1 => dsimp -zeta only [x]); (on_goal 2 => (intro _; clear_value x)))
      | (intro x; refine (fun (_ : Flash) => ?_) x; subst x) | (intro x; clear_value x) | lift_lets -underBinder
      | (intro s0))

end Sys2Proof.Machine
end

