-- ==== Sys2Proof/Laws/KeepLimit.lean ====
section
/-! SUPPORT. Each operation of Limit keeps what no command undoes. -/

set_option linter.all false

namespace Sys2Proof.Machine

theorem setGState_keep {s0 s : State} {g st : Nat} (h : Keep s0 s) : Keep s0 (setGState g st s) := by
  have k : ∀ v : SGroup, (v.toggling = true → v.state = 1 ∨ v.state = 2) → Keep s0 (setGroup g v s) :=
    fun v hv => setGroup_keep (fun _ => hv) h
  unfold setGState
  extract_lets v run s1 s2
  refine ite_keep h ?_
  have k1 : Keep s0 s1 := k _ (by simp only [Bool.and_eq_true, run, decide_eq_true_eq]; exact fun e => e.2)
  have k2 : Keep s0 s2 := issueNote_keep k1
  exact ite_keep (raiseOnce_keep k2) (ite_keep (clearCause_keep k2) k2)

theorem groupTrip_keep {s0 s : State} {g causes : Nat} (h : Keep s0 s) : Keep s0 (groupTrip g causes s) := by
  unfold groupTrip
  extract_lets v old v1 v2
  refine setGState_keep (setGroup_same ?_ ?_ h)
  · show (if _ then _ else _ : SGroup).toggling = _; split <;> rfl
  · show (if _ then _ else _ : SGroup).state = _; split <;> rfl

theorem groupStep_keep {s0 s : State} {extra g : Nat} (h : Keep s0 s) : Keep s0 (groupStep extra g s) := by
  unfold groupStep
  extract_lets v c s1
  have k : Keep s0 s1 := setGroup_same rfl rfl h
  exact ite_keep (setGroup_same rfl rfl h) (ite_keep (groupTrip_keep h)
    (ite_keep (ite_keep (setGState_keep k) k) (ite_keep k (setGState_keep k))))

theorem groupSteps_keep {s0 s : State} (hk : Keep s0 s) :
    Keep s0 (groupSteps s) := by
  unfold groupSteps
  repeat' (
    first
      | with_reducible assumption | with_reducible exact Keep.refl _ | with_reducible apply forAll_keep
      | with_reducible apply groupStep_keep | (intro s0))

theorem groupRelease_keep {s0 s : State} {g : Nat} (h : Keep s0 s) : Keep s0 (groupRelease g s) := by
  unfold groupRelease
  exact ite_keep (setGState_keep (setGroup_same rfl rfl h)) h

theorem tripEdge_keep {s0 s : State} {g : Nat} (h : Keep s0 s) : Keep s0 (tripEdge g s) := by
  unfold tripEdge
  dsimp only
  split
  · rename_i hc; exact setGroup_keep (fun _ _ => hc.2) h
  · exact h

theorem tripRead_keep {s0 s : State} {g : Nat} {a b : Bool} (h : Keep s0 s) : Keep s0 (tripRead g a b s) := by
  unfold tripRead
  extract_lets v v1 s1
  have k : Keep s0 s1 := setGroup_same rfl rfl h
  exact ite_keep (ite_keep (raise_keep (groupStep_keep k)) k) h

theorem pairTrip_keep {s0 s : State} {p : Nat} (hk : Keep s0 s) :
    Keep s0 (pairTrip p s) := by
  unfold pairTrip
  repeat' (
    first
      | with_reducible assumption | with_reducible exact Keep.refl _ | with_reducible apply setPair_keep
      | with_reducible apply ite_keep | fail_if_no_progress with_reducible apply keep_upd
      | (intro x; refine Keep.cut (s0 := s0) (x := x) ?_ ?_; (on_goal 1 => dsimp -zeta only [x]); (on_goal 2 => (intro _; clear_value x)))
      | (intro x; clear_value x) | lift_lets -underBinder | (intro s0) | split)

theorem pairMode_keep {s0 s : State} {p : Nat} {a : Seen} {b : Seen} {agree : Bool} (hk : Keep s0 s) :
    Keep s0 (pairMode p a b agree s) := by
  unfold pairMode
  repeat' (
    first
      | with_reducible assumption | with_reducible exact Keep.refl _ | with_reducible apply setPair_keep
      | with_reducible apply ite_keep | fail_if_no_progress with_reducible apply keep_upd
      | (intro x; refine Keep.cut (s0 := s0) (x := x) ?_ ?_; (on_goal 1 => dsimp -zeta only [x]); (on_goal 2 => (intro _; clear_value x)))
      | (intro x; clear_value x) | lift_lets -underBinder | (intro s0) | split)

theorem rootPair_keep {s0 s : State} {p : Nat} (hk : Keep s0 s) :
    Keep s0 (rootPair p s) := by
  unfold rootPair
  repeat' (
    first
      | with_reducible assumption | with_reducible exact Keep.refl _ | with_reducible apply setPair_keep
      | with_reducible apply pairTrip_keep | with_reducible apply pairMode_keep | with_reducible apply ite_keep
      | fail_if_no_progress with_reducible apply keep_upd
      | (intro x; refine Keep.cut (s0 := s0) (x := x) ?_ ?_; (on_goal 1 => dsimp -zeta only [x]); (on_goal 2 => (intro _; clear_value x)))
      | (intro x; clear_value x) | lift_lets -underBinder | (intro s0) | split)

theorem rootEval_keep {s0 s : State} (hk : Keep s0 s) :
    Keep s0 (rootEval s) := by
  unfold rootEval
  repeat' (
    first
      | with_reducible assumption | with_reducible exact Keep.refl _ | with_reducible apply forAll_keep
      | with_reducible apply groupSteps_keep | with_reducible apply rootPair_keep | with_reducible apply ite_keep
      | (intro s0) | split)

theorem stageReached_keep {s0 s : State} {n : Nat} (hk : Keep s0 s) :
    Keep s0 (stageReached n s) := by
  unfold stageReached
  repeat' (
    first
      | with_reducible assumption | with_reducible exact Keep.refl _ | with_reducible apply clearCause_keep
      | fail_if_no_progress with_reducible apply keep_upd
      | (intro x; refine Keep.cut (s0 := s0) (x := x) ?_ ?_; (on_goal 1 => dsimp -zeta only [x]); (on_goal 2 => (intro _; clear_value x)))
      | (intro x; clear_value x) | lift_lets -underBinder | (intro s0))

theorem settlingEnd_keep {s0 s : State} (hk : Keep s0 s) :
    Keep s0 (settlingEnd s) := by
  unfold settlingEnd
  repeat' (
    first
      | with_reducible assumption | with_reducible exact Keep.refl _ | with_reducible apply forAll_keep
      | with_reducible apply groupSteps_keep | with_reducible apply rootPair_keep
      | with_reducible apply stageReached_keep | with_reducible apply ite_keep
      | fail_if_no_progress with_reducible apply keep_upd
      | (intro x; refine Keep.cut (s0 := s0) (x := x) ?_ ?_; (on_goal 1 => dsimp -zeta only [x]); (on_goal 2 => (intro _; clear_value x)))
      | (intro x; clear_value x) | lift_lets -underBinder | (intro s0) | split)

theorem crownPair_keep {s0 s : State} {k : Int} {p : Nat} (hk : Keep s0 s) :
    Keep s0 (crownPair k p s) := by
  unfold crownPair
  repeat' (
    first
      | with_reducible assumption | with_reducible exact Keep.refl _ | with_reducible apply setPair_keep
      | with_reducible apply pairTrip_keep | with_reducible apply pairMode_keep | with_reducible apply ite_keep
      | fail_if_no_progress with_reducible apply keep_upd
      | (intro x; refine Keep.cut (s0 := s0) (x := x) ?_ ?_; (on_goal 1 => dsimp -zeta only [x]); (on_goal 2 => (intro _; clear_value x)))
      | (intro x; clear_value x) | lift_lets -underBinder | (intro s0) | split)

theorem crownEval_keep {s0 s : State} {k : Nat} (hk : Keep s0 s) :
    Keep s0 (crownEval k s) := by
  unfold crownEval
  repeat' (
    first
      | with_reducible assumption | with_reducible exact Keep.refl _ | with_reducible apply forAll_keep
      | with_reducible apply groupSteps_keep | with_reducible apply crownPair_keep
      | fail_if_no_progress with_reducible apply keep_upd | fail_if_no_progress with_reducible apply keep_safe
      | (intro x; refine Keep.cut (s0 := s0) (x := x) ?_ ?_; (on_goal 1 => dsimp -zeta only [x]); (on_goal 2 => (intro _; clear_value x)))
      | (intro x; refine (fun (_ : Safety) => ?_) x; subst x) | (intro x; clear_value x) | lift_lets -underBinder
      | (intro s0))

theorem degradedExpiry_keep {s0 s : State} {p : Nat} (hk : Keep s0 s) :
    Keep s0 (degradedExpiry p s) := by
  unfold degradedExpiry
  repeat' (
    first
      | with_reducible assumption | with_reducible exact Keep.refl _ | with_reducible apply setPair_keep
      | with_reducible apply groupStep_keep | with_reducible apply pairTrip_keep | with_reducible apply ite_keep
      | fail_if_no_progress with_reducible apply keep_upd
      | (intro x; refine Keep.cut (s0 := s0) (x := x) ?_ ?_; (on_goal 1 => dsimp -zeta only [x]); (on_goal 2 => (intro _; clear_value x)))
      | (intro x; clear_value x) | lift_lets -underBinder | (intro s0) | split)

theorem pulseOverdue_keep {s0 s : State} {e : Nat} (hk : Keep s0 s) :
    Keep s0 (pulseOverdue e s) := by
  unfold pulseOverdue
  repeat' (
    first
      | with_reducible assumption | with_reducible exact Keep.refl _ | with_reducible apply forAll_keep
      | with_reducible apply setMember_keep | with_reducible apply ite_keep
      | fail_if_no_progress with_reducible apply keep_upd | fail_if_no_progress with_reducible apply keep_safe
      | (intro x; refine Keep.cut (s0 := s0) (x := x) ?_ ?_; (on_goal 1 => dsimp -zeta only [x]); (on_goal 2 => (intro _; clear_value x)))
      | (intro x; refine (fun (_ : Safety) => ?_) x; subst x) | (intro x; clear_value x) | lift_lets -underBinder
      | (intro s0) | split)

theorem leaveSimul_keep {s0 s : State} {q : Nat} (hk : Keep s0 s) :
    Keep s0 (leaveSimul q s) := by
  unfold leaveSimul
  repeat' (
    first
      | with_reducible assumption | with_reducible exact Keep.refl _ | with_reducible apply setWit_keep
      | with_reducible apply unjudge_keep | with_reducible apply ite_keep
      | fail_if_no_progress with_reducible apply keep_upd
      | (intro x; refine Keep.cut (s0 := s0) (x := x) ?_ ?_; (on_goal 1 => dsimp -zeta only [x]); (on_goal 2 => (intro _; clear_value x)))
      | (intro x; clear_value x) | lift_lets -underBinder | (intro s0) | split)

theorem handover_keep {s0 s : State} (hk : Keep s0 s) :
    Keep s0 (handover s) := by
  unfold handover
  repeat' (
    first
      | with_reducible assumption | with_reducible exact Keep.refl _ | with_reducible apply ite_keep
      | fail_if_no_progress with_reducible apply keep_upd | fail_if_no_progress with_reducible apply keep_safe
      | (intro x; refine Keep.cut (s0 := s0) (x := x) ?_ ?_; (on_goal 1 => dsimp -zeta only [x]); (on_goal 2 => (intro _; clear_value x)))
      | (intro x; refine (fun (_ : Safety) => ?_) x; subst x) | (intro x; clear_value x) | lift_lets -underBinder
      | (intro s0) | split)

theorem toMain_keep {s0 s : State} {p : Nat} (hk : Keep s0 s) :
    Keep s0 (toMain p s) := by
  unfold toMain
  repeat' (
    first
      | with_reducible assumption | with_reducible exact Keep.refl _ | with_reducible apply setPair_keep
      | with_reducible apply handover_keep | with_reducible apply ite_keep
      | fail_if_no_progress with_reducible apply keep_upd
      | (intro x; refine Keep.cut (s0 := s0) (x := x) ?_ ?_; (on_goal 1 => dsimp -zeta only [x]); (on_goal 2 => (intro _; clear_value x)))
      | (intro x; clear_value x) | lift_lets -underBinder | (intro s0) | split)

theorem overlapEnd_keep {s0 s : State} {p : Nat} (hk : Keep s0 s) :
    Keep s0 (overlapEnd p s) := by
  unfold overlapEnd
  repeat' (
    first
      | with_reducible assumption | with_reducible exact Keep.refl _ | with_reducible apply forAll_keep
      | with_reducible apply setPair_keep | with_reducible apply groupStep_keep | with_reducible apply pairTrip_keep
      | with_reducible apply leaveSimul_keep | with_reducible apply ite_keep
      | fail_if_no_progress with_reducible apply keep_upd
      | (intro x; refine Keep.cut (s0 := s0) (x := x) ?_ ?_; (on_goal 1 => dsimp -zeta only [x]); (on_goal 2 => (intro _; clear_value x)))
      | (intro x; clear_value x) | lift_lets -underBinder | (intro s0) | split)

theorem configCheck_keep {s0 s : State} (h : Keep s0 s) : Keep s0 (configCheck s) := by
  unfold configCheck
  refine groupSteps_keep (forAll_keep _ (fun g t => ?_) h)
  extract_lets bad s1
  have k : Keep t s1 := ite_keep (raiseOnce_keep (Keep.refl t)) (clearCause_keep (Keep.refl t))
  clear_value s1
  exact setGroup_same rfl rfl k

theorem configSecond_keep {s0 s : State} {crcFail : Bool} (hk : Keep s0 s) :
    Keep s0 (configSecond crcFail s) := by
  unfold configSecond
  repeat' (
    first
      | with_reducible assumption | with_reducible exact Keep.refl _ | with_reducible apply raiseOnce_keep
      | with_reducible apply configCheck_keep | with_reducible apply ite_keep
      | fail_if_no_progress with_reducible apply keep_upd | fail_if_no_progress with_reducible apply keep_safe
      | (intro x; refine Keep.cut (s0 := s0) (x := x) ?_ ?_; (on_goal 1 => dsimp -zeta only [x]); (on_goal 2 => (intro _; clear_value x)))
      | (intro x; refine (fun (_ : Safety) => ?_) x; subst x) | (intro x; clear_value x) | lift_lets -underBinder
      | (intro s0) | split)

theorem restartPair_keep {s0 s : State} {o : State} {p : Nat} (hk : Keep s0 s) :
    Keep s0 (restartPair o p s) := by
  unfold restartPair
  repeat' (
    first
      | with_reducible assumption | with_reducible exact Keep.refl _ | with_reducible apply setPair_keep
      | with_reducible apply ite_keep | fail_if_no_progress with_reducible apply keep_upd
      | fail_if_no_progress with_reducible apply keep_safe
      | (intro x; refine Keep.cut (s0 := s0) (x := x) ?_ ?_; (on_goal 1 => dsimp -zeta only [x]); (on_goal 2 => (intro _; clear_value x)))
      | (intro x; refine (fun (_ : Safety) => ?_) x; subst x) | (intro x; clear_value x) | lift_lets -underBinder
      | (intro s0) | split)

theorem restartPulse_keep {s0 s : State} {o : State} {e : Nat} (hk : Keep s0 s) :
    Keep s0 (restartPulse o e s) := by
  unfold restartPulse
  repeat' (
    first
      | with_reducible assumption | with_reducible exact Keep.refl _ | with_reducible apply setExc_keep
      | with_reducible apply ite_keep | fail_if_no_progress with_reducible apply keep_upd
      | fail_if_no_progress with_reducible apply keep_safe
      | (intro x; refine Keep.cut (s0 := s0) (x := x) ?_ ?_; (on_goal 1 => dsimp -zeta only [x]); (on_goal 2 => (intro _; clear_value x)))
      | (intro x; refine (fun (_ : Safety) => ?_) x; subst x) | (intro x; clear_value x) | lift_lets -underBinder
      | (intro s0) | split)

theorem adopt_keep {s0 o : State} (hk : Keep s0 o) :
    Keep s0 (adopt o) := by
  unfold adopt
  repeat' (
    first
      | with_reducible assumption | with_reducible exact Keep.refl _ | with_reducible apply forAll_keep
      | with_reducible apply clearCause_keep | with_reducible apply groupStep_keep
      | with_reducible apply configCheck_keep | with_reducible apply restartPair_keep
      | with_reducible apply restartPulse_keep | fail_if_no_progress with_reducible apply keep_upd
      | fail_if_no_progress with_reducible apply keep_flash | fail_if_no_progress with_reducible apply keep_safe
      | fail_if_no_progress with_reducible apply keep_both
      | (intro x; refine Keep.cut (s0 := s0) (x := x) ?_ ?_; (on_goal 1 => dsimp -zeta only [x]); (on_goal 2 => (intro _; clear_value x)))
      | (intro x; refine (fun (_ : Flash) => ?_) x; subst x) | (intro x; refine (fun (_ : Safety) => ?_) x; subst x)
      | (intro x; clear_value x) | lift_lets -underBinder | (intro s0))

theorem safetyEval_keep {s0 s : State} {k : Nat} (hk : Keep s0 s) :
    Keep s0 (safetyEval k s) := by
  unfold safetyEval
  repeat' (
    first
      | with_reducible assumption | with_reducible exact Keep.refl _ | with_reducible apply crownEval_keep
      | with_reducible apply adopt_keep | with_reducible apply ite_keep | (intro s0) | split)

theorem safeStatusServe_keep {s0 s : State} {p : Packet} (hk : Keep s0 s) :
    Keep s0 (safeStatusServe  p s) := by
  unfold safeStatusServe
  repeat' (
    first
      | with_reducible assumption | with_reducible exact Keep.refl _ | with_reducible apply answer_keep
      | with_reducible apply serve_keep | (intro s0))

theorem lockOpenServe_keep {s0 s : State} {p : Packet} (h : Keep s0 s) : Keep s0 (lockOpenServe p s) := by
  unfold lockOpenServe
  refine serve_keep (fun r t => ite_keep (refuse_keep (Keep.refl t)) (answer_keep (jCommand_keep ?_))) h
  exact ⟨rfl, rfl, Nat.le_refl _, Nat.le_succ _, Nat.le_refl _, id, id, id, Nat.le_refl _⟩

theorem workingImage_keep {s0 s : State} (hk : Keep s0 s) :
    Keep s0 (workingImage s) := by
  unfold workingImage
  repeat' (
    first
      | with_reducible assumption | with_reducible exact Keep.refl _ | with_reducible apply ite_keep
      | fail_if_no_progress with_reducible apply keep_upd | fail_if_no_progress with_reducible apply keep_safe
      | (intro x; refine Keep.cut (s0 := s0) (x := x) ?_ ?_; (on_goal 1 => dsimp -zeta only [x]); (on_goal 2 => (intro _; clear_value x)))
      | (intro x; refine (fun (_ : Safety) => ?_) x; subst x) | (intro x; clear_value x) | lift_lets -underBinder
      | (intro s0) | split)

theorem lockCloseServe_keep {s0 s : State} {p : Packet} (hk : Keep s0 s) :
    Keep s0 (lockCloseServe  p s) := by
  unfold lockCloseServe
  repeat' (
    first
      | with_reducible assumption | with_reducible exact Keep.refl _ | with_reducible apply raiseOnce_keep
      | with_reducible apply jDone_keep | with_reducible apply answer_keep | with_reducible apply faulted_keep
      | with_reducible apply serve_keep | with_reducible apply workingImage_keep | with_reducible apply ite_keep
      | fail_if_no_progress with_reducible apply keep_upd | fail_if_no_progress with_reducible apply keep_flash
      | fail_if_no_progress with_reducible apply keep_safe | fail_if_no_progress with_reducible apply keep_both
      | (intro x; refine Keep.cut (s0 := s0) (x := x) ?_ ?_; (on_goal 1 => dsimp -zeta only [x]); (on_goal 2 => (intro _; clear_value x)))
      | (intro x; refine (fun (_ : Flash) => ?_) x; subst x) | (intro x; refine (fun (_ : Safety) => ?_) x; subst x)
      | (intro x; clear_value x) | lift_lets -underBinder | (intro s0) | split)

theorem resetGroup_keep {s0 s : State} {g : Nat} (h : Keep s0 s) : Keep s0 (resetGroup g s).1 := by
  unfold resetGroup
  dsimp only
  split
  · exact h
  · split
    · exact h
    · split
      · exact h
      · exact setGState_keep (setGroup_same rfl rfl h)

theorem tripResetServe_keep {s0 s : State} {p : Packet} (h : Keep s0 s) : Keep s0 (tripResetServe p s) := by
  unfold tripResetServe
  refine serve_keep (fun r t => ?_) h
  refine answer_keep (jDone_keep (foldl_pair_keep _ (fun a g => ?_) (Keep.refl t)))
  split
  · exact resetGroup_keep (Keep.refl _)
  · exact Keep.refl _

theorem pulseNowServe_keep {s0 s : State} {p : Packet} (hk : Keep s0 s) :
    Keep s0 (pulseNowServe  p s) := by
  unfold pulseNowServe
  repeat' (
    first
      | with_reducible assumption | with_reducible exact Keep.refl _ | with_reducible apply setExc_keep
      | with_reducible apply queued_keep | with_reducible apply refuse_keep | with_reducible apply serve_keep
      | with_reducible apply ite_keep | fail_if_no_progress with_reducible apply keep_upd
      | (intro x; refine Keep.cut (s0 := s0) (x := x) ?_ ?_; (on_goal 1 => dsimp -zeta only [x]); (on_goal 2 => (intro _; clear_value x)))
      | (intro x; clear_value x) | lift_lets -underBinder | (intro s0) | split)

end Sys2Proof.Machine
end

