-- ==== Sys2Proof/Laws/KeepConds.lean ====
section
/-! SUPPORT. Each operation of Conds keeps what no command undoes. -/

set_option linter.all false

namespace Sys2Proof.Machine

theorem evalConds_keep {s0 s : State} {n : Nat} {i : Nat} {l : List Sample} (hk : Keep s0 s) :
    Keep s0 (evalConds n i l s) := by
  unfold evalConds
  repeat' (
    first
      | with_reducible assumption | with_reducible exact Keep.refl _ | with_reducible apply forAll_keep
      | with_reducible apply setCond_keep | fail_if_no_progress with_reducible apply keep_upd
      | (intro x; refine Keep.cut (s0 := s0) (x := x) ?_ ?_; (on_goal 1 => dsimp -zeta only [x]); (on_goal 2 => (intro _; clear_value x)))
      | (intro x; clear_value x) | lift_lets -underBinder | (intro s0) | split)

theorem restartConds_keep {s0 s : State} {keep : Bool} {n : Nat} (hk : Keep s0 s) :
    Keep s0 (restartConds keep n s) := by
  unfold restartConds
  repeat' (
    first
      | with_reducible assumption | with_reducible exact Keep.refl _ | with_reducible apply forAll_keep
      | with_reducible apply setCond_keep | with_reducible apply ite_keep
      | fail_if_no_progress with_reducible apply keep_upd
      | (intro x; refine Keep.cut (s0 := s0) (x := x) ?_ ?_; (on_goal 1 => dsimp -zeta only [x]); (on_goal 2 => (intro _; clear_value x)))
      | (intro x; clear_value x) | lift_lets -underBinder | (intro s0) | split)

theorem maskStep_keep {s0 s : State} {n : Nat} {i : Nat} {k : Nat} {l : List Sample} (hk : Keep s0 s) :
    Keep s0 (maskStep n i k l s) := by
  unfold maskStep
  repeat' (
    first
      | with_reducible assumption | with_reducible exact Keep.refl _ | with_reducible apply setSeqr_keep
      | with_reducible apply setMask_keep | with_reducible apply ite_keep
      | fail_if_no_progress with_reducible apply keep_upd
      | (intro x; refine Keep.cut (s0 := s0) (x := x) ?_ ?_; (on_goal 1 => dsimp -zeta only [x]); (on_goal 2 => (intro _; clear_value x)))
      | (intro x; clear_value x) | lift_lets -underBinder | (intro s0) | split)

theorem maskSteps_keep {s0 s : State} {n : Nat} {i : Nat} {l : List Sample} (hk : Keep s0 s) :
    Keep s0 (maskSteps n i l s) := by
  unfold maskSteps
  repeat' (
    first
      | with_reducible assumption | with_reducible exact Keep.refl _ | with_reducible apply forAll_keep
      | with_reducible apply maskStep_keep | (intro s0))

theorem maskEnded_keep {s0 s : State} {k : Nat} (hk : Keep s0 s) :
    Keep s0 (maskEnded k s) := by
  unfold maskEnded
  repeat' (
    first
      | with_reducible assumption | with_reducible exact Keep.refl _ | with_reducible apply setMask_keep
      | with_reducible apply raise_keep | fail_if_no_progress with_reducible apply keep_upd
      | (intro x; refine Keep.cut (s0 := s0) (x := x) ?_ ?_; (on_goal 1 => dsimp -zeta only [x]); (on_goal 2 => (intro _; clear_value x)))
      | (intro x; clear_value x) | lift_lets -underBinder | (intro s0) | split)

theorem masksEnded_keep {s0 s : State} {n : Nat} (hk : Keep s0 s) :
    Keep s0 (masksEnded n s) := by
  unfold masksEnded
  repeat' (
    first
      | with_reducible assumption | with_reducible exact Keep.refl _ | with_reducible apply forAll_keep
      | with_reducible apply maskEnded_keep | (intro s0))

theorem compareAll_keep {s0 s : State} {n : Nat} {k : Nat} {l : List (Nat × List Sample)} (hk : Keep s0 s) :
    Keep s0 (compareAll n k l s) := by
  unfold compareAll
  repeat' (
    first
      | with_reducible assumption | with_reducible exact Keep.refl _ | with_reducible apply foldl_keep
      | with_reducible apply maskStep_keep | (intro s0))

theorem maskStart_keep {s0 s : State} {n : Nat} {seq : Nat} {i : Nat} {k : Nat} (hk : Keep s0 s) :
    Keep s0 (maskStart n seq i k s) := by
  unfold maskStart
  repeat' (
    first
      | with_reducible assumption | with_reducible exact Keep.refl _ | with_reducible apply setMask_keep
      | with_reducible apply raise_keep | with_reducible apply maskEnded_keep | with_reducible apply compareAll_keep
      | with_reducible apply ite_keep | fail_if_no_progress with_reducible apply keep_upd
      | (intro x; refine Keep.cut (s0 := s0) (x := x) ?_ ?_; (on_goal 1 => dsimp -zeta only [x]); (on_goal 2 => (intro _; clear_value x)))
      | (intro x; clear_value x) | lift_lets -underBinder | (intro s0) | split)

theorem trimTrig_keep {s0 s : State} {n : Nat} (hk : Keep s0 s) :
    Keep s0 (trimTrig n s) := by
  unfold trimTrig
  repeat' (
    first
      | with_reducible assumption | with_reducible exact Keep.refl _ | with_reducible apply forAll_keep
      | with_reducible apply setStream_keep | with_reducible apply setCond_keep | with_reducible apply setMask_keep
      | fail_if_no_progress with_reducible apply keep_upd
      | (intro x; refine Keep.cut (s0 := s0) (x := x) ?_ ?_; (on_goal 1 => dsimp -zeta only [x]); (on_goal 2 => (intro _; clear_value x)))
      | (intro x; clear_value x) | lift_lets -underBinder | (intro s0))

theorem trigSample_keep {s0 s : State} {n : Nat} {i : Nat} {l : List Sample} (hk : Keep s0 s) :
    Keep s0 (trigSample n i l s) := by
  unfold trigSample
  repeat' (
    first
      | with_reducible assumption | with_reducible exact Keep.refl _ | with_reducible apply setStream_keep
      | with_reducible apply evalConds_keep | with_reducible apply maskSteps_keep | with_reducible apply ite_keep
      | fail_if_no_progress with_reducible apply keep_upd
      | (intro x; refine Keep.cut (s0 := s0) (x := x) ?_ ?_; (on_goal 1 => dsimp -zeta only [x]); (on_goal 2 => (intro _; clear_value x)))
      | (intro x; clear_value x) | lift_lets -underBinder | (intro s0) | split)

theorem leaveGrid_keep {s0 s : State} {n : Nat} {b : Nat} (hk : Keep s0 s) :
    Keep s0 (leaveGrid n b s) := by
  unfold leaveGrid
  repeat' (
    first
      | with_reducible assumption | with_reducible exact Keep.refl _ | with_reducible apply setStream_keep
      | with_reducible apply masksEnded_keep | fail_if_no_progress with_reducible apply keep_upd
      | (intro x; refine Keep.cut (s0 := s0) (x := x) ?_ ?_; (on_goal 1 => dsimp -zeta only [x]); (on_goal 2 => (intro _; clear_value x)))
      | (intro x; clear_value x) | lift_lets -underBinder | (intro s0))

theorem advanceGrid_keep {s0 s : State} {i : Nat} {n : Nat} (hk : Keep s0 s) :
    Keep s0 (advanceGrid i n s) := by
  unfold advanceGrid
  repeat' (
    first
      | with_reducible assumption | with_reducible exact Keep.refl _ | with_reducible apply setStream_keep
      | with_reducible apply restartConds_keep | with_reducible apply leaveGrid_keep | with_reducible apply ite_keep
      | fail_if_no_progress with_reducible apply keep_upd
      | (intro x; refine Keep.cut (s0 := s0) (x := x) ?_ ?_; (on_goal 1 => dsimp -zeta only [x]); (on_goal 2 => (intro _; clear_value x)))
      | (intro x; clear_value x) | lift_lets -underBinder | (intro s0) | split)

end Sys2Proof.Machine
end

