-- ==== Sys2Proof/Laws/KeepStreams.lean ====
section
/-! SUPPORT. Each operation of Streams keeps what no command undoes. -/

set_option linter.all false

namespace Sys2Proof.Machine

theorem afterCommits_keep {s0 s : State} {l : List PendCommit} (hk : Keep s0 s) :
    Keep s0 (afterCommits l s) := by
  unfold afterCommits
  repeat' (
    first
      | with_reducible assumption | with_reducible exact Keep.refl _ | with_reducible apply foldl_keep
      | with_reducible apply applyWords_keep | (intro s0))

theorem heldFinal_keep {s0 s : State} {n : Nat} {outcome : Nat} {byTag : Nat} {index : Nat} {r : Req} (hk : Keep s0 s) :
    Keep s0 (heldFinal n outcome byTag index r s) := by
  unfold heldFinal
  repeat' (
    first
      | with_reducible assumption | with_reducible exact Keep.refl _ | with_reducible apply replyIn_keep
      | with_reducible apply answerOr_keep | with_reducible apply ite_keep
      | fail_if_no_progress with_reducible apply keep_upd
      | (intro x; refine Keep.cut (s0 := s0) (x := x) ?_ ?_; (on_goal 1 => dsimp -zeta only [x]); (on_goal 2 => (intro _; clear_value x)))
      | (intro x; clear_value x) | lift_lets -underBinder | (intro s0) | split)

theorem beginFade_keep {s0 s : State} {n : Nat} {to_ : Nat} {nf : Nat} {e : Int} (hk : Keep s0 s) :
    Keep s0 (beginFade n to_ nf e s) := by
  unfold beginFade
  repeat' (
    first
      | with_reducible assumption | with_reducible exact Keep.refl _ | with_reducible apply putWord_keep
      | with_reducible apply setStream_keep | fail_if_no_progress with_reducible apply keep_upd
      | (intro x; refine Keep.cut (s0 := s0) (x := x) ?_ ?_; (on_goal 1 => dsimp -zeta only [x]); (on_goal 2 => (intro _; clear_value x)))
      | (intro x; clear_value x) | lift_lets -underBinder | (intro s0))

theorem fadeEnd_keep {s0 s : State} {n : Nat} (hk : Keep s0 s) :
    Keep s0 (fadeEnd n s) := by
  unfold fadeEnd
  repeat' (
    first
      | with_reducible assumption | with_reducible exact Keep.refl _ | with_reducible apply forAll_keep
      | with_reducible apply foldl_keep | with_reducible apply setStream_keep | with_reducible apply dueDisc_keep
      | with_reducible apply rekeySlot_keep | with_reducible apply heldFinal_keep
      | with_reducible apply beginFade_keep | with_reducible apply ite_keep
      | fail_if_no_progress with_reducible apply keep_upd
      | (intro x; refine Keep.cut (s0 := s0) (x := x) ?_ ?_; (on_goal 1 => dsimp -zeta only [x]); (on_goal 2 => (intro _; clear_value x)))
      | (intro x; clear_value x) | lift_lets -underBinder | (intro s0) | split)

theorem stopFade_keep {s0 s : State} {n : Nat} (hk : Keep s0 s) :
    Keep s0 (stopFade n s) := by
  unfold stopFade
  repeat' (
    first
      | with_reducible assumption | with_reducible exact Keep.refl _ | with_reducible apply forAll_keep
      | with_reducible apply putWord_keep | with_reducible apply setStream_keep
      | with_reducible apply rekeySlot_keep | with_reducible apply heldFinal_keep
      | fail_if_no_progress with_reducible apply keep_upd
      | (intro x; refine Keep.cut (s0 := s0) (x := x) ?_ ?_; (on_goal 1 => dsimp -zeta only [x]); (on_goal 2 => (intro _; clear_value x)))
      | (intro x; clear_value x) | lift_lets -underBinder | (intro s0) | split)

theorem acceptStart_keep {s0 s : State} {n0 : Nat} {n : Nat} (hk : Keep s0 s) :
    Keep s0 (acceptStart n0 n s) := by
  unfold acceptStart
  repeat' (
    first
      | with_reducible assumption | with_reducible exact Keep.refl _ | with_reducible apply setStream_keep
      | with_reducible apply ite_keep | fail_if_no_progress with_reducible apply keep_upd
      | (intro x; refine Keep.cut (s0 := s0) (x := x) ?_ ?_; (on_goal 1 => dsimp -zeta only [x]); (on_goal 2 => (intro _; clear_value x)))
      | (intro x; clear_value x) | lift_lets -underBinder | (intro s0) | split)

theorem beginRun_keep {s0 s : State} {n : Nat} (hk : Keep s0 s) :
    Keep s0 (beginRun n s) := by
  unfold beginRun
  repeat' (
    first
      | with_reducible assumption | with_reducible exact Keep.refl _ | with_reducible apply forAll_keep
      | with_reducible apply setStream_keep | with_reducible apply dueDisc_keep | with_reducible apply useSlot_keep
      | with_reducible apply restartConds_keep | with_reducible apply ite_keep
      | fail_if_no_progress with_reducible apply keep_upd
      | (intro x; refine Keep.cut (s0 := s0) (x := x) ?_ ?_; (on_goal 1 => dsimp -zeta only [x]); (on_goal 2 => (intro _; clear_value x)))
      | (intro x; clear_value x) | lift_lets -underBinder | (intro s0) | split)

theorem streamRunning_keep {s0 s : State} {n : Nat} (hk : Keep s0 s) :
    Keep s0 (streamRunning n s) := by
  unfold streamRunning
  repeat' (
    first
      | with_reducible assumption | with_reducible exact Keep.refl _ | with_reducible apply forAll_keep
      | with_reducible apply beginRun_keep | with_reducible apply ite_keep | (intro s0) | split)

theorem endWindows_keep {s0 s : State} {n : Nat} {last : Nat} {flag : Nat} {hit : CapWindow → Bool} (hk : Keep s0 s) :
    Keep s0 (endWindows n last flag hit s) := by
  unfold endWindows
  repeat' (
    first
      | with_reducible assumption | with_reducible exact Keep.refl _ | with_reducible apply setStream_keep
      | with_reducible apply ite_keep | fail_if_no_progress with_reducible apply keep_upd
      | (intro x; refine Keep.cut (s0 := s0) (x := x) ?_ ?_; (on_goal 1 => dsimp -zeta only [x]); (on_goal 2 => (intro _; clear_value x)))
      | (intro x; clear_value x) | lift_lets -underBinder | (intro s0) | split)

theorem captureTake_keep {s0 s : State} {i : Nat} {l : List Sample} {n : Nat} (hk : Keep s0 s) :
    Keep s0 (captureTake i l n s) := by
  unfold captureTake
  repeat' (
    first
      | with_reducible assumption | with_reducible exact Keep.refl _ | with_reducible apply setStream_keep
      | with_reducible apply endWindows_keep | with_reducible apply ite_keep
      | fail_if_no_progress with_reducible apply keep_upd
      | (intro x; refine Keep.cut (s0 := s0) (x := x) ?_ ?_; (on_goal 1 => dsimp -zeta only [x]); (on_goal 2 => (intro _; clear_value x)))
      | (intro x; clear_value x) | lift_lets -underBinder | (intro s0) | split)

theorem captureGaps_keep {s0 s : State} {n : Nat} {src : Nat} {i : Nat} (hk : Keep s0 s) :
    Keep s0 (captureGaps n src i s) := by
  unfold captureGaps
  repeat' (
    first
      | with_reducible assumption | with_reducible exact Keep.refl _ | with_reducible apply foldl_keep
      | with_reducible apply nameDegraded_keep | with_reducible apply ite_keep
      | (intro x; refine Keep.cut (s0 := s0) (x := x) ?_ ?_; (on_goal 1 => dsimp -zeta only [x]); (on_goal 2 => (intro _; clear_value x)))
      | (intro x; clear_value x) | lift_lets -underBinder | (intro s0) | split)

theorem releaseOne_keep {s0 s : State} {n : Nat} {p : Nat × List Sample} (hk : Keep s0 s) :
    Keep s0 (releaseOne n p s) := by
  unfold releaseOne
  repeat' (
    first
      | with_reducible assumption | with_reducible exact Keep.refl _ | with_reducible apply setStream_keep
      | with_reducible apply cutOpen_keep | with_reducible apply appendSample_keep
      | with_reducible apply placeRecords_keep | with_reducible apply trigSample_keep
      | with_reducible apply advanceGrid_keep | with_reducible apply captureGaps_keep
      | with_reducible apply ite_keep | fail_if_no_progress with_reducible apply keep_upd
      | (intro x; refine Keep.cut (s0 := s0) (x := x) ?_ ?_; (on_goal 1 => dsimp -zeta only [x]); (on_goal 2 => (intro _; clear_value x)))
      | (intro x; clear_value x) | lift_lets -underBinder | (intro s0) | split)

theorem finishRun_keep {s0 s : State} {last : Nat} {n : Nat} (hk : Keep s0 s) :
    Keep s0 (finishRun last n s) := by
  unfold finishRun
  repeat' (
    first
      | with_reducible assumption | with_reducible exact Keep.refl _ | with_reducible apply setStream_keep
      | with_reducible apply cutOpen_keep | with_reducible apply writeDiscs_keep
      | with_reducible apply placeRecords_keep | with_reducible apply freeFolios_keep
      | with_reducible apply masksEnded_keep | fail_if_no_progress with_reducible apply keep_upd
      | (intro x; refine Keep.cut (s0 := s0) (x := x) ?_ ?_; (on_goal 1 => dsimp -zeta only [x]); (on_goal 2 => (intro _; clear_value x)))
      | (intro x; clear_value x) | lift_lets -underBinder | (intro s0))

theorem finishCapture_keep {s0 s : State} {n : Nat} (hk : Keep s0 s) :
    Keep s0 (finishCapture n s) := by
  unfold finishCapture
  repeat' (
    first
      | with_reducible assumption | with_reducible exact Keep.refl _ | with_reducible apply finishRun_keep
      | with_reducible apply ite_keep | fail_if_no_progress with_reducible apply keep_upd
      | (intro x; refine Keep.cut (s0 := s0) (x := x) ?_ ?_; (on_goal 1 => dsimp -zeta only [x]); (on_goal 2 => (intro _; clear_value x)))
      | (intro x; clear_value x) | lift_lets -underBinder | (intro s0) | split)

theorem endStream_keep {s0 s : State} {n : Nat} {last : Nat} (hk : Keep s0 s) :
    Keep s0 (endStream n last s) := by
  unfold endStream
  repeat' (
    first
      | with_reducible assumption | with_reducible exact Keep.refl _ | with_reducible apply forAll_keep
      | with_reducible apply setStream_keep | with_reducible apply dropSlot_keep
      | with_reducible apply stopFade_keep | with_reducible apply endWindows_keep
      | with_reducible apply finishRun_keep | with_reducible apply finishCapture_keep
      | fail_if_no_progress with_reducible apply keep_upd
      | (intro x; refine Keep.cut (s0 := s0) (x := x) ?_ ?_; (on_goal 1 => dsimp -zeta only [x]); (on_goal 2 => (intro _; clear_value x)))
      | (intro x; clear_value x) | lift_lets -underBinder | (intro s0))

theorem captureRelease_keep {s0 s : State} {n : Nat} (hk : Keep s0 s) :
    Keep s0 (captureRelease n s) := by
  unfold captureRelease
  repeat' (
    first
      | with_reducible assumption | with_reducible exact Keep.refl _ | with_reducible apply forAll_keep
      | with_reducible apply setStream_keep | with_reducible apply closeWindows_keep
      | with_reducible apply releaseOne_keep | with_reducible apply finishCapture_keep
      | with_reducible apply ite_keep | fail_if_no_progress with_reducible apply keep_upd
      | (intro x; refine Keep.cut (s0 := s0) (x := x) ?_ ?_; (on_goal 1 => dsimp -zeta only [x]); (on_goal 2 => (intro _; clear_value x)))
      | (intro x; clear_value x) | lift_lets -underBinder | (intro s0) | split)

theorem outageGaps_keep {s0 s : State} {n : Nat} {i : Nat} (hk : Keep s0 s) :
    Keep s0 (outageGaps n i s) := by
  unfold outageGaps
  repeat' (
    first
      | with_reducible assumption | with_reducible exact Keep.refl _ | with_reducible apply forAll_keep
      | with_reducible apply nameDegraded_keep | with_reducible apply ite_keep
      | (intro x; refine Keep.cut (s0 := s0) (x := x) ?_ ?_; (on_goal 1 => dsimp -zeta only [x]); (on_goal 2 => (intro _; clear_value x)))
      | (intro x; clear_value x) | lift_lets -underBinder | (intro s0) | split)

theorem feed_keep {s0 s : State} {i : Nat} {l : List Sample} {n : Nat} (hk : Keep s0 s) :
    Keep s0 (feed i l n s) := by
  unfold feed
  repeat' (
    first
      | with_reducible assumption | with_reducible exact Keep.refl _ | with_reducible apply setStream_keep
      | with_reducible apply appendSample_keep | with_reducible apply placeRecords_keep
      | with_reducible apply trigSample_keep | with_reducible apply outageGaps_keep
      | fail_if_no_progress with_reducible apply keep_upd
      | (intro x; refine Keep.cut (s0 := s0) (x := x) ?_ ?_; (on_goal 1 => dsimp -zeta only [x]); (on_goal 2 => (intro _; clear_value x)))
      | (intro x; clear_value x) | lift_lets -underBinder | (intro s0))

theorem produce_keep {s0 s : State} {n : Nat} (hk : Keep s0 s) :
    Keep s0 (produce n s) := by
  unfold produce
  repeat' (
    first
      | with_reducible assumption | with_reducible exact Keep.refl _ | with_reducible apply forAll_keep
      | with_reducible apply advanceGrid_keep | with_reducible apply captureTake_keep
      | with_reducible apply endStream_keep | with_reducible apply feed_keep | with_reducible apply ite_keep
      | fail_if_no_progress with_reducible apply keep_upd
      | (intro x; refine Keep.cut (s0 := s0) (x := x) ?_ ?_; (on_goal 1 => dsimp -zeta only [x]); (on_goal 2 => (intro _; clear_value x)))
      | (intro x; clear_value x) | lift_lets -underBinder | (intro s0) | split)

theorem flushTimer_keep {s0 s : State} {n : Nat} (hk : Keep s0 s) :
    Keep s0 (flushTimer n s) := by
  unfold flushTimer
  repeat' (
    first
      | with_reducible assumption | with_reducible exact Keep.refl _ | with_reducible apply closeOpen_keep
      | with_reducible apply ite_keep | fail_if_no_progress with_reducible apply keep_upd
      | (intro x; refine Keep.cut (s0 := s0) (x := x) ?_ ?_; (on_goal 1 => dsimp -zeta only [x]); (on_goal 2 => (intro _; clear_value x)))
      | (intro x; clear_value x) | lift_lets -underBinder | (intro s0) | split)

theorem stallResume_keep {s0 s : State} {n : Nat} (hk : Keep s0 s) :
    Keep s0 (stallResume n s) := by
  unfold stallResume
  repeat' (
    first
      | with_reducible assumption | with_reducible exact Keep.refl _ | with_reducible apply freeFolios_keep
      | with_reducible apply resumeStall_keep | (intro s0))

theorem retentionLapse_keep {s0 s : State} {n : Nat} (hk : Keep s0 s) :
    Keep s0 (retentionLapse n s) := by
  unfold retentionLapse
  repeat' (
    first
      | with_reducible assumption | with_reducible exact Keep.refl _ | with_reducible apply freeFolios_keep
      | (intro s0))

theorem startServe_keep {s0 s : State} {p : Packet} (hk : Keep s0 s) :
    Keep s0 (startServe  p s) := by
  unfold startServe
  repeat' (
    first
      | with_reducible assumption | with_reducible exact Keep.refl _ | with_reducible apply forAll_keep
      | with_reducible apply jDone_keep | with_reducible apply answer_keep | with_reducible apply refuse_keep
      | with_reducible apply serveAt_keep | with_reducible apply acceptStart_keep | with_reducible apply ite_keep
      | (intro x; refine Keep.cut (s0 := s0) (x := x) ?_ ?_; (on_goal 1 => dsimp -zeta only [x]); (on_goal 2 => (intro _; clear_value x)))
      | (intro x; clear_value x) | lift_lets -underBinder | (intro s0) | split)

theorem withdrawStart_keep {s0 s : State} {n : Nat} (hk : Keep s0 s) :
    Keep s0 (withdrawStart n s) := by
  unfold withdrawStart
  repeat' (
    first
      | with_reducible assumption | with_reducible exact Keep.refl _ | with_reducible apply setStream_keep
      | with_reducible apply ite_keep | fail_if_no_progress with_reducible apply keep_upd
      | (intro x; refine Keep.cut (s0 := s0) (x := x) ?_ ?_; (on_goal 1 => dsimp -zeta only [x]); (on_goal 2 => (intro _; clear_value x)))
      | (intro x; clear_value x) | lift_lets -underBinder | (intro s0) | split)

theorem stopServe_keep {s0 s : State} {p : Packet} (hk : Keep s0 s) :
    Keep s0 (stopServe  p s) := by
  unfold stopServe
  repeat' (
    first
      | with_reducible assumption | with_reducible exact Keep.refl _ | with_reducible apply forAll_keep
      | with_reducible apply setStream_keep | with_reducible apply jDone_keep | with_reducible apply answer_keep
      | with_reducible apply refuse_keep | with_reducible apply serveAt_keep
      | with_reducible apply withdrawStart_keep | with_reducible apply ite_keep
      | fail_if_no_progress with_reducible apply keep_upd
      | (intro x; refine Keep.cut (s0 := s0) (x := x) ?_ ?_; (on_goal 1 => dsimp -zeta only [x]); (on_goal 2 => (intro _; clear_value x)))
      | (intro x; clear_value x) | lift_lets -underBinder | (intro s0) | split)

theorem flushServe_keep {s0 s : State} {p : Packet} (hk : Keep s0 s) :
    Keep s0 (flushServe  p s) := by
  unfold flushServe
  repeat' (
    first
      | with_reducible assumption | with_reducible exact Keep.refl _ | with_reducible apply forAll_keep
      | with_reducible apply answer_keep | with_reducible apply serve_keep | with_reducible apply closeOpen_keep
      | (intro s0))

theorem loseStore_keep {s0 s : State} {n : Nat} (hk : Keep s0 s) :
    Keep s0 (loseStore n s) := by
  unfold loseStore
  repeat' (
    first
      | with_reducible assumption | with_reducible exact Keep.refl _ | with_reducible apply foldl_keep
      | with_reducible apply setStream_keep | with_reducible apply setRing_keep | with_reducible apply ite_keep
      | fail_if_no_progress with_reducible apply keep_upd
      | (intro x; refine Keep.cut (s0 := s0) (x := x) ?_ ?_; (on_goal 1 => dsimp -zeta only [x]); (on_goal 2 => (intro _; clear_value x)))
      | (intro x; clear_value x) | lift_lets -underBinder | (intro s0) | split)

theorem storeFails_keep {s0 s : State} (hk : Keep s0 s) :
    Keep s0 (storeFails s) := by
  unfold storeFails
  repeat' (
    first
      | with_reducible assumption | with_reducible exact Keep.refl _ | with_reducible apply forAll_keep
      | with_reducible apply raiseOnce_keep | with_reducible apply loseStore_keep | with_reducible apply ite_keep
      | fail_if_no_progress with_reducible apply keep_upd
      | (intro x; refine Keep.cut (s0 := s0) (x := x) ?_ ?_; (on_goal 1 => dsimp -zeta only [x]); (on_goal 2 => (intro _; clear_value x)))
      | (intro x; clear_value x) | lift_lets -underBinder | (intro s0) | split)

theorem countEcc_keep {s0 s : State} {k : Nat} {n : Nat} (hk : Keep s0 s) :
    Keep s0 (countEcc k n s) := by
  unfold countEcc
  repeat' (
    first
      | with_reducible assumption | with_reducible exact Keep.refl _ | with_reducible apply raise_keep
      | with_reducible apply storeFails_keep | with_reducible apply ite_keep
      | fail_if_no_progress with_reducible apply keep_upd
      | (intro x; refine Keep.cut (s0 := s0) (x := x) ?_ ?_; (on_goal 1 => dsimp -zeta only [x]); (on_goal 2 => (intro _; clear_value x)))
      | (intro x; clear_value x) | lift_lets -underBinder | (intro s0) | split)

theorem replaceFolio_keep {s0 s : State} {r : Nat} {g : GapRec} {f : Folio} (hk : Keep s0 s) :
    Keep s0 (replaceFolio r g f s) := by
  unfold replaceFolio
  repeat' (
    first
      | with_reducible assumption | with_reducible exact Keep.refl _ | with_reducible apply setRingQ_keep
      | with_reducible apply ite_keep | fail_if_no_progress with_reducible apply keep_upd
      | (intro x; refine Keep.cut (s0 := s0) (x := x) ?_ ?_; (on_goal 1 => dsimp -zeta only [x]); (on_goal 2 => (intro _; clear_value x)))
      | (intro x; clear_value x) | lift_lets -underBinder | (intro s0) | split)

theorem spoil_keep {s0 s : State} {r : Nat} {hits : List EccHit} {f : Folio} (hk : Keep s0 s) :
    Keep s0 (spoil r hits f s) := by
  unfold spoil
  repeat' (
    first
      | with_reducible assumption | with_reducible exact Keep.refl _ | with_reducible apply setStream_keep
      | with_reducible apply closeOpen_keep | with_reducible apply restate_keep | with_reducible apply setRingQ_keep
      | with_reducible apply storeFails_keep | with_reducible apply replaceFolio_keep
      | with_reducible apply ite_keep | fail_if_no_progress with_reducible apply keep_upd
      | (intro x; refine Keep.cut (s0 := s0) (x := x) ?_ ?_; (on_goal 1 => dsimp -zeta only [x]); (on_goal 2 => (intro _; clear_value x)))
      | (intro x; clear_value x) | lift_lets -underBinder | (intro s0) | split)

theorem stageRead_keep {s0 s : State} {r : Nat} {seq : Nat} {corrected : Nat} {hits : List EccHit} (hk : Keep s0 s) :
    Keep s0 (stageRead r seq corrected hits s) := by
  unfold stageRead
  repeat' (
    first
      | with_reducible assumption | with_reducible exact Keep.refl _ | with_reducible apply setRingQ_keep
      | with_reducible apply countEcc_keep | with_reducible apply spoil_keep | with_reducible apply ite_keep
      | fail_if_no_progress with_reducible apply keep_upd
      | (intro x; refine Keep.cut (s0 := s0) (x := x) ?_ ?_; (on_goal 1 => dsimp -zeta only [x]); (on_goal 2 => (intro _; clear_value x)))
      | (intro x; clear_value x) | lift_lets -underBinder | (intro s0) | split)

theorem scrub_keep {s0 s : State} {corrected : Nat} {l : List (Nat × Nat × EccHit)} (hk : Keep s0 s) :
    Keep s0 (scrub corrected l s) := by
  unfold scrub
  repeat' (
    first
      | with_reducible assumption | with_reducible exact Keep.refl _ | with_reducible apply foldl_keep
      | with_reducible apply setRingQ_keep | with_reducible apply storeFails_keep
      | with_reducible apply countEcc_keep | with_reducible apply ite_keep
      | fail_if_no_progress with_reducible apply keep_upd
      | (intro x; refine Keep.cut (s0 := s0) (x := x) ?_ ?_; (on_goal 1 => dsimp -zeta only [x]); (on_goal 2 => (intro _; clear_value x)))
      | (intro x; clear_value x) | lift_lets -underBinder | (intro s0) | split)

end Sys2Proof.Machine
end

