-- ==== Sys2Proof/Laws/KeepMarks.lean ====
section
/-! SUPPORT. Each operation of Marks keeps what no command undoes. -/

set_option linter.all false

namespace Sys2Proof.Machine

theorem requestWindow_keep {s0 s : State} {m : Nat} {markId : Nat} {n : Nat} (hk : Keep s0 s) :
    Keep s0 (requestWindow m markId n s).1 := by
  unfold requestWindow
  repeat' (
    first
      | with_reducible assumption | with_reducible exact Keep.refl _ | with_reducible apply foldl_keep
      | with_reducible apply setStream_keep | with_reducible apply ite_keep
      | fail_if_no_progress with_reducible apply keep_upd
      | (intro x; refine Keep.cut (s0 := s0) (x := x) ?_ ?_; (on_goal 1 => dsimp -zeta only [x]); (on_goal 2 => (intro _; clear_value x)))
      | (intro x; clear_value x) | lift_lets -underBinder | dsimp -zeta only | (intro s0) | split)

theorem requestAll_keep {s0 s : State} {mask markId : Nat} {t : Int} (h : Keep s0 s) :
    Keep s0 (requestAll mask markId t s).1 := by
  unfold requestAll
  refine foldl_pair_keep _ (fun a n => ?_) h
  exact requestWindow_keep (Keep.refl a.1)

theorem addMark__keep {s0 s : State} {b : Bookmark} (hk : Keep s0 s) :
    Keep s0 (addMark_ b s) := by
  unfold addMark_
  repeat' (
    first
      | with_reducible assumption | with_reducible exact Keep.refl _
      | fail_if_no_progress with_reducible apply keep_upd
      | (intro x; refine Keep.cut (s0 := s0) (x := x) ?_ ?_; (on_goal 1 => dsimp -zeta only [x]); (on_goal 2 => (intro _; clear_value x)))
      | (intro x; clear_value x) | lift_lets -underBinder | (intro s0))

theorem markInstant_keep {s0 s : State} {kind : Nat} {channel : Nat} {fireId : Nat} {origin : Nat} {streams : Nat} {caps : Nat} {t : Int} (hk : Keep s0 s) :
    Keep s0 (markInstant kind channel fireId origin streams caps t s) := by
  unfold markInstant
  repeat' (
    first
      | with_reducible assumption | with_reducible exact Keep.refl _ | with_reducible apply foldl_keep
      | with_reducible apply requestAll_keep | with_reducible apply addMark__keep | with_reducible apply ite_keep
      | fail_if_no_progress with_reducible apply keep_upd
      | (intro x; refine Keep.cut (s0 := s0) (x := x) ?_ ?_; (on_goal 1 => dsimp -zeta only [x]); (on_goal 2 => (intro _; clear_value x)))
      | (intro x; refine Keep.cut (s0 := s0) (x := x.1) ?_ ?_; (on_goal 1 => dsimp -zeta only [x]); (on_goal 2 => (intro _; clear_value x)))
      | (intro x; clear_value x) | lift_lets -underBinder | (intro s0) | split)

theorem suppressMark_keep {s0 s : State} {b : Bookmark} (hk : Keep s0 s) :
    Keep s0 (suppressMark b s) := by
  unfold suppressMark
  repeat' (
    first
      | with_reducible assumption | with_reducible exact Keep.refl _ | with_reducible apply forAll_keep
      | with_reducible apply setStream_keep | with_reducible apply setSeqr_keep | with_reducible apply ite_keep
      | fail_if_no_progress with_reducible apply keep_upd
      | (intro x; refine Keep.cut (s0 := s0) (x := x) ?_ ?_; (on_goal 1 => dsimp -zeta only [x]); (on_goal 2 => (intro _; clear_value x)))
      | (intro x; clear_value x) | lift_lets -underBinder | (intro s0) | split)

theorem emitMark_keep {s0 s : State} {b : Bookmark} {stored : Bool} (hk : Keep s0 s) :
    Keep s0 (emitMark b stored s) := by
  unfold emitMark
  repeat' (
    first
      | with_reducible assumption | with_reducible exact Keep.refl _ | with_reducible apply setSeqr_keep
      | with_reducible apply markRecord_keep | with_reducible apply suppressMark_keep
      | with_reducible apply ite_keep | fail_if_no_progress with_reducible apply keep_upd
      | (intro x; refine Keep.cut (s0 := s0) (x := x) ?_ ?_; (on_goal 1 => dsimp -zeta only [x]); (on_goal 2 => (intro _; clear_value x)))
      | (intro x; clear_value x) | lift_lets -underBinder | (intro s0) | split)

theorem emitMarks_keep {s0 s : State} (h : Keep s0 s) : Keep s0 (emitMarks s) := by
  unfold emitMarks
  extract_lets l r
  refine foldl_keep _ (fun _ _ => freeFolios_keep (Keep.refl _))
    (keep_upd _ _ _ _ _ _ _ _ _ _ _ _ _ _ _ _ _ _ _ _ _ _ _ _ (foldl_pair_keep _ (fun a b => ?_) h))
  split
  · exact Keep.refl _
  · split
    · exact Keep.refl _
    · exact emitMark_keep (Keep.refl _)

theorem folioClose_keep {s0 s : State} (hk : Keep s0 s) :
    Keep s0 (folioClose s) := by
  unfold folioClose
  repeat' (
    first
      | with_reducible assumption | with_reducible exact Keep.refl _ | with_reducible apply closeMarks_keep
      | with_reducible apply ite_keep | (intro s0) | split)

theorem markSecond_keep {s0 s : State} (hk : Keep s0 s) :
    Keep s0 (markSecond s) := by
  unfold markSecond
  repeat' (
    first
      | with_reducible assumption | with_reducible exact Keep.refl _ | with_reducible apply raise_keep
      | with_reducible apply ite_keep | fail_if_no_progress with_reducible apply keep_upd
      | (intro x; refine Keep.cut (s0 := s0) (x := x) ?_ ?_; (on_goal 1 => dsimp -zeta only [x]); (on_goal 2 => (intro _; clear_value x)))
      | (intro x; clear_value x) | lift_lets -underBinder | (intro s0) | split)

theorem markServe_keep {s0 s : State} {p : Packet} (hk : Keep s0 s) :
    Keep s0 (markServe  p s) := by
  unfold markServe
  repeat' (
    first
      | with_reducible assumption | with_reducible exact Keep.refl _ | with_reducible apply answer_keep
      | with_reducible apply serve_keep | with_reducible apply markInstant_keep
      | (intro x; refine Keep.cut (s0 := s0) (x := x) ?_ ?_; (on_goal 1 => dsimp -zeta only [x]); (on_goal 2 => (intro _; clear_value x)))
      | (intro x; clear_value x) | lift_lets -underBinder | (intro s0))

end Sys2Proof.Machine
end

