-- ==== Sys2Proof/Laws/KeepGroup.lean ====
section
/-! SUPPORT. Each operation of Group keeps what no command undoes. -/

set_option linter.all false

namespace Sys2Proof.Machine

theorem skaingSend_keep {s0 s : State} {x : Nat} {ftype : Nat} {payload : List Byte} (hk : Keep s0 s) :
    Keep s0 (skaingSend x ftype payload s) := by
  unfold skaingSend
  repeat' (
    first
      | with_reducible assumption | with_reducible exact Keep.refl _ | with_reducible apply emit_keep
      | with_reducible apply setSkaing_keep | fail_if_no_progress with_reducible apply keep_upd
      | (intro x; refine Keep.cut (s0 := s0) (x := x) ?_ ?_; (on_goal 1 => dsimp -zeta only [x]); (on_goal 2 => (intro _; clear_value x)))
      | (intro x; clear_value x) | lift_lets -underBinder | (intro s0))

theorem repeatLater_keep {s0 s : State} {p : Nat} {left : Nat} {bytes : List Byte} {m : List Byte} (hk : Keep s0 s) :
    Keep s0 (repeatLater p left bytes m s) := by
  unfold repeatLater
  repeat' (
    first
      | with_reducible assumption | with_reducible exact Keep.refl _
      | fail_if_no_progress with_reducible apply keep_upd
      | (intro x; refine Keep.cut (s0 := s0) (x := x) ?_ ?_; (on_goal 1 => dsimp -zeta only [x]); (on_goal 2 => (intro _; clear_value x)))
      | (intro x; clear_value x) | lift_lets -underBinder | (intro s0))

theorem groupSend_keep {s0 s : State} {m : List Byte} {p : Nat} (hk : Keep s0 s) :
    Keep s0 (groupSend m p s) := by
  unfold groupSend
  repeat' (
    first
      | with_reducible assumption | with_reducible exact Keep.refl _ | with_reducible apply sendFrame_keep
      | with_reducible apply skaingSend_keep | with_reducible apply repeatLater_keep | with_reducible apply ite_keep
      | fail_if_no_progress with_reducible apply keep_upd
      | (intro x; refine Keep.cut (s0 := s0) (x := x) ?_ ?_; (on_goal 1 => dsimp -zeta only [x]); (on_goal 2 => (intro _; clear_value x)))
      | (intro x; clear_value x) | lift_lets -underBinder | (intro s0) | split)

theorem remember_keep {s0 s : State} {m : List Byte} (hk : Keep s0 s) :
    Keep s0 (remember m s) := by
  unfold remember
  repeat' (
    first
      | with_reducible assumption | with_reducible exact Keep.refl _
      | fail_if_no_progress with_reducible apply keep_upd
      | (intro x; refine Keep.cut (s0 := s0) (x := x) ?_ ?_; (on_goal 1 => dsimp -zeta only [x]); (on_goal 2 => (intro _; clear_value x)))
      | (intro x; clear_value x) | lift_lets -underBinder | (intro s0))

theorem groupSendAll_keep {s0 s : State} {ports : List Nat} {m : List Byte} (hk : Keep s0 s) :
    Keep s0 (groupSendAll ports m s) := by
  unfold groupSendAll
  repeat' (
    first
      | with_reducible assumption | with_reducible exact Keep.refl _ | with_reducible apply forAll_keep
      | with_reducible apply groupSend_keep | fail_if_no_progress with_reducible apply keep_upd
      | (intro x; refine Keep.cut (s0 := s0) (x := x) ?_ ?_; (on_goal 1 => dsimp -zeta only [x]); (on_goal 2 => (intro _; clear_value x)))
      | (intro x; clear_value x) | lift_lets -underBinder | (intro s0))

theorem originate_keep {s0 s : State} {m : List Byte} (hk : Keep s0 s) :
    Keep s0 (originate m s) := by
  unfold originate
  repeat' (
    first
      | with_reducible assumption | with_reducible exact Keep.refl _ | with_reducible apply remember_keep
      | with_reducible apply groupSendAll_keep | (intro s0))

theorem forward_keep {s0 s : State} {port : Nat} {m : List Byte} (hk : Keep s0 s) :
    Keep s0 (forward port m s) := by
  unfold forward
  repeat' (
    first
      | with_reducible assumption | with_reducible exact Keep.refl _ | with_reducible apply groupSendAll_keep
      | with_reducible apply ite_keep
      | (intro x; refine Keep.cut (s0 := s0) (x := x) ?_ ?_; (on_goal 1 => dsimp -zeta only [x]); (on_goal 2 => (intro _; clear_value x)))
      | (intro x; clear_value x) | lift_lets -underBinder | (intro s0) | split)

theorem dropFire_keep {s0 s : State} {reason : Nat} {port : Nat} {origin : Nat} (hk : Keep s0 s) :
    Keep s0 (dropFire reason port origin s) := by
  unfold dropFire
  repeat' (
    first
      | with_reducible assumption | with_reducible exact Keep.refl _ | with_reducible apply raiseOrig_keep
      | with_reducible apply ite_keep | fail_if_no_progress with_reducible apply keep_upd
      | (intro x; refine Keep.cut (s0 := s0) (x := x) ?_ ?_; (on_goal 1 => dsimp -zeta only [x]); (on_goal 2 => (intro _; clear_value x)))
      | (intro x; clear_value x) | lift_lets -underBinder | (intro s0) | split)

theorem markFire_keep {s0 s : State} {t : Int} {origin : Nat} {channel : Nat} {fireId : Nat} (hk : Keep s0 s) :
    Keep s0 (markFire t origin channel fireId s) := by
  unfold markFire
  repeat' (
    first
      | with_reducible assumption | with_reducible exact Keep.refl _ | with_reducible apply markInstant_keep
      | (intro s0))

theorem takeFire_keep {s0 s : State} {port : Nat} {group : Nat} {gen : Nat} {origin : Nat} {channel : Nat} {fireId : Nat} {t : Int} {qual : Nat} (hk : Keep s0 s) :
    Keep s0 (takeFire port group gen origin channel fireId t qual s).1 := by
  unfold takeFire
  repeat' (
    first
      | with_reducible assumption | with_reducible exact Keep.refl _ | with_reducible apply dropFire_keep
      | with_reducible apply markFire_keep | with_reducible apply ite_keep
      | fail_if_no_progress with_reducible apply keep_upd
      | (intro x; refine Keep.cut (s0 := s0) (x := x) ?_ ?_; (on_goal 1 => dsimp -zeta only [x]); (on_goal 2 => (intro _; clear_value x)))
      | (intro x; clear_value x) | lift_lets -underBinder | dsimp -zeta only | (intro s0) | split)

theorem fireAction_keep {s0 s : State} {channel : Nat} {t : Int} (hk : Keep s0 s) :
    Keep s0 (fireAction channel t s).1 := by
  unfold fireAction
  repeat' (
    first
      | with_reducible assumption | with_reducible exact Keep.refl _ | with_reducible apply originate_keep
      | with_reducible apply takeFire_keep | with_reducible apply ite_keep
      | fail_if_no_progress with_reducible apply keep_upd
      | (intro x; refine Keep.cut (s0 := s0) (x := x) ?_ ?_; (on_goal 1 => dsimp -zeta only [x]); (on_goal 2 => (intro _; clear_value x)))
      | (intro x; refine Keep.cut (s0 := s0) (x := x.1) ?_ ?_; (on_goal 1 => dsimp -zeta only [x]); (on_goal 2 => (intro _; clear_value x)))
      | (intro x; clear_value x) | lift_lets -underBinder | dsimp -zeta only | (intro s0) | split)

theorem armGroup_keep {s0 s : State} {gen : Nat} {mode : Nat} {t : Int} (hk : Keep s0 s) :
    Keep s0 (armGroup gen mode t s) := by
  unfold armGroup
  repeat' (
    first
      | with_reducible assumption | with_reducible exact Keep.refl _
      | fail_if_no_progress with_reducible apply keep_upd
      | (intro x; refine Keep.cut (s0 := s0) (x := x) ?_ ?_; (on_goal 1 => dsimp -zeta only [x]); (on_goal 2 => (intro _; clear_value x)))
      | (intro x; clear_value x) | lift_lets -underBinder | (intro s0))

theorem disarmGroup_keep {s0 s : State} {t : Int} (hk : Keep s0 s) :
    Keep s0 (disarmGroup t s) := by
  unfold disarmGroup
  repeat' (
    first
      | with_reducible assumption | with_reducible exact Keep.refl _
      | fail_if_no_progress with_reducible apply keep_upd
      | (intro x; refine Keep.cut (s0 := s0) (x := x) ?_ ?_; (on_goal 1 => dsimp -zeta only [x]); (on_goal 2 => (intro _; clear_value x)))
      | (intro x; clear_value x) | lift_lets -underBinder | (intro s0))

theorem groupRx_keep {s0 s : State} {port : Nat} {m : List Byte} (hk : Keep s0 s) :
    Keep s0 (groupRx port m s) := by
  unfold groupRx
  repeat' (
    first
      | with_reducible assumption | with_reducible exact Keep.refl _ | with_reducible apply jInternalAt_keep
      | (intro s0))

theorem takeMessage_keep {s0 s : State} {port : Nat} {m : List Byte} (hk : Keep s0 s) :
    Keep s0 (takeMessage port m s).1 := by
  unfold takeMessage
  repeat' (
    first
      | with_reducible assumption | with_reducible exact Keep.refl _ | with_reducible apply takeFire_keep
      | with_reducible apply armGroup_keep | with_reducible apply disarmGroup_keep
      | with_reducible apply groupRx_keep | with_reducible apply ite_keep
      | (intro x; refine Keep.cut (s0 := s0) (x := x) ?_ ?_; (on_goal 1 => dsimp -zeta only [x]); (on_goal 2 => (intro _; clear_value x)))
      | (intro x; refine Keep.cut (s0 := s0) (x := x.1) ?_ ?_; (on_goal 1 => dsimp -zeta only [x]); (on_goal 2 => (intro _; clear_value x)))
      | (intro x; clear_value x) | lift_lets -underBinder | dsimp -zeta only | (intro s0) | split)

theorem groupMessage_keep {s0 s : State} {port : Nat} {m : List Byte} (hk : Keep s0 s) :
    Keep s0 (groupMessage port m s) := by
  unfold groupMessage
  repeat' (
    first
      | with_reducible assumption | with_reducible exact Keep.refl _ | with_reducible apply remember_keep
      | with_reducible apply forward_keep | with_reducible apply takeMessage_keep | with_reducible apply ite_keep
      | (intro x; refine Keep.cut (s0 := s0) (x := x) ?_ ?_; (on_goal 1 => dsimp -zeta only [x]); (on_goal 2 => (intro _; clear_value x)))
      | (intro x; refine Keep.cut (s0 := s0) (x := x.1) ?_ ?_; (on_goal 1 => dsimp -zeta only [x]); (on_goal 2 => (intro _; clear_value x)))
      | (intro x; clear_value x) | lift_lets -underBinder | (intro s0) | split)

theorem crcDrop_keep {s0 s : State} {x : Nat} (hk : Keep s0 s) :
    Keep s0 (crcDrop x s) := by
  unfold crcDrop
  repeat' (
    first
      | with_reducible assumption | with_reducible exact Keep.refl _ | with_reducible apply setSkaing_keep
      | fail_if_no_progress with_reducible apply keep_upd
      | (intro x; refine Keep.cut (s0 := s0) (x := x) ?_ ?_; (on_goal 1 => dsimp -zeta only [x]); (on_goal 2 => (intro _; clear_value x)))
      | (intro x; clear_value x) | lift_lets -underBinder | (intro s0))

theorem groupFrame_keep {s0 s : State} {port : Nat} {sender : Nat} {hdr : List Byte} {body : List Byte} {mac : List Byte} (hk : Keep s0 s) :
    Keep s0 (groupFrame port sender hdr body mac s) := by
  unfold groupFrame
  repeat' (
    first
      | with_reducible assumption | with_reducible exact Keep.refl _ | with_reducible apply raiseOrig_keep
      | with_reducible apply groupMessage_keep | with_reducible apply ite_keep
      | fail_if_no_progress with_reducible apply keep_upd
      | (intro x; refine Keep.cut (s0 := s0) (x := x) ?_ ?_; (on_goal 1 => dsimp -zeta only [x]); (on_goal 2 => (intro _; clear_value x)))
      | (intro x; clear_value x) | lift_lets -underBinder | (intro s0) | split)

theorem groupReceive_keep {s0 s : State} {port : Nat} {sender : Nat} {hdr : List Byte} {body : List Byte} {mac : List Byte} {crcOk : Bool} (hk : Keep s0 s) :
    Keep s0 (groupReceive port sender hdr body mac crcOk s) := by
  unfold groupReceive
  repeat' (
    first
      | with_reducible assumption | with_reducible exact Keep.refl _ | with_reducible apply setSkaing_keep
      | with_reducible apply skaingSend_keep | with_reducible apply groupMessage_keep
      | with_reducible apply crcDrop_keep | with_reducible apply groupFrame_keep | with_reducible apply ite_keep
      | fail_if_no_progress with_reducible apply keep_upd
      | (intro x; refine Keep.cut (s0 := s0) (x := x) ?_ ?_; (on_goal 1 => dsimp -zeta only [x]); (on_goal 2 => (intro _; clear_value x)))
      | (intro x; clear_value x) | lift_lets -underBinder | (intro s0) | split)

theorem groupRepeat_keep {s0 s : State} (hk : Keep s0 s) :
    Keep s0 (groupRepeat s) := by
  unfold groupRepeat
  repeat' (
    first
      | with_reducible assumption | with_reducible exact Keep.refl _ | with_reducible apply foldl_keep
      | with_reducible apply sendFrame_keep | with_reducible apply skaingSend_keep | with_reducible apply ite_keep
      | fail_if_no_progress with_reducible apply keep_upd
      | (intro x; refine Keep.cut (s0 := s0) (x := x) ?_ ?_; (on_goal 1 => dsimp -zeta only [x]); (on_goal 2 => (intro _; clear_value x)))
      | (intro x; clear_value x) | lift_lets -underBinder | (intro s0) | split)

theorem groupAck_keep {s0 s : State} {x : Nat} {origin : Nat} {msg : Nat} {gen : Nat} {fireId : Nat} {crcOk : Bool} (hk : Keep s0 s) :
    Keep s0 (groupAck x origin msg gen fireId crcOk s) := by
  unfold groupAck
  repeat' (
    first
      | with_reducible assumption | with_reducible exact Keep.refl _ | with_reducible apply setSkaing_keep
      | with_reducible apply crcDrop_keep | with_reducible apply ite_keep
      | fail_if_no_progress with_reducible apply keep_upd
      | (intro x; refine Keep.cut (s0 := s0) (x := x) ?_ ?_; (on_goal 1 => dsimp -zeta only [x]); (on_goal 2 => (intro _; clear_value x)))
      | (intro x; clear_value x) | lift_lets -underBinder | (intro s0) | split)

theorem earlierShots_keep {s0 s : State} (hk : Keep s0 s) :
    Keep s0 (earlierShots s) := by
  unfold earlierShots
  repeat' (
    first
      | with_reducible assumption | with_reducible exact Keep.refl _ | with_reducible apply foldl_keep
      | with_reducible apply markFire_keep | fail_if_no_progress with_reducible apply keep_upd
      | (intro x; refine Keep.cut (s0 := s0) (x := x) ?_ ?_; (on_goal 1 => dsimp -zeta only [x]); (on_goal 2 => (intro _; clear_value x)))
      | (intro x; clear_value x) | lift_lets -underBinder | (intro s0))

theorem oneShot_keep {s0 s : State} (hk : Keep s0 s) :
    Keep s0 (oneShot s) := by
  unfold oneShot
  repeat' (
    first
      | with_reducible assumption | with_reducible exact Keep.refl _ | with_reducible apply markFire_keep
      | with_reducible apply earlierShots_keep | with_reducible apply ite_keep
      | fail_if_no_progress with_reducible apply keep_upd
      | (intro x; refine Keep.cut (s0 := s0) (x := x) ?_ ?_; (on_goal 1 => dsimp -zeta only [x]); (on_goal 2 => (intro _; clear_value x)))
      | (intro x; clear_value x) | lift_lets -underBinder | (intro s0) | split)

theorem firesReport_keep {s0 s : State} (hk : Keep s0 s) :
    Keep s0 (firesReport s) := by
  unfold firesReport
  repeat' (
    first
      | with_reducible assumption | with_reducible exact Keep.refl _ | with_reducible apply raise_keep
      | with_reducible apply ite_keep | fail_if_no_progress with_reducible apply keep_upd
      | (intro x; refine Keep.cut (s0 := s0) (x := x) ?_ ?_; (on_goal 1 => dsimp -zeta only [x]); (on_goal 2 => (intro _; clear_value x)))
      | (intro x; clear_value x) | lift_lets -underBinder | (intro s0) | split)

theorem groupArmRun_keep {s0 s : State} {r : Req} {t : Int} (hk : Keep s0 s) :
    Keep s0 (groupArmRun r t s) := by
  unfold groupArmRun
  repeat' (
    first
      | with_reducible assumption | with_reducible exact Keep.refl _ | with_reducible apply jDone_keep
      | with_reducible apply answerOr_keep | with_reducible apply refuseOr_keep
      | with_reducible apply originate_keep | with_reducible apply armGroup_keep | with_reducible apply ite_keep
      | fail_if_no_progress with_reducible apply keep_upd
      | (intro x; refine Keep.cut (s0 := s0) (x := x) ?_ ?_; (on_goal 1 => dsimp -zeta only [x]); (on_goal 2 => (intro _; clear_value x)))
      | (intro x; clear_value x) | lift_lets -underBinder | (intro s0) | split)

theorem groupArmServe_keep {s0 s : State} {p : Packet} (hk : Keep s0 s) :
    Keep s0 (groupArmServe  p s) := by
  unfold groupArmServe
  repeat' (
    first
      | with_reducible assumption | with_reducible exact Keep.refl _ | with_reducible apply refuse_keep
      | with_reducible apply serve_keep | with_reducible apply schedule_keep | with_reducible apply groupArmRun_keep
      | with_reducible apply ite_keep | fail_if_no_progress with_reducible apply keep_upd
      | (intro x; refine Keep.cut (s0 := s0) (x := x) ?_ ?_; (on_goal 1 => dsimp -zeta only [x]); (on_goal 2 => (intro _; clear_value x)))
      | (intro x; clear_value x) | lift_lets -underBinder | (intro s0) | split)

theorem groupDisarmServe_keep {s0 s : State} {p : Packet} (hk : Keep s0 s) :
    Keep s0 (groupDisarmServe  p s) := by
  unfold groupDisarmServe
  repeat' (
    first
      | with_reducible assumption | with_reducible exact Keep.refl _ | with_reducible apply jDone_keep
      | with_reducible apply refuse_keep | with_reducible apply answerOr_keep | with_reducible apply serve_keep
      | with_reducible apply originate_keep | with_reducible apply disarmGroup_keep | with_reducible apply ite_keep
      | (intro x; refine Keep.cut (s0 := s0) (x := x) ?_ ?_; (on_goal 1 => dsimp -zeta only [x]); (on_goal 2 => (intro _; clear_value x)))
      | (intro x; clear_value x) | lift_lets -underBinder | (intro s0) | split)

theorem groupFireServe_keep {s0 s : State} {p : Packet} (hk : Keep s0 s) :
    Keep s0 (groupFireServe  p s) := by
  unfold groupFireServe
  repeat' (
    first
      | with_reducible assumption | with_reducible exact Keep.refl _ | with_reducible apply answer_keep
      | with_reducible apply refuse_keep | with_reducible apply serve_keep | with_reducible apply fireAction_keep
      | with_reducible apply ite_keep
      | (intro x; refine Keep.cut (s0 := s0) (x := x) ?_ ?_; (on_goal 1 => dsimp -zeta only [x]); (on_goal 2 => (intro _; clear_value x)))
      | (intro x; refine Keep.cut (s0 := s0) (x := x.1) ?_ ?_; (on_goal 1 => dsimp -zeta only [x]); (on_goal 2 => (intro _; clear_value x)))
      | (intro x; clear_value x) | lift_lets -underBinder | (intro s0) | split)

end Sys2Proof.Machine
end

