-- ==== Sys2Proof/Laws/KeepTrigger.lean ====
section
/-! SUPPORT. Each operation of Trigger keeps what no command undoes. -/

set_option linter.all false

namespace Sys2Proof.Machine

theorem completeMark_keep {s0 s : State} {id : Nat} {fire : Nat} {capture : Nat} (hk : Keep s0 s) :
    Keep s0 (completeMark id fire capture s) := by
  unfold completeMark
  repeat' (
    first
      | with_reducible assumption | with_reducible exact Keep.refl _ | with_reducible apply capture_keep
      | with_reducible apply ite_keep | fail_if_no_progress with_reducible apply keep_upd
      | (intro x; refine Keep.cut (s0 := s0) (x := x) ?_ ?_; (on_goal 1 => dsimp -zeta only [x]); (on_goal 2 => (intro _; clear_value x)))
      | (intro x; clear_value x) | lift_lets -underBinder | (intro s0) | split)

theorem markActions_keep {s0 s : State} {k : Nat} {i : Nat} {halt : Bool} {from_ : Nat} {w : Nat} {met : List (Nat × Nat × CondView)} {t : Nat × Nat × CondView} (hk : Keep s0 s) :
    Keep s0 (markActions k i halt from_ w met t s) := by
  unfold markActions
  repeat' (
    first
      | with_reducible assumption | with_reducible exact Keep.refl _ | with_reducible apply setSeqr_keep
      | with_reducible apply requestAll_keep | with_reducible apply addMark__keep
      | with_reducible apply fireAction_keep | with_reducible apply completeMark_keep
      | with_reducible apply ite_keep | fail_if_no_progress with_reducible apply keep_upd
      | (intro x; refine Keep.cut (s0 := s0) (x := x) ?_ ?_; (on_goal 1 => dsimp -zeta only [x]); (on_goal 2 => (intro _; clear_value x)))
      | (intro x; refine Keep.cut (s0 := s0) (x := x.1) ?_ ?_; (on_goal 1 => dsimp -zeta only [x]); (on_goal 2 => (intro _; clear_value x)))
      | (intro x; clear_value x) | lift_lets -underBinder | (intro s0) | split)

theorem haltMark_keep {s0 s : State} {k : Nat} {i : Nat} {m : Nat} {met : List (Nat × Nat × CondView)} {from_ : Nat} (hk : Keep s0 s) :
    Keep s0 (haltMark k i m met from_ s) := by
  unfold haltMark
  repeat' (
    first
      | with_reducible assumption | with_reducible exact Keep.refl _ | with_reducible apply setSeqr_keep
      | with_reducible apply addMark__keep | fail_if_no_progress with_reducible apply keep_upd
      | (intro x; refine Keep.cut (s0 := s0) (x := x) ?_ ?_; (on_goal 1 => dsimp -zeta only [x]); (on_goal 2 => (intro _; clear_value x)))
      | (intro x; clear_value x) | lift_lets -underBinder | (intro s0))

theorem seqStep_keep {s0 s : State} {k : Nat} {i : Nat} (hk : Keep s0 s) :
    Keep s0 (seqStep k i s) := by
  unfold seqStep
  repeat' (
    first
      | with_reducible assumption | with_reducible exact Keep.refl _ | with_reducible apply setSeqr_keep
      | with_reducible apply maskStart_keep | with_reducible apply markActions_keep
      | with_reducible apply haltMark_keep | with_reducible apply ite_keep
      | fail_if_no_progress with_reducible apply keep_upd
      | (intro x; refine Keep.cut (s0 := s0) (x := x) ?_ ?_; (on_goal 1 => dsimp -zeta only [x]); (on_goal 2 => (intro _; clear_value x)))
      | (intro x; clear_value x) | lift_lets -underBinder | (intro s0) | split)

theorem trimEdges_keep {s0 s : State} (hk : Keep s0 s) :
    Keep s0 (trimEdges s) := by
  unfold trimEdges
  repeat' (
    first
      | with_reducible assumption | with_reducible exact Keep.refl _ | with_reducible apply foldl_keep
      | fail_if_no_progress with_reducible apply keep_upd
      | (intro x; refine Keep.cut (s0 := s0) (x := x) ?_ ?_; (on_goal 1 => dsimp -zeta only [x]); (on_goal 2 => (intro _; clear_value x)))
      | (intro x; clear_value x) | lift_lets -underBinder | (intro s0) | split)

theorem evaluate_keep {s0 s : State} {k : Nat} (hk : Keep s0 s) :
    Keep s0 (evaluate k s) := by
  unfold evaluate
  repeat' (
    first
      | with_reducible assumption | with_reducible exact Keep.refl _ | with_reducible apply freeFolios_keep
      | with_reducible apply trimTrig_keep | with_reducible apply seqStep_keep | with_reducible apply trimEdges_keep
      | with_reducible apply ite_keep | fail_if_no_progress with_reducible apply keep_upd
      | (intro x; refine Keep.cut (s0 := s0) (x := x) ?_ ?_; (on_goal 1 => dsimp -zeta only [x]); (on_goal 2 => (intro _; clear_value x)))
      | (intro x; clear_value x) | lift_lets -underBinder | (intro s0) | split)

theorem seqIdle_keep {s0 s : State} {k : Nat} (hk : Keep s0 s) :
    Keep s0 (seqIdle k s) := by
  unfold seqIdle
  repeat' (
    first
      | with_reducible assumption | with_reducible exact Keep.refl _ | with_reducible apply setSeqr_keep
      | with_reducible apply raise_keep | with_reducible apply ite_keep
      | fail_if_no_progress with_reducible apply keep_upd
      | (intro x; refine Keep.cut (s0 := s0) (x := x) ?_ ?_; (on_goal 1 => dsimp -zeta only [x]); (on_goal 2 => (intro _; clear_value x)))
      | (intro x; clear_value x) | lift_lets -underBinder | (intro s0) | split)

theorem armSeq_keep {s0 s : State} {pend : Bool} {i : Nat} {k : Nat} (hk : Keep s0 s) :
    Keep s0 (armSeq pend i k s) := by
  unfold armSeq
  repeat' (
    first
      | with_reducible assumption | with_reducible exact Keep.refl _ | with_reducible apply setSeqr_keep
      | fail_if_no_progress with_reducible apply keep_upd
      | (intro x; refine Keep.cut (s0 := s0) (x := x) ?_ ?_; (on_goal 1 => dsimp -zeta only [x]); (on_goal 2 => (intro _; clear_value x)))
      | (intro x; clear_value x) | lift_lets -underBinder | (intro s0))

theorem trgArmServe_keep {s0 s : State} {p : Packet} (hk : Keep s0 s) :
    Keep s0 (trgArmServe  p s) := by
  unfold trgArmServe
  repeat' (
    first
      | with_reducible assumption | with_reducible exact Keep.refl _ | with_reducible apply forAll_keep
      | with_reducible apply answer_keep | with_reducible apply refuse_keep | with_reducible apply serveAt_keep
      | with_reducible apply armSeq_keep | with_reducible apply ite_keep
      | (intro x; refine Keep.cut (s0 := s0) (x := x) ?_ ?_; (on_goal 1 => dsimp -zeta only [x]); (on_goal 2 => (intro _; clear_value x)))
      | (intro x; clear_value x) | lift_lets -underBinder | (intro s0) | split)

theorem disarmSeq_keep {s0 s : State} {k : Nat} (hk : Keep s0 s) :
    Keep s0 (disarmSeq k s) := by
  unfold disarmSeq
  repeat' (
    first
      | with_reducible assumption | with_reducible exact Keep.refl _ | with_reducible apply forAll_keep
      | with_reducible apply setSeqr_keep | with_reducible apply setMask_keep
      | fail_if_no_progress with_reducible apply keep_upd
      | (intro x; refine Keep.cut (s0 := s0) (x := x) ?_ ?_; (on_goal 1 => dsimp -zeta only [x]); (on_goal 2 => (intro _; clear_value x)))
      | (intro x; clear_value x) | lift_lets -underBinder | (intro s0))

theorem trgDisarmServe_keep {s0 s : State} {p : Packet} (hk : Keep s0 s) :
    Keep s0 (trgDisarmServe  p s) := by
  unfold trgDisarmServe
  repeat' (
    first
      | with_reducible assumption | with_reducible exact Keep.refl _ | with_reducible apply forAll_keep
      | with_reducible apply answer_keep | with_reducible apply serve_keep | with_reducible apply disarmSeq_keep
      | (intro s0))

theorem maskLoadServe_keep {s0 s : State} {p : Packet} (hk : Keep s0 s) :
    Keep s0 (maskLoadServe  p s) := by
  unfold maskLoadServe
  repeat' (
    first
      | with_reducible assumption | with_reducible exact Keep.refl _ | with_reducible apply setMask_keep
      | with_reducible apply jDone_keep | with_reducible apply answer_keep | with_reducible apply refuse_keep
      | with_reducible apply serve_keep | with_reducible apply ite_keep
      | fail_if_no_progress with_reducible apply keep_upd
      | (intro x; refine Keep.cut (s0 := s0) (x := x) ?_ ?_; (on_goal 1 => dsimp -zeta only [x]); (on_goal 2 => (intro _; clear_value x)))
      | (intro x; clear_value x) | lift_lets -underBinder | (intro s0) | split)

end Sys2Proof.Machine
end

