-- ==== Sys2Proof/Laws/KeepRebase.lean ====
section
/-! SUPPORT. Each operation of Rebase keeps what no command undoes. -/

set_option linter.all false

namespace Sys2Proof.Machine

theorem dropSched_keep {s0 s : State} {e : Int} (hk : Keep s0 s) :
    Keep s0 (dropSched e s) := by
  unfold dropSched
  repeat' (
    first
      | with_reducible assumption | with_reducible exact Keep.refl _ | with_reducible apply foldl_keep
      | with_reducible apply raise_keep | with_reducible apply onSession_keep | with_reducible apply refuseOr_keep
      | with_reducible apply ite_keep | fail_if_no_progress with_reducible apply keep_upd
      | (intro x; refine Keep.cut (s0 := s0) (x := x) ?_ ?_; (on_goal 1 => dsimp -zeta only [x]); (on_goal 2 => (intro _; clear_value x)))
      | (intro x; clear_value x) | lift_lets -underBinder | (intro s0) | split)

theorem dropCommits_keep {s0 s : State} {edge : Nat} (hk : Keep s0 s) :
    Keep s0 (dropCommits edge s) := by
  unfold dropCommits
  repeat' (
    first
      | with_reducible assumption | with_reducible exact Keep.refl _ | with_reducible apply forAll_keep
      | with_reducible apply foldl_keep | with_reducible apply toQuire_keep | with_reducible apply refuseOr_keep
      | with_reducible apply returnItems_keep | fail_if_no_progress with_reducible apply keep_upd
      | (intro x; refine Keep.cut (s0 := s0) (x := x) ?_ ?_; (on_goal 1 => dsimp -zeta only [x]); (on_goal 2 => (intro _; clear_value x)))
      | (intro x; clear_value x) | lift_lets -underBinder | (intro s0))

theorem dropInjections_keep {s0 s : State} {e : Int} (hk : Keep s0 s) :
    Keep s0 (dropInjections e s) := by
  unfold dropInjections
  repeat' (
    first
      | with_reducible assumption | with_reducible exact Keep.refl _ | with_reducible apply forAll_keep
      | with_reducible apply foldl_keep | with_reducible apply endInjection_keep
      | fail_if_no_progress with_reducible apply keep_upd
      | (intro x; refine Keep.cut (s0 := s0) (x := x) ?_ ?_; (on_goal 1 => dsimp -zeta only [x]); (on_goal 2 => (intro _; clear_value x)))
      | (intro x; clear_value x) | lift_lets -underBinder | (intro s0) | split)

theorem dropStreams_keep {s0 s : State} {e : Int} (hk : Keep s0 s) :
    Keep s0 (dropStreams e s) := by
  unfold dropStreams
  repeat' (
    first
      | with_reducible assumption | with_reducible exact Keep.refl _ | with_reducible apply forAll_keep
      | with_reducible apply setStream_keep | with_reducible apply raise_keep | with_reducible apply beginRun_keep
      | with_reducible apply withdrawStart_keep | with_reducible apply ite_keep
      | fail_if_no_progress with_reducible apply keep_upd
      | (intro x; refine Keep.cut (s0 := s0) (x := x) ?_ ?_; (on_goal 1 => dsimp -zeta only [x]); (on_goal 2 => (intro _; clear_value x)))
      | (intro x; clear_value x) | lift_lets -underBinder | (intro s0) | split)

theorem dropArms_keep {s0 s : State} {e : Int} (hk : Keep s0 s) :
    Keep s0 (dropArms e s) := by
  unfold dropArms
  repeat' (
    first
      | with_reducible assumption | with_reducible exact Keep.refl _ | with_reducible apply forAll_keep
      | with_reducible apply setSeqr_keep | with_reducible apply raise_keep | with_reducible apply ite_keep
      | fail_if_no_progress with_reducible apply keep_upd
      | (intro x; refine Keep.cut (s0 := s0) (x := x) ?_ ?_; (on_goal 1 => dsimp -zeta only [x]); (on_goal 2 => (intro _; clear_value x)))
      | (intro x; clear_value x) | lift_lets -underBinder | (intro s0) | split)

theorem withdrawAll_keep {s0 s : State} {edge : Nat} (hk : Keep s0 s) :
    Keep s0 (withdrawAll edge s) := by
  unfold withdrawAll
  repeat' (
    first
      | with_reducible assumption | with_reducible exact Keep.refl _ | with_reducible apply dropSched_keep
      | with_reducible apply dropCommits_keep | with_reducible apply dropInjections_keep
      | with_reducible apply dropStreams_keep | with_reducible apply dropArms_keep
      | (intro x; refine Keep.cut (s0 := s0) (x := x) ?_ ?_; (on_goal 1 => dsimp -zeta only [x]); (on_goal 2 => (intro _; clear_value x)))
      | (intro x; clear_value x) | lift_lets -underBinder | (intro s0))

theorem renumber_keep {s0 s : State} {d : Int} {step : Int} (hk : Keep s0 s) :
    Keep s0 (renumber d step s) := by
  unfold renumber
  repeat' (
    first
      | with_reducible assumption | with_reducible exact Keep.refl _
      | fail_if_no_progress with_reducible apply keep_upd | fail_if_no_progress with_reducible apply keep_safe
      | (intro x; refine Keep.cut (s0 := s0) (x := x) ?_ ?_; (on_goal 1 => dsimp -zeta only [x]); (on_goal 2 => (intro _; clear_value x)))
      | (intro x; refine (fun (_ : Safety) => ?_) x; subst x) | (intro x; clear_value x) | lift_lets -underBinder
      | (intro s0))

theorem regrid_keep {s0 s : State} {first : Bool} {old : Int} {new : Int} {d : Int} {n : Nat} (hk : Keep s0 s) :
    Keep s0 (regrid first old new d n s) := by
  unfold regrid
  repeat' (
    first
      | with_reducible assumption | with_reducible exact Keep.refl _ | with_reducible apply setStream_keep
      | with_reducible apply dueDisc_keep | with_reducible apply restartConds_keep
      | with_reducible apply leaveGrid_keep | with_reducible apply endWindows_keep | with_reducible apply ite_keep
      | fail_if_no_progress with_reducible apply keep_upd
      | (intro x; refine Keep.cut (s0 := s0) (x := x) ?_ ?_; (on_goal 1 => dsimp -zeta only [x]); (on_goal 2 => (intro _; clear_value x)))
      | (intro x; clear_value x) | lift_lets -underBinder | (intro s0) | split)

theorem refade_keep {s0 s : State} {n : Nat} (hk : Keep s0 s) :
    Keep s0 (refade n s) := by
  unfold refade
  repeat' (
    first
      | with_reducible assumption | with_reducible exact Keep.refl _ | with_reducible apply setStream_keep
      | fail_if_no_progress with_reducible apply keep_upd
      | (intro x; refine Keep.cut (s0 := s0) (x := x) ?_ ?_; (on_goal 1 => dsimp -zeta only [x]); (on_goal 2 => (intro _; clear_value x)))
      | (intro x; clear_value x) | lift_lets -underBinder | (intro s0))

theorem markRephase_keep {s0 s : State} {lo : Int} {hi : Int} (hk : Keep s0 s) :
    Keep s0 (markRephase lo hi s) := by
  unfold markRephase
  repeat' (
    first
      | with_reducible assumption | with_reducible exact Keep.refl _ | with_reducible apply forAll_keep
      | with_reducible apply addMark_keep | with_reducible apply ite_keep | (intro s0) | split)

theorem dropExchanges_keep {s0 s : State} {step : Int} (hk : Keep s0 s) :
    Keep s0 (dropExchanges step s) := by
  unfold dropExchanges
  repeat' (
    first
      | with_reducible assumption | with_reducible exact Keep.refl _
      | fail_if_no_progress with_reducible apply keep_upd
      | (intro x; refine Keep.cut (s0 := s0) (x := x) ?_ ?_; (on_goal 1 => dsimp -zeta only [x]); (on_goal 2 => (intro _; clear_value x)))
      | (intro x; clear_value x) | lift_lets -underBinder | (intro s0))

theorem followStepped_keep {s0 s : State} {x : Nat} (hk : Keep s0 s) :
    Keep s0 (followStepped x s) := by
  unfold followStepped
  repeat' (
    first
      | with_reducible assumption | with_reducible exact Keep.refl _ | with_reducible apply setSrc_keep
      | with_reducible apply follow_keep | fail_if_no_progress with_reducible apply keep_upd
      | (intro x; refine Keep.cut (s0 := s0) (x := x) ?_ ?_; (on_goal 1 => dsimp -zeta only [x]); (on_goal 2 => (intro _; clear_value x)))
      | (intro x; clear_value x) | lift_lets -underBinder | (intro s0))

theorem lockRate_keep {s0 s : State} {f : Rat} (hk : Keep s0 s) :
    Keep s0 (lockRate f s) := by
  unfold lockRate
  repeat' (
    first
      | with_reducible assumption | with_reducible exact Keep.refl _ | with_reducible apply setRate_keep
      | with_reducible apply ite_keep | fail_if_no_progress with_reducible apply keep_upd
      | (intro x; refine Keep.cut (s0 := s0) (x := x) ?_ ?_; (on_goal 1 => dsimp -zeta only [x]); (on_goal 2 => (intro _; clear_value x)))
      | (intro x; clear_value x) | lift_lets -underBinder | (intro s0) | split)

theorem servoAfter_keep {s0 s : State} {x : TimeStep} (hk : Keep s0 s) :
    Keep s0 (servoAfter x s) := by
  unfold servoAfter
  repeat' (
    first
      | with_reducible assumption | with_reducible exact Keep.refl _ | with_reducible apply enterServo_keep
      | with_reducible apply loseSource_keep | with_reducible apply followStepped_keep
      | with_reducible apply lockRate_keep | with_reducible apply ite_keep
      | fail_if_no_progress with_reducible apply keep_upd
      | (intro x; refine Keep.cut (s0 := s0) (x := x) ?_ ?_; (on_goal 1 => dsimp -zeta only [x]); (on_goal 2 => (intro _; clear_value x)))
      | (intro x; clear_value x) | lift_lets -underBinder | (intro s0) | split)

theorem stepRecord_keep {s0 s : State} {x : TimeStep} {old : Int} {new : Int} {raw : Nat} {q : Nat} (hk : Keep s0 s) :
    Keep s0 (stepRecord x old new raw q s) := by
  unfold stepRecord
  repeat' (
    first
      | with_reducible assumption | with_reducible exact Keep.refl _ | with_reducible apply jInternalAt_keep
      | with_reducible apply jDone_keep | with_reducible apply answer_keep | with_reducible apply ite_keep
      | fail_if_no_progress with_reducible apply keep_upd
      | (intro x; refine Keep.cut (s0 := s0) (x := x) ?_ ?_; (on_goal 1 => dsimp -zeta only [x]); (on_goal 2 => (intro _; clear_value x)))
      | (intro x; clear_value x) | lift_lets -underBinder | (intro s0) | split)

theorem timeStep_keep {s0 s : State} {x : TimeStep} (hk : Keep s0 s) :
    Keep s0 (timeStep x s) := by
  unfold timeStep
  repeat' (
    first
      | with_reducible assumption | with_reducible exact Keep.refl _ | with_reducible apply forAll_keep
      | with_reducible apply setEns_keep | with_reducible apply reAnchor_keep
      | with_reducible apply ptpDecideBoth_keep | with_reducible apply withdrawAll_keep
      | with_reducible apply renumber_keep | with_reducible apply regrid_keep | with_reducible apply refade_keep
      | with_reducible apply markRephase_keep | with_reducible apply dropExchanges_keep
      | with_reducible apply servoAfter_keep | with_reducible apply stepRecord_keep
      | fail_if_no_progress with_reducible apply keep_upd | fail_if_no_progress with_reducible apply keep_safe
      | (intro x; refine Keep.cut (s0 := s0) (x := x) ?_ ?_; (on_goal 1 => dsimp -zeta only [x]); (on_goal 2 => (intro _; clear_value x)))
      | (intro x; refine (fun (_ : Safety) => ?_) x; subst x) | (intro x; clear_value x) | lift_lets -underBinder
      | (intro s0))

theorem stepRefused_keep {s0 s : State} {x : TimeStep} (hk : Keep s0 s) :
    Keep s0 (stepRefused x s) := by
  unfold stepRefused
  repeat' (
    first
      | with_reducible assumption | with_reducible exact Keep.refl _ | with_reducible apply forAll_keep
      | with_reducible apply toQuire_keep | with_reducible apply raise_keep | with_reducible apply refuseOr_keep
      | fail_if_no_progress with_reducible apply keep_upd
      | (intro x; refine Keep.cut (s0 := s0) (x := x) ?_ ?_; (on_goal 1 => dsimp -zeta only [x]); (on_goal 2 => (intro _; clear_value x)))
      | (intro x; clear_value x) | lift_lets -underBinder | (intro s0) | split)

theorem stepAt_keep {s0 s : State} {rebase : Bool} (hk : Keep s0 s) :
    Keep s0 (stepAt rebase s) := by
  unfold stepAt
  repeat' (
    first
      | with_reducible assumption | with_reducible exact Keep.refl _ | with_reducible apply stepLate_keep
      | with_reducible apply timeStep_keep | with_reducible apply stepRefused_keep | with_reducible apply ite_keep
      | fail_if_no_progress with_reducible apply keep_upd
      | (intro x; refine Keep.cut (s0 := s0) (x := x) ?_ ?_; (on_goal 1 => dsimp -zeta only [x]); (on_goal 2 => (intro _; clear_value x)))
      | (intro x; clear_value x) | lift_lets -underBinder | (intro s0) | split)

theorem stepServe_keep {s0 s : State} {kind : Nat} {delta : Int} {source : Nat} {r : Req} (hk : Keep s0 s) :
    Keep s0 (stepServe kind delta source r s) := by
  unfold stepServe
  repeat' (
    first
      | with_reducible assumption | with_reducible exact Keep.refl _ | with_reducible apply queued_keep
      | with_reducible apply refuse_keep | with_reducible apply prepareStep_keep | with_reducible apply ite_keep
      | (intro s0) | split)

theorem timeSetServe_keep {s0 s : State} {p : Packet} (hk : Keep s0 s) :
    Keep s0 (timeSetServe  p s) := by
  unfold timeSetServe
  repeat' (
    first
      | with_reducible assumption | with_reducible exact Keep.refl _ | with_reducible apply refuse_keep
      | with_reducible apply serve_keep | with_reducible apply stepServe_keep | with_reducible apply ite_keep
      | (intro s0) | split)

theorem rebaseServe_keep {s0 s : State} {p : Packet} (hk : Keep s0 s) :
    Keep s0 (rebaseServe  p s) := by
  unfold rebaseServe
  repeat' (
    first
      | with_reducible assumption | with_reducible exact Keep.refl _ | with_reducible apply refuse_keep
      | with_reducible apply serve_keep | with_reducible apply stepServe_keep | with_reducible apply ite_keep
      | fail_if_no_progress with_reducible apply keep_upd
      | (intro x; refine Keep.cut (s0 := s0) (x := x) ?_ ?_; (on_goal 1 => dsimp -zeta only [x]); (on_goal 2 => (intro _; clear_value x)))
      | (intro x; clear_value x) | lift_lets -underBinder | (intro s0) | split)

theorem edgeStamp_keep {s0 s : State} {pin : Nat} {rise : Bool} {fine : Nat} (hk : Keep s0 s) :
    Keep s0 (edgeStamp pin rise fine s) := by
  unfold edgeStamp
  repeat' (
    first
      | with_reducible assumption | with_reducible exact Keep.refl _ | with_reducible apply forAll_keep
      | with_reducible apply iuEdge_keep | with_reducible apply recordEdge_keep | with_reducible apply dropEdge_keep
      | with_reducible apply injectEdge_keep | with_reducible apply trimEdges_keep | with_reducible apply ite_keep
      | fail_if_no_progress with_reducible apply keep_upd
      | (intro x; refine Keep.cut (s0 := s0) (x := x) ?_ ?_; (on_goal 1 => dsimp -zeta only [x]); (on_goal 2 => (intro _; clear_value x)))
      | (intro x; clear_value x) | lift_lets -underBinder | (intro s0) | split)

end Sys2Proof.Machine
end

