-- ==== Sys2Proof/Laws/KeepLanes.lean ====
section
/-! SUPPORT. Each operation of Lanes keeps what no command undoes. -/

set_option linter.all false

namespace Sys2Proof.Machine

theorem dropScan_keep {s0 s : State} {l : Nat} (hk : Keep s0 s) :
    Keep s0 (dropScan l s) := by
  unfold dropScan
  repeat' (
    first
      | with_reducible assumption | with_reducible exact Keep.refl _ | with_reducible apply setLane_keep
      | with_reducible apply refuseOr_keep | fail_if_no_progress with_reducible apply keep_upd
      | (intro x; refine Keep.cut (s0 := s0) (x := x) ?_ ?_; (on_goal 1 => dsimp -zeta only [x]); (on_goal 2 => (intro _; clear_value x)))
      | (intro x; clear_value x) | lift_lets -underBinder | (intro s0) | split)

theorem startLane_keep {s0 s : State} {l : Nat} (hk : Keep s0 s) :
    Keep s0 (startLane l s) := by
  unfold startLane
  repeat' (
    first
      | with_reducible assumption | with_reducible exact Keep.refl _ | with_reducible apply setLane_keep
      | with_reducible apply dropScan_keep | with_reducible apply ite_keep
      | fail_if_no_progress with_reducible apply keep_upd
      | (intro x; refine Keep.cut (s0 := s0) (x := x) ?_ ?_; (on_goal 1 => dsimp -zeta only [x]); (on_goal 2 => (intro _; clear_value x)))
      | (intro x; clear_value x) | lift_lets -underBinder | (intro s0) | split)

theorem startLink_keep {s0 s : State} {l : Nat} (hk : Keep s0 s) :
    Keep s0 (startLink l s) := by
  unfold startLink
  repeat' (
    first
      | with_reducible assumption | with_reducible exact Keep.refl _ | with_reducible apply forAll_keep
      | with_reducible apply setSkaing_keep | with_reducible apply startLane_keep | with_reducible apply ite_keep
      | fail_if_no_progress with_reducible apply keep_upd
      | (intro x; refine Keep.cut (s0 := s0) (x := x) ?_ ?_; (on_goal 1 => dsimp -zeta only [x]); (on_goal 2 => (intro _; clear_value x)))
      | (intro x; clear_value x) | lift_lets -underBinder | (intro s0) | split)

theorem hostDown_keep {s0 s : State} (hk : Keep s0 s) :
    Keep s0 (hostDown s) := by
  unfold hostDown
  repeat' (
    first
      | with_reducible assumption | with_reducible exact Keep.refl _ | with_reducible apply linkDown_keep
      | with_reducible apply startLink_keep | with_reducible apply ite_keep | (intro s0) | split)

theorem startLanes_keep {s0 s : State} (hk : Keep s0 s) :
    Keep s0 (startLanes s) := by
  unfold startLanes
  repeat' (
    first
      | with_reducible assumption | with_reducible exact Keep.refl _ | with_reducible apply forAll_keep
      | with_reducible apply startLink_keep | (intro s0))

theorem netDatagram_keep {s0 s : State} {n : Nat} {port : Nat} {kind : Nat} {body : List Byte} {v : Session} (hk : Keep s0 s) :
    Keep s0 (netDatagram n port kind body v s) := by
  unfold netDatagram
  repeat' (
    first
      | with_reducible assumption | with_reducible exact Keep.refl _ | with_reducible apply setStream_keep
      | with_reducible apply sendUdp_keep | fail_if_no_progress with_reducible apply keep_upd
      | (intro x; refine Keep.cut (s0 := s0) (x := x) ?_ ?_; (on_goal 1 => dsimp -zeta only [x]); (on_goal 2 => (intro _; clear_value x)))
      | (intro x; clear_value x) | lift_lets -underBinder | (intro s0))

theorem netFolio_keep {s0 s : State} {n : Nat} {again : Bool} {f : Folio} (hk : Keep s0 s) :
    Keep s0 (netFolio n again f s).1 := by
  unfold netFolio
  repeat' (
    first
      | with_reducible assumption | with_reducible exact Keep.refl _ | with_reducible apply setStream_keep
      | with_reducible apply skaingSend_keep | with_reducible apply netDatagram_keep | with_reducible apply ite_keep
      | fail_if_no_progress with_reducible apply keep_upd
      | (intro x; refine Keep.cut (s0 := s0) (x := x) ?_ ?_; (on_goal 1 => dsimp -zeta only [x]); (on_goal 2 => (intro _; clear_value x)))
      | (intro x; clear_value x) | lift_lets -underBinder | dsimp -zeta only | (intro s0) | split)

theorem netSend_keep {s0 s : State} {n seq : Nat} (h : Keep s0 s) : Keep s0 (netSend n seq s) := by
  unfold netSend
  extract_lets st drop again next
  have hd : Keep s0 (drop s) := setRingQ_keep h
  clear_value drop next
  split
  · exact hd
  · refine ite_keep hd ?_
    dsimp only
    exact ite_keep hd (ite_keep (freeFolios_keep (closeWindows_keep (setStream_keep (netFolio_keep h))))
      (freeFolios_keep (setStream_keep (netFolio_keep h))))

theorem stageAndSend_keep {s0 s : State} {r : Nat} {seq : Nat} {corrected : Nat} {hits : List EccHit} (hk : Keep s0 s) :
    Keep s0 (stageAndSend r seq corrected hits s) := by
  unfold stageAndSend
  repeat' (
    first
      | with_reducible assumption | with_reducible exact Keep.refl _ | with_reducible apply stageRead_keep
      | with_reducible apply netSend_keep | with_reducible apply ite_keep
      | (intro x; refine Keep.cut (s0 := s0) (x := x) ?_ ?_; (on_goal 1 => dsimp -zeta only [x]); (on_goal 2 => (intro _; clear_value x)))
      | (intro x; clear_value x) | lift_lets -underBinder | (intro s0) | split)

theorem goBack_keep {s0 s : State} {n : Nat} (hk : Keep s0 s) :
    Keep s0 (goBack n s) := by
  unfold goBack
  repeat' (
    first
      | with_reducible assumption | with_reducible exact Keep.refl _ | with_reducible apply setStream_keep
      | with_reducible apply ite_keep | fail_if_no_progress with_reducible apply keep_upd
      | (intro x; refine Keep.cut (s0 := s0) (x := x) ?_ ?_; (on_goal 1 => dsimp -zeta only [x]); (on_goal 2 => (intro _; clear_value x)))
      | (intro x; clear_value x) | lift_lets -underBinder | (intro s0) | split)

theorem goBackPort_keep {s0 s : State} {p : Nat} (hk : Keep s0 s) :
    Keep s0 (goBackPort p s) := by
  unfold goBackPort
  repeat' (
    first
      | with_reducible assumption | with_reducible exact Keep.refl _ | with_reducible apply forAll_keep
      | with_reducible apply goBack_keep | (intro s0))

theorem movedStreams_keep {s0 s : State} {old : State} (hk : Keep s0 s) :
    Keep s0 (movedStreams old s) := by
  unfold movedStreams
  repeat' (
    first
      | with_reducible assumption | with_reducible exact Keep.refl _ | with_reducible apply forAll_keep
      | with_reducible apply goBack_keep | (intro s0))

theorem goBackTimer_keep {s0 s : State} {n : Nat} (hk : Keep s0 s) :
    Keep s0 (goBackTimer n s) := by
  unfold goBackTimer
  repeat' (
    first
      | with_reducible assumption | with_reducible exact Keep.refl _ | with_reducible apply goBack_keep
      | with_reducible apply ite_keep
      | (intro x; refine Keep.cut (s0 := s0) (x := x) ?_ ?_; (on_goal 1 => dsimp -zeta only [x]); (on_goal 2 => (intro _; clear_value x)))
      | (intro x; clear_value x) | lift_lets -underBinder | (intro s0) | split)

theorem heartbeat_keep {s0 s : State} {n : Nat} (hk : Keep s0 s) :
    Keep s0 (heartbeat n s) := by
  unfold heartbeat
  repeat' (
    first
      | with_reducible assumption | with_reducible exact Keep.refl _ | with_reducible apply netDatagram_keep
      | with_reducible apply ite_keep | fail_if_no_progress with_reducible apply keep_upd
      | (intro x; refine Keep.cut (s0 := s0) (x := x) ?_ ?_; (on_goal 1 => dsimp -zeta only [x]); (on_goal 2 => (intro _; clear_value x)))
      | (intro x; clear_value x) | lift_lets -underBinder | (intro s0) | split)

theorem netAck_keep {s0 s : State} {n : Nat} {seq : Nat} (hk : Keep s0 s) :
    Keep s0 (netAck n seq s) := by
  unfold netAck
  repeat' (
    first
      | with_reducible assumption | with_reducible exact Keep.refl _ | with_reducible apply setStream_keep
      | with_reducible apply ackStream_keep | with_reducible apply ite_keep
      | fail_if_no_progress with_reducible apply keep_upd
      | (intro x; refine Keep.cut (s0 := s0) (x := x) ?_ ?_; (on_goal 1 => dsimp -zeta only [x]); (on_goal 2 => (intro _; clear_value x)))
      | (intro x; clear_value x) | lift_lets -underBinder | (intro s0) | split)

theorem nackOne_keep {s0 s : State} {n : Nat} {seq : Nat} (hk : Keep s0 s) :
    Keep s0 (nackOne n seq s) := by
  unfold nackOne
  repeat' (
    first
      | with_reducible assumption | with_reducible exact Keep.refl _ | with_reducible apply setStream_keep
      | with_reducible apply ite_keep | fail_if_no_progress with_reducible apply keep_upd
      | (intro x; refine Keep.cut (s0 := s0) (x := x) ?_ ?_; (on_goal 1 => dsimp -zeta only [x]); (on_goal 2 => (intro _; clear_value x)))
      | (intro x; clear_value x) | lift_lets -underBinder | (intro s0) | split)

theorem ackDatagram_keep {s0 s : State} {n : Nat} {hdr : List Byte} {body : List Byte} {mac : List Byte} (hk : Keep s0 s) :
    Keep s0 (ackDatagram n hdr body mac s) := by
  unfold ackDatagram
  repeat' (
    first
      | with_reducible assumption | with_reducible exact Keep.refl _ | with_reducible apply foldl_keep
      | with_reducible apply setStream_keep | with_reducible apply netAck_keep | with_reducible apply nackOne_keep
      | with_reducible apply ite_keep | fail_if_no_progress with_reducible apply keep_upd
      | (intro x; refine Keep.cut (s0 := s0) (x := x) ?_ ?_; (on_goal 1 => dsimp -zeta only [x]); (on_goal 2 => (intro _; clear_value x)))
      | (intro x; clear_value x) | lift_lets -underBinder | (intro s0) | split)

theorem linkLost_keep {s0 s : State} {old : State} {l : Nat} (hk : Keep s0 s) :
    Keep s0 (linkLost old l s) := by
  unfold linkLost
  repeat' (
    first
      | with_reducible assumption | with_reducible exact Keep.refl _ | with_reducible apply loseSource_keep
      | with_reducible apply movedStreams_keep | with_reducible apply ite_keep | (intro s0) | split)

theorem dropLink_keep {s0 s : State} {l : Nat} (hk : Keep s0 s) :
    Keep s0 (dropLink l s) := by
  unfold dropLink
  repeat' (
    first
      | with_reducible assumption | with_reducible exact Keep.refl _ | with_reducible apply startLink_keep
      | with_reducible apply linkLost_keep | (intro s0))

theorem stepDown_keep {s0 s : State} {l : Nat} (hk : Keep s0 s) :
    Keep s0 (stepDown l s) := by
  unfold stepDown
  repeat' (
    first
      | with_reducible assumption | with_reducible exact Keep.refl _ | with_reducible apply setLane_keep
      | with_reducible apply dropLink_keep | with_reducible apply ite_keep
      | fail_if_no_progress with_reducible apply keep_upd
      | (intro x; refine Keep.cut (s0 := s0) (x := x) ?_ ?_; (on_goal 1 => dsimp -zeta only [x]); (on_goal 2 => (intro _; clear_value x)))
      | (intro x; clear_value x) | lift_lets -underBinder | (intro s0) | split)

theorem trainAgain_keep {s0 s : State} {l : Nat} (hk : Keep s0 s) :
    Keep s0 (trainAgain l s) := by
  unfold trainAgain
  repeat' (
    first
      | with_reducible assumption | with_reducible exact Keep.refl _ | with_reducible apply forAll_keep
      | with_reducible apply setLane_keep | with_reducible apply setSkaing_keep | with_reducible apply ite_keep
      | fail_if_no_progress with_reducible apply keep_upd
      | (intro x; refine Keep.cut (s0 := s0) (x := x) ?_ ?_; (on_goal 1 => dsimp -zeta only [x]); (on_goal 2 => (intro _; clear_value x)))
      | (intro x; clear_value x) | lift_lets -underBinder | (intro s0) | split)

theorem lockLoss_keep {s0 s : State} {l : Nat} (hk : Keep s0 s) :
    Keep s0 (lockLoss l s) := by
  unfold lockLoss
  repeat' (
    first
      | with_reducible assumption | with_reducible exact Keep.refl _ | with_reducible apply setLane_keep
      | with_reducible apply stepDown_keep | with_reducible apply trainAgain_keep | with_reducible apply ite_keep
      | fail_if_no_progress with_reducible apply keep_upd
      | (intro x; refine Keep.cut (s0 := s0) (x := x) ?_ ?_; (on_goal 1 => dsimp -zeta only [x]); (on_goal 2 => (intro _; clear_value x)))
      | (intro x; clear_value x) | lift_lets -underBinder | (intro s0) | split)

theorem lockBack_keep {s0 s : State} {l : Nat} (hk : Keep s0 s) :
    Keep s0 (lockBack l s) := by
  unfold lockBack
  repeat' (
    first
      | with_reducible assumption | with_reducible exact Keep.refl _ | with_reducible apply setLane_keep
      | with_reducible apply ite_keep | fail_if_no_progress with_reducible apply keep_upd
      | (intro x; refine Keep.cut (s0 := s0) (x := x) ?_ ?_; (on_goal 1 => dsimp -zeta only [x]); (on_goal 2 => (intro _; clear_value x)))
      | (intro x; clear_value x) | lift_lets -underBinder | (intro s0) | split)

theorem leaveService_keep {s0 s : State} {k : Nat} (hk : Keep s0 s) :
    Keep s0 (leaveService k s) := by
  unfold leaveService
  repeat' (
    first
      | with_reducible assumption | with_reducible exact Keep.refl _ | with_reducible apply setLane_keep
      | with_reducible apply dropScan_keep | fail_if_no_progress with_reducible apply keep_upd
      | (intro x; refine Keep.cut (s0 := s0) (x := x) ?_ ?_; (on_goal 1 => dsimp -zeta only [x]); (on_goal 2 => (intro _; clear_value x)))
      | (intro x; clear_value x) | lift_lets -underBinder | (intro s0))

theorem linkReform_keep {s0 s : State} {rev : Bool} (hk : Keep s0 s) :
    Keep s0 (linkReform rev s) := by
  unfold linkReform
  repeat' (
    first
      | with_reducible assumption | with_reducible exact Keep.refl _ | with_reducible apply forAll_keep
      | with_reducible apply raiseOnce_keep | with_reducible apply linkDown_keep
      | with_reducible apply startLink_keep | with_reducible apply leaveService_keep | with_reducible apply ite_keep
      | fail_if_no_progress with_reducible apply keep_upd
      | (intro x; refine Keep.cut (s0 := s0) (x := x) ?_ ?_; (on_goal 1 => dsimp -zeta only [x]); (on_goal 2 => (intro _; clear_value x)))
      | (intro x; clear_value x) | lift_lets -underBinder | (intro s0) | split)

theorem singleDown_keep {s0 s : State} {l : Nat} (hk : Keep s0 s) :
    Keep s0 (singleDown l s) := by
  unfold singleDown
  repeat' (
    first
      | with_reducible assumption | with_reducible exact Keep.refl _ | with_reducible apply dropLink_keep
      | with_reducible apply ite_keep
      | (intro x; refine Keep.cut (s0 := s0) (x := x) ?_ ?_; (on_goal 1 => dsimp -zeta only [x]); (on_goal 2 => (intro _; clear_value x)))
      | (intro x; clear_value x) | lift_lets -underBinder | (intro s0) | split)

theorem goDeep_keep {s0 s : State} {l : Nat} (hk : Keep s0 s) :
    Keep s0 (goDeep l s) := by
  unfold goDeep
  repeat' (
    first
      | with_reducible assumption | with_reducible exact Keep.refl _ | with_reducible apply setLane_keep
      | with_reducible apply setSkaing_keep | with_reducible apply loseSource_keep
      | with_reducible apply dropScan_keep | with_reducible apply ite_keep
      | fail_if_no_progress with_reducible apply keep_upd
      | (intro x; refine Keep.cut (s0 := s0) (x := x) ?_ ?_; (on_goal 1 => dsimp -zeta only [x]); (on_goal 2 => (intro _; clear_value x)))
      | (intro x; clear_value x) | lift_lets -underBinder | (intro s0) | split)

theorem laneIsUp_keep {s0 s : State} {l : Nat} {rate : Nat} {fec : Nat} (hk : Keep s0 s) :
    Keep s0 (laneIsUp l rate fec s) := by
  unfold laneIsUp
  repeat' (
    first
      | with_reducible assumption | with_reducible exact Keep.refl _ | with_reducible apply setLane_keep
      | with_reducible apply clearCause_keep | with_reducible apply goDeep_keep | with_reducible apply ite_keep
      | fail_if_no_progress with_reducible apply keep_upd
      | (intro x; refine Keep.cut (s0 := s0) (x := x) ?_ ?_; (on_goal 1 => dsimp -zeta only [x]); (on_goal 2 => (intro _; clear_value x)))
      | (intro x; clear_value x) | lift_lets -underBinder | (intro s0) | split)

theorem trained_keep {s0 s : State} {l : Nat} {rate : Nat} {fec : Nat} {width : Nat} (hk : Keep s0 s) :
    Keep s0 (trained l rate fec width s) := by
  unfold trained
  repeat' (
    first
      | with_reducible assumption | with_reducible exact Keep.refl _ | with_reducible apply forAll_keep
      | with_reducible apply setLane_keep | with_reducible apply setSkaing_keep
      | with_reducible apply goBackPort_keep | with_reducible apply trainAgain_keep
      | with_reducible apply leaveService_keep | with_reducible apply laneIsUp_keep | with_reducible apply ite_keep
      | fail_if_no_progress with_reducible apply keep_upd
      | (intro x; refine Keep.cut (s0 := s0) (x := x) ?_ ?_; (on_goal 1 => dsimp -zeta only [x]); (on_goal 2 => (intro _; clear_value x)))
      | (intro x; clear_value x) | lift_lets -underBinder | (intro s0) | split)

theorem noPartner_keep {s0 s : State} {l : Nat} (hk : Keep s0 s) :
    Keep s0 (noPartner l s) := by
  unfold noPartner
  repeat' (
    first
      | with_reducible assumption | with_reducible exact Keep.refl _ | with_reducible apply forAll_keep
      | with_reducible apply setLane_keep | with_reducible apply raise_keep | with_reducible apply ite_keep
      | fail_if_no_progress with_reducible apply keep_upd
      | (intro x; refine Keep.cut (s0 := s0) (x := x) ?_ ?_; (on_goal 1 => dsimp -zeta only [x]); (on_goal 2 => (intro _; clear_value x)))
      | (intro x; clear_value x) | lift_lets -underBinder | (intro s0) | split)

theorem trainFault_keep {s0 s : State} {l : Nat} (hk : Keep s0 s) :
    Keep s0 (trainFault l s) := by
  unfold trainFault
  repeat' (
    first
      | with_reducible assumption | with_reducible exact Keep.refl _ | with_reducible apply forAll_keep
      | with_reducible apply setLane_keep | with_reducible apply raise_keep | with_reducible apply ite_keep
      | fail_if_no_progress with_reducible apply keep_upd
      | (intro x; refine Keep.cut (s0 := s0) (x := x) ?_ ?_; (on_goal 1 => dsimp -zeta only [x]); (on_goal 2 => (intro _; clear_value x)))
      | (intro x; clear_value x) | lift_lets -underBinder | (intro s0) | split)

theorem standbyWake_keep {s0 s : State} {l : Nat} {seen : Bool} (hk : Keep s0 s) :
    Keep s0 (standbyWake l seen s) := by
  unfold standbyWake
  repeat' (
    first
      | with_reducible assumption | with_reducible exact Keep.refl _ | with_reducible apply startLink_keep
      | with_reducible apply ite_keep
      | (intro x; refine Keep.cut (s0 := s0) (x := x) ?_ ?_; (on_goal 1 => dsimp -zeta only [x]); (on_goal 2 => (intro _; clear_value x)))
      | (intro x; clear_value x) | lift_lets -underBinder | (intro s0) | split)

theorem standbyReturn_keep {s0 s : State} {l : Nat} (hk : Keep s0 s) :
    Keep s0 (standbyReturn l s) := by
  unfold standbyReturn
  repeat' (
    first
      | with_reducible assumption | with_reducible exact Keep.refl _ | with_reducible apply movedStreams_keep
      | with_reducible apply goDeep_keep | with_reducible apply ite_keep
      | (intro x; refine Keep.cut (s0 := s0) (x := x) ?_ ?_; (on_goal 1 => dsimp -zeta only [x]); (on_goal 2 => (intro _; clear_value x)))
      | (intro x; clear_value x) | lift_lets -underBinder | (intro s0) | split)

theorem laneCfgWritten_keep {s0 s : State} {l : Nat} (hk : Keep s0 s) :
    Keep s0 (laneCfgWritten l s) := by
  unfold laneCfgWritten
  repeat' (
    first
      | with_reducible assumption | with_reducible exact Keep.refl _ | with_reducible apply setLane_keep
      | with_reducible apply clearCause_keep | with_reducible apply startLink_keep
      | with_reducible apply movedStreams_keep | with_reducible apply goDeep_keep | with_reducible apply ite_keep
      | fail_if_no_progress with_reducible apply keep_upd
      | (intro x; refine Keep.cut (s0 := s0) (x := x) ?_ ?_; (on_goal 1 => dsimp -zeta only [x]); (on_goal 2 => (intro _; clear_value x)))
      | (intro x; clear_value x) | lift_lets -underBinder | (intro s0) | split)

theorem scanDueRow_keep {s0 s : State} {l : Nat} (hk : Keep s0 s) :
    Keep s0 (scanDueRow l s) := by
  unfold scanDueRow
  repeat' (
    first
      | with_reducible assumption | with_reducible exact Keep.refl _ | with_reducible apply setLane_keep
      | with_reducible apply ite_keep | fail_if_no_progress with_reducible apply keep_upd
      | (intro x; refine Keep.cut (s0 := s0) (x := x) ?_ ?_; (on_goal 1 => dsimp -zeta only [x]); (on_goal 2 => (intro _; clear_value x)))
      | (intro x; clear_value x) | lift_lets -underBinder | (intro s0) | split)

theorem scanDone_keep {s0 s : State} {l : Nat} {m : List Byte} (hk : Keep s0 s) :
    Keep s0 (scanDone l m s) := by
  unfold scanDone
  repeat' (
    first
      | with_reducible assumption | with_reducible exact Keep.refl _ | with_reducible apply setLane_keep
      | with_reducible apply clearCause_keep | with_reducible apply raiseOnce_keep
      | with_reducible apply answer_keep | with_reducible apply stepDown_keep | with_reducible apply ite_keep
      | fail_if_no_progress with_reducible apply keep_upd
      | (intro x; refine Keep.cut (s0 := s0) (x := x) ?_ ?_; (on_goal 1 => dsimp -zeta only [x]); (on_goal 2 => (intro _; clear_value x)))
      | (intro x; clear_value x) | lift_lets -underBinder | (intro s0) | split)

theorem eyeScanServe_keep {s0 s : State} {p : Packet} (hk : Keep s0 s) :
    Keep s0 (eyeScanServe  p s) := by
  unfold eyeScanServe
  repeat' (
    first
      | with_reducible assumption | with_reducible exact Keep.refl _ | with_reducible apply setLane_keep
      | with_reducible apply queued_keep | with_reducible apply refuse_keep | with_reducible apply serve_keep
      | with_reducible apply ite_keep | fail_if_no_progress with_reducible apply keep_upd
      | (intro x; refine Keep.cut (s0 := s0) (x := x) ?_ ?_; (on_goal 1 => dsimp -zeta only [x]); (on_goal 2 => (intro _; clear_value x)))
      | (intro x; clear_value x) | lift_lets -underBinder | (intro s0) | split)

theorem retrainServe_keep {s0 s : State} {p : Packet} (hk : Keep s0 s) :
    Keep s0 (retrainServe  p s) := by
  unfold retrainServe
  repeat' (
    first
      | with_reducible assumption | with_reducible exact Keep.refl _ | with_reducible apply forAll_keep
      | with_reducible apply setLane_keep | with_reducible apply jDone_keep | with_reducible apply answer_keep
      | with_reducible apply refuse_keep | with_reducible apply serve_keep | with_reducible apply linkDown_keep
      | with_reducible apply startLink_keep | with_reducible apply dropLink_keep | with_reducible apply ite_keep
      | fail_if_no_progress with_reducible apply keep_upd
      | (intro x; refine Keep.cut (s0 := s0) (x := x) ?_ ?_; (on_goal 1 => dsimp -zeta only [x]); (on_goal 2 => (intro _; clear_value x)))
      | (intro x; clear_value x) | lift_lets -underBinder | (intro s0) | split)

theorem loopStart_keep {s0 s : State} {mode : Nat} {seconds : Nat} {r : Req} {l : Nat} (hk : Keep s0 s) :
    Keep s0 (loopStart mode seconds r l s) := by
  unfold loopStart
  repeat' (
    first
      | with_reducible assumption | with_reducible exact Keep.refl _ | with_reducible apply setLane_keep
      | with_reducible apply setSkaing_keep | with_reducible apply linkDown_keep
      | with_reducible apply dropScan_keep | with_reducible apply startLink_keep
      | with_reducible apply linkLost_keep | with_reducible apply ite_keep
      | fail_if_no_progress with_reducible apply keep_upd
      | (intro x; refine Keep.cut (s0 := s0) (x := x) ?_ ?_; (on_goal 1 => dsimp -zeta only [x]); (on_goal 2 => (intro _; clear_value x)))
      | (intro x; clear_value x) | lift_lets -underBinder | (intro s0) | split)

theorem loopbackServe_keep {s0 s : State} {p : Packet} (hk : Keep s0 s) :
    Keep s0 (loopbackServe  p s) := by
  unfold loopbackServe
  repeat' (
    first
      | with_reducible assumption | with_reducible exact Keep.refl _ | with_reducible apply setLane_keep
      | with_reducible apply jDone_keep | with_reducible apply replyTo_keep | with_reducible apply answer_keep
      | with_reducible apply refuse_keep | with_reducible apply serve_keep | with_reducible apply loopStart_keep
      | with_reducible apply ite_keep | fail_if_no_progress with_reducible apply keep_upd
      | (intro x; refine Keep.cut (s0 := s0) (x := x) ?_ ?_; (on_goal 1 => dsimp -zeta only [x]); (on_goal 2 => (intro _; clear_value x)))
      | (intro x; clear_value x) | lift_lets -underBinder | (intro s0) | split)

theorem loopbackEnd_keep {s0 s : State} {l : Nat} {bitsSeen : Nat} {errors : Nat} (hk : Keep s0 s) :
    Keep s0 (loopbackEnd l bitsSeen errors s) := by
  unfold loopbackEnd
  repeat' (
    first
      | with_reducible assumption | with_reducible exact Keep.refl _ | with_reducible apply setLane_keep
      | with_reducible apply answerOr_keep | with_reducible apply startLink_keep | with_reducible apply ite_keep
      | fail_if_no_progress with_reducible apply keep_upd
      | (intro x; refine Keep.cut (s0 := s0) (x := x) ?_ ?_; (on_goal 1 => dsimp -zeta only [x]); (on_goal 2 => (intro _; clear_value x)))
      | (intro x; clear_value x) | lift_lets -underBinder | (intro s0) | split)

theorem agreeLink_keep {s0 s : State} {x : Nat} (hk : Keep s0 s) :
    Keep s0 (agreeLink x s) := by
  unfold agreeLink
  repeat' (
    first
      | with_reducible assumption | with_reducible exact Keep.refl _ | with_reducible apply setLane_keep
      | with_reducible apply setSkaing_keep | with_reducible apply raiseOrig_keep | with_reducible apply ite_keep
      | fail_if_no_progress with_reducible apply keep_upd
      | (intro x; refine Keep.cut (s0 := s0) (x := x) ?_ ?_; (on_goal 1 => dsimp -zeta only [x]); (on_goal 2 => (intro _; clear_value x)))
      | (intro x; clear_value x) | lift_lets -underBinder | (intro s0) | split)

theorem linkFrame_keep {s0 s : State} {x : Nat} {vmin : Nat} {vmax : Nat} {rmax : Nat} {tag : Nat} {crcOk : Bool} (hk : Keep s0 s) :
    Keep s0 (linkFrame x vmin vmax rmax tag crcOk s) := by
  unfold linkFrame
  repeat' (
    first
      | with_reducible assumption | with_reducible exact Keep.refl _ | with_reducible apply setSkaing_keep
      | with_reducible apply crcDrop_keep | with_reducible apply agreeLink_keep | with_reducible apply ite_keep
      | fail_if_no_progress with_reducible apply keep_upd
      | (intro x; refine Keep.cut (s0 := s0) (x := x) ?_ ?_; (on_goal 1 => dsimp -zeta only [x]); (on_goal 2 => (intro _; clear_value x)))
      | (intro x; clear_value x) | lift_lets -underBinder | (intro s0) | split)

theorem freshRelays_keep {s0 s : State} {x : Nat} (hk : Keep s0 s) :
    Keep s0 (freshRelays x s) := by
  unfold freshRelays
  repeat' (
    first
      | with_reducible assumption | with_reducible exact Keep.refl _ | with_reducible apply forAll_keep
      | with_reducible apply setStream_keep | fail_if_no_progress with_reducible apply keep_upd
      | (intro x; refine Keep.cut (s0 := s0) (x := x) ?_ ?_; (on_goal 1 => dsimp -zeta only [x]); (on_goal 2 => (intro _; clear_value x)))
      | (intro x; clear_value x) | lift_lets -underBinder | (intro s0))

theorem prbsEnd_keep {s0 s : State} {x : Nat} {errors : Nat} (hk : Keep s0 s) :
    Keep s0 (prbsEnd x errors s) := by
  unfold prbsEnd
  repeat' (
    first
      | with_reducible assumption | with_reducible exact Keep.refl _ | with_reducible apply setSkaing_keep
      | with_reducible apply goBackPort_keep | with_reducible apply laneIsUp_keep
      | with_reducible apply freshRelays_keep | with_reducible apply ite_keep
      | fail_if_no_progress with_reducible apply keep_upd
      | (intro x; refine Keep.cut (s0 := s0) (x := x) ?_ ?_; (on_goal 1 => dsimp -zeta only [x]); (on_goal 2 => (intro _; clear_value x)))
      | (intro x; clear_value x) | lift_lets -underBinder | (intro s0) | split)

theorem grant_keep {s0 s : State} {x : Nat} {n : Nat} (hk : Keep s0 s) :
    Keep s0 (grant x n s) := by
  unfold grant
  repeat' (
    first
      | with_reducible assumption | with_reducible exact Keep.refl _ | with_reducible apply setStream_keep
      | with_reducible apply skaingSend_keep | with_reducible apply ite_keep
      | fail_if_no_progress with_reducible apply keep_upd
      | (intro x; refine Keep.cut (s0 := s0) (x := x) ?_ ?_; (on_goal 1 => dsimp -zeta only [x]); (on_goal 2 => (intro _; clear_value x)))
      | (intro x; clear_value x) | lift_lets -underBinder | (intro s0) | split)

theorem keepalive_keep {s0 s : State} {x : Nat} (hk : Keep s0 s) :
    Keep s0 (keepalive x s) := by
  unfold keepalive
  repeat' (
    first
      | with_reducible assumption | with_reducible exact Keep.refl _ | with_reducible apply forAll_keep
      | with_reducible apply setSkaing_keep | with_reducible apply skaingSend_keep
      | with_reducible apply trainAgain_keep | with_reducible apply agreeLink_keep | with_reducible apply grant_keep
      | with_reducible apply ite_keep | fail_if_no_progress with_reducible apply keep_upd
      | (intro x; refine Keep.cut (s0 := s0) (x := x) ?_ ?_; (on_goal 1 => dsimp -zeta only [x]); (on_goal 2 => (intro _; clear_value x)))
      | (intro x; clear_value x) | lift_lets -underBinder | (intro s0) | split)

theorem linkTimeout_keep {s0 s : State} {x : Nat} (hk : Keep s0 s) :
    Keep s0 (linkTimeout x s) := by
  unfold linkTimeout
  repeat' (
    first
      | with_reducible assumption | with_reducible exact Keep.refl _ | with_reducible apply dropLink_keep
      | with_reducible apply ite_keep
      | (intro x; refine Keep.cut (s0 := s0) (x := x) ?_ ?_; (on_goal 1 => dsimp -zeta only [x]); (on_goal 2 => (intro _; clear_value x)))
      | (intro x; clear_value x) | lift_lets -underBinder | (intro s0) | split)

theorem timeSend_keep {s0 s : State} {x : Nat} (hk : Keep s0 s) :
    Keep s0 (timeSend x s) := by
  unfold timeSend
  repeat' (
    first
      | with_reducible assumption | with_reducible exact Keep.refl _ | with_reducible apply setSkaing_keep
      | with_reducible apply skaingSend_keep | with_reducible apply ite_keep
      | fail_if_no_progress with_reducible apply keep_upd
      | (intro x; refine Keep.cut (s0 := s0) (x := x) ?_ ?_; (on_goal 1 => dsimp -zeta only [x]); (on_goal 2 => (intro _; clear_value x)))
      | (intro x; clear_value x) | lift_lets -underBinder | (intro s0) | split)

theorem timeFrame_keep {s0 s : State} {x : Nat} {role : Nat} {st : Nat} {tx' : Int} {peerTx : Int} {peerRx : Int} {qual : Nat} {rx : Nat} {phase : Nat} {crcOk : Bool} (hk : Keep s0 s) :
    Keep s0 (timeFrame x role st tx' peerTx peerRx qual rx phase crcOk s) := by
  unfold timeFrame
  repeat' (
    first
      | with_reducible assumption | with_reducible exact Keep.refl _ | with_reducible apply setSkaing_keep
      | with_reducible apply raiseOrig_keep | with_reducible apply setSrc_keep | with_reducible apply measure_keep
      | with_reducible apply loseSource_keep | with_reducible apply crcDrop_keep | with_reducible apply ite_keep
      | fail_if_no_progress with_reducible apply keep_upd
      | (intro x; refine Keep.cut (s0 := s0) (x := x) ?_ ?_; (on_goal 1 => dsimp -zeta only [x]); (on_goal 2 => (intro _; clear_value x)))
      | (intro x; clear_value x) | lift_lets -underBinder | (intro s0) | split)

theorem relayTake_keep {s0 s : State} {r : Nat} {f : Folio} (hk : Keep s0 s) :
    Keep s0 (relayTake r f s) := by
  unfold relayTake
  repeat' (
    first
      | with_reducible assumption | with_reducible exact Keep.refl _ | with_reducible apply setStream_keep
      | with_reducible apply setRing_keep | with_reducible apply ite_keep
      | fail_if_no_progress with_reducible apply keep_upd
      | (intro x; refine Keep.cut (s0 := s0) (x := x) ?_ ?_; (on_goal 1 => dsimp -zeta only [x]); (on_goal 2 => (intro _; clear_value x)))
      | (intro x; clear_value x) | lift_lets -underBinder | (intro s0) | split)

theorem dataFrame_keep {s0 s : State} {x : Nat} {b : List Byte} {crcOk : Bool} (hk : Keep s0 s) :
    Keep s0 (dataFrame x b crcOk s) := by
  unfold dataFrame
  repeat' (
    first
      | with_reducible assumption | with_reducible exact Keep.refl _ | with_reducible apply setSkaing_keep
      | with_reducible apply crcDrop_keep | with_reducible apply relayTake_keep | with_reducible apply ite_keep
      | fail_if_no_progress with_reducible apply keep_upd
      | (intro x; refine Keep.cut (s0 := s0) (x := x) ?_ ?_; (on_goal 1 => dsimp -zeta only [x]); (on_goal 2 => (intro _; clear_value x)))
      | (intro x; clear_value x) | lift_lets -underBinder | (intro s0) | split)

theorem creditFrame_keep {s0 s : State} {x : Nat} {n : Nat} {credits : Nat} {ack : Nat} {crcOk : Bool} (hk : Keep s0 s) :
    Keep s0 (creditFrame x n credits ack crcOk s) := by
  unfold creditFrame
  repeat' (
    first
      | with_reducible assumption | with_reducible exact Keep.refl _ | with_reducible apply setStream_keep
      | with_reducible apply setSkaing_keep | with_reducible apply crcDrop_keep | with_reducible apply netAck_keep
      | with_reducible apply ite_keep | fail_if_no_progress with_reducible apply keep_upd
      | (intro x; refine Keep.cut (s0 := s0) (x := x) ?_ ?_; (on_goal 1 => dsimp -zeta only [x]); (on_goal 2 => (intro _; clear_value x)))
      | (intro x; clear_value x) | lift_lets -underBinder | (intro s0) | split)

theorem echo_keep {s0 s : State} {p : Nat} {kind : Nat} {mac : List Byte} {ip : List Byte} {target : List Byte} {data : List Byte} (hk : Keep s0 s) :
    Keep s0 (echo p kind mac ip target data s) := by
  unfold echo
  repeat' (
    first
      | with_reducible assumption | with_reducible exact Keep.refl _ | with_reducible apply sendFrame_keep
      | with_reducible apply ite_keep | fail_if_no_progress with_reducible apply keep_upd
      | (intro x; refine Keep.cut (s0 := s0) (x := x) ?_ ?_; (on_goal 1 => dsimp -zeta only [x]); (on_goal 2 => (intro _; clear_value x)))
      | (intro x; clear_value x) | lift_lets -underBinder | (intro s0) | split)

end Sys2Proof.Machine
end

