-- ==== Sys2Proof/Laws/KeepCommit.lean ====
section
/-! SUPPORT. Each operation of Commit keeps what no command undoes. -/

set_option linter.all false

namespace Sys2Proof.Machine

theorem holdItem_keep {s0 s : State} {x : Staged} (hk : Keep s0 s) :
    Keep s0 (holdItem x s) := by
  unfold holdItem
  repeat' (
    first
      | with_reducible assumption | with_reducible exact Keep.refl _ | with_reducible apply setQuire_keep
      | fail_if_no_progress with_reducible apply keep_upd
      | (intro x; refine Keep.cut (s0 := s0) (x := x) ?_ ?_; (on_goal 1 => dsimp -zeta only [x]); (on_goal 2 => (intro _; clear_value x)))
      | (intro x; clear_value x) | lift_lets -underBinder | (intro s0) | split)

theorem acceptCommit_keep {s0 s : State} {c : PendCommit} {out : List Staged} (hk : Keep s0 s) :
    Keep s0 (acceptCommit c out s) := by
  unfold acceptCommit
  repeat' (
    first
      | with_reducible assumption | with_reducible exact Keep.refl _ | with_reducible apply forAll_keep
      | with_reducible apply toQuire_keep | with_reducible apply onSession_keep | with_reducible apply queued_keep
      | with_reducible apply holdItem_keep | fail_if_no_progress with_reducible apply keep_upd
      | (intro x; refine Keep.cut (s0 := s0) (x := x) ?_ ?_; (on_goal 1 => dsimp -zeta only [x]); (on_goal 2 => (intro _; clear_value x)))
      | (intro x; clear_value x) | lift_lets -underBinder | (intro s0))

theorem commitServe_keep {s0 s : State} {p : Packet} (hk : Keep s0 s) :
    Keep s0 (commitServe  p s) := by
  unfold commitServe
  repeat' (
    first
      | with_reducible assumption | with_reducible exact Keep.refl _ | with_reducible apply refuse_keep
      | with_reducible apply serveAt_keep | with_reducible apply applyWords_keep
      | with_reducible apply afterCommits_keep | with_reducible apply acceptCommit_keep
      | with_reducible apply ite_keep | fail_if_no_progress with_reducible apply keep_upd
      | (intro x; refine Keep.cut (s0 := s0) (x := x) ?_ ?_; (on_goal 1 => dsimp -zeta only [x]); (on_goal 2 => (intro _; clear_value x)))
      | (intro x; clear_value x) | lift_lets -underBinder | (intro s0) | split)

theorem blockWritten_keep {s0 s : State} {o : State} {b : Nat} {inst : Nat} {wo : Nat → Nat} (hk : Keep s0 s) :
    Keep s0 (blockWritten o b inst wo s) := by
  unfold blockWritten
  repeat' (
    first
      | with_reducible assumption | with_reducible exact Keep.refl _ | with_reducible apply timeCtrlWritten_keep
      | with_reducible apply ptpDecideBoth_keep | with_reducible apply ptpRestart_keep
      | with_reducible apply toneWritten_keep | with_reducible apply laneCfgWritten_keep
      | with_reducible apply ite_keep | fail_if_no_progress with_reducible apply keep_upd
      | (intro x; refine Keep.cut (s0 := s0) (x := x) ?_ ?_; (on_goal 1 => dsimp -zeta only [x]); (on_goal 2 => (intro _; clear_value x)))
      | (intro x; clear_value x) | lift_lets -underBinder | (intro s0) | split)

theorem changeResponse_keep {s0 s : State} {r : Req} {m : Int} {n : Nat} {to_ : Nat} (hk : Keep s0 s) :
    Keep s0 (changeResponse r m n to_ s).1 := by
  unfold changeResponse
  repeat' (
    first
      | with_reducible assumption | with_reducible exact Keep.refl _ | with_reducible apply setStream_keep
      | with_reducible apply heldFinal_keep | with_reducible apply beginFade_keep | with_reducible apply ite_keep
      | fail_if_no_progress with_reducible apply keep_upd
      | (intro x; refine Keep.cut (s0 := s0) (x := x) ?_ ?_; (on_goal 1 => dsimp -zeta only [x]); (on_goal 2 => (intro _; clear_value x)))
      | (intro x; clear_value x) | lift_lets -underBinder | dsimp -zeta only | (intro s0) | split)

theorem rangeRefused_keep {s0 s : State} {o : State} {m : Int} {c : Nat} {reason : Nat} (hk : Keep s0 s) :
    Keep s0 (rangeRefused o m c reason s) := by
  unfold rangeRefused
  repeat' (
    first
      | with_reducible assumption | with_reducible exact Keep.refl _ | with_reducible apply raise_keep
      | with_reducible apply addMark_keep | fail_if_no_progress with_reducible apply keep_upd
      | (intro x; refine Keep.cut (s0 := s0) (x := x) ?_ ?_; (on_goal 1 => dsimp -zeta only [x]); (on_goal 2 => (intro _; clear_value x)))
      | (intro x; clear_value x) | lift_lets -underBinder | (intro s0))

theorem rangeGranted_keep {s0 s t : State} {m : Int} {c : Nat} (h : Keep s0 s) (e : rangeGranted m c s = some t) :
    Keep s0 t := by
  unfold rangeGranted at e
  rw [Option.map_eq_some_iff] at e
  obtain ⟨u, hu, rfl⟩ := e
  exact addMark_keep (takePos_keep h hu)

theorem rangeRequeue_keep {s0 s : State} {c : Nat} (hk : Keep s0 s) :
    Keep s0 (rangeRequeue c s) := by
  unfold rangeRequeue
  repeat' (
    first
      | with_reducible assumption | with_reducible exact Keep.refl _ | with_reducible apply setChan_keep
      | with_reducible apply calOutcome_keep | with_reducible apply queueCal_keep | with_reducible apply ite_keep
      | fail_if_no_progress with_reducible apply keep_upd
      | (intro x; refine Keep.cut (s0 := s0) (x := x) ?_ ?_; (on_goal 1 => dsimp -zeta only [x]); (on_goal 2 => (intro _; clear_value x)))
      | (intro x; clear_value x) | lift_lets -underBinder | (intro s0) | split)

theorem rangeInStandin_keep {s0 s : State} {m : Int} {c : Nat} {v : StandIn} (hk : Keep s0 s) :
    Keep s0 (rangeInStandin m c v s) := by
  unfold rangeInStandin
  repeat' (
    first
      | with_reducible assumption | with_reducible exact Keep.refl _ | with_reducible apply addMark_keep
      | with_reducible apply cutMarks_keep | with_reducible apply onStandin_keep | with_reducible apply ite_keep
      | fail_if_no_progress with_reducible apply keep_upd
      | (intro x; refine Keep.cut (s0 := s0) (x := x) ?_ ?_; (on_goal 1 => dsimp -zeta only [x]); (on_goal 2 => (intro _; clear_value x)))
      | (intro x; clear_value x) | lift_lets -underBinder | (intro s0) | split)

theorem rangeDistant_keep {s0 s : State} {c : Nat} (hk : Keep s0 s) :
    Keep s0 (rangeDistant c s) := by
  unfold rangeDistant
  repeat' (
    first
      | with_reducible assumption | with_reducible exact Keep.refl _ | with_reducible apply queueCal_keep
      | with_reducible apply ite_keep | (intro s0) | split)

theorem rangeCover_keep {s0 s : State} {o : State} {m : Int} {c : Nat} (hk : Keep s0 s) :
    Keep s0 (rangeCover o m c s) := by
  unfold rangeCover
  repeat' (
    first
      | with_reducible assumption | with_reducible exact Keep.refl _ | with_reducible apply setChan_keep
      | with_reducible apply preemptCal_keep | with_reducible apply rangeRefused_keep
      | with_reducible apply rangeRequeue_keep | with_reducible apply rangeInStandin_keep
      | with_reducible apply ite_keep | fail_if_no_progress with_reducible apply keep_upd
      | (intro x; refine Keep.cut (s0 := s0) (x := x) ?_ ?_; (on_goal 1 => dsimp -zeta only [x]); (on_goal 2 => (intro _; clear_value x)))
      | (intro x; clear_value x) | lift_lets -underBinder | with_reducible refine rangeGranted_keep ?_ ‹_›
      | (intro s0) | split)

theorem rangeChange_keep {s0 s : State} {o : State} {m : Int} {c : Nat} (hk : Keep s0 s) :
    Keep s0 (rangeChange o m c s) := by
  unfold rangeChange
  repeat' (
    first
      | with_reducible assumption | with_reducible exact Keep.refl _ | with_reducible apply rangeDistant_keep
      | with_reducible apply rangeCover_keep | (intro s0))

theorem senseLowMark_keep {s0 s : State} {o : State} {m : Int} {c : Nat} (hk : Keep s0 s) :
    Keep s0 (senseLowMark o m c s) := by
  unfold senseLowMark
  repeat' (
    first
      | with_reducible assumption | with_reducible exact Keep.refl _ | with_reducible apply addMark_keep
      | with_reducible apply endMarks_keep | with_reducible apply ite_keep | (intro s0) | split)

theorem modeChange_keep {s0 s : State} {o : State} {m : Int} {c : Nat} (hk : Keep s0 s) :
    Keep s0 (modeChange o m c s) := by
  unfold modeChange
  repeat' (
    first
      | with_reducible assumption | with_reducible exact Keep.refl _ | with_reducible apply setChan_keep
      | with_reducible apply addMark_keep | with_reducible apply rangeRequeue_keep
      | with_reducible apply senseLowMark_keep | fail_if_no_progress with_reducible apply keep_upd
      | (intro x; refine Keep.cut (s0 := s0) (x := x) ?_ ?_; (on_goal 1 => dsimp -zeta only [x]); (on_goal 2 => (intro _; clear_value x)))
      | (intro x; clear_value x) | lift_lets -underBinder | (intro s0))

theorem frontChange_keep {s0 s : State} {o : State} {m : Int} {c : Nat} (hk : Keep s0 s) :
    Keep s0 (frontChange o m c s) := by
  unfold frontChange
  repeat' (
    first
      | with_reducible assumption | with_reducible exact Keep.refl _ | with_reducible apply rangeChange_keep
      | with_reducible apply modeChange_keep | with_reducible apply ite_keep | (intro s0) | split)

theorem dueAtEdge_keep {s0 s : State} {m : Int} (hk : Keep s0 s) :
    Keep s0 (dueAtEdge m s) := by
  unfold dueAtEdge
  repeat' (
    first
      | with_reducible assumption | with_reducible exact Keep.refl _ | with_reducible apply forAll_keep
      | with_reducible apply fadeEnd_keep | with_reducible apply streamRunning_keep | with_reducible apply ite_keep
      | fail_if_no_progress with_reducible apply keep_upd
      | (intro x; refine Keep.cut (s0 := s0) (x := x) ?_ ?_; (on_goal 1 => dsimp -zeta only [x]); (on_goal 2 => (intro _; clear_value x)))
      | (intro x; clear_value x) | lift_lets -underBinder | (intro s0) | split)

theorem reconfigMembers_keep {s0 s : State} {o : State} (hk : Keep s0 s) :
    Keep s0 (reconfigMembers o s) := by
  unfold reconfigMembers
  repeat' (
    first
      | with_reducible assumption | with_reducible exact Keep.refl _ | with_reducible apply forAll_keep
      | with_reducible apply setMember_keep | with_reducible apply groupStep_keep
      | fail_if_no_progress with_reducible apply keep_upd
      | (intro x; refine Keep.cut (s0 := s0) (x := x) ?_ ?_; (on_goal 1 => dsimp -zeta only [x]); (on_goal 2 => (intro _; clear_value x)))
      | (intro x; clear_value x) | lift_lets -underBinder | (intro s0))

theorem bindStream_keep {s0 s : State} {r : Req} {n : Nat} (hk : Keep s0 s) :
    Keep s0 (bindStream r n s) := by
  unfold bindStream
  repeat' (
    first
      | with_reducible assumption | with_reducible exact Keep.refl _ | with_reducible apply setStream_keep
      | with_reducible apply goBack_keep | with_reducible apply ite_keep
      | fail_if_no_progress with_reducible apply keep_upd
      | (intro x; refine Keep.cut (s0 := s0) (x := x) ?_ ?_; (on_goal 1 => dsimp -zeta only [x]); (on_goal 2 => (intro _; clear_value x)))
      | (intro x; clear_value x) | lift_lets -underBinder | (intro s0) | split)

theorem changeResponses_keep {s0 s : State} {r : Req} {m : Int} {l : List (Nat × Nat)} (h : Keep s0 s) :
    Keep s0 (changeResponses r m l s).1 := by
  unfold changeResponses
  refine foldl_pair_keep _ (fun a n => ?_) h
  exact changeResponse_keep (Keep.refl a.1)

theorem commitNow_keep {s0 s : State} {c : PendCommit} (hk : Keep s0 s) :
    Keep s0 (commitNow c s) := by
  unfold commitNow
  repeat' (
    first
      | with_reducible assumption | with_reducible exact Keep.refl _ | with_reducible apply forAll_keep
      | with_reducible apply foldl_keep | with_reducible apply jCommand_keep | with_reducible apply replyTo_keep
      | with_reducible apply answerOr_keep | with_reducible apply dueDisc_keep
      | with_reducible apply excChanges_keep | with_reducible apply publish_keep
      | with_reducible apply pushPast_keep | with_reducible apply applyWords_keep
      | with_reducible apply configCheck_keep | with_reducible apply holdItem_keep
      | with_reducible apply blockWritten_keep | with_reducible apply frontChange_keep
      | with_reducible apply dueAtEdge_keep | with_reducible apply reconfigMembers_keep
      | with_reducible apply bindStream_keep | with_reducible apply changeResponses_keep
      | with_reducible apply ite_keep | fail_if_no_progress with_reducible apply keep_upd
      | (intro x; refine Keep.cut (s0 := s0) (x := x) ?_ ?_; (on_goal 1 => dsimp -zeta only [x]); (on_goal 2 => (intro _; clear_value x)))
      | (intro x; refine Keep.cut (s0 := s0) (x := x.1) ?_ ?_; (on_goal 1 => dsimp -zeta only [x]); (on_goal 2 => (intro _; clear_value x)))
      | (intro x; clear_value x) | lift_lets -underBinder | (intro s0) | split)

theorem commitEdge_keep {s0 s : State} {edge : Nat} (hk : Keep s0 s) :
    Keep s0 (commitEdge edge s) := by
  unfold commitEdge
  repeat' (
    first
      | with_reducible assumption | with_reducible exact Keep.refl _ | with_reducible apply foldl_keep
      | with_reducible apply commitLate_keep | with_reducible apply commitNow_keep | with_reducible apply ite_keep
      | (intro s0) | split)

end Sys2Proof.Machine
end

