-- ==== Sys2Proof/Laws/KeepBlocks.lean ====
section
/-! SUPPORT. Each operation of Blocks keeps what no command undoes. -/

set_option linter.all false

namespace Sys2Proof.Machine

theorem writeWords_keep {s0 s : State} {r : Req} (hk : Keep s0 s) :
    Keep s0 (writeWords r s) := by
  unfold writeWords
  repeat' (
    first
      | with_reducible assumption | with_reducible exact Keep.refl _ | with_reducible apply putWord_keep
      | with_reducible apply foldl_keep | with_reducible apply putPolicy_keep | with_reducible apply ite_keep
      | fail_if_no_progress with_reducible apply keep_upd | fail_if_no_progress with_reducible apply keep_safe
      | (intro x; refine Keep.cut (s0 := s0) (x := x) ?_ ?_; (on_goal 1 => dsimp -zeta only [x]); (on_goal 2 => (intro _; clear_value x)))
      | (intro x; refine (fun (_ : Safety) => ?_) x; subst x) | (intro x; clear_value x) | lift_lets -underBinder
      | (intro s0) | split)

theorem writeRun_keep {s0 s : State} {r : Req} (hk : Keep s0 s) :
    Keep s0 (writeRun r s) := by
  unfold writeRun
  repeat' (
    first
      | with_reducible assumption | with_reducible exact Keep.refl _ | with_reducible apply jCommand_keep
      | with_reducible apply answer_keep | with_reducible apply refuse_keep | with_reducible apply faulted_keep
      | with_reducible apply blockWritten_keep | with_reducible apply writeWords_keep
      | with_reducible apply ite_keep
      | (intro x; refine Keep.cut (s0 := s0) (x := x) ?_ ?_; (on_goal 1 => dsimp -zeta only [x]); (on_goal 2 => (intro _; clear_value x)))
      | (intro x; clear_value x) | lift_lets -underBinder | (intro s0) | split)

theorem closeService_keep {s0 s : State} (hk : Keep s0 s) :
    Keep s0 (closeService s) := by
  unfold closeService
  repeat' (
    first
      | with_reducible assumption | with_reducible exact Keep.refl _ | with_reducible apply forAll_keep
      | with_reducible apply closeSession_keep | (intro s0))

theorem authRun_keep {s0 s : State} {r : Req} (hk : Keep s0 s) :
    Keep s0 (authRun r s) := by
  unfold authRun
  repeat' (
    first
      | with_reducible assumption | with_reducible exact Keep.refl _ | with_reducible apply jCommand_keep
      | with_reducible apply answer_keep | with_reducible apply refuse_keep | with_reducible apply faulted_keep
      | with_reducible apply closeService_keep | with_reducible apply ite_keep
      | fail_if_no_progress with_reducible apply keep_upd
      | (intro x; refine Keep.cut (s0 := s0) (x := x) ?_ ?_; (on_goal 1 => dsimp -zeta only [x]); (on_goal 2 => (intro _; clear_value x)))
      | (intro x; clear_value x) | lift_lets -underBinder | (intro s0) | split)

theorem authExpiry_keep {s0 s : State} (hk : Keep s0 s) :
    Keep s0 (authExpiry s) := by
  unfold authExpiry
  repeat' (
    first
      | with_reducible assumption | with_reducible exact Keep.refl _ | with_reducible apply closeService_keep
      | with_reducible apply ite_keep | fail_if_no_progress with_reducible apply keep_upd
      | (intro x; refine Keep.cut (s0 := s0) (x := x) ?_ ?_; (on_goal 1 => dsimp -zeta only [x]); (on_goal 2 => (intro _; clear_value x)))
      | (intro x; clear_value x) | lift_lets -underBinder | (intro s0) | split)

theorem writeServe_keep {s0 s : State} {p : Packet} (hk : Keep s0 s) :
    Keep s0 (writeServe  p s) := by
  unfold writeServe
  repeat' (
    first
      | with_reducible assumption | with_reducible exact Keep.refl _ | with_reducible apply refuse_keep
      | with_reducible apply serve_keep | with_reducible apply writeRun_keep | with_reducible apply authRun_keep
      | with_reducible apply ite_keep | (intro s0) | split)

theorem readServe_keep {s0 s : State} {p : Packet} (hk : Keep s0 s) :
    Keep s0 (readServe  p s) := by
  unfold readServe
  repeat' (
    first
      | with_reducible assumption | with_reducible exact Keep.refl _ | with_reducible apply answer_keep
      | with_reducible apply refuse_keep | with_reducible apply serve_keep | with_reducible apply ite_keep
      | fail_if_no_progress with_reducible apply keep_upd
      | (intro x; refine Keep.cut (s0 := s0) (x := x) ?_ ?_; (on_goal 1 => dsimp -zeta only [x]); (on_goal 2 => (intro _; clear_value x)))
      | (intro x; clear_value x) | lift_lets -underBinder | (intro s0) | split)

theorem stageServe_keep {s0 s : State} {p : Packet} (hk : Keep s0 s) :
    Keep s0 (stageServe  p s) := by
  unfold stageServe
  repeat' (
    first
      | with_reducible assumption | with_reducible exact Keep.refl _ | with_reducible apply onSession_keep
      | with_reducible apply answer_keep | with_reducible apply refuse_keep | with_reducible apply serve_keep
      | with_reducible apply ite_keep | fail_if_no_progress with_reducible apply keep_upd
      | (intro x; refine Keep.cut (s0 := s0) (x := x) ?_ ?_; (on_goal 1 => dsimp -zeta only [x]); (on_goal 2 => (intro _; clear_value x)))
      | (intro x; clear_value x) | lift_lets -underBinder | (intro s0) | split)

end Sys2Proof.Machine
end

