-- ==== Sys2Proof/Laws/KeepSessions.lean ====
section
/-! SUPPORT. Each operation of Sessions keeps what no command undoes. -/

set_option linter.all false

namespace Sys2Proof.Machine

theorem sendOpen_keep {s0 s : State} {p : Packet} {v : Nat × Nat} {status : Nat} {body : List Byte} (hk : Keep s0 s) :
    Keep s0 (sendOpen p v status body s) := by
  unfold sendOpen
  repeat' (
    first
      | with_reducible assumption | with_reducible exact Keep.refl _ | with_reducible apply foldl_keep
      | with_reducible apply sendBytes_keep | (intro s0))

theorem openSession_keep {s0 s : State} {p : Packet} {v : Nat × Nat} {a : OpenAsk} {g : Nat × List Byte} (hk : Keep s0 s) :
    Keep s0 (openSession p v a g s) := by
  unfold openSession
  repeat' (
    first
      | with_reducible assumption | with_reducible exact Keep.refl _ | with_reducible apply jDone_keep
      | with_reducible apply keepalive_keep | with_reducible apply sendOpen_keep | with_reducible apply ite_keep
      | fail_if_no_progress with_reducible apply keep_upd
      | (intro x; refine Keep.cut (s0 := s0) (x := x) ?_ ?_; (on_goal 1 => dsimp -zeta only [x]); (on_goal 2 => (intro _; clear_value x)))
      | (intro x; clear_value x) | lift_lets -underBinder | (intro s0) | split)

theorem openNew_keep {s0 s : State} {p : Packet} (hk : Keep s0 s) :
    Keep s0 (openNew p s) := by
  unfold openNew
  repeat' (
    first
      | with_reducible assumption | with_reducible exact Keep.refl _ | with_reducible apply sendOpen_keep
      | with_reducible apply openSession_keep | with_reducible apply ite_keep
      | fail_if_no_progress with_reducible apply keep_upd
      | (intro x; refine Keep.cut (s0 := s0) (x := x) ?_ ?_; (on_goal 1 => dsimp -zeta only [x]); (on_goal 2 => (intro _; clear_value x)))
      | (intro x; clear_value x) | lift_lets -underBinder | (intro s0) | split)

theorem openServe_keep {s0 s : State} {p : Packet} (hk : Keep s0 s) :
    Keep s0 (openServe p s) := by
  unfold openServe
  repeat' (
    first
      | with_reducible assumption | with_reducible exact Keep.refl _ | with_reducible apply dropPacket_keep
      | with_reducible apply answerBare_keep | with_reducible apply serve_keep | with_reducible apply openNew_keep
      | with_reducible apply ite_keep | (intro s0) | split)

theorem closeServe_keep {s0 s : State} {p : Packet} (hk : Keep s0 s) :
    Keep s0 (closeServe  p s) := by
  unfold closeServe
  repeat' (
    first
      | with_reducible assumption | with_reducible exact Keep.refl _ | with_reducible apply jDone_keep
      | with_reducible apply answer_keep | with_reducible apply serve_keep | with_reducible apply endSession_keep
      | with_reducible apply dropReplies_keep | (intro s0))

theorem pingServe_keep {s0 s : State} {p : Packet} (hk : Keep s0 s) :
    Keep s0 (pingServe  p s) := by
  unfold pingServe
  repeat' (
    first
      | with_reducible assumption | with_reducible exact Keep.refl _ | with_reducible apply answer_keep
      | with_reducible apply serve_keep | (intro s0))

theorem resendRun_keep {s0 s : State} {r : Req} (hk : Keep s0 s) :
    Keep s0 (resendRun r s) := by
  unfold resendRun
  repeat' (
    first
      | with_reducible assumption | with_reducible exact Keep.refl _ | with_reducible apply foldl_keep
      | with_reducible apply onSession_keep | with_reducible apply sendBytes_keep | with_reducible apply refuse_keep
      | with_reducible apply ite_keep | fail_if_no_progress with_reducible apply keep_upd
      | (intro x; refine Keep.cut (s0 := s0) (x := x) ?_ ?_; (on_goal 1 => dsimp -zeta only [x]); (on_goal 2 => (intro _; clear_value x)))
      | (intro x; clear_value x) | lift_lets -underBinder | (intro s0) | split)

theorem resendServe_keep {s0 s : State} {p : Packet} (hk : Keep s0 s) :
    Keep s0 (resendServe  p s) := by
  unfold resendServe
  repeat' (
    first
      | with_reducible assumption | with_reducible exact Keep.refl _ | with_reducible apply serve_keep
      | with_reducible apply resendRun_keep | (intro s0))

theorem cancelRun_keep {s0 s : State} {r : Req} (hk : Keep s0 s) :
    Keep s0 (cancelRun r s) := by
  unfold cancelRun
  repeat' (
    first
      | with_reducible assumption | with_reducible exact Keep.refl _ | with_reducible apply forAll_keep
      | with_reducible apply toQuire_keep | with_reducible apply setWit_keep | with_reducible apply answer_keep
      | with_reducible apply refuse_keep | with_reducible apply returnItems_keep
      | fail_if_no_progress with_reducible apply keep_upd
      | (intro x; refine Keep.cut (s0 := s0) (x := x) ?_ ?_; (on_goal 1 => dsimp -zeta only [x]); (on_goal 2 => (intro _; clear_value x)))
      | (intro x; clear_value x) | lift_lets -underBinder | (intro s0) | split)

theorem schedCancelServe_keep {s0 s : State} {p : Packet} (hk : Keep s0 s) :
    Keep s0 (schedCancelServe  p s) := by
  unfold schedCancelServe
  repeat' (
    first
      | with_reducible assumption | with_reducible exact Keep.refl _ | with_reducible apply serve_keep
      | with_reducible apply cancelRun_keep | (intro s0))

theorem runSched_keep {s0 s : State} {x : Sched} (hk : Keep s0 s) :
    Keep s0 (runSched x s) := by
  unfold runSched
  repeat' (
    first
      | with_reducible assumption | with_reducible exact Keep.refl _ | with_reducible apply iuArmRun_keep
      | with_reducible apply injectRun_keep | with_reducible apply groupArmRun_keep | with_reducible apply ite_keep
      | (intro s0) | split)

theorem dueSched_keep {s0 s : State} (fuel : Nat) (h : Keep s0 s) : Keep s0 (dueSched fuel s) := by
  induction fuel generalizing s with
  | zero => exact h
  | succ k ih =>
    unfold dueSched
    split
    · exact h
    · exact ite_keep (ih (runSched_keep (h.trans (keep_upd _ _ _ _ _ _ _ _ _ _ _ _ _ _ _ _ _ _ _ _ _ _ _ _ (Keep.refl s))))) h

theorem keepaliveExpiry_keep {s0 s : State} {id : Nat} (hk : Keep s0 s) :
    Keep s0 (keepaliveExpiry id s) := by
  unfold keepaliveExpiry
  repeat' (
    first
      | with_reducible assumption | with_reducible exact Keep.refl _ | with_reducible apply closeSession_keep
      | with_reducible apply ite_keep | fail_if_no_progress with_reducible apply keep_upd
      | (intro x; refine Keep.cut (s0 := s0) (x := x) ?_ ?_; (on_goal 1 => dsimp -zeta only [x]); (on_goal 2 => (intro _; clear_value x)))
      | (intro x; clear_value x) | lift_lets -underBinder | (intro s0) | split)

theorem pendingDiscard_keep {s0 s : State} {id : Nat} (hk : Keep s0 s) :
    Keep s0 (pendingDiscard id s) := by
  unfold pendingDiscard
  repeat' (
    first
      | with_reducible assumption | with_reducible exact Keep.refl _ | with_reducible apply closeSession_keep
      | with_reducible apply ite_keep | fail_if_no_progress with_reducible apply keep_upd
      | (intro x; refine Keep.cut (s0 := s0) (x := x) ?_ ?_; (on_goal 1 => dsimp -zeta only [x]); (on_goal 2 => (intro _; clear_value x)))
      | (intro x; clear_value x) | lift_lets -underBinder | (intro s0) | split)

theorem unknownServe_keep {s0 s : State} {op : Nat} {p : Packet} (hk : Keep s0 s) :
    Keep s0 (unknownServe op p s) := by
  unfold unknownServe
  repeat' (
    first
      | with_reducible assumption | with_reducible exact Keep.refl _ | with_reducible apply serve_keep | (intro s0))

end Sys2Proof.Machine
end

