-- ==== Sys2Proof/Laws/KeepAccess.lean ====
section
/-! SUPPORT. Each operation of Access keeps what no command undoes. -/

set_option linter.all false

namespace Sys2Proof.Machine

theorem acqStatusServe_keep {s0 s : State} {p : Packet} (hk : Keep s0 s) :
    Keep s0 (acqStatusServe  p s) := by
  unfold acqStatusServe
  repeat' (
    first
      | with_reducible assumption | with_reducible exact Keep.refl _ | with_reducible apply answer_keep
      | with_reducible apply serve_keep | (intro s0))

theorem acqReadRun_keep {s0 s : State} {r : Req} (hk : Keep s0 s) :
    Keep s0 (acqReadRun r s) := by
  unfold acqReadRun
  repeat' (
    first
      | with_reducible assumption | with_reducible exact Keep.refl _ | with_reducible apply answer_keep
      | with_reducible apply refuse_keep | with_reducible apply ite_keep
      | fail_if_no_progress with_reducible apply keep_upd
      | (intro x; refine Keep.cut (s0 := s0) (x := x) ?_ ?_; (on_goal 1 => dsimp -zeta only [x]); (on_goal 2 => (intro _; clear_value x)))
      | (intro x; clear_value x) | lift_lets -underBinder | (intro s0) | split)

theorem acqReadServe_keep {s0 s : State} {p : Packet} (hk : Keep s0 s) :
    Keep s0 (acqReadServe  p s) := by
  unfold acqReadServe
  repeat' (
    first
      | with_reducible assumption | with_reducible exact Keep.refl _ | with_reducible apply serve_keep
      | with_reducible apply acqReadRun_keep | (intro s0))

theorem addCred_keep {s0 s : State} {c : Credential} (hk : Keep s0 s) :
    Keep s0 (addCred c s) := by
  unfold addCred
  repeat' (
    first
      | with_reducible assumption | with_reducible exact Keep.refl _ | with_reducible apply programKeys_keep
      | with_reducible apply ite_keep | fail_if_no_progress with_reducible apply keep_upd
      | (intro x; refine Keep.cut (s0 := s0) (x := x) ?_ ?_; (on_goal 1 => dsimp -zeta only [x]); (on_goal 2 => (intro _; clear_value x)))
      | (intro x; clear_value x) | lift_lets -underBinder | (intro s0) | split)

theorem rebuilt_keep {s0 s : State} {was : Nat} {id : Nat} (hk : Keep s0 s) :
    Keep s0 (rebuilt was id s) := by
  unfold rebuilt
  repeat' (
    first
      | with_reducible assumption | with_reducible exact Keep.refl _ | with_reducible apply clearCause_keep
      | with_reducible apply jInternal_keep | with_reducible apply ite_keep | (intro s0) | split)

theorem credAddRun_keep {s0 s : State} {r : Req} (hk : Keep s0 s) :
    Keep s0 (credAddRun r s) := by
  unfold credAddRun
  repeat' (
    first
      | with_reducible assumption | with_reducible exact Keep.refl _ | with_reducible apply jCommand_keep
      | with_reducible apply answer_keep | with_reducible apply refuse_keep | with_reducible apply addCred_keep
      | with_reducible apply rebuilt_keep | with_reducible apply ite_keep
      | fail_if_no_progress with_reducible apply keep_upd
      | (intro x; refine Keep.cut (s0 := s0) (x := x) ?_ ?_; (on_goal 1 => dsimp -zeta only [x]); (on_goal 2 => (intro _; clear_value x)))
      | (intro x; clear_value x) | lift_lets -underBinder | (intro s0) | split)

theorem credAddServe_keep {s0 s : State} {p : Packet} (hk : Keep s0 s) :
    Keep s0 (credAddServe  p s) := by
  unfold credAddServe
  repeat' (
    first
      | with_reducible assumption | with_reducible exact Keep.refl _ | with_reducible apply serve_keep
      | with_reducible apply credAddRun_keep | (intro s0))

theorem credRevokeRun_keep {s0 s : State} {r : Req} (hk : Keep s0 s) :
    Keep s0 (credRevokeRun r s) := by
  unfold credRevokeRun
  repeat' (
    first
      | with_reducible assumption | with_reducible exact Keep.refl _ | with_reducible apply forAll_keep
      | with_reducible apply jCommand_keep | with_reducible apply programKeys_keep
      | with_reducible apply answer_keep | with_reducible apply refuse_keep | with_reducible apply endSession_keep
      | with_reducible apply dropReplies_keep | with_reducible apply ite_keep
      | fail_if_no_progress with_reducible apply keep_upd
      | (intro x; refine Keep.cut (s0 := s0) (x := x) ?_ ?_; (on_goal 1 => dsimp -zeta only [x]); (on_goal 2 => (intro _; clear_value x)))
      | (intro x; clear_value x) | lift_lets -underBinder | (intro s0) | split)

theorem credRevokeServe_keep {s0 s : State} {p : Packet} (hk : Keep s0 s) :
    Keep s0 (credRevokeServe  p s) := by
  unfold credRevokeServe
  repeat' (
    first
      | with_reducible assumption | with_reducible exact Keep.refl _ | with_reducible apply serve_keep
      | with_reducible apply credRevokeRun_keep | (intro s0))

theorem credListServe_keep {s0 s : State} {p : Packet} (hk : Keep s0 s) :
    Keep s0 (credListServe  p s) := by
  unfold credListServe
  repeat' (
    first
      | with_reducible assumption | with_reducible exact Keep.refl _ | with_reducible apply answer_keep
      | with_reducible apply serve_keep | (intro s0))

theorem groupKeyRun_keep {s0 s : State} {r : Req} (hk : Keep s0 s) :
    Keep s0 (groupKeyRun r s) := by
  unfold groupKeyRun
  repeat' (
    first
      | with_reducible assumption | with_reducible exact Keep.refl _ | with_reducible apply jCommand_keep
      | with_reducible apply programKeys_keep | with_reducible apply answer_keep | with_reducible apply refuse_keep
      | with_reducible apply ite_keep | fail_if_no_progress with_reducible apply keep_upd
      | (intro x; refine Keep.cut (s0 := s0) (x := x) ?_ ?_; (on_goal 1 => dsimp -zeta only [x]); (on_goal 2 => (intro _; clear_value x)))
      | (intro x; clear_value x) | lift_lets -underBinder | (intro s0) | split)

theorem groupKeyServe_keep {s0 s : State} {p : Packet} (hk : Keep s0 s) :
    Keep s0 (groupKeyServe  p s) := by
  unfold groupKeyServe
  repeat' (
    first
      | with_reducible assumption | with_reducible exact Keep.refl _ | with_reducible apply serve_keep
      | with_reducible apply groupKeyRun_keep | (intro s0))

theorem jReadServe_keep {s0 s : State} {p : Packet} (hk : Keep s0 s) :
    Keep s0 (jReadServe  p s) := by
  unfold jReadServe
  repeat' (
    first
      | with_reducible assumption | with_reducible exact Keep.refl _ | with_reducible apply answer_keep
      | with_reducible apply serve_keep | (intro s0))

theorem jMirrorRun_keep {s0 s : State} {r : Req} (hk : Keep s0 s) :
    Keep s0 (jMirrorRun r s) := by
  unfold jMirrorRun
  repeat' (
    first
      | with_reducible assumption | with_reducible exact Keep.refl _ | with_reducible apply jDone_keep
      | with_reducible apply answer_keep | with_reducible apply ite_keep
      | fail_if_no_progress with_reducible apply keep_upd
      | (intro x; refine Keep.cut (s0 := s0) (x := x) ?_ ?_; (on_goal 1 => dsimp -zeta only [x]); (on_goal 2 => (intro _; clear_value x)))
      | (intro x; clear_value x) | lift_lets -underBinder | (intro s0) | split)

theorem jMirrorServe_keep {s0 s : State} {p : Packet} (hk : Keep s0 s) :
    Keep s0 (jMirrorServe  p s) := by
  unfold jMirrorServe
  repeat' (
    first
      | with_reducible assumption | with_reducible exact Keep.refl _ | with_reducible apply serve_keep
      | with_reducible apply jMirrorRun_keep | (intro s0))

theorem jVerifyServe_keep {s0 s : State} {p : Packet} (hk : Keep s0 s) :
    Keep s0 (jVerifyServe  p s) := by
  unfold jVerifyServe
  repeat' (
    first
      | with_reducible assumption | with_reducible exact Keep.refl _ | with_reducible apply queued_keep
      | with_reducible apply refuse_keep | with_reducible apply serve_keep | with_reducible apply ite_keep
      | fail_if_no_progress with_reducible apply keep_upd
      | (intro x; refine Keep.cut (s0 := s0) (x := x) ?_ ?_; (on_goal 1 => dsimp -zeta only [x]); (on_goal 2 => (intro _; clear_value x)))
      | (intro x; clear_value x) | lift_lets -underBinder | (intro s0) | split)

theorem jVerifyDone_keep {s0 s : State} (hk : Keep s0 s) :
    Keep s0 (jVerifyDone s) := by
  unfold jVerifyDone
  repeat' (
    first
      | with_reducible assumption | with_reducible exact Keep.refl _ | with_reducible apply answer_keep
      | fail_if_no_progress with_reducible apply keep_upd
      | (intro x; refine Keep.cut (s0 := s0) (x := x) ?_ ?_; (on_goal 1 => dsimp -zeta only [x]); (on_goal 2 => (intro _; clear_value x)))
      | (intro x; clear_value x) | lift_lets -underBinder | (intro s0) | split)

theorem logReadServe_keep {s0 s : State} {p : Packet} (hk : Keep s0 s) :
    Keep s0 (logReadServe  p s) := by
  unfold logReadServe
  repeat' (
    first
      | with_reducible assumption | with_reducible exact Keep.refl _ | with_reducible apply answer_keep
      | with_reducible apply serve_keep | (intro s0))

theorem faultListServe_keep {s0 s : State} {p : Packet} (hk : Keep s0 s) :
    Keep s0 (faultListServe  p s) := by
  unfold faultListServe
  repeat' (
    first
      | with_reducible assumption | with_reducible exact Keep.refl _ | with_reducible apply answer_keep
      | with_reducible apply serve_keep | (intro s0))

theorem faultClearRun_keep {s0 s : State} {r : Req} (hk : Keep s0 s) :
    Keep s0 (faultClearRun r s) := by
  unfold faultClearRun
  repeat' (
    first
      | with_reducible assumption | with_reducible exact Keep.refl _ | with_reducible apply setFault_keep
      | with_reducible apply answer_keep | with_reducible apply refuse_keep | with_reducible apply ite_keep
      | fail_if_no_progress with_reducible apply keep_upd
      | (intro x; refine Keep.cut (s0 := s0) (x := x) ?_ ?_; (on_goal 1 => dsimp -zeta only [x]); (on_goal 2 => (intro _; clear_value x)))
      | (intro x; clear_value x) | lift_lets -underBinder | (intro s0) | split)

theorem faultClearServe_keep {s0 s : State} {p : Packet} (hk : Keep s0 s) :
    Keep s0 (faultClearServe  p s) := by
  unfold faultClearServe
  repeat' (
    first
      | with_reducible assumption | with_reducible exact Keep.refl _ | with_reducible apply serve_keep
      | with_reducible apply faultClearRun_keep | (intro s0))

theorem logClearServe_keep {s0 s : State} {p : Packet} (hk : Keep s0 s) :
    Keep s0 (logClearServe  p s) := by
  unfold logClearServe
  repeat' (
    first
      | with_reducible assumption | with_reducible exact Keep.refl _ | with_reducible apply jCommand_keep
      | with_reducible apply answer_keep | with_reducible apply serve_keep
      | fail_if_no_progress with_reducible apply keep_upd
      | (intro x; refine Keep.cut (s0 := s0) (x := x) ?_ ?_; (on_goal 1 => dsimp -zeta only [x]); (on_goal 2 => (intro _; clear_value x)))
      | (intro x; clear_value x) | lift_lets -underBinder | (intro s0))

end Sys2Proof.Machine
end

