-- ==== Sys2Proof/Laws/KeepFirmware.lean ====
section
/-! SUPPORT. Each operation of Firmware keeps what no command undoes. -/

set_option linter.all false

namespace Sys2Proof.Machine

theorem fwBeginRun_keep {s0 s : State} {r : Req} (hk : Keep s0 s) :
    Keep s0 (fwBeginRun r s) := by
  unfold fwBeginRun
  repeat' (
    first
      | with_reducible assumption | with_reducible exact Keep.refl _ | with_reducible apply jCommand_keep
      | with_reducible apply queued_keep | with_reducible apply refuse_keep | with_reducible apply setImgState_keep
      | with_reducible apply ite_keep | fail_if_no_progress with_reducible apply keep_upd
      | (intro x; refine Keep.cut (s0 := s0) (x := x) ?_ ?_; (on_goal 1 => dsimp -zeta only [x]); (on_goal 2 => (intro _; clear_value x)))
      | (intro x; clear_value x) | lift_lets -underBinder | (intro s0) | split)

theorem fwBeginServe_keep {s0 s : State} {p : Packet} (hk : Keep s0 s) :
    Keep s0 (fwBeginServe  p s) := by
  unfold fwBeginServe
  repeat' (
    first
      | with_reducible assumption | with_reducible exact Keep.refl _ | with_reducible apply serve_keep
      | with_reducible apply fwBeginRun_keep | (intro s0))

theorem fwDataRun_keep {s0 s : State} {r : Req} (hk : Keep s0 s) :
    Keep s0 (fwDataRun r s) := by
  unfold fwDataRun
  repeat' (
    first
      | with_reducible assumption | with_reducible exact Keep.refl _ | with_reducible apply foldl_keep
      | with_reducible apply answer_keep | with_reducible apply refuse_keep | with_reducible apply ite_keep
      | fail_if_no_progress with_reducible apply keep_upd
      | (intro x; refine Keep.cut (s0 := s0) (x := x) ?_ ?_; (on_goal 1 => dsimp -zeta only [x]); (on_goal 2 => (intro _; clear_value x)))
      | (intro x; clear_value x) | lift_lets -underBinder | (intro s0) | split)

theorem fwDataServe_keep {s0 s : State} {p : Packet} (hk : Keep s0 s) :
    Keep s0 (fwDataServe  p s) := by
  unfold fwDataServe
  repeat' (
    first
      | with_reducible assumption | with_reducible exact Keep.refl _ | with_reducible apply serve_keep
      | with_reducible apply fwDataRun_keep | (intro s0))

theorem fwCommitEnd_keep {s0 s : State} {r : Req} {x : FwTransfer} (hk : Keep s0 s) :
    Keep s0 (fwCommitEnd r x s) := by
  unfold fwCommitEnd
  repeat' (
    first
      | with_reducible assumption | with_reducible exact Keep.refl _ | with_reducible apply setPartition_keep
      | with_reducible apply jCommand_keep | with_reducible apply answer_keep | with_reducible apply abandonFw_keep
      | with_reducible apply setImgState_keep | with_reducible apply ite_keep
      | fail_if_no_progress with_reducible apply keep_upd
      | (intro x; refine Keep.cut (s0 := s0) (x := x) ?_ ?_; (on_goal 1 => dsimp -zeta only [x]); (on_goal 2 => (intro _; clear_value x)))
      | (intro x; clear_value x) | lift_lets -underBinder | exact fun k => imgTry_wf (partition_wf _ k)
      | exact fun _ => programBytes_wf _ rfl | exact fun _ => rfl | (intro s0) | split)

theorem fwCommitRun_keep {s0 s : State} {r : Req} (hk : Keep s0 s) :
    Keep s0 (fwCommitRun r s) := by
  unfold fwCommitRun
  repeat' (
    first
      | with_reducible assumption | with_reducible exact Keep.refl _ | with_reducible apply queued_keep
      | with_reducible apply refuse_keep | with_reducible apply fwCommitEnd_keep | with_reducible apply ite_keep
      | fail_if_no_progress with_reducible apply keep_upd
      | (intro x; refine Keep.cut (s0 := s0) (x := x) ?_ ?_; (on_goal 1 => dsimp -zeta only [x]); (on_goal 2 => (intro _; clear_value x)))
      | (intro x; clear_value x) | lift_lets -underBinder | (intro s0) | split)

theorem fwCommitServe_keep {s0 s : State} {p : Packet} (hk : Keep s0 s) :
    Keep s0 (fwCommitServe  p s) := by
  unfold fwCommitServe
  repeat' (
    first
      | with_reducible assumption | with_reducible exact Keep.refl _ | with_reducible apply serve_keep
      | with_reducible apply fwCommitRun_keep | (intro s0))

theorem fwErased_keep {s0 s : State} (hk : Keep s0 s) :
    Keep s0 (fwErased s) := by
  unfold fwErased
  repeat' (
    first
      | with_reducible assumption | with_reducible exact Keep.refl _ | with_reducible apply setPartition_keep
      | with_reducible apply answer_keep | with_reducible apply abandonFw_keep
      | with_reducible apply fwCommitEnd_keep | with_reducible apply ite_keep
      | fail_if_no_progress with_reducible apply keep_upd | fail_if_no_progress with_reducible apply keep_flash
      | (intro x; refine Keep.cut (s0 := s0) (x := x) ?_ ?_; (on_goal 1 => dsimp -zeta only [x]); (on_goal 2 => (intro _; clear_value x)))
      | (intro x; refine (fun (_ : Flash) => ?_) x; subst x) | (intro x; clear_value x) | lift_lets -underBinder
      | exact fun k => imgTry_wf (partition_wf _ k) | exact fun _ => programBytes_wf _ rfl | exact fun _ => rfl
      | (intro s0) | split)

theorem endReq_keep {s0 s : State} {r : Option Req} (hk : Keep s0 s) :
    Keep s0 (endReq r s) := by
  unfold endReq
  repeat' (
    first
      | with_reducible assumption | with_reducible exact Keep.refl _ | with_reducible apply refuseOr_keep
      | fail_if_no_progress with_reducible apply keep_upd
      | (intro x; refine Keep.cut (s0 := s0) (x := x) ?_ ?_; (on_goal 1 => dsimp -zeta only [x]); (on_goal 2 => (intro _; clear_value x)))
      | (intro x; clear_value x) | lift_lets -underBinder | (intro s0) | split)

theorem endFw_keep {s0 s : State} {x : FwTransfer} (hk : Keep s0 s) :
    Keep s0 (endFw x s) := by
  unfold endFw
  repeat' (
    first
      | with_reducible assumption | with_reducible exact Keep.refl _ | with_reducible apply abandonFw_keep
      | with_reducible apply endReq_keep | with_reducible apply ite_keep | (intro s0) | split)

theorem fwIdle_keep {s0 s : State} (hk : Keep s0 s) :
    Keep s0 (fwIdle s) := by
  unfold fwIdle
  repeat' (
    first
      | with_reducible assumption | with_reducible exact Keep.refl _ | with_reducible apply endFw_keep
      | with_reducible apply ite_keep | fail_if_no_progress with_reducible apply keep_upd
      | (intro x; refine Keep.cut (s0 := s0) (x := x) ?_ ?_; (on_goal 1 => dsimp -zeta only [x]); (on_goal 2 => (intro _; clear_value x)))
      | (intro x; clear_value x) | lift_lets -underBinder | (intro s0) | split)

theorem endCals_keep {s0 s : State} (hk : Keep s0 s) :
    Keep s0 (endCals s) := by
  unfold endCals
  repeat' (
    first
      | with_reducible assumption | with_reducible exact Keep.refl _ | with_reducible apply forAll_keep
      | with_reducible apply calOutcome_keep | with_reducible apply abandonCal_keep
      | fail_if_no_progress with_reducible apply keep_upd
      | (intro x; refine Keep.cut (s0 := s0) (x := x) ?_ ?_; (on_goal 1 => dsimp -zeta only [x]); (on_goal 2 => (intro _; clear_value x)))
      | (intro x; clear_value x) | lift_lets -underBinder | (intro s0) | split)

theorem endComps_keep {s0 s : State} (hk : Keep s0 s) :
    Keep s0 (endComps s) := by
  unfold endComps
  repeat' (
    first
      | with_reducible assumption | with_reducible exact Keep.refl _ | with_reducible apply foldl_keep
      | with_reducible apply refuseOr_keep | fail_if_no_progress with_reducible apply keep_upd
      | (intro x; refine Keep.cut (s0 := s0) (x := x) ?_ ?_; (on_goal 1 => dsimp -zeta only [x]); (on_goal 2 => (intro _; clear_value x)))
      | (intro x; clear_value x) | lift_lets -underBinder | (intro s0))

theorem endDrain_keep {s0 s : State} {q : Nat} (hk : Keep s0 s) :
    Keep s0 (endDrain q s) := by
  unfold endDrain
  repeat' (
    first
      | with_reducible assumption | with_reducible exact Keep.refl _ | with_reducible apply toQuire_keep
      | with_reducible apply setQuire_keep | with_reducible apply refuseOr_keep
      | with_reducible apply drainEdge_keep | with_reducible apply ite_keep
      | fail_if_no_progress with_reducible apply keep_upd
      | (intro x; refine Keep.cut (s0 := s0) (x := x) ?_ ?_; (on_goal 1 => dsimp -zeta only [x]); (on_goal 2 => (intro _; clear_value x)))
      | (intro x; clear_value x) | lift_lets -underBinder | (intro s0) | split)

theorem endService_keep {s0 s : State} {q : Nat} (hk : Keep s0 s) :
    Keep s0 (endService q s) := by
  unfold endService
  repeat' (
    first
      | with_reducible assumption | with_reducible exact Keep.refl _ | with_reducible apply setQuire_keep
      | with_reducible apply serviceFailed_keep | with_reducible apply endReq_keep | with_reducible apply ite_keep
      | fail_if_no_progress with_reducible apply keep_upd
      | (intro x; refine Keep.cut (s0 := s0) (x := x) ?_ ?_; (on_goal 1 => dsimp -zeta only [x]); (on_goal 2 => (intro _; clear_value x)))
      | (intro x; clear_value x) | lift_lets -underBinder | (intro s0) | split)

theorem endPulse_keep {s0 s : State} {e : Nat} (hk : Keep s0 s) :
    Keep s0 (endPulse e s) := by
  unfold endPulse
  repeat' (
    first
      | with_reducible assumption | with_reducible exact Keep.refl _ | with_reducible apply setExc_keep
      | with_reducible apply endReq_keep | fail_if_no_progress with_reducible apply keep_upd
      | (intro x; refine Keep.cut (s0 := s0) (x := x) ?_ ?_; (on_goal 1 => dsimp -zeta only [x]); (on_goal 2 => (intro _; clear_value x)))
      | (intro x; clear_value x) | lift_lets -underBinder | (intro s0) | split)

theorem endLane_keep {s0 s : State} {l : Nat} (hk : Keep s0 s) :
    Keep s0 (endLane l s) := by
  unfold endLane
  repeat' (
    first
      | with_reducible assumption | with_reducible exact Keep.refl _ | with_reducible apply setLane_keep
      | with_reducible apply endReq_keep | fail_if_no_progress with_reducible apply keep_upd
      | (intro x; refine Keep.cut (s0 := s0) (x := x) ?_ ?_; (on_goal 1 => dsimp -zeta only [x]); (on_goal 2 => (intro _; clear_value x)))
      | (intro x; clear_value x) | lift_lets -underBinder | (intro s0))

theorem endHeld_keep {s0 s : State} (hk : Keep s0 s) :
    Keep s0 (endHeld s) := by
  unfold endHeld
  repeat' (
    first
      | with_reducible assumption | with_reducible exact Keep.refl _ | with_reducible apply forAll_keep
      | with_reducible apply foldl_keep | with_reducible apply setStream_keep | with_reducible apply refuseOr_keep
      | with_reducible apply ite_keep | fail_if_no_progress with_reducible apply keep_upd
      | (intro x; refine Keep.cut (s0 := s0) (x := x) ?_ ?_; (on_goal 1 => dsimp -zeta only [x]); (on_goal 2 => (intro _; clear_value x)))
      | (intro x; clear_value x) | lift_lets -underBinder | (intro s0) | split)

theorem endWaiting_keep {s0 s : State} (hk : Keep s0 s) :
    Keep s0 (endWaiting s) := by
  unfold endWaiting
  repeat' (
    first
      | with_reducible assumption | with_reducible exact Keep.refl _ | with_reducible apply forAll_keep
      | with_reducible apply foldl_keep | with_reducible apply toQuire_keep | with_reducible apply refuseOr_keep
      | with_reducible apply dropCommits_keep | with_reducible apply endReq_keep | with_reducible apply endFw_keep
      | with_reducible apply ite_keep | fail_if_no_progress with_reducible apply keep_upd
      | (intro x; refine Keep.cut (s0 := s0) (x := x) ?_ ?_; (on_goal 1 => dsimp -zeta only [x]); (on_goal 2 => (intro _; clear_value x)))
      | (intro x; clear_value x) | lift_lets -underBinder | (intro s0) | split)

theorem cpRestart_keep {s0 s : State} {target : Nat} (hk : Keep s0 s) :
    Keep s0 (cpRestart target s) := by
  unfold cpRestart
  repeat' (
    first
      | with_reducible assumption | with_reducible exact Keep.refl _ | with_reducible apply forAll_keep
      | with_reducible apply endInjections_keep | with_reducible apply extLost_keep
      | with_reducible apply endCals_keep | with_reducible apply endComps_keep | with_reducible apply endDrain_keep
      | with_reducible apply endService_keep | with_reducible apply endPulse_keep
      | with_reducible apply endLane_keep | with_reducible apply endHeld_keep | with_reducible apply endWaiting_keep
      | fail_if_no_progress with_reducible apply keep_upd
      | (intro x; refine Keep.cut (s0 := s0) (x := x) ?_ ?_; (on_goal 1 => dsimp -zeta only [x]); (on_goal 2 => (intro _; clear_value x)))
      | (intro x; clear_value x) | lift_lets -underBinder | (intro s0))

theorem swapRun_keep {s0 s : State} {r : Req} (hk : Keep s0 s) :
    Keep s0 (swapRun r s) := by
  unfold swapRun
  repeat' (
    first
      | with_reducible assumption | with_reducible exact Keep.refl _ | with_reducible apply setPartition_keep
      | with_reducible apply jDone_keep | with_reducible apply answer_keep | with_reducible apply refuse_keep
      | with_reducible apply cpRestart_keep | with_reducible apply ite_keep
      | fail_if_no_progress with_reducible apply keep_upd | fail_if_no_progress with_reducible apply keep_safe
      | (intro x; refine Keep.cut (s0 := s0) (x := x) ?_ ?_; (on_goal 1 => dsimp -zeta only [x]); (on_goal 2 => (intro _; clear_value x)))
      | (intro x; refine (fun (_ : Safety) => ?_) x; subst x) | (intro x; clear_value x) | lift_lets -underBinder
      | exact fun k => imgTry_wf (partition_wf _ k) | exact fun _ => programBytes_wf _ rfl | exact fun _ => rfl
      | (intro s0) | split)

theorem swapServe_keep {s0 s : State} {p : Packet} (hk : Keep s0 s) :
    Keep s0 (swapServe  p s) := by
  unfold swapServe
  repeat' (
    first
      | with_reducible assumption | with_reducible exact Keep.refl _ | with_reducible apply serve_keep
      | with_reducible apply swapRun_keep | (intro s0))

theorem sendLate_keep {s0 s : State} {x : LateReply} (hk : Keep s0 s) :
    Keep s0 (sendLate x s) := by
  unfold sendLate
  repeat' (
    first
      | with_reducible assumption | with_reducible exact Keep.refl _ | with_reducible apply replyTo_keep
      | with_reducible apply answerOr_keep | with_reducible apply ite_keep | (intro s0) | split)

theorem cpDone_keep {s0 s : State} {lost : Bool} (hk : Keep s0 s) :
    Keep s0 (cpDone lost s) := by
  unfold cpDone
  repeat' (
    first
      | with_reducible assumption | with_reducible exact Keep.refl _ | with_reducible apply forAll_keep
      | with_reducible apply foldl_keep | with_reducible apply closeSession_keep
      | with_reducible apply startQuick_keep | with_reducible apply goBack_keep | with_reducible apply sendLate_keep
      | fail_if_no_progress with_reducible apply keep_upd
      | (intro x; refine Keep.cut (s0 := s0) (x := x) ?_ ?_; (on_goal 1 => dsimp -zeta only [x]); (on_goal 2 => (intro _; clear_value x)))
      | (intro x; clear_value x) | lift_lets -underBinder | (intro s0) | split)

theorem raiseFuses_keep {s0 s : State} {t : Tab Nat} (h : Keep s0 s) : Keep s0 (raiseFuses t s) := by
  unfold raiseFuses
  dsimp only
  split
  · rename_i e
    rw [Bool.and_eq_true, decide_eq_true_eq] at e
    refine jInternal_keep (h.trans ?_)
    exact keep_raised { s.flash with fuses := min 32 (imgSecurity t) } s.safe s.cal
      (Nat.le_refl _) (Nat.le_refl _) (Nat.le_of_lt e.2) rfl rfl rfl rfl
  · exact h

theorem trialGood_keep {s0 s : State} (hk : Keep s0 s) :
    Keep s0 (trialGood s) := by
  unfold trialGood
  repeat' (
    first
      | with_reducible assumption | with_reducible exact Keep.refl _ | with_reducible apply raise_keep
      | with_reducible apply jInternal_keep | with_reducible apply setImgState_keep
      | with_reducible apply raiseFuses_keep | with_reducible apply ite_keep
      | (intro x; refine Keep.cut (s0 := s0) (x := x) ?_ ?_; (on_goal 1 => dsimp -zeta only [x]); (on_goal 2 => (intro _; clear_value x)))
      | (intro x; clear_value x) | lift_lets -underBinder | (intro s0) | split)

end Sys2Proof.Machine
end

