-- ==== Sys2Proof/Laws/KeepStart.lean ====
section
/-! SUPPORT. Each operation of Start keeps what no command undoes. -/

set_option linter.all false

namespace Sys2Proof.Machine

theorem abandonWrite_keep {s0 s : State} {cut : Bool} (h : Keep s0 s) : Keep s0 (abandonWrite cut s) := by
  refine h.trans ?_
  unfold abandonWrite
  dsimp only
  split
  · exact ⟨rfl, rfl, Nat.le_refl _, Nat.le_refl _, Nat.le_refl _, id, id, id, Nat.le_refl _⟩
  · split <;> exact ⟨rfl, rfl, Nat.le_refl _, Nat.le_refl _, Nat.le_refl _, id, id, id, Nat.le_refl _⟩

theorem enterReset_keep {s0 s : State} {causes : Nat} (h : Keep s0 s) : Keep s0 (enterReset causes s) :=
  have k := abandonFw_keep (Keep.refl s)
  h.trans ⟨rfl, rfl, k.sealN, k.lock, k.fuse, fun _ => rfl, fun _ _ e => Bool.noConfusion e, k.mem, Nat.le_refl _⟩

theorem powerOn_keep {s0 s : State} {rail : Nat} {off : Bool} (h : Keep s0 s) : Keep s0 (powerOn rail off s) := by
  unfold powerOn
  extract_lets z s1
  have k : Keep s0 s1 := by
    refine ite_keep (h.trans ?_) h
    have k := abandonFw_keep (Keep.refl s)
    exact ⟨rfl, rfl, k.sealN, k.lock, k.fuse, fun _ => rfl, fun _ _ e => Bool.noConfusion e, k.mem, Nat.le_refl _⟩
  clear_value s1
  exact ite_keep k (keep_upd _ _ _ _ _ _ _ _ _ _ _ _ _ _ _ _ _ _ _ _ _ _ _ _ k)

theorem brownout_keep {s0 s : State} {rail : Nat} {cut : Bool} (hk : Keep s0 s) :
    Keep s0 (brownout rail cut s) := by
  unfold brownout
  repeat' (
    first
      | with_reducible assumption | with_reducible exact Keep.refl _ | with_reducible apply abandonWrite_keep
      | with_reducible apply enterReset_keep | with_reducible apply ite_keep
      | fail_if_no_progress with_reducible apply keep_upd
      | (intro x; refine Keep.cut (s0 := s0) (x := x) ?_ ?_; (on_goal 1 => dsimp -zeta only [x]); (on_goal 2 => (intro _; clear_value x)))
      | (intro x; clear_value x) | lift_lets -underBinder | (intro s0) | split)

theorem pinReset_keep {s0 s : State} {low : Nat} {cut : Bool} (hk : Keep s0 s) :
    Keep s0 (pinReset low cut s) := by
  unfold pinReset
  repeat' (
    first
      | with_reducible assumption | with_reducible exact Keep.refl _ | with_reducible apply abandonWrite_keep
      | with_reducible apply enterReset_keep | with_reducible apply ite_keep | (intro s0) | split)

theorem readSafe_keep {s0 s : State} (hk : Keep s0 s) :
    Keep s0 (readSafe s) := by
  unfold readSafe
  repeat' (
    first
      | with_reducible assumption | with_reducible exact Keep.refl _ | with_reducible apply raiseOnce_keep
      | with_reducible apply ite_keep | fail_if_no_progress with_reducible apply keep_upd
      | fail_if_no_progress with_reducible apply keep_flash | fail_if_no_progress with_reducible apply keep_safe
      | fail_if_no_progress with_reducible apply keep_both
      | (intro x; refine Keep.cut (s0 := s0) (x := x) ?_ ?_; (on_goal 1 => dsimp -zeta only [x]); (on_goal 2 => (intro _; clear_value x)))
      | (intro x; refine (fun (_ : Flash) => ?_) x; subst x) | (intro x; refine (fun (_ : Safety) => ?_) x; subst x)
      | (intro x; clear_value x) | lift_lets -underBinder | (intro s0) | split)

theorem rootFront_keep {s0 s : State} {m : Nat} (hk : Keep s0 s) :
    Keep s0 (rootFront m s) := by
  unfold rootFront
  repeat' (
    first
      | with_reducible assumption | with_reducible exact Keep.refl _ | with_reducible apply putWord_keep
      | with_reducible apply setExc_keep | with_reducible apply ite_keep
      | fail_if_no_progress with_reducible apply keep_upd
      | (intro x; refine Keep.cut (s0 := s0) (x := x) ?_ ?_; (on_goal 1 => dsimp -zeta only [x]); (on_goal 2 => (intro _; clear_value x)))
      | (intro x; clear_value x) | lift_lets -underBinder | (intro s0) | split)

theorem pollQuire_keep {s0 s : State} {ups : List Nat} {q : Nat} (hk : Keep s0 s) :
    Keep s0 (pollQuire ups q s) := by
  unfold pollQuire
  repeat' (
    first
      | with_reducible assumption | with_reducible exact Keep.refl _ | with_reducible apply toQuire_keep
      | with_reducible apply setQuire_keep | with_reducible apply setWit_keep | with_reducible apply setEns_keep
      | with_reducible apply raiseOnce_keep | with_reducible apply ite_keep
      | fail_if_no_progress with_reducible apply keep_upd
      | (intro x; refine Keep.cut (s0 := s0) (x := x) ?_ ?_; (on_goal 1 => dsimp -zeta only [x]); (on_goal 2 => (intro _; clear_value x)))
      | (intro x; clear_value x) | lift_lets -underBinder | (intro s0) | split)

theorem release_keep {s0 s : State} {strap : Nat} {ups : List Nat} {sramOk : Bool} (hk : Keep s0 s) :
    Keep s0 (release strap ups sramOk s) := by
  unfold release
  repeat' (
    first
      | with_reducible assumption | with_reducible exact Keep.refl _ | with_reducible apply forAll_keep
      | with_reducible apply when_keep | with_reducible apply raise_keep | with_reducible apply readSafe_keep
      | with_reducible apply rootFront_keep | with_reducible apply pollQuire_keep | with_reducible apply ite_keep
      | fail_if_no_progress with_reducible apply keep_upd
      | (intro x; refine Keep.cut (s0 := s0) (x := x) ?_ ?_; (on_goal 1 => dsimp -zeta only [x]); (on_goal 2 => (intro _; clear_value x)))
      | (intro x; clear_value x) | lift_lets -underBinder | (intro s0) | split)

theorem tryRelease_keep {s0 s : State} {high : Nat} {strap : Nat} {ups : List Nat} {sramOk : Bool} {test : Bool} (hk : Keep s0 s) :
    Keep s0 (tryRelease high strap ups sramOk test s) := by
  unfold tryRelease
  repeat' (
    first
      | with_reducible assumption | with_reducible exact Keep.refl _ | with_reducible apply release_keep
      | with_reducible apply ite_keep | fail_if_no_progress with_reducible apply keep_upd
      | (intro x; refine Keep.cut (s0 := s0) (x := x) ?_ ?_; (on_goal 1 => dsimp -zeta only [x]); (on_goal 2 => (intro _; clear_value x)))
      | (intro x; clear_value x) | lift_lets -underBinder | (intro s0) | split)

theorem refQualified_keep {s0 s : State} (hk : Keep s0 s) :
    Keep s0 (refQualified s) := by
  unfold refQualified
  repeat' (
    first
      | with_reducible assumption | with_reducible exact Keep.refl _ | with_reducible apply refStart_keep
      | with_reducible apply ite_keep | fail_if_no_progress with_reducible apply keep_upd
      | (intro x; refine Keep.cut (s0 := s0) (x := x) ?_ ?_; (on_goal 1 => dsimp -zeta only [x]); (on_goal 2 => (intro _; clear_value x)))
      | (intro x; clear_value x) | lift_lets -underBinder | (intro s0) | split)

theorem lpTrained_keep {s0 s : State} {rate : Nat} {mib : Nat} (hk : Keep s0 s) :
    Keep s0 (lpTrained rate mib s) := by
  unfold lpTrained
  repeat' (
    first
      | with_reducible assumption | with_reducible exact Keep.refl _ | with_reducible apply raiseOnce_keep
      | with_reducible apply ite_keep | fail_if_no_progress with_reducible apply keep_upd
      | (intro x; refine Keep.cut (s0 := s0) (x := x) ?_ ?_; (on_goal 1 => dsimp -zeta only [x]); (on_goal 2 => (intro _; clear_value x)))
      | (intro x; clear_value x) | lift_lets -underBinder | (intro s0) | split)

theorem loadUcode_keep {s0 s : State} (hk : Keep s0 s) :
    Keep s0 (loadUcode s) := by
  unfold loadUcode
  repeat' (
    first
      | with_reducible assumption | with_reducible exact Keep.refl _ | with_reducible apply forAll_keep
      | with_reducible apply toQuire_keep | with_reducible apply setQuire_keep | with_reducible apply raise_keep
      | with_reducible apply ite_keep | fail_if_no_progress with_reducible apply keep_upd
      | fail_if_no_progress with_reducible apply keep_flash
      | (intro x; refine Keep.cut (s0 := s0) (x := x) ?_ ?_; (on_goal 1 => dsimp -zeta only [x]); (on_goal 2 => (intro _; clear_value x)))
      | (intro x; refine (fun (_ : Flash) => ?_) x; subst x) | (intro x; clear_value x) | lift_lets -underBinder
      | (intro s0) | split)

theorem policyFrom_keep {s0 s : State} {k : BlockKey} {v : Nat} (hk : Keep s0 s) :
    Keep s0 (policyFrom k v s) := by
  unfold policyFrom
  repeat' (
    first
      | with_reducible assumption | with_reducible exact Keep.refl _ | with_reducible apply putWord_keep
      | (intro x; refine Keep.cut (s0 := s0) (x := x) ?_ ?_; (on_goal 1 => dsimp -zeta only [x]); (on_goal 2 => (intro _; clear_value x)))
      | (intro x; clear_value x) | lift_lets -underBinder | (intro s0))

theorem checkCal_keep {s0 s : State} (hk : Keep s0 s) :
    Keep s0 (checkCal s) := by
  unfold checkCal
  repeat' (
    first
      | with_reducible assumption | with_reducible exact Keep.refl _ | with_reducible apply foldl_keep
      | with_reducible apply raiseOnce_keep | with_reducible apply policyFrom_keep
      | fail_if_no_progress with_reducible apply keep_upd | fail_if_no_progress with_reducible apply keep_flash
      | (intro x; refine Keep.cut (s0 := s0) (x := x) ?_ ?_; (on_goal 1 => dsimp -zeta only [x]); (on_goal 2 => (intro _; clear_value x)))
      | (intro x; refine (fun (_ : Flash) => ?_) x; subst x) | (intro x; clear_value x) | lift_lets -underBinder
      | (intro s0) | split)

theorem checkCorr_keep {s0 s : State} (hk : Keep s0 s) :
    Keep s0 (checkCorr s) := by
  unfold checkCorr
  repeat' (
    first
      | with_reducible assumption | with_reducible exact Keep.refl _ | with_reducible apply raiseOnce_keep
      | with_reducible apply ite_keep | fail_if_no_progress with_reducible apply keep_upd
      | fail_if_no_progress with_reducible apply keep_flash | fail_if_no_progress with_reducible apply keep_safe
      | fail_if_no_progress with_reducible apply keep_both
      | (intro x; refine Keep.cut (s0 := s0) (x := x) ?_ ?_; (on_goal 1 => dsimp -zeta only [x]); (on_goal 2 => (intro _; clear_value x)))
      | (intro x; refine (fun (_ : Flash) => ?_) x; subst x) | (intro x; refine (fun (_ : Safety) => ?_) x; subst x)
      | (intro x; clear_value x) | lift_lets -underBinder | (intro s0) | split)

theorem newStart_keep {s0 s : State} (hk : Keep s0 s) :
    Keep s0 (newStart s) := by
  unfold newStart
  repeat' (
    first
      | with_reducible assumption | with_reducible exact Keep.refl _ | with_reducible apply forAll_keep
      | with_reducible apply setStream_keep | fail_if_no_progress with_reducible apply keep_upd
      | fail_if_no_progress with_reducible apply keep_flash
      | (intro x; refine Keep.cut (s0 := s0) (x := x) ?_ ?_; (on_goal 1 => dsimp -zeta only [x]); (on_goal 2 => (intro _; clear_value x)))
      | (intro x; refine (fun (_ : Flash) => ?_) x; subst x) | (intro x; clear_value x) | lift_lets -underBinder
      | (intro s0))

theorem unknownEvent_keep {s0 s : State} (hk : Keep s0 s) :
    Keep s0 (unknownEvent s) := by
  unfold unknownEvent
  repeat' (
    first
      | with_reducible assumption | with_reducible exact Keep.refl _ | with_reducible apply issue_keep
      | with_reducible apply ite_keep | fail_if_no_progress with_reducible apply keep_upd
      | (intro x; refine Keep.cut (s0 := s0) (x := x) ?_ ?_; (on_goal 1 => dsimp -zeta only [x]); (on_goal 2 => (intro _; clear_value x)))
      | (intro x; clear_value x) | lift_lets -underBinder | (intro s0) | split)

theorem startFirmware_keep {s0 s : State} {i : Nat} {rejected : List (Nat × Nat)} (h : Keep s0 s) :
    Keep s0 (startFirmware i rejected s) := by
  unfold startFirmware
  extract_lets b s1 s2 s3 s4 s5 s6 s7 s8
  have k1 : Keep s0 s1 := newStart_keep (keep_upd _ _ _ _ _ _ _ _ _ _ _ _ _ _ _ _ _ _ _ _ _ _ _ _ h)
  clear_value s1
  have k2 : Keep s0 s2 := jTail_keep (loadKeys_keep (handOver_keep (unknownEvent_keep k1)))
  clear_value s2
  have k3 : Keep s0 s3 := jInternal_keep k2
  clear_value s3
  have k4 : Keep s0 s4 := foldl_keep _ (fun _ _ => fallback_keep (Keep.refl _)) k3
  clear_value s4
  have k5 : Keep s0 s5 := loadUcode_keep k4
  clear_value s5
  have k6 : Keep s0 s6 := when_keep (fun _ => raiseOnce_keep (Keep.refl _)) k5
  clear_value s6
  have k7 : Keep s0 s7 := checkCorr_keep (checkCal_keep k6)
  clear_value s7
  refine startLanes_keep ?_
  show Keep s0 (match s7.flash.ring.find? (·.bad) with | none => s7 | some r => raise (ev 0x0705 r.quire) s7)
  split
  · exact k7
  · exact raise_keep k7

theorem imageSelect_keep {s0 s : State} (hk : Keep s0 s) :
    Keep s0 (imageSelect s) := by
  unfold imageSelect
  repeat' (
    first
      | with_reducible assumption | with_reducible exact Keep.refl _ | with_reducible apply selectImage_keep
      | with_reducible apply startLink_keep | with_reducible apply startFirmware_keep
      | with_reducible apply ite_keep | fail_if_no_progress with_reducible apply keep_upd
      | (intro x; refine Keep.cut (s0 := s0) (x := x) ?_ ?_; (on_goal 1 => dsimp -zeta only [x]); (on_goal 2 => (intro _; clear_value x)))
      | (intro x; refine Keep.cut (s0 := s0) (x := x.1) ?_ ?_; (on_goal 1 => dsimp -zeta only [x]); (on_goal 2 => (intro _; clear_value x)))
      | (intro x; clear_value x) | lift_lets -underBinder | (intro s0) | split)

theorem trunkReached_keep {s0 s : State} (hk : Keep s0 s) :
    Keep s0 (trunkReached s) := by
  unfold trunkReached
  repeat' (
    first
      | with_reducible assumption | with_reducible exact Keep.refl _ | with_reducible apply stageReached_keep
      | with_reducible apply ite_keep | fail_if_no_progress with_reducible apply keep_upd
      | (intro x; refine Keep.cut (s0 := s0) (x := x) ?_ ?_; (on_goal 1 => dsimp -zeta only [x]); (on_goal 2 => (intro _; clear_value x)))
      | (intro x; clear_value x) | lift_lets -underBinder | (intro s0) | split)

theorem loadEns_keep {s0 s : State} {q : Nat} {c : EnsCal} (hk : Keep s0 s) :
    Keep s0 (loadEns q c s) := by
  unfold loadEns
  repeat' (
    first
      | with_reducible assumption | with_reducible exact Keep.refl _ | with_reducible apply setEns_keep
      | with_reducible apply ite_keep | fail_if_no_progress with_reducible apply keep_upd
      | fail_if_no_progress with_reducible apply keep_flash
      | (intro x; refine Keep.cut (s0 := s0) (x := x) ?_ ?_; (on_goal 1 => dsimp -zeta only [x]); (on_goal 2 => (intro _; clear_value x)))
      | (intro x; refine (fun (_ : Flash) => ?_) x; subst x) | (intro x; clear_value x) | lift_lets -underBinder
      | (intro s0) | split)

theorem loadRange_keep {s0 s : State} {k : Nat} {r : RangeCal} (hk : Keep s0 s) :
    Keep s0 (loadRange k r s) := by
  unfold loadRange
  repeat' (
    first
      | with_reducible assumption | with_reducible exact Keep.refl _ | with_reducible apply setChan_keep
      | fail_if_no_progress with_reducible apply keep_upd
      | (intro x; refine Keep.cut (s0 := s0) (x := x) ?_ ?_; (on_goal 1 => dsimp -zeta only [x]); (on_goal 2 => (intro _; clear_value x)))
      | (intro x; clear_value x) | lift_lets -underBinder | (intro s0))

theorem loadCoefs_keep {s0 s : State} (hk : Keep s0 s) :
    Keep s0 (loadCoefs s) := by
  unfold loadCoefs
  repeat' (
    first
      | with_reducible assumption | with_reducible exact Keep.refl _ | with_reducible apply forAll_keep
      | with_reducible apply putWord_keep | with_reducible apply foldl_keep | with_reducible apply loadEns_keep
      | with_reducible apply loadRange_keep | with_reducible apply ite_keep
      | fail_if_no_progress with_reducible apply keep_upd | fail_if_no_progress with_reducible apply keep_flash
      | fail_if_no_progress with_reducible apply keep_safe | fail_if_no_progress with_reducible apply keep_both
      | (intro x; refine Keep.cut (s0 := s0) (x := x) ?_ ?_; (on_goal 1 => dsimp -zeta only [x]); (on_goal 2 => (intro _; clear_value x)))
      | (intro x; refine (fun (_ : Flash) => ?_) x; subst x) | (intro x; refine (fun (_ : Safety) => ?_) x; subst x)
      | (intro x; clear_value x) | lift_lets -underBinder | (intro s0) | split)

theorem absentQuire_keep {s0 s : State} {q : Nat} (hk : Keep s0 s) :
    Keep s0 (absentQuire q s) := by
  unfold absentQuire
  repeat' (
    first
      | with_reducible assumption | with_reducible exact Keep.refl _ | with_reducible apply forAll_keep
      | with_reducible apply setMember_keep | with_reducible apply addMark_keep
      | fail_if_no_progress with_reducible apply keep_upd
      | (intro x; refine Keep.cut (s0 := s0) (x := x) ?_ ?_; (on_goal 1 => dsimp -zeta only [x]); (on_goal 2 => (intro _; clear_value x)))
      | (intro x; clear_value x) | lift_lets -underBinder | (intro s0))

theorem modulatorsStart_keep {s0 s : State} (hk : Keep s0 s) :
    Keep s0 (modulatorsStart s) := by
  unfold modulatorsStart
  repeat' (
    first
      | with_reducible assumption | with_reducible exact Keep.refl _ | with_reducible apply forAll_keep
      | with_reducible apply setQuire_keep | with_reducible apply leaveSimul_keep
      | with_reducible apply handover_keep | with_reducible apply loadCoefs_keep
      | with_reducible apply absentQuire_keep | with_reducible apply ite_keep
      | fail_if_no_progress with_reducible apply keep_upd
      | (intro x; refine Keep.cut (s0 := s0) (x := x) ?_ ?_; (on_goal 1 => dsimp -zeta only [x]); (on_goal 2 => (intro _; clear_value x)))
      | (intro x; clear_value x) | lift_lets -underBinder | (intro s0) | split)

theorem crownReached_keep {s0 s : State} (hk : Keep s0 s) :
    Keep s0 (crownReached s) := by
  unfold crownReached
  repeat' (
    first
      | with_reducible assumption | with_reducible exact Keep.refl _ | with_reducible apply stageReached_keep
      | with_reducible apply handover_keep | with_reducible apply ite_keep
      | fail_if_no_progress with_reducible apply keep_upd | fail_if_no_progress with_reducible apply keep_safe
      | (intro x; refine Keep.cut (s0 := s0) (x := x) ?_ ?_; (on_goal 1 => dsimp -zeta only [x]); (on_goal 2 => (intro _; clear_value x)))
      | (intro x; refine (fun (_ : Safety) => ?_) x; subst x) | (intro x; clear_value x) | lift_lets -underBinder
      | (intro s0) | split)

theorem continuityEvents_keep {s0 s : State} (hk : Keep s0 s) :
    Keep s0 (continuityEvents s) := by
  unfold continuityEvents
  repeat' (
    first
      | with_reducible assumption | with_reducible exact Keep.refl _ | with_reducible apply foldl_keep
      | with_reducible apply issue_keep | with_reducible apply ite_keep
      | fail_if_no_progress with_reducible apply keep_upd
      | (intro x; refine Keep.cut (s0 := s0) (x := x) ?_ ?_; (on_goal 1 => dsimp -zeta only [x]); (on_goal 2 => (intro _; clear_value x)))
      | (intro x; clear_value x) | lift_lets -underBinder | (intro s0) | split)

theorem overrunAt_keep {s0 s : State} {stage : Nat} (hk : Keep s0 s) :
    Keep s0 (overrunAt stage s) := by
  unfold overrunAt
  repeat' (
    first
      | with_reducible assumption | with_reducible exact Keep.refl _ | with_reducible apply raiseOnce_keep
      | with_reducible apply ite_keep | fail_if_no_progress with_reducible apply keep_upd
      | (intro x; refine Keep.cut (s0 := s0) (x := x) ?_ ?_; (on_goal 1 => dsimp -zeta only [x]); (on_goal 2 => (intro _; clear_value x)))
      | (intro x; clear_value x) | lift_lets -underBinder | (intro s0) | split)

theorem watchdog_keep {s0 s : State} {cut : Bool} (hk : Keep s0 s) :
    Keep s0 (watchdog cut s) := by
  unfold watchdog
  repeat' (
    first
      | with_reducible assumption | with_reducible exact Keep.refl _ | with_reducible apply raise_keep
      | with_reducible apply setImgState_keep | with_reducible apply fallback_keep
      | with_reducible apply cpRestart_keep | with_reducible apply abandonWrite_keep
      | with_reducible apply enterReset_keep | with_reducible apply ite_keep
      | fail_if_no_progress with_reducible apply keep_upd
      | (intro x; refine Keep.cut (s0 := s0) (x := x) ?_ ?_; (on_goal 1 => dsimp -zeta only [x]); (on_goal 2 => (intro _; clear_value x)))
      | (intro x; clear_value x) | lift_lets -underBinder | (intro s0) | split)

theorem mgmtRead_keep {s0 s : State} {addr : Nat} {off : Nat} {n : Nat} {block : Bool} {extra : Bool} (hk : Keep s0 s) :
    Keep s0 (mgmtRead addr off n block extra s) := by
  unfold mgmtRead
  repeat' (
    first
      | with_reducible assumption | with_reducible exact Keep.refl _ | with_reducible apply emit_keep
      | with_reducible apply ite_keep | fail_if_no_progress with_reducible apply keep_upd
      | (intro x; refine Keep.cut (s0 := s0) (x := x) ?_ ?_; (on_goal 1 => dsimp -zeta only [x]); (on_goal 2 => (intro _; clear_value x)))
      | (intro x; clear_value x) | lift_lets -underBinder | (intro s0) | split)

theorem recoveryPhase_keep {s0 s : State} {t : Tab Nat} {phase : Nat} {percent : Nat} (hk : Keep s0 s) :
    Keep s0 (recoveryPhase t phase percent s) := by
  unfold recoveryPhase
  repeat' (
    first
      | with_reducible assumption | with_reducible exact Keep.refl _ | with_reducible apply setPartition_keep
      | with_reducible apply ite_keep | fail_if_no_progress with_reducible apply keep_upd
      | (intro x; refine Keep.cut (s0 := s0) (x := x) ?_ ?_; (on_goal 1 => dsimp -zeta only [x]); (on_goal 2 => (intro _; clear_value x)))
      | (intro x; clear_value x) | lift_lets -underBinder | exact fun k => imgTry_wf (partition_wf _ k)
      | exact fun _ => programBytes_wf _ rfl | exact fun _ => rfl | (intro s0) | split)

theorem recoveryStep_keep {s0 s : State} {image : List Byte} {left : List Byte} {outcome : Nat} {percent : Nat} (hk : Keep s0 s) :
    Keep s0 (recoveryStep image left outcome percent s) := by
  unfold recoveryStep
  repeat' (
    first
      | with_reducible assumption | with_reducible exact Keep.refl _ | with_reducible apply setPartition_keep
      | with_reducible apply setImgState_keep | with_reducible apply recoveryPhase_keep
      | with_reducible apply ite_keep | fail_if_no_progress with_reducible apply keep_upd
      | fail_if_no_progress with_reducible apply keep_flash
      | (intro x; refine Keep.cut (s0 := s0) (x := x) ?_ ?_; (on_goal 1 => dsimp -zeta only [x]); (on_goal 2 => (intro _; clear_value x)))
      | (intro x; refine (fun (_ : Flash) => ?_) x; subst x) | (intro x; clear_value x) | lift_lets -underBinder
      | exact fun k => imgTry_wf (partition_wf _ k) | exact fun _ => programBytes_wf _ rfl | exact fun _ => rfl
      | (intro s0) | split)

theorem recoveryDone_keep {s0 s : State} {image : List Byte} {left : List Byte} {outcome : Nat} {percent : Nat} (hk : Keep s0 s) :
    Keep s0 (recoveryDone image left outcome percent s) := by
  unfold recoveryDone
  repeat' (
    first
      | with_reducible assumption | with_reducible exact Keep.refl _ | with_reducible apply enterReset_keep
      | with_reducible apply recoveryStep_keep | with_reducible apply ite_keep
      | (intro x; refine Keep.cut (s0 := s0) (x := x) ?_ ?_; (on_goal 1 => dsimp -zeta only [x]); (on_goal 2 => (intro _; clear_value x)))
      | (intro x; clear_value x) | lift_lets -underBinder | (intro s0) | split)

theorem hubResetRun_keep {s0 s : State} {ds : List (List Descriptor)} {r : Req} (hk : Keep s0 s) :
    Keep s0 (hubResetRun ds r s) := by
  unfold hubResetRun
  repeat' (
    first
      | with_reducible assumption | with_reducible exact Keep.refl _ | with_reducible apply foldl_keep
      | with_reducible apply jCommand_keep | with_reducible apply answer_keep
      | with_reducible apply ringTransfer_keep | with_reducible apply enterReset_keep
      | with_reducible apply ite_keep
      | (intro x; refine Keep.cut (s0 := s0) (x := x) ?_ ?_; (on_goal 1 => dsimp -zeta only [x]); (on_goal 2 => (intro _; clear_value x)))
      | (intro x; clear_value x) | lift_lets -underBinder | (intro s0) | split)

theorem hubResetServe_keep {s0 s : State} {ds : List (List Descriptor)} {p : Packet} (hk : Keep s0 s) :
    Keep s0 (hubResetServe ds p s) := by
  unfold hubResetServe
  repeat' (
    first
      | with_reducible assumption | with_reducible exact Keep.refl _ | with_reducible apply serve_keep
      | with_reducible apply hubResetRun_keep | (intro s0))

end Sys2Proof.Machine
end

