-- ==== Sys2Proof/Laws/KeepPackets.lean ====
section
/-! SUPPORT. Each operation of Packets keeps what no command undoes. -/

set_option linter.all false

namespace Sys2Proof.Machine

theorem takePacket_keep {s0 s : State} {op : Nat} {p : Packet} (hk : Keep s0 s) :
    Keep s0 (takePacket op p s) := by
  unfold takePacket
  repeat' (
    first
      | with_reducible assumption | with_reducible exact Keep.refl _ | with_reducible apply timeGet_keep
      | with_reducible apply iuArmServe_keep | with_reducible apply iuDisarmServe_keep
      | with_reducible apply injectServe_keep | with_reducible apply cancelServe_keep
      | with_reducible apply simulServe_keep | with_reducible apply simulStopServe_keep
      | with_reducible apply drainServe_keep | with_reducible apply reenterServe_keep
      | with_reducible apply ucodeServe_keep | with_reducible apply standinServe_keep
      | with_reducible apply diagServe_keep | with_reducible apply calServe_keep
      | with_reducible apply abortServe_keep | with_reducible apply compareServe_keep
      | with_reducible apply extServe_keep | with_reducible apply sealOpenServe_keep
      | with_reducible apply sealCloseServe_keep | with_reducible apply memberServe_keep
      | with_reducible apply exportServe_keep | with_reducible apply safeStatusServe_keep
      | with_reducible apply lockOpenServe_keep | with_reducible apply lockCloseServe_keep
      | with_reducible apply tripResetServe_keep | with_reducible apply pulseNowServe_keep
      | with_reducible apply startServe_keep | with_reducible apply stopServe_keep
      | with_reducible apply flushServe_keep | with_reducible apply markServe_keep
      | with_reducible apply groupArmServe_keep | with_reducible apply groupDisarmServe_keep
      | with_reducible apply groupFireServe_keep | with_reducible apply trgArmServe_keep
      | with_reducible apply trgDisarmServe_keep | with_reducible apply maskLoadServe_keep
      | with_reducible apply timeSetServe_keep | with_reducible apply rebaseServe_keep
      | with_reducible apply eyeScanServe_keep | with_reducible apply retrainServe_keep
      | with_reducible apply loopbackServe_keep | with_reducible apply commitServe_keep
      | with_reducible apply writeServe_keep | with_reducible apply readServe_keep
      | with_reducible apply stageServe_keep | with_reducible apply openServe_keep
      | with_reducible apply closeServe_keep | with_reducible apply pingServe_keep
      | with_reducible apply resendServe_keep | with_reducible apply schedCancelServe_keep
      | with_reducible apply unknownServe_keep | with_reducible apply acqStatusServe_keep
      | with_reducible apply acqReadServe_keep | with_reducible apply credAddServe_keep
      | with_reducible apply credRevokeServe_keep | with_reducible apply credListServe_keep
      | with_reducible apply groupKeyServe_keep | with_reducible apply jReadServe_keep
      | with_reducible apply jMirrorServe_keep | with_reducible apply jVerifyServe_keep
      | with_reducible apply logReadServe_keep | with_reducible apply faultListServe_keep
      | with_reducible apply faultClearServe_keep | with_reducible apply logClearServe_keep
      | with_reducible apply fwBeginServe_keep | with_reducible apply fwDataServe_keep
      | with_reducible apply fwCommitServe_keep | with_reducible apply swapServe_keep
      | with_reducible apply hubResetServe_keep | fail_if_no_progress with_reducible apply keep_upd
      | (intro x; refine Keep.cut (s0 := s0) (x := x) ?_ ?_; (on_goal 1 => dsimp -zeta only [x]); (on_goal 2 => (intro _; clear_value x)))
      | (intro x; clear_value x) | lift_lets -underBinder | (intro s0) | split)

theorem drainUnread_keep {s0 s : State} (hk : Keep s0 s) :
    Keep s0 (drainUnread s) := by
  unfold drainUnread
  repeat' (
    first
      | with_reducible assumption | with_reducible exact Keep.refl _ | with_reducible apply foldl_keep
      | with_reducible apply receive_keep | with_reducible apply takePacket_keep
      | fail_if_no_progress with_reducible apply keep_upd
      | (intro x; refine Keep.cut (s0 := s0) (x := x) ?_ ?_; (on_goal 1 => dsimp -zeta only [x]); (on_goal 2 => (intro _; clear_value x)))
      | (intro x; clear_value x) | lift_lets -underBinder | (intro s0))

end Sys2Proof.Machine
end

