-- ==== Sys2Proof/Laws/Still.lean ====
section
/-! SUPPORT. What reporting leaves alone: events, journal entries, replies and folios change the fault manager, the journal,
the command processor, the host port, the store and what has left the hub, and nothing else of the state. One lemma
    for
each operation says that it does no more. -/

namespace Sys2Proof.Machine


theorem Still.refl (s : State) : Still s s := ⟨rfl, rfl, rfl, rfl, rfl, rfl, rfl, rfl, rfl, rfl, rfl, rfl, rfl, rfl,
    rfl, rfl, rfl, rfl, rfl, rfl, rfl, rfl, rfl, rfl⟩

theorem Still.trans {a b c : State} (h : Still a b) (k : Still b c) : Still a c where
  part := k.part.trans h.part
  time := k.time.trans h.time
  ptp := k.ptp.trans h.ptp
  evt := k.evt.trans h.evt
  iu := k.iu.trans h.iu
  quires := k.quires.trans h.quires
  exc := k.exc.trans h.exc
  tone := k.tone.trans h.tone
  chans := k.chans.trans h.chans
  wit := k.wit.trans h.wit
  conv := k.conv.trans h.conv
  cal := k.cal.trans h.cal
  trg := k.trg.trans h.trg
  group := k.group.trans h.group
  lanes := k.lanes.trans h.lanes
  skaing := k.skaing.trans h.skaing
  safe := k.safe.trans h.safe
  cfg := k.cfg.trans h.cfg
  past := k.past.trans h.past
  now := k.now.trans h.now
  draw := k.draw.trans h.draw
  pending := k.pending.trans h.pending
  flash := by
    have e := h.flash; have f := k.flash
    rw [← f] at e; exact e
  boot := by
    have e := h.boot; have f := k.boot
    rw [← f] at e; exact e

/-- A state that a let names, and what has changed up to it. -/
theorem Still.cut {s0 x : State} {P : Prop} (hx : Still s0 x) (h : Still s0 x → P) : P := h hx

/-- An update of reports alone. -/
theorem still_upd {s0 s : State} (faults : Faults) (jrn : Journal) (cz : Cuzan) (host : HostPort) (store : Store)
    (out : List Out) (h : Still s0 s) :
    Still s0 (State.mk s.part s.flash s.boot faults jrn cz host store s.time s.ptp s.evt s.iu s.quires s.exc s.tone
    s.chans s.wit s.conv s.cal s.trg s.group s.lanes s.skaing s.safe s.cfg s.past s.now s.draw out s.pending) :=
  h.trans ⟨rfl, rfl, rfl, rfl, rfl, rfl, rfl, rfl, rfl, rfl, rfl, rfl, rfl, rfl, rfl, rfl, rfl, rfl, rfl, rfl, rfl,
    rfl, rfl, rfl⟩

/-- An update of the journal and its start count. -/
theorem still_flash {s0 s : State} (faults : Faults) (jrn : Journal) (cz : Cuzan) (host : HostPort) (store : Store)
    (out : List Out) (journal : JournalFlash) (last startCount : Nat) (h : Still s0 s) :
    Still s0 (State.mk s.part (Flash.mk s.flash.fwA s.flash.fwB s.flash.ucode s.flash.safe s.flash.safeCorr
    s.flash.safeOk1 s.flash.safeOk2 s.flash.keys s.flash.cal journal s.flash.ring s.flash.rseq s.flash.sealCount
    s.flash.lockCount s.flash.fuses s.flash.bad last) (Boot.mk s.boot.inReset s.boot.rails s.boot.railsSince
    s.boot.hot s.boot.cause s.boot.prevCause s.boot.newCause s.boot.release s.boot.strap s.boot.stage s.boot.hold
    s.boot.image s.boot.safeOk s.boot.storeMode startCount s.boot.refDone s.boot.refWait s.boot.fwRuns s.boot.lpDone
    s.boot.trunkAt s.boot.modsOn s.boot.crownAt s.boot.testHeld s.boot.strobe s.boot.flashRstN s.boot.lpCke
    s.boot.xspi s.boot.overrun s.boot.lastWatchdog s.boot.restart s.boot.swapped s.boot.continuityUnknown
    s.boot.mgmtReg s.boot.mgmtHeld) faults jrn cz host store s.time s.ptp s.evt s.iu s.quires s.exc s.tone s.chans
    s.wit s.conv s.cal s.trg s.group s.lanes s.skaing s.safe s.cfg s.past s.now s.draw out s.pending) :=
  h.trans ⟨rfl, rfl, rfl, rfl, rfl, rfl, rfl, rfl, rfl, rfl, rfl, rfl, rfl, rfl, rfl, rfl, rfl, rfl, rfl, rfl, rfl,
    rfl, rfl, rfl⟩

theorem ite_still {c : Prop} [Decidable c] {s0 a b : State} (ha : Still s0 a) (hb : Still s0 b) :
    Still s0 (if c then a else b) := by split <;> assumption

theorem foldl_still {α : Type} {s0 s : State} {f : State → α → State} (l : List α) (hf : ∀ x t, Still t (f t x))
    (h : Still s0 s) : Still s0 (l.foldl f s) := by
  induction l generalizing s with
  | nil => exact h
  | cons x r ih => exact ih (h.trans (hf x s))

theorem forAll_still {α : Type} {s0 s : State} {f : α → State → State} (l : List α) (hf : ∀ x t, Still t (f x t))
    (h : Still s0 s) : Still s0 (forAll l f s) := foldl_still l hf h

theorem when_still {s0 s : State} {b : Bool} {f : State → State} (hf : ∀ t, Still t (f t)) (h : Still s0 s) :
    Still s0 (when_ b f s) := by
  unfold when_; exact ite_still (h.trans (hf s)) h

theorem unlessPaused_still {s0 s : State} {f : State → State} (hf : ∀ t, Still t (f t)) (h : Still s0 s) :
    Still s0 (unlessPaused f s) := by
  unfold unlessPaused; exact ite_still h (h.trans (hf s))

end Sys2Proof.Machine
end

