-- ==== Sys2Proof/Laws/StillOps.lean ====
section
/-! SUPPORT. The operations that report and do no more. -/

set_option linter.all false

namespace Sys2Proof.Machine

/-! ### Ops -/

theorem emit_still {s0 s : State} {o : Out} (hk : Still s0 s) :
    Still s0 (emit o s) := by
  unfold emit
  repeat' (
    first
      | with_reducible assumption | with_reducible exact Still.refl _
      | fail_if_no_progress with_reducible apply still_upd
      | (intro x; refine Still.cut (s0 := s0) (x := x) ?_ ?_; (on_goal 1 => dsimp -zeta only [x]); (on_goal 2 => (intro _; clear_value x)))
      | (intro x; clear_value x) | lift_lets -underBinder | (intro s0))

theorem emitAll_still {s0 s : State} {l : List Out} (hk : Still s0 s) :
    Still s0 (emitAll l s) := by
  unfold emitAll
  repeat' (
    first
      | with_reducible assumption | with_reducible exact Still.refl _ | with_reducible apply foldl_still
      | with_reducible apply emit_still | (intro s0))

theorem toQuire_still {s0 s : State} {q : Nat} {kind : Nat} {arg : Nat} (hk : Still s0 s) :
    Still s0 (toQuire q kind arg s) := by
  unfold toQuire
  repeat' (
    first
      | with_reducible assumption | with_reducible exact Still.refl _ | with_reducible apply emit_still | (intro s0))

theorem setStream_still {s0 s : State} {n : Nat} {v : Stream} (hk : Still s0 s) :
    Still s0 (setStream n v s) := by
  unfold setStream
  repeat' (
    first
      | with_reducible assumption | with_reducible exact Still.refl _
      | fail_if_no_progress with_reducible apply still_upd
      | (intro x; refine Still.cut (s0 := s0) (x := x) ?_ ?_; (on_goal 1 => dsimp -zeta only [x]); (on_goal 2 => (intro _; clear_value x)))
      | (intro x; clear_value x) | lift_lets -underBinder | (intro s0))

theorem setRing_still {s0 s : State} {r : Nat} {v : Ring} (hk : Still s0 s) :
    Still s0 (setRing r v s) := by
  unfold setRing
  repeat' (
    first
      | with_reducible assumption | with_reducible exact Still.refl _
      | fail_if_no_progress with_reducible apply still_upd
      | (intro x; refine Still.cut (s0 := s0) (x := x) ?_ ?_; (on_goal 1 => dsimp -zeta only [x]); (on_goal 2 => (intro _; clear_value x)))
      | (intro x; clear_value x) | lift_lets -underBinder | (intro s0))

theorem setWindow_still {s0 s : State} {w : Nat} {v : Window} (hk : Still s0 s) :
    Still s0 (setWindow w v s) := by
  unfold setWindow
  repeat' (
    first
      | with_reducible assumption | with_reducible exact Still.refl _
      | fail_if_no_progress with_reducible apply still_upd
      | (intro x; refine Still.cut (s0 := s0) (x := x) ?_ ?_; (on_goal 1 => dsimp -zeta only [x]); (on_goal 2 => (intro _; clear_value x)))
      | (intro x; clear_value x) | lift_lets -underBinder | (intro s0))

theorem setMsix_still {s0 s : State} {v : Nat} {m : MsixEntry} (hk : Still s0 s) :
    Still s0 (setMsix v m s) := by
  unfold setMsix
  repeat' (
    first
      | with_reducible assumption | with_reducible exact Still.refl _
      | fail_if_no_progress with_reducible apply still_upd
      | (intro x; refine Still.cut (s0 := s0) (x := x) ?_ ?_; (on_goal 1 => dsimp -zeta only [x]); (on_goal 2 => (intro _; clear_value x)))
      | (intro x; clear_value x) | lift_lets -underBinder | (intro s0))

/-! ### Operands -/

theorem sendUdp_still {s0 s : State} {p : Nat} {dest : List Byte} {dport : Nat} {sport : Nat} {df : Bool} {bytes : List Byte} (hk : Still s0 s) :
    Still s0 (sendUdp p dest dport sport df bytes s) := by
  unfold sendUdp
  repeat' (
    first
      | with_reducible assumption | with_reducible exact Still.refl _ | with_reducible apply emit_still | (intro s0))

theorem sendFrame_still {s0 s : State} {p : Nat} {mac : List Byte} {etherType : Nat} {bytes : List Byte} (hk : Still s0 s) :
    Still s0 (sendFrame p mac etherType bytes s) := by
  unfold sendFrame
  repeat' (
    first
      | with_reducible assumption | with_reducible exact Still.refl _ | with_reducible apply emit_still | (intro s0))

/-! ### Events -/

theorem put2_still {s0 s : State} {ftype : Nat} {count : Nat} {payload : List Byte} (hk : Still s0 s) :
    Still s0 (put2 ftype count payload s) := by
  unfold put2
  repeat' (
    first
      | with_reducible assumption | with_reducible exact Still.refl _ | with_reducible apply ite_still
      | fail_if_no_progress with_reducible apply still_upd
      | (intro x; refine Still.cut (s0 := s0) (x := x) ?_ ?_; (on_goal 1 => dsimp -zeta only [x]); (on_goal 2 => (intro _; clear_value x)))
      | (intro x; clear_value x) | lift_lets -underBinder | (intro s0) | split)

theorem put3_still {s0 s : State} {ftype : Nat} {count : Nat} {payload : List Byte} (hk : Still s0 s) :
    Still s0 (put3 ftype count payload s) := by
  unfold put3
  repeat' (
    first
      | with_reducible assumption | with_reducible exact Still.refl _ | with_reducible apply ite_still
      | fail_if_no_progress with_reducible apply still_upd
      | (intro x; refine Still.cut (s0 := s0) (x := x) ?_ ?_; (on_goal 1 => dsimp -zeta only [x]); (on_goal 2 => (intro _; clear_value x)))
      | (intro x; clear_value x) | lift_lets -underBinder | (intro s0) | split)

theorem sramDrain_still {k : Nat} {s0 s : State} (h : Still s0 s) : Still s0 (sramDrain k s) := by
  induction k generalizing s with
  | zero => exact h
  | succ k ih =>
    unfold sramDrain
    refine ite_still h ?_
    split
    · exact ih (h.trans (still_upd _ _ _ _ _ _ (Still.refl _)))
    · exact ih (h.trans (still_upd _ _ _ _ _ _ (Still.refl _)))
    · exact h

theorem pushLog_still {s0 s : State} {e : LogEntry} (hk : Still s0 s) :
    Still s0 (pushLog e s) := by
  unfold pushLog
  repeat' (
    first
      | with_reducible assumption | with_reducible exact Still.refl _ | with_reducible apply ite_still
      | fail_if_no_progress with_reducible apply still_upd
      | (intro x; refine Still.cut (s0 := s0) (x := x) ?_ ?_; (on_goal 1 => dsimp -zeta only [x]); (on_goal 2 => (intro _; clear_value x)))
      | (intro x; clear_value x) | lift_lets -underBinder | (intro s0) | split)

theorem setFault_still {s0 s : State} {e : FaultEntry} (hk : Still s0 s) :
    Still s0 (setFault e s) := by
  unfold setFault
  repeat' (
    first
      | with_reducible assumption | with_reducible exact Still.refl _
      | fail_if_no_progress with_reducible apply still_upd
      | (intro x; refine Still.cut (s0 := s0) (x := x) ?_ ?_; (on_goal 1 => dsimp -zeta only [x]); (on_goal 2 => (intro _; clear_value x)))
      | (intro x; clear_value x) | lift_lets -underBinder | (intro s0))

theorem addCause_still {s0 s : State} {code : Nat} {subject : Nat} (hk : Still s0 s) :
    Still s0 (addCause code subject s) := by
  unfold addCause
  repeat' (
    first
      | with_reducible assumption | with_reducible exact Still.refl _ | with_reducible apply setFault_still
      | with_reducible apply ite_still | fail_if_no_progress with_reducible apply still_upd
      | (intro x; refine Still.cut (s0 := s0) (x := x) ?_ ?_; (on_goal 1 => dsimp -zeta only [x]); (on_goal 2 => (intro _; clear_value x)))
      | (intro x; clear_value x) | lift_lets -underBinder | (intro s0) | split)

theorem rootKeep_still {s0 s : State} {e : LogEntry} {v : Ev} (hk : Still s0 s) :
    Still s0 (rootKeep e v s) := by
  unfold rootKeep
  repeat' (
    first
      | with_reducible assumption | with_reducible exact Still.refl _ | with_reducible apply ite_still
      | fail_if_no_progress with_reducible apply still_upd
      | (intro x; refine Still.cut (s0 := s0) (x := x) ?_ ?_; (on_goal 1 => dsimp -zeta only [x]); (on_goal 2 => (intro _; clear_value x)))
      | (intro x; clear_value x) | lift_lets -underBinder | (intro s0) | split)

theorem keepLog_still {s0 s : State} {e : LogEntry} (hk : Still s0 s) :
    Still s0 (keepLog e s) := by
  unfold keepLog
  repeat' (
    first
      | with_reducible assumption | with_reducible exact Still.refl _ | with_reducible apply pushLog_still
      | with_reducible apply rootKeep_still | with_reducible apply ite_still | (intro s0) | split)

theorem keepWith_still {s0 s : State} {e : LogEntry} {v : Ev} (hk : Still s0 s) :
    Still s0 (keepWith e v s) := by
  unfold keepWith
  repeat' (
    first
      | with_reducible assumption | with_reducible exact Still.refl _ | with_reducible apply pushLog_still
      | with_reducible apply rootKeep_still | with_reducible apply ite_still | (intro s0) | split)

theorem logSet_still {s0 s : State} {e : LogEntry} {v : Ev} (hk : Still s0 s) :
    Still s0 (logSet e v s) := by
  unfold logSet
  repeat' (
    first
      | with_reducible assumption | with_reducible exact Still.refl _ | with_reducible apply setFault_still
      | with_reducible apply rootKeep_still | with_reducible apply keepWith_still | with_reducible apply ite_still
      | fail_if_no_progress with_reducible apply still_upd
      | (intro x; refine Still.cut (s0 := s0) (x := x) ?_ ?_; (on_goal 1 => dsimp -zeta only [x]); (on_goal 2 => (intro _; clear_value x)))
      | (intro x; clear_value x) | lift_lets -underBinder | (intro s0) | split)

theorem logClear_still {s0 s : State} {e : LogEntry} (hk : Still s0 s) :
    Still s0 (logClear e s) := by
  unfold logClear
  repeat' (
    first
      | with_reducible assumption | with_reducible exact Still.refl _ | with_reducible apply setFault_still
      | with_reducible apply keepLog_still | with_reducible apply ite_still
      | fail_if_no_progress with_reducible apply still_upd
      | (intro x; refine Still.cut (s0 := s0) (x := x) ?_ ?_; (on_goal 1 => dsimp -zeta only [x]); (on_goal 2 => (intro _; clear_value x)))
      | (intro x; clear_value x) | lift_lets -underBinder | (intro s0) | split)

theorem clearCause_still {s0 s : State} {ecode : Nat} {subject : Nat} (hk : Still s0 s) :
    Still s0 (clearCause ecode subject s) := by
  unfold clearCause
  repeat' (
    first
      | with_reducible assumption | with_reducible exact Still.refl _ | with_reducible apply setFault_still
      | with_reducible apply logClear_still | with_reducible apply ite_still
      | fail_if_no_progress with_reducible apply still_upd
      | (intro x; refine Still.cut (s0 := s0) (x := x) ?_ ?_; (on_goal 1 => dsimp -zeta only [x]); (on_goal 2 => (intro _; clear_value x)))
      | (intro x; clear_value x) | lift_lets -underBinder | (intro s0) | split)

theorem issueRecord_still {s0 s : State} {ecode : Nat} {eflags : Nat} {strm : Nat} {time : List Byte} {body : List Byte} (hk : Still s0 s) :
    Still s0 (issueRecord ecode eflags strm time body s) := by
  unfold issueRecord
  repeat' (
    first
      | with_reducible assumption | with_reducible exact Still.refl _ | with_reducible apply put2_still
      | fail_if_no_progress with_reducible apply still_upd
      | (intro x; refine Still.cut (s0 := s0) (x := x) ?_ ?_; (on_goal 1 => dsimp -zeta only [x]); (on_goal 2 => (intro _; clear_value x)))
      | (intro x; clear_value x) | lift_lets -underBinder | (intro s0))

theorem issueAt_still {s0 s : State} {e : Ev} {eflags : Nat} {lflags : Nat} {count : Nat} {detail : List Byte} {time : List Byte} (hk : Still s0 s) :
    Still s0 (issueAt e eflags lflags count detail time s) := by
  unfold issueAt
  repeat' (
    first
      | with_reducible assumption | with_reducible exact Still.refl _ | with_reducible apply setFault_still
      | with_reducible apply logSet_still | with_reducible apply logClear_still
      | with_reducible apply issueRecord_still | with_reducible apply ite_still
      | fail_if_no_progress with_reducible apply still_upd
      | (intro x; refine Still.cut (s0 := s0) (x := x) ?_ ?_; (on_goal 1 => dsimp -zeta only [x]); (on_goal 2 => (intro _; clear_value x)))
      | (intro x; clear_value x) | lift_lets -underBinder | (intro s0) | split)

theorem issue_still {s0 s : State} {e : Ev} (hk : Still s0 s) :
    Still s0 (issue e s) := by
  unfold issue
  repeat' (
    first
      | with_reducible assumption | with_reducible exact Still.refl _ | with_reducible apply issueAt_still
      | with_reducible apply ite_still | (intro s0) | split)

theorem issueNote_still {s0 s : State} {e : Ev} {count : Nat} (hk : Still s0 s) :
    Still s0 (issueNote e count s) := by
  unfold issueNote
  repeat' (
    first
      | with_reducible assumption | with_reducible exact Still.refl _ | with_reducible apply pushLog_still
      | with_reducible apply rootKeep_still | with_reducible apply issueRecord_still
      | with_reducible apply ite_still
      | (intro x; refine Still.cut (s0 := s0) (x := x) ?_ ?_; (on_goal 1 => dsimp -zeta only [x]); (on_goal 2 => (intro _; clear_value x)))
      | (intro x; clear_value x) | lift_lets -underBinder | (intro s0) | split)

theorem raiseRoot_still {s0 s : State} {e : Ev} (hk : Still s0 s) :
    Still s0 (raiseRoot e s) := by
  unfold raiseRoot
  repeat' (
    first
      | with_reducible assumption | with_reducible exact Still.refl _ | with_reducible apply setFault_still
      | with_reducible apply rootKeep_still | with_reducible apply logSet_still | with_reducible apply ite_still
      | fail_if_no_progress with_reducible apply still_upd
      | (intro x; refine Still.cut (s0 := s0) (x := x) ?_ ?_; (on_goal 1 => dsimp -zeta only [x]); (on_goal 2 => (intro _; clear_value x)))
      | (intro x; clear_value x) | lift_lets -underBinder | (intro s0) | split)

theorem raiseCoalesced_still {s0 s : State} {e : Ev} (hk : Still s0 s) :
    Still s0 (raiseCoalesced e s) := by
  unfold raiseCoalesced
  repeat' (
    first
      | with_reducible assumption | with_reducible exact Still.refl _ | with_reducible apply ite_still
      | fail_if_no_progress with_reducible apply still_upd
      | (intro x; refine Still.cut (s0 := s0) (x := x) ?_ ?_; (on_goal 1 => dsimp -zeta only [x]); (on_goal 2 => (intro _; clear_value x)))
      | (intro x; clear_value x) | lift_lets -underBinder | (intro s0) | split)

theorem raise_still {s0 s : State} {e : Ev} (hk : Still s0 s) :
    Still s0 (raise e s) := by
  unfold raise
  repeat' (
    first
      | with_reducible assumption | with_reducible exact Still.refl _ | with_reducible apply when_still
      | with_reducible apply addCause_still | with_reducible apply issue_still
      | with_reducible apply raiseRoot_still | with_reducible apply raiseCoalesced_still
      | with_reducible apply ite_still
      | (intro x; refine Still.cut (s0 := s0) (x := x) ?_ ?_; (on_goal 1 => dsimp -zeta only [x]); (on_goal 2 => (intro _; clear_value x)))
      | (intro x; clear_value x) | lift_lets -underBinder | (intro s0) | split)

theorem raiseOnce_still {s0 s : State} {e : Ev} (hk : Still s0 s) :
    Still s0 (raiseOnce e s) := by
  unfold raiseOnce
  repeat' (
    first
      | with_reducible assumption | with_reducible exact Still.refl _ | with_reducible apply raise_still
      | with_reducible apply ite_still | (intro s0) | split)

theorem handOver_still {s0 s : State} (hk : Still s0 s) :
    Still s0 (handOver s) := by
  unfold handOver
  repeat' (
    first
      | with_reducible assumption | with_reducible exact Still.refl _ | with_reducible apply foldl_still
      | with_reducible apply pushLog_still | with_reducible apply setFault_still
      | with_reducible apply issueRecord_still | with_reducible apply ite_still
      | fail_if_no_progress with_reducible apply still_upd
      | (intro x; refine Still.cut (s0 := s0) (x := x) ?_ ?_; (on_goal 1 => dsimp -zeta only [x]); (on_goal 2 => (intro _; clear_value x)))
      | (intro x; clear_value x) | lift_lets -underBinder | (intro s0) | split)

theorem issueCoalesced_still {s0 s : State} {w : CoalWin} {outcome : Nat} (hk : Still s0 s) :
    Still s0 (issueCoalesced w outcome s) := by
  unfold issueCoalesced
  repeat' (
    first
      | with_reducible assumption | with_reducible exact Still.refl _ | with_reducible apply issueAt_still
      | with_reducible apply ite_still | fail_if_no_progress with_reducible apply still_upd
      | (intro x; refine Still.cut (s0 := s0) (x := x) ?_ ?_; (on_goal 1 => dsimp -zeta only [x]); (on_goal 2 => (intro _; clear_value x)))
      | (intro x; clear_value x) | lift_lets -underBinder | (intro s0) | split)

theorem raiseOrigWith_still {s0 s : State} {extra : List Byte} {ecode : Nat} {idKind : Nat} {port : Nat} {ident : List Byte} {n : Nat} (hk : Still s0 s) :
    Still s0 (raiseOrigWith extra ecode idKind port ident n s) := by
  unfold raiseOrigWith
  repeat' (
    first
      | with_reducible assumption | with_reducible exact Still.refl _ | with_reducible apply ite_still
      | fail_if_no_progress with_reducible apply still_upd
      | (intro x; refine Still.cut (s0 := s0) (x := x) ?_ ?_; (on_goal 1 => dsimp -zeta only [x]); (on_goal 2 => (intro _; clear_value x)))
      | (intro x; clear_value x) | lift_lets -underBinder | (intro s0) | split)

theorem raiseOrig_still {s0 s : State} {ecode : Nat} {idKind : Nat} {port : Nat} {ident : List Byte} {n : Nat} (hk : Still s0 s) :
    Still s0 (raiseOrig ecode idKind port ident n s) := by
  unfold raiseOrig
  repeat' (
    first
      | with_reducible assumption | with_reducible exact Still.refl _ | with_reducible apply raiseOrigWith_still
      | (intro s0))

theorem dropWin_still {s0 s : State} {ecode : Nat} {q : Nat} (hk : Still s0 s) :
    Still s0 (dropWin ecode q s) := by
  unfold dropWin
  repeat' (
    first
      | with_reducible assumption | with_reducible exact Still.refl _
      | fail_if_no_progress with_reducible apply still_upd
      | (intro x; refine Still.cut (s0 := s0) (x := x) ?_ ?_; (on_goal 1 => dsimp -zeta only [x]); (on_goal 2 => (intro _; clear_value x)))
      | (intro x; clear_value x) | lift_lets -underBinder | (intro s0))

theorem putWin_still {s0 s : State} {w : CoalWin} (hk : Still s0 s) :
    Still s0 (putWin w s) := by
  unfold putWin
  repeat' (
    first
      | with_reducible assumption | with_reducible exact Still.refl _ | with_reducible apply ite_still
      | fail_if_no_progress with_reducible apply still_upd
      | (intro x; refine Still.cut (s0 := s0) (x := x) ?_ ?_; (on_goal 1 => dsimp -zeta only [x]); (on_goal 2 => (intro _; clear_value x)))
      | (intro x; clear_value x) | lift_lets -underBinder | (intro s0) | split)

theorem coalesceEnd_still {s0 s : State} {ecode : Nat} {q : Nat} (hk : Still s0 s) :
    Still s0 (coalesceEnd ecode q s) := by
  unfold coalesceEnd
  repeat' (
    first
      | with_reducible assumption | with_reducible exact Still.refl _ | with_reducible apply foldl_still
      | with_reducible apply issue_still | with_reducible apply issueCoalesced_still
      | with_reducible apply dropWin_still | with_reducible apply putWin_still | with_reducible apply ite_still
      | fail_if_no_progress with_reducible apply still_upd
      | (intro x; refine Still.cut (s0 := s0) (x := x) ?_ ?_; (on_goal 1 => dsimp -zeta only [x]); (on_goal 2 => (intro _; clear_value x)))
      | (intro x; clear_value x) | lift_lets -underBinder | (intro s0) | split)

theorem coalesceRepeat_still {s0 s : State} {ecode : Nat} {q : Nat} (hk : Still s0 s) :
    Still s0 (coalesceRepeat ecode q s) := by
  unfold coalesceRepeat
  repeat' (
    first
      | with_reducible assumption | with_reducible exact Still.refl _ | with_reducible apply issueCoalesced_still
      | with_reducible apply dropWin_still | with_reducible apply putWin_still | with_reducible apply ite_still
      | fail_if_no_progress with_reducible apply still_upd
      | (intro x; refine Still.cut (s0 := s0) (x := x) ?_ ?_; (on_goal 1 => dsimp -zeta only [x]); (on_goal 2 => (intro _; clear_value x)))
      | (intro x; clear_value x) | lift_lets -underBinder | (intro s0) | split)

theorem originSecond_still {s0 s : State} (hk : Still s0 s) :
    Still s0 (originSecond s) := by
  unfold originSecond
  repeat' (
    first
      | with_reducible assumption | with_reducible exact Still.refl _ | with_reducible apply foldl_still
      | with_reducible apply issueAt_still | with_reducible apply ite_still
      | fail_if_no_progress with_reducible apply still_upd
      | (intro x; refine Still.cut (s0 := s0) (x := x) ?_ ?_; (on_goal 1 => dsimp -zeta only [x]); (on_goal 2 => (intro _; clear_value x)))
      | (intro x; clear_value x) | lift_lets -underBinder | (intro s0) | split)

theorem flapEnd_still {s0 s : State} (hk : Still s0 s) :
    Still s0 (flapEnd s) := by
  unfold flapEnd
  repeat' (
    first
      | with_reducible assumption | with_reducible exact Still.refl _ | with_reducible apply foldl_still
      | with_reducible apply keepLog_still | with_reducible apply ite_still
      | fail_if_no_progress with_reducible apply still_upd
      | (intro x; refine Still.cut (s0 := s0) (x := x) ?_ ?_; (on_goal 1 => dsimp -zeta only [x]); (on_goal 2 => (intro _; clear_value x)))
      | (intro x; clear_value x) | lift_lets -underBinder | (intro s0) | split)

/-! ### Journal -/

theorem jProgram_still {s0 s : State} {e : JEntry} (hk : Still s0 s) :
    Still s0 (jProgram e s) := by
  unfold jProgram
  repeat' (
    first
      | with_reducible assumption | with_reducible exact Still.refl _ | with_reducible apply ite_still
      | fail_if_no_progress with_reducible apply still_upd | fail_if_no_progress with_reducible apply still_flash
      | (intro x; refine Still.cut (s0 := s0) (x := x) ?_ ?_; (on_goal 1 => dsimp -zeta only [x]); (on_goal 2 => (intro _; clear_value x)))
      | (intro x; refine (fun (_ : Flash) => ?_) x; subst x) | (intro x; clear_value x) | lift_lets -underBinder
      | (intro s0) | split)

theorem jWrite_still {s0 s : State} {e : JEntry} (hk : Still s0 s) :
    Still s0 (jWrite e s) := by
  unfold jWrite
  repeat' (
    first
      | with_reducible assumption | with_reducible exact Still.refl _ | with_reducible apply jProgram_still
      | with_reducible apply ite_still | fail_if_no_progress with_reducible apply still_upd
      | fail_if_no_progress with_reducible apply still_flash
      | (intro x; refine Still.cut (s0 := s0) (x := x) ?_ ?_; (on_goal 1 => dsimp -zeta only [x]); (on_goal 2 => (intro _; clear_value x)))
      | (intro x; refine (fun (_ : Flash) => ?_) x; subst x) | (intro x; clear_value x) | lift_lets -underBinder
      | (intro s0) | split)

theorem jMirror_still {s0 s : State} (hk : Still s0 s) :
    Still s0 (jMirror s) := by
  unfold jMirror
  repeat' (
    first
      | with_reducible assumption | with_reducible exact Still.refl _ | with_reducible apply foldl_still
      | with_reducible apply put3_still | with_reducible apply ite_still
      | fail_if_no_progress with_reducible apply still_upd
      | (intro x; refine Still.cut (s0 := s0) (x := x) ?_ ?_; (on_goal 1 => dsimp -zeta only [x]); (on_goal 2 => (intro _; clear_value x)))
      | (intro x; clear_value x) | lift_lets -underBinder | (intro s0) | split)

theorem jAppend_still {s0 s : State} {e : JEntry} (hk : Still s0 s) :
    Still s0 (jAppend e s) := by
  unfold jAppend
  repeat' (
    first
      | with_reducible assumption | with_reducible exact Still.refl _ | with_reducible apply raiseOnce_still
      | with_reducible apply jWrite_still | with_reducible apply jMirror_still | with_reducible apply ite_still
      | fail_if_no_progress with_reducible apply still_upd | fail_if_no_progress with_reducible apply still_flash
      | (intro x; refine Still.cut (s0 := s0) (x := x) ?_ ?_; (on_goal 1 => dsimp -zeta only [x]); (on_goal 2 => (intro _; clear_value x)))
      | (intro x; refine (fun (_ : Flash) => ?_) x; subst x) | (intro x; clear_value x) | lift_lets -underBinder
      | (intro s0) | split)

theorem jSplit_still {s0 s : State} {e : JEntry} {unit : Nat} {body : List Byte} (hk : Still s0 s) :
    Still s0 (jSplit e unit body s) := by
  unfold jSplit
  repeat' (
    first
      | with_reducible assumption | with_reducible exact Still.refl _ | with_reducible apply foldl_still
      | with_reducible apply jAppend_still | fail_if_no_progress with_reducible apply still_upd
      | (intro x; refine Still.cut (s0 := s0) (x := x) ?_ ?_; (on_goal 1 => dsimp -zeta only [x]); (on_goal 2 => (intro _; clear_value x)))
      | (intro x; clear_value x) | lift_lets -underBinder | (intro s0))

theorem jInternalAt_still {s0 s : State} {port : Nat} {time : List Byte} {kind : Nat} {body : List Byte} (hk : Still s0 s) :
    Still s0 (jInternalAt port time kind body s) := by
  unfold jInternalAt
  repeat' (
    first
      | with_reducible assumption | with_reducible exact Still.refl _ | with_reducible apply jAppend_still
      | fail_if_no_progress with_reducible apply still_upd
      | (intro x; refine Still.cut (s0 := s0) (x := x) ?_ ?_; (on_goal 1 => dsimp -zeta only [x]); (on_goal 2 => (intro _; clear_value x)))
      | (intro x; clear_value x) | lift_lets -underBinder | (intro s0))

theorem jInternal_still {s0 s : State} {kind : Nat} {body : List Byte} (hk : Still s0 s) :
    Still s0 (jInternal kind body s) := by
  unfold jInternal
  repeat' (
    first
      | with_reducible assumption | with_reducible exact Still.refl _ | with_reducible apply jInternalAt_still
      | (intro s0))

theorem jCommand_still {s0 s : State} {r : Req} {accepted : Bool} {unit : Nat} {body : List Byte} (hk : Still s0 s) :
    Still s0 (jCommand r accepted unit body s) := by
  unfold jCommand
  repeat' (
    first
      | with_reducible assumption | with_reducible exact Still.refl _ | with_reducible apply jSplit_still
      | with_reducible apply ite_still | fail_if_no_progress with_reducible apply still_upd
      | (intro x; refine Still.cut (s0 := s0) (x := x) ?_ ?_; (on_goal 1 => dsimp -zeta only [x]); (on_goal 2 => (intro _; clear_value x)))
      | (intro x; clear_value x) | lift_lets -underBinder | (intro s0) | split)

theorem jDone_still {s0 s : State} {r : Req} {reply : List Byte} (hk : Still s0 s) :
    Still s0 (jDone r reply s) := by
  unfold jDone
  repeat' (
    first
      | with_reducible assumption | with_reducible exact Still.refl _ | with_reducible apply jCommand_still
      | (intro s0))

theorem tearLast_still {s0 s : State} (hk : Still s0 s) :
    Still s0 (tearLast s) := by
  unfold tearLast
  repeat' (
    first
      | with_reducible assumption | with_reducible exact Still.refl _
      | fail_if_no_progress with_reducible apply still_upd | fail_if_no_progress with_reducible apply still_flash
      | (intro x; refine Still.cut (s0 := s0) (x := x) ?_ ?_; (on_goal 1 => dsimp -zeta only [x]); (on_goal 2 => (intro _; clear_value x)))
      | (intro x; refine (fun (_ : Flash) => ?_) x; subst x) | (intro x; clear_value x) | lift_lets -underBinder
      | (intro s0))

theorem jTail_still {s0 s : State} (hk : Still s0 s) :
    Still s0 (jTail s) := by
  unfold jTail
  repeat' (
    first
      | with_reducible assumption | with_reducible exact Still.refl _ | with_reducible apply jInternal_still
      | with_reducible apply tearLast_still | with_reducible apply ite_still
      | fail_if_no_progress with_reducible apply still_upd
      | (intro x; refine Still.cut (s0 := s0) (x := x) ?_ ?_; (on_goal 1 => dsimp -zeta only [x]); (on_goal 2 => (intro _; clear_value x)))
      | (intro x; clear_value x) | lift_lets -underBinder | (intro s0) | split)

/-! ### Keys -/

theorem loadKeys_still {s0 s : State} (hk : Still s0 s) :
    Still s0 (loadKeys s) := by
  unfold loadKeys
  repeat' (
    first
      | with_reducible assumption | with_reducible exact Still.refl _
      | fail_if_no_progress with_reducible apply still_upd | fail_if_no_progress with_reducible apply still_flash
      | (intro x; refine Still.cut (s0 := s0) (x := x) ?_ ?_; (on_goal 1 => dsimp -zeta only [x]); (on_goal 2 => (intro _; clear_value x)))
      | (intro x; refine (fun (_ : Flash) => ?_) x; subst x) | (intro x; clear_value x) | lift_lets -underBinder
      | (intro s0))

/-! ### Cuzan -/

theorem putSession_still {s0 s : State} {v : Session} (hk : Still s0 s) :
    Still s0 (putSession v s) := by
  unfold putSession
  repeat' (
    first
      | with_reducible assumption | with_reducible exact Still.refl _ | with_reducible apply ite_still
      | fail_if_no_progress with_reducible apply still_upd
      | (intro x; refine Still.cut (s0 := s0) (x := x) ?_ ?_; (on_goal 1 => dsimp -zeta only [x]); (on_goal 2 => (intro _; clear_value x)))
      | (intro x; clear_value x) | lift_lets -underBinder | (intro s0) | split)

theorem onSession_still {s0 s : State} {id : Nat} {f : Session → Session} (hk : Still s0 s) :
    Still s0 (onSession id f s) := by
  unfold onSession
  repeat' (
    first
      | with_reducible assumption | with_reducible exact Still.refl _ | with_reducible apply ite_still
      | fail_if_no_progress with_reducible apply still_upd
      | (intro x; refine Still.cut (s0 := s0) (x := x) ?_ ?_; (on_goal 1 => dsimp -zeta only [x]); (on_goal 2 => (intro _; clear_value x)))
      | (intro x; clear_value x) | lift_lets -underBinder | (intro s0) | split)

theorem sendBytes_still {s0 s : State} {port : Nat} {source : List Byte} {srcPort : Nat} {bytes : List Byte} (hk : Still s0 s) :
    Still s0 (sendBytes port source srcPort bytes s) := by
  unfold sendBytes
  repeat' (
    first
      | with_reducible assumption | with_reducible exact Still.refl _ | with_reducible apply sendUdp_still
      | with_reducible apply ite_still | fail_if_no_progress with_reducible apply still_upd
      | (intro x; refine Still.cut (s0 := s0) (x := x) ?_ ?_; (on_goal 1 => dsimp -zeta only [x]); (on_goal 2 => (intro _; clear_value x)))
      | (intro x; clear_value x) | lift_lets -underBinder | (intro s0) | split)

theorem sendReply_still {s0 s : State} {v : Session} {r : Req} {status : Nat} {final : Bool} {body : List Byte} (hk : Still s0 s) :
    Still s0 (sendReply v r status final body s) := by
  unfold sendReply
  repeat' (
    first
      | with_reducible assumption | with_reducible exact Still.refl _ | with_reducible apply foldl_still
      | with_reducible apply onSession_still | with_reducible apply sendBytes_still | with_reducible apply ite_still
      | fail_if_no_progress with_reducible apply still_upd
      | (intro x; refine Still.cut (s0 := s0) (x := x) ?_ ?_; (on_goal 1 => dsimp -zeta only [x]); (on_goal 2 => (intro _; clear_value x)))
      | (intro x; clear_value x) | lift_lets -underBinder | (intro s0) | split)

theorem replyIn_still {s0 s : State} {v : Session} {r : Req} {status : Nat} {final : Bool} {body : List Byte} (hk : Still s0 s) :
    Still s0 (replyIn v r status final body s) := by
  unfold replyIn
  repeat' (
    first
      | with_reducible assumption | with_reducible exact Still.refl _ | with_reducible apply sendReply_still
      | with_reducible apply ite_still | fail_if_no_progress with_reducible apply still_upd
      | (intro x; refine Still.cut (s0 := s0) (x := x) ?_ ?_; (on_goal 1 => dsimp -zeta only [x]); (on_goal 2 => (intro _; clear_value x)))
      | (intro x; clear_value x) | lift_lets -underBinder | (intro s0) | split)

theorem replyTo_still {s0 s : State} {r : Req} {status : Nat} {final : Bool} {body : List Byte} (hk : Still s0 s) :
    Still s0 (replyTo r status final body s) := by
  unfold replyTo
  repeat' (
    first
      | with_reducible assumption | with_reducible exact Still.refl _ | with_reducible apply replyIn_still
      | fail_if_no_progress with_reducible apply still_upd
      | (intro x; refine Still.cut (s0 := s0) (x := x) ?_ ?_; (on_goal 1 => dsimp -zeta only [x]); (on_goal 2 => (intro _; clear_value x)))
      | (intro x; clear_value x) | lift_lets -underBinder | (intro s0) | split)

theorem answer_still {s0 s : State} {r : Req} {status : Nat} {body : List Byte} (hk : Still s0 s) :
    Still s0 (answer r status body s) := by
  unfold answer
  repeat' (
    first
      | with_reducible assumption | with_reducible exact Still.refl _ | with_reducible apply replyTo_still
      | (intro s0))

theorem queued_still {s0 s : State} {r : Req} {body : List Byte} (hk : Still s0 s) :
    Still s0 (queued r body s) := by
  unfold queued
  repeat' (
    first
      | with_reducible assumption | with_reducible exact Still.refl _ | with_reducible apply replyTo_still
      | (intro s0))

theorem refuse_still {s0 s : State} {r : Req} {status : Nat} (hk : Still s0 s) :
    Still s0 (refuse r status s) := by
  unfold refuse
  repeat' (
    first
      | with_reducible assumption | with_reducible exact Still.refl _ | with_reducible apply answer_still
      | fail_if_no_progress with_reducible apply still_upd
      | (intro x; refine Still.cut (s0 := s0) (x := x) ?_ ?_; (on_goal 1 => dsimp -zeta only [x]); (on_goal 2 => (intro _; clear_value x)))
      | (intro x; clear_value x) | lift_lets -underBinder | (intro s0))

theorem faulted_still {s0 s : State} {r : Req} {ecode : Nat} (hk : Still s0 s) :
    Still s0 (faulted r ecode s) := by
  unfold faulted
  repeat' (
    first
      | with_reducible assumption | with_reducible exact Still.refl _ | with_reducible apply answer_still
      | fail_if_no_progress with_reducible apply still_upd
      | (intro x; refine Still.cut (s0 := s0) (x := x) ?_ ?_; (on_goal 1 => dsimp -zeta only [x]); (on_goal 2 => (intro _; clear_value x)))
      | (intro x; clear_value x) | lift_lets -underBinder | (intro s0))

theorem answerOr_still {s0 s : State} {r : Req} {status : Nat} {body : List Byte} {ecode : Nat} (hk : Still s0 s) :
    Still s0 (answerOr r status body ecode s) := by
  unfold answerOr
  repeat' (
    first
      | with_reducible assumption | with_reducible exact Still.refl _ | with_reducible apply raise_still
      | with_reducible apply replyIn_still | fail_if_no_progress with_reducible apply still_upd
      | (intro x; refine Still.cut (s0 := s0) (x := x) ?_ ?_; (on_goal 1 => dsimp -zeta only [x]); (on_goal 2 => (intro _; clear_value x)))
      | (intro x; clear_value x) | lift_lets -underBinder | (intro s0) | split)

theorem refuseOr_still {s0 s : State} {r : Req} {status : Nat} (hk : Still s0 s) :
    Still s0 (refuseOr r status s) := by
  unfold refuseOr
  repeat' (
    first
      | with_reducible assumption | with_reducible exact Still.refl _ | with_reducible apply answerOr_still
      | fail_if_no_progress with_reducible apply still_upd
      | (intro x; refine Still.cut (s0 := s0) (x := x) ?_ ?_; (on_goal 1 => dsimp -zeta only [x]); (on_goal 2 => (intro _; clear_value x)))
      | (intro x; clear_value x) | lift_lets -underBinder | (intro s0))

theorem faultedOr_still {s0 s : State} {r : Req} {ecode : Nat} (hk : Still s0 s) :
    Still s0 (faultedOr r ecode s) := by
  unfold faultedOr
  repeat' (
    first
      | with_reducible assumption | with_reducible exact Still.refl _ | with_reducible apply answerOr_still
      | fail_if_no_progress with_reducible apply still_upd
      | (intro x; refine Still.cut (s0 := s0) (x := x) ?_ ?_; (on_goal 1 => dsimp -zeta only [x]); (on_goal 2 => (intro _; clear_value x)))
      | (intro x; clear_value x) | lift_lets -underBinder | (intro s0))

theorem dropSession_still {s0 s : State} {id : Nat} (hk : Still s0 s) :
    Still s0 (dropSession id s) := by
  unfold dropSession
  repeat' (
    first
      | with_reducible assumption | with_reducible exact Still.refl _
      | fail_if_no_progress with_reducible apply still_upd
      | (intro x; refine Still.cut (s0 := s0) (x := x) ?_ ?_; (on_goal 1 => dsimp -zeta only [x]); (on_goal 2 => (intro _; clear_value x)))
      | (intro x; clear_value x) | lift_lets -underBinder | (intro s0))

theorem resend_still {s0 s : State} {v : Session} {r : Req} {tag : Nat} (hk : Still s0 s) :
    Still s0 (resend v r tag s) := by
  unfold resend
  repeat' (
    first
      | with_reducible assumption | with_reducible exact Still.refl _ | with_reducible apply foldl_still
      | with_reducible apply sendBytes_still | with_reducible apply ite_still
      | (intro x; refine Still.cut (s0 := s0) (x := x) ?_ ?_; (on_goal 1 => dsimp -zeta only [x]); (on_goal 2 => (intro _; clear_value x)))
      | (intro x; clear_value x) | lift_lets -underBinder | (intro s0) | split)

theorem dropPacket_still {s0 s : State} {p : Packet} {auth : Bool} (hk : Still s0 s) :
    Still s0 (dropPacket p auth s) := by
  unfold dropPacket
  repeat' (
    first
      | with_reducible assumption | with_reducible exact Still.refl _ | with_reducible apply raiseOrig_still
      | with_reducible apply ite_still | fail_if_no_progress with_reducible apply still_upd
      | (intro x; refine Still.cut (s0 := s0) (x := x) ?_ ?_; (on_goal 1 => dsimp -zeta only [x]); (on_goal 2 => (intro _; clear_value x)))
      | (intro x; clear_value x) | lift_lets -underBinder | (intro s0) | split)

theorem answerBare_still {s0 s : State} {op : Nat} {p : Packet} {status : Nat} (hk : Still s0 s) :
    Still s0 (answerBare op p status s) := by
  unfold answerBare
  repeat' (
    first
      | with_reducible assumption | with_reducible exact Still.refl _ | with_reducible apply foldl_still
      | with_reducible apply sendBytes_still | (intro s0))

theorem passChecks_still {s0 s : State} {row : OpRow} {p : Packet} {v : Session} {r : Req} {need : Nat} {ok : Bool} {aligned : Req → State → Bool} {body : Req → State → State} (hbody : ∀ x0 t, Still t (body x0 t)) (hk : Still s0 s) :
    Still s0 (passChecks row p v r need ok aligned body s) := by
  unfold passChecks
  repeat' (
    first
      | with_reducible assumption | with_reducible exact Still.refl _
      | with_reducible refine Still.trans ?_ (hbody _ _) | with_reducible apply onSession_still
      | with_reducible apply refuse_still | with_reducible apply faulted_still | with_reducible apply ite_still
      | fail_if_no_progress with_reducible apply still_upd
      | (intro x; refine Still.cut (s0 := s0) (x := x) ?_ ?_; (on_goal 1 => dsimp -zeta only [x]); (on_goal 2 => (intro _; clear_value x)))
      | (intro x; clear_value x) | lift_lets -underBinder | (intro s0) | split)

theorem serveAt_still {s0 s : State} {aligned : Req → State → Bool} {op : Nat} {need : Req → State → Nat} {ok : Req → State → Bool} {body : Req → State → State} {p : Packet} (hbody : ∀ x0 t, Still t (body x0 t)) (hk : Still s0 s) :
    Still s0 (serveAt aligned op need ok body p s) := by
  unfold serveAt
  repeat' (
    first
      | with_reducible assumption | with_reducible exact Still.refl _
      | with_reducible refine Still.trans ?_ (hbody _ _) | with_reducible apply onSession_still
      | with_reducible apply refuse_still | with_reducible apply resend_still
      | with_reducible apply dropPacket_still | with_reducible apply answerBare_still
      | with_reducible apply passChecks_still | with_reducible apply ite_still
      | fail_if_no_progress with_reducible apply still_upd
      | (intro x; refine Still.cut (s0 := s0) (x := x) ?_ ?_; (on_goal 1 => dsimp -zeta only [x]); (on_goal 2 => (intro _; clear_value x)))
      | (intro x; clear_value x) | lift_lets -underBinder | (intro s0) | split)

theorem serve_still {s0 s : State} {op : Nat} {need : Req → State → Nat} {ok : Req → State → Bool} {body : Req → State → State} {p : Packet} (hbody : ∀ x0 t, Still t (body x0 t)) (hk : Still s0 s) :
    Still s0 (serve op need ok body p s) := by
  unfold serve
  repeat' (
    first
      | with_reducible assumption | with_reducible exact Still.refl _
      | with_reducible refine Still.trans ?_ (hbody _ _) | with_reducible apply serveAt_still | (intro s0))

theorem receive_still {s0 s : State} {op : Nat} {p : Packet} {take : Packet → State → State} (htake : ∀ x0 t, Still t (take x0 t)) (hk : Still s0 s) :
    Still s0 (receive op p take s) := by
  unfold receive
  repeat' (
    first
      | with_reducible assumption | with_reducible exact Still.refl _
      | with_reducible refine Still.trans ?_ (htake _ _) | with_reducible apply ite_still
      | fail_if_no_progress with_reducible apply still_upd
      | (intro x; refine Still.cut (s0 := s0) (x := x) ?_ ?_; (on_goal 1 => dsimp -zeta only [x]); (on_goal 2 => (intro _; clear_value x)))
      | (intro x; clear_value x) | lift_lets -underBinder | (intro s0) | split)

/-! ### Store -/

theorem seqRoom_still {s0 s : State} {n : Nat} {i : Nat} (hk : Still s0 s) :
    Still s0 (seqRoom n i s) := by
  unfold seqRoom
  repeat' (
    first
      | with_reducible assumption | with_reducible exact Still.refl _ | with_reducible apply setStream_still
      | with_reducible apply ite_still | fail_if_no_progress with_reducible apply still_upd
      | fail_if_no_progress with_reducible apply still_flash
      | (intro x; refine Still.cut (s0 := s0) (x := x) ?_ ?_; (on_goal 1 => dsimp -zeta only [x]); (on_goal 2 => (intro _; clear_value x)))
      | (intro x; refine (fun (_ : Flash) => ?_) x; subst x) | (intro x; clear_value x) | lift_lets -underBinder
      | (intro s0) | split)

theorem noteContinuity_still {s0 s : State} {n : Nat} (hk : Still s0 s) :
    Still s0 (noteContinuity n s) := by
  unfold noteContinuity
  repeat' (
    first
      | with_reducible assumption | with_reducible exact Still.refl _ | with_reducible apply ite_still
      | fail_if_no_progress with_reducible apply still_upd
      | (intro x; refine Still.cut (s0 := s0) (x := x) ?_ ?_; (on_goal 1 => dsimp -zeta only [x]); (on_goal 2 => (intro _; clear_value x)))
      | (intro x; clear_value x) | lift_lets -underBinder | (intro s0) | split)

theorem pushFolio_still {s0 s : State} {n : Nat} {f : Folio} (hk : Still s0 s) :
    Still s0 (pushFolio n f s) := by
  unfold pushFolio
  repeat' (
    first
      | with_reducible assumption | with_reducible exact Still.refl _ | with_reducible apply setStream_still
      | with_reducible apply noteContinuity_still | with_reducible apply ite_still
      | fail_if_no_progress with_reducible apply still_upd
      | (intro x; refine Still.cut (s0 := s0) (x := x) ?_ ?_; (on_goal 1 => dsimp -zeta only [x]); (on_goal 2 => (intro _; clear_value x)))
      | (intro x; clear_value x) | lift_lets -underBinder | (intro s0) | split)

theorem shed_still {s0 s t : State} {n : Nat} (h : Still s0 s) (e : shed n s = some t) : Still s0 t := by
  unfold shed at e
  dsimp only at e
  split at e
  · injection e with e; rw [← e]; exact setStream_still h
  · cases e

theorem stallAt_still {s0 s : State} {n : Nat} {f : Folio} (hk : Still s0 s) :
    Still s0 (stallAt n f s) := by
  unfold stallAt
  repeat' (
    first
      | with_reducible assumption | with_reducible exact Still.refl _ | with_reducible apply setStream_still
      | fail_if_no_progress with_reducible apply still_upd
      | (intro x; refine Still.cut (s0 := s0) (x := x) ?_ ?_; (on_goal 1 => dsimp -zeta only [x]); (on_goal 2 => (intro _; clear_value x)))
      | (intro x; clear_value x) | lift_lets -underBinder | (intro s0))

theorem shedFor_still {need n k : Nat} {s0 s t : State} (h : Still s0 s) (e : shedFor need n k s = some t) : Still s0 t := by
  induction k generalizing s t with
  | zero => unfold shedFor at e; cases e
  | succ k ih =>
    unfold shedFor at e
    split at e
    · cases e
    · rename_i u hu
      have hk : Still s0 u := by
        split at hu
        · exact shed_still h hu
        · cases hu
      split at e
      · injection e with e; rw [← e]; exact hk
      · injection e with e
        rw [← e]
        cases f : shedFor need n k u with
        | none => exact hk
        | some w => exact ih hk f

theorem writeInto_still {s0 s : State} {kept n : Nat} {f : Folio} (h : Still s0 s) : Still s0 (writeInto kept n f s) := by
  unfold writeInto
  refine ite_still h (ite_still (pushFolio_still h) ?_)
  have k : Still s0 ((shedFor (f.slots + kept) n (stream s n).q.folios.length s).getD s) := by
    cases e : shedFor (f.slots + kept) n (stream s n).q.folios.length s with
    | none => exact h
    | some t => exact shedFor_still h e
  exact ite_still (pushFolio_still k) (stallAt_still k)

theorem writeFolio_still {s0 s : State} {n : Nat} {f : Folio} (hk : Still s0 s) :
    Still s0 (writeFolio n f s) := by
  unfold writeFolio
  repeat' (
    first
      | with_reducible assumption | with_reducible exact Still.refl _ | with_reducible apply writeInto_still
      | (intro s0))

theorem closeOpen_still {s0 s : State} {n : Nat} {flushed : Bool} (hk : Still s0 s) :
    Still s0 (closeOpen n flushed s) := by
  unfold closeOpen
  repeat' (
    first
      | with_reducible assumption | with_reducible exact Still.refl _ | with_reducible apply setStream_still
      | with_reducible apply writeFolio_still | with_reducible apply ite_still
      | fail_if_no_progress with_reducible apply still_upd
      | (intro x; refine Still.cut (s0 := s0) (x := x) ?_ ?_; (on_goal 1 => dsimp -zeta only [x]); (on_goal 2 => (intro _; clear_value x)))
      | (intro x; clear_value x) | lift_lets -underBinder | (intro s0) | split)

theorem append_still {s0 s : State} {n : Nat} {ftype : Nat} {i : Nat} {slot : Nat} {last : Nat} {bytes : Nat → List Byte} {flag : List Byte} (hk : Still s0 s) :
    Still s0 (append n ftype i slot last bytes flag s) := by
  unfold append
  repeat' (
    first
      | with_reducible assumption | with_reducible exact Still.refl _ | with_reducible apply setStream_still
      | with_reducible apply closeOpen_still | with_reducible apply ite_still
      | fail_if_no_progress with_reducible apply still_upd
      | (intro x; refine Still.cut (s0 := s0) (x := x) ?_ ?_; (on_goal 1 => dsimp -zeta only [x]); (on_goal 2 => (intro _; clear_value x)))
      | (intro x; clear_value x) | lift_lets -underBinder | (intro s0) | split)

theorem emitGroup_still {s0 s : State} {n : Nat} (hk : Still s0 s) :
    Still s0 (emitGroup n s) := by
  unfold emitGroup
  repeat' (
    first
      | with_reducible assumption | with_reducible exact Still.refl _ | with_reducible apply foldl_still
      | with_reducible apply setStream_still | with_reducible apply append_still
      | fail_if_no_progress with_reducible apply still_upd
      | (intro x; refine Still.cut (s0 := s0) (x := x) ?_ ?_; (on_goal 1 => dsimp -zeta only [x]); (on_goal 2 => (intro _; clear_value x)))
      | (intro x; clear_value x) | lift_lets -underBinder | (intro s0))

theorem cutOpen_still {s0 s : State} {n : Nat} (hk : Still s0 s) :
    Still s0 (cutOpen n s) := by
  unfold cutOpen
  repeat' (
    first
      | with_reducible assumption | with_reducible exact Still.refl _ | with_reducible apply closeOpen_still
      | with_reducible apply emitGroup_still | (intro s0))

theorem appendDense_still {s0 s : State} {n : Nat} {i : Nat} {l : List Sample} (hk : Still s0 s) :
    Still s0 (appendDense n i l s) := by
  unfold appendDense
  repeat' (
    first
      | with_reducible assumption | with_reducible exact Still.refl _ | with_reducible apply foldl_still
      | with_reducible apply append_still | with_reducible apply ite_still
      | (intro x; refine Still.cut (s0 := s0) (x := x) ?_ ?_; (on_goal 1 => dsimp -zeta only [x]); (on_goal 2 => (intro _; clear_value x)))
      | (intro x; clear_value x) | lift_lets -underBinder | (intro s0) | split)

theorem appendSparse_still {s0 s : State} {n : Nat} {i : Nat} {l : List Sample} (hk : Still s0 s) :
    Still s0 (appendSparse n i l s) := by
  unfold appendSparse
  repeat' (
    first
      | with_reducible assumption | with_reducible exact Still.refl _ | with_reducible apply foldl_still
      | with_reducible apply setStream_still | with_reducible apply append_still | with_reducible apply ite_still
      | fail_if_no_progress with_reducible apply still_upd
      | (intro x; refine Still.cut (s0 := s0) (x := x) ?_ ?_; (on_goal 1 => dsimp -zeta only [x]); (on_goal 2 => (intro _; clear_value x)))
      | (intro x; clear_value x) | lift_lets -underBinder | (intro s0) | split)

theorem appendMinMax_still {s0 s : State} {n : Nat} {i : Nat} {l : List Sample} (hk : Still s0 s) :
    Still s0 (appendMinMax n i l s) := by
  unfold appendMinMax
  repeat' (
    first
      | with_reducible assumption | with_reducible exact Still.refl _ | with_reducible apply foldl_still
      | with_reducible apply setStream_still | with_reducible apply emitGroup_still | with_reducible apply ite_still
      | fail_if_no_progress with_reducible apply still_upd
      | (intro x; refine Still.cut (s0 := s0) (x := x) ?_ ?_; (on_goal 1 => dsimp -zeta only [x]); (on_goal 2 => (intro _; clear_value x)))
      | (intro x; clear_value x) | lift_lets -underBinder | (intro s0) | split)

theorem appendSample_still {s0 s : State} {n : Nat} {i : Nat} {l : List Sample} (hk : Still s0 s) :
    Still s0 (appendSample n i l s) := by
  unfold appendSample
  repeat' (
    first
      | with_reducible assumption | with_reducible exact Still.refl _ | with_reducible apply appendDense_still
      | with_reducible apply appendSparse_still | with_reducible apply appendMinMax_still
      | with_reducible apply ite_still | (intro s0) | split)

theorem restate_still {s0 s : State} {n : Nat} (hk : Still s0 s) :
    Still s0 (restate n s) := by
  unfold restate
  repeat' (
    first
      | with_reducible assumption | with_reducible exact Still.refl _ | with_reducible apply setStream_still
      | fail_if_no_progress with_reducible apply still_upd
      | (intro x; refine Still.cut (s0 := s0) (x := x) ?_ ?_; (on_goal 1 => dsimp -zeta only [x]); (on_goal 2 => (intro _; clear_value x)))
      | (intro x; clear_value x) | lift_lets -underBinder | (intro s0))

theorem putGaps_still {s0 s : State} {kept : Nat} {n : Nat} {l : List GapRec} (hk : Still s0 s) :
    Still s0 (putGaps kept n l s) := by
  unfold putGaps
  repeat' (
    first
      | with_reducible assumption | with_reducible exact Still.refl _ | with_reducible apply foldl_still
      | with_reducible apply setStream_still | with_reducible apply writeInto_still
      | with_reducible apply cutOpen_still | with_reducible apply restate_still | with_reducible apply ite_still
      | fail_if_no_progress with_reducible apply still_upd
      | (intro x; refine Still.cut (s0 := s0) (x := x) ?_ ?_; (on_goal 1 => dsimp -zeta only [x]); (on_goal 2 => (intro _; clear_value x)))
      | (intro x; clear_value x) | lift_lets -underBinder | (intro s0) | split)

theorem writeDiscs_still {s0 s : State} {n : Nat} {fflags : Nat} {l : List DiscRec} (hk : Still s0 s) :
    Still s0 (writeDiscs n fflags l s) := by
  unfold writeDiscs
  repeat' (
    first
      | with_reducible assumption | with_reducible exact Still.refl _ | with_reducible apply setStream_still
      | with_reducible apply writeFolio_still | with_reducible apply cutOpen_still
      | with_reducible apply restate_still | with_reducible apply ite_still
      | fail_if_no_progress with_reducible apply still_upd
      | (intro x; refine Still.cut (s0 := s0) (x := x) ?_ ?_; (on_goal 1 => dsimp -zeta only [x]); (on_goal 2 => (intro _; clear_value x)))
      | (intro x; clear_value x) | lift_lets -underBinder | (intro s0) | split)

theorem dueDisc_still {s0 s : State} {n : Nat} {d : DiscRec} (hk : Still s0 s) :
    Still s0 (dueDisc n d s) := by
  unfold dueDisc
  repeat' (
    first
      | with_reducible assumption | with_reducible exact Still.refl _ | with_reducible apply setStream_still
      | fail_if_no_progress with_reducible apply still_upd
      | (intro x; refine Still.cut (s0 := s0) (x := x) ?_ ?_; (on_goal 1 => dsimp -zeta only [x]); (on_goal 2 => (intro _; clear_value x)))
      | (intro x; clear_value x) | lift_lets -underBinder | (intro s0))

theorem dueGap_still {s0 s : State} {n : Nat} {g : GapRec} (hk : Still s0 s) :
    Still s0 (dueGap n g s) := by
  unfold dueGap
  repeat' (
    first
      | with_reducible assumption | with_reducible exact Still.refl _ | with_reducible apply setStream_still
      | fail_if_no_progress with_reducible apply still_upd
      | (intro x; refine Still.cut (s0 := s0) (x := x) ?_ ?_; (on_goal 1 => dsimp -zeta only [x]); (on_goal 2 => (intro _; clear_value x)))
      | (intro x; clear_value x) | lift_lets -underBinder | (intro s0))

theorem freeFolios_still {s0 s : State} {n : Nat} (hk : Still s0 s) :
    Still s0 (freeFolios n s) := by
  unfold freeFolios
  repeat' (
    first
      | with_reducible assumption | with_reducible exact Still.refl _ | with_reducible apply setStream_still
      | with_reducible apply noteContinuity_still | with_reducible apply ite_still
      | fail_if_no_progress with_reducible apply still_upd
      | (intro x; refine Still.cut (s0 := s0) (x := x) ?_ ?_; (on_goal 1 => dsimp -zeta only [x]); (on_goal 2 => (intro _; clear_value x)))
      | (intro x; clear_value x) | lift_lets -underBinder | (intro s0) | split)

theorem stallEnds_still {s0 s t : State} {n : Nat} (h : Still s0 s) (e : stallEnds n s = some t) : Still s0 t := by
  unfold stallEnds at e
  split at e
  · injection e with e; rw [← e]; exact h
  · exact shedFor_still h e

theorem onLastRun_still {s0 s : State} {n : Nat} {f : State → State} (hf : ∀ t, Still t (f t)) (hk : Still s0 s) :
    Still s0 (onLastRun n f s) := by
  unfold onLastRun
  repeat' (
    first
      | with_reducible assumption | with_reducible exact Still.refl _ | with_reducible refine Still.trans ?_ (hf _)
      | with_reducible apply setStream_still | fail_if_no_progress with_reducible apply still_upd
      | (intro x; refine Still.cut (s0 := s0) (x := x) ?_ ?_; (on_goal 1 => dsimp -zeta only [x]); (on_goal 2 => (intro _; clear_value x)))
      | (intro x; clear_value x) | lift_lets -underBinder | (intro s0) | split)

theorem resumeRun_still {s0 s : State} {n : Nat} (hk : Still s0 s) :
    Still s0 (resumeRun n s) := by
  unfold resumeRun
  repeat' (
    first
      | with_reducible assumption | with_reducible exact Still.refl _ | with_reducible apply foldl_still
      | with_reducible apply setStream_still | with_reducible apply putGaps_still
      | with_reducible apply writeDiscs_still | fail_if_no_progress with_reducible apply still_upd
      | (intro x; refine Still.cut (s0 := s0) (x := x) ?_ ?_; (on_goal 1 => dsimp -zeta only [x]); (on_goal 2 => (intro _; clear_value x)))
      | (intro x; clear_value x) | lift_lets -underBinder | with_reducible refine stallEnds_still ?_ ‹_›
      | (intro s0) | split)

theorem resumeStall_still {s0 s : State} {n : Nat} (hk : Still s0 s) :
    Still s0 (resumeStall n s) := by
  unfold resumeStall
  repeat' (
    first
      | with_reducible assumption | with_reducible exact Still.refl _ | with_reducible apply onLastRun_still
      | with_reducible apply resumeRun_still | (intro s0))

/-! ### HostPort -/

theorem signal_still {s0 s : State} {v : Nat} (hk : Still s0 s) :
    Still s0 (signal v s) := by
  unfold signal
  repeat' (
    first
      | with_reducible assumption | with_reducible exact Still.refl _ | with_reducible apply emit_still
      | with_reducible apply setMsix_still | with_reducible apply ite_still
      | fail_if_no_progress with_reducible apply still_upd
      | (intro x; refine Still.cut (s0 := s0) (x := x) ?_ ?_; (on_goal 1 => dsimp -zeta only [x]); (on_goal 2 => (intro _; clear_value x)))
      | (intro x; clear_value x) | lift_lets -underBinder | (intro s0) | split)

theorem regError_still {s0 s : State} {off : Nat} (hk : Still s0 s) :
    Still s0 (regError off s) := by
  unfold regError
  repeat' (
    first
      | with_reducible assumption | with_reducible exact Still.refl _ | with_reducible apply signal_still
      | with_reducible apply ite_still | fail_if_no_progress with_reducible apply still_upd
      | (intro x; refine Still.cut (s0 := s0) (x := x) ?_ ?_; (on_goal 1 => dsimp -zeta only [x]); (on_goal 2 => (intro _; clear_value x)))
      | (intro x; clear_value x) | lift_lets -underBinder | (intro s0) | split)

theorem ringVector_still {s0 s : State} {r : Nat} (hk : Still s0 s) :
    Still s0 (ringVector r s) := by
  unfold ringVector
  repeat' (
    first
      | with_reducible assumption | with_reducible exact Still.refl _ | with_reducible apply signal_still
      | (intro s0))

theorem complete_still {s0 s : State} {r : Nat} (hk : Still s0 s) :
    Still s0 (complete r s) := by
  unfold complete
  repeat' (
    first
      | with_reducible assumption | with_reducible exact Still.refl _ | with_reducible apply setRing_still
      | with_reducible apply ringVector_still | with_reducible apply ite_still
      | fail_if_no_progress with_reducible apply still_upd
      | (intro x; refine Still.cut (s0 := s0) (x := x) ?_ ?_; (on_goal 1 => dsimp -zeta only [x]); (on_goal 2 => (intro _; clear_value x)))
      | (intro x; clear_value x) | lift_lets -underBinder | (intro s0) | split)

theorem dropReplies_still {s0 s : State} {id : Nat} (hk : Still s0 s) :
    Still s0 (dropReplies id s) := by
  unfold dropReplies
  repeat' (
    first
      | with_reducible assumption | with_reducible exact Still.refl _ | with_reducible apply ite_still
      | fail_if_no_progress with_reducible apply still_upd
      | (intro x; refine Still.cut (s0 := s0) (x := x) ?_ ?_; (on_goal 1 => dsimp -zeta only [x]); (on_goal 2 => (intro _; clear_value x)))
      | (intro x; clear_value x) | lift_lets -underBinder | (intro s0) | split)

theorem setRingQ_still {s0 s : State} {r : Nat} {q : FolioQ} (hk : Still s0 s) :
    Still s0 (setRingQ r q s) := by
  unfold setRingQ
  repeat' (
    first
      | with_reducible assumption | with_reducible exact Still.refl _ | with_reducible apply setStream_still
      | with_reducible apply ite_still | fail_if_no_progress with_reducible apply still_upd
      | (intro x; refine Still.cut (s0 := s0) (x := x) ?_ ?_; (on_goal 1 => dsimp -zeta only [x]); (on_goal 2 => (intro _; clear_value x)))
      | (intro x; clear_value x) | lift_lets -underBinder | (intro s0) | split)

theorem haltRing_still {s0 s : State} {r : Nat} {code : Nat} {offset : Nat} {addr : Nat} (hk : Still s0 s) :
    Still s0 (haltRing r code offset addr s) := by
  unfold haltRing
  repeat' (
    first
      | with_reducible assumption | with_reducible exact Still.refl _ | with_reducible apply when_still
      | with_reducible apply setRing_still | with_reducible apply raise_still | with_reducible apply signal_still
      | with_reducible apply ringVector_still | with_reducible apply setRingQ_still
      | fail_if_no_progress with_reducible apply still_upd
      | (intro x; refine Still.cut (s0 := s0) (x := x) ?_ ?_; (on_goal 1 => dsimp -zeta only [x]); (on_goal 2 => (intro _; clear_value x)))
      | (intro x; clear_value x) | lift_lets -underBinder | (intro s0))

theorem unhalt_still {s0 s : State} {r : Nat} (hk : Still s0 s) :
    Still s0 (unhalt r s) := by
  unfold unhalt
  repeat' (
    first
      | with_reducible assumption | with_reducible exact Still.refl _ | with_reducible apply clearCause_still
      | (intro s0))

theorem transfer_still {s0 s : State} {r : Nat} {d : Descriptor} {buf : List Byte} {more : Bool} {status : Nat} {seq : Nat} {bytes : Nat} (hk : Still s0 s) :
    Still s0 (transfer r d buf more status seq bytes s).1 := by
  unfold transfer
  repeat' (
    first
      | with_reducible assumption | with_reducible exact Still.refl _ | with_reducible apply emitAll_still
      | with_reducible apply setRing_still | with_reducible apply complete_still
      | with_reducible apply haltRing_still | with_reducible apply ite_still
      | fail_if_no_progress with_reducible apply still_upd
      | (intro x; refine Still.cut (s0 := s0) (x := x) ?_ ?_; (on_goal 1 => dsimp -zeta only [x]); (on_goal 2 => (intro _; clear_value x)))
      | (intro x; clear_value x) | lift_lets -underBinder | dsimp -zeta only | (intro s0) | split)

theorem settle_still {s0 s : State} {r : Nat} (hk : Still s0 s) :
    Still s0 (settle r s) := by
  unfold settle
  repeat' (
    first
      | with_reducible assumption | with_reducible exact Still.refl _ | with_reducible apply setRing_still
      | with_reducible apply ite_still | fail_if_no_progress with_reducible apply still_upd
      | (intro x; refine Still.cut (s0 := s0) (x := x) ?_ ?_; (on_goal 1 => dsimp -zeta only [x]); (on_goal 2 => (intro _; clear_value x)))
      | (intro x; clear_value x) | lift_lets -underBinder | (intro s0) | split)

theorem deliverReply_still {s0 s : State} (ds : List Descriptor) (h : Still s0 s) : Still s0 (deliverReply ds s) := by
  induction ds generalizing s with
  | nil => exact h
  | cons d r ih =>
    cases hb : s.host.backlog with
    | nil => unfold deliverReply; simp only [hb]; exact h
    | cons b rest =>
      unfold deliverReply; simp only [hb]
      refine ite_still h (ite_still (transfer_still h) (ite_still (ih ?_) ?_))
      · exact (transfer_still h).trans (still_upd _ _ _ _ _ _ (Still.refl _))
      · exact (transfer_still h).trans (still_upd _ _ _ _ _ _ (Still.refl _))

theorem enableRing_still {s0 s : State} {r : Nat} {log2 : Nat} (hk : Still s0 s) :
    Still s0 (enableRing r log2 s) := by
  unfold enableRing
  repeat' (
    first
      | with_reducible assumption | with_reducible exact Still.refl _ | with_reducible apply setRing_still
      | with_reducible apply ite_still | fail_if_no_progress with_reducible apply still_upd
      | (intro x; refine Still.cut (s0 := s0) (x := x) ?_ ?_; (on_goal 1 => dsimp -zeta only [x]); (on_goal 2 => (intro _; clear_value x)))
      | (intro x; clear_value x) | lift_lets -underBinder | (intro s0) | split)

theorem disableRing_still {s0 s : State} {r : Nat} (hk : Still s0 s) :
    Still s0 (disableRing r s) := by
  unfold disableRing
  repeat' (
    first
      | with_reducible assumption | with_reducible exact Still.refl _ | with_reducible apply setRing_still
      | with_reducible apply unhalt_still | with_reducible apply settle_still | with_reducible apply ite_still
      | fail_if_no_progress with_reducible apply still_upd
      | (intro x; refine Still.cut (s0 := s0) (x := x) ?_ ?_; (on_goal 1 => dsimp -zeta only [x]); (on_goal 2 => (intro _; clear_value x)))
      | (intro x; clear_value x) | lift_lets -underBinder | (intro s0) | split)

theorem resumeRing_still {s0 s : State} {r : Nat} (hk : Still s0 s) :
    Still s0 (resumeRing r s) := by
  unfold resumeRing
  repeat' (
    first
      | with_reducible assumption | with_reducible exact Still.refl _ | with_reducible apply setRing_still
      | with_reducible apply unhalt_still | with_reducible apply ite_still
      | fail_if_no_progress with_reducible apply still_upd
      | (intro x; refine Still.cut (s0 := s0) (x := x) ?_ ?_; (on_goal 1 => dsimp -zeta only [x]); (on_goal 2 => (intro _; clear_value x)))
      | (intro x; clear_value x) | lift_lets -underBinder | (intro s0) | split)

theorem discardInto_still {s0 s : State} {r : Nat} {run : List Folio} (hk : Still s0 s) :
    Still s0 (discardInto r run s) := by
  unfold discardInto
  repeat' (
    first
      | with_reducible assumption | with_reducible exact Still.refl _ | with_reducible apply setStream_still
      | with_reducible apply sramDrain_still | with_reducible apply restate_still
      | with_reducible apply setRingQ_still | with_reducible apply ite_still
      | fail_if_no_progress with_reducible apply still_upd
      | (intro x; refine Still.cut (s0 := s0) (x := x) ?_ ?_; (on_goal 1 => dsimp -zeta only [x]); (on_goal 2 => (intro _; clear_value x)))
      | (intro x; clear_value x) | lift_lets -underBinder | (intro s0) | split)

theorem discardRing_still {s0 s : State} {r : Nat} (hk : Still s0 s) :
    Still s0 (discardRing r s) := by
  unfold discardRing
  repeat' (
    first
      | with_reducible assumption | with_reducible exact Still.refl _ | with_reducible apply issueNote_still
      | with_reducible apply regError_still | with_reducible apply resumeRing_still
      | with_reducible apply discardInto_still | with_reducible apply ite_still
      | (intro x; refine Still.cut (s0 := s0) (x := x) ?_ ?_; (on_goal 1 => dsimp -zeta only [x]); (on_goal 2 => (intro _; clear_value x)))
      | (intro x; clear_value x) | lift_lets -underBinder | (intro s0) | split)

theorem windowControl_still {s0 s : State} {w : Nat} {v : Nat} {off : Nat} (hk : Still s0 s) :
    Still s0 (windowControl w v off s) := by
  unfold windowControl
  repeat' (
    first
      | with_reducible assumption | with_reducible exact Still.refl _ | with_reducible apply setWindow_still
      | with_reducible apply regError_still | with_reducible apply ite_still
      | fail_if_no_progress with_reducible apply still_upd
      | (intro x; refine Still.cut (s0 := s0) (x := x) ?_ ?_; (on_goal 1 => dsimp -zeta only [x]); (on_goal 2 => (intro _; clear_value x)))
      | (intro x; clear_value x) | lift_lets -underBinder | (intro s0) | split)

theorem windowBase_still {s0 s : State} {w : Nat} {host : Bool} {v : Nat} {off : Nat} (hk : Still s0 s) :
    Still s0 (windowBase w host v off s) := by
  unfold windowBase
  repeat' (
    first
      | with_reducible assumption | with_reducible exact Still.refl _ | with_reducible apply setWindow_still
      | with_reducible apply regError_still | with_reducible apply ite_still
      | fail_if_no_progress with_reducible apply still_upd
      | (intro x; refine Still.cut (s0 := s0) (x := x) ?_ ?_; (on_goal 1 => dsimp -zeta only [x]); (on_goal 2 => (intro _; clear_value x)))
      | (intro x; clear_value x) | lift_lets -underBinder | (intro s0) | split)

theorem capture_still {s0 s : State} {off : Nat} (hk : Still s0 s) :
    Still s0 (capture off s) := by
  unfold capture
  repeat' (
    first
      | with_reducible assumption | with_reducible exact Still.refl _ | with_reducible apply setRing_still
      | with_reducible apply setWindow_still | with_reducible apply ite_still
      | fail_if_no_progress with_reducible apply still_upd
      | (intro x; refine Still.cut (s0 := s0) (x := x) ?_ ?_; (on_goal 1 => dsimp -zeta only [x]); (on_goal 2 => (intro _; clear_value x)))
      | (intro x; clear_value x) | lift_lets -underBinder | (intro s0) | split)

theorem barRead_still {s0 s : State} {off : Nat} {size : Nat} (hk : Still s0 s) :
    Still s0 (barRead off size s) := by
  unfold barRead
  repeat' (
    first
      | with_reducible assumption | with_reducible exact Still.refl _ | with_reducible apply emit_still
      | with_reducible apply capture_still | with_reducible apply ite_still
      | (intro x; refine Still.cut (s0 := s0) (x := x) ?_ ?_; (on_goal 1 => dsimp -zeta only [x]); (on_goal 2 => (intro _; clear_value x)))
      | (intro x; clear_value x) | lift_lets -underBinder | (intro s0) | split)

theorem windowWrite_still {s0 s : State} {w : Nat} {o : Nat} {v : Nat} {off : Nat} (hk : Still s0 s) :
    Still s0 (windowWrite w o v off s) := by
  unfold windowWrite
  repeat' (
    first
      | with_reducible assumption | with_reducible exact Still.refl _ | with_reducible apply setWindow_still
      | with_reducible apply regError_still | with_reducible apply windowControl_still
      | with_reducible apply windowBase_still | with_reducible apply ite_still
      | fail_if_no_progress with_reducible apply still_upd
      | (intro x; refine Still.cut (s0 := s0) (x := x) ?_ ?_; (on_goal 1 => dsimp -zeta only [x]); (on_goal 2 => (intro _; clear_value x)))
      | (intro x; clear_value x) | lift_lets -underBinder | (intro s0) | split)

theorem unmask_still {s0 s : State} {v : Nat} (hk : Still s0 s) :
    Still s0 (unmask v s) := by
  unfold unmask
  repeat' (
    first
      | with_reducible assumption | with_reducible exact Still.refl _ | with_reducible apply emit_still
      | with_reducible apply setMsix_still | with_reducible apply ite_still
      | fail_if_no_progress with_reducible apply still_upd
      | (intro x; refine Still.cut (s0 := s0) (x := x) ?_ ?_; (on_goal 1 => dsimp -zeta only [x]); (on_goal 2 => (intro _; clear_value x)))
      | (intro x; clear_value x) | lift_lets -underBinder | (intro s0) | split)

theorem msixWrite_still {s0 s : State} {v : Nat} {o : Nat} {x : Nat} {off : Nat} (hk : Still s0 s) :
    Still s0 (msixWrite v o x off s) := by
  unfold msixWrite
  repeat' (
    first
      | with_reducible assumption | with_reducible exact Still.refl _ | with_reducible apply setMsix_still
      | with_reducible apply regError_still | with_reducible apply unmask_still | with_reducible apply ite_still
      | fail_if_no_progress with_reducible apply still_upd
      | (intro x; refine Still.cut (s0 := s0) (x := x) ?_ ?_; (on_goal 1 => dsimp -zeta only [x]); (on_goal 2 => (intro _; clear_value x)))
      | (intro x; clear_value x) | lift_lets -underBinder | (intro s0) | split)

theorem recoveryGo_still {s0 s : State} {target : Nat} (hk : Still s0 s) :
    Still s0 (recoveryGo target s) := by
  unfold recoveryGo
  repeat' (
    first
      | with_reducible assumption | with_reducible exact Still.refl _ | with_reducible apply regError_still
      | with_reducible apply ite_still | fail_if_no_progress with_reducible apply still_upd
      | (intro x; refine Still.cut (s0 := s0) (x := x) ?_ ?_; (on_goal 1 => dsimp -zeta only [x]); (on_goal 2 => (intro _; clear_value x)))
      | (intro x; clear_value x) | lift_lets -underBinder | (intro s0) | split)

theorem recoveryWrite_still {s0 s : State} {o : Nat} {v : Nat} {off : Nat} (hk : Still s0 s) :
    Still s0 (recoveryWrite o v off s) := by
  unfold recoveryWrite
  repeat' (
    first
      | with_reducible assumption | with_reducible exact Still.refl _ | with_reducible apply regError_still
      | with_reducible apply recoveryGo_still | with_reducible apply ite_still
      | fail_if_no_progress with_reducible apply still_upd
      | (intro x; refine Still.cut (s0 := s0) (x := x) ?_ ?_; (on_goal 1 => dsimp -zeta only [x]); (on_goal 2 => (intro _; clear_value x)))
      | (intro x; clear_value x) | lift_lets -underBinder | (intro s0) | split)

theorem packetDone_still {s0 s : State} {d : Descriptor} (hk : Still s0 s) :
    Still s0 (packetDone d s) := by
  unfold packetDone
  repeat' (
    first
      | with_reducible assumption | with_reducible exact Still.refl _ | with_reducible apply transfer_still
      | with_reducible apply ite_still
      | (intro x; refine Still.cut (s0 := s0) (x := x) ?_ ?_; (on_goal 1 => dsimp -zeta only [x]); (on_goal 2 => (intro _; clear_value x)))
      | (intro x; refine Still.cut (s0 := s0) (x := x.1) ?_ ?_; (on_goal 1 => dsimp -zeta only [x]); (on_goal 2 => (intro _; clear_value x)))
      | (intro x; clear_value x) | lift_lets -underBinder | (intro s0) | split)

theorem replyDone_still {s0 s : State} {ds : List Descriptor} (hk : Still s0 s) :
    Still s0 (replyDone ds s) := by
  unfold replyDone
  repeat' (
    first
      | with_reducible assumption | with_reducible exact Still.refl _ | with_reducible apply settle_still
      | with_reducible apply deliverReply_still | (intro s0))

theorem served_still {s0 s : State} {r : Nat} (hk : Still s0 s) :
    Still s0 (served r s) := by
  unfold served
  repeat' (
    first
      | with_reducible assumption | with_reducible exact Still.refl _ | with_reducible apply ite_still
      | fail_if_no_progress with_reducible apply still_upd
      | (intro x; refine Still.cut (s0 := s0) (x := x) ?_ ?_; (on_goal 1 => dsimp -zeta only [x]); (on_goal 2 => (intro _; clear_value x)))
      | (intro x; clear_value x) | lift_lets -underBinder | (intro s0) | split)

theorem ringFault_still {s0 s : State} {r : Nat} {code : Nat} {offset : Nat} {addr : Nat} (hk : Still s0 s) :
    Still s0 (ringFault r code offset addr s) := by
  unfold ringFault
  repeat' (
    first
      | with_reducible assumption | with_reducible exact Still.refl _ | with_reducible apply haltRing_still
      | with_reducible apply ite_still | (intro s0) | split)

theorem windowDisable_still {s0 s : State} {w : Nat} {busy : Bool} (hk : Still s0 s) :
    Still s0 (windowDisable w busy s) := by
  unfold windowDisable
  repeat' (
    first
      | with_reducible assumption | with_reducible exact Still.refl _ | with_reducible apply setWindow_still
      | with_reducible apply ite_still | fail_if_no_progress with_reducible apply still_upd
      | (intro x; refine Still.cut (s0 := s0) (x := x) ?_ ?_; (on_goal 1 => dsimp -zeta only [x]); (on_goal 2 => (intro _; clear_value x)))
      | (intro x; clear_value x) | lift_lets -underBinder | (intro s0) | split)

theorem windowIdle_still {s0 s : State} {w : Nat} (hk : Still s0 s) :
    Still s0 (windowIdle w s) := by
  unfold windowIdle
  repeat' (
    first
      | with_reducible assumption | with_reducible exact Still.refl _ | with_reducible apply setWindow_still
      | with_reducible apply signal_still | with_reducible apply ite_still
      | fail_if_no_progress with_reducible apply still_upd
      | (intro x; refine Still.cut (s0 := s0) (x := x) ?_ ?_; (on_goal 1 => dsimp -zeta only [x]); (on_goal 2 => (intro _; clear_value x)))
      | (intro x; clear_value x) | lift_lets -underBinder | (intro s0) | split)

theorem moderation_still {s0 s : State} {r : Nat} (hk : Still s0 s) :
    Still s0 (moderation r s) := by
  unfold moderation
  repeat' (
    first
      | with_reducible assumption | with_reducible exact Still.refl _ | with_reducible apply setRing_still
      | with_reducible apply ringVector_still | with_reducible apply ite_still
      | fail_if_no_progress with_reducible apply still_upd
      | (intro x; refine Still.cut (s0 := s0) (x := x) ?_ ?_; (on_goal 1 => dsimp -zeta only [x]); (on_goal 2 => (intro _; clear_value x)))
      | (intro x; clear_value x) | lift_lets -underBinder | (intro s0) | split)

end Sys2Proof.Machine
end

