-- ==== Sys2Proof/Laws/Reports.lean ====
section
/-! SUPPORT. What follows from a difference of reports alone, and induction over the steps of `forAll`. -/

namespace Sys2Proof.Machine

/-- What every step of a loop keeps, the loop keeps. -/
theorem forAll_ind {α : Type} {P : State → Prop} {f : α → State → State} (l : List α) (hf : ∀ x t, P t → P (f x t))
    {s : State} (h : P s) : P (forAll l f s) := by
  unfold forAll
  induction l generalizing s with
  | nil => exact h
  | cons x r ih => exact ih (hf x s h)

theorem forAll_nil {α : Type} (f : α → State → State) (s : State) : forAll [] f s = s := rfl

theorem forAll_cons {α : Type} (x : α) (l : List α) (f : α → State → State) (s : State) :
    forAll (x :: l) f s = forAll l f (f x s) := rfl

/-- Of the start's registers only the start count follows the sequence numbers. -/
theorem Still.boot_eq {s t : State} (h : Still s t) : t.boot = { s.boot with startCount := t.boot.startCount } := by
  have e := h.boot
  cases hb : t.boot; cases hs : s.boot; rw [hb, hs] at e; simp at e ⊢; exact e

/-- Of flash only the journal and what was last written. -/
theorem Still.flash_eq {s t : State} (h : Still s t) : t.flash = { s.flash with journal := t.flash.journal, last := t.flash.last } := by
  have e := h.flash
  cases hb : t.flash; cases hs : s.flash; rw [hb, hs] at e; simp at e ⊢; exact e

/-- A stage is reached (02 R42). -/
theorem stageReached_still (n : Nat) (s : State) :
    Still { s with boot.stage := n, boot.hold := 0 } (stageReached n s) := by
  unfold stageReached
  exact clearCause_still (Still.refl _)

end Sys2Proof.Machine
end

