-- ==== Sys2Proof/Laws/Serve.lean ====
section
/-! SUPPORT. A packet that passes every check runs its command. -/

namespace Sys2Proof.Machine

/-- What `serveAt` does with a packet that passes the twelve checks, its grid alignment among them (13 R327, R345). -/
theorem serveAt_accepted {op : Nat} {p : Packet} {need : Req → State → Nat} {ok : Req → State → Bool} {v : Session} {s : State}
    (aligned : Req → State → Bool) (body : Req → State → State) (h : Accepted op p need ok v s)
    (ha : aligned (request op p v s) (seenState p v s) = false) :
    receive op p (serveAt aligned op need ok body) s = body (request op p v s) (takenState p v s) := by
  obtain ⟨⟨hf, hr, hb⟩, hl, hs, ht, hj, hM, hm, row, hrow, hd, hn, hst, hok, hlate, how, hjf⟩ := h
  unfold receive
  rw [if_pos ⟨hf, hr, hb⟩]
  unfold serveAt
  unfold packetSession at hs
  simp only [hl, hs, ht, not_true_eq_false, if_false, Bool.false_eq_true]
  have h3 : judgeTag v p.tag ≠ 3 := by omega
  have h2 : judgeTag v p.tag ≠ 2 := by omega
  rw [if_neg h3, if_neg h2, if_neg (by simp [hM, hm])]
  simp only [hrow]
  rw [if_neg (by simpa using hd)]
  unfold passChecks
  have e : mkReq op p v (onSession v.id (fun x => { x with lastPacket := s.now }) s) = mkReq op p v s := rfl
  simp only [e]
  have et : onSession v.id (fun x => { seeTag x p.tag with owed := (mkReq op p v s).tag :: x.owed })
      (onSession v.id (fun x => { x with lastPacket := s.now }) s) = seenState p v s := rfl
  simp only [et]
  rw [if_neg (fun k => k hn), if_neg (fun k => k hst), if_neg (fun k => k hok)]
  have el : isLate (mkReq op p v s) (seenState p v s) = lateAt op p v s := rfl
  have er : (if lateAt op p v s = true then
      { mkReq op p v s with ranLate := true, ranAt := stampNow (seenState p v s), applyAt := none } else mkReq op p v s)
      = request op p v s := rfl
  simp only [el]
  rw [er, ha, Bool.or_false]
  have c1 : ¬ ((lateAt op p v s && !(mkReq op p v s).runNow) = true) := by
    rw [Bool.and_eq_true]; intro c; exact hlate ⟨c.1, by simpa using c.2⟩
  rw [if_neg c1]
  have c2 : ¬ 64 < (((session? (onSession v.id (fun x => { x with pending := none }) (seenState p v s)) v.id).map
      (·.owed.length)).getD 0) := how
  rw [if_neg c2]
  have ro : (request op p v s).opcode = op := by unfold request; dsimp only; split <;> rfl
  rw [ro]
  have c3 : ¬ ((row.journaled && (onSession v.id (fun x => { x with pending := none }) (seenState p v s)).jrn.failed
      && decide (op ≠ 0x0B04)) = true) := by
    simp only [Bool.and_eq_true, decide_eq_true_eq]
    intro c; exact hjf ⟨c.1.1, c.1.2, c.2⟩
  rw [if_neg c3]
  rfl

/-- What `serve` does with a packet that passes the twelve checks (13 R327). -/
theorem serve_accepted {op : Nat} {p : Packet} {need : Req → State → Nat} {ok : Req → State → Bool} {v : Session} {s : State}
    (body : Req → State → State) (h : Accepted op p need ok v s) :
    receive op p (serve op need ok body) s = body (request op p v s) (takenState p v s) :=
  serveAt_accepted (fun _ _ => false) body h rfl

end Sys2Proof.Machine
end

