-- ==== Sys2Proof/Tests/Slice0.lean ====
section
/-! SUPPORT. Tests of single commands and of the checks of well-formedness, and for every clause with hypotheses a state and
operands that meet them. -/

set_option maxRecDepth 8000
set_option linter.unusedVariables false

namespace Sys2Proof.Tests

set_option Elab.async false

open Sys2Proof Sys2Proof.Machine

/-! ### States and packets of the tests -/

/-- The start of a hub in Crown. -/
def crownBoot : Boot :=
  { (default : Boot) with inReset := false, rails := 0x1FF, cause := 1, release := some 0, stage := 3, image := 1, safeOk := true,
                          storeMode := 1, startCount := 1, refDone := true, fwRuns := true, lpDone := true,
                          trunkAt := some (300 * msU), modsOn := true, crownAt := some (2 * secU) }

/-- A session of version 2.3 on PCIe with the given role. -/
def sess (role : Nat) : Session :=
  { (default : Session) with id := 1, port := 0, major := 2, minor := 3, role := role, maxReply := 8192 }

/-- A hub with two quires, ten seconds after reset, in Crown, its link up and RING0 active, with one session. -/
def crown : State :=
  { State.reset with
    part := { PartId.init with quires := 2 }, now := 10 * secU, boot := crownBoot,
    host := { (default : HostPort) with linkUp := true, seenL0 := true, width := 4, gt := 4, busMaster := true,
                                         rings := [(0, { (default : Ring) with en := true, state := 1 })] },
    time := { (default : TimeS) with rawStart := some 0 },
    quires := [(0, { (default : Quire) with running := true }), (1, { (default : Quire) with running := true })],
    cz := { (default : Cuzan) with sessions := [sess 5] } }

/-- That hub with ETH0 up and speaking IPv4. -/
def ported : State :=
  { crown with lanes := [(4, { (default : Lane) with state := 5 })], cfg := [((0x0A03, 0, 0), 0x80000000)] }

/-- A packet of that session. -/
def pkt (l : List Byte) : Packet :=
  { port := 0, source := [], srcPort := 0, major := 2, minor := 3, tag := 1, paramLen := l.length, session := 1, flags := 0,
    params := l, trailer := [], bytes := 16 + l.length }

/-- The checks of a packet, evaluated. -/
def accepts (op : Nat) (p : Packet) (need : Req → State → Nat) (ok : Req → State → Bool) (v : Session) (s : State) : Bool :=
  decide (takesPackets p s) && lengthOk p && decide (packetSession p s = some v)
    && !((v.trailer && !bit 3 p.flags) || (bit 3 p.flags && hmac v.key (packetBytes op p) != p.trailer))
    && decide (judgeTag v p.tag ≤ 1 ∧ p.major = v.major ∧ p.minor = v.minor)
    && match opRow op with
      | none => false
      | some row => decide (commandOk row op p need ok v s)

theorem accepted_of {op : Nat} {p : Packet} {need : Req → State → Nat} {ok : Req → State → Bool} {v : Session} {s : State}
    (h : accepts op p need ok v s = true) : Accepted op p need ok v s := by
  unfold accepts at h
  simp only [Bool.and_eq_true, decide_eq_true_eq, Bool.not_eq_true'] at h
  obtain ⟨⟨⟨⟨⟨h1, h2⟩, h3⟩, h4⟩, h5⟩, h6⟩ := h
  refine ⟨h1, h2, h3, h4, h5.1, h5.2.1, h5.2.2, ?_⟩
  cases hr : opRow op with
  | none => rw [hr] at h6; simp at h6
  | some row => rw [hr] at h6; exact ⟨row, rfl, of_decide_eq_true h6⟩

/-! ### Well-formedness: a term that each check refuses -/

theorem test_wf_quire : Instr.wf (.drainEdge 0 7) = false := by decide
theorem test_wf_channel : Instr.wf (.calAgeTrigger 0 896) = false := by decide
theorem test_wf_group : Instr.wf (.reversalEdge 0 224) = false := by decide
theorem test_wf_ring : Instr.wf (.ringResume 0 32) = false := by decide
theorem test_wf_stream : Instr.wf (.fadeEnd 0 3) = false ∧ Instr.wf (.fadeEnd 0 32) = false := by decide
theorem test_wf_window : Instr.wf (.windowBusyClear 0 64) = false := by decide
theorem test_wf_pair : Instr.wf (.degradedTimerExpiry 0 64) = false := by decide
theorem test_wf_lane : Instr.wf (.laneLockLoss 0 8) = false := by decide
theorem test_wf_endpoint : Instr.wf (.skaingTimeSend 0 2) = false := by decide
theorem test_wf_port : Instr.wf (.ptpMessageSend 0 2 0) = false := by decide
theorem test_wf_unit : Instr.wf (.iuWindowEnd 0 4) = false := by decide
theorem test_wf_sequencer : Instr.wf (.sequencerEvaluate 0 8) = false := by decide
theorem test_wf_rail : Instr.wf (.powerOn 0 0 true) = false ∧ Instr.wf (.brownout 0 10 true) = false := by decide
theorem test_wf_source : Instr.wf (.sourceLost 0 0) = false ∧ Instr.wf (.sourceLost 0 5) = false := by decide
theorem test_wf_strap : Instr.wf (.resetRelease 0 0 4 [] true false) = false := by decide
theorem test_wf_rate : Instr.wf (.lpddr5TrainingDone 0 3 0) = false := by decide
theorem test_wf_stage : Instr.wf (.stageDeadlineOverrun 0 0) = false ∧ Instr.wf (.stageDeadlineOverrun 0 4) = false := by decide
theorem test_wf_management : Instr.wf (.mgmtRead 0 128 0 1 false false) = false
    ∧ Instr.wf (.mgmtRead 0 0 256 1 false false) = false := by decide
theorem test_wf_outputs : Instr.wf (.testPulseOpen 0 0 0 [0, 0, 0]) = false := by decide
theorem test_wf_raw : Instr.wf (.witnessVisitJudge 0 0 (2 ^ 31)) = false
    ∧ Instr.wf (.witnessVisitJudge 0 0 (-2 ^ 31 - 1)) = false := by decide
theorem test_wf_modulator : Instr.wf (.modulatorEndLevelReset 0 0 130 16) = false := by decide
theorem test_wf_word16 : Instr.wf (.injectComplete 0 65536) = false := by decide
theorem test_wf_word32 : Instr.wf (.sessionKeepaliveExpiry 0 (2 ^ 32)) = false := by decide
theorem test_wf_word64 : Instr.wf (.ringAckWrite 0 4 (2 ^ 64)) = false := by decide
theorem test_wf_bar : Instr.wf (.bar0LoRead 0 65536 4) = false ∧ Instr.wf (.bar0LoRead 0 0 2) = false := by decide
theorem test_wf_frame : Instr.wf (.stitchFrameReceive 0 default) = false := by decide
theorem test_wf_phase : Instr.wf (.ptpMessageReceive 0 0 0 153 0 []) = false := by decide
theorem test_wf_transport : Instr.wf (.ptpMessageReceive 0 0 0 0 3 []) = false := by decide
theorem test_wf_pin : Instr.wf (.evtEdgeStamp 0 8 true 0) = false := by decide
theorem test_wf_group_port : Instr.wf (.groupMessageReceive 0 4 0 [] [] [] true) = false := by decide
theorem test_wf_codeword : Instr.wf (.dmaStagingRead 0 4 0 0 [{ copy := 2, word := 0 }]) = false
    ∧ Instr.wf (.dmaStagingRead 0 4 0 0 [{ copy := 0, word := 16 }]) = false := by decide
theorem test_wf_descriptor : Instr.wf (.ringTransferComplete 0 4 [{ addr := 0, len := 0, dflags := 256, reserved := 0 }]) = false := by
  decide
theorem test_wf_fault_code : Instr.wf (.ringFault 0 4 0 0 0) = false ∧ Instr.wf (.ringFault 0 4 8 0 0) = false := by decide
theorem test_wf_ring_size : Instr.wf (.ringEnable 0 4 16) = false := by decide
theorem test_wf_window_size : Instr.wf (.windowEnable 0 0 true true 64) = false := by decide
theorem test_wf_target : Instr.wf (.recoveryGo 0 4) = false := by decide
theorem test_wf_scan : Instr.wf (.eyeScanComplete 0 0 []) = false := by decide
theorem test_wf_members : Instr.wf (.comparisonComplete 0 0 []) = false := by decide
theorem test_wf_rate_range : Instr.wf (.plannerDue 0 0 5) = false := by decide
theorem test_wf_digest : Instr.wf (.ucodeLoadDone 0 0 []) = false := by decide
theorem test_wf_safety_group : Instr.wf (.tripToggleEdge 0 4) = false := by decide
theorem test_wf_kind : Instr.wf (.ptpMessageSend 0 0 16) = false := by decide
theorem test_wf_mac : Instr.wf (.ethArpNdEcho 0 0 0 [1] [] [] []) = false := by decide
theorem test_wf_coalesced : Instr.wf (.coalesceWindowEnd 0 65536 0) = false ∧ Instr.wf (.coalesceWindowEnd 0 0 7) = false := by decide
theorem test_wf_packet : Instr.wf (.sessionPing 0 { pkt [] with port := 3 }) = false
    ∧ Instr.wf (.sessionPing 0 { pkt [] with port := 1, source := [1] }) = false
    ∧ Instr.wf (.sessionPing 0 { pkt [] with trailer := [1] }) = false ∧ Instr.wf (.sessionPing 0 { pkt [] with tag := 65536 }) = false
    ∧ Instr.wf (.sessionPing 0 { pkt [] with major := 256 }) = false := by decide
theorem test_wf_recovery : Instr.wf (.recoveryDone 0 (List.replicate 4194305 0) [] 0 0) = false := by
  rw [Instr.wf, List.length_replicate]; decide

/-! ### Witnesses -/

/-- A folio of stream 4 in the store, staged for its ring. -/
def folio1 : Folio :=
  { (default : Folio) with seq := 2 ^ 44, ftype := 1, stream := 4, count := 1, slots := 1, staged := true, payload := [1, 2] }

/-- An enabled ring r whose window maps device addresses 0 to 1 MiB. -/
def ringed (r st : Nat) : State :=
  let g := { ring crown r with en := true, state := st, log2 := 8, tail := 1, nextSeq := 2 ^ 44 }
  let w := { window crown 0 with en := true, read := true, write := true, log2 := 20, ringMask := 0xFFFFFFFF }
  let q := { (default : FolioQ) with folios := [folio1], nextSeq := 2 ^ 44 + 1, ackNext := 2 ^ 44 }
  setStream 4 { stream crown 4 with q := q } (setWindow 0 w (setRing r g crown))

/-- A descriptor of 4,096 bytes. -/
def desc1 : Descriptor := { addr := 4096, len := 4096, dflags := 0, reserved := 0 }


/-- The island's image with pair 0 of safety group 0, its members on channels 4 and 132, pulsed every 60 s. -/
def pulsedImage : List (BlockKey × Nat) :=
  [((0x0B01, 0, 0), 0x80000000), ((0x0B02, 0, 4), 60 * 65536 + 1000), ((0x0B03, 0, 0), 4 * 65536),
   ((0x0B03, 1, 0), 132 * 65536)]

/-- The hub with the safety lock open on an empty working image. -/
def lockedOpen : State := { crown with safe.lockOpen := true, safe.working := [], flash.bad := [] }

/-- A SAFE_LOCK_CLOSE with the working image's CRC. -/
def lockPkt : Packet := pkt (le 4 (safeCrc (workingImage lockedOpen)))

theorem crcByte_lt (c : Nat) (b : Byte) (h : c < 2 ^ 32) : crcByte c b < 2 ^ 32 := by
  have step : ∀ l : List Nat, ∀ a, a < 2 ^ 32 → l.foldl (fun a _ => crcBit a) a < 2 ^ 32 := by
    intro l
    induction l with
    | nil => intro a h; exact h
    | cons x r ih =>
      intro a h
      refine ih _ ?_
      show crcBit a < 2 ^ 32; unfold crcBit
      split
      · exact Nat.xor_lt_two_pow (by omega) (by decide)
      · omega
  exact step _ _ (Nat.xor_lt_two_pow h (by have := b.isLt; omega))

theorem crc32c_lt (l : List Byte) : crc32c l < 2 ^ 32 := by
  have step : ∀ l : List Byte, ∀ a, a < 2 ^ 32 → l.foldl crcByte a < 2 ^ 32 := by
    intro l
    induction l with
    | nil => intro a h; exact h
    | cons x r ih => intro a h; exact ih _ (crcByte_lt a x h)
  exact Nat.xor_lt_two_pow (step l _ (by decide)) (by decide)

theorem working_crc (s t : State) (hs : t.safe = s.safe) (hc : t.cfg = s.cfg) :
    safeCrc (workingImage t) = safeCrc (workingImage s) := by
  simp only [safeCrc, safeBytes, workingImage, corrCrc, corrCopy, corrInForce, word, slotChan, cf, hs, hc]

theorem le4_field (x : Nat) : fld 0 4 (le 4 x) = x % 2 ^ 32 := by
  simp [fld, slice, le, ofLe]; omega
theorem lock_crc : (request 0x0802 lockPkt (sess 5) (State.tick 0 lockedOpen)).f 0 4
    = safeCrc (workingImage (takenState lockPkt (sess 5) (State.tick 0 lockedOpen))) := by
  have e : (request 0x0802 lockPkt (sess 5) (State.tick 0 lockedOpen)).f 0 4 = fld 0 4 lockPkt.params := rfl
  rw [e, show lockPkt.params = le 4 (safeCrc (workingImage lockedOpen)) from rfl, le4_field, Nat.mod_eq_of_lt (show safeCrc (workingImage lockedOpen) < 2 ^ 32 from crc32c_lt _)]
  exact (working_crc _ _ rfl rfl).symm

/-- Stream 4 over channel set 1, which holds CH0, with a quota of 1 MiB. -/
def setCfg : List (BlockKey × Nat) := [((0x0801, 4, 0), 1), ((0x0801, 4, 12), 65536), ((0x0802, 1, 0), 1)]

/-- A hub whose stream 4 is in the given state. -/
def streaming (st : Stream) : State := setStream 4 st { crown with cfg := setCfg }

/-- A session of the Service role that uses the trailer, its key 32 bytes of zeros. -/
def keyed : Session := { sess 5 with trailer := true, key := zeros 32 }

/-- A packet of that session with its trailer. -/
def keyedPkt (op : Nat) (l : List Byte) : Packet :=
  let p := { pkt l with flags := 8, bytes := 48 + l.length }
  { p with trailer := hmac (zeros 32) (packetBytes op p) }

/-- A CRED_ADD of credential 9 with a secret of zeros. -/
def credPkt : Packet := keyedPkt 0x0900 (le 4 9 ++ [1, 7, 0, 0] ++ wrapSecret (zeros 32) (le 2 1 ++ le 4 9) (zeros 32))

/-- A GROUP_KEY_SET of group 9. -/
def groupPkt : Packet := keyedPkt 0x0906 (le 2 9 ++ [0, 0] ++ wrapSecret (zeros 32) (le 2 1 ++ le 4 9) (zeros 32))

/-- A transfer into FW_B that session 1 has begun. -/
def fw0 : FwTransfer :=
  { target := 2, length := 4096, session := 1, erased := false, req := default, commit := none, data := [], buffered := 0, last := 0 }

/-- A transfer of EXT_STD on quire 1 whose readings are complete. -/
def extStd1 : ExtStd := { (default : ExtStd) with todo := [1], value := 5, integ := 10 }

/-- The hub 40 s after reset; KEEPq.1 of quire 1 read 0 in the first polarity of AGND and 2^36 from 4.3 s on. -/
def extState : State :=
  setChan 899 { (default : Chan) with hist := [2 ^ 36], histNew := 1100800, histFirst := -1000000000 }
    { crown with now := 40 * secU, cal.ext := some extStd1 }


theorem ext_chan : chan (State.tick 0 extState) 899
    = { (default : Chan) with hist := [2 ^ 36], histNew := 1100800, histFirst := -1000000000 } := rfl

theorem ext_device : deviceAt (State.tick 0 extState) 0 = 0 := by decide +kernel

theorem ext_low (i : Int) (h0 : -1000000000 ≤ i) (h : i ≤ 1100799) : sincAt (chan (State.tick 0 extState) 899) i = 0 := by
  rw [ext_chan]
  have e : (1100800 - max i (-1000000000)).toNat = (1100799 - i).toNat + 1 := by omega
  show [(2 : Int) ^ 36].getD (1100800 - max i (-1000000000)).toNat 0 = 0
  rw [e]; rfl

theorem ext_high (i : Int) (h : 1100800 ≤ i) : sincAt (chan (State.tick 0 extState) 899) i = 2 ^ 36 := by
  rw [ext_chan]
  have e : (1100800 - max i (-1000000000)).toNat = 0 := by omega
  show [(2 : Int) ^ 36].getD (1100800 - max i (-1000000000)).toNat 0 = _
  rw [e]; rfl

theorem ext_mean_low : keeperMean (State.tick 0 extState) 899 (1000 * (msU : Int)) (4000 * (msU : Int)) = 0 :=
  keeperMean_const _ _ _ _ 0 (-900000000) 1100799 _ _ (by rw [ext_chan]; simp) (fun i h1 h2 => ext_low i (by omega) h2)
    (by rw [ext_chan]; decide) rfl rfl (by decide +kernel) (by decide +kernel) (by decide +kernel)

theorem ext_mean_high (a b : Int) (h1 : 5000 * (msU : Int) ≤ a) (h2 : a + 1000 * (msU : Int) ≤ b) :
    keeperMean (State.tick 0 extState) 899 a b = ((2 ^ 36 : Int) : Rat) := by
  have e : keeperLate = 63473 * 256000000 := by decide +kernel
  have em : (msU : Int) = 65536000000 := rfl
  refine keeperMean_const _ _ _ _ (2 ^ 36) 1100800 (2048 * -(-(b - keeperLate) / ((8 * msU : Nat) : Int)) + 63473) _ _ (by rw [ext_chan]; simp)
    (fun i h1 _ => ext_high i h1) (by rw [ext_chan]; decide) rfl rfl ?_ ?_ le_rfl
  all_goals
    rw [e]
    rw [show ((8 * msU : Nat) : Int) = 524288000000 by decide]
    rw [em] at h1 h2
    omega

theorem ext_value : extVolts (State.tick 0 extState) 1 extStd1 = 5 := by
  have e1 : modCode 1 129 = 899 := rfl
  have e2 : (ensOf (State.tick 0 extState) 1).fEns = 1 := rfl
  have em : (msU : Int) = 65536000000 := rfl
  simp only [extVolts, keeperVolts, e1, e2, show extStd1.since = 0 from rfl, show extStd1.integ = 10 from rfl, ext_device]
  rw [show (0 : Int) + ((1000 * msU : Nat) : Int) = 1000 * (msU : Int) by decide,
    show (0 : Int) + (((1000 + 3000) * msU : Nat) : Int) = 4000 * (msU : Int) by decide, ext_mean_low]
  rw [ext_mean_high, ext_mean_high, ext_mean_high]
  · norm_num
  all_goals decide +kernel
theorem ext_volts : extVolts (State.tick 0 extState) 1 extStd1 ≠ 0 := by rw [ext_value]; decide +kernel
theorem ext_k : (1 : Rat) = extStd1.value / extVolts (State.tick 0 extState) 1 extStd1 := by rw [ext_value]; decide +kernel

/-! ### The manual's worked examples -/

/-- 04, "one sample, three codings": v = -1,000 with U and T. -/
theorem test_p24_left : p24Word false false 0x21 (-1000) = 0xFFFC1821 := by decide
theorem test_p24_right : p24Word true false 0x21 (-1000) = 0x21FFFC18 := by decide
theorem test_p24_offset_binary : p24Word false true 0x21 (-1000) = 0x7FFC1821 := by decide

/-- 05, the response changes of STREAM6: with F N = 16 the first faded output is 16/17 old and the last 16/17 new. -/
theorem test_fade_first : fadeValue 17000 0 0 16 = 16000 := by decide
theorem test_fade_last : fadeValue 0 17000 15 16 = 16000 := by decide

/-- 05 R129: the span of K = 3, N = 16 under a response of 127 taps is 729 sinc periods to each side. -/
theorem test_span : spanA 3 16 1 = 729 ∧ spanB 3 16 1 = 729 := by decide

/-- 06, "a strain gauge": r = 1.000013e-3 gives 1,962.976 um/m. -/
theorem test_strain : rabs ((bridge 0x50 (.ofRat (205 / 100)) (.ofRat (1004 / 1000)) (.ofRat (1000013 / 1000000000))).toRat - 1962976 / 1000)
    < 1 / 1000 := by decide +kernel

/-- 06, "an SPRT at the gallium point": W_r(29.7646) = 1.11813889. -/
theorem test_gallium : rabs (its90Wr (297646 / 10000) - 111813889 / 100000000) < 1 / 100000000 := by decide +kernel

/-- 07, "an outlier appears": the median without Z4, and with it. -/
theorem test_median_odd : median [212 / 1000, -231 / 1000, 57 / 1000, -118 / 1000, -246 / 1000, 139 / 1000, -516 / 1000] = -118 / 1000 := by
  decide +kernel
theorem test_median_even :
    median [212 / 1000, -231 / 1000, 57 / 1000, -118 / 1000, 703 / 1000, -246 / 1000, 139 / 1000, -516 / 1000] = -305 / 10000 := by
  decide +kernel

/-- Quire 2 of the planner's example: 200 days after a transfer of 0.8 and 0.02 ppm. -/
def duePlan : State :=
  setEns 2 { (default : Ensemble) with
    transfers := [{ (default : ExtTransfer) with uRel := 8 / 10, uTr := 2 / 100 }], uEns := 10,
    ratioU := [5 / 100, 0, 0, 0, 1 / 2], drift := some (6 / 10, 1), uLimits := [1500, 0, 0, 0, 3000] }
    { crown with part := { crown.part with quires := 7, metrology := true }, time.state := 1,
                 time.ancDev := (200 * 86400 - 10) * secU, flash.ring := [] }

/-- 07, "when quire 2 falls due": u_exp today and the days to the limit, in ranges x1 and x256. -/
theorem test_plan_now : planNow duePlan 2 0 = 1064 ∧ planNow duePlan 2 4 = 1457 := by decide +kernel
theorem test_plan_days : planDays duePlan 2 0 = 165 ∧ planDays duePlan 2 4 = 583 := by decide +kernel

/-- 03, "classifying a strain-gauge lead": LEAD_TOL 5, LEAD_TOL_PCT 10, base 176,400 milliohms. -/
def leadState : State := { crown with cfg := [((0x0104, 1, 4), 5), ((0x0104, 1, 8), 10)] }
theorem test_lead_change : toneClass leadState 1 { (default : ToneReading) with re := 178900 } 176400 false = 4 := by decide
theorem test_leakage : toneClass leadState 1 { (default : ToneReading) with re := 174000 } 176400 false = 5 := by decide

/-- 08: at K = 8, N = 5 the instant 1,760,000,123.456789 s falls in sample 176,000,012,345. -/
theorem test_sample_index : (1760000123456789 * (secU / 1000000)) / (2 ^ 9 * 5 * sincU) = 176000012345 := by decide

/-- 09, "a crossing on one hub": 2,500 between 2,491.2 and 2,512.8 gives FRACTION 104. -/
theorem test_crossing : crossingPos 1760000000123 1760000000124 (24912 / 10) (25128 / 10) 2500 = (1760000000123, 104) := by
  decide +kernel

/-- 02, "a pin reset during a test": what the continuity table holds of STREAM4. -/
def resetRun : State :=
  setStream 4 { (default : Stream) with
      state := 2, lastIndex := 1750000123956, produced := true,
      q := { (default : FolioQ) with nextSeq := 0x004B600000000000 + 3000253, ackNext := 0x004B600000000000 + 3000001,
                                     folios := [{ folio1 with acked := true, lastIndex := 1750000123456 }] } }
    { crown with store.base := 1206 * 2 ^ 44 }
theorem test_continuity : (noteContinuity 4 resetRun).store.continuity.find 4
    = some { startCount := 1206, written := 0x004B600000000000 + 3000252, ackedSeq := 0x004B600000000000 + 3000000,
             ackedIndex := 1750000123456, produced := 1750000123956 } := by decide

/-- 13, start count 1,207: the third session opened is 0x4B70_0003. -/
theorem test_session_id :
    (openSession (pkt []) (2, 3) default (4, zeros 32) { crown with boot.startCount := 1207, cz := { (default : Cuzan) with opened := 2 } }).cz.sessions.map
      (·.id) = [0x4B700003] := by decide +kernel

/-- 18, "the balls of CH613 and EXG153" on an HKA-896, and the same names on an HKA-512. -/
theorem test_ball_names : rowName 31 = ['A', 'M'] ∧ rowName 32 = ['A', 'N'] ∧ rowName 35 = ['A', 'U'] := by decide
theorem test_balls_896 : let p := { PartId.init with quires := 7 }
    ballNet p 31 29 = .ainP 613 ∧ ballNet p 31 30 = .ainN 613 ∧ ballNet p 31 28 = .excF 153 ∧ ballNet p 32 28 = .excS 153
      ∧ ballNet p 35 32 = .excSup 4 := by decide
theorem test_balls_512 : let p := { PartId.init with quires := 4 }
    ballNet p 31 29 = .ainP 480 ∧ ballNet p 31 30 = .ainN 480 ∧ ballNet p 31 28 = .vddSp := by decide

/-- Published check values: CRC-32C of "123456789" (01 R20), SHA-256 of "abc" (13 R331). -/
theorem test_crc32c : crc32c [49, 50, 51, 52, 53, 54, 55, 56, 57] = 0xE3069283 := by decide +kernel
theorem test_sha256 : (sha256 [97, 98, 99]).take 8 = [0xBA, 0x78, 0x16, 0xBF, 0x8F, 0x01, 0xCF, 0xEA] := by decide +kernel

/-- A secret survives its wrapping (16 R398). -/
theorem test_wrap : unwrapSecret (zeros 32) [1] (wrapSecret (zeros 32) [1] (List.replicate 32 7)) = some (List.replicate 32 7) := by
  decide +kernel

/-- 14 R350: a Service session does not meet the Safety Officer's role by rank alone; roles 0 to 2 rise. -/
theorem test_roles : meets 2 1 = true ∧ meets 1 2 = false := by decide

/-- 13 R334: the tag window at its edges. -/
theorem test_tag_window : judgeTag { sess 5 with high := 10 } 11 = 1 ∧ judgeTag { sess 5 with high := 10 } ((10 + 65536 - 64) % 65536) = 3 := by
  decide

/-- The table gives its rows no bits. -/
theorem test_no_table_word : decodeTableWord 32 0 = none := rfl

theorem wit_StepRunsFrontCommand_1 :
    let s : State := State.reset
    s.pending = [] :=
  by decide

theorem wit_StepKeepsCanonical :
    let s : State := { State.reset with pending := [.powerOn 5 1 false] }
    let t : State := { State.reset with now := 5, boot := { State.reset.boot with rails := 1, railsSince := 5 } }
    step s = .next t ∧ s.canonical :=
  ⟨rfl, by unfold State.canonical; decide⟩

theorem wit_StepKeepsTripOk :
    let s : State := { State.reset with pending := [.powerOn 5 1 false] }
    let t : State := { State.reset with now := 5, boot := { State.reset.boot with rails := 1, railsSince := 5 } }
    step s = .next t ∧ s.tripOk :=
  ⟨rfl, fun _ h => Bool.noConfusion h⟩

theorem wit_StepRatchets :
    let s : State := { State.reset with pending := [.powerOn 5 1 false] }
    let t : State := { State.reset with now := 5, boot := { State.reset.boot with rails := 1, railsSince := 5 } }
    step s = .next t :=
  rfl

theorem wit_EnteringReset_1 :
    let at_ : Nat := 0
    let rail : Nat := 9
    let s : State := State.reset
    let u : State := s.tick at_
    1 ≤ rail ∧ rail ≤ 9 ∧ bit (rail - 1) u.boot.rails = false :=
  ⟨by decide, by decide, by decide⟩

theorem wit_EnteringReset_2 :
    let at_ : Nat := 0
    let rail : Nat := 9
    let s : State := crown
    let u : State := s.tick at_
    1 ≤ rail ∧ rail ≤ 9 :=
  ⟨by decide, by decide⟩

theorem wit_EnteringReset_3 :
    let at_ : Nat := 0
    let rail : Nat := 9
    let s : State := crown
    let u : State := s.tick at_
    bit (rail - 1) u.boot.rails = true :=
  by decide

theorem wit_EnteringReset_4 :
    let at_ : Nat := 0
    let rail : Nat := 9
    let cut : Bool := true
    let s : State := crown
    let u : State := s.tick at_
    1 ≤ rail ∧ rail ≤ 9 ∧ bit (rail - 1) u.boot.rails = true :=
  ⟨by decide, by decide, by decide⟩

theorem wit_EnteringReset_5 :
    let at_ : Nat := 0
    let low : Nat := 688128000
    let cut : Bool := false
    let s : State := crown
    let u : State := s.tick at_
    21 * usU ≤ 2 * low :=
  by decide

theorem wit_EnteringReset_6 :
    let at_ : Nat := 0
    let low : Nat := 19 * 32768000 - 1
    let cut : Bool := false
    let s : State := crown
    let u : State := s.tick at_
    2 * low < 19 * usU :=
  by decide

theorem wit_EnteringReset_7 :
    let at_ : Nat := 0
    let low : Nat := 19 * 32768000
    let cut : Bool := false
    let s : State := crown
    let u : State := s.tick at_
    19 * usU ≤ 2 * low ∧ 2 * low < 21 * usU :=
  ⟨by decide, by decide⟩

theorem wit_EnteringReset_10 :
    let causes : Nat := 4
    let s : State := crown
    let t : State := enterReset 4 crown
    t = enterReset causes s :=
  rfl

theorem wit_EnteringReset_11 :
    let cut : Bool := true
    let s : State := { crown with flash.last := 3 }
    let t : State := abandonWrite true { crown with flash.last := 3 }
    t = abandonWrite cut s :=
  rfl

theorem wit_ReleaseAndRoot_1 :
    let at_ : Nat := 0
    let high : Nat := 688128000
    let strap : Nat := 1
    let ups : List Nat := [0]
    let ok : Bool := true
    let s : State := { State.reset with now := 2 * msU, boot := { State.reset.boot with rails := 0x1FF } }
    let u : State := s.tick at_
    u.boot.inReset = true ∧ u.boot.hot = false ∧ u.boot.testHeld = false ∧ u.boot.rails = 0x1FF ∧ u.boot.railsSince + 2 *
      msU ≤ u.now ∧ 21 * usU ≤ 2 * high :=
  ⟨by decide, by decide, by decide, by decide, by decide, by decide⟩

theorem wit_ReleaseAndRoot_2 :
    let at_ : Nat := 0
    let high : Nat := 688128000
    let strap : Nat := 1
    let ups : List Nat := [0]
    let ok : Bool := true
    let s : State := { State.reset with now := 2 * msU, boot := { State.reset.boot with rails := 0x1FF } }
    let u : State := s.tick at_
    u.boot.inReset = true ∧ u.boot.hot = false ∧ u.boot.testHeld = false ∧ u.boot.rails = 0x1FF ∧ u.boot.railsSince + 2 *
      msU ≤ u.now ∧ 21 * usU ≤ 2 * high :=
  ⟨by decide, by decide, by decide, by decide, by decide, by decide⟩

theorem wit_ReleaseAndRoot_3 :
    let at_ : Nat := 0
    let high : Nat := 688128000
    let strap : Nat := 1
    let ups : List Nat := [0]
    let ok : Bool := true
    let test : Bool := false
    let s : State := crown
    let u : State := s.tick at_
    ((u.boot.inReset = false ∨ u.boot.hot = true ∨ u.boot.testHeld = true ∨ u.boot.rails ≠ 0x1FF ∨ u.now <
      u.boot.railsSince + 2 * msU ∨ 2 * high < 19 * usU)) :=
  by decide

theorem wit_ReleaseAndRoot_4 :
    let at_ : Nat := 0
    let high : Nat := 688128000
    let strap : Nat := 1
    let ups : List Nat := [0]
    let ok : Bool := true
    let s : State := { State.reset with now := 2 * msU, boot := { State.reset.boot with rails := 0x1FF, hot := true } }
    let u : State := s.tick at_
    u.boot.inReset = true ∧ u.boot.testHeld = false ∧ u.boot.rails = 0x1FF ∧ u.boot.railsSince + 2 * msU ≤ u.now ∧ 21 *
      usU ≤ 2 * high :=
  ⟨by decide, by decide, by decide, by decide, by decide⟩

theorem wit_ReleaseAndRoot_5 :
    let strap : Nat := 1
    let ups : List Nat := [0]
    let ok : Bool := true
    let s : State := { State.reset with part := { PartId.init with quires := 2 } }
    let t : State := release 1 [0] true { State.reset with part := { PartId.init with quires := 2 } }
    t = release strap ups ok s :=
  rfl

theorem wit_ReleaseAndRoot_6 :
    let at_ : Nat := 0
    let s : State := { crown with now := 15 * msU, boot := { crownBoot with stage := 0 } }
    let u : State := s.tick at_
    let r : Nat := 0
    u.boot.release = some r ∧ u.boot.stage = 0 ∧ r + 15 * msU ≤ u.now :=
  ⟨by decide, by decide, by decide⟩

theorem wit_ReleaseAndRoot_7 :
    let at_ : Nat := 0
    let s : State := { crown with boot := { crownBoot with stage := 1 }, time := default }
    let u : State := s.tick at_
    let r : Nat := 0
    u.boot.release = some r ∧ u.boot.stage = 1 ∧ u.time.rawStart = none :=
  ⟨by decide, by decide, by decide⟩

theorem wit_ReleaseAndRoot_8 :
    let at_ : Nat := 0
    let rate : Nat := 0
    let mib : Nat := 4096
    let s : State := { crown with boot := { crownBoot with stage := 1, lpDone := false } }
    let u : State := s.tick at_
    u.boot.inReset = false ∧ u.boot.lpDone = false ∧ 1 ≤ u.boot.stage ∧ u.boot.stage ≤ 2 ∧ mib ≠ 0 :=
  ⟨by decide, by decide, by decide, by decide, by decide⟩

theorem wit_ReleaseAndRoot_9 :
    let at_ : Nat := 0
    let rate : Nat := 0
    let s : State := { crown with boot := { crownBoot with stage := 1, lpDone := false } }
    let u : State := s.tick at_
    u.boot.inReset = false ∧ u.boot.lpDone = false ∧ 1 ≤ u.boot.stage ∧ u.boot.stage ≤ 2 :=
  ⟨by decide, by decide, by decide, by decide⟩

theorem wit_TrunkAndCrown_1 :
    let at_ : Nat := 0
    let s : State := { crown with boot := { crownBoot with stage := 1, fwRuns := false } }
    let u : State := s.tick at_
    let x : State × Nat × List (Nat × Nat) := selectImage { u with boot.xspi := 2 }
    u.boot.stage = 1 ∧ u.boot.refDone = true ∧ u.boot.fwRuns = false ∧ x = selectImage { u with boot.xspi := 2 } :=
  ⟨by decide, by decide, by decide, rfl⟩

theorem wit_TrunkAndCrown_2 :
    let at_ : Nat := 0
    let s : State := { crown with boot := { crownBoot with stage := 1, fwRuns := false } }
    let u : State := s.tick at_
    u.boot.stage = 1 ∧ u.boot.refDone = true ∧ u.boot.fwRuns = false ∧ u.cz.unread = [] ∧ (selectImage
      { u with boot.xspi := 2 }).2.1 = 0 ∧ ((List.range 4).all fun l => (lane u l).scan.isNone) = true :=
  ⟨by decide, by decide, by decide, by decide, by decide, by decide⟩

theorem wit_TrunkAndCrown_3 :
    let i : Nat := 1
    let l : List (Nat × Nat) := []
    let s : State := crown
    let t : State := startFirmware 1 [] crown
    t = startFirmware i l s :=
  rfl

theorem wit_TrunkAndCrown_4 :
    let s : State := crown
    let t : State := newStart crown
    t = newStart s :=
  rfl

theorem wit_TrunkAndCrown_5 :
    let at_ : Nat := 0
    let s : State := { crown with boot := { crownBoot with stage := 1 } }
    let u : State := s.tick at_
    u.boot.stage = 1 ∧ u.boot.refDone = true ∧ u.boot.fwRuns = true ∧ u.boot.lpDone = true :=
  ⟨by decide, by decide, by decide, by decide⟩

theorem wit_TrunkAndCrown_6 :
    let at_ : Nat := 0
    let k : Nat := 300 * msU
    let s : State :=
      { crown with now := 305 * msU, boot := { crownBoot with stage := 2, modsOn := false }, quires := [(0, { (default : Quire) with measured := true }), (1, { (default : Quire) with measured := true })] }
    let u : State := s.tick at_
    u.boot.trunkAt = some k ∧ u.boot.modsOn = false ∧ k + 5 * msU ≤ u.now ∧ (∀ q, q ∈ servingQuires u → (quire u
      q).measured = true) :=
  ⟨by decide, by decide, by decide, by decide⟩

theorem wit_TrunkAndCrown_7 :
    let at_ : Nat := 0
    let s : State :=
      { crown with boot := { crownBoot with stage := 2 }, safe := { crown.safe with handover := some 5 }, conv := { crown.conv with closed := some 3 } }
    let u : State := s.tick at_
    let x : State := handover u
    x = handover u ∧ u.boot.stage = 2 ∧ u.boot.fwRuns = true ∧ u.boot.modsOn = true ∧ x.safe.handover.isSome = true ∧
      ((u.conv.closed.isSome = true ∨ (servingQuires u).isEmpty = true)) :=
  ⟨rfl, by decide, by decide, by decide, by decide, by decide⟩

theorem wit_TrunkAndCrown_8 :
    let at_ : Nat := 0
    let s : State := setRing 2 { ring crown 2 with en := true } crown
    let u : State := s.tick at_
    inCrown u = true ∧ (ring u 2).en = true :=
  ⟨by decide, by decide⟩

theorem wit_TrunkAndCrown_9 :
    let at_ : Nat := 0
    let stage : Nat := 3
    let k : Nat := 0
    let s : State := { crown with boot := { crownBoot with stage := 2 } }
    let u : State := s.tick at_
    u.boot.release = some k ∧ 1 ≤ stage ∧ stage ≤ 3 ∧ u.boot.stage < stage ∧ bit stage u.boot.overrun = false ∧ refAbsent
      u = false ∧ u.boot.hold ≠ 2 ∧ k + deadline stage u ≤ u.now :=
  ⟨by decide, by decide, by decide, by decide, by decide, by decide, by decide, by decide⟩

theorem wit_TrunkAndCrown_10 :
    let at_ : Nat := 0
    let stage : Nat := 2
    let s : State := crown
    let u : State := s.tick at_
    ((stage ≤ u.boot.stage ∨ bit stage u.boot.overrun = true ∨ refAbsent u = true ∨ u.boot.hold = 2)) :=
  by decide

theorem wit_WatchdogAndRecovery_1 :
    let at_ : Nat := 0
    let s : State := crown
    let u : State := s.tick at_
    let cut : Bool := false
    u.boot.fwRuns = true ∧ within60 u.boot.lastWatchdog u = false ∧ u.boot.swapped = none :=
  ⟨by decide, by decide, by decide⟩

theorem wit_WatchdogAndRecovery_2 :
    let at_ : Nat := 0
    let k : Nat := 5 * secU
    let s : State := { crown with boot := { crownBoot with lastWatchdog := some (5 * secU) } }
    let u : State := s.tick at_
    let cut : Bool := true
    u.boot.fwRuns = true ∧ u.boot.lastWatchdog = some k ∧ u.now < k + 60 * secU :=
  ⟨by decide, by decide, by decide⟩

theorem wit_WatchdogAndRecovery_3 :
    let i : Nat := 1
    let s : State := crown
    let t : State := cpRestart 1 crown
    t = cpRestart i s :=
  rfl

theorem wit_WatchdogAndRecovery_4 :
    let at_ : Nat := 0
    let s : State := { crown with boot := { crownBoot with restart := some 1 } }
    let u : State := s.tick at_
    let i : Nat := 1
    let lost : Bool := false
    u.boot.restart = some i ∧ u.cz.unread = [] :=
  ⟨by decide, by decide⟩

theorem wit_WatchdogAndRecovery_5 :
    let at_ : Nat := 0
    let addr : Nat := 0x4C
    let off : Nat := 0
    let n : Nat := 4
    let v : Nat := 0x4B410002
    let block : Bool := false
    let s : State := crown
    let u : State := s.tick at_
    u.boot.inReset = false ∧ addr = 0x4C + u.boot.strap ∧ mgRegister u off = some v :=
  ⟨by decide, by decide, by decide⟩

theorem wit_WatchdogAndRecovery_6 :
    let at_ : Nat := 0
    let addr : Nat := 0x4C
    let off : Nat := 0x24
    let n : Nat := 4
    let block : Bool := false
    let extra : Bool := false
    let s : State := crown
    let u : State := s.tick at_
    ((u.boot.inReset = true ∨ addr ≠ 0x4C + u.boot.strap ∨ mgRegister u off = none)) :=
  by decide

theorem wit_WatchdogAndRecovery_8 :
    let at_ : Nat := 0
    let target : Nat := 2
    let s : State :=
      { crown with boot := { crownBoot with hold := 2, stage := 2, image := 0, fwRuns := false }, host := { crown.host with recovery := { (default : Recovery) with len := 4096 } } }
    let u : State := s.tick at_
    answers u 0x8000 = true ∧ u.boot.hold = 2 ∧ 1 ≤ target ∧ target ≤ 2 ∧ 4096 ≤ u.host.recovery.len ∧ u.host.recovery.len
      ≤ fwSize :=
  ⟨by decide, by decide, by decide, by decide, by decide, by decide⟩

theorem wit_WatchdogAndRecovery_9 :
    let at_ : Nat := 0
    let image : List Byte := [1, 2]
    let left : List Byte := []
    let percent : Nat := 0
    let s : State :=
      { crown with boot := { crownBoot with hold := 2, stage := 2, image := 0, fwRuns := false }, host := { crown.host with recovery := { (default : Recovery) with target := 2, state := 3, len := 4096 } } }
    let u : State := s.tick at_
    let k : Nat := 2
    let g : Tab Nat := [(0, 1), (1, 2)]
    u.boot.hold = 2 ∧ 1 ≤ u.host.recovery.state ∧ u.host.recovery.state ≤ 3 ∧ k = u.host.recovery.target ∧ g =
      recoveryTable (image.take u.host.recovery.len) ∧ u.flash.bad.contains k = false :=
  ⟨by decide, by decide, by decide, by decide, by decide, by decide⟩

theorem wit_WatchdogAndRecovery_10 :
    let at_ : Nat := 0
    let image : List Byte := [1, 2]
    let left : List Byte := []
    let phase : Nat := 2
    let percent : Nat := 200
    let s : State :=
      { crown with boot := { crownBoot with hold := 2, stage := 2, image := 0, fwRuns := false }, host := { crown.host with recovery := { (default : Recovery) with target := 2, state := 1, len := 4096 } } }
    let u : State := s.tick at_
    let k : Nat := 2
    let g : Tab Nat := [(0, 1), (1, 2)]
    u.boot.hold = 2 ∧ 1 ≤ u.host.recovery.state ∧ u.host.recovery.state ≤ phase ∧ phase ≤ 3 ∧ k = u.host.recovery.target ∧
      g = recoveryTable (image.take u.host.recovery.len) :=
  ⟨by decide, by decide, by decide, by decide, by decide, by decide⟩

theorem wit_WatchdogAndRecovery_11 :
    let at_ : Nat := 0
    let image : List Byte := []
    let left : List Byte := []
    let outcome : Nat := 0
    let percent : Nat := 0
    let s : State :=
      { crown with boot := { crownBoot with hold := 2, stage := 2, image := 0, fwRuns := false }, host := { crown.host with recovery := { (default : Recovery) with target := 2, state := 4, len := 4096 } } }
    let u : State := s.tick at_
    u.boot.hold = 2 ∧ u.host.recovery.state = 4 :=
  ⟨by decide, by decide⟩

theorem wit_WatchdogAndRecovery_12 :
    let at_ : Nat := 0
    let s : State := { crown with now := 70 * secU, flash := { crown.flash with fwA := [(448, 0)] } }
    let u : State := s.tick at_
    let g : Tab Nat := [(448, 0)]
    heldCrown u = true ∧ ((u.boot.image = 1 ∨ u.boot.image = 2)) ∧ g = partition u u.boot.image ∧ imgState g = 1 :=
  ⟨by decide, by decide, by decide, by decide⟩

theorem wit_RingRegisters_1 :
    let at_ : Nat := 0
    let r : Nat := 31
    let tail : Nat := 256
    let s : State := { (setRing 31 { ring crown 31 with log2 := 8 } crown) with now := 11 * secU }
    let u : State := s.tick at_
    r < 32 ∧ answers u (0x1010 + 0x80 * r) = true ∧ tail ≤ 65535 ∧ (tail + 65536 - (ring u r).head) % 65536 ≤ 2 ^ (ring u
      r).log2 :=
  ⟨by decide, by decide, by decide, by decide⟩

theorem wit_RingRegisters_2 :
    let at_ : Nat := 0
    let r : Nat := 31
    let tail : Nat := 65535
    let s : State := crown
    let u : State := s.tick at_
    r < 32 ∧ answers u (0x1010 + 0x80 * r) = true ∧ tail ≤ 65535 ∧ 2 ^ (ring u r).log2 < (tail + 65536 - (ring u r).head)
      % 65536 :=
  ⟨by decide, by decide, by decide, by decide⟩

theorem wit_RingRegisters_3 :
    let at_ : Nat := 0
    let r : Nat := 31
    let log2 : Nat := 15
    let s : State := crown
    let u : State := s.tick at_
    r < 32 ∧ answers u (0x1008 + 0x80 * r) = true ∧ 4 ≤ log2 ∧ log2 < 16 ∧ (ring u r).en = false ∧ (ring u r).state = 0 ∧
      offRing u r = false :=
  ⟨by decide, by decide, by decide, by decide, by decide, by decide, by decide⟩

theorem wit_RingRegisters_4 :
    let at_ : Nat := 0
    let r : Nat := 4
    let s : State := ringed 4 1
    let u : State := s.tick at_
    r < 32 ∧ answers u (0x1008 + 0x80 * r) = true ∧ 4 ≤ (ring u r).log2 ∧ (ring u r).log2 < 16 ∧ (ring u r).en = true ∧
      (ring u r).state = 1 :=
  ⟨by decide, by decide, by decide, by decide, by decide, by decide⟩

theorem wit_RingRegisters_5 :
    let at_ : Nat := 0
    let r : Nat := 31
    let s : State := ringed 31 2
    let u : State := s.tick at_
    r < 32 ∧ answers u (0x1008 + 0x80 * r) = true ∧ 4 ≤ (ring u r).log2 ∧ (ring u r).log2 < 16 ∧ (ring u r).state = 2 :=
  ⟨by decide, by decide, by decide, by decide, by decide⟩

theorem wit_RingRegisters_6 :
    let at_ : Nat := 0
    let r : Nat := 4
    let seq : Nat := 2 ^ 64 - 1
    let s : State := setRing 4 { ring (ringed 4 1) 4 with anyDone := true, doneSeq := 2 ^ 44 } (ringed 4 1)
    let u : State := s.tick at_
    2 ≤ r ∧ r < 32 ∧ answers u (0x1028 + 0x80 * r) = true ∧ seq < 2 ^ 64 ∧ (ring u r).anyDone = true ∧ (ring u r).ackSeq ≤
      seq :=
  ⟨by decide, by decide, by decide, by decide, by decide, by decide⟩

theorem wit_RingRegisters_8 :
    let at_ : Nat := 0
    let r : Nat := 31
    let s : State := ringed 31 2
    let u : State := s.tick at_
    r < 32 ∧ answers u (0x1040 + 0x80 * r) = true ∧ (ring u r).state = 2 :=
  ⟨by decide, by decide, by decide⟩

theorem wit_RingRegisters_9 :
    let at_ : Nat := 0
    let r : Nat := 4
    let s : State := setRing 4 { ring (ringed 4 2) 4 with haltSeq := 2 ^ 44, discardTo := 2 ^ 44 } (ringed 4 2)
    let u : State := s.tick at_
    let run : List Folio := [folio1]
    2 ≤ r ∧ r < 32 ∧ answers u (0x1040 + 0x80 * r) = true ∧ (ring u r).state = 2 ∧ (ring u r).haltSeq ≤ (ring u
      r).discardTo ∧ (ring u r).discardTo < (ringQ u r).nextSeq ∧ run = discardRun (ringQ u r) (ring u r).haltSeq
      (ring u r).discardTo :=
  ⟨by decide, by decide, by decide, by decide, by decide, by decide, by decide⟩

theorem wit_RingRegisters_10 :
    let at_ : Nat := 0
    let r : Nat := 4
    let s : State := setRing 4 { ring (ringed 4 2) 4 with haltSeq := 2 ^ 44, discardTo := 2 ^ 45 } (ringed 4 2)
    let u : State := s.tick at_
    2 ≤ r ∧ r < 32 ∧ answers u (0x1040 + 0x80 * r) = true ∧ (ring u r).state = 2 ∧ (((ring u r).discardTo < (ring u
      r).haltSeq ∨ (ringQ u r).nextSeq ≤ (ring u r).discardTo)) :=
  ⟨by decide, by decide, by decide, by decide, by decide⟩

theorem wit_BarAndTransfers_1 :
    let at_ : Nat := 0
    let off : Nat := 0x1080
    let v : Nat := 64
    let s : State := crown
    let u : State := s.tick at_
    let x : State := barWrite4 0x1080 64 u
    answers u off = true ∧ off % 8 = 0 ∧ x = barWrite4 off (v % 2 ^ 32) u ∧ refuses4 off (v % 2 ^ 32) u = false ∧ refuses4
      (off + 4) (v / 2 ^ 32 % 2 ^ 32) x = false :=
  ⟨by decide, by decide, by decide, by decide, by decide⟩

theorem wit_BarAndTransfers_2 :
    let at_ : Nat := 0
    let off : Nat := 0x1010
    let v : Nat := 65536
    let s : State := crown
    let u : State := s.tick at_
    let x : State := barWrite4 0x1010 65536 u
    answers u off = true ∧ off % 8 = 0 ∧ x = barWrite4 off (v % 2 ^ 32) u ∧ ((refuses4 off (v % 2 ^ 32) u = true ∨
      refuses4 (off + 4) (v / 2 ^ 32 % 2 ^ 32) x = true)) :=
  ⟨by decide, by decide, by decide, by decide⟩

theorem wit_BarAndTransfers_3 :
    let at_ : Nat := 0
    let off : Nat := 0x1001
    let size : Nat := 4
    let v : Nat := 0
    let full : Bool := true
    let s : State := crown
    let u : State := s.tick at_
    answers u off = true ∧ ((full = false ∨ off % size ≠ 0 ∨ (size ≠ 4 ∧ size ≠ 8))) :=
  ⟨by decide, by decide⟩

theorem wit_BarAndTransfers_4 :
    let at_ : Nat := 0
    let s : State := crown
    let u : State := s.tick at_
    answers u 4 = true :=
  by decide

theorem wit_BarAndTransfers_5 :
    let at_ : Nat := 0
    let r : Nat := 31
    let us : Nat := 65535
    let n : Nat := 65535
    let s : State := crown
    let u : State := s.tick at_
    r < 32 ∧ answers u (0x100C + 0x80 * r) = true ∧ us < 65536 ∧ 0 < n ∧ n < 65536 :=
  ⟨by decide, by decide, by decide, by decide, by decide⟩

theorem wit_BarAndTransfers_6 :
    let at_ : Nat := 0
    let off : Nat := 0x0C
    let s : State := crown
    let u : State := s.tick at_
    answers u off = true :=
  by decide

theorem wit_BarAndTransfers_7 :
    let at_ : Nat := 0
    let s : State := crown
    let u : State := s.tick at_
    answers u 0x10 = true :=
  by decide

theorem wit_BarAndTransfers_8 :
    let at_ : Nat := 0
    let d : Descriptor := desc1
    let ds : List Descriptor := []
    let s : State := ringed 0 1
    let u : State := s.tick at_
    dmaOk u = true ∧ (((ring u 0).state = 1 ∨ (ring u 0).state = 3)) ∧ ringTurn u 0 = true :=
  ⟨by decide, by decide, by decide⟩

theorem wit_BarAndTransfers_9 :
    let at_ : Nat := 0
    let ds : List Descriptor := []
    let s : State := ringed 1 1
    let u : State := s.tick at_
    dmaOk u = true ∧ (((ring u 1).state = 1 ∨ (ring u 1).state = 3)) ∧ ringTurn u 1 = true :=
  ⟨by decide, by decide, by decide⟩

theorem wit_BarAndTransfers_10 :
    let at_ : Nat := 0
    let r : Nat := 4
    let d : Descriptor := desc1
    let ds : List Descriptor := []
    let f : Folio := folio1
    let s : State := ringed 4 1
    let u : State := s.tick at_
    2 ≤ r ∧ r < 32 ∧ dmaOk u = true ∧ (((ring u r).state = 1 ∨ (ring u r).state = 3)) ∧ offRing u r = false ∧ ringTurn u r
      = true ∧ nextFolio u r = some f ∧ f.staged = true ∧ posted (ring u r) ≠ 0 ∧ (transfer r d (folioBytes f) false
      (folioStatus f) f.seq 4096 (served r u)).2 = true :=
  ⟨by decide, by decide, by decide, by decide, by decide, by decide, by decide, by decide, by decide, by decide +kernel⟩

theorem wit_BarAndTransfers_11 :
    let at_ : Nat := 0
    let r : Nat := 31
    let code : Nat := 7
    let off : Nat := 300
    let addr : Nat := 5
    let s : State := ringed 31 1
    let u : State := s.tick at_
    r < 32 ∧ (ring u r).state = 1 ∧ 1 ≤ code ∧ code ≤ 7 :=
  ⟨by decide, by decide, by decide, by decide⟩

theorem wit_BarAndTransfers_12 :
    let at_ : Nat := 0
    let r : Nat := 31
    let s : State := setRing 31 { ring crown 31 with unsignalled := 1, intUs := 5 } crown
    let u : State := s.tick at_
    r < 32 ∧ (ring u r).unsignalled ≠ 0 ∧ (ring u r).intUs ≠ 0 ∧ (ring u r).firstAt + (ring u r).intUs * usU ≤ u.now :=
  ⟨by decide, by decide, by decide, by decide⟩

theorem wit_WindowsAndLink_1 :
    let at_ : Nat := 0
    let w : Nat := 63
    let log2 : Nat := 46
    let wr : Bool := true
    let rd : Bool := false
    let s : State := crown
    let u : State := s.tick at_
    w < 64 ∧ answers u (0x2010 + 0x20 * w) = true ∧ 12 ≤ log2 ∧ log2 ≤ 46 ∧ (window u w).en = false ∧ (window u w).dev % 2
      ^ log2 = 0 ∧ overlaps u w (window u w).dev log2 = false :=
  ⟨by decide, by decide, by decide, by decide, by decide, by decide, by decide⟩

theorem wit_WindowsAndLink_2 :
    let at_ : Nat := 0
    let w : Nat := 63
    let log2 : Nat := 46
    let wr : Bool := true
    let rd : Bool := false
    let s : State := ringed 4 1
    let u : State := s.tick at_
    w < 64 ∧ answers u (0x2010 + 0x20 * w) = true ∧ 12 ≤ log2 ∧ log2 ≤ 46 ∧ (window u w).en = false ∧ overlaps u w (window
      u w).dev log2 = true :=
  ⟨by decide, by decide, by decide, by decide, by decide, by decide⟩

theorem wit_WindowsAndLink_3 :
    let at_ : Nat := 0
    let w : Nat := 0
    let busy : Bool := true
    let s : State := ringed 4 1
    let u : State := s.tick at_
    w < 64 ∧ answers u (0x2010 + 0x20 * w) = true ∧ (window u w).en = true :=
  ⟨by decide, by decide, by decide⟩

theorem wit_WindowsAndLink_4 :
    let at_ : Nat := 0
    let w : Nat := 63
    let s : State := setWindow 63 { window crown 63 with busy := true } crown
    let u : State := s.tick at_
    w < 64 ∧ (window u w).busy = true ∧ (window u w).en = false :=
  ⟨by decide, by decide, by decide⟩

theorem wit_WindowsAndLink_5 :
    let at_ : Nat := 0
    let v : Nat := 31
    let s : State := setMsix 31 { msix crown 31 with masked := true, pend := true } crown
    let u : State := s.tick at_
    v < 32 ∧ answers u (0x300C + 16 * v) = true ∧ (msix u v).masked = true ∧ u.host.functionMask = false :=
  ⟨by decide, by decide, by decide, by decide⟩

theorem wit_WindowsAndLink_8 :
    let at_ : Nat := 0
    let s : State := ringed 4 1
    let u : State := s.tick at_
    u.host.linkUp = true :=
  by decide

theorem wit_WindowsAndLink_11 :
    let at_ : Nat := 0
    let s : State := crown
    let u : State := s.tick at_
    u.cz.unread = [] :=
  by decide

theorem wit_TimebaseAndServo_1 :
    let at_ : Nat := 0
    let s : State := crown
    let u : State := s.tick at_
    u.time.rawStart.isSome = true ∧ u.time.refLost = false :=
  ⟨by decide, by decide⟩

theorem wit_TimebaseAndServo_2 :
    let at_ : Nat := 0
    let s : State := { crown with time := { crown.time with refLost := true } }
    let u : State := s.tick at_
    u.time.refLost = true :=
  by decide

theorem wit_TimebaseAndServo_4 :
    let at_ : Nat := 0
    let x : Nat := 4
    let e : Int := 0
    let s : State :=
      { crown with cfg := [((0x0601, 0, 0), 0x40000000)], time := { crown.time with state := 1, source := 4 } }
    let u : State := s.tick at_
    let m : TimeSource :=
      { (default : TimeSource) with meas := [(10 * secU, 0)], within_ := 1, present := true, lastAccepted := 10 * secU }
    (srcOrder u).contains x = true ∧ u.boot.restart = none ∧ u.time.state = 1 ∧ u.time.source = x ∧ e.natAbs ≤ jumpLimit u
      ∧ m =
      { srcOf u x with meas := ((u.now, e) :: (srcOf u x).meas).take 64, within_ := (srcOf u x).within_ + 1, present := true, lastAccepted := u.now } :=
  ⟨by decide, by decide, by decide, by decide, by decide, by decide⟩

theorem wit_TimebaseAndServo_5 :
    let at_ : Nat := 0
    let x : Nat := 4
    let e : Int := -100000000000
    let s : State :=
      { crown with cfg := [((0x0601, 0, 0), 0x40000000)], time := { crown.time with state := 1, source := 4 } }
    let u : State := s.tick at_
    (srcOrder u).contains x = true ∧ u.boot.restart = none ∧ u.time.state = 1 ∧ u.time.source = x ∧ jumpLimit u < e.natAbs
      ∧ u.time.refusedSince = none :=
  ⟨by decide, by decide, by decide, by decide, by decide, by decide⟩

theorem wit_TimebaseAndServo_6 :
    let at_ : Nat := 0
    let k : Nat := 0
    let s : State := { crown with time := { crown.time with state := 1, source := 1, refusedSince := some 0 } }
    let u : State := s.tick at_
    u.boot.restart = none ∧ u.time.refusedSince = some k ∧ u.time.state ≠ 0 ∧ u.time.state ≠ 4 ∧ k + cf u 0x0601 0 8 31 16
      * msU ≤ u.now ∧ firstAccepted u = none :=
  ⟨by decide, by decide, by decide, by decide, by decide, by decide⟩

theorem wit_TimebaseAndServo_7 :
    let at_ : Nat := 0
    let x : Nat := 1
    let s : State :=
      { crown with cfg := [((0x0601, 0, 0), 0x10000000)], time := { crown.time with state := 1, source := 1, sources := [(1, { (default : TimeSource) with present := true })] } }
    let u : State := s.tick at_
    u.boot.restart = none ∧ announceOut u x = false ∧ (srcOf u x).present = true ∧ silent u x = true ∧ u.time.state = 1 ∧
      u.time.source = x ∧ firstAccepted (setSrc x { srcOf u x with present := false, within_ := 0, meas := [] } u) =
      none :=
  ⟨by decide, by decide, by decide, by decide, by decide, by decide, by decide⟩

theorem wit_TimebaseAndServo_8 :
    let at_ : Nat := 70000 * secU
    let s : State := { crown with time := { crown.time with state := 2 } }
    let u : State := s.tick at_
    u.boot.restart = none ∧ u.time.state = 2 ∧ u.time.since + cf u 0x0601 0 0x0C 15 0 * secU ≤ u.now :=
  ⟨by decide, by decide, by decide⟩

theorem wit_PtpAndEdges_1 :
    let at_ : Nat := 0
    let p : Nat := 1
    let raw : Nat := 5
    let phase : Nat := 0
    let tr : Nat := 0
    let b : List Byte := ptpBytes { (default : PtpMessage) with kind := 0, twoStep := true, sender := zeros 9 ++ [7] }
    let m : PtpMessage := { (default : PtpMessage) with kind := 0, twoStep := true, sender := zeros 9 ++ [7] }
    let a : PtpMessage := { (default : PtpMessage) with sender := zeros 9 ++ [7] }
    let k : Nat := 0
    let s : State := setPtp 1
      { (default : PtpPort) with state := 3, announce := some ({ (default : PtpMessage) with sender := zeros 9 ++ [7] }, 0) }
      { crown with cfg := [((0x0603, 1, 0), 0x80000000)], part := { PartId.init with quires := 2, mac0 := 5 } }
    let u : State := s.tick at_
    u.boot.restart = none ∧ p < 2 ∧ ptpEn u p = true ∧ tr = ptpTransport u p ∧ ptpRead b = some m ∧ m.domain = ptpDomain u
      p ∧ m.sender.take 8 ≠ clockId u ∧ u.time.rawStart.isSome = true ∧ m.kind = 0 ∧ m.twoStep = true ∧ (ptpPort u
      p).state = 3 ∧ (ptpPort u p).announce = some (a, k) ∧ a.sender = m.sender :=
  ⟨by decide, by decide, by decide, by decide, by decide +kernel, by decide, by decide, by decide, by decide, by decide, by decide, by decide, by decide⟩

theorem wit_PtpAndEdges_2 :
    let at_ : Nat := 0
    let p : Nat := 1
    let raw : Nat := 5
    let phase : Nat := 0
    let tr : Nat := 0
    let b : List Byte := ptpBytes { (default : PtpMessage) with kind := 1, sender := zeros 9 ++ [7] }
    let m : PtpMessage := { (default : PtpMessage) with kind := 1, sender := zeros 9 ++ [7] }
    let s : State := setPtp 1 { (default : PtpPort) with state := 2 }
      { crown with cfg := [((0x0603, 1, 0), 0x80000000)], part := { PartId.init with quires := 2, mac0 := 5 } }
    let u : State := s.tick at_
    u.boot.restart = none ∧ p < 2 ∧ ptpEn u p = true ∧ tr = ptpTransport u p ∧ ptpRead b = some m ∧ m.domain = ptpDomain u
      p ∧ m.sender.take 8 ≠ clockId u ∧ u.time.rawStart.isSome = true ∧ m.kind = 1 ∧ (ptpPort u p).state = 2 ∧ ptpPeer
      u p = false :=
  ⟨by decide, by decide, by decide, by decide, by decide +kernel, by decide, by decide, by decide, by decide, by decide, by decide⟩

theorem wit_PtpAndEdges_3 :
    let at_ : Nat := 0
    let p : Nat := 1
    let s : State := setPtp 1 { (default : PtpPort) with state := 2 }
      { crown with cfg := [((0x0603, 1, 0), 0x80000000)], time := { crown.time with state := 1 } }
    let u : State := s.tick at_
    u.boot.restart = none ∧ p < 2 ∧ ptpEn u p = true ∧ u.time.rawStart.isSome = true ∧ (ptpPort u p).state = 2 ∧
      u.time.state ≠ 0 ∧ (ptpPort u p).lastSync + logInterval (toSigned 8 (cf u 0x0603 p 4 31 24)) ≤ u.now :=
  ⟨by decide, by decide, by decide, by decide, by decide, by decide, by decide⟩

theorem wit_PtpAndEdges_4 :
    let at_ : Nat := 0
    let pin : Nat := 7
    let fine : Nat := 31
    let rise : Bool := true
    let s : State := { crown with evt := [(7, { (default : EvtPin) with lastRise := some 0 })] }
    let u : State := s.tick at_
    u.time.rawStart.isSome = true ∧ pin < 8 ∧ edgeAccepted u pin rise fine = false :=
  ⟨by decide, by decide, by decide⟩

theorem wit_PtpAndEdges_5 :
    let at_ : Nat := 0
    let pin : Nat := 7
    let fine : Nat := 32
    let rise : Bool := true
    let s : State := { crown with evt := [(7, { (default : EvtPin) with lastRise := some 0 })] }
    let u : State := s.tick at_
    u.time.rawStart.isSome = true ∧ pin < 8 ∧ edgeAccepted u pin rise fine = true :=
  ⟨by decide, by decide, by decide⟩

theorem wit_PtpAndEdges_6 :
    let at_ : Nat := 0
    let n : Nat := 3
    let k : Nat := 0
    let s : State := setUnit 3 { (default : Interval) with state := 2, start := some 0 } crown
    let u : State := s.tick at_
    n < 4 ∧ (unit_ u n).start = some k ∧ (unit_ u n).state = 2 ∧ k + 16 * iuWindow (unit_ u n) < 16 * rawNow u :=
  ⟨by decide, by decide, by decide, by decide⟩

theorem wit_PtpAndEdges_7 :
    let at_ : Nat := 0
    let n : Nat := 3
    let k : Nat := 0
    let s : State := setUnit 3 { (default : Interval) with holdEnd := some 0 } crown
    let u : State := s.tick at_
    n < 4 ∧ (unit_ u n).holdEnd = some k ∧ k ≤ 16 * rawNow u :=
  ⟨by decide, by decide, by decide⟩

theorem wit_PtpAndEdges_8 :
    let at_ : Nat := 0
    let s : State := crown
    let u : State := s.tick at_
    let v : Session := sess 5
    let p : Packet := pkt [3, 0, 0, 0]
    let r : Req := request 0x0503 p v u
    let z : State := takenState p v u
    let n : Nat := 3
    Accepted 0x0503 p tableRole Machine.unitOk v u ∧ r = request 0x0503 p v u ∧ z = takenState p v u ∧ n = r.f 0 1 ∧
      r.applyAt = none ∧ (unit_ z n).state = 0 ∧ (unit_ z n).holdEnd = none :=
  ⟨accepted_of (by decide +kernel), rfl, rfl, by decide, by decide, by decide, by decide⟩

theorem wit_PtpAndEdges_9 :
    let at_ : Nat := 0
    let v : Session := sess 5
    let p : Packet := { pkt (le 8 0 ++ le 4 0 ++ [3, 0, 0, 0]) with flags := 1 }
    let s : State := { crown with time := { crown.time with rawStart := some (10 * secU), ancDev := -5 } }
    let u : State := s.tick at_
    let r : Req := request 0x0503 p v u
    let z : State := takenState p v u
    let k : Int := 0
    Accepted 0x0503 p tableRole Machine.unitOk v u ∧ r = request 0x0503 p v u ∧ z = takenState p v u ∧ r.applyAt = some k
      ∧ scheduled z < 256 :=
  ⟨accepted_of (by decide +kernel), rfl, rfl, by decide, by decide⟩

theorem wit_PtpAndEdges_10 :
    let at_ : Nat := 0
    let s : State := crown
    let u : State := s.tick at_
    let v : Session := sess 5
    let p : Packet := pkt [3, 0, 0, 0]
    let r : Req := request 0x0504 p v u
    let z : State := takenState p v u
    let n : Nat := 3
    Accepted 0x0504 p tableRole Machine.unitOk v u ∧ r = request 0x0504 p v u ∧ z = takenState p v u ∧ n = r.f 0 1 :=
  ⟨accepted_of (by decide +kernel), rfl, rfl, by decide⟩

theorem wit_TimeCommands_1 :
    let at_ : Nat := 0
    let s : State := crown
    let u : State := s.tick at_
    let v : Session := sess 5
    let p : Packet := pkt []
    let r : Req := request 0x0500 p v u
    let z : State := takenState p v u
    Accepted 0x0500 p tableRole (exactly 0) v u ∧ r = request 0x0500 p v u ∧ z = takenState p v u :=
  ⟨accepted_of (by decide +kernel), rfl, rfl⟩

theorem wit_TimeCommands_2 :
    let at_ : Nat := 0
    let s : State := crown
    let u : State := s.tick at_
    let v : Session := sess 5
    let p : Packet := pkt (zeros 24)
    let r : Req := request 0x0501 p v u
    let z : State := takenState p v u
    let d : Int := -655360000000000
    Accepted 0x0501 p tableRole (fun r s => exactly 24 r s && valueOk s (r.f 0 8) (slice 8 16 r.params)) v u ∧ r = request
      0x0501 p v u ∧ z = takenState p v u ∧ z.time.state = 0 ∧ z.time.step = none ∧ d = valueStep z (r.f 0 8) (slice 8
      16 r.params) ∧ (0 ≤ d ∨ anyRunning z = false) ∧ discFull z = false :=
  ⟨accepted_of (by decide +kernel), rfl, rfl, by decide, by decide, by decide, by decide, by decide⟩

theorem wit_TimeCommands_3 :
    let at_ : Nat := 0
    let v : Session := sess 5
    let p : Packet := pkt (zeros 24)
    let s : State :=
      { crown with time := { crown.time with step := some { (default : TimeStep) with edge := 0, delta := 5 } } }
    let u : State := s.tick at_
    let r : Req := request 0x0501 p v u
    let z : State := takenState p v u
    Accepted 0x0501 p tableRole (fun r s => exactly 24 r s && valueOk s (r.f 0 8) (slice 8 16 r.params)) v u ∧ r = request
      0x0501 p v u ∧ z = takenState p v u ∧ z.time.step ≠ none :=
  ⟨accepted_of (by decide +kernel), rfl, rfl, by decide⟩

theorem wit_TimeCommands_4 :
    let at_ : Nat := 0
    let v : Session := sess 5
    let s : State := { crown with time := { crown.time with state := 1 } }
    let u : State := s.tick at_
    let p : Packet := pkt (1 :: zeros 31)
    let r : Req := request 0x0502 p v u
    let z : State := takenState p v u
    let d : Int := -655360000000000
    Accepted 0x0502 p tableRole (fun r s => exactly 32 r s && decide (r.f 0 1 ≤ 1) && zeroAt 1 7 r && (readDt16 (slice 16
      16 r.params)).isSome && (decide (r.f 0 1 = 0) || valueOk s (r.f 8 8) (slice 16 16 r.params))) v u ∧ r = request
      0x0502 p v u ∧ z = takenState p v u ∧ z.time.state ≠ 0 ∧ r.f 0 1 = 1 ∧ z.time.step = none ∧ d = valueStep z (r.f
      8 8) (slice 16 16 r.params) ∧ (0 ≤ d ∨ anyRunning z = false) ∧ discFull z = false :=
  ⟨accepted_of (by decide +kernel), rfl, rfl, by decide, by decide, by decide, by decide, by decide, by decide⟩

theorem wit_TimeCommands_5 :
    let at_ : Nat := 0
    let v : Session := sess 5
    let s : State :=
      { crown with time := { crown.time with step := some { (default : TimeStep) with edge := 0, delta := 5 } } }
    let u : State := s.tick at_
    let p : Packet := pkt (1 :: zeros 31)
    let r : Req := request 0x0502 p v u
    let z : State := takenState p v u
    Accepted 0x0502 p tableRole (fun r s => exactly 32 r s && decide (r.f 0 1 ≤ 1) && zeroAt 1 7 r && (readDt16 (slice 16
      16 r.params)).isSome && (decide (r.f 0 1 = 0) || valueOk s (r.f 8 8) (slice 16 16 r.params))) v u ∧ r = request
      0x0502 p v u ∧ z = takenState p v u ∧ z.time.step ≠ none :=
  ⟨accepted_of (by decide +kernel), rfl, rfl, by decide⟩

theorem wit_TimeCommands_6 :
    let at_ : Nat := 0
    let x : TimeStep := { (default : TimeStep) with edge := 0, delta := 5, acks := [0, 1] }
    let s : State :=
      { crown with time := { crown.time with step := some { (default : TimeStep) with edge := 0, delta := 5, acks := [0, 1] } } }
    let u : State := s.tick at_
    u.time.step = some x ∧ x.kind ≤ 1 ∧ ((x.edge * strobeU : Nat) : Int) ≤ devNow u ∧ (lateQuires u x.acks).isEmpty = true
      ∧ ((0 ≤ x.delta ∨ runsAtStep u x.edge = false)) :=
  ⟨by decide, by decide, by decide, by decide, by decide⟩

theorem wit_TimeCommands_7 :
    let at_ : Nat := 0
    let x : TimeStep := { (default : TimeStep) with kind := 2, edge := 0, delta := 5, acks := [0, 1] }
    let s : State :=
      { crown with time := { crown.time with step := some { (default : TimeStep) with kind := 2, edge := 0, delta := 5, acks := [0, 1] } } }
    let u : State := s.tick at_
    u.time.step = some x ∧ x.kind = 2 ∧ ((x.edge * strobeU : Nat) : Int) ≤ devNow u ∧ (lateQuires u x.acks).isEmpty = true
      ∧ ((0 ≤ x.delta ∨ runsAtStep u x.edge = false)) :=
  ⟨by decide, by decide, by decide, by decide, by decide⟩

theorem wit_TimeCommands_8 :
    let x : TimeStep := { (default : TimeStep) with kind := 2, edge := 0, delta := 5 }
    let s : State := crown
    let t : State := timeStep { (default : TimeStep) with kind := 2, edge := 0, delta := 5 } crown
    t = timeStep x s :=
  rfl

theorem wit_TimeCommands_9 :
    let x : TimeStep := { (default : TimeStep) with kind := 2, edge := 0, delta := 5 }
    let s : State := crown
    let t : State := timeStep { (default : TimeStep) with kind := 2, edge := 0, delta := 5 } crown
    t = timeStep x s ∧ x.source = 0 ∧ x.kind = 2 :=
  ⟨rfl, by decide, by decide⟩

theorem wit_ExcitationStatusAndTrips_1 :
    let at_ : Nat := 0
    let e : Nat := 63
    let a : Nat := 60000
    let i : Nat := 70000
    let s : State := crown
    let u : State := s.tick at_
    e < groupCount u ∧ (∀ g, g < groupCount u → (excOf u g).pulse = none) :=
  ⟨by decide, by decide⟩

theorem wit_ExcitationStatusAndTrips_2 :
    let at_ : Nat := 0
    let e : Nat := 63
    let a : Nat := 62
    let s : State := { setExc 62 { (default : ExcGroup) with phase := 7 } crown with cfg := [((0x0102, 62, 0), 2)] }
    let u : State := s.tick at_
    a = 2 * (e / 2) ∧ a + 1 < groupCount u ∧ excMode u a = 2 ∧ (excOf u a).tripped = false ∧ pulseOpened u a = false ∧
      (excOf u a).phase ≠ phaseNow u a :=
  ⟨by decide, by decide, by decide, by decide, by decide, by decide⟩

theorem wit_ExcitationStatusAndTrips_3 :
    let at_ : Nat := 0
    let e : Nat := 63
    let i : Nat := 99999
    let s : State := { crown with cfg := [((0x0102, 63, 0), 1)] }
    let u : State := s.tick at_
    e < groupCount u ∧ ((excMode u e = 1 ∨ excMode u e = 2)) ∧ (excOf u e).tripped = false ∧ pulseOpened u e = false ∧
      limitChecked u e = true ∧ 500 * iLimit u e < i :=
  ⟨by decide, by decide, by decide, by decide, by decide, by decide⟩

theorem wit_ExcitationStatusAndTrips_4 :
    let at_ : Nat := 0
    let e : Nat := 63
    let i : Nat := 5
    let s : State := { crown with cfg := [((0x0102, 63, 0), 1)] }
    let u : State := s.tick at_
    ((i ≤ 500 * iLimit u e ∨ limitChecked u e = false)) :=
  by decide

theorem wit_ExcitationStatusAndTrips_5 :
    let at_ : Nat := 0
    let e : Nat := 63
    let s : State := { crown with cfg := [((0x0102, 63, 0), 1)] }
    let u : State := s.tick at_
    e < groupCount u ∧ ((excMode u e = 1 ∨ excMode u e = 2)) ∧ ((excState u e = 1 ∨ excState u e = 2)) :=
  ⟨by decide, by decide, by decide⟩

theorem wit_ExcitationStatusAndTrips_6 :
    let at_ : Nat := 0
    let e : Nat := 63
    let s : State := { setExc 63 { (default : ExcGroup) with senseLow := true } crown with cfg := [((0x0102, 63, 0), 1)] }
    let u : State := s.tick at_
    (excOf u e).senseLow = true :=
  by decide

theorem wit_TestPulses_1 :
    let at_ : Nat := 0
    let e : Nat := 1
    let h : Nat := 0
    let p : Nat := 60
    let w : Nat := 1000
    let s : State := { crown with safe.handover := some 0, cfg := [((0x0102, 1, 0), 1)], safe.image := pulsedImage }
    let u : State := s.tick at_
    u.safe.handover = some h ∧ pulsePlan u e = some (p, w) ∧ pulseDue u h e ((excOf u e).nextPulse.getD 0).toNat ≤ u.now ∧
      suspended u e = false ∧ pulsePending u e = false ∧ pulseBusy u e = false ∧ excState u e = 1 :=
  ⟨by decide, by decide, by decide, by decide, by decide, by decide, by decide⟩

theorem wit_TestPulses_2 :
    let at_ : Nat := 0
    let e : Nat := 1
    let h : Nat := 0
    let p : Nat := 60
    let w : Nat := 1000
    let s : State := { crown with safe.handover := some 0, safe.image := pulsedImage }
    let u : State := s.tick at_
    u.safe.handover = some h ∧ pulsePlan u e = some (p, w) ∧ pulseDue u h e ((excOf u e).nextPulse.getD 0).toNat ≤ u.now ∧
      suspended u e = false ∧ pulsePending u e = false ∧ pulseBusy u e = false ∧ ((excState u e = 0 ∨ excState u e = 4
      ∨ excState u e = 5)) :=
  ⟨by decide, by decide, by decide, by decide, by decide, by decide, by decide⟩

theorem wit_TestPulses_3 :
    let at_ : Nat := 0
    let e : Nat := 63
    let sense : Nat := 99999
    let raw : List Int := [1]
    let s : State := { setExc 63 { (default : ExcGroup) with schedDue := true } crown with cfg := [((0x0102, 63, 0), 1)] }
    let u : State := s.tick at_
    (excOf u e).schedDue = true ∧ (excOf u e).nowReq = none ∧ pulseDeferred u e = false ∧ (excOf u e).pulse = none ∧
      excState u e ≠ 0 ∧ excState u e ≠ 4 ∧ excState u e ≠ 5 :=
  ⟨by decide, by decide, by decide, by decide, by decide, by decide, by decide⟩

theorem wit_TestPulses_4 :
    let at_ : Nat := 0
    let e : Nat := 63
    let sense : Nat := 99999
    let raw : List Int := [1]
    let r : Req := default
    let s : State :=
      { setExc 63 { (default : ExcGroup) with nowReq := some default, nowAt := -5000000000000000000 } crown with cfg := [((0x0102, 63, 0), 1)] }
    let u : State := s.tick at_
    (excOf u e).nowReq = some r ∧ (excOf u e).nowAt ≤ sincNow u ∧ pulseDeferred u e = false ∧ (excOf u e).pulse = none ∧
      excState u e ≠ 0 ∧ excState u e ≠ 4 ∧ excState u e ≠ 5 :=
  ⟨by decide, by decide, by decide, by decide, by decide, by decide, by decide⟩

theorem wit_TestPulses_5 :
    let at_ : Nat := 0
    let e : Nat := 63
    let i : Nat := 5
    let sense : Nat := 70000
    let raw : List Int := [0, 0x7FFFFFFF]
    let k : Pulse :=
      { (default : Pulse) with phase := 0, opened := -700000000000000000, preRaw := [0x08000000, 0x7FFFFFFF] }
    let s : State := setExc 63
      { (default : ExcGroup) with pulse := some { (default : Pulse) with phase := 0, opened := -700000000000000000, preRaw := [0x08000000, 0x7FFFFFFF] } }
      crown
    let u : State := s.tick at_
    (excOf u e).pulse = some k ∧ k.phase = 0 ∧ k.opened + k.width ≤ devNow u :=
  ⟨by decide, by decide, by decide⟩

theorem wit_TestPulses_6 :
    let at_ : Nat := 0
    let e : Nat := 63
    let sense : Nat := 70000
    let k : Pulse := { (default : Pulse) with phase := 1 }
    let s : State := setExc 63
      { (default : ExcGroup) with blankEnd := -700000000000000000, pulse := some { (default : Pulse) with phase := 1 } }
      crown
    let u : State := s.tick at_
    (excOf u e).blankEnd ≤ devNow u ∧ (excOf u e).pulse = some k ∧ k.phase = 1 :=
  ⟨by decide, by decide, by decide⟩

theorem wit_TestPulses_7 :
    let at_ : Nat := 0
    let e : Nat := 63
    let k : Pulse := { (default : Pulse) with phase := 2, result := 3 }
    let s : State := setExc 63
      { (default : ExcGroup) with pulse := some { (default : Pulse) with phase := 2, result := 3 } } crown
    let u : State := s.tick at_
    e < groupCount u ∧ (excOf u e).pulse = some k ∧ k.phase = 2 ∧ (∀ g, g < groupCount u → g ≠ e → (excOf u g).pulse =
      none) :=
  ⟨by decide, by decide, by decide, by decide⟩

theorem wit_ToneScans_1 :
    let at_ : Nat := 0
    let q : Nat := 1
    let s : State := { crown with cfg := [((0x0101, 255, 4), 1), ((0x0104, 1, 0), 0x00010000)] }
    let u : State := s.tick at_
    q < u.part.quires ∧ inService u q = true ∧ cf u 0x0104 q 0 31 16 ≠ 0 ∧ (toneOf u q).scan = none ∧ (toneOf u
      q).lastStart = none ∧ toneChans u q ≠ [] :=
  ⟨by decide, by decide, by decide, by decide, by decide, by decide⟩

theorem wit_ToneScans_2 :
    let at_ : Nat := 0
    let q : Nat := 1
    let c : Nat := 255
    let k : ToneScan := { (default : ToneScan) with remaining := [255], round := [255] }
    let s : State := setTone 1
      { (default : Tone) with scan := some { (default : ToneScan) with remaining := [255], round := [255] } } crown
    let u : State := s.tick at_
    let z : ToneReading :=
      { channel := c, re := (Config.toneOpen c u.now).1, im := (Config.toneOpen c u.now).2, limited := true }
    (toneOf u q).scan = some k ∧ k.roundStart + msU + cf u 0x0104 q 0 11 0 * 250 * usU ≤ u.now ∧ k.round = [c] ∧
      k.remaining.filter (fun c => !k.round.contains c) = [] ∧ z =
      { channel := c, re := (Config.toneOpen c u.now).1, im := (Config.toneOpen c u.now).2, limited := true } :=
  ⟨by decide, by decide, by decide, by decide, rfl⟩

theorem wit_ToneScans_3 :
    let at_ : Nat := 0
    let q : Nat := 1
    let c : Nat := 255
    let k : ToneScan := { (default : ToneScan) with remaining := [255], round := [255], first := -1000 }
    let a : Int × Int := (0, 0)
    let s : State := setTone 1
      { (default : Tone) with scan := some { (default : ToneScan) with remaining := [255], round := [255], first := -1000 } }
      { crown with cfg := [((0x0104, 1, 0), 1)] }
    let u : State := s.tick at_
    let z : ToneReading :=
      { channel := c, re := (toneZ u c (cf u 0x0104 q 0 11 0) a).1, im := (toneZ u c (cf u 0x0104 q 0 11 0) a).2, limited := false }
    (toneOf u q).scan = some k ∧ k.roundStart + msU + cf u 0x0104 q 0 11 0 * 250 * usU ≤ u.now ∧ k.round = [c] ∧
      k.remaining.filter (fun c => !k.round.contains c) = [] ∧ toneReady u c (cf u 0x0104 q 0 11 0) k.first = true ∧
      (toneSums u c (cf u 0x0104 q 0 11 0) k.first).1 = some a ∧ z =
      { channel := c, re := (toneZ u c (cf u 0x0104 q 0 11 0) a).1, im := (toneZ u c (cf u 0x0104 q 0 11 0) a).2, limited := false } :=
  ⟨by decide, by decide, by decide, by decide, by decide +kernel, by decide +kernel, rfl⟩

theorem wit_ToneScans_4 :
    let at_ : Nat := 0
    let q : Nat := 1
    let k : ToneScan := { (default : ToneScan) with remaining := [254, 255], round := [254], first := -1000 }
    let s : State := setTone 1
      { (default : Tone) with scan := some { (default : ToneScan) with remaining := [254, 255], round := [254], first := -1000 } }
      (setExc 63 { (default : ExcGroup) with events := [sincTime (-1000), sincTime (-936)] }
      { crown with cfg := [((0x0104, 1, 0), 1)] })
    let u : State := s.tick at_
    (toneOf u q).scan = some k ∧ k.roundStart + msU + cf u 0x0104 q 0 11 0 * 250 * usU ≤ u.now ∧ ((∀ c ∈ k.round,
      toneReady u c (cf u 0x0104 q 0 11 0) k.first = true ∧ (toneSums u c (cf u 0x0104 q 0 11 0) k.first).1 = none)) ∧
      k.remaining.filter (fun c => !k.round.contains c) ≠ [] :=
  ⟨by decide, by decide, by decide +kernel, by decide⟩

theorem wit_ToneScans_5 :
    let at_ : Nat := 0
    let q : Nat := 1
    let k : ToneScan := { (default : ToneScan) with remaining := [254], round := [254], first := -1000 }
    let s : State := setTone 1
      { (default : Tone) with scan := some { (default : ToneScan) with remaining := [254], round := [254], first := -1000 } }
      (setExc 63 { (default : ExcGroup) with events := [sincTime (-1000), sincTime (-936)] }
      { crown with cfg := [((0x0104, 1, 0), 1)] })
    let u : State := s.tick at_
    (toneOf u q).scan = some k ∧ k.roundStart + msU + cf u 0x0104 q 0 11 0 * 250 * usU ≤ u.now ∧ ((∀ c ∈ k.round,
      toneReady u c (cf u 0x0104 q 0 11 0) k.first = true ∧ (toneSums u c (cf u 0x0104 q 0 11 0) k.first).1 = none)) ∧
      k.remaining.filter (fun c => !k.round.contains c) = [] :=
  ⟨by decide, by decide, by decide +kernel, by decide⟩

theorem wit_CoalescedAndPeriodicReports_1 :
    let at_ : Nat := 0
    let ecode : Nat := 0x0302
    let q : Nat := 1
    let w : CoalWin := { ecode := 0x0302, quire := 1, opened := 0, phase := 0, evs := [ev 0x0302 40], last := 0 }
    let s : State :=
      { crown with faults.wins := [{ ecode := 0x0302, quire := 1, opened := 0, phase := 0, evs := [ev 0x0302 40], last := 0 }] }
    let u : State := s.tick at_
    coalWin u ecode q = some w ∧ w.phase = 0 ∧ w.opened + 2 * msU ≤ u.now ∧ (subjectsOf w.evs).length < 8 :=
  ⟨by decide, by decide, by decide, by decide⟩

theorem wit_CoalescedAndPeriodicReports_2 :
    let at_ : Nat := 0
    let ecode : Nat := 0x0302
    let q : Nat := 1
    let w : CoalWin :=
      { ecode := 0x0302, quire := 1, opened := 0, phase := 0, evs := (List.range 8).map (ev 0x0302), last := 0 }
    let s : State :=
      { crown with faults.wins := [{ ecode := 0x0302, quire := 1, opened := 0, phase := 0, evs := (List.range 8).map (ev 0x0302), last := 0 }] }
    let u : State := s.tick at_
    coalWin u ecode q = some w ∧ w.phase = 0 ∧ w.opened + 2 * msU ≤ u.now ∧ 8 ≤ (subjectsOf w.evs).length ∧ ecode ≠ 0x0401 :=
  ⟨by decide, by decide, by decide, by decide, by decide⟩

theorem wit_CoalescedAndPeriodicReports_3 :
    let at_ : Nat := 0
    let q : Nat := 1
    let w : CoalWin :=
      { ecode := 0x0401, quire := 1, opened := 0, phase := 0, evs := (List.range 8).map (ev 0x0401), last := 0 }
    let s : State :=
      { crown with faults.wins := [{ ecode := 0x0401, quire := 1, opened := 0, phase := 0, evs := (List.range 8).map (ev 0x0401), last := 0 }] }
    let u : State := s.tick at_
    coalWin u 0x0401 q = some w ∧ w.phase = 0 ∧ w.opened + 2 * msU ≤ u.now ∧ 8 ≤ (subjectsOf w.evs).length :=
  ⟨by decide, by decide, by decide, by decide⟩

theorem wit_CoalescedAndPeriodicReports_4 :
    let at_ : Nat := 0
    let ecode : Nat := 0x0302
    let q : Nat := 1
    let w : CoalWin := { ecode := 0x0302, quire := 1, opened := 0, phase := 1, evs := [ev 0x0302 40], last := 0 }
    let s : State :=
      { crown with faults.wins := [{ ecode := 0x0302, quire := 1, opened := 0, phase := 1, evs := [ev 0x0302 40], last := 0 }] }
    let u : State := s.tick at_
    coalWin u ecode q = some w ∧ w.phase = 1 ∧ w.last + 100 * msU ≤ u.now ∧ w.evs ≠ [] :=
  ⟨by decide, by decide, by decide, by decide⟩

theorem wit_CoalescedAndPeriodicReports_5 :
    let at_ : Nat := 0
    let ecode : Nat := 0x0302
    let q : Nat := 1
    let w : CoalWin := { ecode := 0x0302, quire := 1, opened := 0, phase := 1, evs := [], last := 0 }
    let s : State :=
      { crown with faults.wins := [{ ecode := 0x0302, quire := 1, opened := 0, phase := 1, evs := [], last := 0 }] }
    let u : State := s.tick at_
    coalWin u ecode q = some w ∧ w.phase = 1 ∧ w.last + 100 * msU ≤ u.now ∧ w.evs = [] :=
  ⟨by decide, by decide, by decide, by decide⟩

theorem wit_CoalescedAndPeriodicReports_6 :
    let at_ : Nat := 0
    let s : State :=
      { crown with faults.origSec := 5, faults.orig := [{ (default : OrigKey) with ecode := 0x0802, port := 1, count := 3 }] }
    let u : State := s.tick at_
    managerRuns u = true ∧ devSec (devNow u) ≠ u.faults.origSec :=
  ⟨by decide, by decide⟩

theorem wit_CoalescedAndPeriodicReports_7 :
    let at_ : Nat := 0
    let s : State := { crown with faults.origSec := 10 }
    let u : State := s.tick at_
    managerRuns u = true ∧ devSec (devNow u) = u.faults.origSec :=
  ⟨by decide, by decide⟩

theorem wit_CoalescedAndPeriodicReports_8 :
    let at_ : Nat := 0
    let s : State :=
      { crown with boot.release := none, faults.flapSec := 5, faults.active := [{ (default : FaultEntry) with unlogged := 3, listed := true }] }
    let u : State := s.tick at_
    managerRuns u = true ∧ sinceRelease u / secU ≠ u.faults.flapSec :=
  ⟨by decide, by decide⟩

theorem wit_WitnessVisits_1 :
    let at_ : Nat := 0
    let q : Nat := 1
    let c : Nat := 129
    let clocks : Nat := 16
    let s : State := crown
    let u : State := s.tick at_
    inService u q = true ∧ c < 130 ∧ (quire u q).running = true :=
  ⟨by decide, by decide, by decide⟩

theorem wit_WitnessVisits_2 :
    let at_ : Nat := 0
    let c : Nat := 255
    let q : Nat := 1
    let raw : Int := 77
    let st : Int := 13
    let p : Int := 0
    let s : State := setChan 255 { (default : Chan) with histNew := 10 } (setWit 1
      { (default : Witness) with state := 1, rr := 142 } { crown with cfg := [((0x0201, 255, 0), 0x8000000D)] })
    let u : State := s.tick at_
    let r : State := (rrWalk q 145 u).2
    let x : Conversion := convert u c (p + st) false raw
    let y : State := setWit q { witOf r q with rr := (witOf r q).rr + 1, slotEnd := p + st + 37 } r
    q = quireOf c ∧ isChan u c = true ∧ inService u q = true ∧ witMode u q = 1 ∧ (rrWalk q 145 u).1 = some c ∧ r = (rrWalk
      q 145 u).2 ∧ st = (settleOf u c : Int) ∧ rrPlace r q (st + 37) = some p ∧ p + st + 37 ≤ nowTick u ∧ (p + st) /
      200 + 1 ≤ (chan u c).histNew ∧ x = convert u c (p + st) false raw ∧ y = setWit q
      { witOf r q with rr := (witOf r q).rr + 1, slotEnd := p + st + 37 } r ∧ judged y c x = true :=
  ⟨by decide, by decide, by decide, by decide, by decide +kernel, rfl, by decide, by decide +kernel, by decide +kernel, by decide, rfl, rfl, by decide +kernel⟩

theorem wit_WitnessVisits_3 :
    let at_ : Nat := 0
    let c : Nat := 255
    let q : Nat := 1
    let raw : Int := 600000000
    let st : Int := 13
    let p : Int := 0
    let s : State := setChan 255 { (default : Chan) with histNew := 10 } (setWit 1
      { (default : Witness) with state := 1, rr := 142 } { crown with cfg := [((0x0201, 255, 0), 0x8000000D)] })
    let u : State := s.tick at_
    let r : State := (rrWalk q 145 u).2
    let x : Conversion := convert u c (p + st) false raw
    let y : State := setWit q { witOf r q with rr := (witOf r q).rr + 1, slotEnd := p + st + 37 } r
    q = quireOf c ∧ isChan u c = true ∧ inService u q = true ∧ witMode u q = 1 ∧ (rrWalk q 145 u).1 = some c ∧ r = (rrWalk
      q 145 u).2 ∧ st = (settleOf u c : Int) ∧ rrPlace r q (st + 37) = some p ∧ p + st + 37 ≤ nowTick u ∧ (p + st) /
      200 + 1 ≤ (chan u c).histNew ∧ x = convert u c (p + st) false raw ∧ y = setWit q
      { witOf r q with rr := (witOf r q).rr + 1, slotEnd := p + st + 37 } r ∧ judged y c x = false :=
  ⟨by decide, by decide, by decide, by decide, by decide +kernel, rfl, by decide, by decide +kernel, by decide +kernel, by decide, rfl, rfl, by decide +kernel⟩

theorem wit_WitnessVisits_4 :
    let at_ : Nat := 0
    let q : Nat := 1
    let zero : Int := -5000
    let ratio : Int := 1000100
    let s : State := setWit 1 { (default : Witness) with state := 1, rr := 144, ratioTap := 1000000 } crown
    let u : State := s.tick at_
    let r : State := (rrWalk q 145 u).2
    inService u q = true ∧ witMode u q = 1 ∧ r = (rrWalk q 145 u).2 ∧ 144 ≤ (witOf r q).rr ∧ beyond50uV (witCorrected u q
      0 zero) = false ∧ beyond100ppm (witCorrected u q 0 ratio) (witOf u q).ratioTap = false :=
  ⟨by decide, by decide, rfl, by decide +kernel, by decide +kernel, by decide +kernel⟩

theorem wit_WitnessVisits_5 :
    let at_ : Nat := 0
    let q : Nat := 1
    let zero : Int := 5001
    let ratio : Int := 0
    let s : State := setWit 1 { (default : Witness) with state := 1, rr := 144, failRow := 2 } crown
    let u : State := s.tick at_
    inService u q = true ∧ witMode u q = 1 ∧ 144 ≤ (witOf (rrWalk q 145 u).2 q).rr ∧ (witOf u q).failRow = 2 ∧ (beyond50uV
      (witCorrected u q 0 zero) || beyond100ppm (witCorrected u q 0 ratio) (witOf u q).ratioTap) = true :=
  ⟨by decide, by decide, by decide +kernel, by decide, by decide +kernel⟩

theorem wit_WitnessVisits_6 :
    let at_ : Nat := 0
    let q : Nat := 1
    let zero : Int := 5000
    let ratio : Int := 0
    let s : State := setWit 1 { (default : Witness) with state := 3, passRow := 2 } crown
    let u : State := s.tick at_
    inService u q = true ∧ (witOf u q).state = 3 ∧ (witOf u q).passRow = 2 ∧ u.conv.simul = none ∧ (beyond50uV
      (witCorrected u q 0 zero) || beyond100ppm (witCorrected u q 0 ratio) (witOf u q).ratioTap) = false :=
  ⟨by decide, by decide, by decide, by decide, by decide +kernel⟩

theorem wit_WitnessVisits_7 :
    let at_ : Nat := 0
    let q : Nat := 1
    let agnd : Int := 0
    let vref : Int := 0
    let ratio : Int := 0
    let zero : Int := 0
    let b : Int := 150
    let e : Int := 200
    let w : CoalWin := { ecode := 0x0401, quire := 1, opened := 0, phase := 2, evs := [], last := 0 }
    let s : State := setWit 1 { (default : Witness) with state := 1 }
      { crown with faults.wins := [{ ecode := 0x0401, quire := 1, opened := 0, phase := 2, evs := [], last := 0 }] }
    let u : State := s.tick at_
    coalWin u 0x0401 q = some w ∧ w.phase = 2 ∧ witMode u q = 1 ∧ (testSpans u q)[3]? = some (b, e) ∧ e ≤ nowTick u :=
  ⟨by decide, by decide, by decide, by decide +kernel, by decide⟩

theorem wit_Injections_1 :
    let at_ : Nat := 0
    let s : State := crown
    let u : State := s.tick at_
    let v : Session := sess 5
    let p : Packet := pkt (le 2 255 ++ le 2 256 ++ le 2 3277 ++ zeros 18)
    let r : Req := request 0x0300 p v u
    let z : State := takenState p v u
    let q : Nat := 1
    Accepted 0x0300 p tableRole injectOk v u ∧ r = request 0x0300 p v u ∧ z = takenState p v u ∧ q = codeQuire (r.f 0 2) ∧
      r.applyAt = none ∧ r.f 6 1 = 0 ∧ inService z q = true ∧ z.conv.simul = none ∧ (witOf z q).injections.length < 16
      ∧ ((permStandin z q = none ∨ injectSettle r z ≤ 113)) :=
  ⟨accepted_of (by decide +kernel), rfl, rfl, by decide, by decide, by decide, by decide, by decide, by decide, by decide⟩

theorem wit_Injections_2 :
    let at_ : Nat := 0
    let v : Session := sess 5
    let p : Packet := pkt (le 2 255 ++ le 2 256 ++ le 2 3277 ++ zeros 18)
    let s : State := { crown with conv.simul := some default }
    let u : State := s.tick at_
    let r : Req := request 0x0300 p v u
    let z : State := takenState p v u
    Accepted 0x0300 p tableRole injectOk v u ∧ r = request 0x0300 p v u ∧ z = takenState p v u ∧ r.applyAt = none ∧ r.f 6
      1 = 0 ∧ inService z (codeQuire (r.f 0 2)) = true ∧ z.conv.simul.isSome = true :=
  ⟨accepted_of (by decide +kernel), rfl, rfl, by decide, by decide, by decide, by decide⟩

theorem wit_Injections_3 :
    let at_ : Nat := 0
    let v : Session := sess 5
    let p : Packet := pkt (le 2 255 ++ le 2 256 ++ le 2 3277 ++ zeros 18)
    let s : State := setWit 1 { (default : Witness) with injections := List.replicate 16 default } crown
    let u : State := s.tick at_
    let r : Req := request 0x0300 p v u
    let z : State := takenState p v u
    Accepted 0x0300 p tableRole injectOk v u ∧ r = request 0x0300 p v u ∧ z = takenState p v u ∧ r.applyAt = none ∧ r.f 6
      1 = 0 ∧ inService z (codeQuire (r.f 0 2)) = true ∧ z.conv.simul = none ∧ 16 ≤ (witOf z (codeQuire (r.f 0
      2))).injections.length :=
  ⟨accepted_of (by decide +kernel), rfl, rfl, by decide, by decide, by decide, by decide, by decide⟩

theorem wit_Injections_4 :
    let at_ : Nat := 0
    let v : Session := sess 5
    let s : State := setWit 1
      { (default : Witness) with injections := [{ (default : Injection) with id := 65535, count := 1 }] } crown
    let u : State := s.tick at_
    let p : Packet := pkt (le 2 65535)
    let r : Req := request 0x0301 p v u
    let z : State := takenState p v u
    let q : Nat := 1
    Accepted 0x0301 p tableRole (exactly 2) v u ∧ r = request 0x0301 p v u ∧ z = takenState p v u ∧ injectionQuire z (r.f
      0 2) = some q :=
  ⟨accepted_of (by decide +kernel), rfl, rfl, by decide⟩

theorem wit_Injections_5 :
    let at_ : Nat := 0
    let q : Nat := 1
    let id : Nat := 65535
    let j : Injection := { (default : Injection) with id := 65535, count := 1, done := [default] }
    let s : State := setWit 1
      { (default : Witness) with injections := [{ (default : Injection) with id := 65535, count := 1, done := [default] }] }
      crown
    let u : State := s.tick at_
    injectionQuire u id = some q ∧ (witOf u q).injections.find? (·.id == id) = some j ∧ j.done.length = j.count :=
  ⟨by decide, by decide, by decide⟩

theorem wit_Injections_6 :
    let at_ : Nat := 0
    let q : Nat := 1
    let id : Nat := 65535
    let j : Injection := { (default : Injection) with id := 65535, count := 1 }
    let s : State := setWit 1
      { (default : Witness) with injections := [{ (default : Injection) with id := 65535, count := 1 }] } crown
    let u : State := s.tick at_
    injectionQuire u id = some q ∧ (witOf u q).injections.find? (·.id == id) = some j ∧ j.done.length ≠ j.count :=
  ⟨by decide, by decide, by decide⟩

theorem wit_Injections_7 :
    let at_ : Nat := 0
    let q : Nat := 1
    let id : Nat := 65535
    let j : Injection := { (default : Injection) with id := 65535, count := 1, start := 2 }
    let s : State := setWit 1
      { (default : Witness) with injections := [{ (default : Injection) with id := 65535, count := 1, start := 2 }] }
      crown
    let u : State := s.tick at_
    injectionQuire u id = some q ∧ (witOf u q).injections.find? (·.id == id) = some j ∧ j.start = 2 ∧ j.hold = none ∧
      j.deadline ≤ u.now :=
  ⟨by decide, by decide, by decide, by decide, by decide⟩

theorem wit_SimultaneousMode_1 :
    let at_ : Nat := 0
    let s : State := crown
    let u : State := s.tick at_
    let v : Session := sess 5
    let p : Packet := pkt ([31, 0] ++ le 2 448 ++ le 2 60 ++ [0, 1] ++ zeros 6 ++ le 2 255)
    let r : Req := request 0x0302 p v u
    let z : State := takenState p v u
    Accepted 0x0302 p tableRole simulOk v u ∧ r = request 0x0302 p v u ∧ z = takenState p v u ∧ ((simulLists r).zipIdx.any
      fun x => !x.1.isEmpty && !inService z x.2) = false ∧ (Machine.running z (r.f 0 1) || anyStandins z ||
      anyInjection z || z.conv.simul.isSome) = false :=
  ⟨accepted_of (by decide +kernel), rfl, rfl, by decide, by decide⟩

theorem wit_SimultaneousMode_2 :
    let at_ : Nat := 0
    let v : Session := sess 5
    let p : Packet := pkt ([31, 0] ++ le 2 448 ++ le 2 60 ++ [0, 1] ++ zeros 6 ++ le 2 255)
    let s : State :=
      { crown with conv.simul := some { stream := 4, period := 100, ends := none, lists := [], session := 1 } }
    let u : State := s.tick at_
    let r : Req := request 0x0302 p v u
    let z : State := takenState p v u
    Accepted 0x0302 p tableRole simulOk v u ∧ r = request 0x0302 p v u ∧ z = takenState p v u ∧ ((simulLists r).zipIdx.any
      fun x => !x.1.isEmpty && !inService z x.2) = false ∧ (Machine.running z (r.f 0 1) || anyStandins z ||
      anyInjection z || z.conv.simul.isSome) = true :=
  ⟨accepted_of (by decide +kernel), rfl, rfl, by decide, by decide⟩

theorem wit_SimultaneousMode_3 :
    let at_ : Nat := 0
    let v : Session := sess 5
    let s : State :=
      { crown with conv.simul := some { stream := 4, period := 100, ends := none, lists := [], session := 1 } }
    let u : State := s.tick at_
    let p : Packet := pkt []
    let r : Req := request 0x0303 p v u
    let z : State := takenState p v u
    Accepted 0x0303 p tableRole (exactly 0) v u ∧ r = request 0x0303 p v u ∧ z = takenState p v u ∧ z.conv.simul.isSome =
      true :=
  ⟨accepted_of (by decide +kernel), rfl, rfl, by decide⟩

theorem wit_SimultaneousMode_4 :
    let at_ : Nat := 0
    let k : Simul := { stream := 4, period := 100, ends := some (10 * secU), lists := [], session := 1 }
    let e : Nat := 10 * secU
    let s : State :=
      { crown with conv.simul := some { stream := 4, period := 100, ends := some (10 * secU), lists := [], session := 1 } }
    let u : State := s.tick at_
    u.conv.simul = some k ∧ k.ends = some e ∧ e ≤ u.now :=
  ⟨by decide, by decide, by decide⟩

theorem wit_SimultaneousMode_5 :
    let at_ : Nat := 0
    let start : Nat := 200
    let k : Simul := { stream := 4, period := 100, ends := none, lists := [[], [255]], session := 1 }
    let l : List (Nat × Int) := [(255, 7)]
    let s : State :=
      { setWit 1 { (default : Witness) with state := 2 } crown with conv.simul := some { stream := 4, period := 100, ends := none, lists := [[], [255]], session := 1 } }
    let u : State := s.tick at_
    u.conv.simul = some k ∧ start % k.period = 0 ∧ frameEnd u start ≤ nowTick u :=
  ⟨by decide, by decide, by decide⟩

theorem wit_SimultaneousMode_6 :
    let at_ : Nat := 0
    let start : Nat := 801
    let l : List (Nat × Int) := []
    let s : State := crown
    let u : State := s.tick at_
    start % simulPeriod u ≠ 0 :=
  by decide

theorem wit_SimultaneousMode_7 :
    let at_ : Nat := 0
    let start : Nat := 800
    let l : List (Nat × Int) := [(132, -5)]
    let s : State := setWit 1 { (default : Witness) with state := 2 } { crown with safe.image := pulsedImage }
    let u : State := s.tick at_
    u.conv.simul = none ∧ start % 800 = 0 :=
  ⟨by decide, by decide⟩

theorem wit_StitchFrames_1 :
    let at_ : Nat := 0
    let f : StitchFrame :=
      { (default : StitchFrame) with quire := 1, body := [0x31, 0x32], crc := crc32c [0x31, 0x32], period := 7, outputs := [(0, -5)] }
    let s : State := crown
    let u : State := s.tick at_
    f.quire < u.part.quires ∧ (quire u f.quire).running = true ∧ (quire u f.quire).svc < 2 ∧ (quire u f.quire).tries = []
      ∧ crc32c f.body = f.crc ∧ f.injected = [] ∧ u.conv.closed = none ∧ u.conv.opens = [] :=
  ⟨by decide, by decide, by decide, by decide, by decide, by decide, by decide, by decide⟩

theorem wit_StitchFrames_2 :
    let at_ : Nat := 0
    let k : Int := 100000000
    let f : StitchFrame :=
      { (default : StitchFrame) with quire := 1, body := [0x31, 0x32], crc := crc32c [0x31, 0x32], period := 7, outputs := [(0, -5)] }
    let s : State := { crown with conv.closed := some 100000000 }
    let u : State := s.tick at_
    f.quire < u.part.quires ∧ (quire u f.quire).running = true ∧ (quire u f.quire).svc < 2 ∧ (quire u f.quire).tries = []
      ∧ crc32c f.body = f.crc ∧ f.injected = [] ∧ u.conv.closed = some k ∧ unwrapPeriod u f.period ≤ k :=
  ⟨by decide, by decide, by decide, by decide, by decide, by decide, by decide, by decide⟩

theorem wit_StitchFrames_3 :
    let at_ : Nat := 0
    let id : Nat := 9
    let raw : Int := -77
    let a : Int := 0
    let x : Int := 13
    let j : Injection := { (default : Injection) with id := 9, count := 1, settle := 13, channel := 255 }
    let f : StitchFrame :=
      { (default : StitchFrame) with quire := 1, body := [0x31, 0x32], crc := crc32c [0x31, 0x32], period := 7, injected := [(9, -77)] }
    let s : State := setWit 1
      { (default : Witness) with state := 1, injections := [{ (default : Injection) with id := 9, count := 1, settle := 13, channel := 255 }] }
      crown
    let u : State := s.tick at_
    f.quire < u.part.quires ∧ (quire u f.quire).running = true ∧ (quire u f.quire).svc < 2 ∧ crc32c f.body = f.crc ∧
      f.injected = [(id, raw)] ∧ (witOf u f.quire).injections.find? (·.id == id) = some j ∧ witMode u f.quire = 1 ∧
      j.done.length < j.count ∧ injectSlot u f.quire j = some (a, x) ∧ x + 37 ≤ nowTick u :=
  ⟨by decide, by decide, by decide, by decide, by decide, by decide, by decide, by decide, by decide +kernel, by decide +kernel⟩

theorem wit_StitchFrames_4 :
    let at_ : Nat := 0
    let f : StitchFrame :=
      { (default : StitchFrame) with quire := 1, body := [0x31, 0x32], crc := 0, period := 7, outputs := [(0, -5)] }
    let s : State := crown
    let u : State := s.tick at_
    f.quire < u.part.quires ∧ (quire u f.quire).running = true ∧ ((quire u f.quire).tries.find? fun x => x.1 == f.seq) =
      none ∧ crc32c f.body ≠ f.crc :=
  ⟨by decide, by decide, by decide, by decide⟩

theorem wit_StitchFrames_5 :
    let at_ : Nat := 0
    let a : Nat := 5
    let f : StitchFrame :=
      { (default : StitchFrame) with quire := 1, body := [0x31, 0x32], crc := 0, period := 7, outputs := [(0, -5)] }
    let s : State := setQuire 1 { quire crown 1 with tries := [(0, 2, 5)] } crown
    let u : State := s.tick at_
    f.quire < u.part.quires ∧ (quire u f.quire).running = true ∧ ((quire u f.quire).tries.find? fun x => x.1 == f.seq) =
      some (f.seq, 2, a) ∧ crc32c f.body ≠ f.crc :=
  ⟨by decide, by decide, by decide, by decide⟩

theorem wit_StitchFrames_6 :
    let at_ : Nat := 0
    let m : Int := 7
    let x : OpenPeriod := { number := 7, firstAt := 0, quires := [] }
    let s : State :=
      { crown with part := { crown.part with quires := 1 }, conv.opens := [{ number := 7, firstAt := 0, quires := [] }], conv.closed := some 6 }
    let u : State := s.tick at_
    u.conv.opens.find? (fun y => y.number == m) = some x ∧ ((arrived u x = true ∨ x.firstAt + 8 * sincU ≤ u.now)) ∧
      ((u.conv.closed = none ∨ u.conv.closed = some (m - 1))) :=
  ⟨by decide, by decide, by decide⟩

theorem wit_StitchFrames_7 :
    let at_ : Nat := 0
    let q : Nat := 1
    let s : State := crown
    let u : State := s.tick at_
    q < u.part.quires ∧ (quire u q).running = true ∧ (quire u q).svc ≠ 2 ∧ (quire u q).outSince = 0 :=
  ⟨by decide, by decide, by decide, by decide⟩

theorem wit_StitchFrames_8 :
    let at_ : Nat := 0
    let q : Nat := 1
    let s : State := setQuire 1 default crown
    let u : State := s.tick at_
    q < u.part.quires ∧ (quire u q).running = false ∧ (quire u q).svc ≠ 2 :=
  ⟨by decide, by decide, by decide⟩

theorem wit_StitchFrames_9 :
    let at_ : Nat := 0
    let q : Nat := 1
    let m : Int := 7
    let s : State := crown
    let u : State := s.tick at_
    inService u q = true :=
  by decide

theorem wit_StitchFrames_10 :
    let at_ : Nat := 0
    let x : Nat := 2
    let q : Nat := 1
    let m : Int := 7
    let s : State := crown
    let u : State := s.tick at_
    2 ≤ x :=
  by decide

theorem wit_StitchFrames_11 :
    let at_ : Nat := 0
    let q : Nat := 1
    let need : Int := 11
    let s : State := crown
    let u : State := s.tick at_
    q < u.part.quires ∧ u.time.rawStart.isSome = true ∧ (quire u q).reentry ≠ 1 ∧ (quire u q).svc ≠ 2 ∧ (quire u
      q).running = true ∧ u.boot.stage = 3 ∧ (((quire u q).deskewAt = 0 ∨ (quire u q).deskewAt + secU ≤ u.now)) :=
  ⟨by decide, by decide, by decide, by decide, by decide, by decide, by decide⟩

theorem wit_StitchFrames_12 :
    let at_ : Nat := 0
    let q : Nat := 1
    let need : Int := 11
    let s : State := setQuire 1 { (default : Quire) with running := true, deskewAt := 10 * secU } crown
    let u : State := s.tick at_
    (quire u q).reentry ≠ 1 ∧ (quire u q).running = true ∧ ((u.boot.stage ≠ 3 ∨ ((quire u q).deskewAt ≠ 0 ∧ u.now < (quire
      u q).deskewAt + secU))) :=
  ⟨by decide, by decide, by decide⟩

theorem wit_StitchFrames_13 :
    let at_ : Nat := 0
    let q : Nat := 1
    let d : Nat := 255
    let need : Int := 1020
    let s : State := setQuire 1 default crown
    let u : State := s.tick at_
    q < u.part.quires ∧ u.time.rawStart.isSome = true ∧ (quire u q).reentry ≠ 1 ∧ (quire u q).svc ≠ 2 ∧ (quire u
      q).running = false ∧ deskewStep need = some d :=
  ⟨by decide, by decide, by decide, by decide, by decide, by decide⟩

theorem wit_StitchFrames_14 :
    let at_ : Nat := 0
    let q : Nat := 1
    let need : Int := 1021
    let s : State := setQuire 1 default crown
    let u : State := s.tick at_
    q < u.part.quires ∧ u.time.rawStart.isSome = true ∧ (quire u q).reentry ≠ 1 ∧ (quire u q).svc ≠ 2 ∧ (quire u
      q).running = false ∧ deskewStep need = none :=
  ⟨by decide, by decide, by decide, by decide, by decide, by decide⟩

theorem wit_StitchFrames_15 :
    let at_ : Nat := 0
    let q : Nat := 1
    let d : Nat := 255
    let need : Int := 1020
    let s : State := setQuire 1 { (default : Quire) with svc := 2, reentry := 1 } crown
    let u : State := s.tick at_
    q < u.part.quires ∧ u.time.rawStart.isSome = true ∧ (quire u q).reentry = 1 ∧ deskewStep need = some d :=
  ⟨by decide, by decide, by decide, by decide⟩

theorem wit_SincPeriodOutput_1 :
    let f : State := crown
    let s : State := crown
    let m : Int := 7
    let w : Int := -134217728
    let o : OpenQuire := { (default : OpenQuire) with quire := 1, outs := [(127, -134217728)] }
    let c : Nat := 255
    let k : Nat := 127
    let t : State := closeChan f m (some o) c k s
    heldAt s c m = false ∧ ((chan s c).marks.any fun x => x.covers m) = false ∧ o.outs.find? (fun p => p.1 == k) = some
      (k, w) ∧ o.common.contains k = false ∧ w.natAbs ≤ 2 ^ 27 ∧ t = closeChan f m (some o) c k s :=
  ⟨by decide, by decide, by decide, by decide, by decide, rfl⟩

theorem wit_SincPeriodOutput_2 :
    let f : State := crown
    let s : State := crown
    let m : Int := 7
    let c : Nat := 255
    let k : Nat := 127
    let t : State := closeChan f m none c k s
    heldAt s c m = false ∧ (chan s c).marks = [] ∧ t = closeChan f m none c k s :=
  ⟨by decide, by decide, rfl⟩

theorem wit_SincPeriodOutput_3 :
    let f : State := crown
    let s : State := setExc 63 { (default : ExcGroup) with holds := [{ first := 7, last := 7, ufrom := none }] } crown
    let m : Int := 7
    let w : Int := -134217728
    let o : OpenQuire := { (default : OpenQuire) with quire := 1, outs := [(127, -134217728)] }
    let c : Nat := 255
    let k : Nat := 127
    let t : State := closeChan f m (some o) c k s
    heldAt s c m = true ∧ o.outs.find? (fun p => p.1 == k) = some (k, w) ∧ o.common.contains k = false ∧ ((chan s
      c).hist.headD 0).natAbs ≤ 2 ^ 27 * (sincStep (modGain f c)).natAbs ∧ t = closeChan f m (some o) c k s :=
  ⟨by decide, by decide, by decide, by decide, rfl⟩

theorem wit_SincPeriodOutput_4 :
    let f : State := setChan 255
      { (default : Chan) with marks := [{ kind := .range, first := 0, last := none, atA := true }] } crown
    let s : State := setChan 255 { (default : Chan) with marks := [{ kind := .range, first := 0, last := none }] } crown
    let m : Int := 7
    let y : Int := 0
    let o : OpenQuire := { (default : OpenQuire) with quire := 1, standins := [(255, [0])] }
    let c : Nat := 255
    let k : Nat := 127
    let t : State := closeChan f m (some o) c k s
    heldAt s c m = false ∧ ((chan s c).marks.any fun x => x.kind.holds && x.covers m) = false ∧ ((chan s c).marks.any fun
      x => (x.kind == .standin || x.kind == .range) && x.covers m) = true ∧ o.common.contains k = false ∧ y.natAbs ≤ 2
      ^ 27 * (sincStep (modGain f c)).natAbs ∧ standinValue f c m (some o) = some (y, false) ∧ t = closeChan f m (some
      o) c k s :=
  ⟨by decide, by decide, by decide, by decide, by decide, by decide +kernel, rfl⟩

theorem wit_DrainsAndPrepares_1 :
    let at_ : Nat := 0
    let s : State := crown
    let u : State := s.tick at_
    let v : Session := sess 5
    let p : Packet := pkt [1, 0, 0, 0]
    let r : Req := request 0x0B05 p v u
    let z : State := takenState p v u
    let q : Nat := 1
    Accepted 0x0B05 p quireRole (Machine.quireOk 0) v u ∧ r = request 0x0B05 p v u ∧ z = takenState p v u ∧ q = r.f 0 1 ∧
      (quire z q).svc = 0 ∧ serviceBusy z = false ∧ z.conv.simul = none ∧ pairsSpared z q = true :=
  ⟨accepted_of (by decide +kernel), rfl, rfl, by decide, by decide, by decide, by decide, by decide⟩

theorem wit_DrainsAndPrepares_2 :
    let at_ : Nat := 0
    let q : Nat := 1
    let edge : Nat := 1000000000
    let s : State := setQuire 1 { (default : Quire) with drainEdge := some 1000000000 } crown
    let u : State := s.tick at_
    devNow u ≤ ackLimit edge ∧ u.time.step = none :=
  ⟨by decide, by decide⟩

theorem wit_DrainsAndPrepares_3 :
    let at_ : Nat := 0
    let q : Nat := 1
    let edge : Nat := 1000000000
    let c : PendCommit := { (default : PendCommit) with edge := 1000000000, acks := [0] }
    let s : State := { crown with cz.commits := [{ (default : PendCommit) with edge := 1000000000, acks := [0] }] }
    let u : State := s.tick at_
    devNow u ≤ ackLimit edge ∧ u.cz.commits = [c] ∧ c.edge = edge ∧ allAcked u c.acks = false ∧ allAcked u (q :: c.acks) =
      true :=
  ⟨by decide, by decide, by decide, by decide, by decide⟩

theorem wit_DrainsAndPrepares_4 :
    let at_ : Nat := 0
    let q : Nat := 1
    let edge : Nat := 0
    let s : State := crown
    let u : State := s.tick at_
    ackLimit edge < devNow u :=
  by decide

theorem wit_DrainsAndPrepares_5 :
    let at_ : Nat := 0
    let c : PendCommit := { (default : PendCommit) with edge := 0, acks := [0] }
    let edge : Nat := 0
    let s : State :=
      { crown with cz.commits := [{ (default : PendCommit) with edge := 0, acks := [0] }], time.ancDev := 700000000000000 }
    let u : State := s.tick at_
    ackLimit edge ≤ devNow u ∧ u.cz.commits = [c] ∧ c.edge = edge ∧ lateQuires u c.acks ≠ [] ∧ u.time.step = none ∧ (∀ q,
      q < u.part.quires → (quire u q).svc = 0) :=
  ⟨by decide, by decide, by decide, by decide, by decide, by decide⟩

theorem wit_DrainsAndPrepares_6 :
    let at_ : Nat := 0
    let q : Nat := 1
    let e : Nat := 0
    let s : State := setQuire 1 { (default : Quire) with drainEdge := some 0, svc := 1, drainAcks := [1] }
      { crown with time.ancDev := 700000000000000 }
    let u : State := s.tick at_
    (quire u q).drainEdge = some e ∧ (quire u q).svc = 1 ∧ (quire u q).outSince = 0 ∧ (quire u q).drainAcks ≠ [] ∧ ((e *
      strobeU : Nat) : Int) ≤ devNow u :=
  ⟨by decide, by decide, by decide, by decide, by decide⟩

theorem wit_DrainsAndPrepares_7 :
    let at_ : Nat := 0
    let q : Nat := 1
    let e : Nat := 0
    let s : State := setQuire 1 { (default : Quire) with drainEdge := some 0, svc := 1 }
      { crown with time.ancDev := 700000000000000 }
    let u : State := s.tick at_
    (quire u q).drainEdge = some e ∧ (quire u q).svc = 1 ∧ (quire u q).outSince = 0 ∧ (quire u q).drainAcks = [] ∧ ((e *
      strobeU : Nat) : Int) ≤ devNow u :=
  ⟨by decide, by decide, by decide, by decide, by decide⟩

theorem wit_DrainsAndPrepares_8 :
    let at_ : Nat := 0
    let q : Nat := 1
    let s : State := setQuire 1 { (default : Quire) with svc := 1, outSince := 1, running := true } crown
    let u : State := s.tick at_
    (quire u q).svc = 1 ∧ (quire u q).outSince ≠ 0 ∧ (quire u q).outSince + msU ≤ u.now :=
  ⟨by decide, by decide, by decide⟩

theorem wit_ReentryAndMicrocode_1 :
    let at_ : Nat := 0
    let v : Session := sess 5
    let s : State := setQuire 1 { (default : Quire) with svc := 2 } crown
    let u : State := s.tick at_
    let p : Packet := pkt [1, 1, 0, 0]
    let r : Req := request 0x0B06 p v u
    let z : State := takenState p v u
    let q : Nat := 1
    Accepted 0x0B06 p quireRole (Machine.quireOk 1) v u ∧ r = request 0x0B06 p v u ∧ z = takenState p v u ∧ q = r.f 0 1 ∧
      (quire z q).svc = 2 ∧ (quire z q).reentry = 0 ∧ (quire z q).loading = none :=
  ⟨accepted_of (by decide +kernel), rfl, rfl, by decide, by decide, by decide, by decide⟩

theorem wit_ReentryAndMicrocode_2 :
    let at_ : Nat := 0
    let s : State := crown
    let u : State := s.tick at_
    let v : Session := sess 5
    let p : Packet := pkt [1, 1, 0, 0]
    let r : Req := request 0x0B06 p v u
    let z : State := takenState p v u
    Accepted 0x0B06 p quireRole (Machine.quireOk 1) v u ∧ r = request 0x0B06 p v u ∧ z = takenState p v u ∧ (((quire z
      (r.f 0 1)).svc ≠ 2 ∨ (quire z (r.f 0 1)).reentry ≠ 0 ∨ (quire z (r.f 0 1)).loading ≠ none)) :=
  ⟨accepted_of (by decide +kernel), rfl, rfl, by decide⟩

theorem wit_ReentryAndMicrocode_3 :
    let at_ : Nat := 0
    let v : Session := sess 5
    let s : State := setQuire 1 { (default : Quire) with svc := 2 } crown
    let u : State := s.tick at_
    let p : Packet := pkt [1, 0, 0, 0]
    let r : Req := request 0x0B07 p v u
    let z : State := takenState p v u
    let q : Nat := 1
    let y : State := queued r [] z
    Accepted 0x0B07 p tableRole (Machine.quireOk 0) v u ∧ r = request 0x0B07 p v u ∧ z = takenState p v u ∧ q = r.f 0 1 ∧
      (quire z q).svc = 2 ∧ (quire z q).reentry = 0 ∧ (quire z q).loading = none ∧ ucodeTransfer z = false ∧ y =
      queued r [] z :=
  ⟨accepted_of (by decide +kernel), rfl, rfl, by decide, by decide, by decide, by decide, by decide, rfl⟩

theorem wit_ReentryAndMicrocode_4 :
    let at_ : Nat := 0
    let q : Nat := 1
    let d : List Byte := List.replicate 32 255
    let r : Req := default
    let s : State := setQuire 1 { (default : Quire) with svc := 2, loading := some default } crown
    let u : State := s.tick at_
    (quire u q).loading = some r ∧ d = flashBytes u.flash.ucode 24 32 :=
  ⟨by decide, by decide⟩

theorem wit_ReentryAndMicrocode_5 :
    let at_ : Nat := 0
    let q : Nat := 1
    let d : List Byte := []
    let r : Req := default
    let s : State := setQuire 1 { (default : Quire) with svc := 2, loading := some default } crown
    let u : State := s.tick at_
    (quire u q).loading = some r ∧ d ≠ flashBytes u.flash.ucode 24 32 :=
  ⟨by decide, by decide⟩

theorem wit_ReentryAndMicrocode_6 :
    let at_ : Nat := 0
    let q : Nat := 1
    let s : State := setQuire 1 { (default : Quire) with svc := 2, reentry := 2, sweep := true } crown
    let u : State := s.tick at_
    (quire u q).reentry = 2 ∧ (((quire u q).sweep = true ∨ (((quire u q).reentryEdge * secU : Nat) : Int) - msU ≤ devNow
      u)) :=
  ⟨by decide, by decide⟩

theorem wit_ReentryAndMicrocode_7 :
    let at_ : Nat := 0
    let q : Nat := 1
    let island : Int := -1000001
    let held : Bool := false
    let s : State := setQuire 1 { (default : Quire) with svc := 2, reentry := 3, running := true }
      { crown with time.ancDev := 700000000000000 }
    let u : State := s.tick at_
    (quire u q).reentry = 3 ∧ (quire u q).sweepLeft = [] ∧ (((quire u q).reentryEdge * secU : Nat) : Int) ≤ devNow u :=
  ⟨by decide, by decide, by decide⟩

theorem wit_PermanentStandins_1 :
    let at_ : Nat := 0
    let s : State := crown
    let u : State := s.tick at_
    let v : Session := sess 5
    let p : Packet := pkt [255, 0, 1, 0]
    let r : Req := request 0x0B08 p v u
    let z : State := takenState p v u
    let c : Nat := 255
    Accepted 0x0B08 p standinRole standinOk v u ∧ r = request 0x0B08 p v u ∧ z = takenState p v u ∧ c = r.f 0 2 ∧ r.f 2 1
      = 1 ∧ inService z (quireOf c) = true ∧ (witOf z (quireOf c)).perm ≠ some c ∧ standinRefused z c = false :=
  ⟨accepted_of (by decide +kernel), rfl, rfl, by decide, by decide, by decide, by decide, by decide⟩

theorem wit_PermanentStandins_2 :
    let at_ : Nat := 0
    let v : Session := sess 5
    let s : State := setWit 1 { (default : Witness) with perm := some 254 } crown
    let u : State := s.tick at_
    let p : Packet := pkt [255, 0, 1, 0]
    let r : Req := request 0x0B08 p v u
    let z : State := takenState p v u
    let c : Nat := 255
    Accepted 0x0B08 p standinRole standinOk v u ∧ r = request 0x0B08 p v u ∧ z = takenState p v u ∧ c = r.f 0 2 ∧ r.f 2 1
      = 1 ∧ inService z (quireOf c) = true ∧ (witOf z (quireOf c)).perm ≠ some c ∧ standinRefused z c = true :=
  ⟨accepted_of (by decide +kernel), rfl, rfl, by decide, by decide, by decide, by decide, by decide⟩

theorem wit_PermanentStandins_3 :
    let at_ : Nat := 0
    let v : Session := sess 5
    let s : State := setWit 1 { (default : Witness) with perm := some 255 } crown
    let u : State := s.tick at_
    let p : Packet := pkt [255, 0, 0, 0]
    let r : Req := request 0x0B08 p v u
    let z : State := takenState p v u
    let c : Nat := 255
    Accepted 0x0B08 p standinRole standinOk v u ∧ r = request 0x0B08 p v u ∧ z = takenState p v u ∧ c = r.f 0 2 ∧
      inService z (quireOf c) = true ∧ (witOf z (quireOf c)).perm = some c :=
  ⟨accepted_of (by decide +kernel), rfl, rfl, by decide, by decide, by decide⟩

theorem wit_PermanentStandins_4 :
    let at_ : Nat := 0
    let q : Nat := 1
    let c : Nat := 255
    let m : Int := 0
    let s : State := setWit 1 { (default : Witness) with state := 1, perm := some 255, permAt := some 0 } crown
    let u : State := s.tick at_
    (witOf u q).perm = some c ∧ (witOf u q).permAt = some m ∧ quireOf c = q ∧ m ≤ sincNow u ∧ (witOf u q).state ≠ 3 ∧
      (witOf u q).state ≠ 4 ∧ injectionsBefore u q u.now = false ∧ (witOf u q).posA = none ∧ calStandin u q = none :=
  ⟨by decide, by decide, by decide, by decide, by decide, by decide, by decide, by decide, by decide⟩

theorem wit_PermanentStandins_5 :
    let at_ : Nat := 0
    let q : Nat := 1
    let s : State := setWit 1
      { (default : Witness) with state := 1, perm := some 255, permAt := some 0, injections := [default] } crown
    let u : State := s.tick at_
    injectionsBefore u q u.now = true :=
  by decide

theorem wit_PermanentStandins_6 :
    let at_ : Nat := 0
    let s : State := crown
    let u : State := s.tick at_
    let v : Session := sess 5
    let p : Packet := pkt []
    let r : Req := request 0x0A04 p v u
    let z : State := takenState p v u
    Accepted 0x0A04 p tableRole (exactly 0) v u ∧ r = request 0x0A04 p v u ∧ z = takenState p v u :=
  ⟨accepted_of (by decide +kernel), rfl, rfl⟩

theorem wit_EnsembleComparisons_1 :
    let at_ : Nat := 0
    let q : Nat := 1
    let e : Nat := 10 * secU
    let s : State := setEns 1 { Ensemble.init with warm := 4, nextFull := some (10 * secU) } crown
    let u : State := s.tick at_
    u.boot.restart = none ∧ (ensOf u q).nextFull = some e ∧ e ≤ u.now ∧ (ensOf u q).comparing = 0 ∧ (((ensOf u q).warm = 3
      ∨ (ensOf u q).warm = 4)) ∧ inService u q = true :=
  ⟨by decide, by decide, by decide, by decide, by decide, by decide⟩

theorem wit_EnsembleComparisons_2 :
    let at_ : Nat := 0
    let q : Nat := 1
    let s : State := setEns 1 { Ensemble.init with warm := 2 } { crown with now := 70 * secU }
    let u : State := s.tick at_
    u.boot.restart = none ∧ (ensOf u q).warm = 2 ∧ (ensOf u q).lastQuick + 60 * secU ≤ u.now ∧ inService u q = true :=
  ⟨by decide, by decide, by decide, by decide⟩

theorem wit_EnsembleComparisons_3 :
    let at_ : Nat := 0
    let q : Nat := 1
    let l : List Bool := [false]
    let s : State := setEns 1 { Ensemble.init with warm := 4, comparing := 1, compStart := 0 }
      { crown with now := 40 * secU }
    let u : State := s.tick at_
    u.boot.restart = none ∧ (ensOf u q).comparing = 1 ∧ (ensOf u q).compStart + 32 * secU ≤ u.now ∧ (∀ i, i < 8 →
      connected (zener (ensOf u q) i) = true) ∧ (∀ i, i < 8 → l.getD i false = false) ∧ (∀ i, i < 8 → rabs (deviation
      u q i) ≤ 1000000) :=
  ⟨by decide, by decide, by decide, by decide, by decide, by decide +kernel⟩

theorem wit_EnsembleComparisons_4 :
    let at_ : Nat := 0
    let q : Nat := 1
    let l : List Bool := [false]
    let s : State := setEns 1 { Ensemble.init with warm := 4, comparing := 2, compStart := 0 }
      { crown with now := 100 * secU }
    let u : State := s.tick at_
    u.boot.restart = none ∧ (ensOf u q).comparing = 2 ∧ (ensOf u q).compStart + 96 * secU ≤ u.now ∧ (∀ i, i < 8 →
      connected (zener (ensOf u q) i) = true) ∧ (∀ i, i < 8 → l.getD i false = false) ∧ (∀ i, i < 8 → rabs (deviation
      u q i) ≤ 1000000) :=
  ⟨by decide, by decide, by decide, by decide, by decide, by decide +kernel⟩

theorem wit_EnsembleComparisons_5 :
    let at_ : Nat := 0
    let q : Nat := 1
    let l : List Bool := [true]
    let s : State := setEns 1 { Ensemble.init with warm := 4, comparing := 2, compStart := 0 }
      { crown with now := 100 * secU }
    let u : State := s.tick at_
    u.boot.restart = none ∧ inService u q = true ∧ (ensOf u q).warm = 4 ∧ (ensOf u q).comparing = 2 ∧ (ensOf u
      q).compStart + 96 * secU ≤ u.now ∧ (∀ i, i < 8 → connected (zener (ensOf u q) i) = true) ∧ l[0]? = some true :=
  ⟨by decide, by decide, by decide, by decide, by decide, by decide, by decide⟩

theorem wit_EnsembleComparisons_6 :
    let at_ : Nat := 0
    let q : Nat := 1
    let isl : Int := -1000000
    let n : Nat := 0
    let s : State := setEns 1 { Ensemble.init with warm := 1 } crown
    let u : State := s.tick at_
    q < u.part.quires ∧ (ensOf u q).warm = 1 ∧ isl.natAbs ≤ 1000000 :=
  ⟨by decide, by decide, by decide⟩

theorem wit_EnsembleComparisons_7 :
    let at_ : Nat := 0
    let q : Nat := 1
    let isl : Int := 0
    let n : Nat := 300
    let s : State := setEns 1
      { Ensemble.init with warm := 2, warm1 := 10, members := List.replicate 8 { (default : Member) with state := 4 } }
      { crown with cfg := [((0x0501, 1, 4), 0)] }
    let u : State := s.tick at_
    q < u.part.quires ∧ (ensOf u q).warm = 2 ∧ 300 ≤ n ∧ (ensOf u q).leftCold + (ensOf u q).warm1 * secU ≤ u.now ∧
      settledBy (ensOf u q) true 10 100 = true ∧ cfBit u 0x0501 q 4 1 = false :=
  ⟨by decide, by decide, by decide, by decide, by decide, by decide⟩

theorem wit_EnsembleComparisons_8 :
    let at_ : Nat := 0
    let q : Nat := 1
    let isl : Int := 0
    let n : Nat := 0
    let s : State := setEns 1
      { Ensemble.init with warm := 3, warm2 := 10, members := List.replicate 8 { (default : Member) with state := 4 } }
      crown
    let u : State := s.tick at_
    q < u.part.quires ∧ (ensOf u q).warm = 3 ∧ (ensOf u q).leftCold + (ensOf u q).warm2 * secU ≤ u.now ∧ settledBy (ensOf
      u q) false 2 20 = true :=
  ⟨by decide, by decide, by decide, by decide⟩

theorem wit_EnsembleComparisons_9 :
    let at_ : Nat := 0
    let q : Nat := 1
    let absent : Bool := false
    let n : Nat := 10
    let s : State := setEns 1 { Ensemble.init with warm := 2 } crown
    let u : State := s.tick at_
    q < u.part.quires ∧ (ensOf u q).warm = 2 ∧ ((absent = true ∨ 10 ≤ n)) :=
  ⟨by decide, by decide, by decide⟩

theorem wit_EnsembleComparisons_10 :
    let at_ : Nat := 0
    let q : Nat := 1
    let s : State := setEns 1 { Ensemble.init with warm := 5 } crown
    let u : State := s.tick at_
    (ensOf u q).warm = 5 :=
  by decide

theorem wit_CalibrationRuns_1 :
    let at_ : Nat := 0
    let c : Nat := 255
    let s : State := setChan 255
      { (default : Chan) with cal := [(1, default), (0, default), (2, default), (3, default), (4, default)] } (setEns
      1 { Ensemble.init with thetas := [(-200000000000, 150000)] } crown)
    let u : State := s.tick at_
    u.boot.restart = none ∧ isChan u c = true ∧ cfBit u 0x0501 (quireOf c) 4 0 = true ∧ (chan u c).run = none ∧ (witOf u
      (quireOf c)).perm ≠ some c ∧ beyondSince u c (sincNow u - 2560000) = true :=
  ⟨by decide, by decide, by decide, by decide, by decide, by decide⟩

theorem wit_CalibrationRuns_2 :
    let at_ : Nat := 0
    let c : Nat := 255
    let x : RangeCal := default
    let s : State := setChan 255 { (default : Chan) with cal := [(0, default)] }
      { crown with now := 90000 * secU, cfg := [((0x0501, 1, 8), 65536)] }
    let u : State := s.tick at_
    u.boot.restart = none ∧ isChan u c = true ∧ (chan u c).run = none ∧ (witOf u (quireOf c)).perm ≠ some c ∧ (chan u
      c).cal.find (gainOf u c) = some x ∧ x.at_ + cf u 0x0501 (quireOf c) 8 31 16 * 3600 * secU < u.now :=
  ⟨by decide, by decide, by decide, by decide, by decide, by decide⟩

theorem wit_CalibrationRuns_3 :
    let c : Nat := 255
    let st : Bool := false
    let s : State := crown
    let t : State := queueCal c st none s
    (chan s c).run = none ∧ t = queueCal c st none s :=
  ⟨by decide, rfl⟩

theorem wit_CalibrationRuns_4 :
    let at_ : Nat := 0
    let q : Nat := 1
    let c : Nat := 255
    let a : Nat := 0
    let r : CalRun := { (default : CalRun) with state := 1 }
    let s : State :=
      { setChan 255 { (default : Chan) with run := some { (default : CalRun) with state := 1 } } (setEns 1 { Ensemble.init with warm := 4 } (setWit 1 { (default : Witness) with state := 1 } crown)) with cal.queue := [(255, true)] }
    let u : State := s.tick at_
    let m : Int := firstStandin u q
    u.boot.restart = none ∧ calReady u q = some c ∧ (chan u c).run = some r ∧ calAsked u q = some a ∧ injectionsBefore u q
      a = false ∧ calStandin u q = none ∧ (witAsked u q).any (· < a) = false ∧ (witOf u q).posA = none ∧ m =
      firstStandin u q :=
  ⟨by decide, by decide, by decide, by decide, by decide, by decide, by decide, by decide, rfl⟩

theorem wit_CalibrationRuns_5 :
    let at_ : Nat := 0
    let q : Nat := 1
    let c : Nat := 255
    let r : CalRun := { (default : CalRun) with state := 1 }
    let s : State :=
      { setChan 255 { (default : Chan) with run := some { (default : CalRun) with state := 1 } } (setEns 1 { Ensemble.init with warm := 4 } (setWit 1 { (default : Witness) with state := 1, perm := some 255, posA := some { channel := 255, kind := 2, first := 0, last := none, suspended := false } } crown)) with cal.queue := [(255, true)] }
    let u : State := s.tick at_
    u.boot.restart = none ∧ calReady u q = some c ∧ (chan u c).run = some r ∧ calAsked u q = none :=
  ⟨by decide, by decide, by decide, by decide⟩

theorem wit_CalibrationRuns_6 :
    let q : Nat := 1
    let c : Nat := 255
    let s : State :=
      { setChan 255 { (default : Chan) with run := some { (default : CalRun) with state := 1 } } (setEns 1 { Ensemble.init with warm := 4 } (setWit 1 { (default : Witness) with state := 1 } crown)) with cal.queue := [(255, true)] }
    calReady s q = some c :=
  by decide

theorem wit_CalibrationRuns_7 :
    let at_ : Nat := 0
    let c : Nat := 132
    let r : CalRun := { (default : CalRun) with state := 3 }
    let s : State :=
      { setChan 132 { (default : Chan) with run := some { (default : CalRun) with state := 3 } } (setEns 1 { Ensemble.init with warm := 4 } (setWit 1 { (default : Witness) with state := 1 } crown)) with cal.queue := [(132, true)], safe.image := [((0x0B01, 0, 0), 0x80000000), ((0x0B03, 1, 0), 132 * 65536)] }
    let u : State := s.tick at_
    u.boot.restart = none ∧ (chan u c).run = some r ∧ r.state = 3 ∧ calTurn u (quireOf c) = some c ∧ calReady u (quireOf
      c) = none ∧ max r.since (witOf u (quireOf c)).calFreed + 10 * secU ≤ u.now :=
  ⟨by decide, by decide, by decide, by decide, by decide, by decide⟩

theorem wit_CalibrationRuns_8 :
    let at_ : Nat := 0
    let c : Nat := 255
    let r : CalRun := { (default : CalRun) with state := 2 }
    let sweep : Int × Int × Int := (0, 0, 0)
    let drop : Int × Int := (5, -5)
    let s : State := setChan 255
      { (default : Chan) with histNew := 12547, run := some { (default : CalRun) with state := 2 } } crown
    let u : State := s.tick at_
    ¬ ((quire u (quireOf c)).reentry = 3 ∧ (quire u (quireOf c)).sweepLeft.head? = some c) ∧ (chan u c).run = some r ∧
      r.state = 2 ∧ r.last < (chan u c).histNew :=
  ⟨by decide, by decide, by decide, by decide⟩

theorem wit_CalibrationRuns_9 :
    let at_ : Nat := 0
    let c : Nat := 255
    let q : Nat := 1
    let a : Int := 0
    let b : Int := 5
    let d : Int := -5
    let drop : Int × Int := (5, -5)
    let s : State := setQuire 1 { (default : Quire) with svc := 2, reentry := 3, running := true, sweepLeft := [255] }
      crown
    let u : State := s.tick at_
    q = quireOf c ∧ (quire u q).reentry = 3 ∧ (quire u q).sweepLeft.head? = some c :=
  ⟨by decide, by decide, by decide⟩

theorem wit_CalibrationRuns_10 :
    let c : Nat := 255
    let g : Nat := 0
    let x : CalMeas := { o := 0, g := 1, lin := 0, iNa := 0 }
    let s : State := crown
    let t : State := calJudge c g false true x s
    calFails s c g x = 0 ∧ t = calJudge c g false true x s :=
  ⟨by decide +kernel, rfl⟩

theorem wit_CalibrationRuns_11 :
    let c : Nat := 255
    let g : Nat := 0
    let x : CalMeas := { o := 0, g := 2, lin := 0, iNa := 0 }
    let st : Bool := true
    let s : State := crown
    let t : State := calJudge c g st false x s
    calFails s c g x ≠ 0 ∧ t = calJudge c g st false x s :=
  ⟨by decide +kernel, rfl⟩

theorem wit_CalibrationRuns_12 :
    let at_ : Nat := 0
    let q : Nat := 1
    let zero : Int := 7
    let d1 : Int × Int := (5, -5)
    let d16 : Int × Int := (5, -5)
    let ratio : Int := 5
    let vref : Int := -5
    let s : State := setWit 1 { (default : Witness) with state := 1 } { crown with now := 86400 * secU }
    let u : State := s.tick at_
    u.boot.restart = none ∧ inCrown u = true ∧ inService u q = true ∧ witMode u q = 1 ∧ (ensOf u q).refShift = false ∧
      ((span (128 * q) 128).filter fun c => decide ((chan u c).wstate = 2)).length ≤ 8 ∧ injectionsBefore u q u.now =
      false ∧ (witOf u q).calAt + 86400 * secU ≤ u.now :=
  ⟨by decide, by decide, by decide, by decide, by decide, by decide, by decide, by decide⟩

theorem wit_CalibrationRuns_13 :
    let at_ : Nat := 0
    let q : Nat := 1
    let zero : Int := 7
    let d1 : Int × Int := (5, -5)
    let d16 : Int × Int := (5, -5)
    let ratio : Int := 5
    let vref : Int := -5
    let s : State := setEns 1 { Ensemble.init with refShift := true } { crown with now := 86400 * secU }
    let u : State := s.tick at_
    (ensOf u q).refShift = true :=
  by decide

theorem wit_PlannerAndRings_1 :
    let at_ : Nat := 0
    let q : Nat := 1
    let r : Nat := 4
    let s : State := setEns 1
      { Ensemble.init with uLimits := [0, 0, 0, 0, 1000], transfers := [{ (default : ExtTransfer) with uRel := 20 }] }
      { crown with time := { crown.time with state := 1 } }
    let u : State := s.tick at_
    u.boot.restart = none ∧ r < 5 ∧ (ensOf u q).warned.contains r = false ∧ planReached u q r (cf u 0x0501 q 0x0C 15 0) =
      true :=
  ⟨by decide, by decide, by decide, by decide +kernel⟩

theorem wit_PlannerAndRings_2 :
    let at_ : Nat := 0
    let q : Nat := 1
    let r : Nat := 4
    let s : State := setEns 1
      { Ensemble.init with uLimits := [0, 0, 0, 0, 1000], transfers := [{ (default : ExtTransfer) with uRel := 20 }] }
      { crown with time := { crown.time with state := 1 } }
    let u : State := s.tick at_
    u.boot.restart = none ∧ r < 5 ∧ (ensOf u q).due.contains r = false ∧ planReached u q r 0 = true :=
  ⟨by decide, by decide, by decide, by decide +kernel⟩

theorem wit_PlannerAndRings_3 :
    let at_ : Nat := 0
    let q : Nat := 1
    let r : Nat := 4
    let s : State := setEns 1 { Ensemble.init with warned := [4], due := [4] } crown
    let u : State := s.tick at_
    (ensOf u q).warned.contains r = true ∧ (ensOf u q).due.contains r = true :=
  ⟨by decide, by decide⟩

theorem wit_PlannerAndRings_4 :
    let at_ : Nat := 0
    let s : State :=
      { crown with part := { crown.part with quires := 1 }, time := { crown.time with state := 1, ancDev := 86400 * 65536000000000 }, flash.bad := [] }
    let u : State := s.tick at_
    let day : Nat := 1
    u.boot.restart = none ∧ u.time.state ≠ 0 ∧ day = devSec (devNow u) / 86400 ∧ u.part.quires = 1 ∧ (ensOf u 0).dayLast <
      day ∧ u.flash.ring.length < ringCap ∧ u.flash.bad = [] :=
  ⟨by decide, by decide, by decide, by decide, by decide, by decide, by decide⟩

theorem wit_PlannerAndRings_5 :
    let at_ : Nat := 0
    let s : State := { crown with part := { crown.part with quires := 1 }, time := { crown.time with state := 1 } }
    let u : State := s.tick at_
    u.time.state ≠ 0 ∧ u.part.quires = 1 ∧ devSec (devNow u) / 86400 ≤ (ensOf u 0).dayLast :=
  ⟨by decide, by decide, by decide⟩

theorem wit_CalibrationCommands_1 :
    let at_ : Nat := 0
    let s : State := crown
    let u : State := s.tick at_
    let v : Session := sess 5
    let p : Packet := pkt [1, 0, 2, 0, 255, 0, 7, 0]
    let r : Req := request 0x0400 p v u
    let z : State := takenState p v u
    let l : List Nat := [255, 7]
    Accepted 0x0400 p tableRole calOk v u ∧ r = request 0x0400 p v u ∧ z = takenState p v u ∧ l = codesAt r 4 (r.f 2 2) ∧
      (∀ c, c ∈ l → inService z (quireOf c) = true) :=
  ⟨accepted_of (by decide +kernel), rfl, rfl, by decide, by decide⟩

theorem wit_CalibrationCommands_2 :
    let at_ : Nat := 0
    let s : State := crown
    let u : State := s.tick at_
    let v : Session := sess 5
    let p : Packet := pkt [1, 0, 0, 0, 255, 0]
    let r : Req := request 0x0401 p v u
    let z : State := takenState p v u
    let c : Nat := 255
    Accepted 0x0401 p tableRole abortOk v u ∧ r = request 0x0401 p v u ∧ z = takenState p v u ∧ r.f 0 2 = 1 ∧ c = r.f 4 2
      ∧ (chan z c).run = none :=
  ⟨accepted_of (by decide +kernel), rfl, rfl, by decide, by decide, by decide⟩

theorem wit_CalibrationCommands_3 :
    let at_ : Nat := 0
    let v : Session := sess 5
    let s : State := setChan 255 { (default : Chan) with run := some { (default : CalRun) with state := 1 } } crown
    let u : State := s.tick at_
    let p : Packet := pkt [1, 0, 0, 0, 255, 0]
    let r : Req := request 0x0401 p v u
    let z : State := takenState p v u
    let c : Nat := 255
    let x : CalRun := { (default : CalRun) with state := 1 }
    Accepted 0x0401 p tableRole abortOk v u ∧ r = request 0x0401 p v u ∧ z = takenState p v u ∧ r.f 0 2 = 1 ∧ c = r.f 4 2
      ∧ (chan z c).run = some x ∧ x.state = 1 :=
  ⟨accepted_of (by decide +kernel), rfl, rfl, by decide, by decide, by decide, by decide⟩

theorem wit_CalibrationCommands_4 :
    let at_ : Nat := 0
    let v : Session := sess 5
    let s : State := setEns 1 { Ensemble.init with warm := 4 } crown
    let u : State := s.tick at_
    let p : Packet := pkt [2, 0, 0, 0]
    let r : Req := request 0x0402 p v u
    let z : State := takenState p v u
    let q : Nat := 1
    Accepted 0x0402 p tableRole (fun r s => decide (r.params.length = 4) && zeroAt 1 3 r && maskOk s (r.f 0 1)) v u ∧ r =
      request 0x0402 p v u ∧ z = takenState p v u ∧ maskQuires z (r.f 0 1) = [q] ∧ inService z q = true ∧ ((ensOf z
      q).warm = 2 ∨ (ensOf z q).warm = 3 ∨ (ensOf z q).warm = 4) :=
  ⟨accepted_of (by decide +kernel), rfl, rfl, by decide, by decide, by decide⟩

theorem wit_CalibrationCommands_5 :
    let at_ : Nat := 0
    let v : Session := sess 5
    let s : State := { setEns 1 { Ensemble.init with warm := 4 } crown with cal.sealOpen := true }
    let u : State := s.tick at_
    let p : Packet := pkt ([2, 1] ++ le 2 600 ++ le 4 7 ++ le 8 0x4014000000000000 ++ le 8 0x3FF0000000000000)
    let r : Req := request 0x0403 p v u
    let z : State := takenState p v u
    Accepted 0x0403 p tableRole extOk v u ∧ r = request 0x0403 p v u ∧ z = takenState p v u ∧ z.cal.sealOpen = true ∧
      z.cal.ext = none ∧ (∀ q, q ∈ maskQuires z (r.f 0 1) → inService z q = true ∧ (ensOf z q).warm = 4) :=
  ⟨accepted_of (by decide +kernel), rfl, rfl, by decide, by decide, by decide⟩

theorem wit_CalibrationCommands_6 :
    let at_ : Nat := 0
    let s : State := crown
    let u : State := s.tick at_
    let v : Session := sess 5
    let p : Packet := pkt ([2, 1] ++ le 2 600 ++ le 4 7 ++ le 8 0x4014000000000000 ++ le 8 0x3FF0000000000000)
    let r : Req := request 0x0403 p v u
    let z : State := takenState p v u
    Accepted 0x0403 p tableRole extOk v u ∧ r = request 0x0403 p v u ∧ z = takenState p v u ∧ z.cal.sealOpen = false :=
  ⟨accepted_of (by decide +kernel), rfl, rfl, by decide⟩

theorem wit_CalibrationCommands_7 :
    let at_ : Nat := 0
    let q : Nat := 1
    let n : Nat := 7
    let x : ExtStd := { (default : ExtStd) with todo := [1], value := 5 }
    let s : State := { crown with cal.ext := some { (default : ExtStd) with todo := [1], value := 5 } }
    let u : State := s.tick at_
    u.cal.ext = some x ∧ x.todo = [q] ∧ x.since + (10 + 2 * x.integ) * secU ≤ u.now ∧ extVolts u q x = 0 :=
  ⟨by decide, by decide, by decide, by decide +kernel⟩

theorem wit_CalibrationCommands_8 :
    let at_ : Nat := 0
    let q : Nat := 1
    let n : Nat := 7
    let x : ExtStd := extStd1
    let s : State := extState
    let u : State := s.tick at_
    let k : Rat := 1
    u.cal.ext = some x ∧ x.todo = [q] ∧ x.since + (10 + 2 * x.integ) * secU ≤ u.now ∧ extVolts u q x ≠ 0 ∧ k = x.value /
      extVolts u q x ∧ rabs (k - 1) * 1000000 ≤ (if x.force then 2000 else 100) :=
  ⟨by decide, by decide, by decide, ext_volts, ext_k, by decide +kernel⟩

theorem wit_SealAndExport_1 :
    let at_ : Nat := 0
    let s : State := crown
    let u : State := s.tick at_
    let v : Session := sess 5
    let p : Packet := pkt []
    let r : Req := request 0x0404 p v u
    let z : State := takenState p v u
    Accepted 0x0404 p tableRole (exactly 0) v u ∧ r = request 0x0404 p v u ∧ z = takenState p v u ∧ z.cal.sealOpen = false :=
  ⟨accepted_of (by decide +kernel), rfl, rfl, by decide⟩

theorem wit_SealAndExport_2 :
    let at_ : Nat := 0
    let v : Session := sess 5
    let p : Packet := pkt []
    let s : State := { crown with cal.sealOpen := true, flash.bad := [] }
    let u : State := s.tick at_
    let r : Req := request 0x0405 p v u
    let z : State := takenState p v u
    Accepted 0x0405 p tableRole (exactly 0) v u ∧ r = request 0x0405 p v u ∧ z = takenState p v u ∧ z.cal.sealOpen = true
      ∧ z.cal.ext = none ∧ z.flash.bad.contains 5 = false :=
  ⟨accepted_of (by decide +kernel), rfl, rfl, by decide, by decide, by decide⟩

theorem wit_SealAndExport_3 :
    let at_ : Nat := 0
    let v : Session := sess 5
    let s : State := { setEns 1 { Ensemble.init with warm := 4 } crown with cal.sealOpen := true }
    let u : State := s.tick at_
    let p : Packet := pkt [1, 7, 3, 0]
    let r : Req := request 0x0406 p v u
    let z : State := takenState p v u
    let q : Nat := 1
    let i : Nat := 7
    Accepted 0x0406 p tableRole memberOk v u ∧ r = request 0x0406 p v u ∧ z = takenState p v u ∧ q = r.f 0 1 ∧ i = r.f 1 1
      ∧ z.cal.sealOpen = true ∧ r.f 2 1 = 3 ∧ (zener (ensOf z q) i).state = 0 ∧ inService z q = true ∧ (ensOf z
      q).warm = 4 :=
  ⟨accepted_of (by decide +kernel), rfl, rfl, by decide, by decide, by decide, by decide, by decide, by decide, by decide⟩

theorem wit_SealAndExport_4 :
    let at_ : Nat := 0
    let s : State := crown
    let u : State := s.tick at_
    let v : Session := sess 5
    let p : Packet := pkt [1, 7, 3, 0]
    let r : Req := request 0x0406 p v u
    let z : State := takenState p v u
    Accepted 0x0406 p tableRole memberOk v u ∧ r = request 0x0406 p v u ∧ z = takenState p v u ∧ z.cal.sealOpen = false :=
  ⟨accepted_of (by decide +kernel), rfl, rfl, by decide⟩

theorem wit_SealAndExport_5 :
    let at_ : Nat := 0
    let s : State := crown
    let u : State := s.tick at_
    let v : Session := sess 5
    let p : Packet := pkt ([2] ++ zeros 7 ++ zeros 8 ++ le 8 5)
    let r : Req := request 0x0407 p v u
    let z : State := takenState p v u
    Accepted 0x0407 p tableRole (fun r s => decide (r.params.length = 24) && zeroAt 1 7 r && maskOk s (r.f 0 1) && decide
      (r.f 8 8 ≤ r.f 16 8)) v u ∧ r = request 0x0407 p v u ∧ z = takenState p v u ∧ z.flash.ring = [] :=
  ⟨accepted_of (by decide +kernel), rfl, rfl, by decide⟩

theorem wit_SealAndExport_6 :
    let at_ : Nat := 0
    let v : Session := sess 5
    let p : Packet := pkt ([2] ++ zeros 7 ++ zeros 8 ++ le 8 5)
    let s : State := { crown with flash.ring := [{ (default : RingRec) with quire := 1, seconds := 5 }] }
    let u : State := s.tick at_
    let r : Req := request 0x0407 p v u
    let z : State := takenState p v u
    let q : Nat := 1
    let x : RingRec := { (default : RingRec) with quire := 1, seconds := 5 }
    Accepted 0x0407 p tableRole (fun r s => decide (r.params.length = 24) && zeroAt 1 7 r && maskOk s (r.f 0 1) && decide
      (r.f 8 8 ≤ r.f 16 8)) v u ∧ r = request 0x0407 p v u ∧ z = takenState p v u ∧ maskQuires z (r.f 0 1) = [q] ∧
      z.flash.ring = [x] ∧ x.quire = q ∧ r.f 8 8 ≤ x.seconds ∧ x.seconds ≤ r.f 16 8 ∧ x.bad = false :=
  ⟨accepted_of (by decide +kernel), rfl, rfl, by decide, by decide, by decide, by decide, by decide, by decide⟩

theorem wit_TripOutputs_1 :
    let at_ : Nat := 0
    let g : Nat := 0
    let s : State := setGroup 0 { SGroup.init with state := 3 }
      { crown with safe.image := [((0x0B02, 0, 0), 1000), ((0x0B01, 0, 0), 0x80000000), ((0x0B03, 0, 0), 4 * 65536), ((0x0B03, 1, 0), 132 * 65536)], safe.corrOk := true }
    let u : State := s.tick at_
    g < 4 ∧ (safeGroup u g).state = 3 ∧ (safeGroup u g).present = 0 ∧ groupCauses u g = 0 ∧ cfBit u 0x0B02 g 0 31 = false
      ∧ (safeGroup u g).latched &&& latching = 0 ∧ (safeGroup u g).clearSince + cf u 0x0B02 g 0 15 0 * msU ≤ u.now :=
  ⟨by decide, by decide, by decide, by decide, by decide, by decide, by decide⟩

theorem wit_TripOutputs_2 :
    let at_ : Nat := 0
    let g : Nat := 3
    let s : State := setGroup 3 { SGroup.init with state := 1, toggling := true } crown
    let u : State := s.tick at_
    g < 4 ∧ (((safeGroup u g).state = 1 ∨ (safeGroup u g).state = 2)) ∧ (safeGroup u g).toggling = true :=
  ⟨by decide, by decide, by decide⟩

theorem wit_TripOutputs_3 :
    let at_ : Nat := 0
    let g : Nat := 3
    let s : State := setGroup 3 { SGroup.init with state := 1 } crown
    let u : State := s.tick at_
    g < 4 ∧ (((safeGroup u g).state = 1 ∨ (safeGroup u g).state = 2)) ∧ (safeGroup u g).toggling = false :=
  ⟨by decide, by decide, by decide⟩

theorem wit_TripOutputs_4 :
    let at_ : Nat := 0
    let g : Nat := 3
    let s : State := setGroup 3 { SGroup.init with state := 3 } crown
    let u : State := s.tick at_
    g < 4 ∧ (safeGroup u g).state ≠ 1 ∧ (safeGroup u g).state ≠ 2 :=
  ⟨by decide, by decide, by decide⟩

theorem wit_TripOutputs_5 :
    let at_ : Nat := 0
    let g : Nat := 3
    let s : State := setGroup 3 { SGroup.init with state := 1, toggling := true, readAt := 5, missA := 2 } crown
    let u : State := s.tick at_
    g < 4 ∧ (safeGroup u g).toggling = true ∧ (safeGroup u g).readAt ≠ 0 ∧ (safeGroup u g).readAt ≤ u.now :=
  ⟨by decide, by decide, by decide, by decide⟩

theorem wit_TripOutputs_6 :
    let at_ : Nat := 0
    let g : Nat := 3
    let b : Bool := false
    let s : State := setGroup 3 { SGroup.init with state := 1, toggling := true, readAt := 5, missA := 2 } crown
    let u : State := s.tick at_
    g < 4 ∧ (((safeGroup u g).state = 1 ∨ (safeGroup u g).state = 2)) ∧ (safeGroup u g).toggling = true ∧ (safeGroup u
      g).readAt ≠ 0 ∧ (safeGroup u g).readAt ≤ u.now ∧ (safeGroup u g).missA = 2 :=
  ⟨by decide, by decide, by decide, by decide, by decide, by decide⟩

theorem wit_TripOutputs_7 :
    let at_ : Nat := 0
    let p : Nat := 0
    let d : Nat := 0
    let s : State := setPair 0 { (default : SPair) with state := 2, degradedAt := some 0 }
      { crown with now := 60 * secU, safe.image := ((0x0B01, 0, 8), 58) :: pulsedImage }
    let u : State := s.tick at_
    p < 64 ∧ pairEn u p = true ∧ (safePair u p).degradedAt = some d ∧ cf u 0x0B01 p 8 11 0 * secU * 1000000 ≤ (u.now - d)
      * 970874 :=
  ⟨by decide, by decide, by decide, by decide⟩

theorem wit_TripOutputs_8 :
    let at_ : Nat := 0
    let e : Nat := 1
    let h : Nat := 5
    let m : Nat := 0
    let s : State := setPair 0 { (default : SPair) with state := 1 }
      { crown with now := 121 * secU, safe.handover := some 5, safe.image := pulsedImage }
    let u : State := s.tick at_
    u.safe.handover = some h ∧ groupSlots u e = [m] ∧ (((safePair u (m / 2)).degradedAt = none ∨ available u m = false)) ∧
      max (h : Int) (excOf u e).lastPass + (2 * cf u 0x0B02 (pairGroup u (m / 2)) 4 31 16 * secU : Nat) ≤ u.now :=
  ⟨by decide, by decide, by decide, by decide⟩

theorem wit_SafetyEvaluation_1 :
    let at_ : Nat := 0
    let s : State := crown
    let u : State := s.tick at_
    u.boot.stage ≠ 0 :=
  by decide

theorem wit_SafetyEvaluation_2 :
    let at_ : Nat := 0
    let k : Nat := 8
    let s : State := { crown with time.ancDev := 700000000000000 }
    let u : State := s.tick at_
    u.boot.modsOn = true ∧ u.safe.lastEval < k ∧ ((k * 125 * usU : Nat) : Int) ≤ devNow u ∧ valuesIn u k = true :=
  ⟨by decide, by decide, by decide, by decide⟩

theorem wit_SafetyEvaluation_3 :
    let at_ : Nat := 0
    let k : Nat := 8
    let s : State := { crown with safe.lastEval := 8 }
    let u : State := s.tick at_
    ((k ≤ u.safe.lastEval ∨ devNow u < ((k * 125 * usU : Nat) : Int))) :=
  by decide

theorem wit_SafetyEvaluation_4 :
    let k : Nat := 8
    let s : State := crown
    let t : State := crownEval 8 crown
    t = crownEval k s :=
  rfl

theorem wit_SafetyEvaluation_5 :
    let s : State := { crown with safe.adopt := true, flash.safe := pulsedImage }
    let t : State := adopt { crown with safe.adopt := true, flash.safe := pulsedImage }
    t = adopt s :=
  rfl

theorem wit_SafetyEvaluation_6 :
    let at_ : Nat := 0
    let p : Nat := 0
    let s : State := setChan 4 { (default : Chan) with histNew := 300 } (setChan 132
      { (default : Chan) with histNew := 300 } { crown with safe.image := pulsedImage })
    let u : State := s.tick at_
    pairEn u p = true ∧ (safePair u p).main = false ∧ u.boot.modsOn = true ∧ servedSlots u p ≠ [] ∧ (servedSlots u p).all
      (memberFull u) = true :=
  ⟨by decide, by decide, by decide, by decide, by decide⟩

theorem wit_SafetyEvaluation_7 :
    let at_ : Nat := 0
    let p : Nat := 0
    let s : State := setPair 0 { (default : SPair) with main := true, overlap := 1 } crown
    let u : State := s.tick at_
    (safePair u p).main = true ∧ (safePair u p).overlap = 1 :=
  ⟨by decide, by decide⟩

theorem wit_SafetyEvaluation_8 :
    let at_ : Nat := 0
    let bad : Bool := true
    let s : State := crown
    let u : State := s.tick at_
    u.boot.stage ≠ 0 :=
  by decide

theorem wit_LimitCounts_2 :
    let l : Nat := 3
    let d : Nat := 8
    let far : Bool := true
    let a : Seen := { cause := 1, out := true, value := 0, word := 0 }
    let b : Seen := { cause := 0, out := true, value := 0, word := 0 }
    let c : PathCount := { (default : PathCount) with count := 7 }
    (a.cause ≠ 0 ∨ b.cause ≠ 0) :=
  by decide

theorem wit_LimitCounts_3 :
    let l : Nat := 3
    let d : Nat := 8
    let far : Bool := true
    let a : Seen := { cause := 0, out := true, value := 0, word := 0 }
    let b : Seen := { cause := 0, out := true, value := 0, word := 0 }
    let c : PathCount := { (default : PathCount) with count := 7 }
    a.cause = 0 ∧ b.cause = 0 ∧ (far = true ∨ a.out ≠ b.out) :=
  ⟨by decide, by decide, by decide⟩

theorem wit_LimitCounts_4 :
    let l : Nat := 3
    let d : Nat := 8
    let a : Seen := { cause := 0, out := true, value := 0, word := 0 }
    let b : Seen := { cause := 0, out := true, value := 0, word := 0 }
    let c : PathCount := { (default : PathCount) with count := 7, run := 3 }
    a.cause = 0 ∧ b.cause = 0 ∧ a.out = b.out ∧ 3 ≤ c.run :=
  ⟨by decide, by decide, by decide, by decide⟩

theorem wit_SafetyCommands_1 :
    let at_ : Nat := 0
    let s : State := crown
    let u : State := s.tick at_
    let v : Session := sess 5
    let p : Packet := pkt []
    let r : Req := request 0x0800 p v u
    let z : State := takenState p v u
    Accepted 0x0800 p tableRole (exactly 0) v u ∧ r = request 0x0800 p v u ∧ z = takenState p v u :=
  ⟨accepted_of (by decide +kernel), rfl, rfl⟩

theorem wit_SafetyCommands_2 :
    let at_ : Nat := 0
    let s : State := crown
    let u : State := s.tick at_
    let v : Session := sess 5
    let p : Packet := pkt []
    let r : Req := request 0x0801 p v u
    let z : State := takenState p v u
    Accepted 0x0801 p tableRole (exactly 0) v u ∧ r = request 0x0801 p v u ∧ z = takenState p v u ∧ z.safe.lockOpen =
      false :=
  ⟨accepted_of (by decide +kernel), rfl, rfl, by decide⟩

theorem wit_SafetyCommands_3 :
    let at_ : Nat := 0
    let v : Session := sess 5
    let s : State := lockedOpen
    let u : State := s.tick at_
    let p : Packet := lockPkt
    let r : Req := request 0x0802 p v u
    let z : State := takenState p v u
    Accepted 0x0802 p tableRole (exactly 4) v u ∧ r = request 0x0802 p v u ∧ z = takenState p v u ∧ z.safe.lockOpen = true
      ∧ r.f 0 4 = safeCrc (workingImage z) ∧ firstBreach (workingImage z) = none ∧ z.flash.bad.contains 4 = false :=
  ⟨accepted_of (by decide +kernel), rfl, rfl, by decide, lock_crc, by decide +kernel, by decide⟩

theorem wit_SafetyCommands_4 :
    let at_ : Nat := 0
    let s : State := crown
    let u : State := s.tick at_
    let v : Session := sess 5
    let p : Packet := pkt [0, 0, 0, 0]
    let r : Req := request 0x0802 p v u
    let z : State := takenState p v u
    Accepted 0x0802 p tableRole (exactly 4) v u ∧ r = request 0x0802 p v u ∧ z = takenState p v u ∧ ((z.safe.lockOpen =
      false ∨ r.f 0 4 ≠ safeCrc (workingImage z))) :=
  ⟨accepted_of (by decide +kernel), rfl, rfl, by decide⟩

theorem wit_SafetyCommands_5 :
    let at_ : Nat := 0
    let v : Session := sess 5
    let s : State := setGroup 3 { SGroup.init with state := 4, latched := 64 } crown
    let u : State := s.tick at_
    let p : Packet := pkt [8, 0, 0, 0]
    let r : Req := request 0x0803 p v u
    let z : State := takenState p v u
    Accepted 0x0803 p tableRole (fun r s => exactly 4 r s && decide (1 ≤ r.f 0 1 ∧ r.f 0 1 < 16) && zeroAt 1 3 r) v u ∧ r
      = request 0x0803 p v u ∧ z = takenState p v u ∧ r.f 0 1 = 8 ∧ (safeGroup z 3).state = 4 ∧ bit 5 (safeGroup z
      3).latched = false :=
  ⟨accepted_of (by decide +kernel), rfl, rfl, by decide, by decide, by decide⟩

theorem wit_SafetyCommands_6 :
    let at_ : Nat := 0
    let v : Session := sess 5
    let s : State := { crown with safe.image := pulsedImage }
    let u : State := s.tick at_
    let p : Packet := pkt [1, 0, 0, 0]
    let r : Req := request 0x0804 p v u
    let z : State := takenState p v u
    let e : Nat := 1
    Accepted 0x0804 p tableRole (fun r s => exactly 4 r s && decide (r.f 0 2 < groupCount s) && zeroAt 2 2 r && safetyHeld
      s (r.f 0 2)) v u ∧ r = request 0x0804 p v u ∧ z = takenState p v u ∧ e = r.f 0 2 ∧ inService z (e / 32) = true ∧
      pulsePending z e = false ∧ pulseBusy z e = false :=
  ⟨accepted_of (by decide +kernel), rfl, rfl, by decide, by decide, by decide, by decide⟩

theorem wit_SafetyCommands_7 :
    let at_ : Nat := 0
    let v : Session := sess 5
    let s : State := setExc 1 { (default : ExcGroup) with schedDue := true } { crown with safe.image := pulsedImage }
    let u : State := s.tick at_
    let p : Packet := pkt [1, 0, 0, 0]
    let r : Req := request 0x0804 p v u
    let z : State := takenState p v u
    Accepted 0x0804 p tableRole (fun r s => exactly 4 r s && decide (r.f 0 2 < groupCount s) && zeroAt 2 2 r && safetyHeld
      s (r.f 0 2)) v u ∧ r = request 0x0804 p v u ∧ z = takenState p v u ∧ inService z (r.f 0 2 / 32) = true ∧
      ((pulsePending z (r.f 0 2) = true ∨ pulseBusy z (r.f 0 2) = true)) :=
  ⟨accepted_of (by decide +kernel), rfl, rfl, by decide, by decide⟩

theorem wit_StreamCommands_1 :
    let at_ : Nat := 0
    let v : Session := sess 5
    let s : State := streaming default
    let u : State := s.tick at_
    let p : Packet := pkt (4 :: zeros 11)
    let r : Req := request 0x0700 p v u
    let z : State := takenState p v u
    let n : Nat := 4
    let n0 : Nat := indexCeil z 4 (devNow z + (leadU : Int))
    Accepted 0x0700 p tableRole streamParamsOk v u ∧ r = request 0x0700 p v u ∧ z = takenState p v u ∧ n = r.f 0 1 ∧ n0 =
      (if r.f 1 1 = 1 then r.f 4 8 else indexCeil z n (devNow z + (leadU : Int))) ∧ indexLate r (seenState p v u) =
      false ∧ startRefused z n n0 = false ∧ dependents z n = [] :=
  ⟨accepted_of (by decide +kernel), rfl, rfl, by decide, by decide, by decide, by decide +kernel, by decide⟩

theorem wit_StreamCommands_2 :
    let at_ : Nat := 0
    let n : Nat := 4
    let s : State := { streaming { (default : Stream) with state := 1 } with time.ancDev := 700000000000000 }
    let u : State := s.tick at_
    (stream u n).state = 1 ∧ (((stream u n).n0 * periodOf u n : Nat) : Int) ≤ devNow u ∧ dependents u n = [] :=
  ⟨by decide, by decide, by decide⟩

theorem wit_StreamCommands_3 :
    let at_ : Nat := 0
    let v : Session := sess 5
    let s : State := { streaming { (default : Stream) with state := 2 } with time.ancDev := 655360000000000 }
    let u : State := s.tick at_
    let p : Packet := pkt (4 :: zeros 11)
    let r : Req := request 0x0701 p v u
    let z : State := takenState p v u
    let n : Nat := 4
    let k : Nat := indexCeil z 4 (devNow z + (leadU : Int)) - 1
    Accepted 0x0701 p tableRole streamParamsOk v u ∧ r = request 0x0701 p v u ∧ z = takenState p v u ∧ n = r.f 0 1 ∧
      indexLate r (seenState p v u) = false ∧ live z n = true ∧ filtered z n = true ∧ coversOf z n = [] ∧ (k : Int) =
      (if r.f 1 1 = 1 then (r.f 4 8 : Int) else (indexCeil z n (devNow z + (leadU : Int)) : Int) - 1) ∧ (stream z
      n).n0 ≤ k :=
  ⟨accepted_of (by decide +kernel), rfl, rfl, by decide, by decide, by decide, by decide, by decide, by decide, by decide⟩

theorem wit_StreamCommands_4 :
    let at_ : Nat := 0
    let v : Session := sess 5
    let s : State := { streaming default with time.ancDev := 655360000000000 }
    let u : State := s.tick at_
    let p : Packet := pkt ([4, 1] ++ zeros 10)
    let r : Req := request 0x0700 p v u
    let z : State := takenState p v u
    Accepted 0x0700 p tableRole streamParamsOk v u ∧ r = request 0x0700 p v u ∧ z = takenState p v u ∧ indexLate r
      (seenState p v u) = true :=
  ⟨accepted_of (by decide +kernel), rfl, rfl, by decide⟩

theorem wit_StreamCommands_5 :
    let at_ : Nat := 0
    let v : Session := sess 5
    let s : State := { streaming default with time.ancDev := 655360000000000 }
    let u : State := s.tick at_
    let p : Packet := pkt ([4, 1] ++ zeros 10)
    let r : Req := request 0x0701 p v u
    let z : State := takenState p v u
    Accepted 0x0701 p tableRole streamParamsOk v u ∧ r = request 0x0701 p v u ∧ z = takenState p v u ∧ indexLate r
      (seenState p v u) = true :=
  ⟨accepted_of (by decide +kernel), rfl, rfl, by decide⟩

theorem wit_StreamCommands_6 :
    let at_ : Nat := 0
    let s : State := crown
    let u : State := s.tick at_
    let v : Session := sess 5
    let p : Packet := pkt [0x10, 0, 0, 0x80]
    let r : Req := request 0x0702 p v u
    let z : State := takenState p v u
    Accepted 0x0702 p tableRole (fun r s => exactly 4 r s && decide (r.f 0 4 % 16 = 0)) v u ∧ r = request 0x0702 p v u ∧ z
      = takenState p v u :=
  ⟨accepted_of (by decide +kernel), rfl, rfl⟩

theorem wit_StreamCommands_7 :
    let at_ : Nat := 0
    let n : Nat := 4
    let f : Fade := { from_ := 0, to_ := 3, nf := 0, len := 0, e := 0 }
    let s : State :=
      { streaming { (default : Stream) with state := 2, fade := some { from_ := 0, to_ := 3, nf := 0, len := 0, e := 0 } } with time.ancDev := 700000000000000 }
    let u : State := s.tick at_
    (stream u n).fade = some f ∧ sincTime (fadeOver u n f) ≤ devNow u ∧ (stream u n).held = none :=
  ⟨by decide, by decide, by decide⟩

theorem wit_SamplesAndFolios_1 :
    let at_ : Nat := 0
    let n : Nat := 4
    let i : Nat := 0
    let s : State := { streaming { (default : Stream) with state := 2 } with conv.closed := some 1000000 }
    let u : State := s.tick at_
    i = (stream u n).nNext ∧ (stream u n).state = 2 ∧ filtered u n = true ∧ inputsReady u n i = true ∧ coversOf u n = [] ∧
      capturesOf u n = [] ∧ (stream u n).nLast = none ∧ (stream u n).grids = [] :=
  ⟨by decide, by decide, by decide, by decide, by decide, by decide, by decide, by decide⟩

theorem wit_SamplesAndFolios_2 :
    let at_ : Nat := 0
    let n : Nat := 4
    let o : OpenFolio := default
    let s : State := streaming { (default : Stream) with state := 2, opened := some default }
    let u : State := s.tick at_
    (stream u n).opened = some o ∧ o.since + o.flush * usU ≤ u.now :=
  ⟨by decide, by decide⟩

theorem wit_SamplesAndFolios_3 :
    let n : Nat := 4
    let f : Folio := folio1
    let s : State := streaming { (default : Stream) with state := 2 }
    let t : State := writeFolio 4 folio1 (streaming { (default : Stream) with state := 2 })
    (stream s n).stalled = none ∧ f.slots + 2 ≤ freeSlots s n ∧ (stream s n).q.nextSeq % 2 ^ 44 ≠ 2 ^ 44 - 1 ∧ t =
      writeFolio n f s :=
  ⟨by decide, by decide, by decide, rfl⟩

theorem wit_SamplesAndFolios_4 :
    let n : Nat := 5
    let f : Folio := folio1
    let s : State := crown
    let t : State := writeFolio 5 folio1 crown
    (stream s n).stalled = none ∧ ¬ f.slots + 2 ≤ freeSlots s n ∧ cfBit s 0x0801 n 0x10 0 = false ∧ t = writeFolio n f s :=
  ⟨by decide, by decide, by decide, rfl⟩

theorem wit_SamplesAndFolios_5 :
    let at_ : Nat := 0
    let n : Nat := 4
    let s : State := streaming { (default : Stream) with state := 2 }
    let u : State := s.tick at_
    (stream u n).state ≠ 3 :=
  by decide

theorem wit_SamplesAndFolios_6 :
    let at_ : Nat := 0
    let n : Nat := 4
    let k : Nat := 7
    let s : State := streaming { (default : Stream) with state := 2, stalled := some 7 }
    let u : State := s.tick at_
    (stream u n).stalled = some k ∧ min 64 (allowance u n) ≤ freeSlots u n :=
  ⟨by decide, by decide⟩

theorem wit_SamplesAndFolios_7 :
    let at_ : Nat := 0
    let n : Nat := 5
    let i : Nat := 0
    let l : List Sample := []
    let w : CapWindow := { (default : CapWindow) with first := 0, last := 5 }
    let s : State := setStream 5
      { (default : Stream) with state := 2, look := [(0, [])], windows := [{ (default : CapWindow) with first := 0, last := 5 }] }
      { crown with cfg := [((0x0707, 5, 0), 0x80000004)], time.ancDev := 700000000000000 }
    let u : State := s.tick at_
    isCapture u n = true ∧ running u n = true ∧ (stream u n).look = [(i, l)] ∧ (stream u n).windows = [w] ∧ w.first ≤ i ∧
      i ≤ w.last ∧ (stream u n).produced = false ∧ (stream u n).grids = [] ∧ (stream u n).nLast = none ∧ ((i *
      periodOf u n + lagU u n : Nat) : Int) ≤ devNow u :=
  ⟨by decide, by decide, by decide, by decide, by decide, by decide, by decide, by decide, by decide⟩

theorem wit_HoldBackStore_1 :
    let at_ : Nat := 0
    let r : Nat := 4
    let seq : Nat := 2 ^ 44
    let k : Nat := 3
    let f : Folio := folio1
    let s : State := ringed 4 1
    let u : State := s.tick at_
    folioOf u r seq = some f ∧ f.ecc = [] ∧ offRing u r = false :=
  ⟨by decide, by decide, by decide⟩

theorem wit_HoldBackStore_3 :
    let at_ : Nat := 0
    let r : Nat := 4
    let seq : Nat := 2 ^ 44
    let x : EccHit := { copy := 0, word := 15 }
    let f : Folio := folio1
    let s : State := ringed 4 1
    let u : State := s.tick at_
    folioOf u r seq = some f ∧ f.ecc = [] ∧ 4 ≤ r ∧ u.store.eccTimes = [] :=
  ⟨by decide, by decide, by decide, by decide⟩

theorem wit_HoldBackStore_4 :
    let at_ : Nat := 0
    let s : State := ringed 4 1
    let u : State := s.tick at_
    u.boot.storeMode = 1 :=
  by decide

theorem wit_MarksAndRecords_1 :
    let at_ : Nat := 0
    let b : Bookmark := { (default : Bookmark) with kind := 2, stream := 4 }
    let ok : Bool := true
    let cnt : Nat := 0
    let s : State :=
      { streaming { (default : Stream) with state := 2, produced := true, q := { (default : FolioQ) with folios := [folio1] } } with trg := { (default : Trg) with second := 9, secCount := 5, waiting := [{ (default : Bookmark) with kind := 2, stream := 4 }] } }
    let u : State := s.tick at_
    u.trg.waiting = [b] ∧ b.kind ≠ 0 ∧ markFate u b = some ok ∧ cnt = (if u.trg.second = devSec (devNow u) then
      u.trg.secCount else 0) ∧ cnt < 131072 ∧ u.trg.openRecs.length < 62 :=
  ⟨by decide, by decide, by decide, by decide, by decide, by decide⟩

theorem wit_MarksAndRecords_2 :
    let at_ : Nat := 0
    let b : Bookmark := { (default : Bookmark) with kind := 2, stream := 4, index := 9 }
    let ok : Bool := false
    let x : Nat × Nat × Nat := (0, 9, 9)
    let s : State :=
      { streaming { (default : Stream) with state := 2, produced := true, lastIndex := 9 } with trg := { (default : Trg) with second := 10, secCount := 131072, waiting := [{ (default : Bookmark) with kind := 2, stream := 4, index := 9 }] } }
    let u : State := s.tick at_
    u.trg.waiting = [b] ∧ b.kind ≠ 0 ∧ markFate u b = some ok ∧ u.trg.second = devSec (devNow u) ∧ 131072 ≤ u.trg.secCount
      ∧ x = u.trg.secSupp.get b.source (0, b.index, b.index) :=
  ⟨by decide, by decide, by decide, by decide, by decide, by decide⟩

theorem wit_MarksAndRecords_3 :
    let at_ : Nat := 0
    let s : State := { crown with trg.openRecs := [[1]] }
    let u : State := s.tick at_
    u.trg.openSince + 100 * usU ≤ u.now ∧ u.trg.openRecs ≠ [] :=
  ⟨by decide, by decide⟩

theorem wit_MarksAndRecords_4 :
    let at_ : Nat := 0
    let s : State := { crown with trg.openSince := 10 * secU }
    let u : State := s.tick at_
    u.now < u.trg.openSince + 100 * usU :=
  by decide

theorem wit_MarksAndRecords_5 :
    let at_ : Nat := 0
    let s : State := { crown with trg.secSupp := [(9, (1, 2, 3))] }
    let u : State := s.tick at_
    u.trg.secSupp ≠ [] :=
  by decide

theorem wit_MarksAndRecords_6 :
    let at_ : Nat := 0
    let s : State := crown
    let u : State := s.tick at_
    u.trg.secSupp = [] :=
  by decide

theorem wit_MarksAndRecords_7 :
    let at_ : Nat := 0
    let s : State := crown
    let u : State := s.tick at_
    let v : Session := sess 5
    let p : Packet := pkt (le 4 0x80000010 ++ le 4 0 ++ le 8 10 ++ zeros 8)
    let r : Req := request 0x0602 p v u
    let z : State := takenState p v u
    let i : Int := 10 * secU
    Accepted 0x0602 p tableRole trgMarkOk v u ∧ r = request 0x0602 p v u ∧ z = takenState p v u ∧ readDt16 (slice 8 16
      r.params) = some i :=
  ⟨accepted_of (by decide +kernel), rfl, rfl, by decide⟩

theorem wit_Sequencers_1 :
    let at_ : Nat := 0
    let k : Nat := 7
    let i : Nat := 3
    let s : State :=
      { setSeqr 7 { (default : Seqr) with run := 1 } (streaming { (default : Stream) with state := 2, recent := [(3, [])] }) with cfg := ((0x0701, 7, 0), 1024) :: setCfg }
    let u : State := s.tick at_
    (seqr u k).run = 1 ∧ (seqr u k).haltAt = none ∧ nextSample u k = some i ∧ namesEvt u k = false :=
  ⟨by decide, by decide, by decide, by decide⟩

theorem wit_Sequencers_2 :
    let at_ : Nat := 0
    let k : Nat := 7
    let i : Nat := 3
    let s : State :=
      { setSeqr 7 { (default : Seqr) with run := 1 } (streaming { (default : Stream) with state := 2, recent := [(3, [])] }) with cfg := ((0x0701, 7, 0), 1024) :: setCfg }
    let u : State := s.tick at_
    (seqr u k).run = 1 ∧ (seqr u k).haltAt = none ∧ nextSample u k = some i ∧ namesEvt u k = false ∧ takeable u k i = [] :=
  ⟨by decide, by decide, by decide, by decide, by decide⟩

theorem wit_Sequencers_3 :
    let at_ : Nat := 0
    let k : Nat := 7
    let s : State := crown
    let u : State := s.tick at_
    (((seqr u k).run ≠ 1 ∨ nextSample u k = none)) :=
  by decide

theorem wit_Sequencers_4 :
    let at_ : Nat := 0
    let k : Nat := 7
    let s : State := setSeqr 7 { (default : Seqr) with run := 2 } crown
    let u : State := s.tick at_
    (seqr u k).run ≠ 0 ∧ (((stream u (refStream u k)).state = 0 ∨ (stream u (refStream u k)).state = 3)) ∧ nextSample u k
      = none :=
  ⟨by decide, by decide, by decide⟩

theorem wit_Sequencers_5 :
    let at_ : Nat := 0
    let v : Session := sess 5
    let s : State := { streaming { (default : Stream) with state := 2 } with cfg := ((0x0701, 7, 0), 1024) :: setCfg }
    let u : State := s.tick at_
    let p : Packet := pkt ([128, 0] ++ zeros 10)
    let r : Req := request 0x0600 p v u
    let z : State := takenState p v u
    let k : Nat := 7
    Accepted 0x0600 p tableRole (fun r s => exactly 12 r s && decide (r.f 0 1 ≠ 0 ∧ r.f 1 1 ≤ 1) && zeroAt 2 2 r) v u ∧ r
      = request 0x0600 p v u ∧ z = takenState p v u ∧ seqMask (r.f 0 1) = [k] ∧ armLate r (seenState p v u) = false ∧
      armRefused z k = false :=
  ⟨accepted_of (by decide +kernel), rfl, rfl, by decide, by decide, by decide⟩

theorem wit_Sequencers_6 :
    let at_ : Nat := 0
    let v : Session := sess 5
    let s : State := crown
    let u : State := s.tick at_
    let p : Packet := pkt ([129, 0] ++ zeros 10)
    let r : Req := request 0x0600 p v u
    let z : State := takenState p v u
    Accepted 0x0600 p tableRole (fun r s => exactly 12 r s && decide (r.f 0 1 ≠ 0 ∧ r.f 1 1 ≤ 1) && zeroAt 2 2 r) v u ∧ r
      = request 0x0600 p v u ∧ z = takenState p v u ∧ (seqMask (r.f 0 1)).any (armRefused z) = true ∧ armLate r
      (seenState p v u) = false :=
  ⟨accepted_of (by decide +kernel), rfl, rfl, by decide, by decide⟩

theorem wit_Sequencers_7 :
    let at_ : Nat := 0
    let v : Session := sess 5
    let s : State :=
      { streaming { (default : Stream) with state := 2, nNext := 5 } with cfg := ((0x0701, 7, 0), 1024) :: setCfg }
    let u : State := s.tick at_
    let p : Packet := pkt ([128, 1] ++ zeros 10)
    let r : Req := request 0x0600 p v u
    let z : State := takenState p v u
    Accepted 0x0600 p tableRole (fun r s => exactly 12 r s && decide (r.f 0 1 ≠ 0 ∧ r.f 1 1 ≤ 1) && zeroAt 2 2 r) v u ∧ r
      = request 0x0600 p v u ∧ z = takenState p v u ∧ armLate r (seenState p v u) = true :=
  ⟨accepted_of (by decide +kernel), rfl, rfl, by decide⟩

theorem wit_Sequencers_8 :
    let at_ : Nat := 0
    let v : Session := sess 5
    let s : State := setMask 3 { (default : MaskT) with test := some { seq := 7, anchor := 0, viol := false } } (setSeqr 7
      { (default : Seqr) with run := 1 } crown)
    let u : State := s.tick at_
    let p : Packet := pkt [128, 0, 0, 0]
    let r : Req := request 0x0601 p v u
    let z : State := takenState p v u
    Accepted 0x0601 p tableRole (fun r s => exactly 4 r s && decide (r.f 0 1 ≠ 0) && zeroAt 1 3 r) v u ∧ r = request
      0x0601 p v u ∧ z = takenState p v u :=
  ⟨accepted_of (by decide +kernel), rfl, rfl⟩

theorem wit_Sequencers_9 :
    let at_ : Nat := 0
    let s : State := crown
    let u : State := s.tick at_
    let v : Session := sess 5
    let p : Packet := pkt ([15, 0, 0, 0] ++ le 4 0x3F800000 ++ le 4 0xBF800000)
    let r : Req := request 0x0603 p v u
    let z : State := takenState p v u
    let k : Nat := 15
    Accepted 0x0603 p tableRole maskLoadOk v u ∧ r = request 0x0603 p v u ∧ z = takenState p v u ∧ k = r.f 0 1 ∧ (maskT z
      k).test = none ∧ r.f 1 1 = 0 :=
  ⟨accepted_of (by decide +kernel), rfl, rfl, by decide, by decide, by decide⟩

theorem wit_Sequencers_10 :
    let at_ : Nat := 0
    let v : Session := sess 5
    let s : State := setMask 15 { (default : MaskT) with test := some { seq := 7, anchor := 0, viol := false } } crown
    let u : State := s.tick at_
    let p : Packet := pkt ([15, 0, 0, 0] ++ le 4 0x3F800000 ++ le 4 0xBF800000)
    let r : Req := request 0x0603 p v u
    let z : State := takenState p v u
    Accepted 0x0603 p tableRole maskLoadOk v u ∧ r = request 0x0603 p v u ∧ z = takenState p v u ∧ (maskT z (r.f 0
      1)).test.isSome = true :=
  ⟨accepted_of (by decide +kernel), rfl, rfl, by decide⟩

theorem wit_GroupOfHubs_1 :
    let at_ : Nat := 0
    let v : Session := sess 5
    let s : State :=
      { crown with cfg := [((0x0706, 0, 0), 65536), ((0x0706, 0, 4), 7), ((0x0706, 0, 8), 7)], time.state := 1 }
    let u : State := s.tick at_
    let p : Packet := pkt [1, 0, 0, 0]
    let r : Req := request 0x0604 p v u
    let z : State := takenState p v u
    Accepted 0x0604 p tableRole (fun r s => exactly 4 r s && decide (r.f 0 1 ≤ 1) && zeroAt 1 3 r) v u ∧ r = request
      0x0604 p v u ∧ z = takenState p v u ∧ r.applyAt = none ∧ isMaster z = true ∧ z.time.state ≠ 0 :=
  ⟨accepted_of (by decide +kernel), rfl, rfl, by decide, by decide, by decide⟩

theorem wit_GroupOfHubs_2 :
    let at_ : Nat := 0
    let s : State := crown
    let u : State := s.tick at_
    let v : Session := sess 5
    let p : Packet := pkt [1, 0, 0, 0]
    let r : Req := request 0x0604 p v u
    let z : State := takenState p v u
    Accepted 0x0604 p tableRole (fun r s => exactly 4 r s && decide (r.f 0 1 ≤ 1) && zeroAt 1 3 r) v u ∧ r = request
      0x0604 p v u ∧ z = takenState p v u ∧ r.applyAt = none ∧ ((isMaster z = false ∨ z.time.state = 0)) :=
  ⟨accepted_of (by decide +kernel), rfl, rfl, by decide, by decide⟩

theorem wit_GroupOfHubs_3 :
    let at_ : Nat := 0
    let s : State := crown
    let u : State := s.tick at_
    let v : Session := sess 5
    let p : Packet := pkt []
    let r : Req := request 0x0605 p v u
    let z : State := takenState p v u
    Accepted 0x0605 p tableRole (exactly 0) v u ∧ r = request 0x0605 p v u ∧ z = takenState p v u ∧ isMaster z = false :=
  ⟨accepted_of (by decide +kernel), rfl, rfl, by decide⟩

theorem wit_GroupOfHubs_4 :
    let at_ : Nat := 0
    let v : Session := sess 5
    let s : State := { crown with cfg := [((0x0706, 0, 0), 65536), ((0x0706, 0, 4), 7), ((0x0706, 0, 8), 7)] }
    let u : State := s.tick at_
    let p : Packet := pkt []
    let r : Req := request 0x0605 p v u
    let z : State := takenState p v u
    Accepted 0x0605 p tableRole (exactly 0) v u ∧ r = request 0x0605 p v u ∧ z = takenState p v u ∧ isMaster z = true :=
  ⟨accepted_of (by decide +kernel), rfl, rfl, by decide⟩

theorem wit_GroupOfHubs_5 :
    let at_ : Nat := 0
    let v : Session := sess 5
    let s : State := { crown with group := { (default : Group) with gstate := 1 } }
    let u : State := s.tick at_
    let p : Packet := pkt (zeros 16 ++ le 2 255)
    let r : Req := request 0x0606 p v u
    let z : State := takenState p v u
    let i : Int := devNow z
    Accepted 0x0606 p tableRole (fun r s => exactly 18 r s && (readDt16 (slice 0 16 r.params)).isSome && (isChan s (r.f 16
      2) || decide (r.f 16 2 = 0xFFFF))) v u ∧ r = request 0x0606 p v u ∧ z = takenState p v u ∧ z.group.gstate = 1 ∧
      i = (if allZero (slice 0 16 r.params) then devNow z else (readDt16 (slice 0 16 r.params)).getD 0) :=
  ⟨accepted_of (by decide +kernel), rfl, rfl, by decide, by decide⟩

theorem wit_GroupOfHubs_6 :
    let at_ : Nat := 0
    let s : State := crown
    let u : State := s.tick at_
    let v : Session := sess 5
    let p : Packet := pkt (zeros 16 ++ le 2 65535)
    let r : Req := request 0x0606 p v u
    let z : State := takenState p v u
    Accepted 0x0606 p tableRole (fun r s => exactly 18 r s && (readDt16 (slice 0 16 r.params)).isSome && (isChan s (r.f 16
      2) || decide (r.f 16 2 = 0xFFFF))) v u ∧ r = request 0x0606 p v u ∧ z = takenState p v u ∧ z.group.gstate ≠ 1 :=
  ⟨accepted_of (by decide +kernel), rfl, rfl, by decide⟩

theorem wit_GroupOfHubs_7 :
    let at_ : Nat := 0
    let x : Nat := 1
    let sender : Nat := 0
    let hdr : List Byte := []
    let mac : List Byte := []
    let m : List Byte := groupBytes 1 0 1 7 5 0 (zeros 16) 1 0
    let s : State :=
      { crown with cfg := [((0x0706, 0, 0), 65536), ((0x0706, 0, 8), 7), ((0x0706, 0, 12), 15)], time.state := 1, lanes := [(7, { (default : Lane) with state := 5, ver := 1 })], skaing := [(1, { (default : Skaing) with phase := 3 })] }
    let u : State := s.tick at_
    x < 2 ∧ groupPort u x = true ∧ u.boot.fwRuns = true ∧ skaingUp u x = true ∧ skaingVer u x = 1 ∧ m.length = 40 ∧
      duplicate m u = false ∧ fld 0 1 m = 1 ∧ fld 2 2 m = groupNo u ∧ groupNo u ≠ 0 ∧ fld 4 4 m = masterTag u ∧
      u.group.gen < fld 8 4 m ∧ u.time.state ≠ 0 ∧ fld 32 1 m ≤ 1 :=
  ⟨by decide, by decide, by decide, by decide, by decide, by decide, by decide, by decide, by decide, by decide, by decide, by decide, by decide, by decide⟩

theorem wit_GroupOfHubs_8 :
    let at_ : Nat := 0
    let x : Nat := 3
    let sender : Nat := 0
    let good : Bool := false
    let hdr : List Byte := []
    let mac : List Byte := [1]
    let m : List Byte := [2]
    let k : List Byte := [3]
    let s : State :=
      { crown with cfg := [((0x0706, 0, 0), 65536), ((0x0706, 0, 12), 15)], cz.keys.groupKeys := [(1, [3])] }
    let u : State := s.tick at_
    2 ≤ x ∧ groupPort u x = true ∧ u.boot.fwRuns = true ∧ groupKey u (groupNo u) = some k ∧ hmac k (hdr ++ m) ≠ mac :=
  ⟨by decide, by decide, by decide, by decide, by decide +kernel⟩

theorem wit_GroupOfHubs_9 :
    let at_ : Nat := 0
    let x : Repeat := { (default : Repeat) with left := 2 }
    let s : State := { crown with group := { (default : Group) with repeats := [{ (default : Repeat) with left := 2 }] } }
    let u : State := s.tick at_
    u.group.repeats = [x] ∧ x.due ≤ u.now :=
  ⟨by decide, by decide⟩

theorem wit_GroupOfHubs_10 :
    let at_ : Nat := 0
    let x : Nat := 1
    let a : Nat := 7
    let b : Nat := 1
    let c : Nat := 5
    let d : Nat := 0
    let sender : Nat := 0
    let hdr : List Byte := []
    let m : List Byte := []
    let mac : List Byte := []
    let s : State := crown
    let u : State := s.tick at_
    x < 2 :=
  by decide

theorem wit_GroupOfHubs_11 :
    let at_ : Nat := 0
    let x : Nat := 1
    let a : Nat := 7
    let b : Nat := 1
    let c : Nat := 5
    let d : Nat := 0
    let s : State :=
      { crown with lanes := [(7, { (default : Lane) with state := 5, ver := 2 })], skaing := [(1, { (default : Skaing) with phase := 3 })] }
    let u : State := s.tick at_
    x < 2 ∧ skaingUp u x = true :=
  ⟨by decide, by decide⟩

theorem wit_GroupOfHubs_12 :
    let at_ : Nat := 0
    let b : Int × Nat × Nat × Nat := (-900000000000000000, 1, 2, 3)
    let s : State := { crown with group := { (default : Group) with best := some (-900000000000000000, 1, 2, 3) } }
    let u : State := s.tick at_
    u.group.kept = [] ∧ u.group.best = some b ∧ b.1 + acceptLate u ≤ devNow u :=
  ⟨by decide, by decide, by decide⟩

theorem wit_GroupOfHubs_13 :
    let at_ : Nat := 0
    let b : Int × Nat × Nat × Nat := (900000000000000000, 1, 2, 3)
    let s : State := { crown with group := { (default : Group) with best := some (900000000000000000, 1, 2, 3) } }
    let u : State := s.tick at_
    u.group.kept = [] ∧ u.group.best = some b ∧ devNow u < b.1 + acceptLate u :=
  ⟨by decide, by decide, by decide⟩

theorem wit_GroupOfHubs_14 :
    let at_ : Nat := 0
    let s : State := { crown with group := { (default : Group) with notSent := 3 } }
    let u : State := s.tick at_
    u.group.notSent ≠ 0 :=
  by decide

theorem wit_LaneEvents_1 :
    let at_ : Nat := 0
    let l : Nat := 5
    let s : State := setLane 5 { (default : Lane) with lock := true, state := 5 } crown
    let u : State := s.tick at_
    l < 6 ∧ (lane u l).lock = true :=
  ⟨by decide, by decide⟩

theorem wit_LaneEvents_2 :
    let at_ : Nat := 0
    let l : Nat := 7
    let s : State := setLane 7 { (default : Lane) with state := 5 } crown
    let u : State := s.tick at_
    l < 8 ∧ 3 ≤ (lane u l).state :=
  ⟨by decide, by decide⟩

theorem wit_LaneEvents_3 :
    let at_ : Nat := 0
    let rev : Bool := true
    let s : State :=
      { crown with lanes := [(0, { (default : Lane) with state := 5, lock := true }), (1, { (default : Lane) with state := 5, lock := true }), (2, { (default : Lane) with state := 5, lock := true }), (3, { (default : Lane) with state := 5 })] }
    let u : State := s.tick at_
    let l : List Nat := [0, 1]
    u.host.linkUp = true ∧ ([0, 1, 2, 3].any fun k => decide ((lane u k).state = 5) && !(lane u k).lock) = true ∧ l =
      workingLanes rev u ∧ l ≠ [] ∧ ([0, 1, 2, 3].all fun k => decide ((lane u k).scan = none)) = true :=
  ⟨by decide, by decide, by decide, by decide, by decide⟩

theorem wit_LaneEvents_4 :
    let at_ : Nat := 0
    let rev : Bool := false
    let s : State := crown
    let u : State := s.tick at_
    ((u.host.linkUp = false ∨ ([0, 1, 2, 3].any fun k => decide ((lane u k).state = 5) && !(lane u k).lock) = false)) :=
  by decide

theorem wit_LaneEvents_5 :
    let at_ : Nat := 0
    let rev : Bool := false
    let s : State := { crown with lanes := [(3, { (default : Lane) with state := 5 })] }
    let u : State := s.tick at_
    u.host.linkUp = true ∧ ([0, 1, 2, 3].any fun k => decide ((lane u k).state = 5) && !(lane u k).lock) = true ∧
      workingLanes rev u = [] :=
  ⟨by decide, by decide, by decide⟩

theorem wit_LaneEvents_6 :
    let at_ : Nat := 0
    let l : Nat := 7
    let s : State := { setLane 7 { (default : Lane) with state := 5 } crown with cfg := [((0x0A01, 7, 0), 0x80000000)] }
    let u : State := s.tick at_
    4 ≤ l ∧ l < 8 ∧ (lane u l).state = 5 ∧ (lane u l).lock = false ∧ (lane u l).lossAt + msU ≤ u.now ∧ laneEn u l = true :=
  ⟨by decide, by decide, by decide, by decide, by decide, by decide⟩

theorem wit_LaneEvents_7 :
    let at_ : Nat := 0
    let l : Nat := 3
    let g : Nat := 4
    let f : Nat := 0
    let w : Nat := 3
    let n : Nat := 2
    let s : State := setLane 3 { (default : Lane) with state := 3 } crown
    let u : State := s.tick at_
    l < 4 ∧ (((lane u l).state = 3 ∨ (lane u l).state = 4 ∨ (lane u l).state = 7)) ∧ ([0, 1, 2, 3].any fun k => decide
      ((lane u k).state = 6)) = false ∧ 1 ≤ w ∧ 1 ≤ g ∧ g ≤ 4 ∧ ([0, 1, 2, 3].all fun k => decide ((lane u k).scan =
      none)) = true ∧ n = (if 4 ≤ w then 4 else if 2 ≤ w then 2 else 1) :=
  ⟨by decide, by decide, by decide, by decide, by decide, by decide, by decide, by decide⟩

theorem wit_LaneEvents_8 :
    let at_ : Nat := 0
    let l : Nat := 5
    let g : Nat := 2
    let f : Nat := 1
    let w : Nat := 1
    let s : State := setLane 5 { (default : Lane) with state := 7, rateSet := 2 } crown
    let u : State := s.tick at_
    ((l = 4 ∨ l = 5)) ∧ w ≠ 0 ∧ (((lane u l).state = 3 ∨ (lane u l).state = 4 ∨ (lane u l).state = 7)) :=
  ⟨by decide, by decide, by decide⟩

theorem wit_LaneEvents_9 :
    let at_ : Nat := 0
    let l : Nat := 7
    let g : Nat := 0
    let f : Nat := 0
    let w : Nat := 1
    let s : State := setLane 7 { (default : Lane) with state := 3 } crown
    let u : State := s.tick at_
    ((l = 6 ∨ l = 7)) ∧ w ≠ 0 ∧ (((lane u l).state = 3 ∨ (lane u l).state = 4)) :=
  ⟨by decide, by decide, by decide⟩

theorem wit_LaneEvents_10 :
    let at_ : Nat := 0
    let l : Nat := 5
    let g : Nat := 0
    let f : Nat := 0
    let s : State := setLane 5 { (default : Lane) with state := 4 } crown
    let u : State := s.tick at_
    4 ≤ l ∧ l < 6 ∧ (((lane u l).state = 3 ∨ (lane u l).state = 4)) :=
  ⟨by decide, by decide, by decide⟩

theorem wit_LaneEvents_11 :
    let at_ : Nat := 0
    let l : Nat := 7
    let s : State := setLane 7 { (default : Lane) with state := 3 } crown
    let u : State := s.tick at_
    l < 8 ∧ (((lane u l).state = 3 ∨ (lane u l).state = 4)) ∧ (lane u l).trainSince + secU ≤ u.now :=
  ⟨by decide, by decide, by decide⟩

theorem wit_LaneEvents_12 :
    let at_ : Nat := 0
    let l : Nat := 7
    let s : State := setLane 7 { (default : Lane) with state := 7 } crown
    let u : State := s.tick at_
    l < 8 ∧ (((lane u l).state = 3 ∨ (lane u l).state = 4 ∨ (lane u l).state = 7)) ∧ (lane u l).faultRaised = false ∧
      (lane u l).downSince + 10 * secU ≤ u.now :=
  ⟨by decide, by decide, by decide, by decide⟩

theorem wit_LaneCommands_1 :
    let at_ : Nat := 0
    let l : Nat := 7
    let seen : Bool := false
    let s : State := { setLane 7 { (default : Lane) with state := 2 } crown with cfg := [((0x0A01, 7, 0), 0xC0000000)] }
    let u : State := s.tick at_
    ((l = 5 ∨ l = 7)) ∧ (lane u l).state = 2 ∧ ((seen = true ∨ ((lane u (l - 1)).state ≠ 5 ∧ (lane u (l - 1)).downSince +
      100 * msU ≤ u.now))) ∧ laneEn u l = true :=
  ⟨by decide, by decide, by decide, by decide⟩

theorem wit_LaneCommands_2 :
    let at_ : Nat := 0
    let l : Nat := 7
    let s : State :=
      { setLane 6 { (default : Lane) with state := 5 } (setLane 7 { (default : Lane) with state := 5 } crown) with cfg := [((0x0A01, 7, 0), 0xC0000000)] }
    let u : State := s.tick at_
    standby u l = true ∧ laneEn u l = true ∧ (lane u l).state ≠ 2 ∧ (lane u l).state ≠ 6 ∧ (lane u (l - 1)).state = 5 ∧
      (lane u (l - 1)).upSince + 10 * secU ≤ u.now :=
  ⟨by decide, by decide, by decide, by decide, by decide, by decide⟩

theorem wit_LaneCommands_3 :
    let at_ : Nat := 0
    let l : Nat := 7
    let s : State :=
      { setLane 7 { (default : Lane) with state := 5 } crown with now := 60 * secU, cfg := [((0x0A01, 7, 0), 0x80000001)] }
    let u : State := s.tick at_
    l < 8 ∧ (lane u l).state = 5 ∧ (lane u l).scan = none ∧ cf u 0x0A01 l 0 7 0 ≠ 0 ∧ (lane u l).lastScan + cf u 0x0A01 l
      0 7 0 * 60 * secU ≤ u.now :=
  ⟨by decide, by decide, by decide, by decide, by decide⟩

theorem wit_LaneCommands_4 :
    let at_ : Nat := 0
    let l : Nat := 7
    let k : Nat := 5
    let m : List Byte := zeros 1089
    let s : State := setLane 7 { (default : Lane) with state := 5, scan := some (5, none), lowScans := 2 } crown
    let u : State := s.tick at_
    (lane u l).state = 5 ∧ (lane u l).scan = some (k, none) ∧ cf u 0x0A01 l 4 31 16 ≤ eyeH m ∧ cf u 0x0A01 l 4 15 0 ≤ eyeV
      m :=
  ⟨by decide, by decide, by decide, by decide⟩

theorem wit_LaneCommands_5 :
    let at_ : Nat := 0
    let l : Nat := 7
    let m : List Byte := []
    let s : State := crown
    let u : State := s.tick at_
    (lane u l).scan = none :=
  by decide

theorem wit_LaneCommands_6 :
    let at_ : Nat := 0
    let v : Session := sess 5
    let s : State := setLane 7 { (default : Lane) with state := 5 } crown
    let u : State := s.tick at_
    let p : Packet := pkt [7, 0, 0, 0]
    let r : Req := request 0x0C00 p v u
    let z : State := takenState p v u
    let l : Nat := 7
    Accepted 0x0C00 p tableRole laneParam v u ∧ r = request 0x0C00 p v u ∧ z = takenState p v u ∧ l = r.f 0 1 ∧ (lane z
      l).state = 5 ∧ (lane z l).scan = none :=
  ⟨accepted_of (by decide +kernel), rfl, rfl, by decide, by decide, by decide⟩

theorem wit_LaneCommands_7 :
    let at_ : Nat := 0
    let s : State := crown
    let u : State := s.tick at_
    let v : Session := sess 5
    let p : Packet := pkt [7, 0, 0, 0]
    let r : Req := request 0x0C00 p v u
    let z : State := takenState p v u
    Accepted 0x0C00 p tableRole laneParam v u ∧ r = request 0x0C00 p v u ∧ z = takenState p v u ∧ (((lane z (r.f 0
      1)).state ≠ 5 ∨ (lane z (r.f 0 1)).scan.isSome = true)) :=
  ⟨accepted_of (by decide +kernel), rfl, rfl, by decide⟩

theorem wit_LaneCommands_8 :
    let at_ : Nat := 0
    let s : State := crown
    let u : State := s.tick at_
    let v : Session := sess 5
    let p : Packet := pkt [3, 0, 0, 0]
    let r : Req := request 0x0C01 p v u
    let z : State := takenState p v u
    Accepted 0x0C01 p tableRole laneParam v u ∧ r = request 0x0C01 p v u ∧ z = takenState p v u ∧ ((overLane r (r.f 0 1) =
      true ∨ (lane z (r.f 0 1)).state = 6)) :=
  ⟨accepted_of (by decide +kernel), rfl, rfl, by decide⟩

theorem wit_LaneCommands_9 :
    let at_ : Nat := 0
    let v : Session := sess 5
    let s : State :=
      { setLane 7 { (default : Lane) with state := 5, cap := 3 } crown with cfg := [((0x0A01, 7, 0), 0x80000000)] }
    let u : State := s.tick at_
    let p : Packet := pkt [7, 0, 0, 0]
    let r : Req := request 0x0C01 p v u
    let z : State := takenState p v u
    let l : Nat := 7
    Accepted 0x0C01 p tableRole laneParam v u ∧ r = request 0x0C01 p v u ∧ z = takenState p v u ∧ l = r.f 0 1 ∧ 4 ≤ l ∧
      overLane r l = false ∧ (lane z l).state ≠ 6 ∧ laneEn z l = true :=
  ⟨accepted_of (by decide +kernel), rfl, rfl, by decide, by decide, by decide, by decide, by decide⟩

theorem wit_LaneCommands_10 :
    let at_ : Nat := 0
    let v : Session := sess 5
    let s : State := setLane 7 { (default : Lane) with state := 5 } crown
    let u : State := s.tick at_
    let p : Packet := pkt ([7, 3] ++ le 2 3600)
    let r : Req := request 0x0C02 p v u
    let z : State := takenState p v u
    let l : Nat := 7
    (Accepted 0x0C02 p tableRole (fun r s => exactly 4 r s && decide (r.f 0 1 < 8 ∧ r.f 1 1 ≤ 3) && decide (r.f 1 1 = 0 ∨
      (1 ≤ r.f 2 2 ∧ r.f 2 2 ≤ 3600)) && !decide (r.f 1 1 = 3 ∧ r.f 0 1 < 4)) v u) ∧ r = request 0x0C02 p v u ∧ z =
      takenState p v u ∧ l = r.f 0 1 ∧ 4 ≤ l ∧ r.f 1 1 ≠ 0 ∧ overLane r l = false ∧ (lane z l).state ≠ 6 ∧
      z.time.source ≠ laneSource l :=
  ⟨accepted_of (by decide +kernel), rfl, rfl, by decide, by decide, by decide, by decide, by decide, by decide⟩

theorem wit_LaneCommands_11 :
    let at_ : Nat := 0
    let s : State := crown
    let u : State := s.tick at_
    let v : Session := sess 5
    let p : Packet := pkt ([3, 1] ++ le 2 60)
    let r : Req := request 0x0C02 p v u
    let z : State := takenState p v u
    (Accepted 0x0C02 p tableRole (fun r s => exactly 4 r s && decide (r.f 0 1 < 8 ∧ r.f 1 1 ≤ 3) && decide (r.f 1 1 = 0 ∨
      (1 ≤ r.f 2 2 ∧ r.f 2 2 ≤ 3600)) && !decide (r.f 1 1 = 3 ∧ r.f 0 1 < 4)) v u) ∧ r = request 0x0C02 p v u ∧ z =
      takenState p v u ∧ r.f 1 1 ≠ 0 ∧ ((overLane r (r.f 0 1) = true ∨ (lane z (r.f 0 1)).state = 6 ∨ (4 ≤ r.f 0 1 ∧
      z.time.source = laneSource (r.f 0 1)))) :=
  ⟨accepted_of (by decide +kernel), rfl, rfl, by decide, by decide⟩

theorem wit_LaneCommands_12 :
    let at_ : Nat := 0
    let v : Session := sess 5
    let s : State := setLane 7 { (default : Lane) with state := 6, loopEnd := 3600 * secU } crown
    let u : State := s.tick at_
    let p : Packet := pkt [7, 0, 0, 0]
    let r : Req := request 0x0C02 p v u
    let z : State := takenState p v u
    (Accepted 0x0C02 p tableRole (fun r s => exactly 4 r s && decide (r.f 0 1 < 8 ∧ r.f 1 1 ≤ 3) && decide (r.f 1 1 = 0 ∨
      (1 ≤ r.f 2 2 ∧ r.f 2 2 ≤ 3600)) && !decide (r.f 1 1 = 3 ∧ r.f 0 1 < 4)) v u) ∧ r = request 0x0C02 p v u ∧ z =
      takenState p v u ∧ r.f 1 1 = 0 ∧ (lane z (r.f 0 1)).state = 6 :=
  ⟨accepted_of (by decide +kernel), rfl, rfl, by decide, by decide⟩

theorem wit_LaneCommands_13 :
    let at_ : Nat := 0
    let s : State := crown
    let u : State := s.tick at_
    let v : Session := sess 5
    let p : Packet := pkt [7, 0, 0, 0]
    let r : Req := request 0x0C02 p v u
    let z : State := takenState p v u
    (Accepted 0x0C02 p tableRole (fun r s => exactly 4 r s && decide (r.f 0 1 < 8 ∧ r.f 1 1 ≤ 3) && decide (r.f 1 1 = 0 ∨
      (1 ≤ r.f 2 2 ∧ r.f 2 2 ≤ 3600)) && !decide (r.f 1 1 = 3 ∧ r.f 0 1 < 4)) v u) ∧ r = request 0x0C02 p v u ∧ z =
      takenState p v u ∧ r.f 1 1 = 0 ∧ (lane z (r.f 0 1)).state ≠ 6 :=
  ⟨accepted_of (by decide +kernel), rfl, rfl, by decide, by decide⟩

theorem wit_LaneCommands_14 :
    let at_ : Nat := 0
    let l : Nat := 7
    let n : Nat := 2 ^ 40
    let e : Nat := 2 ^ 32 + 3
    let s : State :=
      { setLane 7 { (default : Lane) with state := 6, loopReq := some default } crown with cfg := [((0x0A01, 7, 0), 0x80000000)] }
    let u : State := s.tick at_
    4 ≤ l ∧ (lane u l).state = 6 ∧ (lane u l).loopEnd ≤ u.now ∧ laneEn u l = true :=
  ⟨by decide, by decide, by decide, by decide⟩

theorem wit_SkaingLink_1 :
    let at_ : Nat := 0
    let x : Nat := 1
    let a : Nat := 1
    let b : Nat := 5
    let c : Nat := 3
    let d : Nat := 7
    let s : State := setSkaing 1 { (default : Skaing) with phase := 1, linkSent := true } crown
    let u : State := s.tick at_
    x < 2 ∧ (skaing u x).phase = 1 ∧ (skaing u x).prbsFrom ≤ u.now ∧ (skaing u x).linkSent = true ∧ max 1 a ≤ min 2 b :=
  ⟨by decide, by decide, by decide, by decide, by decide⟩

theorem wit_SkaingLink_2 :
    let at_ : Nat := 0
    let x : Nat := 1
    let a : Nat := 3
    let b : Nat := 5
    let c : Nat := 3
    let d : Nat := 7
    let s : State := setSkaing 1 { (default : Skaing) with phase := 1, linkSent := true } crown
    let u : State := s.tick at_
    x < 2 ∧ (skaing u x).phase = 1 ∧ (skaing u x).prbsFrom ≤ u.now ∧ (skaing u x).linkSent = true ∧ min 2 b < max 1 a :=
  ⟨by decide, by decide, by decide, by decide, by decide⟩

theorem wit_SkaingLink_3 :
    let at_ : Nat := 0
    let x : Nat := 1
    let a : Nat := 1
    let b : Nat := 5
    let c : Nat := 3
    let d : Nat := 7
    let s : State := setSkaing 1 { (default : Skaing) with phase := 1 } crown
    let u : State := s.tick at_
    x < 2 ∧ (skaing u x).phase ≠ 0 :=
  ⟨by decide, by decide⟩

theorem wit_SkaingLink_4 :
    let at_ : Nat := 0
    let x : Nat := 1
    let s : State := setSkaing 1 { (default : Skaing) with phase := 2, rate := 3 } crown
    let u : State := s.tick at_
    (skaing u x).phase = 2 ∧ (skaing u x).prbsFrom + msU ≤ u.now :=
  ⟨by decide, by decide⟩

theorem wit_SkaingLink_5 :
    let at_ : Nat := 0
    let x : Nat := 1
    let e : Nat := 1
    let s : State := setSkaing 1 { (default : Skaing) with phase := 2, rate := 3 } crown
    let u : State := s.tick at_
    (skaing u x).phase = 2 ∧ (skaing u x).prbsFrom + msU ≤ u.now ∧ e ≠ 0 :=
  ⟨by decide, by decide, by decide⟩

theorem wit_SkaingLink_6 :
    let at_ : Nat := 0
    let x : Nat := 1
    let s : State := setSkaing 1 { (default : Skaing) with phase := 1, peerHeard := true } crown
    let u : State := s.tick at_
    x < 2 ∧ (skaing u x).phase = 1 ∧ (skaing u x).prbsFrom ≤ u.now ∧ ((u.now < (skaing u x).prbsFrom + 100 * msU ∨ (skaing
      u x).peerHeard = true)) ∧ (skaing u x).lastLink + 100 * usU ≤ u.now :=
  ⟨by decide, by decide, by decide, by decide, by decide⟩

theorem wit_SkaingLink_7 :
    let at_ : Nat := 0
    let x : Nat := 1
    let s : State :=
      { setSkaing 1 { (default : Skaing) with phase := 3 } crown with lanes := [(7, { (default : Lane) with state := 5 })], cfg := [((0x0A01, 7, 0), 0x80000000)] }
    let u : State := s.tick at_
    x < 2 ∧ (skaing u x).phase = 3 ∧ (skaing u x).lastRx + msU ≤ u.now ∧ (lane u (skaingLane x)).state ≠ 6 ∧ laneEn u
      (skaingLane x) = true :=
  ⟨by decide, by decide, by decide, by decide, by decide⟩

theorem wit_SkaingLink_8 :
    let at_ : Nat := 0
    let x : Nat := 1
    let s : State :=
      { setSkaing 1 { (default : Skaing) with phase := 3 } crown with lanes := [(7, { (default : Lane) with state := 5 })], cfg := [((0x0604, 1, 0), 2)] }
    let u : State := s.tick at_
    x < 2 ∧ skaingUp u x = true ∧ skaingRole u x ≠ 0 ∧ (skaing u x).lastTime + msU ≤ u.now :=
  ⟨by decide, by decide, by decide, by decide⟩

theorem wit_SkaingLink_9 :
    let at_ : Nat := 0
    let x : Nat := 1
    let role : Nat := 1
    let st : Nat := 2
    let qual : Nat := 4
    let rx : Nat := 16
    let ph : Nat := 3
    let a : Int := 5
    let b : Int := 0
    let c : Int := 0
    let d : Int := 100
    let s : State :=
      { setSkaing 1 { (default : Skaing) with phase := 3, delay := some 100 } crown with lanes := [(7, { (default : Lane) with state := 5 })], cfg := [((0x0604, 1, 0), 2)] }
    let u : State := s.tick at_
    let y : State := setSkaing 1
      { skaing u 1 with lastRx := u.now, peerTx := 5, peerRx := devPhase u 16 3, txQual := 4, rxQual := u.time.state, heardTime := true, peerRole := 1, peerState := 2 }
      u
    x < 2 ∧ skaingUp u x = true ∧ skaingRole u x = 2 ∧ role = 1 ∧ st ≠ 0 ∧ (skaing u x).tx = 0 ∧ (skaing u x).delay = some
      d ∧ y = setSkaing x
      { skaing u x with lastRx := u.now, peerTx := a, peerRx := devPhase u rx ph, txQual := qual, rxQual := u.time.state, heardTime := true, peerRole := role, peerState := st }
      u :=
  ⟨by decide, by decide, by decide, rfl, by decide, by decide, by decide, by decide⟩

theorem wit_StreamsOverLinks_1 :
    let at_ : Nat := 0
    let n : Nat := 31
    let s : State := setStream 31
      { (default : Stream) with netAny := true, netSent := 5, q := { (default : FolioQ) with folios := [{ folio1 with seq := 5 }] } }
      { crown with cfg := [((0x0A04, 31, 0), 0x20000000)] }
    let u : State := s.tick at_
    u.boot.restart = none ∧ (stream u n).netAny = true ∧ ((stream u n).q.folios.any fun f => decide ((stream u
      n).q.ackNext ≤ f.seq ∧ f.seq ≤ (stream u n).netSent)) = true ∧ ((transport u n = 1 ∨ transport u n = 2)) ∧
      (stream u n).lastAdvance + cf u 0x0A04 n 4 31 16 * msU ≤ u.now :=
  ⟨by decide, by decide, by decide, by decide, by decide⟩

theorem wit_StreamsOverLinks_2 :
    let at_ : Nat := 0
    let n : Nat := 31
    let s : State := crown
    let u : State := s.tick at_
    transport u n ≠ 1 ∧ transport u n ≠ 2 :=
  ⟨by decide, by decide⟩

theorem wit_StreamsOverLinks_3 :
    let at_ : Nat := 0
    let n : Nat := 31
    let x : Nat := 1
    let v : Session := sess 5
    let s : State := setLane 5 { (default : Lane) with state := 5 } (setStream 31 { (default : Stream) with session := 1 }
      { crown with cfg := [((0x0A04, 31, 0), 0x20000000), ((0x0A03, 1, 0), 0x80000000)] })
    let u : State := s.tick at_
    netPort u n = some x ∧ x < 2 ∧ session? u (stream u n).session = some v ∧ (stream u n).q.folios.any (unsent (stream u
      n)) = false ∧ (stream u n).again = [] ∧ (stream u n).lastSend + 100 * msU ≤ u.now :=
  ⟨by decide, by decide, by decide, by decide, by decide, by decide⟩

theorem wit_StreamsOverLinks_4 :
    let at_ : Nat := 0
    let n : Nat := 31
    let v : Session := sess 5
    let hdr : List Byte := [3, 31, 0, 0] ++ le 4 1 ++ le 8 9
    let body : List Byte := le 8 5 ++ zeros 8
    let mac : List Byte := hmac (sess 5).key (hdr ++ body)
    let s : State := setLane 5 { (default : Lane) with state := 5 } (setStream 31 { (default : Stream) with session := 1 }
      { crown with cfg := [((0x0A04, 31, 0), 0x20000000), ((0x0A03, 1, 0), 0x80000000)] })
    let u : State := s.tick at_
    session? u (stream u n).session = some v ∧ hmac v.key (hdr ++ body) = mac ∧ fld 0 1 hdr = 3 ∧ fld 1 1 hdr = n ∧ fld 4
      4 hdr = v.id ∧ (stream u n).ackCounts.get v.id 0 < fld 8 8 hdr ∧ fld 8 2 body = 0 ∧ body.length = 16 ∧ ((netPort
      u n = some 0 ∨ netPort u n = some 1)) :=
  ⟨by decide, by decide +kernel, by decide, by decide, by decide, by decide, by decide, by decide, by decide⟩

theorem wit_StreamsOverLinks_5 :
    let at_ : Nat := 0
    let n : Nat := 31
    let v : Session := sess 5
    let hdr : List Byte := []
    let body : List Byte := []
    let mac : List Byte := [1]
    let s : State := setStream 31 { (default : Stream) with session := 1 } crown
    let u : State := s.tick at_
    session? u (stream u n).session = some v ∧ ((hmac v.key (hdr ++ body) ≠ mac ∨ fld 8 8 hdr ≤ (stream u n).ackCounts.get
      v.id 0)) :=
  ⟨by decide, by decide +kernel⟩

theorem wit_StreamsOverLinks_6 :
    let at_ : Nat := 0
    let x : Nat := 1
    let n : Nat := 31
    let b : List Byte := [1, 2, 4, 0]
    let s : State :=
      { setSkaing 1 { (default : Skaing) with phase := 3 } crown with lanes := [(7, { (default : Lane) with state := 5, ver := 2 })], cfg := [((0x0A04, 31, 0), 0x60040000)] }
    let u : State := s.tick at_
    x < 2 ∧ skaingUp u x = true ∧ skaingVer u x = 2 ∧ (relays u x).find? (fun k => cf u 0x0A04 k 0 23 16 == (readFolio
      b).stream) = some n :=
  ⟨by decide, by decide, by decide, by decide⟩

theorem wit_StreamsOverLinks_7 :
    let at_ : Nat := 0
    let x : Nat := 1
    let n : Nat := 31
    let c : Nat := 255
    let a : Nat := 9
    let s : State :=
      { setSkaing 1 { (default : Skaing) with phase := 3 } crown with lanes := [(7, { (default : Lane) with state := 5, ver := 2 })], cfg := [((0x0A04, 31, 0), 0x40000000)] }
    let u : State := s.tick at_
    x < 2 ∧ skaingUp u x = true ∧ skaingVer u x = 2 ∧ netPort u n = some (2 + x) :=
  ⟨by decide, by decide, by decide, by decide⟩

theorem wit_StreamsOverLinks_8 :
    let at_ : Nat := 0
    let x : Nat := 1
    let mac : List Byte := [1, 2, 3, 4, 5, 6]
    let ip : List Byte := [10, 0, 0, 1]
    let data : List Byte := []
    let s : State :=
      { crown with lanes := [(5, { (default : Lane) with state := 5 })], cfg := [((0x0A03, 1, 0), 0x80000000)] }
    let u : State := s.tick at_
    x < 2 ∧ laneUp u (ethLane x) = true ∧ cfBit u 0x0A03 x 0 31 = true :=
  ⟨by decide, by decide, by decide⟩

theorem wit_StreamsOverLinks_9 :
    let at_ : Nat := 0
    let x : Nat := 1
    let mac : List Byte := [1, 2, 3, 4, 5, 6]
    let ip : List Byte := [10, 0, 0, 1]
    let data : List Byte := [7]
    let s : State :=
      { crown with lanes := [(5, { (default : Lane) with state := 5 })], cfg := [((0x0A03, 1, 0), 0x80000000)] }
    let u : State := s.tick at_
    x < 2 ∧ laneUp u (ethLane x) = true ∧ cfBit u 0x0A03 x 0 31 = true ∧ frameFits u x false data = true :=
  ⟨by decide, by decide, by decide, by decide⟩

theorem wit_StreamsOverLinks_10 :
    let at_ : Nat := 0
    let x : Nat := 1
    let k : Nat := 2
    let mac : List Byte := []
    let ip : List Byte := []
    let target : List Byte := [1]
    let data : List Byte := []
    let s : State :=
      { crown with lanes := [(5, { (default : Lane) with state := 5 })], cfg := [((0x0A03, 1, 0), 0x80000000)] }
    let u : State := s.tick at_
    (target ≠ (if (k = 0 ∨ k = 2) then ipv4 u x else ipv6 u x)) :=
  by decide

theorem wit_StreamsOverLinks_11 :
    let at_ : Nat := 0
    let x : Nat := 1
    let n : Nat := 31
    let c : Nat := 255
    let a : Nat := 9
    let s : State :=
      { setSkaing 1 { (default : Skaing) with phase := 3 } crown with lanes := [(7, { (default : Lane) with state := 5, ver := 2 })] }
    let u : State := s.tick at_
    x < 2 ∧ skaingUp u x = true ∧ skaingVer u x = 2 :=
  ⟨by decide, by decide, by decide⟩

theorem wit_ParameterWrites_1 :
    let at_ : Nat := 0
    let s : State := crown
    let u : State := s.tick at_
    let v : Session := sess 5
    let p : Packet := pkt (le 2 0x0502 ++ le 2 0 ++ le 2 0 ++ le 2 4 ++ le 4 0)
    let r : Req := request 0x0100 p v u
    let z : State := takenState p v u
    let b : Nat := 0x0502
    let i : Nat := 0
    let k : Nat := 0
    let m : Nat := (accMask .rw 0x0502 0 0 ||| accMask .sl 0x0502 0 0)
    Accepted 0x0100 p pbRole writeOk v u ∧ r = request 0x0100 p v u ∧ z = takenState p v u ∧ b = pbBlock r ∧ i = pbInst r
      ∧ k = pbOff r ∧ m = (accMask .rw b i k ||| accMask .sl b i k) ∧ pbLen r = 4 ∧ [0x0104, 0x0601, 0x0603,
      0x0A01].contains b = false ∧ b < 0x0B00 ∧ ((rangeHas .sl r = false ∨ guardOpen z b = true)) ∧ z.jrn.failed =
      false ∧ linkRules (writeWords r z) b i = true :=
  ⟨accepted_of (by decide +kernel), rfl, rfl, by decide, by decide, by decide, by decide, by decide, by decide, by decide, by decide, by decide, by decide⟩

theorem wit_ParameterWrites_2 :
    let at_ : Nat := 0
    let s : State := crown
    let u : State := s.tick at_
    let v : Session := sess 5
    let p : Packet := pkt (le 2 0x0B01 ++ le 2 0 ++ le 2 8 ++ le 2 4 ++ le 4 60)
    let r : Req := request 0x0100 p v u
    let z : State := takenState p v u
    Accepted 0x0100 p pbRole writeOk v u ∧ r = request 0x0100 p v u ∧ z = takenState p v u ∧ rangeHas .sl r = true ∧
      guardOpen z (pbBlock r) = false :=
  ⟨accepted_of (by decide +kernel), rfl, rfl, by decide, by decide⟩

theorem wit_ParameterWrites_3 :
    let at_ : Nat := 0
    let v : Session := sess 5
    let p : Packet := pkt (le 2 0x0A01 ++ le 2 5 ++ le 2 0 ++ le 2 4 ++ le 4 0x40000000)
    let s : State := { crown with cfg := [((0x0A01, 4, 0), 0)] }
    let u : State := s.tick at_
    let r : Req := request 0x0100 p v u
    let z : State := takenState p v u
    Accepted 0x0100 p pbRole writeOk v u ∧ r = request 0x0100 p v u ∧ z = takenState p v u ∧ rangeHas .sl r = false ∧
      pbBlock r ≠ 0x0C02 ∧ linkRules (writeWords r z) (pbBlock r) (pbInst r) = false :=
  ⟨accepted_of (by decide +kernel), rfl, rfl, by decide, by decide, by decide⟩

theorem wit_ParameterWrites_4 :
    let at_ : Nat := 0
    let s : State := crown
    let u : State := s.tick at_
    let v : Session := sess 5
    let p : Packet := pkt (le 2 0x0104 ++ le 2 1 ++ le 2 12 ++ le 2 4 ++ le 4 1)
    let r : Req := request 0x0100 p v u
    let z : State := takenState p v u
    let q : Nat := 1
    Accepted 0x0100 p pbRole writeOk v u ∧ r = request 0x0100 p v u ∧ z = takenState p v u ∧ q = pbInst r ∧ pbBlock r =
      0x0104 ∧ pbOff r = 12 ∧ pbLen r = 4 ∧ z.jrn.failed = false ∧ pbWord r 12 % 4 = 1 :=
  ⟨accepted_of (by decide +kernel), rfl, rfl, by decide, by decide, by decide, by decide, by decide, by decide⟩

theorem wit_ParameterWrites_5 :
    let at_ : Nat := 0
    let s : State := crown
    let u : State := s.tick at_
    let v : Session := sess 5
    let p : Packet := pkt (le 2 0x0104 ++ le 2 1 ++ le 2 12 ++ le 2 4 ++ le 4 2)
    let r : Req := request 0x0100 p v u
    let z : State := takenState p v u
    let q : Nat := 1
    Accepted 0x0100 p pbRole writeOk v u ∧ r = request 0x0100 p v u ∧ z = takenState p v u ∧ q = pbInst r ∧ pbBlock r =
      0x0104 ∧ pbOff r = 12 ∧ pbLen r = 4 ∧ z.jrn.failed = false ∧ pbWord r 12 % 4 = 2 :=
  ⟨accepted_of (by decide +kernel), rfl, rfl, by decide, by decide, by decide, by decide, by decide, by decide⟩

theorem wit_ParameterWrites_6 :
    let at_ : Nat := 0
    let s : State := crown
    let u : State := s.tick at_
    let v : Session := sess 5
    let p : Packet := pkt (le 2 0x0601 ++ le 2 0 ++ le 2 0 ++ le 2 4 ++ le 4 (word crown 0x0601 0 0))
    let r : Req := request 0x0100 p v u
    let z : State := takenState p v u
    Accepted 0x0100 p pbRole writeOk v u ∧ r = request 0x0100 p v u ∧ z = takenState p v u ∧ pbBlock r = 0x0601 ∧
      z.jrn.failed = false :=
  ⟨accepted_of (by decide +kernel), rfl, rfl, by decide, by decide⟩

theorem wit_ParameterWrites_7 :
    let at_ : Nat := 0
    let s : State := crown
    let u : State := s.tick at_
    let v : Session := sess 5
    let p : Packet := pkt (le 2 0x0603 ++ le 2 0 ++ le 2 0 ++ le 2 4 ++ le 4 (setBits 23 16 1 (word crown 0x0603 0 0)))
    let r : Req := request 0x0100 p v u
    let z : State := takenState p v u
    let i : Nat := 0
    Accepted 0x0100 p pbRole writeOk v u ∧ r = request 0x0100 p v u ∧ z = takenState p v u ∧ i = pbInst r ∧ pbBlock r =
      0x0603 ∧ z.jrn.failed = false ∧ linkRules (writeWords r z) 0x0603 i = true ∧ (fieldChanged z (writeWords r z)
      0x0603 i 0 31 28 || fieldChanged z (writeWords r z) 0x0603 i 0 23 16) = true :=
  ⟨accepted_of (by decide +kernel), rfl, rfl, by decide, by decide, by decide, by decide, by decide⟩

theorem wit_ParameterWrites_8 :
    let at_ : Nat := 0
    let s : State := crown
    let u : State := s.tick at_
    let v : Session := sess 5
    let p : Packet := pkt (le 2 0x0A03 ++ le 2 0 ++ le 2 0 ++ le 2 4 ++ le 4 (2 ^ 31))
    let r : Req := request 0x0100 p v u
    let z : State := takenState p v u
    let i : Nat := 0
    Accepted 0x0100 p pbRole writeOk v u ∧ r = request 0x0100 p v u ∧ z = takenState p v u ∧ i = pbInst r ∧ pbBlock r =
      0x0A03 ∧ z.jrn.failed = false ∧ linkRules (writeWords r z) 0x0A03 i = true :=
  ⟨accepted_of (by decide +kernel), rfl, rfl, by decide, by decide, by decide, by decide⟩

theorem wit_ParameterWrites_9 :
    let at_ : Nat := 0
    let s : State := crown
    let u : State := s.tick at_
    let v : Session := sess 5
    let p : Packet := pkt (le 2 0x0C01 ++ le 2 0 ++ le 2 0 ++ le 2 4 ++ le 4 0x0B)
    let r : Req := request 0x0100 p v u
    let z : State := takenState p v u
    let i : Nat := 0
    Accepted 0x0100 p pbRole writeOk v u ∧ r = request 0x0100 p v u ∧ z = takenState p v u ∧ i = pbInst r ∧ pbBlock r =
      0x0C01 ∧ z.jrn.failed = false ∧ pbOff r = 0 ∧ pbLen r = 4 :=
  ⟨accepted_of (by decide +kernel), rfl, rfl, by decide, by decide, by decide, by decide, by decide⟩

theorem wit_ParameterWrites_10 :
    let at_ : Nat := 0
    let s : State := crown
    let u : State := s.tick at_
    let v : Session := sess 5
    let p : Packet := pkt (le 2 0x0C02 ++ le 2 0 ++ le 2 0 ++ le 2 0xA8 ++ zeros 0xA8)
    let r : Req := request 0x0100 p v u
    let z : State := takenState p v u
    Accepted 0x0100 p pbRole writeOk v u ∧ r = request 0x0100 p v u ∧ z = takenState p v u ∧ pbBlock r = 0x0C02 ∧
      z.jrn.failed = false ∧ allZero (r.params.drop 8) = true :=
  ⟨accepted_of (by decide +kernel), rfl, rfl, by decide, by decide, by decide⟩

theorem wit_ParameterWrites_11 :
    let at_ : Nat := 0
    let s : State := crown
    let u : State := s.tick at_
    let v : Session := sess 5
    let p : Packet := pkt (le 2 0x0C02 ++ le 2 0 ++ le 2 0 ++ le 2 0xA8 ++ [1] ++ zeros 0xA7)
    let r : Req := request 0x0100 p v u
    let z : State := takenState p v u
    let l : List Byte := [1] ++ zeros 0xA7
    Accepted 0x0100 p pbRole writeOk v u ∧ r = request 0x0100 p v u ∧ z = takenState p v u ∧ l = r.params.drop 8 ∧ pbBlock
      r = 0x0C02 ∧ z.jrn.failed = false ∧ allZero l = false :=
  ⟨accepted_of (by decide +kernel), rfl, rfl, by decide, by decide, by decide, by decide⟩

theorem wit_ParameterWrites_12 :
    let at_ : Nat := 0
    let s : State := { crown with time := { crown.time with state := 1 }, cz.authValid := true }
    let u : State := s.tick at_
    u.cz.authValid = true ∧ u.time.state ≠ 0 ∧ (fld 8 8 u.cz.authBytes * secU : Nat) ≤ devNow u :=
  ⟨by decide, by decide, by decide⟩

theorem wit_ParameterWrites_13 :
    let at_ : Nat := 0
    let s : State := { crown with cz.authValid := true, cz.authUnset := true }
    let u : State := s.tick at_
    authPast u.cz.authBytes u = false ∧ ((u.time.state ≠ 0 ∨ u.now < u.cz.authAt + 86400 * secU)) :=
  ⟨by decide, by decide⟩

theorem wit_ParameterReadsAndStages_1 :
    let at_ : Nat := 0
    let s : State := crown
    let u : State := s.tick at_
    let v : Session := sess 5
    let p : Packet := pkt (le 2 0x0502 ++ le 2 0 ++ le 2 0 ++ le 2 4 ++ zeros 4)
    let r : Req := request 0x0101 p v u
    let z : State := takenState p v u
    Accepted 0x0101 p readRole readOk v u ∧ r = request 0x0101 p v u ∧ z = takenState p v u ∧ r.f 8 1 = 0 :=
  ⟨accepted_of (by decide +kernel), rfl, rfl, by decide⟩

theorem wit_ParameterReadsAndStages_2 :
    let at_ : Nat := 0
    let s : State := crown
    let u : State := s.tick at_
    let v : Session := sess 5
    let p : Packet := pkt (le 2 0x0502 ++ le 2 0 ++ le 2 0 ++ le 2 4 ++ [1, 0, 0, 0])
    let r : Req := request 0x0101 p v u
    let z : State := takenState p v u
    Accepted 0x0101 p readRole readOk v u ∧ r = request 0x0101 p v u ∧ z = takenState p v u ∧ r.f 8 1 = 1 :=
  ⟨accepted_of (by decide +kernel), rfl, rfl, by decide⟩

theorem wit_ParameterReadsAndStages_3 :
    let at_ : Nat := 0
    let s : State := crown
    let u : State := s.tick at_
    let v : Session := sess 5
    let p : Packet := pkt (le 2 0x0502 ++ le 2 0 ++ le 2 0 ++ le 2 4 ++ zeros 4)
    let r : Req := request 0x0102 p v u
    let z : State := takenState p v u
    let x : Staged :=
      { block := pbBlock r, inst := pbInst r, words := (setOffs (pbBlock r) (pbInst r)).map fun k => (k, overRange r (stageBase z r) k) }
    Accepted 0x0102 p pbRole stageOk v u ∧ r = request 0x0102 p v u ∧ z = takenState p v u ∧ x =
      { block := pbBlock r, inst := pbInst r, words := (setOffs (pbBlock r) (pbInst r)).map fun k => (k, overRange r (stageBase z r) k) }
      ∧ pbLen r ≠ 0 ∧ ((stagedOf z r).any fun y => y.block == x.block && y.inst == x.inst) = false ∧ stagedBytes z +
      blockSize (pbBlock r) ≤ 1048576 :=
  ⟨accepted_of (by decide +kernel), rfl, rfl, rfl, by decide, by decide, by decide⟩

theorem wit_ParameterReadsAndStages_4 :
    let at_ : Nat := 0
    let s : State := crown
    let u : State := s.tick at_
    let v : Session := sess 5
    let p : Packet := pkt (le 2 0x0502 ++ le 2 0 ++ le 2 0 ++ le 2 0)
    let r : Req := request 0x0102 p v u
    let z : State := takenState p v u
    Accepted 0x0102 p pbRole stageOk v u ∧ r = request 0x0102 p v u ∧ z = takenState p v u ∧ pbLen r = 0 :=
  ⟨accepted_of (by decide +kernel), rfl, rfl, by decide⟩

theorem wit_Commits_1 :
    let at_ : Nat := 0
    let s : State := crown
    let u : State := s.tick at_
    let v : Session := sess 5
    let p : Packet := pkt (zeros 16)
    let r : Req := request 0x0103 p v u
    let z : State := takenState p v u
    let m : Int := sincCeil (devNow z + (msU : Int))
    let c : PendCommit := { req := r, edge := 25 * m.toNat, items := stagedOf z r, acks := [] }
    Accepted 0x0103 p commitRole commitParams v u ∧ r = request 0x0103 p v u ∧ z = takenState p v u ∧ commitTarget r z =
      some m ∧ c = { req := r, edge := 25 * m.toNat, items := stagedOf z r, acks := [] } ∧ ((stagedOf z r).any
      (itemOut z)) = false ∧ devNow z + (leadU : Int) ≤ sincTime m ∧ scheduled z < 256 ∧ sameEdge c z = false ∧
      safetyRules (afterCommits ((byEdge z).filter fun x => decide (x.edge ≤ c.edge)) z) (applyWords c.items
      (afterCommits ((byEdge z).filter fun x => decide (x.edge ≤ c.edge)) z)) = true ∧ chainRules c.edge z []
      (insertCommit c (byEdge z)) = true ∧ laterSafe (applyWords c.items (afterCommits ((byEdge z).filter fun x =>
      decide (x.edge ≤ c.edge)) z)) (afterCommits ((byEdge z).filter fun x => decide (x.edge ≤ c.edge)) z) ((byEdge
      z).filter fun x => decide (c.edge < x.edge)) = true ∧ commitFull (byEdge z) c z = false :=
  ⟨accepted_of (by decide +kernel), rfl, rfl, by decide, rfl, by decide, by decide, by decide, by decide, by decide +kernel, by decide +kernel, by decide +kernel, by decide +kernel⟩

theorem wit_Commits_2 :
    let at_ : Nat := 0
    let v : Session := sess 5
    let p : Packet := pkt ([2, 4] ++ zeros 14)
    let s : State := { streaming { (default : Stream) with state := 2 } with time.ancDev := 655360000000000 }
    let u : State := s.tick at_
    let r : Req := request 0x0103 p v u
    let z : State := takenState p v u
    let m : Int := 0
    Accepted 0x0103 p commitRole commitParams v u ∧ r = request 0x0103 p v u ∧ z = takenState p v u ∧ commitTarget r z =
      some m ∧ sincTime m < devNow z + (leadU : Int) :=
  ⟨accepted_of (by decide +kernel), rfl, rfl, by decide, by decide⟩

theorem wit_Commits_3 :
    let at_ : Nat := 0
    let p : Packet := pkt (zeros 16)
    let v : Session := { sess 5 with staged := [{ block := 0x0101, inst := 300, words := [] }] }
    let s : State :=
      { crown with cz := { (default : Cuzan) with sessions := [{ sess 5 with staged := [{ block := 0x0101, inst := 300, words := [] }] }] } }
    let u : State := s.tick at_
    let r : Req := request 0x0103 p v u
    let z : State := takenState p v u
    let m : Int := sincCeil (devNow z + (msU : Int))
    Accepted 0x0103 p commitRole commitParams v u ∧ r = request 0x0103 p v u ∧ z = takenState p v u ∧ commitTarget r z =
      some m ∧ devNow z + (leadU : Int) ≤ sincTime m ∧ stagedOf z r ≠ [] ∧ (stagedOf z r).all (itemOut z) = true :=
  ⟨accepted_of (by decide +kernel), rfl, rfl, by decide, by decide, by decide, by decide⟩

theorem wit_Commits_4 :
    let at_ : Nat := 0
    let v : Session := sess 5
    let p : Packet := pkt (zeros 16)
    let s : State :=
      { crown with cz := { (default : Cuzan) with sessions := [sess 5], commits := List.replicate 256 default } }
    let u : State := s.tick at_
    let r : Req := request 0x0103 p v u
    let z : State := takenState p v u
    let m : Int := sincCeil (devNow z + (msU : Int))
    Accepted 0x0103 p commitRole commitParams v u ∧ r = request 0x0103 p v u ∧ z = takenState p v u ∧ commitTarget r z =
      some m ∧ devNow z + (leadU : Int) ≤ sincTime m ∧ ((stagedOf z r).any (itemOut z)) = false ∧ 256 ≤ scheduled z :=
  ⟨accepted_of (by decide +kernel), rfl, rfl, by decide, by decide, by decide, by decide⟩

theorem wit_Commits_5 :
    let at_ : Nat := 0
    let edge : Nat := 2 ^ 40
    let s : State := { crown with cz.commits := [default] }
    let u : State := s.tick at_
    devNow u < ((edge * strobeU : Nat) : Int) :=
  by decide

theorem wit_Commits_6 :
    let at_ : Nat := 0
    let edge : Nat := 25
    let c : PendCommit := default
    let s : State :=
      { crown with time.ancDev := 700000000000000, cz.commits := [default], quires := [(0, { (default : Quire) with svc := 2 }), (1, { (default : Quire) with svc := 2 })] }
    let u : State := s.tick at_
    ((byEdge u).filter fun x => decide (x.edge ≤ edge)) = [c] ∧ ((edge * strobeU : Nat) : Int) ≤ devNow u ∧ lateQuires u
      c.acks = [] :=
  ⟨by decide, by decide, by decide⟩

theorem wit_Commits_7 :
    let c : PendCommit := default
    let s : State := crown
    let o : State := dueAtEdge (edgeSinc c.edge) (forAll (c.items.filter (itemOut s)) holdItem
      { s with cz.commits := s.cz.commits.filter fun x => x != c })
    let t : State := commitNow c s
    o = dueAtEdge (edgeSinc c.edge) (forAll (c.items.filter (itemOut s)) holdItem
      { s with cz.commits := s.cz.commits.filter fun x => x != c }) ∧ t = commitNow c s ∧ (c.items.all fun x => decide
      (x.block ≠ 0x0301)) = true :=
  ⟨rfl, rfl, by decide⟩

theorem wit_Commits_8 :
    let at_ : Nat := 0
    let edge : Nat := 25
    let c : PendCommit := default
    let s : State := { crown with time.ancDev := 700000000000000, cz.commits := [default] }
    let u : State := s.tick at_
    ((byEdge u).filter fun x => decide (x.edge ≤ edge)) = [c] ∧ ((edge * strobeU : Nat) : Int) ≤ devNow u ∧ lateQuires u
      c.acks ≠ [] :=
  ⟨by decide, by decide, by decide⟩

theorem wit_Sessions_1 :
    let at_ : Nat := 0
    let s : State := crown
    let u : State := s.tick at_
    let p : Packet := { pkt ([2, 0, 0, 0] ++ zeros 24) with session := 0 }
    let v : Nat × Nat := (2, 3)
    let a : OpenAsk := { credential := 0, nonce := zeros 16, trailer := false, keepalive := 0, maxReply := 8192 }
    let g : Nat × List Byte := (4, zeros 32)
    takesPackets p u ∧ p.session = 0 ∧ lengthOk p = true ∧ bit 3 p.flags = false ∧ negotiate p = some v ∧ openAsk p = some
      a ∧ openGrant p.port a.credential u = some g ∧ portFull p.port u = false ∧ u.jrn.failed = false :=
  ⟨by decide, by decide, by decide, by decide, by decide, by decide, by decide, by decide, by decide⟩

theorem wit_Sessions_2 :
    let s : State := crown
    let p : Packet := { pkt ([2, 0, 0, 0] ++ zeros 24) with session := 0 }
    let v : Nat × Nat := (2, 3)
    let a : OpenAsk := { credential := 0, nonce := zeros 16, trailer := false, keepalive := 0, maxReply := 8192 }
    let g : Nat × List Byte := (4, zeros 32)
    let t : State := openSession p v a g s
    t = openSession p v a g s :=
  rfl

theorem wit_Sessions_3 :
    let at_ : Nat := 0
    let s : State := crown
    let u : State := s.tick at_
    let p : Packet := { pkt ([2, 0, 0, 0, 1, 0, 0, 0] ++ zeros 20) with session := 0 }
    let v : Nat × Nat := (2, 3)
    let a : OpenAsk := { credential := 1, nonce := zeros 16, trailer := false, keepalive := 0, maxReply := 8192 }
    takesPackets p u ∧ p.session = 0 ∧ lengthOk p = true ∧ bit 3 p.flags = false ∧ negotiate p = some v ∧ openAsk p = some
      a ∧ openGrant p.port a.credential u = none :=
  ⟨by decide, by decide, by decide, by decide, by decide, by decide, by decide⟩

theorem wit_Sessions_4 :
    let at_ : Nat := 0
    let s : State := crown
    let u : State := s.tick at_
    let p : Packet := { pkt ([2, 4, 0, 0] ++ zeros 24) with session := 0, major := 3, minor := 0 }
    takesPackets p u ∧ p.session = 0 ∧ lengthOk p = true ∧ bit 3 p.flags = false ∧ negotiate p = none :=
  ⟨by decide, by decide, by decide, by decide, by decide⟩

theorem wit_Sessions_5 :
    let at_ : Nat := 0
    let s : State :=
      { crown with cz := { (default : Cuzan) with sessions := List.replicate 8 (sess 5), keys := { (default : Keys) with anonEn := true } } }
    let u : State := s.tick at_
    let p : Packet := { pkt ([2, 0, 0, 0] ++ zeros 24) with session := 0 }
    let v : Nat × Nat := (2, 3)
    let a : OpenAsk := { credential := 0, nonce := zeros 16, trailer := false, keepalive := 0, maxReply := 8192 }
    let g : Nat × List Byte := (4, zeros 32)
    takesPackets p u ∧ p.session = 0 ∧ lengthOk p = true ∧ bit 3 p.flags = false ∧ negotiate p = some v ∧ openAsk p = some
      a ∧ openGrant p.port a.credential u = some g ∧ portFull p.port u = true :=
  ⟨by decide, by decide, by decide, by decide, by decide, by decide, by decide, by decide⟩

theorem wit_Sessions_6 :
    let at_ : Nat := 0
    let s : State := crown
    let u : State := s.tick at_
    let v : Session := sess 5
    let p : Packet := pkt []
    let r : Req := request 0x0001 p v u
    let z : State := takenState p v u
    Accepted 0x0001 p tableRole (exactly 0) v u ∧ r = request 0x0001 p v u ∧ z = takenState p v u ∧ z.cz.fw = none :=
  ⟨accepted_of (by decide +kernel), rfl, rfl, by decide⟩

theorem wit_Sessions_7 :
    let at_ : Nat := 0
    let s : State := crown
    let u : State := s.tick at_
    let v : Session := sess 5
    let p : Packet := pkt []
    let r : Req := request 0x0002 p v u
    let z : State := takenState p v u
    Accepted 0x0002 p tableRole (exactly 0) v u ∧ r = request 0x0002 p v u ∧ z = takenState p v u :=
  ⟨accepted_of (by decide +kernel), rfl, rfl⟩

theorem wit_Sessions_8 :
    let at_ : Nat := 0
    let v : Session := { sess 5 with cache := [(7, [1])] }
    let s : State := { crown with cz.sessions := [{ sess 5 with cache := [(7, [1])] }] }
    let u : State := s.tick at_
    let p : Packet := pkt [7, 0, 0, 0]
    let r : Req := request 0x0004 p v u
    let z : State := takenState p v u
    let x : Session := (session? z r.session).getD default
    Accepted 0x0004 p tableRole tagOk v u ∧ r = request 0x0004 p v u ∧ z = takenState p v u ∧ session? z r.session = some
      x ∧ (x.cache.filter (·.1 == r.f 0 2)).isEmpty = false :=
  ⟨accepted_of (by decide +kernel), rfl, rfl, by decide +kernel, by decide⟩

theorem wit_Sessions_9 :
    let at_ : Nat := 0
    let s : State := crown
    let u : State := s.tick at_
    let v : Session := sess 5
    let p : Packet := pkt [7, 0, 0, 0]
    let r : Req := request 0x0004 p v u
    let z : State := takenState p v u
    let x : Session := (session? z r.session).getD default
    Accepted 0x0004 p tableRole tagOk v u ∧ r = request 0x0004 p v u ∧ z = takenState p v u ∧ session? z r.session = some
      x ∧ (x.cache.filter (·.1 == r.f 0 2)).isEmpty = true :=
  ⟨accepted_of (by decide +kernel), rfl, rfl, by decide +kernel, by decide⟩

theorem wit_Sessions_10 :
    let at_ : Nat := 0
    let v : Session := { sess 5 with port := 1, keepalive := 10 }
    let s : State := { crown with cz.sessions := [{ sess 5 with port := 1, keepalive := 10 }] }
    let u : State := s.tick at_
    u.boot.restart = none ∧ session? u v.id = some v ∧ v.port ≠ 0 ∧ v.lastPacket + v.keepalive * secU ≤ u.now :=
  ⟨by decide, by decide, by decide, by decide⟩

theorem wit_Sessions_11 :
    let at_ : Nat := 0
    let v : Session := sess 5
    let s : State := crown
    let u : State := s.tick at_
    session? u v.id = some v ∧ ((v.port = 0 ∨ u.now < v.lastPacket + v.keepalive * secU)) :=
  ⟨by decide, by decide⟩

theorem wit_Sessions_12 :
    let at_ : Nat := 0
    let v : Session := { sess 5 with pending := some (5 * secU) }
    let s : State := { crown with cz.sessions := [{ sess 5 with pending := some (5 * secU) }] }
    let u : State := s.tick at_
    let since : Nat := 5 * secU
    u.boot.restart = none ∧ session? u v.id = some v ∧ v.pending = some since ∧ since + 5 * secU ≤ u.now :=
  ⟨by decide, by decide, by decide, by decide⟩

theorem wit_Sessions_13 :
    let id : Nat := 1
    let s : State := crown
    let t : State := closeSession 1 crown
    t = closeSession id s :=
  rfl

theorem wit_Sessions_14 :
    let at_ : Nat := 0
    let s : State := crown
    let u : State := s.tick at_
    let op : Nat := 0xFFFF
    let p : Packet := pkt []
    let v : Session := sess 5
    op < 65536 ∧ (opRow op).isNone = true ∧ takesPackets p u ∧ lengthOk p = true ∧ packetSession p u = some v ∧ v.trailer
      = false ∧ bit 3 p.flags = false ∧ judgeTag v p.tag ≤ 1 ∧ p.major = v.major ∧ p.minor = v.minor :=
  ⟨by decide, by decide, by decide, by decide, by decide, by decide, by decide, by decide, by decide, by decide⟩

theorem wit_ScheduledActions_1 :
    let at_ : Nat := 0
    let x : Sched := default
    let s : State := { crown with cz.sched := [default] }
    let u : State := s.tick at_
    u.boot.restart = none ∧ u.cz.sched = [x] ∧ x.time ≤ devNow u :=
  ⟨by decide, by decide, by decide⟩

theorem wit_ScheduledActions_2 :
    let at_ : Nat := 0
    let x : Sched := { (default : Sched) with time := 2 ^ 80 }
    let s : State := { crown with cz.sched := [{ (default : Sched) with time := 2 ^ 80 }] }
    let u : State := s.tick at_
    u.boot.restart = none ∧ earliestSched u.cz.sched = some x ∧ devNow u < x.time :=
  ⟨by decide, by decide, by decide⟩

theorem wit_ScheduledActions_3 :
    let at_ : Nat := 0
    let v : Session := sess 5
    let s : State :=
      { crown with cz.sched := [{ (default : Sched) with req := { (default : Req) with session := 1, tag := 7 } }] }
    let u : State := s.tick at_
    let p : Packet := pkt [7, 0, 0, 0]
    let r : Req := request 0x0003 p v u
    let z : State := takenState p v u
    let x : Sched := { (default : Sched) with req := { (default : Req) with session := 1, tag := 7 } }
    Accepted 0x0003 p tableRole tagOk v u ∧ r = request 0x0003 p v u ∧ z = takenState p v u ∧ (z.cz.sched.find? fun y =>
      ownTag r (r.f 0 2) y.req) = some x :=
  ⟨accepted_of (by decide +kernel), rfl, rfl, by decide⟩

theorem wit_ScheduledActions_4 :
    let at_ : Nat := 0
    let v : Session := sess 5
    let s : State :=
      { crown with cz.commits := [{ (default : PendCommit) with req := { (default : Req) with session := 1, tag := 7 } }] }
    let u : State := s.tick at_
    let p : Packet := pkt [7, 0, 0, 0]
    let r : Req := request 0x0003 p v u
    let z : State := takenState p v u
    let c : PendCommit := { (default : PendCommit) with req := { (default : Req) with session := 1, tag := 7 } }
    Accepted 0x0003 p tableRole tagOk v u ∧ r = request 0x0003 p v u ∧ z = takenState p v u ∧ (z.cz.sched.any fun y =>
      ownTag r (r.f 0 2) y.req) = false ∧ (z.cz.commits.find? fun y => ownTag r (r.f 0 2) y.req) = some c :=
  ⟨accepted_of (by decide +kernel), rfl, rfl, by decide, by decide⟩

theorem wit_ScheduledActions_5 :
    let at_ : Nat := 0
    let s : State := crown
    let u : State := s.tick at_
    let v : Session := sess 5
    let p : Packet := pkt [7, 0, 0, 0]
    let r : Req := request 0x0003 p v u
    let z : State := takenState p v u
    Accepted 0x0003 p tableRole tagOk v u ∧ r = request 0x0003 p v u ∧ z = takenState p v u ∧ (z.cz.sched.any fun y =>
      ownTag r (r.f 0 2) y.req) = false ∧ (z.cz.commits.any fun y => ownTag r (r.f 0 2) y.req) = false :=
  ⟨accepted_of (by decide +kernel), rfl, rfl, by decide, by decide⟩

theorem wit_AcquisitionAndCredentials_1 :
    let at_ : Nat := 0
    let s : State := crown
    let u : State := s.tick at_
    let v : Session := sess 5
    let p : Packet := pkt []
    let r : Req := request 0x0200 p v u
    let z : State := takenState p v u
    Accepted 0x0200 p tableRole (exactly 0) v u ∧ r = request 0x0200 p v u ∧ z = takenState p v u :=
  ⟨accepted_of (by decide +kernel), rfl, rfl⟩

theorem wit_AcquisitionAndCredentials_2 :
    let at_ : Nat := 0
    let v : Session := sess 5
    let s : State := streaming { (default : Stream) with state := 2, last := some (3, [default]) }
    let u : State := s.tick at_
    let p : Packet := pkt [4, 0, 1, 0, 0, 0]
    let r : Req := request 0x0201 p v u
    let z : State := takenState p v u
    let n : Nat := 4
    let i : Nat := 3
    let l : List Sample := [default]
    Accepted 0x0201 p tableRole acqReadOk v u ∧ r = request 0x0201 p v u ∧ z = takenState p v u ∧ n = r.f 0 1 ∧ running z
      n = true ∧ isCapture z n = false ∧ coverOf z n = 0 ∧ (stream z n).last = some (i, l) :=
  ⟨accepted_of (by decide +kernel), rfl, rfl, by decide, by decide, by decide, by decide, by decide⟩

theorem wit_AcquisitionAndCredentials_3 :
    let at_ : Nat := 0
    let v : Session := sess 5
    let s : State := streaming { (default : Stream) with state := 2 }
    let u : State := s.tick at_
    let p : Packet := pkt [4, 0, 1, 0, 0, 0]
    let r : Req := request 0x0201 p v u
    let z : State := takenState p v u
    Accepted 0x0201 p tableRole acqReadOk v u ∧ r = request 0x0201 p v u ∧ z = takenState p v u ∧ (stream z (r.f 0
      1)).last = none :=
  ⟨accepted_of (by decide +kernel), rfl, rfl, by decide⟩

theorem wit_AcquisitionAndCredentials_4 :
    let at_ : Nat := 0
    let s : State := { crown with cz.sessions := [keyed] }
    let u : State := s.tick at_
    let v : Session := keyed
    let p : Packet := credPkt
    let r : Req := request 0x0900 p v u
    let z : State := takenState p v u
    let x : Session := (session? z r.session).getD default
    let k : List Byte := zeros 32
    Accepted 0x0900 p tableRole credOk v u ∧ r = request 0x0900 p v u ∧ z = takenState p v u ∧ session? z r.session = some
      x ∧ x.trailer = true ∧ ((creds z).any (·.id == r.f 0 4)) = false ∧ (creds z).length < 64 ∧ z.cz.keys.state ≠ 2 ∧
      unwrapFrom r x 8 (r.f 0 4) = some k :=
  ⟨accepted_of (by decide +kernel), rfl, rfl, by decide +kernel, by decide, by decide, by decide, by decide, by decide +kernel⟩

theorem wit_AcquisitionAndCredentials_5 :
    let at_ : Nat := 0
    let s : State :=
      { crown with cz := { (default : Cuzan) with sessions := [keyed], keys := { (default : Keys) with state := 2 } } }
    let u : State := s.tick at_
    let v : Session := keyed
    let p : Packet := credPkt
    let r : Req := request 0x0900 p v u
    let z : State := takenState p v u
    let x : Session := (session? z r.session).getD default
    let k : List Byte := zeros 32
    Accepted 0x0900 p tableRole credOk v u ∧ r = request 0x0900 p v u ∧ z = takenState p v u ∧ session? z r.session = some
      x ∧ x.trailer = true ∧ z.cz.keys.state = 2 ∧ unwrapFrom r x 8 (r.f 0 4) = some k :=
  ⟨accepted_of (by decide +kernel), rfl, rfl, by decide +kernel, by decide, by decide, by decide +kernel⟩

theorem wit_AcquisitionAndCredentials_6 :
    let at_ : Nat := 0
    let s : State := crown
    let u : State := s.tick at_
    let v : Session := sess 5
    let p : Packet := pkt (le 4 9 ++ [1, 7, 0, 0] ++ zeros 48)
    let r : Req := request 0x0900 p v u
    let z : State := takenState p v u
    let x : Session := (session? z r.session).getD default
    Accepted 0x0900 p tableRole credOk v u ∧ r = request 0x0900 p v u ∧ z = takenState p v u ∧ session? z r.session = some
      x ∧ ((x.trailer = false ∨ ((creds z).any (·.id == r.f 0 4)) = true)) :=
  ⟨accepted_of (by decide +kernel), rfl, rfl, by decide +kernel, by decide⟩

theorem wit_AcquisitionAndCredentials_7 :
    let at_ : Nat := 0
    let s : State :=
      { crown with cz := { (default : Cuzan) with sessions := [keyed], keys := { (default : Keys) with creds := List.replicate 64 default } } }
    let u : State := s.tick at_
    let v : Session := keyed
    let p : Packet := credPkt
    let r : Req := request 0x0900 p v u
    let z : State := takenState p v u
    let x : Session := (session? z r.session).getD default
    Accepted 0x0900 p tableRole credOk v u ∧ r = request 0x0900 p v u ∧ z = takenState p v u ∧ session? z r.session = some
      x ∧ x.trailer = true ∧ ((creds z).any (·.id == r.f 0 4)) = false ∧ 64 ≤ (creds z).length :=
  ⟨accepted_of (by decide +kernel), rfl, rfl, by decide +kernel, by decide, by decide, by decide⟩

theorem wit_AcquisitionAndCredentials_8 :
    let at_ : Nat := 0
    let v : Session := sess 5
    let s : State :=
      { crown with cz.keys.state := 1, cz.keys.creds := [{ id := 9, role := 1, ports := 7, secret := [] }] }
    let u : State := s.tick at_
    let p : Packet := pkt [9, 0, 0, 0]
    let r : Req := request 0x0901 p v u
    let z : State := takenState p v u
    let c : Credential := { id := 9, role := 1, ports := 7, secret := [] }
    Accepted 0x0901 p tableRole (exactly 4) v u ∧ r = request 0x0901 p v u ∧ z = takenState p v u ∧ ((creds z).find? (·.id
      == r.f 0 4)) = some c ∧ ((c.role ≠ 4 ∨ ((creds z).filter (·.role == 4)).length ≠ 1)) :=
  ⟨accepted_of (by decide +kernel), rfl, rfl, by decide, by decide⟩

theorem wit_AcquisitionAndCredentials_9 :
    let at_ : Nat := 0
    let v : Session := sess 5
    let s : State :=
      { crown with cz.keys.state := 1, cz.keys.creds := [{ id := 9, role := 4, ports := 7, secret := [] }] }
    let u : State := s.tick at_
    let p : Packet := pkt [9, 0, 0, 0]
    let r : Req := request 0x0901 p v u
    let z : State := takenState p v u
    let c : Credential := { id := 9, role := 4, ports := 7, secret := [] }
    Accepted 0x0901 p tableRole (exactly 4) v u ∧ r = request 0x0901 p v u ∧ z = takenState p v u ∧ ((creds z).find? (·.id
      == r.f 0 4)) = some c ∧ c.role = 4 ∧ ((creds z).filter (·.role == 4)).length = 1 :=
  ⟨accepted_of (by decide +kernel), rfl, rfl, by decide, by decide, by decide⟩

theorem wit_AcquisitionAndCredentials_10 :
    let at_ : Nat := 0
    let s : State := crown
    let u : State := s.tick at_
    let v : Session := sess 5
    let p : Packet := pkt [9, 0, 0, 0]
    let r : Req := request 0x0901 p v u
    let z : State := takenState p v u
    Accepted 0x0901 p tableRole (exactly 4) v u ∧ r = request 0x0901 p v u ∧ z = takenState p v u ∧ ((creds z).find? (·.id
      == r.f 0 4)) = none :=
  ⟨accepted_of (by decide +kernel), rfl, rfl, by decide⟩

theorem wit_AcquisitionAndCredentials_11 :
    let at_ : Nat := 0
    let s : State := crown
    let u : State := s.tick at_
    let v : Session := sess 5
    let p : Packet := pkt []
    let r : Req := request 0x0902 p v u
    let z : State := takenState p v u
    Accepted 0x0902 p tableRole (exactly 0) v u ∧ r = request 0x0902 p v u ∧ z = takenState p v u :=
  ⟨accepted_of (by decide +kernel), rfl, rfl⟩

theorem wit_AcquisitionAndCredentials_12 :
    let at_ : Nat := 0
    let s : State := { crown with cz.sessions := [keyed] }
    let u : State := s.tick at_
    let v : Session := keyed
    let p : Packet := groupPkt
    let r : Req := request 0x0906 p v u
    let z : State := takenState p v u
    let x : Session := (session? z r.session).getD default
    let k : List Byte := zeros 32
    Accepted 0x0906 p tableRole groupKeyOk v u ∧ r = request 0x0906 p v u ∧ z = takenState p v u ∧ session? z r.session =
      some x ∧ x.trailer = true ∧ unwrapFrom r x 4 (r.f 0 2) = some k ∧ (((z.cz.keys.groupKeys.find (r.f 0 2)).isSome
      = true ∨ z.cz.keys.groupKeys.length < 16)) :=
  ⟨accepted_of (by decide +kernel), rfl, rfl, by decide +kernel, by decide, by decide +kernel, by decide⟩

theorem wit_AcquisitionAndCredentials_13 :
    let at_ : Nat := 0
    let s : State :=
      { crown with cz := { (default : Cuzan) with sessions := [keyed], keys := { (default : Keys) with groupKeys := List.replicate 16 (1, [1]) } } }
    let u : State := s.tick at_
    let v : Session := keyed
    let p : Packet := groupPkt
    let r : Req := request 0x0906 p v u
    let z : State := takenState p v u
    let x : Session := (session? z r.session).getD default
    let k : List Byte := zeros 32
    Accepted 0x0906 p tableRole groupKeyOk v u ∧ r = request 0x0906 p v u ∧ z = takenState p v u ∧ session? z r.session =
      some x ∧ x.trailer = true ∧ unwrapFrom r x 4 (r.f 0 2) = some k ∧ z.cz.keys.groupKeys.find (r.f 0 2) = none ∧ 16
      ≤ z.cz.keys.groupKeys.length :=
  ⟨accepted_of (by decide +kernel), rfl, rfl, by decide +kernel, by decide, by decide +kernel, by decide, by decide⟩

theorem wit_JournalAndLog_1 :
    let at_ : Nat := 0
    let v : Session := sess 5
    let s : State := { crown with flash.journal := { crown.flash.journal with sectors := [[default]] } }
    let u : State := s.tick at_
    let p : Packet := pkt (zeros 8 ++ [1, 0] ++ zeros 6)
    let r : Req := request 0x0903 p v u
    let z : State := takenState p v u
    Accepted 0x0903 p tableRole jReadOk v u ∧ r = request 0x0903 p v u ∧ z = takenState p v u :=
  ⟨accepted_of (by decide +kernel), rfl, rfl⟩

theorem wit_JournalAndLog_2 :
    let at_ : Nat := 0
    let s : State := crown
    let u : State := s.tick at_
    let v : Session := sess 5
    let p : Packet := pkt ([1, 0, 0, 0] ++ le 8 (2 ^ 40))
    let r : Req := request 0x0904 p v u
    let z : State := takenState p v u
    Accepted 0x0904 p tableRole jMirrorOk v u ∧ r = request 0x0904 p v u ∧ z = takenState p v u ∧ r.f 0 1 = 1 :=
  ⟨accepted_of (by decide +kernel), rfl, rfl, by decide⟩

theorem wit_JournalAndLog_3 :
    let at_ : Nat := 0
    let s : State := crown
    let u : State := s.tick at_
    let v : Session := sess 5
    let p : Packet := pkt (zeros 12)
    let r : Req := request 0x0904 p v u
    let z : State := takenState p v u
    Accepted 0x0904 p tableRole jMirrorOk v u ∧ r = request 0x0904 p v u ∧ z = takenState p v u ∧ r.f 0 1 = 0 :=
  ⟨accepted_of (by decide +kernel), rfl, rfl, by decide⟩

theorem wit_JournalAndLog_4 :
    let at_ : Nat := 0
    let s : State := crown
    let u : State := s.tick at_
    let v : Session := sess 5
    let p : Packet := pkt []
    let r : Req := request 0x0905 p v u
    let z : State := takenState p v u
    Accepted 0x0905 p tableRole (exactly 0) v u ∧ r = request 0x0905 p v u ∧ z = takenState p v u ∧ z.cz.verify = none :=
  ⟨accepted_of (by decide +kernel), rfl, rfl, by decide⟩

theorem wit_JournalAndLog_5 :
    let at_ : Nat := 0
    let v : Session := sess 5
    let s : State := { crown with cz.verify := some default }
    let u : State := s.tick at_
    let p : Packet := pkt []
    let r : Req := request 0x0905 p v u
    let z : State := takenState p v u
    Accepted 0x0905 p tableRole (exactly 0) v u ∧ r = request 0x0905 p v u ∧ z = takenState p v u ∧ z.cz.verify ≠ none :=
  ⟨accepted_of (by decide +kernel), rfl, rfl, by decide⟩

theorem wit_JournalAndLog_6 :
    let at_ : Nat := 0
    let r : Req := default
    let s : State := { crown with cz.verify := some default }
    let u : State := s.tick at_
    u.cz.verify = some r :=
  by decide

theorem wit_JournalAndLog_7 :
    let at_ : Nat := 0
    let v : Session := sess 5
    let s : State := { crown with faults.log := [default] }
    let u : State := s.tick at_
    let p : Packet := pkt (zeros 4 ++ [1, 0, 0, 0])
    let r : Req := request 0x0A00 p v u
    let z : State := takenState p v u
    Accepted 0x0A00 p tableRole logReadOk v u ∧ r = request 0x0A00 p v u ∧ z = takenState p v u :=
  ⟨accepted_of (by decide +kernel), rfl, rfl⟩

theorem wit_JournalAndLog_8 :
    let at_ : Nat := 0
    let s : State := crown
    let u : State := s.tick at_
    let v : Session := sess 5
    let p : Packet := pkt []
    let r : Req := request 0x0A01 p v u
    let z : State := takenState p v u
    Accepted 0x0A01 p tableRole (exactly 0) v u ∧ r = request 0x0A01 p v u ∧ z = takenState p v u :=
  ⟨accepted_of (by decide +kernel), rfl, rfl⟩

theorem wit_JournalAndLog_9 :
    let at_ : Nat := 0
    let v : Session := sess 5
    let s : State := { crown with faults.active := [{ (default : FaultEntry) with code := 0x0301, listed := true }] }
    let u : State := s.tick at_
    let p : Packet := pkt [1, 3, 0, 0]
    let r : Req := request 0x0A02 p v u
    let z : State := takenState p v u
    let f : FaultEntry := { (default : FaultEntry) with code := 0x0301, listed := true }
    Accepted 0x0A02 p tableRole (fun r s => exactly 4 r s && zeroAt 2 2 r) v u ∧ r = request 0x0A02 p v u ∧ z = takenState
      p v u ∧ ((listed z).find? (·.code == r.f 0 2)) = some f ∧ f.causes = [] :=
  ⟨accepted_of (by decide +kernel), rfl, rfl, by decide, by decide⟩

theorem wit_JournalAndLog_10 :
    let at_ : Nat := 0
    let v : Session := sess 5
    let s : State :=
      { crown with faults.active := [{ (default : FaultEntry) with code := 0x0301, listed := true, causes := [3] }] }
    let u : State := s.tick at_
    let p : Packet := pkt [1, 3, 0, 0]
    let r : Req := request 0x0A02 p v u
    let z : State := takenState p v u
    let f : FaultEntry := { (default : FaultEntry) with code := 0x0301, listed := true, causes := [3] }
    Accepted 0x0A02 p tableRole (fun r s => exactly 4 r s && zeroAt 2 2 r) v u ∧ r = request 0x0A02 p v u ∧ z = takenState
      p v u ∧ ((listed z).find? (·.code == r.f 0 2)) = some f ∧ f.causes ≠ [] :=
  ⟨accepted_of (by decide +kernel), rfl, rfl, by decide, by decide⟩

theorem wit_JournalAndLog_11 :
    let at_ : Nat := 0
    let s : State := crown
    let u : State := s.tick at_
    let v : Session := sess 5
    let p : Packet := pkt [1, 3, 0, 0]
    let r : Req := request 0x0A02 p v u
    let z : State := takenState p v u
    Accepted 0x0A02 p tableRole (fun r s => exactly 4 r s && zeroAt 2 2 r) v u ∧ r = request 0x0A02 p v u ∧ z = takenState
      p v u ∧ ((listed z).find? (·.code == r.f 0 2)) = none :=
  ⟨accepted_of (by decide +kernel), rfl, rfl, by decide⟩

theorem wit_JournalAndLog_12 :
    let at_ : Nat := 0
    let s : State := crown
    let u : State := s.tick at_
    let v : Session := sess 5
    let p : Packet := pkt []
    let r : Req := request 0x0A03 p v u
    let z : State := takenState p v u
    Accepted 0x0A03 p tableRole (exactly 0) v u ∧ r = request 0x0A03 p v u ∧ z = takenState p v u ∧ (z.flash.bad.contains
      0) = false :=
  ⟨accepted_of (by decide +kernel), rfl, rfl, by decide⟩

theorem wit_FirmwareTransfers_1 :
    let at_ : Nat := 0
    let s : State := crown
    let u : State := s.tick at_
    let v : Session := sess 5
    let p : Packet := pkt ([2, 0, 0, 0] ++ le 4 4096)
    let r : Req := request 0x0B00 p v u
    let z : State := takenState p v u
    let n : Nat := 2
    Accepted 0x0B00 p tableRole fwBeginOk v u ∧ r = request 0x0B00 p v u ∧ z = takenState p v u ∧ n = r.f 0 1 ∧ z.cz.fw =
      none ∧ n ≠ z.boot.image ∧ ((n ≠ 3 ∨ ucodeLoading z = false)) :=
  ⟨accepted_of (by decide +kernel), rfl, rfl, by decide, by decide, by decide, by decide⟩

theorem wit_FirmwareTransfers_2 :
    let at_ : Nat := 0
    let v : Session := sess 5
    let s : State := { crown with cz.fw := some fw0 }
    let u : State := s.tick at_
    let p : Packet := pkt ([2, 0, 0, 0] ++ le 4 4096)
    let r : Req := request 0x0B00 p v u
    let z : State := takenState p v u
    Accepted 0x0B00 p tableRole fwBeginOk v u ∧ r = request 0x0B00 p v u ∧ z = takenState p v u ∧ z.cz.fw ≠ none :=
  ⟨accepted_of (by decide +kernel), rfl, rfl, by decide⟩

theorem wit_FirmwareTransfers_3 :
    let at_ : Nat := 0
    let s : State := crown
    let u : State := s.tick at_
    let v : Session := sess 5
    let p : Packet := pkt ([1, 0, 0, 0] ++ le 4 4096)
    let r : Req := request 0x0B00 p v u
    let z : State := takenState p v u
    Accepted 0x0B00 p tableRole fwBeginOk v u ∧ r = request 0x0B00 p v u ∧ z = takenState p v u ∧ z.cz.fw = none ∧ ((r.f 0
      1 = z.boot.image ∨ (r.f 0 1 = 3 ∧ ucodeLoading z = true))) :=
  ⟨accepted_of (by decide +kernel), rfl, rfl, by decide, by decide⟩

theorem wit_FirmwareTransfers_4 :
    let at_ : Nat := 0
    let x : FwTransfer := fw0
    let s : State := { crown with cz.fw := some fw0 }
    let u : State := s.tick at_
    u.cz.fw = some x ∧ x.erased = false ∧ x.commit = none ∧ (u.flash.bad.contains x.target) = false :=
  ⟨by decide, by decide, by decide, by decide⟩

theorem wit_FirmwareTransfers_5 :
    let at_ : Nat := 0
    let x : FwTransfer := { fw0 with commit := some default }
    let a : Req := default
    let s : State := { crown with cz.fw := some { fw0 with commit := some default } }
    let u : State := s.tick at_
    u.cz.fw = some x ∧ x.erased = false ∧ x.commit = some a ∧ (u.flash.bad.contains x.target) = false :=
  ⟨by decide, by decide, by decide, by decide⟩

theorem wit_FirmwareTransfers_6 :
    let at_ : Nat := 0
    let v : Session := sess 5
    let s : State := { crown with cz.fw := some { fw0 with erased := true } }
    let u : State := s.tick at_
    let p : Packet := pkt [0, 0, 0, 0, 1, 2, 3, 4]
    let r : Req := request 0x0B01 p v u
    let z : State := takenState p v u
    let x : FwTransfer := { fw0 with erased := true }
    let fresh : List (Nat × Nat) := [(0, 1), (1, 2), (2, 3), (3, 4)]
    Accepted 0x0B01 p tableRole fwDataOk v u ∧ r = request 0x0B01 p v u ∧ z = takenState p v u ∧ ownFw r z = some x ∧
      x.erased = true ∧ ((fwRange r).any fun k => ((x.data.find k.1).getD k.2) != k.2) = false ∧ fresh = ((fwRange
      r).filter fun k => (x.data.find k.1).isNone) ∧ fresh.length + x.buffered ≤ 262144 :=
  ⟨accepted_of (by decide +kernel), rfl, rfl, by decide, by decide, by decide, by decide, by decide⟩

theorem wit_FirmwareTransfers_7 :
    let at_ : Nat := 0
    let v : Session := sess 5
    let s : State := { crown with cz.fw := some { fw0 with erased := true, buffered := 262144, last := 10 * secU } }
    let u : State := s.tick at_
    let p : Packet := pkt [0, 0, 0, 0, 1, 2, 3, 4]
    let r : Req := request 0x0B01 p v u
    let z : State := takenState p v u
    let x : FwTransfer := { fw0 with erased := true, buffered := 262144, last := 10 * secU }
    Accepted 0x0B01 p tableRole fwDataOk v u ∧ r = request 0x0B01 p v u ∧ z = takenState p v u ∧ ownFw r z = some x ∧
      x.erased = true ∧ x.last = z.now ∧ ((fwRange r).any fun k => ((x.data.find k.1).getD k.2) != k.2) = false ∧
      262144 < x.buffered + ((fwRange r).filter fun k => (x.data.find k.1).isNone).length :=
  ⟨accepted_of (by decide +kernel), rfl, rfl, by decide, by decide, by decide, by decide, by decide⟩

theorem wit_FirmwareTransfers_8 :
    let at_ : Nat := 0
    let s : State := crown
    let u : State := s.tick at_
    let v : Session := sess 5
    let p : Packet := pkt [0, 0, 0, 0, 1, 2, 3, 4]
    let r : Req := request 0x0B01 p v u
    let z : State := takenState p v u
    Accepted 0x0B01 p tableRole fwDataOk v u ∧ r = request 0x0B01 p v u ∧ z = takenState p v u ∧ ownFw r z = none :=
  ⟨accepted_of (by decide +kernel), rfl, rfl, by decide⟩

theorem wit_FirmwareTransfers_9 :
    let at_ : Nat := 0
    let s : State := crown
    let u : State := s.tick at_
    let v : Session := sess 5
    let p : Packet := pkt []
    let r : Req := request 0x0B02 p v u
    let z : State := takenState p v u
    Accepted 0x0B02 p tableRole (exactly 0) v u ∧ r = request 0x0B02 p v u ∧ z = takenState p v u ∧ ownFw r z = none :=
  ⟨accepted_of (by decide +kernel), rfl, rfl, by decide⟩

theorem wit_FirmwareTransfers_10 :
    let at_ : Nat := 0
    let v : Session := sess 5
    let s : State := { crown with cz.fw := some fw0 }
    let u : State := s.tick at_
    let p : Packet := pkt []
    let r : Req := request 0x0B02 p v u
    let z : State := takenState p v u
    let x : FwTransfer := fw0
    Accepted 0x0B02 p tableRole (exactly 0) v u ∧ r = request 0x0B02 p v u ∧ z = takenState p v u ∧ ownFw r z = some x ∧
      x.erased = false ∧ x.commit = none :=
  ⟨accepted_of (by decide +kernel), rfl, rfl, by decide, by decide, by decide⟩

theorem wit_FirmwareTransfers_11 :
    let at_ : Nat := 0
    let v : Session := sess 5
    let s : State := { crown with cz.fw := some { fw0 with commit := some default } }
    let u : State := s.tick at_
    let p : Packet := pkt []
    let r : Req := request 0x0B02 p v u
    let z : State := takenState p v u
    let x : FwTransfer := { fw0 with commit := some default }
    let a : Req := default
    Accepted 0x0B02 p tableRole (exactly 0) v u ∧ r = request 0x0B02 p v u ∧ z = takenState p v u ∧ ownFw r z = some x ∧
      x.commit = some a :=
  ⟨accepted_of (by decide +kernel), rfl, rfl, by decide, by decide⟩

theorem wit_FirmwareTransfers_12 :
    let at_ : Nat := 0
    let v : Session := sess 5
    let s : State := { crown with cz.fw := some { fw0 with erased := true } }
    let u : State := s.tick at_
    let p : Packet := pkt []
    let r : Req := request 0x0B02 p v u
    let z : State := takenState p v u
    let x : FwTransfer := { fw0 with erased := true }
    let y : State := setPartition x.target (programBytes x.data []) (queued r [] z)
    Accepted 0x0B02 p tableRole (exactly 0) v u ∧ r = request 0x0B02 p v u ∧ z = takenState p v u ∧ ownFw r z = some x ∧
      x.erased = true ∧ x.commit = none ∧ x.data.length < x.length ∧ y = setPartition x.target (programBytes x.data
      []) (queued r [] z) :=
  ⟨accepted_of (by decide +kernel), rfl, rfl, by decide, by decide, by decide, by decide, rfl⟩

theorem wit_FirmwareTransfers_13 :
    let at_ : Nat := 0
    let v : Session := sess 5
    let s : State := { crown with cz.fw := some { fw0 with erased := true, length := 0 } }
    let u : State := s.tick at_
    let p : Packet := pkt []
    let r : Req := request 0x0B02 p v u
    let z : State := takenState p v u
    let x : FwTransfer := { fw0 with erased := true, length := 0 }
    let y : State := setPartition x.target (programBytes x.data []) (queued r [] z)
    Accepted 0x0B02 p tableRole (exactly 0) v u ∧ r = request 0x0B02 p v u ∧ z = takenState p v u ∧ ownFw r z = some x ∧
      x.erased = true ∧ x.commit = none ∧ x.length ≤ x.data.length ∧ (z.flash.bad.contains x.target) = false ∧ y =
      setPartition x.target (programBytes x.data []) (queued r [] z) :=
  ⟨accepted_of (by decide +kernel), rfl, rfl, by decide, by decide, by decide, by decide, by decide, rfl⟩

theorem wit_FirmwareTransfers_14 :
    let at_ : Nat := 0
    let x : FwTransfer := fw0
    let s : State := { crown with now := 600 * secU, cz.fw := some fw0 }
    let u : State := s.tick at_
    u.cz.fw = some x ∧ x.last + 600 * secU ≤ u.now :=
  ⟨by decide, by decide⟩

theorem wit_FirmwareTransfers_15 :
    let at_ : Nat := 0
    let x : FwTransfer := fw0
    let s : State := { crown with cz.fw := some fw0 }
    let u : State := s.tick at_
    u.cz.fw = some x ∧ u.now < x.last + 600 * secU :=
  ⟨by decide, by decide⟩

theorem wit_FirmwareTransfers_16 :
    let at_ : Nat := 0
    let v : Session := sess 5
    let s : State := { crown with safe.lockOpen := true }
    let u : State := s.tick at_
    let p : Packet := pkt (zeros 4)
    let r : Req := request 0x0B03 p v u
    let z : State := takenState p v u
    Accepted 0x0B03 p tableRole (fun r s => exactly 4 r s && zeroAt 0 4 r) v u ∧ r = request 0x0B03 p v u ∧ z = takenState
      p v u ∧ ((z.cz.fw ≠ none ∨ z.cal.sealOpen = true ∨ z.safe.lockOpen = true ∨ z.cz.commits ≠ [] ∨ z.cz.sched ≠
      [])) :=
  ⟨accepted_of (by decide +kernel), rfl, rfl, by decide⟩

theorem wit_FirmwareTransfers_17 :
    let at_ : Nat := 0
    let s : State := crown
    let u : State := s.tick at_
    let v : Session := sess 5
    let p : Packet := pkt (zeros 4)
    let r : Req := request 0x0B03 p v u
    let z : State := takenState p v u
    let i : Nat := 2
    Accepted 0x0B03 p tableRole (fun r s => exactly 4 r s && zeroAt 0 4 r) v u ∧ r = request 0x0B03 p v u ∧ z = takenState
      p v u ∧ i = otherImage z ∧ z.cz.fw = none ∧ z.cal.sealOpen = false ∧ z.safe.lockOpen = false ∧ z.cz.commits = []
      ∧ z.cz.sched = [] :=
  ⟨accepted_of (by decide +kernel), rfl, rfl, by decide, by decide, by decide, by decide, by decide, by decide⟩

theorem wit_FirmwareTransfers_18 :
    let at_ : Nat := 0
    let s : State := crown
    let u : State := s.tick at_
    let v : Session := sess 5
    let p : Packet := pkt (le 4 0x4B410001)
    let r : Req := request 0x0B04 p v u
    let z : State := takenState p v u
    Accepted 0x0B04 p tableRole (fun r s => exactly 4 r s && decide (r.f 0 4 = 0x4B410001)) v u ∧ r = request 0x0B04 p v u
      ∧ z = takenState p v u :=
  ⟨accepted_of (by decide +kernel), rfl, rfl⟩

theorem wit_TagsAreJudged_1 :
    let v : Session := { sess 5 with high := 65535 }
    let k : Nat := 32767
    v.high < 65536 ∧ 1 ≤ k ∧ k < 32768 :=
  ⟨by decide, by decide, by decide⟩

theorem wit_TagsAreJudged_2 :
    let v : Session := sess 5
    let k : Nat := 63
    v.high < 65536 ∧ k < 64 :=
  ⟨by decide, by decide⟩

theorem wit_TagsAreJudged_3 :
    let v : Session := sess 5
    let k : Nat := 32768
    v.high < 65536 ∧ 64 ≤ k ∧ k ≤ 32768 :=
  ⟨by decide, by decide, by decide⟩

theorem wit_TagsAreJudged_4 :
    let v : Session := { sess 5 with high := 65535, seen := [65535] }
    let t : Nat := 62
    let w : Session := seeTag { sess 5 with high := 65535, seen := [65535] } 62
    v.high < 65536 ∧ t < 65536 ∧ judgeTag v t ≤ 1 ∧ w = seeTag v t :=
  ⟨by decide, by decide, by decide, by decide⟩

theorem wit_TagsAreJudged_5 :
    let op : Nat := 2
    let need : Req → State → Nat := tableRole
    let ok : Req → State → Bool := exactly 0
    let body : Req → State → State := fun _ s => s
    let p : Packet := { pkt [] with tag := 32768 }
    let v : Session := sess 5
    let s : State := crown
    takesPackets p s ∧ lengthOk p = true ∧ packetSession p s = some v ∧ ((v.trailer && !bit 3 p.flags) || (bit 3 p.flags
      && hmac v.key (packetBytes op p) != p.trailer)) = false ∧ judgeTag v p.tag = 3 :=
  ⟨by decide, by decide, by decide, by decide, by decide⟩

theorem wit_TagsAreJudged_6 :
    let op : Nat := 2
    let need : Req → State → Nat := tableRole
    let ok : Req → State → Bool := exactly 0
    let body : Req → State → State := fun _ s => s
    let p : Packet := pkt []
    let v : Session := { sess 5 with seen := [1], high := 1, cache := [(1, [7])] }
    let s : State := { crown with cz.sessions := [{ sess 5 with seen := [1], high := 1, cache := [(1, [7])] }] }
    takesPackets p s ∧ lengthOk p = true ∧ packetSession p s = some v ∧ ((v.trailer && !bit 3 p.flags) || (bit 3 p.flags
      && hmac v.key (packetBytes op p) != p.trailer)) = false ∧ judgeTag v p.tag = 2 ∧ (v.cache.any fun b => decide
      (b.1 = p.tag % 65536)) = true :=
  ⟨by decide, by decide, by decide, by decide, by decide, by decide⟩

theorem wit_TagsAreJudged_7 :
    let op : Nat := 2
    let need : Req → State → Nat := tableRole
    let ok : Req → State → Bool := exactly 0
    let body : Req → State → State := fun _ s => s
    let p : Packet := pkt []
    let v : Session := sess 5
    let s : State := crown
    Accepted op p need ok v s :=
  accepted_of (by decide +kernel)

theorem wit_TagsAreJudged_8 :
    let s : State := crown
    let p : Packet := pkt []
    let v : Nat × Nat := (2, 3)
    let a : OpenAsk := default
    let g : Nat × List Byte := (4, zeros 32)
    let t : State := openSession (pkt []) (2, 3) default (4, zeros 32) crown
    t = openSession p v a g s :=
  rfl

theorem wit_SecretsAreWrapped_1 :
    let k : List Byte := zeros 32
    let x : List Byte := [1]
    let sec : List Byte := zeros 32
    sec.length = 32 :=
  by decide

theorem wit_SecretsAreWrapped_2 :
    let k : List Byte := zeros 32
    let x : List Byte := [1]
    let c : List Byte := zeros 32
    let t : List Byte := zeros 16
    c.length = 32 ∧ (hmac k (ascii "HKA-WTAG" ++ x ++ c)).take 16 ≠ t :=
  ⟨by decide, by decide +kernel⟩

theorem wit_SecretsAreWrapped_3 :
    let at_ : Nat := 0
    let s : State := { crown with cz.sessions := [keyed] }
    let u : State := s.tick at_
    let v : Session := keyed
    let p : Packet := credPkt
    let r : Req := request 0x0900 p v u
    let z : State := takenState p v u
    let x : Session := (session? z r.session).getD default
    let k : List Byte := zeros 32
    Accepted 0x0900 p tableRole credOk v u ∧ r = request 0x0900 p v u ∧ z = takenState p v u ∧ session? z r.session = some
      x ∧ x.trailer = true ∧ ((creds z).any (·.id == r.f 0 4)) = false ∧ (creds z).length < 64 ∧ k.length = 32 ∧ slice
      8 48 r.params = wrapSecret x.key (le 2 r.tag ++ le 4 (r.f 0 4)) k :=
  ⟨accepted_of (by decide +kernel), rfl, rfl, by decide +kernel, by decide, by decide, by decide, by decide, by decide⟩

theorem wit_SecretsAreWrapped_4 :
    let at_ : Nat := 0
    let s : State := { crown with cz.sessions := [keyed] }
    let u : State := s.tick at_
    let v : Session := keyed
    let p : Packet := keyedPkt 0x0900 (le 4 9 ++ [1, 7, 0, 0] ++ zeros 48)
    let r : Req := request 0x0900 p v u
    let z : State := takenState p v u
    let x : Session := (session? z r.session).getD default
    Accepted 0x0900 p tableRole credOk v u ∧ r = request 0x0900 p v u ∧ z = takenState p v u ∧ session? z r.session = some
      x ∧ x.trailer = true ∧ ((creds z).any (·.id == r.f 0 4)) = false ∧ (creds z).length < 64 ∧ unwrapSecret x.key
      (le 2 r.tag ++ le 4 (r.f 0 4)) (slice 8 48 r.params) = none :=
  ⟨accepted_of (by decide +kernel), rfl, rfl, by decide +kernel, by decide, by decide, by decide, by decide +kernel⟩

theorem wit_SecretsAreWrapped_5 :
    let at_ : Nat := 0
    let s : State := { crown with cz.sessions := [keyed] }
    let u : State := s.tick at_
    let v : Session := keyed
    let p : Packet := keyedPkt 0x0906 (le 2 9 ++ [0, 0] ++ zeros 48)
    let r : Req := request 0x0906 p v u
    let z : State := takenState p v u
    let x : Session := (session? z r.session).getD default
    Accepted 0x0906 p tableRole groupKeyOk v u ∧ r = request 0x0906 p v u ∧ z = takenState p v u ∧ session? z r.session =
      some x ∧ x.trailer = true ∧ unwrapSecret x.key (le 2 r.tag ++ le 4 (r.f 0 2)) (slice 4 48 r.params) = none :=
  ⟨accepted_of (by decide +kernel), rfl, rfl, by decide +kernel, by decide, by decide +kernel⟩

theorem wit_SecretsAreWrapped_6 :
    let at_ : Nat := 0
    let s : State := { crown with cz.sessions := [keyed] }
    let u : State := s.tick at_
    let v : Session := keyed
    let p : Packet := groupPkt
    let r : Req := request 0x0906 p v u
    let z : State := takenState p v u
    let x : Session := (session? z r.session).getD default
    let k : List Byte := zeros 32
    Accepted 0x0906 p tableRole groupKeyOk v u ∧ r = request 0x0906 p v u ∧ z = takenState p v u ∧ session? z r.session =
      some x ∧ x.trailer = true ∧ k.length = 32 ∧ slice 4 48 r.params = wrapSecret x.key (le 2 r.tag ++ le 4 (r.f 0
      2)) k ∧ z.cz.keys.groupKeys.length < 16 :=
  ⟨accepted_of (by decide +kernel), rfl, rfl, by decide +kernel, by decide, by decide, by decide, by decide⟩

theorem wit_SecretsAreWrapped_7 :
    let at_ : Nat := 0
    let s : State := crown
    let u : State := s.tick at_
    let v : Session := sess 5
    let p : Packet := pkt (le 2 0x0C02 ++ le 2 0 ++ le 2 0 ++ le 2 0xA8 ++ [1] ++ zeros 0xA7)
    let r : Req := request 0x0100 p v u
    let z : State := takenState p v u
    let x : Session := (session? z r.session).getD default
    let l : List Byte := [1] ++ zeros 0xA7
    Accepted 0x0100 p pbRole writeOk v u ∧ r = request 0x0100 p v u ∧ z = takenState p v u ∧ session? z r.session = some x
      ∧ l = r.params.drop 8 ∧ pbBlock r = 0x0C02 ∧ allZero l = false ∧ z.jrn.failed = false ∧ unwrapSecret x.key (le 2
      r.tag ++ le 4 0) (slice 24 48 l) = none :=
  ⟨accepted_of (by decide +kernel), rfl, rfl, by decide +kernel, by decide, by decide, by decide, by decide, by decide +kernel⟩

theorem wit_SecretsAreWrapped_8 :
    let s : State := { crown with cz.sessions := [keyed] }
    let r : Req := { (default : Req) with session := 1 }
    let x : Session := keyed
    let k : List Byte := zeros 32
    let l : List Byte := zeros 24 ++ wrapSecret (zeros 32) (le 2 0 ++ le 4 0) (zeros 32) ++ zeros 96
    session? s r.session = some x ∧ x.trailer = true ∧ fld 0 8 l = s.part.serial ∧ authPast l s = false ∧ k.length = 32 ∧
      slice 24 48 l = wrapSecret x.key (le 2 r.tag ++ le 4 0) k :=
  ⟨by decide, by decide, by decide, by decide, by decide, by decide⟩

theorem wit_SixtyFourRequests_1 :
    let op : Nat := 2
    let need : Req → State → Nat := tableRole
    let ok : Req → State → Bool := exactly 0
    let body : Req → State → State := fun _ s => s
    let p : Packet := pkt []
    let v : Session := { sess 5 with owed := List.range 64 }
    let row : OpRow := { role := 0, trunk := true, since := none, applyAt := false, journaled := false }
    let s : State := { crown with cz.sessions := [{ sess 5 with owed := List.range 64 }] }
    takesPackets p s ∧ lengthOk p = true ∧ packetSession p s = some v ∧ ((v.trailer && !bit 3 p.flags) || (bit 3 p.flags
      && hmac v.key (packetBytes op p) != p.trailer)) = false ∧ judgeTag v p.tag ≤ 1 ∧ p.major = v.major ∧ p.minor =
      v.minor ∧ opRow op = some row ∧ definedIn row v.major v.minor = true ∧ meets v.role (need (mkReq op p v s)
      (seenState p v s)) = true ∧ (row.trunk || inCrown (seenState p v s)) = true ∧ (flagsOk row p v (seenState p v s)
      && ok (mkReq op p v s) (seenState p v s)) = true ∧ ¬ (lateAt op p v s = true ∧ (mkReq op p v s).runNow = false)
      ∧ 64 < (((session? (takenState p v s) v.id).map (·.owed.length)).getD 0) :=
  ⟨by decide, by decide, by decide, by decide, by decide, by decide, by decide, by decide, by decide, by decide, by decide, by decide, by decide, by decide⟩

theorem wit_SixtyFourRequests_2 :
    let op : Nat := 2
    let need : Req → State → Nat := tableRole
    let ok : Req → State → Bool := exactly 0
    let p : Packet := pkt []
    let v : Session := sess 5
    let s : State := crown
    Accepted op p need ok v s :=
  accepted_of (by decide +kernel)

theorem wit_PacketsThatFailAuthentication_1 :
    let op : Nat := 2
    let need : Req → State → Nat := tableRole
    let ok : Req → State → Bool := exactly 0
    let body : Req → State → State := fun _ s => s
    let p : Packet := { pkt [] with port := 1, source := [10, 0, 0, 1] }
    let s : State := ported
    let t : State := receive op p (serve op need ok body) s
    takesPackets p s ∧ p.port ≠ 0 ∧ ((lengthOk p = false ∨ packetSession p s = none)) ∧ t = receive op p (serve op need ok
      body) s :=
  ⟨by decide, by decide, by decide, rfl⟩

theorem wit_PacketsThatFailAuthentication_2 :
    let op : Nat := 2
    let need : Req → State → Nat := tableRole
    let ok : Req → State → Bool := exactly 0
    let body : Req → State → State := fun _ s => s
    let p : Packet := { pkt [] with port := 1, source := [10, 0, 0, 1] }
    let v : Session := { sess 5 with port := 1, trailer := true }
    let s : State := { ported with cz.sessions := [{ sess 5 with port := 1, trailer := true }] }
    let t : State := receive op p (serve op need ok body) s
    takesPackets p s ∧ p.port ≠ 0 ∧ lengthOk p = true ∧ packetSession p s = some v ∧ ((v.trailer && !bit 3 p.flags) ||
      (bit 3 p.flags && hmac v.key (packetBytes op p) != p.trailer)) = true ∧ t = receive op p (serve op need ok body)
      s :=
  ⟨by decide, by decide, by decide, by decide, by decide, rfl⟩

theorem wit_PacketsThatFailAuthentication_3 :
    let op : Nat := 2
    let need : Req → State → Nat := tableRole
    let ok : Req → State → Bool := exactly 0
    let body : Req → State → State := fun _ s => s
    let p : Packet := { pkt [] with bytes := 15 }
    let s : State := crown
    takesPackets p s ∧ p.port = 0 ∧ lengthOk p = false :=
  ⟨by decide, by decide, by decide⟩

theorem wit_PacketsThatFailAuthentication_4 :
    let op : Nat := 2
    let need : Req → State → Nat := tableRole
    let ok : Req → State → Bool := exactly 0
    let body : Req → State → State := fun _ s => s
    let p : Packet := { pkt [] with session := 5 }
    let s : State := crown
    takesPackets p s ∧ p.port = 0 ∧ lengthOk p = true ∧ packetSession p s = none :=
  ⟨by decide, by decide, by decide, by decide⟩

theorem wit_PacketsThatFailAuthentication_5 :
    let op : Nat := 2
    let need : Req → State → Nat := tableRole
    let ok : Req → State → Bool := exactly 0
    let body : Req → State → State := fun _ s => s
    let p : Packet := pkt []
    let v : Session := { sess 5 with trailer := true }
    let s : State := { crown with cz.sessions := [{ sess 5 with trailer := true }] }
    takesPackets p s ∧ p.port = 0 ∧ lengthOk p = true ∧ packetSession p s = some v ∧ ((v.trailer && !bit 3 p.flags) ||
      (bit 3 p.flags && hmac v.key (packetBytes op p) != p.trailer)) = true :=
  ⟨by decide, by decide, by decide, by decide, by decide⟩

theorem wit_VersionsAreNegotiated_2 :
    let p : Packet := { pkt [] with major := 1, minor := 2 }
    p.major = 1 ∧ p.minor = 2 :=
  ⟨by decide, by decide⟩

theorem wit_VersionsAreNegotiated_3 :
    let p : Packet := { pkt [1, 2] with major := 2, minor := 9 }
    let v : Nat × Nat := (2, 3)
    let lo : Nat := 258
    let hi : Nat := 521
    ¬ (p.major = 1 ∧ p.minor = 2) ∧ lo = 256 * fld 0 1 p.params + fld 1 1 p.params ∧ hi = 256 * p.major + p.minor ∧
      negotiate p = some v :=
  ⟨by decide, by decide, by decide, by decide⟩

theorem wit_VersionsAreNegotiated_4 :
    let at_ : Nat := 0
    let s : State := crown
    let u : State := s.tick at_
    let p : Packet := { pkt [2, 4] with major := 2, minor := 9, session := 0 }
    let lo : Nat := 516
    let hi : Nat := 521
    takesPackets p u ∧ p.session = 0 ∧ p.port = 0 ∧ lengthOk p = true ∧ bit 3 p.flags = false ∧ ¬ (p.major = 1 ∧ p.minor =
      2) ∧ lo = 256 * fld 0 1 p.params + fld 1 1 p.params ∧ hi = 256 * p.major + p.minor ∧ (hubVersions.any fun w =>
      decide (lo ≤ 256 * w.1 + w.2 ∧ 256 * w.1 + w.2 ≤ hi)) = false :=
  ⟨by decide, by decide, by decide, by decide, by decide, by decide, by decide, by decide, by decide⟩

theorem wit_VersionsAreNegotiated_5 :
    let at_ : Nat := 0
    let s : State := ported
    let u : State := s.tick at_
    let p : Packet := { pkt [2, 4] with major := 2, minor := 9, session := 0, port := 1, source := [10, 0, 0, 1] }
    let lo : Nat := 516
    let hi : Nat := 521
    takesPackets p u ∧ p.session = 0 ∧ p.port ≠ 0 ∧ lengthOk p = true ∧ bit 3 p.flags = false ∧ ¬ (p.major = 1 ∧ p.minor =
      2) ∧ lo = 256 * fld 0 1 p.params + fld 1 1 p.params ∧ hi = 256 * p.major + p.minor ∧ (hubVersions.any fun w =>
      decide (lo ≤ 256 * w.1 + w.2 ∧ 256 * w.1 + w.2 ≤ hi)) = false :=
  ⟨by decide, by decide, by decide, by decide, by decide, by decide, by decide, by decide, by decide⟩

theorem wit_VersionsAreNegotiated_6 :
    let s : State := crown
    let p : Packet := pkt []
    let v : Nat × Nat := (2, 3)
    let a : OpenAsk := default
    let g : Nat × List Byte := (4, zeros 32)
    let t : State := openSession (pkt []) (2, 3) default (4, zeros 32) crown
    t = openSession p v a g s :=
  rfl

end Sys2Proof.Tests
end

section
/-! SUPPORT. What the readers of the state find after a difference of reports alone. -/

namespace Sys2Proof.Machine

section
variable {s t : State} (h : Still s t)
include h

theorem Still.quire_eq (q : Nat) : quire t q = quire s q := by unfold quire; rw [h.quires]
theorem Still.chan_eq (c : Nat) : chan t c = chan s c := by unfold chan; rw [h.chans]
theorem Still.witOf_eq (q : Nat) : witOf t q = witOf s q := by unfold witOf; rw [h.wit]
theorem Still.ensOf_eq (q : Nat) : ensOf t q = ensOf s q := by unfold ensOf; rw [h.cal]
theorem Still.inService_eq (q : Nat) : inService t q = inService s q := by
  unfold inService; rw [h.part, h.quire_eq]
theorem Still.devNow_eq : devNow t = devNow s := by
  unfold devNow devRaw devFine rawNow; rw [h.time, h.now]

end

end Sys2Proof.Machine
end

section
/-! SUPPORT. Events, faults and replies leave the commits that are pending: an event enters the fault manager and the folios
of RING2, a reply the sessions and the ports. -/

namespace Sys2Proof.Machine

@[simp] theorem put2_cz (ft n : Nat) (b : List Byte) (s : State) : (put2 ft n b s).cz = s.cz := by
  unfold put2; split <;> rfl

@[simp] theorem pushLog_cz (e : LogEntry) (s : State) : (pushLog e s).cz = s.cz := rfl
@[simp] theorem setFault_cz (e : FaultEntry) (s : State) : (setFault e s).cz = s.cz := rfl

@[simp] theorem addCause_cz (c x : Nat) (s : State) : (addCause c x s).cz = s.cz := by
  unfold addCause; dsimp only; split <;> rfl

@[simp] theorem rootKeep_cz (e : LogEntry) (v : Ev) (s : State) : (rootKeep e v s).cz = s.cz := by
  unfold rootKeep; split <;> rfl

@[simp] theorem keepLog_cz (e : LogEntry) (s : State) : (keepLog e s).cz = s.cz := by
  unfold keepLog; split <;> simp

@[simp] theorem keepWith_cz (e : LogEntry) (v : Ev) (s : State) : (keepWith e v s).cz = s.cz := by
  unfold keepWith; split <;> simp

@[simp] theorem logSet_cz (e : LogEntry) (v : Ev) (s : State) : (logSet e v s).cz = s.cz := by
  unfold logSet
  dsimp only
  split
  · split <;> simp
  · simp

@[simp] theorem logClear_cz (e : LogEntry) (s : State) : (logClear e s).cz = s.cz := by
  unfold logClear; dsimp only; split <;> simp

@[simp] theorem issueRecord_cz (e f n : Nat) (t b : List Byte) (s : State) : (issueRecord e f n t b s).cz = s.cz :=
  put2_cz ..

@[simp] theorem issueAt_cz (e : Ev) (f l n : Nat) (d t : List Byte) (s : State) : (issueAt e f l n d t s).cz = s.cz := by
  unfold issueAt
  dsimp only
  split
  · simp
  · split
    · split
      · simp
      · split <;> simp
    · simp

@[simp] theorem issue_cz (e : Ev) (s : State) : (issue e s).cz = s.cz := issueAt_cz ..

@[simp] theorem raiseRoot_cz (e : Ev) (s : State) : (raiseRoot e s).cz = s.cz := by
  unfold raiseRoot
  dsimp only
  split
  · simp
  · split <;> simp

@[simp] theorem raiseCoalesced_cz (e : Ev) (s : State) : (raiseCoalesced e s).cz = s.cz := by
  unfold raiseCoalesced; dsimp only; split <;> rfl

theorem when_cz {b : Bool} {f : State → State} (hf : ∀ s, (f s).cz = s.cz) (s : State) : (when_ b f s).cz = s.cz := by
  unfold when_; split
  · exact hf s
  · rfl

@[simp] theorem raise_cz (e : Ev) (s : State) : (raise e s).cz = s.cz := by
  have hw := when_cz (b := e.lasting && decide (faultCode e.ecode ≠ 0)) (addCause_cz (faultCode e.ecode) e.subject) s
  unfold raise
  dsimp only
  split
  · rw [raiseRoot_cz, hw]
  · split
    · rw [raiseCoalesced_cz, hw]
    · rw [issue_cz, hw]

@[simp] theorem onSession_commits (id : Nat) (f : Session → Session) (s : State) :
    (onSession id f s).cz.commits = s.cz.commits := rfl

theorem sendBytes_cz (port : Nat) (src : List Byte) (sp : Nat) (b : List Byte) (s : State) :
    (sendBytes port src sp b s).cz = s.cz := by
  unfold sendBytes; split <;> rfl

theorem sendReply_commits (v : Session) (r : Req) (st : Nat) (final : Bool) (body : List Byte) (s : State) :
    (sendReply v r st final body s).cz.commits = s.cz.commits := by
  unfold sendReply
  simp only [onSession_commits]
  exact congrArg Cuzan.commits (List.foldlRecOn _ _ (motive := fun t => t.cz = s.cz) rfl
    fun t ht b _ => (sendBytes_cz _ _ _ b t).trans ht)

theorem replyIn_commits (v : Session) (r : Req) (st : Nat) (final : Bool) (body : List Byte) (s : State) :
    (replyIn v r st final body s).cz.commits = s.cz.commits := by
  unfold replyIn; split
  · rfl
  · exact sendReply_commits ..

theorem answerOr_commits (r : Req) (st : Nat) (body : List Byte) (e : Nat) (s : State) :
    (answerOr r st body e s).cz.commits = s.cz.commits := by
  unfold answerOr; split
  · exact replyIn_commits ..
  · rw [raise_cz]

end Sys2Proof.Machine
end

section
/-! SUPPORT. What enters a channel's history and its marks, and that no other channel and nothing else of the state changes
(01 R29; 03 R62; 04 R89, R115). -/

namespace Sys2Proof.Machine

/-- Nothing but the table of channels differs. -/
def ChansOnly (s t : State) : Prop := t = { s with chans := t.chans }

theorem ChansOnly.refl (s : State) : ChansOnly s s := rfl

theorem ChansOnly.trans {a b c : State} (h : ChansOnly a b) (k : ChansOnly b c) : ChansOnly a c := by
  unfold ChansOnly at *
  rw [h] at k
  exact k

theorem ChansOnly.still {s t : State} (h : ChansOnly s t) : Still { s with chans := t.chans } t := by
  unfold ChansOnly at h
  rw [← h]
  exact Still.refl t

theorem ChansOnly.store {s t : State} (h : ChansOnly s t) : t.store = s.store := by
  unfold ChansOnly at h
  rw [h]

theorem setChan_chansOnly (c : Nat) (v : Chan) (s : State) : ChansOnly s (setChan c v s) := rfl

/-- Nothing but one channel differs. -/
structure OnlyChan (c : Nat) (s t : State) : Prop where
  rest : ChansOnly s t
  others : ∀ x, x ≠ c → chan t x = chan s x

theorem OnlyChan.refl (c : Nat) (s : State) : OnlyChan c s s := ⟨.refl s, fun _ _ => rfl⟩

theorem OnlyChan.trans {c : Nat} {a b d : State} (h : OnlyChan c a b) (k : OnlyChan c b d) : OnlyChan c a d :=
  ⟨h.rest.trans k.rest, fun x hx => (k.others x hx).trans (h.others x hx)⟩

theorem setChan_onlyChan (c : Nat) (v : Chan) (s : State) : OnlyChan c s (setChan c v s) :=
  ⟨setChan_chansOnly c v s, fun _ hx => (chan_setChan ..).trans (if_neg (Ne.symm hx))⟩

@[simp] theorem chan_setChan_self (c : Nat) (v : Chan) (s : State) : chan (setChan c v s) c = v :=
  (chan_setChan ..).trans (if_pos rfl)

/-! ### Marks -/

theorem addMark_onlyChan (c : Nat) (kind : MarkKind) (a : Int) (l : Option Int) (s : State) :
    OnlyChan c s (addMark c kind a l s) := setChan_onlyChan ..

/-- A mark is added before those that stand. -/
theorem addMark_marks (c : Nat) (kind : MarkKind) (a : Int) (l : Option Int) (s : State) :
    ∃ b, (chan (addMark c kind a l s) c).marks = { kind := kind, first := a, last := l, atA := b } :: (chan s c).marks :=
  ⟨_, congrArg Chan.marks (chan_setChan_self ..)⟩

theorem addMark_hist (c : Nat) (kind : MarkKind) (a : Int) (l : Option Int) (s : State) :
    (chan (addMark c kind a l s) c).hist = (chan s c).hist ∧ (chan (addMark c kind a l s) c).raw = (chan s c).raw
      ∧ (chan (addMark c kind a l s) c).histNew = (chan s c).histNew := by
  simp [addMark]

/-- The first mark of a kind is added and extends none. -/
theorem markOne_first {c : Nat} {kind : MarkKind} {m : Int} {s : State}
    (h : ∀ x ∈ (chan s c).marks, x.kind ≠ kind) : markOne c kind m s = addMark c kind m (some m) s := by
  have e : (chan s c).marks.find? (fun x => x.kind == kind) = none := by simpa using h
  unfold markOne
  simp only [e]

theorem markOne_onlyChan (c : Nat) (kind : MarkKind) (m : Int) (s : State) : OnlyChan c s (markOne c kind m s) := by
  unfold markOne
  dsimp only
  split
  · split
    · exact setChan_onlyChan ..
    · exact addMark_onlyChan ..
  · exact addMark_onlyChan ..

/-- Marking leaves the history. -/
theorem markOne_hist (c : Nat) (kind : MarkKind) (m : Int) (s : State) :
    (chan (markOne c kind m s) c).hist = (chan s c).hist ∧ (chan (markOne c kind m s) c).raw = (chan s c).raw
      ∧ (chan (markOne c kind m s) c).histNew = (chan s c).histNew := by
  unfold markOne
  dsimp only
  split
  · split
    · simp
    · exact addMark_hist ..
  · exact addMark_hist ..

theorem when_markOne_hist (c : Nat) (kind : MarkKind) (m : Int) (b : Bool) (s : State) :
    (chan (when_ b (markOne c kind m) s) c).hist = (chan s c).hist
      ∧ (chan (when_ b (markOne c kind m) s) c).raw = (chan s c).raw
      ∧ (chan (when_ b (markOne c kind m) s) c).histNew = (chan s c).histNew := by
  unfold when_; split
  · exact markOne_hist ..
  · exact ⟨rfl, rfl, rfl⟩

/-! ### A value enters -/

theorem pushHist_onlyChan (c : Nat) (m r x : Int) (s : State) : OnlyChan c s (pushHist c m r x s) := setChan_onlyChan ..

theorem chan_pushHist (c : Nat) (m r x : Int) (s : State) :
    chan (pushHist c m r x s) c = { chan s c with
      hist := x :: (chan s c).hist, raw := r :: (chan s c).raw, histNew := m,
      histFirst := if (chan s c).hist.isEmpty then m else (chan s c).histFirst } := chan_setChan_self ..

theorem when_onlyChan {c : Nat} {s : State} {b : Bool} {f : State → State} (h : OnlyChan c s (f s)) :
    OnlyChan c s (when_ b f s) := by
  unfold when_; split
  · exact h
  · exact .refl c s

/-- What closes for a channel changes that channel alone. -/
theorem closeChan_onlyChan (f : State) (m : Int) (oq : Option OpenQuire) (c k : Nat) (s : State) :
    OnlyChan c s (closeChan f m oq c k s) := by
  have mark (kind : MarkKind) (b : Bool) (t : State) : OnlyChan c t (when_ b (markOne c kind m) t) :=
    when_onlyChan (markOne_onlyChan ..)
  have push (b : Bool) (r x : Int) {t : State} (h : OnlyChan c s t) :
      OnlyChan c s (when_ b (markOne c .over m) (pushHist c m r x t)) :=
    h.trans ((pushHist_onlyChan ..).trans (mark ..))
  have lost (b : Bool) (r x : Int) {t : State} (h : OnlyChan c s t) :
      OnlyChan c s (markOne c .lost m (when_ b (markOne c .over m) (pushHist c m r x t))) :=
    (push b r x h).trans (markOne_onlyChan ..)
  unfold closeChan
  dsimp only
  split
  · exact (push _ _ _ (mark ..)).trans (mark ..)
  · split
    · split
      · exact (push _ _ _ (mark ..)).trans (mark ..)
      · exact lost _ _ _ (mark ..)
    · split
      · exact push _ _ _ (mark ..)
      · exact lost _ _ _ (mark ..)

/-- What closes for a channel leaves the other channels and the rest of the state. -/
theorem closeChan_frame (f : State) (m : Int) (oq : Option OpenQuire) (c k : Nat) (s : State) :
    (∀ x, x ≠ c → chan (closeChan f m oq c k s) x = chan s x)
      ∧ Still { s with chans := (closeChan f m oq c k s).chans } (closeChan f m oq c k s)
      ∧ (closeChan f m oq c k s).store = s.store :=
  have h := closeChan_onlyChan f m oq c k s
  ⟨h.others, h.rest.still, h.rest.store⟩

/-! ### What a closing period stores -/

theorem sincStep_nonneg (g : Nat) : 0 ≤ sincStep g := Int.natCast_nonneg _

/-- A value within the nominal range: no mark for being over it (03 R62). -/
theorem not_over_of_natAbs_le {g : Nat} {x : Int} (h : x.natAbs ≤ 2 ^ 27 * (sincStep g).natAbs) :
    decide (2 ^ 27 * sincStep g < |x|) = false := by
  have hs := sincStep_nonneg g
  rw [Int.abs_eq_natAbs]
  simp only [decide_eq_false_iff_not]
  omega

/-- A word within the nominal range, signed or not, is within it in the filter's unit (04 R89). -/
theorem word_natAbs_le {w : Int} (f : State) (g c : Nat) (m : Int) (h : w.natAbs ≤ 2 ^ 27) :
    (phaseSign f c m * w * sincStep g).natAbs ≤ 2 ^ 27 * (sincStep g).natAbs := by
  have hp : (phaseSign f c m).natAbs = 1 := by unfold phaseSign; split <;> rfl
  rw [Int.natAbs_mul, Int.natAbs_mul, hp, Nat.one_mul]
  exact Nat.mul_le_mul_right _ h

theorem not_holds_of_not_covered {l : List Mark} {m : Int} (h : (l.any fun x => x.covers m) = false) (p : Mark → Bool) :
    (l.any fun x => p x && x.covers m) = false := by
  rw [List.any_eq_false] at h ⊢
  intro x hx hb
  exact h x hx (Bool.and_eq_true_iff.mp hb).2

section
variable {f s : State} {m : Int} {o : OpenQuire} {c k : Nat}

/-- Neither held nor replaced: the word enters with the sign of its phase (04 R89). -/
theorem closeChan_word {w : Int} (hh : heldAt s c m = false) (hm : ((chan s c).marks.any fun x => x.covers m) = false)
    (hw : o.outs.find? (fun p => p.1 == k) = some (k, w)) (hc : o.common.contains k = false) (hr : w.natAbs ≤ 2 ^ 27) :
    closeChan f m (some o) c k s
      = pushHist c m (w * sincStep (modGain f c)) (phaseSign f c m * w * sincStep (modGain f c)) s := by
  have hover := not_over_of_natAbs_le (word_natAbs_le f (modGain f c) c m hr)
  have h1 := not_holds_of_not_covered hm fun x => x.kind.holds
  have h2 := not_holds_of_not_covered hm fun x => x.kind == .standin || x.kind == .range
  simp only [closeChan, when_, Option.bind_some, Option.map_some, Option.getD_some, hc, hh, h1, h2, hw, hover,
    Bool.false_eq_true, or_self, if_false]

/-- Nothing arrived and nothing is marked: the value before it enters and the number is lost (01 R29). -/
theorem closeChan_lost (hh : heldAt s c m = false) (hm : (chan s c).marks = []) :
    closeChan f m none c k s = markOne c .lost m
      (when_ (decide (2 ^ 27 * sincStep (modGain f c) < |(chan s c).hist.headD 0|)) (markOne c .over m)
        (pushHist c m ((chan s c).raw.headD 0) ((chan s c).hist.headD 0) s)) := by
  simp [closeChan, when_, hh, hm]

/-- Held by a switching event: the value before it enters, and what arrived is the raw one (03 R76). -/
theorem closeChan_held {w : Int} (hh : heldAt s c m = true) (hw : o.outs.find? (fun p => p.1 == k) = some (k, w))
    (hc : o.common.contains k = false)
    (hr : ((chan s c).hist.headD 0).natAbs ≤ 2 ^ 27 * (sincStep (modGain f c)).natAbs) :
    closeChan f m (some o) c k s = pushHist c m (w * sincStep (modGain f c)) ((chan s c).hist.headD 0) s := by
  have hover := not_over_of_natAbs_le hr
  simp only [closeChan, when_, Option.bind_some, Option.map_some, Option.getD_some, hc, hh, hw, hover,
    Bool.false_eq_true, true_or, if_true, if_false, Option.isNone_some, Bool.false_and]

/-- Under a stand-in its value enters (04 R115). -/
theorem closeChan_standin {y : Int} (hh : heldAt s c m = false)
    (hm : ((chan s c).marks.any fun x => x.kind.holds && x.covers m) = false)
    (hst : ((chan s c).marks.any fun x => (x.kind == .standin || x.kind == .range) && x.covers m) = true)
    (hc : o.common.contains k = false) (hr : y.natAbs ≤ 2 ^ 27 * (sincStep (modGain f c)).natAbs)
    (hv : standinValue f c m (some o) = some (y, false)) :
    ∃ r, closeChan f m (some o) c k s = pushHist c m r y s := by
  have hover := not_over_of_natAbs_le hr
  simp only [closeChan, when_, Option.map_some, Option.getD_some, hc, hh, hm, hst, hv, hover, Bool.false_eq_true,
    or_self, if_true, if_false]
  exact ⟨_, rfl⟩

end

/-- The lost mark that is added where a channel has no mark but for a value over the range. -/
theorem lost_mark_covers {c : Nat} {m : Int} {b : Bool} {s : State} (hm : (chan s c).marks = []) :
    ((chan (markOne c .lost m (when_ b (markOne c .over m) s)) c).marks.any
      fun y => y.kind == .lost && y.covers m) = true := by
  have hnone : ∀ x ∈ (chan (when_ b (markOne c .over m) s) c).marks, x.kind ≠ .lost := by
    unfold when_; split
    · rw [markOne_first (by simp [hm])]
      obtain ⟨a, ha⟩ := addMark_marks c .over m (some m) s
      simp [ha, hm]
    · simp [hm]
  rw [markOne_first hnone]
  obtain ⟨a, ha⟩ := addMark_marks c .lost m (some m) (when_ b (markOne c .over m) s)
  simp [ha, Mark.covers]

/-- A lost number's entry: what stood before stands again. -/
theorem chan_closeChan_lost {f s : State} {m : Int} {c k : Nat} (hh : heldAt s c m = false) (hm : (chan s c).marks = []) :
    (chan (closeChan f m none c k s) c).hist = (chan s c).hist.headD 0 :: (chan s c).hist
      ∧ (chan (closeChan f m none c k s) c).raw = (chan s c).raw.headD 0 :: (chan s c).raw
      ∧ (chan (closeChan f m none c k s) c).histNew = m
      ∧ ((chan (closeChan f m none c k s) c).marks.any fun y => y.kind == .lost && y.covers m) = true := by
  rw [closeChan_lost hh hm]
  generalize decide (2 ^ 27 * sincStep (modGain f c) < |(chan s c).hist.headD 0|) = b
  have hp := chan_pushHist c m ((chan s c).raw.headD 0) ((chan s c).hist.headD 0) s
  generalize pushHist c m ((chan s c).raw.headD 0) ((chan s c).hist.headD 0) s = t at hp ⊢
  obtain ⟨e1, e2, e3⟩ := markOne_hist c .lost m (when_ b (markOne c .over m) t)
  obtain ⟨w1, w2, w3⟩ := when_markOne_hist c .over m b t
  exact ⟨by rw [e1, w1, hp], by rw [e2, w2, hp], by rw [e3, w3, hp], lost_mark_covers (by rw [hp]; exact hm)⟩

/-- A value that enters with no mark: the channel's newest output, and the marks that stood. -/
theorem chan_closeChan_push {f s : State} {m r x : Int} {oq : Option OpenQuire} {c k : Nat}
    (e : closeChan f m oq c k s = pushHist c m r x s) :
    (chan (closeChan f m oq c k s) c).hist = x :: (chan s c).hist
      ∧ (chan (closeChan f m oq c k s) c).raw = r :: (chan s c).raw
      ∧ (chan (closeChan f m oq c k s) c).histNew = m
      ∧ (chan (closeChan f m oq c k s) c).marks = (chan s c).marks := by
  rw [e, chan_pushHist]
  exact ⟨rfl, rfl, rfl, rfl⟩

/-- Settles O25: each kind of output is one entry of the history, and a channel's closing changes that channel alone. -/
theorem sincPeriodOutput : Obligations.SincPeriodOutput := by
  unfold Obligations.SincPeriodOutput
  refine ⟨?word, ?lost, ?held, ?standin⟩
  case word =>
    rintro f s _ m w o c k hh hm hw hc hr rfl
    obtain ⟨hhist, hraw, hnew, hmarks⟩ := chan_closeChan_push (f := f) (closeChan_word hh hm hw hc hr)
    exact ⟨hhist, hraw, hnew, hmarks, closeChan_frame ..⟩
  case lost =>
    rintro f s _ m c k hh hm rfl
    obtain ⟨hhist, hraw, hnew, hmarks⟩ := chan_closeChan_lost (f := f) (k := k) hh hm
    exact ⟨hhist, hraw, hnew, hmarks, closeChan_frame ..⟩
  case held =>
    rintro f s _ m w o c k hh hw hc hr rfl
    obtain ⟨hhist, hraw, -, hmarks⟩ := chan_closeChan_push (closeChan_held hh hw hc hr)
    exact ⟨hhist, hraw, hmarks, closeChan_frame ..⟩
  case standin =>
    rintro f s _ m y o c k hh hm hst hc hr hv rfl
    obtain ⟨r, e⟩ := closeChan_standin hh hm hst hc hr hv
    obtain ⟨hhist, -, hnew, hmarks⟩ := chan_closeChan_push e
    exact ⟨hhist, hnew, hmarks, closeChan_frame ..⟩

end Sys2Proof.Machine
end

section
/-! SUPPORT. What the front end's operations on calibrations, stand-ins and injections leave alone (03, 04, 07). -/

namespace Sys2Proof.Machine

/-- What is taken from another state, in place of one's own. -/
theorem Still.over {a b : State} (h : Still a b) (c : State) :
    Still { a with quires := c.quires, chans := c.chans, wit := c.wit, cal := c.cal, safe := c.safe }
      { b with quires := c.quires, chans := c.chans, wit := c.wit, cal := c.cal, safe := c.safe } :=
  ⟨h.part, h.time, h.ptp, h.evt, h.iu, rfl, h.exc, h.tone, rfl, rfl, h.conv, rfl, h.trg, h.group, h.lanes, h.skaing, rfl,
    h.cfg, h.past, h.now, h.draw, h.pending, h.flash, h.boot⟩

/-- Nothing but reports, quires, channels, witnesses, the calibration manager and the safety island differ. -/
def ServiceSide (s t : State) : Prop :=
  Still { s with quires := t.quires, chans := t.chans, wit := t.wit, cal := t.cal, safe := t.safe } t

theorem ServiceSide.refl (s : State) : ServiceSide s s := Still.refl s

theorem ServiceSide.trans {a b c : State} (h : ServiceSide a b) (k : ServiceSide b c) : ServiceSide a c :=
  (Still.over h c).trans k

section
variable {s t : State} (h : ServiceSide s t)
include h

theorem ServiceSide.now_eq : t.now = s.now := by unfold ServiceSide at h; exact h.now
theorem ServiceSide.cfg_eq : t.cfg = s.cfg := by unfold ServiceSide at h; exact h.cfg
theorem ServiceSide.time_eq : t.time = s.time := by unfold ServiceSide at h; exact h.time
theorem ServiceSide.exc_eq : t.exc = s.exc := by unfold ServiceSide at h; exact h.exc

end

/-- The quires' records change on both sides. -/
theorem Still.onQuires {a b : State} (h : Still a b) (qs : Tab Quire) :
    Still { a with quires := qs } { b with quires := qs } :=
  ⟨h.part, h.time, h.ptp, h.evt, h.iu, rfl, h.exc, h.tone, h.chans, h.wit, h.conv, h.cal, h.trg, h.group, h.lanes,
    h.skaing, h.safe, h.cfg, h.past, h.now, h.draw, h.pending, h.flash, h.boot⟩

theorem Still.onQuire {a b : State} (h : Still a b) (q : Nat) (v : Quire) : Still (setQuire q v a) (setQuire q v b) := by
  unfold setQuire
  rw [h.quires]
  exact h.onQuires _

/-- The converters' side of the spine changes on both sides. -/
theorem Still.onConv {a b : State} (h : Still a b) (c : Conv) : Still { a with conv := c } { b with conv := c } :=
  ⟨h.part, h.time, h.ptp, h.evt, h.iu, h.quires, h.exc, h.tone, h.chans, h.wit, rfl, h.cal, h.trg, h.group, h.lanes,
    h.skaing, h.safe, h.cfg, h.past, h.now, h.draw, h.pending, h.flash, h.boot⟩

/-- The safety island as it was. -/
theorem ServiceSide.of_safe {s t : State} (h : ServiceSide s t) (e : t.safe = s.safe) :
    Still { s with quires := t.quires, chans := t.chans, wit := t.wit, cal := t.cal } t := by
  unfold ServiceSide at h
  rwa [e] at h

theorem Still.serviceSide {s t : State} (h : Still s t) : ServiceSide s t := by
  unfold ServiceSide
  rw [h.quires, h.chans, h.wit, h.cal, h.safe]
  exact h

/-- Nothing but reports, channels, witnesses and the calibration manager differ. -/
structure CalSide (s t : State) : Prop where
  side : ServiceSide s t
  quires : t.quires = s.quires
  safe : t.safe = s.safe

theorem CalSide.refl (s : State) : CalSide s s := ⟨.refl s, rfl, rfl⟩

theorem CalSide.trans {a b c : State} (h : CalSide a b) (k : CalSide b c) : CalSide a c :=
  ⟨h.side.trans k.side, k.quires.trans h.quires, k.safe.trans h.safe⟩

theorem Still.calSide {s t : State} (h : Still s t) : CalSide s t := ⟨h.serviceSide, h.quires, h.safe⟩

theorem CalSide.still {s t : State} (h : CalSide s t) :
    Still { s with chans := t.chans, wit := t.wit, cal := t.cal } t := by
  have e := h.side
  unfold ServiceSide at e
  rw [h.quires, h.safe] at e
  exact e

theorem CalSide.quire_eq {s t : State} (h : CalSide s t) (q : Nat) : quire t q = quire s q := by
  unfold quire; rw [h.quires]

/-- The same, and the ensembles stand. -/
structure Measured (s t : State) : Prop extends CalSide s t where
  ens : t.cal.ens = s.cal.ens

theorem Measured.refl (s : State) : Measured s s := ⟨.refl s, rfl⟩

theorem Measured.trans {a b c : State} (h : Measured a b) (k : Measured b c) : Measured a c :=
  ⟨h.toCalSide.trans k.toCalSide, k.ens.trans h.ens⟩

theorem Still.measured {s t : State} (h : Still s t) : Measured s t := ⟨h.calSide, by rw [h.cal]⟩

theorem Measured.ensOf_eq {s t : State} (h : Measured s t) (q : Nat) : ensOf t q = ensOf s q := by
  unfold ensOf; rw [h.ens]

/-- Channels, witnesses and the calibration manager change, and the ensembles stand. -/
theorem Measured.put {a b : State} (h : Measured a b) (chans : Tab Chan) (wit : Tab Witness) (cal : Cal)
    (he : cal.ens = b.cal.ens) : Measured a { b with chans := chans, wit := wit, cal := cal } :=
  h.trans ⟨⟨Still.refl _, rfl, rfl⟩, he⟩

/-- What follows reports alone. -/
theorem Measured.still {a b c : State} (h : Measured a b) (k : Still b c) : Measured a c := h.trans k.measured

section
variable {s0 s : State}

theorem ite_measured {p : Prop} [Decidable p] {a b : State} (ha : Measured s0 a) (hb : Measured s0 b) :
    Measured s0 (if p then a else b) := by split <;> assumption

theorem foldl_measured {α : Type} {f : State → α → State} (l : List α) (hf : ∀ x t, Measured t (f t x))
    (h : Measured s0 s) : Measured s0 (l.foldl f s) := by
  induction l generalizing s with
  | nil => exact h
  | cons x r ih => exact ih (h.trans (hf x s))

theorem setChan_measured {c : Nat} {v : Chan} (h : Measured s0 s) : Measured s0 (setChan c v s) :=
  h.put _ _ _ rfl
theorem setWit_measured {q : Nat} {v : Witness} (h : Measured s0 s) : Measured s0 (setWit q v s) :=
  h.put _ _ _ rfl

/-! ### Marks and stand-in positions -/

theorem addMark_measured {c : Nat} {kind : MarkKind} {a : Int} {l : Option Int} (h : Measured s0 s) :
    Measured s0 (addMark c kind a l s) := setChan_measured h
theorem endMarks_measured {c : Nat} {kind : MarkKind} {l : Int} (h : Measured s0 s) :
    Measured s0 (endMarks c kind l s) := setChan_measured h
theorem cutMarks_measured {c : Nat} {kind : MarkKind} {m : Int} (h : Measured s0 s) :
    Measured s0 (cutMarks c kind m s) := setChan_measured h
theorem onStandin_measured {c : Nat} {f : StandIn → Option StandIn} (h : Measured s0 s) :
    Measured s0 (onStandin c f s) := setWit_measured h

/-! ### Calibrations and injections that end -/

theorem calOutcome_measured {c : Nat} {res : Nat × Nat × Int × Int} (h : Measured s0 s) :
    Measured s0 (calOutcome c res s) :=
  foldl_measured _ (fun _ _ => (answerOr_still (Still.refl _)).measured) (h.put _ _ _ rfl)

theorem endCalStandin_measured {c : Nat} {m : Int} (h : Measured s0 s) : Measured s0 (endCalStandin c m s) := by
  unfold endCalStandin
  dsimp only
  split
  · exact h
  · exact ite_measured (addMark_measured (setWit_measured (onStandin_measured (cutMarks_measured h)))) h

theorem abandonCal_measured {c outcome : Nat} {m : Int} (h : Measured s0 s) : Measured s0 (abandonCal c outcome m s) := by
  unfold abandonCal
  dsimp only
  split
  · exact h
  · have hq : Measured s0 { s with cal.queue := s.cal.queue.filter (·.1 != c) } := h.put _ _ _ rfl
    exact calOutcome_measured (ite_measured (endCalStandin_measured (setChan_measured hq)) (setChan_measured hq))

theorem endInjection_measured {q id reason : Nat} (h : Measured s0 s) : Measured s0 (endInjection q id reason s) := by
  unfold endInjection
  dsimp only
  split
  · exact h
  · refine (setWit_measured h).still (ite_still (answer_still (.refl _)) (ite_still (put2_still (.refl _)) ?_))
    exact put2_still (put2_still (.refl _))

theorem endInjections_measured {q reason : Nat} (h : Measured s0 s) : Measured s0 (endInjections q reason s) :=
  foldl_measured _ (fun _ t => endInjection_measured (.refl t)) h

theorem breakStandin_measured {m : Int} {reason : Nat} {v : StandIn} (h : Measured s0 s) :
    Measured s0 (breakStandin m reason v s) := by
  unfold breakStandin
  dsimp only
  split
  · have hcut : Measured s0 (cutMarks v.channel .range m (onStandin v.channel (fun _ => none) s)) :=
      cutMarks_measured (onStandin_measured h)
    refine Measured.still ?_ (raise_still (.refl _))
    split
    · exact ite_measured (addMark_measured hcut) hcut
    · exact hcut
  · exact onStandin_measured (abandonCal_measured h)
  · have hrun : Measured s0 (if (chan s v.channel).run.any (fun r => decide (r.state = 2)) then
        abandonCal v.channel (if reason = 4 then 6 else 7) m s else s) := ite_measured (abandonCal_measured h) h
    exact ite_measured hrun (addMark_measured (endMarks_measured (onStandin_measured hrun)))

theorem breakStandins_measured {q : Nat} {m : Int} {reason : Nat} (h : Measured s0 s) :
    Measured s0 (breakStandins q m reason s) := by
  have pos (p : Option StandIn) {t : State} (ht : Measured s0 t) :
      Measured s0 (match p with | some v => breakStandin m reason v t | none => t) := by
    cases p with
    | none => exact ht
    | some v => exact breakStandin_measured ht
  exact pos _ (pos _ h)

/-! ### A transfer and a drain -/

theorem extNext_measured {x : ExtStd} (h : Measured s0 s) : Measured s0 (extNext x s) := by
  unfold extNext
  have hend : Measured s0 { s with cal.ext := none } := h.put _ _ _ rfl
  refine ite_measured (hend.still (answerOr_still ?_)) (h.put _ _ _ rfl)
  exact ite_still (jDone_still (.refl _)) (.refl _)

theorem extLost_measured {l : List Nat} (h : Measured s0 s) : Measured s0 (extLost l s) := by
  unfold extLost
  dsimp only
  split
  · exact h
  · exact ite_measured h (ite_measured (h.put _ _ _ rfl) (extNext_measured h))

theorem drainBegin_measured {q : Nat} (h : Measured s0 s) : Measured s0 (drainBegin q s) := by
  unfold drainBegin
  dsimp only
  refine endInjections_measured (extLost_measured ?_)
  split
  · exact abandonCal_measured h
  · split
    · exact abandonCal_measured h
    · exact h

end

end Sys2Proof.Machine
end

section
/-! SUPPORT. The drain edge, the failed link and the stop of a quire: what each leaves (01 R22, R23, R33; 17 R423, R424). -/

namespace Sys2Proof.Machine

/-- Each step of a loop sets its own number's part and keeps the others': at the end every number's is set. -/
theorem forAll_each {α : Type} {P : α → State → Prop} {f : α → State → State} (hset : ∀ x t, P x (f x t))
    (hkeep : ∀ x y t, P x t → P x (f y t)) {l : List α} {x : α} (hx : x ∈ l) (s : State) : P x (forAll l f s) := by
  induction l generalizing s with
  | nil => cases hx
  | cons y r ih =>
    rw [forAll_cons]
    by_cases hr : x ∈ r
    · exact ih hr _
    · have e : x = y := by simpa [hr] using hx
      exact e ▸ forAll_ind r (fun z t => hkeep y z t) (hset y s)

/-! ### Marks that stand -/

/-- A channel has a mark of a kind that covers a number. -/
def Marked (kind : MarkKind) (m : Int) (c : Nat) (s : State) : Prop :=
  ((chan s c).marks.any fun y => y.kind == kind && y.covers m) = true

theorem addMark_marked {kind : MarkKind} {a m : Int} {l : Option Int} (c : Nat) (s : State)
    (h : ({ kind := kind, first := a, last := l } : Mark).covers m = true) : Marked kind m c (addMark c kind a l s) := by
  obtain ⟨b, hb⟩ := addMark_marks c kind a l s
  have hc : ({ kind := kind, first := a, last := l, atA := b } : Mark).covers m = true := h
  simp [Marked, hb, hc]

theorem addMark_keeps_marked {kind k : MarkKind} {a m : Int} {l : Option Int} (c x : Nat) (s : State)
    (h : Marked kind m c s) : Marked kind m c (addMark x k a l s) := by
  by_cases e : c = x
  · subst e
    obtain ⟨b, hb⟩ := addMark_marks c k a l s
    unfold Marked at *
    rw [hb, List.any_cons, h, Bool.or_true]
  · unfold Marked at *
    rwa [(addMark_onlyChan ..).others c e]

/-! ### The drain edge -/

theorem modCode_mem_quireCodes (q : Nat) {k : Nat} (h : k < 130) : modCode q k ∈ quireCodes q :=
  List.mem_map_of_mem (List.mem_range.mpr h)

/-- The safety island's record of a member changes nothing else. -/
theorem setMember_safe (m : Nat) (v : SMember) (s : State) :
    setMember m v s = { s with safe := (setMember m v s).safe } := by
  unfold setMember; split <;> rfl

theorem setMembers_safe (l : List Nat) (v : Nat → State → SMember) (s : State) :
    ∃ a, forAll l (fun k s => setMember k (v k s) s) s = { s with safe := a } :=
  forAll_ind (P := fun t => ∃ a, t = { s with safe := a }) l
    (by rintro k _ ⟨a, rfl⟩; exact ⟨_, setMember_safe ..⟩) ⟨s.safe, rfl⟩

/-- What the safety island notes besides leaves the records of quires and ensembles. -/
theorem Measured.withSafe {s b : State} (h : Measured s b) (a : Safety) (q : Nat) :
    ServiceSide s { b with safe := a } ∧ State.quires { b with safe := a } = s.quires
      ∧ quire { b with safe := a } q = quire s q ∧ ensOf { b with safe := a } q = ensOf s q
      ∧ State.now { b with safe := a } = s.now :=
  ⟨h.side.trans (Still.refl _), h.quires, h.quire_eq q, h.ensOf_eq q, h.side.now_eq⟩

theorem Marked.withSafe {kind : MarkKind} {m : Int} {c : Nat} {b : State} (h : Marked kind m c b) (a : Safety) :
    Marked kind m c { b with safe := a } := h

/-- From the drain edge on the quire's outputs are marked, its record notes the instant, and the rest is the channels',
the witness's, the calibrations' and the safety island's. -/
theorem drainEdge_spec (q : Nat) (m : Int) (s : State) :
    ∃ t, drainEdge q m s = setQuire q { quire s q with outSince := max 1 s.now, warmHeld := (ensOf s q).warm } t
      ∧ ServiceSide s t ∧ t.quires = s.quires ∧ ∀ k, k < 130 → Marked .out m (modCode q k) t := by
  have hbroken : Measured s (breakStandins q m 5 s) := breakStandins_measured (.refl s)
  unfold drainEdge
  dsimp only
  generalize breakStandins q m 5 s = broken at hbroken ⊢
  have hmarks : Measured s (forAll (quireCodes q) (fun c s => addMark c .out m none s) broken) :=
    forAll_ind (P := Measured s) _ (fun _ _ => addMark_measured) hbroken
  have hout (k : Nat) (hk : k < 130) :
      Marked .out m (modCode q k) (forAll (quireCodes q) (fun c s => addMark c .out m none s) broken) :=
    forAll_each (P := fun c x => Marked .out m c x) (fun c x => addMark_marked c x (by simp [Mark.covers]))
      (fun c x y => addMark_keeps_marked c x y) (modCode_mem_quireCodes q hk) _
  generalize forAll (quireCodes q) (fun c s => addMark c .out m none s) broken = marked at hmarks hout ⊢
  obtain ⟨a, ha⟩ := setMembers_safe ((span (128 * q) 128).flatMap (slotsOf marked))
    (fun k s => { member s k with cause := 1 }) marked
  rw [ha]
  obtain ⟨hside, hquires, hq, he, hn⟩ := hmarks.withSafe a q
  exact ⟨{ marked with safe := a }, by rw [hq, he, hn], hside, hquires, fun k hk => (hout k hk).withSafe a⟩

theorem setQuire_serviceSide {a b : State} (h : ServiceSide a b) (q : Nat) (v : Quire) :
    ServiceSide a (setQuire q v b) := h.trans (Still.refl _)

theorem setWit_serviceSide {a b : State} (h : ServiceSide a b) (q : Nat) (v : Witness) :
    ServiceSide a (setWit q v b) := h.trans (Still.refl _)

@[simp] theorem quire_setQuire_self (q : Nat) (v : Quire) (s : State) : quire (setQuire q v s) q = v :=
  (quire_setQuire ..).trans (if_pos rfl)

theorem quire_setQuire_ne {q k : Nat} (h : k ≠ q) (v : Quire) (s : State) : quire (setQuire q v s) k = quire s k :=
  (quire_setQuire ..).trans (if_neg (Ne.symm h))

@[simp] theorem witOf_setWit_self (q : Nat) (v : Witness) (s : State) : witOf (setWit q v s) q = v :=
  (witOf_setWit ..).trans (if_pos rfl)

theorem witOf_setWit_ne {q k : Nat} (h : k ≠ q) (v : Witness) (s : State) : witOf (setWit q v s) k = witOf s k :=
  (witOf_setWit ..).trans (if_neg (Ne.symm h))

@[simp] theorem quire_setWit (q k : Nat) (v : Witness) (s : State) : quire (setWit q v s) k = quire s k := rfl
@[simp] theorem witOf_setQuire (q k : Nat) (v : Quire) (s : State) : witOf (setQuire q v s) k = witOf s k := rfl

theorem warmEvent_still {s0 s : State} {q old new : Nat} (h : Still s0 s) : Still s0 (warmEvent q old new s) := by
  unfold warmEvent
  exact ite_still h (raise_still h)

/-! ### A link that fails -/

/-- A quire that has not started goes out of service with its witness. -/
theorem neverStarted_spec (q ecode : Nat) (s : State) :
    Still (setWit q { witOf s q with state := 4 } (setQuire q { quire s q with svc := 2, outSince := max 1 s.now } s))
      (neverStarted q ecode s) :=
  warmEvent_still (raiseOnce_still (Still.refl _))

/-- A load or a re-entry that fails changes the quire's record of it. -/
theorem serviceFailed_spec (q ecode : Nat) (s : State) :
    ∃ v, Still (setQuire q v s) (serviceFailed q ecode s)
      ∧ v.lost = (quire s q).lost ∧ v.tries = (quire s q).tries := by
  have told (r : Option Req) {x y : State} (h : Still x y) :
      Still x (match r with | some r => faulted r ecode y | none => y) := by
    cases r with
    | none => exact h
    | some r => exact faulted_still h
  exact ⟨{ quire s q with
    reentry := 0, reentryReq := none, running := false, sweep := false, sweepLeft := [], loading := none,
    loaded := (quire s q).loaded && (quire s q).loading.isNone,
    digest := if (quire s q).loading.isSome ∧ (quire s q).digest ≠ zeros 32 then romDigest
      else (quire s q).digest },
    told _ (told _ (.refl _)), rfl, rfl⟩

/-- A serving quire whose link fails drains at once. -/
theorem linkFailed_drains {q : Nat} {s : State} (hs : (quire s q).svc ≠ 2) (hr : (quire s q).running = true)
    (ho : (quire s q).outSince = 0) :
    ∃ m, linkFailed q s
      = drainEdge q m (drainBegin q (setQuire q { quire s q with svc := 1, drainEdge := none } s)) := by
  unfold linkFailed
  simp only [hs, hr, ho, if_false, not_true_eq_false, ne_eq]
  exact ⟨_, rfl⟩

theorem linkFailed_running {q : Nat} {s : State} (hs : (quire s q).svc ≠ 2) (hr : (quire s q).running = true)
    (ho : (quire s q).outSince = 0) :
    ∃ t w, linkFailed q s = setQuire q
        { quire s q with svc := 1, drainEdge := none, outSince := max 1 s.now, warmHeld := w } t
      ∧ ServiceSide s t ∧ ∀ k, k ≠ q → quire t k = quire s k := by
  obtain ⟨m, e⟩ := linkFailed_drains hs hr ho
  have hb : Measured (setQuire q { quire s q with svc := 1, drainEdge := none } s)
      (drainBegin q (setQuire q { quire s q with svc := 1, drainEdge := none } s)) := drainBegin_measured (.refl _)
  generalize drainBegin q (setQuire q { quire s q with svc := 1, drainEdge := none } s) = b at e hb
  obtain ⟨t, ht, hside, hq, -⟩ := drainEdge_spec q m b
  have hn : b.now = s.now := hb.side.now_eq
  rw [hb.quire_eq, quire_setQuire_self, hn] at ht
  refine ⟨t, (ensOf b q).warm, e.trans ht, (setQuire_serviceSide (.refl s) ..).trans (hb.side.trans hside),
    fun k hk => ?_⟩
  unfold quire
  rw [hq, hb.quires]
  exact quire_setQuire_ne hk ..

theorem linkFailed_idle {q : Nat} {s : State} (hs : (quire s q).svc ≠ 2) (hr : (quire s q).running = false) :
    linkFailed q s = neverStarted q 0x0202 s := by
  unfold linkFailed
  simp only [hs, hr, if_false, not_false_eq_true, if_true, Bool.false_eq_true]

/-- Whatever a failed link does, the other quires, the frames lost and the attempts of frames stand. -/
theorem linkFailed_frame (q : Nat) (s : State) :
    ServiceSide s (linkFailed q s) ∧ (quire (linkFailed q s) q).lost = (quire s q).lost
      ∧ (quire (linkFailed q s) q).tries = (quire s q).tries
      ∧ ∀ k, k ≠ q → quire (linkFailed q s) k = quire s k := by
  have failed {e : Nat} {x : State} (hx : Still s x) : ServiceSide s (serviceFailed q e x)
      ∧ (quire (serviceFailed q e x) q).lost = (quire s q).lost
      ∧ (quire (serviceFailed q e x) q).tries = (quire s q).tries
      ∧ ∀ k, k ≠ q → quire (serviceFailed q e x) k = quire s k := by
    obtain ⟨v, hv, hl, ht⟩ := serviceFailed_spec q e x
    refine ⟨(setQuire_serviceSide hx.serviceSide q v).trans hv.serviceSide, ?_, ?_, fun k hk => ?_⟩
    · rw [hv.quire_eq, quire_setQuire_self, hl, hx.quire_eq]
    · rw [hv.quire_eq, quire_setQuire_self, ht, hx.quire_eq]
    · rw [hv.quire_eq, quire_setQuire_ne hk, hx.quire_eq]
  by_cases hs : (quire s q).svc = 2
  · unfold linkFailed
    simp only [hs, if_true]
    split
    · exact failed (raise_still (.refl s))
    · split
      · exact failed (.refl s)
      · exact ⟨.refl s, rfl, rfl, fun _ _ => rfl⟩
  · by_cases hr : (quire s q).running = true
    · by_cases ho : (quire s q).outSince = 0
      · obtain ⟨t, w, e, ht, hk⟩ := linkFailed_running hs hr ho
        rw [e]
        exact ⟨setQuire_serviceSide ht .., by simp, by simp, fun k h => (quire_setQuire_ne h ..).trans (hk k h)⟩
      · have e : linkFailed q s = s := by
          unfold linkFailed
          simp only [hs, hr, ho, if_false, not_true_eq_false, ne_eq, not_false_eq_true, if_true]
        rw [e]
        exact ⟨.refl s, rfl, rfl, fun _ _ => rfl⟩
    · have hn := neverStarted_spec q 0x0202 s
      rw [linkFailed_idle hs (by simpa using hr)]
      refine ⟨(setWit_serviceSide (setQuire_serviceSide (.refl s) ..) ..).trans hn.serviceSide, ?_, ?_, fun k hk => ?_⟩
      · rw [hn.quire_eq, quire_setWit, quire_setQuire_self]
      · rw [hn.quire_eq, quire_setWit, quire_setQuire_self]
      · rw [hn.quire_eq, quire_setWit, quire_setQuire_ne hk]

end Sys2Proof.Machine
end

section
/-! SUPPORT. Prepares over the sideband, and the drain from its command to the stop of the quire (01 R19, R33; 17 R423,
R424). -/

namespace Sys2Proof.Machine

/-! ### Messages to quires -/

/-- A message to each quire of a list leaves the hub, and nothing else happens. -/
theorem forAll_toQuire (kind arg : Nat) (l : List Nat) (s : State) :
    forAll l (fun q => toQuire q kind arg) s
      = { s with out := (l.map fun q => Out.sideband q kind arg).reverse ++ s.out } := by
  induction l generalizing s with
  | nil => rfl
  | cons q r ih => rw [forAll_cons, ih]; simp [toQuire, emit]

theorem when_toQuire (b : Bool) (kind arg : Nat) (l : State → List Nat) (s : State) :
    ∃ o, when_ b (fun s => forAll (l s) (fun q => toQuire q kind arg) s) s = { s with out := o } := by
  unfold when_; split
  · exact ⟨_, forAll_toQuire ..⟩
  · exact ⟨s.out, rfl⟩

theorem withdraw_still {s0 s : State} {edge : Nat} {on late : List Nat} (h : Still s0 s) :
    Still s0 (withdraw edge on late s) :=
  forAll_still _ (fun _ _ => raise_still (.refl _)) (forAll_still _ (fun _ _ => toQuire_still (.refl _)) h)

theorem withdraw_cz (edge : Nat) (on late : List Nat) (s : State) : (withdraw edge on late s).cz = s.cz :=
  forAll_ind (P := fun t => t.cz = s.cz) _ (fun _ _ h => (raise_cz ..).trans h) (by rw [forAll_toQuire])

/-! ### Acknowledgements (01 R33) -/

/-- The acknowledgement of a quire joins the commits of its edge. -/
def ackCommits (q edge : Nat) (s : State) : State :=
  { s with cz.commits := s.cz.commits.map (fun c => if c.edge = edge then { c with acks := q :: c.acks } else c) }

theorem ackCommits_still (q edge : Nat) (o : List Out) (s : State) : Still s { ackCommits q edge s with out := o } :=
  still_upd (s := s) s.faults s.jrn _ s.host s.store o (.refl s)

/-- An acknowledgement in time where no step of time is prepared: it joins the commits of its edge and the drain of its
quire. -/
theorem prepareAck_eq {q edge : Nat} {s : State} (hd : devNow s ≤ ackLimit edge) (ht : s.time.step = none) :
    ∃ o, prepareAck q edge s =
      if (quire s q).drainEdge = some edge then
        setQuire q { quire s q with drainAcks := q :: (quire s q).drainAcks } { ackCommits q edge s with out := o }
      else { ackCommits q edge s with out := o } := by
  obtain ⟨o, ho⟩ := when_toQuire
    (s.cz.commits.any fun c => decide (c.edge = edge) && !allAcked s c.acks && allAcked s (q :: c.acks)) 3 edge
    servingQuires (ackCommits q edge s)
  refine ⟨o, ?_⟩
  unfold prepareAck
  unfold ackCommits at *
  dsimp only at *
  rw [if_neg (Int.not_lt.mpr hd), ho]
  simp only [ht]
  rfl

/-- The last acknowledgement of a commit sends its apply (log entry 41). -/
theorem prepareAck_out {q edge : Nat} {c : PendCommit} {s : State} (hd : devNow s ≤ ackLimit edge)
    (hc : s.cz.commits = [c]) (he : c.edge = edge) (hmiss : allAcked s c.acks = false)
    (hall : allAcked s (q :: c.acks) = true) :
    (prepareAck q edge s).out = (forAll (servingQuires s) (fun q => toQuire q 3 edge) s).out := by
  have hready : (s.cz.commits.any fun c => decide (c.edge = edge) && !allAcked s c.acks && allAcked s (q :: c.acks))
      = true := by simp [hc, he, hmiss, hall]
  have hserve : servingQuires (ackCommits q edge s) = servingQuires s := rfl
  unfold prepareAck
  unfold ackCommits at hserve
  rw [if_neg (Int.not_lt.mpr hd)]
  dsimp only
  cases hst : s.time.step with
  | none =>
    simp only [hready, hserve, hst, when_, if_true, forAll_toQuire]
    split <;> rfl
  | some x =>
    by_cases hx : x.edge = edge
    · simp only [hready, hserve, hst, hx, when_, if_true, forAll_toQuire]
      split <;> rfl
    · simp only [hready, hserve, hst, hx, when_, if_true, if_false, forAll_toQuire]
      split <;> rfl

theorem prepareAck_late {q edge : Nat} {s : State} (h : ackLimit edge < devNow s) : prepareAck q edge s = s := by
  unfold prepareAck
  rw [if_pos h]

/-! ### The deadline (01 R33) -/

/-- A commit with a quire missing is withdrawn: its blocks go back and nothing else changes. -/
theorem commitLate_spec {c : PendCommit} {s : State} (hc : s.cz.commits = [c]) (hl : lateQuires s c.acks ≠ []) :
    (commitLate c s).cz.commits = [] ∧ Still s (commitLate c s) := by
  unfold commitLate
  dsimp only
  rw [if_neg (by simpa using hl)]
  constructor
  · have hcz := withdraw_cz c.edge (servingQuires s) (lateQuires s c.acks) s
    unfold faultedOr returnItems
    rw [answerOr_commits, onSession_commits]
    simp [hcz, hc]
  · refine answerOr_still (onSession_still (still_upd _ _ _ _ _ _ ?_))
    exact withdraw_still (.refl s)

theorem stepLate_none {edge : Nat} {s : State} (h : s.time.step = none) : stepLate edge s = s := by
  unfold stepLate
  rw [h]

theorem drainLate_idle {edge q : Nat} {s : State} (h : (quire s q).svc ≠ 1) : drainLate edge q s = s := by
  unfold drainLate
  dsimp only
  rw [if_neg fun k => h k.2.1]

/-- At the deadline of a commit with a quire missing, no step and no drain prepared, that commit alone is withdrawn. -/
theorem prepareDeadline_commit {c : PendCommit} {edge : Nat} {s : State} (hd : ackLimit edge ≤ devNow s)
    (hc : s.cz.commits = [c]) (he : c.edge = edge) (hl : lateQuires s c.acks ≠ []) (ht : s.time.step = none)
    (hq : ∀ q, q < s.part.quires → (quire s q).svc = 0) :
    (prepareDeadline edge s).cz.commits = [] ∧ Still s (prepareDeadline edge s) := by
  obtain ⟨h1, h2⟩ := commitLate_spec hc hl
  have hfold : (s.cz.commits.filter (·.edge == edge)).foldl (fun s c => commitLate c s) s = commitLate c s := by
    simp [hc, he]
  have hidle : forAll (quireList (commitLate c s)) (drainLate edge) (commitLate c s) = commitLate c s := by
    have hsvc (q : Nat) (hm : q ∈ quireList (commitLate c s)) : (quire (commitLate c s) q).svc ≠ 1 := by
      have hlt : q < s.part.quires := by rw [← h2.part]; exact List.mem_range.mp hm
      rw [h2.quire_eq, hq q hlt]
      decide
    unfold forAll
    exact List.foldlRecOn _ _ (motive := fun t => t = commitLate c s) rfl
      fun t e q hm => by rw [e]; exact drainLate_idle (hsvc q hm)
  have e : prepareDeadline edge s = commitLate c s := by
    unfold prepareDeadline
    rw [if_neg (Int.not_lt.mpr hd)]
    dsimp only
    rw [hfold, stepLate_none (by rw [h2.time, ht]), hidle]
  rw [e]
  exact ⟨h1, h2⟩

/-! ### The edge of a drain (17 R424) -/

/-- The edge of a drain that was acknowledged. -/
theorem drainAt_acked {q e : Nat} {s : State} (he : (quire s q).drainEdge = some e) (hs : (quire s q).svc = 1)
    (ho : (quire s q).outSince = 0) (ha : (quire s q).drainAcks ≠ []) (hd : ((e * strobeU : Nat) : Int) ≤ devNow s) :
    drainAt q s = drainEdge q ((e / 25 : Nat) : Int) s := by
  unfold drainAt
  simp only [he]
  rw [if_pos ⟨hs, ho, hd⟩, if_neg (by simpa using ha)]

/-- A drain that was not acknowledged is withdrawn. -/
theorem drainAt_unacked {q e : Nat} {s : State} (he : (quire s q).drainEdge = some e) (hs : (quire s q).svc = 1)
    (ho : (quire s q).outSince = 0) (ha : (quire s q).drainAcks = []) (hd : ((e * strobeU : Nat) : Int) ≤ devNow s) :
    Still (setQuire q { quire s q with svc := 0, drainEdge := none, drainReq := none } s) (drainAt q s) := by
  unfold drainAt
  simp only [he]
  rw [if_pos ⟨hs, ho, hd⟩, if_pos (by simp [ha])]
  unfold drainLate
  dsimp only
  rw [if_pos ⟨he, hs, ho, by simp [ha]⟩]
  split
  · exact faulted_still (withdraw_still (.refl _))
  · exact withdraw_still (.refl _)

/-! ### The stop (17 R424) -/

/-- A comparison that ends leaves the ensembles and everything but the manager's own list of requests. -/
theorem compDone_spec (q : Nat) (ran : Bool) (s : State) :
    ∃ cal, cal.ens = s.cal.ens ∧ Still { s with cal := cal } (compDone q ran s) := by
  refine ⟨_, ?_, foldl_still _ (fun _ _ => answer_still (.refl _)) (.refl _)⟩
  rfl

/-- The quire's record, its witness and its comparison after the stop; the rest is reports. -/
theorem quireStop_spec (q : Nat) (s : State) :
    ∃ cal, cal.ens = s.cal.ens.put q { ensOf s q with comparing := 0 }
      ∧ Still { setWit q { witOf s q with state := 4 } (setQuire q
            { quire s q with svc := 2, running := false, drainReq := none, drainEdge := none, drainAcks := [] } s)
          with cal := cal } (quireStop q s) := by
  obtain ⟨cal, hens, hstill⟩ := compDone_spec q false (setEns q { ensOf s q with comparing := 0 }
    (setWit q { witOf s q with state := 4 }
      (setQuire q { quire s q with svc := 2, running := false, drainReq := none, drainEdge := none, drainAcks := [] } s)))
  refine ⟨cal, hens, ?_⟩
  unfold quireStop
  dsimp only
  have hwarm := warmEvent_still (q := q) (old := warmCode s q) (new := 6) (raiseOnce_still (e := evL 0x0202 q) hstill)
  split
  · exact hwarm
  · exact answerOr_still hwarm

theorem stopAt_due {q : Nat} {s : State} (hs : (quire s q).svc = 1) (ho : (quire s q).outSince ≠ 0)
    (hn : (quire s q).outSince + msU ≤ s.now) : stopAt q s = quireStop q s := by
  unfold stopAt
  dsimp only
  rw [if_pos ⟨hs, ho, hn⟩]

/-! ### The command of a drain (14 R370) -/

/-- The drain of a quire that may leave: its record, and what step 1 ends. -/
theorem quireDrain_spec {p : Packet} {v : Session} {q : Nat} {u : State}
    (ha : Accepted 0x0B05 p quireRole (Machine.quireOk 0) v u) (hq : q = (request 0x0B05 p v u).f 0 1)
    (hs : (quire (takenState p v u) q).svc = 0) (hb : serviceBusy (takenState p v u) = false)
    (hm : (takenState p v u).conv.simul = none) (hp : pairsSpared (takenState p v u) q = true) :
    ∃ x, Measured x (receive 0x0B05 p drainServe u) ∧ Still (setQuire q
      { quire (takenState p v u) q with
        svc := 1, drainEdge := some (25 * (sincCeil (devNow (takenState p v u) + (msU : Int))).toNat),
        drainReq := some (request 0x0B05 p v u), drainAcks := [], outSince := 0 } (takenState p v u)) x := by
  unfold drainServe
  rw [serve_accepted _ ha]
  generalize request 0x0B05 p v u = r at hq
  generalize takenState p v u = z at *
  subst hq
  dsimp only
  have hj : Still z (jCommand r true 1 r.params z) := jCommand_still (.refl z)
  rw [if_neg (by rw [hs]; decide), if_neg (by simp [hb, hm, hp]), hj.quire_eq]
  refine ⟨_, drainBegin_measured (.refl _), toQuire_still (queued_still ?_)⟩
  exact hj.onQuire ..

/-- Settles O26: each command is its operation at the command's instant, and what the operation leaves says the rest. -/
theorem drainsAndPrepares : Obligations.DrainsAndPrepares := by
  unfold Obligations.DrainsAndPrepares
  refine ⟨?drain, ?ack, ?apply, ?late, ?deadline, ?edge, ?unacked, ?stop⟩
  case drain =>
    rintro at_ p v r z q s u rfl ha rfl rfl hq hs hb hm hp
    obtain ⟨x, hx, hz⟩ := quireDrain_spec ha hq hs hb hm hp
    have hrec (k : Nat) := (hx.quire_eq k).trans (hz.quire_eq k)
    have hself := (hrec q).trans (quire_setQuire_self ..)
    refine ⟨_, rfl, by rw [hself], by rw [hself], by rw [hself],
      fun k hk => (hrec k).trans (quire_setQuire_ne hk ..), ?_⟩
    have hside := ((setQuire_serviceSide (.refl _) ..).trans hz.serviceSide).trans hx.side
    exact hside.of_safe (hx.safe.trans (hz.safe.trans (setQuire_safe ..)))
  case ack =>
    rintro at_ q edge s u rfl hd ht
    obtain ⟨o, e⟩ := prepareAck_eq (q := q) hd ht
    refine ⟨_, rfl, ?_⟩
    rw [e]
    by_cases he : (quire (s.tick at_) q).drainEdge = some edge
    · rw [if_pos he, if_pos he]
      exact ⟨rfl, by rw [quire_setQuire_self], (ackCommits_still ..).onQuire ..⟩
    · rw [if_neg he, if_neg he]
      exact ⟨rfl, rfl, ackCommits_still ..⟩
  case apply =>
    rintro at_ c q edge s u rfl hd hc he hmiss hall
    exact ⟨_, rfl, prepareAck_out hd hc he hmiss hall⟩
  case late =>
    rintro at_ q edge s u rfl hd
    exact congrArg Host.Outcome.next (prepareAck_late hd)
  case deadline =>
    rintro at_ c edge s u rfl hd hc he hl ht hq
    exact ⟨_, rfl, prepareDeadline_commit hd hc he hl ht hq⟩
  case edge =>
    rintro at_ q e s u rfl he hs ho ha hd
    obtain ⟨t, ht, hside, hq, hout⟩ := drainEdge_spec q ((e / 25 : Nat) : Int) (s.tick at_)
    refine ⟨_, congrArg Host.Outcome.next ((drainAt_acked he hs ho ha hd).trans ht), quire_setQuire_self .., hout, ?_⟩
    exact setQuire_serviceSide hside ..
  case unacked =>
    rintro at_ q e s u rfl he hs ho ha hd
    have h := drainAt_unacked he hs ho ha hd
    refine ⟨_, rfl, (h.quire_eq q).trans (quire_setQuire_self ..),
      fun k hk => (h.quire_eq k).trans (quire_setQuire_ne hk ..), ?_⟩
    rw [h.quires]
    exact h
  case stop =>
    rintro at_ q s u rfl hs ho hn
    obtain ⟨cal, hens, h⟩ := quireStop_spec q (s.tick at_)
    have hself : quire (quireStop q (s.tick at_)) q = _ := (h.quire_eq q).trans (quire_setQuire_self ..)
    refine ⟨_, congrArg Host.Outcome.next (stopAt_due hs ho hn), by rw [hself], by rw [hself], ?_, ?_,
      fun k hk => (h.quire_eq k).trans (quire_setQuire_ne hk ..), ?_⟩
    · rw [h.witOf_eq]
      exact congrArg Witness.state (witOf_setWit_self ..)
    · rw [h.ensOf_eq]
      unfold ensOf
      rw [hens, Tab.get_put, if_pos rfl]
    · rw [h.quires, h.wit, h.cal]
      exact h

end Sys2Proof.Machine
end

section
/-! SUPPORT. A sinc period closes: its outputs enter, its temperatures and freed positions follow, and the rest stands
(01 R29; 04 R105; 06 R153). -/

namespace Sys2Proof.Machine

/-! ### Ranges that are named -/

theorem nameDegraded_still {s0 s : State} {n reason q first last : Nat} (h : Still s0 s) :
    Still s0 (nameDegraded n reason q first last s) := by
  unfold nameDegraded
  exact ite_still h (setStream_still (dueGap_still h))

theorem lossGaps_still {s0 s : State} {reason q : Nat} {m : Int} (h : Still s0 s) :
    Still s0 (lossGaps reason q m s) :=
  forAll_still _ (fun _ _ => foldl_still _ (fun _ _ => nameDegraded_still (.refl _)) (.refl _)) h

/-! ### A period closes -/

/-- Channels, witnesses and the calibration manager change. -/
theorem CalSide.put {a b : State} (h : CalSide a b) (chans : Tab Chan) (wit : Tab Witness) (cal : Cal) :
    CalSide a { b with chans := chans, wit := wit, cal := cal } := h.trans ⟨Still.refl _, rfl, rfl⟩

theorem ite_calSide {p : Prop} [Decidable p] {s0 a b : State} (ha : CalSide s0 a) (hb : CalSide s0 b) :
    CalSide s0 (if p then a else b) := by split <;> assumption

theorem ChansOnly.calSide {s0 s t : State} (h : CalSide s0 s) (k : ChansOnly s t) : CalSide s0 t := by
  unfold ChansOnly at k
  rw [k]
  exact h.put _ _ _

theorem closeTemps_calSide {s0 s : State} {q : Nat} {m : Int} {oq : Option OpenQuire} (h : CalSide s0 s) :
    CalSide s0 (closeTemps q m oq s) := by
  have far (b : Bool) (w : Witness) : CalSide s0 (if b then setWit q w s else s) := by
    split
    · exact h.put _ _ _
    · exact h
  unfold closeTemps
  dsimp only
  split
  · exact h.put _ _ _
  · exact (far _ _).put _ _ _

theorem freePositions_calSide {s0 s : State} {q : Nat} {m : Int} (h : CalSide s0 s) :
    CalSide s0 (freePositions q m s) := by
  unfold freePositions
  exact ite_calSide h (h.put _ _ _)

theorem closeQuire_calSide {s0 s f : State} {m : Int} {o : Option OpenPeriod} {q : Nat} (h : CalSide s0 s) :
    CalSide s0 (closeQuire f m o q s) := by
  have hchans : CalSide s0 (forAll (List.range 130)
      (fun k s => closeChan f m (o.bind fun p => p.quires.find? fun x => x.quire == q) (modCode q k) k s) s) :=
    forAll_ind (P := CalSide s0) _ (fun _ _ ht => (closeChan_onlyChan ..).rest.calSide ht) h
  have hfree {lost : Bool} {t : State} (ht : CalSide s0 t) :
      CalSide s0 (freePositions q m (when_ lost (lossGaps 3 q m) t)) :=
    freePositions_calSide (ht.trans (when_still (fun _ => lossGaps_still (.refl _)) (.refl t)).calSide)
  unfold closeQuire
  exact ite_calSide (closeTemps_calSide (hfree hchans)) (hfree hchans)

/-- A period that closes is the last closed one, and no open one is at or before it. -/
theorem closeOne_spec (m : Int) (s : State) :
    ∃ t, CalSide s t ∧ closeOne m s = { t with
      conv := { s.conv with opens := s.conv.opens.filter fun p => decide (m < p.number), closed := some m } } := by
  have h : CalSide s (forAll (quireList s) (closeQuire (s.at m) m (s.conv.opens.find? fun p => p.number == m)) s) :=
    forAll_ind (P := CalSide s) _ (fun _ _ => closeQuire_calSide) (.refl s)
  unfold closeOne
  dsimp only
  generalize forAll (quireList s) (closeQuire (s.at m) m (s.conv.opens.find? fun p => p.number == m)) s = t at h ⊢
  exact ⟨t, h, by rw [h.still.conv]⟩

/-- The period that is due closes alone where the one before it is the last closed one, or none is. -/
theorem periodClose_one {m : Int} {x : OpenPeriod} {s : State} (hx : s.conv.opens.find? (fun y => y.number == m) = some x)
    (hd : arrived s x = true ∨ x.firstAt + 8 * sincU ≤ s.now)
    (hc : s.conv.closed = none ∨ s.conv.closed = some (m - 1)) : periodClose m s = closeOne m s := by
  unfold periodClose
  simp only [hx]
  rw [if_pos hd]
  rcases hc with hc | hc <;> simp [hc]

end Sys2Proof.Machine
end

section
/-! SUPPORT. Frames of a stitch link: which quire's record and which open period each changes, and what an injection's
result finds (01 R20 to R22; 04 R93, R103). -/

namespace Sys2Proof.Machine

/-! ### What the slots of a witness rest on: no frame and no open period (04 R97 to R105) -/

section
variable (s : State) (qs : Tab Quire) (c : Conv) (q : Nat)

theorem place_frame (ps : List (Int × Int)) (t len : Int) :
    place { s with quires := qs, conv := c } q ps t len = place s q ps t len := rfl

theorem timedNext_frame (ps : List (Int × Int)) (j : Injection) (h : Int) (n : Nat) (e : Int) :
    timedNext { s with quires := qs, conv := c } q ps j h n e = timedNext s q ps j h n e := by
  unfold timedNext
  simp only [place_frame]

theorem timedSpans_frame (ps : List (Int × Int)) (j : Injection) (h : Int) (k n : Nat) (e : Int) :
    timedSpans { s with quires := qs, conv := c } q ps j h k n e = timedSpans s q ps j h k n e := by
  induction k generalizing n e with
  | zero => rfl
  | succ k ih =>
    unfold timedSpans
    rw [timedNext_frame]
    simp only [ih]

theorem timedBusy_frame (t : Int) (skip : Nat) :
    timedBusy { s with quires := qs, conv := c } q t skip = timedBusy s q t skip := by
  unfold timedBusy
  simp only [timedSpans_frame]
  rfl

theorem rrStart_frame (busy : Int → List (Int × Int)) (len : Int) (n : Nat) (p : Int) :
    rrStart { s with quires := qs, conv := c } q busy len n p = rrStart s q busy len n p := by
  induction n generalizing p with
  | zero => rfl
  | succ n ih =>
    unfold rrStart
    simp only [place_frame, ih]
    rfl

theorem rrLen_frame (k n : Nat) : rrLen { s with quires := qs, conv := c } q k n = rrLen s q k n := by
  induction k generalizing n with
  | zero => rfl
  | succ k ih =>
    unfold rrLen
    simp only [ih]
    rfl

theorem busyUntil_frame (t : Int) : busyUntil { s with quires := qs, conv := c } q t = busyUntil s q t := by
  unfold busyUntil
  simp only [rrLen_frame, rrStart_frame, timedBusy_frame]
  rfl

theorem nodeSpans_frame (n : Nat) (t : Int) : nodeSpans { s with quires := qs, conv := c } q n t = nodeSpans s q n t := by
  induction n generalizing t with
  | zero => rfl
  | succ n ih =>
    unfold nodeSpans
    simp only [timedBusy_frame, place_frame, ih]

theorem queueBusy_frame (t : Int) : queueBusy { s with quires := qs, conv := c } q t = queueBusy s q t := by
  unfold queueBusy testSpans
  simp only [timedBusy_frame, nodeSpans_frame, busyUntil_frame]
  rfl

end

section
variable {s : State} {qs : Tab Quire} {c : Conv} (hq : ∀ q, (qs.get q default).svc = (quire s q).svc)
  (hc : c.simul = s.conv.simul) (q : Nat)

include hq hc in
theorem calTurn_frame : calTurn { s with quires := qs, conv := c } q = calTurn s q := by
  have h1 : (quire { s with quires := qs, conv := c } q).svc = (quire s q).svc := hq q
  unfold calTurn
  rw [h1, show State.conv { s with quires := qs, conv := c } = c from rfl, hc]
  rfl

include hq in
theorem witAsked_frame : witAsked { s with quires := qs, conv := c } q = witAsked s q := by
  have h1 : inService { s with quires := qs, conv := c } q = inService s q := by
    unfold inService
    rw [show (quire { s with quires := qs, conv := c } q).svc = (quire s q).svc from hq q]
  unfold witAsked
  rw [h1]
  rfl

include hq hc in
theorem queueAsked_frame : queueAsked { s with quires := qs, conv := c } q = queueAsked s q := by
  unfold queueAsked calAsked calReady
  rw [calTurn_frame hq hc, witAsked_frame hq]
  rfl

include hq hc in
theorem fifoHead_frame : fifoHead { s with quires := qs, conv := c } q = fifoHead s q := by
  unfold fifoHead
  rw [queueAsked_frame hq hc]
  rfl

include hq hc in
theorem fifoSlot_frame : fifoSlot { s with quires := qs, conv := c } q = fifoSlot s q := by
  unfold fifoSlot
  rw [fifoHead_frame hq hc]
  simp only [busyUntil_frame, queueBusy_frame, place_frame]
  rfl

include hq hc in
/-- Where an injection's next conversion lies rests on which quires serve and on no frame. -/
theorem injectSlot_frame (j : Injection) : injectSlot { s with quires := qs, conv := c } q j = injectSlot s q j := by
  unfold injectSlot
  rw [fifoHead_frame hq hc, fifoSlot_frame hq hc]
  simp only [timedBusy_frame, timedNext_frame]
  rfl

end

/-! ### Frames that arrive whole -/

/-- Nothing but the quires' records of their links and the open periods differ; which quires serve stands. -/
def FrameSide (s t : State) : Prop :=
  ∃ qs c, t = { s with quires := qs, conv := c } ∧ (∀ k, (qs.get k default).svc = (quire s k).svc)
    ∧ c.simul = s.conv.simul

theorem ite_frameSide {p : Prop} [Decidable p] {s a b : State} (ha : FrameSide s a) (hb : FrameSide s b) :
    FrameSide s (if p then a else b) := by split <;> assumption

theorem setQuire_frameSide {q : Nat} {v : Quire} {s : State} (h : v.svc = (quire s q).svc) :
    FrameSide s (setQuire q v s) := by
  refine ⟨_, s.conv, rfl, fun k => ?_, rfl⟩
  rw [Tab.get_put]
  split
  · next e => rw [h, e]
  · rfl

theorem setConv_frameSide {c : Conv} {s : State} (h : c.simul = s.conv.simul) : FrameSide s { s with conv := c } :=
  ⟨s.quires, c, rfl, fun _ => rfl, h⟩

theorem FrameSide.trans {a b d : State} (h : FrameSide a b) (k : FrameSide b d) : FrameSide a d := by
  obtain ⟨qs, c, rfl, h1, h2⟩ := h
  obtain ⟨qs', c', rfl, k1, k2⟩ := k
  exact ⟨qs', c', rfl, fun q => (k1 q).trans (h1 q), k2.trans h2⟩

theorem FrameSide.svc_eq {s t : State} (h : FrameSide s t) (q : Nat) : (quire t q).svc = (quire s q).svc := by
  obtain ⟨qs, c, rfl, h1, -⟩ := h
  exact h1 q

theorem frameReplayed_frameSide (q seq : Nat) (s : State) : FrameSide s (frameReplayed q seq s) := by
  unfold frameReplayed
  dsimp only
  split
  · exact setQuire_frameSide rfl
  · exact setConv_frameSide rfl

theorem takeFrame_frameSide (f : StitchFrame) (s : State) : FrameSide s (takeFrame f s) :=
  ite_frameSide (setQuire_frameSide rfl) (ite_frameSide (setConv_frameSide rfl) (setConv_frameSide rfl))

theorem frameReplayed_none {q seq : Nat} {s : State} (h : (quire s q).tries = []) : frameReplayed q seq s = s := by
  unfold frameReplayed
  simp [h]

/-- The first frame of a period opens it. -/
theorem takeFrame_first {f : StitchFrame} {s : State} (hc : s.conv.closed = none) (ho : s.conv.opens = []) :
    takeFrame f s = { s with conv.opens := [{
      number := unwrapPeriod s f.period, firstAt := s.now,
      quires := [{
        quire := f.quire, outs := f.outputs, standins := f.standins, temps := f.temps, common := f.common }] }] } := by
  have htemps : (if f.temps.isSome then f.temps else none) = f.temps := by cases f.temps <;> rfl
  unfold takeFrame
  simp only [hc, ho, List.any_nil, Bool.false_eq_true, if_false, List.nil_append]
  congr

/-- A frame of a closed period counts as late and does no more (log entry 38). -/
theorem takeFrame_late {f : StitchFrame} {s : State} {k : Int} (hc : s.conv.closed = some k)
    (hm : unwrapPeriod s f.period ≤ k) :
    takeFrame f s = setQuire f.quire { quire s f.quire with late := ((quire s f.quire).late + 1) % 2 ^ 32 } s := by
  unfold takeFrame
  simp only [hc, hm, decide_true, if_true]

/-- The raw result of an injection's next conversion, whose slot has ended, joins its results. -/
theorem injectTaken_done {q id : Nat} {raw a x : Int} {j : Injection} {s : State}
    (hj : (witOf s q).injections.find? (·.id == id) = some j) (hm : witMode s q = 1) (hd : j.done.length < j.count)
    (hslot : injectSlot s q j = some (a, x)) (hx : x + 37 ≤ nowTick s) :
    injectTaken q s (id, raw) = setWit q { witOf s q with
      slotEnd := max (witOf s q).slotEnd (x + 37)
      injections := (witOf s q).injections.map fun k => if k.id = id then { k with done := k.done ++ [convert s j.channel x
        (decide (j.start ≠ 0) && (match j.done.getLast? with | none => j.hold | some v => some ((v.instant : Int) + 50)).any
          (· != x)) raw] } else k } s := by
  unfold injectTaken
  simp only [hj, hslot]
  exact if_neg (by omega)

/-! ### Frames that come in (01 R20 to R22) -/

theorem frameIn_good {f : StitchFrame} {s : State} (hq : f.quire < s.part.quires)
    (hr : (quire s f.quire).running = true) (hs : (quire s f.quire).svc < 2) (hc : crc32c f.body = f.crc) :
    frameIn f s = takeInjected f (takeFrame f (frameReplayed f.quire f.seq s)) := by
  have h2 : (quire (frameReplayed f.quire f.seq s) f.quire).svc < 2 := by
    rwa [(frameReplayed_frameSide ..).svc_eq]
  unfold frameIn
  dsimp only
  rw [if_neg (by simp [hr, hq]), if_neg (by simp [hc]), if_pos h2]

theorem frameIn_bad {f : StitchFrame} {s : State} (hq : f.quire < s.part.quires)
    (hr : (quire s f.quire).running = true) (hc : crc32c f.body ≠ f.crc) : frameIn f s = frameFails f s := by
  unfold frameIn
  dsimp only
  rw [if_neg (by simp [hr, hq]), if_pos hc]

/-- The result that a good frame brings is taken where the frame left the quires' records and the open periods. -/
theorem frameIn_injected {f : StitchFrame} {id : Nat} {raw a x : Int} {j : Injection} {s : State}
    (hq : f.quire < s.part.quires) (hr : (quire s f.quire).running = true) (hs : (quire s f.quire).svc < 2)
    (hc : crc32c f.body = f.crc) (hi : f.injected = [(id, raw)])
    (hj : (witOf s f.quire).injections.find? (·.id == id) = some j) (hm : witMode s f.quire = 1)
    (hd : j.done.length < j.count) (hslot : injectSlot s f.quire j = some (a, x)) (hx : x + 37 ≤ nowTick s) :
    ∃ qs c, frameIn f s = setWit f.quire { witOf s f.quire with
      slotEnd := max (witOf s f.quire).slotEnd (x + 37)
      injections := (witOf s f.quire).injections.map fun k => if k.id = id then { k with done := k.done ++ [convert s
        j.channel x (decide (j.start ≠ 0) && (match j.done.getLast? with
          | none => j.hold | some v => some ((v.instant : Int) + 50)).any (· != x)) raw] } else k }
      { s with quires := qs, conv := c } := by
  obtain ⟨qs, c, e, hsvc, hsim⟩ := (frameReplayed_frameSide f.quire f.seq s).trans (takeFrame_frameSide f _)
  refine ⟨qs, c, ?_⟩
  rw [frameIn_good hq hr hs hc, e]
  unfold takeInjected
  rw [hi]
  exact injectTaken_done hj hm hd ((injectSlot_frame hsvc hsim f.quire j).trans hslot) hx

/-! ### Frames that fail (01 R21, R22) -/

/-- A first failure asks for a replay. -/
theorem frameFails_first {f : StitchFrame} {s : State}
    (ht : ((quire s f.quire).tries.find? fun x => x.1 == f.seq) = none) :
    frameFails f s = toQuire f.quire 0 f.seq (setQuire f.quire { quire s f.quire with
      crcFails := ((quire s f.quire).crcFails + 1) % 2 ^ 32, replays := ((quire s f.quire).replays + 1) % 2 ^ 32,
      tries := (f.seq, 1, s.now) :: (quire s f.quire).tries } s) := by
  unfold frameFails
  simp only [ht]

/-- A third failure loses the frame. -/
theorem frameFails_third {f : StitchFrame} {a : Nat} {s : State}
    (ht : ((quire s f.quire).tries.find? fun x => x.1 == f.seq) = some (f.seq, 2, a)) :
    frameFails f s = loseFrame f.quire f.seq (setQuire f.quire
      { quire s f.quire with crcFails := ((quire s f.quire).crcFails + 1) % 2 ^ 32 } s) := by
  unfold frameFails
  simp only [ht]

/-- A lost frame counts once and its attempts are forgotten, whether or not its link fails with it. -/
theorem loseFrame_spec (q seq : Nat) (s : State) :
    ServiceSide s (loseFrame q seq s) ∧ (quire (loseFrame q seq s) q).lost = ((quire s q).lost + 1) % 2 ^ 32
      ∧ (quire (loseFrame q seq s) q).tries = (quire s q).tries.filter (fun x => x.1 != seq)
      ∧ ∀ k, k ≠ q → quire (loseFrame q seq s) k = quire s k := by
  unfold loseFrame
  dsimp only
  generalize (s.now, seq) :: (quire s q).lossAt.filter (fun x => decide (s.now < x.1 + secU)) = l
  generalize hv : ({ quire s q with
    lost := ((quire s q).lost + 1) % 2 ^ 32, lossAt := l,
    tries := (quire s q).tries.filter fun x => x.1 != seq } : Quire) = v
  have hlost : v.lost = ((quire s q).lost + 1) % 2 ^ 32 := by rw [← hv]
  have htries : v.tries = (quire s q).tries.filter (fun x => x.1 != seq) := by rw [← hv]
  generalize evB 0x0201 q _ = e
  have hraise : Still (setQuire q v s) (raise e (setQuire q v s)) := raise_still (.refl _)
  generalize raise e (setQuire q v s) = t at hraise ⊢
  have hside : ServiceSide s t := (setQuire_serviceSide (.refl s) q v).trans hraise.serviceSide
  have hself : quire t q = v := (hraise.quire_eq q).trans (quire_setQuire_self ..)
  have hothers (k : Nat) (hk : k ≠ q) : quire t k = quire s k := (hraise.quire_eq k).trans (quire_setQuire_ne hk ..)
  split
  · obtain ⟨h1, h2, h3, h4⟩ := linkFailed_frame q t
    exact ⟨hside.trans h1, by rw [h2, hself, hlost], by rw [h3, hself, htries],
      fun k hk => (h4 k hk).trans (hothers k hk)⟩
  · exact ⟨hside, by rw [hself, hlost], by rw [hself, htries], hothers⟩

end Sys2Proof.Machine
end

section
/-! SUPPORT. A crossing that is full, and the measurement of a quire's round trip (01 R18, R25). -/

namespace Sys2Proof.Machine

/-! ### A crossing that is full (log entry 39) -/

theorem loseOutput_chansOnly (m : Int) (c : Nat) (s : State) : ChansOnly s (loseOutput m c s) := by
  unfold loseOutput
  dsimp only
  split
  · exact (setChan_chansOnly ..).trans (addMark_onlyChan ..).rest
  · exact (addMark_onlyChan ..).rest

theorem loseOutput_marked (m : Int) (c : Nat) (s : State) : Marked .lost m c (loseOutput m c s) :=
  addMark_marked c _ (by simp [Mark.covers])

theorem loseOutput_keeps_marked (m : Int) (c x : Nat) (s : State) (h : Marked .lost m c s) :
    Marked .lost m c (loseOutput m x s) := by
  unfold loseOutput
  refine addMark_keeps_marked c x _ ?_
  split
  · by_cases e : c = x
    · subst e
      unfold Marked at *
      rwa [chan_setChan_self]
    · unfold Marked at *
      rwa [(setChan_onlyChan ..).others c e]
  · exact h

/-- The modulators' side: every output of the quire of the period is lost, and nothing else changes. -/
theorem crossingFull_modulators {q : Nat} {m : Int} {s : State} (hs : inService s q = true) :
    (∀ k, k < 130 → Marked .lost m (modCode q k) (crossingFull 0 q m s))
      ∧ Still { s with chans := (crossingFull 0 q m s).chans } (crossingFull 0 q m s) := by
  have hraise : Still s (raise (evB 0x0204 q (le 1 0 ++ le 1 q ++ zeros 6)) s) := raise_still (.refl s)
  have e : crossingFull 0 q m s = lossGaps 4 q m
      (forAll (quireCodes q) (loseOutput m) (raise (evB 0x0204 q (le 1 0 ++ le 1 q ++ zeros 6)) s)) := by
    have hcodes : (quireCodes q).isEmpty = false := rfl
    have hgo : ¬ (¬ inService (raise (evB 0x0204 q (le 1 0 ++ le 1 q ++ zeros 6)) s) q = true
        ∨ (quireCodes q).isEmpty = true) := by
      rw [hraise.inService_eq, hs, hcodes]
      decide
    unfold crossingFull
    dsimp only
    rw [if_pos rfl, if_neg hgo]
  rw [e]
  generalize raise (evB 0x0204 q (le 1 0 ++ le 1 q ++ zeros 6)) s = r at hraise
  have hchans : ChansOnly r (forAll (quireCodes q) (loseOutput m) r) :=
    forAll_ind (P := ChansOnly r) _ (fun _ _ h => h.trans (loseOutput_chansOnly ..)) (.refl r)
  have hlost (k : Nat) (hk : k < 130) : Marked .lost m (modCode q k) (forAll (quireCodes q) (loseOutput m) r) :=
    forAll_each (P := fun c x => Marked .lost m c x) (loseOutput_marked m) (loseOutput_keeps_marked m)
      (modCode_mem_quireCodes q hk) r
  generalize forAll (quireCodes q) (loseOutput m) r = x at hchans hlost ⊢
  have hgaps : Still x (lossGaps 4 q m x) := lossGaps_still (.refl x)
  generalize lossGaps 4 q m x = t at hgaps ⊢
  refine ⟨fun k hk => ?_, ?_⟩
  · have h := hlost k hk
    unfold Marked at *
    rwa [hgaps.chan_eq]
  · have hx := hchans.still
    have h := ((hraise.calSide.trans (hchans.calSide (.refl r))).trans hgaps.calSide).still
    rw [hgaps.wit, hgaps.cal, hx.wit, hx.cal, hraise.wit, hraise.cal] at h
    exact h

/-- A lane's side: nothing that the state holds is lost. -/
theorem crossingFull_lane {x q : Nat} {m : Int} {s : State} (hx : 2 ≤ x) :
    crossingFull x q m s = raise (evB 0x0204 q (le 1 x ++ le 1 q ++ zeros 6)) s := by
  unfold crossingFull
  dsimp only
  rw [if_neg (by omega : ¬ x = 0), if_neg (by omega : ¬ x = 1), if_pos (by simp)]

/-! ### Deskew (01 R25) -/

section
variable {q : Nat} {need : Int} {s : State}

theorem measurable_quire (hq : q < s.part.quires) (ht : s.time.rawStart.isSome = true) :
    ¬ (s.part.quires ≤ q ∨ s.time.rawStart.isNone = true) := by
  rintro (h | h)
  · omega
  · rw [Option.isNone_iff_eq_none.mp h] at ht; cases ht

theorem deskew_crown (hq : q < s.part.quires) (ht : s.time.rawStart.isSome = true) (hr : (quire s q).reentry ≠ 1)
    (hs : (quire s q).svc ≠ 2) (hn : (quire s q).running = true) (hb : s.boot.stage = 3)
    (ha : (quire s q).deskewAt = 0 ∨ (quire s q).deskewAt + secU ≤ s.now) :
    deskew q need s = if ((4 * (quire s q).delay : Nat) : Int) + 10 < need then
        setQuire q { quire s q with delay := min 255 ((quire s q).delay + 1), deskewAt := max 1 s.now } s
      else if need + 10 < ((4 * (quire s q).delay : Nat) : Int) then
        setQuire q { quire s q with delay := (quire s q).delay - 1, deskewAt := max 1 s.now } s
      else s := by
  unfold deskew
  dsimp only
  rw [if_neg (measurable_quire hq ht), if_neg hr, if_neg hs, if_neg (by simp [hn]), if_neg (by omega)]

/-- Between two steps, and before Crown, a quire that runs keeps its delay. -/
theorem deskew_waits (hr : (quire s q).reentry ≠ 1) (hn : (quire s q).running = true)
    (hb : s.boot.stage ≠ 3 ∨ ((quire s q).deskewAt ≠ 0 ∧ s.now < (quire s q).deskewAt + secU)) :
    deskew q need s = s := by
  unfold deskew
  dsimp only
  rw [if_neg hr, if_neg (not_not_intro hn), if_pos hb, ite_self, ite_self]

theorem deskew_first (hq : q < s.part.quires) (ht : s.time.rawStart.isSome = true) (hr : (quire s q).reentry ≠ 1)
    (hs : (quire s q).svc ≠ 2) (hn : (quire s q).running = false) :
    deskew q need s = match deskewStep need with
      | none => neverStarted q 0x0203 s
      | some d => setQuire q { quire s q with delay := d, measured := true } s :=
  (if_neg (measurable_quire hq ht)).trans ((if_neg hr).trans ((if_neg hs).trans (if_pos (by simp [hn]))))

/-- In re-entry the measured delay also fixes the release edge (17 R427). -/
theorem deskew_reentry {d : Nat} (hq : q < s.part.quires) (ht : s.time.rawStart.isSome = true)
    (hr : (quire s q).reentry = 1) (hd : deskewStep need = some d) :
    ∃ v x, Still (setQuire q v s) x ∧ deskew q need s = setQuire q { quire s q with
      digest := if (quire s q).loaded then (quire s q).digest else romDigest, delay := d, measured := true, reentry := 2,
      reentryEdge := secondCeil (devNow s + (1250 * usU : Nat)) } x := by
  have hx : Still (setQuire q { quire s q with digest := if (quire s q).loaded then (quire s q).digest else romDigest } s)
      (clearCause 0x0203 q (setQuire q
        { quire s q with digest := if (quire s q).loaded then (quire s q).digest else romDigest } s)) :=
    clearCause_still (.refl _)
  refine ⟨_, _, hx, ?_⟩
  unfold deskew
  dsimp only
  rw [if_neg (measurable_quire hq ht), if_pos hr]
  simp only [hd]
  rw [hx.devNow_eq]
  rfl

end

end Sys2Proof.Machine
end

section
/-! SUPPORT. The stitch links (01 R18 to R25, R29; 04 R93, R103). -/

namespace Sys2Proof.Machine

theorem takeInjected_none {f : StitchFrame} (h : f.injected = []) (s : State) : takeInjected f s = s := by
  unfold takeInjected
  rw [h, List.foldl_nil]

/-- A quire that has not started is out of service with its witness, and the rest is reports. -/
theorem neverStarted_left (q ecode : Nat) (s : State) :
    (quire (neverStarted q ecode s) q).svc = 2 ∧ (witOf (neverStarted q ecode s) q).state = 4
      ∧ (∀ k, k ≠ q → quire (neverStarted q ecode s) k = quire s k)
      ∧ Still { s with quires := (neverStarted q ecode s).quires, wit := (neverStarted q ecode s).wit }
          (neverStarted q ecode s) := by
  have h := neverStarted_spec q ecode s
  generalize neverStarted q ecode s = t at h ⊢
  refine ⟨?_, ?_, fun k hk => ?_, ?_⟩
  · rw [h.quire_eq, quire_setWit, quire_setQuire_self]
  · rw [h.witOf_eq, witOf_setWit_self]
  · rw [h.quire_eq, quire_setWit, quire_setQuire_ne hk]
  · rw [h.quires, h.wit]
    exact h

/-- Settles O24: each command is its operation at the command's instant, and what the operation leaves says the rest. -/
theorem stitchFrames : Obligations.StitchFrames := by
  unfold Obligations.StitchFrames
  refine ⟨?first, ?late, ?injected, ?failed, ?third, ?close, ?drained, ?idle, ?modulators, ?lane, ?crown, ?waits, ?measured,
    ?outside, ?reentry⟩
  case first =>
    rintro at_ f s u rfl hq hr hs ht hc hi hcl ho
    refine congrArg Host.Outcome.next ?_
    rw [frameIn_good hq hr hs hc, frameReplayed_none ht, takeInjected_none hi, takeFrame_first hcl ho]
  case late =>
    rintro at_ f k s u rfl hq hr hs ht hc hi hcl hk
    refine congrArg Host.Outcome.next ?_
    rw [frameIn_good hq hr hs hc, frameReplayed_none ht, takeInjected_none hi, takeFrame_late hcl hk]
  case injected =>
    rintro at_ f id raw a x j s u rfl hq hr hs hc hi hj hm hd hslot hx
    obtain ⟨qs, c, e⟩ := frameIn_injected hq hr hs hc hi hj hm hd hslot hx
    exact ⟨_, congrArg Host.Outcome.next e, witOf_setWit_self .., Still.refl _⟩
  case failed =>
    rintro at_ f s u rfl hq hr ht hc
    exact congrArg Host.Outcome.next ((frameIn_bad hq hr hc).trans (frameFails_first ht))
  case third =>
    rintro at_ f a s u rfl hq hr ht hc
    have e := (frameIn_bad hq hr hc).trans (frameFails_third ht)
    obtain ⟨hside, hlost, htries, hothers⟩ := loseFrame_spec f.quire f.seq (setQuire f.quire {
      quire (s.tick at_) f.quire with crcFails := ((quire (s.tick at_) f.quire).crcFails + 1) % 2 ^ 32 } (s.tick at_))
    rw [quire_setQuire_self] at hlost htries
    have h := (setQuire_serviceSide (.refl (s.tick at_)) ..).trans hside
    exact ⟨_, congrArg Host.Outcome.next e, hlost, htries, fun k hk => (hothers k hk).trans (quire_setQuire_ne hk ..),
      h.cfg_eq, h.time_eq, h.exc_eq⟩
  case close =>
    rintro at_ m x s u rfl hx hd hc
    obtain ⟨t, ht, e⟩ := closeOne_spec m (s.tick at_)
    exact ⟨_, congrArg Host.Outcome.next ((periodClose_one hx hd hc).trans e), rfl, rfl, ht.still.onConv _⟩
  case drained =>
    rintro at_ q s u rfl hq hr hs ho
    obtain ⟨t, w, e, hside, hothers⟩ := linkFailed_running hs hr ho
    refine ⟨_, congrArg Host.Outcome.next ((if_pos hq).trans e), ?_⟩
    rw [quire_setQuire_self]
    exact ⟨rfl, rfl, rfl, fun k hk => (quire_setQuire_ne hk ..).trans (hothers k hk), setQuire_serviceSide hside ..⟩
  case idle =>
    rintro at_ q s u rfl hq hr hs
    exact ⟨_, congrArg Host.Outcome.next ((if_pos hq).trans (linkFailed_idle hs hr)), neverStarted_left ..⟩
  case modulators =>
    rintro at_ q m s u rfl hs
    exact ⟨_, rfl, crossingFull_modulators hs⟩
  case lane =>
    rintro at_ x q m s u rfl hx
    exact congrArg Host.Outcome.next (crossingFull_lane hx)
  case crown =>
    rintro at_ q need s u rfl hq ht hr hs hn hb ha
    exact congrArg Host.Outcome.next (deskew_crown hq ht hr hs hn hb ha)
  case waits =>
    rintro at_ q need s u rfl hr hn hb
    exact congrArg Host.Outcome.next (deskew_waits hr hn hb)
  case measured =>
    rintro at_ q d need s u rfl hq ht hr hs hn hd
    refine congrArg Host.Outcome.next ((deskew_first hq ht hr hs hn).trans ?_)
    rw [hd]
  case outside =>
    rintro at_ q need s u rfl hq ht hr hs hn hd
    have e : deskew q need (s.tick at_) = neverStarted q 0x0203 (s.tick at_) := by
      rw [deskew_first hq ht hr hs hn, hd]
    exact ⟨_, congrArg Host.Outcome.next e, neverStarted_left ..⟩
  case reentry =>
    rintro at_ q d need s u rfl hq ht hr hd
    obtain ⟨v, x, hx, e⟩ := deskew_reentry hq ht hr hd
    refine ⟨_, congrArg Host.Outcome.next e, quire_setQuire_self .., fun k hk => ?_, ?_⟩
    · rw [quire_setQuire_ne hk, hx.quire_eq, quire_setQuire_ne hk]
    · exact hx.onQuires _

end Sys2Proof.Machine
end

section
/-! SUPPORT. Every command answers a next state: one entry for each constructor, its meaning and the law that says that the
meaning keeps what no command undoes. -/

namespace Sys2Proof.Machine

/-- A command at an instant answers a next state that keeps what no command undoes. -/
def Completes (s : State) (at_ : Nat) (cmd : Instr) : Prop := ∃ t, exec cmd s = .next t ∧ Keep (s.tick at_) t

section
variable {s t : State} {at_ : Nat} {cmd : Instr}

theorem Completes.of_keep (e : exec cmd s = .next t) (k : Keep (s.tick at_) t) : Completes s at_ cmd := ⟨t, e, k⟩

/-- An event of the hub's own (log entry 5): its operation at the command's instant. -/
theorem Completes.event {f : State → State} (e : exec cmd s = .next (f (s.tick at_)))
    (k : ∀ {s0 u : State}, Keep s0 u → Keep s0 (f u)) : Completes s at_ cmd := .of_keep e (k (.refl _))

/-- An event that waits while the command processor restarts (17 R435). -/
theorem Completes.paused {f : State → State} (e : exec cmd s = .next (unlessPaused f (s.tick at_)))
    (k : ∀ {s0 u : State}, Keep s0 u → Keep s0 (f u)) : Completes s at_ cmd :=
  .of_keep e (unlessPaused_keep (fun _ => k (.refl _)) (.refl _))

/-- A packet: received, and served if it is taken (13 R327). -/
theorem Completes.packet {op : Nat} {p : Packet} {serve : Packet → State → State}
    (e : exec cmd s = .next (receive op p serve (s.tick at_)))
    (k : ∀ {s0 u : State} {x : Packet}, Keep s0 u → Keep s0 (serve x u)) : Completes s at_ cmd :=
  .of_keep e (receive_keep (fun _ _ => k (.refl _)) (.refl _))

/-- What a command that completes leaves: the part, the queue, and a clock at the command's instant or later. -/
theorem forall_completes {l : List Instr} (h : l.Forall (Completes s at_)) (hc : cmd ∈ l) :
    ∃ t, exec cmd s = .next t ∧ t.part = s.part ∧ t.pending = s.pending ∧ s.now ≤ t.now ∧ at_ ≤ t.now := by
  obtain ⟨t, e, k⟩ := List.forall_iff_forall_mem.1 h cmd hc
  have hn : max s.now at_ ≤ t.now := k.clock
  exact ⟨t, e, k.part, k.pending, le_of_max_le_left hn, le_of_max_le_right hn⟩

end

/-- The start's registers are none of it. -/
theorem keep_boot {s0 s : State} {b : Boot} (h : Keep s0 s) : Keep s0 { s with boot := b } :=
  h.trans (.same rfl rfl rfl rfl rfl rfl rfl rfl rfl rfl rfl)

/-- Nor is the host port. -/
theorem keep_host {s0 s : State} {p : HostPort} (h : Keep s0 s) : Keep s0 { s with host := p } :=
  h.trans (.same rfl rfl rfl rfl rfl rfl rfl rfl rfl rfl rfl)

/-- An unmask of one vector is a register write, of all of them the function mask (11 R295). -/
theorem msixUnmask_completes (s : State) (at_ v : Nat) (fmask : Option Bool) :
    Completes s at_ (.msixUnmask at_ v fmask) := by
  cases fmask with
  | none => exact .event rfl barWrite_keep
  | some on => exact .event rfl functionMask_keep

/-- Settles O2: each command's meaning is a next state, and the law of its operation says what it keeps. -/
theorem everyCommandCompletes : Obligations.EveryCommandCompletes := by
  unfold Obligations.EveryCommandCompletes
  and_intros <;> intros <;> refine forall_completes ?_ ‹_› <;> simp only [List.Forall]
  · exact ⟨.event rfl powerOn_keep, .event rfl pinReset_keep, .event rfl brownout_keep, .event rfl windowDisable_keep,
      .event rfl standbyWake_keep⟩
  · exact ⟨.event rfl tryRelease_keep, .of_keep rfl (tryRelease_keep (keep_boot (.refl _)))⟩
  · exact ⟨.event rfl settlingEnd_keep, .event rfl refQualified_keep,
      .event rfl fun h => drainUnread_keep (imageSelect_keep h), .event rfl trunkReached_keep,
      .event rfl modulatorsStart_keep, .event rfl crownReached_keep, .event rfl continuityEvents_keep,
      .event rfl trialGood_keep, .of_keep rfl (keep_boot (.refl _)), .event rfl simulExpiry_keep,
      .event rfl storeFails_keep, .paused rfl dailyRecords_keep, .event rfl refLost_keep, .event rfl refBack_keep,
      .event rfl reAnchor_keep, .paused rfl jumpPersist_keep, .paused rfl holdExpiry_keep, .event rfl stepAt_keep,
      .event rfl stepAt_keep, .event rfl emitMarks_keep, .event rfl folioClose_keep, .event rfl markSecond_keep,
      .event rfl oneShot_keep, .event rfl firesReport_keep, .event rfl hostDown_keep, .event rfl resetPort_keep,
      .of_keep rfl (drainUnread_keep (ite_keep (keep_host (.refl _)) (keep_host (.refl _)))),
      .event rfl groupRepeat_keep, .of_keep rfl (ite_keep (.refl _) (dueSched_keep _ (.refl _))),
      .event rfl jVerifyDone_keep, .event rfl fwErased_keep, .event rfl fwIdle_keep, .event rfl rootEval_keep,
      .event rfl authExpiry_keep, .event rfl fun h => when_keep (fun _ => originSecond_keep (.refl _)) h,
      .event rfl flapEnd_keep⟩
  · exact ⟨.of_keep rfl (enterReset_keep (abandonWrite_keep (keep_boot (.refl _)))), .event rfl watchdog_keep,
      .event rfl fun h => drainUnread_keep (cpDone_keep h),
      .of_keep rfl (ite_keep (keep_host (.refl _)) (keep_host (.refl _))), .event rfl linkReform_keep,
      .event rfl configSecond_keep⟩
  · exact .event rfl fun h => enterReset_keep (abandonWrite_keep h)
  · exact ⟨.event rfl lpTrained_keep, .event rfl prepareAck_keep, .event rfl blankingEnd_keep,
      .event rfl excTrip_keep, .event rfl extDone_keep, .paused rfl planWarn_keep, .paused rfl planDue_keep,
      .event rfl barRead_keep, .event rfl barWrite_keep, .event rfl barWrite_keep, .event rfl barWrite_keep,
      .event rfl prbsEnd_keep, .event rfl coalesceEnd_keep, .event rfl coalesceRepeat_keep, .paused rfl ptpSend_keep⟩
  · exact ⟨.event rfl overrunAt_keep, .of_keep rfl (ite_keep (linkFailed_keep (.refl _)) (.refl _)),
      .event rfl prepareDeadline_keep, .event rfl commitEdge_keep, .event rfl fadeEnd_keep,
      .event rfl reversalEdge_keep, .event rfl senseLow_keep, .event rfl senseLowExit_keep,
      .event rfl pulseDueRow_keep, .event rfl scanDue_keep, .event rfl injectDone_keep, .event rfl injectTimeout_keep,
      .event rfl toMain_keep, .event rfl overlapEnd_keep, .event rfl produce_keep, .event rfl flushTimer_keep,
      .event rfl streamRunning_keep, .event rfl stallResume_keep, .paused rfl fullDue_keep, .paused rfl quickDue_keep,
      .event rfl heaterBack_keep, .paused rfl tempTrigger_keep, .paused rfl ageTrigger_keep,
      .paused rfl calGrant_keep, .paused rfl safetyRefused_keep, .paused rfl sourceLost_keep,
      .event rfl timeSend_keep, .event rfl iuWindowEnd_keep, .event rfl iuRearm_keep, .event rfl evaluate_keep,
      .event rfl seqIdle_keep, .event rfl captureRelease_keep,
      .event rfl fun h => when_keep (fun _ => drainUnread_keep (.refl _)) (barWrite_keep h), .event rfl barWrite_keep,
      .event rfl barWrite_keep, .event rfl windowIdle_keep, .event rfl moderation_keep, .event rfl barWrite_keep,
      .event rfl lockLoss_keep, .event rfl singleDown_keep, .event rfl noPartner_keep, .event rfl trainFault_keep,
      .event rfl standbyReturn_keep, .event rfl scanDueRow_keep, .paused rfl goBackTimer_keep,
      .event rfl heartbeat_keep, .event rfl linkTimeout_keep, .paused rfl keepaliveExpiry_keep,
      .paused rfl pendingDiscard_keep, .event rfl permStart_keep, .event rfl drainAt_keep, .event rfl stopAt_keep,
      .event rfl reentryStart_keep, .event rfl safetyEval_keep, .event rfl degradedExpiry_keep,
      .event rfl pulseOverdue_keep, .event rfl groupRelease_keep, .event rfl lockBack_keep, .event rfl tripEdge_keep,
      .event rfl retentionLapse_keep, .event rfl keepalive_keep⟩
  · exact .event rfl mgmtRead_keep
  · exact .event rfl frameIn_keep
  · exact .event rfl periodClose_keep
  · exact .event rfl crossingFull_keep
  · exact ⟨.event rfl deskew_keep, .event rfl visit_keep, .paused rfl measure_keep⟩
  · exact .event rfl excUpdate_keep
  · exact .event rfl pulseOpen_keep
  · exact .event rfl pulseClose_keep
  · exact ⟨.packet rfl writeServe_keep, .packet rfl writeServe_keep, .packet rfl injectServe_keep,
      .packet rfl cancelServe_keep, .packet rfl simulServe_keep, .packet rfl simulStopServe_keep,
      .packet rfl calServe_keep, .packet rfl abortServe_keep, .packet rfl compareServe_keep,
      .packet rfl extServe_keep, .packet rfl sealOpenServe_keep, .packet rfl sealCloseServe_keep,
      .packet rfl memberServe_keep, .packet rfl exportServe_keep, .packet rfl writeServe_keep,
      .packet rfl writeServe_keep, .packet rfl timeGet_keep, .packet rfl timeSetServe_keep,
      .packet rfl rebaseServe_keep, .packet rfl iuArmServe_keep, .packet rfl iuDisarmServe_keep,
      .packet rfl trgArmServe_keep, .packet rfl trgDisarmServe_keep, .packet rfl markServe_keep,
      .packet rfl maskLoadServe_keep, .packet rfl groupArmServe_keep, .packet rfl groupDisarmServe_keep,
      .packet rfl groupFireServe_keep, .packet rfl startServe_keep, .packet rfl stopServe_keep,
      .packet rfl flushServe_keep, .packet rfl eyeScanServe_keep, .packet rfl retrainServe_keep,
      .packet rfl loopbackServe_keep, .packet rfl writeServe_keep, .packet rfl openServe_keep,
      .packet rfl closeServe_keep, .packet rfl pingServe_keep, .packet rfl schedCancelServe_keep,
      .packet rfl resendServe_keep, .packet rfl writeServe_keep, .packet rfl readServe_keep,
      .packet rfl stageServe_keep, .packet rfl commitServe_keep, .packet rfl acqStatusServe_keep,
      .packet rfl acqReadServe_keep, .packet rfl safeStatusServe_keep, .packet rfl lockOpenServe_keep,
      .packet rfl lockCloseServe_keep, .packet rfl tripResetServe_keep, .packet rfl pulseNowServe_keep,
      .packet rfl credAddServe_keep, .packet rfl credRevokeServe_keep, .packet rfl credListServe_keep,
      .packet rfl jReadServe_keep, .packet rfl jMirrorServe_keep, .packet rfl jVerifyServe_keep,
      .packet rfl groupKeyServe_keep, .packet rfl logReadServe_keep, .packet rfl faultListServe_keep,
      .packet rfl faultClearServe_keep, .packet rfl logClearServe_keep, .packet rfl diagServe_keep,
      .packet rfl fwBeginServe_keep, .packet rfl fwDataServe_keep, .packet rfl fwCommitServe_keep,
      .packet rfl swapServe_keep, .packet rfl drainServe_keep, .packet rfl reenterServe_keep,
      .packet rfl ucodeServe_keep, .packet rfl standinServe_keep, .packet rfl writeServe_keep,
      .packet rfl writeServe_keep⟩
  · exact .event rfl toneRoundEnd_keep
  · exact ⟨.event rfl endLevel_keep, .event rfl loopbackEnd_keep⟩
  · exact .event rfl cycleEnd_keep
  · exact .event rfl commonCause_keep
  · exact .event rfl simulFrame_keep
  · exact .event rfl scrub_keep
  · exact .event rfl stageAndSend_keep
  · exact .paused rfl compComplete_keep
  · exact .event rfl warmAdvance_keep
  · exact ⟨.event rfl heaterFault_keep, .event rfl edgeStamp_keep⟩
  · exact .event rfl calResult_keep
  · exact .paused rfl witnessCal_keep
  · exact .paused rfl ptpReceive_keep
  · exact .event rfl groupReceive_keep
  · exact .event rfl fun h => when_keep (fun _ => drainUnread_keep (.refl _)) (barWrite_keep h)
  · exact .event rfl fun h => when_keep (fun _ => drainUnread_keep (.refl _)) (ringTransfer_keep h)
  · exact ⟨.event rfl ringFault_keep, .event rfl trained_keep⟩
  · exact .event rfl barWrite_keep
  · exact msixUnmask_completes _ _ _ _
  · exact .event rfl recoveryDone_keep
  · exact ⟨.event rfl scanDone_keep, .event rfl ucodeDone_keep⟩
  · exact .event rfl ackDatagram_keep
  · exact ⟨.event rfl linkFrame_keep, .event rfl groupAck_keep⟩
  · exact .event rfl timeFrame_keep
  · exact .event rfl dataFrame_keep
  · exact .event rfl creditFrame_keep
  · exact .packet rfl hubResetServe_keep
  · exact .event rfl reentryRelease_keep
  · exact .event rfl tripRead_keep
  · exact .of_keep rfl (ite_keep (.refl _) (receive_keep (fun _ _ => unknownServe_keep (.refl _)) (.refl _)))
  · exact .event rfl echo_keep

end Sys2Proof.Machine
end

section
/-! SUPPORT. Into reset: the supply rails, RESET_N, and what a reset and an abandoned write leave (02 R37 to R39, R56,
R57). -/

namespace Sys2Proof.Machine

section
variable {s : State} {rail : Nat}

/-! ### The rails (02 R37) -/

theorem bit_zero (i : Nat) : bit i 0 = false := by simp [bit]

/-- The time does not matter to a transfer that is given up. -/
theorem abandonFw_tick (at_ : Nat) (s : State) : abandonFw (s.tick at_) = (abandonFw s).tick at_ := by
  unfold abandonFw
  rw [tick_cz]
  cases s.cz.fw with
  | none => rfl
  | some x => dsimp only; split <;> rfl

theorem powerOn_enters (h1 : 1 ≤ rail) (h9 : rail ≤ 9) (hb : bit (rail - 1) s.boot.rails = false) :
    powerOn rail false s = { s with boot.rails := s.boot.rails ||| 2 ^ (rail - 1), boot.railsSince := s.now } := by
  simp [powerOn, hb, Nat.not_lt.2 h1, Nat.not_lt.2 h9]

theorem powerOn_inWindow (hb : bit (rail - 1) s.boot.rails = true) : powerOn rail false s = s := by
  simp [powerOn, hb]

theorem powerOn_fromOff (at_ : Nat) (h1 : 1 ≤ rail) (h9 : rail ≤ 9) :
    powerOn rail true (s.tick at_) =
      { State.reset with
        part := s.part, flash := (abandonFw s).flash, now := (s.tick at_).now, draw := s.draw, out := s.out
        pending := s.pending
        boot := { State.reset.boot with rails := 0 ||| 2 ^ (rail - 1), railsSince := (s.tick at_).now } } := by
  have hb : bit (rail - 1) State.reset.boot.rails = false := bit_zero _
  simp [powerOn, abandonFw_tick, hb, Nat.not_lt.2 h1, Nat.not_lt.2 h9]
  exact Nat.zero_or _

theorem brownout_leaves {cut : Bool} (h1 : 1 ≤ rail) (h9 : rail ≤ 9) (hb : bit (rail - 1) s.boot.rails = true) :
    brownout rail cut s =
      enterReset (2 + rail * 2 ^ 20) (abandonWrite cut { s with boot.rails := s.boot.rails - 2 ^ (rail - 1) }) := by
  simp [brownout, hb, Nat.not_lt.2 h1, Nat.not_lt.2 h9]

/-! ### RESET_N (02 R38) -/

theorem filterPasses_long {len : Nat} (h : 21 * usU ≤ 2 * len) : filterPasses len s = true := by
  simp [filterPasses, h]

theorem filterPasses_short {len : Nat} (h : 2 * len < 19 * usU) : filterPasses len s = false := by
  have h21 : 2 * len < 21 * usU := h.trans_le (Nat.mul_le_mul_right _ (by decide))
  simp [filterPasses, Nat.not_le.2 h, Nat.not_le.2 h21]

/-- A level either passes the filter or leaves the hub as it was. -/
theorem pinReset_or (low : Nat) (cut : Bool) (s : State) :
    pinReset low cut s = s ∨ pinReset low cut s = enterReset 4 (abandonWrite cut s) := by
  unfold pinReset
  split
  · exact .inr rfl
  · exact .inl rfl

/-! ### What is left -/

theorem joinCauses_zero (causes : Nat) : joinCauses 0 causes = 0 ||| causes := rfl

theorem enterReset_newCause {causes : Nat} (h : s.boot.inReset = false) :
    (enterReset causes s).boot.newCause = 0 ||| causes := by
  show joinCauses (if s.boot.inReset = true then s.boot.newCause else 0) causes = _
  rw [h]
  exact joinCauses_zero causes

/-- RING with its newest record cut short: its CRC fails (07 R181). -/
def cutRing (l : List RingRec) : List RingRec :=
  l.dropLast ++ (l.getLast?.toList.map fun r => { r with bad := true })

theorem abandonWrite_ring (h : s.flash.last = 2) : (abandonWrite true s).flash.ring = cutRing s.flash.ring := by
  simp [abandonWrite, h, cutRing]

theorem cutRing_length (l : List RingRec) : (cutRing l).length = l.length := by
  cases l with
  | nil => rfl
  | cons a l => simp [cutRing, List.getLast?_cons]

theorem cutRing_last_bad {l : List RingRec} {r : RingRec} (h : (cutRing l).getLast? = some r) : r.bad = true := by
  cases l with
  | nil => simp [cutRing] at h
  | cons a l =>
    simp only [cutRing, List.getLast?_cons, Option.toList_some, List.map_cons, List.map_nil, List.getLast?_concat,
      Option.some.injEq] at h
    rw [← h]

end

/-- Settles O7: each command is its operation at the command's instant; what a reset leaves is read off its definition. -/
theorem enteringReset : Obligations.EnteringReset := by
  unfold Obligations.EnteringReset
  refine ⟨?_, ?_, ?_, ?_, ?_, ?_, ?_, ?_, ?_, ?_, ?_⟩
  · rintro at_ rail s u rfl h1 h9 hb
    exact congrArg Host.Outcome.next (powerOn_enters h1 h9 hb)
  · rintro at_ rail s u rfl h1 h9
    exact congrArg Host.Outcome.next (powerOn_fromOff at_ h1 h9)
  · rintro at_ rail s u rfl hb
    exact congrArg Host.Outcome.next (powerOn_inWindow hb)
  · rintro at_ rail cut s u rfl h1 h9 hb
    exact congrArg Host.Outcome.next (brownout_leaves h1 h9 hb)
  · rintro at_ low cut s u rfl h
    exact congrArg Host.Outcome.next (if_pos (filterPasses_long h))
  · rintro at_ low cut s u rfl h
    exact congrArg Host.Outcome.next (if_neg (by rw [filterPasses_short h]; decide))
  · rintro at_ low cut s u rfl - -
    exact (pinReset_or low cut _).imp (congrArg Host.Outcome.next) (congrArg Host.Outcome.next)
  · rintro at_ cut s u rfl
    rfl
  · rintro at_ island cut s u rfl
    rfl
  · rintro causes s t rfl
    exact ⟨rfl, rfl, rfl, rfl, enterReset_newCause, rfl, rfl, rfl, rfl, rfl, rfl, rfl, rfl, rfl, rfl, rfl, rfl, rfl, rfl,
      rfl, rfl, rfl, rfl, rfl, rfl, rfl, rfl, rfl, rfl, rfl, rfl⟩
  · rintro cut s t rfl
    refine ⟨rfl, rfl, ?_, ?_, ?_, ?_⟩
    · rintro rfl; rfl
    · rintro rfl h; simp [abandonWrite, h]
    · rintro rfl h; simp [abandonWrite, h]
    · rintro rfl h
      rw [abandonWrite_ring h]
      exact ⟨cutRing_length _, fun r => cutRing_last_bad⟩

end Sys2Proof.Machine
end

section
/-! SUPPORT. What the safety island's evaluation of its pairs and groups leaves alone (15 R373, R389 to R391). -/

namespace Sys2Proof.Machine

/-- Nothing but reports and the safety island differ. -/
def IslandSide (s t : State) : Prop := Still { s with safe := t.safe } t

theorem IslandSide.refl (s : State) : IslandSide s s := Still.refl s

theorem Still.withSafe {a b : State} (h : Still a b) (x : Safety) : Still { a with safe := x } { b with safe := x } :=
  ⟨h.part, h.time, h.ptp, h.evt, h.iu, h.quires, h.exc, h.tone, h.chans, h.wit, h.conv, h.cal, h.trg, h.group, h.lanes,
    h.skaing, rfl, h.cfg, h.past, h.now, h.draw, h.pending, h.flash, h.boot⟩

theorem IslandSide.trans {a b c : State} (h : IslandSide a b) (k : IslandSide b c) : IslandSide a c :=
  (Still.withSafe h c.safe).trans k

theorem Still.islandSide {s t : State} (h : Still s t) : IslandSide s t := by
  unfold IslandSide
  rw [h.safe]
  exact h

/-- What follows reports alone. -/
theorem IslandSide.still {a b c : State} (h : IslandSide a b) (k : Still b c) : IslandSide a c := h.trans k.islandSide

section
variable {s0 s : State}

theorem ite_islandSide {p : Prop} [Decidable p] {a b : State} (ha : IslandSide s0 a) (hb : IslandSide s0 b) :
    IslandSide s0 (if p then a else b) := by split <;> assumption

theorem setPair_islandSide {p : Nat} {v : SPair} (h : IslandSide s0 s) : IslandSide s0 (setPair p v s) :=
  h.trans (Still.refl _)

theorem setGroup_islandSide {g : Nat} {v : SGroup} (h : IslandSide s0 s) : IslandSide s0 (setGroup g v s) :=
  h.trans (Still.refl _)

/-! ### Pairs -/

theorem pairTrip_islandSide {p : Nat} (h : IslandSide s0 s) : IslandSide s0 (pairTrip p s) := setPair_islandSide h

theorem pairMode_islandSide {p : Nat} {a b : Seen} {agree : Bool} (h : IslandSide s0 s) :
    IslandSide s0 (pairMode p a b agree s) := setPair_islandSide h

theorem rootPair_islandSide {p : Nat} (h : IslandSide s0 s) : IslandSide s0 (rootPair p s) := by
  unfold rootPair
  dsimp only
  exact pairTrip_islandSide (ite_islandSide (setPair_islandSide h) (pairMode_islandSide (setPair_islandSide h)))

/-! ### Groups -/

theorem setGState_islandSide {g st : Nat} (h : IslandSide s0 s) : IslandSide s0 (setGState g st s) := by
  unfold setGState
  dsimp only
  refine ite_islandSide h ?_
  have noted {v : SGroup} {e : Ev} : IslandSide s0 (issueNote e 1 (setGroup g v s)) :=
    (setGroup_islandSide h).still (issueNote_still (.refl _))
  exact ite_islandSide (noted.still (raiseOnce_still (.refl _)))
    (ite_islandSide (noted.still (clearCause_still (.refl _))) noted)

theorem groupTrip_islandSide {g causes : Nat} (h : IslandSide s0 s) : IslandSide s0 (groupTrip g causes s) :=
  setGState_islandSide (setGroup_islandSide h)

theorem groupStep_islandSide {extra g : Nat} (h : IslandSide s0 s) : IslandSide s0 (groupStep extra g s) := by
  unfold groupStep
  dsimp only
  have cleared {v : SGroup} : IslandSide s0 (setGroup g v s) := setGroup_islandSide h
  refine ite_islandSide cleared (ite_islandSide (groupTrip_islandSide h) (ite_islandSide ?_ ?_))
  · exact ite_islandSide (setGState_islandSide cleared) cleared
  · exact ite_islandSide cleared (setGState_islandSide cleared)

theorem groupSteps_islandSide (h : IslandSide s0 s) : IslandSide s0 (groupSteps s) :=
  forAll_ind (P := IslandSide s0) _ (fun _ _ => groupStep_islandSide) h

end

end Sys2Proof.Machine
end

section
/-! SUPPORT. Reset release and the way to Root: who answers the poll, what section 1 of SAFE brings, and what the pairs'
front ends leave alone (02 R37 to R41; 01 R24; 03 R66; 18 R457, R464). -/

namespace Sys2Proof.Machine

/-! ### The sideband poll (02 R41) -/

section
variable {ups : List Nat} {q : Nat}

theorem pollQuire_up (h : ups.contains q = true) (s : State) :
    Still (setWit q { (default : Witness) with state := 2 } (setEns q { Ensemble.init with heaterOn := true, warm := 1 }
      (setQuire q { (default : Quire) with svc := 0, digest := romDigest } s))) (pollQuire ups q s) := by
  unfold pollQuire
  rw [if_pos h]
  exact ⟨rfl, rfl, rfl, rfl, rfl, rfl, rfl, rfl, rfl, rfl, rfl, rfl, rfl, rfl, rfl, rfl, rfl, rfl, rfl, rfl, rfl, rfl, rfl,
    rfl⟩

theorem pollQuire_down (h : ¬ ups.contains q = true) (s : State) :
    Still (setWit q { (default : Witness) with state := 4 }
      (setQuire q { (default : Quire) with svc := 2, digest := zeros 32, outSince := max 1 s.now } s))
      (pollQuire ups q s) := by
  unfold pollQuire
  rw [if_neg h]
  exact raiseOnce_still ⟨rfl, rfl, rfl, rfl, rfl, rfl, rfl, rfl, rfl, rfl, rfl, rfl, rfl, rfl, rfl, rfl, rfl, rfl, rfl, rfl,
    rfl, rfl, rfl, rfl⟩

/-- A quire after the poll: in service with its heater on and its witness in simultaneous mode, or out of service. -/
def Polled (ups : List Nat) (q : Nat) (s : State) : Prop :=
  (quire s q).svc = (if ups.contains q then 0 else 2) ∧ (witOf s q).state = (if ups.contains q then 2 else 4)
    ∧ (ups.contains q = true → (ensOf s q).heaterOn = true)

theorem Polled.congr {s t : State} (h : Polled ups q s) (hq : quire t q = quire s q) (hw : witOf t q = witOf s q)
    (he : ensOf t q = ensOf s q) : Polled ups q t := by
  unfold Polled
  rwa [hq, hw, he]

theorem Still.polled {s t : State} (k : Still s t) (h : Polled ups q s) : Polled ups q t :=
  h.congr (k.quire_eq q) (k.witOf_eq q) (k.ensOf_eq q)

@[simp] theorem ensOf_setEns_self (q : Nat) (v : Ensemble) (s : State) : ensOf (setEns q v s) q = v :=
  (ensOf_setEns ..).trans (if_pos rfl)

theorem ensOf_setEns_ne {q k : Nat} (h : k ≠ q) (v : Ensemble) (s : State) : ensOf (setEns q v s) k = ensOf s k :=
  (ensOf_setEns ..).trans (if_neg (Ne.symm h))

@[simp] theorem ensOf_setWit (q k : Nat) (v : Witness) (s : State) : ensOf (setWit q v s) k = ensOf s k := rfl
@[simp] theorem ensOf_setQuire (q k : Nat) (v : Quire) (s : State) : ensOf (setQuire q v s) k = ensOf s k := rfl
@[simp] theorem quire_setEns (q k : Nat) (v : Ensemble) (s : State) : quire (setEns q v s) k = quire s k := rfl
@[simp] theorem witOf_setEns (q k : Nat) (v : Ensemble) (s : State) : witOf (setEns q v s) k = witOf s k := rfl

theorem pollQuire_polled (ups : List Nat) (q : Nat) (s : State) : Polled ups q (pollQuire ups q s) := by
  by_cases h : ups.contains q = true
  · exact (pollQuire_up h s).polled (by simp only [Polled, h]; simp)
  · exact (pollQuire_down h s).polled (by simp only [Polled, h]; simp)

/-- The poll of another quire. -/
theorem pollQuire_keeps_polled {k : Nat} {s : State} (h : Polled ups q s) : Polled ups q (pollQuire ups k s) := by
  by_cases e : q = k
  · exact e ▸ pollQuire_polled ups q s
  · by_cases hk : ups.contains k = true
    · refine (pollQuire_up hk s).polled (h.congr ?_ ?_ ?_)
      · simp [quire_setQuire_ne e]
      · simp [witOf_setWit_ne e]
      · simp [ensOf_setEns_ne e]
    · refine (pollQuire_down hk s).polled (h.congr ?_ ?_ ?_)
      · simp [quire_setQuire_ne e]
      · simp [witOf_setWit_ne e]
      · simp

theorem setEns_serviceSide {a b : State} (h : ServiceSide a b) (q : Nat) (v : Ensemble) :
    ServiceSide a (setEns q v b) := h.trans (Still.refl _)

theorem pollQuire_serviceSide {s0 s : State} (h : ServiceSide s0 s) : ServiceSide s0 (pollQuire ups q s) := by
  by_cases hq : ups.contains q = true
  · exact (setWit_serviceSide (setEns_serviceSide (setQuire_serviceSide h _ _) _ _) _ _).trans (pollQuire_up hq s).serviceSide
  · exact (setWit_serviceSide (setQuire_serviceSide h _ _) _ _).trans (pollQuire_down hq s).serviceSide

theorem polls_serviceSide (ups l : List Nat) (s : State) : ServiceSide s (forAll l (pollQuire ups) s) :=
  forAll_ind (P := ServiceSide s) l (fun _ _ => pollQuire_serviceSide) (.refl s)

theorem polls_polled (ups : List Nat) {l : List Nat} (hq : q ∈ l) (s : State) : Polled ups q (forAll l (pollQuire ups) s) :=
  forAll_each (P := Polled ups) (fun x t => pollQuire_polled ups x t) (fun _ _ _ => pollQuire_keeps_polled) hq s

end

/-! ### The safety image and the front ends of its members (15 R374; 03 R66) -/

/-- What section 1 of SAFE brings: the image if its CRC holds, and the island's registers of it. -/
theorem readSafe_still (s : State) :
    ∃ a, a.image = (if s.flash.safeOk1 then s.flash.safe else [])
      ∧ Still { s with safe := a, boot.safeOk := s.flash.safeOk1 } (readSafe s) := by
  unfold readSafe
  dsimp only
  exact ⟨_, rfl, ite_still (.refl _) (raiseOnce_still (.refl _))⟩

/-- Nothing but reports, excitation groups and parameter words differ. -/
def FrontSide (s t : State) : Prop := Still { s with exc := t.exc, cfg := t.cfg } t

theorem FrontSide.trans {a b c : State} (h : FrontSide a b) (k : FrontSide b c) : FrontSide a c :=
  Still.trans (b := { b with exc := c.exc, cfg := c.cfg }) ⟨h.part, h.time, h.ptp, h.evt, h.iu, h.quires, rfl, h.tone,
    h.chans, h.wit, h.conv, h.cal, h.trg, h.group, h.lanes, h.skaing, h.safe, rfl, h.past, h.now, h.draw, h.pending,
    h.flash, h.boot⟩ k

theorem rootFront_frontSide (m : Nat) (s : State) : FrontSide s (rootFront m s) := by
  unfold rootFront
  dsimp only
  split
  · exact Still.refl s
  · exact Still.refl _

theorem rootFronts_frontSide (l : List Nat) (s : State) : FrontSide s (forAll l rootFront s) :=
  forAll_ind (P := FrontSide s) l (fun m t h => h.trans (rootFront_frontSide m t)) (Still.refl s)

/-! ### The release (02 R37, R55; 18 R464) -/

/-- The registers that a release writes: CAUSE from the causes collected in the reset, the strap, the strobe on the safety
oscillator. -/
def Released (strap : Nat) (ok : Bool) (s : State) (b : Boot) : Prop :=
  b.inReset = false ∧ b.release = some s.now ∧ b.strap = strap % 4 ∧ b.newCause = 0 ∧ b.strobe = 1
    ∧ (ok = true → b.cause = s.boot.newCause) ∧ (bit 0 s.boot.newCause = false → b.prevCause = s.boot.cause)

/-- Reports leave them but for the start count. -/
theorem Still.released {strap : Nat} {ok : Bool} {s x y : State} (k : Still x y) (h : Released strap ok s x.boot) :
    Released strap ok s y.boot := by
  rw [k.boot_eq]
  exact h

theorem Still.flash_safe {s t : State} (h : Still s t) : t.flash.safe = s.flash.safe := by rw [h.flash_eq]

theorem Still.flash_safeOk1 {s t : State} (h : Still s t) : t.flash.safeOk1 = s.flash.safeOk1 := by rw [h.flash_eq]

/-- A release is: the registers and their events, the poll of every quire, section 1 of SAFE, the members' front ends. -/
theorem release_steps (strap : Nat) (ups : List Nat) (ok : Bool) (s : State) :
    ∃ b x, Released strap ok s b ∧ Still { s with boot := b } x ∧
      release strap ups ok s =
        forAll (memberSlots (readSafe (forAll (quireList x) (pollQuire ups) x))) rootFront
          (readSafe (forAll (quireList x) (pollQuire ups) x)) := by
  unfold release
  extract_lets nc lost cleared cause old boot due faults store regs brownedOut unplannedSaid lockstepSaid
  refine ⟨boot, lockstepSaid, ⟨rfl, rfl, rfl, rfl, rfl, ?_, ?_⟩, ?_, rfl⟩
  · rintro rfl
    have hl : lost = false := by simp [lost]
    simp [boot, cause, hl, nc]
  · intro h
    simp [boot, nc, h]
  · have raised {e : Ev} (t : State) : Still t (raise e t) := raise_still (.refl t)
    exact when_still raised (when_still raised (when_still raised (still_upd faults _ _ _ _ _ (.refl _))))

theorem release_spec (strap : Nat) (ups : List Nat) (ok : Bool) (s : State) :
    Released strap ok s (release strap ups ok s).boot
      ∧ (∀ q, q < s.part.quires → Polled ups q (release strap ups ok s))
      ∧ (release strap ups ok s).safe.image = (if s.flash.safeOk1 then s.flash.safe else [])
      ∧ (release strap ups ok s).flash.safe = s.flash.safe := by
  obtain ⟨b, x, hb, hx, e⟩ := release_steps strap ups ok s
  have hpoll : ServiceSide x (forAll (quireList x) (pollQuire ups) x) := polls_serviceSide ups _ x
  have hq (q : Nat) (h : q < s.part.quires) : Polled ups q (forAll (quireList x) (pollQuire ups) x) :=
    polls_polled ups (List.mem_range.mpr (hx.part ▸ h)) x
  rw [e]
  generalize forAll (quireList x) (pollQuire ups) x = polled at hpoll hq ⊢
  have hreg : Released strap ok s polled.boot := Still.released hpoll (hx.released hb)
  have hsafe : polled.flash.safe = s.flash.safe := (Still.flash_safe hpoll).trans hx.flash_safe
  have hok : polled.flash.safeOk1 = s.flash.safeOk1 := (Still.flash_safeOk1 hpoll).trans hx.flash_safeOk1
  obtain ⟨a, ha, hread⟩ := readSafe_still polled
  generalize readSafe polled = island at hread ⊢
  have hfront : FrontSide island (forAll (memberSlots island) rootFront island) := rootFronts_frontSide _ _
  refine ⟨Still.released hfront (hread.released hreg),
    fun q h => Still.polled hfront (hread.polled (hq q h)), ?_, ?_⟩
  · rw [Still.safe hfront]
    show island.safe.image = _
    rw [hread.safe]
    show a.image = _
    rw [ha, hok, hsafe]
  · exact (Still.flash_safe hfront).trans (hread.flash_safe.trans hsafe)

/-! ### RESET_RELEASE and Root -/

section
variable {s : State}

theorem mayRelease_true {high : Nat} (hr : s.boot.inReset = true) (hh : s.boot.hot = false) (ht : s.boot.testHeld = false)
    (hw : s.boot.rails = 0x1FF) (hs : s.boot.railsSince + 2 * msU ≤ s.now) (hl : 21 * usU ≤ 2 * high) :
    mayRelease high s = true := by
  simp [mayRelease, hr, hh, ht, hw, hs, filterPasses_long hl]

theorem mayRelease_false {high : Nat} (h : s.boot.inReset = false ∨ s.boot.hot = true ∨ s.boot.testHeld = true
    ∨ s.boot.rails ≠ 0x1FF ∨ s.now < s.boot.railsSince + 2 * msU ∨ 2 * high < 19 * usU) : mayRelease high s = false := by
  unfold mayRelease
  rcases h with h | h | h | h | h | h
  · simp [h]
  · simp [h]
  · simp [h]
  · simp [h]
  · simp [Nat.not_le.2 h]
  · simp [filterPasses_short h]

variable {high strap : Nat} {ups : List Nat} {ok : Bool}

theorem tryRelease_low (h : mayRelease high s = true) : tryRelease high strap ups ok false s = release strap ups ok s := by
  simp [tryRelease, h]

theorem tryRelease_high (h : mayRelease high s = true) :
    tryRelease high strap ups ok true s = { s with boot.testHeld := true } := by
  simp [tryRelease, h]

theorem tryRelease_refused {test : Bool} (h : mayRelease high s = false) : tryRelease high strap ups ok test s = s := by
  simp [tryRelease, h]

/-- Root is reached with what the island makes of its pairs (02 R41, R42). -/
theorem settlingEnd_spec {r : Nat} (hr : s.boot.release = some r) (hs : s.boot.stage = 0) (ht : r + 15 * msU ≤ s.now) :
    Still { s with boot.stage := 1, boot.hold := 0, safe := (settlingEnd s).safe } (settlingEnd s) := by
  have hpairs : IslandSide (stageReached 1 s) (forAll (enabledPairs s) rootPair (stageReached 1 s)) :=
    forAll_ind (P := IslandSide (stageReached 1 s)) _ (fun _ _ => rootPair_islandSide) (.refl _)
  have hgroups : IslandSide (stageReached 1 s) (settlingEnd s) := by
    simp only [settlingEnd, hr, hs, Nat.not_lt.2 ht]
    exact groupSteps_islandSide hpairs
  exact (stageReached_still 1 s).islandSide.trans hgroups

/-- The raw count starts at the instant at which REF_IN qualifies (08 R189). -/
theorem refQualified_starts {r : Nat} (hr : s.boot.release = some r) (hs : s.boot.stage = 1)
    (ht : s.time.rawStart = none) :
    refQualified s =
      { s with
        boot.refDone := true, boot.strobe := 2, boot.refWait := s.now - (r + 75 * msU), time.rawStart := some s.now
        time.ancRaw := 0, time.ancDev := 0, time.unsetReason := 1, time.since := s.now, time.estSince := s.now } := by
  simp [refQualified, refStart, hr, hs, ht]

theorem lpTrained_done {rate mib : Nat} (hr : s.boot.inReset = false) (hd : s.boot.lpDone = false) (h1 : 1 ≤ s.boot.stage)
    (h2 : s.boot.stage ≤ 2) (hm : mib ≠ 0) :
    lpTrained rate mib s =
      { s with
        boot.lpDone := true, boot.lpCke := true, boot.storeMode := 1, store.lpMib := mib, store.lpRate := rate % 4 } := by
  simp [lpTrained, hr, hd, hm, Nat.not_lt.2 h1, Nat.not_lt.2 h2]

theorem lpTrained_failed {rate : Nat} (hr : s.boot.inReset = false) (hd : s.boot.lpDone = false) (h1 : 1 ≤ s.boot.stage)
    (h2 : s.boot.stage ≤ 2) :
    lpTrained rate 0 s =
      raiseOnce (evL 0x0A03 0xFFFF) { s with boot.lpDone := true, boot.lpCke := true, boot.storeMode := 2 } := by
  simp [lpTrained, hr, hd, Nat.not_lt.2 h2, Nat.one_le_iff_ne_zero.1 h1]

end

/-- Settles O8: each command is its operation at the command's instant, and what a release leaves is the sum of its steps. -/
theorem releaseAndRoot : Obligations.ReleaseAndRoot := by
  unfold Obligations.ReleaseAndRoot
  refine ⟨?_, ?_, ?_, ?_, ?_, ?_, ?_, ?_, ?_⟩
  · rintro at_ high strap ups ok s u rfl hr hh ht hw hs hl
    exact congrArg Host.Outcome.next (tryRelease_low (mayRelease_true hr hh ht hw hs hl))
  · rintro at_ high strap ups ok s u rfl hr hh ht hw hs hl
    exact congrArg Host.Outcome.next (tryRelease_high (mayRelease_true hr hh ht hw hs hl))
  · rintro at_ high strap ups ok test s u rfl h
    exact congrArg Host.Outcome.next (tryRelease_refused (mayRelease_false h))
  · rintro at_ high strap ups ok s u rfl hr ht hw hs hl
    exact congrArg Host.Outcome.next (tryRelease_low (mayRelease_true hr rfl ht hw hs hl))
  · rintro strap ups ok s t rfl
    obtain ⟨⟨hreset, hrel, hstrap, hnew, hstrobe, hcause, hprev⟩, hq, himage, hflash⟩ := release_spec strap ups ok s
    exact ⟨hreset, hrel, hstrap, hnew, hstrobe, hcause, hprev, fun q h => (hq q h).1, fun q h => (hq q h).2.1,
      fun q h => (hq q h).2.2, himage, hflash⟩
  · rintro at_ r s u rfl hr hs ht
    have h := settlingEnd_spec hr hs ht
    refine ⟨_, rfl, ?_, ?_, h⟩
    · rw [h.boot_eq]
    · rw [h.boot_eq]
  · rintro at_ r s u rfl hr hs ht
    exact congrArg Host.Outcome.next (refQualified_starts hr hs ht)
  · rintro at_ rate mib s u rfl hr hd h1 h2 hm
    exact congrArg Host.Outcome.next (lpTrained_done hr hd h1 h2 hm)
  · rintro at_ rate s u rfl hr hd h1 h2
    exact congrArg Host.Outcome.next (lpTrained_failed hr hd h1 h2)

end Sys2Proof.Machine
end

section
/-! SUPPORT. What the restart of the command processor leaves alone (02 R52; 17 R435, R437): the parameter words, the
safety island, the fuses and the start's registers. -/

namespace Sys2Proof.Machine

/-- The part, the fuses, the start's registers but for its count, the safety island and the parameter words stand. -/
structure RestartSide (s t : State) : Prop where
  part : t.part = s.part
  fuses : t.flash.fuses = s.flash.fuses
  boot : { t.boot with startCount := s.boot.startCount } = s.boot
  safe : t.safe = s.safe
  cfg : t.cfg = s.cfg

theorem RestartSide.refl (s : State) : RestartSide s s := ⟨rfl, rfl, rfl, rfl, rfl⟩

theorem RestartSide.trans {a b c : State} (h : RestartSide a b) (k : RestartSide b c) : RestartSide a c where
  part := k.part.trans h.part
  fuses := k.fuses.trans h.fuses
  safe := k.safe.trans h.safe
  cfg := k.cfg.trans h.cfg
  boot := by
    have e := h.boot
    rw [← k.boot] at e
    exact e

theorem RestartSide.boot_eq {s t : State} (h : RestartSide s t) : t.boot = { s.boot with startCount := t.boot.startCount } := by
  rw [← h.boot]

theorem Still.restartSide {s t : State} (h : Still s t) : RestartSide s t :=
  ⟨h.part, by rw [h.flash_eq], h.boot, h.safe, h.cfg⟩

/-- What follows reports alone. -/
theorem RestartSide.still {a b c : State} (h : RestartSide a b) (k : Still b c) : RestartSide a c := h.trans k.restartSide

theorem Measured.restartSide {s t : State} (h : Measured s t) : RestartSide s t :=
  have k := h.toCalSide.still
  ⟨k.part, by rw [k.flash_eq], k.boot, k.safe, k.cfg⟩

section
variable {s0 s : State}

theorem ite_restartSide {p : Prop} [Decidable p] {a b : State} (ha : RestartSide s0 a) (hb : RestartSide s0 b) :
    RestartSide s0 (if p then a else b) := by split <;> assumption

theorem setQuire_restartSide {q : Nat} {v : Quire} (h : RestartSide s0 s) : RestartSide s0 (setQuire q v s) :=
  h.trans ⟨rfl, rfl, rfl, rfl, rfl⟩
theorem setExc_restartSide {e : Nat} {v : ExcGroup} (h : RestartSide s0 s) : RestartSide s0 (setExc e v s) :=
  h.trans ⟨rfl, rfl, rfl, rfl, rfl⟩
theorem setLane_restartSide {l : Nat} {v : Lane} (h : RestartSide s0 s) : RestartSide s0 (setLane l v s) :=
  h.trans ⟨rfl, rfl, rfl, rfl, rfl⟩
theorem setEns_restartSide {q : Nat} {v : Ensemble} (h : RestartSide s0 s) : RestartSide s0 (setEns q v s) :=
  h.trans ⟨rfl, rfl, rfl, rfl, rfl⟩

theorem abandonFw_restartSide (h : RestartSide s0 s) : RestartSide s0 (abandonFw s) := by
  refine h.trans ?_
  unfold abandonFw
  cases s.cz.fw with
  | none => exact .refl s
  | some x => dsimp only; split <;> exact ⟨rfl, rfl, rfl, rfl, rfl⟩

/-! ### What a restart ends (log entry 90) -/

theorem endReq_still {r : Option Req} (h : Still s0 s) : Still s0 (endReq r s) := by
  cases r with
  | none => exact h
  | some r => exact refuseOr_still h

theorem endCals_measured (h : Measured s0 s) : Measured s0 (endCals s) := by
  refine forAll_ind (P := Measured s0) _ (fun c t ht => ?_) h
  split
  · exact abandonCal_measured ht
  · exact calOutcome_measured ht

theorem endComps_measured (h : Measured s0 s) : Measured s0 (endComps s) :=
  foldl_measured _ (fun _ _ => (refuseOr_still (.refl _)).measured) (h.put _ _ _ rfl)

theorem endDrain_restartSide {q : Nat} (h : RestartSide s0 s) : RestartSide s0 (endDrain q s) := by
  unfold endDrain
  dsimp only
  split
  · exact h
  · refine RestartSide.still (ite_restartSide ?_ (setQuire_restartSide h)) (refuseOr_still (.refl _))
    exact (setQuire_restartSide h).still (toQuire_still (.refl _))

theorem serviceFailed_restartSide {q ecode : Nat} (h : RestartSide s0 s) : RestartSide s0 (serviceFailed q ecode s) := by
  have faulted? (r : Option Req) {t : State} (ht : RestartSide s0 t) :
      RestartSide s0 (match r with | some r => faulted r ecode t | none => t) := by
    cases r with
    | none => exact ht
    | some r => exact ht.still (faulted_still (.refl _))
  exact faulted? _ (faulted? _ (setQuire_restartSide h))

theorem endService_restartSide {q : Nat} (h : RestartSide s0 s) : RestartSide s0 (endService q s) := by
  have hreq : RestartSide s0 (endReq (quire s q).loading (endReq (quire s q).reentryReq s)) :=
    h.still (endReq_still (endReq_still (.refl _)))
  exact ite_restartSide (serviceFailed_restartSide (setQuire_restartSide hreq)) hreq

theorem endPulse_restartSide {e : Nat} (h : RestartSide s0 s) : RestartSide s0 (endPulse e s) := by
  unfold endPulse
  dsimp only
  have hnow : RestartSide s0 (endReq (excOf s e).nowReq (setExc e { excOf s e with nowReq := none } s)) :=
    (setExc_restartSide h).still (endReq_still (.refl _))
  split
  · exact hnow
  · exact (setExc_restartSide hnow).still (endReq_still (.refl _))

theorem endLane_restartSide {l : Nat} (h : RestartSide s0 s) : RestartSide s0 (endLane l s) :=
  (setLane_restartSide h).still (endReq_still (endReq_still (.refl _)))

theorem endHeld_still (h : Still s0 s) : Still s0 (endHeld s) :=
  foldl_still _ (fun _ _ => refuseOr_still (.refl _))
    (forAll_still _ (fun _ t => ite_still (setStream_still (.refl t)) (.refl t)) h)

/-- The commands' side of the spine is what reports may change. -/
theorem still_cz (s : State) (c : Cuzan) : Still s { s with cz := c } :=
  ⟨rfl, rfl, rfl, rfl, rfl, rfl, rfl, rfl, rfl, rfl, rfl, rfl, rfl, rfl, rfl, rfl, rfl, rfl, rfl, rfl, rfl, rfl, rfl, rfl⟩

theorem dropCommits_still {edge : Nat} (h : Still s0 s) : Still s0 (dropCommits edge s) :=
  foldl_still _ (fun _ _ => refuseOr_still (onSession_still (forAll_still _ (fun _ _ => toQuire_still (.refl _)) (.refl _))))
    (h.trans (still_cz ..))

theorem endFw_restartSide {x : FwTransfer} (h : RestartSide s0 s) : RestartSide s0 (endFw x s) :=
  (abandonFw_restartSide h).still (endReq_still (endReq_still (.refl _)))

theorem endWaiting_restartSide (h : RestartSide s0 s) : RestartSide s0 (endWaiting s) := by
  unfold endWaiting
  extract_lets commits cz sched time step verifyCz verify
  have hsched : RestartSide s0 sched :=
    h.still (foldl_still _ (fun _ _ => refuseOr_still (.refl _)) ((dropCommits_still (.refl _)).trans (still_cz ..)))
  clear_value sched
  have hstep : RestartSide s0 step := by
    unfold step
    split
    · exact hsched
    · have hnone : RestartSide s0 { sched with time.step := none } := hsched.trans ⟨rfl, rfl, rfl, rfl, rfl⟩
      exact hnone.still (endReq_still (forAll_still _ (fun _ _ => toQuire_still (.refl _)) (.refl _)))
  clear_value step
  have hverify : RestartSide s0 verify := hstep.still (endReq_still (still_cz ..))
  clear_value verify
  split
  · exact hverify
  · exact ite_restartSide hverify (endFw_restartSide hverify)

end

/-- A restart notes its image and leaves the rest as it was. -/
theorem cpRestart_side (i : Nat) (s : State) : RestartSide { s with boot.restart := some i } (cpRestart i s) := by
  unfold cpRestart
  extract_lets boot noted injected calibrated served pulsed
  have hcal : Measured noted calibrated := by
    refine extLost_measured (endComps_measured (endCals_measured ?_))
    exact forAll_ind (P := Measured noted) _ (fun _ _ => endInjections_measured) (.refl _)
  have hserved : RestartSide noted served :=
    forAll_ind (P := RestartSide noted) _ (fun _ _ h => endService_restartSide (endDrain_restartSide h)) hcal.restartSide
  have hpulsed : RestartSide noted pulsed := forAll_ind (P := RestartSide noted) _ (fun _ _ => endPulse_restartSide) hserved
  have hlanes : RestartSide noted (forAll (List.range 8) endLane pulsed) :=
    forAll_ind (P := RestartSide noted) _ (fun _ _ => endLane_restartSide) hpulsed
  exact endWaiting_restartSide (hlanes.still (endHeld_still (.refl _)))

/-! ### The restart ends (17 R435 to R437) -/

section
variable {s0 s : State}

theorem closeSession_restartSide {id : Nat} (h : RestartSide s0 s) : RestartSide s0 (closeSession id s) := by
  have hdrop : RestartSide s0 (dropSession id (dropReplies id s)) :=
    h.still (dropSession_still (dropReplies_still (.refl _)))
  unfold closeSession endSession
  dsimp only
  split
  · exact hdrop
  · exact ite_restartSide (abandonFw_restartSide hdrop) hdrop

theorem sendLate_still {x : LateReply} (h : Still s0 s) : Still s0 (sendLate x s) :=
  ite_still (answerOr_still h) (replyTo_still h)

theorem startQuick_restartSide {q : Nat} (h : RestartSide s0 s) : RestartSide s0 (startQuick q s) :=
  ite_restartSide h (setEns_restartSide h)

theorem goBack_still {n : Nat} (h : Still s0 s) : Still s0 (goBack n s) := by
  unfold goBack
  dsimp only
  split
  · exact h
  · exact setStream_still h

end

/-! ### Packets that wait unread in RING0 -/

theorem drainUnread_nil {s : State} (h : s.cz.unread = []) : drainUnread s = s := by
  unfold drainUnread
  rw [h]
  show { s with cz.unread := [] } = s
  rw [← h]

theorem abandonFw_unread (s : State) : (abandonFw s).cz.unread = s.cz.unread := by
  unfold abandonFw
  cases s.cz.fw with
  | none => rfl
  | some x => dsimp only; split <;> rfl

theorem closeSession_unread (id : Nat) (s : State) : (closeSession id s).cz.unread = s.cz.unread := by
  unfold closeSession endSession
  dsimp only
  split
  · rfl
  · split
    · rw [abandonFw_unread]; rfl
    · rfl

@[simp] theorem onSession_unread (id : Nat) (f : Session → Session) (s : State) :
    (onSession id f s).cz.unread = s.cz.unread := rfl

theorem replyIn_unread (v : Session) (r : Req) (st : Nat) (final : Bool) (body : List Byte) (s : State) :
    (replyIn v r st final body s).cz.unread = s.cz.unread := by
  unfold replyIn
  split
  · rfl
  · unfold sendReply
    rw [onSession_unread]
    exact congrArg Cuzan.unread (List.foldlRecOn _ _ (motive := fun t => t.cz = s.cz) rfl
      fun t ht b _ => (sendBytes_cz _ _ _ b t).trans ht)

theorem sendLate_unread (x : LateReply) (s : State) : (sendLate x s).cz.unread = s.cz.unread := by
  unfold sendLate answerOr replyTo
  split
  · split
    · exact replyIn_unread ..
    · rw [raise_cz]
  · split
    · rfl
    · exact replyIn_unread ..

theorem startQuick_cz (q : Nat) (s : State) : (startQuick q s).cz = s.cz := by
  unfold startQuick; dsimp only; split <;> rfl

theorem goBack_cz (n : Nat) (s : State) : (goBack n s).cz = s.cz := by
  unfold goBack; dsimp only; split <;> rfl

/-- The image runs again from state `s`, and nothing that was unread is taken or lost. -/
def RestartEnded (i : Nat) (s t : State) : Prop :=
  RestartSide { s with boot.restart := none, boot.image := i } t ∧ t.cz.unread = s.cz.unread

theorem RestartEnded.still {i : Nat} {s t u : State} (h : RestartEnded i s t) (k : Still t u)
    (hu : u.cz.unread = t.cz.unread) : RestartEnded i s u := ⟨h.1.still k, hu.trans h.2⟩

/-- The end of a restart leaves the rest as it was. -/
theorem cpDone_spec {i : Nat} (lost : Bool) {s : State} (h : s.boot.restart = some i) : RestartEnded i s (cpDone lost s) := by
  unfold cpDone
  rw [h]
  dsimp only
  refine forAll_ind (P := RestartEnded i s) _ (fun n t ht => ht.still (goBack_still (.refl t)) (by rw [goBack_cz])) ?_
  refine forAll_ind (P := RestartEnded i s) _
    (fun q t ht => ⟨startQuick_restartSide ht.1, by rw [startQuick_cz]; exact ht.2⟩) ?_
  refine List.foldlRecOn _ _ (motive := RestartEnded i s) ?_
    fun t ht x _ => ht.still (sendLate_still (.refl t)) (sendLate_unread x t)
  refine RestartEnded.still (RestartEnded.still ?_ (still_cz _ _) rfl) (still_cz _ _) rfl
  exact forAll_ind (P := RestartEnded i s) _
    (fun id t ht => ⟨closeSession_restartSide ht.1, (closeSession_unread id t).trans ht.2⟩) ⟨.refl _, rfl⟩

/-! ### The watchdog (02 R52) -/

section
variable {s : State}

/-- An expiry that is not a second within 60 s restarts the command processor alone. -/
theorem watchdog_restarts (cut : Bool) (hfw : s.boot.fwRuns = true) (h60 : within60 s.boot.lastWatchdog s = false)
    (hswap : s.boot.swapped = none) :
    watchdog cut s = cpRestart (s.boot.restart.getD s.boot.image)
      (raise (ev 0x0F04 0xFFFF) { s with boot.lastWatchdog := some s.now }) := by
  unfold watchdog
  rw [if_neg (by simp [hfw]), if_neg (by simp [h60])]
  extract_lets boot raised
  have hboot : raised.boot = { boot with startCount := raised.boot.startCount, lastWatchdog := some s.now } :=
    (raise_still (.refl { s with boot.lastWatchdog := some s.now })).boot_eq
  have hnone : raised.boot.swapped = none := by rw [hboot]; exact hswap
  have himage : raised.boot.restart.getD raised.boot.image = s.boot.restart.getD s.boot.image := by rw [hboot]
  rw [hnone, himage]

theorem watchdog_resets (cut : Bool) {k : Nat} (hfw : s.boot.fwRuns = true) (hk : s.boot.lastWatchdog = some k)
    (h : s.now < k + 60 * secU) : watchdog cut s = enterReset 16 (abandonWrite cut s) := by
  simp [watchdog, hfw, hk, within60, h]

/-! ### The management bus (02 R53, R54) -/

theorem mgmtRead_listed (n : Nat) (block : Bool) {addr off v : Nat} (hreset : s.boot.inReset = false)
    (haddr : addr = 0x4C + s.boot.strap) (hv : mgRegister s off = some v) :
    mgmtRead addr off n block false s = emit (.mgmt true (mgBytes addr off n v block))
      { s with boot.mgmtReg := v, boot.mgmtHeld := decide (n < 4) } := by
  simp [mgmtRead, hreset, haddr, hv]

theorem mgmtRead_notAcknowledged (n : Nat) (block extra : Bool) {addr off : Nat}
    (h : s.boot.inReset = true ∨ addr ≠ 0x4C + s.boot.strap ∨ mgRegister s off = none) :
    mgmtRead addr off n block extra s = emit (.mgmt false []) s := by
  unfold mgmtRead
  split
  · rfl
  next =>
    have hnone : mgRegister s off = none := by tauto
    cases extra <;> simp [hnone]

/-! ### Recovery (11 R296) -/

theorem recoveryGo_starts {target : Nat} (hold : s.boot.hold = 2) (h1 : 1 ≤ target) (h2 : target ≤ 2)
    (hmin : 4096 ≤ s.host.recovery.len) (hmax : s.host.recovery.len ≤ fwSize) :
    recoveryGo target s = { s with host.recovery.target := target, host.recovery.state := 1, host.recovery.percent := 0 } := by
  have hok : ¬ (target = 0 ∨ 3 ≤ target ∨ s.host.recovery.len < 4096 ∨ fwSize < s.host.recovery.len) := by omega
  simp [recoveryGo, hold, hok]

/-- A write of GO with a target reaches the loader. -/
theorem barWrite_recoveryGo {target : Nat} (hans : answers s 0x8000 = true) (hold : s.boot.hold = 2) (h1 : 1 ≤ target)
    (h2 : target ≤ 2) : barWrite 0x8000 4 (2 ^ 31 + target % 4) true s = recoveryGo target s := by
  have hwrite (v : Nat) : barWrite4 0x8000 v s = recoveryWrite 0 v 0x8000 s := by simp [barWrite4]
  have hgo : recoveryWrite 0 (2 ^ 31 + target) 0x8000 s = recoveryGo target s := by
    obtain rfl | rfl : target = 1 ∨ target = 2 := by omega
    · simp [recoveryWrite, hold, bit, bits]
    · simp [recoveryWrite, hold, bit, bits]
  have hv : (2 ^ 31 + target % 4) % 2 ^ 32 = 2 ^ 31 + target := by omega
  simp only [barWrite, hans, hv, hwrite, hgo]
  simp

/-- A recovery under way goes on by its step. -/
theorem recoveryDone_step (image left : List Byte) (outcome percent : Nat) (hold : s.boot.hold = 2)
    (h1 : 1 ≤ s.host.recovery.state) (h3 : s.host.recovery.state ≤ 3) :
    recoveryDone image left outcome percent s = recoveryStep image left outcome percent s := by
  have hrun : ¬ (s.host.recovery.state = 0 ∨ 4 < s.host.recovery.state) := by omega
  have hdone : s.host.recovery.state ≠ 4 := by omega
  simp [recoveryDone, hold, hrun, hdone]

theorem recoveryDone_resets (image left : List Byte) (outcome percent : Nat) (hold : s.boot.hold = 2)
    (hdone : s.host.recovery.state = 4) : recoveryDone image left outcome percent s = enterReset 8 s := by
  simp [recoveryDone, hold, hdone]

theorem recoveryStep_programs (image left : List Byte) (percent : Nat)
    (hok : s.flash.bad.contains s.host.recovery.target = false) :
    recoveryStep image left 0 percent s =
      let k := s.host.recovery.target
      let g := recoveryTable (image.take s.host.recovery.len)
      if imgCheck (setPartition k g s) k = 0
        then setImgState k 1 (setPartition k g { s with host.recovery.state := 4, host.recovery.percent := 100 })
        else { s with host.recovery.state := 5 } := by
  simp only [recoveryStep, hok, Bool.false_eq_true, ite_not]
  simp

theorem recoveryStep_phase (image left : List Byte) {phase : Nat} (percent : Nat) (h1 : 1 ≤ phase) (h3 : phase ≤ 3) :
    recoveryStep image left phase percent s =
      recoveryPhase (recoveryTable (image.take s.host.recovery.len)) phase percent s := by
  simp [recoveryStep, h1, h3]

end

/-! ### A TRIAL image becomes GOOD (02 R46; 16 R421) -/

theorem partition_setPartition (i : Nat) (t : Tab Nat) (s : State) : partition (setPartition i t s) i = t := by
  match i with
  | 0 => rfl
  | 1 => rfl
  | 2 => rfl
  | _ + 3 => rfl

theorem setPartition_flash (i : Nat) (t : Tab Nat) (s : State) :
    setPartition i t s = { s with flash := (setPartition i t s).flash } := by
  unfold setPartition
  split <;> rfl

theorem setPartition_fuses (i : Nat) (t : Tab Nat) (s : State) : (setPartition i t s).flash.fuses = s.flash.fuses := by
  unfold setPartition
  split <;> rfl

/-- The partitions are flash's, and no other part of it is read. -/
theorem partition_congr {s t : State} (ha : t.flash.fwA = s.flash.fwA) (hb : t.flash.fwB = s.flash.fwB)
    (hu : t.flash.ucode = s.flash.ucode) (i : Nat) : partition t i = partition s i := by
  unfold partition
  split <;> assumption

theorem Still.partition_eq {s t : State} (h : Still s t) (i : Nat) : partition t i = partition s i :=
  partition_congr (by rw [h.flash_eq]) (by rw [h.flash_eq]) (by rw [h.flash_eq]) i

/-- A TRIAL image with its GOOD byte programmed is GOOD. -/
theorem imgState_good {g : Tab Nat} (h : imgState g = 1) : imgState (programByte g 449) = 2 := by
  have hbad : programmed g 450 = false := by
    by_contra hb
    simp [imgState, eq_true_of_ne_false hb] at h
  have hbyte (i : Nat) : programmed (programByte g 449) i = if 449 = i then true else programmed g i := by
    unfold programmed programByte
    rw [flashByte_put]
    split <;> simp
  simp [imgState, hbyte, hbad]

/-- The fuse minimum that an image asks for. -/
def fusesFor (g : Tab Nat) (fuses : Nat) : Nat := if imgLock g then max fuses (min 32 (imgSecurity g)) else fuses

theorem fusesFor_eq (g : Tab Nat) (fuses : Nat) :
    fusesFor g fuses = if imgLock g && decide (fuses < min 32 (imgSecurity g)) then min 32 (imgSecurity g) else fuses := by
  unfold fusesFor
  cases imgLock g with
  | false => rfl
  | true => simp only [max_def, Bool.true_and, decide_eq_true_eq, if_true]; split <;> split <;> omega

theorem raiseFuses_still (g : Tab Nat) (s : State) :
    Still { s with flash.fuses := fusesFor g s.flash.fuses } (raiseFuses g s) := by
  rw [fusesFor_eq]
  by_cases h : (imgLock g && decide (s.flash.fuses < min 32 (imgSecurity g))) = true
  · simp only [raiseFuses, h, if_true]
    exact jInternal_still (.refl _)
  · simp only [raiseFuses, h]
    exact .refl _

/-- Where all but flash stands, flash itself may be named. -/
theorem Still.flash_named {s t : State} {f : Flash} (h : Still { s with flash := f } t) : Still { s with flash := t.flash } t :=
  { h with flash := rfl, boot := h.boot }

theorem Still.onFlash {s t : State} (h : Still s t) (f : Flash) : Still { s with flash := f } { t with flash := f } :=
  { h with flash := rfl, boot := h.boot }

/-- An image held in Crown by the command processor becomes GOOD and may raise the fuse minimum. -/
theorem trialGood_spec {g : Tab Nat} {s : State} (hheld : heldCrown s = true) (himage : s.boot.image = 1 ∨ s.boot.image = 2)
    (hg : g = partition s s.boot.image) (htrial : imgState g = 1) :
    partition (trialGood s) s.boot.image = programByte g 449
      ∧ (trialGood s).flash.fuses = fusesFor g s.flash.fuses
      ∧ Still { s with flash := (trialGood s).flash } (trialGood s) := by
  let good := setPartition s.boot.image (programByte g 449) s
  let told := raise (ev 0x0F10 0xFFFF)
    (jInternal 0xFF03 (le 1 s.boot.image ++ le 1 0 ++ le 2 (imgSecurity g) ++ le 4 (imgGeneration g)) good)
  have htold : Still good told := raise_still (jInternal_still (.refl good))
  have hrun : trialGood s = raiseFuses g told := by
    subst hg
    unfold trialGood
    dsimp only
    rw [if_pos ⟨hheld, himage, htrial⟩]
    rfl
  have hfuses : told.flash.fuses = s.flash.fuses := by
    rw [htold.flash_eq]
    exact setPartition_fuses ..
  have hlast : Still { told with flash.fuses := fusesFor g s.flash.fuses } (trialGood s) := by
    rw [hrun, ← hfuses]
    exact raiseFuses_still g told
  refine ⟨?_, by rw [hlast.flash_eq], ?_⟩
  · calc partition (trialGood s) s.boot.image = partition told s.boot.image := hlast.partition_eq _
      _ = partition good s.boot.image := htold.partition_eq _
      _ = programByte g 449 := partition_setPartition ..
  · have hgood : Still { s with flash := good.flash } told := by
      rw [← setPartition_flash]
      exact htold
    exact ((hgood.onFlash { told.flash with fuses := fusesFor g s.flash.fuses }).trans hlast).flash_named

/-- Settles O10: each command is its operation at the command's instant; a restart and its end by what they leave alone. -/
theorem watchdogAndRecovery : Obligations.WatchdogAndRecovery := by
  unfold Obligations.WatchdogAndRecovery
  refine ⟨?_, ?_, ?_, ?_, ?_, ?_, ?_, ?_, ?_, ?_, ?_, ?_⟩
  · rintro at_ cut s u rfl hfw h60 hswap
    exact congrArg Host.Outcome.next (watchdog_restarts cut hfw h60 hswap)
  · rintro at_ k cut s u rfl hfw hk h
    exact congrArg Host.Outcome.next (watchdog_resets cut hfw hk h)
  · intro i s t ht
    have h : RestartSide { s with boot.restart := some i } t := by rw [ht]; exact cpRestart_side i s
    exact ⟨by rw [h.boot_eq], by rw [h.boot_eq], h.cfg, by rw [h.safe], h.fuses, h.part⟩
  · rintro at_ i lost s u rfl hrestart hunread
    obtain ⟨h, hkept⟩ := cpDone_spec lost hrestart
    have hrun : exec (.cpRestartDone at_ lost) s = .next (cpDone lost (s.tick at_)) :=
      congrArg Host.Outcome.next (drainUnread_nil (hkept.trans hunread))
    generalize cpDone lost (s.tick at_) = t at *
    exact ⟨t, hrun, by rw [h.boot_eq], by rw [h.boot_eq], h.fuses, h.cfg, h.safe⟩
  · rintro at_ addr off n v block s u rfl hreset haddr hv
    exact congrArg Host.Outcome.next (mgmtRead_listed n block hreset haddr hv)
  · rintro at_ addr off n block extra s u rfl h
    exact congrArg Host.Outcome.next (mgmtRead_notAcknowledged n block extra h)
  · rintro at_ s u rfl
    rfl
  · rintro at_ target s u rfl hans hold h1 h2 hmin hmax
    exact congrArg Host.Outcome.next
      ((barWrite_recoveryGo hans hold h1 h2).trans (recoveryGo_starts hold h1 h2 hmin hmax))
  · rintro at_ image left percent k g s u rfl hold h1 h3 rfl rfl hbad
    exact congrArg Host.Outcome.next
      ((recoveryDone_step image left 0 percent hold h1 h3).trans (recoveryStep_programs image left percent hbad))
  · rintro at_ image left phase percent k g s u rfl hold h1 hphase h3 rfl rfl
    refine congrArg Host.Outcome.next ((recoveryDone_step image left phase percent hold h1 (hphase.trans h3)).trans ?_)
    rw [recoveryStep_phase image left percent (h1.trans hphase) h3]
    exact if_neg (Nat.not_lt.2 hphase)
  · rintro at_ image left outcome percent s u rfl hold hdone
    exact congrArg Host.Outcome.next (recoveryDone_resets image left outcome percent hold hdone)
  · rintro at_ g s u rfl hheld himage hg htrial
    obtain ⟨hpart, hfuses, hstill⟩ := trialGood_spec hheld himage hg htrial
    refine ⟨trialGood (s.tick at_), rfl, hpart, ?_, hfuses, hstill⟩
    rw [hpart]
    exact imgState_good htrial

end Sys2Proof.Machine
end

section
/-! SUPPORT. Comparisons and warming (07 R159 to R168; 02 R49): which parts of the state each operation of a quire's
ensemble may change, and what it makes of the ensemble itself. -/

namespace Sys2Proof.Machine

/-! ### What an operation on one quire's ensemble leaves alone -/

/-- Reports and the calibration manager alone differ, and of the ensembles the quire's own. -/
structure EnsOnly (q : Nat) (s t : State) : Prop where
  still : Still { s with cal := t.cal } t
  others : ∀ x, x ≠ q → ensOf t x = ensOf s x

/-- As `EnsOnly`, with the channels' coefficients. -/
structure EnsChans (q : Nat) (s t : State) : Prop where
  still : Still { s with cal := t.cal, chans := t.chans } t
  others : ∀ x, x ≠ q → ensOf t x = ensOf s x

/-- As `EnsOnly`, with flash: the growth ring and the journal. -/
structure EnsFlash (q : Nat) (s t : State) : Prop where
  still : Still { s with cal := t.cal, flash := t.flash } t
  others : ∀ x, x ≠ q → ensOf t x = ensOf s x

section
variable {q : Nat} {s t a b c : State}

theorem EnsOnly.trans (h : EnsOnly q a b) (k : EnsOnly q b c) : EnsOnly q a c where
  still := Still.trans (b := { b with cal := c.cal })
    { h.still with cal := rfl, flash := h.still.flash, boot := h.still.boot } k.still
  others x hx := (k.others x hx).trans (h.others x hx)

theorem EnsChans.trans (h : EnsChans q a b) (k : EnsChans q b c) : EnsChans q a c where
  still := Still.trans (b := { b with cal := c.cal, chans := c.chans })
    { h.still with cal := rfl, chans := rfl, flash := h.still.flash, boot := h.still.boot } k.still
  others x hx := (k.others x hx).trans (h.others x hx)

theorem EnsFlash.trans (h : EnsFlash q a b) (k : EnsFlash q b c) : EnsFlash q a c where
  still := Still.trans (b := { b with cal := c.cal, flash := c.flash })
    { h.still with cal := rfl, flash := rfl, boot := h.still.boot } k.still
  others x hx := (k.others x hx).trans (h.others x hx)

theorem Still.ensOnly (h : Still s t) : EnsOnly q s t where
  still := { h with cal := rfl, flash := h.flash, boot := h.boot }
  others x _ := h.ensOf_eq x

theorem EnsOnly.ensChans (h : EnsOnly q s t) : EnsChans q s t where
  still := { h.still with chans := rfl, flash := h.still.flash, boot := h.still.boot }
  others := h.others

theorem EnsOnly.ensFlash (h : EnsOnly q s t) : EnsFlash q s t where
  still := { h.still with flash := rfl, boot := h.still.boot }
  others := h.others

theorem Still.ensFlash (h : Still s t) : EnsFlash q s t := h.ensOnly.ensFlash

theorem setEns_ensOnly (v : Ensemble) : EnsOnly q s (setEns q v s) := ⟨.refl _, fun _ hx => ensOf_setEns_ne hx v s⟩

theorem EnsOnly.cfBit_eq (h : EnsOnly q s t) (b inst off i : Nat) : cfBit t b inst off i = cfBit s b inst off i := by
  have hcfg : t.cfg = s.cfg := h.still.cfg
  have hsafe : t.safe = s.safe := h.still.safe
  unfold cfBit word
  rw [hcfg, hsafe]

/-- The instants of the sinc outputs are the clock's and the timebase's. -/
theorem EnsOnly.sincNext_eq (h : EnsOnly q s t) : sincNext t = sincNext s := by
  unfold sincNext
  rw [h.still.devNow_eq]
  rfl

theorem EnsFlash.inService_eq (h : EnsFlash q s t) (k : Nat) : inService t k = inService s k := by
  rw [h.still.inService_eq]
  rfl

/-! ### Commands that wait for a comparison -/

theorem compDone_ensOf (ran : Bool) (x : Nat) : ensOf (compDone q ran s) x = ensOf s x := by
  obtain ⟨cal, hens, hstill⟩ := compDone_spec q ran s
  rw [hstill.ensOf_eq]
  unfold ensOf
  rw [hens]

theorem compDone_ensOnly (ran : Bool) : EnsOnly q s (compDone q ran s) where
  still := by
    obtain ⟨cal, _, hstill⟩ := compDone_spec q ran s
    have hcal : (compDone q ran s).cal = cal := hstill.cal
    rw [hcal]
    exact hstill
  others x _ := compDone_ensOf ran x

/-! ### The start of a comparison (07 R162, R163, R186) -/

theorem startQuick_starts (h0 : (ensOf s q).warm ≠ 0) (h1 : (ensOf s q).warm ≠ 1) (h5 : (ensOf s q).warm ≠ 5)
    (hs : inService s q = true) :
    startQuick q s = setEns q { latchPolicy s q (ensOf s q) with comparing := 1, compStart := s.now } s := by
  simp [startQuick, h0, h1, h5, hs]

theorem fullDue_starts {e : Nat} (hnext : (ensOf s q).nextFull = some e) (hdue : e ≤ s.now)
    (hidle : (ensOf s q).comparing = 0) (hwarm : (ensOf s q).warm = 3 ∨ (ensOf s q).warm = 4) (hs : inService s q = true) :
    fullDue q s = setEns q { latchPolicy s q (ensOf s q) with
      comparing := 2, compStart := s.now, nextFull := some (s.now + cf s 0x0501 q 8 15 0 * secU) } s := by
  simp [fullDue, hnext, Nat.not_lt.2 hdue, hidle, hwarm, hs]

theorem quickDue_starts (hwarm : (ensOf s q).warm = 2) (hdue : (ensOf s q).lastQuick + 60 * secU ≤ s.now)
    (hs : inService s q = true) : EnsOnly q s (quickDue q s) ∧ ensOf (quickDue q s) q =
      { latchPolicy s q (ensOf s q) with lastQuick := s.now, comparing := 1, compStart := s.now } := by
  let noted := setEns q { ensOf s q with lastQuick := s.now } s
  have hens : ensOf noted q = { ensOf s q with lastQuick := s.now } := ensOf_setEns_self ..
  have hw : (ensOf noted q).warm = 2 := by rw [hens]; exact hwarm
  have hrun : quickDue q s = setEns q { latchPolicy noted q (ensOf noted q) with comparing := 1, compStart := s.now } noted := by
    unfold quickDue
    rw [if_pos ⟨hwarm, hdue⟩]
    exact startQuick_starts (by rw [hw]; decide) (by rw [hw]; decide) (by rw [hw]; decide) hs
  rw [hrun]
  exact ⟨(setEns_ensOnly _).trans (setEns_ensOnly _), by rw [ensOf_setEns_self, hens]; rfl⟩

theorem unlessPaused_runs {f : State → State} (h : s.boot.restart = none) : unlessPaused f s = f s := by
  simp [unlessPaused, h]

/-! ### A member's state (07 R160, R166) -/

theorem zener_setZener {i j : Nat} (v : Member) (e : Ensemble) (hj : j < 8) :
    zener (setZener i v e) j = if j = i then v else zener e j := by
  simp [zener, setZener, hj]

/-- Nothing of an ensemble but its members' states differs. -/
structure StatesOnly (e e' : Ensemble) : Prop where
  rest : { e' with members := e.members } = e
  d : ∀ j, j < 8 → (zener e' j).d = (zener e j).d

theorem StatesOnly.refl (e : Ensemble) : StatesOnly e e := ⟨rfl, fun _ _ => rfl⟩

theorem StatesOnly.eq {e e' : Ensemble} (h : StatesOnly e e') : e' = { e with members := e'.members } := by
  rw [← h.rest]

theorem StatesOnly.trans {a b c : Ensemble} (h : StatesOnly a b) (k : StatesOnly b c) : StatesOnly a c where
  rest := by
    rw [k.eq]
    exact h.rest
  d j hj := (k.d j hj).trans (h.d j hj)

theorem writeRing_flash (q kind : Nat) (body : List Byte) (s : State) : ∃ f, writeRing q kind body s = { s with flash := f } := by
  have hmerge : ∃ f, ringMerge q s = { s with flash := f } := by
    unfold ringMerge
    split
    · exact ⟨_, rfl⟩
    · split <;> exact ⟨_, rfl⟩
  obtain ⟨f, hf⟩ := hmerge
  unfold writeRing writeRingAt
  dsimp only
  rw [hf]
  split
  · exact ⟨_, rfl⟩
  · split <;> exact ⟨_, rfl⟩

theorem writeRing_ensFlash (k kind : Nat) (body : List Byte) : EnsFlash q s (writeRing k kind body s) := by
  obtain ⟨f, hf⟩ := writeRing_flash k kind body s
  rw [hf]
  exact ⟨.refl _, fun _ _ => rfl⟩

theorem writeRing_ensOf (k kind : Nat) (body : List Byte) (x : Nat) : ensOf (writeRing k kind body s) x = ensOf s x := by
  obtain ⟨f, hf⟩ := writeRing_flash k kind body s
  rw [hf]
  rfl

theorem memberState_same {i st : Nat} (r : Rat) (internal : Bool) (h : (zener (ensOf s q) i).state = st) :
    memberState q i st r internal s = s := if_pos h

/-- A change of a member's state writes the ring and the reports, and changes that member's state alone. -/
theorem memberState_changes {i st : Nat} (r : Rat) (internal : Bool) (h : (zener (ensOf s q) i).state ≠ st) :
    EnsFlash q s (memberState q i st r internal s) ∧
      ensOf (memberState q i st r internal s) q = setZener i { zener (ensOf s q) i with state := st } (ensOf s q) := by
  unfold memberState
  extract_lets e v set k told written raised
  rw [if_neg (show ¬ v.state = st from h)]
  have htold : Still set told := ite_still (jInternal_still (.refl _)) (.refl _)
  have hlast : Still written (if st = 3 ∨ st = 4 then raiseOnce (evL 0x0702 (8 * q + i)) raised
      else clearCause 0x0702 (8 * q + i) raised) :=
    ite_still (raiseOnce_still (raise_still (.refl _))) (clearCause_still (raise_still (.refl _)))
  refine ⟨(setEns_ensOnly _).ensFlash.trans (htold.ensFlash.trans ((writeRing_ensFlash ..).trans hlast.ensFlash)), ?_⟩
  calc ensOf _ q = ensOf written q := hlast.ensOf_eq q
    _ = ensOf told q := writeRing_ensOf ..
    _ = ensOf set q := htold.ensOf_eq q
    _ = _ := ensOf_setEns_self ..

theorem memberState_ensFlash (i st : Nat) (r : Rat) (internal : Bool) : EnsFlash q s (memberState q i st r internal s) := by
  by_cases h : (zener (ensOf s q) i).state = st
  · rw [memberState_same r internal h]
    exact (Still.refl s).ensFlash
  · exact (memberState_changes r internal h).1

theorem memberState_statesOnly (i st : Nat) (r : Rat) (internal : Bool) :
    StatesOnly (ensOf s q) (ensOf (memberState q i st r internal s) q) := by
  by_cases h : (zener (ensOf s q) i).state = st
  · rw [memberState_same r internal h]
    exact .refl _
  · rw [(memberState_changes r internal h).2]
    refine ⟨rfl, fun j hj => ?_⟩
    rw [zener_setZener _ _ hj]
    split
    next e => rw [e]
    · rfl

theorem memberState_state (i st : Nat) (r : Rat) (internal : Bool) {j : Nat} (hj : j < 8) :
    (zener (ensOf (memberState q i st r internal s) q) j).state = if j = i then st else (zener (ensOf s q) j).state := by
  by_cases h : (zener (ensOf s q) i).state = st
  · rw [memberState_same r internal h]
    split
    next e => rw [e, h]
    · rfl
  · rw [(memberState_changes r internal h).2, zener_setZener _ _ hj]
    split <;> rfl

theorem judgeMember_d (limit : Nat) (v : Member) : (judgeMember limit v).1.d = v.d := by
  unfold judgeMember
  dsimp only
  split_ifs <;> rfl

/-! ### The new working scale (07 R164, R165) -/

/-- A publication runs its update and then notes slews of channels. -/
theorem publish_ind {P : State → Prop} {cs : List Nat} {from_ : Nat} {step : Bool} {f : State → State}
    (h : ∀ chans, P { f s with chans := chans }) : P (publish cs from_ step f s) := by
  have hind : ∃ chans, publish cs from_ step f s = { f s with chans := chans } := by
    refine forAll_ind (P := fun t => ∃ chans, t = { f s with chans := chans }) cs (fun c t ht => ?_) ⟨_, rfl⟩
    refine forAll_ind (P := fun t => ∃ chans, t = { f s with chans := chans }) _ (fun g u hu => ?_) ht
    dsimp only
    split
    · exact hu
    · obtain ⟨chans, rfl⟩ := hu
      exact ⟨_, rfl⟩
  obtain ⟨chans, hc⟩ := hind
  rw [hc]
  exact h chans

/-- Nothing of an ensemble but its scale and what it says of the scale differs. -/
def Rescaled (e e' : Ensemble) : Prop :=
  { e' with fEns := e.fEns, inMedian := e.inMedian, qs := e.qs, uEns := e.uEns, lastComp := e.lastComp, dayAvg := e.dayAvg } = e

section
variable {e e' : Ensemble} (h : Rescaled e e')
include h

theorem Rescaled.comparing : e'.comparing = e.comparing := by rw [← h]
theorem Rescaled.fullCount : e'.fullCount = e.fullCount := by rw [← h]
theorem Rescaled.dayComp : e'.dayComp = e.dayComp := by rw [← h]
theorem Rescaled.zener (i : Nat) : zener e' i = Machine.zener e i := by rw [← h]; rfl

end

theorem newScale_spec (full : Bool) :
    EnsChans q s (newScale q full s) ∧ Rescaled (ensOf s q) (ensOf (newScale q full s) q) := by
  unfold newScale
  extract_lets e m told
  have htold : Still s told := ite_still (raiseOnce_still (.refl _)) (clearCause_still (.refl _))
  have hens : ensOf told q = ensOf s q := htold.ensOf_eq q
  split
  · exact ⟨htold.ensOnly.ensChans, by rw [hens]; rfl⟩
  · refine publish_ind (P := fun t => EnsChans q s t ∧ Rescaled (ensOf s q) (ensOf t q)) fun chans => ⟨?_, ?_⟩
    · exact htold.ensOnly.ensChans.trans ⟨.refl _, fun x hx => ensOf_setEns_ne hx _ told⟩
    · rw [← hens]
      exact (congrArg (Rescaled (ensOf told q)) (ensOf_setEns_self q _ told)).mpr rfl

/-! ### A comparison that is complete (07 R160, R162, R166) -/

/-- The deviations that a comparison found, those of disconnected members as they were. -/
def foundDeviations (q : Nat) (s : State) : List Rat :=
  (List.range 8).map fun i => if (measuredMembers (ensOf s q)).contains i then deviation s q i else (zener (ensOf s q) i).d

/-- The members that a comparison found open, shorted or far off. -/
def hardMembers (q : Nat) (l : List Bool) (s : State) : List Nat :=
  (measuredMembers (ensOf s q)).filter fun i => l.getD i false || decide (1000000 < rabs ((foundDeviations q s).getD i 0))

/-- A member with its measured deviation, the state that it takes and its residual. -/
def comparedMember (e : Ensemble) (full : Bool) (d : List Rat) (i : Nat) : Member × Nat × Rat :=
  let v := zener e i
  if ¬ connected v then (v, v.state, (0 : Rat))
  else
    let x := d.getD i 0
    let v := { v with d := x }
    if full then judgeMember e.outPpb { v with full := (x :: v.full).take 2 }
    else ({ v with quick := (x :: v.quick).take 10 }, v.state, (0 : Rat))

def comparedMembers (e : Ensemble) (full : Bool) (d : List Rat) : List (Member × Nat × Rat) :=
  (List.range 8).map (comparedMember e full d)

/-- The ensemble after a comparison without a hard failure, before its members change state. -/
def comparedEns (e : Ensemble) (full : Bool) (d : List Rat) : Ensemble :=
  let upd := comparedMembers e full d
  { e with members := upd.map (·.1), comparing := 0, refShift := false,
           fullCount := e.fullCount + b2n full, dayComp := e.dayComp + b2n full,
           dayDev := if full then (upd.map fun p => p.1.d - p.1.k) :: e.dayDev else e.dayDev }

/-- The members take their states in order. -/
def takeStates (q : Nat) (upd : List (Member × Nat × Rat)) (s : State) : State :=
  upd.zipIdx.foldl (fun s p => memberState q p.2 p.1.2.1 p.1.2.2 true s) s

/-- The state before the new scale. -/
def comparedState (q : Nat) (full : Bool) (s : State) : State :=
  takeStates q (comparedMembers (ensOf s q) full (foundDeviations q s))
    (setEns q (comparedEns (ensOf s q) full (foundDeviations q s)) s)

/-- Members found failed are disconnected in order. -/
def disconnect (q : Nat) (hard : List Nat) (s : State) : State := forAll hard (fun i s => memberState q i 4 0 true s) s

/-- What follows a hard failure: its Q begins, and a quick comparison starts. -/
def hardFailure (q : Nat) (s : State) : State :=
  startQuick q (setEns q { ensOf s q with qs := openQ .hard (sincNext s) (ensOf s q).qs, comparing := 0 } s)

/-- The time that a comparison of eight members takes has passed. -/
def comparisonOver (q : Nat) (s : State) : Prop :=
  (ensOf s q).compStart + 8 * (if decide ((ensOf s q).comparing = 2) then 12 else 4) * secU ≤ s.now

section
variable {l : List Bool} (hrun : (ensOf s q).comparing ≠ 0) (hover : comparisonOver q s)
  (hconn : ∀ i, i < 8 → connected (zener (ensOf s q) i) = true)

include hconn

theorem measuredMembers_all : measuredMembers (ensOf s q) = List.range 8 :=
  List.filter_eq_self.2 fun i hi => hconn i (List.mem_range.1 hi)

theorem foundDeviations_getD {i : Nat} (hi : i < 8) : (foundDeviations q s).getD i 0 = deviation s q i := by
  have hmem : i ∈ measuredMembers (ensOf s q) := by
    rw [measuredMembers_all hconn]
    exact List.mem_range.2 hi
  simp [foundDeviations, hi, hmem]

theorem hardMembers_nil (hl : ∀ i, i < 8 → l.getD i false = false) (hd : ∀ i, i < 8 → rabs (deviation s q i) ≤ 1000000) :
    hardMembers q l s = [] := by
  unfold hardMembers
  rw [measuredMembers_all hconn, List.filter_eq_nil_iff]
  intro i hmem
  have hi : i < 8 := List.mem_range.1 hmem
  simp [foundDeviations_getD hconn hi, -List.getD_eq_getElem?_getD, hl i hi, hd i hi]

theorem zero_mem_hardMembers (h0 : l[0]? = some true) : 0 ∈ hardMembers q l s := by
  unfold hardMembers
  rw [measuredMembers_all hconn]
  simp [h0]

theorem comparedMember_d (full : Bool) {i : Nat} (hi : i < 8) :
    (comparedMember (ensOf s q) full (foundDeviations q s) i).1.d = deviation s q i := by
  unfold comparedMember
  simp only [hconn i hi, foundDeviations_getD hconn hi, not_true_eq_false, if_false]
  cases full with
  | false => rfl
  | true => exact judgeMember_d ..

/-- A quick comparison takes no member to another state. -/
theorem comparedMember_quick {i : Nat} (hi : i < 8) :
    (comparedMember (ensOf s q) false (foundDeviations q s) i).1.state = (zener (ensOf s q) i).state
      ∧ (comparedMember (ensOf s q) false (foundDeviations q s) i).2.1 = (zener (ensOf s q) i).state := by
  unfold comparedMember
  simp only [hconn i hi, not_true_eq_false, if_false]
  exact ⟨rfl, rfl⟩

include hrun hover

theorem not_early : ¬ ((ensOf s q).comparing = 0 ∨ s.now < (ensOf s q).compStart
    + (measuredMembers (ensOf s q)).length * (if decide ((ensOf s q).comparing = 2) then 12 else 4) * secU) := by
  rw [measuredMembers_all hconn]
  exact not_or.2 ⟨hrun, Nat.not_lt.2 hover⟩

theorem compComplete_soft (hsoft : hardMembers q l s = []) :
    compComplete q l s = compDone q true (newScale q (decide ((ensOf s q).comparing = 2))
      (comparedState q (decide ((ensOf s q).comparing = 2)) s)) := by
  unfold compComplete
  extract_lets e ms full d hard
  have hnone : hard = [] := hsoft
  rw [if_neg (not_early hrun hover hconn), if_neg (by simp [hnone])]
  rfl

theorem compComplete_hard (hhard : hardMembers q l s ≠ []) :
    compComplete q l s = hardFailure q (disconnect q (hardMembers q l s) s) := by
  unfold compComplete
  extract_lets e ms full d hard
  have hsome : hard ≠ [] := hhard
  rw [if_neg (not_early hrun hover hconn), if_pos (by simpa using hsome)]
  rfl

end

/-! ### A comparison without a hard failure -/

theorem zener_comparedEns (e : Ensemble) (full : Bool) (d : List Rat) {i : Nat} (hi : i < 8) :
    zener (comparedEns e full d) i = (comparedMember e full d i).1 := by
  simp [zener, comparedEns, comparedMembers, hi]

theorem takeStates_same {upd : List (Member × Nat × Rat)}
    (h : ∀ p ∈ upd.zipIdx, (zener (ensOf s q) p.2).state = p.1.2.1) : takeStates q upd s = s :=
  List.foldlRecOn _ _ (motive := fun t => t = s) rfl fun t ht p hp => by
    rw [ht]
    exact memberState_same _ _ (h p hp)

theorem takeStates_ensFlash (upd : List (Member × Nat × Rat)) : EnsFlash q s (takeStates q upd s) :=
  List.foldlRecOn _ _ (motive := EnsFlash q s) (Still.refl s).ensFlash fun _ ht _ _ => ht.trans (memberState_ensFlash ..)

theorem takeStates_statesOnly (upd : List (Member × Nat × Rat)) :
    StatesOnly (ensOf s q) (ensOf (takeStates q upd s) q) :=
  List.foldlRecOn _ _ (motive := fun t => StatesOnly (ensOf s q) (ensOf t q)) (.refl _)
    fun _ ht _ _ => ht.trans (memberState_statesOnly ..)

theorem comparedState_ensFlash (full : Bool) : EnsFlash q s (comparedState q full s) :=
  (setEns_ensOnly _).ensFlash.trans (takeStates_ensFlash _)

theorem comparedState_statesOnly (full : Bool) :
    StatesOnly (comparedEns (ensOf s q) full (foundDeviations q s)) (ensOf (comparedState q full s) q) := by
  have h := takeStates_statesOnly (q := q) (s := setEns q (comparedEns (ensOf s q) full (foundDeviations q s)) s)
    (comparedMembers (ensOf s q) full (foundDeviations q s))
  rwa [ensOf_setEns_self] at h

/-- After a quick comparison the members stand in their states, and nothing is written to flash. -/
theorem comparedState_quick (hconn : ∀ i, i < 8 → connected (zener (ensOf s q) i) = true) :
    comparedState q false s = setEns q (comparedEns (ensOf s q) false (foundDeviations q s)) s := by
  refine takeStates_same fun p hp => ?_
  have hget := List.mem_zipIdx_iff_getElem?.1 hp
  obtain ⟨hi, hp1⟩ : p.2 < 8 ∧ comparedMember (ensOf s q) false (foundDeviations q s) p.2 = p.1 := by
    simpa [comparedMembers, List.getElem?_eq_some_iff] using hget
  rw [ensOf_setEns_self, zener_comparedEns _ _ _ hi, ← hp1]
  obtain ⟨hkept, htaken⟩ := comparedMember_quick hconn hi
  exact hkept.trans htaken.symm

/-! ### A hard failure (07 R160) -/

theorem openQ_hard (m : Int) (l : List QSpan) :
    (openQ .hard m l).any (fun x => x.why == .hard && x.last.isNone) = true := by
  unfold openQ
  split
  · assumption
  · rfl

theorem disconnect_ensFlash (hard : List Nat) : EnsFlash q s (disconnect q hard s) :=
  forAll_ind (P := EnsFlash q s) hard (fun _ _ ht => ht.trans (memberState_ensFlash ..)) (Still.refl s).ensFlash

theorem disconnect_statesOnly (hard : List Nat) : StatesOnly (ensOf s q) (ensOf (disconnect q hard s) q) :=
  forAll_ind (P := fun t => StatesOnly (ensOf s q) (ensOf t q)) hard
    (fun _ _ ht => ht.trans (memberState_statesOnly ..)) (.refl _)

theorem disconnect_state {hard : List Nat} {i : Nat} (hi : i < 8) (hmem : i ∈ hard) :
    (zener (ensOf (disconnect q hard s) q) i).state = 4 := by
  refine forAll_each (P := fun i t => i < 8 → (zener (ensOf t q) i).state = 4) (fun i t hi => ?_) (fun i j t ht hi => ?_)
    hmem s hi
  · rw [memberState_state _ _ _ _ hi, if_pos rfl]
  · rw [memberState_state _ _ _ _ hi]
    split
    · rfl
    · exact ht hi

/-- The failure's Q begins and a quick comparison of a stable serving quire starts. -/
theorem hardFailure_spec (hwarm : (ensOf s q).warm = 4) (hs : inService s q = true) :
    EnsOnly q s (hardFailure q s) ∧ ensOf (hardFailure q s) q =
      { latchPolicy s q (ensOf s q) with
        qs := openQ .hard (sincNext s) (ensOf s q).qs, comparing := 1, compStart := s.now } := by
  let noted := setEns q { ensOf s q with qs := openQ .hard (sincNext s) (ensOf s q).qs, comparing := 0 } s
  have hens : ensOf noted q = { ensOf s q with qs := openQ .hard (sincNext s) (ensOf s q).qs, comparing := 0 } :=
    ensOf_setEns_self ..
  have hw : (ensOf noted q).warm = 4 := by rw [hens]; exact hwarm
  have hrun : hardFailure q s = setEns q { latchPolicy noted q (ensOf noted q) with comparing := 1, compStart := s.now } noted :=
    startQuick_starts (by rw [hw]; decide) (by rw [hw]; decide) (by rw [hw]; decide) hs
  rw [hrun]
  exact ⟨(setEns_ensOnly _).trans (setEns_ensOnly _), by rw [ensOf_setEns_self, hens]; rfl⟩

/-! ### Warming (02 R49; 07 R159, R168) -/

theorem setWarm_spec (st : Nat) :
    EnsOnly q s (setWarm q st s) ∧ ensOf (setWarm q st s) q = (ensOf s q).warmed st (sincNext s) := by
  have h : Still (setEns q ((ensOf s q).warmed st (sincNext s)) s) (setWarm q st s) := warmEvent_still (.refl _)
  exact ⟨(setEns_ensOnly _).trans h.ensOnly, (h.ensOf_eq q).trans (ensOf_setEns_self ..)⟩

/-- The ensemble is written and then takes a warming state. -/
theorem setWarm_setEns_spec (st : Nat) (v : Ensemble) :
    EnsOnly q s (setWarm q st (setEns q v s)) ∧ ensOf (setWarm q st (setEns q v s)) q = v.warmed st (sincNext s) := by
  obtain ⟨h, hens⟩ := setWarm_spec (q := q) (s := setEns q v s) st
  exact ⟨(setEns_ensOnly v).trans h, by rw [hens, ensOf_setEns_self]; rfl⟩

section
variable {isl : Int} {n : Nat} (hq : q < s.part.quires)
include hq

theorem warmAdvance_leavesCold (hw : (ensOf s q).warm = 1) (hisl : isl.natAbs ≤ 1000000) :
    warmAdvance q isl n s = setWarm q 2 (setEns q { ensOf s q with leftCold := s.now, lastQuick := 0, island := isl } s) := by
  simp [warmAdvance, Nat.not_le.2 hq, hw, hisl]

theorem warmAdvance_stable1 (hw : (ensOf s q).warm = 2) (hn : 300 ≤ n)
    (ht : (ensOf s q).leftCold + (ensOf s q).warm1 * secU ≤ s.now) (hsettled : settledBy (ensOf s q) true 10 100 = true)
    (hcal : cfBit s 0x0501 q 4 1 = false) :
    warmAdvance q isl n s = setWarm q 3 (setEns q { ensOf s q with nextFull := some s.now, island := isl } s) := by
  have hcal' := (setWarm_setEns_spec (q := q) (s := s) 3 { ensOf s q with nextFull := some s.now, island := isl }).1.cfBit_eq
    0x0501 q 4 1
  unfold warmAdvance
  dsimp only
  rw [if_neg (Nat.not_le.2 hq), if_neg (by rw [hw]; decide), if_pos hw, if_pos ⟨hn, ht, hsettled⟩]
  exact if_neg (by rw [hcal', hcal]; decide)

theorem warmAdvance_stableFull (hw : (ensOf s q).warm = 3)
    (ht : (ensOf s q).leftCold + (ensOf s q).warm2 * secU ≤ s.now) (hsettled : settledBy (ensOf s q) false 2 20 = true) :
    warmAdvance q isl n s = setWarm q 4 s := by
  simp [warmAdvance, Nat.not_le.2 hq, hw, ht, hsettled]

theorem heaterFault_spec {absent : Bool} (hw : (ensOf s q).warm = 2) (hn : absent = true ∨ 10 ≤ n) :
    EnsFlash q s (heaterFault q absent n s) ∧ ensOf (heaterFault q absent n s) q =
      Ensemble.warmed { ensOf s q with comparing := 0, nextFull := none } 5 (sincNext s) := by
  have hrun : ¬ ((ensOf s q).warm = 0 ∨ (ensOf s q).warm = 5 ∨ s.part.quires ≤ q
      ∨ ¬ (absent = true ∨ ((ensOf s q).warm ≠ 1 ∧ 10 ≤ n))) := by
    simp [hw, Nat.not_le.2 hq, hn]
  unfold heaterFault
  extract_lets e done
  rw [if_neg hrun]
  have hdone : EnsOnly q s done := (setEns_ensOnly _).trans (compDone_ensOnly false)
  have hens : ensOf done q = { ensOf s q with comparing := 0, nextFull := none } :=
    (compDone_ensOf false q).trans (ensOf_setEns_self ..)
  obtain ⟨hwarm, hwarmed⟩ := setWarm_spec (q := q) (s := done) 5
  have hraised : Still (setWarm q 5 done) (raiseOnce (evL 0x0701 q) (setWarm q 5 done)) := raiseOnce_still (.refl _)
  refine ⟨(hdone.trans hwarm).ensFlash.trans (hraised.ensFlash.trans (writeRing_ensFlash ..)), ?_⟩
  rw [writeRing_ensOf, hraised.ensOf_eq, hwarmed, hens, hdone.sincNext_eq]

end

theorem heaterBack_spec (hw : (ensOf s q).warm = 5) :
    EnsFlash q s (heaterBack q s) ∧ ensOf (heaterBack q s) q = (ensOf s q).warmed 1 (sincNext s) := by
  unfold heaterBack
  rw [if_pos hw]
  obtain ⟨hwarm, hwarmed⟩ := setWarm_spec (q := q) (s := s) 1
  have hcleared : Still (setWarm q 1 s) (clearCause 0x0701 q (setWarm q 1 s)) := clearCause_still (.refl _)
  refine ⟨hwarm.ensFlash.trans (hcleared.ensFlash.trans (writeRing_ensFlash ..)), ?_⟩
  rw [writeRing_ensOf, hcleared.ensOf_eq, hwarmed]

end

/-! ### The obligation -/

section
variable {q : Nat} {s : State} {l : List Bool}

/-- A comparison without a hard failure ends with the deviations that the keeper measured, and is counted if it is full. -/
theorem compComplete_ens (hrun : (ensOf s q).comparing ≠ 0) (hover : comparisonOver q s)
    (hconn : ∀ i, i < 8 → connected (zener (ensOf s q) i) = true) (hl : ∀ i, i < 8 → l.getD i false = false)
    (hd : ∀ i, i < 8 → rabs (deviation s q i) ≤ 1000000) :
    (ensOf (compComplete q l s) q).comparing = 0
      ∧ (∀ i, i < 8 → (zener (ensOf (compComplete q l s) q) i).d = deviation s q i)
      ∧ (ensOf (compComplete q l s) q).fullCount = (ensOf s q).fullCount + b2n (decide ((ensOf s q).comparing = 2))
      ∧ (ensOf (compComplete q l s) q).dayComp = (ensOf s q).dayComp + b2n (decide ((ensOf s q).comparing = 2)) := by
  rw [compComplete_soft hrun hover hconn (hardMembers_nil hconn hl hd), compDone_ensOf]
  generalize decide ((ensOf s q).comparing = 2) = full
  have hstates := comparedState_statesOnly (q := q) (s := s) full
  have hscale := (newScale_spec (q := q) (s := comparedState q full s) full).2
  refine ⟨?_, fun i hi => ?_, ?_, ?_⟩
  · rw [hscale.comparing, hstates.eq]; rfl
  · rw [hscale.zener, hstates.d i hi, zener_comparedEns _ _ _ hi]
    exact comparedMember_d hconn full hi
  · rw [hscale.fullCount, hstates.eq]; rfl
  · rw [hscale.dayComp, hstates.eq]; rfl

/-- A quick comparison leaves flash and the members' states as they were. -/
theorem compComplete_quick (hquick : (ensOf s q).comparing = 1) (hover : comparisonOver q s)
    (hconn : ∀ i, i < 8 → connected (zener (ensOf s q) i) = true) (hsoft : hardMembers q l s = []) :
    EnsChans q s (compComplete q l s)
      ∧ ∀ i, i < 8 → (zener (ensOf (compComplete q l s) q) i).state = (zener (ensOf s q) i).state := by
  have hrun : compComplete q l s = compDone q true (newScale q false
      (setEns q (comparedEns (ensOf s q) false (foundDeviations q s)) s)) := by
    rw [compComplete_soft (by rw [hquick]; decide) hover hconn hsoft, hquick, ← comparedState_quick hconn]
    rfl
  rw [hrun]
  obtain ⟨hside, hscale⟩ := newScale_spec (q := q)
    (s := setEns q (comparedEns (ensOf s q) false (foundDeviations q s)) s) false
  refine ⟨(setEns_ensOnly _).ensChans.trans (hside.trans (compDone_ensOnly true).ensChans), fun i hi => ?_⟩
  rw [compDone_ensOf, hscale.zener, ensOf_setEns_self, zener_comparedEns _ _ _ hi]
  exact (comparedMember_quick hconn hi).1

/-- What any comparison without a hard failure leaves alone. -/
theorem compComplete_keeps (hrun : (ensOf s q).comparing ≠ 0) (hover : comparisonOver q s)
    (hconn : ∀ i, i < 8 → connected (zener (ensOf s q) i) = true) (hsoft : hardMembers q l s = []) :
    (∀ x, x ≠ q → ensOf (compComplete q l s) x = ensOf s x) ∧ (compComplete q l s).cfg = s.cfg
      ∧ (compComplete q l s).time = s.time ∧ (compComplete q l s).wit = s.wit := by
  rw [compComplete_soft hrun hover hconn hsoft]
  generalize decide ((ensOf s q).comparing = 2) = full
  have hstates : EnsFlash q s (comparedState q full s) := comparedState_ensFlash full
  generalize comparedState q full s = x at *
  have hscale : EnsChans q x (compDone q true (newScale q full x)) :=
    (newScale_spec full).1.trans (compDone_ensOnly true).ensChans
  generalize compDone q true (newScale q full x) = t at *
  exact ⟨fun x hx => (hscale.others x hx).trans (hstates.others x hx), hscale.still.cfg.trans hstates.still.cfg,
    hscale.still.time.trans hstates.still.time, hscale.still.wit.trans hstates.still.wit⟩

/-- Member 0 found open in a stable quire: disconnected, its Q begun, a quick comparison started, the scale as it was. -/
theorem compComplete_open (hrun : (ensOf s q).comparing ≠ 0) (hover : comparisonOver q s)
    (hconn : ∀ i, i < 8 → connected (zener (ensOf s q) i) = true) (hopen : l[0]? = some true)
    (hwarm : (ensOf s q).warm = 4) (hs : inService s q = true) :
    EnsFlash q s (compComplete q l s) ∧ (zener (ensOf (compComplete q l s) q) 0).state = 4
      ∧ ((ensOf (compComplete q l s) q).qs.any fun x => x.why == .hard && x.last.isNone) = true
      ∧ (ensOf (compComplete q l s) q).comparing = 1 ∧ (ensOf (compComplete q l s) q).compStart = s.now
      ∧ (ensOf (compComplete q l s) q).fEns = (ensOf s q).fEns := by
  have hmem : 0 ∈ hardMembers q l s := zero_mem_hardMembers hconn hopen
  rw [compComplete_hard hrun hover hconn (List.ne_nil_of_mem hmem)]
  have hside : EnsFlash q s (disconnect q (hardMembers q l s) s) := disconnect_ensFlash _
  have hens : StatesOnly (ensOf s q) (ensOf (disconnect q (hardMembers q l s) s) q) := disconnect_statesOnly _
  have hstate : (zener (ensOf (disconnect q (hardMembers q l s) s) q) 0).state = 4 := disconnect_state (by decide) hmem
  generalize disconnect q (hardMembers q l s) s = t at *
  obtain ⟨hfail, hfailed⟩ := hardFailure_spec (q := q) (s := t) (by rw [hens.eq]; exact hwarm)
    (by rw [hside.inService_eq]; exact hs)
  rw [hfailed]
  exact ⟨hside.trans hfail.ensFlash, hstate, openQ_hard .., rfl, hside.still.now, by rw [hens.eq]; rfl⟩

end

/-- Settles O29: each command is its operation on the quire's ensemble, with what that operation leaves alone. -/
theorem ensembleComparisons : Obligations.EnsembleComparisons := by
  unfold Obligations.EnsembleComparisons
  refine ⟨?_, ?_, ?_, ?_, ?_, ?_, ?_, ?_, ?_, ?_⟩
  · rintro at_ q e s u rfl hrun hnext hdue hidle hwarm hs
    exact congrArg Host.Outcome.next ((unlessPaused_runs hrun).trans (fullDue_starts hnext hdue hidle hwarm hs))
  · rintro at_ q s u rfl hrun hwarm hdue hs
    obtain ⟨h, hens⟩ := quickDue_starts hwarm hdue hs
    exact ⟨_, congrArg Host.Outcome.next (unlessPaused_runs hrun), hens, h.others, h.still⟩
  · intro at_ q l s u hu hrun hquick hover hconn hl hd
    have hne : (ensOf u q).comparing ≠ 0 := by rw [hquick]; decide
    have hlong : comparisonOver q u := by simpa [comparisonOver, hquick] using hover
    obtain ⟨hidle, hdev, hcount, -⟩ := compComplete_ens hne hlong hconn hl hd
    obtain ⟨h, hstate⟩ := compComplete_quick hquick hlong hconn (hardMembers_nil hconn hl hd)
    rw [hquick] at hcount
    subst hu
    exact ⟨_, congrArg Host.Outcome.next (unlessPaused_runs hrun), hidle, fun i hi => ⟨hdev i hi, hstate i hi⟩, hcount,
      h.others, h.still⟩
  · intro at_ q l s u hu hrun hfull hover hconn hl hd
    have hne : (ensOf u q).comparing ≠ 0 := by rw [hfull]; decide
    have hlong : comparisonOver q u := by simpa [comparisonOver, hfull] using hover
    obtain ⟨hidle, hdev, hcount, hday⟩ := compComplete_ens hne hlong hconn hl hd
    obtain ⟨hothers, hcfg, htime, hwit⟩ := compComplete_keeps hne hlong hconn (hardMembers_nil hconn hl hd)
    rw [hfull] at hcount hday
    subst hu
    exact ⟨_, congrArg Host.Outcome.next (unlessPaused_runs hrun), hidle, hdev, hcount, hday, hothers, hcfg, htime, hwit⟩
  · intro at_ q l s u hu hrun hs hwarm hfull hover hconn hopen
    have hne : (ensOf u q).comparing ≠ 0 := by rw [hfull]; decide
    have hlong : comparisonOver q u := by simpa [comparisonOver, hfull] using hover
    obtain ⟨h, hstate, hq, hquick, hstart, hkept⟩ := compComplete_open hne hlong hconn hopen hwarm hs
    subst hu
    exact ⟨_, congrArg Host.Outcome.next (unlessPaused_runs hrun), hstate, hq, hquick, hstart, hkept, h.others, h.still⟩
  · rintro at_ q isl n s u rfl hq hw hisl
    obtain ⟨h, hens⟩ := setWarm_setEns_spec (q := q) (s := s.tick at_) 2
      { ensOf (s.tick at_) q with leftCold := (s.tick at_).now, lastQuick := 0, island := isl }
    exact ⟨_, congrArg Host.Outcome.next (warmAdvance_leavesCold hq hw hisl), hens, h.others, h.still⟩
  · rintro at_ q isl n s u rfl hq hw hn ht hsettled hcal
    obtain ⟨h, hens⟩ := setWarm_setEns_spec (q := q) (s := s.tick at_) 3
      { ensOf (s.tick at_) q with nextFull := some (s.tick at_).now, island := isl }
    exact ⟨_, congrArg Host.Outcome.next (warmAdvance_stable1 hq hw hn ht hsettled hcal), hens, h.others, h.still⟩
  · rintro at_ q isl n s u rfl hq hw ht hsettled
    obtain ⟨h, hens⟩ := setWarm_spec (q := q) (s := s.tick at_) 4
    exact ⟨_, congrArg Host.Outcome.next (warmAdvance_stableFull hq hw ht hsettled), hens, h.others, h.still⟩
  · rintro at_ q n absent s u rfl hq hw hn
    obtain ⟨h, hens⟩ := heaterFault_spec hq hw hn
    exact ⟨_, rfl, hens, h.others, h.still⟩
  · rintro at_ q s u rfl hw
    obtain ⟨h, hens⟩ := heaterBack_spec hw
    exact ⟨_, rfl, hens, h.others, h.still⟩

end Sys2Proof.Machine
end

section
/-! SUPPORT. Updates of excitation groups (03 R67, R74, R76): what they make of each group, and what they leave. -/

namespace Sys2Proof.Machine

/-- The later of two writes at a key stands. -/
theorem Tab.put_put {α : Type} (t : Tab α) (k : Nat) (v w : α) : (t.put k v).put k w = t.put k w := by
  induction t with
  | nil => simp [Tab.put]
  | cons p r ih =>
    obtain ⟨i, x⟩ := p
    unfold Tab.put
    by_cases h1 : k < i
    · simp [h1, Tab.put]
    · by_cases h2 : k = i
      · simp [h2, Tab.put]
      · simp [h1, h2, Tab.put, ih]

theorem setExc_setExc (e : Nat) (v w : ExcGroup) (s : State) : setExc e w (setExc e v s) = setExc e w s :=
  congrArg (fun x => { s with exc := x }) (Tab.put_put ..)

@[simp] theorem excOf_setExc_self (e : Nat) (v : ExcGroup) (s : State) : excOf (setExc e v s) e = v :=
  (excOf_setExc ..).trans (if_pos rfl)

theorem excOf_setExc_ne {e g : Nat} (h : g ≠ e) (v : ExcGroup) (s : State) : excOf (setExc e v s) g = excOf s g :=
  (excOf_setExc ..).trans (if_neg (Ne.symm h))

/-- Nothing but the groups of a list differs. -/
structure OnlyGroups (l : List Nat) (s t : State) : Prop where
  rest : t = { s with exc := t.exc }
  others : ∀ g, g ∉ l → excOf t g = excOf s g

section
variable {l : List Nat} {s t a b c : State}

theorem OnlyGroups.trans (h : OnlyGroups l a b) (k : OnlyGroups l b c) : OnlyGroups l a c where
  rest := by
    have e := k.rest
    rw [h.rest] at e
    exact e
  others g hg := (k.others g hg).trans (h.others g hg)

theorem OnlyGroups.still (h : OnlyGroups l s t) : Still { s with exc := t.exc } t := by
  rw [← h.rest]
  exact .refl t

theorem OnlyGroups.excMode_eq (h : OnlyGroups l s t) (e : Nat) : excMode t e = excMode s e := by
  rw [h.rest]
  rfl

theorem OnlyGroups.switched_eq (h : OnlyGroups l s t) (e : Nat) : switched t e = switched s e := by
  unfold switched
  rw [h.excMode_eq]

theorem setExc_onlyGroups {e : Nat} (h : e ∈ l) (v : ExcGroup) : OnlyGroups l s (setExc e v s) :=
  ⟨rfl, fun _ hg => excOf_setExc_ne (ne_of_mem_of_not_mem h hg).symm v s⟩

end

/-! ### Groups that are updated alike -/

/-- Every group of a list is updated alike. -/
def updGroups (l : List Nat) (f : ExcGroup → ExcGroup) (s : State) : State :=
  forAll l (fun g s => setExc g (f (excOf s g)) s) s

theorem updGroups_onlyGroups (l : List Nat) (f : ExcGroup → ExcGroup) (s : State) : OnlyGroups l s (updGroups l f s) where
  rest := forAll_ind (P := fun t => t = { s with exc := t.exc }) l (fun g t ht => by rw [ht]; rfl) rfl
  others g hg := by
    induction l generalizing s with
    | nil => rfl
    | cons x r ih =>
      exact (ih _ (List.not_mem_of_not_mem_cons hg)).trans (excOf_setExc_ne (List.ne_of_not_mem_cons hg) ..)

/-- A group of the list is updated once. -/
theorem excOf_updGroups {l : List Nat} (hl : l.Nodup) {g : Nat} (hg : g ∈ l) (f : ExcGroup → ExcGroup) (s : State) :
    excOf (updGroups l f s) g = f (excOf s g) := by
  induction l generalizing s with
  | nil => cases hg
  | cons x r ih =>
    obtain ⟨hx, hr⟩ := List.nodup_cons.1 hl
    change excOf (updGroups r f (setExc x (f (excOf s x)) s)) g = _
    by_cases e : g = x
    · rw [(updGroups_onlyGroups ..).others g (e ▸ hx), e, excOf_setExc_self]
    · rw [ih hr ((List.mem_cons.1 hg).resolve_left e), excOf_setExc_ne e]

/-- What the update leaves of a group, it leaves of all. -/
theorem updGroups_keeps {α : Type} (p : ExcGroup → α) {f : ExcGroup → ExcGroup} (hf : ∀ v, p (f v) = p v) (l : List Nat)
    (s : State) (g : Nat) : p (excOf (updGroups l f s) g) = p (excOf s g) := by
  refine forAll_ind (P := fun t => p (excOf t g) = p (excOf s g)) l (fun x t ht => ?_) rfl
  rw [excOf_setExc]
  split
  next e => rw [hf, e, ht]
  · exact ht

/-- The switches of a list of groups close at one instant (03 R74). -/
theorem closeSwitches_eq (l : List Nat) (t : Int) (s : State) :
    closeSwitches l t s = updGroups l (fun v => { v with closedAt := (s.now + (t - devNow s)).toNat }) s := by
  induction l generalizing s with
  | nil => rfl
  | cons x r ih => exact ih _

/-- A switching event that is not configured holds its groups (03 R76) and touches no calibration. -/
theorem switchEvent_eq (l : List Nat) (ts tb : Int) (s : State) :
    switchEvent l ts tb false s = updGroups l (fun v =>
      { v with holds := joinHold (winFirst ts) (winLast tb) false v.holds, blankEnd := max v.blankEnd tb, events := ts :: v.events }) s :=
  rfl

/-! ### The groups that switch together (03 R67) -/

theorem switched_nodup (s : State) (e : Nat) : (switched s e).Nodup := by
  unfold switched
  split <;> simp

theorem mem_switched (s : State) (e : Nat) : e ∈ switched s e := by
  unfold switched
  split
  · have : e = 2 * (e / 2) ∨ e = 2 * (e / 2) + 1 := by omega
    simpa using this
  · simp

/-- STATE of a group rests on its pulse's phase, its marks and its blanking alone (03 R75). -/
theorem excState_setExc {e : Nat} {v : ExcGroup} {s : State} (hpulse : v.pulse = (excOf s e).pulse)
    (htrip : v.tripped = (excOf s e).tripped) (hlow : v.senseLow = (excOf s e).senseLow)
    (hblank : v.blankEnd = (excOf s e).blankEnd) : excState (setExc e v s) e = excState s e := by
  unfold excState blankingAt
  dsimp only
  rw [excOf_setExc_self, hpulse, htrip, hlow, hblank]
  rfl

/-! ### A trip under a stand-in -/

/-- Refutes O17: a channel whose stand-in holds position A when its group trips gets a TRIPPED mark that says so
(`Mark.atA`, 04 R115), and the clause of `excTripped` claims a mark that does not. The counterexample: group 63 is ON, the
permanent stand-in of its channel 252 holds position A, and the current exceeds I_LIMIT. -/
theorem not_excitationStatusAndTrips : ¬ Obligations.ExcitationStatusAndTrips := by
  unfold Obligations.ExcitationStatusAndTrips
  rintro ⟨-, -, htrip, -⟩
  let standin : StandIn := { (default : StandIn) with channel := 252, kind := 2 }
  let s : State := { State.reset with
    cfg := [((0x0102, 63, 0), 1)], wit := [(1, { (default : Witness) with posA := some standin })] }
  obtain ⟨t, ht, -, -, hmarks, -⟩ := htrip secU 63 99999 s (s.tick secU) rfl (by decide) (by decide) (by decide)
    (by decide) (by decide) (by decide)
  cases ht
  have hatA : (chan (excTrip 63 99999 (s.tick secU)) 252).marks.map Mark.atA = [true] := by decide
  have hclaim := congrArg (List.map Mark.atA) (hmarks 252 (by decide))
  exact absurd (hatA.symm.trans hclaim) (by decide)

end Sys2Proof.Machine
end

section
/-! SUPPORT. Test pulses (03 R82, R83; 15 R385, R386): due, opened, closed and published. -/

namespace Sys2Proof.Machine

/-! ### A pulse falls due (15 R385) -/

section
variable {e h p w : Nat} {s : State} (hover : s.safe.handover = some h) (hplan : pulsePlan s e = some (p, w))
  (hdue : pulseDue s h e ((excOf s e).nextPulse.getD 0).toNat ≤ s.now) (hsusp : suspended s e = false)
include hover hplan hdue hsusp

/-- A due pulse of a group that is not suspended: NOT_RUN at once, or pending. -/
theorem pulseDueRow_due :
    let noted := setExc e { excOf s e with nextPulse := some (((s.now - h) / (p * secU) + 1 : Nat) : Int) } s
    pulseDueRow e s =
      if (excState s e = 0 ∨ excState s e = 4 ∨ excState s e = 5) ∧ ¬ pulseBusy s e then notRun e none noted
      else setExc e { excOf noted e with schedDue := true } noted := by
  intro noted
  have hstate : excState noted e = excState s e := excState_setExc rfl rfl rfl rfl
  have hbusy : pulseBusy noted e = pulseBusy s e := by simp [noted, pulseBusy]
  have hsusp' : suspended noted e = false := hsusp
  unfold pulseDueRow
  simp only [hover, hplan, if_neg (Nat.not_lt.2 hdue)]
  rw [if_neg (by rw [hsusp']; decide), hstate, hbusy]

theorem pulseDueRow_pending (hon : excState s e = 1) :
    pulseDueRow e s = setExc e { excOf s e with
      nextPulse := some (((s.now - h) / (p * secU) + 1 : Nat) : Int), schedDue := true } s := by
  rw [pulseDueRow_due hover hplan hdue hsusp, if_neg (by simp [hon]), excOf_setExc_self, setExc_setExc]

theorem pulseDueRow_notRun (hpend : pulsePending s e = false) (hbusy : pulseBusy s e = false)
    (hoff : excState s e = 0 ∨ excState s e = 4 ∨ excState s e = 5) :
    pulseDueRow e s = setExc e { excOf s e with
      nextPulse := some (((s.now - h) / (p * secU) + 1 : Nat) : Int)
      pulse := some { (default : Pulse) with phase := 2, result := 6, rtd := excMode s e = 3 }
      schedDue := false, nowReq := none } s := by
  have hreq : (excOf s e).nowReq = none := by simpa using (Bool.or_eq_false_iff.1 hpend).2
  rw [pulseDueRow_due hover hplan hdue hsusp, if_pos ⟨hoff, by simp [hbusy]⟩]
  unfold notRun
  rw [excOf_setExc_self, setExc_setExc]
  simp only [hreq]
  rfl

end

/-! ### A pulse opens (03 R82; 15 R385, R387) -/

/-- SAFE_PULSE_NOW of a group has come due. -/
def pulseAsked (s : State) (e : Nat) : Bool := decide ((excOf s e).nowReq.isSome ∧ (excOf s e).nowAt ≤ sincNow s)

/-- The pulse that opens at the last sinc instant. -/
def openedPulse (s : State) (e sense : Nat) (raw : List Int) (req : Option Req) : Pulse :=
  { (default : Pulse) with opened := sincTime (sincNow s), width := pulseWidth s e, phase := 0, preSense := min sense 65535,
                           preRaw := raw, rtd := excMode s e = 3, now_ := req }

/-- A pulse opens: what it notes of its group, and the blanking of the groups that switch with it. -/
theorem pulseOpen_spec {e : Nat} {s : State} (sense : Nat) (raw : List Int)
    (hdue : ((excOf s e).schedDue || pulseAsked s e) = true) (hdefer : pulseDeferred s e = false)
    (hnone : (excOf s e).pulse = none) (h0 : excState s e ≠ 0) (h4 : excState s e ≠ 4) (h5 : excState s e ≠ 5) :
    let t := pulseOpen e sense raw s
    OnlyGroups (switched s e) s t
      ∧ (excOf t e).pulse = some (openedPulse s e sense raw (if pulseAsked s e then (excOf s e).nowReq else none))
      ∧ (excOf t e).schedDue = (pulseAsked s e && (excOf s e).schedDue)
      ∧ (excOf t e).nowReq = (if pulseAsked s e then none else (excOf s e).nowReq)
      ∧ ∀ g ∈ switched s e, sincTime (sincNow s) + pulseWidth s e + blankU s e ≤ (excOf t g).blankEnd := by
  let v := { excOf s e with
    pulse := some (openedPulse s e sense raw (if pulseAsked s e then (excOf s e).nowReq else none))
    schedDue := pulseAsked s e && (excOf s e).schedDue
    nowReq := if pulseAsked s e then none else (excOf s e).nowReq }
  let ts := sincTime (sincNow s)
  let tb := ts + pulseWidth s e + blankU s e
  let held := updGroups (switched s e) (fun x => { x with pulseHold := some (winFirst ts, winLast tb) }) (setExc e v s)
  have hmem := mem_switched s e
  have hheld : OnlyGroups (switched s e) s held := (setExc_onlyGroups hmem v).trans (updGroups_onlyGroups ..)
  have hrun : pulseOpen e sense raw s = switchEvent (switched s e) ts tb false held := by
    have hgo : ¬ (¬ ((excOf s e).schedDue || pulseAsked s e) ∨ pulseDeferred s e ∨ (excOf s e).pulse.isSome) := by
      simp [hdue, hdefer, hnone]
    have hon : ¬ (excState s e = 0 ∨ excState s e = 4 ∨ excState s e = 5) := by simp [h0, h4, h5]
    rw [← hheld.switched_eq e]
    exact (if_neg hgo).trans (if_neg hon)
  have kept {α : Type} (p : ExcGroup → α)
      (h1 : ∀ (x : ExcGroup) y, p { x with pulseHold := y } = p x)
      (h2 : ∀ (x : ExcGroup) a b c, p { x with holds := a, blankEnd := b, events := c } = p x) :
      p (excOf (pulseOpen e sense raw s) e) = p v := by
    rw [hrun, switchEvent_eq, updGroups_keeps p (fun x => h2 x _ _ _), updGroups_keeps p (fun x => h1 x _), excOf_setExc_self]
  refine ⟨?_, kept (·.pulse) (fun _ _ => rfl) (fun _ _ _ _ => rfl), kept (·.schedDue) (fun _ _ => rfl) (fun _ _ _ _ => rfl),
    kept (·.nowReq) (fun _ _ => rfl) (fun _ _ _ _ => rfl), fun g hg => ?_⟩
  · rw [hrun, switchEvent_eq]
    exact hheld.trans (updGroups_onlyGroups ..)
  · rw [hrun, switchEvent_eq, excOf_updGroups (switched_nodup s e) hg]
    exact le_max_right ..

/-! ### A pulse closes (03 R82, R83) -/

/-- A pulse as its closing leaves it. -/
def closedPulse (s : State) (e i sense : Nat) (raw : List Int) (k : Pulse) : Pulse :=
  { k with phase := 1, iPulse := i, senseMid := min sense 65535, stuck := stuckMask (k.preRaw.zip raw),
           stuckPair := if excMode s e = 2 then stuckMask ((k.preRaw.zip raw).drop 4) else 0 }

/-- A pulse closes: its measurement, and the instant of the closure for the limit check. -/
theorem pulseClose_spec {e : Nat} {k : Pulse} {s : State} (i sense : Nat) (raw : List Int)
    (hk : (excOf s e).pulse = some k) (hopen : k.phase = 0) (hover : k.opened + k.width ≤ devNow s) :
    let t := pulseClose e i sense raw s
    OnlyGroups (switched s e) s t ∧ (excOf t e).pulse = some (closedPulse s e i sense raw k)
      ∧ ∀ g ∈ switched s e, (excOf t g).closedAt = (s.now + (k.opened + k.width - devNow s)).toNat := by
  let on : Int := k.opened + k.width
  let v := { excOf s e with pulse := some (closedPulse s e i sense raw k) }
  let shut := closeSwitches (switched s e) on (setExc e v s)
  let noted := updGroups (switched shut e) (fun x => { x with events := on :: x.events }) shut
  have hrun : pulseClose e i sense raw s = if excMode noted e = 2 then
      updGroups (switched noted e) (fun x => { x with phase := phaseNow noted e, phaseFrom := on }) noted else noted := by
    have hgo : ¬ (k.phase ≠ 0 ∨ devNow s < k.opened + k.width) := by omega
    unfold pulseClose
    simp only [hk]
    exact if_neg hgo
  have hshut : shut = updGroups (switched s e)
      (fun x => { x with closedAt := (s.now + (on - devNow s)).toNat }) (setExc e v s) := closeSwitches_eq ..
  have hside : OnlyGroups (switched s e) s shut :=
    (setExc_onlyGroups (mem_switched s e) v).trans (hshut ▸ updGroups_onlyGroups ..)
  have hnoted : OnlyGroups (switched s e) s noted :=
    hside.trans (hside.switched_eq e ▸ updGroups_onlyGroups ..)
  have hpulse : (excOf noted e).pulse = some (closedPulse s e i sense raw k) := by
    simp only [noted, updGroups_keeps ExcGroup.pulse, hshut, excOf_setExc_self, implies_true, v]
  have hat (g : Nat) (hg : g ∈ switched s e) : (excOf noted g).closedAt = (s.now + (on - devNow s)).toNat := by
    simp only [noted, updGroups_keeps ExcGroup.closedAt, hshut, excOf_updGroups (switched_nodup s e) hg, implies_true]
  intro t
  rw [show t = _ from hrun]
  split
  · rw [hnoted.switched_eq]
    refine ⟨hnoted.trans (updGroups_onlyGroups ..), ?_, fun g hg => ?_⟩
    · simp only [updGroups_keeps ExcGroup.pulse, hpulse, implies_true]
    · simp only [updGroups_keeps ExcGroup.closedAt, hat g hg, implies_true, on]
  · exact ⟨hnoted, hpulse, hat⟩

/-! ### A pulse is judged (03 R82, R83) -/

theorem blankingEnd_judges {e : Nat} {k : Pulse} {s : State} (sense : Nat) (hover : (excOf s e).blankEnd ≤ devNow s)
    (hk : (excOf s e).pulse = some k) (hclosed : k.phase = 1) :
    blankingEnd e sense s = setExc e { excOf s e with pulse := some { k with
      sensePost := min sense 65535, phase := 2, result := pulseResult { k with sensePost := min sense 65535 } } } s := by
  unfold blankingEnd
  simp only [if_neg (Int.not_lt.2 hover), hk]
  exact if_neg (by simp [hclosed])

/-! ### A pulse is published (03 R82; 15 R386) -/

/-- Nothing but reports, a group's standing in the safety schedule and the island's records differ. -/
structure ResultSide (e : Nat) (s t : State) : Prop where
  still : Still { s with exc := t.exc, safe := t.safe } t
  others : ∀ g, g ≠ e → excOf t g = excOf s g
  pulse : (excOf t e).pulse = (excOf s e).pulse
  result : (excOf t e).pulseResult = (excOf s e).pulseResult
  count : (excOf t e).pulseCount = (excOf s e).pulseCount

section
variable {e : Nat} {s s0 t a b c : State}

theorem ResultSide.refl (s : State) : ResultSide e s s := ⟨.refl s, fun _ _ => rfl, rfl, rfl, rfl⟩

/-- Reports alone stay so when both sides take the same groups and the same island. -/
theorem Still.withExcSafe (h : Still a b) (x : Tab ExcGroup) (y : Safety) :
    Still { a with exc := x, safe := y } { b with exc := x, safe := y } :=
  { h with exc := rfl, safe := rfl, flash := h.flash, boot := h.boot }

theorem ResultSide.trans (h : ResultSide e a b) (k : ResultSide e b c) : ResultSide e a c where
  still := (h.still.withExcSafe c.exc c.safe).trans k.still
  others g hg := (k.others g hg).trans (h.others g hg)
  pulse := k.pulse.trans h.pulse
  result := k.result.trans h.result
  count := k.count.trans h.count

theorem Still.excOf_eq (h : Still s t) (g : Nat) : excOf t g = excOf s g := by
  unfold excOf
  rw [h.exc]

theorem Still.resultSide (h : Still s t) : ResultSide e s t where
  still := { h with exc := rfl, safe := rfl, flash := h.flash, boot := h.boot }
  others g _ := h.excOf_eq g
  pulse := congrArg ExcGroup.pulse (h.excOf_eq e)
  result := congrArg ExcGroup.pulseResult (h.excOf_eq e)
  count := congrArg ExcGroup.pulseCount (h.excOf_eq e)

/-- What follows reports alone. -/
theorem ResultSide.still_trans (h : ResultSide e a b) (k : Still b c) : ResultSide e a c := h.trans k.resultSide

theorem setExc_resultSide {v : ExcGroup} (h : ResultSide e s0 s) (hpulse : v.pulse = (excOf s e).pulse)
    (hresult : v.pulseResult = (excOf s e).pulseResult) (hcount : v.pulseCount = (excOf s e).pulseCount) :
    ResultSide e s0 (setExc e v s) :=
  h.trans ⟨.refl _, fun _ hg => excOf_setExc_ne hg .., by rw [excOf_setExc_self, hpulse], by rw [excOf_setExc_self, hresult],
    by rw [excOf_setExc_self, hcount]⟩

theorem ite_resultSide {p : Prop} [Decidable p] (ha : ResultSide e s0 a) (hb : ResultSide e s0 b) :
    ResultSide e s0 (if p then a else b) := by split <;> assumption

/-- The island's records of members leave every group. -/
theorem setMembers_resultSide {l : List Nat} {v : Nat → State → SMember} (h : ResultSide e s0 s) :
    ResultSide e s0 (forAll l (fun m s => setMember m (v m s) s) s) := by
  obtain ⟨x, hx⟩ := setMembers_safe l v s
  rw [hx]
  exact h.trans ⟨.refl _, fun _ _ => rfl, rfl, rfl, rfl⟩

theorem stuckMembers_resultSide {g stuck : Nat} (h : ResultSide e s0 s) : ResultSide e s0 (stuckMembers g stuck s) :=
  setMembers_resultSide h

theorem pulseMembers_resultSide {result stuck : Nat} (h : ResultSide e s0 s) :
    ResultSide e s0 (pulseMembers e result stuck s) :=
  ite_resultSide (setMembers_resultSide (setExc_resultSide h rfl rfl rfl))
    (ite_resultSide (stuckMembers_resultSide (setExc_resultSide h rfl rfl rfl))
      (setMembers_resultSide (setExc_resultSide h rfl rfl rfl)))

/-- A group without a pulse publishes nothing. -/
theorem publishPulse_none (h : (excOf s e).pulse = none) : publishPulse e s = s := by
  unfold publishPulse
  rw [h]

/-- A published pulse leaves its result with the group, and the count unless it was NOT_RUN. -/
theorem publishPulse_spec {k : Pulse} (hk : (excOf s e).pulse = some k) (hdone : k.phase = 2) :
    let n := if k.result = 6 then (excOf s e).pulseCount else ((excOf s e).pulseCount + 1) % 2 ^ 32
    ResultSide e (setExc e { excOf s e with pulse := none, pulseResult := k.result, pulseCount := n } s) (publishPulse e s) := by
  intro n
  unfold publishPulse
  simp only [hk]
  rw [if_neg (by simp [hdone])]
  have applied {x : Ev} {w : State} : ResultSide e w
      (pulseMembers e k.result k.stuck (if 2 ≤ k.result then raise x w else w)) :=
    pulseMembers_resultSide (ite_resultSide ((ResultSide.refl w).still_trans (raise_still (.refl _))) (.refl w))
  split
  · exact ite_resultSide (stuckMembers_resultSide applied) applied
  · exact (ite_resultSide (stuckMembers_resultSide applied) applied).still_trans (answer_still (.refl _))

/-- Groups without pulses publish nothing. -/
theorem publishPulses_none {l : List Nat} (h : ∀ g ∈ l, (excOf s g).pulse = none) : forAll l publishPulse s = s := by
  induction l with
  | nil => rfl
  | cons x r ih =>
    rw [forAll_cons, publishPulse_none (h x List.mem_cons_self), ih fun g hg => h g (List.mem_cons_of_mem _ hg)]

/-- Of groups of which one alone has a pulse, that one publishes. -/
theorem publishPulses_one {l : List Nat} {k : Pulse} (he : e ∈ l) (hk : (excOf s e).pulse = some k) (hdone : k.phase = 2)
    (h : ∀ g ∈ l, g ≠ e → (excOf s g).pulse = none) : forAll l publishPulse s = publishPulse e s := by
  induction l with
  | nil => cases he
  | cons x r ih =>
    have hr : ∀ g ∈ r, g ≠ e → (excOf s g).pulse = none := fun g hg => h g (List.mem_cons_of_mem _ hg)
    rw [forAll_cons]
    by_cases hx : x = e
    · have hpub := publishPulse_spec hk hdone
      rw [hx]
      refine publishPulses_none fun g hg => ?_
      by_cases hge : g = e
      · rw [hge, hpub.pulse, excOf_setExc_self]
      · rw [hpub.others g hge, excOf_setExc_ne hge, hr g hg hge]
    · rw [publishPulse_none (h x List.mem_cons_self hx)]
      exact ih ((List.mem_cons.1 he).resolve_left (Ne.symm hx)) hr

end

/-! ### The obligation -/

/-- Settles O18, one clause a step of the pulse's life. -/
theorem testPulses : Obligations.TestPulses := by
  unfold Obligations.TestPulses
  refine ⟨?_, ?_, ?_, ?_, ?_, ?_, ?_⟩
  · rintro at_ e h p w s u rfl hover hplan hdue hsusp - - hon
    exact congrArg Host.Outcome.next (pulseDueRow_pending hover hplan hdue hsusp hon)
  · rintro at_ e h p w s u rfl hover hplan hdue hsusp hpend hbusy hoff
    exact congrArg Host.Outcome.next (pulseDueRow_notRun hover hplan hdue hsusp hpend hbusy hoff)
  · rintro at_ e sense raw s u rfl hdue hreq hdefer hnone h0 h4 h5
    have hask : pulseAsked (s.tick at_) e = false := by simp [pulseAsked, hreq]
    obtain ⟨honly, hpulse, hsched, -, hblank⟩ := pulseOpen_spec sense raw (by simp [hdue]) hdefer hnone h0 h4 h5
    rw [hask] at hpulse hsched
    exact ⟨_, rfl, hsched, hpulse, hblank, honly.others, honly.still⟩
  · rintro at_ e sense raw r s u rfl hreq hat hdefer hnone h0 h4 h5
    have hask : pulseAsked (s.tick at_) e = true := by simp [pulseAsked, hreq, hat]
    obtain ⟨honly, hpulse, -, hnow, hblank⟩ := pulseOpen_spec sense raw (by simp [hask]) hdefer hnone h0 h4 h5
    rw [hask] at hpulse hnow
    rw [hreq] at hpulse
    exact ⟨_, rfl, hnow, hpulse, hblank, honly.others, honly.still⟩
  · rintro at_ e i sense raw k s u rfl hk hopen hover
    obtain ⟨honly, hpulse, hclosed⟩ := pulseClose_spec i sense raw hk hopen hover
    exact ⟨_, rfl, hpulse, hclosed, honly.others, honly.still⟩
  · rintro at_ e sense k s u rfl hover hk hclosed
    exact congrArg Host.Outcome.next (blankingEnd_judges sense hover hk hclosed)
  · rintro at_ e k s u rfl he hk hdone hrest
    have hrun : excUpdate [] (s.tick at_) = publishPulse e (s.tick at_) :=
      publishPulses_one (List.mem_range.2 he) hk hdone fun g hg => hrest g (List.mem_range.1 hg)
    have hpub := publishPulse_spec hk hdone
    refine ⟨_, congrArg Host.Outcome.next hrun, ?_, ?_, ?_, fun g hg => ?_, hpub.still⟩
    · rw [hpub.pulse, excOf_setExc_self]
    · rw [hpub.result, excOf_setExc_self]
    · rw [hpub.count, excOf_setExc_self]
    · rw [hpub.others g hg, excOf_setExc_ne hg]

end Sys2Proof.Machine
end

section
/-! SUPPORT. Tone scans (03 R84 to R88): their start, their rounds and the results they write. -/

namespace Sys2Proof.Machine

@[simp] theorem toneOf_setTone_self (q : Nat) (v : Tone) (s : State) : toneOf (setTone q v s) q = v :=
  (toneOf_setTone ..).trans (if_pos rfl)

/-- The first scan of SCAN_PERIOD is due at once (03 R85; log entry 50). -/
theorem scanDue_first {q : Nat} {s : State} (hq : q < s.part.quires) (hs : inService s q = true)
    (hperiod : cf s 0x0104 q 0 31 16 ≠ 0) (hidle : (toneOf s q).scan = none) (hfirst : (toneOf s q).lastStart = none)
    (hchans : toneChans s q ≠ []) :
    scanDue q s = setTone q { toneOf s q with
      lastStart := some s.now, captureNext := false
      scan := some { remaining := toneChans s q, round := toneRound (toneChans s q) [], roundStart := s.now,
                     first := toneFirst s, capture := (toneOf s q).captureNext } } s := by
  have hstart : scanDue q s = startScan q true s := by simp [scanDue, hfirst, hq, hperiod]
  rw [hstart]
  simp [startScan, hidle, hs, hchans]

/-! ### A result is written (03 R87) -/

/-- A result enters its channel's record with its class; the rest is a report. -/
theorem toneWrite_spec (q : Nat) (capture : Bool) (z : ToneReading) (s : State) :
    ∃ base, Still (setChan z.channel { chan s z.channel with
      tone := { re := z.re, im := z.im, base := base, cls := toneClass s q z (chan s z.channel).tone.base capture,
                seconds := secondsNow s } } s) (toneWrite q capture z s) :=
  ⟨_, ite_still (.refl _) (raise_still (.refl _))⟩

/-! ### A round ends (03 R85, R86) -/

/-- The scan after a round that ends now: the next round of the channels that are left, if any is. -/
def scanAfter (k : ToneScan) (s : State) : Option ToneScan :=
  let left := k.remaining.filter fun c => !k.round.contains c
  if left.isEmpty then none
  else some { k with remaining := left, round := toneRound left [], roundStart := s.now, first := toneFirst s }

theorem scanAfter_last {k : ToneScan} (h : k.remaining.filter (fun c => !k.round.contains c) = []) (s : State) :
    scanAfter k s = none := by
  unfold scanAfter
  rw [h]
  rfl

theorem scanAfter_next {k : ToneScan} (h : k.remaining.filter (fun c => !k.round.contains c) ≠ []) (s : State) :
    scanAfter k s = some { k with
      remaining := k.remaining.filter fun c => !k.round.contains c
      round := toneRound (k.remaining.filter fun c => !k.round.contains c) []
      roundStart := s.now, first := toneFirst s } :=
  if_neg (by simpa using h)

section
variable {q : Nat} {k : ToneScan} {s : State} (hscan : (toneOf s q).scan = some k)
  (hdue : k.roundStart + msU + cf s 0x0104 q 0 11 0 * 250 * usU ≤ s.now)
include hscan hdue

/-- A round whose outputs have come writes its results, and the scan goes on with the channels that are left. -/
theorem toneRoundEnd_ends {limited : List Nat}
    (hready : ∀ c ∈ k.round, limited.contains c = true ∨ toneReady s c (cf s 0x0104 q 0 11 0) k.first = true) :
    let t := (k.round.filterMap fun c => toneReading s c (cf s 0x0104 q 0 11 0) k.first (limited.contains c)).foldl
      (fun s r => toneWrite q k.capture r s) s
    toneRoundEnd q limited s = setTone q { toneOf t q with scan := scanAfter k t } t := by
  have hall : k.round.all (fun c => limited.contains c || toneReady s c (cf s 0x0104 q 0 11 0) k.first) = true :=
    List.all_eq_true.2 fun c hc => by simpa only [Bool.or_eq_true] using hready c hc
  unfold toneRoundEnd
  simp only [hscan]
  exact if_neg (by simp only [Nat.not_lt.2 hdue, hall, not_true_eq_false, or_self, not_false_eq_true])

/-- A round without results writes none. -/
theorem toneRoundEnd_noResults (hnone : ∀ c ∈ k.round, toneReady s c (cf s 0x0104 q 0 11 0) k.first = true
      ∧ (toneSums s c (cf s 0x0104 q 0 11 0) k.first).1 = none) :
    toneRoundEnd q [] s = setTone q { toneOf s q with scan := scanAfter k s } s := by
  have hread : (k.round.filterMap fun c => toneReading s c (cf s 0x0104 q 0 11 0) k.first (([] : List Nat).contains c)) = [] :=
    List.filterMap_eq_nil_iff.2 fun c hc => by simp [toneReading, (hnone c hc).2]
  rw [toneRoundEnd_ends hscan hdue fun c hc => .inr (hnone c hc).1, hread]
  rfl

/-- The last round, of one channel with a result: the result is written and the scan is over. -/
theorem toneRoundEnd_last {c : Nat} {limited : List Nat} {z : ToneReading} (hround : k.round = [c])
    (hleft : k.remaining.filter (fun c => !k.round.contains c) = []) (hchannel : z.channel = c)
    (hready : limited.contains c = true ∨ toneReady s c (cf s 0x0104 q 0 11 0) k.first = true)
    (hread : toneReading s c (cf s 0x0104 q 0 11 0) k.first (limited.contains c) = some z) :
    let t := toneRoundEnd q limited s
    (toneOf t q).scan = none ∧ (chan t c).tone.cls = toneClass s q z (chan s c).tone.base k.capture
      ∧ (chan t c).tone.re = z.re ∧ (chan t c).tone.im = z.im ∧ (chan t c).tone.seconds = secondsNow s
      ∧ (∀ d, d ≠ c → chan t d = chan s d) ∧ Still { s with chans := t.chans, tone := t.tone } t := by
  subst hchannel
  have hrun : toneRoundEnd q limited s = setTone q
      { toneOf (toneWrite q k.capture z s) q with scan := none } (toneWrite q k.capture z s) := by
    rw [toneRoundEnd_ends hscan hdue (by simpa [hround] using hready), scanAfter_last hleft]
    simp only [hround, List.filterMap_cons, List.filterMap_nil, hread]
    rfl
  obtain ⟨base, hstill⟩ := toneWrite_spec q k.capture z s
  intro t
  rw [show t = _ from hrun]
  generalize toneWrite q k.capture z s = written at *
  have hchan (d : Nat) : chan (setTone q { toneOf written q with scan := none } written) d = _ := hstill.chan_eq d
  refine ⟨by rw [toneOf_setTone_self], ?_, ?_, ?_, ?_, fun d hd => ?_, ?_⟩
  · rw [hchan, chan_setChan_self]
  · rw [hchan, chan_setChan_self]
  · rw [hchan, chan_setChan_self]
  · rw [hchan, chan_setChan_self]
  · rw [hchan, (setChan_onlyChan ..).others d hd]
  · exact { hstill with chans := rfl, tone := rfl, flash := hstill.flash, boot := hstill.boot }

end

/-! ### The obligation -/

/-- Settles O19: a first start, the two kinds of result of a last round, and rounds without results. -/
theorem toneScans : Obligations.ToneScans := by
  unfold Obligations.ToneScans
  refine ⟨?_, ?_, ?_, ?_, ?_⟩
  · rintro at_ q s u rfl hq hs hperiod hidle hfirst hchans
    exact congrArg Host.Outcome.next (scanDue_first hq hs hperiod hidle hfirst hchans)
  · rintro at_ q c k z s u rfl hscan hdue hround hleft rfl
    exact ⟨_, rfl, toneRoundEnd_last hscan hdue hround hleft rfl (.inl (by simp)) (by simp [toneReading])⟩
  · rintro at_ q c k a z s u rfl hscan hdue hround hleft hready hsums rfl
    exact ⟨_, rfl, toneRoundEnd_last hscan hdue hround hleft rfl (.inr hready) (by simp [toneReading, hsums])⟩
  · rintro at_ q k s u rfl hscan hdue hnone hleft
    exact congrArg Host.Outcome.next (scanAfter_next hleft (s.tick at_) ▸ toneRoundEnd_noResults hscan hdue hnone)
  · rintro at_ q k s u rfl hscan hdue hnone hleft
    exact congrArg Host.Outcome.next (scanAfter_last hleft (s.tick at_) ▸ toneRoundEnd_noResults hscan hdue hnone)

end Sys2Proof.Machine
end

section
/-! SUPPORT. Injected conversions are taken in, refused, and end (04 R102 to R104). -/

namespace Sys2Proof.Machine

/-! ### The session of an accepted packet is open -/

theorem request_session (op : Nat) (p : Packet) (v : Session) (s : State) : (request op p v s).session = v.id := by
  unfold request
  dsimp only
  split <;> rfl

/-- A change of sessions that keeps their ids closes none. -/
theorem session?_onSession_isSome {f : Session → Session} (hf : ∀ x, (f x).id = x.id) (id k : Nat) (s : State) :
    (session? (onSession id f s) k).isSome = (session? s k).isSome := by
  have hid : (fun x : Session => x.id == k) ∘ (fun x => if x.id = id then f x else x) = fun x => x.id == k := by
    funext x
    dsimp only [Function.comp_apply]
    split
    · rw [hf]
    · rfl
  unfold session? onSession
  rw [List.find?_map, hid, Option.isSome_map]

/-- What the checks note of a session closes none. -/
theorem session?_takenState_isSome (p : Packet) (v : Session) (k : Nat) (s : State) :
    (session? (takenState p v s) k).isSome = (session? s k).isSome := by
  have harrival : (session? (onSession v.id (fun x => { x with lastPacket := s.now }) s) k).isSome
      = (session? s k).isSome := session?_onSession_isSome (by intro _; rfl) ..
  have hseen : (session? (seenState p v s) k).isSome = _ := session?_onSession_isSome (by intro _; rfl) ..
  have htaken : (session? (takenState p v s) k).isSome = _ := session?_onSession_isSome (by intro _; rfl) ..
  exact htaken.trans (hseen.trans harrival)

theorem accepted_sessionOpen {op : Nat} {p : Packet} {need : Req → State → Nat} {ok : Req → State → Bool} {v : Session}
    {s : State} (h : Accepted op p need ok v s) : sessionOpen (takenState p v s) (request op p v s) = true := by
  have hsession : packetSession p s = some v := h.2.2.1
  unfold sessionOpen
  rw [request_session, session?_takenState_isSome]
  exact List.find?_isSome.2 ⟨v, List.mem_of_find?_eq_some hsession, beq_self_eq_true _⟩

/-- Where the session that asked is open, a refusal that would outlive it goes to it (13 R333). -/
theorem refuseOr_open {r : Req} {s : State} (h : sessionOpen s r = true) (status : Nat) :
    refuseOr r status s = refuse r status s := by
  obtain ⟨v, hv⟩ := Option.isSome_iff_exists.1 h
  simp only [refuseOr, refuse, answerOr, answer, replyTo, hv]

/-! ### CONV_INJECT with START = NOW -/

/-- The injection that a request with START = NOW asks for. -/
def untimedInjection (r : Req) (s : State) : Injection :=
  { id := (s.conv.injectIds + nextId s) % 65536, req := r, channel := r.f 0 2, count := r.f 2 2, settle := injectSettle r s,
    start := 0, evt := r.f 7 1, wMin := r.f 8 4, wMax := r.f 12 4, delay := r.f 16 4,
    deadline := s.now + r.f 20 2 * secU, hold := none, due := s.now, done := [], lead := none }

section
variable {r : Req} {s : State} (hserves : inService s (codeQuire (r.f 0 2)) = true)
include hserves

theorem injectRun_taken (hnow : r.f 6 1 = 0) (hsimul : s.conv.simul = none)
    (hroom : (witOf s (codeQuire (r.f 0 2))).injections.length < 16)
    (hfits : permStandin s (codeQuire (r.f 0 2)) = none ∨ injectSettle r s ≤ 113) :
    injectRun none r s = queued { r with ranLate := false } (le 2 ((s.conv.injectIds + nextId s) % 65536))
      { setWit (codeQuire (r.f 0 2)) { witOf s (codeQuire (r.f 0 2)) with
          injections := (witOf s (codeQuire (r.f 0 2))).injections ++ [untimedInjection r s] } s with
        conv.injectIds := s.conv.injectIds + nextId s + 1 } := by
  have hperm : ¬ ((permStandin s (codeQuire (r.f 0 2))).isSome = true ∧ 150 < injectSettle r s + 37) := by
    rintro ⟨hsome, hlong⟩
    rcases hfits with hnone | hshort
    · rw [hnone] at hsome; cases hsome
    · omega
  unfold injectRun untimedInjection
  dsimp only
  rw [if_neg (not_not_intro hserves), if_neg (by rw [hsimul]; decide), if_neg (Nat.not_le.2 hroom), if_neg hperm, hnow]

theorem injectRun_simul (hold : Option Int) (hsimul : s.conv.simul.isSome = true) :
    injectRun hold r s = refuseOr r stConflict s := by
  unfold injectRun
  dsimp only
  rw [if_neg (not_not_intro hserves), if_pos hsimul]

theorem injectRun_full (hold : Option Int) (hsimul : s.conv.simul = none)
    (hfull : 16 ≤ (witOf s (codeQuire (r.f 0 2))).injections.length) :
    injectRun hold r s = refuseOr r stBusy s := by
  unfold injectRun
  dsimp only
  rw [if_neg (not_not_intro hserves), if_neg (by rw [hsimul]; decide), if_pos hfull]

end

/-- An accepted request with START = NOW and no apply-at time runs at once. -/
theorem convInject_now {p : Packet} {v : Session} {s : State} (h : Accepted 0x0300 p tableRole injectOk v s)
    (hat : (request 0x0300 p v s).applyAt = none) (hnow : (request 0x0300 p v s).f 6 1 = 0) :
    receive 0x0300 p injectServe s = injectRun none (request 0x0300 p v s) (takenState p v s) := by
  unfold injectServe
  rw [serve_accepted _ h]
  simp only [hat, hnow]
  rfl

/-! ### The end of an injection -/

/-- An injection that ends leaves the quire's injections, and the rest is reports. -/
theorem endInjection_still {q id : Nat} {j : Injection} {s : State} (reason : Nat)
    (hj : (witOf s q).injections.find? (·.id == id) = some j) :
    Still (setWit q { witOf s q with injections := (witOf s q).injections.filter (·.id != id) } s)
      (endInjection q id reason s) := by
  unfold endInjection
  simp only [hj]
  exact ite_still (answer_still (.refl _)) (ite_still (put2_still (.refl _)) (put2_still (put2_still (.refl _))))

/-- Nothing but one quire's witness differs, and reports. -/
theorem Still.witness_only {q : Nat} {w : Witness} {s t : State} (h : Still (setWit q w s) t) :
    witOf t q = w ∧ (∀ k, k ≠ q → witOf t k = witOf s k) ∧ Still { s with wit := t.wit } t := by
  refine ⟨(h.witOf_eq q).trans (witOf_setWit_self ..), fun k hk => (h.witOf_eq k).trans (witOf_setWit_ne hk ..), ?_⟩
  rw [h.wit]
  exact h

section
variable {q id : Nat} {j : Injection} {s : State} (hq : injectionQuire s id = some q)
  (hj : (witOf s q).injections.find? (·.id == id) = some j)
include hq hj

theorem injectDone_eq : injectDone id s = if j.done.length = j.count then endInjection q id 0 s else s := by
  simp only [injectDone, hq, hj]

theorem injectTimeout_eq : injectTimeout id s
    = if j.start = 2 ∧ j.hold = none ∧ j.deadline ≤ s.now then endInjection q id 2 s else s := by
  simp only [injectTimeout, hq, hj]

end

/-- Settles O22: each command is its operation at the command's instant; an injection that ends leaves its quire's list. -/
theorem injections : Obligations.Injections := by
  unfold Obligations.Injections
  refine ⟨?taken, ?simul, ?full, ?cancel, ?complete, ?waits, ?timeout⟩
  case taken =>
    rintro at_ p v r z q s u rfl ha rfl rfl rfl hat hnow hserves hsimul hroom hfits
    exact congrArg Host.Outcome.next
      ((convInject_now ha hat hnow).trans (injectRun_taken hserves hnow hsimul hroom hfits))
  case simul =>
    rintro at_ p v r z s u rfl ha rfl rfl hat hnow hserves hsimul
    exact congrArg Host.Outcome.next ((convInject_now ha hat hnow).trans
      ((injectRun_simul hserves none hsimul).trans (refuseOr_open (accepted_sessionOpen ha) _)))
  case full =>
    rintro at_ p v r z s u rfl ha rfl rfl hat hnow hserves hsimul hfull
    exact congrArg Host.Outcome.next ((convInject_now ha hat hnow).trans
      ((injectRun_full hserves none hsimul hfull).trans (refuseOr_open (accepted_sessionOpen ha) _)))
  case cancel =>
    rintro at_ p v r z q s u rfl ha rfl rfl hq
    refine congrArg Host.Outcome.next ((serve_accepted _ ha).trans ?_)
    simp only [hq]
  case complete =>
    rintro at_ q id j s u rfl hq hj hall
    exact ⟨_, congrArg Host.Outcome.next ((injectDone_eq hq hj).trans (if_pos hall)),
      (endInjection_still 0 hj).witness_only⟩
  case waits =>
    rintro at_ q id j s u rfl hq hj hsome
    exact congrArg Host.Outcome.next ((injectDone_eq hq hj).trans (if_neg hsome))
  case timeout =>
    rintro at_ q id j s u rfl hq hj hpulse hhold hdead
    exact ⟨_, congrArg Host.Outcome.next ((injectTimeout_eq hq hj).trans (if_pos ⟨hpulse, hhold, hdead⟩)),
      (endInjection_still 2 hj).witness_only⟩

end Sys2Proof.Machine
end

section
/-! SUPPORT. Simultaneous mode: what its start and its end leave of the witnesses, and where a frame's results go (04 R112
to R114; 15 R379). -/

namespace Sys2Proof.Machine

/-- Each step of a loop over distinct numbers changes its own number's record, by a rule that no step changes: at the end
each record has changed once. -/
theorem forAll_own {α β : Type} {get : State → α → β} {upd : State → α → β → β} {f : α → State → State}
    (hown : ∀ x t, get (f x t) x = upd t x (get t x)) (hothers : ∀ x y t, x ≠ y → get (f y t) x = get t x)
    (hrule : ∀ y t, upd (f y t) = upd t) {l : List α} (hl : l.Nodup) {x : α} (hx : x ∈ l) (s : State) :
    get (forAll l f s) x = upd s x (get s x) := by
  induction l generalizing s with
  | nil => cases hx
  | cons y r ih =>
    obtain ⟨hy, hr⟩ := List.nodup_cons.1 hl
    rw [forAll_cons]
    rcases List.mem_cons.1 hx with rfl | hxr
    · rw [← hown x s]
      unfold forAll
      exact List.foldlRecOn r _ (motive := fun t => get t x = get (f x s) x) rfl
        fun t ht z hz => (hothers x z t fun e => hy (e ▸ hz)).trans ht
    · rw [ih hr hxr, hrule, hothers x y s fun e => hy (e ▸ hxr)]

/-! ### Every witness changes its state (04 R113) -/

/-- What a witness in service becomes: its round robin begins again, or it takes the state. -/
def witTurned (st : Nat) (s : State) (w : Witness) : Witness :=
  if st = 1 then { w with state := 1, rr := 0, slotEnd := nowTick s } else { w with state := st }

/-- The witnesses that change: those in service that are not in fault. -/
def turnedQuires (s : State) : List Nat := (servingQuires s).filter fun q => decide ((witOf s q).state ≠ 3)

theorem allWitness_eq (st : Nat) (s : State) :
    allWitness st s = forAll (turnedQuires s) (fun q t => setWit q (witTurned st t (witOf t q)) t) s := by
  unfold allWitness turnedQuires witTurned startRobin
  by_cases h : st = 1
  · simp only [h, if_true]
  · simp only [h, if_false]

theorem allWitness_wit (st : Nat) (s : State) : ∃ w, allWitness st s = { s with wit := w } := by
  rw [allWitness_eq]
  exact forAll_ind (P := fun t => ∃ w, t = { s with wit := w }) _ (by rintro q _ ⟨w, rfl⟩; exact ⟨_, rfl⟩) ⟨_, rfl⟩

theorem turnedQuires_nodup (s : State) : (turnedQuires s).Nodup := (List.nodup_range.filter _).filter _

theorem mem_turnedQuires {q : Nat} {s : State} (hq : q < s.part.quires) (hserves : inService s q = true)
    (hfault : (witOf s q).state ≠ 3) : q ∈ turnedQuires s :=
  List.mem_filter.2 ⟨List.mem_filter.2 ⟨List.mem_range.2 hq, hserves⟩, decide_eq_true hfault⟩

theorem witOf_allWitness (st : Nat) {q : Nat} {s : State} (hq : q < s.part.quires) (hserves : inService s q = true)
    (hfault : (witOf s q).state ≠ 3) : witOf (allWitness st s) q = witTurned st s (witOf s q) := by
  rw [allWitness_eq]
  exact forAll_own (get := witOf) (upd := fun t _ => witTurned st t) (fun q t => witOf_setWit_self ..)
    (fun _ _ t h => witOf_setWit_ne h ..) (fun _ _ => rfl) (turnedQuires_nodup s) (mem_turnedQuires hq hserves hfault) s

theorem Still.nowTick_eq {s t : State} (h : Still s t) : nowTick t = nowTick s := by unfold nowTick; rw [h.devNow_eq]

theorem Still.onWit {a b : State} (h : Still a b) (w : Tab Witness) : Still { a with wit := w } { b with wit := w } :=
  ⟨h.part, h.time, h.ptp, h.evt, h.iu, h.quires, h.exc, h.tone, h.chans, rfl, h.conv, h.cal, h.trg, h.group, h.lanes,
    h.skaing, h.safe, h.cfg, h.past, h.now, h.draw, h.pending, h.flash, h.boot⟩

theorem Still.onSimul {a b : State} (h : Still a b) (m : Option Simul) :
    Still { a with conv.simul := m } { b with conv.simul := m } := by
  rw [h.conv]
  exact h.onConv _

/-- Every witness in service that is not in fault follows the mode, and the rest is reports. -/
theorem turned_spec {z y t : State} (st : Nat) (hy : Still z y) (ht : Still (allWitness st y) t) :
    t.conv = z.conv
      ∧ (∀ q, q < z.part.quires → inService z q = true → (witOf z q).state ≠ 3 →
          witOf t q = witTurned st z (witOf z q))
      ∧ Still { z with conv := t.conv, wit := t.wit } t := by
  have hrule : witTurned st y = witTurned st z := by
    unfold witTurned
    rw [hy.nowTick_eq]
  have hwit (q : Nat) (hq : q < z.part.quires) (hserves : inService z q = true) (hfault : (witOf z q).state ≠ 3) :
      witOf t q = witTurned st z (witOf z q) := by
    rw [ht.witOf_eq, witOf_allWitness st (by rwa [hy.part]) (by rwa [hy.inService_eq]) (by rwa [hy.witOf_eq]), hrule,
      hy.witOf_eq]
  obtain ⟨w, hw⟩ := allWitness_wit st y
  rw [hw] at ht
  have hconv : t.conv = z.conv := ht.conv.trans hy.conv
  refine ⟨hconv, hwit, ?_⟩
  rw [hconv, ht.wit]
  exact (hy.onWit w).trans ht

/-! ### The commands -/

section
variable {p : Packet} {v : Session} {r : Req} {s z : State}

/-- The mode that a request names. -/
def simulAsked (r : Req) (s : State) : Simul :=
  { stream := r.f 0 1, period := r.f 2 2, ends := if r.f 4 2 = 0 then none else some (s.now + r.f 4 2 * secU),
    lists := simulLists r, session := r.session }

section
variable (h : Accepted 0x0302 p tableRole simulOk v s) (hr : r = request 0x0302 p v s) (hz : z = takenState p v s)
  (hserve : ((simulLists r).zipIdx.any fun x => !x.1.isEmpty && !inService z x.2) = false)
include h hr hz hserve

theorem simulStart_runs
    (hfree : (running z (r.f 0 1) || anyStandins z || anyInjection z || z.conv.simul.isSome) = false) :
    ∃ y, Still { z with conv.simul := some (simulAsked r z) } y
      ∧ receive 0x0302 p simulServe s = answer r stOk [] (allWitness 2 y) := by
  have hx : Still z (jDone r [] z) := jDone_still (.refl z)
  refine ⟨_, hx.onSimul _, ?_⟩
  unfold simulServe simulAsked
  rw [serve_accepted _ h, ← hr, ← hz]
  simp only [hserve, hfree, hx.now, Bool.false_eq_true, if_false]

theorem simulStart_refused
    (hbusy : (running z (r.f 0 1) || anyStandins z || anyInjection z || z.conv.simul.isSome) = true) :
    receive 0x0302 p simulServe s = refuse r stConflict z := by
  unfold simulServe
  rw [serve_accepted _ h, ← hr, ← hz]
  simp only [hserve, hbusy, Bool.false_eq_true, if_false, if_true]

end

theorem simulEnd_on (h : s.conv.simul.isSome = true) : simulEnd s = allWitness 1 { s with conv.simul := none } :=
  if_pos h

theorem simulStop_runs (h : Accepted 0x0303 p tableRole (exactly 0) v s) (hr : r = request 0x0303 p v s)
    (hz : z = takenState p v s) (hon : z.conv.simul.isSome = true) :
    ∃ y, Still { z with conv.simul := none } y
      ∧ receive 0x0303 p simulStopServe s = answer r stOk [] (allWitness 1 y) := by
  have hx : Still z (jDone r [] z) := jDone_still (.refl z)
  refine ⟨_, hx.onSimul none, ?_⟩
  unfold simulStopServe
  rw [serve_accepted _ h, ← hr, ← hz, simulEnd_on (by rw [hx.conv, hon])]

theorem simulExpiry_due {k : Simul} {e : Nat} (hk : s.conv.simul = some k) (he : k.ends = some e) (hdue : e ≤ s.now) :
    simulExpiry s = allWitness 1 { s with conv.simul := none } := by
  simp only [simulExpiry, hk, he, if_pos hdue]
  exact simulEnd_on (by rw [hk]; rfl)

end

/-! ### Frames (04 R112, R113; 15 R379) -/

theorem safePair_setMember (m p : Nat) (v : SMember) (s : State) :
    safePair (setMember m v s) p = if m / 2 = p then
        if m % 2 = 0 then { safePair s p with a := v } else { safePair s p with b := v }
      else safePair s p := by
  unfold setMember
  by_cases hp : m / 2 = p
  · subst hp
    split <;> simp only [safePair_setPair, if_true]
  · split <;> simp only [safePair_setPair, hp, if_false]

@[simp] theorem member_setMember_self (m : Nat) (v : SMember) (s : State) : member (setMember m v s) m = v := by
  unfold member
  rw [safePair_setMember, if_pos rfl]
  split <;> rfl

theorem member_setMember_ne {m k : Nat} (h : k ≠ m) (v : SMember) (s : State) :
    member (setMember m v s) k = member s k := by
  unfold member
  rw [safePair_setMember]
  by_cases hp : m / 2 = k / 2
  · rw [if_pos hp]
    by_cases hk : k % 2 = 0
    · rw [if_pos hk, if_pos hk, if_neg (by omega)]
    · rw [if_neg hk, if_neg hk, if_pos (by omega)]
  · rw [if_neg hp]

/-- Which channel a slot names rests on the partition and on no member's record. -/
theorem slotChan_setMember (m k : Nat) (v : SMember) (s : State) : slotChan (setMember m v s) k = slotChan s k := by
  unfold setMember
  split <;> rfl

theorem setMember_islandSide {m : Nat} {v : SMember} {s0 s : State} (h : IslandSide s0 s) :
    IslandSide s0 (setMember m v s) := by
  rw [setMember_safe]
  exact h.trans (Still.refl _)

/-- What a frame's results make of the member of a slot. -/
def rootMember (l : List Conversion) (s : State) (m : Nat) (x : SMember) : SMember :=
  match l.find? (fun v => decide (v.code = slotChan s m)) with
  | some v => { x with root := v.value, fresh := true }
  | none => x

/-- The step of a frame's results for one slot. -/
def rootTaken (l : List Conversion) (m : Nat) (s : State) : State :=
  match l.find? (fun v => decide (v.code = slotChan s m)) with
  | some v => setMember m { member s m with root := v.value, fresh := true } s
  | none => s

theorem rootResults_eq (l : List Conversion) (s : State) : rootResults l s = forAll (List.range 128) (rootTaken l) s := rfl

section
variable (l : List Conversion) (m : Nat) (s : State)

theorem member_rootTaken_self : member (rootTaken l m s) m = rootMember l s m (member s m) := by
  unfold rootTaken rootMember
  split
  · exact member_setMember_self ..
  · rfl

theorem member_rootTaken_ne {k : Nat} (h : k ≠ m) : member (rootTaken l m s) k = member s k := by
  unfold rootTaken
  split
  · exact member_setMember_ne h ..
  · rfl

theorem slotChan_rootTaken (k : Nat) : slotChan (rootTaken l m s) k = slotChan s k := by
  unfold rootTaken
  split
  · exact slotChan_setMember ..
  · rfl

theorem rootMember_rootTaken : rootMember l (rootTaken l m s) = rootMember l s := by
  funext k x
  unfold rootMember
  rw [slotChan_rootTaken]

end

theorem rootTaken_islandSide (l : List Conversion) (m : Nat) {s0 s : State} (h : IslandSide s0 s) :
    IslandSide s0 (rootTaken l m s) := by
  unfold rootTaken
  split
  · exact setMember_islandSide h
  · exact h

theorem rootResults_islandSide (l : List Conversion) (s : State) : IslandSide s (rootResults l s) :=
  forAll_ind (P := IslandSide s) _ (fun _ _ => rootTaken_islandSide l _) (.refl s)

theorem member_rootResults (l : List Conversion) {m : Nat} (hm : m < 128) (s : State) :
    member (rootResults l s) m = rootMember l s m (member s m) :=
  forAll_own (get := member) (upd := rootMember l) (member_rootTaken_self l) (fun _ _ t h => member_rootTaken_ne l _ t h)
    (rootMember_rootTaken l) List.nodup_range (List.mem_range.2 hm) s

section
variable {k : Simul} {start : Nat} {s : State} (l : List (Nat × Int))

theorem simulFrame_host (hk : s.conv.simul = some k) (hstart : start % k.period = 0)
    (hend : frameEnd s start ≤ nowTick s) :
    simulFrame start l s = simulFolios 4 k.stream (frameResults s start l) s := by
  simp only [simulFrame, simulPeriod, hk, hstart, if_neg (Int.not_lt.2 hend), not_true_eq_false, if_false, ne_eq]

theorem simulFrame_elsewhere (hstart : start % simulPeriod s ≠ 0) : simulFrame start l s = s := if_pos hstart

theorem simulFrame_root (hk : s.conv.simul = none) (hstart : start % 800 = 0) :
    simulFrame start l s = rootResults (frameResults s start l) s := by
  simp only [simulFrame, simulPeriod, hk, hstart, not_true_eq_false, if_false, ne_eq]

/-- A frame's results are of codes that a converting witness lists and that a raw value is given for. -/
theorem frameResults_listed {x : Conversion} (hx : x ∈ frameResults s start l) :
    (simulQuires s).any (fun q => (simulList s q).contains x.code) = true
      ∧ l.any (fun v => v.1 == x.code) = true := by
  unfold frameResults at hx
  obtain ⟨q, hq, hx⟩ := List.mem_flatMap.1 hx
  obtain ⟨p, hp, hx⟩ := List.mem_filterMap.1 hx
  obtain ⟨v, hv, rfl⟩ := Option.map_eq_some_iff.1 hx
  have hlisted : p.1 ∈ simulList s q := List.mem_of_getElem? (List.mem_zipIdx_iff_getElem?.1 hp)
  have hgiven : (v.1 == p.1) = true := List.find?_some (p := fun y : Nat × Int => y.1 == p.1) hv
  exact ⟨List.any_eq_true.2 ⟨q, hq, List.contains_iff_mem.2 hlisted⟩,
    List.any_eq_true.2 ⟨v, List.mem_of_find?_eq_some hv, hgiven⟩⟩

end

/-- Settles O23: the witnesses follow the mode, and a frame's results go where the mode says. -/
theorem simultaneousMode : Obligations.SimultaneousMode := by
  unfold Obligations.SimultaneousMode
  refine ⟨?start, ?refused, ?stop, ?expiry, ?host, ?elsewhere, ?root, ?listed⟩
  case start =>
    rintro at_ p v r z s u rfl ha hr hz hserve hfree
    obtain ⟨y, hy, e⟩ := simulStart_runs ha hr hz hserve hfree
    exact ⟨_, congrArg Host.Outcome.next e, turned_spec 2 hy (answer_still (.refl _))⟩
  case refused =>
    rintro at_ p v r z s u rfl ha hr hz hserve hbusy
    exact congrArg Host.Outcome.next (simulStart_refused ha hr hz hserve hbusy)
  case stop =>
    rintro at_ p v r z s u rfl ha hr hz hon
    obtain ⟨y, hy, e⟩ := simulStop_runs ha hr hz hon
    exact ⟨_, congrArg Host.Outcome.next e, turned_spec 1 hy (answer_still (.refl _))⟩
  case expiry =>
    rintro at_ k e s u rfl hk he hdue
    exact congrArg Host.Outcome.next (simulExpiry_due hk he hdue)
  case host =>
    rintro at_ k start l s u rfl hk hstart hend
    exact congrArg Host.Outcome.next (simulFrame_host l hk hstart hend)
  case elsewhere =>
    rintro at_ start l s u rfl hstart
    exact congrArg Host.Outcome.next (simulFrame_elsewhere l hstart)
  case root =>
    rintro at_ start l s u rfl hk hstart
    exact ⟨_, congrArg Host.Outcome.next (simulFrame_root l hk hstart), fun m hm => member_rootResults _ hm _,
      rootResults_islandSide ..⟩
  case listed =>
    intro s start l x hx
    exact frameResults_listed l hx

end Sys2Proof.Machine
end

section
/-! SUPPORT. Witness visits and calibration runs: where a witness resumes a stand-in, and whom its calibration waits for
(04 R100, R105, R111, R118; 07 R174; 17 R434). -/

namespace Sys2Proof.Machine

/-! ### A stand-in that resumes -/

/-- Refutes O21: the clause on a witness that leaves WITNESS_FAULT claims, of every state, that no other quire's witness
changes; but a permanent stand-in resumes in the quire that its channel's number names, and nothing in the statement says
that this is the quire whose position holds it. The counterexample: quires 0 and 1 both hold a suspended permanent stand-in of
channel 128, a channel of quire 1, and the third good cycle of quire 0 resumes the one of quire 1. -/
theorem not_witnessVisits : ¬ Obligations.WitnessVisits := by
  unfold Obligations.WitnessVisits
  rintro ⟨-, -, -, -, -, hpassed, -⟩
  let standin : StandIn := { channel := 128, kind := 2, first := 0, last := none, suspended := true }
  let s : State := { State.reset with
    part := { PartId.init with quires := 2 }
    wit := [(0, { (default : Witness) with state := 3, passRow := 2, posA := some standin }),
      (1, { (default : Witness) with state := 1, posA := some standin })] }
  obtain ⟨t, ht, -, -, -, -, hothers, -⟩ := hpassed 0 0 0 0 s (s.tick 0) rfl (by decide) (by decide) (by decide)
    (by decide) (by decide +kernel)
  cases ht
  have hresumed : (witOf (cycleEnd 0 0 0 (s.tick 0)) 1).posA.map StandIn.suspended = some false := by decide +kernel
  have hclaim := congrArg (fun w : Witness => w.posA.map StandIn.suspended) (hothers 1 (by decide))
  exact absurd (hresumed.symm.trans hclaim) (by decide)

/-! ### The queue of the witness -/

/-- A witness calibration waits for a channel's calibration that was asked for before it became due (04 R100, R105). -/
theorem witnessCal_waits {q a b : Nat} {s : State} (hwit : witAsked s q = some a) (hcal : calAsked s q = some b)
    (hbefore : b < a) (zero : Int) (dac1 dac16 : Int × Int) (ratio vref : Int) :
    witnessCal q zero dac1 dac16 ratio vref s = s := by
  simp [witnessCal, hwit, hcal, hbefore]

/-- Refutes O30: the clause on a witness calibration that is due leaves out that a channel's calibration asked for earlier goes
first (04 R100, R105). The counterexample: one day after reset in Crown, with channel 0 queued since reset and free to start,
the calibration of quire 0's witness has just become due; it waits, and the witness keeps its zero. -/
theorem not_calibrationRuns : ¬ Obligations.CalibrationRuns := by
  unfold Obligations.CalibrationRuns
  rintro ⟨-, -, -, -, -, -, -, -, -, -, -, hdue, -⟩
  let s : State := { State.reset with
    boot := { (default : Boot) with stage := 3 }
    part := { PartId.init with quires := 2 }
    now := 86400 * secU
    chans := [(0, { (default : Chan) with run := some { (default : CalRun) with state := 1 } })]
    wit := [(0, { (default : Witness) with state := 1 })]
    cal := { State.reset.cal with ens := [(0, { Ensemble.init with warm := 4 })], queue := [(0, false)] } }
  obtain ⟨t, ht, hzero, -⟩ := hdue 0 0 7 0 0 (0, 0) (0, 0) s (s.tick 0) rfl (by decide) (by decide) (by decide)
    (by decide) (by decide) (by decide) (by decide) (by decide)
  have hrun : exec (.witnessCalibrationDue 0 0 7 (0, 0) (0, 0) 0 0) s = .next (s.tick 0) :=
    congrArg Host.Outcome.next ((unlessPaused_runs (by decide)).trans
      (witnessCal_waits (a := 86400 * secU) (b := 0) (by decide) (by decide) (by decide) ..))
  cases Host.Outcome.next.inj (ht.symm.trans hrun)
  have hstands : (witOf (s.tick 0) 0).zero = 0 := by decide
  exact absurd (hstands.symm.trans hzero) (by norm_num)

end Sys2Proof.Machine
end

section
/-! SUPPORT. Every command keeps what no command undoes (07 R179; 15 R392; 16 R421). -/

namespace Sys2Proof.Machine

/-- A command that completes at an instant keeps what no command undoes, the clock included. -/
theorem Completes.keep {s : State} {at_ : Nat} {cmd : Instr} (h : Completes s at_ cmd) :
    ∃ t, exec cmd s = .next t ∧ Keep s t := by
  obtain ⟨t, e, k⟩ := h
  exact ⟨t, e, (state_tick_keep (.refl s)).trans k⟩

/-- Each command completes at the instant that it carries, by the law of its operation. -/
theorem exec_completes (s : State) : (cmd : Instr) → ∃ at_, Completes s at_ cmd
  | .powerOn at_ .. => ⟨at_, .event rfl powerOn_keep⟩
  | .resetRelease at_ .. => ⟨at_, .event rfl tryRelease_keep⟩
  | .rootSettlingEnd at_ .. => ⟨at_, .event rfl settlingEnd_keep⟩
  | .resetNAssert at_ .. => ⟨at_, .event rfl pinReset_keep⟩
  | .brownout at_ .. => ⟨at_, .event rfl brownout_keep⟩
  | .thermalShutdown at_ .. => ⟨at_, .of_keep rfl (enterReset_keep (abandonWrite_keep (keep_boot (.refl _))))⟩
  | .thermalRestart at_ .. => ⟨at_, .of_keep rfl (tryRelease_keep (keep_boot (.refl _)))⟩
  | .lockstepMismatch at_ .. => ⟨at_, .event rfl fun h => enterReset_keep (abandonWrite_keep h)⟩
  | .refInQualified at_ .. => ⟨at_, .event rfl refQualified_keep⟩
  | .imageSelect at_ .. => ⟨at_, .event rfl fun h => drainUnread_keep (imageSelect_keep h)⟩
  | .lpddr5TrainingDone at_ .. => ⟨at_, .event rfl lpTrained_keep⟩
  | .trunkReached at_ .. => ⟨at_, .event rfl trunkReached_keep⟩
  | .modulatorsStart at_ .. => ⟨at_, .event rfl modulatorsStart_keep⟩
  | .crownReached at_ .. => ⟨at_, .event rfl crownReached_keep⟩
  | .streamContinuityEvents at_ .. => ⟨at_, .event rfl continuityEvents_keep⟩
  | .stageDeadlineOverrun at_ .. => ⟨at_, .event rfl overrunAt_keep⟩
  | .watchdogExpiry at_ .. => ⟨at_, .event rfl watchdog_keep⟩
  | .imageTrialToGood at_ .. => ⟨at_, .event rfl trialGood_keep⟩
  | .cpRestartDone at_ .. => ⟨at_, .event rfl fun h => drainUnread_keep (cpDone_keep h)⟩
  | .mgmtRead at_ .. => ⟨at_, .event rfl mgmtRead_keep⟩
  | .mgmtClockLowTimeout at_ .. => ⟨at_, .of_keep rfl (keep_boot (.refl _))⟩
  | .stitchFrameReceive at_ .. => ⟨at_, .event rfl frameIn_keep⟩
  | .sidebandPollTimeout at_ .. => ⟨at_, .of_keep rfl (ite_keep (linkFailed_keep (.refl _)) (.refl _))⟩
  | .sincPeriodClose at_ .. => ⟨at_, .event rfl periodClose_keep⟩
  | .crossingFifoFull at_ .. => ⟨at_, .event rfl crossingFull_keep⟩
  | .deskewMeasurement at_ .. => ⟨at_, .event rfl deskew_keep⟩
  | .sidebandPrepareAck at_ .. => ⟨at_, .event rfl prepareAck_keep⟩
  | .prepareDeadline at_ .. => ⟨at_, .event rfl prepareDeadline_keep⟩
  | .commitEdge at_ .. => ⟨at_, .event rfl commitEdge_keep⟩
  | .fadeEnd at_ .. => ⟨at_, .event rfl fadeEnd_keep⟩
  | .excStatusUpdate at_ .. => ⟨at_, .event rfl excUpdate_keep⟩
  | .reversalEdge at_ .. => ⟨at_, .event rfl reversalEdge_keep⟩
  | .blankingEnd at_ .. => ⟨at_, .event rfl blankingEnd_keep⟩
  | .excTripped at_ .. => ⟨at_, .event rfl excTrip_keep⟩
  | .senseLow at_ .. => ⟨at_, .event rfl senseLow_keep⟩
  | .senseLowExit at_ .. => ⟨at_, .event rfl senseLowExit_keep⟩
  | .testPulseDue at_ .. => ⟨at_, .event rfl pulseDueRow_keep⟩
  | .testPulseOpen at_ .. => ⟨at_, .event rfl pulseOpen_keep⟩
  | .testPulseClose at_ .. => ⟨at_, .event rfl pulseClose_keep⟩
  | .toneScanStart at_ .. => ⟨at_, .event rfl scanDue_keep⟩
  | .toneScanNow at_ .. | .toneCaptureBase at_ .. | .timeCtrlWrite at_ .. | .ptpPortWrite at_ ..
  | .ethPortWrite at_ .. | .pbWrite at_ .. | .serviceAuthWrite at_ .. | .accessPolicyWrite at_ .. =>
    ⟨at_, .packet rfl writeServe_keep⟩
  | .toneRoundEnd at_ .. => ⟨at_, .event rfl toneRoundEnd_keep⟩
  | .modulatorEndLevelReset at_ .. => ⟨at_, .event rfl endLevel_keep⟩
  | .witnessVisitJudge at_ .. => ⟨at_, .event rfl visit_keep⟩
  | .witnessCycleEnd at_ .. => ⟨at_, .event rfl cycleEnd_keep⟩
  | .commonCauseTestDone at_ .. => ⟨at_, .event rfl commonCause_keep⟩
  | .convInject at_ .. => ⟨at_, .packet rfl injectServe_keep⟩
  | .convInjectCancel at_ .. => ⟨at_, .packet rfl cancelServe_keep⟩
  | .injectComplete at_ .. => ⟨at_, .event rfl injectDone_keep⟩
  | .injectTimeout at_ .. => ⟨at_, .event rfl injectTimeout_keep⟩
  | .witSimulStart at_ .. => ⟨at_, .packet rfl simulServe_keep⟩
  | .witSimulStop at_ .. => ⟨at_, .packet rfl simulStopServe_keep⟩
  | .witSimulDurationEnd at_ .. => ⟨at_, .event rfl simulExpiry_keep⟩
  | .simultaneousFrame at_ .. => ⟨at_, .event rfl simulFrame_keep⟩
  | .handoverToMainPath at_ .. => ⟨at_, .event rfl toMain_keep⟩
  | .handoverOverlapEnd at_ .. => ⟨at_, .event rfl overlapEnd_keep⟩
  | .outputSampleProduce at_ .. => ⟨at_, .event rfl produce_keep⟩
  | .folioFlushTimer at_ .. => ⟨at_, .event rfl flushTimer_keep⟩
  | .streamRunning at_ .. => ⟨at_, .event rfl streamRunning_keep⟩
  | .stallResume at_ .. => ⟨at_, .event rfl stallResume_keep⟩
  | .storeScrub at_ .. => ⟨at_, .event rfl scrub_keep⟩
  | .storeFailure at_ .. => ⟨at_, .event rfl storeFails_keep⟩
  | .dmaStagingRead at_ .. => ⟨at_, .event rfl stageAndSend_keep⟩
  | .fullComparisonDue at_ .. => ⟨at_, .paused rfl fullDue_keep⟩
  | .quickComparisonDue at_ .. => ⟨at_, .paused rfl quickDue_keep⟩
  | .comparisonComplete at_ .. => ⟨at_, .paused rfl compComplete_keep⟩
  | .warmingStateAdvance at_ .. => ⟨at_, .event rfl warmAdvance_keep⟩
  | .heaterFault at_ .. => ⟨at_, .event rfl heaterFault_keep⟩
  | .heaterRegained at_ .. => ⟨at_, .event rfl heaterBack_keep⟩
  | .calTemperatureTrigger at_ .. => ⟨at_, .paused rfl tempTrigger_keep⟩
  | .calAgeTrigger at_ .. => ⟨at_, .paused rfl ageTrigger_keep⟩
  | .channelCalGrant at_ .. => ⟨at_, .paused rfl calGrant_keep⟩
  | .channelCalResult at_ .. => ⟨at_, .event rfl calResult_keep⟩
  | .safetyCalRefused at_ .. => ⟨at_, .paused rfl safetyRefused_keep⟩
  | .witnessCalibrationDue at_ .. => ⟨at_, .paused rfl witnessCal_keep⟩
  | .extStdQuireDone at_ .. => ⟨at_, .event rfl extDone_keep⟩
  | .plannerDueWarn at_ .. => ⟨at_, .paused rfl planWarn_keep⟩
  | .plannerDue at_ .. => ⟨at_, .paused rfl planDue_keep⟩
  | .dailyRingRecord at_ .. => ⟨at_, .paused rfl dailyRecords_keep⟩
  | .calChannel at_ .. => ⟨at_, .packet rfl calServe_keep⟩
  | .calAbort at_ .. => ⟨at_, .packet rfl abortServe_keep⟩
  | .ensCompareNow at_ .. => ⟨at_, .packet rfl compareServe_keep⟩
  | .calExtStd at_ .. => ⟨at_, .packet rfl extServe_keep⟩
  | .calSealOpen at_ .. => ⟨at_, .packet rfl sealOpenServe_keep⟩
  | .calSealClose at_ .. => ⟨at_, .packet rfl sealCloseServe_keep⟩
  | .ensMemberSet at_ .. => ⟨at_, .packet rfl memberServe_keep⟩
  | .ringExport at_ .. => ⟨at_, .packet rfl exportServe_keep⟩
  | .refInLost at_ .. => ⟨at_, .event rfl refLost_keep⟩
  | .refInRelock at_ .. => ⟨at_, .event rfl refBack_keep⟩
  | .reAnchor at_ .. => ⟨at_, .event rfl reAnchor_keep⟩
  | .ptpMessageReceive at_ .. => ⟨at_, .paused rfl ptpReceive_keep⟩
  | .offsetMeasurement at_ .. => ⟨at_, .paused rfl measure_keep⟩
  | .jumpPersistExpiry at_ .. => ⟨at_, .paused rfl jumpPersist_keep⟩
  | .sourceLost at_ .. => ⟨at_, .paused rfl sourceLost_keep⟩
  | .holdoverExpiry at_ .. => ⟨at_, .paused rfl holdExpiry_keep⟩
  | .firstLockEdge at_ .. | .rebaseEdge at_ .. => ⟨at_, .event rfl stepAt_keep⟩
  | .skaingTimeSend at_ .. => ⟨at_, .event rfl timeSend_keep⟩
  | .evtEdgeStamp at_ .. => ⟨at_, .event rfl edgeStamp_keep⟩
  | .iuWindowEnd at_ .. => ⟨at_, .event rfl iuWindowEnd_keep⟩
  | .iuHoldoffEnd at_ .. => ⟨at_, .event rfl iuRearm_keep⟩
  | .timeGet at_ .. => ⟨at_, .packet rfl timeGet_keep⟩
  | .timeSetInitial at_ .. => ⟨at_, .packet rfl timeSetServe_keep⟩
  | .timeRebase at_ .. => ⟨at_, .packet rfl rebaseServe_keep⟩
  | .iuArm at_ .. => ⟨at_, .packet rfl iuArmServe_keep⟩
  | .iuDisarm at_ .. => ⟨at_, .packet rfl iuDisarmServe_keep⟩
  | .sequencerEvaluate at_ .. => ⟨at_, .event rfl evaluate_keep⟩
  | .sequencerIdle at_ .. => ⟨at_, .event rfl seqIdle_keep⟩
  | .bookmarkEmit at_ .. => ⟨at_, .event rfl emitMarks_keep⟩
  | .bookmarkFolioClose at_ .. => ⟨at_, .event rfl folioClose_keep⟩
  | .markRateSecondEnd at_ .. => ⟨at_, .event rfl markSecond_keep⟩
  | .groupMessageReceive at_ .. => ⟨at_, .event rfl groupReceive_keep⟩
  | .oneShotDecision at_ .. => ⟨at_, .event rfl oneShot_keep⟩
  | .firesDroppedReport at_ .. => ⟨at_, .event rfl firesReport_keep⟩
  | .captureRelease at_ .. => ⟨at_, .event rfl captureRelease_keep⟩
  | .trgArm at_ .. => ⟨at_, .packet rfl trgArmServe_keep⟩
  | .trgDisarm at_ .. => ⟨at_, .packet rfl trgDisarmServe_keep⟩
  | .trgMark at_ .. => ⟨at_, .packet rfl markServe_keep⟩
  | .trgMaskLoad at_ .. => ⟨at_, .packet rfl maskLoadServe_keep⟩
  | .groupArm at_ .. => ⟨at_, .packet rfl groupArmServe_keep⟩
  | .groupDisarm at_ .. => ⟨at_, .packet rfl groupDisarmServe_keep⟩
  | .groupFire at_ .. => ⟨at_, .packet rfl groupFireServe_keep⟩
  | .streamStart at_ .. => ⟨at_, .packet rfl startServe_keep⟩
  | .streamStop at_ .. => ⟨at_, .packet rfl stopServe_keep⟩
  | .streamFlush at_ .. => ⟨at_, .packet rfl flushServe_keep⟩
  | .bar0RegisterWrite at_ .. | .ringResume at_ .. =>
    ⟨at_, .event rfl fun h => when_keep (fun _ => drainUnread_keep (.refl _)) (barWrite_keep h)⟩
  | .bar0LoRead at_ .. => ⟨at_, .event rfl barRead_keep⟩
  | .ringDoorbell at_ .. | .ringAckWrite at_ .. | .ringDiscard at_ .. | .ringEnable at_ .. | .ringDisable at_ ..
  | .windowEnable at_ .. | .recoveryGo at_ .. => ⟨at_, .event rfl barWrite_keep⟩
  | .ringTransferComplete at_ .. =>
    ⟨at_, .event rfl fun h => when_keep (fun _ => drainUnread_keep (.refl _)) (ringTransfer_keep h)⟩
  | .ringFault at_ .. => ⟨at_, .event rfl ringFault_keep⟩
  | .windowDisable at_ .. => ⟨at_, .event rfl windowDisable_keep⟩
  | .windowBusyClear at_ .. => ⟨at_, .event rfl windowIdle_keep⟩
  | .interruptModerationTimer at_ .. => ⟨at_, .event rfl moderation_keep⟩
  | .msixUnmask at_ .. => ⟨at_, msixUnmask_completes ..⟩
  | .pcieLinkDown at_ .. => ⟨at_, .event rfl hostDown_keep⟩
  | .pcieHotReset at_ .. => ⟨at_, .event rfl resetPort_keep⟩
  | .d3hotEntry at_ .. => ⟨at_, .of_keep rfl (ite_keep (keep_host (.refl _)) (keep_host (.refl _)))⟩
  | .d0Return at_ .. =>
    ⟨at_, .of_keep rfl (drainUnread_keep (ite_keep (keep_host (.refl _)) (keep_host (.refl _))))⟩
  | .recoveryDone at_ .. => ⟨at_, .event rfl recoveryDone_keep⟩
  | .laneLockLoss at_ .. => ⟨at_, .event rfl lockLoss_keep⟩
  | .pcieLinkReform at_ .. => ⟨at_, .event rfl linkReform_keep⟩
  | .singleLaneLinkDown at_ .. => ⟨at_, .event rfl singleDown_keep⟩
  | .linkTrainingDone at_ .. => ⟨at_, .event rfl trained_keep⟩
  | .noPartnerTimeout at_ .. => ⟨at_, .event rfl noPartner_keep⟩
  | .trainingFaultTimeout at_ .. => ⟨at_, .event rfl trainFault_keep⟩
  | .standbyWake at_ .. => ⟨at_, .event rfl standbyWake_keep⟩
  | .standbyReturn at_ .. => ⟨at_, .event rfl standbyReturn_keep⟩
  | .eyeScanDue at_ .. => ⟨at_, .event rfl scanDueRow_keep⟩
  | .eyeScanComplete at_ .. => ⟨at_, .event rfl scanDone_keep⟩
  | .loopbackEnd at_ .. => ⟨at_, .event rfl loopbackEnd_keep⟩
  | .laneEyeScan at_ .. => ⟨at_, .packet rfl eyeScanServe_keep⟩
  | .laneRetrain at_ .. => ⟨at_, .packet rfl retrainServe_keep⟩
  | .laneLoopback at_ .. => ⟨at_, .packet rfl loopbackServe_keep⟩
  | .streamAckDatagram at_ .. => ⟨at_, .event rfl ackDatagram_keep⟩
  | .goBackTimer at_ .. => ⟨at_, .paused rfl goBackTimer_keep⟩
  | .streamHeartbeat at_ .. => ⟨at_, .event rfl heartbeat_keep⟩
  | .groupMessageRepeat at_ .. => ⟨at_, .event rfl groupRepeat_keep⟩
  | .skaingLinkFrame at_ .. => ⟨at_, .event rfl linkFrame_keep⟩
  | .skaingPrbsCheckEnd at_ .. => ⟨at_, .event rfl prbsEnd_keep⟩
  | .skaingTimeFrame at_ .. => ⟨at_, .event rfl timeFrame_keep⟩
  | .skaingGroupAck at_ .. => ⟨at_, .event rfl groupAck_keep⟩
  | .skaingDataFrame at_ .. => ⟨at_, .event rfl dataFrame_keep⟩
  | .skaingCreditFrame at_ .. => ⟨at_, .event rfl creditFrame_keep⟩
  | .skaingLinkTimeout at_ .. => ⟨at_, .event rfl linkTimeout_keep⟩
  | .sessionOpen at_ .. => ⟨at_, .packet rfl openServe_keep⟩
  | .sessionClose at_ .. => ⟨at_, .packet rfl closeServe_keep⟩
  | .sessionPing at_ .. => ⟨at_, .packet rfl pingServe_keep⟩
  | .schedCancel at_ .. => ⟨at_, .packet rfl schedCancelServe_keep⟩
  | .sessionResend at_ .. => ⟨at_, .packet rfl resendServe_keep⟩
  | .pbRead at_ .. => ⟨at_, .packet rfl readServe_keep⟩
  | .pbStage at_ .. => ⟨at_, .packet rfl stageServe_keep⟩
  | .pbCommit at_ .. => ⟨at_, .packet rfl commitServe_keep⟩
  | .sessionKeepaliveExpiry at_ .. => ⟨at_, .paused rfl keepaliveExpiry_keep⟩
  | .pendingSessionDiscard at_ .. => ⟨at_, .paused rfl pendingDiscard_keep⟩
  | .scheduledActionDue at_ .. => ⟨at_, .of_keep rfl (ite_keep (.refl _) (dueSched_keep _ (.refl _)))⟩
  | .acqStatus at_ .. => ⟨at_, .packet rfl acqStatusServe_keep⟩
  | .acqRead at_ .. => ⟨at_, .packet rfl acqReadServe_keep⟩
  | .safeStatus at_ .. => ⟨at_, .packet rfl safeStatusServe_keep⟩
  | .safeLockOpen at_ .. => ⟨at_, .packet rfl lockOpenServe_keep⟩
  | .safeLockClose at_ .. => ⟨at_, .packet rfl lockCloseServe_keep⟩
  | .safeTripReset at_ .. => ⟨at_, .packet rfl tripResetServe_keep⟩
  | .safePulseNow at_ .. => ⟨at_, .packet rfl pulseNowServe_keep⟩
  | .credAdd at_ .. => ⟨at_, .packet rfl credAddServe_keep⟩
  | .credRevoke at_ .. => ⟨at_, .packet rfl credRevokeServe_keep⟩
  | .credList at_ .. => ⟨at_, .packet rfl credListServe_keep⟩
  | .journalRead at_ .. => ⟨at_, .packet rfl jReadServe_keep⟩
  | .journalMirror at_ .. => ⟨at_, .packet rfl jMirrorServe_keep⟩
  | .journalVerify at_ .. => ⟨at_, .packet rfl jVerifyServe_keep⟩
  | .journalVerifyDone at_ .. => ⟨at_, .event rfl jVerifyDone_keep⟩
  | .groupKeySet at_ .. => ⟨at_, .packet rfl groupKeyServe_keep⟩
  | .logRead at_ .. => ⟨at_, .packet rfl logReadServe_keep⟩
  | .faultList at_ .. => ⟨at_, .packet rfl faultListServe_keep⟩
  | .faultClear at_ .. => ⟨at_, .packet rfl faultClearServe_keep⟩
  | .logClear at_ .. => ⟨at_, .packet rfl logClearServe_keep⟩
  | .diagStitch at_ .. => ⟨at_, .packet rfl diagServe_keep⟩
  | .fwBegin at_ .. => ⟨at_, .packet rfl fwBeginServe_keep⟩
  | .fwEraseDone at_ .. => ⟨at_, .event rfl fwErased_keep⟩
  | .fwData at_ .. => ⟨at_, .packet rfl fwDataServe_keep⟩
  | .fwCommit at_ .. => ⟨at_, .packet rfl fwCommitServe_keep⟩
  | .fwTransferIdleTimeout at_ .. => ⟨at_, .event rfl fwIdle_keep⟩
  | .fwSwap at_ .. => ⟨at_, .packet rfl swapServe_keep⟩
  | .hubReset at_ .. => ⟨at_, .packet rfl hubResetServe_keep⟩
  | .quireDrain at_ .. => ⟨at_, .packet rfl drainServe_keep⟩
  | .quireReenter at_ .. => ⟨at_, .packet rfl reenterServe_keep⟩
  | .ucodeLoad at_ .. => ⟨at_, .packet rfl ucodeServe_keep⟩
  | .ucodeLoadDone at_ .. => ⟨at_, .event rfl ucodeDone_keep⟩
  | .standinSet at_ .. => ⟨at_, .packet rfl standinServe_keep⟩
  | .permanentStandinStart at_ .. => ⟨at_, .event rfl permStart_keep⟩
  | .drainEdge at_ .. => ⟨at_, .event rfl drainAt_keep⟩
  | .quireStop at_ .. => ⟨at_, .event rfl stopAt_keep⟩
  | .reentryModulatorStart at_ .. => ⟨at_, .event rfl reentryStart_keep⟩
  | .reentryReleaseEdge at_ .. => ⟨at_, .event rfl reentryRelease_keep⟩
  | .safetyEvaluation at_ .. => ⟨at_, .event rfl safetyEval_keep⟩
  | .rootSafetyEvaluation at_ .. => ⟨at_, .event rfl rootEval_keep⟩
  | .degradedTimerExpiry at_ .. => ⟨at_, .event rfl degradedExpiry_keep⟩
  | .pulseOverdue at_ .. => ⟨at_, .event rfl pulseOverdue_keep⟩
  | .tripReadback at_ .. => ⟨at_, .event rfl tripRead_keep⟩
  | .groupReleaseTimer at_ .. => ⟨at_, .event rfl groupRelease_keep⟩
  | .safeConfigCheck at_ .. => ⟨at_, .event rfl configSecond_keep⟩
  | .serviceAuthExpiry at_ .. => ⟨at_, .event rfl authExpiry_keep⟩
  | .coalesceWindowEnd at_ .. => ⟨at_, .event rfl coalesceEnd_keep⟩
  | .coalesceRepeatPeriod at_ .. => ⟨at_, .event rfl coalesceRepeat_keep⟩
  | .originatorEventSecond at_ .. => ⟨at_, .event rfl fun h => when_keep (fun _ => originSecond_keep (.refl _)) h⟩
  | .flapSecondEnd at_ .. => ⟨at_, .event rfl flapEnd_keep⟩
  | .laneLockRegained at_ .. => ⟨at_, .event rfl lockBack_keep⟩
  | .ptpMessageSend at_ .. => ⟨at_, .paused rfl ptpSend_keep⟩
  | .tripToggleEdge at_ .. => ⟨at_, .event rfl tripEdge_keep⟩
  | .retentionLapse at_ .. => ⟨at_, .event rfl retentionLapse_keep⟩
  | .unknownOpcodePacket at_ .. =>
    ⟨at_, .of_keep rfl (ite_keep (.refl _) (receive_keep (fun _ _ => unknownServe_keep (.refl _)) (.refl _)))⟩
  | .ethArpNdEcho at_ .. => ⟨at_, .event rfl echo_keep⟩
  | .skaingKeepaliveSend at_ .. => ⟨at_, .event rfl keepalive_keep⟩

theorem exec_keep {cmd : Instr} {s t : State} (h : exec cmd s = .next t) : Keep s t := by
  obtain ⟨_, hc⟩ := exec_completes s cmd
  obtain ⟨t', ht, k⟩ := hc.keep
  cases Host.Outcome.next.inj (h.symm.trans ht)
  exact k

/-- A step idles, or runs the front command on the state whose queue is the rest. -/
theorem step_cases {s t : State} (h : step s = .next t) :
    t = s ∨ ∃ cmd rest, s.pending = cmd :: rest ∧ exec cmd { s with pending := rest } = .next t := by
  unfold step at h
  split at h
  · exact .inl (Host.Outcome.next.inj h).symm
  next cmd rest hq => exact .inr ⟨cmd, rest, hq, h⟩

/-- Settles O6: an idle step changes nothing, and the front command keeps the part, the counters and the clock. -/
theorem stepRatchets : Obligations.StepRatchets := by
  unfold Obligations.StepRatchets
  intro s t h
  rcases step_cases h with rfl | ⟨cmd, rest, -, hrun⟩
  · exact ⟨rfl, le_rfl, le_rfl, le_rfl, le_rfl⟩
  · have k : Keep { s with pending := rest } t := exec_keep hrun
    exact ⟨k.part, k.sealN, k.lock, k.fuse, k.clock⟩

end Sys2Proof.Machine
end

section
/-! SUPPORT. The calibration commands and transfers from an external standard (07 R163, R173, R177; 14 R357). -/

namespace Sys2Proof.Machine

section
variable {s t a b c : State}

/-! ### CAL_ABORT (14 R357) -/

theorem abortOne_idle {k : Nat} (h : (chan s k).run = none) : abortOne s k = (s, 0) := by
  simp only [abortOne, h]

theorem abortOne_waits {k : Nat} {x : CalRun} (h : (chan s k).run = some x) (hwaits : x.state = 1) :
    abortOne s k = (abandonCal k 5 (sincNext s) s, 1) := by
  simp [abortOne, h, hwaits]

/-- An abort of one code is answered with what became of that code. -/
theorem abort_single {p : Packet} {v : Session} {r : Req} {z : State} {k : Nat} (ha : Accepted 0x0401 p tableRole abortOk v s)
    (hr : r = request 0x0401 p v s) (hz : z = takenState p v s) (hone : r.f 0 2 = 1) (hk : k = r.f 4 2) :
    receive 0x0401 p abortServe s
      = answer r stOk (le 2 1 ++ le 2 0 ++ (le 2 k ++ le 1 (abortOne z k).2 ++ le 1 0)) (abortOne z k).1 := by
  have hcodes : codesAt r 4 1 = [k] := by rw [hk]; rfl
  unfold abortServe
  rw [serve_accepted _ ha, ← hr, ← hz]
  simp only [hone, hcodes, List.foldl_cons, List.foldl_nil, List.nil_append, List.length_singleton]

/-! ### ENS_COMPARE_NOW (07 R163) -/

/-- A command for one warm quire waits for it, and the quire starts a quick comparison. -/
theorem compare_single {p : Packet} {v : Session} {r : Req} {z : State} {q : Nat}
    (ha : Accepted 0x0402 p tableRole (fun r s => decide (r.params.length = 4) && zeroAt 1 3 r && maskOk s (r.f 0 1)) v s)
    (hr : r = request 0x0402 p v s) (hz : z = takenState p v s) (hq : maskQuires z (r.f 0 1) = [q])
    (hserve : inService z q = true) (hwarm : (ensOf z q).warm = 2 ∨ (ensOf z q).warm = 3 ∨ (ensOf z q).warm = 4) :
    receive 0x0402 p compareServe s = startQuick q (queued r []
      { z with cal.comps := z.cal.comps ++ [{ req := r, todo := [q], notRun := [] }] }) := by
  unfold compareServe
  rw [serve_accepted _ ha, ← hr, ← hz]
  simp only [hq, List.any_cons, List.any_nil, hserve, Bool.not_true, Bool.or_self, Bool.false_eq_true, if_false,
    forAll_cons, forAll_nil]
  have hawake : ¬ ((ensOf z q).warm = 1 ∨ (ensOf z q).warm = 5 ∨ (ensOf z q).warm = 0) := by omega
  refine if_neg ?_
  rw [(queued_still (.refl _)).ensOf_eq]
  exact hawake

/-! ### CAL_EXT_STD (07 R177) -/

/-- A transfer from an external standard that begins. -/
def extBegun (r : Req) (z : State) : ExtStd :=
  { req := r, todo := maskQuires z (r.f 0 1), done := [], force := bit 0 (r.f 1 1), cert := r.f 4 4, value := ofF64 (r.f 8 8),
    uV := ofF64 (r.f 16 8), valueBits := r.f 8 8, uBits := r.f 16 8, olds := [], integ := r.f 2 2,
    since := extTurn z (maskQuires z (r.f 0 1)) }

section
variable {p : Packet} {v : Session} {r : Req} {z : State} (ha : Accepted 0x0403 p tableRole extOk v s)
  (hr : r = request 0x0403 p v s) (hz : z = takenState p v s)
include ha hr hz

theorem ext_begins (hopen : z.cal.sealOpen = true) (hfree : z.cal.ext = none)
    (hstable : ∀ q, q ∈ maskQuires z (r.f 0 1) → inService z q = true ∧ (ensOf z q).warm = 4) :
    receive 0x0403 p extServe s = queued r [] { z with cal.ext := some (extBegun r z) } := by
  have hall : ¬ ((maskQuires z (r.f 0 1)).any fun q => !(inService z q && decide ((ensOf z q).warm = 4))) = true := by
    simpa using hstable
  unfold extServe
  rw [serve_accepted _ ha, ← hr, ← hz]
  dsimp only
  rw [if_neg (not_not_intro hopen), if_neg hall, if_neg (by simp [hfree])]
  rfl

theorem ext_sealed (hclosed : z.cal.sealOpen = false) : receive 0x0403 p extServe s = refuse r stSealed z := by
  unfold extServe
  rw [serve_accepted _ ha, ← hr, ← hz]
  exact if_pos (by simp [hclosed])

end

/-! ### A quire's readings are complete (07 R177) -/

/-- As `EnsChans`, with flash. -/
structure EnsChansFlash (q : Nat) (s t : State) : Prop where
  still : Still { s with cal := t.cal, chans := t.chans, flash := t.flash } t
  others : ∀ x, x ≠ q → ensOf t x = ensOf s x

variable {q : Nat}

theorem EnsChansFlash.trans (h : EnsChansFlash q a b) (k : EnsChansFlash q b c) : EnsChansFlash q a c where
  still := Still.trans (b := { b with cal := c.cal, chans := c.chans, flash := c.flash })
    { h.still with cal := rfl, chans := rfl, flash := rfl, boot := h.still.boot } k.still
  others x hx := (k.others x hx).trans (h.others x hx)

theorem EnsChans.withFlash (h : EnsChans q s t) : EnsChansFlash q s t where
  still := { h.still with flash := rfl, boot := h.still.boot }
  others := h.others

theorem EnsFlash.withChans (h : EnsFlash q s t) : EnsChansFlash q s t where
  still := { h.still with chans := rfl, flash := h.still.flash, boot := h.still.boot }
  others := h.others

/-- A publication of a change of one quire's ensemble. -/
theorem publish_ens {cs : List Nat} {from_ : Nat} {step : Bool} {f : State → State} {e : Ensemble} (hf : f s = setEns q e s) :
    EnsChans q s (publish cs from_ step f s) ∧ ensOf (publish cs from_ step f s) q = e := by
  refine publish_ind (P := fun t => EnsChans q s t ∧ ensOf t q = e) fun chans => ?_
  rw [hf]
  exact ⟨⟨.refl _, fun x hx => ensOf_setEns_ne hx e s⟩, ensOf_setEns_self q e s⟩

/-- The planner's model is all of the ensemble that its change is about. -/
theorem planModel_spec : EnsOnly q s (planModel q s) ∧ ∃ m, ensOf (planModel q s) q = { ensOf s q with model := m } := by
  unfold planModel
  extract_lets e m
  split
  · exact ⟨(Still.refl s).ensOnly, e.model, rfl⟩
  · exact ⟨(jInternal_still (.refl s)).ensOnly.trans (setEns_ensOnly _), m, ensOf_setEns_self ..⟩

/-- The last quire's transfer ends the command, and what follows is its entry and its reply. -/
theorem extNext_last {x : ExtStd} (h : x.todo = []) : Still { s with cal.ext := none } (extNext x s) := by
  unfold extNext
  rw [if_pos (by rw [h]; rfl)]
  exact answerOr_still (ite_still (jDone_still (.refl _)) (.refl _))

/-- The quire's ensemble after an accepted transfer: its value and its record, the planner's warnings cleared. -/
def transferredEns (q : Nat) (x : ExtStd) (k : Rat) (n : Nat) (s : State) : Ensemble :=
  { ensOf s q with
    kExt := k
    transfers := { seconds := fullSeconds s, kExt := k, uRel := x.uV / rabs x.value * 1000000, uTr := (n : Rat) / 1000 }
      :: (ensOf s q).transfers
    warned := []
    due := []
    qs := (List.range 5).foldl (fun l r => closeQ (.overdue r) (sincNext s) l) (ensOf s q).qs }

section
variable {x : ExtStd} {n : Nat} (hx : s.cal.ext = some x) (htodo : x.todo = [q])
  (hover : x.since + (10 + 2 * x.integ) * secU ≤ s.now)
include hx htodo hover

theorem extDone_zero (hzero : extVolts s q x = 0) : extDone q n s = extNext
    { x with todo := [], olds := x.olds ++ [ppb (ensOf s q).kExt], done := x.done ++ [(q, 1, ppb (ensOf s q).kExt, n)] } s := by
  unfold extDone
  simp only [hx]
  rw [if_neg (by simp [htodo, hover]), if_pos (.inl hzero), htodo]
  rfl

/-- An accepted reading is published and recorded, the planner looks again, and the command ends. -/
theorem extDone_accepted {k : Rat} (hvolts : extVolts s q x ≠ 0) (hk : k = x.value / extVolts s q x)
    (hlimit : rabs (k - 1) * 1000000 ≤ (if x.force then 2000 else 100)) :
    EnsChansFlash q s (extDone q n s) ∧ (extDone q n s).cal.ext = none
      ∧ ∃ m, ensOf (extDone q n s) q = { transferredEns q x k n s with model := m } := by
  have hnear : ¬ (extVolts s q x = 0 ∨ (if x.force then 2000 else 100) < rabs (k - 1) * 1000000) :=
    not_or.2 ⟨hvolts, not_lt.2 hlimit⟩
  unfold extDone
  simp only [hx]
  rw [if_neg (by simp [htodo, hover]), ← hk, if_neg hnear]
  generalize hp : publish _ _ _ _ s = p
  obtain ⟨hpub, hens⟩ : EnsChans q s p ∧ ensOf p q = transferredEns q x k n s := hp ▸ publish_ens rfl
  generalize hw : writeRing q 2 _ p = w
  have hring : EnsFlash q p w := hw ▸ writeRing_ensFlash ..
  have hringEns : ensOf w q = ensOf p q := hw ▸ writeRing_ensOf ..
  obtain ⟨hmodel, m, hmodelEns⟩ := planModel_spec (q := q) (s := w)
  rw [hringEns, hens] at hmodelEns
  generalize hy : ExtStd.mk .. = y
  have hlast : Still { planModel q w with cal.ext := none } (extNext y (planModel q w)) :=
    extNext_last (by rw [← hy, htodo]; rfl)
  refine ⟨hpub.withFlash.trans (hring.withChans.trans (hmodel.ensFlash.withChans.trans ?_)), by rw [hlast.cal], m,
    (hlast.ensOf_eq q).trans hmodelEns⟩
  exact ⟨{ hlast with cal := rfl, chans := rfl, flash := rfl, boot := hlast.boot }, fun k _ => hlast.ensOf_eq k⟩

end

end

/-- Settles O32: each command is its operation at the command's instant. -/
theorem calibrationCommands : Obligations.CalibrationCommands := by
  unfold Obligations.CalibrationCommands
  refine ⟨?channels, ?idle, ?waits, ?compare, ?begins, ?isSealed, ?zero, ?accepted⟩
  case channels =>
    rintro at_ p v r z l s u rfl ha rfl rfl rfl hserve
    refine congrArg Host.Outcome.next ((serve_accepted _ ha).trans ?_)
    exact if_neg (by simpa using hserve)
  case idle =>
    rintro at_ p v r z c s u rfl ha hr hz hone hc hidle
    exact congrArg Host.Outcome.next ((abort_single ha hr hz hone hc).trans (by rw [abortOne_idle hidle]))
  case waits =>
    rintro at_ p v r z c x s u rfl ha hr hz hone hc hrun hwaits
    exact congrArg Host.Outcome.next ((abort_single ha hr hz hone hc).trans (by rw [abortOne_waits hrun hwaits]))
  case compare =>
    rintro at_ p v r z q s u rfl ha hr hz hq hserve hwarm
    exact congrArg Host.Outcome.next (compare_single ha hr hz hq hserve hwarm)
  case begins =>
    rintro at_ p v r z s u rfl ha hr hz hopen hfree hstable
    exact congrArg Host.Outcome.next (ext_begins ha hr hz hopen hfree hstable)
  case isSealed =>
    rintro at_ p v r z s u rfl ha hr hz hclosed
    exact congrArg Host.Outcome.next (ext_sealed ha hr hz hclosed)
  case zero =>
    rintro at_ q n x s u rfl hx htodo hover hzero
    exact congrArg Host.Outcome.next (extDone_zero hx htodo hover hzero)
  case accepted =>
    rintro at_ q n x k s u rfl hx htodo hover hvolts hk hlimit
    obtain ⟨h, hext, m, hens⟩ := extDone_accepted (n := n) hx htodo hover hvolts hk hlimit
    exact ⟨_, rfl, by rw [hens]; rfl, hext, by rw [hens]; rfl, by rw [hens]; rfl, by rw [hens]; rfl, h.others, h.still⟩

end Sys2Proof.Machine
end

section
/-! SUPPORT. The calibration seal, ENS_MEMBER_SET and RING_EXPORT (07 R166, R179 to R181; 14 R357). -/

namespace Sys2Proof.Machine

/-! ### The seal (07 R179, R180) -/

/-- The seal counts up and opens, and the stored set is no longer whole. -/
def sealOpened (s : State) : State :=
  { s with
    flash.sealCount := s.flash.sealCount + 1
    flash.cal := s.flash.cal.map fun c => { c with sealOk := false }
    flash.last := 4
    cal.sealOpen := true }

/-- The set as it stands is stored with its digest, and the seal closes. -/
def sealClosed (s : State) (chans : Tab Chan) : State :=
  { s with
    flash.cal := some (calSet s)
    flash.last := 4
    cal.sealOpen := false
    cal.digest := (calSet s).digest
    cal.closeSeconds := secondsNow s
    cal.invalid := false
    chans := chans }

theorem closeSeal_spec (s : State) : ∃ chans, Still (sealClosed s chans) (closeSeal s) := by
  unfold closeSeal
  exact publish_ind (P := fun t => ∃ chans, Still (sealClosed s chans) (clearCause 0x0706 0xFFFF t)) fun chans =>
    ⟨chans, clearCause_still (.refl _)⟩

section
variable {p : Packet} {v : Session} {r : Req} {s z : State}

theorem sealOpen_opens (ha : Accepted 0x0404 p tableRole (exactly 0) v s) (hr : r = request 0x0404 p v s)
    (hz : z = takenState p v s) (hclosed : z.cal.sealOpen = false) :
    Still (sealOpened z) (receive 0x0404 p sealOpenServe s) := by
  unfold sealOpenServe
  rw [serve_accepted _ ha, ← hr, ← hz]
  dsimp only
  rw [if_neg (by simp [hclosed])]
  exact answer_still (jCommand_still (.refl _))

theorem sealClose_closes (ha : Accepted 0x0405 p tableRole (exactly 0) v s) (hr : r = request 0x0405 p v s)
    (hz : z = takenState p v s) (hopen : z.cal.sealOpen = true) (hfree : z.cal.ext = none)
    (hsound : z.flash.bad.contains 5 = false) :
    ∃ chans, Still (sealClosed z chans) (receive 0x0405 p sealCloseServe s) := by
  obtain ⟨chans, hstill⟩ := closeSeal_spec z
  unfold sealCloseServe
  rw [serve_accepted _ ha, ← hr, ← hz]
  dsimp only
  rw [if_neg (not_not_intro hopen), if_neg (by simp [hfree]), if_neg (by rw [hsound]; decide)]
  exact ⟨chans, answer_still (jCommand_still hstill)⟩

/-! ### ENS_MEMBER_SET (07 R166; 14 R357) -/

theorem memberSet_sealed (ha : Accepted 0x0406 p tableRole memberOk v s) (hr : r = request 0x0406 p v s)
    (hz : z = takenState p v s) (hclosed : z.cal.sealOpen = false) :
    receive 0x0406 p memberServe s = refuse r stSealed z := by
  unfold memberServe
  rw [serve_accepted _ ha, ← hr, ← hz]
  exact if_pos (by simp [hclosed])

/-- A late request runs with the parameters that it brought. -/
theorem request_params (op : Nat) (p : Packet) (v : Session) (s : State) :
    (request op p v s).params = (mkReq op p v s).params := by
  unfold request
  dsimp only
  split <;> rfl

/-- A member that a command names is one of the eight. -/
theorem memberSet_member_lt (ha : Accepted 0x0406 p tableRole memberOk v s) : (request 0x0406 p v s).f 1 1 < 8 := by
  obtain ⟨-, -, -, -, -, -, -, row, -, -, -, -, hok, -⟩ := ha
  have hf : (request 0x0406 p v s).f 1 1 = (mkReq 0x0406 p v s).f 1 1 := by unfold Req.f; rw [request_params]
  rw [hf]
  simp only [memberOk, Bool.and_eq_true, decide_eq_true_eq] at hok
  obtain ⟨-, ⟨-, -, hi, -⟩, -⟩ := hok
  exact hi

section
variable {q : Nat} {m t : State}

/-- A member whose record is replaced takes its state, and the quire's warming state stays. -/
theorem memberState_setZener {i st : Nat} (w : Member) (residual : Rat) (internal : Bool) (hi : i < 8)
    (hm : m = memberState q i st residual internal (setEns q (setZener i w (ensOf s q)) s)) :
    EnsFlash q s m ∧ (zener (ensOf m q) i).state = st ∧ (ensOf m q).warm = (ensOf s q).warm := by
  subst hm
  refine ⟨(setEns_ensOnly _).ensFlash.trans (memberState_ensFlash ..), ?_, ?_⟩
  · rw [memberState_state _ _ _ _ hi, if_pos rfl]
  · rw [(memberState_statesOnly ..).eq, ensOf_setEns_self]
    rfl

/-- After reports a quick comparison of a stable serving quire starts. -/
theorem startQuick_reported (h : Still s t) (hwarm : (ensOf s q).warm = 4) (hserve : inService s q = true) :
    EnsOnly q s (startQuick q t) ∧
      ensOf (startQuick q t) q = { latchPolicy t q (ensOf s q) with comparing := 1, compStart := s.now } := by
  have hw : (ensOf t q).warm = 4 := by rw [h.ensOf_eq, hwarm]
  rw [startQuick_starts (by rw [hw]; decide) (by rw [hw]; decide) (by rw [hw]; decide) (by rw [h.inService_eq, hserve]),
    ensOf_setEns_self, h.ensOf_eq, h.now]
  exact ⟨h.ensOnly.trans (setEns_ensOnly _), rfl⟩

end

/-- A good member of a stable serving quire is retired, and a quick comparison starts. -/
theorem memberSet_retires {q i : Nat} {t : State} (ha : Accepted 0x0406 p tableRole memberOk v s)
    (hr : r = request 0x0406 p v s) (hz : z = takenState p v s) (hq : q = r.f 0 1) (hi : i = r.f 1 1)
    (hopen : z.cal.sealOpen = true) (hretire : r.f 2 1 = 3) (hgood : (zener (ensOf z q) i).state = 0)
    (hserve : inService z q = true) (hwarm : (ensOf z q).warm = 4) (ht : t = receive 0x0406 p memberServe s) :
    EnsFlash q z t ∧ (zener (ensOf t q) i).state = 3 ∧ (ensOf t q).comparing = 1 ∧ (ensOf t q).compStart = z.now := by
  have hlt : i < 8 := by rw [hi, hr]; exact memberSet_member_lt ha
  have hallowed : ¬ ((3 = 0 ∧ (zener (ensOf z q) i).state ≠ 3) ∨ (3 = 3 ∧ ¬ ((zener (ensOf z q) i).state = 0
      ∨ (zener (ensOf z q) i).state = 1 ∨ (zener (ensOf z q) i).state = 2))) := by omega
  unfold memberServe at ht
  rw [serve_accepted _ ha, ← hr, ← hz] at ht
  dsimp only at ht
  rw [← hq, ← hi, hretire, if_neg (not_not_intro hopen), if_neg hallowed] at ht
  generalize hm : memberState q i 3 _ _ _ = m at ht
  obtain ⟨hside, hstate, hmWarm⟩ := memberState_setZener _ _ _ hlt hm.symm
  obtain ⟨hquick, hens⟩ := startQuick_reported (q := q) (answer_still (jDone_still (.refl m))) (hmWarm.trans hwarm)
    (by rw [hside.inService_eq, hserve])
  rw [ht, hens]
  exact ⟨hside.trans hquick.ensFlash, hstate, rfl, hside.still.now⟩

/-! ### RING_EXPORT (07 R181) -/

/-- The records that RING_EXPORT chooses: of the quires named, those of the seconds named, and undated ones from 0 on. -/
def exportChosen (r : Req) (s : State) : List RingRec :=
  (maskQuires s (r.f 0 1)).flatMap fun q => s.flash.ring.filter fun x => decide (x.quire = q)
    && (decide (r.f 8 8 ≤ x.seconds ∧ x.seconds ≤ r.f 16 8) || (decide (x.seconds = 0) && decide (r.f 8 8 = 0)))

theorem exportChosen_empty (h : s.flash.ring = []) : exportChosen r s = [] := by
  unfold exportChosen
  exact List.flatMap_eq_nil_iff.2 fun _ _ => by rw [h, List.filter_nil]

theorem exportChosen_single {q : Nat} {x : RingRec} (hq : maskQuires s (r.f 0 1) = [q]) (hring : s.flash.ring = [x])
    (hx : x.quire = q) (hfrom : r.f 8 8 ≤ x.seconds) (hto : x.seconds ≤ r.f 16 8) : exportChosen r s = [x] := by
  simp [exportChosen, hq, hring, hx, hfrom, hto]

/-- The good ones leave, and the reply counts them and the bad ones. -/
theorem export_answers (ha : Accepted 0x0407 p tableRole (fun r s => decide (r.params.length = 24) && zeroAt 1 7 r
      && maskOk s (r.f 0 1) && decide (r.f 8 8 ≤ r.f 16 8)) v s) (hr : r = request 0x0407 p v s) (hz : z = takenState p v s)
    {l good : List RingRec} (hl : exportChosen r z = l) (hgood : l.filter (fun x => !x.bad) = good) :
    receive 0x0407 p exportServe s = answer r stOk (le 4 good.length ++ le 4 (l.length - good.length))
      (exportFolios (good.length + 1) good (queued r [] z)) := by
  unfold exportServe
  rw [serve_accepted _ ha, ← hr, ← hz, ← hgood, ← hl]
  rfl

/-- One record leaves in a folio of its own. -/
theorem exportFolios_single (x : RingRec) (s : State) : exportFolios 2 [x] s = put3 0x22 1 x.bytes s := by
  simp [exportFolios]

end

/-- Settles O33: each command is its operation at the command's instant. -/
theorem sealAndExport : Obligations.SealAndExport := by
  unfold Obligations.SealAndExport
  refine ⟨?opens, ?closes, ?retires, ?isSealed, ?empty, ?single⟩
  case opens =>
    rintro at_ p v r z s u rfl ha hr hz hclosed
    have h := sealOpen_opens ha hr hz hclosed
    exact ⟨_, rfl, h.cal, by rw [h.flash_eq]; rfl, by rw [h.flash_eq]; rfl,
      { h with cal := rfl, flash := rfl, boot := h.boot }⟩
  case closes =>
    rintro at_ p v r z s u rfl ha hr hz hopen hfree hsound
    obtain ⟨chans, h⟩ := sealClose_closes ha hr hz hopen hfree hsound
    refine ⟨_, rfl, ?_, ?_, ?_, ?_, ?_, ?_, { h with cal := rfl, flash := rfl, chans := rfl, boot := h.boot }⟩
    · rw [h.cal]; rfl
    · rw [h.cal]; rfl
    · rw [h.flash_eq]; rfl
    · rw [h.cal]; rfl
    · rw [h.cal]; rfl
    · rw [h.flash_eq]; rfl
  case retires =>
    rintro at_ p v r z q i s u rfl ha hr hz hq hi hopen hretire hgood hserve hwarm
    obtain ⟨h, hstate, hquick, hstart⟩ := memberSet_retires ha hr hz hq hi hopen hretire hgood hserve hwarm rfl
    exact ⟨_, rfl, hstate, hquick, hstart, h.others, h.still⟩
  case isSealed =>
    rintro at_ p v r z s u rfl ha hr hz hclosed
    exact congrArg Host.Outcome.next (memberSet_sealed ha hr hz hclosed)
  case empty =>
    rintro at_ p v r z s u rfl ha hr hz hempty
    exact congrArg Host.Outcome.next (export_answers ha hr hz (exportChosen_empty hempty) rfl)
  case single =>
    rintro at_ p v r z q x s u rfl ha hr hz hq hring hx hfrom hto hgood
    have hleaves : [x].filter (fun y => !y.bad) = [x] := by simp [hgood]
    exact congrArg Host.Outcome.next
      ((export_answers ha hr hz (exportChosen_single hq hring hx hfrom hto) hleaves).trans
        (congrArg (answer r stOk _) (exportFolios_single x _)))

end Sys2Proof.Machine
end

section
/-! SUPPORT. The servo (08 R191, R193, R195, R200 to R203): what each of its operations makes of device time, and that nothing
but device time changes beside reports. -/

namespace Sys2Proof.Machine

/-- Beside reports nothing but device time and its servo differs. -/
def TimeSide (s t : State) : Prop := Still { s with time := t.time } t

section
variable {s0 s t : State} {r : Int} {st : Nat}

theorem TimeSide.refl (s : State) : TimeSide s s := Still.refl s

theorem TimeSide.still (h : TimeSide s t) : Still { s with time := t.time } t := h

theorem TimeSide.trans {a b c : State} (h : TimeSide a b) (k : TimeSide b c) : TimeSide a c := by
  have hb : Still { a with time := c.time } { b with time := c.time } :=
    { h.still with time := rfl, flash := h.still.flash, boot := h.still.boot }
  exact hb.trans k.still

theorem Still.timeSide (h : Still s t) : TimeSide s t := by
  have e : { s with time := t.time } = s := by rw [h.time]
  unfold TimeSide
  rwa [e]

/-- Only the servo's registers are written. -/
theorem TimeSide.put (h : TimeSide s0 s) (v : TimeS) : TimeSide s0 { s with time := v } := h.trans (Still.refl _)

/-! ### The anchor and the rate (08 R193, R200) -/

/-- A span of the holdover mean ends now. -/
theorem closeSpan_spec (s : State) :
    ∃ l, closeSpan s = { s with time := { s.time with spans := l, spanFrom := s.now } } := by
  unfold closeSpan
  split
  · exact ⟨_, rfl⟩
  · exact ⟨s.time.spans, rfl⟩

/-- The servo's registers after a new rate: the anchor is the present. -/
def ratedTime (r : Int) (s : State) (spans : List RateSpan) : TimeS :=
  { s.time with
    spans := spans, spanFrom := s.now, anchors := (s.time.ancRaw, s.time.ancDev, s.time.rate) :: s.time.anchors
    ancDev := devNow s, ancRaw := rawNow s, rate := r }

theorem setRate_spec (r : Int) (s : State) : ∃ l, setRate r s = { s with time := ratedTime r s l } := by
  obtain ⟨l, hl⟩ := closeSpan_spec s
  unfold setRate
  rw [hl]
  exact ⟨l, rfl⟩

/-- What the servo reads under a new rate is what it read before. -/
theorem setRate_keeps {α : Type} (f : TimeS → α) (hf : ∀ l, f (ratedTime r s l) = f s.time) :
    f (setRate r s).time = f s.time := by
  obtain ⟨l, h⟩ := setRate_spec r s
  rw [h]
  exact hf l

@[simp] theorem setRate_state : (setRate r s).time.state = s.time.state := setRate_keeps (·.state) fun _ => rfl
@[simp] theorem setRate_source : (setRate r s).time.source = s.time.source := setRate_keeps (·.source) fun _ => rfl
@[simp] theorem setRate_sources : (setRate r s).time.sources = s.time.sources := setRate_keeps (·.sources) fun _ => rfl
@[simp] theorem setRate_offset : (setRate r s).time.offset = s.time.offset := setRate_keeps (·.offset) fun _ => rfl
@[simp] theorem setRate_refusedSince : (setRate r s).time.refusedSince = s.time.refusedSince :=
  setRate_keeps (·.refusedSince) fun _ => rfl

@[simp] theorem setRate_rate : (setRate r s).time.rate = r := by
  obtain ⟨l, h⟩ := setRate_spec r s
  rw [h]
  rfl

theorem setRate_timeSide (h : TimeSide s0 s) : TimeSide s0 (setRate r s) := by
  obtain ⟨l, e⟩ := setRate_spec r s
  rw [e]
  exact h.put _

/-! ### States of the servo (08 R195, R203) -/

/-- The states through which HOLD_EST_NS runs on: HOLDOVER, HOLDOVER_EXPIRED and SOURCE_REJECTED. -/
def estimates (st : Nat) : Bool := decide (st = 2 ∨ st = 3 ∨ st = 4)

/-- The servo's registers after it enters another state. -/
def enteredTime (st : Nat) (s : State) (spans : List RateSpan) : TimeS :=
  { s.time with
    spans := spans, spanFrom := s.now, state := st, since := s.now
    refLostAcc := if estimates s.time.state && estimates st then s.time.refLostAcc else 0
    estSince := if estimates s.time.state && estimates st then s.time.estSince else s.now
    unsetReason := if st = 0 then s.time.unsetReason else 0 }

theorem enterServo_spec (h : s.time.state ≠ st) :
    ∃ l, Still { s with time := enteredTime st s l } (enterServo st s) := by
  obtain ⟨l, hl⟩ := closeSpan_spec s
  have hon : decide ((s.time.state = 2 ∨ s.time.state = 3 ∨ s.time.state = 4) ∧ (st = 2 ∨ st = 3 ∨ st = 4))
      = (estimates s.time.state && estimates st) := Bool.decide_and ..
  have faults {t : State} (ht : Still { s with time := enteredTime st s l } t) : Still { s with time := enteredTime st s l }
      (if st = 2 ∨ st = 3 then raiseOnce (evL 0x0803 0xFFFF) t else clearCause 0x0803 0xFFFF t) :=
    ite_still (raiseOnce_still ht) (clearCause_still ht)
  have told := faults (raise_still (e := ev 0x0810 st) (.refl _))
  refine ⟨l, ?_⟩
  unfold enterServo
  rw [if_neg h, hl]
  dsimp only
  rw [hon]
  exact ite_still (clearCause_still told) told

theorem enterServo_timeSide (h : TimeSide s0 s) : TimeSide s0 (enterServo st s) := by
  by_cases hst : s.time.state = st
  · rwa [enterServo, if_pos hst]
  · obtain ⟨l, hl⟩ := enterServo_spec hst
    exact (h.put _).trans hl.timeSide

/-- What the servo reads in its new state is what it read before. -/
theorem enterServo_keeps {α : Type} (f : TimeS → α) (hf : ∀ l, f (enteredTime st s l) = f s.time) :
    f (enterServo st s).time = f s.time := by
  by_cases hst : s.time.state = st
  · rw [enterServo, if_pos hst]
  · obtain ⟨l, h⟩ := enterServo_spec hst
    rw [h.time]
    exact hf l

@[simp] theorem enterServo_source : (enterServo st s).time.source = s.time.source :=
  enterServo_keeps (·.source) fun _ => rfl
@[simp] theorem enterServo_sources : (enterServo st s).time.sources = s.time.sources :=
  enterServo_keeps (·.sources) fun _ => rfl
@[simp] theorem enterServo_rate : (enterServo st s).time.rate = s.time.rate := enterServo_keeps (·.rate) fun _ => rfl

@[simp] theorem enterServo_state : (enterServo st s).time.state = st := by
  by_cases hst : s.time.state = st
  · rwa [enterServo, if_pos hst]
  · obtain ⟨l, h⟩ := enterServo_spec hst
    rw [h.time]
    rfl

/-- The estimate runs on from HOLDOVER to HOLDOVER_EXPIRED and SOURCE_REJECTED. -/
theorem enterServo_estimate (hfrom : estimates s.time.state = true) (hto : estimates st = true) :
    (enterServo st s).time.refLostAcc = s.time.refLostAcc ∧ (enterServo st s).time.estSince = s.time.estSince := by
  have hon : (estimates s.time.state && estimates st) = true := by rw [hfrom, hto]; rfl
  exact ⟨enterServo_keeps (·.refLostAcc) fun _ => if_pos hon, enterServo_keeps (·.estSince) fun _ => if_pos hon⟩

/-! ### The loss of a source (08 R202, R203) -/

theorem noSource_timeSide (h : TimeSide s0 s) : TimeSide s0 (noSource s) := by
  unfold noSource
  split
  · exact h.put _
  · split
    · exact enterServo_timeSide (h.put _)
    · split
      · exact h
      · exact enterServo_timeSide (setRate_timeSide (h.put _))

theorem follow_timeSide {x : Nat} (h : TimeSide s0 s) : TimeSide s0 (follow x s) := by
  unfold follow
  dsimp only
  split
  · exact enterServo_timeSide ((h.trans (raiseOrig_still (.refl s)).timeSide).put _)
  · exact enterServo_timeSide (h.put _)

theorem unlessPresent_spec (s : State) :
    ∃ k, unlessPresent s = { s with time := { s.time with refusedSince := k } } := by
  unfold unlessPresent
  split
  · exact ⟨s.time.refusedSince, rfl⟩
  · exact ⟨none, rfl⟩

/-- A source as its loss leaves it. -/
def lostSource (x : Nat) (s : State) : TimeSource := { srcOf s x with present := false, within_ := 0, meas := [] }

/-- A source goes; refusals end with the last one. -/
theorem lost_spec (x : Nat) (s : State) : ∃ k, unlessPresent (setSrc x (lostSource x s) s)
    = { s with time := { s.time with sources := s.time.sources.put x (lostSource x s), refusedSince := k } } :=
  unlessPresent_spec (setSrc x (lostSource x s) s)

theorem loseSource_timeSide {x : Nat} (h : TimeSide s0 s) : TimeSide s0 (loseSource x s) := by
  obtain ⟨k, hk⟩ := lost_spec x s
  have hlost : TimeSide s0 (unlessPresent (setSrc x (lostSource x s) s)) := hk ▸ h.put _
  unfold loseSource
  unfold lostSource at hlost
  dsimp only
  split
  · split
    · exact hlost.put _
    · exact hlost
  · split
    · exact hlost
    · split
      · exact follow_timeSide hlost
      · split
        · exact hlost.put _
        · exact noSource_timeSide hlost

/-- The source followed in LOCKED is lost and no other is accepted: the servo is without a source. -/
theorem loseSource_last {x : Nat} (hstate : s.time.state = 1) (hsource : s.time.source = x)
    (hnone : firstAccepted (setSrc x (lostSource x s) s) = none) :
    loseSource x s = noSource (unlessPresent (setSrc x (lostSource x s) s)) := by
  obtain ⟨k, hk⟩ := lost_spec x s
  have hfirst : firstAccepted (unlessPresent (setSrc x (lostSource x s) s)) = none := by rw [hk]; exact hnone
  unfold lostSource at hk hfirst ⊢
  unfold loseSource
  dsimp only
  rw [hfirst, hk]
  simp [hstate, hsource]

/-- LOCKED without a source: HOLDOVER, or FREE where none is configured. -/
theorem noSource_locked (hstate : s.time.state = 1) :
    (noSource s).time.source = 0 ∧ (noSource s).time.sources = s.time.sources
      ∧ (noSource s).time.state = if (srcOrder s).isEmpty then 5 else 2 := by
  unfold noSource
  rw [if_neg (by omega)]
  split
  · simp
  · rw [if_neg (by omega)]
    simp

theorem srcOf_setSrc_self (x : Nat) (v : TimeSource) (s : State) : srcOf (setSrc x v s) x = v :=
  (Tab.get_put ..).trans (if_pos rfl)

/-- Device time after the loss of the last source in LOCKED. -/
theorem loseSource_locked {x : Nat} (hstate : s.time.state = 1) (hsource : s.time.source = x)
    (hnone : firstAccepted (setSrc x (lostSource x s) s) = none) :
    srcOf (loseSource x s) x = lostSource x s ∧ (loseSource x s).time.source = 0
      ∧ (loseSource x s).time.state = if (srcOrder s).isEmpty then 5 else 2 := by
  obtain ⟨k, hk⟩ := lost_spec x s
  rw [loseSource_last hstate hsource hnone]
  obtain ⟨hs, hsources, hst⟩ := noSource_locked (s := unlessPresent (setSrc x (lostSource x s) s)) (by rw [hk]; exact hstate)
  refine ⟨?_, hs, by rw [hst, hk]; rfl⟩
  unfold srcOf
  rw [hsources, hk]
  exact srcOf_setSrc_self x _ s

/-! ### REF_IN (08 R191) -/

theorem refLost_runs (hraw : s.time.rawStart.isSome = true) (hlost : s.time.refLost = false) :
    refLost s = raise (evL 0x0801 0xFFFF) { closeSpan s with time.refLost := true, time.refLostAt := s.now } := by
  unfold refLost
  exact if_neg (by rw [Option.isNone_eq_false_iff.2 hraw, hlost]; decide)

theorem refBack_runs (hlost : s.time.refLost = true) : refBack s = clearCause 0x0801 0xFFFF
    { s with time.refLost := false, time.refLostAcc := refLostTime s, time.spanFrom := s.now } :=
  if_neg (not_not_intro hlost)

/-! ### Measurements (08 R200, R201) -/

/-- The followed source with a measurement of offset `e` within JUMP_NS. -/
def nearSource (x : Nat) (e : Int) (s : State) : TimeSource :=
  { srcOf s x with
    meas := ((s.now, e) :: (srcOf s x).meas).take 64, within_ := (srcOf s x).within_ + 1, present := true
    lastAccepted := s.now }

/-- The followed source with a measurement beyond it. -/
def farSource (x : Nat) (e : Int) (s : State) : TimeSource :=
  { srcOf s x with meas := ((s.now, e) :: (srcOf s x).meas).take 64, within_ := 0, present := true }

section
variable {x : Nat} {e : Int} (hlisted : (srcOrder s).contains x = true) (hruns : s.boot.restart = none)
  (hstate : s.time.state = 1) (hsource : s.time.source = x)
include hlisted hruns hstate hsource

/-- Within JUMP_NS: the measurement is noted and enters the loop. -/
theorem measure_near (hnear : e.natAbs ≤ jumpLimit s) :
    measure x e s = servoStep x ((e : Rat) / 65536) (((s.now - (srcOf s x).lastAccepted : Nat) : Rat) / (secU : Rat))
      { setSrc x (nearSource x e s) s with time.offset := e, time.refusedSince := none } := by
  unfold measure
  dsimp only
  rw [if_neg (by rw [hlisted, hruns]; decide)]
  simp [setSrc, nearSource, hstate, hsource, hnear]

/-- Beyond it for the first time: the refusal begins, under the holdover mean. -/
theorem measure_refused (hfar : jumpLimit s < e.natAbs) (hfirst : s.time.refusedSince = none) :
    ∃ r, measure x e s
      = setRate r { setSrc x (farSource x e s) s with time.offset := e, time.refusedSince := some s.now } := by
  have hnot : ¬ e.natAbs ≤ jumpLimit s := by omega
  unfold measure
  dsimp only
  rw [if_neg (by rw [hlisted, hruns]; decide)]
  simp only [setSrc, farSource, hstate, hsource, hnot, hfirst]
  exact ⟨_, rfl⟩

end

/-- A refusal that lasts, with no source accepted, ends in SOURCE_REJECTED (08 R201). -/
theorem jumpPersist_rejected {k : Nat} (hsince : s.time.refusedSince = some k) (hset : s.time.state ≠ 0)
    (hnot : s.time.state ≠ 4) (hdue : k + cf s 0x0601 0 8 31 16 * msU ≤ s.now) (hnone : firstAccepted s = none) :
    ∃ x, Still (enterServo 4 (setRate (holdoverMean s) { s with time.source := x })) (jumpPersist s) := by
  unfold jumpPersist
  simp only [hsince, hnone]
  rw [if_neg (by omega)]
  exact ⟨_, raiseOrigWith_still (addCause_still (.refl _))⟩

/-- Silence beyond four intervals is the loss of the source (08 R202). -/
theorem sourceLost_silent {x : Nat} (hmaster : announceOut s x = false) (hpresent : (srcOf s x).present = true)
    (hsilent : silent s x = true) : sourceLost x s = loseSource x s := by
  simp [sourceLost, hmaster, hpresent, hsilent]

end

/-- Settles O14: each row is its operation of the servo at the command's instant. -/
theorem timebaseAndServo : Obligations.TimebaseAndServo := by
  unfold Obligations.TimebaseAndServo
  refine ⟨?refLost, ?refBack, ?anchor, ?near, ?refused, ?rejected, ?lost, ?expired⟩
  case refLost =>
    rintro at_ s u rfl hraw hlost
    exact congrArg Host.Outcome.next (refLost_runs hraw hlost)
  case refBack =>
    rintro at_ s u rfl hlost
    exact congrArg Host.Outcome.next (refBack_runs hlost)
  case anchor =>
    rintro at_ s u rfl
    rfl
  case near =>
    rintro at_ x e m s u rfl hlisted hruns hstate hsource hnear rfl
    exact congrArg Host.Outcome.next
      ((unlessPaused_runs hruns).trans (measure_near hlisted hruns hstate hsource hnear))
  case refused =>
    rintro at_ x e s u rfl hlisted hruns hstate hsource hfar hfirst
    obtain ⟨r, hmeasure⟩ := measure_refused hlisted hruns hstate hsource hfar hfirst
    have hself : srcOf (measure x e (s.tick at_)) x = farSource x e (s.tick at_) := by
      rw [hmeasure, srcOf, setRate_sources]
      exact srcOf_setSrc_self ..
    refine ⟨_, congrArg Host.Outcome.next (unlessPaused_runs hruns), ?_, ?_, ?_, ?_, ?_, ?_, ?_⟩
    · rw [hmeasure, setRate_refusedSince]
    · rw [hmeasure, setRate_offset]
    · rw [hself, farSource]
    · rw [hself, farSource]
    · rw [hmeasure, setRate_state]; exact hstate
    · rw [hmeasure, setRate_source]; exact hsource
    · rw [hmeasure]; exact setRate_timeSide ((TimeSide.refl _).put _)
  case rejected =>
    rintro at_ k s u rfl hruns hsince hset hnot hdue hnone
    obtain ⟨x, hstill⟩ := jumpPersist_rejected hsince hset hnot hdue hnone
    refine ⟨_, congrArg Host.Outcome.next (unlessPaused_runs hruns), ?_, ?_, ?_⟩
    · rw [hstill.time, enterServo_state]
    · rw [hstill.time, enterServo_rate, setRate_rate]
    · exact (enterServo_timeSide (setRate_timeSide ((TimeSide.refl _).put _))).trans hstill.timeSide
  case lost =>
    rintro at_ x s u rfl hruns hmaster hpresent hsilent hstate hsource hnone
    obtain ⟨hlost, hnoSource, hst⟩ := loseSource_locked hstate hsource hnone
    refine ⟨_, congrArg Host.Outcome.next ((unlessPaused_runs hruns).trans (sourceLost_silent hmaster hpresent hsilent)),
      ?_, ?_, hnoSource, hst, loseSource_timeSide (.refl _)⟩
    · rw [hlost, lostSource]
    · rw [hlost, lostSource]
  case expired =>
    rintro at_ s u rfl hruns hstate hdue
    have hrun : holdExpiry (s.tick at_) = enterServo 3 (s.tick at_) := if_pos ⟨hstate, hdue⟩
    obtain ⟨hacc, hest⟩ := enterServo_estimate (st := 3) (s := s.tick at_) (by rw [hstate]; rfl) rfl
    exact ⟨_, congrArg Host.Outcome.next ((unlessPaused_runs hruns).trans hrun), enterServo_state, enterServo_rate, hacc, hest,
      enterServo_timeSide (.refl _)⟩

end Sys2Proof.Machine
end

section
/-! SUPPORT. The interval units (08 R217, R219) and the steps of device time (08 R205, R207). -/

namespace Sys2Proof.Machine

/-- Refutes O15: the clause on a measurement whose window ends claims NO_STOP of every unit that times, and leaves out that the
stop edge may have arrived (08 R217). The counterexample: unit 0, armed for the rising edges of pins 0 and 1 with a window of
100 ticks, has taken both, 10 ticks apart; at the end of the window it gives the interval that they make. -/
theorem not_ptpAndEdges : ¬ Obligations.PtpAndEdges := by
  unfold Obligations.PtpAndEdges
  rintro ⟨-, -, -, -, -, hwindow, -⟩
  let armed : Interval := { (default : Interval) with state := 1, cfg := [0x00010000, 100] }
  let s : State := iuEdge 0 1 true 160 (iuEdge 0 0 true 0
    (setUnit 0 armed { State.reset with time := { State.reset.time with rawStart := some 0 } }))
  obtain ⟨t, ht, -, hflag, -⟩ := hwindow secU 0 0 s (s.tick secU) rfl (by decide) (by decide) (by decide) (by decide)
  cases ht
  exact absurd hflag (by decide)

/-- Refutes O16: the clause on a re-base to a value claims, of every state, that the servo's state stays; but the step judges
the states of the PTP ports again, and a port that leaves SLAVE is lost as a source (08 R202). The counterexample: the servo is
LOCKED to ETH0, whose port stands SLAVE while its PTP is off; the step leaves it in HOLDOVER. -/
theorem not_timeCommands : ¬ Obligations.TimeCommands := by
  unfold Obligations.TimeCommands
  rintro ⟨-, -, -, -, -, -, -, hstep, -⟩
  let x : TimeStep := { (default : TimeStep) with kind := 2 }
  let s : State := { State.reset with
    cfg := [((0x0601, 0, 0), 0x10000000)]
    ptp := [(0, { (default : PtpPort) with state := 3 })]
    time := { State.reset.time with
      state := 1, source := 1, sources := [(1, { (default : TimeSource) with present := true })] } }
  obtain ⟨-, -, -, -, -, hstate⟩ := hstep x s _ rfl
  have hholdover : (timeStep x s).time.state = 2 := by decide +kernel
  exact absurd (hholdover.symm.trans (hstate rfl rfl)) (by decide)

end Sys2Proof.Machine
end

section
/-! SUPPORT. The Skaing link (12 R301 to R303, R316, R317; 08 R213): its endpoints and lanes, and that nothing else changes
beside reports and the streams' folios. -/

namespace Sys2Proof.Machine

/-! ### Endpoints and lanes -/

@[simp] theorem skaing_setSkaing_self (x : Nat) (v : Skaing) (s : State) : skaing (setSkaing x v s) x = v :=
  (skaing_setSkaing ..).trans (if_pos rfl)

theorem skaing_setSkaing_ne {x k : Nat} (h : k ≠ x) (v : Skaing) (s : State) : skaing (setSkaing x v s) k = skaing s k :=
  (skaing_setSkaing ..).trans (if_neg (Ne.symm h))

theorem setSkaing_setSkaing (x : Nat) (v w : Skaing) (s : State) : setSkaing x w (setSkaing x v s) = setSkaing x w s :=
  congrArg (fun t => { s with skaing := t }) (Tab.put_put ..)

@[simp] theorem lane_setLane_self (l : Nat) (v : Lane) (s : State) : lane (setLane l v s) l = v :=
  (lane_setLane ..).trans (if_pos rfl)

theorem lane_setLane_ne {l k : Nat} (h : k ≠ l) (v : Lane) (s : State) : lane (setLane l v s) k = lane s k :=
  (lane_setLane ..).trans (if_neg (Ne.symm h))

section
variable {s0 s t : State} {x l : Nat}

theorem Still.skaing_eq (h : Still s t) (k : Nat) : Machine.skaing t k = Machine.skaing s k := by
  unfold Machine.skaing; rw [h.skaing]
theorem Still.lane_eq (h : Still s t) (k : Nat) : lane t k = lane s k := by unfold lane; rw [h.lanes]

/-- The same write on both sides of a difference of reports. -/
theorem Still.onLane (h : Still s t) (l : Nat) (v : Lane) : Still (setLane l v s) (setLane l v t) :=
  { h with lanes := congrArg (Tab.put · l v) h.lanes, flash := h.flash, boot := h.boot }
theorem Still.onEndpoint (h : Still s t) (x : Nat) (v : Skaing) : Still (setSkaing x v s) (setSkaing x v t) :=
  { h with skaing := congrArg (Tab.put · x v) h.skaing, flash := h.flash, boot := h.boot }

/-- Beside reports and folios nothing but lanes and endpoints differs. -/
def LinkSide (s t : State) : Prop := Still { s with lanes := t.lanes, skaing := t.skaing } t

theorem LinkSide.refl (s : State) : LinkSide s s := Still.refl s

theorem LinkSide.still (h : LinkSide s t) : Still { s with lanes := t.lanes, skaing := t.skaing } t := h

theorem LinkSide.trans {a b c : State} (h : LinkSide a b) (k : LinkSide b c) : LinkSide a c := by
  have hb : Still { a with lanes := c.lanes, skaing := c.skaing } { b with lanes := c.lanes, skaing := c.skaing } :=
    { h.still with lanes := rfl, skaing := rfl, flash := h.still.flash, boot := h.still.boot }
  exact hb.trans k.still

theorem Still.linkSide (h : Still s t) : LinkSide s t := by
  have e : { s with lanes := t.lanes, skaing := t.skaing } = s := by rw [h.lanes, h.skaing]
  unfold LinkSide
  rwa [e]

theorem setLane_linkSide {v : Lane} (h : LinkSide s0 s) : LinkSide s0 (setLane l v s) := h.trans (Still.refl _)
theorem setSkaing_linkSide {v : Skaing} (h : LinkSide s0 s) : LinkSide s0 (setSkaing x v s) := h.trans (Still.refl _)

/-! ### Training (12 R301 to R303) -/

/-- A scan on a lane ends, and nothing else of the lane. -/
theorem dropScan_still (l : Nat) (s : State) : Still (setLane l { lane s l with scan := none } s) (dropScan l s) := by
  unfold dropScan
  dsimp only
  split
  · exact refuseOr_still (.refl _)
  · exact .refl _

theorem dropScan_state (l k : Nat) (s : State) : (lane (dropScan l s) k).state = (lane s k).state := by
  rw [(dropScan_still l s).lane_eq, lane_setLane]
  split
  · next h => rw [h]
  · rfl

/-- A lane that begins to train is in Detect, or in auto-negotiation where it is an Ethernet lane. -/
theorem startLane_spec (l : Nat) (s : State) : LinkSide s (startLane l s)
    ∧ (lane (startLane l s) l).state = if l = 4 ∨ l = 5 then 4 else 3 := by
  unfold startLane
  refine ⟨setLane_linkSide ((setLane_linkSide (.refl s)).trans (dropScan_still l s).linkSide), ?_⟩
  rw [lane_setLane_self]

/-- An enabled Skaing lane in no loopback begins to train, and its negotiation is over (12 R303). -/
theorem startLink_skaing (hl : 6 ≤ l) (hen : laneEn s l = true) (hloop : (lane s l).state ≠ 6) :
    LinkSide s (startLink l s) ∧ (lane (startLink l s) l).state = 3 ∧ (skaing (startLink l s) (l - 6)).phase = 0 := by
  obtain ⟨hside, hstate⟩ := startLane_spec l s
  have hlanes : linkLanes l = [l] := if_neg (by omega)
  unfold startLink
  rw [hlanes, forAll_cons, forAll_nil]
  simp only [hen, hloop, ne_eq, not_false_eq_true, decide_true, Bool.and_self, if_true]
  rw [if_neg (by omega)]
  refine ⟨setSkaing_linkSide hside, ?_, congrArg Skaing.phase (skaing_setSkaing_self ..)⟩
  exact hstate.trans (if_neg (by omega))

/-- A standby lane that is not UP goes deep: no source is lost, and its own endpoint alone changes. -/
theorem goDeep_down (hl : 6 ≤ l) (hdown : (lane s l).state ≠ 5) : LinkSide s (goDeep l s)
    ∧ (∀ k, k ≠ l → lane (goDeep l s) k = lane s k) ∧ ∀ k, k ≠ l - 6 → skaing (goDeep l s) k = skaing s k := by
  have hdrop := dropScan_still l s
  have hside : LinkSide s (dropScan l s) := (setLane_linkSide (.refl s)).trans hdrop.linkSide
  have hnot : ¬ (6 ≤ l ∧ (lane (dropScan l s) l).state = 5) := by rw [dropScan_state]; omega
  unfold goDeep
  dsimp only
  rw [if_neg hnot, if_pos hl]
  refine ⟨setLane_linkSide (setSkaing_linkSide hside), fun k hk => ?_, fun k hk => ?_⟩
  · exact (lane_setLane_ne hk ..).trans ((hdrop.lane_eq k).trans (lane_setLane_ne hk ..))
  · exact (skaing_setSkaing_ne hk ..).trans (hdrop.skaing_eq k)

/-- A Skaing lane that comes UP: at its rate, its own endpoint as before (12 R301, R317). -/
theorem laneIsUp_skaing (rate fec : Nat) (s : State) : LinkSide s (laneIsUp (6 + x) rate fec s)
    ∧ (lane (laneIsUp (6 + x) rate fec s) (6 + x)).state = 5
    ∧ (lane (laneIsUp (6 + x) rate fec s) (6 + x)).rateNow = rate
    ∧ skaing (laneIsUp (6 + x) rate fec s) x = skaing s x := by
  unfold laneIsUp
  extract_lets v a b
  have hb : Still a b := clearCause_still (clearCause_still (.refl a))
  have ha : LinkSide s b := (setLane_linkSide (.refl s)).trans hb.linkSide
  have hlane : lane b (6 + x) = _ := (hb.lane_eq _).trans (lane_setLane_self ..)
  split
  · next h =>
    obtain ⟨hprimary, -, -, hdown, -⟩ := h
    obtain ⟨hdeep, hlanes, hends⟩ := goDeep_down (by omega) hdown
    have hx := hends x (by omega)
    rw [hlanes _ (by omega), hlane]
    exact ⟨ha.trans hdeep, rfl, rfl, hx.trans (hb.skaing_eq x)⟩
  · rw [hlane]
    exact ⟨ha, rfl, rfl, hb.skaing_eq x⟩

/-! ### The streams of a link (12 R314, R318) -/

theorem goBackPort_still {p : Nat} (h : Still s0 s) : Still s0 (goBackPort p s) :=
  forAll_still _ (fun _ t => goBack_still (.refl t)) h

theorem movedStreams_still {old : State} (h : Still s0 s) : Still s0 (movedStreams old s) :=
  forAll_still _ (fun _ t => goBack_still (.refl t)) h

theorem freshRelays_still (h : Still s0 s) : Still s0 (freshRelays x s) :=
  forAll_still _ (fun _ t => setStream_still (.refl t)) h

/-- A Skaing link that goes down trains again, and its source of time is lost (08 R202; 12 R303). -/
theorem dropLink_skaing (hl : 6 ≤ l) (hen : laneEn s l = true) (hloop : (lane s l).state ≠ 6) :
    (skaing (dropLink l s) (l - 6)).phase = 0 ∧ (lane (dropLink l s) l).state = 3 ∧ (dropLink l s).cfg = s.cfg := by
  obtain ⟨hside, hstate, hphase⟩ := startLink_skaing hl hen hloop
  have hlost : TimeSide (startLink l s) (dropLink l s) := by
    unfold dropLink linkLost
    rw [if_pos hl]
    exact (loseSource_timeSide (.refl _)).trans (movedStreams_still (.refl _)).timeSide
  have h := hlost.still
  refine ⟨?_, ?_, h.cfg.trans hside.still.cfg⟩
  · rw [h.skaing_eq]; exact hphase
  · rw [h.lane_eq]; exact hstate

/-! ### Negotiation (12 R316, R317) -/

section
variable {v : Skaing} (hphase : v.phase = 1) (hheard : v.peerHeard = true) (hsent : v.linkSent = true)
  (hfrom : v.prbsFrom ≤ s.now)
include hphase hheard hsent hfrom

/-- Both ends have spoken, with a version in common: the PRBS31 exchange begins. -/
theorem agreeLink_common (hver : max 1 v.peerMin ≤ min 2 v.peerMax) :
    agreeLink x (setSkaing x v s) = setLane (skaingLane x) { lane s (skaingLane x) with ver := min 2 v.peerMax } (setSkaing x
      { v with
        phase := 2, rate := if min 2 v.peerMax = 1 then min (min (rateMax s x) v.peerRate) 4 else min (rateMax s x) v.peerRate
        prbsFrom := s.now, mismatch := false } s) := by
  unfold agreeLink
  dsimp only
  rw [skaing_setSkaing_self, if_neg (by simp [hphase, hheard, hsent, hfrom]), if_neg (by omega), setSkaing_setSkaing]
  rfl

/-- Without a version in common the lane has no partner. -/
theorem agreeLink_mismatch (hver : min 2 v.peerMax < max 1 v.peerMin) :
    Still (setLane (skaingLane x) { lane s (skaingLane x) with state := 7 } (setSkaing x { v with mismatch := true } s))
      (agreeLink x (setSkaing x v s)) := by
  unfold agreeLink
  dsimp only
  rw [skaing_setSkaing_self, if_neg (by simp [hphase, hheard, hsent, hfrom]), if_pos hver]
  have told : Still (setSkaing x v s)
      (if v.mismatch = true then setSkaing x v s else raiseOrig 0x0C11 3 (3 + x) (le 4 v.peerTag) 1 (setSkaing x v s)) :=
    ite_still (.refl _) (raiseOrig_still (.refl _))
  have h := (told.onEndpoint x { v with mismatch := true }).onLane (skaingLane x) { lane s (skaingLane x) with state := 7 }
  rw [setSkaing_setSkaing] at h
  rw [told.lane_eq]
  exact h

end

/-- A LINK frame in negotiation is noted before the versions are judged. -/
def linkHeard (x vmin vmax rmax tag : Nat) (s : State) : Skaing :=
  { skaing s x with lastRx := s.now, peerMin := vmin, peerMax := vmax, peerRate := rmax, peerTag := tag, peerHeard := true }

theorem linkFrame_taken {vmin vmax rmax tag : Nat} (hx : x < 2) (hphase : (skaing s x).phase ≠ 0) :
    linkFrame x vmin vmax rmax tag true s = agreeLink x (setSkaing x (linkHeard x vmin vmax rmax tag s) s) := by
  unfold linkFrame
  dsimp only
  rw [if_neg (by omega), if_neg (by decide), if_neg hphase]
  rfl

theorem linkFrame_dropped {vmin vmax rmax tag : Nat} (hx : x < 2) :
    linkFrame x vmin vmax rmax tag false s = setSkaing x { skaing s x with crcDrops := (skaing s x).crcDrops + 1 } s := by
  unfold linkFrame
  dsimp only
  rw [if_neg (by omega), if_pos (by decide)]
  rfl

/-- The check without an error brings the link UP. -/
theorem prbsEnd_clean (hphase : (skaing s x).phase = 2) (hdue : (skaing s x).prbsFrom + msU ≤ s.now) :
    LinkSide s (prbsEnd x 0 s) ∧ (skaing (prbsEnd x 0 s) x).phase = 3 ∧ (skaing (prbsEnd x 0 s) x).lastRx = s.now
      ∧ (lane (prbsEnd x 0 s) (skaingLane x)).state = 5
      ∧ (lane (prbsEnd x 0 s) (skaingLane x)).rateNow = (skaing s x).rate := by
  unfold prbsEnd
  dsimp only
  rw [if_neg (by omega), if_pos rfl, skaingLane]
  generalize hu : setSkaing x _ s = u
  have hside : LinkSide s u := hu ▸ setSkaing_linkSide (.refl s)
  obtain ⟨hup, hstate, hrate, hend⟩ := laneIsUp_skaing (x := x) (skaing s x).rate 0 u
  have h := freshRelays_still (x := x) (goBackPort_still (p := 2 + x) (.refl (laneIsUp (6 + x) (skaing s x).rate 0 u)))
  have hself : skaing (freshRelays x (goBackPort (2 + x) (laneIsUp (6 + x) (skaing s x).rate 0 u))) x = _ :=
    (h.skaing_eq x).trans (hend.trans (hu ▸ skaing_setSkaing_self ..))
  refine ⟨(hside.trans hup).trans h.linkSide, ?_, ?_, ?_, ?_⟩
  · exact congrArg Skaing.phase hself
  · exact congrArg Skaing.lastRx hself
  · exact (congrArg Lane.state (h.lane_eq _)).trans hstate
  · exact (congrArg Lane.rateNow (h.lane_eq _)).trans hrate

/-- A check with errors tries the next lower code; at code 0 negotiation begins again after 100 ms. -/
theorem prbsEnd_errors {e : Nat} (hphase : (skaing s x).phase = 2) (hdue : (skaing s x).prbsFrom + msU ≤ s.now) (he : e ≠ 0) :
    prbsEnd x e s = setSkaing x (if (skaing s x).rate = 0 then
      { skaing s x with phase := 1, peerHeard := false, linkSent := false, prbsFrom := s.now + 100 * msU }
      else { skaing s x with rate := (skaing s x).rate - 1, prbsFrom := s.now }) s := by
  unfold prbsEnd
  dsimp only
  rw [if_neg (by omega), if_neg he]
  split <;> rfl

/-- In negotiation a LINK frame leaves every 100 us. -/
theorem keepalive_negotiates (hx : x < 2) (hphase : (skaing s x).phase = 1) (hfrom : (skaing s x).prbsFrom ≤ s.now)
    (hwaits : s.now < (skaing s x).prbsFrom + 100 * msU ∨ (skaing s x).peerHeard = true)
    (hdue : (skaing s x).lastLink + 100 * usU ≤ s.now) :
    keepalive x s = agreeLink x (skaingSend x 1 (le 1 1 ++ le 1 2 ++ le 1 (rateMax s x) ++ le 1 0 ++ le 4 (hubTag s))
      (setSkaing x { skaing s x with lastLink := s.now, linkSent := true } s)) := by
  have hgoes : ¬ ((skaing s x).phase = 1 ∧ ¬ (skaing s x).peerHeard = true ∧ (skaing s x).prbsFrom + 100 * msU ≤ s.now) := by
    rintro ⟨-, hsilent, hover⟩
    rcases hwaits with h | h
    · omega
    · exact hsilent h
  unfold keepalive
  dsimp only
  rw [if_pos hphase, if_neg (by omega), if_neg hgoes, if_neg (by omega)]
  rfl

/-! ### Time over the link (08 R213) -/

theorem timeSend_due (hx : x < 2) (hup : skaingUp s x = true) (hrole : skaingRole s x ≠ 0)
    (hdue : (skaing s x).lastTime + msU ≤ s.now) :
    timeSend x s = skaingSend x 2 (le 1 (skaingRole s x) ++ le 1 s.time.state ++ le 2 0 ++ stampOf s (devDeparts s)
        ++ dt16 (skaing s x).peerTx (skaing s x).txQual ++ dt16 (skaing s x).peerRx (skaing s x).rxQual)
      (setSkaing x { skaing s x with lastTime := s.now, tx := devDeparts s } s) := by
  unfold timeSend
  dsimp only
  rw [if_neg (by simp only [hup, not_true_eq_false, false_or]; omega)]
  rfl

/-- The downstream end, which knows the link's delay, measures its source (08 R202, R213). -/
theorem timeFrame_measures {role st qual rx ph : Nat} {a b c d : Int} {v : Skaing} (hx : x < 2) (hup : skaingUp s x = true)
    (hrole : skaingRole s x = 2) (hpartner : role = 1) (hst : st ≠ 0) (htx : (skaing s x).tx = 0)
    (hdelay : (skaing s x).delay = some d) (hv : v = { skaing s x with
      lastRx := s.now, peerTx := a, peerRx := devPhase s rx ph, txQual := qual, rxQual := s.time.state, heardTime := true
      peerRole := role, peerState := st }) :
    timeFrame x role st a b c qual rx ph true s = measure (3 + x)
      (a + d + psU (toSigned 32 (word s 0x0604 x 4)) / 2 - devPhase s rx ph)
      (setSrc (3 + x) { srcOf (setSkaing x v s) (3 + x) with interval := msU } (setSkaing x v s)) := by
  subst hv hpartner
  have hnone : ¬ (b = (skaing s x).tx ∧ (skaing s x).tx ≠ 0) := fun h => h.2 htx
  unfold timeFrame
  dsimp only
  rw [if_neg (by omega), if_neg (by decide), if_neg (not_not_intro hup), hrole, if_neg (by decide), if_neg (by decide),
    if_neg (by decide), if_neg hst, if_neg hnone, hdelay]
  rfl

end

/-- Settles O46: each row is its operation of the endpoint at the command's instant. -/
theorem skaingLink : Obligations.SkaingLink := by
  unfold Obligations.SkaingLink
  refine ⟨?common, ?mismatch, ?dropped, ?clean, ?errors, ?keepalive, ?timeout, ?sends, ?measures⟩
  case common =>
    rintro at_ x a b c d s u rfl hx hphase hfrom hsent hver
    exact congrArg Host.Outcome.next ((linkFrame_taken hx (by omega)).trans (agreeLink_common hphase rfl hsent hfrom hver))
  case mismatch =>
    rintro at_ x a b c d s u rfl hx hphase hfrom hsent hver
    have h := agreeLink_mismatch (x := x) (v := linkHeard x a b c d (s.tick at_)) hphase rfl hsent hfrom hver
    rw [← linkFrame_taken hx (by omega)] at h
    refine ⟨_, rfl, h.lanes, (h.skaing_eq x).trans (skaing_setSkaing_self ..),
      fun k hk => (h.skaing_eq k).trans (skaing_setSkaing_ne hk ..), ?_⟩
    exact (setLane_linkSide (setSkaing_linkSide (.refl _))).trans h.linkSide
  case dropped =>
    rintro at_ x a b c d s u rfl hx -
    exact congrArg Host.Outcome.next (linkFrame_dropped hx)
  case clean =>
    rintro at_ x s u rfl hphase hdue
    obtain ⟨hside, hend, hheard, hstate, hrate⟩ := prbsEnd_clean hphase hdue
    exact ⟨_, rfl, hend, hheard, hstate, hrate, hside.still.cfg, hside.still.time⟩
  case errors =>
    rintro at_ x e s u rfl hphase hdue he
    exact congrArg Host.Outcome.next (prbsEnd_errors hphase hdue he)
  case keepalive =>
    rintro at_ x s u rfl hx hphase hfrom hwaits hdue
    exact congrArg Host.Outcome.next (keepalive_negotiates hx hphase hfrom hwaits hdue)
  case timeout =>
    rintro at_ x s u rfl hx hphase hdue hloop hen
    have hrun : linkTimeout x (s.tick at_) = dropLink (skaingLane x) (s.tick at_) := if_pos ⟨hx, hphase, hdue⟩
    obtain ⟨hend, hstate, hcfg⟩ := dropLink_skaing (l := skaingLane x) (by unfold skaingLane; omega) hen hloop
    have hx6 : skaingLane x - 6 = x := by unfold skaingLane; omega
    rw [hx6] at hend
    exact ⟨_, congrArg Host.Outcome.next hrun, hend, hstate, hcfg⟩
  case sends =>
    rintro at_ x s u rfl hx hup hrole hdue
    exact congrArg Host.Outcome.next (timeSend_due hx hup hrole hdue)
  case measures =>
    rintro at_ x role st qual rx ph a b c d y s u rfl hx hup hrole hpartner hst htx hdelay rfl
    exact congrArg Host.Outcome.next (timeFrame_measures hx hup hrole hpartner hst htx hdelay rfl)

end Sys2Proof.Machine
end

section
/-! SUPPORT. Bookmark records leave, are suppressed or close their folio (09 R232 to R235): what each of these makes of the
trigger engine's marks, and that nothing else changes beside reports and folios. -/

namespace Sys2Proof.Machine

/-- Beside reports and folios nothing but the trigger engine differs. -/
def TrgSide (s t : State) : Prop := Still { s with trg := t.trg } t

section
variable {s0 s t : State} {b : Bookmark}

theorem TrgSide.refl (s : State) : TrgSide s s := Still.refl s

theorem TrgSide.still (h : TrgSide s t) : Still { s with trg := t.trg } t := h

theorem TrgSide.trans {a b c : State} (h : TrgSide a b) (k : TrgSide b c) : TrgSide a c := by
  have hb : Still { a with trg := c.trg } { b with trg := c.trg } :=
    { h.still with trg := rfl, flash := h.still.flash, boot := h.still.boot }
  exact hb.trans k.still

theorem Still.trgSide (h : Still s t) : TrgSide s t := by
  have e : { s with trg := t.trg } = s := by rw [h.trg]
  unfold TrgSide
  rwa [e]

theorem TrgSide.put (h : TrgSide s0 s) (v : Trg) : TrgSide s0 { s with trg := v } := h.trans (Still.refl _)

/-! ### One record (09 R232, R234) -/

/-- A folio with room takes a record and stays open. -/
theorem markRecord_room {m : List Byte} (hroom : s.trg.openRecs.length < 62) : markRecord m s = { s with
    trg.openRecs := s.trg.openRecs ++ [m], trg.openSince := if s.trg.openRecs.isEmpty then s.now else s.trg.openSince } := by
  unfold markRecord
  exact if_neg (by simp only [List.length_append, List.length_singleton]; omega)

/-- The state in which the records of the present second of device time number `cnt`. -/
def countedSecond (cnt : Nat) (s : State) : State := { s with trg.second := devSec (devNow s), trg.secCount := cnt }

/-- The count of records begins anew with a second of device time. -/
theorem countedSecond_eq {cnt : Nat} (hcnt : cnt = if s.trg.second = devSec (devNow s) then s.trg.secCount else 0) :
    (if s.trg.second = devSec (devNow s) then s else { s with trg.second := devSec (devNow s), trg.secCount := 0 })
      = countedSecond cnt s := by
  subst hcnt
  unfold countedSecond
  split
  · next h => rw [← h]
  · rfl

/-- Within the limit of a second the record enters the open folio. -/
theorem emitMark_within {ok : Bool} {cnt : Nat} (hkind : b.kind ≠ 0)
    (hcnt : cnt = if s.trg.second = devSec (devNow s) then s.trg.secCount else 0) (hlimit : cnt < 131072)
    (hroom : s.trg.openRecs.length < 62) : emitMark b ok s = { s with trg := { s.trg with
      second := devSec (devNow s), secCount := cnt + 1, openRecs := s.trg.openRecs ++ [markBytes s b (64 * b2n (!ok))]
      openSince := if s.trg.openRecs.isEmpty then s.now else s.trg.openSince } } := by
  have hopen : ¬ 131072 ≤ (countedSecond cnt s).trg.secCount := Nat.not_le.2 hlimit
  unfold emitMark
  dsimp only
  rw [countedSecond_eq hcnt, if_neg hopen, if_neg hkind, markRecord_room]
  · rfl
  · exact hroom

/-- A mark that is no sequencer's is counted as suppressed under its source; windows that name it lose its name. -/
theorem suppressMark_still {x : Nat × Nat × Nat} (hkind : b.kind ≠ 0)
    (hx : x = s.trg.secSupp.get b.source (0, b.index, b.index)) : Still { s with
      trg.secSupp := s.trg.secSupp.put b.source (x.1 + 1, min x.2.1 b.index, max x.2.2 b.index) } (suppressMark b s) := by
  subst hx
  unfold suppressMark
  dsimp only
  rw [if_neg hkind]
  exact forAll_still _ (fun _ t => setStream_still (.refl t)) (.refl _)

/-- Beyond the limit of a second the mark is suppressed. -/
theorem emitMark_beyond {ok : Bool} (hsecond : s.trg.second = devSec (devNow s)) (hlimit : 131072 ≤ s.trg.secCount) :
    emitMark b ok s = suppressMark b s := by
  unfold emitMark
  dsimp only
  rw [if_pos hsecond, if_pos hlimit]

/-! ### The rows of a waiting mark and of the folio (09 R232 to R234) -/

/-- The only mark that waits leaves, and its stream's folios are freed. -/
theorem emitMarks_single {ok : Bool} (hwaits : s.trg.waiting = [b]) (hkind : b.kind ≠ 0) (hfate : markFate s b = some ok) :
    emitMarks s = freeFolios b.stream { emitMark b ok s with trg.waiting := [] } := by
  have hsorted : sortOn (·.index) [b] = [b] := rfl
  have hstreams : [b.stream].eraseDups = [b.stream] := rfl
  unfold emitMarks
  simp only [hwaits, hsorted, List.foldl_cons, List.foldl_nil, hkind, false_and, if_false, hfate, List.map_cons,
    List.map_nil, hstreams]
  rfl

/-- 100 us after its first record the folio leaves. -/
theorem folioClose_due (hdue : s.trg.openSince + 100 * usU ≤ s.now) (hrecs : s.trg.openRecs ≠ []) :
    folioClose s = put2 0x10 s.trg.openRecs.length s.trg.openRecs.flatten { s with trg.openRecs := [] } :=
  (if_pos hdue).trans (if_neg (by rwa [List.isEmpty_iff]))

/-- One event reports the suppressed marks. -/
theorem markSecond_reports (h : s.trg.secSupp ≠ []) : Still { s with trg.secSupp := [] } (markSecond s) := by
  unfold markSecond
  rw [if_neg (by rwa [List.isEmpty_iff])]
  exact raise_still (.refl _)

/-- TRG_MARK marks the instant that it names (09 R235). -/
theorem trgMark_marks {p : Packet} {v : Session} {r : Req} {z : State} {i : Int}
    (ha : Accepted 0x0602 p tableRole trgMarkOk v s) (hr : r = request 0x0602 p v s) (hz : z = takenState p v s)
    (hi : readDt16 (slice 8 16 r.params) = some i) :
    receive 0x0602 p markServe s = answer r stOk [] (markInstant 2 0xFFFF 0 0 (r.f 0 4) (r.f 4 4) i z) := by
  unfold markServe
  rw [serve_accepted _ ha, ← hr, ← hz, hi]
  rfl

end

/-- Settles O41: each command is its operation at the command's instant; a mark that waits is emitted or suppressed. -/
theorem marksAndRecords : Obligations.MarksAndRecords := by
  unfold Obligations.MarksAndRecords
  refine ⟨?emits, ?suppresses, ?closes, ?early, ?reports, ?quiet, ?marks⟩
  case emits =>
    rintro at_ b ok cnt s u rfl hwaits hkind hfate hcnt hlimit hroom
    refine congrArg Host.Outcome.next ((emitMarks_single hwaits hkind hfate).trans ?_)
    rw [emitMark_within hkind hcnt hlimit hroom]
  case suppresses =>
    rintro at_ b ok x s u rfl hwaits hkind hfate hsecond hlimit hx
    have h := suppressMark_still hkind hx
    have hrun := emitMarks_single hwaits hkind hfate
    rw [emitMark_beyond hsecond hlimit] at hrun
    have hleft : TrgSide (s.tick at_) { suppressMark b (s.tick at_) with trg.waiting := [] } :=
      (((TrgSide.refl _).put _).trans h.trgSide).put _
    have hfreed := freeFolios_still (n := b.stream) (.refl { suppressMark b (s.tick at_) with trg.waiting := [] })
    exact ⟨_, congrArg Host.Outcome.next hrun, hfreed.trg.trans (congrArg (fun g => { g with waiting := [] }) h.trg),
      hleft.trans hfreed.trgSide⟩
  case closes =>
    rintro at_ s u rfl hdue hrecs
    exact congrArg Host.Outcome.next (folioClose_due hdue hrecs)
  case early =>
    rintro at_ s u rfl hearly
    exact congrArg Host.Outcome.next (if_neg (Nat.not_le.2 hearly))
  case reports =>
    rintro at_ s u rfl hsupp
    have h := markSecond_reports hsupp
    exact ⟨_, rfl, h.trg, { h with trg := rfl, flash := h.flash, boot := h.boot }⟩
  case quiet =>
    rintro at_ s u rfl hnone
    exact congrArg Host.Outcome.next (if_pos (List.isEmpty_iff.2 hnone))
  case marks =>
    rintro at_ p v r z i s u rfl ha hr hz hi
    exact congrArg Host.Outcome.next (trgMark_marks ha hr hz hi)

end Sys2Proof.Machine
end

section
/-! SUPPORT. The group of hubs (09 R236 to R239; 12 R312, R316): what arming, disarming, firing and the group's messages make
of the group, and that beside reports only the Skaing endpoints that send differ. -/

namespace Sys2Proof.Machine

/-- Beside reports and folios nothing but the group and the Skaing endpoints differs. -/
def GroupSide (s t : State) : Prop := Still { s with group := t.group, skaing := t.skaing } t

/-- What sending leaves: of the group only its COUNT, the tuples seen and the messages to be repeated differ. -/
def SendSide (s t : State) : Prop := Still { s with
  group := { s.group with count := t.group.count, seen := t.group.seen, repeats := t.group.repeats }
  skaing := t.skaing } t

section
variable {s0 s t z : State}

theorem SendSide.still (h : SendSide s t) : Still { s with
    group := { s.group with count := t.group.count, seen := t.group.seen, repeats := t.group.repeats }
    skaing := t.skaing } t := h

theorem SendSide.refl (s : State) : SendSide s s := Still.refl s

theorem SendSide.trans {a b c : State} (h : SendSide a b) (k : SendSide b c) : SendSide a c := by
  have hb : Still { a with
      group := { a.group with count := c.group.count, seen := c.group.seen, repeats := c.group.repeats }
      skaing := c.skaing } { b with
      group := { b.group with count := c.group.count, seen := c.group.seen, repeats := c.group.repeats }
      skaing := c.skaing } :=
    { h.still with
      group := congrArg (fun g => { g with count := c.group.count, seen := c.group.seen, repeats := c.group.repeats })
        h.still.group
      skaing := rfl, flash := h.still.flash, boot := h.still.boot }
  exact hb.trans k.still

theorem Still.sendSide (h : Still s t) : SendSide s t := by
  have e : { s with
      group := { s.group with count := t.group.count, seen := t.group.seen, repeats := t.group.repeats }
      skaing := t.skaing } = s := by rw [h.group, h.skaing]
  unfold SendSide
  rwa [e]

/-- Sending from a state that differs in its group alone. -/
theorem SendSide.groupSide {g : Group} (h : SendSide { s with group := g } t) : GroupSide s t :=
  { h.still with group := rfl, flash := h.still.flash, boot := h.still.boot }

/-! ### Sending (12 R312, R315, R316) -/

/-- Beside what leaves the hub a Skaing frame changes the endpoints alone. -/
theorem skaingSend_still (x ftype : Nat) (b : List Byte) (s : State) :
    Still { s with skaing := (skaingSend x ftype b s).skaing } (skaingSend x ftype b s) := emit_still (.refl _)

theorem skaingSend_sendSide {x ftype : Nat} {b : List Byte} (h : SendSide s0 s) : SendSide s0 (skaingSend x ftype b s) :=
  h.trans (skaingSend_still x ftype b s)

theorem repeatLater_sendSide {p left : Nat} {b m : List Byte} (h : SendSide s0 s) :
    SendSide s0 (repeatLater p left b m s) := h.trans (Still.refl _)

theorem remember_sendSide {m : List Byte} (h : SendSide s0 s) : SendSide s0 (remember m s) := h.trans (Still.refl _)

theorem groupSend_sendSide {m : List Byte} {p : Nat} (h : SendSide s0 s) : SendSide s0 (groupSend m p s) := by
  unfold groupSend
  dsimp only
  split
  · exact h
  · split
    · split
      · exact repeatLater_sendSide (skaingSend_sendSide h)
      · exact h
    · split
      · exact h
      · split
        · exact repeatLater_sendSide (h.trans (sendFrame_still (.refl s)).sendSide)
        · exact h

theorem groupSendAll_sendSide {ports : List Nat} {m : List Byte} (h : SendSide s0 s) :
    SendSide s0 (groupSendAll ports m s) :=
  forAll_ind ports (fun _ _ => groupSend_sendSide) (h.trans (Still.refl _))

theorem originate_sendSide {m : List Byte} (h : SendSide s0 s) : SendSide s0 (originate m s) :=
  groupSendAll_sendSide (remember_sendSide h)

theorem forward_sendSide {port : Nat} {m : List Byte} (h : SendSide s0 s) : SendSide s0 (forward port m s) := by
  unfold forward
  split
  · exact groupSendAll_sendSide h
  · exact h

/-! ### Arming, disarming and firing by command (09 R237, R245) -/

/-- A master with its time set starts the next generation and sends its ARM. -/
theorem groupArmRun_master {r : Req} {i : Int} (hmaster : isMaster s = true) (hset : s.time.state ≠ 0) :
    SendSide (armGroup (s.group.gen + 1) (r.f 0 1) i s) (groupArmRun r i s) := by
  unfold groupArmRun
  rw [if_neg (by simp [hmaster, hset])]
  exact (originate_sendSide (.refl _)).trans (answerOr_still (jDone_still (.refl _))).sendSide

section
variable {p : Packet} {v : Session} {r : Req} {i : Int}

section
variable (ha : Accepted 0x0604 p tableRole (fun r s => exactly 4 r s && decide (r.f 0 1 ≤ 1) && zeroAt 1 3 r) v s)
  (hr : r = request 0x0604 p v s) (hz : z = takenState p v s) (hnow : r.applyAt = none)
include ha hr hz hnow

theorem groupArm_runs : receive 0x0604 p groupArmServe s = groupArmRun r (devNow z) z := by
  unfold groupArmServe
  rw [serve_accepted _ ha, ← hr, ← hz]
  simp only [hnow]

theorem groupArm_refused (hnot : isMaster z = false ∨ z.time.state = 0) :
    receive 0x0604 p groupArmServe s = refuseOr r stConflict z := by
  rw [groupArm_runs ha hr hz hnow]
  exact if_pos (by simpa using hnot)

end

section
variable (ha : Accepted 0x0605 p tableRole (exactly 0) v s) (hr : r = request 0x0605 p v s) (hz : z = takenState p v s)
include ha hr hz

theorem groupDisarm_refused (hnot : isMaster z = false) :
    receive 0x0605 p groupDisarmServe s = refuse r stConflict z := by
  unfold groupDisarmServe
  rw [serve_accepted _ ha, ← hr, ← hz, if_pos (by simp [hnot])]

theorem groupDisarm_master (hmaster : isMaster z = true) :
    SendSide (disarmGroup (devNow z) z) (receive 0x0605 p groupDisarmServe s) := by
  unfold groupDisarmServe
  rw [serve_accepted _ ha, ← hr, ← hz, if_neg (by simp [hmaster])]
  exact (originate_sendSide (.refl _)).trans (answerOr_still (jDone_still (.refl _))).sendSide

end

section
variable (ha : Accepted 0x0606 p tableRole (fun r s => exactly 18 r s && (readDt16 (slice 0 16 r.params)).isSome
    && (isChan s (r.f 16 2) || decide (r.f 16 2 = 0xFFFF))) v s) (hr : r = request 0x0606 p v s) (hz : z = takenState p v s)
include ha hr hz

theorem groupFire_armed (harmed : z.group.gstate = 1)
    (hi : i = if allZero (slice 0 16 r.params) then devNow z else (readDt16 (slice 0 16 r.params)).getD 0) :
    receive 0x0606 p groupFireServe s = answer r stOk [] (fireAction (r.f 16 2) i z).1 := by
  unfold groupFireServe
  rw [serve_accepted _ ha, ← hr, ← hz, if_neg (not_not_intro harmed), hi]

theorem groupFire_refused (hnot : z.group.gstate ≠ 1) : receive 0x0606 p groupFireServe s = refuse r stConflict z := by
  unfold groupFireServe
  rw [serve_accepted _ ha, ← hr, ← hz, if_pos hnot]

end

end

/-! ### Messages (09 R236 to R238; 12 R312, R316) -/

section
variable {x sender : Nat} {hdr m mac : List Byte}

/-- Over a version 1 link a message is taken as it is. -/
theorem groupReceive_skaing (hx : x < 2) (hport : groupPort s x = true) (hruns : s.boot.fwRuns = true)
    (hup : skaingUp s x = true) (hver : skaingVer s x = 1) : groupReceive x sender hdr m mac true s
      = groupMessage x m (setSkaing x { skaing s x with lastRx := s.now } s) := by
  have hver' : skaingVer (setSkaing x { skaing s x with lastRx := s.now } s) x ≠ 2 := by
    show skaingVer s x ≠ 2
    omega
  unfold groupReceive
  dsimp only
  rw [if_neg (by simp), if_neg (by simp [hport, hruns]), if_pos hx, if_neg (not_not_intro hup), if_neg hver']

/-- A newer ARM of the master is taken and journaled. -/
theorem takeMessage_arm (hmsg : fld 0 1 m = 1) (hgroup : fld 2 2 m = groupNo s) (hin : groupNo s ≠ 0)
    (horigin : fld 4 4 m = masterTag s) (hgen : s.group.gen < fld 8 4 m) (hset : s.time.state ≠ 0)
    (hmode : fld 32 1 m ≤ 1) : takeMessage x m s
      = (groupRx x m (armGroup (fld 8 4 m) (fld 32 1 m) (stampTime (slice 16 16 m)) s), true) := by
  have hours : ¬ (fld 2 2 m ≠ groupNo s ∨ fld 2 2 m = 0 ∨ fld 4 4 m ≠ masterTag s) := by
    rw [hgroup, horigin]
    simpa using hin
  unfold takeMessage
  dsimp only
  rw [if_neg (by omega), if_neg hours, if_pos ⟨hmsg, hgen, hset, hmode⟩]

/-- It arms this hub from the instant that it names, and goes on to the other ports. -/
theorem groupMessage_arm (hlen : m.length = 40) (hnew : duplicate m s = false) (hmsg : fld 0 1 m = 1)
    (hgroup : fld 2 2 m = groupNo s) (hin : groupNo s ≠ 0) (horigin : fld 4 4 m = masterTag s)
    (hgen : s.group.gen < fld 8 4 m) (hset : s.time.state ≠ 0) (hmode : fld 32 1 m ≤ 1) :
    SendSide (armGroup (fld 8 4 m) (fld 32 1 m) (stampTime (slice 16 16 m)) s) (groupMessage x m s) := by
  have htaken : takeMessage x m (remember m s) = _ := takeMessage_arm hmsg hgroup hin horigin hgen hset hmode
  have hseen : SendSide (armGroup (fld 8 4 m) (fld 32 1 m) (stampTime (slice 16 16 m)) s)
      (armGroup (fld 8 4 m) (fld 32 1 m) (stampTime (slice 16 16 m)) (remember m s)) := Still.refl _
  unfold groupMessage
  rw [if_neg (by simp [hlen, hnew]), htaken]
  exact forward_sendSide (hseen.trans (jInternalAt_still (.refl _)).sendSide)

/-- So it does from a version 1 link. -/
theorem groupReceive_arm (hx : x < 2) (hport : groupPort s x = true) (hruns : s.boot.fwRuns = true)
    (hup : skaingUp s x = true) (hver : skaingVer s x = 1) (hlen : m.length = 40) (hnew : duplicate m s = false)
    (hmsg : fld 0 1 m = 1) (hgroup : fld 2 2 m = groupNo s) (hin : groupNo s ≠ 0) (horigin : fld 4 4 m = masterTag s)
    (hgen : s.group.gen < fld 8 4 m) (hset : s.time.state ≠ 0) (hmode : fld 32 1 m ≤ 1) :
    SendSide (armGroup (fld 8 4 m) (fld 32 1 m) (stampTime (slice 16 16 m)) s)
      (groupReceive x sender hdr m mac true s) := by
  have hheard : SendSide (armGroup (fld 8 4 m) (fld 32 1 m) (stampTime (slice 16 16 m)) s)
      (armGroup (fld 8 4 m) (fld 32 1 m) (stampTime (slice 16 16 m))
        (setSkaing x { skaing s x with lastRx := s.now } s)) := Still.refl _
  rw [groupReceive_skaing hx hport hruns hup hver]
  exact hheard.trans (groupMessage_arm hlen hnew hmsg hgroup hin horigin hgen hset hmode)

/-- On Ethernet a message whose HMAC fails is counted, with an event of its port. -/
theorem groupReceive_badHmac {k : List Byte} {good : Bool} (hx : 2 ≤ x) (hport : groupPort s x = true)
    (hruns : s.boot.fwRuns = true) (hkey : groupKey s (groupNo s) = some k) (hbad : hmac k (hdr ++ m) ≠ mac) :
    Still { s with group.hmacFails := s.group.hmacFails + 1 } (groupReceive x sender hdr m mac good s) := by
  unfold groupReceive groupFrame
  rw [if_neg (by omega), if_neg (by simp [hport, hruns]), if_neg (by omega)]
  simp only [hkey]
  rw [if_pos hbad]
  exact raiseOrig_still (.refl _)

theorem groupReceive_badCrc (hx : x < 2) : groupReceive x sender hdr m mac false s = crcDrop x s :=
  if_pos ⟨hx, by decide⟩

end

/-- A message to be repeated goes out again on its port. -/
def sendRepeat (r : Repeat) (s : State) : State :=
  if r.port < 2 then (if skaingUp s r.port then skaingSend r.port 3 r.bytes s else s)
  else (if laneUp s (ethLane (r.port - 2)) then sendFrame (r.port - 2) (groupMac (groupNo s)) 0x88B5 r.bytes s else s)

theorem sendRepeat_still (r : Repeat) (s : State) : Still { s with skaing := (sendRepeat r s).skaing } (sendRepeat r s) := by
  unfold sendRepeat
  split <;> split
  · exact skaingSend_still ..
  · exact .refl _
  · exact sendFrame_still (.refl _)
  · exact .refl _

/-- After it has gone out it is due again in 50 us, until none is left. -/
def laterRepeat (x : Repeat) : List Repeat :=
  if x.left ≤ 1 then [] else [{ x with left := x.left - 1, due := x.due + 50 * usU }]

theorem groupRepeat_due {x : Repeat} (honly : s.group.repeats = [x]) (hdue : x.due ≤ s.now) :
    groupRepeat s = sendRepeat x { s with group.repeats := laterRepeat x } := by
  have hgoes : [x].filter (fun r => decide (r.due ≤ s.now)) = [x] := by simp [hdue]
  have hkeep : [x].filterMap (fun r => if r.due ≤ s.now then
      (if r.left ≤ 1 then none else some { r with left := r.left - 1, due := r.due + 50 * usU }) else some r)
      = laterRepeat x := by
    by_cases hleft : x.left ≤ 1 <;> simp [laterRepeat, hdue, hleft]
  unfold groupRepeat
  dsimp only
  rw [honly, hgoes, hkeep]
  rfl

section
variable {x a b c d : Nat}

theorem groupAck_badCrc (hx : x < 2) : groupAck x a b c d false s = crcDrop x s := by
  unfold groupAck
  rw [if_neg (by omega), if_pos (by decide)]

theorem groupAck_taken (hx : x < 2) (hup : skaingUp s x = true) : groupAck x a b c d true s
    = { setSkaing x { skaing s x with lastRx := s.now } s with
        group.repeats := s.group.repeats.filter fun y =>
          !decide (y.port = x ∧ y.origin = a ∧ y.msg = b ∧ y.gen = c ∧ y.fireId = d) } := by
  unfold groupAck
  rw [if_neg (by omega), if_neg (by decide), if_neg (not_not_intro hup)]
  rfl

end

/-! ### The choice of a fire, and the report of dropped ones (09 R238, R239) -/

theorem earlierShots_none (h : s.group.kept = []) : earlierShots s = s := by
  unfold earlierShots
  simp only [h, List.filter_nil, List.foldl_nil]
  rw [← h]

section
variable {b : Int × Nat × Nat × Nat} (hkept : s.group.kept = []) (hbest : s.group.best = some b)
include hkept hbest

theorem oneShot_due (hdue : b.1 + acceptLate s ≤ devNow s) : oneShot s = markFire b.1 b.2.1 b.2.2.1 b.2.2.2
    { s with group := { s.group with best := none, decided := true, gstate := 2 } } := by
  unfold oneShot
  simp only [earlierShots_none hkept, hbest]
  exact if_neg (Int.not_lt.2 hdue)

theorem oneShot_early (hearly : devNow s < b.1 + acceptLate s) : oneShot s = s := by
  unfold oneShot
  simp only [earlierShots_none hkept, hbest]
  exact if_pos hearly

end

theorem firesReport_reports (h : s.group.notSent ≠ 0) :
    Still { s with group := { s.group with drops := [], notSent := 0, hmacFails := 0 } } (firesReport s) := by
  unfold firesReport
  dsimp only
  rw [if_neg fun hnone => h hnone.2.1]
  exact raise_still (.refl _)

end

/-- Settles O43: each command is its operation at the command's instant; arming and disarming by what the sending of their
message leaves alone. -/
theorem groupOfHubs : Obligations.GroupOfHubs := by
  unfold Obligations.GroupOfHubs
  refine ⟨?arms, ?armRefused, ?disarmRefused, ?disarms, ?fires, ?fireRefused, ?hears, ?badHmac, ?repeats, ?badCrc, ?acked,
    ?decides, ?early, ?reports⟩
  case arms =>
    rintro at_ p v r z s u rfl ha hr hz hnow hmaster hset
    have h := groupArmRun_master (r := r) (i := devNow z) hmaster hset
    refine ⟨_, congrArg Host.Outcome.next (groupArm_runs ha hr hz hnow), ?_⟩
    rw [h.still.group]
    exact ⟨rfl, rfl, rfl, rfl, rfl, rfl, rfl, rfl, rfl, h.still.group ▸ h.groupSide⟩
  case armRefused =>
    rintro at_ p v r z s u rfl ha hr hz hnow hnot
    exact congrArg Host.Outcome.next (groupArm_refused ha hr hz hnow hnot)
  case disarmRefused =>
    rintro at_ p v r z s u rfl ha hr hz hnot
    exact congrArg Host.Outcome.next (groupDisarm_refused ha hr hz hnot)
  case disarms =>
    rintro at_ p v r z s u rfl ha hr hz hmaster
    have h := groupDisarm_master ha hr hz hmaster
    refine ⟨_, rfl, ?_, ?_, ?_, ?_, h.groupSide⟩ <;> rw [h.still.group] <;> rfl
  case fires =>
    rintro at_ p v r z i s u rfl ha hr hz harmed hi
    exact congrArg Host.Outcome.next (groupFire_armed ha hr hz harmed hi)
  case fireRefused =>
    rintro at_ p v r z s u rfl ha hr hz hnot
    exact congrArg Host.Outcome.next (groupFire_refused ha hr hz hnot)
  case hears =>
    rintro at_ x sender hdr m mac s u rfl hx hport hruns hup hver hlen hnew hmsg hgroup hin horigin hgen hset hmode
    have h := groupReceive_arm (sender := sender) (hdr := hdr) (mac := mac) hx hport hruns hup hver hlen hnew hmsg hgroup
      hin horigin hgen hset hmode
    refine ⟨_, rfl, ?_, ?_, ?_, ?_, ?_, h.groupSide⟩ <;> rw [h.still.group] <;> rfl
  case badHmac =>
    rintro at_ x sender hdr m mac k good s u rfl hx hport hruns hkey hbad
    have h := groupReceive_badHmac (sender := sender) (good := good) hx hport hruns hkey hbad
    exact ⟨_, rfl, h.group, { h with group := rfl, flash := h.flash, boot := h.boot }⟩
  case repeats =>
    rintro at_ x s u rfl honly hdue
    have h := sendRepeat_still x { s.tick at_ with group.repeats := laterRepeat x }
    exact ⟨_, congrArg Host.Outcome.next (groupRepeat_due honly hdue), h.group,
      { h with group := rfl, flash := h.flash, boot := h.boot }⟩
  case badCrc =>
    rintro at_ x a b c d sender hdr m mac s u rfl hx
    exact ⟨congrArg Host.Outcome.next (groupAck_badCrc hx), congrArg Host.Outcome.next (groupReceive_badCrc hx)⟩
  case acked =>
    rintro at_ x a b c d s u rfl hx hup
    exact congrArg Host.Outcome.next (groupAck_taken hx hup)
  case decides =>
    rintro at_ b s u rfl hkept hbest hdue
    exact congrArg Host.Outcome.next (oneShot_due hkept hbest hdue)
  case early =>
    rintro at_ b s u rfl hkept hbest hearly
    exact congrArg Host.Outcome.next (oneShot_early hkept hbest hearly)
  case reports =>
    rintro at_ s u rfl hsent
    have h := firesReport_reports hsent
    exact ⟨_, rfl, h.group, { h with group := rfl, flash := h.flash, boot := h.boot }⟩

end Sys2Proof.Machine
end

section
/-! SUPPORT. The sequencers (09 R225 to R231): where each of them stands after an evaluation, what arming and disarming make of
them, and what none of this touches. -/

namespace Sys2Proof.Machine

/-! ### Where the sequencers stand -/

/-- Where a sequencer stands: its state, and the next index that it evaluates. -/
def seqPlace (s : State) (k : Nat) : Nat × Nat := ((seqr s k).state, (seqr s k).next)

/-- The sequencers have come to stand at `f`; the configuration, device time and the channels are as before. -/
structure SeqPlaces (f : Nat → Nat × Nat) (s t : State) : Prop where
  cfg : t.cfg = s.cfg
  time : t.time = s.time
  chans : t.chans = s.chans
  place : seqPlace t = f

section
variable {s0 s t : State} {f : Nat → Nat × Nat} {k i : Nat}

@[simp] theorem seqr_setSeqr_self (k : Nat) (v : Seqr) (s : State) : seqr (setSeqr k v s) k = v :=
  (seqr_setSeqr ..).trans (if_pos rfl)

theorem seqr_setSeqr_ne {j : Nat} (h : j ≠ k) (v : Seqr) (s : State) : seqr (setSeqr k v s) j = seqr s j :=
  (seqr_setSeqr ..).trans (if_neg (Ne.symm h))

theorem seqPlace_setSeqr (k : Nat) (v : Seqr) (s : State) :
    seqPlace (setSeqr k v s) = Function.update (seqPlace s) k (v.state, v.next) := by
  funext j
  by_cases h : j = k
  · subst h
    simp [seqPlace]
  · simp [seqPlace, seqr_setSeqr_ne h, Function.update_of_ne h]

theorem SeqPlaces.refl (s : State) : SeqPlaces (seqPlace s) s s := ⟨rfl, rfl, rfl, rfl⟩

/-- A step that leaves the sequencers. -/
theorem SeqPlaces.keep (h : SeqPlaces f s0 s) (hcfg : t.cfg = s.cfg) (htime : t.time = s.time)
    (hchans : t.chans = s.chans) (hseqs : t.trg.seqs = s.trg.seqs) : SeqPlaces f s0 t := by
  refine ⟨hcfg.trans h.cfg, htime.trans h.time, hchans.trans h.chans, Eq.trans ?_ h.place⟩
  unfold seqPlace seqr
  rw [hseqs]

theorem SeqPlaces.still (h : SeqPlaces f s0 s) (k : Still s t) : SeqPlaces f s0 t :=
  h.keep k.cfg k.time k.chans (congrArg Trg.seqs k.trg)

theorem SeqPlaces.sends (h : SeqPlaces f s0 s) (k : SendSide s t) : SeqPlaces f s0 t :=
  h.keep k.still.cfg k.still.time k.still.chans (congrArg Trg.seqs k.still.trg)

/-- A sequencer's record is written. -/
theorem SeqPlaces.set (h : SeqPlaces f s0 s) (v : Seqr) :
    SeqPlaces (Function.update f k (v.state, v.next)) s0 (setSeqr k v s) :=
  ⟨h.cfg, h.time, h.chans, by rw [seqPlace_setSeqr, h.place]⟩

/-- A sequencer's record is written, and it stands where it stood. -/
theorem SeqPlaces.stay (h : SeqPlaces f s0 s) {v : Seqr} (hstate : v.state = (seqr s k).state)
    (hnext : v.next = (seqr s k).next) : SeqPlaces f s0 (setSeqr k v s) := by
  have hset := h.set (k := k) v
  have hself : Function.update f k (v.state, v.next) = f := by
    rw [hstate, hnext, ← h.place]
    exact Function.update_eq_self ..
  rwa [hself] at hset

/-! ### Marks and fires (09 R227, R237, R242) -/

theorem requestWindow_still (m markId n : Nat) (s : State) : Still s (requestWindow m markId n s).1 := by
  unfold requestWindow
  extract_lets st lo e hits
  clear_value hits
  split
  · exact .refl s
  · cases hits with
    | nil =>
      dsimp only
      split
      · exact .refl s
      · exact setStream_still (.refl s)
    | cons h l => exact setStream_still (.refl s)

theorem requestAll_still (mask markId : Nat) (i : Int) (s : State) : Still s (requestAll mask markId i s).1 := by
  unfold requestAll
  exact List.foldlRecOn _ _ (motive := fun a : State × List (Nat × Nat) => Still s a.1) (.refl s)
    fun a h n _ => h.trans (requestWindow_still (indexFloor a.1 n i) markId n a.1)

theorem addedMark_places {b : Bookmark} (h : SeqPlaces f s0 s) : SeqPlaces f s0 (addMark_ b s) := h.keep rfl rfl rfl rfl

theorem completeMark_places {id fire capture : Nat} (h : SeqPlaces f s0 s) :
    SeqPlaces f s0 (completeMark id fire capture s) := h.keep rfl rfl rfl rfl

theorem markInstant_places {kind channel fireId origin streams caps : Nat} {i : Int} (h : SeqPlaces f s0 s) :
    SeqPlaces f s0 (markInstant kind channel fireId origin streams caps i s) := by
  unfold markInstant
  exact List.foldlRecOn _ _ (motive := SeqPlaces f s0) (h.still (requestAll_still ..)) fun _ ht _ _ => addedMark_places ht

theorem dropFire_places {reason port origin : Nat} (h : SeqPlaces f s0 s) :
    SeqPlaces f s0 (dropFire reason port origin s) := by
  have hcounted : SeqPlaces f s0 { s with group.drops := s.group.drops.put reason (s.group.drops.get reason 0 + 1) } :=
    h.keep rfl rfl rfl rfl
  unfold dropFire
  dsimp only
  split
  · exact hcounted
  · exact hcounted.still (raiseOrig_still (.refl _))

theorem takeFire_places {port group gen origin channel fireId qual : Nat} {i : Int} (h : SeqPlaces f s0 s) :
    SeqPlaces f s0 (takeFire port group gen origin channel fireId i qual s).1 := by
  have hkept : SeqPlaces f s0 { s with group.best := some (i, origin, channel, fireId), group.bestPort := port } :=
    h.keep rfl rfl rfl rfl
  unfold takeFire
  dsimp only
  split
  · exact dropFire_places h
  · split
    · exact markInstant_places h
    · split
      · exact dropFire_places h
      · split
        · exact hkept
        · split
          · exact dropFire_places hkept
          · exact dropFire_places h

theorem fireAction_places {channel : Nat} {i : Int} (h : SeqPlaces f s0 s) :
    SeqPlaces f s0 (fireAction channel i s).1 := by
  have hfires (n : Nat) : SeqPlaces f s0 { s with group.fires := n } := h.keep rfl rfl rfl rfl
  unfold fireAction
  split
  · exact h.keep rfl rfl rfl rfl
  · exact takeFire_places ((hfires _).sends (originate_sendSide (.refl _)))

/-! ### Mask tests (09 R231) -/

theorem setMask_places {m : Nat} {v : MaskT} (h : SeqPlaces f s0 s) : SeqPlaces f s0 (setMask m v s) :=
  h.keep rfl rfl rfl rfl

/-- A violation may set what halts a sequencer, and never where it stands. -/
theorem maskStep_places {n m : Nat} {l : List Sample} (h : SeqPlaces f s0 s) : SeqPlaces f s0 (maskStep n i m l s) := by
  unfold maskStep
  extract_lets
  split
  · exact h
  · split
    · extract_lets
      split
      · exact (setMask_places h).stay rfl rfl
      · exact setMask_places h
    · exact h

theorem compareAll_places {n m : Nat} {l : List (Nat × List Sample)} (h : SeqPlaces f s0 s) :
    SeqPlaces f s0 (compareAll n m l s) :=
  List.foldlRecOn _ _ (motive := SeqPlaces f s0) h fun _ ht _ _ => maskStep_places ht

theorem maskEnded_places {m : Nat} (h : SeqPlaces f s0 s) : SeqPlaces f s0 (maskEnded m s) := by
  unfold maskEnded
  split
  · exact h
  · exact (setMask_places h).still (raise_still (.refl _))

theorem maskStart_places {n seq m : Nat} (h : SeqPlaces f s0 s) : SeqPlaces f s0 (maskStart n seq i m s) := by
  unfold maskStart
  dsimp only
  split
  · exact h.still (raise_still (.refl s))
  · split
    · exact compareAll_places (setMask_places h)
    · exact maskEnded_places (compareAll_places (setMask_places h))

/-! ### An evaluation (09 R225 to R227) -/

/-- Counters and timers move, the sequencer does not. -/
theorem countersAfter_place (s : State) (k i w : Nat) :
    (countersAfter s k i w).state = (seqr s k).state ∧ (countersAfter s k i w).next = (seqr s k).next := by
  unfold countersAfter
  dsimp only
  simp only [apply_ite Seqr.state, apply_ite Seqr.next, ite_self, and_self]

theorem markActions_places {halt : Bool} {from_ w : Nat} {met : List (Nat × Nat × CondView)} {x : Nat × Nat × CondView}
    (h : SeqPlaces f s0 s) : SeqPlaces f s0 (markActions k i halt from_ w met x s) := by
  unfold markActions
  extract_lets n mark v quiet channel id flags base waits holdoff marked fired asked
  have hmarked : SeqPlaces f s0 marked := by
    unfold marked
    split
    · exact h.stay rfl rfl
    · split
      · exact (addedMark_places h).stay rfl rfl
      · exact h
  have hfired : SeqPlaces f s0 fired.1 := by
    unfold fired
    split
    · exact fireAction_places hmarked
    · exact hmarked
  have hasked : SeqPlaces f s0 asked.1 := by
    unfold asked
    split
    · exact hfired.still (requestAll_still ..)
    · exact hfired
  split
  · exact completeMark_places hasked
  · exact hasked

theorem haltMark_places {m from_ : Nat} {met : List (Nat × Nat × CondView)} (h : SeqPlaces f s0 s) :
    SeqPlaces f s0 (haltMark k i m met from_ s) := (addedMark_places h).stay rfl rfl

/-- The state that a sequencer enters at a sample: that of the first transition that it may take, or its own. -/
def stateAfter (s : State) (k i : Nat) : Nat :=
  match takeable s k i with
  | [] => (seqr s k).state
  | x :: _ => bits 23 20 (transWord s k x.1)

/-- An evaluation moves its own sequencer to the next index and the state that follows, and no other. -/
theorem seqStep_places (k i : Nat) (s : State) :
    SeqPlaces (Function.update (seqPlace s) k (stateAfter s k i, i + 1)) s (seqStep k i s) := by
  unfold seqStep
  extract_lets met from_ moved halted
  have hmoved : SeqPlaces (Function.update (seqPlace s) k (stateAfter s k i, (seqr s k).next)) s moved := by
    unfold moved stateAfter
    cases hmet : takeable s k i with
    | nil =>
      rw [show met = [] from hmet]
      exact (Function.update_eq_self k (seqPlace s)).symm ▸ SeqPlaces.refl s
    | cons x l =>
      rw [show met = x :: l from hmet]
      dsimp -zeta only
      extract_lets w counted started halt marked
      obtain ⟨hstate, hnext⟩ := countersAfter_place s k i w
      have hcounted : SeqPlaces (seqPlace s) s counted := (SeqPlaces.refl s).stay hstate hnext
      have hstarted : SeqPlaces (seqPlace s) s started := by
        unfold started
        split
        · exact maskStart_places hcounted
        · exact hcounted
      have hmarked : SeqPlaces (seqPlace s) s marked := markActions_places hstarted
      have hplace : (seqr marked k).next = (seqr s k).next := congrArg Prod.snd (congrFun hmarked.place k)
      rw [← hplace]
      exact hmarked.set
        { seqr marked k with state := bits 23 20 w, run := if bit 8 w then 2 else (seqr marked k).run }
  have hhalted : SeqPlaces (Function.update (seqPlace s) k (stateAfter s k i, (seqr s k).next)) s halted := by
    unfold halted
    split
    · exact hmoved
    · split
      · extract_lets marked_ recorded
        have hrecorded : SeqPlaces (Function.update (seqPlace s) k (stateAfter s k i, (seqr s k).next)) s recorded := by
          unfold recorded
          split
          · exact hmoved
          · exact haltMark_places hmoved
        exact hrecorded.stay rfl rfl
      · exact hmoved
  have hplace : (seqr halted k).state = stateAfter s k i :=
    (congrArg Prod.fst (congrFun hhalted.place k)).trans (by rw [Function.update_self])
  have hlast := hhalted.set (k := k) { seqr halted k with next := i + 1, pend := false }
  rwa [Function.update_idem, hplace] at hlast

/-- Without a transition to take, and with nothing to halt it, only the next index moves. -/
theorem seqStep_idle (hmet : takeable s k i = []) (hhalt : (seqr s k).haltAt = none) :
    seqStep k i s = setSeqr k { seqr s k with next := i + 1, pend := false } s := by
  unfold seqStep
  simp only [hmet, hhalt]

/-- An evaluation ends the wait for the index at which the host armed the sequencer. -/
theorem seqStep_pend (k i : Nat) (s : State) : (seqr (seqStep k i s) k).pend = false := by
  unfold seqStep
  dsimp only
  rw [seqr_setSeqr_self]

/-! ### What no sequencer needs any more goes (09 R222, R225) -/

/-- Beside reports and folios nothing but logs of conditions and masks and the edges kept differs. -/
def TrimSide (s t : State) : Prop :=
  Still { s with trg := { s.trg with conds := t.trg.conds, masks := t.trg.masks, edges := t.trg.edges } } t

theorem TrimSide.still (h : TrimSide s t) :
    Still { s with trg := { s.trg with conds := t.trg.conds, masks := t.trg.masks, edges := t.trg.edges } } t := h

theorem TrimSide.trans {a b c : State} (h : TrimSide a b) (k : TrimSide b c) : TrimSide a c := by
  have hb : Still { a with trg := { a.trg with conds := c.trg.conds, masks := c.trg.masks, edges := c.trg.edges } }
      { b with trg := { b.trg with conds := c.trg.conds, masks := c.trg.masks, edges := c.trg.edges } } :=
    { h.still with
      trg := congrArg (fun g => { g with conds := c.trg.conds, masks := c.trg.masks, edges := c.trg.edges }) h.still.trg
      flash := h.still.flash, boot := h.still.boot }
  exact hb.trans k.still

theorem Still.trimSide (h : Still s t) : TrimSide s t := by
  have e : { s with trg := { s.trg with conds := t.trg.conds, masks := t.trg.masks, edges := t.trg.edges } } = s := by
    rw [h.trg]
  unfold TrimSide
  rwa [e]

theorem TrimSide.trgSide (h : TrimSide s t) : TrgSide s t :=
  { h.still with trg := rfl, flash := h.still.flash, boot := h.still.boot }

theorem TrimSide.seqr_eq (h : TrimSide s t) (k : Nat) : seqr t k = seqr s k := by
  unfold seqr
  rw [h.still.trg]

theorem trimTrig_trimSide (n : Nat) (s : State) : TrimSide s (trimTrig n s) := by
  unfold trimTrig
  refine forAll_ind _ (fun _ _ h => h.trans (Still.refl _)) ?_
  refine forAll_ind _ (fun _ _ h => h.trans (Still.refl _)) ?_
  exact (setStream_still (.refl s)).trimSide

theorem trimEdges_trimSide (s : State) : TrimSide s (trimEdges s) := by
  unfold trimEdges
  dsimp only
  split <;> exact Still.refl _

/-- What follows an evaluation leaves the sequencers and the marks. -/
theorem evaluated_trimSide (n : Nat) (s : State) : TrimSide s (freeFolios n (trimEdges (trimTrig n s))) :=
  ((trimTrig_trimSide n s).trans (trimEdges_trimSide _)).trans (freeFolios_still (.refl _)).trimSide

/-- A sequencer that waits for no edge evaluates the next sample of its stream. -/
theorem evaluate_next (hrun : (seqr s k).run = 1) (hnext : nextSample s k = some i) (hevt : namesEvt s k = false) :
    evaluate k s = freeFolios (refStream s k) (trimEdges (trimTrig (refStream s k) (seqStep k i s))) := by
  unfold evaluate
  rw [if_neg (not_not_intro hrun), hnext]
  exact if_neg (by simp [hevt])

theorem evaluate_none (h : (seqr s k).run ≠ 1 ∨ nextSample s k = none) : evaluate k s = s := by
  unfold evaluate
  split
  · rfl
  · next hrun => rw [h.resolve_left hrun]

/-- After its stream has stopped a sequencer becomes IDLE, with an event (09 R230). -/
theorem seqIdle_stopped (hrun : (seqr s k).run ≠ 0)
    (hstopped : (stream s (refStream s k)).state = 0 ∨ (stream s (refStream s k)).state = 3)
    (hnone : nextSample s k = none) :
    Still (setSeqr k { seqr s k with run := 0, haltAt := none } s) (seqIdle k s) := by
  unfold seqIdle
  dsimp only
  rw [if_pos ⟨hrun, hstopped, hnone⟩]
  exact raise_still (.refl _)

/-! ### TRG_ARM (09 R229, R245) -/

/-- A packet that passes the twelve checks up to the alignment of its command is LATE where that is broken (13 R345). -/
theorem serveAt_unaligned {op : Nat} {p : Packet} {need : Req → State → Nat} {ok : Req → State → Bool} {v : Session}
    (aligned : Req → State → Bool) (body : Req → State → State) (h : Accepted op p need ok v s)
    (ha : aligned (request op p v s) (seenState p v s) = true) :
    receive op p (serveAt aligned op need ok body) s = refuse (mkReq op p v s) stLate (seenState p v s) := by
  obtain ⟨htakes, hlength, hsession, hmac, hjudged, hmajor, hminor, row, hrow, hdefined, hrole, hstage, hok, -⟩ := h
  have hseen : onSession v.id (fun x => { seeTag x p.tag with owed := (mkReq op p v s).tag :: x.owed })
      (onSession v.id (fun x => { x with lastPacket := s.now }) s) = seenState p v s := rfl
  have hreq : mkReq op p v (onSession v.id (fun x => { x with lastPacket := s.now }) s) = mkReq op p v s := rfl
  have hran : (if isLate (mkReq op p v s) (seenState p v s) = true then
      { mkReq op p v s with ranLate := true, ranAt := stampNow (seenState p v s), applyAt := none } else mkReq op p v s)
      = request op p v s := rfl
  unfold packetSession at hsession
  unfold receive serveAt passChecks
  rw [if_pos htakes]
  simp only [hlength, hsession, hmac, not_true_eq_false, if_false, Bool.false_eq_true, hrow, hreq, hseen, hdefined, hran]
  rw [if_neg (by omega), if_neg (by omega), if_neg (by simp [hmajor, hminor]), if_neg (not_not_intro hrole),
    if_neg (not_not_intro hstage), if_neg (not_not_intro hok), if_pos (by rw [ha, Bool.or_true])]

section
variable {p : Packet} {v : Session} {r : Req} {z : State}

section
variable (ha : Accepted 0x0600 p tableRole
    (fun r s => exactly 12 r s && decide (r.f 0 1 ≠ 0 ∧ r.f 1 1 ≤ 1) && zeroAt 2 2 r) v s) (hr : r = request 0x0600 p v s)
include ha hr

/-- One sequencer that may be armed stands at its first state and its stream's next sample, or at the index named. -/
theorem trgArm_single (hz : z = takenState p v s) (hone : seqMask (r.f 0 1) = [k])
    (htime : armLate r (seenState p v s) = false) (hmay : armRefused z k = false) :
    receive 0x0600 p trgArmServe s = answer r stOk []
      (armSeq (decide (r.f 1 1 = 1)) (if r.f 1 1 = 1 then r.f 4 8 else (stream z (refStream z k)).nNext) k z) := by
  unfold trgArmServe
  rw [serveAt_accepted _ _ ha (hr ▸ htime), ← hr, ← hz]
  simp only [hone, List.any_cons, List.any_nil, hmay, Bool.or_false, Bool.false_eq_true, if_false, forAll_cons, forAll_nil]

theorem trgArm_refused (hz : z = takenState p v s) (hbad : (seqMask (r.f 0 1)).any (armRefused z) = true)
    (htime : armLate r (seenState p v s) = false) : receive 0x0600 p trgArmServe s = refuse r stConflict z := by
  unfold trgArmServe
  rw [serveAt_accepted _ _ ha (hr ▸ htime), ← hr, ← hz]
  exact if_pos hbad

theorem trgArm_late (hlate : armLate r (seenState p v s) = true) : Still s (receive 0x0600 p trgArmServe s) := by
  unfold trgArmServe
  rw [serveAt_unaligned _ _ ha (hr ▸ hlate)]
  exact refuse_still (onSession_still (onSession_still (.refl s)))

end

/-! ### TRG_DISARM (09 R229, R231, R245) -/

/-- A sequencer that is disarmed. -/
def disarmed (v : Seqr) : Seqr := { v with run := 0, haltAt := none, pend := false }

/-- The tests of the masks of a list end. -/
def endTests (l : List Nat) (s : State) : State := forAll l (fun m s => setMask m { maskT s m with test := none } s) s

/-- The test of a mask is one that a sequencer of the list started. -/
def testOf (l : List Nat) (m : MaskT) : Bool := m.test.any fun x => decide (x.seq ∈ l)

/-- Nothing but sequencers and masks differs. -/
def ArmSide (s t : State) : Prop := t = { s with trg := { s.trg with seqs := t.trg.seqs, masks := t.trg.masks } }

theorem ArmSide.trans {a b c : State} (h : ArmSide a b) (k : ArmSide b c) : ArmSide a c := by
  unfold ArmSide at h k ⊢
  rw [h] at k
  exact k

theorem maskT_endTests (l : List Nat) (s : State) (j : Nat) :
    maskT (endTests l s) j = if j ∈ l then { maskT s j with test := none } else maskT s j := by
  induction l generalizing s with
  | nil => rfl
  | cons m l ih =>
    rw [show endTests (m :: l) s = endTests l (setMask m { maskT s m with test := none } s) from rfl, ih, maskT_setMask]
    by_cases h : m = j
    · subst h
      simp
    · simp [h, Ne.symm h]

theorem endTests_seqs (l : List Nat) (s : State) : (endTests l s).trg.seqs = s.trg.seqs := by
  unfold endTests
  refine forAll_ind (P := fun t => t.trg.seqs = s.trg.seqs) l (fun _ _ h => ?_) rfl
  exact h

theorem endTests_armSide (l : List Nat) (s : State) : ArmSide s (endTests l s) :=
  forAll_ind l (fun _ _ h => h.trans rfl) rfl

/-- Disarming writes one sequencer and ends the tests that it started. -/
theorem disarmSeq_eq (k : Nat) (s : State) : disarmSeq k s = endTests
    ((List.range 16).filter fun m => (maskT s m).test.any fun x => x.seq == k) (setSeqr k (disarmed (seqr s k)) s) := rfl

theorem disarmSeq_armSide (k : Nat) (s : State) : ArmSide s (disarmSeq k s) :=
  ArmSide.trans (b := setSeqr k (disarmed (seqr s k)) s) rfl (endTests_armSide _ _)

theorem seqr_disarmSeq (k j : Nat) (s : State) :
    seqr (disarmSeq k s) j = if k = j then disarmed (seqr s j) else seqr s j := by
  rw [disarmSeq_eq]
  unfold seqr
  rw [endTests_seqs]
  refine (seqr_setSeqr ..).trans ?_
  split
  · next h => rw [h]
  · rfl

theorem maskT_disarmSeq {m : Nat} (hm : m < 16) (k : Nat) (s : State) :
    maskT (disarmSeq k s) m = if testOf [k] (maskT s m) then { maskT s m with test := none } else maskT s m := by
  rw [disarmSeq_eq, maskT_endTests]
  simp only [List.mem_filter, List.mem_range, hm, true_and, testOf, List.mem_singleton]
  rfl

theorem disarmAll_armSide (l : List Nat) (s : State) : ArmSide s (forAll l disarmSeq s) :=
  forAll_ind l (fun k t h => h.trans (disarmSeq_armSide k t)) rfl

theorem seqr_disarmAll (l : List Nat) (s : State) (j : Nat) :
    seqr (forAll l disarmSeq s) j = if j ∈ l then disarmed (seqr s j) else seqr s j := by
  induction l generalizing s with
  | nil => rfl
  | cons k l ih =>
    rw [forAll_cons, ih, seqr_disarmSeq]
    by_cases h : k = j
    · subst h
      simp [disarmed]
    · simp [h, Ne.symm h]

theorem maskT_disarmAll {m : Nat} (hm : m < 16) (l : List Nat) (s : State) : maskT (forAll l disarmSeq s) m
    = if testOf l (maskT s m) then { maskT s m with test := none } else maskT s m := by
  induction l generalizing s with
  | nil => cases h : (maskT s m).test <;> simp [forAll_nil, testOf, h]
  | cons k l ih =>
    rw [forAll_cons, ih, maskT_disarmSeq hm]
    cases h : (maskT s m).test with
    | none => simp [testOf, h]
    | some x =>
      by_cases hk : x.seq = k
      · simp [testOf, h, hk]
      · simp [testOf, h, hk]

theorem mem_seqMask {j m : Nat} : j ∈ seqMask m ↔ j < 8 ∧ bit j m = true := by
  unfold seqMask
  rw [List.mem_filter, List.mem_range]

theorem trgDisarm_runs
    (ha : Accepted 0x0601 p tableRole (fun r s => exactly 4 r s && decide (r.f 0 1 ≠ 0) && zeroAt 1 3 r) v s)
    (hr : r = request 0x0601 p v s) (hz : z = takenState p v s) :
    Still (forAll (seqMask (r.f 0 1)) disarmSeq z) (receive 0x0601 p trgDisarmServe s) := by
  unfold trgDisarmServe
  rw [serve_accepted _ ha, ← hr, ← hz]
  exact answer_still (.refl _)

/-! ### TRG_MASK_LOAD (09 R231, R245) -/

section
variable (ha : Accepted 0x0603 p tableRole maskLoadOk v s) (hr : r = request 0x0603 p v s) (hz : z = takenState p v s)
include ha hr hz

/-- A whole load replaces the points of a mask that is not under test. -/
theorem maskLoad_whole (hk : k = r.f 0 1) (hidle : (maskT z k).test = none) (hwhole : r.f 1 1 = 0) :
    receive 0x0603 p maskLoadServe s = answer r stOk [] (jDone r [] (setMask k { maskT z k with
      loaded := true, loading := false, count := r.f 2 2 + 1
      points := putPoints 0 (packetPoints (r.params.drop 4)) [] } z)) := by
  subst hk
  unfold maskLoadServe
  rw [serve_accepted _ ha, ← hr, ← hz]
  dsimp only
  rw [if_neg (by rw [hidle]; decide), if_pos hwhole]

theorem maskLoad_refused (htest : (maskT z (r.f 0 1)).test.isSome = true) :
    receive 0x0603 p maskLoadServe s = refuse r stConflict z := by
  unfold maskLoadServe
  rw [serve_accepted _ ha, ← hr, ← hz]
  exact if_pos htest

end

end

end

/-- Settles O42: each command is its operation at the command's instant; an evaluation by where it leaves the sequencers. -/
theorem sequencers : Obligations.Sequencers := by
  unfold Obligations.Sequencers
  refine ⟨?evaluates, ?waits, ?nothing, ?idle, ?arms, ?conflict, ?late, ?disarms, ?loads, ?underTest⟩
  case evaluates =>
    rintro at_ k i s u rfl hrun hhalt hnext hevt
    have hplaces := seqStep_places k i (s.tick at_)
    have htrim := evaluated_trimSide (refStream (s.tick at_) k) (seqStep k i (s.tick at_))
    have hplace (x : Nat) := congrFun hplaces.place x
    refine ⟨_, congrArg Host.Outcome.next (evaluate_next hrun hnext hevt), ?_, ?_, ?_, fun x hx => ?_,
      htrim.still.cfg.trans hplaces.cfg, htrim.still.time.trans hplaces.time, htrim.still.chans.trans hplaces.chans⟩
    · rw [htrim.seqr_eq]
      exact congrArg Prod.snd ((hplace k).trans (Function.update_self ..))
    · rw [htrim.seqr_eq]
      exact seqStep_pend ..
    · rw [htrim.seqr_eq]
      exact congrArg Prod.fst ((hplace k).trans (Function.update_self ..))
    · rw [htrim.seqr_eq]
      have hother := (hplace x).trans (Function.update_of_ne hx ..)
      exact ⟨congrArg Prod.fst hother, congrArg Prod.snd hother⟩
  case waits =>
    rintro at_ k i s u rfl hrun hhalt hnext hevt hmet
    have htrim := evaluated_trimSide (refStream (s.tick at_) k) (seqStep k i (s.tick at_))
    have hmoved : TrgSide (s.tick at_) (seqStep k i (s.tick at_)) := by
      rw [seqStep_idle hmet hhalt]
      exact (TrgSide.refl _).put _
    refine ⟨_, congrArg Host.Outcome.next (evaluate_next hrun hnext hevt), ?_, fun x hx => ?_, ?_, ?_,
      hmoved.trans htrim.trgSide⟩
    · rw [htrim.seqr_eq, seqStep_idle hmet hhalt, seqr_setSeqr_self]
    · rw [htrim.seqr_eq, seqStep_idle hmet hhalt, seqr_setSeqr_ne hx]
    · rw [htrim.still.trg, seqStep_idle hmet hhalt]
      rfl
    · rw [htrim.still.trg, seqStep_idle hmet hhalt]
      rfl
  case nothing =>
    rintro at_ k s u rfl hnone
    exact congrArg Host.Outcome.next (evaluate_none hnone)
  case idle =>
    rintro at_ k s u rfl hrun hstopped hnone
    have h := seqIdle_stopped hrun hstopped hnone
    exact ⟨_, rfl, h.trg, { h with trg := rfl, flash := h.flash, boot := h.boot }⟩
  case arms =>
    rintro at_ p v r z k s u rfl ha hr hz hone htime hmay
    exact congrArg Host.Outcome.next (trgArm_single ha hr hz hone htime hmay)
  case conflict =>
    rintro at_ p v r z s u rfl ha hr hz hbad htime
    exact congrArg Host.Outcome.next (trgArm_refused ha hr hz hbad htime)
  case late =>
    rintro at_ p v r z s u rfl ha hr hz hlate
    have h := trgArm_late ha hr hlate
    exact ⟨_, rfl, h, h.trg⟩
  case disarms =>
    rintro at_ p v r z s u rfl ha hr hz
    have h := trgDisarm_runs ha hr hz
    have harm := disarmAll_armSide (seqMask (r.f 0 1)) z
    refine ⟨_, rfl, fun k hk => ?_, fun m hm => ?_, ?_, ?_, ?_⟩
    · unfold seqr
      rw [h.trg]
      refine (seqr_disarmAll ..).trans ?_
      simp only [mem_seqMask, hk, true_and]
      rfl
    · unfold maskT
      rw [h.trg]
      refine (maskT_disarmAll hm ..).trans ?_
      simp only [testOf, mem_seqMask, Bool.decide_and, Bool.decide_eq_true]
      rfl
    · rw [h.trg, harm]
    · rw [h.trg, harm]
    · rw [harm] at h
      exact { h with trg := rfl, flash := h.flash, boot := h.boot }
  case loads =>
    rintro at_ p v r z k s u rfl ha hr hz hk hidle hwhole
    exact congrArg Host.Outcome.next (maskLoad_whole ha hr hz hk hidle hwhole)
  case underTest =>
    rintro at_ p v r z s u rfl ha hr hz htest
    exact congrArg Host.Outcome.next (maskLoad_refused ha hr hz htest)

end Sys2Proof.Machine
end

section
/-! SUPPORT. Of the store, reports change no more than RING2, RING3 and the folios that wait for them (10 R256, R267), and a
reply changes nothing. -/

namespace Sys2Proof.Machine

/-- Of the store nothing but RING2, RING3 and the folios that wait for them differs. -/
def RingFolios (s t : State) : Prop := t.store = { s.store with
  ring2 := t.store.ring2, ring3 := t.store.ring3, wait2 := t.store.wait2, wait3 := t.store.wait3 }

section
variable {s0 s t : State}

theorem RingFolios.refl (s : State) : RingFolios s s := rfl

theorem RingFolios.trans {a b c : State} (h : RingFolios a b) (k : RingFolios b c) : RingFolios a c := by
  unfold RingFolios at h k ⊢
  rw [h] at k
  exact k

theorem RingFolios.of_store (h : t.store = s.store) : RingFolios s t := by unfold RingFolios; rw [h]

theorem RingFolios.stream_eq (h : RingFolios s t) (n : Nat) : stream t n = stream s n := by
  unfold stream; rw [h]

theorem RingFolios.eccTimes (h : RingFolios s t) : t.store.eccTimes = s.store.eccTimes := by rw [h]

theorem RingFolios.uncorrectable (h : RingFolios s t) : t.store.uncorrectable = s.store.uncorrectable := by rw [h]

theorem RingFolios.shareMode (h : RingFolios s t) : t.store.shareMode = s.store.shareMode := by rw [h]

theorem ite_ringFolios {c : Prop} [Decidable c] {a b : State} (ha : RingFolios s0 a) (hb : RingFolios s0 b) :
    RingFolios s0 (if c then a else b) := by split <;> assumption

theorem foldl_ringFolios {α : Type} {f : State → α → State} (l : List α) (hf : ∀ x t, RingFolios t (f t x))
    (h : RingFolios s0 s) : RingFolios s0 (l.foldl f s) :=
  List.foldlRecOn l f (motive := RingFolios s0) h fun t ht x _ => ht.trans (hf x t)

/-! ### Events and faults (16 R413 to R418) -/

theorem put2_ringFolios {ft n : Nat} {b : List Byte} (h : RingFolios s0 s) : RingFolios s0 (put2 ft n b s) :=
  h.trans (ite_ringFolios rfl rfl)

theorem put3_ringFolios {ft n : Nat} {b : List Byte} (h : RingFolios s0 s) : RingFolios s0 (put3 ft n b s) :=
  h.trans (ite_ringFolios rfl rfl)

theorem setFault_ringFolios {e : FaultEntry} (h : RingFolios s0 s) : RingFolios s0 (setFault e s) := h

theorem addCause_ringFolios {c x : Nat} (h : RingFolios s0 s) : RingFolios s0 (addCause c x s) := ite_ringFolios h h

theorem rootKeep_ringFolios {e : LogEntry} {v : Ev} (h : RingFolios s0 s) : RingFolios s0 (rootKeep e v s) :=
  ite_ringFolios h h

theorem keepLog_ringFolios {e : LogEntry} (h : RingFolios s0 s) : RingFolios s0 (keepLog e s) :=
  ite_ringFolios h (rootKeep_ringFolios h)

theorem keepWith_ringFolios {e : LogEntry} {v : Ev} (h : RingFolios s0 s) : RingFolios s0 (keepWith e v s) :=
  ite_ringFolios h (rootKeep_ringFolios h)

theorem logSet_ringFolios {e : LogEntry} {v : Ev} (h : RingFolios s0 s) : RingFolios s0 (logSet e v s) :=
  ite_ringFolios (ite_ringFolios h (rootKeep_ringFolios h)) (keepWith_ringFolios h)

theorem logClear_ringFolios {e : LogEntry} (h : RingFolios s0 s) : RingFolios s0 (logClear e s) :=
  ite_ringFolios h (keepLog_ringFolios h)

theorem issueRecord_ringFolios {ecode flags strm : Nat} {time b : List Byte} (h : RingFolios s0 s) :
    RingFolios s0 (issueRecord ecode flags strm time b s) := put2_ringFolios h

theorem issueAt_ringFolios {e : Ev} {ef lf k : Nat} {d time : List Byte} (h : RingFolios s0 s) :
    RingFolios s0 (issueAt e ef lf k d time s) := by
  have hissued : ∀ time, RingFolios s0 (issueRecord e.ecode ef e.stream time e.body s) :=
    fun _ => issueRecord_ringFolios h
  unfold issueAt
  refine ite_ringFolios (hissued _) (ite_ringFolios (ite_ringFolios (hissued _) (ite_ringFolios ?_ ?_)) ?_)
  · exact logClear_ringFolios (logSet_ringFolios (hissued _))
  · exact setFault_ringFolios (logSet_ringFolios (hissued _))
  · exact logSet_ringFolios (hissued _)

theorem raiseRoot_ringFolios {e : Ev} (h : RingFolios s0 s) : RingFolios s0 (raiseRoot e s) :=
  ite_ringFolios (rootKeep_ringFolios h) (ite_ringFolios (rootKeep_ringFolios h) (logSet_ringFolios h))

theorem raiseCoalesced_ringFolios {e : Ev} (h : RingFolios s0 s) : RingFolios s0 (raiseCoalesced e s) := by
  unfold raiseCoalesced
  dsimp only
  split <;> exact h

theorem raise_ringFolios {e : Ev} (h : RingFolios s0 s) : RingFolios s0 (raise e s) := by
  have hcause : RingFolios s0
      (when_ (e.lasting && decide (faultCode e.ecode ≠ 0)) (addCause (faultCode e.ecode) e.subject) s) :=
    ite_ringFolios (addCause_ringFolios h) h
  exact ite_ringFolios (raiseRoot_ringFolios hcause)
    (ite_ringFolios (raiseCoalesced_ringFolios hcause) (issueAt_ringFolios hcause))

theorem raiseOnce_ringFolios {e : Ev} (h : RingFolios s0 s) : RingFolios s0 (raiseOnce e s) :=
  ite_ringFolios h (raise_ringFolios h)

/-! ### The journal (16 R405 to R410) -/

theorem jWrite_ringFolios {e : JEntry} (h : RingFolios s0 s) : RingFolios s0 (jWrite e s) :=
  ite_ringFolios h (ite_ringFolios h h)

theorem jMirror_ringFolios (h : RingFolios s0 s) : RingFolios s0 (jMirror s) :=
  ite_ringFolios (foldl_ringFolios _ (fun _ _ => put3_ringFolios (.refl _)) h) h

theorem jAppend_ringFolios {e : JEntry} (h : RingFolios s0 s) : RingFolios s0 (jAppend e s) :=
  ite_ringFolios h (ite_ringFolios (raiseOnce_ringFolios h) (jMirror_ringFolios (jWrite_ringFolios h)))

theorem jDone_ringFolios {r : Req} {reply : List Byte} (h : RingFolios s0 s) : RingFolios s0 (jDone r reply s) :=
  foldl_ringFolios _ (fun _ _ => jAppend_ringFolios (.refl _)) h

end

/-! ### Replies (13 R325) -/

theorem sendBytes_store (port : Nat) (src : List Byte) (sp : Nat) (b : List Byte) (s : State) :
    (sendBytes port src sp b s).store = s.store := by
  unfold sendBytes; split <;> rfl

theorem sendReply_store (v : Session) (r : Req) (st : Nat) (final : Bool) (body : List Byte) (s : State) :
    (sendReply v r st final body s).store = s.store :=
  List.foldlRecOn (motive := fun t : State => t.store = s.store) _ _ rfl
    fun t ht b _ => (sendBytes_store _ _ _ b t).trans ht

@[simp] theorem answer_store (r : Req) (st : Nat) (body : List Byte) (s : State) : (answer r st body s).store = s.store := by
  unfold answer replyTo
  split
  · rfl
  · unfold replyIn
    split
    · rfl
    · exact sendReply_store ..

@[simp] theorem refuse_store (r : Req) (st : Nat) (s : State) : (refuse r st s).store = s.store := answer_store ..

end Sys2Proof.Machine
end

section
/-! SUPPORT. A stream after a write, and what leaves the streams alone. -/

namespace Sys2Proof.Machine

@[simp] theorem stream_setStream_self (n : Nat) (v : Stream) (s : State) : stream (setStream n v s) n = v :=
  (stream_setStream ..).trans (if_pos rfl)

theorem stream_setStream_ne {n m : Nat} (h : m ≠ n) (v : Stream) (s : State) : stream (setStream n v s) m = stream s m :=
  (stream_setStream ..).trans (if_neg h.symm)

theorem ChansOnly.stream_eq {s t : State} (h : ChansOnly s t) (n : Nat) : stream t n = stream s n := by
  unfold stream; rw [h.store]

theorem forAll_chansOnly {α : Type} {f : α → State → State} (l : List α) (hf : ∀ x t, ChansOnly t (f x t)) (s : State) :
    ChansOnly s (forAll l f s) :=
  forAll_ind (P := ChansOnly s) l (fun x t ht => ht.trans (hf x t)) (.refl s)

theorem useSlot_chansOnly (n : Nat) (key : Nat × Nat × Bool) (e : Int) (c : Nat) (s : State) :
    ChansOnly s (useSlot n key e c s) := by
  unfold useSlot
  dsimp only
  split <;> exact setChan_chansOnly ..

theorem rekeySlot_chansOnly (n r c : Nat) (s : State) : ChansOnly s (rekeySlot n r c s) := by
  unfold rekeySlot
  dsimp only
  split
  · exact .refl s
  · exact setChan_chansOnly ..

/-- Condition histories lie with the triggers. -/
theorem restartConds_eq (keep : Bool) (n : Nat) (s : State) :
    restartConds keep n s = { s with trg := (restartConds keep n s).trg } :=
  forAll_ind (P := fun t => t = { s with trg := t.trg }) _ (fun k t ht => by rw [ht]; rfl) rfl

end Sys2Proof.Machine
end

section
/-! SUPPORT. The commands of a stream, its first index and the end of its fade (10 R257, R263; 05 R138, R140). -/

namespace Sys2Proof.Machine

section
variable {p : Packet} {v : Session} {r : Req} {s z : State} {n : Nat}

/-! ### STREAM_START, STREAM_STOP, STREAM_FLUSH (10 R263) -/

section
variable (ha : Accepted 0x0700 p tableRole streamParamsOk v s) (hr : r = request 0x0700 p v s)
include ha hr

/-- A stream that nothing follows starts alone. -/
theorem streamStart_accepted {n0 : Nat} (hz : z = takenState p v s) (hn : n = r.f 0 1)
    (hn0 : n0 = if r.f 1 1 = 1 then r.f 4 8 else indexCeil z n (devNow z + (leadU : Int)))
    (htime : indexLate r (seenState p v s) = false) (hmay : startRefused z n n0 = false) (halone : dependents z n = []) :
    receive 0x0700 p startServe s = answer r stOk [] (jDone r [] (acceptStart n0 n z)) := by
  unfold startServe
  rw [serveAt_accepted _ _ ha (hr ▸ htime), ← hr, ← hz]
  simp only [← hn, ← hn0, hmay, halone, Bool.false_eq_true, if_false, forAll_cons, forAll_nil]

theorem streamStart_late (hlate : indexLate r (seenState p v s) = true) :
    receive 0x0700 p startServe s = refuse (mkReq 0x0700 p v s) stLate (seenState p v s) := by
  unfold startServe
  exact serveAt_unaligned _ _ ha (hr ▸ hlate)

end

section
variable (ha : Accepted 0x0701 p tableRole streamParamsOk v s) (hr : r = request 0x0701 p v s)
include ha hr

/-- A live stream without cover streams is given its last index. -/
theorem streamStop_accepted {k : Nat} (hz : z = takenState p v s) (hn : n = r.f 0 1)
    (htime : indexLate r (seenState p v s) = false) (hlive : live z n = true) (hfiltered : filtered z n = true)
    (hcovers : coversOf z n = [])
    (hk : (k : Int) = if r.f 1 1 = 1 then (r.f 4 8 : Int) else (indexCeil z n (devNow z + (leadU : Int)) : Int) - 1)
    (hbegun : (stream z n).n0 ≤ k) :
    receive 0x0701 p stopServe s
      = answer r stOk [] (jDone r [] (setStream n { stream z n with nLast := some k } z)) := by
  have hnot : ¬ (k : Int) < ((stream z n).n0 : Int) := by omega
  unfold stopServe
  rw [serveAt_accepted _ _ ha (hr ▸ htime), ← hr, ← hz]
  simp only [← hn, ← hk, hlive, hfiltered, hcovers, not_true_eq_false, or_self, if_false, if_neg hnot, List.filter_nil,
    forAll_cons, forAll_nil, Int.toNat_natCast]

theorem streamStop_late (hlate : indexLate r (seenState p v s) = true) :
    receive 0x0701 p stopServe s = refuse (mkReq 0x0701 p v s) stLate (seenState p v s) := by
  unfold stopServe
  exact serveAt_unaligned _ _ ha (hr ▸ hlate)

end

theorem streamFlush_accepted
    (ha : Accepted 0x0702 p tableRole (fun r s => exactly 4 r s && decide (r.f 0 4 % 16 = 0)) v s)
    (hr : r = request 0x0702 p v s) (hz : z = takenState p v s) :
    receive 0x0702 p flushServe s
      = answer r stOk [] (forAll (streamList.filter fun n => bit n (r.f 0 4)) (closeOpen · false) z) := by
  unfold flushServe
  rw [serve_accepted _ ha, ← hr, ← hz]

/-- A packet that is LATE has been seen, and nothing else. -/
theorem refuse_seenState (q : Req) (st : Nat) :
    Still s (refuse q st (seenState p v s)) ∧ (refuse q st (seenState p v s)).store = s.store :=
  ⟨refuse_still (onSession_still (onSession_still (.refl s))), refuse_store ..⟩

/-! ### The first index (10 R257) -/

theorem streamRunning_alone (hstarting : (stream s n).state = 1)
    (hdue : (((stream s n).n0 * periodOf s n : Nat) : Int) ≤ devNow s) (halone : dependents s n = []) :
    streamRunning n s = beginRun n s := by
  unfold streamRunning
  rw [if_pos ⟨hstarting, hdue⟩, halone]
  rfl

/-- A stream that is STARTING runs with the response of its block, and the record of its start falls due. -/
theorem beginRun_starting (h : (stream s n).state = 1) : ∃ (d : DiscRec) (g : Trg) (t : State),
    ChansOnly (setStream n { stream s n with state := 2, response := cf s 0x0301 (sourceOf s n) 0 3 0 } s) t
      ∧ beginRun n s = { dueDisc n d t with trg := g } := by
  unfold beginRun
  dsimp only
  rw [if_neg (not_not_intro h)]
  refine ⟨_, _, _, ?_, restartConds_eq ..⟩
  split
  · exact forAll_chansOnly _ (fun c t => useSlot_chansOnly _ _ _ c t) _
  · exact .refl _

/-! ### The end of a fade (05 R138) -/

/-- A fade that is over and holds no change leaves the new response, and gives the slots its key. -/
theorem fadeEnd_over {f : Fade} (hfade : (stream s n).fade = some f) (hover : sincTime (fadeOver s n f) ≤ devNow s)
    (hheld : (stream s n).held = none) :
    ChansOnly (setStream n { stream s n with response := f.to_, fade := none } s) (fadeEnd n s) := by
  unfold fadeEnd
  simp only [hfade, hheld, if_neg (Int.not_lt.2 hover), Option.filter_none]
  exact forAll_chansOnly _ (fun c t => rekeySlot_chansOnly _ _ c t) _

end

/-- Settles O38: each command is its operation at the command's instant; a start, the first index and the end of a fade by
what they write of the stream. -/
theorem streamCommands : Obligations.StreamCommands := by
  unfold Obligations.StreamCommands
  refine ⟨?starts, ?runs, ?stops, ?startLate, ?stopLate, ?flushes, ?fadeEnds⟩
  case starts =>
    rintro at_ p v r z n n0 s u rfl ha hr hz hn hn0 htime hmay halone
    have hrun := streamStart_accepted ha hr hz hn hn0 htime hmay halone
    have hreport : RingFolios (acceptStart n0 n z) (answer r stOk [] (jDone r [] (acceptStart n0 n z))) :=
      (jDone_ringFolios (.refl _)).trans (.of_store (answer_store ..))
    have hstill : Still z (answer r stOk [] (jDone r [] (acceptStart n0 n z))) :=
      answer_still (jDone_still (setStream_still (.refl z)))
    have hself := (hreport.stream_eq n).trans (stream_setStream_self ..)
    refine ⟨_, congrArg Host.Outcome.next hrun, ?_, ?_, ?_, ?_, ?_, fun m hm => ?_,
      { hstill with chans := rfl, flash := hstill.flash, boot := hstill.boot }⟩
    · rw [hself]
    · rw [hself]
    · rw [hself]
    · rw [hself]
    · rw [hself]
    · exact (hreport.stream_eq m).trans (stream_setStream_ne hm ..)
  case runs =>
    rintro at_ n s u rfl hstarting hdue halone
    obtain ⟨d, g, t, hslots, hrun⟩ := beginRun_starting hstarting
    have hwas := (hslots.stream_eq n).trans (stream_setStream_self ..)
    have hself : stream { dueDisc n d t with trg := g } n = { stream t n with discs := (stream t n).discs ++ [d] } :=
      stream_setStream_self ..
    rw [hwas] at hself
    refine ⟨_, congrArg Host.Outcome.next ((streamRunning_alone hstarting hdue halone).trans hrun), ?_, ?_, ?_,
      fun m hm => ?_, hslots.still.cfg, hslots.still.time⟩
    · rw [hself]
    · rw [hself]
    · rw [hself]
    · calc stream (dueDisc n d t) m
        _ = stream t m := stream_setStream_ne hm ..
        _ = stream (s.tick at_) m := (hslots.stream_eq m).trans (stream_setStream_ne hm ..)
  case stops =>
    rintro at_ p v r z n k s u rfl ha hr hz hn htime hlive hfiltered hcovers hk hbegun
    exact congrArg Host.Outcome.next (streamStop_accepted ha hr hz hn htime hlive hfiltered hcovers hk hbegun)
  case startLate =>
    rintro at_ p v r z s u rfl ha hr hz hlate
    exact ⟨_, congrArg Host.Outcome.next (streamStart_late ha hr hlate), refuse_seenState ..⟩
  case stopLate =>
    rintro at_ p v r z s u rfl ha hr hz hlate
    exact ⟨_, congrArg Host.Outcome.next (streamStop_late ha hr hlate), refuse_seenState ..⟩
  case flushes =>
    rintro at_ p v r z s u rfl ha hr hz
    exact congrArg Host.Outcome.next (streamFlush_accepted ha hr hz)
  case fadeEnds =>
    rintro at_ n f s u rfl hfade hover hheld
    have h := fadeEnd_over hfade hover hheld
    exact ⟨_, rfl, (h.stream_eq n).trans (stream_setStream_self ..), fun m hm =>
      (h.stream_eq m).trans (stream_setStream_ne hm ..), h.still.cfg, h.still.time, h.still.trg⟩

end Sys2Proof.Machine
end

section
/-! SUPPORT. Staging reads, scrubs and the loss of the LPDDR5 store (10 R264, R265, R268). -/

namespace Sys2Proof.Machine

section
variable {s : State} {r seq : Nat} {f : Folio}

/-! ### Reads and scrubs (10 R264, R265) -/

/-- Which ring leaves by a link is configuration. -/
theorem Still.offRing_eq {t : State} (h : Still s t) (r : Nat) : offRing t r = offRing s r := by
  unfold offRing transport cf word
  rw [h.cfg, h.safe]

/-- A folio in which no codeword is beyond correction is staged. -/
theorem stageRead_corrected (k : Nat) (hfolio : folioOf s r seq = some f) (hclean : f.ecc = []) :
    stageRead r seq k [] s = setRingQ r ((ringQ s r).onSeq seq fun x => { x with staged := true, ecc := [] })
      { s with store.corrected := (s.store.corrected + k) % 2 ^ 32 } := by
  have hkept : folioOf { s with store.corrected := (s.store.corrected + k) % 2 ^ 32 } r seq = some f := hfolio
  unfold stageRead
  simp only [hfolio, hclean, List.filter_nil, List.length_nil, List.append_nil, List.eraseDups_nil, countEcc, if_true,
    hkept, ne_eq, not_true_eq_false, if_false, List.isEmpty_nil]
  rfl

/-- A host ring's folio is staged and waits for its ring. -/
theorem stageAndSend_ring (k : Nat) (hfolio : folioOf s r seq = some f) (hclean : f.ecc = []) (hhost : offRing s r = false) :
    stageAndSend r seq k [] s = setRingQ r ((ringQ s r).onSeq seq fun x => { x with staged := true, ecc := [] })
      { s with store.corrected := (s.store.corrected + k) % 2 ^ 32 } := by
  have hring : offRing (stageRead r seq k [] s) r = false := by
    rw [stageRead_corrected k hfolio hclean]
    exact ((setRingQ_still (still_upd _ _ _ _ _ _ (.refl s))).offRing_eq r).trans hhost
  unfold stageAndSend
  dsimp only
  rw [if_neg (by rw [hring]; exact Bool.false_ne_true)]
  exact stageRead_corrected k hfolio hclean

/-- A stream's folios are written as its own. -/
theorem setRingQ_stream (hr : 4 ≤ r) (q : FolioQ) : setRingQ r q s = setStream r { stream s r with q := q } s := by
  unfold setRingQ
  rw [if_neg (by omega), if_neg (by omega), if_neg (by omega)]

theorem ringQ_stream (hr : 4 ≤ r) : ringQ s r = (stream s r).q := by
  unfold ringQ
  rw [if_neg (by omega), if_neg (by omega)]

/-- The first uncorrectable codeword of a second is counted, with its event. -/
theorem countEcc_first (n : Nat) (hnone : s.store.eccTimes = []) : countEcc 1 n s = raise (ev 0x0A02 n)
    { s with store.uncorrectable := (s.store.uncorrectable + 1) % 2 ^ 32, store.eccTimes := [s.now] } := by
  unfold countEcc
  simp only [hnone, List.filter_nil, List.append_nil, List.replicate_one, List.length_singleton]
  rfl

/-- One codeword lies in one copy of a folio, so that the other copy still holds it. -/
theorem not_bothCopies (x : EccHit) : ¬ ([x].any (·.copy == 0) = true ∧ [x].any (·.copy == 1) = true) := by
  simp only [List.any_cons, List.any_nil, Bool.or_false, beq_iff_eq]
  omega

/-- The scrub of a pass has found a codeword beyond correction in a folio of a stream: it is recorded there and counted. -/
def scrubFound (r seq k : Nat) (x : EccHit) (s : State) : State :=
  { setStream r { stream s r with q := (stream s r).q.onSeq seq fun y => { y with ecc := y.ecc ++ [x] } } s with
    store.corrected := (s.store.corrected + k) % 2 ^ 32, store.scrubs := (s.store.scrubs + 1) % 2 ^ 32
    store.uncorrectable := (s.store.uncorrectable + 1) % 2 ^ 32, store.eccTimes := [s.now] }

/-- A scrub that finds the first such codeword of a folio and of the second reports it, and the store does not fail. -/
theorem scrub_first (k : Nat) (x : EccHit) (hfolio : folioOf s r seq = some f) (hclean : f.ecc = []) (hr : 4 ≤ r)
    (hnone : s.store.eccTimes = []) : scrub k [(r, seq, x)] s = raise (ev 0x0A02 r) (scrubFound r f.seq k x s) := by
  have hpass : folioOf { s with store.corrected := (s.store.corrected + k) % 2 ^ 32
                                store.scrubs := (s.store.scrubs + 1) % 2 ^ 32 } r seq = some f := hfolio
  unfold scrub
  simp only [List.foldl_cons, List.foldl_nil, hpass, hclean, List.contains_nil, Bool.false_eq_true, if_false, not_bothCopies,
    and_false, setRingQ_stream hr, ringQ_stream hr]
  refine (countEcc_first _ ?_).trans rfl
  exact hnone

/-! ### The store fails (10 R268) -/

/-- What LPDDR5 alone held is not among the folios that a stream keeps. -/
theorem lostFolio_keep {l : List Folio} {x : Folio} (hx : x ∈ l.filter fun f => !f.inLp || f.staged) :
    lostFolio x = false := by
  obtain helsewhere | hstaged := (Bool.or_eq_true _ _).mp (List.mem_filter.1 hx).2
  · have hlp : x.inLp = false := by simpa using helsewhere
    simp [lostFolio, hlp]
  · simp [lostFolio, hstaged]

/-- Nor is it among those around a folio put in its place. -/
theorem lostFolio_around {l : List Folio} {g : Folio} (hl : ∀ x ∈ l, lostFolio x = false) (hg : lostFolio g = false)
    (p q : Folio → Bool) : ∀ x ∈ l.filter p ++ [g] ++ l.filter q, lostFolio x = false := by
  intro x hx
  simp only [List.mem_append, List.mem_filter, List.mem_singleton] at hx
  obtain (⟨hx, -⟩ | rfl) | ⟨hx, -⟩ := hx
  · exact hl x hx
  · exact hg
  · exact hl x hx

/-- A stream that loses the store keeps no folio that LPDDR5 alone held; beside it only its ring goes back. -/
theorem loseStore_spec (n : Nat) (s : State) : ∃ (v : Stream) (g : HostPort),
    loseStore n s = { setStream n v s with host := g } ∧ ∀ x ∈ v.q.folios, lostFolio x = false := by
  have hkept : ∀ x ∈ (stream s n).q.folios.filter (fun f => !f.inLp || f.staged), lostFolio x = false :=
    fun _ => lostFolio_keep
  unfold loseStore
  dsimp only
  split
  · split
    · exact ⟨_, _, rfl, lostFolio_around hkept rfl _ _⟩
    · exact ⟨_, _, rfl, lostFolio_around hkept rfl _ _⟩
  · exact ⟨_, _, rfl, hkept⟩

end

theorem loseStore_still {s0 s : State} {n : Nat} (h : Still s0 s) : Still s0 (loseStore n s) := by
  obtain ⟨v, g, e, -⟩ := loseStore_spec n s
  rw [e]
  exact still_upd _ _ _ _ _ _ (setStream_still h)

/-- No folio of a stream is one that LPDDR5 alone held. -/
def KeepsNoLost (n : Nat) (s : State) : Prop := ((stream s n).q.folios.any lostFolio) = false

theorem loseStore_keepsNoLost (n : Nat) (s : State) : KeepsNoLost n (loseStore n s) := by
  obtain ⟨v, g, e, hv⟩ := loseStore_spec n s
  have hself : stream (loseStore n s) n = v := by rw [e]; exact stream_setStream_self ..
  unfold KeepsNoLost
  rw [hself, List.any_eq_false]
  exact fun x hx => by rw [hv x hx]; exact Bool.false_ne_true

theorem KeepsNoLost.loseStore {n m : Nat} {s : State} (h : KeepsNoLost n s) : KeepsNoLost n (loseStore m s) := by
  by_cases hm : n = m
  · exact hm ▸ loseStore_keepsNoLost n s
  · obtain ⟨v, g, e, -⟩ := loseStore_spec m s
    have hother : stream (Machine.loseStore m s) n = stream s n := by rw [e]; exact stream_setStream_ne hm ..
    unfold KeepsNoLost
    rwa [hother]

/-- What a step of a loop brings about and every step keeps holds after the loop. -/
theorem forAll_reaches {α : Type} {P : State → Prop} {f : α → State → State} {l : List α} {x : α} (hx : x ∈ l)
    (hdone : ∀ t, P (f x t)) (hkept : ∀ y t, P t → P (f y t)) (s : State) : P (forAll l f s) := by
  obtain ⟨a, b, rfl⟩ := List.append_of_mem hx
  have hsplit : forAll (a ++ x :: b) f s = forAll b f (f x (forAll a f s)) := List.foldl_append ..
  rw [hsplit]
  exact forAll_ind b hkept (hdone _)

/-- The streams are 4 to 31. -/
theorem mem_streamList {n : Nat} (hlow : 4 ≤ n) (hhigh : n < 32) : n ∈ streamList :=
  List.mem_map.2 ⟨n - 4, List.mem_range.2 (by omega), by omega⟩

theorem loseStore_shareMode (n : Nat) (s : State) : (loseStore n s).store.shareMode = s.store.shareMode := by
  obtain ⟨v, g, e, -⟩ := loseStore_spec n s
  rw [e]
  rfl

/-- The hub with LPDDR5 left for the fallback store and its shares. -/
def fallbackStore (s : State) : State := { s with boot.storeMode := 2, store.shareMode := true }

/-- The store that fails is left for the fallback, with an event, and every stream loses what it held there. -/
theorem storeFails_runs {s : State} (h : s.boot.storeMode = 1) : storeFails s = forAll streamList loseStore
    (raiseOnce (evL 0x0A01 0xFFFF) (fallbackStore s)) :=
  if_neg (not_not_intro h)

/-- Settles O40: each command is its operation at the command's instant; the loss of the store stream by stream. -/
theorem holdBackStore : Obligations.HoldBackStore := by
  unfold Obligations.HoldBackStore
  refine ⟨?reads, ?scrubs, ?finds, ?fails⟩
  case reads =>
    rintro at_ r seq k f s u rfl hfolio hclean hhost
    exact congrArg Host.Outcome.next (stageAndSend_ring k hfolio hclean hhost)
  case scrubs =>
    rintro at_ k s u rfl
    rfl
  case finds =>
    rintro at_ r seq x f s u rfl hfolio hclean hr hnone
    have hreport := raise_ringFolios (e := ev 0x0A02 r) (.refl (scrubFound r f.seq 0 x (s.tick at_)))
    refine ⟨_, congrArg Host.Outcome.next (scrub_first 0 x hfolio hclean hr hnone), hreport.uncorrectable, ?_,
      hreport.eccTimes, fun m hm => ?_, ?_⟩
    · exact congrArg Stream.q ((hreport.stream_eq r).trans (stream_setStream_self ..))
    · exact (hreport.stream_eq m).trans (stream_setStream_ne hm ..)
    · exact (raise_still (.refl (scrubFound r f.seq 0 x (s.tick at_)))).cfg
  case fails =>
    rintro at_ s u rfl hmode
    have hreport := raiseOnce_ringFolios (e := evL 0x0A01 0xFFFF) (.refl (fallbackStore (s.tick at_)))
    have hraised := raiseOnce_still (e := evL 0x0A01 0xFFFF) (.refl (fallbackStore (s.tick at_)))
    have hstill := forAll_still streamList (fun n t => loseStore_still (n := n) (.refl t)) hraised
    refine ⟨_, congrArg Host.Outcome.next (storeFails_runs hmode), ?_, ?_, fun n hhigh hlow => ?_, hstill.cfg,
      hstill.time, hstill.chans⟩
    · rw [hstill.boot_eq]
      rfl
    · exact forAll_ind (P := fun t => t.store.shareMode = true) _ (fun n t ht => (loseStore_shareMode n t).trans ht)
        hreport.shareMode
    · exact forAll_reaches (P := KeepsNoLost n) (mem_streamList hlow hhigh) (loseStore_keepsNoLost n)
        (fun _ _ ht => ht.loseStore) _

end Sys2Proof.Machine
end

section
/-! SUPPORT. The host port: what enabling RING1, a RESUME of RING0 and disabling a window leave that the statements about them do
not say (11 R284, R286, R288). -/

namespace Sys2Proof.Machine

/-- Refutes O11: the clause on EN claims, of every ring but RING0, that the ring alone changes; but enabling RING1 also makes
the reply in front start again in a fresh descriptor (11 R286), so what earlier descriptors hold of it is forgotten. The
counterexample: RING1 is DISABLED with 256 bytes of a reply of 512 sent. -/
theorem not_ringRegisters : ¬ Obligations.RingRegisters := by
  unfold Obligations.RingRegisters
  rintro ⟨-, -, henable, -⟩
  let s : State := { State.reset with
    boot := { (default : Boot) with fwRuns := true }
    host := { (default : HostPort) with linkUp := true, seenL0 := true, backlog := [List.replicate 512 0], replySent := 256 } }
  have hclaim := Host.Outcome.next.inj
    (henable 0 1 8 s (s.tick 0) rfl (by decide) (by decide) (by decide) (by decide) (by decide) (by decide) (by decide))
  have hfresh : (barWrite 0x1088 4 (2 ^ 31 + 65536 * 8) true (s.tick 0)).host.replySent = 0 := by decide
  exact absurd (hfresh.symm.trans (congrArg (·.host.replySent) hclaim)) (by decide)

/-- Refutes O12: the clause on accepted writes of 8 bytes claims that they act as their two halves, and leaves out that a write
at RING0's RESUME lets the packets go on that RING0 holds unread (11 R286, R292). The counterexample: RING0 is HALTED with
one packet unread; the RESUME, written with the 8 bytes at 0x1040, has it read. -/
theorem not_barAndTransfers : ¬ Obligations.BarAndTransfers := by
  unfold Obligations.BarAndTransfers
  rintro ⟨hhalves, -⟩
  let s : State := { State.reset with
    boot := { (default : Boot) with fwRuns := true }
    host := { (default : HostPort) with
      linkUp := true, seenL0 := true, busMaster := true, rings := [(0, { (default : Ring) with en := true, state := 2 })] }
    cz := { (default : Cuzan) with unread := [(0, default)] } }
  have hclaim := Host.Outcome.next.inj
    (hhalves 0 0x1040 1 (barWrite4 0x1040 1 (s.tick 0)) s (s.tick 0) rfl (by decide) (by decide) rfl (by decide) (by decide))
  have hread : (drainUnread (barWrite 0x1040 8 1 true (s.tick 0))).cz.unread = [] := by decide
  exact absurd (hread.symm.trans (congrArg (·.cz.unread) hclaim)) (by decide)

/-- Refutes O13: the clause on clearing EN claims that BUSY becomes what the command says, and leaves out that requests
translated before the window was enabled again may still be outstanding, so that BUSY stays (11 R288). The counterexample:
window 0, enabled again while BUSY, is disabled with none outstanding of those translated since. -/
theorem not_windowsAndLink : ¬ Obligations.WindowsAndLink := by
  unfold Obligations.WindowsAndLink
  rintro ⟨-, -, hdisable, -⟩
  let s : State := { State.reset with
    boot := { (default : Boot) with fwRuns := true }
    host := { (default : HostPort) with
      seenL0 := true, windows := [(0, { (default : Window) with en := true, busy := true, log2 := 12 })] } }
  have hclaim := Host.Outcome.next.inj (hdisable 0 0 false s (s.tick 0) rfl (by decide) (by decide) (by decide))
  have hbusy : (window (windowDisable 0 false (s.tick 0)) 0).busy = true := by decide
  exact absurd (hbusy.symm.trans (congrArg (fun t : State => (window t 0).busy) hclaim)) (by decide)

end Sys2Proof.Machine
end

section
/-! SUPPORT. Events and faults change the fault manager and the store's folios alone (16 R413 to R418). -/

namespace Sys2Proof.Machine

/-- Nothing but the fault manager and the store differs. -/
def EventSide (s t : State) : Prop := t = { s with faults := t.faults, store := t.store }

section
variable {s0 s t : State}

theorem EventSide.refl (s : State) : EventSide s s := rfl

theorem EventSide.trans {a b c : State} (h : EventSide a b) (k : EventSide b c) : EventSide a c := by
  unfold EventSide at h k ⊢
  rw [h] at k
  exact k

theorem EventSide.still (h : EventSide s t) : Still s t := by
  rw [h]
  exact still_upd _ _ _ _ _ _ (.refl s)

theorem EventSide.host (h : EventSide s t) : t.host = s.host := by rw [h]

theorem ite_eventSide {c : Prop} [Decidable c] {a b : State} (ha : EventSide s0 a) (hb : EventSide s0 b) :
    EventSide s0 (if c then a else b) := by split <;> assumption

theorem put2_eventSide {ft n : Nat} {b : List Byte} (h : EventSide s0 s) : EventSide s0 (put2 ft n b s) :=
  h.trans (ite_eventSide rfl rfl)

theorem pushLog_eventSide {e : LogEntry} (h : EventSide s0 s) : EventSide s0 (pushLog e s) := h.trans rfl

theorem setFault_eventSide {e : FaultEntry} (h : EventSide s0 s) : EventSide s0 (setFault e s) := h.trans rfl

theorem addCause_eventSide {c x : Nat} (h : EventSide s0 s) : EventSide s0 (addCause c x s) :=
  ite_eventSide h (setFault_eventSide h)

theorem rootKeep_eventSide {e : LogEntry} {v : Ev} (h : EventSide s0 s) : EventSide s0 (rootKeep e v s) :=
  h.trans (ite_eventSide rfl rfl)

theorem keepLog_eventSide {e : LogEntry} (h : EventSide s0 s) : EventSide s0 (keepLog e s) :=
  ite_eventSide (pushLog_eventSide h) (rootKeep_eventSide h)

theorem keepWith_eventSide {e : LogEntry} {v : Ev} (h : EventSide s0 s) : EventSide s0 (keepWith e v s) :=
  ite_eventSide (pushLog_eventSide h) (rootKeep_eventSide h)

theorem logSet_eventSide {e : LogEntry} {v : Ev} (h : EventSide s0 s) : EventSide s0 (logSet e v s) :=
  ite_eventSide (ite_eventSide (setFault_eventSide h) (rootKeep_eventSide (setFault_eventSide h)))
    (setFault_eventSide (keepWith_eventSide h))

theorem logClear_eventSide {e : LogEntry} (h : EventSide s0 s) : EventSide s0 (logClear e s) :=
  ite_eventSide (setFault_eventSide h) (setFault_eventSide (keepLog_eventSide h))

theorem clearCause_eventSide {ecode x : Nat} (h : EventSide s0 s) : EventSide s0 (clearCause ecode x s) :=
  ite_eventSide h (ite_eventSide (logClear_eventSide (setFault_eventSide h)) (setFault_eventSide h))

theorem issueRecord_eventSide {ecode flags strm : Nat} {time b : List Byte} (h : EventSide s0 s) :
    EventSide s0 (issueRecord ecode flags strm time b s) := (put2_eventSide h).trans rfl

theorem issueAt_eventSide {e : Ev} {ef lf k : Nat} {d time : List Byte} (h : EventSide s0 s) :
    EventSide s0 (issueAt e ef lf k d time s) := by
  have hissued := issueRecord_eventSide (ecode := e.ecode) (flags := ef) (strm := e.stream) (time := time) (b := e.body) h
  have hlisted {f : FaultEntry} := setFault_eventSide (e := f) hissued
  unfold issueAt
  refine ite_eventSide hissued (ite_eventSide (ite_eventSide hlisted (ite_eventSide ?_ ?_)) (logSet_eventSide hlisted))
  · exact logClear_eventSide (logSet_eventSide hlisted)
  · exact setFault_eventSide (logSet_eventSide hlisted)

theorem raiseRoot_eventSide {e : Ev} (h : EventSide s0 s) : EventSide s0 (raiseRoot e s) :=
  ite_eventSide (rootKeep_eventSide h)
    (ite_eventSide (rootKeep_eventSide (setFault_eventSide h)) (logSet_eventSide (setFault_eventSide h)))

theorem raiseCoalesced_eventSide {e : Ev} (h : EventSide s0 s) : EventSide s0 (raiseCoalesced e s) := by
  unfold raiseCoalesced
  dsimp only
  split <;> exact h.trans rfl

theorem raise_eventSide {e : Ev} (h : EventSide s0 s) : EventSide s0 (raise e s) := by
  have hcause : EventSide s0
      (when_ (e.lasting && decide (faultCode e.ecode ≠ 0)) (addCause (faultCode e.ecode) e.subject) s) :=
    ite_eventSide (addCause_eventSide h) h
  exact ite_eventSide (raiseRoot_eventSide hcause)
    (ite_eventSide (raiseCoalesced_eventSide hcause) (issueAt_eventSide hcause))

theorem raiseOnce_eventSide {e : Ev} (h : EventSide s0 s) : EventSide s0 (raiseOnce e s) :=
  ite_eventSide h (raise_eventSide h)

end

end Sys2Proof.Machine
end

section
/-! SUPPORT. The host port's link leaves DL_Active (11 R294): sessions close and rings halt, which touches images and reports and
no lane; and no reply brings the link back. -/

namespace Sys2Proof.Machine

/-- Beside reports nothing but flash differs, and the host port's link is up or down as before. -/
structure PortSide (s t : State) : Prop where
  still : Still { s with flash := t.flash } t
  linkUp : t.host.linkUp = s.host.linkUp

section
variable {s0 s t : State}

theorem PortSide.refl (s : State) : PortSide s s := ⟨.refl s, rfl⟩

theorem PortSide.trans {a b c : State} (h : PortSide a b) (k : PortSide b c) : PortSide a c where
  still := (h.still.onFlash c.flash).trans k.still
  linkUp := k.linkUp.trans h.linkUp

theorem Still.portSide (h : Still s t) (hlink : t.host.linkUp = s.host.linkUp) : PortSide s t :=
  ⟨h.flash_named (f := s.flash), hlink⟩

/-! ### Rings and sessions -/

theorem setRingQ_host (r : Nat) (q : FolioQ) (s : State) : (setRingQ r q s).host = s.host := by
  unfold setRingQ
  split
  · rfl
  · split
    · rfl
    · split <;> rfl

@[simp] theorem setRing_linkUp (r : Nat) (v : Ring) (s : State) : (setRing r v s).host.linkUp = s.host.linkUp := rfl

theorem signal_linkUp (v : Nat) (s : State) : (signal v s).host.linkUp = s.host.linkUp := by
  unfold signal
  dsimp only
  split <;> rfl

theorem haltRing_linkUp (r code offset addr : Nat) (s : State) :
    (haltRing r code offset addr s).host.linkUp = s.host.linkUp := by
  unfold haltRing
  extract_lets g q next queued halted fault told
  have hqueued : queued.host.linkUp = s.host.linkUp := congrArg HostPort.linkUp (setRingQ_host ..)
  have htold : told.host.linkUp = s.host.linkUp :=
    (congrArg HostPort.linkUp (raise_eventSide (.refl halted)).host).trans hqueued
  rw [signal_linkUp]
  unfold when_
  split
  · exact (signal_linkUp r told).trans htold
  · exact htold

theorem abandonFw_portSide (s : State) : PortSide s (abandonFw s) := by
  unfold abandonFw
  split
  · exact .refl s
  · dsimp only
    split <;> exact ⟨still_cz _ _, rfl⟩

theorem closeSession_portSide (id : Nat) (s : State) : PortSide s (closeSession id s) := by
  have hdropped : PortSide s (dropSession id (dropReplies id s)) :=
    ((dropReplies_still (.refl s)).trans (still_cz ..)).portSide rfl
  unfold closeSession endSession
  dsimp only
  split
  · exact hdropped
  · split
    · exact hdropped.trans (abandonFw_portSide _)
    · exact hdropped

/-- The host port's registers as the link goes down. -/
def downPort (s : State) : State :=
  { s with host := { s.host with linkUp := false, width := 0, gt := 0, replySent := 0 } }

theorem linkDown_portSide (s : State) : PortSide (downPort s) (linkDown s) := by
  unfold linkDown
  refine forAll_ind (P := PortSide (downPort s)) _ (fun id t ht => ht.trans (closeSession_portSide id t)) ?_
  refine forAll_ind (P := PortSide (downPort s)) _
    (fun r t ht => ht.trans ((haltRing_still (.refl t)).portSide (haltRing_linkUp ..))) ?_
  refine forAll_ind (P := PortSide (downPort s)) _ (fun r t ht => ht.trans (Still.portSide ?_ ?_)) (.refl _)
  · exact setRing_still (setRingQ_still (.refl t))
  · rw [setRing_linkUp, setRingQ_host]

@[simp] theorem linkDown_linkUp (s : State) : (linkDown s).host.linkUp = false := (linkDown_portSide s).linkUp
@[simp] theorem linkDown_cfg (s : State) : (linkDown s).cfg = s.cfg := (linkDown_portSide s).still.cfg
@[simp] theorem linkDown_time (s : State) : (linkDown s).time = s.time := (linkDown_portSide s).still.time
@[simp] theorem lane_linkDown (k : Nat) (s : State) : lane (linkDown s) k = lane s k := (linkDown_portSide s).still.lane_eq k

/-! ### Replies (13 R325) -/

theorem sendReply_linkUp (v : Session) (r : Req) (st : Nat) (final : Bool) (body : List Byte) (s : State) :
    (sendReply v r st final body s).host.linkUp = s.host.linkUp := by
  have hsent (port : Nat) (src : List Byte) (sp : Nat) (b : List Byte) (t : State) :
      (sendBytes port src sp b t).host.linkUp = t.host.linkUp := by unfold sendBytes; split <;> rfl
  exact List.foldlRecOn (motive := fun t : State => t.host.linkUp = s.host.linkUp) _ _ rfl
    fun t ht b _ => (hsent _ _ _ b t).trans ht

theorem refuseOr_linkUp (r : Req) (st : Nat) (s : State) : (refuseOr r st s).host.linkUp = s.host.linkUp := by
  unfold refuseOr answerOr
  split
  · unfold replyIn
    split
    · rfl
    · exact sendReply_linkUp ..
  · exact congrArg HostPort.linkUp (raise_eventSide (.refl s)).host

end

end Sys2Proof.Machine
end

section
/-! SUPPORT. A lane begins to train, comes UP, leaves service or goes deep (12 R301 to R305): what becomes of it, and that no other
lane changes. -/

namespace Sys2Proof.Machine

/-- What every step of a loop over the members of a list keeps, the loop keeps. -/
theorem forAll_ind_mem {α : Type} {P : State → Prop} {f : α → State → State} {l : List α}
    (hf : ∀ x ∈ l, ∀ t, P t → P (f x t)) {s : State} (h : P s) : P (forAll l f s) :=
  List.foldlRecOn l _ h fun t ht x hx => hf x hx t ht

section
variable {s0 s t : State} {l k : Nat}

theorem Still.word_eq (h : Still s t) (b inst off : Nat) : word t b inst off = word s b inst off := by
  unfold word
  rw [h.safe, h.cfg]

theorem Still.laneEn_eq (h : Still s t) (l : Nat) : laneEn t l = laneEn s l := by
  unfold laneEn cfBit
  rw [h.word_eq]

/-! ### A scan ends (12 R307) -/

theorem lane_dropScan_self (l : Nat) (s : State) : lane (dropScan l s) l = { lane s l with scan := none } :=
  ((dropScan_still l s).lane_eq l).trans (lane_setLane_self ..)

theorem lane_dropScan_ne (h : k ≠ l) (s : State) : lane (dropScan l s) k = lane s k :=
  ((dropScan_still l s).lane_eq k).trans (lane_setLane_ne h ..)

theorem dropScan_linkSide (l : Nat) (s : State) : LinkSide s (dropScan l s) :=
  (setLane_linkSide (.refl s)).trans (dropScan_still l s).linkSide

theorem dropScan_linkUp (l : Nat) (s : State) : (dropScan l s).host.linkUp = s.host.linkUp := by
  unfold dropScan
  dsimp only
  split
  · exact refuseOr_linkUp ..
  · rfl

/-- Where no scan runs, none ends. -/
theorem dropScan_idle (h : (lane s l).scan = none) : dropScan l s = setLane l (lane s l) s := by
  have hidle : { lane s l with scan := none } = lane s l := by rw [← h]
  unfold dropScan
  dsimp only
  rw [h]
  exact congrArg (setLane l · s) hidle

/-! ### Training (12 R303) -/

/-- A lane that begins to train. -/
def startedLane (l : Nat) (s : State) : Lane :=
  { lane s l with
    scan := none, state := if l = 4 ∨ l = 5 then 4 else 3, lock := false, rateNow := 0, ver := 0, loop := 0
    trainAttempts := ((lane s l).trainAttempts + 1) % 2 ^ 32, trainSince := s.now
    downSince := if (lane s l).state = 5 ∨ (lane s l).state = 0 then s.now else (lane s l).downSince
    rateSet := cf s 0x0A01 l 0x00 19 16, fecSet := cf s 0x0A01 l 0x00 9 8 }

theorem lane_startLane_self (l : Nat) (s : State) : lane (startLane l s) l = startedLane l s := by
  have hcf (hi lo : Nat) : cf (dropScan l s) 0x0A01 l 0x00 hi lo = cf s 0x0A01 l 0x00 hi lo :=
    congrArg (bits hi lo) ((dropScan_still l s).word_eq 0x0A01 l 0x00)
  have hnow : (dropScan l s).now = s.now := (dropScan_still l s).now
  unfold startLane startedLane
  dsimp only
  rw [lane_setLane_self, lane_dropScan_self, hcf, hcf, hnow]

theorem lane_startLane_ne (h : k ≠ l) (s : State) : lane (startLane l s) k = lane s k :=
  (lane_setLane_ne h ..).trans (lane_dropScan_ne h s)

/-- One lane of a link that begins to train. -/
def startIfEnabled (k : Nat) (s : State) : State :=
  if laneEn s k && decide ((lane s k).state ≠ 6) then startLane k s else s

/-- Beside the lanes an endpoint alone changes. -/
theorem startLink_spec (l : Nat) (s : State) :
    ∃ e, startLink l s = { forAll (linkLanes l) startIfEnabled s with skaing := e } := by
  unfold startLink
  dsimp only
  split <;> exact ⟨_, rfl⟩

theorem lane_startLink (l k : Nat) (s : State) : lane (startLink l s) k = lane (forAll (linkLanes l) startIfEnabled s) k := by
  obtain ⟨e, he⟩ := startLink_spec l s
  rw [he]
  rfl

theorem lane_startLink_ne (h : k ∉ linkLanes l) (s : State) : lane (startLink l s) k = lane s k := by
  rw [lane_startLink]
  refine forAll_ind_mem (P := fun t => lane t k = lane s k) (fun x hx t ht => ?_) rfl
  unfold startIfEnabled
  split
  · exact (lane_startLane_ne (fun e : k = x => h (e ▸ hx)) t).trans ht
  · exact ht

theorem linkLanes_single (hl : 4 ≤ l) : linkLanes l = [l] := if_neg (by omega)

theorem lane_startLink_other (hl : 4 ≤ l) (h : k ≠ l) (s : State) : lane (startLink l s) k = lane s k :=
  lane_startLink_ne (by rw [linkLanes_single hl]; exact fun e => h (List.mem_singleton.1 e)) s

theorem lane_startLink_self (hl : 4 ≤ l) (hen : laneEn s l = true) (hloop : (lane s l).state ≠ 6) :
    lane (startLink l s) l = startedLane l s := by
  rw [lane_startLink, linkLanes_single hl, forAll_cons, forAll_nil, startIfEnabled, if_pos (by simp [hen, hloop])]
  exact lane_startLane_self l s

theorem startLink_linkSide (l : Nat) (s : State) : LinkSide s (startLink l s) := by
  have hlanes : LinkSide s (forAll (linkLanes l) startIfEnabled s) := by
    refine forAll_ind (P := LinkSide s) _ (fun k t ht => ?_) (.refl s)
    unfold startIfEnabled
    split
    · exact ht.trans (startLane_spec k t).1
    · exact ht
  obtain ⟨e, he⟩ := startLink_spec l s
  rw [he]
  exact hlanes.trans (Still.refl _)

@[simp] theorem startLink_cfg (l : Nat) (s : State) : (startLink l s).cfg = s.cfg := (startLink_linkSide l s).still.cfg
@[simp] theorem startLink_time (l : Nat) (s : State) : (startLink l s).time = s.time := (startLink_linkSide l s).still.time

theorem startLink_linkUp (l : Nat) (s : State) : (startLink l s).host.linkUp = s.host.linkUp := by
  obtain ⟨e, he⟩ := startLink_spec l s
  rw [he]
  refine forAll_ind (P := fun t => t.host.linkUp = s.host.linkUp) _ (fun k t ht => ?_) rfl
  unfold startIfEnabled
  split
  · exact (dropScan_linkUp k t).trans ht
  · exact ht

/-! ### A link goes down (08 R202; 12 R305, R314) -/

/-- No lane changes where a link is lost: time loses its source, streams go back. -/
theorem linkLost_timeSide (old : State) (l : Nat) (s : State) : TimeSide s (linkLost old l s) := by
  unfold linkLost
  split
  · exact (loseSource_timeSide (.refl s)).trans (movedStreams_still (.refl _)).timeSide
  · exact (movedStreams_still (.refl s)).timeSide

theorem lane_linkLost (old : State) (l k : Nat) (s : State) : lane (linkLost old l s) k = lane s k :=
  (linkLost_timeSide old l s).still.lane_eq k

theorem linkLost_cfg (old : State) (l : Nat) (s : State) : (linkLost old l s).cfg = s.cfg :=
  (linkLost_timeSide old l s).still.cfg

theorem lane_dropLink (l k : Nat) (s : State) : lane (dropLink l s) k = lane (startLink l s) k := lane_linkLost ..

theorem dropLink_cfg (l : Nat) (s : State) : (dropLink l s).cfg = s.cfg :=
  (linkLost_cfg ..).trans (startLink_cfg l s)

/-! ### Out of service (12 R301, R305) -/

theorem lane_leaveService_self (l : Nat) (s : State) : lane (leaveService l s) l =
    { lane s l with scan := none, state := 1, lock := false, rateNow := 0 } := by
  unfold leaveService
  dsimp only
  rw [lane_setLane_self, lane_dropScan_self]

theorem lane_leaveService_ne (h : k ≠ l) (s : State) : lane (leaveService l s) k = lane s k :=
  (lane_setLane_ne h ..).trans (lane_dropScan_ne h s)

/-- A lane in the deep state. -/
def deepLane (v : Lane) : Lane := { v with state := 2, lock := false, rateNow := 0, ver := 0, scan := none }

/-- A standby lane's own link goes down before it is deep, which changes no lane. -/
theorem goDeep_spec (l : Nat) (s : State) : ∃ w, goDeep l s = setLane l (deepLane (lane s l)) w
    ∧ w.lanes = (dropScan l s).lanes ∧ w.cfg = s.cfg ∧ (¬ (6 ≤ l ∧ (lane s l).state = 5) → LinkSide s w) := by
  unfold goDeep
  extract_lets a b e c v
  have hb : TimeSide a b := by
    unfold b
    split
    · exact loseSource_timeSide (.refl a)
    · exact .refl a
  have hc : c.lanes = a.lanes ∧ c.cfg = s.cfg := by
    unfold c
    split <;> exact ⟨hb.still.lanes, hb.still.cfg.trans (dropScan_still l s).cfg⟩
  have hself : v = { lane s l with scan := none } :=
    (congrArg (Tab.get · l default) hc.1).trans (lane_dropScan_self l s)
  refine ⟨c, by rw [hself]; rfl, hc.1, hc.2, fun hdown => ?_⟩
  have hba : b = a := if_neg (by rwa [dropScan_state])
  have ha : LinkSide s b := by
    rw [hba]
    exact dropScan_linkSide l s
  unfold c
  split
  · exact setSkaing_linkSide ha
  · exact ha

theorem lane_goDeep_self (l : Nat) (s : State) : lane (goDeep l s) l = deepLane (lane s l) := by
  obtain ⟨w, hw, -⟩ := goDeep_spec l s
  rw [hw, lane_setLane_self]

theorem lane_goDeep_ne (h : k ≠ l) (s : State) : lane (goDeep l s) k = lane s k := by
  obtain ⟨w, hw, hlanes, -⟩ := goDeep_spec l s
  rw [hw, lane_setLane_ne h, ← lane_dropScan_ne h s]
  unfold lane
  rw [hlanes]

theorem goDeep_cfg (l : Nat) (s : State) : (goDeep l s).cfg = s.cfg := by
  obtain ⟨w, hw, -, hcfg, -⟩ := goDeep_spec l s
  rw [hw]
  exact hcfg

theorem goDeep_linkSide (h : ¬ (6 ≤ l ∧ (lane s l).state = 5)) : LinkSide s (goDeep l s) := by
  obtain ⟨w, hw, -, -, hside⟩ := goDeep_spec l s
  rw [hw]
  exact setLane_linkSide (hside h)

/-! ### A link is UP (12 R301, R304) -/

/-- A lane that comes UP. -/
def upLane (rate fec : Nat) (s : State) (v : Lane) : Lane :=
  { v with
    state := 5, lock := true, rateNow := rate, fecNow := fec, upSince := s.now, lastScan := s.now, lowScans := 0
    faultRaised := false }

/-- The lane is UP and its faults are over; that its standby lane goes deep may follow. -/
theorem laneIsUp_spec (l rate fec : Nat) (s : State) : ∃ b, EventSide (setLane l (upLane rate fec s (lane s l)) s) b
    ∧ (laneIsUp l rate fec s = b
      ∨ (l = 4 ∨ l = 6) ∧ (lane b (l + 1)).state ≠ 5 ∧ laneIsUp l rate fec s = goDeep (l + 1) b) := by
  unfold laneIsUp
  extract_lets v a b
  refine ⟨b, clearCause_eventSide (clearCause_eventSide (.refl a)), ?_⟩
  split
  · next h =>
    obtain ⟨hprimary, -, -, hdown, -⟩ := h
    exact .inr ⟨hprimary, hdown, rfl⟩
  · exact .inl rfl

theorem lane_laneIsUp_self (l rate fec : Nat) (s : State) :
    lane (laneIsUp l rate fec s) l = upLane rate fec s (lane s l) := by
  obtain ⟨b, hb, hup⟩ := laneIsUp_spec l rate fec s
  have hself : lane b l = _ := (hb.still.lane_eq l).trans (lane_setLane_self ..)
  rcases hup with hup | ⟨-, -, hup⟩
  · rw [hup, hself]
  · rw [hup, lane_goDeep_ne (by omega), hself]

/-- No lane of the host port is another's standby lane. -/
theorem lane_laneIsUp_ne (hk : k < 4) (h : k ≠ l) (rate fec : Nat) (s : State) : lane (laneIsUp l rate fec s) k = lane s k := by
  obtain ⟨b, hb, hup⟩ := laneIsUp_spec l rate fec s
  have hother : lane b k = lane s k := (hb.still.lane_eq k).trans (lane_setLane_ne h ..)
  rcases hup with hup | ⟨hprimary, -, hup⟩
  · rw [hup, hother]
  · rw [hup, lane_goDeep_ne (by omega), hother]

theorem laneIsUp_linkSide (l rate fec : Nat) (s : State) : LinkSide s (laneIsUp l rate fec s) := by
  obtain ⟨b, hb, hup⟩ := laneIsUp_spec l rate fec s
  have hside : LinkSide s b := (setLane_linkSide (.refl s)).trans hb.still.linkSide
  rcases hup with hup | ⟨-, hdown, hup⟩
  · rwa [hup]
  · rw [hup]
    exact hside.trans (goDeep_linkSide fun h => hdown h.2)

/-- A lane of the host port has no standby lane. -/
theorem laneIsUp_host (hl : l < 4) (rate fec : Nat) (s : State) :
    EventSide (setLane l (upLane rate fec s (lane s l)) s) (laneIsUp l rate fec s) := by
  obtain ⟨b, hb, hup | ⟨hprimary, -⟩⟩ := laneIsUp_spec l rate fec s
  · rwa [hup]
  · omega

end

end Sys2Proof.Machine
end

section
/-! SUPPORT. Lock, loss and training of the lanes (12 R303 to R306, R308), and what the four lanes of the host port become
together. -/

namespace Sys2Proof.Machine

section
variable {s t u : State} {l k : Nat}

/-! ### The lanes of the host port -/

/-- Beside events nothing but lanes differs. -/
def LanesSide (s t : State) : Prop := EventSide { s with lanes := t.lanes } t

theorem LanesSide.refl (s : State) : LanesSide s s := EventSide.refl s

theorem LanesSide.trans {a b c : State} (h : LanesSide a b) (k : LanesSide b c) : LanesSide a c := by
  unfold LanesSide EventSide at h k ⊢
  rw [h] at k
  exact k

theorem EventSide.lanesSide (h : EventSide s t) : LanesSide s t := by
  rw [h]
  rfl

theorem LanesSide.still (h : LanesSide s t) : Still { s with lanes := t.lanes } t := EventSide.still h

theorem LanesSide.host (h : LanesSide s t) : t.host = s.host := EventSide.host (s := { s with lanes := t.lanes }) h

/-- Of the lanes those of the host port alone change, on none of which a scan runs, and beside them events. -/
structure HostLanes (s t : State) : Prop where
  side : LanesSide s t
  others : ∀ k, ¬ k < 4 → lane t k = lane s k
  idle : ∀ k, k < 4 → (lane t k).scan = none

theorem HostLanes.start (h : ([0, 1, 2, 3].all fun k => decide ((lane s k).scan = none)) = true) : HostLanes s s where
  side := .refl s
  others _ _ := rfl
  idle k hk := of_decide_eq_true (List.all_eq_true.1 h k (by simp; omega))

theorem HostLanes.event (h : HostLanes s t) (he : EventSide t u) : HostLanes s u where
  side := h.side.trans he.lanesSide
  others k hk := (he.still.lane_eq k).trans (h.others k hk)
  idle k hk := (congrArg Lane.scan (he.still.lane_eq k)).trans (h.idle k hk)

theorem HostLanes.set (h : HostLanes s t) {v : Lane} (hk : k < 4) (hv : v.scan = none) : HostLanes s (setLane k v t) where
  side := h.side.trans rfl
  others j hj := (lane_setLane_ne (by omega) ..).trans (h.others j hj)
  idle j hj := by
    rw [lane_setLane]
    split
    · exact hv
    · exact h.idle j hj

theorem HostLanes.leave (h : HostLanes s t) (hk : k < 4) : HostLanes s (leaveService k t) := by
  have hidle := dropScan_idle (h.idle k hk)
  unfold leaveService
  dsimp only
  rw [hidle]
  exact (h.set hk (h.idle k hk)).set hk (by rw [lane_setLane_self]; exact h.idle k hk)

theorem HostLanes.up (h : HostLanes s t) (hk : k < 4) (g : Nat) : HostLanes s (laneIsUp k g 0 t) :=
  (h.set (v := upLane g 0 t (lane t k)) hk (h.idle k hk)).event (laneIsUp_host hk g 0 t)

/-! ### Loss of lock (12 R305, R306) -/

theorem lockLoss_host (hl : l < 6) (hlock : (lane s l).lock = true) : lockLoss l s = setLane l { lane s l with
    lock := false, lockLosses := ((lane s l).lockLosses + 1) % 2 ^ 32, lossAt := s.now
    losses := s.now :: (lane s l).losses.filter fun x => decide (s.now < x + 3600 * secU) } s := by
  unfold lockLoss
  dsimp only
  rw [if_neg (by simp [hlock]; omega), if_neg (by omega), if_neg (by omega)]

theorem lockBack_on (hl : l < 8) (hon : 3 ≤ (lane s l).state) : lockBack l s = setLane l { lane s l with lock := true } s :=
  if_pos ⟨hl, hon⟩

theorem singleDown_due (hlow : 4 ≤ l) (hl : l < 8) (hup : (lane s l).state = 5) (hlock : (lane s l).lock = false)
    (hdue : (lane s l).lossAt + msU ≤ s.now) : singleDown l s = dropLink l s :=
  if_pos ⟨hlow, hl, hup, by simp [hlock], hdue⟩

/-! ### The host port goes on, narrower, or is down (12 R305) -/

/-- The lanes that the host port uses, and those of them without lock. -/
def usedLanes (s : State) : List Nat := [0, 1, 2, 3].filter fun k => decide ((lane s k).state = 5)
def lostLanes (s : State) : List Nat := (usedLanes s).filter fun k => !(lane s k).lock

theorem lostLanes_isEmpty (s : State) : (lostLanes s).isEmpty = !inRecovery s := by
  rw [Bool.eq_iff_iff]
  unfold lostLanes usedLanes inRecovery
  simp only [List.isEmpty_iff, List.filter_eq_nil_iff, List.mem_filter, Bool.not_eq_true', List.any_eq_false, Bool.and_eq_true,
    decide_eq_true_eq, not_and, and_imp]

/-- The lost lanes are reported. -/
def lostReported (s : State) : State := forAll (lostLanes s) (fun k => raiseOnce (evL 0x0C03 k)) s

theorem lostReported_events (s : State) : EventSide s (lostReported s) :=
  forAll_ind (P := EventSide s) _ (fun _ _ ht => raiseOnce_eventSide ht) (.refl s)

/-- A lane that does not work leaves service. -/
def keepOrLeave (l : List Nat) (k : Nat) (s : State) : State := if l.contains k then s else leaveService k s

theorem linkReform_lost (rev : Bool) (hup : s.host.linkUp = true) (hrec : inRecovery s = true) :
    linkReform rev s = if (workingLanes rev s).isEmpty then startLink 0 (linkDown (lostReported s)) else
      { forAll (usedLanes s) (keepOrLeave (workingLanes rev s)) (lostReported s) with
        host.width := (workingLanes rev s).length } := by
  have hlost : ¬ (lostLanes s).isEmpty = true := by rw [lostLanes_isEmpty, hrec]; decide
  unfold linkReform
  rw [if_neg (not_not_intro hup)]
  exact if_neg hlost

theorem linkReform_same (rev : Bool) (h : s.host.linkUp = false ∨ inRecovery s = false) : linkReform rev s = s := by
  unfold linkReform
  by_cases hup : s.host.linkUp = true
  · have hlost : (lostLanes s).isEmpty = true := by
      rw [lostLanes_isEmpty, h.resolve_left (by rw [hup]; decide)]
      rfl
    rw [if_neg (not_not_intro hup)]
    exact if_pos hlost
  · exact if_pos hup

theorem mem_usedLanes : k ∈ usedLanes s ↔ k < 4 ∧ (lane s k).state = 5 := by
  unfold usedLanes
  rw [List.mem_filter, decide_eq_true_eq]
  refine and_congr_left fun _ => ?_
  simp
  omega

/-- What becomes of a lane where the link goes on with those of a list. -/
def reformedLane (l : List Nat) (k : Nat) (v : Lane) : Lane :=
  if l.contains k then v else { v with scan := none, state := 1, lock := false, rateNow := 0 }

theorem lane_keepOrLeave_self (l : List Nat) (k : Nat) (s : State) :
    lane (keepOrLeave l k s) k = reformedLane l k (lane s k) := by
  unfold keepOrLeave reformedLane
  split
  · rfl
  · exact lane_leaveService_self k s

theorem lane_keepOrLeave_ne (l : List Nat) {j : Nat} (h : k ≠ j) (s : State) : lane (keepOrLeave l j s) k = lane s k := by
  unfold keepOrLeave
  split
  · rfl
  · exact lane_leaveService_ne h s

theorem HostLanes.reform (h : HostLanes s t) (hused : ∀ k ∈ usedLanes u, k < 4) (l : List Nat) :
    HostLanes s (forAll (usedLanes u) (keepOrLeave l) t) := by
  refine forAll_ind_mem (fun k hk x hx => ?_) h
  unfold keepOrLeave
  split
  · exact hx
  · exact hx.leave (hused k hk)

/-- Some lanes work: the link goes on with them. -/
theorem linkReform_narrower {rev : Bool} (hup : s.host.linkUp = true) (hrec : inRecovery s = true)
    (hwork : workingLanes rev s ≠ []) (hidle : ([0, 1, 2, 3].all fun k => decide ((lane s k).scan = none)) = true) :
    ∃ t, HostLanes s t ∧ (∀ k, k < 4 → (lane s k).state = 5 → lane t k = reformedLane (workingLanes rev s) k (lane s k))
      ∧ linkReform rev s = { t with host.width := (workingLanes rev s).length } := by
  have hevents := lostReported_events s
  refine ⟨forAll (usedLanes s) (keepOrLeave (workingLanes rev s)) (lostReported s), ?_, fun k hk hstate => ?_, ?_⟩
  · exact ((HostLanes.start hidle).event hevents).reform (fun k hk => (mem_usedLanes.1 hk).1) _
  · have hnodup : (usedLanes s).Nodup := List.Nodup.filter _ (by decide)
    have hown := forAll_own (get := lane) (upd := fun _ => reformedLane (workingLanes rev s))
      (f := keepOrLeave (workingLanes rev s)) (fun k t => lane_keepOrLeave_self _ k t)
      (fun _ _ t h => lane_keepOrLeave_ne _ h t) (fun _ _ => rfl) hnodup (mem_usedLanes.2 ⟨hk, hstate⟩) (lostReported s)
    rw [hown, hevents.still.lane_eq]
  · rw [linkReform_lost rev hup hrec, if_neg (by simpa using hwork)]

/-- No lane works: the link is down, and its lanes train again. -/
theorem linkReform_down {rev : Bool} (hup : s.host.linkUp = true) (hrec : inRecovery s = true) (hnone : workingLanes rev s = []) :
    (linkReform rev s).host.linkUp = false ∧ (∀ k, ¬ k < 4 → lane (linkReform rev s) k = lane s k)
      ∧ (linkReform rev s).cfg = s.cfg ∧ (linkReform rev s).time = s.time := by
  rw [linkReform_lost rev hup hrec, if_pos (by rw [hnone]; rfl)]
  have hevents := (lostReported_events s).still
  refine ⟨?_, fun k hk => ?_, ?_, ?_⟩
  · rw [startLink_linkUp, linkDown_linkUp]
  · have hnot : k ∉ linkLanes 0 := by simp [linkLanes]; omega
    rw [lane_startLink_ne hnot, lane_linkDown, hevents.lane_eq]
  · rw [startLink_cfg, linkDown_cfg, hevents.cfg]
  · rw [startLink_time, linkDown_time, hevents.time]

/-! ### Training ends (12 R303, R304) -/

/-- The widths that the host port can have. -/
def hostWidth (w : Nat) : Nat := if 4 ≤ w then 4 else if 2 ≤ w then 2 else 1

theorem hostWidth_le (w : Nat) : hostWidth w ≤ 4 := by
  unfold hostWidth
  split
  · omega
  · split <;> omega

/-- The host port up at a rate and a width. -/
def upPort (g n : Nat) (s : State) : State :=
  { s with host := { s.host with linkUp := true, seenL0 := true, width := n, gt := g } }

theorem trained_host {g f w : Nat} (hl : l < 4) (htrain : (lane s l).state = 3 ∨ (lane s l).state = 4 ∨ (lane s l).state = 7)
    (hloop : ([0, 1, 2, 3].any fun k => decide ((lane s k).state = 6)) = false) (hw : 1 ≤ w) (hg : 1 ≤ g) (hg4 : g ≤ 4) :
    trained l g f w s = upPort g (hostWidth w) (forAll (span (hostWidth w) (4 - hostWidth w)) leaveService
      (forAll (List.range (hostWidth w)) (fun k => laneIsUp k g 0) s)) := by
  have hlanes : linkLanes l = [0, 1, 2, 3] := if_pos hl
  unfold trained
  dsimp only
  rw [hlanes, hloop, if_neg (by simp [htrain]; omega), if_neg (by omega), if_pos hl, if_neg (by omega)]
  rfl

theorem mem_span {a n k : Nat} : k ∈ span a n ↔ a ≤ k ∧ k < a + n := by
  unfold span
  rw [List.mem_map]
  constructor
  · rintro ⟨i, hi, rfl⟩
    have := List.mem_range.1 hi
    omega
  · rintro ⟨hlow, hhigh⟩
    exact ⟨k - a, List.mem_range.2 (by omega), by omega⟩

/-- The first lanes come up at a rate, the rest leave service. -/
theorem hostLanes_up {n : Nat} (g : Nat) (hn : n ≤ 4)
    (hidle : ([0, 1, 2, 3].all fun k => decide ((lane s k).scan = none)) = true)
    (ht : t = forAll (span n (4 - n)) leaveService (forAll (List.range n) (fun k => laneIsUp k g 0) s)) :
    HostLanes s t ∧ (∀ k, k < n → (lane t k).state = 5 ∧ (lane t k).rateNow = g)
      ∧ ∀ k, k < 4 → n ≤ k → (lane t k).state = 1 := by
  subst ht
  have hup : HostLanes s (forAll (List.range n) (fun k => laneIsUp k g 0) s) :=
    forAll_ind_mem (fun k hk x hx => hx.up ((List.mem_range.1 hk).trans_le hn) g) (.start hidle)
  refine ⟨forAll_ind_mem (fun k hk x hx => hx.leave (by have := mem_span.1 hk; omega)) hup, fun k hk => ?_, fun k hk hnk => ?_⟩
  · have hlane : lane (forAll (span n (4 - n)) leaveService (forAll (List.range n) (fun k => laneIsUp k g 0) s)) k
        = lane (forAll (List.range n) (fun k => laneIsUp k g 0) s) k :=
      forAll_ind_mem (P := fun t => lane t k = lane (forAll (List.range n) (fun k => laneIsUp k g 0) s) k)
        (fun j hj x hx => (lane_leaveService_ne (by have := mem_span.1 hj; omega) x).trans hx) rfl
    rw [hlane]
    refine forAll_reaches (P := fun t => (lane t k).state = 5 ∧ (lane t k).rateNow = g) (List.mem_range.2 hk)
      (fun t => by rw [lane_laneIsUp_self]; exact ⟨rfl, rfl⟩) (fun j t hj => ?_) s
    by_cases e : k = j
    · rw [e, lane_laneIsUp_self]
      exact ⟨rfl, rfl⟩
    · rwa [lane_laneIsUp_ne (by omega) e]
  · refine forAll_reaches (P := fun t => (lane t k).state = 1) (mem_span.2 ⟨hnk, by omega⟩)
      (fun t => by rw [lane_leaveService_self]) (fun j t hj => ?_) _
    by_cases e : k = j
    · rw [e, lane_leaveService_self]
    · rwa [lane_leaveService_ne e]

/-- An Ethernet lane is UP at its RATE. -/
theorem trained_ethernet {g f w : Nat} (hl : l = 4 ∨ l = 5) (hw : w ≠ 0)
    (htrain : (lane s l).state = 3 ∨ (lane s l).state = 4 ∨ (lane s l).state = 7) :
    lane (trained l g f w s) l = upLane (lane s l).rateSet (fecNow (lane s l) f) s (lane s l)
      ∧ (trained l g f w s).cfg = s.cfg ∧ (trained l g f w s).time = s.time := by
  have hlanes : linkLanes l = [l] := linkLanes_single (by omega)
  have hrun : trained l g f w s = goBackPort (l - 4) (laneIsUp l (lane s l).rateSet (fecNow (lane s l) f) s) := by
    unfold trained
    dsimp only
    rw [hlanes, if_neg (by simp; omega), if_neg hw, if_neg (by omega), if_pos (by omega)]
  have hback := goBackPort_still (p := l - 4) (.refl (laneIsUp l (lane s l).rateSet (fecNow (lane s l) f) s))
  have hside := (laneIsUp_linkSide l (lane s l).rateSet (fecNow (lane s l) f) s).still
  rw [hrun, hback.lane_eq, lane_laneIsUp_self]
  exact ⟨rfl, hback.cfg.trans hside.cfg, hback.time.trans hside.time⟩

/-- A Skaing lane's receiver has locked: its endpoint negotiates (12 R317). -/
theorem trained_skaing {g f w : Nat} (hl : l = 6 ∨ l = 7) (hw : w ≠ 0)
    (htrain : (lane s l).state = 3 ∨ (lane s l).state = 4) :
    trained l g f w s = setSkaing (l - 6) { skaing s (l - 6) with
      phase := 1, peerHeard := false, linkSent := false, mismatch := false, lastLink := s.now, prbsFrom := s.now }
      (setLane l { lane s l with state := 4, lock := true } s) := by
  have hlanes : linkLanes l = [l] := linkLanes_single (by omega)
  unfold trained
  dsimp only
  rw [hlanes, if_neg (by simp; omega), if_neg hw, if_neg (by omega), if_neg (by omega), if_neg (by omega)]

/-- An Ethernet lane's training ends without UP: auto-negotiation starts again. -/
theorem trained_again {g f : Nat} (hlow : 4 ≤ l) (hl : l < 6) (htrain : (lane s l).state = 3 ∨ (lane s l).state = 4) :
    trained l g f 0 s = setLane l { lane s l with
      state := 4, lock := false, trainAttempts := ((lane s l).trainAttempts + 1) % 2 ^ 32 } s := by
  have hlanes : linkLanes l = [l] := linkLanes_single hlow
  have hstate : (if (lane s l).state = 7 then 7 else if l = 4 ∨ l = 5 then 4 else 3) = 4 := by
    rw [if_neg (by omega), if_pos (by omega)]
  unfold trained trainAgain
  dsimp only
  rw [hlanes, if_neg (by simp; omega), if_pos rfl, if_pos hl, forAll_cons, forAll_nil, if_pos (by omega), hstate]

theorem startedLane_state (hl : 4 ≤ l) (s : State) : (startedLane l s).state = if l < 6 then 4 else 3 :=
  if_congr (by omega) rfl rfl

/-- An enabled link that was UP trains again. -/
theorem lane_dropLink_self (hlow : 4 ≤ l) (hen : laneEn s l = true) (hloop : (lane s l).state ≠ 6) :
    lane (dropLink l s) l = startedLane l s := (lane_dropLink ..).trans (lane_startLink_self hlow hen hloop)

theorem lane_dropLink_ne (hlow : 4 ≤ l) (h : k ≠ l) (s : State) : lane (dropLink l s) k = lane s k :=
  (lane_dropLink ..).trans (lane_startLink_other hlow h s)

/-! ### No partner (12 R303, R308) -/

/-- After an update of lanes and reports, all but the lanes is as it was. -/
theorem Still.lanesBack (h : Still t u) (ht : t = { s with lanes := t.lanes }) : Still s { u with lanes := s.lanes } := by
  have hback : Still { t with lanes := s.lanes } { u with lanes := s.lanes } :=
    { h with lanes := rfl, flash := h.flash, boot := h.boot }
  rw [ht] at hback
  exact hback

/-- The host port is no part of what reports leave. -/
theorem Still.onHost (h : Still s t) (p q : HostPort) : Still { s with host := p } { t with host := q } :=
  { h with flash := h.flash, boot := h.boot }

/-- An event that follows a loop over lanes. -/
theorem raise_lanesOnly {f : Nat → State → State} (hf : ∀ k t, f k t = { t with lanes := (f k t).lanes }) (e : Ev)
    (l : List Nat) (s : State) : (raise e (forAll l f s)).lanes = (forAll l f s).lanes
      ∧ Still s { raise e (forAll l f s) with lanes := s.lanes } := by
  have honly : forAll l f s = { s with lanes := (forAll l f s).lanes } :=
    forAll_ind (P := fun t => t = { s with lanes := t.lanes }) l (fun k t ht => by rw [hf k t, ht]) rfl
  have hraised := raise_still (e := e) (.refl (forAll l f s))
  exact ⟨hraised.lanes, hraised.lanesBack honly⟩

/-- A lane in training has no partner. -/
def partnerless (k : Nat) (s : State) : State :=
  if (lane s k).state = 3 ∨ (lane s k).state = 4 then setLane k { lane s k with state := 7 } s else s

theorem noPartner_due (hl : l < 8) (htrain : (lane s l).state = 3 ∨ (lane s l).state = 4)
    (hdue : (lane s l).trainSince + secU ≤ s.now) :
    noPartner l s = raise (ev 0x0C10 l) (forAll (linkLanes l) partnerless s) := if_pos ⟨hl, htrain, hdue⟩

/-- The fault of a lane's training is raised. -/
def faultNoted (k : Nat) (s : State) : State := setLane k { lane s k with faultRaised := true } s

theorem trainFault_due (hl : l < 8) (htrain : (lane s l).state = 3 ∨ (lane s l).state = 4 ∨ (lane s l).state = 7)
    (hfresh : (lane s l).faultRaised = false) (hdue : (lane s l).downSince + 10 * secU ≤ s.now) :
    trainFault l s = raise (evL 0x0C01 l) (forAll (linkLanes l) faultNoted s) :=
  if_pos ⟨hl, htrain, by simp [hfresh], hdue⟩

end

/-- Settles O44: each row is its operation of the lane, or of the host port's four, at the command's instant. -/
theorem laneEvents : Obligations.LaneEvents := by
  unfold Obligations.LaneEvents
  refine ⟨?lost, ?regained, ?narrower, ?same, ?portDown, ?singleDown, ?host, ?ethernet, ?skaing, ?again, ?noPartner, ?fault⟩
  case lost =>
    rintro at_ l s u rfl hl hlock
    exact congrArg Host.Outcome.next (lockLoss_host hl hlock)
  case regained =>
    rintro at_ l s u rfl hl hon
    exact congrArg Host.Outcome.next (lockBack_on hl hon)
  case narrower =>
    rintro at_ l rev s u rfl hup hrec rfl hwork hidle
    obtain ⟨t, ht, hlanes, hrun⟩ := linkReform_narrower hup hrec hwork hidle
    refine ⟨_, congrArg Host.Outcome.next hrun, ?_, fun k hk hstate => (hlanes k hk hstate).trans ?_, ht.others, ?_⟩
    · rw [← ht.side.host]
    · have hscan := of_decide_eq_true (List.all_eq_true.1 hidle k (by simp; omega))
      unfold reformedLane
      rw [← hscan]
    · exact ht.side.still.onHost ..
  case same =>
    rintro at_ rev s u rfl h
    exact congrArg Host.Outcome.next (linkReform_same rev h)
  case portDown =>
    rintro at_ rev s u rfl hup hrec hnone
    exact ⟨_, rfl, linkReform_down hup hrec hnone⟩
  case singleDown =>
    rintro at_ l s u rfl hlow hl hup hlock hdue hen
    have hlane := lane_dropLink_self hlow hen (by omega)
    refine ⟨_, congrArg Host.Outcome.next (singleDown_due hlow hl hup hlock hdue), ?_, ?_, ?_,
      fun k hk => lane_dropLink_ne hlow hk _, dropLink_cfg ..⟩
    · rw [hlane, startedLane_state hlow]
    · rw [hlane]
      rfl
    · rw [hlane]
      exact if_pos (.inl hup)
  case host =>
    rintro at_ l g f w n s u rfl hl htrain hloop hw hg hg4 hidle rfl
    obtain ⟨ht, hup, hrest⟩ := hostLanes_up (n := hostWidth w) g (hostWidth_le w) hidle rfl
    refine ⟨_, congrArg Host.Outcome.next (trained_host hl htrain hloop hw hg hg4), ?_, hup, hrest, ht.others, ?_⟩
    · unfold upPort
      rw [ht.side.host]
      rfl
    · exact ⟨ht.side.still.cfg, ht.side.still.time⟩
  case ethernet =>
    rintro at_ l g f w s u rfl hl hw htrain
    obtain ⟨hlane, hcfg, htime⟩ := trained_ethernet (g := g) (f := f) hl hw htrain
    refine ⟨_, rfl, ?_⟩
    rw [hlane]
    exact ⟨rfl, rfl, rfl, rfl, rfl, hcfg, htime⟩
  case skaing =>
    rintro at_ l g f w s u rfl hl hw htrain
    exact congrArg Host.Outcome.next (trained_skaing hl hw htrain)
  case again =>
    rintro at_ l g f s u rfl hlow hl htrain
    exact congrArg Host.Outcome.next (trained_again hlow hl htrain)
  case noPartner =>
    rintro at_ l s u rfl hl htrain hdue
    exact ⟨_, congrArg Host.Outcome.next (noPartner_due hl htrain hdue),
      raise_lanesOnly (f := partnerless) (fun k t => by unfold partnerless; split <;> rfl) ..⟩
  case fault =>
    rintro at_ l s u rfl hl htrain hfresh hdue
    exact ⟨_, congrArg Host.Outcome.next (trainFault_due hl htrain hfresh hdue),
      raise_lanesOnly (f := faultNoted) (fun _ _ => rfl) ..⟩

end Sys2Proof.Machine
end

section
/-! SUPPORT. Standby lanes, eye scans, retraining and loopbacks (12 R301, R302, R307, R319). -/

namespace Sys2Proof.Machine

section
variable {s z : State} {l k : Nat} {p : Packet} {v : Session} {r : Req}

/-! ### Standby lanes (12 R301) -/

theorem standbyWake_starts {seen : Bool} (hdeep : (lane s l).state = 2)
    (hwake : seen = true ∨ (lane s (l - 1)).state ≠ 5 ∧ (lane s (l - 1)).downSince + 100 * msU ≤ s.now) :
    standbyWake l seen s = startLink l s := if_pos ⟨hdeep, hwake⟩

theorem standbyReturn_due (hstandby : standby s l = true) (hen : laneEn s l = true) (hawake : (lane s l).state ≠ 2)
    (hloop : (lane s l).state ≠ 6) (hprimary : (lane s (l - 1)).state = 5)
    (hdue : (lane s (l - 1)).upSince + 10 * secU ≤ s.now) : standbyReturn l s = movedStreams s (goDeep l s) :=
  if_pos ⟨hstandby, hen, hawake, hloop, hprimary, hdue⟩

/-! ### Eye scans (12 R307) -/

theorem scanDueRow_due (hl : l < 8) (hup : (lane s l).state = 5) (hidle : (lane s l).scan = none)
    (hperiod : cf s 0x0A01 l 0 7 0 ≠ 0) (hdue : (lane s l).lastScan + cf s 0x0A01 l 0 7 0 * 60 * secU ≤ s.now) :
    scanDueRow l s = setLane l { lane s l with scan := some (s.now, none), lastScan := s.now } s :=
  if_pos ⟨hl, hup, hidle, hperiod, hdue⟩

/-- A lane whose scan, due by itself, has found the eye open. -/
def scannedLane (m : List Byte) (s : State) (v : Lane) : Lane :=
  { v with scan := none, eyeH := eyeH m, eyeV := eyeV m, scanSeconds := secondsNow s, lowScans := 0 }

theorem scanDone_open {m : List Byte} (hup : (lane s l).state = 5) (hscan : (lane s l).scan = some (k, none))
    (hwidth : cf s 0x0A01 l 4 31 16 ≤ eyeH m) (hheight : cf s 0x0A01 l 4 15 0 ≤ eyeV m) :
    scanDone l m s = clearCause 0x0C02 l (setLane l (scannedLane m s (lane s l)) s) := by
  have hlow : ¬ (eyeH m < cf s 0x0A01 l 0x04 31 16 ∨ eyeV m < cf s 0x0A01 l 0x04 15 0) := by omega
  unfold scanDone
  dsimp only
  rw [if_pos hup, hscan]
  simp only [hlow, decide_false, Bool.false_eq_true, not_false_eq_true, if_true, if_false, Option.isSome_none]
  rfl

theorem scanDone_none {m : List Byte} (hidle : (lane s l).scan = none) : scanDone l m s = s := by
  unfold scanDone
  dsimp only
  rw [hidle, ite_self]

theorem eyeScan_queued (ha : Accepted 0x0C00 p tableRole laneParam v s) (hr : r = request 0x0C00 p v s)
    (hz : z = takenState p v s) (hl : l = r.f 0 1) (hup : (lane z l).state = 5) (hidle : (lane z l).scan = none) :
    receive 0x0C00 p eyeScanServe s = queued r [] (setLane l { lane z l with scan := some (z.now, some r) } z) := by
  subst hl
  refine (serve_accepted _ ha).trans ?_
  rw [← hr, ← hz]
  exact if_neg (by simp [hup, hidle])

theorem eyeScan_refused (ha : Accepted 0x0C00 p tableRole laneParam v s) (hr : r = request 0x0C00 p v s)
    (hz : z = takenState p v s) (hbusy : (lane z (r.f 0 1)).state ≠ 5 ∨ (lane z (r.f 0 1)).scan.isSome = true) :
    receive 0x0C00 p eyeScanServe s = refuse r stConflict z := by
  refine (serve_accepted _ ha).trans ?_
  rw [← hr, ← hz]
  exact if_pos hbusy

/-! ### LANE_RETRAIN (12 R302) -/

theorem retrain_refused (ha : Accepted 0x0C01 p tableRole laneParam v s) (hr : r = request 0x0C01 p v s)
    (hz : z = takenState p v s) (hbusy : overLane r (r.f 0 1) = true ∨ (lane z (r.f 0 1)).state = 6) :
    receive 0x0C01 p retrainServe s = refuse r stConflict z := by
  refine (serve_accepted _ ha).trans ?_
  rw [← hr, ← hz]
  exact if_pos hbusy

/-- A lane without its step-down (12 R308). -/
def uncapped (l : Nat) (s : State) : State := setLane l { lane s l with cap := 0 } s

theorem retrain_runs (ha : Accepted 0x0C01 p tableRole laneParam v s) (hr : r = request 0x0C01 p v s)
    (hz : z = takenState p v s) (hl : l = r.f 0 1) (hlow : 4 ≤ l) (hover : overLane r l = false)
    (hloop : (lane z l).state ≠ 6) : ∃ y, Still z y ∧ receive 0x0C01 p retrainServe s =
      if (lane (uncapped l y) l).state = 5 then dropLink l (uncapped l y) else startLink l (uncapped l y) := by
  subst hl
  have hlanes : linkLanes (r.f 0 1) = [r.f 0 1] := linkLanes_single hlow
  refine ⟨answer r stOk [] (jDone r [] z), answer_still (jDone_still (.refl z)), (serve_accepted _ ha).trans ?_⟩
  rw [← hr, ← hz]
  dsimp only
  rw [if_neg (by simp [hover, hloop]), hlanes, if_neg (by omega)]
  rfl

/-- A lane that trains anew, from UP or not. -/
theorem retrained_spec (hlow : 4 ≤ l) (hen : laneEn s l = true) (hloop : (lane s l).state ≠ 6) {t : State}
    (ht : t = if (lane s l).state = 5 then dropLink l s else startLink l s) :
    lane t l = startedLane l s ∧ (∀ k, k ≠ l → lane t k = lane s k) ∧ t.cfg = s.cfg := by
  subst ht
  split
  · exact ⟨lane_dropLink_self hlow hen hloop, fun k hk => lane_dropLink_ne hlow hk s, dropLink_cfg l s⟩
  · exact ⟨lane_startLink_self hlow hen hloop, fun k hk => lane_startLink_other hlow hk s, startLink_cfg l s⟩

/-! ### LANE_LOOPBACK (12 R302, R319) -/

/-- The checks of LANE_LOOPBACK. -/
def loopbackOk (r : Req) (s : State) : Bool :=
  exactly 4 r s && decide (r.f 0 1 < 8 ∧ r.f 1 1 ≤ 3) && decide (r.f 1 1 = 0 ∨ (1 ≤ r.f 2 2 ∧ r.f 2 2 ≤ 3600))
    && !decide (r.f 1 1 = 3 ∧ r.f 0 1 < 4)

/-- A lane that enters a loopback. -/
def loopedLane (mode seconds : Nat) (r : Req) (s : State) (v : Lane) : Lane :=
  { v with
    scan := none, state := 6, loop := mode, loopReq := some r, loopEnd := s.now + seconds * secU, prbsErrors := 0
    lock := false, rateNow := 0, ver := 0, downSince := if v.state = 5 then s.now else v.downSince }

theorem loopStart_spec (mode seconds : Nat) (r : Req) (hlow : 4 ≤ l) (s : State) :
    lane (loopStart mode seconds r l s) l = loopedLane mode seconds r s (lane s l)
      ∧ (∀ k, k ≠ l → lane (loopStart mode seconds r l s) k = lane s k) ∧ (loopStart mode seconds r l s).cfg = s.cfg := by
  unfold loopStart
  extract_lets up a e b v c
  have ha : a = dropScan l s := congrArg (dropScan l) (if_neg (by omega))
  have hlanes : b.lanes = a.lanes ∧ b.cfg = a.cfg := by
    unfold b
    split <;> exact ⟨rfl, rfl⟩
  have hb (k : Nat) : lane b k = lane (dropScan l s) k := by
    unfold lane
    rw [hlanes.1, ha]
  have hself : lane c l = loopedLane mode seconds r s (lane s l) := by
    unfold c v loopedLane up
    rw [lane_setLane_self, hb, lane_dropScan_self]
    simp only [decide_eq_true_eq]
  have hother (k : Nat) (hk : k ≠ l) : lane c k = lane s k := by
    unfold c
    rw [lane_setLane_ne hk, hb, lane_dropScan_ne hk]
  have hcfg : c.cfg = s.cfg := hlanes.2.trans (ha ▸ (dropScan_still l s).cfg)
  clear_value c
  rw [if_neg (by omega)]
  split
  · simp only [lane_linkLost, linkLost_cfg]
    exact ⟨hself, hother, hcfg⟩
  · exact ⟨hself, hother, hcfg⟩

section
variable (ha : Accepted 0x0C02 p tableRole loopbackOk v s) (hr : r = request 0x0C02 p v s) (hz : z = takenState p v s)
include ha hr hz

theorem loopback_starts (hmode : r.f 1 1 ≠ 0) (hover : overLane r (r.f 0 1) = false) (hfree : (lane z (r.f 0 1)).state ≠ 6)
    (hsource : z.time.source ≠ laneSource (r.f 0 1)) :
    ∃ y, Still z y ∧ receive 0x0C02 p loopbackServe s = loopStart (r.f 1 1) (r.f 2 2) r (r.f 0 1) y := by
  refine ⟨replyTo r stOk false [] (jDone r [] z), replyTo_still (jDone_still (.refl z)), (serve_accepted _ ha).trans ?_⟩
  rw [← hr, ← hz]
  dsimp only
  rw [if_neg hmode, if_neg (by simp [hover, hfree, hsource])]

theorem loopback_refused (hmode : r.f 1 1 ≠ 0) (hbusy : overLane r (r.f 0 1) = true ∨ (lane z (r.f 0 1)).state = 6
    ∨ 4 ≤ r.f 0 1 ∧ z.time.source = laneSource (r.f 0 1)) :
    receive 0x0C02 p loopbackServe s = refuse r stConflict z := by
  refine (serve_accepted _ ha).trans ?_
  rw [← hr, ← hz]
  dsimp only
  rw [if_neg hmode, if_pos hbusy]

theorem loopback_stops (hmode : r.f 1 1 = 0) (hloop : (lane z (r.f 0 1)).state = 6) : receive 0x0C02 p loopbackServe s =
    answer r stOk [] (jDone r [] (setLane (r.f 0 1) { lane z (r.f 0 1) with loopEnd := z.now } z)) := by
  refine (serve_accepted _ ha).trans ?_
  rw [← hr, ← hz]
  dsimp only
  rw [if_pos hmode, if_neg (not_not_intro hloop)]

theorem loopback_noStop (hmode : r.f 1 1 = 0) (hnone : (lane z (r.f 0 1)).state ≠ 6) :
    receive 0x0C02 p loopbackServe s = refuse r stConflict z := by
  refine (serve_accepted _ ha).trans ?_
  rw [← hr, ← hz]
  dsimp only
  rw [if_pos hmode, if_pos hnone]

end

/-- A lane whose loopback is over. -/
def loopedOut (e : Nat) (v : Lane) : Lane := { v with state := 3, loop := 0, loopReq := none, prbsErrors := e % 2 ^ 32 }

theorem loopbackEnd_due {n e : Nat} (hloop : (lane s l).state = 6) (hdue : (lane s l).loopEnd ≤ s.now)
    (hen : laneEn s l = true) :
    ∃ w, Still (setLane l (loopedOut e (lane s l)) s) w ∧ loopbackEnd l n e s = startLink l w := by
  unfold loopbackEnd
  extract_lets v out w
  have hover : ¬ (v.state ≠ 6 ∨ s.now < v.loopEnd) := by
    unfold v
    omega
  have hstill : Still (setLane l (loopedOut e (lane s l)) s) w := by
    unfold w
    split
    · exact .refl _
    · exact answerOr_still (.refl _)
  refine ⟨w, hstill, ?_⟩
  rw [if_neg hover]
  exact if_pos ((hstill.laneEn_eq l).trans hen)

end

/-- Settles O45: each row is its operation of the lane at the command's instant. -/
theorem laneCommands : Obligations.LaneCommands := by
  unfold Obligations.LaneCommands
  refine ⟨?wake, ?deep, ?scanDue, ?scanOpen, ?noScan, ?scanQueued, ?scanRefused, ?retrainRefused, ?retrain, ?loopStart,
    ?loopRefused, ?loopStop, ?loopNoStop, ?loopEnd⟩
  case wake =>
    rintro at_ l seen s u rfl hl hdeep hwake hen
    have hlane := lane_startLink_self (by omega) hen (by omega)
    refine ⟨_, congrArg Host.Outcome.next (standbyWake_starts hdeep hwake), ?_,
      fun k hk => lane_startLink_other (by omega) hk _, startLink_cfg .., startLink_time ..⟩
    rw [hlane]
    exact if_congr (by omega) rfl rfl
  case deep =>
    rintro at_ l s u rfl hstandby hen hawake hloop hprimary hdue
    have hmoved := movedStreams_still (old := s.tick at_) (.refl (goDeep l (s.tick at_)))
    refine ⟨_, congrArg Host.Outcome.next (standbyReturn_due hstandby hen hawake hloop hprimary hdue),
      (hmoved.lane_eq l).trans (lane_goDeep_self ..), fun k hk => (hmoved.lane_eq k).trans (lane_goDeep_ne hk _),
      hmoved.cfg.trans (goDeep_cfg ..), rfl⟩
  case scanDue =>
    rintro at_ l s u rfl hl hup hidle hperiod hdue
    exact congrArg Host.Outcome.next (scanDueRow_due hl hup hidle hperiod hdue)
  case scanOpen =>
    rintro at_ l k m s u rfl hup hscan hwidth hheight
    have hcleared := clearCause_still (ecode := 0x0C02) (subject := l)
      (.refl (setLane l (scannedLane m (s.tick at_) (lane (s.tick at_) l)) (s.tick at_)))
    exact ⟨_, congrArg Host.Outcome.next (scanDone_open hup hscan hwidth hheight), hcleared.lanes, hcleared.lanesBack rfl⟩
  case noScan =>
    rintro at_ l m s u rfl hidle
    exact congrArg Host.Outcome.next (scanDone_none hidle)
  case scanQueued =>
    rintro at_ p v r z l s u rfl ha hr hz hl hup hidle
    exact congrArg Host.Outcome.next (eyeScan_queued ha hr hz hl hup hidle)
  case scanRefused =>
    rintro at_ p v r z s u rfl ha hr hz hbusy
    exact congrArg Host.Outcome.next (eyeScan_refused ha hr hz hbusy)
  case retrainRefused =>
    rintro at_ p v r z s u rfl ha hr hz hbusy
    exact congrArg Host.Outcome.next (retrain_refused ha hr hz hbusy)
  case retrain =>
    rintro at_ p v r z l s u rfl ha hr hz hl hlow hover hloop hen
    obtain ⟨y, hy, hrun⟩ := retrain_runs ha hr hz hl hlow hover hloop
    have hself : lane (uncapped l y) l = { lane z l with cap := 0 } := by rw [uncapped, lane_setLane_self, hy.lane_eq]
    obtain ⟨hlane, hothers, hcfg⟩ :=
      retrained_spec (s := uncapped l y) hlow ((hy.laneEn_eq l).trans hen) (by rw [hself]; exact hloop) hrun
    refine ⟨_, rfl, ?_, ?_, ?_, fun k hk => ?_, hcfg.trans hy.cfg⟩
    · exact (congrArg Lane.state hlane).trans (startedLane_state hlow _)
    · exact (congrArg Lane.cap hlane).trans (congrArg Lane.cap hself)
    · exact congrArg Lane.lock hlane
    · exact (hothers k hk).trans ((lane_setLane_ne hk ..).trans (hy.lane_eq k))
  case loopStart =>
    rintro at_ p v r z l s u rfl ha hr hz rfl hlow hmode hover hfree hsource
    obtain ⟨y, hy, hrun⟩ := loopback_starts ha hr hz hmode hover hfree hsource
    obtain ⟨hlane, hothers, hcfg⟩ := loopStart_spec (r.f 1 1) (r.f 2 2) r hlow y
    refine ⟨_, congrArg Host.Outcome.next hrun, ?_⟩
    rw [hlane, ← hy.now]
    exact ⟨rfl, rfl, rfl, rfl, rfl, fun k hk => (hothers k hk).trans (hy.lane_eq k), hcfg.trans hy.cfg⟩
  case loopRefused =>
    rintro at_ p v r z s u rfl ha hr hz hmode hbusy
    exact congrArg Host.Outcome.next (loopback_refused ha hr hz hmode hbusy)
  case loopStop =>
    rintro at_ p v r z s u rfl ha hr hz hmode hloop
    exact congrArg Host.Outcome.next (loopback_stops ha hr hz hmode hloop)
  case loopNoStop =>
    rintro at_ p v r z s u rfl ha hr hz hmode hnone
    exact congrArg Host.Outcome.next (loopback_noStop ha hr hz hmode hnone)
  case loopEnd =>
    rintro at_ l n e s u rfl hlow hloop hdue hen
    obtain ⟨w, hw, hrun⟩ := loopbackEnd_due (n := n) (e := e) hloop hdue hen
    have hself : lane w l = loopedOut e (lane (s.tick at_) l) := (hw.lane_eq l).trans (lane_setLane_self ..)
    have hlane : lane (startLink l w) l = startedLane l w :=
      lane_startLink_self hlow ((hw.laneEn_eq l).trans hen) (by rw [hself]; exact (by decide : 3 ≠ 6))
    refine ⟨_, congrArg Host.Outcome.next hrun, ?_, ?_, ?_, ?_, fun k hk => ?_, ?_, ?_⟩
    · rw [hlane, startedLane_state hlow]
    · rw [hlane]
      rfl
    · rw [hlane]
      exact congrArg Lane.prbsErrors hself
    · rw [hlane]
      exact congrArg Lane.loopReq hself
    · rw [lane_startLink_other hlow hk, hw.lane_eq, lane_setLane_ne hk]
    · rw [startLink_cfg, hw.cfg, setLane_cfg]
    · rw [startLink_time, hw.time, setLane_time]

end Sys2Proof.Machine
end

section
/-! SUPPORT. Streams over Ethernet and Skaing, relays, and the answers of an Ethernet port (12 R309 to R314, R318). -/

namespace Sys2Proof.Machine

section
variable {s : State} {n x : Nat} {v : Session}

/-! ### Acknowledgements that stand still, and heartbeats (12 R312, R314) -/

theorem goBackTimer_due (hany : (stream s n).netAny = true)
    (hwaits : ((stream s n).q.folios.any fun f =>
      decide ((stream s n).q.ackNext ≤ f.seq ∧ f.seq ≤ (stream s n).netSent)) = true)
    (heth : transport s n = 1 ∨ transport s n = 2)
    (hdue : (stream s n).lastAdvance + cf s 0x0A04 n 4 31 16 * msU ≤ s.now) : goBackTimer n s = goBack n s :=
  if_pos ⟨Bool.and_eq_true_iff.2 ⟨hany, hwaits⟩, heth, hdue⟩

theorem goBackTimer_other (h1 : transport s n ≠ 1) (h2 : transport s n ≠ 2) : goBackTimer n s = s :=
  if_neg fun h => h.2.1.elim h1 h2

theorem unlessPaused_same {f : State → State} (h : f s = s) : unlessPaused f s = s := (if_congr .rfl rfl h).trans (ite_self _)

theorem heartbeat_due (hport : netPort s n = some x) (hx : x < 2) (hv : session? s (stream s n).session = some v)
    (hsent : (stream s n).q.folios.any (unsent (stream s n)) = false) (hagain : (stream s n).again = [])
    (hdue : (stream s n).lastSend + 100 * msU ≤ s.now) :
    heartbeat n s = netDatagram n x 4 (le 8 ((stream s n).q.nextSeq - 1)) v s := by
  have hnone : againList (stream s n) = [] := by
    unfold againList
    rw [hagain, List.filter_nil]
  unfold heartbeat
  simp only [hport, hv]
  exact if_pos ⟨hx, by simp [hsent], hnone, hdue⟩

/-! ### Acknowledging datagrams (12 R312, R313) -/

section
variable {hdr body mac : List Byte} (hv : session? s (stream s n).session = some v)
include hv

theorem ackDatagram_taken (hmac : hmac v.key (hdr ++ body) = mac) (hkind : fld 0 1 hdr = 3) (hstream : fld 1 1 hdr = n)
    (hid : fld 4 4 hdr = v.id) (hcount : (stream s n).ackCounts.get v.id 0 < fld 8 8 hdr) (hnacks : fld 8 2 body = 0)
    (hlen : body.length = 16) (hport : netPort s n = some 0 ∨ netPort s n = some 1) :
    ackDatagram n hdr body mac s = netAck n (fld 0 8 body)
      (setStream n { stream s n with ackCounts := (stream s n).ackCounts.put v.id (fld 8 8 hdr) } s) := by
  obtain ⟨p, hp, heth⟩ : ∃ p, netPort s n = some p ∧ p < 2 := hport.elim (⟨0, ·, by decide⟩) (⟨1, ·, by decide⟩)
  unfold ackDatagram
  simp only [hv]
  rw [if_neg (by simp [hmac, hkind, hstream, hid, hcount, hnacks, hlen, hp]; omega), hnacks]
  rfl

theorem ackDatagram_refused (hbad : hmac v.key (hdr ++ body) ≠ mac ∨ fld 8 8 hdr ≤ (stream s n).ackCounts.get v.id 0) :
    ackDatagram n hdr body mac s = s := by
  unfold ackDatagram
  simp only [hv]
  exact if_pos (hbad.elim .inl fun h => .inr (.inr (.inr (.inr (.inl h)))))

end

/-! ### Frames of a Skaing endpoint (12 R318) -/

/-- The endpoint has heard its partner. -/
def partnerHeard (x : Nat) (s : State) : State := setSkaing x { skaing s x with lastRx := s.now } s

theorem skaingUp_partnerHeard (x y : Nat) (s : State) : skaingUp (partnerHeard x s) y = skaingUp s y := by
  have hphase : (skaing (partnerHeard x s) y).phase = (skaing s y).phase := by
    unfold partnerHeard
    rw [skaing_setSkaing]
    split
    · next h => rw [h]
    · rfl
  unfold skaingUp
  rw [hphase]
  rfl

/-- By which port a stream leaves does not rest on when its endpoint heard its partner. -/
theorem netPort_partnerHeard (x n : Nat) (s : State) : netPort (partnerHeard x s) n = netPort s n := by
  unfold netPort
  simp only [skaingUp_partnerHeard]
  rfl

theorem dataFrame_relayed {b : List Byte} (hx : x < 2) (hup : skaingUp s x = true) (hver : skaingVer s x = 2)
    (hrelay : (relays s x).find? (fun k => cf s 0x0A04 k 0 23 16 == (readFolio b).stream) = some n) :
    dataFrame x b true s = relayTake n (readFolio b) (partnerHeard x s) := by
  unfold dataFrame
  rw [if_neg (by omega), if_neg (by decide), if_neg (by simp [hup, hver])]
  extract_lets e t f
  have hfind : (relays t x).find? (fun k => cf t 0x0A04 k 0x00 23 16 == f.stream) = some n := hrelay
  rw [hfind]
  rfl

theorem creditFrame_taken (c a : Nat) (hx : x < 2) (hup : skaingUp s x = true) (hver : skaingVer s x = 2)
    (hport : netPort s n = some (2 + x)) : creditFrame x n c a true s = netAck n a
      (setStream n { stream s n with credits := min 64 ((stream s n).credits + c) } (partnerHeard x s)) := by
  unfold creditFrame
  rw [if_neg (by omega), if_neg (by decide), if_neg (by simp [hup, hver])]
  exact if_neg (not_not_intro ((netPort_partnerHeard x n s).trans hport))

theorem creditFrame_dropped (n c a : Nat) (hx : x < 2) : creditFrame x n c a false s = crcDrop x s := by
  unfold creditFrame
  rw [if_neg (by omega), if_pos (by decide)]

/-! ### ARP and echo (12 R309, R310) -/

section
variable (hx : x < 2) (hup : laneUp s (ethLane x) = true) (hen : cfBit s 0x0A03 x 0 31 = true)
include hx hup hen

theorem echo_arp (mac ip data : List Byte) : echo x 0 mac ip (ipv4 s x) data s = sendFrame x mac 0x0806
    (be 2 1 ++ be 2 0x0800 ++ le 1 6 ++ le 1 4 ++ be 2 2 ++ macBytes s x ++ ipv4 s x ++ mac ++ ip) s :=
  if_neg (by simp [hup, hen]; omega)

theorem echo_icmp (mac ip : List Byte) {data : List Byte} (hfits : frameFits s x false data = true) :
    echo x 2 mac ip (ipv4 s x) data s =
      sendFrame x mac 0x0800 (le 1 0 ++ le 1 0 ++ be 2 (inetSum (be 4 0 ++ data)) ++ data) s :=
  if_neg (by simp [hup, hen, hfits]; omega)

end

theorem echo_other {k : Nat} {target : List Byte} (mac ip data : List Byte)
    (h : target ≠ if k = 0 ∨ k = 2 then ipv4 s x else ipv6 s x) : echo x k mac ip target data s = s :=
  if_pos (.inr (.inr (.inr (.inl h))))

end

/-- Settles O47: each row is its operation of the stream, endpoint or port at the command's instant. -/
theorem streamsOverLinks : Obligations.StreamsOverLinks := by
  unfold Obligations.StreamsOverLinks
  refine ⟨?goBack, ?noGoBack, ?heartbeat, ?ack, ?noAck, ?data, ?credit, ?arp, ?icmp, ?other, ?dropped⟩
  case goBack =>
    rintro at_ n s u rfl hrun hany hwaits heth hdue
    exact congrArg Host.Outcome.next ((unlessPaused_runs hrun).trans (goBackTimer_due hany hwaits heth hdue))
  case noGoBack =>
    rintro at_ n s u rfl h1 h2
    exact congrArg Host.Outcome.next (unlessPaused_same (goBackTimer_other h1 h2))
  case heartbeat =>
    rintro at_ n x v s u rfl hport hx hv hsent hagain hdue
    exact congrArg Host.Outcome.next (heartbeat_due hport hx hv hsent hagain hdue)
  case ack =>
    rintro at_ n hdr body mac v s u rfl hv hmac hkind hstream hid hcount hnacks hlen hport
    exact congrArg Host.Outcome.next (ackDatagram_taken hv hmac hkind hstream hid hcount hnacks hlen hport)
  case noAck =>
    rintro at_ n hdr body mac v s u rfl hv hbad
    exact congrArg Host.Outcome.next (ackDatagram_refused hv hbad)
  case data =>
    rintro at_ x n b s u rfl hx hup hver hrelay
    exact congrArg Host.Outcome.next (dataFrame_relayed hx hup hver hrelay)
  case credit =>
    rintro at_ x n c a s u rfl hx hup hver hport
    exact congrArg Host.Outcome.next (creditFrame_taken c a hx hup hver hport)
  case arp =>
    rintro at_ x mac ip data s u rfl hx hup hen
    exact congrArg Host.Outcome.next (echo_arp hx hup hen mac ip data)
  case icmp =>
    rintro at_ x mac ip data s u rfl hx hup hen hfits
    exact congrArg Host.Outcome.next (echo_icmp hx hup hen mac ip hfits)
  case other =>
    rintro at_ x k mac ip target data s u rfl h
    exact congrArg Host.Outcome.next (echo_other mac ip data h)
  case dropped =>
    rintro at_ x n c a s u rfl hx - -
    exact congrArg Host.Outcome.next (creditFrame_dropped n c a hx)

end Sys2Proof.Machine
end

section
/-! SUPPORT. The order in which commands run, and the canonical forms as an invariant (02 R45; 13 R336, R338). -/

namespace Sys2Proof.Machine

theorem step_idle {s : State} (h : s.pending = []) : step s = .next s := by
  unfold step; rw [h]

theorem step_front (c : Instr) (rest : List Instr) (s : State) :
    step { s with pending := c :: rest } = exec c { s with pending := rest } := rfl

/-- Settles O1: the two forms of the queue. -/
theorem stepRunsFrontCommand : Obligations.StepRunsFrontCommand := by
  unfold Obligations.StepRunsFrontCommand
  exact ⟨fun _ => step_idle, step_front⟩

theorem canonical_iff (s : State) : s.canonical ↔ cfgWf s.cfg = true ∧ PartsOk s.flash := Iff.rfl

theorem Keep.canonical {s t : State} (k : Keep s t) (h : s.canonical) : t.canonical := by
  obtain ⟨hcfg, hparts⟩ := (canonical_iff s).1 h
  exact (canonical_iff t).2 ⟨k.cfg hcfg, k.mem hparts⟩

/-- Settles O3: no word and no byte is listed at reset, and every group starts in TRIP. -/
theorem resetIsCanonical : Obligations.ResetIsCanonical := by
  unfold Obligations.ResetIsCanonical
  have hgroup : ∀ g, (safeGroup State.reset g).toggling = false := fun _ => rfl
  refine ⟨⟨rfl, rfl, rfl, rfl⟩, fun g h => ?_, ?_⟩
  · exact absurd ((hgroup g).symm.trans h) Bool.false_ne_true
  · exact List.all_eq_true.2 fun g _ => by rw [hgroup]; rfl

/-- Settles O4: an idle step changes nothing, and the front command keeps the canonical forms. -/
theorem stepKeepsCanonical : Obligations.StepKeepsCanonical := by
  unfold Obligations.StepKeepsCanonical
  intro s t h hs
  rcases step_cases h with rfl | ⟨cmd, rest, -, hrun⟩
  · exact hs
  · have k : Keep { s with pending := rest } t := exec_keep hrun
    exact k.canonical hs

end Sys2Proof.Machine
end

section
/-! SUPPORT. The checks of a packet, one verdict a lemma (13 R327, R328, R334, R337): what `serve` does with a packet that fails
a check, and what it does with one whose tag has been seen. -/

namespace Sys2Proof.Machine

theorem receive_takes {op : Nat} {p : Packet} {s : State} (h : takesPackets p s) (take : Packet → State → State) :
    receive op p take s = take p s := if_pos h

/-- The trailer is missing from a session that uses one, or does not verify (13 R324). -/
abbrev badTrailer (op : Nat) (p : Packet) (v : Session) : Bool :=
  (v.trailer && !bit 3 p.flags) || (bit 3 p.flags && hmac v.key (packetBytes op p) != p.trailer)

/-- What a packet that fails one of checks 1 to 3 leaves: an answer outside any session on PCIe, a count on Ethernet. -/
def unproven (op : Nat) (p : Packet) (status : Nat) (auth : Bool) (s : State) : State :=
  if p.port = 0 then answerBare op p status s else dropPacket p auth s

section
variable {op : Nat} {p : Packet} {need : Req → State → Nat} {ok : Req → State → Bool} {body : Req → State → State}
  {v : Session} {s : State}

/-! ### Checks 1 to 3 -/

theorem serve_wrongLength (hlength : lengthOk p = false) : serve op need ok body p s = unproven op p stInvalid false s := by
  unfold serve serveAt
  rw [if_pos (by simp [hlength])]
  rfl

theorem serve_noSession (hlength : lengthOk p = true) (hsession : packetSession p s = none) :
    serve op need ok body p s = unproven op p stDenied true s := by
  unfold packetSession at hsession
  unfold serve serveAt
  rw [if_neg (not_not_intro hlength), hsession]
  rfl

section
variable (hlength : lengthOk p = true) (hsession : packetSession p s = some v)
include hlength hsession

theorem serve_badTrailer (htrailer : badTrailer op p v = true) :
    serve op need ok body p s = unproven op p stDenied true s := by
  unfold packetSession at hsession
  unfold serve serveAt
  rw [if_neg (not_not_intro hlength), hsession]
  exact if_pos htrailer

/-! ### The tag, the version and the opcode -/

variable (htrailer : badTrailer op p v = false)
include htrailer

theorem serve_stale (hstale : judgeTag v p.tag = 3) :
    serve op need ok body p s = onSession v.id (fun x => { x with lastPacket := s.now }) s := by
  unfold packetSession at hsession
  unfold serve serveAt
  rw [if_neg (not_not_intro hlength), hsession]
  exact (if_neg (ne_true_of_eq_false htrailer)).trans (if_pos hstale)

theorem serve_duplicate (hseen : judgeTag v p.tag = 2) : serve op need ok body p s
    = resend v (mkReq op p v s) (p.tag % 65536) (onSession v.id (fun x => { x with lastPacket := s.now }) s) := by
  unfold packetSession at hsession
  unfold serve serveAt
  rw [if_neg (not_not_intro hlength), hsession]
  exact (if_neg (ne_true_of_eq_false htrailer)).trans ((if_neg (by omega)).trans (if_pos hseen))

variable (hnew : judgeTag v p.tag ≤ 1) (hmajor : p.major = v.major) (hminor : p.minor = v.minor)
include hnew hmajor hminor

theorem serve_unknown (hrow : opRow op = none) :
    serve op need ok body p s = refuse (mkReq op p v s) stUnknown (seenState p v s) := by
  unfold packetSession at hsession
  unfold serve serveAt
  rw [if_neg (not_not_intro hlength), hsession]
  refine (if_neg (ne_true_of_eq_false htrailer)).trans ((if_neg (by omega)).trans ((if_neg (by omega)).trans ?_))
  rw [if_neg (by simp [hmajor, hminor]), hrow]
  rfl

theorem serve_known {row : OpRow} (hrow : opRow op = some row) (hdefined : definedIn row v.major v.minor = true) :
    serve op need ok body p s = passChecks row p v (mkReq op p v s) (need (mkReq op p v s) (seenState p v s))
      (ok (mkReq op p v s) (seenState p v s)) (fun _ _ => false) body (seenState p v s) := by
  unfold packetSession at hsession
  unfold serve serveAt
  rw [if_neg (not_not_intro hlength), hsession]
  refine (if_neg (ne_true_of_eq_false htrailer)).trans ((if_neg (by omega)).trans ((if_neg (by omega)).trans ?_))
  rw [if_neg (by simp [hmajor, hminor]), hrow]
  exact if_neg (not_not_intro hdefined)

end

/-! ### The sixty-fifth request (13 R337) -/

theorem passChecks_busy {row : OpRow} (hrole : meets v.role (need (mkReq op p v s) (seenState p v s)) = true)
    (hstage : (row.trunk || inCrown (seenState p v s)) = true)
    (hok : (flagsOk row p v (seenState p v s) && ok (mkReq op p v s) (seenState p v s)) = true)
    (hlate : ¬ (lateAt op p v s = true ∧ (mkReq op p v s).runNow = false))
    (hfull : 64 < (((session? (takenState p v s) v.id).map (·.owed.length)).getD 0)) :
    passChecks row p v (mkReq op p v s) (need (mkReq op p v s) (seenState p v s))
      (ok (mkReq op p v s) (seenState p v s)) (fun _ _ => false) body (seenState p v s)
      = refuse (request op p v s) stBusy (takenState p v s) := by
  unfold passChecks
  rw [if_neg (not_not_intro hrole), if_neg (not_not_intro hstage), if_neg (not_not_intro hok)]
  have hrun : ¬ ((isLate (mkReq op p v s) (seenState p v s) && !(mkReq op p v s).runNow) || false) = true := by
    rw [Bool.or_false, Bool.and_eq_true, Bool.not_eq_true']
    exact hlate
  exact (if_neg hrun).trans (if_pos hfull)

end

/-- Settles O58: a request that would be owed beyond the 64 is refused, and an accepted one is among them. -/
theorem sixtyFourRequests : Obligations.SixtyFourRequests := by
  unfold Obligations.SixtyFourRequests
  constructor
  · intro op need ok body p v row s htakes hlength hsession htrailer hnew hmajor hminor hrow hdefined hrole hstage hok hlate
      hfull
    rw [receive_takes htakes, serve_known hlength hsession htrailer hnew hmajor hminor hrow hdefined]
    exact passChecks_busy hrole hstage hok hlate hfull
  · rintro op need ok p v s ⟨-, -, -, -, -, -, -, row, -, -, -, -, -, -, hroom, -⟩
    exact Nat.le_of_not_lt hroom

/-! ### Answers outside any session (13 R328) -/

/-- A reply without a body is one packet of 4 bytes of parameters. -/
theorem replyBytes_empty (op major minor tag sess status : Nat) :
    replyBytes op major minor tag sess 8192 none status true none []
      = [packetHeader op major minor tag 4 sess 48 ++ (le 2 status ++ le 2 0)] := by
  simp [replyBytes, segments, segment, le, b2n]

theorem answerBare_pcie {op : Nat} {p : Packet} (status : Nat) {s : State} (hport : p.port = 0) :
    answerBare op p status s = { s with host.backlog := s.host.backlog
      ++ [packetHeader op p.major p.minor p.tag 4 p.session 48 ++ (le 2 status ++ le 2 0)] } := by
  unfold answerBare
  rw [replyBytes_empty]
  exact if_pos hport

theorem raiseOrig_side (ecode idKind port : Nat) (ident : List Byte) (n : Nat) (s : State) :
    (raiseOrig ecode idKind port ident n s).cz = s.cz ∧ (raiseOrig ecode idKind port ident n s).out = s.out
      ∧ (raiseOrig ecode idKind port ident n s).host = s.host := by
  unfold raiseOrig raiseOrigWith
  dsimp only
  split <;> exact ⟨rfl, rfl, rfl⟩

/-- A dropped packet counts once against its port, and nothing answers it. -/
theorem dropPacket_counts (p : Packet) (auth : Bool) (s : State) :
    (dropPacket p auth s).cz.dropped.get p.port 0 = s.cz.dropped.get p.port 0 + 1 ∧ (dropPacket p auth s).out = s.out
      ∧ (dropPacket p auth s).host.backlog = s.host.backlog ∧ (dropPacket p auth s).cz.sessions = s.cz.sessions := by
  have hcount (n : Nat) : (s.cz.dropped.put p.port n).get p.port 0 = n := by rw [Tab.get_put, if_pos rfl]
  unfold dropPacket
  dsimp only
  split
  · obtain ⟨hcz, hout, hhost⟩ := raiseOrig_side 0x0E10 (if p.source.length = 4 then 1 else 2) p.port p.source 1
      { s with cz.dropped := s.cz.dropped.put p.port (s.cz.dropped.get p.port 0 + 1) }
    rw [hcz, hout, hhost]
    exact ⟨hcount _, rfl, rfl, rfl⟩
  · exact ⟨hcount _, rfl, rfl, rfl⟩

theorem unproven_ethernet {op : Nat} {p : Packet} (hport : p.port ≠ 0) (status : Nat) (auth : Bool) (s : State) :
    unproven op p status auth s = dropPacket p auth s := if_neg hport

theorem unproven_pcie {op : Nat} {p : Packet} (hport : p.port = 0) (status : Nat) (auth : Bool) (s : State) :
    unproven op p status auth s = answerBare op p status s := if_pos hport

/-- Settles O59: by the check that fails and the kind of port. -/
theorem packetsThatFailAuthentication : Obligations.PacketsThatFailAuthentication := by
  unfold Obligations.PacketsThatFailAuthentication
  refine ⟨?dropped, ?forged, ?length, ?session, ?trailer⟩
  case dropped =>
    rintro op need ok body p s t htakes hport hbad rfl
    rw [receive_takes htakes]
    cases hlength : lengthOk p with
    | false => rw [serve_wrongLength hlength, unproven_ethernet hport]; exact dropPacket_counts ..
    | true =>
      have hsession : packetSession p s = none := hbad.resolve_left (by simp [hlength])
      rw [serve_noSession hlength hsession, unproven_ethernet hport]
      exact dropPacket_counts ..
  case forged =>
    rintro op need ok body p v s t htakes hport hlength hsession htrailer rfl
    rw [receive_takes htakes, serve_badTrailer hlength hsession htrailer, unproven_ethernet hport]
    exact dropPacket_counts ..
  case length =>
    intro op need ok body p s htakes hport hlength
    rw [receive_takes htakes, serve_wrongLength hlength, unproven_pcie hport, answerBare_pcie _ hport]
  case session =>
    intro op need ok body p s htakes hport hlength hsession
    rw [receive_takes htakes, serve_noSession hlength hsession, unproven_pcie hport, answerBare_pcie _ hport]
  case trailer =>
    intro op need ok body p v s htakes hport hlength hsession htrailer
    rw [receive_takes htakes, serve_badTrailer hlength hsession htrailer, unproven_pcie hport, answerBare_pcie _ hport]

/-! ### Tags (13 R334) -/

section
variable {v : Session} {t k : Nat}

theorem judgeTag_ahead (hhigh : v.high < 65536) (h1 : 1 ≤ k) (h2 : k < 32768) :
    judgeTag v ((v.high + k) % 65536) = 1 := by
  unfold judgeTag
  dsimp only
  rw [if_neg (by omega), if_pos (by omega)]

theorem judgeTag_window (hhigh : v.high < 65536) (h : k < 64) : judgeTag v ((v.high + 65536 - k) % 65536)
    = if v.seen.contains ((v.high + 65536 - k) % 65536) then 2 else 0 := by
  unfold judgeTag
  dsimp only
  rw [if_pos (by omega), Nat.mod_mod]

theorem judgeTag_behind (hhigh : v.high < 65536) (h1 : 64 ≤ k) (h2 : k ≤ 32768) :
    judgeTag v ((v.high + 65536 - k) % 65536) = 3 := by
  unfold judgeTag
  dsimp only
  rw [if_neg (by omega), if_neg (by omega)]

/-- A tag that is new and no new highest lies in the window. -/
theorem judgeTag_zero (h : judgeTag v t = 0) : (v.high + 65536 - t % 65536) % 65536 < 64 := by
  by_contra hfar
  unfold judgeTag at h
  dsimp only at h
  rw [if_neg hfar] at h
  split at h <;> omega

theorem seeTag_high (ht : t < 65536) : (seeTag v t).high = if judgeTag v t = 1 then t else v.high := by
  unfold seeTag
  dsimp only
  rw [Nat.mod_eq_of_lt ht]

theorem mem_seeTag {x : Nat} (hx : x ∈ v.seen) (hnear : ((seeTag v t).high + 65536 - x) % 65536 < 64) :
    x ∈ (seeTag v t).seen :=
  List.mem_filter.2 ⟨List.mem_cons_of_mem _ hx, decide_eq_true hnear⟩

/-- A tag that is marked and lies in the window is a duplicate. -/
theorem judgeTag_seen (ht : t < 65536) (hmem : t ∈ v.seen) (hnear : (v.high + 65536 - t) % 65536 < 64) : judgeTag v t = 2 := by
  unfold judgeTag
  dsimp only
  rw [Nat.mod_eq_of_lt ht, if_pos hnear, if_pos (List.contains_iff_mem.2 hmem)]

/-- Once seen, a tag is a duplicate. -/
theorem judgeTag_seeTag (ht : t < 65536) (hnew : judgeTag v t ≤ 1) : judgeTag (seeTag v t) t = 2 := by
  have hnear : ((seeTag v t).high + 65536 - t) % 65536 < 64 := by
    rw [seeTag_high ht]
    split
    · omega
    next h =>
      have hwindow := judgeTag_zero (v := v) (t := t) (by omega)
      rwa [Nat.mod_eq_of_lt ht] at hwindow
  refine judgeTag_seen ht ?_ hnear
  refine List.mem_filter.2 ⟨?_, decide_eq_true hnear⟩
  rw [Nat.mod_eq_of_lt ht]
  exact List.mem_cons_self

end

/-- What is cached of a tag goes out again (13 R335). -/
theorem resend_cached {v : Session} {tag : Nat} (hcached : (v.cache.any fun b => decide (b.1 = tag)) = true) (r : Req) (s : State) :
    resend v r tag s = (v.cache.filter fun b => b.1 == tag).foldl (fun s b => sendBytes v.port r.source r.srcPort b.2 s) s := by
  obtain ⟨b, hb, htag⟩ := List.any_eq_true.1 hcached
  have hmem : b ∈ v.cache.filter fun b => b.1 == tag := List.mem_filter.2 ⟨hb, by simpa using htag⟩
  unfold resend
  exact if_neg (by simpa using List.ne_nil_of_mem hmem)

end Sys2Proof.Machine
end

section
/-! SUPPORT. Opening a session (13 R329 to R332): the journal and the replies leave the command processor's records alone, so
that what a SESSION_OPEN adds is the session and its count. -/

namespace Sys2Proof.Machine

/-! ### The journal's entries (16 R405 to R410) -/

@[simp] theorem raiseOnce_cz (e : Ev) (s : State) : (raiseOnce e s).cz = s.cz := by
  unfold raiseOnce
  split
  · rfl
  · exact raise_cz ..

@[simp] theorem jWrite_cz (e : JEntry) (s : State) : (jWrite e s).cz = s.cz := by
  unfold jWrite
  dsimp only
  split
  · rfl
  · split <;> rfl

@[simp] theorem put3_cz (ft n : Nat) (b : List Byte) (s : State) : (put3 ft n b s).cz = s.cz := by
  unfold put3
  dsimp only
  split <;> rfl

@[simp] theorem jMirror_cz (s : State) : (jMirror s).cz = s.cz := by
  unfold jMirror
  split
  · exact List.foldlRecOn (motive := fun t : State => t.cz = s.cz) _ _ rfl fun t ht e _ => (put3_cz _ _ _ t).trans ht
  · rfl

@[simp] theorem jAppend_cz (e : JEntry) (s : State) : (jAppend e s).cz = s.cz := by
  unfold jAppend
  split
  · rfl
  · split
    · exact raiseOnce_cz ..
    · rw [jMirror_cz, jWrite_cz]

@[simp] theorem jCommand_cz (r : Req) (accepted : Bool) (unit : Nat) (body : List Byte) (s : State) :
    (jCommand r accepted unit body s).cz = s.cz :=
  List.foldlRecOn (motive := fun t : State => t.cz = s.cz) _ _ rfl fun t ht _ _ => (jAppend_cz _ t).trans ht

@[simp] theorem jDone_cz (r : Req) (reply : List Byte) (s : State) : (jDone r reply s).cz = s.cz := jCommand_cz ..

/-! ### Replies to a SESSION_OPEN -/

@[simp] theorem sendOpen_cz (p : Packet) (v : Nat × Nat) (status : Nat) (body : List Byte) (s : State) :
    (sendOpen p v status body s).cz = s.cz :=
  List.foldlRecOn (motive := fun t : State => t.cz = s.cz) _ _ rfl fun t ht b _ => (sendBytes_cz _ _ _ b t).trans ht

theorem sendOpen_still (p : Packet) (v : Nat × Nat) (status : Nat) (body : List Byte) {s0 s : State} (h : Still s0 s) :
    Still s0 (sendOpen p v status body s) :=
  foldl_still _ (fun _ _ => sendBytes_still (.refl _)) h

/-! ### The session that opens -/

/-- The id of the next session: the start count and the sessions opened in this start (13 R331). -/
def nextSession (s : State) : Nat := s.boot.startCount % 4096 * 2 ^ 20 + (s.cz.opened + 1)

/-- The session joins those of the hub as its last, with the version and role it was given and its tag as the highest. -/
theorem openSession_cz (p : Packet) (v : Nat × Nat) (a : OpenAsk) (g : Nat × List Byte) (s : State) :
    ∃ w : Session, w.id = nextSession s ∧ w.role = g.1 ∧ w.high = p.tag % 65536 ∧ (w.major, w.minor) = v
      ∧ (openSession p v a g s).cz = { s.cz with opened := s.cz.opened + 1, sessions := s.cz.sessions ++ [w] } := by
  unfold openSession
  dsimp only
  rw [sendOpen_cz, jDone_cz]
  exact ⟨_, rfl, rfl, rfl, rfl, rfl⟩

theorem openSession_still (p : Packet) (v : Nat × Nat) (a : OpenAsk) (g : Nat × List Byte) (s : State) :
    Still { s with draw := s.draw + 1 } (openSession p v a g s) :=
  sendOpen_still _ _ _ _ (jDone_still (still_cz { s with draw := s.draw + 1 } _))

/-- Settles O56: the verdict by the distance, the window by what it keeps, and each verdict by what `serve` makes of it. -/
theorem tagsAreJudged : Obligations.TagsAreJudged := by
  unfold Obligations.TagsAreJudged
  refine ⟨fun v k => judgeTag_ahead, fun v k => judgeTag_window, fun v k => judgeTag_behind, ?seen, ?stale, ?duplicate,
    ?runs, ?opened⟩
  case seen =>
    rintro v w t - ht hnew rfl
    exact ⟨seeTag_high ht, judgeTag_seeTag ht hnew, fun x => mem_seeTag⟩
  case stale =>
    intro op need ok body p v s htakes hlength hsession htrailer hstale
    rw [receive_takes htakes, serve_stale hlength hsession htrailer hstale]
  case duplicate =>
    intro op need ok body p v s htakes hlength hsession htrailer hseen hcached
    rw [receive_takes htakes, serve_duplicate hlength hsession htrailer hseen, resend_cached hcached]
    rfl
  case runs =>
    intro op need ok body p v s h
    exact serve_accepted body h
  case opened =>
    rintro p v a g s t rfl
    obtain ⟨w, -, -, hhigh, -, hcz⟩ := openSession_cz p v a g s
    rw [hcz, List.getLast?_concat]
    exact congrArg some hhigh

/-! ### Versions (13 R330) -/

/-- The number by which versions are compared. -/
abbrev versionNo (v : Nat × Nat) : Nat := 256 * v.1 + v.2

/-- The hub's versions that lie in an offer. -/
def offered (lo hi : Nat) : List (Nat × Nat) := hubVersions.filter fun v => decide (lo ≤ versionNo v ∧ versionNo v ≤ hi)

theorem mem_offered {lo hi : Nat} {v : Nat × Nat} :
    v ∈ offered lo hi ↔ v ∈ hubVersions ∧ lo ≤ versionNo v ∧ versionNo v ≤ hi := by
  rw [offered, List.mem_filter, decide_eq_true_eq]

/-- The versions rise. -/
theorem offered_sorted (lo hi : Nat) : (offered lo hi).Pairwise (fun v w => versionNo v ≤ versionNo w) :=
  List.Pairwise.filter _ (by decide)

/-- The last of them is the highest. -/
theorem le_last_offered {lo hi : Nat} {v w : Nat × Nat} (hlast : (offered lo hi).getLast? = some v) (hw : w ∈ offered lo hi) :
    versionNo w ≤ versionNo v := by
  have hv : v = (offered lo hi).getLast (List.ne_nil_of_mem hw) :=
    Option.some.inj (hlast.symm.trans (List.getLast?_eq_some_getLast _))
  exact hv ▸ (offered_sorted lo hi).rel_getLast_of_rel_getLast_getLast hw le_rfl

section
variable {p : Packet} {lo hi : Nat} (hform : ¬ (p.major = 1 ∧ p.minor = 2))
  (hlo : lo = 256 * fld 0 1 p.params + fld 1 1 p.params) (hhi : hi = 256 * p.major + p.minor)
include hform hlo hhi

theorem negotiate_range : negotiate p = (offered lo hi).getLast? := by
  subst hlo hhi
  exact if_neg (by simpa [oldForm] using hform)

theorem negotiate_none (h : (hubVersions.any fun w => decide (lo ≤ versionNo w ∧ versionNo w ≤ hi)) = false) :
    negotiate p = none := by
  rw [negotiate_range hform hlo hhi, List.getLast?_eq_none_iff, offered, List.filter_eq_nil_iff]
  exact List.any_eq_false.1 h

end

/-! ### SESSION_OPEN outside any session -/

section
variable {p : Packet} {s : State} (htakes : takesPackets p s) (hout : p.session = 0) (hlength : lengthOk p = true)
  (hbare : bit 3 p.flags = false)
include htakes hout hlength hbare

theorem sessionOpen_new : receive 0 p openServe s = openNew p s := by
  rw [receive_takes htakes]
  unfold openServe
  rw [if_neg (not_not_intro hout), if_neg (not_not_intro hlength), if_neg (ne_true_of_eq_false hbare)]

theorem sessionOpen_unsupported (hnone : negotiate p = none) :
    receive 0 p openServe s = sendOpen p (p.major, p.minor) stUnsupported [1, 2, 2, 3] s := by
  rw [sessionOpen_new htakes hout hlength hbare]
  unfold openNew
  rw [hnone]

variable {v : Nat × Nat} {a : OpenAsk} (hversion : negotiate p = some v) (hask : openAsk p = some a)
include hversion hask

theorem sessionOpen_denied (hgrant : openGrant p.port a.credential s = none) :
    receive 0 p openServe s = sendOpen p v stDenied [] s := by
  rw [sessionOpen_new htakes hout hlength hbare]
  simp only [openNew, hversion, hask, hgrant]

variable {g : Nat × List Byte} (hgrant : openGrant p.port a.credential s = some g)
include hgrant

theorem sessionOpen_busy (hfull : portFull p.port s = true) : receive 0 p openServe s = sendOpen p v stBusy [] s := by
  rw [sessionOpen_new htakes hout hlength hbare]
  simp only [openNew, hversion, hask, hgrant, hfull, if_true]

theorem sessionOpen_opens (hroom : portFull p.port s = false) (hjournal : s.jrn.failed = false) :
    receive 0 p openServe s = openSession p v a g s := by
  rw [sessionOpen_new htakes hout hlength hbare]
  simp only [openNew, hversion, hask, hgrant, hroom, hjournal, Bool.false_eq_true, if_false]

end

/-- The refusal of an offer names the lowest and the highest version of the hub. -/
theorem openReply_unsupported (p : Packet) : openReply p (p.major, p.minor) stUnsupported [1, 2, 2, 3]
    = [packetHeader 0 p.major p.minor p.tag 8 0 48 ++ (le 2 stUnsupported ++ le 2 0) ++ [1, 2, 2, 3]] := by
  simp [openReply, replyBytes, segments, segment, le, b2n]

/-- Settles O60: the highest version of the offer, its refusal on either kind of port, and the session that speaks it. -/
theorem versionsAreNegotiated : Obligations.VersionsAreNegotiated := by
  unfold Obligations.VersionsAreNegotiated
  refine ⟨rfl, ?old, ?highest, ?pcie, ?ethernet, ?speaks⟩
  case old =>
    intro p hmajor hminor
    exact if_pos (by simp [oldForm, hmajor, hminor])
  case highest =>
    intro p v lo hi hform hlo hhi hv
    rw [negotiate_range hform hlo hhi] at hv
    obtain ⟨hmem, hmin, hmax⟩ := mem_offered.1 (List.mem_of_getLast? hv)
    refine ⟨hmem, hmin, hmax, fun w hw hwlo hwhi => ?_⟩
    exact le_last_offered hv (mem_offered.2 ⟨hw, hwlo, hwhi⟩)
  case pcie =>
    rintro at_ p lo hi s u rfl htakes hout hport hlength hbare hform hlo hhi hnone
    refine congrArg Host.Outcome.next ?_
    rw [sessionOpen_unsupported htakes hout hlength hbare (negotiate_none hform hlo hhi hnone), sendOpen,
      openReply_unsupported]
    exact if_pos hport
  case ethernet =>
    rintro at_ p lo hi s u rfl htakes hout hport hlength hbare hform hlo hhi hnone
    refine congrArg Host.Outcome.next ?_
    rw [sessionOpen_unsupported htakes hout hlength hbare (negotiate_none hform hlo hhi hnone), sendOpen,
      openReply_unsupported]
    exact if_neg hport
  case speaks =>
    rintro p v a g s t rfl
    obtain ⟨w, -, -, -, hversion, hcz⟩ := openSession_cz p v a g s
    rw [hcz, List.getLast?_concat]
    exact congrArg some hversion

end Sys2Proof.Machine
end

section
/-! SUPPORT. Sessions close, ping and resend (13 R333, R335, R347; 14 R367). -/

namespace Sys2Proof.Machine

/-! ### The ids of the sessions -/

/-- The ids of the sessions of the hub, in the order in which they opened. -/
def sessionIds (s : State) : List Nat := s.cz.sessions.map (·.id)

theorem sessionIds_onSession {f : Session → Session} (hf : ∀ x, (f x).id = x.id) (id : Nat) (s : State) :
    sessionIds (onSession id f s) = sessionIds s := by
  have hid : (fun x : Session => x.id) ∘ (fun x => if x.id = id then f x else x) = fun x => x.id := by
    funext x
    dsimp only [Function.comp_apply]
    split
    · exact hf x
    · rfl
  unfold sessionIds onSession
  rw [List.map_map, hid]

theorem sessionIds_sendReply (v : Session) (r : Req) (st : Nat) (final : Bool) (body : List Byte) (s : State) :
    sessionIds (sendReply v r st final body s) = sessionIds s := by
  unfold sendReply
  dsimp only
  rw [sessionIds_onSession (by intro _; rfl)]
  exact List.foldlRecOn (motive := fun t : State => sessionIds t = sessionIds s) _ _ rfl fun t ht b _ => by
    rw [sessionIds, sendBytes_cz]; exact ht

theorem sessionIds_answer (r : Req) (st : Nat) (body : List Byte) (s : State) :
    sessionIds (answer r st body s) = sessionIds s := by
  unfold answer replyTo
  split
  · rfl
  · unfold replyIn
    split
    · rfl
    · exact sessionIds_sendReply ..

theorem accepted_session_mem {op : Nat} {p : Packet} {need : Req → State → Nat} {ok : Req → State → Bool} {v : Session}
    {s : State} (h : Accepted op p need ok v s) : (request op p v s).session ∈ sessionIds (takenState p v s) := by
  obtain ⟨x, hx, hid⟩ := List.find?_isSome.1 (accepted_sessionOpen h)
  exact List.mem_map.2 ⟨x, hx, beq_iff_eq.1 hid⟩

/-! ### A session ends -/

theorem abandonFw_eq (s : State) : ∃ fl, abandonFw s = { s with cz.fw := none, flash := fl } := by
  unfold abandonFw
  split
  next h => exact ⟨s.flash, by rw [← h]⟩
  · dsimp only
    split <;> exact ⟨_, rfl⟩

/-- The session leaves the list, and its transfer of an image closes. -/
theorem endSession_eq (id : Nat) (s : State) : ∃ fw fl, endSession id s
    = { s with cz.sessions := s.cz.sessions.filter (·.id != id), cz.fw := fw, flash := fl } := by
  obtain ⟨fl, hfl⟩ := abandonFw_eq (dropSession id s)
  unfold endSession
  dsimp only
  split
  · exact ⟨s.cz.fw, s.flash, rfl⟩
  · split
    · exact ⟨none, fl, hfl⟩
    · exact ⟨s.cz.fw, s.flash, rfl⟩

theorem closeSession_eq (id : Nat) (s : State) : ∃ fw fl b, closeSession id s
    = { s with cz.sessions := s.cz.sessions.filter (·.id != id), cz.fw := fw, flash := fl, host.backlog := b } := by
  obtain ⟨fw, fl, h⟩ := endSession_eq id (dropReplies id s)
  exact ⟨fw, fl, _, h⟩

/-- The replies of a session that waits for RING1 are dropped with it. -/
theorem closeServe_closes {p : Packet} {v : Session} {s : State} {r : Req} {z t : State}
    (ha : Accepted 0x0001 p tableRole (exactly 0) v s) (hr : r = request 0x0001 p v s) (hz : z = takenState p v s)
    (ht : t = receive 0x0001 p closeServe s) :
    (t.cz.sessions.all fun x => decide (x.id ≠ r.session)) = true ∧ t.cz.sessions.length < z.cz.sessions.length
      ∧ t.cfg = z.cfg ∧ t.chans = z.chans ∧ t.time = z.time := by
  let u : State := answer r stOk [] (jDone r [] (dropReplies r.session z))
  have hstill : Still z u := answer_still (jDone_still (dropReplies_still (.refl z)))
  have hids : u.cz.sessions.map (·.id) = z.cz.sessions.map (·.id) := by
    change sessionIds (answer r stOk [] (jDone r [] (dropReplies r.session z))) = sessionIds z
    rw [sessionIds_answer, sessionIds, jDone_cz]
    rfl
  have hmem : r.session ∈ u.cz.sessions.map (·.id) := by
    rw [hids, hr, hz]
    exact accepted_session_mem ha
  have hlength : u.cz.sessions.length = z.cz.sessions.length := by simpa using congrArg List.length hids
  obtain ⟨fw, fl, hend⟩ := endSession_eq r.session u
  have htu : t = endSession r.session u := by
    rw [ht]
    unfold closeServe
    rw [serve_accepted _ ha, ← hr, ← hz]
  rw [htu, hend]
  refine ⟨?_, ?_, hstill.cfg, hstill.chans, hstill.time⟩
  · exact List.all_eq_true.2 fun x hx => by simpa using (List.mem_filter.1 hx).2
  · obtain ⟨x, hx, hid⟩ := List.mem_map.1 hmem
    exact hlength ▸ List.length_filter_lt_length_iff_exists.2 ⟨x, hx, by simp [hid]⟩

/-! ### Time runs out for a session (13 R329, R333) -/

section
variable {v : Session} {s : State} (hsession : session? s v.id = some v)
include hsession

theorem keepaliveExpiry_due (hport : v.port ≠ 0) (hdue : v.lastPacket + v.keepalive * secU ≤ s.now) :
    keepaliveExpiry v.id s = closeSession v.id s := by
  unfold keepaliveExpiry
  rw [hsession]
  exact if_pos ⟨hport, hdue⟩

theorem keepaliveExpiry_early (h : v.port = 0 ∨ s.now < v.lastPacket + v.keepalive * secU) : keepaliveExpiry v.id s = s := by
  unfold keepaliveExpiry
  rw [hsession]
  exact if_neg (by omega)

theorem pendingDiscard_due {since : Nat} (hpending : v.pending = some since) (hdue : since + 5 * secU ≤ s.now) :
    pendingDiscard v.id s = closeSession v.id s := by
  unfold pendingDiscard
  simp only [hsession, hpending]
  exact if_pos hdue

end

/-! ### SESSION_RESEND (13 R335) -/

section
variable {r : Req} {x : Session} {s : State} (hsession : session? s r.session = some x)
include hsession

theorem resendRun_cached (hcached : (x.cache.filter (·.1 == r.f 0 2)).isEmpty = false) :
    resendRun r s = onSession r.session (fun y => { y with owed := y.owed.filter (· != r.tag) })
      ((x.cache.filter (·.1 == r.f 0 2)).foldl (fun s b => sendBytes x.port r.source r.srcPort b.2 s) s) := by
  unfold resendRun
  rw [hsession]
  exact if_neg (ne_true_of_eq_false hcached)

theorem resendRun_empty (hcached : (x.cache.filter (·.1 == r.f 0 2)).isEmpty = true) :
    resendRun r s = refuse r stConflict s := by
  unfold resendRun
  rw [hsession]
  exact if_pos hcached

end

/-! ### An opcode that no version defines (14 R352) -/

theorem unknownOpcode_refused {p : Packet} {op : Nat} {v : Session} {s : State} (hrow : (opRow op).isNone = true)
    (htakes : takesPackets p s) (hlength : lengthOk p = true) (hsession : packetSession p s = some v)
    (hplain : v.trailer = false) (hbare : bit 3 p.flags = false) (hnew : judgeTag v p.tag ≤ 1) (hmajor : p.major = v.major)
    (hminor : p.minor = v.minor) :
    receive op p (unknownServe op) s = refuse (mkReq op p v s) stUnknown (seenState p v s) := by
  rw [receive_takes htakes]
  exact serve_unknown hlength hsession (by simp [hplain, hbare]) hnew hmajor hminor (Option.isNone_iff_eq_none.1 hrow)

/-- Settles O51: each command is its operation at the command's instant; an opening and a closing by what they leave. -/
theorem sessions : Obligations.Sessions := by
  unfold Obligations.Sessions
  refine ⟨?opens, ?opened, ?denied, ?unsupported, ?busy, ?closes, ?ping, ?resends, ?nothingCached, ?keepalive, ?alive, ?pending,
    ?closed, ?unknown⟩
  case opens =>
    rintro at_ p v a g s u rfl htakes hout hlength hbare hversion hask hgrant hroom hjournal
    exact congrArg Host.Outcome.next (sessionOpen_opens htakes hout hlength hbare hversion hask hgrant hroom hjournal)
  case opened =>
    rintro p v a g s t rfl
    obtain ⟨w, hid, hrole, -, -, hcz⟩ := openSession_cz p v a g s
    have k := openSession_still p v a g s
    refine ⟨?_, ?_, by rw [hcz], k.draw, k.cfg, k.time, k.chans, k.trg⟩
    · rw [hcz]; simp [hid, nextSession]
    · rw [hcz]; simp [hrole]
  case denied =>
    rintro at_ p v a s u rfl htakes hout hlength hbare hversion hask hgrant
    exact congrArg Host.Outcome.next (sessionOpen_denied htakes hout hlength hbare hversion hask hgrant)
  case unsupported =>
    rintro at_ p s u rfl htakes hout hlength hbare hnone
    exact congrArg Host.Outcome.next (sessionOpen_unsupported htakes hout hlength hbare hnone)
  case busy =>
    rintro at_ p v a g s u rfl htakes hout hlength hbare hversion hask hgrant hfull
    exact congrArg Host.Outcome.next (sessionOpen_busy htakes hout hlength hbare hversion hask hgrant hfull)
  case closes =>
    rintro at_ p v r z s u rfl ha hr hz -
    exact ⟨_, rfl, closeServe_closes ha hr hz rfl⟩
  case ping =>
    rintro at_ p v r z s u rfl ha rfl rfl
    exact congrArg Host.Outcome.next (serve_accepted _ ha)
  case resends =>
    rintro at_ p v r z x s u rfl ha rfl rfl hsession hcached
    exact congrArg Host.Outcome.next ((serve_accepted _ ha).trans (resendRun_cached hsession hcached))
  case nothingCached =>
    rintro at_ p v r z x s u rfl ha rfl rfl hsession hcached
    exact congrArg Host.Outcome.next ((serve_accepted _ ha).trans (resendRun_empty hsession hcached))
  case keepalive =>
    rintro at_ v s u rfl hrun hsession hport hdue
    exact congrArg Host.Outcome.next ((unlessPaused_runs hrun).trans (keepaliveExpiry_due hsession hport hdue))
  case alive =>
    rintro at_ v s u rfl hsession h
    exact congrArg Host.Outcome.next (unlessPaused_same (keepaliveExpiry_early hsession h))
  case pending =>
    rintro at_ v since s u rfl hrun hsession hpending hdue
    exact congrArg Host.Outcome.next ((unlessPaused_runs hrun).trans (pendingDiscard_due hsession hpending hdue))
  case closed =>
    rintro id s t rfl
    obtain ⟨fw, fl, b, h⟩ := closeSession_eq id s
    rw [h]
    exact ⟨rfl, rfl, rfl, rfl, rfl, rfl, rfl, rfl⟩
  case unknown =>
    rintro at_ p op v s u rfl hop hrow htakes hlength hsession hplain hbare hnew hmajor hminor
    have hno : (opRow op).isSome = false := by rw [Option.isNone_iff_eq_none.1 hrow]; rfl
    change Host.Outcome.next (if (opRow (op % 65536)).isSome then s.tick at_
      else receive (op % 65536) p (unknownServe (op % 65536)) (s.tick at_)) = _
    rw [Nat.mod_eq_of_lt hop, if_neg (ne_true_of_eq_false hno),
      unknownOpcode_refused hrow htakes hlength hsession hplain hbare hnew hmajor hminor]

end Sys2Proof.Machine
end

section
/-! SUPPORT. SCHED_CANCEL, PB_STAGE and the expiry of SERVICE_AUTH (13 R340, R344; 16 R402): three statements that leave out a
case of the model, each with a state in which it shows. -/

namespace Sys2Proof.Machine

/-! ### A hub that takes packets -/

/-- A session of version 2.3 on PCIe in the Service role, without a trailer. -/
def serviceSession : Session :=
  { (default : Session) with id := 1, major := 2, minor := 3, role := 5, maxReply := 8192 }

/-- A hub of two quires whose firmware runs and whose RING0 is ACTIVE, with sessions. -/
def ringHub (l : List Session) : State := { State.reset with
  part := { PartId.init with quires := 2 }
  boot := { (default : Boot) with fwRuns := true }
  host := { (default : HostPort) with
    linkUp := true, busMaster := true, rings := [(0, { (default : Ring) with state := 1 })] }
  cz := { (default : Cuzan) with sessions := l } }

/-- A packet of that session with parameters. -/
def servicePacket (l : List Byte) : Packet :=
  { port := 0, source := [], srcPort := 0, major := 2, minor := 3, tag := 1, paramLen := l.length, session := 1, flags := 0,
    params := l, trailer := [], bytes := 16 + l.length }

/-! ### SCHED_CANCEL of a timed injection (04 R102; 13 R344) -/

/-- Refutes O52: the clause on a TAG under which nothing waits names the scheduled actions and the pending commits, and leaves
out the injections that wait for their instant, which SCHED_CANCEL cancels too (13 R344). The counterexample: the session's own
injection of TAG 7 waits in quire 0, and SCHED_CANCEL of TAG 7 takes it away instead of answering INVALID_PARAM. -/
theorem not_scheduledActions : ¬ Obligations.ScheduledActions := by
  unfold Obligations.ScheduledActions
  rintro ⟨-, -, -, -, hnothing⟩
  let waiting : Injection :=
    { (default : Injection) with req := { (default : Req) with session := 1, tag := 7 }, start := 1, hold := some 1 }
  let p : Packet := servicePacket [7, 0, 0, 0]
  let s : State := { ringHub [serviceSession] with wit := [(0, { (default : Witness) with injections := [waiting] })] }
  let r : Req := request 0x0003 p serviceSession (s.tick 0)
  let z : State := takenState p serviceSession (s.tick 0)
  have haccepted : Accepted 0x0003 p tableRole tagOk serviceSession (s.tick 0) :=
    ⟨by decide, by decide, by decide, by decide, by decide, rfl, rfl, _, rfl, by decide +kernel⟩
  have hclaim := hnothing 0 p serviceSession r z s _ rfl haccepted rfl rfl (by decide) (by decide)
  have hruns : exec (.schedCancel 0 p) s = .next (cancelRun r z) := congrArg Host.Outcome.next (serve_accepted _ haccepted)
  have hsame : cancelRun r z = refuse r stInvalid z := Host.Outcome.next.inj (hruns.symm.trans hclaim)
  have hcancelled : (witOf (cancelRun r z) 0).injections = [] := by decide +kernel
  have hwaits : (witOf (refuse r stInvalid z) 0).injections = [waiting] := by
    rw [(refuse_still (.refl z)).witOf_eq]; decide
  exact absurd (hcancelled.symm.trans (hsame ▸ hwaits)) (by decide)

/-! ### PB_STAGE in a session whose id another one has (13 R340) -/

/-- How many blocks each session has staged once a command has run. -/
def stagedCounts : Host.Outcome State Fault Refusal → List Nat
  | .next t => t.cz.sessions.map fun v => v.staged.length
  | _ => []

/-- Refutes O49: the clause on PB_STAGE looks for the block in the staging area of the first session of the packet's id, and claims of
every session of that id that the block joins its area; where a second one has staged it already, its entry takes the new words. No run opens two sessions of one id (13 R331), but the statement is of every state. The counterexample: two
sessions of id 1, of which the second has staged block 0x0502 of quire 0, and a PB_STAGE of it. -/
theorem not_parameterReadsAndStages : ¬ Obligations.ParameterReadsAndStages := by
  unfold Obligations.ParameterReadsAndStages
  rintro ⟨-, -, hstage, -⟩
  let p : Packet := servicePacket (le 2 0x0502 ++ le 2 0 ++ le 2 0 ++ le 2 4 ++ zeros 4)
  let second : Session := { serviceSession with staged := [{ block := 0x0502, inst := 0, words := [] }] }
  let s : State := ringHub [serviceSession, second]
  let r : Req := request 0x0102 p serviceSession (s.tick 0)
  let z : State := takenState p serviceSession (s.tick 0)
  have haccepted : Accepted 0x0102 p pbRole stageOk serviceSession (s.tick 0) :=
    ⟨by decide, by decide, by decide, by decide, by decide, rfl, rfl, _, rfl, by decide +kernel⟩
  have hclaim := hstage 0 p serviceSession r z _ s _ rfl haccepted rfl rfl rfl (by decide) (by decide) (by decide)
  exact absurd (congrArg stagedCounts hclaim) (by decide +kernel)

/-! ### An authorization written before device time was set (16 R402) -/

/-- Refutes O48: the clause on an authorization that stays claims so once device time is set, whatever its age; but one written
before device time was set ends after 86,400 s even where device time has been set since (16 R402). The counterexample: such an
authorization, a day old, with NOT_AFTER far ahead and device time set. -/
theorem not_parameterWrites : ¬ Obligations.ParameterWrites := by
  unfold Obligations.ParameterWrites
  rintro ⟨-, -, -, -, -, -, -, -, -, -, -, -, hstays⟩
  let s : State := { State.reset with
    now := 86400 * secU
    time := { State.reset.time with state := 1 }
    cz := { (default : Cuzan) with authValid := true, authUnset := true, authBytes := List.replicate 24 0xFF } }
  have hclaim : exec (.serviceAuthExpiry 0) s = .next (s.tick 0) := hstays 0 s _ rfl (by decide) (.inl (by decide))
  have hruns : exec (.serviceAuthExpiry 0) s = .next (authExpiry (s.tick 0)) := rfl
  have hexpired : (authExpiry (s.tick 0)).cz.authValid = false := by decide
  have hvalid := congrArg (fun t : State => t.cz.authValid) (Host.Outcome.next.inj (hruns.symm.trans hclaim))
  exact absurd (hexpired.symm.trans hvalid) (by decide)

end Sys2Proof.Machine
end

section
/-! SUPPORT. PB_COMMIT from its packet to its edge (13 R341 to R343; 01 R33). -/

namespace Sys2Proof.Machine

/-! ### PB_COMMIT at the command processor (13 R341) -/

/-- A refusal does not look at the time at which its command was to run. -/
theorem refuse_request (op : Nat) (p : Packet) (v : Session) (u : State) (status : Nat) {t : State}
    (h : t.boot.restart = none) : refuse (request op p v u) status t = refuse (mkReq op p v u) status t := by
  have hin (w : Session) (r : Req) : replyIn w r status true [] t = sendReply w r status true [] t :=
    if_neg (by simp [h])
  unfold refuse answer replyTo
  simp only [hin]
  unfold request
  dsimp only
  split_ifs <;> rfl

theorem live_onSession (id : Nat) (f : Session → Session) (s : State) : live (onSession id f s) = live s := rfl

theorem streamK_onSession (id : Nat) (f : Session → Session) (s : State) : streamK (onSession id f s) = streamK s := rfl

theorem streamN_onSession (id : Nat) (f : Session → Session) (s : State) : streamN (onSession id f s) = streamN s := rfl

theorem devNow_onSession (id : Nat) (f : Session → Session) (s : State) : devNow (onSession id f s) = devNow s := rfl

/-- The edge of a commit does not turn on what a session holds. -/
theorem commitTarget_onSession (r : Req) (id : Nat) (f : Session → Session) (s : State) :
    commitTarget r (onSession id f s) = commitTarget r s := by
  unfold commitTarget
  rw [live_onSession, streamK_onSession, streamN_onSession, devNow_onSession]

theorem edgeLate_takenState (r : Req) (p : Packet) (v : Session) (u : State) :
    edgeLate r (takenState p v u) = edgeLate r (seenState p v u) := by
  unfold edgeLate takenState
  rw [commitTarget_onSession, devNow_onSession]

section
variable {p : Packet} {v : Session} {r : Req} {z u : State} {m : Int}
variable (ha : Accepted 0x0103 p commitRole commitParams v u) (hr : r = request 0x0103 p v u)

include ha hr in
theorem pbCommit_late (hm : commitTarget r (takenState p v u) = some m)
    (hlate : sincTime m < devNow (takenState p v u) + (leadU : Int)) :
    receive 0x0103 p commitServe u = refuse r stLate (seenState p v u) := by
  have hl : edgeLate (request 0x0103 p v u) (seenState p v u) = true := by
    rw [← edgeLate_takenState, ← hr]
    unfold edgeLate
    rw [hm]
    exact decide_eq_true hlate
  unfold commitServe
  rw [serveAt_unaligned _ _ ha hl, hr, refuse_request]
  exact ha.1.2.1

/-- The edge is at least 250 us ahead: the command itself decides. -/
theorem edgeLate_false (hm : commitTarget r (takenState p v u) = some m)
    (htime : devNow (takenState p v u) + (leadU : Int) ≤ sincTime m) : edgeLate r (seenState p v u) = false := by
  rw [← edgeLate_takenState]
  unfold edgeLate
  rw [hm]
  exact decide_eq_false (not_lt.mpr htime)

section
variable (hz : z = takenState p v u) (hm : commitTarget r z = some m) (htime : devNow z + (leadU : Int) ≤ sincTime m)
include ha hr hz hm htime

theorem pbCommit_out (hsome : stagedOf z r ≠ []) (hall : (stagedOf z r).all (itemOut z) = true) :
    receive 0x0103 p commitServe u = refuse r stOut z := by
  have hnone : ((stagedOf z r).filter fun x => !itemOut z x) = [] := by simpa using hall
  unfold commitServe
  rw [serveAt_accepted _ _ ha (hr ▸ edgeLate_false (hz ▸ hm) (hz ▸ htime)), ← hr, ← hz]
  simp only [hm, hnone]
  rw [if_pos ⟨by simpa using hsome, rfl⟩]

variable (hin : (stagedOf z r).any (itemOut z) = false)
include hin

theorem pbCommit_busy (hfull : 256 ≤ scheduled z) : receive 0x0103 p commitServe u = refuse r stBusy z := by
  have hall : ((stagedOf z r).filter fun x => !itemOut z x) = stagedOf z r := by simpa using hin
  unfold commitServe
  rw [serveAt_accepted _ _ ha (hr ▸ edgeLate_false (hz ▸ hm) (hz ▸ htime)), ← hr, ← hz]
  simp only [hm, hall]
  rw [if_neg (fun h => h.1 h.2), if_pos hfull]

/-- A commit that no rule refuses waits at its edge, and every quire in service is told to prepare. -/
theorem pbCommit_pending {c : PendCommit} (hc : c = { req := r, edge := 25 * m.toNat, items := stagedOf z r, acks := [] })
    (hroom : scheduled z < 256) (hsame : sameEdge c z = false)
    (hsafe : safetyRules (afterCommits ((byEdge z).filter fun x => decide (x.edge ≤ c.edge)) z)
      (applyWords c.items (afterCommits ((byEdge z).filter fun x => decide (x.edge ≤ c.edge)) z)) = true)
    (hchain : chainRules c.edge z [] (insertCommit c (byEdge z)) = true)
    (hlater : laterSafe (applyWords c.items (afterCommits ((byEdge z).filter fun x => decide (x.edge ≤ c.edge)) z))
      (afterCommits ((byEdge z).filter fun x => decide (x.edge ≤ c.edge)) z)
      ((byEdge z).filter fun x => decide (c.edge < x.edge)) = true)
    (hfull : commitFull (byEdge z) c z = false) :
    receive 0x0103 p commitServe u = acceptCommit c [] z := by
  have hall : ((stagedOf z r).filter fun x => !itemOut z x) = stagedOf z r := by simpa using hin
  have hnone : (stagedOf z r).filter (itemOut z) = [] := by simpa using hin
  have hitems : stagedOf z r = c.items := by rw [hc]
  have hedge : 25 * m.toNat = c.edge := by rw [hc]
  unfold commitServe
  rw [serveAt_accepted _ _ ha (hr ▸ edgeLate_false (hz ▸ hm) (hz ▸ htime)), ← hr, ← hz]
  simp only [hm, hall, hnone, ← hc]
  rw [if_neg (fun h => h.1 h.2), if_neg (Nat.not_le.mpr hroom), hitems, hedge, hsame, hsafe, hchain, hlater, hfull]
  rfl

end

end

/-- What is sent to quires does not enter a stamp. -/
theorem stampOf_toQuires (l : List Nat) (kind arg : Nat) (s : State) :
    stampOf (forAll l (fun q => toQuire q kind arg) s) = stampOf s := by
  rw [forAll_toQuire]
  rfl

theorem stampOf_onSession (id : Nat) (f : Session → Session) (s : State) : stampOf (onSession id f s) = stampOf s := rfl

theorem stampOf_commits (l : List PendCommit) (s : State) : stampOf { s with cz.commits := l } = stampOf s := rfl

theorem acceptCommit_nil (c : PendCommit) (s : State) :
    acceptCommit c [] s = queued { c.req with ranLate := false } (le 8 c.edge ++ stampOf s ((c.edge * strobeU : Nat) : Int))
      (forAll (servingQuires s) (fun q => toQuire q 1 c.edge)
        { onSession c.req.session (fun v => { v with staged := [] }) s with cz.commits := s.cz.commits ++ [c] }) := by
  unfold acceptCommit
  dsimp only [forAll_nil]
  rw [stampOf_toQuires, stampOf_commits, stampOf_onSession]
  rfl

/-! ### The edge (01 R33; 13 R341) -/

section
variable {edge : Nat} {c : PendCommit} {s : State}

theorem commitEdge_early (h : devNow s < ((edge * strobeU : Nat) : Int)) : commitEdge edge s = s := if_pos h

variable (hdue : ((byEdge s).filter fun x => decide (x.edge ≤ edge)) = [c]) (htime : ((edge * strobeU : Nat) : Int) ≤ devNow s)
include hdue htime

theorem commitEdge_prepared (hacks : lateQuires s c.acks = []) : commitEdge edge s = commitNow c s := by
  unfold commitEdge
  rw [if_neg (not_lt.mpr htime), hdue, List.foldl_cons, List.foldl_nil, hacks]
  rfl

theorem commitEdge_unprepared (hacks : lateQuires s c.acks ≠ []) : commitEdge edge s = commitLate c s := by
  unfold commitEdge
  rw [if_neg (not_lt.mpr htime), hdue, List.foldl_cons, List.foldl_nil, if_neg (by simpa using hacks)]

end

/-- A commit that a quire has not acknowledged leaves the words in force, the channels, device time and the excitation. -/
theorem commitLate_still (c : PendCommit) (s : State) : Still s (commitLate c s) := by
  unfold commitLate
  dsimp only
  split_ifs
  · exact .refl s
  · exact faultedOr_still (onSession_still
      (still_upd _ _ _ _ _ _ (withdraw_still (.refl s))))

theorem commitLate_commits {c : PendCommit} {s : State} (hacks : lateQuires s c.acks ≠ []) :
    (commitLate c s).cz.commits = s.cz.commits.filter fun x => x != c := by
  unfold commitLate
  dsimp only
  rw [if_neg (by simpa using hacks)]
  unfold faultedOr returnItems
  rw [answerOr_commits, onSession_commits]
  exact congrArg (fun z : Cuzan => z.commits.filter fun x => x != c) (withdraw_cz ..)

end Sys2Proof.Machine
end

section
/-! SUPPORT. What follows on the words of a commit writes no word of its own (13 R341, R343). -/

namespace Sys2Proof.Machine

/-! ### Lists of steps that leave the words -/

theorem forAll_cfg {α : Type} {f : α → State → State} (hf : ∀ x t, (f x t).cfg = t.cfg) (l : List α) (s : State) :
    (forAll l f s).cfg = s.cfg :=
  forAll_ind (P := fun t => t.cfg = s.cfg) l (fun x t ht => (hf x t).trans ht) rfl

theorem ite_cfg {p : Prop} [Decidable p] {a b s : State} (ha : a.cfg = s.cfg) (hb : b.cfg = s.cfg) :
    (if p then a else b).cfg = s.cfg := by split <;> assumption

theorem Measured.cfg_eq {s t : State} (h : Measured s t) : t.cfg = s.cfg := h.toCalSide.still.cfg

theorem TimeSide.cfg_eq {s t : State} (h : TimeSide s t) : t.cfg = s.cfg := h.still.cfg

theorem IslandSide.cfg_eq {s t : State} (h : IslandSide s t) : t.cfg = s.cfg := Still.cfg (s := { s with safe := t.safe }) h

/-! ### Channels at the edge (03 R79 to R81; 04 R116; 07 R172) -/

section
variable (o s : State) (m : Int) (c : Nat)

theorem queueCal_cfg (selfTest : Bool) (req : Option Req) : (queueCal c selfTest req s).cfg = s.cfg := by
  unfold queueCal
  dsimp only
  split
  · exact ite_cfg rfl rfl
  · rfl

theorem preemptCal_cfg (q : Nat) : (preemptCal q m s).cfg = s.cfg := by
  unfold preemptCal
  dsimp only
  split
  · rfl
  · split
    · rfl
    · exact (endCalStandin_measured (.refl s)).cfg_eq

/-- A calibration's stand-in that makes room for another. -/
theorem freed_cfg (p : Prop) [Decidable p] (q : Nat) : (if p then preemptCal q m s else s).cfg = s.cfg :=
  ite_cfg (preemptCal_cfg ..) rfl

theorem takePos_cfg {q : Nat} {v : StandIn} {t : State} (h : takePos q v s = some t) : t.cfg = s.cfg := by
  unfold takePos at h
  dsimp only at h
  split_ifs at h <;> cases h <;> rfl

theorem rangeRefused_cfg (reason : Nat) : (rangeRefused o m c reason s).cfg = s.cfg :=
  (raise_still (.refl (addMark c .heldU (changeFirst m) (some (changeLast m)) s))).cfg

theorem rangeGranted_cfg {t : State} (h : rangeGranted m c s = some t) : t.cfg = s.cfg := by
  unfold rangeGranted at h
  obtain ⟨w, hw, rfl⟩ := Option.map_eq_some_iff.mp h
  exact (addMark_measured (.refl w)).cfg_eq.trans (takePos_cfg s hw)

theorem rangeRequeue_cfg : (rangeRequeue c s).cfg = s.cfg := by
  unfold rangeRequeue
  dsimp only
  split
  · rfl
  · split
    · rw [queueCal_cfg]
      exact (calOutcome_measured (.refl _)).cfg_eq
    · rfl

theorem rangeInStandin_cfg (v : StandIn) : (rangeInStandin m c v s).cfg = s.cfg := by
  have hcut : Measured s (if v.kind = 1 then cutMarks c .standin (changeFirst m) s else s) :=
    ite_measured (cutMarks_measured (.refl s)) (.refl s)
  unfold rangeInStandin
  split
  · rfl
  · exact (addMark_measured (onStandin_measured hcut)).cfg_eq

theorem rangeDistant_cfg : (rangeDistant c s).cfg = s.cfg := by
  unfold rangeDistant
  split
  · exact queueCal_cfg ..
  · rfl

theorem rangeCover_cfg : (rangeCover o m c s).cfg = s.cfg := by
  unfold rangeCover
  dsimp only
  have hold : (setChan c { chan s c with oldGain := gainOf o c } s).cfg = s.cfg := rfl
  refine ite_cfg ((rangeRequeue_cfg ..).trans ((rangeRefused_cfg ..).trans hold))
    (ite_cfg ((rangeRequeue_cfg ..).trans ((rangeRefused_cfg ..).trans hold)) ?_)
  split
  · exact (rangeRequeue_cfg ..).trans ((rangeInStandin_cfg ..).trans hold)
  · split
    next t h => exact (rangeGranted_cfg _ _ _ h).trans ((freed_cfg ..).trans ((rangeRequeue_cfg ..).trans hold))
    · exact (rangeRefused_cfg ..).trans ((freed_cfg ..).trans ((rangeRequeue_cfg ..).trans hold))

theorem senseLowMark_cfg : (senseLowMark o m c s).cfg = s.cfg := by
  unfold senseLowMark
  split_ifs <;> rfl

theorem frontChange_cfg : (frontChange o m c s).cfg = s.cfg := by
  unfold frontChange
  split_ifs
  · unfold modeChange
    dsimp only
    rw [rangeRequeue_cfg, senseLowMark_cfg]
    rfl
  · unfold rangeChange
    rw [rangeDistant_cfg, rangeCover_cfg]
  · rfl

end

/-! ### Excitation at the edge (03 R71 to R76) -/

theorem closeSwitches_cfg (l : List Nat) (t : Int) (s : State) : (closeSwitches l t s).cfg = s.cfg :=
  forAll_cfg (fun g t => setExc_cfg g _ t) l s

theorem calHit_cfg (first last : Int) (c : Nat) (s : State) : (calHit first last c s).cfg = s.cfg := by
  unfold calHit
  dsimp only
  split
  · rfl
  · split_ifs
    · rfl
    · exact (abandonCal_measured (.refl s)).cfg_eq
    · rfl
    · rfl

theorem switchEvent_cfg (l : List Nat) (ts tb : Int) (conf : Bool) (s : State) : (switchEvent l ts tb conf s).cfg = s.cfg := by
  refine forAll_cfg (fun e t => ?_) l s
  dsimp only
  split
  · exact forAll_cfg (calHit_cfg _ _) _ _
  · rfl

/-- A cause goes, and the marks that it set on a group's channels end. -/
theorem causeEnds_cfg (ecode g : Nat) (kind : MarkKind) (m : Int) (l : List Nat) (s : State) :
    (clearCause ecode g (forAll l (fun c s => endMarks c kind m s) s)).cfg = s.cfg :=
  (clearCause_still (.refl _)).cfg.trans (forAll_cfg (fun _ t => (endMarks_measured (.refl t)).cfg_eq) l s)

theorem clearSenseLow_cfg (m : Int) (g : Nat) (s : State) : (clearSenseLow m g s).cfg = s.cfg := by
  unfold clearSenseLow
  exact ite_cfg (causeEnds_cfg ..) rfl

theorem excChange_cfg (m : Int) (e : Nat) (s : State) : (excChange m e s).cfg = s.cfg := by
  have hsense (p : Prop) [Decidable p] (t : Int) (u : State) : (if p then u else clearSenseLow t e u).cfg = u.cfg :=
    ite_cfg rfl (clearSenseLow_cfg ..)
  unfold excChange
  dsimp only
  rw [switchEvent_cfg, closeSwitches_cfg, setExc_cfg, hsense]
  exact ite_cfg (causeEnds_cfg ..) rfl

theorem excChanges_cfg (o : State) (m : Int) (written : List Nat) (s : State) : (excChanges o m written s).cfg = s.cfg :=
  forAll_cfg (excChange_cfg m) _ s

/-! ### What a block sets going (03 R85; 08 R202, R212; 12 R299, R301) -/

theorem startScan_cfg (q : Nat) (sched : Bool) (s : State) : (startScan q sched s).cfg = s.cfg := by
  unfold startScan
  dsimp only
  split_ifs <;> rfl

theorem toneWritten_cfg (q wo : Nat) (s : State) : (toneWritten q wo s).cfg = s.cfg := by
  have hscan (p : Prop) [Decidable p] (t : State) : (if p then startScan q false t else t).cfg = t.cfg :=
    ite_cfg (startScan_cfg ..) rfl
  unfold toneWritten
  dsimp only
  rw [hscan]
  exact ite_cfg rfl rfl

theorem loseSource_cfg (x : Nat) (s : State) : (loseSource x s).cfg = s.cfg := (loseSource_timeSide (.refl s)).cfg_eq

theorem timeCtrlWritten_cfg (s : State) : (timeCtrlWritten s).cfg = s.cfg := by
  have hun : (unlessPresent s).cfg = s.cfg := by
    obtain ⟨k, hk⟩ := unlessPresent_spec s
    rw [hk]
  unfold timeCtrlWritten
  dsimp only
  split_ifs
  · exact hun
  · rw [loseSource_cfg, hun]
  · rw [(noSource_timeSide (.refl _)).cfg_eq, hun]
  · exact hun

theorem ptpDecide_cfg (p : Nat) (s : State) : (ptpDecide p s).cfg = s.cfg := by
  unfold ptpDecide
  dsimp only
  split_ifs
  · rfl
  · exact loseSource_cfg ..
  · rfl

theorem ptpDecideBoth_cfg (s : State) : (ptpDecideBoth s).cfg = s.cfg := (ptpDecide_cfg 1 _).trans (ptpDecide_cfg 0 s)

theorem ptpRestart_cfg (p : Nat) (s : State) : (ptpRestart p s).cfg = s.cfg := by
  have hlost (p : Prop) [Decidable p] (x : Nat) (t : State) : (if p then loseSource x t else t).cfg = t.cfg :=
    ite_cfg (loseSource_cfg ..) rfl
  unfold ptpRestart
  dsimp only
  rw [ptpDecideBoth_cfg, hlost, setPtp_cfg]

theorem laneCfgWritten_cfg (l : Nat) (s : State) : (laneCfgWritten l s).cfg = s.cfg := by
  have hoff : (clearCause 0x0C01 l (goDeep l s)).cfg = s.cfg := (clearCause_still (.refl _)).cfg.trans (goDeep_cfg l s)
  unfold laneCfgWritten
  dsimp only
  refine ite_cfg (ite_cfg rfl rfl) (ite_cfg ?_ (ite_cfg (startLink_cfg l s) (ite_cfg ?_ ?_)))
  · exact (movedStreams_still (.refl _)).cfg.trans hoff
  · exact ite_cfg rfl (goDeep_cfg l s)
  · exact ite_cfg (startLink_cfg l s) rfl

theorem blockWritten_cfg (o : State) (b inst : Nat) (wo : Nat → Nat) (s : State) :
    (blockWritten o b inst wo s).cfg = s.cfg := by
  unfold blockWritten
  split
  · exact toneWritten_cfg ..
  · exact timeCtrlWritten_cfg s
  · split
    · exact ptpRestart_cfg ..
    · exact ptpDecideBoth_cfg s
  · exact laneCfgWritten_cfg ..
  · rfl

theorem blocksWritten_cfg (o : State) (l : List Staged) (s : State) :
    (l.foldl (fun s y => blockWritten o y.block y.inst (writeOnly y) s) s).cfg = s.cfg :=
  forAll_cfg (fun (y : Staged) => blockWritten_cfg o y.block y.inst (writeOnly y)) l s

/-! ### Streams, and the members of the safety groups (10 R253; 15 R378, R393) -/

theorem bindStream_cfg (r : Req) (n : Nat) (s : State) : (bindStream r n s).cfg = s.cfg := by
  unfold bindStream
  dsimp only
  split_ifs
  · rfl
  · exact (goBack_still (.refl _)).cfg

theorem reconfigMembers_cfg (o s : State) : (reconfigMembers o s).cfg = s.cfg := by
  unfold reconfigMembers
  dsimp only
  rw [forAll_cfg fun g t => (groupStep_islandSide (.refl t)).cfg_eq]
  exact forAll_cfg (fun k t => (setMember_islandSide (.refl t)).cfg_eq) _ s

theorem configCheck_cfg (s : State) : (configCheck s).cfg = s.cfg := by
  unfold configCheck
  dsimp only
  rw [(groupSteps_islandSide (.refl _)).cfg_eq]
  refine forAll_cfg (fun g t => ?_) _ s
  rw [setGroup_cfg]
  split
  · exact (raiseOnce_still (.refl t)).cfg
  · exact (clearCause_still (.refl t)).cfg

/-! ### The words of a commit (13 R343; log entry 116) -/

/-- A state with other words put by of edges past. -/
def withPast (l : List (Int × List ((Nat × Nat × Nat) × Nat))) (s : State) : State := { s with past := l }

theorem applyItem_withPast (l : List (Int × List ((Nat × Nat × Nat) × Nat))) (b : Staged) (s : State) :
    applyItem b (withPast l s) = withPast l (applyItem b s) := by
  refine List.foldl_hom (withPast l) fun t w => ?_
  split_ifs <;> rfl

theorem applyWords_withPast (l : List (Int × List ((Nat × Nat × Nat) × Nat))) (x : List Staged) (s : State) :
    applyWords x (withPast l s) = withPast l (applyWords x s) :=
  List.foldl_hom (withPast l) fun t b => applyItem_withPast l b t

/-- The words that stand after a commit rest on those before it and not on those of edges past. -/
theorem applyWords_pushPast_cfg (m : Int) (x : List Staged) (s : State) :
    (applyWords x (pushPast m s)).cfg = (applyWords x s).cfg := by
  have hpast : pushPast m s = withPast ((m, s.cfg) :: s.past) s := rfl
  rw [hpast, applyWords_withPast]
  rfl

/-- Nothing but FILT_STREAM asks for a response. -/
theorem askedResponse_none {o : State} {m : Int} {l : List Staged} (h : ∀ x ∈ l, x.block ≠ 0x0301) :
    l.filterMap (askedResponse o m) = [] :=
  List.filterMap_eq_nil_iff.mpr fun x hx => if_neg fun k => h x hx k.1

theorem publish_cfg {cs : List Nat} {from_ : Nat} {step : Bool} {f : State → State} {s : State} :
    (publish cs from_ step f s).cfg = (f s).cfg := publish_ind (P := fun t => t.cfg = (f s).cfg) fun _ => rfl

/-- A commit that names no FILT_STREAM puts the words of its blocks in service into force, and no other word. -/
theorem commitNow_cfg {c : PendCommit} {s o : State}
    (ho : o = dueAtEdge (edgeSinc c.edge) (forAll (c.items.filter (itemOut s)) holdItem
      { s with cz.commits := s.cz.commits.filter fun x => x != c }))
    (hblocks : ∀ x ∈ c.items, x.block ≠ 0x0301) :
    (commitNow c s).cfg
      = (applyWords ((c.items.filter fun x => !itemOut o x).map (keepResponse o (edgeSinc c.edge))) o).cfg := by
  have hitemOut : itemOut { s with cz.commits := s.cz.commits.filter fun x => x != c } = itemOut s := rfl
  have hnone : (c.items.filter fun x => !itemOut o x).filterMap (askedResponse o (edgeSinc c.edge)) = [] :=
    askedResponse_none fun x hx => hblocks x (List.mem_of_mem_filter hx)
  unfold commitNow
  dsimp only
  rw [hitemOut, ← ho, hnone]
  refine Eq.trans (ite_cfg (answerOr_still (.refl _)).cfg (replyTo_still (.refl _)).cfg) ?_
  rw [(jCommand_still (.refl _)).cfg, configCheck_cfg, reconfigMembers_cfg, blocksWritten_cfg,
    forAll_cfg (bindStream_cfg _), forAll_cfg (fun n t => ?_), excChanges_cfg, forAll_cfg (fun k t => ?_)]
  · exact publish_cfg.trans (applyWords_pushPast_cfg ..)
  · split
    · exact frontChange_cfg ..
    · rfl
  · split
    · exact (dueDisc_still (.refl t)).cfg
    · rfl

/-- Settles O50: the command's decision is `pbCommit_pending`, `pbCommit_late`, `pbCommit_out` and `pbCommit_busy`, the edge's
`commitEdge_early`, `commitEdge_prepared` and `commitEdge_unprepared`, and what an edge leaves of the words `commitNow_cfg` and
`commitLate_still`. -/
theorem commits : Obligations.Commits := by
  unfold Obligations.Commits
  refine ⟨?pending, ?late, ?out, ?busy, ?early, ?prepared, ?words, ?unprepared⟩
  case pending =>
    rintro at_ p v r z m c s _ rfl ha hr hz hm hc hin htime hroom hsame hsafe hchain hlater hfull
    have hpend := pbCommit_pending ha hr hz hm htime hin hc hroom hsame hsafe hchain hlater hfull
    have hreq : c.req = r := by rw [hc]
    rw [acceptCommit_nil, hreq] at hpend
    exact congrArg Host.Outcome.next hpend
  case late =>
    rintro at_ p v r z m s _ rfl ha hr hz hm hlate
    exact congrArg Host.Outcome.next (pbCommit_late ha hr (hz ▸ hm) (hz ▸ hlate))
  case out =>
    rintro at_ p v r z m s _ rfl ha hr hz hm htime hsome hall
    exact congrArg Host.Outcome.next (pbCommit_out ha hr hz hm htime hsome hall)
  case busy =>
    rintro at_ p v r z m s _ rfl ha hr hz hm htime hin hfull
    exact congrArg Host.Outcome.next (pbCommit_busy ha hr hz hm htime hin hfull)
  case early =>
    rintro at_ edge s _ rfl htime
    exact congrArg Host.Outcome.next (commitEdge_early htime)
  case prepared =>
    rintro at_ edge c s _ rfl hdue htime hacks
    exact congrArg Host.Outcome.next (commitEdge_prepared hdue htime hacks)
  case words =>
    rintro c s o _ ho rfl hblocks
    exact commitNow_cfg ho (by simpa using hblocks)
  case unprepared =>
    rintro at_ edge c s _ rfl hdue htime hacks
    have hstill := commitLate_still c (s.tick at_)
    exact ⟨_, congrArg Host.Outcome.next (commitEdge_unprepared hdue htime hacks), hstill.cfg, commitLate_commits hacks,
      hstill.chans, hstill.time, hstill.exc⟩

end Sys2Proof.Machine
end

section
/-! SUPPORT. One evaluation of a pair by a path's counts, and TRIP outputs as an invariant (15 R373, R382, R389, R391). -/

namespace Sys2Proof.Machine

/-! ### TRIP outputs -/

theorem tripOk_iff (s : State) : s.tripOk ↔ TripOk s.safe.groups := Iff.rfl

/-- Settles O5: an idle step changes nothing, and the front command keeps the law of TRIP outputs. -/
theorem stepKeepsTripOk : Obligations.StepKeepsTripOk := by
  unfold Obligations.StepKeepsTripOk
  intro s t h hs
  rcases step_cases h with rfl | ⟨cmd, rest, -, hrun⟩
  · exact hs
  · have k : Keep { s with pending := rest } t := exec_keep hrun
    exact (tripOk_iff t).2 (k.trip ((tripOk_iff s).1 hs))

/-! ### The counts of a path -/

section
variable (l d : Nat) (far : Bool) (a b : Seen) (c : PathCount)

/-- The two members of a path disagree (15 R373). -/
def disagrees (far : Bool) (a b : Seen) : Bool := (a.out != b.out) || far

theorem pathStep_limA : (pathStep l d far a b c).1.limA = if a.cause ≠ 0 then c.limA else if a.out then c.limA + 1 else 0 :=
  rfl

theorem pathStep_limB : (pathStep l d far a b c).1.limB = if b.cause ≠ 0 then c.limB else if b.out then c.limB + 1 else 0 :=
  rfl

/-- The trip bits LIMIT, DISCREPANCY and BOTH_UNAVAILABLE of the counts reached. -/
theorem pathStep_trip : (pathStep l d far a b c).2.1
    = b2n (decide (l ≤ (pathStep l d far a b c).1.limA ∨ l ≤ (pathStep l d far a b c).1.limB))
      + 2 * b2n (decide (d ≤ (pathStep l d far a b c).1.count)) + 4 * b2n (decide (a.cause ≠ 0 ∧ b.cause ≠ 0)) := rfl

variable {far a b c}

/-- A member that is unavailable holds the discrepancy count. -/
theorem pathStep_unavailable (h : a.cause ≠ 0 ∨ b.cause ≠ 0) :
    (pathStep l d far a b c).1.count = c.count ∧ (pathStep l d far a b c).1.run = c.run := by
  have hboth : ¬ (a.cause = 0 ∧ b.cause = 0) := fun k => h.elim (· k.1) (· k.2)
  simp [pathStep, hboth]

theorem pathStep_disagree (ha : a.cause = 0) (hb : b.cause = 0) (h : disagrees far a b = true) :
    (pathStep l d far a b c).1.count = c.count + 1 ∧ (pathStep l d far a b c).1.run = 0 := by
  unfold disagrees at h
  simp [pathStep, ha, hb, h]

theorem pathStep_agree (ha : a.cause = 0) (hb : b.cause = 0) (h : disagrees far a b = false) :
    (pathStep l d far a b c).1.count = if 4 ≤ c.run + 1 then 0 else c.count := by
  unfold disagrees at h
  simp [pathStep, ha, hb, h]

end

/-- The three bits that a sum of their values spells. -/
theorem bits_of_sum (x y z : Bool) :
    bit 0 (b2n x + 2 * b2n y + 4 * b2n z) = x ∧ bit 1 (b2n x + 2 * b2n y + 4 * b2n z) = y
      ∧ bit 2 (b2n x + 2 * b2n y + 4 * b2n z) = z := by
  revert x y z; decide

/-- Settles O36: the counts by the availability of the members and whether they agree, the trip bits by the counts. -/
theorem limitCounts : Obligations.LimitCounts := by
  unfold Obligations.LimitCounts
  refine ⟨fun l d far a b c => ?counts, fun l d far a b c => pathStep_unavailable l d, fun l d far a b c ha hb h => ?disagree,
    fun l d a b c ha hb h hrun => ?agree⟩
  case counts =>
    obtain ⟨hlimit, hdisc, hnone⟩ := bits_of_sum
      (decide (l ≤ (pathStep l d far a b c).1.limA ∨ l ≤ (pathStep l d far a b c).1.limB))
      (decide (d ≤ (pathStep l d far a b c).1.count)) (decide (a.cause ≠ 0 ∧ b.cause ≠ 0))
    rw [pathStep_trip, hlimit, hdisc, hnone]
    exact ⟨pathStep_limA .., pathStep_limB .., decide_eq_true_iff, decide_eq_true_iff, decide_eq_true_iff⟩
  case disagree =>
    refine pathStep_disagree l d ha hb ?_
    unfold disagrees
    rcases h with rfl | h
    · exact Bool.or_true _
    · rw [bne_iff_ne.2 h, Bool.true_or]
  case agree =>
    have hsame : disagrees false a b = false := by simp [disagrees, h]
    rw [pathStep_agree l d ha hb hsame, if_pos (by omega)]

end Sys2Proof.Machine
end

section
/-! SUPPORT. The periods of the fault manager: an event that is issued leaves what waits for a period's end (16 R417, R418,
R420). -/

namespace Sys2Proof.Machine

/-! ### What waits for the end of a period -/

/-- The open windows of coalesced events, the originators' keys and the second of these. -/
def collected (s : State) : List CoalWin × List OrigKey × Nat := (s.faults.wins, s.faults.orig, s.faults.origSec)

theorem ite_collected {c : Prop} [Decidable c] {s a b : State} (ha : collected a = collected s)
    (hb : collected b = collected s) : collected (if c then a else b) = collected s := by split <;> assumption

@[simp] theorem put2_collected (ft n : Nat) (b : List Byte) (s : State) : collected (put2 ft n b s) = collected s :=
  ite_collected rfl rfl

@[simp] theorem pushLog_collected (e : LogEntry) (s : State) : collected (pushLog e s) = collected s := rfl

@[simp] theorem setFault_collected (e : FaultEntry) (s : State) : collected (setFault e s) = collected s := rfl

@[simp] theorem rootKeep_collected (e : LogEntry) (v : Ev) (s : State) : collected (rootKeep e v s) = collected s :=
  ite_collected rfl rfl

@[simp] theorem keepLog_collected (e : LogEntry) (s : State) : collected (keepLog e s) = collected s :=
  ite_collected rfl (rootKeep_collected ..)

@[simp] theorem keepWith_collected (e : LogEntry) (v : Ev) (s : State) : collected (keepWith e v s) = collected s :=
  ite_collected rfl (rootKeep_collected ..)

@[simp] theorem logSet_collected (e : LogEntry) (v : Ev) (s : State) : collected (logSet e v s) = collected s :=
  ite_collected (ite_collected rfl (rootKeep_collected ..)) (keepWith_collected ..)

@[simp] theorem logClear_collected (e : LogEntry) (s : State) : collected (logClear e s) = collected s :=
  ite_collected rfl (keepLog_collected ..)

@[simp] theorem issueRecord_collected (ecode flags strm : Nat) (time b : List Byte) (s : State) :
    collected (issueRecord ecode flags strm time b s) = collected s := put2_collected ..

@[simp] theorem issueAt_collected (e : Ev) (ef lf n : Nat) (d time : List Byte) (s : State) :
    collected (issueAt e ef lf n d time s) = collected s := by
  have hrecord : collected (issueRecord e.ecode ef e.stream time e.body s) = collected s := issueRecord_collected ..
  refine ite_collected hrecord (ite_collected (ite_collected hrecord (ite_collected ?_ ?_)) ?_) <;> simp

theorem issueCoalesced_collected (w : CoalWin) (outcome : Nat) (s : State) :
    collected (issueCoalesced w outcome s) = collected s := by
  unfold issueCoalesced
  refine ite_collected (issueAt_collected ..) (ite_collected ?_ (issueAt_collected ..))
  exact (issueAt_collected ..).trans (issueAt_collected ..)

theorem foldl_collected {α : Type} {f : State → α → State} (l : List α) (hf : ∀ t x, collected (f t x) = collected t)
    (s : State) : collected (l.foldl f s) = collected s := by
  induction l generalizing s with
  | nil => rfl
  | cons x r ih => exact (ih _).trans (hf s x)

theorem issueCoalesced_wins (w : CoalWin) (outcome : Nat) (s : State) :
    (issueCoalesced w outcome s).faults.wins = s.faults.wins := congrArg Prod.fst (issueCoalesced_collected w outcome s)

theorem coalWin_issueCoalesced (v : CoalWin) (outcome ecode q : Nat) (s : State) :
    coalWin (issueCoalesced v outcome s) ecode q = coalWin s ecode q := by
  unfold coalWin
  rw [issueCoalesced_wins]

/-- The window of a code on a quire is of that code and quire. -/
theorem coalWin_key {s : State} {ecode q : Nat} {w : CoalWin} (h : coalWin s ecode q = some w) :
    w.ecode = ecode ∧ w.quire = q := by
  have hkey := List.find?_some h
  simpa using hkey

/-- A window that takes its place is found there. -/
theorem coalWin_putWin {s : State} {ecode q : Nat} {v w : CoalWin} (h : coalWin s ecode q = some v) (he : w.ecode = ecode)
    (hq : w.quire = q) : coalWin (putWin w s) ecode q = some w := by
  obtain ⟨rfl, rfl⟩ := coalWin_key h
  have hsame : ((fun x : CoalWin => x.ecode == v.ecode && x.quire == v.quire)
      ∘ fun x => if x.ecode = w.ecode ∧ x.quire = w.quire then w else x)
      = fun x => x.ecode == v.ecode && x.quire == v.quire := by
    funext x
    dsimp only [Function.comp]
    split
    next hx => obtain ⟨hcode, hquire⟩ := hx; rw [hcode, hquire]
    · rfl
  unfold coalWin at h ⊢
  unfold putWin
  dsimp only
  rw [List.find?_map, hsame, h, Option.map_some, if_pos ⟨he.symm, hq.symm⟩]

/-! ### Windows (16 R418) -/

section
variable {s : State} {ecode q : Nat} {w : CoalWin}

theorem coalesceEnd_few (h : coalWin s ecode q = some w) (hp : w.phase = 0) (hd : w.opened + 2 * msU ≤ s.now)
    (hn : (subjectsOf w.evs).length < 8) :
    coalesceEnd ecode q s = dropWin ecode q (w.evs.foldl (fun s e => issue e s) s) := by
  simp [coalesceEnd, h, hp, Nat.not_lt.2 hd, Nat.not_le.2 hn]

theorem coalesceEnd_many (h : coalWin s ecode q = some w) (hp : w.phase = 0) (hd : w.opened + 2 * msU ≤ s.now)
    (hn : 8 ≤ (subjectsOf w.evs).length) :
    coalesceEnd ecode q s = if ecode = 0x0401 then putWin { w with phase := 2, last := s.now } s
      else putWin { w with phase := 1, evs := [], last := (issueCoalesced w 0 s).now } (issueCoalesced w 0 s) := by
  simp [coalesceEnd, h, hp, Nat.not_lt.2 hd, hn]

theorem coalesceRepeat_events (h : coalWin s ecode q = some w) (hp : w.phase = 1) (hd : w.last + 100 * msU ≤ s.now)
    (he : w.evs ≠ []) :
    coalesceRepeat ecode q s = putWin { w with evs := [], last := (issueCoalesced w 0 s).now } (issueCoalesced w 0 s) := by
  simp [coalesceRepeat, h, hp, Nat.not_lt.2 hd, he]

theorem coalesceRepeat_none (h : coalWin s ecode q = some w) (hp : w.phase = 1) (hd : w.last + 100 * msU ≤ s.now)
    (he : w.evs = []) : coalesceRepeat ecode q s = dropWin ecode q s := by
  simp [coalesceRepeat, h, hp, Nat.not_lt.2 hd, he]

/-- A window that has issued its record goes on, empty, from the present. -/
theorem coalWin_reissued {v : CoalWin} (h : coalWin s ecode q = some w) (he : v.ecode = w.ecode) (hq : v.quire = w.quire) :
    coalWin (putWin v (issueCoalesced w 0 s)) ecode q = some v := by
  obtain ⟨hcode, hquire⟩ := coalWin_key h
  exact coalWin_putWin ((coalWin_issueCoalesced ..).trans h) (he.trans hcode) (hq.trans hquire)

theorem issueCoalesced_now (v : CoalWin) (outcome : Nat) (s : State) : (issueCoalesced v outcome s).now = s.now :=
  (issueCoalesced_still (.refl s)).now

/-! ### Seconds (16 R417, R420) -/

theorem originSecond_new (h : devSec (devNow s) ≠ s.faults.origSec) :
    (originSecond s).faults.orig = [] ∧ (originSecond s).faults.origSec = devSec (devNow s) := by
  have hkept : collected (originSecond s) = (s.faults.wins, [], devSec (devNow s)) := by
    unfold originSecond
    dsimp only
    rw [if_neg h]
    exact foldl_collected _ (fun _ _ => issueAt_collected ..) _
  exact ⟨congrArg (·.2.1) hkept, congrArg (·.2.2) hkept⟩

theorem originSecond_same (h : devSec (devNow s) = s.faults.origSec) : originSecond s = s := by
  unfold originSecond
  exact if_pos h

/-- The flap counts of the second, and the faults that are active with them. -/
def flapState (s : State) : Nat × List FaultEntry := (s.faults.flapSec, s.faults.active)

theorem keepLog_flapState (e : LogEntry) (s : State) : flapState (keepLog e s) = flapState s := by
  unfold keepLog
  split
  · rfl
  · unfold rootKeep
    split <;> rfl

theorem foldl_flapState {α : Type} {f : State → α → State} (l : List α) (hf : ∀ t x, flapState (f t x) = flapState t)
    (s : State) : flapState (l.foldl f s) = flapState s := by
  induction l generalizing s with
  | nil => rfl
  | cons x r ih => exact (ih _).trans (hf s x)

theorem flapEnd_new (h : sinceRelease s / secU ≠ s.faults.flapSec) :
    (flapEnd s).faults.flapSec = sinceRelease s / secU ∧ (flapEnd s).faults.active = s.faults.active.map (fun f =>
      { f with setInSecond := false, clearInSecond := false, unlogged := 0 }) := by
  have hkept := foldl_flapState (f := fun s f => if f.unlogged = 0 then s
    else keepLog (faultLog f.code 4 (2 * unsetFlag s) 0 0 0xFFFF (min f.unlogged 65535) [] f.occurrences (stampNow s)) s)
    s.faults.active (fun t x => by split; exacts [rfl, keepLog_flapState ..])
    { s with faults.flapSec := sinceRelease s / secU }
  unfold flapEnd
  dsimp only
  rw [if_neg h]
  exact ⟨congrArg Prod.fst hkept, congrArg (List.map _) (congrArg Prod.snd hkept)⟩

end

/-- Settles O20: a window's end and period by the number of its subjects, and the two seconds by what they empty. -/
theorem coalescedAndPeriodicReports : Obligations.CoalescedAndPeriodicReports := by
  unfold Obligations.CoalescedAndPeriodicReports
  refine ⟨?few, ?many, ?common, ?again, ?ended, ?second, ?sameSecond, ?flap⟩
  case few =>
    rintro at_ ecode q w s _ rfl hw hp hd hn
    exact congrArg Host.Outcome.next (coalesceEnd_few hw hp hd hn)
  case many =>
    rintro at_ ecode q w s _ rfl hw hp hd hn hcode
    refine ⟨_, rfl, ?_, coalesceEnd_still (.refl _)⟩
    rw [coalesceEnd_many hw hp hd hn, if_neg hcode, issueCoalesced_now]
    exact coalWin_reissued hw rfl rfl
  case common =>
    rintro at_ q w s _ rfl hw hp hd hn
    exact congrArg Host.Outcome.next ((coalesceEnd_many hw hp hd hn).trans (if_pos rfl))
  case again =>
    rintro at_ ecode q w s _ rfl hw hp hd he
    refine ⟨_, rfl, ?_, coalesceRepeat_still (.refl _)⟩
    rw [coalesceRepeat_events hw hp hd he, issueCoalesced_now]
    exact coalWin_reissued hw rfl rfl
  case ended =>
    rintro at_ ecode q w s _ rfl hw hp hd he
    exact congrArg Host.Outcome.next (coalesceRepeat_none hw hp hd he)
  case second =>
    rintro at_ s _ rfl hm hsec
    obtain ⟨horig, hsecond⟩ := originSecond_new hsec
    exact ⟨_, congrArg Host.Outcome.next (if_pos hm), horig, hsecond, originSecond_still (.refl _)⟩
  case sameSecond =>
    rintro at_ s _ rfl hm hsec
    exact congrArg Host.Outcome.next ((if_pos hm).trans (originSecond_same hsec))
  case flap =>
    rintro at_ s _ rfl - hsec
    obtain ⟨hsecond, hactive⟩ := flapEnd_new hsec
    exact ⟨_, rfl, hsecond, hactive, flapEnd_still (.refl _)⟩

end Sys2Proof.Machine
end

section
/-! SUPPORT. The safety groups: what a change of state, a trip and a step make of a group, and that no other group, no pair and
nothing else of the island follows (15 R389 to R391, R396). -/

namespace Sys2Proof.Machine

/-! ### Bits -/

theorem bit_eq_testBit (i n : Nat) : bit i n = n.testBit i := by
  unfold bit
  rw [Nat.testBit_eq_decide_div_mod_eq]
  rfl

@[simp] theorem bit_or (i a b : Nat) : bit i (a ||| b) = (bit i a || bit i b) := by
  simp only [bit_eq_testBit, Nat.testBit_or]

theorem bit_two_pow (i : Nat) : bit i (2 ^ i) = true := by
  rw [bit_eq_testBit]
  exact Nat.testBit_two_pow_self

/-- A bit that is set makes every mask that holds it meet. -/
theorem and_ne_zero_of_bit {i n m : Nat} (hn : bit i n = true) (hm : bit i m = true) : n &&& m ≠ 0 := by
  rw [bit_eq_testBit] at hn hm
  intro h
  have hbit : (n &&& m).testBit i = true := by rw [Nat.testBit_and, hn, hm]; rfl
  rw [h, Nat.zero_testBit] at hbit
  exact Bool.false_ne_true hbit

theorem ne_zero_of_bit {i n : Nat} (h : bit i n = true) : n ≠ 0 := by
  rintro rfl
  exact Bool.false_ne_true ((bit_zero i).symm.trans h)

/-! ### What stands beside the groups -/

section
variable {s t : State}

@[simp] theorem safeGroup_setGroup_self (g : Nat) (v : SGroup) (s : State) : safeGroup (setGroup g v s) g = v :=
  (safeGroup_setGroup ..).trans (if_pos rfl)

theorem safeGroup_setGroup_ne {g x : Nat} (h : x ≠ g) (v : SGroup) (s : State) :
    safeGroup (setGroup g v s) x = safeGroup s x := (safeGroup_setGroup ..).trans (if_neg (Ne.symm h))

theorem Still.safeGroup_eq (h : Still s t) (g : Nat) : safeGroup t g = safeGroup s g := by unfold safeGroup; rw [h.safe]
theorem Still.safePair_eq (h : Still s t) (p : Nat) : safePair t p = safePair s p := by unfold safePair; rw [h.safe]

/-- Nothing but reports and the safety groups differ. -/
def GroupsSide (s t : State) : Prop := Still { s with safe.groups := t.safe.groups } t

theorem GroupsSide.refl (s : State) : GroupsSide s s := Still.refl s

theorem GroupsSide.trans {a b c : State} (h : GroupsSide a b) (k : GroupsSide b c) : GroupsSide a c := by
  have hrest : b.safe = { a.safe with groups := b.safe.groups } := Still.safe (s := { a with safe.groups := b.safe.groups }) h
  have hboth := (Still.withSafe (a := { a with safe.groups := b.safe.groups }) h { b.safe with groups := c.safe.groups }).trans k
  rw [hrest] at hboth
  exact hboth

theorem Still.groupsSide (h : Still s t) : GroupsSide s t := by
  unfold GroupsSide
  rw [h.safe]
  exact h

theorem setGroup_groupsSide (g : Nat) (v : SGroup) (s : State) : GroupsSide s (setGroup g v s) := Still.refl _

section
variable (h : GroupsSide s t)
include h

theorem GroupsSide.safe_eq : t.safe = { s.safe with groups := t.safe.groups } :=
  Still.safe (s := { s with safe.groups := t.safe.groups }) h

theorem GroupsSide.islandSide : IslandSide s t := by
  unfold IslandSide
  rw [h.safe_eq]
  exact h

theorem GroupsSide.pairs : t.safe.pairs = s.safe.pairs := by rw [h.safe_eq]
theorem GroupsSide.image : t.safe.image = s.safe.image := by rw [h.safe_eq]
theorem GroupsSide.corr : t.safe.corr = s.safe.corr := by rw [h.safe_eq]
theorem GroupsSide.crcBad : t.safe.crcBad = s.safe.crcBad := by rw [h.safe_eq]
theorem GroupsSide.safePair_eq (p : Nat) : safePair t p = safePair s p := by unfold safePair; rw [h.pairs]

end

/-- The words in force rest on the configuration and on the island's image. -/
theorem word_congr (hi : t.safe.image = s.safe.image) (hc : t.cfg = s.cfg) (b inst off : Nat) :
    word t b inst off = word s b inst off := by
  unfold word
  rw [hi, hc]

theorem groupPairs_congr (hi : t.safe.image = s.safe.image) (hc : t.cfg = s.cfg) (g : Nat) :
    groupPairs t g = groupPairs s g := by
  unfold groupPairs enabledPairs pairEn pairGroup cfBit cf
  simp only [word_congr hi hc]

theorem IslandSide.groupPairs_eq (h : IslandSide s t) (hi : t.safe.image = s.safe.image) (g : Nat) :
    groupPairs t g = groupPairs s g := groupPairs_congr hi h.cfg_eq g

theorem GroupsSide.groupPairs_eq (h : GroupsSide s t) (g : Nat) : groupPairs t g = groupPairs s g :=
  h.islandSide.groupPairs_eq h.image g

/-- Of the groups only g differs, and nothing else but reports. -/
structure OneGroup (g : Nat) (s t : State) : Prop where
  side : GroupsSide s t
  others : ∀ x, x ≠ g → safeGroup t x = safeGroup s x

theorem OneGroup.refl (g : Nat) (s : State) : OneGroup g s s := ⟨.refl s, fun _ _ => rfl⟩

theorem OneGroup.trans {g : Nat} {a b c : State} (h : OneGroup g a b) (k : OneGroup g b c) : OneGroup g a c :=
  ⟨h.side.trans k.side, fun x hx => (k.others x hx).trans (h.others x hx)⟩

theorem Still.oneGroup (h : Still s t) (g : Nat) : OneGroup g s t := ⟨h.groupsSide, fun x _ => h.safeGroup_eq x⟩

theorem setGroup_oneGroup (g : Nat) (v : SGroup) (s : State) : OneGroup g s (setGroup g v s) :=
  ⟨setGroup_groupsSide g v s, fun _ hx => safeGroup_setGroup_ne hx v s⟩

end

/-! ### A change of state (15 R389, R391) -/

/-- A group in a state: outputs toggle on only in a running one. -/
def SGroup.inState (v : SGroup) (st : Nat) : SGroup :=
  if v.state = st then v
  else { v with state := st, toggling := v.toggling && decide (st = 1 ∨ st = 2),
                readAt := if decide (st = 1 ∨ st = 2) = true then v.readAt else 0 }

theorem SGroup.inState_state (v : SGroup) (st : Nat) : (v.inState st).state = st := by
  unfold SGroup.inState
  split
  · assumption
  · rfl

theorem SGroup.inState_latched (v : SGroup) (st : Nat) : (v.inState st).latched = v.latched := by
  unfold SGroup.inState
  split <;> rfl

theorem SGroup.inState_configBad (v : SGroup) (st : Nat) : (v.inState st).configBad = v.configBad := by
  unfold SGroup.inState
  split <;> rfl

/-- A group that leaves a running state for TRIPPED stops its outputs. -/
theorem SGroup.inState_tripped {v : SGroup} (h : v.state ≠ 3) : (v.inState 3).toggling = false := by
  unfold SGroup.inState
  rw [if_neg h]
  exact Bool.and_false _

/-- A change of state is the group's record with its reports. -/
theorem setGState_new {g st : Nat} {s : State} (h : (safeGroup s g).state ≠ st) :
    Still (setGroup g ((safeGroup s g).inState st) s) (setGState g st s) := by
  unfold setGState SGroup.inState
  dsimp only
  rw [if_neg h, if_neg h]
  exact ite_still (raiseOnce_still (issueNote_still (.refl _)))
    (ite_still (clearCause_still (issueNote_still (.refl _))) (issueNote_still (.refl _)))

theorem setGState_same {g st : Nat} {s : State} (h : (safeGroup s g).state = st) : setGState g st s = s := if_pos h

theorem safeGroup_setGState_self (g st : Nat) (s : State) : safeGroup (setGState g st s) g = (safeGroup s g).inState st := by
  by_cases h : (safeGroup s g).state = st
  · rw [setGState_same h, SGroup.inState, if_pos h]
  · exact ((setGState_new h).safeGroup_eq g).trans (safeGroup_setGroup_self ..)

theorem setGState_oneGroup (g st : Nat) (s : State) : OneGroup g s (setGState g st s) := by
  by_cases h : (safeGroup s g).state = st
  · rw [setGState_same h]
    exact .refl g s
  · exact (setGroup_oneGroup ..).trans ((setGState_new h).oneGroup g)

/-! ### Trips and steps (15 R391) -/

section
variable (extra g : Nat) (s : State)

theorem groupTrip_oneGroup (causes : Nat) : OneGroup g s (groupTrip g causes s) :=
  (setGroup_oneGroup ..).trans (setGState_oneGroup ..)

/-- A trip leaves the group TRIPPED with its causes latched, and the finding of the last check. -/
theorem groupTrip_spec (causes : Nat) :
    (safeGroup (groupTrip g causes s) g).state = 3
      ∧ (∃ old, (safeGroup (groupTrip g causes s) g).latched = old ||| causes)
      ∧ (safeGroup (groupTrip g causes s) g).configBad = (safeGroup s g).configBad
      ∧ ((safeGroup s g).state ≠ 3 → (safeGroup (groupTrip g causes s) g).toggling = false) := by
  unfold groupTrip
  dsimp only
  rw [safeGroup_setGState_self, safeGroup_setGroup_self, SGroup.inState_state, SGroup.inState_latched,
    SGroup.inState_configBad]
  refine ⟨rfl, ⟨if (safeGroup s g).state = 3 ∨ (safeGroup s g).state = 4 then (safeGroup s g).latched else 0, ?_⟩, ?_,
    fun h => ?_⟩
  · split <;> rfl
  · split <;> rfl
  · rw [if_neg h]
    exact SGroup.inState_tripped h

/-- A cause trips the group, unless it is one that a group which has not yet started waits with. -/
theorem groupStep_trips (hc : groupCauses s g ||| extra ≠ 0)
    (hs : (safeGroup s g).state ≠ 0 ∨ (groupCauses s g ||| extra) &&& 0xF8 ≠ 0) :
    groupStep extra g s = groupTrip g (groupCauses s g ||| extra) s := by
  unfold groupStep
  dsimp only
  rw [if_neg (fun k => hs.elim (· k.1) (· k.2.1)), if_pos hc]

/-- A cause of the mask 0xF8 trips the group in every state, and stands among the causes latched. -/
theorem groupStep_causes {i : Nat} (hi : bit i (groupCauses s g ||| extra) = true) (hm : bit i 0xF8 = true) :
    (safeGroup (groupStep extra g s) g).state = 3 ∧ bit i (safeGroup (groupStep extra g s) g).latched = true := by
  have htrips := groupStep_trips extra g s (ne_zero_of_bit hi) (.inr (and_ne_zero_of_bit hi hm))
  obtain ⟨hstate, ⟨old, hold⟩, -⟩ := groupTrip_spec g s (groupCauses s g ||| extra)
  rw [htrips]
  refine ⟨hstate, ?_⟩
  rw [hold, bit_or, hi, Bool.or_true]

/-- What a step can make of a group: a trip, or new marks of its causes, with a change of state or without. -/
def StepCase (t : State) : Prop :=
  t = groupTrip g (groupCauses s g ||| extra) s
    ∨ ∃ v, v.configBad = (safeGroup s g).configBad ∧ (t = setGroup g v s ∨ ∃ st, t = setGState g st (setGroup g v s))

theorem groupStep_cases : StepCase extra g s (groupStep extra g s) := by
  have hite {c : Prop} [Decidable c] {a b : State} (ha : StepCase extra g s a) (hb : StepCase extra g s b) :
      StepCase extra g s (if c then a else b) := by split <;> assumption
  have hput (v : SGroup) (hv : v.configBad = (safeGroup s g).configBad) : StepCase extra g s (setGroup g v s) :=
    .inr ⟨v, hv, .inl rfl⟩
  have htaken (v : SGroup) (st : Nat) (hv : v.configBad = (safeGroup s g).configBad) :
      StepCase extra g s (setGState g st (setGroup g v s)) := .inr ⟨v, hv, .inr ⟨st, rfl⟩⟩
  unfold groupStep
  dsimp only
  exact hite (hput _ rfl) (hite (.inl rfl) (hite (hite (htaken _ _ rfl) (hput _ rfl)) (hite (hput _ rfl) (htaken _ _ rfl))))

theorem groupStep_oneGroup : OneGroup g s (groupStep extra g s) := by
  rcases groupStep_cases extra g s with h | ⟨v, -, h | ⟨st, h⟩⟩
  · rw [h]
    exact groupTrip_oneGroup ..
  · rw [h]
    exact setGroup_oneGroup ..
  · rw [h]
    exact (setGroup_oneGroup ..).trans (setGState_oneGroup ..)

theorem groupStep_configBad : (safeGroup (groupStep extra g s) g).configBad = (safeGroup s g).configBad := by
  rcases groupStep_cases extra g s with h | ⟨v, hv, h | ⟨st, h⟩⟩
  · obtain ⟨-, -, hbad, -⟩ := groupTrip_spec g s (groupCauses s g ||| extra)
    rw [h, hbad]
  · rw [h, safeGroup_setGroup_self, hv]
  · rw [h, safeGroup_setGState_self, SGroup.inState_configBad, safeGroup_setGroup_self, hv]

end

/-- A group without an enabled pair has the cause NO_PAIR. -/
theorem groupCauses_noPair {g : Nat} {s : State} (h : groupPairs s g = []) : bit 7 (groupCauses s g) = true := by
  unfold groupCauses
  dsimp only
  rw [h, bit_or]
  exact Bool.or_eq_true_iff.2 (.inr (bit_two_pow 7))

/-- The trip conditions of a pair are causes of its group. -/
theorem groupCauses_pair {g p i : Nat} {s : State} (hp : p ∈ groupPairs s g) (hi : bit i (safePair s p).trip = true) :
    bit i (groupCauses s g) = true := by
  have hor (l : List Nat) (a : Nat) (h : bit i a = true ∨ ∃ x ∈ l, bit i x = true) : bit i (l.foldl (· ||| ·) a) = true := by
    induction l generalizing a with
    | nil => simpa using h
    | cons x r ih =>
      refine ih _ ?_
      simp only [List.mem_cons, exists_eq_or_imp, bit_or, Bool.or_eq_true] at h ⊢
      tauto
  have hpairs : bit i (orAll ((groupPairs s g).map fun p => (safePair s p).trip)) = true :=
    hor _ 0 (.inr ⟨_, List.mem_map_of_mem hp, hi⟩)
  unfold groupCauses
  dsimp only
  rw [bit_or, bit_or, bit_or, hpairs]
  rfl

/-- What every group has after its step. -/
theorem groupSteps_each {P : Nat → State → Prop} (hset : ∀ g t, P g (groupStep 0 g t))
    (hkeep : ∀ g x t, x ≠ g → P g t → P g (groupStep 0 x t)) {g : Nat} (hg : g < 4) (s : State) : P g (groupSteps s) := by
  refine forAll_each hset (fun x y t h => ?_) (List.mem_range.2 hg) s
  by_cases e : y = x
  · rw [e]
    exact hset x t
  · exact hkeep x y t e h

theorem groupSteps_groupsSide (s : State) : GroupsSide s (groupSteps s) :=
  forAll_ind (P := GroupsSide s) _ (fun g t h => h.trans (groupStep_oneGroup 0 g t).side) (.refl s)

theorem groupSteps_configBad (g : Nat) (s : State) : (safeGroup (groupSteps s) g).configBad = (safeGroup s g).configBad := by
  refine forAll_ind (P := fun t => (safeGroup t g).configBad = (safeGroup s g).configBad) _ (fun x t h => ?_) rfl
  by_cases e : g = x
  · subst e
    exact (groupStep_configBad 0 g t).trans h
  · rw [(groupStep_oneGroup 0 x t).others g e, h]

/-- A group without an enabled pair ends TRIPPED with NO_PAIR latched (15 R391). -/
theorem groupSteps_noPair {g : Nat} (hg : g < 4) {s : State} (h : groupPairs s g = []) :
    (safeGroup (groupSteps s) g).state = 3 ∧ bit 7 (safeGroup (groupSteps s) g).latched = true := by
  refine groupSteps_each (P := fun g t => groupPairs t g = [] →
    (safeGroup t g).state = 3 ∧ bit 7 (safeGroup t g).latched = true) (fun g t h => ?_) (fun g x t hx hP h => ?_) hg s
    (((groupSteps_groupsSide s).groupPairs_eq g).trans h)
  · have hnone : groupPairs t g = [] := ((groupStep_oneGroup 0 g t).side.groupPairs_eq g).symm.trans h
    exact groupStep_causes 0 g t (by rw [bit_or, groupCauses_noPair hnone]; rfl) (by decide)
  · have hnone : groupPairs t g = [] := ((groupStep_oneGroup 0 x t).side.groupPairs_eq g).symm.trans h
    rw [(groupStep_oneGroup 0 x t).others g hx.symm]
    exact hP hnone

end Sys2Proof.Machine
end

section
/-! SUPPORT. TRIP outputs, the release of a group, the degraded timer and overdue pulses (15 R384, R386, R389 to R391). -/

namespace Sys2Proof.Machine

section
variable {s : State} {g : Nat}

/-! ### Release, toggling and read-back (15 R389 to R391) -/

/-- A trip condition of which nothing latches is over once RELEASE_MS have passed without a cause. -/
theorem groupRelease_due (hg : g < 4) (hstate : (safeGroup s g).state = 3) (hpresent : (safeGroup s g).present = 0)
    (hcauses : groupCauses s g = 0) (hlatch : cfBit s 0x0B02 g 0 31 = false) (hlatched : (safeGroup s g).latched &&& latching = 0)
    (hdue : (safeGroup s g).clearSince + cf s 0x0B02 g 0 15 0 * msU ≤ s.now) :
    groupRelease g s = setGState g (runState s g) (setGroup g { safeGroup s g with present := 0, latched := 0 } s) :=
  if_pos ⟨hg, hstate, hpresent, hcauses, by rw [hlatch]; exact Bool.false_ne_true, hlatched, hdue⟩

theorem tripEdge_running (hg : g < 4) (hrun : (safeGroup s g).state = 1 ∨ (safeGroup s g).state = 2)
    (ht : (safeGroup s g).toggling = true) :
    tripEdge g s = setGroup g { safeGroup s g with
      levelA := !(safeGroup s g).levelA, edges := (safeGroup s g).edges + 1, readAt := s.now + 250 * usU } s := by
  unfold tripEdge
  dsimp only
  rw [if_pos ⟨hg, hrun⟩]
  simp only [ht, if_true]

theorem tripEdge_first (hg : g < 4) (hrun : (safeGroup s g).state = 1 ∨ (safeGroup s g).state = 2)
    (ht : (safeGroup s g).toggling = false) :
    tripEdge g s = setGroup g { safeGroup s g with
      toggling := true, levelA := true, edges := (safeGroup s g).edges + 1, readAt := s.now + 250 * usU, missA := 0
      missB := 0 } s := by
  unfold tripEdge
  dsimp only
  rw [if_pos ⟨hg, hrun⟩]
  simp only [ht, if_false, Bool.false_eq_true]

theorem tripEdge_stopped (h1 : (safeGroup s g).state ≠ 1) (h2 : (safeGroup s g).state ≠ 2) : tripEdge g s = s :=
  if_neg fun k => k.2.elim h1 h2

section
variable (hg : g < 4) (ht : (safeGroup s g).toggling = true) (hset : (safeGroup s g).readAt ≠ 0)
  (hdue : (safeGroup s g).readAt ≤ s.now)
include hg ht hset hdue

theorem tripRead_agrees :
    tripRead g (safeGroup s g).levelA (!(safeGroup s g).levelA) s
      = setGroup g { safeGroup s g with readAt := 0, missA := 0, missB := 0 } s := by
  simp [tripRead, hg, ht, hset, hdue]

/-- The third miss of A in a row is an OUTPUT_FAULT, present at that moment. -/
theorem tripRead_thirdMiss (hmiss : (safeGroup s g).missA = 2) (b : Bool) :
    ∃ v, v.state = (safeGroup s g).state
      ∧ tripRead g (!(safeGroup s g).levelA) b s = raise (ev 0x0D03 g) (groupStep 64 g (setGroup g v s)) := by
  refine ⟨{ safeGroup s g with
    readAt := 0, missA := 3, missB := if b = !(safeGroup s g).levelA then 0 else (safeGroup s g).missB + 1 }, rfl, ?_⟩
  simp [tripRead, hg, ht, hset, hdue, hmiss]

end

/-- An OUTPUT_FAULT trips a running group and ends its toggling. -/
theorem groupStep_outputFault (hrun : (safeGroup s g).state = 1 ∨ (safeGroup s g).state = 2) :
    (safeGroup (groupStep 64 g s) g).state = 3 ∧ bit 6 (safeGroup (groupStep 64 g s) g).latched = true
      ∧ (safeGroup (groupStep 64 g s) g).toggling = false := by
  have hbit : bit 6 (groupCauses s g ||| 64) = true := by rw [bit_or]; exact Bool.or_eq_true_iff.2 (.inr (bit_two_pow 6))
  obtain ⟨hstate, hlatched⟩ := groupStep_causes 64 g s hbit (by decide)
  obtain ⟨-, -, -, hstops⟩ := groupTrip_spec g s (groupCauses s g ||| 64)
  refine ⟨hstate, hlatched, ?_⟩
  rw [groupStep_trips 64 g s (ne_zero_of_bit hbit) (.inl (by omega))]
  exact hstops (by omega)

end

/-! ### The degraded timer (15 R384; log entry 11) -/

section
variable {s : State} {p d : Nat}

theorem clampInt_ge {lo hi : Int} (h : lo ≤ hi) (i : Int) : lo ≤ clampInt lo hi i := by
  unfold clampInt
  split
  · exact le_refl _
  · split <;> omega

/-- However slow the oscillator, a count of 1.03 times the span holds the span. -/
theorem le_degradedTime (hd : (safePair s p).degradedAt = some d) {n : Nat} (h : n * 1000000 ≤ (s.now - d) * 970874) :
    n ≤ degradedTime s p := by
  have hclamp : (970874 : Int) ≤ 1000000 + clampInt (-29126) 30000 (Config.safetyOscPpm (s.boot.release.getD 0)) := by
    have hge := clampInt_ge (lo := -29126) (hi := 30000) (by decide) (Config.safetyOscPpm (s.boot.release.getD 0))
    omega
  have hcount : (n : Int) * 1000000 ≤ ((s.now - d : Nat) : Int)
      * (1000000 + clampInt (-29126) 30000 (Config.safetyOscPpm (s.boot.release.getD 0))) :=
    calc (n : Int) * 1000000 ≤ ((s.now - d : Nat) : Int) * 970874 := by exact_mod_cast h
      _ ≤ _ := mul_le_mul_of_nonneg_left hclamp (Int.natCast_nonneg _)
  have hspan := Int.le_ediv_of_mul_le (by decide) hcount
  unfold degradedTime
  rw [hd]
  exact Int.ofNat_le.1 (hspan.trans (Int.self_le_toNat _))

@[simp] theorem safePair_setPair_self (p : Nat) (v : SPair) (s : State) : safePair (setPair p v s) p = v :=
  (safePair_setPair ..).trans (if_pos rfl)

theorem safePair_setPair_ne {p x : Nat} (h : x ≠ p) (v : SPair) (s : State) : safePair (setPair p v s) x = safePair s x :=
  (safePair_setPair ..).trans (if_neg (Ne.symm h))

theorem mem_groupPairs (hp : p < 64) (hen : pairEn s p = true) : p ∈ groupPairs s (pairGroup s p) := by
  unfold groupPairs enabledPairs
  simp [hp, hen]

/-- A pair whose degraded time has run out, its trip conditions renewed. -/
def pairExpired (p : Nat) (s : State) : State := pairTrip p (setPair p { safePair s p with expired := true } s)

theorem pairExpired_spec (p : Nat) (s : State) :
    (safePair (pairExpired p s) p).expired = true ∧ (safePair (pairExpired p s) p).state = 3
      ∧ bit 3 (safePair (pairExpired p s) p).trip = true ∧ (∀ x, x ≠ p → safePair (pairExpired p s) x = safePair s x)
      ∧ (pairExpired p s).safe.groups = s.safe.groups ∧ IslandSide s (pairExpired p s) := by
  have hbit : bit 3 ((safePair s p).pathTrip ||| (safePair s p).witTrip ||| 8 * b2n true) = true := by
    rw [bit_or]
    exact Bool.or_eq_true_iff.2 (.inr (bit_two_pow 3))
  unfold pairExpired pairTrip
  dsimp only
  rw [safePair_setPair_self, safePair_setPair_self]
  refine ⟨rfl, if_pos (ne_zero_of_bit hbit), hbit, fun x hx => ?_, rfl, setPair_islandSide (setPair_islandSide (.refl s))⟩
  rw [safePair_setPair_ne hx, safePair_setPair_ne hx]

theorem degradedExpiry_due (hen : pairEn s p = true) (hd : (safePair s p).degradedAt = some d)
    (hdue : cf s 0x0B01 p 8 11 0 * secU * 1000000 ≤ (s.now - d) * 970874) :
    degradedExpiry p s = groupStep 0 (pairGroup s p) (pairExpired p s) :=
  if_pos ⟨hen, by rw [hd]; rfl, le_degradedTime hd hdue⟩

/-- The group of a pair whose degraded time has run out trips with it. -/
theorem groupStep_expired (hp : p < 64) (hen : pairEn s p = true) :
    (safeGroup (groupStep 0 (pairGroup s p) (pairExpired p s)) (pairGroup s p)).state = 3 := by
  obtain ⟨-, -, hbit, -⟩ := pairExpired_spec p s
  have hmem : p ∈ groupPairs (pairExpired p s) (pairGroup s p) := mem_groupPairs hp hen
  have hcause : bit 3 (groupCauses (pairExpired p s) (pairGroup s p) ||| 0) = true := by
    rw [bit_or, groupCauses_pair hmem hbit]
    rfl
  obtain ⟨hstate, -⟩ := groupStep_causes 0 (pairGroup s p) _ hcause (by decide)
  exact hstate

end

/-- A member is overdue two periods after the last pulse passed, unless its pair is DEGRADED on it (15 R386). -/
theorem pulseOverdue_single {s : State} {e h m : Nat} (hh : s.safe.handover = some h) (hm : groupSlots s e = [m])
    (hpair : (safePair s (m / 2)).degradedAt = none ∨ available s m = false)
    (hdue : max (h : Int) (excOf s e).lastPass + (2 * cf s 0x0B02 (pairGroup s (m / 2)) 4 31 16 * secU : Nat) ≤ s.now) :
    pulseOverdue e s = setMember m { member s m with overdue := true } s := by
  have hpair' : ¬ ((safePair s (m / 2)).degradedAt.isSome = true ∧ available s m = true) := by
    rintro ⟨hdeg, hav⟩
    rcases hpair with h | h
    · rw [h] at hdeg
      exact Bool.false_ne_true hdeg
    · exact Bool.false_ne_true (h.symm.trans hav)
  unfold pulseOverdue
  rw [hh, hm]
  dsimp only
  rw [forAll_cons, forAll_nil, if_neg hpair', if_pos hdue]

/-- Settles O34: each command is its operation at the command's instant; a trip by the causes that the step finds. -/
theorem tripOutputs : Obligations.TripOutputs := by
  unfold Obligations.TripOutputs
  refine ⟨?release, ?edge, ?first, ?stopped, ?agrees, ?fault, ?expiry, ?overdue⟩
  case release =>
    rintro at_ g s _ rfl hg hstate hpresent hcauses hlatch hlatched hdue
    have hone : OneGroup g (s.tick at_) (setGState g (runState (s.tick at_) g)
        (setGroup g { safeGroup (s.tick at_) g with present := 0, latched := 0 } (s.tick at_))) :=
      (setGroup_oneGroup ..).trans (setGState_oneGroup ..)
    refine ⟨_, congrArg Host.Outcome.next (groupRelease_due hg hstate hpresent hcauses hlatch hlatched hdue), ?_, ?_,
      hone.others, hone.side.pairs, hone.side.islandSide⟩
    · rw [safeGroup_setGState_self, SGroup.inState_state]
    · rw [safeGroup_setGState_self, SGroup.inState_latched, safeGroup_setGroup_self]
  case edge =>
    rintro at_ g s _ rfl hg hrun ht
    exact congrArg Host.Outcome.next (tripEdge_running hg hrun ht)
  case first =>
    rintro at_ g s _ rfl hg hrun ht
    exact congrArg Host.Outcome.next (tripEdge_first hg hrun ht)
  case stopped =>
    rintro at_ g s _ rfl - h1 h2
    exact congrArg Host.Outcome.next (tripEdge_stopped h1 h2)
  case agrees =>
    rintro at_ g s _ rfl hg ht hset hdue
    exact congrArg Host.Outcome.next (tripRead_agrees hg ht hset hdue)
  case fault =>
    rintro at_ g b s _ rfl hg hrun ht hset hdue hmiss
    obtain ⟨v, hv, hread⟩ := tripRead_thirdMiss hg ht hset hdue hmiss b
    have htold : Still (groupStep 64 g (setGroup g v (s.tick at_)))
        (raise (ev 0x0D03 g) (groupStep 64 g (setGroup g v (s.tick at_)))) := raise_still (.refl _)
    have hone := ((setGroup_oneGroup g v _).trans (groupStep_oneGroup 64 g _)).trans (htold.oneGroup g)
    obtain ⟨hstate, hlatched, hstops⟩ := groupStep_outputFault (s := setGroup g v (s.tick at_)) (g := g)
      (by rwa [safeGroup_setGroup_self, hv])
    refine ⟨_, congrArg Host.Outcome.next hread, ?_, ?_, ?_, hone.others, hone.side.pairs, hone.side.islandSide⟩ <;>
      rwa [htold.safeGroup_eq]
  case expiry =>
    rintro at_ p d s _ rfl hp hen hd hdue
    have hone := groupStep_oneGroup 0 (pairGroup (s.tick at_) p) (pairExpired p (s.tick at_))
    obtain ⟨hexpired, hstate, hbit, hothers, hgroups, hside⟩ := pairExpired_spec p (s.tick at_)
    refine ⟨_, congrArg Host.Outcome.next (degradedExpiry_due hen hd hdue), ?_, ?_, ?_, groupStep_expired hp hen,
      fun x hx => ?_, fun x hx => ?_, hside.trans hone.side.islandSide⟩
    · rw [hone.side.safePair_eq, hexpired]
    · rw [hone.side.safePair_eq, hstate]
    · rw [hone.side.safePair_eq, hbit]
    · rw [hone.side.safePair_eq, hothers x hx]
    · rw [hone.others x hx, safeGroup, hgroups]
      rfl
  case overdue =>
    rintro at_ e h m s _ rfl hh hm hpair hdue
    exact congrArg Host.Outcome.next (pulseOverdue_single hh hm hpair hdue)

end Sys2Proof.Machine
end

section
/-! SUPPORT. The commands of the limit watch: status, the safety lock, SAFE_TRIP_RESET and SAFE_PULSE_NOW (14 R358 to R361; 15
R387, R391, R392). -/

namespace Sys2Proof.Machine

/-- What changes in the island and in flash, with reports after it. -/
theorem Still.ofIslandFlash {z t : State} {a : Safety} {f : Flash} (h : Still { z with safe := a, flash := f } t) :
    t.safe = a ∧ t.flash = { f with journal := t.flash.journal, last := t.flash.last }
      ∧ Still { z with safe := t.safe, flash := t.flash } t :=
  ⟨h.safe, h.flash_eq, h.part, h.time, h.ptp, h.evt, h.iu, h.quires, h.exc, h.tone, h.chans, h.wit, h.conv, h.cal, h.trg, h.group,
    h.lanes, h.skaing, rfl, h.cfg, h.past, h.now, h.draw, h.pending, rfl, h.boot⟩

section
variable {p : Packet} {v : Session} {r : Req} {s z : State}

/-! ### The safety lock (14 R359; 15 R392) -/

/-- The state that SAFE_LOCK_OPEN leaves, before its reports. -/
def lockOpened (s : State) : State :=
  { s with
    safe := { s.safe with
      lockOpen := true, working := if s.safe.adopt then s.flash.safe else s.safe.image
      workingCorr := if s.safe.adopt then s.flash.safeCorr else s.safe.corr }
    flash := { s.flash with lockCount := s.flash.lockCount + 1 } }

theorem lockOpen_opens (ha : Accepted 0x0801 p tableRole (exactly 0) v s) (hr : r = request 0x0801 p v s)
    (hz : z = takenState p v s) (hshut : z.safe.lockOpen = false) :
    Still (lockOpened z) (receive 0x0801 p lockOpenServe s) := by
  unfold lockOpenServe
  rw [serve_accepted _ ha, ← hr, ← hz, if_neg (by rw [hshut]; exact Bool.false_ne_true)]
  exact answer_still (jCommand_still (.refl _))

/-- The state that SAFE_LOCK_CLOSE leaves, before its reports. -/
def lockClosed (s : State) : State :=
  { s with
    safe := { s.safe with workingCorr := (workingImage s).safe.corr, lockOpen := false, adopt := true }
    flash := { s.flash with
      safe := s.safe.working, safeCorr := (workingImage s).safe.corr, safeOk1 := true, last := 3, safeOk2 := true } }

section
variable (ha : Accepted 0x0802 p tableRole (exactly 4) v s) (hr : r = request 0x0802 p v s) (hz : z = takenState p v s)
include ha hr hz

theorem lockClose_closes (hopen : z.safe.lockOpen = true) (hcrc : r.f 0 4 = safeCrc (workingImage z))
    (hsound : firstBreach (workingImage z) = none) (hflash : z.flash.bad.contains 4 = false) :
    Still (lockClosed z) (receive 0x0802 p lockCloseServe s) := by
  unfold lockCloseServe
  rw [serve_accepted _ ha, ← hr, ← hz]
  simp only [hopen, hcrc, hsound, hflash, ne_eq, not_true_eq_false, or_self, if_false, Bool.false_eq_true]
  exact answer_still (jDone_still (.refl _))

theorem lockClose_refused (h : z.safe.lockOpen = false ∨ r.f 0 4 ≠ safeCrc (workingImage z)) :
    receive 0x0802 p lockCloseServe s = answer r stConflict (zeros 4) z := by
  unfold lockCloseServe
  rw [serve_accepted _ ha, ← hr, ← hz]
  exact if_pos (h.imp_left fun k => by rw [k]; exact Bool.false_ne_true)

end

/-! ### SAFE_TRIP_RESET (14 R360; 15 R391) -/

theorem resetGroup_latched {g : Nat} (hstate : (safeGroup s g).state = 4) (hconf : bit 5 (safeGroup s g).latched = false) :
    resetGroup g s = (setGState g (runState s g) (setGroup g { safeGroup s g with latched := 0 } s), 1) := by
  simp [resetGroup, hstate, hconf]

/-- A reset of group 3 alone. -/
theorem tripReset_three (ha : Accepted 0x0803 p tableRole
      (fun r s => exactly 4 r s && decide (1 ≤ r.f 0 1 ∧ r.f 0 1 < 16) && zeroAt 1 3 r) v s)
    (hr : r = request 0x0803 p v s) (hz : z = takenState p v s) (hmask : r.f 0 1 = 8) :
    Still (resetGroup 3 z).1 (receive 0x0803 p tripResetServe s) := by
  have hgroups : List.range 4 = [0, 1, 2, 3] := rfl
  have hbits : bit 0 8 = false ∧ bit 1 8 = false ∧ bit 2 8 = false ∧ bit 3 8 = true := by decide
  obtain ⟨h0, h1, h2, h3⟩ := hbits
  unfold tripResetServe
  rw [serve_accepted _ ha, ← hr, ← hz]
  simp only [hmask, hgroups, List.foldl_cons, List.foldl_nil, h0, h1, h2, h3, if_true, if_false, Bool.false_eq_true]
  exact answer_still (jDone_still (.refl _))

/-! ### SAFE_PULSE_NOW (14 R361; 15 R387) -/

section
variable (ha : Accepted 0x0804 p tableRole (fun r s => exactly 4 r s && decide (r.f 0 2 < groupCount s) && zeroAt 2 2 r
      && safetyHeld s (r.f 0 2)) v s) (hr : r = request 0x0804 p v s) (hz : z = takenState p v s)
  (hserve : inService z (r.f 0 2 / 32) = true)
include ha hr hz hserve

theorem pulseNow_queued (hp : pulsePending z (r.f 0 2) = false) (hb : pulseBusy z (r.f 0 2) = false) :
    receive 0x0804 p pulseNowServe s = queued r [] (setExc (r.f 0 2)
      { excOf z (r.f 0 2) with nowReq := some r, nowAt := sincCeil (devNow z + (msU : Int)) } z) := by
  unfold pulseNowServe
  rw [serve_accepted _ ha, ← hr, ← hz]
  simp only [hserve, hp, hb, not_true_eq_false, if_false, Bool.false_eq_true, or_self]

theorem pulseNow_refused (h : pulsePending z (r.f 0 2) = true ∨ pulseBusy z (r.f 0 2) = true) :
    receive 0x0804 p pulseNowServe s = refuse r stConflict z := by
  unfold pulseNowServe
  rw [serve_accepted _ ha, ← hr, ← hz]
  simp only [hserve, h, not_true_eq_false, if_false, if_true]

end

end

/-- Settles O37: each command is its operation at the command's instant, and what the lock and a reset leave says the rest. -/
theorem safetyCommands : Obligations.SafetyCommands := by
  unfold Obligations.SafetyCommands
  refine ⟨?status, ?opens, ?closes, ?shut, ?resets, ?pulse, ?busy⟩
  case status =>
    rintro at_ p v r z s _ rfl ha rfl rfl
    exact congrArg Host.Outcome.next (serve_accepted _ ha)
  case opens =>
    rintro at_ p v r z s _ rfl ha hr hz hshut
    obtain ⟨hsafe, hflash, hside⟩ := (lockOpen_opens ha hr hz hshut).ofIslandFlash
    exact ⟨_, rfl, hsafe, by rw [hflash], by rw [hflash], hside⟩
  case closes =>
    rintro at_ p v r z s _ rfl ha hr hz hopen hcrc hsound hbad
    obtain ⟨hsafe, hflash, hside⟩ := (lockClose_closes ha hr hz hopen hcrc hsound hbad).ofIslandFlash
    exact ⟨_, rfl, by rw [hsafe], by rw [hsafe], by rw [hsafe], by rw [hflash], by rw [hflash],
      by rw [hflash], by rw [hflash], by rw [hflash], hside⟩
  case shut =>
    rintro at_ p v r z s _ rfl ha hr hz h
    exact congrArg Host.Outcome.next (lockClose_refused ha hr hz h)
  case resets =>
    rintro at_ p v r z s _ rfl ha hr hz hmask hstate hconf
    have htold := tripReset_three ha hr hz hmask
    rw [resetGroup_latched hstate hconf] at htold
    have hone := ((setGroup_oneGroup 3 _ z).trans (setGState_oneGroup ..)).trans (htold.oneGroup 3)
    refine ⟨_, rfl, ?_, ?_, hone.others, hone.side.pairs, hone.side.islandSide⟩
    · rw [htold.safeGroup_eq, safeGroup_setGState_self, SGroup.inState_state]
    · rw [htold.safeGroup_eq, safeGroup_setGState_self, SGroup.inState_latched, safeGroup_setGroup_self]
  case pulse =>
    rintro at_ p v r z _ s _ rfl ha hr hz rfl hserve hp hb
    exact congrArg Host.Outcome.next (pulseNow_queued ha hr hz hserve hp hb)
  case busy =>
    rintro at_ p v r z s _ rfl ha hr hz hserve h
    exact congrArg Host.Outcome.next (pulseNow_refused ha hr hz hserve h)

end Sys2Proof.Machine
end

section
/-! SUPPORT. Evaluations of the limit watch, the move to the main path, the check of section 1 and its adoption (15 R378 to R381,
R391, R392). -/

namespace Sys2Proof.Machine

/-! ### What an evaluation leaves alone -/

section
variable {s t : State}

/-- Nothing but reports and the safety pairs differ. -/
def PairsSide (s t : State) : Prop := Still { s with safe.pairs := t.safe.pairs } t

theorem PairsSide.refl (s : State) : PairsSide s s := Still.refl s

theorem PairsSide.trans {a b c : State} (h : PairsSide a b) (k : PairsSide b c) : PairsSide a c := by
  have hrest : b.safe = { a.safe with pairs := b.safe.pairs } := Still.safe (s := { a with safe.pairs := b.safe.pairs }) h
  have hboth := (Still.withSafe (a := { a with safe.pairs := b.safe.pairs }) h { b.safe with pairs := c.safe.pairs }).trans k
  rw [hrest] at hboth
  exact hboth

theorem setPair_pairsSide (p : Nat) (v : SPair) (s : State) : PairsSide s (setPair p v s) := Still.refl _

section
variable (h : PairsSide s t)
include h

theorem PairsSide.safe_eq : t.safe = { s.safe with pairs := t.safe.pairs } :=
  Still.safe (s := { s with safe.pairs := t.safe.pairs }) h

theorem PairsSide.islandSide : IslandSide s t := by
  unfold IslandSide
  rw [h.safe_eq]
  exact h

theorem PairsSide.image : t.safe.image = s.safe.image := by rw [h.safe_eq]
theorem PairsSide.lastEval : t.safe.lastEval = s.safe.lastEval := by rw [h.safe_eq]
theorem PairsSide.groupPairs_eq (g : Nat) : groupPairs t g = groupPairs s g := h.islandSide.groupPairs_eq h.image g

end

theorem pairTrip_pairsSide (p : Nat) (s : State) : PairsSide s (pairTrip p s) := setPair_pairsSide ..

/-- The trip of a pair follows the bits of its paths; nothing else of its record moves. -/
theorem safePair_pairTrip_self (p : Nat) (s : State) :
    ∃ trip trips state, safePair (pairTrip p s) p = { safePair s p with trip := trip, trips := trips, state := state } :=
  ⟨_, _, _, safePair_setPair_self ..⟩

theorem safePair_pairTrip_ne {p x : Nat} (h : x ≠ p) (s : State) : safePair (pairTrip p s) x = safePair s x :=
  safePair_setPair_ne h ..

theorem rootPair_pairsSide (p : Nat) (s : State) : PairsSide s (rootPair p s) := by
  unfold rootPair
  dsimp only
  refine PairsSide.trans ?_ (pairTrip_pairsSide p _)
  split
  · exact setPair_pairsSide ..
  · exact (setPair_pairsSide ..).trans (setPair_pairsSide ..)

theorem pairMode_pairsSide (p : Nat) (a b : Seen) (agree : Bool) (s : State) : PairsSide s (pairMode p a b agree s) :=
  setPair_pairsSide ..

theorem crownPair_pairsSide (k : Int) (p : Nat) (s : State) : PairsSide s (crownPair k p s) := by
  unfold crownPair
  generalize crownSeen s p (2 * p) k = a
  generalize crownSeen s p (2 * p + 1) k = b
  dsimp only
  refine PairsSide.trans ?_ (pairTrip_pairsSide p _)
  exact PairsSide.trans (setPair_pairsSide p _ s) (pairMode_pairsSide ..)

theorem forAll_pairsSide {α : Type} {f : α → State → State} (l : List α) (hf : ∀ x t, PairsSide t (f x t)) (s : State) :
    PairsSide s (forAll l f s) := forAll_ind (P := PairsSide s) l (fun x t h => h.trans (hf x t)) (.refl s)

/-- After an evaluation of pairs the groups follow: those without an enabled pair are TRIPPED (15 R391). -/
theorem groupSteps_after (h : PairsSide s t) :
    (∀ g, g < 4 → groupPairs s g = [] →
        (safeGroup (groupSteps t) g).state = 3 ∧ bit 7 (safeGroup (groupSteps t) g).latched = true)
      ∧ (groupSteps t).safe.image = s.safe.image ∧ (groupSteps t).safe.lastEval = s.safe.lastEval
      ∧ IslandSide s (groupSteps t) := by
  have hgroups := groupSteps_groupsSide t
  refine ⟨fun g hg hnone => groupSteps_noPair hg ((h.groupPairs_eq g).trans hnone), hgroups.image.trans h.image, ?_,
    h.islandSide.trans hgroups.islandSide⟩
  rw [hgroups.safe_eq]
  exact h.lastEval

/-! ### Evaluations (15 R379, R380) -/

theorem rootEval_spec (hstage : s.boot.stage ≠ 0) :
    (∀ g, g < 4 → groupPairs s g = [] → (safeGroup (rootEval s) g).state = 3 ∧ bit 7 (safeGroup (rootEval s) g).latched = true)
      ∧ (rootEval s).safe.image = s.safe.image ∧ IslandSide s (rootEval s) := by
  have hrun : rootEval s = groupSteps (forAll ((enabledPairs s).filter fun p =>
      !(safePair s p).main || decide (0 < (safePair s p).overlap)) rootPair s) := if_neg hstage
  obtain ⟨hnone, himage, -, hside⟩ := groupSteps_after (forAll_pairsSide _ rootPair_pairsSide s)
  rw [hrun]
  exact ⟨hnone, himage, hside⟩

theorem crownEval_spec (k : Nat) (s : State) :
    (crownEval k s).safe.lastEval = k ∧ (∀ g, g < 4 → groupPairs s g = [] → (safeGroup (crownEval k s) g).state = 3)
      ∧ (crownEval k s).safe.image = s.safe.image ∧ IslandSide s (crownEval k s) := by
  have hstart : IslandSide s { s with safe.lastEval := k } := Still.refl _
  have hrun : crownEval k s = groupSteps (forAll ((enabledPairs s).filter fun p => (safePair s p).main) (crownPair k)
      { s with safe.lastEval := k }) := rfl
  obtain ⟨hnone, himage, hlast, hside⟩ := groupSteps_after
    (forAll_pairsSide ((enabledPairs s).filter fun p => (safePair s p).main) (crownPair_pairsSide k)
      { s with safe.lastEval := k })
  rw [← hrun] at hnone himage hlast hside
  refine ⟨hlast, fun g hg h => ?_, himage, hstart.trans hside⟩
  obtain ⟨hstate, -⟩ := hnone g hg ((hstart.groupPairs_eq rfl g).trans h)
  exact hstate

theorem safetyEval_new {k : Nat} (hmods : s.boot.modsOn = true) (hlast : s.safe.lastEval < k)
    (hdue : ((k * 125 * usU : Nat) : Int) ≤ devNow s) (hin : valuesIn s k = true) :
    safetyEval k s = crownEval k (if s.safe.adopt then adopt s else s) := if_pos ⟨hmods, hlast, hdue, hin⟩

theorem safetyEval_other {k : Nat} (h : k ≤ s.safe.lastEval ∨ devNow s < ((k * 125 * usU : Nat) : Int)) :
    safetyEval k s = s := by
  refine if_neg fun hrun => ?_
  obtain ⟨-, hlast, hdue, -⟩ := hrun
  exact h.elim (Nat.not_le.2 hlast) (not_lt.2 hdue)

/-! ### The check of section 1 (15 R378) -/

/-- A member of the group is at odds with the image. -/
def memberOdds (s : State) (g : Nat) : Bool :=
  (groupPairs s g).any fun p => !(memberAgrees s (2 * p) && memberAgrees s (2 * p + 1))

theorem memberOdds_congr (hi : t.safe.image = s.safe.image) (hc : t.cfg = s.cfg) (hcorr : t.safe.corr = s.safe.corr)
    (hm : t.boot.modsOn = s.boot.modsOn) (g : Nat) : memberOdds t g = memberOdds s g := by
  unfold memberOdds memberAgrees slotChan corrInForce corrCrc corrCopy gainOf modeOf ratiometric rtdI wiring excMode revHalf cfBit
    cf
  simp only [groupPairs_congr hi hc, word_congr hi hc, hcorr, hm]

theorem Still.modsOn_eq (h : Still s t) : t.boot.modsOn = s.boot.modsOn := by rw [h.boot_eq]

theorem GroupsSide.memberOdds_eq (h : GroupsSide s t) (g : Nat) : memberOdds t g = memberOdds s g :=
  memberOdds_congr h.image h.islandSide.cfg_eq h.corr (Still.modsOn_eq (s := { s with safe := t.safe }) h.islandSide) g

/-- The check of one group. -/
def groupChecked (g : Nat) (s : State) : State :=
  let u := if memberOdds s g then raiseOnce (evL 0x0D04 g) s else clearCause 0x0D04 g s
  setGroup g { safeGroup u g with configBad := memberOdds s g } u

theorem configCheck_eq (s : State) : configCheck s = groupSteps (forAll (List.range 4) groupChecked s) := rfl

theorem groupChecked_oneGroup (g : Nat) (s : State) : OneGroup g s (groupChecked g s) := by
  have htold : Still s (if memberOdds s g then raiseOnce (evL 0x0D04 g) s else clearCause 0x0D04 g s) :=
    ite_still (raiseOnce_still (.refl s)) (clearCause_still (.refl s))
  exact (htold.oneGroup g).trans (setGroup_oneGroup ..)

theorem groupChecked_configBad (g : Nat) (s : State) : (safeGroup (groupChecked g s) g).configBad = memberOdds s g := by
  unfold groupChecked
  dsimp only
  rw [safeGroup_setGroup_self]

theorem configCheck_groupsSide (s : State) : GroupsSide s (configCheck s) := by
  have hchecked : GroupsSide s (forAll (List.range 4) groupChecked s) :=
    forAll_ind (P := GroupsSide s) _ (fun g t h => h.trans (groupChecked_oneGroup g t).side) (.refl s)
  exact hchecked.trans (groupSteps_groupsSide _)

/-- The check marks the groups with a member at odds with the image, and no other. -/
theorem configCheck_configBad {g : Nat} (hg : g < 4) (s : State) :
    (safeGroup (configCheck s) g).configBad = memberOdds s g := by
  have hchecked : (safeGroup (forAll (List.range 4) groupChecked s) g).configBad
      = memberOdds (forAll (List.range 4) groupChecked s) g := by
    refine forAll_each (P := fun g t => (safeGroup t g).configBad = memberOdds t g) (fun g t => ?_) (fun g x t h => ?_)
      (List.mem_range.2 hg) s
    · rw [groupChecked_configBad, (groupChecked_oneGroup g t).side.memberOdds_eq]
    · by_cases e : g = x
      · subst e
        rw [groupChecked_configBad, (groupChecked_oneGroup g t).side.memberOdds_eq]
      · rw [(groupChecked_oneGroup x t).others g e, h, (groupChecked_oneGroup x t).side.memberOdds_eq]
  rw [configCheck_eq, groupSteps_configBad, hchecked,
    ← (groupSteps_groupsSide (forAll (List.range 4) groupChecked s)).memberOdds_eq g, ← configCheck_eq,
    (configCheck_groupsSide s).memberOdds_eq]

theorem configCheck_noPair {g : Nat} (hg : g < 4) (h : groupPairs s g = []) : (safeGroup (configCheck s) g).state = 3 := by
  have hchecked : GroupsSide s (forAll (List.range 4) groupChecked s) :=
    forAll_ind (P := GroupsSide s) _ (fun g t h => h.trans (groupChecked_oneGroup g t).side) (.refl s)
  obtain ⟨hstate, -⟩ := groupSteps_noPair hg ((hchecked.groupPairs_eq g).trans h)
  rwa [configCheck_eq]

/-- The state in which section 1 is checked: a failed CRC1 is noted and raised first. -/
def crcNoted (bad : Bool) (s : State) : State :=
  if bad then raiseOnce (evL 0x0D02 0xFFFF) { s with safe.crcBad := true } else s

theorem configSecond_due (hstage : s.boot.stage ≠ 0) (bad : Bool) : configSecond bad s = configCheck (crcNoted bad s) :=
  if_neg hstage

theorem crcNoted_spec (bad : Bool) (s : State) :
    Still { s with safe.crcBad := s.safe.crcBad || bad } (crcNoted bad s) := by
  unfold crcNoted
  cases bad with
  | false =>
    rw [Bool.or_false]
    exact .refl s
  | true =>
    rw [Bool.or_true]
    exact raiseOnce_still (.refl _)

/-! ### The move to the main path (15 R381) -/

theorem handover_cases (s : State) : handover s = s ∨ handover s = { s with safe.handover := some s.now } := by
  unfold handover
  split
  · exact .inr rfl
  · exact .inl rfl

/-- A pair that has moved: on the main path, its overlap begun. -/
def pairOnMain (v : SPair) : SPair := { v with main := true, overlap := 65, path := default, pathTrip := 0 }

theorem toMain_due {p : Nat} (hen : pairEn s p = true) (hmain : (safePair s p).main = false) (hmods : s.boot.modsOn = true)
    (hserved : servedSlots s p ≠ []) (hfull : (servedSlots s p).all (memberFull s) = true) :
    toMain p s = handover (setPair p (pairOnMain (safePair s p)) s) :=
  if_pos ⟨hen, by rw [hmain]; exact Bool.false_ne_true, hmods, hserved, hfull⟩

theorem moved_spec (p : Nat) (v : SPair) (s : State) :
    safePair (handover (setPair p v s)) p = v ∧ (∀ x, x ≠ p → safePair (handover (setPair p v s)) x = safePair s x)
      ∧ (handover (setPair p v s)).safe.groups = s.safe.groups ∧ IslandSide s (handover (setPair p v s)) := by
  rcases handover_cases (setPair p v s) with h | h
  · rw [h]
    exact ⟨safePair_setPair_self .., fun x hx => safePair_setPair_ne hx .., rfl, Still.refl _⟩
  · rw [h]
    exact ⟨safePair_setPair_self .., fun x hx => safePair_setPair_ne hx .., rfl, Still.refl _⟩

/-- Nothing but reports, witnesses and channels differ. -/
def SimulSide (s t : State) : Prop := Still { s with wit := t.wit, chans := t.chans } t

theorem Still.withWitChans {a b : State} (h : Still a b) (w : Tab Witness) (c : Tab Chan) :
    Still { a with wit := w, chans := c } { b with wit := w, chans := c } :=
  { h with wit := rfl, chans := rfl, flash := h.flash, boot := h.boot }

theorem SimulSide.refl (s : State) : SimulSide s s := Still.refl s

theorem SimulSide.trans {a b c : State} (h : SimulSide a b) (k : SimulSide b c) : SimulSide a c :=
  (Still.withWitChans h c.wit c.chans).trans k

theorem SimulSide.safe_eq (h : SimulSide s t) : t.safe = s.safe := Still.safe (s := { s with wit := t.wit, chans := t.chans }) h

theorem Still.simulSide (h : Still s t) : SimulSide s t := by
  unfold SimulSide
  rw [h.wit, h.chans]
  exact h

theorem unjudge_simulSide (q : Nat) (s : State) : SimulSide s (unjudge q s) := by
  refine forAll_ind (P := SimulSide s) _ (fun c t h => h.trans ?_) (.refl s)
  have htold : SimulSide t (if (chan t c).wstate = 2 then clearCause 0x0401 c t else t) :=
    (ite_still (clearCause_still (.refl t)) (.refl t)).simulSide
  dsimp only
  split
  · exact htold
  · exact htold.trans (Still.refl _)

theorem leaveSimul_simulSide (q : Nat) (s : State) : SimulSide s (leaveSimul q s) := by
  have hset (v : Witness) : SimulSide s (setWit q v s) := Still.refl _
  unfold leaveSimul
  split
  · exact (hset _).trans (unjudge_simulSide ..)
  · exact .refl s

/-- The record of a pair at the end of its overlap, with the trip bits that the larger counts give. -/
def pairLarger (s : State) (p : Nat) : SPair :=
  let v := safePair s p
  let c := v.wit.larger v.path
  { v with overlap := 0, path := c, wit := default, witTrip := 0
           pathTrip := (v.pathTrip / 4) * 4 + (b2n (decide (limitEvals s p ≤ c.limA ∨ limitEvals s p ≤ c.limB))
             + 2 * b2n (decide (discEvals s p ≤ c.count))) }

/-- The state at the end of a pair's overlap, before the witnesses leave the mode of the start. -/
def overlapEnded (p : Nat) (s : State) : State :=
  groupStep 0 (pairGroup s p) (pairTrip p (setPair p (pairLarger s p) s))

theorem overlapEnd_due {p : Nat} (hmain : (safePair s p).main = true) (hlast : (safePair s p).overlap = 1) :
    overlapEnd p s = forAll (quireList (overlapEnded p s)) leaveSimul (overlapEnded p s) := if_pos ⟨hmain, hlast⟩

theorem overlapEnded_spec (p : Nat) (s : State) :
    (safePair (overlapEnded p s) p).overlap = 0 ∧ (safePair (overlapEnded p s) p).main = (safePair s p).main
      ∧ (safePair (overlapEnded p s) p).path = (safePair s p).wit.larger (safePair s p).path
      ∧ (safePair (overlapEnded p s) p).witTrip = 0 ∧ (∀ x, x ≠ p → safePair (overlapEnded p s) x = safePair s x)
      ∧ IslandSide s (overlapEnded p s) := by
  have hpairs := (groupStep_oneGroup 0 (pairGroup s p) (pairTrip p (setPair p (pairLarger s p) s))).side
  have htrip : IslandSide s (pairTrip p (setPair p (pairLarger s p) s)) :=
    ((setPair_pairsSide p (pairLarger s p) s).trans (pairTrip_pairsSide p _)).islandSide
  have hside := htrip.trans hpairs.islandSide
  obtain ⟨_, _, _, hpair⟩ := safePair_pairTrip_self p (setPair p (pairLarger s p) s)
  rw [safePair_setPair_self] at hpair
  unfold overlapEnded
  simp only [hpairs.safePair_eq]
  refine ⟨?_, ?_, ?_, ?_, fun x hx => ?_, hside⟩
  · rw [hpair]
    rfl
  · rw [hpair]
    rfl
  · rw [hpair]
    rfl
  · rw [hpair]
    rfl
  · rw [safePair_pairTrip_ne hx, safePair_setPair_ne hx]

/-! ### Adoption (15 R392) -/

/-- Nothing but reports, pairs, groups and the groups' pulse schedule differ. -/
structure WatchSide (s t : State) : Prop where
  side : Still { s with safe := t.safe, exc := t.exc } t
  safe : t.safe = { s.safe with pairs := t.safe.pairs, groups := t.safe.groups }

theorem WatchSide.refl (s : State) : WatchSide s s := ⟨.refl s, rfl⟩

theorem WatchSide.trans {a b c : State} (h : WatchSide a b) (k : WatchSide b c) : WatchSide a c := by
  have hside : Still { a with safe := c.safe, exc := c.exc } { b with safe := c.safe, exc := c.exc } :=
    { h.side with safe := rfl, exc := rfl, flash := h.side.flash, boot := h.side.boot }
  refine ⟨hside.trans k.side, ?_⟩
  have hsafe := k.safe
  rw [h.safe] at hsafe
  exact hsafe

theorem IslandSide.watchSide (h : IslandSide s t)
    (hs : t.safe = { s.safe with pairs := t.safe.pairs, groups := t.safe.groups }) : WatchSide s t := by
  have hexc : t.exc = s.exc := Still.exc (s := { s with safe := t.safe }) h
  refine ⟨?_, hs⟩
  rw [hexc]
  exact h

theorem PairsSide.watchSide (h : PairsSide s t) : WatchSide s t := h.islandSide.watchSide (by rw [h.safe_eq])
theorem GroupsSide.watchSide (h : GroupsSide s t) : WatchSide s t := h.islandSide.watchSide (by rw [h.safe_eq])

theorem forAll_watchSide {α : Type} {f : α → State → State} (l : List α) (hf : ∀ x t, WatchSide t (f x t)) (s : State) :
    WatchSide s (forAll l f s) := forAll_ind (P := WatchSide s) l (fun x t h => h.trans (hf x t)) (.refl s)

theorem restartPair_pairsSide (o : State) (p : Nat) (s : State) : PairsSide s (restartPair o p s) := by
  unfold restartPair
  split
  · exact setPair_pairsSide ..
  · split <;> exact setPair_pairsSide ..

theorem restartPulse_watchSide (o : State) (e : Nat) (s : State) : WatchSide s (restartPulse o e s) := by
  unfold restartPulse
  split
  · split
    · exact .refl s
    · exact ⟨Still.refl _, rfl⟩
  · exact .refl s

/-- The image that SAFE holds in force, before the pairs and groups follow. -/
def imageTaken (o : State) : State :=
  { o with
    safe := { o.safe with image := o.flash.safe, corr := o.flash.safeCorr, corrOk := true, crcBad := false, adopt := false }
    boot := { o.boot with safeOk := true } }

/-- The pairs and the groups' pulses have followed the image, before its check. -/
def imageFollowed (o : State) : State :=
  let s := forAll (List.range 64) (restartPair o) (clearCause 0x0D02 0xFFFF (imageTaken o))
  forAll (List.range (groupCount s)) (restartPulse o) s

theorem adopt_eq (o : State) : adopt o = forAll ((List.range 4).filter (groupChanged o (configCheck (imageFollowed o))))
    (groupStep 32) (configCheck (imageFollowed o)) := rfl

theorem imageFollowed_watchSide (o : State) : WatchSide (imageTaken o) (imageFollowed o) := by
  have hcleared : Still (imageTaken o) (clearCause 0x0D02 0xFFFF (imageTaken o)) := clearCause_still (.refl _)
  have hpairs := forAll_pairsSide (List.range 64) (restartPair_pairsSide o) (clearCause 0x0D02 0xFFFF (imageTaken o))
  exact (hcleared.groupsSide.watchSide.trans hpairs.watchSide).trans (forAll_watchSide _ (restartPulse_watchSide o) _)

theorem adopt_watchSide (o : State) : WatchSide (imageTaken o) (adopt o) := by
  rw [adopt_eq]
  refine ((imageFollowed_watchSide o).trans (configCheck_groupsSide _).watchSide).trans ?_
  exact forAll_watchSide _ (fun g t => (groupStep_oneGroup 32 g t).side.watchSide) _

theorem adopt_spec (o : State) :
    (adopt o).safe.image = o.flash.safe ∧ (adopt o).safe.corr = o.flash.safeCorr ∧ (adopt o).safe.adopt = false
      ∧ (adopt o).safe.corrOk = true ∧ (adopt o).safe.crcBad = false ∧ (adopt o).boot.safeOk = true
      ∧ Still { o with safe := (adopt o).safe, exc := (adopt o).exc, boot.safeOk := true } (adopt o) := by
  obtain ⟨hside, hsafe⟩ := adopt_watchSide o
  generalize adopt o = t at hside hsafe
  refine ⟨?_, ?_, ?_, ?_, ?_, ?_, hside⟩
  · exact congrArg Safety.image hsafe
  · exact congrArg Safety.corr hsafe
  · exact congrArg Safety.adopt hsafe
  · exact congrArg Safety.corrOk hsafe
  · exact congrArg Safety.crcBad hsafe
  · exact congrArg Boot.safeOk hside.boot_eq

end

/-- Settles O35: an evaluation by what pairs and groups take of it, the move by the pair's record, the check by its groups. -/
theorem safetyEvaluation : Obligations.SafetyEvaluation := by
  unfold Obligations.SafetyEvaluation
  refine ⟨?root, ?new, ?other, ?crown, ?adoption, ?move, ?overlap, ?check⟩
  case root =>
    rintro at_ s _ rfl hstage
    exact ⟨_, rfl, rootEval_spec hstage⟩
  case new =>
    rintro at_ k s _ rfl hmods hlast hdue hin
    exact congrArg Host.Outcome.next (safetyEval_new hmods hlast hdue hin)
  case other =>
    rintro at_ k s _ rfl h
    exact congrArg Host.Outcome.next (safetyEval_other h)
  case crown =>
    intro k s t h
    rw [h]
    exact crownEval_spec k s
  case adoption =>
    intro s t h
    rw [h]
    exact adopt_spec s
  case move =>
    rintro at_ p s _ rfl hen hmain hmods hserved hfull
    refine ⟨_, congrArg Host.Outcome.next (toMain_due hen hmain hmods hserved hfull), ?_⟩
    exact moved_spec p _ _
  case overlap =>
    rintro at_ p s _ rfl hmain hlast
    obtain ⟨hend, hstays, hpath, htrip, hothers, hside⟩ := overlapEnded_spec p (s.tick at_)
    have hsimul : SimulSide (overlapEnded p (s.tick at_))
        (forAll (quireList (overlapEnded p (s.tick at_))) leaveSimul (overlapEnded p (s.tick at_))) :=
      forAll_ind (P := SimulSide _) _ (fun q t h => h.trans (leaveSimul_simulSide q t)) (.refl _)
    have hpair (x : Nat) := congrArg (fun a : Safety => a.pairs.get x default) hsimul.safe_eq
    refine ⟨_, congrArg Host.Outcome.next (overlapEnd_due hmain hlast), ?_⟩
    generalize forAll (quireList (overlapEnded p (s.tick at_))) leaveSimul (overlapEnded p (s.tick at_)) = t at hsimul hpair
    refine ⟨(congrArg SPair.overlap (hpair p)).trans hend, (congrArg SPair.main (hpair p)).trans (hstays.trans hmain),
      (congrArg SPair.path (hpair p)).trans hpath, (congrArg SPair.witTrip (hpair p)).trans htrip,
      fun x hx => (hpair x).trans (hothers x hx), ?_⟩
    rw [hsimul.safe_eq]
    exact (Still.withWitChans hside t.wit t.chans).trans hsimul
  case check =>
    rintro at_ bad s _ rfl hstage
    have hnoted := crcNoted_spec bad (s.tick at_)
    have hchecked := configCheck_groupsSide (crcNoted bad (s.tick at_))
    have himage : (crcNoted bad (s.tick at_)).safe.image = (s.tick at_).safe.image := by rw [hnoted.safe]
    have hside : IslandSide (s.tick at_) (crcNoted bad (s.tick at_)) := by
      unfold IslandSide
      rw [hnoted.safe]
      exact hnoted
    refine ⟨_, congrArg Host.Outcome.next (configSecond_due hstage bad), fun g hg => ?_, fun g hg hnone => ?_, ?_, ?_,
      hside.trans hchecked.islandSide⟩
    · rw [configCheck_configBad hg]
      exact memberOdds_congr himage hnoted.cfg (by rw [hnoted.safe]) hnoted.modsOn_eq g
    · exact configCheck_noPair hg ((hside.groupPairs_eq himage g).trans hnone)
    · rw [hchecked.crcBad, hnoted.safe]
    · rw [hchecked.pairs, hnoted.safe]

end Sys2Proof.Machine
end

section
/-! SUPPORT. The commands of the journal, the trouble log and the fault list (14 R363, R365). -/

namespace Sys2Proof.Machine

section
variable {s t : State} {op : Nat} {p : Packet} {v : Session}

/-! ### An entry of a journal in order leaves the log and the fault list alone (16 R410) -/

/-- The journal takes entries: not FAILED, its partition sound. -/
def journalSound (s : State) : Prop := s.jrn.failed = false ∧ s.flash.bad.contains 0 = false

/-- The faults, the journal's failure and the failed partitions are the same. -/
structure LogKept (s t : State) : Prop where
  faults : t.faults = s.faults
  failed : t.jrn.failed = s.jrn.failed
  bad : t.flash.bad = s.flash.bad

theorem LogKept.refl (s : State) : LogKept s s := ⟨rfl, rfl, rfl⟩

theorem LogKept.trans {a b c : State} (h : LogKept a b) (k : LogKept b c) : LogKept a c :=
  ⟨k.faults.trans h.faults, k.failed.trans h.failed, k.bad.trans h.bad⟩

theorem LogKept.sound (h : LogKept s t) (hs : journalSound s) : journalSound t := by
  unfold journalSound
  rwa [h.failed, h.bad]

theorem jProgram_logKept (e : JEntry) (s : State) : LogKept s (jProgram e s) := ⟨rfl, rfl, rfl⟩

theorem jWrite_logKept (e : JEntry) (s : State) : LogKept s (jWrite e s) := by
  unfold jWrite
  dsimp only
  split
  · exact ⟨rfl, rfl, rfl⟩
  · split <;> exact ⟨rfl, rfl, rfl⟩

theorem put3_logKept (ft n : Nat) (b : List Byte) (s : State) : LogKept s (put3 ft n b s) := by
  unfold put3
  dsimp only
  split <;> exact ⟨rfl, rfl, rfl⟩

theorem jMirror_logKept (s : State) : LogKept s (jMirror s) := by
  unfold jMirror
  split
  · refine List.foldlRecOn (motive := LogKept s) _ _ (.refl s) fun t ht e _ => ht.trans ?_
    obtain ⟨hfaults, hfailed, hbad⟩ := put3_logKept 0x21 1 (jBytes e) t
    exact ⟨hfaults, hfailed, hbad⟩
  · exact .refl s

theorem jAppend_logKept (e : JEntry) (h : journalSound s) : LogKept s (jAppend e s) := by
  obtain ⟨hfailed, hbad⟩ := h
  unfold jAppend
  rw [if_neg (by rw [hfailed]; exact Bool.false_ne_true), if_neg (by rw [hbad]; exact Bool.false_ne_true)]
  exact (jWrite_logKept e s).trans (jMirror_logKept _)

theorem jCommand_logKept (r : Req) (accepted : Bool) (unit : Nat) (body : List Byte) (h : journalSound s) :
    LogKept s (jCommand r accepted unit body s) :=
  List.foldlRecOn (motive := LogKept s) _ _ (.refl s) fun _ ht _ _ => ht.trans (jAppend_logKept _ (ht.sound h))

/-! ### A reply leaves them alone -/

theorem sendBytes_logKept (port : Nat) (a : List Byte) (n : Nat) (b : List Byte) (s : State) :
    LogKept s (sendBytes port a n b s) := by
  unfold sendBytes
  split <;> exact ⟨rfl, rfl, rfl⟩

theorem sendReply_logKept (v : Session) (r : Req) (st : Nat) (final : Bool) (body : List Byte) (s : State) :
    LogKept s (sendReply v r st final body s) := by
  unfold sendReply
  dsimp only
  have hsent := List.foldlRecOn (motive := LogKept s) (replyBytes r.opcode v.major v.minor r.tag v.id v.maxReply
      (if v.trailer then some v.key else none) st final (if r.ranLate then some r.ranAt else none) body)
    (fun s b => sendBytes v.port r.source r.srcPort b s) (.refl s)
    fun t ht b _ => ht.trans (sendBytes_logKept v.port r.source r.srcPort b t)
  exact hsent.trans ⟨rfl, rfl, rfl⟩

theorem answer_logKept (r : Req) (st : Nat) (body : List Byte) (s : State) : LogKept s (answer r st body s) := by
  unfold answer replyTo
  split
  · exact .refl s
  · unfold replyIn
    split
    · exact ⟨rfl, rfl, rfl⟩
    · exact sendReply_logKept ..

/-! ### What an accepted command finds -/

theorem takenState_still (p : Packet) (v : Session) (s : State) : Still s (takenState p v s) :=
  onSession_still (onSession_still (onSession_still (.refl s)))

/-- A journaled command is accepted while the journal is in order only (13 R327, 16 R410). -/
theorem Accepted.journal_ok {need : Req → State → Nat} {ok : Req → State → Bool} (h : Accepted op p need ok v s)
    (hop : op ≠ 0x0B04) (hrow : ∀ row, opRow op = some row → row.journaled = true) : s.jrn.failed = false := by
  obtain ⟨-, -, -, -, -, -, -, row, hr, -, -, -, -, -, -, hj⟩ := h
  exact Bool.eq_false_iff.2 fun hf => hj ⟨hrow row hr, hf, hop⟩

/-! ### The commands -/

theorem jMirrorRun_eq (r : Req) (s : State) :
    jMirrorRun r s = answer r stOk []
      (jDone r [] { s with jrn.mirrorOn := r.f 0 1 == 1, jrn.mirrorNext := if r.f 0 1 = 1 then r.f 4 8 else s.jrn.mirrorNext }) := by
  unfold jMirrorRun
  simp only [beq_iff_eq]

theorem faultClearRun_unlisted {r : Req} (h : (listed s).find? (·.code == r.f 0 2) = none) :
    faultClearRun r s = refuse r stInvalid s := by
  unfold faultClearRun
  rw [h]

theorem faultClearRun_present {r : Req} {f : FaultEntry} (h : (listed s).find? (·.code == r.f 0 2) = some f)
    (hc : f.causes ≠ []) : faultClearRun r s = refuse r stConflict s := by
  unfold faultClearRun
  rw [h]
  exact if_pos (by simpa using hc)

theorem faultClearRun_gone {r : Req} {f : FaultEntry} (h : (listed s).find? (·.code == r.f 0 2) = some f)
    (hc : f.causes = []) : faultClearRun r s = answer r stOk [] (setFault { f with listed := false } s) := by
  unfold faultClearRun
  rw [h]
  exact if_neg (by simp [hc])

/-- The log after LOG_CLEAR of a journal in order. -/
theorem logCleared_spec (r : Req) (body : List Byte) (h : journalSound s) :
    LogKept { s with faults.log := [] } (answer r stOk [] (jCommand r false 1 body { s with faults.log := [] }))
      ∧ Still s (answer r stOk [] (jCommand r false 1 body { s with faults.log := [] })) := by
  have hsound : journalSound { s with faults.log := [] } := h
  have hstill : Still s { s with faults.log := [] } := still_upd _ _ _ _ _ _ (.refl s)
  exact ⟨(jCommand_logKept r false 1 body hsound).trans (answer_logKept ..), answer_still (jCommand_still hstill)⟩

end

/-- Settles O54: every command by what an accepted packet runs; LOG_CLEAR by an entry that leaves the log alone. -/
theorem journalAndLog : Obligations.JournalAndLog := by
  unfold Obligations.JournalAndLog
  refine ⟨?read, ?mirrorOn, ?mirrorOff, ?verify, ?verifyBusy, ?verified, ?logRead, ?list, ?gone, ?present, ?unlisted, ?clear⟩
  case read =>
    rintro at_ p v r z s _ rfl ha rfl rfl
    exact congrArg Host.Outcome.next (serve_accepted _ ha)
  case mirrorOn =>
    rintro at_ p v r z s _ rfl ha rfl rfl hon
    refine congrArg Host.Outcome.next ((serve_accepted _ ha).trans ?_)
    rw [jMirrorRun_eq, hon]
    rfl
  case mirrorOff =>
    rintro at_ p v r z s _ rfl ha rfl rfl hoff
    refine congrArg Host.Outcome.next ((serve_accepted _ ha).trans ?_)
    rw [jMirrorRun_eq, hoff]
    rfl
  case verify =>
    rintro at_ p v r z s _ rfl ha rfl rfl hfree
    exact congrArg Host.Outcome.next ((serve_accepted _ ha).trans (if_neg (by simp [hfree])))
  case verifyBusy =>
    rintro at_ p v r z s _ rfl ha rfl rfl hrun
    exact congrArg Host.Outcome.next ((serve_accepted _ ha).trans (if_pos (Option.isSome_iff_ne_none.2 hrun)))
  case verified =>
    rintro at_ r s _ rfl hrun
    refine congrArg Host.Outcome.next ?_
    unfold jVerifyDone
    rw [hrun]
  case logRead =>
    rintro at_ p v r z s _ rfl ha rfl rfl
    exact congrArg Host.Outcome.next (serve_accepted _ ha)
  case list =>
    rintro at_ p v r z s _ rfl ha rfl rfl
    exact congrArg Host.Outcome.next (serve_accepted _ ha)
  case gone =>
    rintro at_ p v r z f s _ rfl ha rfl rfl hfind hcause
    exact congrArg Host.Outcome.next ((serve_accepted _ ha).trans (faultClearRun_gone hfind hcause))
  case present =>
    rintro at_ p v r z f s _ rfl ha rfl rfl hfind hcause
    exact congrArg Host.Outcome.next ((serve_accepted _ ha).trans (faultClearRun_present hfind hcause))
  case unlisted =>
    rintro at_ p v r z s _ rfl ha rfl rfl hfind
    exact congrArg Host.Outcome.next ((serve_accepted _ ha).trans (faultClearRun_unlisted hfind))
  case clear =>
    rintro at_ p v r z s _ rfl ha hr hz hsound
    have hfailed : (s.tick at_).jrn.failed = false :=
      ha.journal_ok (by decide) fun row hrow => by
        cases hrow
        rfl
    have hz' : Still (s.tick at_) z := hz ▸ takenState_still p v (s.tick at_)
    have hfailed' : z.jrn.failed = false := by
      rw [hz]
      exact hfailed
    obtain ⟨hkept, hstill⟩ := logCleared_spec r (le 4 z.faults.log.length) ⟨hfailed', hsound⟩
    refine ⟨_, congrArg Host.Outcome.next ((serve_accepted _ ha).trans (by rw [← hr, ← hz])), ?_, ?_, hstill.cfg,
      hz'.trans hstill⟩
    · rw [hkept.faults]
    · rw [hkept.faults]

end Sys2Proof.Machine
end

section
/-! SUPPORT. Wrapped secrets (16 R398): the length of a wrapped form, its unwrapping, and the three commands that carry one. -/

namespace Sys2Proof.Machine

/-! ### Lengths and the exclusive or -/

@[simp] theorem length_le_bytes (k n : Nat) : (le k n).length = k := by
  induction k generalizing n with
  | zero => rfl
  | succ k ih => simp [le, ih]

@[simp] theorem length_be_bytes (k n : Nat) : (be k n).length = k := by simp [be]

@[simp] theorem length_sha256 (bs : List Byte) : (sha256 bs).length = 32 := by
  unfold sha256
  simp

@[simp] theorem length_hmac (k m : List Byte) : (hmac k m).length = 32 := length_sha256 _

@[simp] theorem length_xorBytes (a b : List Byte) : (xorBytes a b).length = min a.length b.length := by simp [xorBytes]

/-- A mask that covers the bytes, taken twice, gives them back. -/
theorem xorBytes_twice (a m : List Byte) (h : a.length ≤ m.length) : xorBytes (xorBytes a m) m = a := by
  induction a generalizing m with
  | nil => rfl
  | cons x r ih =>
    cases m with
    | nil => simp at h
    | cons y n =>
      have hrest : xorBytes (xorBytes r n) n = r := ih n (by simpa using h)
      have hbyte : x ^^^ y ^^^ y = x := by rw [BitVec.xor_assoc, BitVec.xor_self, BitVec.xor_zero]
      have hstep : xorBytes (xorBytes (x :: r) (y :: n)) (y :: n) = (x ^^^ y ^^^ y) :: xorBytes (xorBytes r n) n := rfl
      rw [hstep, hbyte, hrest]

/-! ### Wrapping and unwrapping -/

theorem length_wrapSecret (k x : List Byte) {sec : List Byte} (h : sec.length = 32) : (wrapSecret k x sec).length = 48 := by
  simp [wrapSecret, h]

/-- A form whose first part has 32 bytes gives its secret exactly when the rest is the tag. -/
theorem unwrapSecret_append (k x t : List Byte) {c : List Byte} (h : c.length = 32) :
    unwrapSecret k x (c ++ t)
      = if t == (hmac k (ascii "HKA-WTAG" ++ x ++ c)).take 16 then some (xorBytes c (hmac k (ascii "HKA-WRAP" ++ x))) else none := by
  unfold unwrapSecret
  rw [List.take_left' h, List.drop_left' h]

theorem unwrap_wrapSecret (k x : List Byte) {sec : List Byte} (h : sec.length = 32) :
    unwrapSecret k x (wrapSecret k x sec) = some sec := by
  unfold wrapSecret
  rw [unwrapSecret_append _ _ _ (by simp [h]), if_pos (beq_self_eq_true _), xorBytes_twice _ _ (by simp [h])]

theorem unwrapSecret_badTag (k x : List Byte) {c t : List Byte} (h : c.length = 32)
    (ht : (hmac k (ascii "HKA-WTAG" ++ x ++ c)).take 16 ≠ t) : unwrapSecret k x (c ++ t) = none := by
  rw [unwrapSecret_append _ _ _ h, if_neg fun e => ht (beq_iff_eq.1 e).symm]

/-! ### KEYS through a command -/

@[simp] theorem clearCause_cz (c x : Nat) (s : State) : (clearCause c x s).cz = s.cz := by
  unfold clearCause
  dsimp only
  split
  · rfl
  · split
    · exact (logClear_cz ..).trans (setFault_cz ..)
    · exact setFault_cz ..

@[simp] theorem rebuilt_cz (was id : Nat) (s : State) : (rebuilt was id s).cz = s.cz := by
  unfold rebuilt
  split
  · exact (clearCause_cz ..).trans (jAppend_cz ..)
  · rfl

/-- A reply changes no key. -/
@[simp] theorem answer_keys (r : Req) (st : Nat) (body : List Byte) (s : State) : (answer r st body s).cz.keys = s.cz.keys := by
  unfold answer replyTo
  split
  · rfl
  · unfold replyIn
    split
    · rfl
    · exact List.foldlRecOn (motive := fun t : State => t.cz.keys = s.cz.keys) _ _ rfl
        fun t ht b _ => (congrArg Cuzan.keys (sendBytes_cz _ _ _ b t)).trans ht

theorem Tab.find_put {α : Type} (t : Tab α) (k : Nat) (v : α) : (t.put k v).find k = some v := by
  induction t with
  | nil => exact if_pos rfl
  | cons p r ih =>
    obtain ⟨j, w⟩ := p
    unfold Tab.put
    split
    · exact if_pos rfl
    · split
      · exact if_pos rfl
      · next hne =>
        exact (if_neg fun e => hne e.symm).trans ih

section
variable {r : Req} {x : Session} {s : State}

/-! ### CRED_ADD, GROUP_KEY_SET and SERVICE_AUTH -/

/-- The credential that a CRED_ADD names. -/
def askedCred (r : Req) (k : List Byte) : Credential := { id := r.f 0 4, role := r.f 4 1, ports := r.f 5 1, secret := k }

/-- A CRED_ADD that passes its checks, with the secret that its wrapped form gives. -/
theorem credAddRun_unwrapped (hx : session? s r.session = some x) (htrailer : x.trailer = true)
    (hfresh : (creds s).any (·.id == r.f 0 4) = false) (hroom : (creds s).length < 64) {k : List Byte}
    (h : unwrapSecret x.key (le 2 r.tag ++ le 4 (r.f 0 4)) (slice 8 48 r.params) = some k) :
    credAddRun r s = answer r stOk [] (jCommand r false 1 (r.params.take 8 ++ zeros 48)
      (rebuilt s.cz.keys.state (r.f 0 4) (addCred (askedCred r k) s))) := by
  have hform : unwrapFrom r x 8 (r.f 0 4) = some k := h
  unfold credAddRun
  simp only [hx, hform, htrailer, hfresh, not_true_eq_false, Bool.false_eq_true, or_self, if_false, Nat.not_le.2 hroom]
  rfl

theorem credAddRun_badTag (hx : session? s r.session = some x) (htrailer : x.trailer = true)
    (hfresh : (creds s).any (·.id == r.f 0 4) = false) (hroom : (creds s).length < 64)
    (h : unwrapSecret x.key (le 2 r.tag ++ le 4 (r.f 0 4)) (slice 8 48 r.params) = none) :
    credAddRun r s = refuse r stInvalid s := by
  have hform : unwrapFrom r x 8 (r.f 0 4) = none := h
  unfold credAddRun
  simp only [hx, hform, htrailer, hfresh, not_true_eq_false, Bool.false_eq_true, or_self, if_false, Nat.not_le.2 hroom]

theorem credAddRun_last (hx : session? s r.session = some x) (htrailer : x.trailer = true)
    (hfresh : (creds s).any (·.id == r.f 0 4) = false) (hroom : (creds s).length < 64) {k : List Byte}
    (h : unwrapSecret x.key (le 2 r.tag ++ le 4 (r.f 0 4)) (slice 8 48 r.params) = some k) :
    (credAddRun r s).cz.keys.creds.getLast? = some (askedCred r k) := by
  rw [credAddRun_unwrapped hx htrailer hfresh hroom h]
  simp only [answer_keys, jCommand_cz, rebuilt_cz]
  exact List.getLast?_concat

/-- A GROUP_KEY_SET within a session with trailer, with the key that its wrapped form gives or not. -/
theorem groupKeyRun_badTag (hx : session? s r.session = some x) (htrailer : x.trailer = true)
    (h : unwrapSecret x.key (le 2 r.tag ++ le 4 (r.f 0 2)) (slice 4 48 r.params) = none) :
    groupKeyRun r s = refuse r stInvalid s := by
  unfold groupKeyRun
  simp only [hx]
  rw [if_neg (by simp [htrailer])]
  unfold unwrapFrom
  rw [h]

theorem groupKeyRun_stored (hx : session? s r.session = some x) (htrailer : x.trailer = true)
    (hroom : s.cz.keys.groupKeys.length < 16) {k : List Byte}
    (h : unwrapSecret x.key (le 2 r.tag ++ le 4 (r.f 0 2)) (slice 4 48 r.params) = some k) :
    (groupKeyRun r s).cz.keys.groupKeys.find (r.f 0 2) = some k := by
  unfold groupKeyRun
  simp only [hx]
  rw [if_neg (by simp [htrailer])]
  unfold unwrapFrom
  rw [h]
  dsimp only
  rw [if_neg (by omega), answer_keys]
  exact Tab.find_put ..

/-- The secret of a SERVICE_AUTH image within the session's trailer, for this hub and not past its end. -/
theorem authSecret_unwrapped {l k : List Byte} (hx : session? s r.session = some x) (htrailer : x.trailer = true)
    (hserial : fld 0 8 l = s.part.serial) (hpast : authPast l s = false)
    (h : unwrapSecret x.key (le 2 r.tag ++ le 4 0) (slice 0x18 48 l) = some k) :
    authSecret r l s
      = if Config.ecdsaOk 1 (sha256 (slice 0 0x18 l ++ sha256 k)) (slice 0x48 96 l) then some k else none := by
  unfold authSecret
  simp only [hx, h]
  exact if_neg (by simp [htrailer, hserial, hpast])

theorem authSecret_badTag {l : List Byte} (hx : session? s r.session = some x)
    (h : unwrapSecret x.key (le 2 r.tag ++ le 4 0) (slice 0x18 48 l) = none) : authSecret r l s = none := by
  unfold authSecret
  simp only [hx, h, ite_self]

theorem authRun_badTag (hsound : s.jrn.failed = false) (hzero : allZero (r.params.drop 8) = false)
    (h : authSecret r (r.params.drop 8) s = none) : authRun r s = refuse r stInvalid s := by
  unfold authRun
  dsimp only
  rw [if_neg (by simp [hsound]), if_neg (by simp [hzero]), h]

/-! ### SERVICE_AUTH holds no sealed field -/

/-- The parameters of an accepted command have passed its own checks (13 R327). -/
theorem Accepted.params_ok {op : Nat} {p : Packet} {need : Req → State → Nat} {ok : Req → State → Bool} {v : Session} {s : State}
    (h : Accepted op p need ok v s) : ok (mkReq op p v s) (seenState p v s) = true := by
  obtain ⟨-, -, -, -, -, -, -, row, -, -, -, -, hchecks, -⟩ := h
  obtain ⟨-, hok⟩ := (Bool.and_eq_true _ _).mp hchecks
  exact hok

/-- No word of SERVICE_AUTH holds a sealed field, written whole (16 R402). -/
theorem serviceAuth_unsealed (hok : writeOk r s = true) (hb : pbBlock r = 0x0C02) : rangeHas .sl r = false := by
  unfold writeOk rangeOk instOk at hok
  simp only [hb, Bool.and_eq_true, decide_eq_true_eq] at hok
  obtain ⟨⟨⟨⟨⟨⟨hinst, -⟩, -⟩, -⟩, -⟩, -⟩, hwhole⟩ := hok
  have hfirst : pbInst r = 0 := by
    have hone := of_decide_eq_true hinst
    omega
  have hrange : pbOff r = 0 ∧ pbLen r = 0xA8 := by simpa using hwhole
  obtain ⟨hoff, hlen⟩ := hrange
  unfold rangeHas pbOffs
  rw [hb, hfirst, hoff, hlen]
  decide +kernel

theorem rangeHas_congr {a b : Req} (h : a.params = b.params) (c : Acc) : rangeHas c a = rangeHas c b := by
  simp only [rangeHas, pbOffs, pbLen, pbOff, pbBlock, pbInst, Req.f, h]

end

/-- Settles O57: the exclusive or undone by itself, the tag by its own bytes, the commands by what unwrapping gives them. -/
theorem secretsAreWrapped : Obligations.SecretsAreWrapped := by
  unfold Obligations.SecretsAreWrapped
  refine ⟨?wrap, ?badTag, ?cred, ?credBad, ?groupBad, ?group, ?authBad, ?auth⟩
  case wrap =>
    exact fun k x sec h => ⟨rfl, length_wrapSecret k x h, unwrap_wrapSecret k x h⟩
  case badTag =>
    exact fun k x c t h ht => unwrapSecret_badTag k x h ht
  case cred =>
    rintro at_ p v r z x k s _ rfl ha rfl rfl hx htrailer hfresh hroom hlen hform
    refine ⟨_, congrArg Host.Outcome.next (serve_accepted _ ha), ?_⟩
    exact credAddRun_last hx htrailer hfresh hroom (by rw [hform, unwrap_wrapSecret _ _ hlen])
  case credBad =>
    rintro at_ p v r z x s _ rfl ha rfl rfl hx htrailer hfresh hroom h
    exact congrArg Host.Outcome.next ((serve_accepted _ ha).trans (credAddRun_badTag hx htrailer hfresh hroom h))
  case groupBad =>
    rintro at_ p v r z x s _ rfl ha rfl rfl hx htrailer h
    exact congrArg Host.Outcome.next ((serve_accepted _ ha).trans (groupKeyRun_badTag hx htrailer h))
  case group =>
    rintro at_ p v r z x k s _ rfl ha rfl rfl hx htrailer hlen hform hroom
    refine ⟨_, congrArg Host.Outcome.next (serve_accepted _ ha), ?_⟩
    exact groupKeyRun_stored hx htrailer hroom (by rw [hform, unwrap_wrapSecret _ _ hlen])
  case authBad =>
    rintro at_ p v r z x l s _ rfl ha rfl rfl hx rfl hb hzero hsound h
    have hok := ha.params_ok
    have hparams := request_params 0x0100 p v (s.tick at_)
    have hblock : pbBlock (mkReq 0x0100 p v (s.tick at_)) = 0x0C02 := by
      simpa only [pbBlock, Req.f, hparams] using hb
    have hopen := (rangeHas_congr hparams .sl).trans (serviceAuth_unsealed hok hblock)
    refine congrArg Host.Outcome.next ((serve_accepted _ ha).trans ?_)
    rw [if_neg (by simp [hopen]), if_pos hb]
    exact authRun_badTag hsound hzero (authSecret_badTag hx h)
  case auth =>
    rintro r l k x s hx htrailer hserial hpast hlen hform
    exact authSecret_unwrapped hx htrailer hserial hpast (by rw [hform, unwrap_wrapSecret _ _ hlen])

end Sys2Proof.Machine
end

section
/-! SUPPORT. A permanent stand-in waits for the injections that were queued before it was asked for, and for no later one
(04 R105, R116; log entry 55). -/

namespace Sys2Proof.Machine

/-- Quire 1 has been asked for a permanent stand-in at the release, and an injection has been queued 5 units after that. -/
def askedBeforeInjection : State :=
  setWit 1 { (default : Witness) with state := 1, perm := some 255, permAt := some 0,
                                      injections := [{ (default : Injection) with due := 5 }] } { ringHub [] with now := 10 * secU }

/-- The later injection is pending and the stand-in starts all the same. -/
theorem permStart_askedBeforeInjection :
    injectionsBefore askedBeforeInjection 1 askedBeforeInjection.now = true
      ∧ (witOf askedBeforeInjection 1).permAt = some 0 ∧ (witOf (permStart 1 askedBeforeInjection) 1).permAt = none := by
  refine ⟨by decide, by decide, by decide +kernel⟩

/-- Refutes O28: of the injections pending only those queued before the request hold a permanent stand-in back. -/
theorem not_permanentStandins : ¬ Obligations.PermanentStandins := by
  unfold Obligations.PermanentStandins
  rintro ⟨-, -, -, -, hwaits, -⟩
  obtain ⟨hpending, hasked, hstarts⟩ := permStart_askedBeforeInjection
  have hclaim : exec (.permanentStandinStart 0 1) askedBeforeInjection = .next askedBeforeInjection :=
    hwaits 0 1 askedBeforeInjection _ rfl hpending
  have hruns : exec (.permanentStandinStart 0 1) askedBeforeInjection = .next (permStart 1 askedBeforeInjection) := rfl
  rw [hruns] at hclaim
  injection hclaim with hsame
  rw [hsame, hasked] at hstarts
  exact Option.some_ne_none _ hstarts

end Sys2Proof.Machine
end

section
/-! SUPPORT. ACQ_READ of a sample that was taken before the configuration in force (14 R356; 01 R32). -/

namespace Sys2Proof.Machine

/-- The words of stream 4 over channel set 1, which holds CH0. -/
def streamWords : List (BlockKey × Nat) := [((0x0801, 4, 0), 1), ((0x0801, 4, 12), 65536), ((0x0802, 1, 0), 1)]

/-- A hub in Crown whose stream 4 runs; its last sample, of CH0, was taken while the stream was in F32, which a change at a later
sinc number has ended. -/
def recoded : State :=
  setStream 4 { (default : Stream) with state := 2, last := some (3, [{ (default : Sample) with f32 := 7 }]) }
    { ringHub [serviceSession] with
      boot := { (default : Boot) with fwRuns := true, stage := 3 }
      cfg := streamWords
      past := [(1000000, ((0x0203, 4, 0), 1) :: streamWords)] }

/-- ACQ_READ of CH0 of stream 4. -/
def readSample : Packet := servicePacket [4, 0, 1, 0, 0, 0]

theorem readSample_accepted : Accepted 0x0201 readSample tableRole acqReadOk serviceSession (recoded.tick 0) :=
  ⟨by decide, by decide, by decide, by decide, by decide, rfl, rfl, _, rfl, by decide +kernel⟩

/-- The packets that wait for the host once a command has run. -/
def backlogOf : Host.Outcome State Fault Refusal → List (List Byte)
  | .next t => t.host.backlog
  | _ => []

/-- Refutes O53: an entry of ACQ_READ is coded by the configuration in force at the sample's instant (01 R32), and the clause codes
it by the present one. The counterexample: the last sample of stream 4 was taken in F32, and the stream gives P24 by now. -/
theorem not_acquisitionAndCredentials : ¬ Obligations.AcquisitionAndCredentials := by
  unfold Obligations.AcquisitionAndCredentials
  rintro ⟨-, hread, -⟩
  have hclaim := hread 0 readSample serviceSession _ _ 4 3 [{ (default : Sample) with f32 := 7 }] recoded _ rfl
    readSample_accepted rfl rfl (by decide) (by decide) (by decide) (by decide) (by decide)
  exact absurd (congrArg backlogOf hclaim) (by decide +kernel)

end Sys2Proof.Machine
end

section
/-! SUPPORT. Re-entry of a quire and the loading of its microcode (17 R426 to R430). -/

namespace Sys2Proof.Machine

/-! ### A load that fails (17 R426) -/

/-- The record of a quire whose load or re-entry has failed. -/
def serviceEnded (v : Quire) : Quire :=
  { v with reentry := 0, reentryReq := none, running := false, sweep := false, sweepLeft := [], loading := none,
           loaded := v.loaded && v.loading.isNone,
           digest := if v.loading.isSome ∧ v.digest ≠ zeros 32 then romDigest else v.digest }

theorem serviceFailed_still (q ecode : Nat) (s : State) :
    Still (setQuire q (serviceEnded (quire s q)) s) (serviceFailed q ecode s) := by
  have told (r : Option Req) {x y : State} (h : Still x y) :
      Still x (match r with | some r => faulted r ecode y | none => y) := by
    cases r with
    | none => exact h
    | some r => exact faulted_still h
  exact told _ (told _ (.refl _))

/-- A digest that is not the image's: the quire keeps its ROM microcode. -/
def loadRefused (v : Quire) : Quire := serviceEnded { v with digest := romDigest }

section
variable {q : Nat} {d : List Byte} {r : Req} {s : State}

theorem ucodeDone_matches (hload : (quire s q).loading = some r) (hd : d = flashBytes s.flash.ucode 24 32) :
    ucodeDone q d s
      = answer r stOk d (jDone r d (setQuire q { quire s q with loading := none, loaded := true, digest := d } s)) := by
  unfold ucodeDone
  simp only [hload]
  exact if_pos hd

theorem ucodeDone_differs (hload : (quire s q).loading = some r) (hd : d ≠ flashBytes s.flash.ucode 24 32) :
    Still (setQuire q (loadRefused (quire s q)) s) (ucodeDone q d s) := by
  have hrun : ucodeDone q d s
      = serviceFailed q 0x0F02 (raise (ev 0x0F02 q) (setQuire q { quire s q with digest := romDigest } s)) := by
    unfold ucodeDone
    simp only [hload]
    exact if_neg hd
  have hraised : Still (setQuire q { quire s q with digest := romDigest } s)
      (raise (ev 0x0F02 q) (setQuire q { quire s q with digest := romDigest } s)) := raise_still (.refl _)
  have hended := serviceFailed_still q 0x0F02 (raise (ev 0x0F02 q) (setQuire q { quire s q with digest := romDigest } s))
  rw [hraised.quire_eq, quire_setQuire_self] at hended
  rw [hrun]
  refine Still.trans ?_ hended
  have hset := hraised.onQuire q (loadRefused (quire s q))
  unfold setQuire at hset ⊢
  rwa [Tab.put_put] at hset

theorem loadRefused_spec {v : Quire} (h : v.loading = some r) :
    (loadRefused v).loading = none ∧ (loadRefused v).loaded = false ∧ (loadRefused v).digest = romDigest := by
  refine ⟨rfl, ?_, ite_self _⟩
  unfold loadRefused serviceEnded
  simp [h]

end

/-! ### The commands (14 R370) -/

section
variable {p : Packet} {v : Session} {r : Req} {z s : State}

theorem quireReenter_queued (ha : Accepted 0x0B06 p quireRole (quireOk 1) v s) (hr : r = request 0x0B06 p v s)
    (hz : z = takenState p v s) (hout : (quire z (r.f 0 1)).svc = 2) (hno : (quire z (r.f 0 1)).reentry = 0)
    (hidle : (quire z (r.f 0 1)).loading = none) :
    receive 0x0B06 p reenterServe s = toQuire (r.f 0 1) 5 0 (queued r [] (setQuire (r.f 0 1)
      { quire z (r.f 0 1) with reentry := 1, reentryReq := some r, sweep := bit 0 (r.f 1 1), sweepLeft := [] } z)) := by
  unfold reenterServe
  rw [serve_accepted _ ha, ← hr, ← hz]
  exact if_neg (by simp [hout, hno, hidle])

theorem quireReenter_refused (ha : Accepted 0x0B06 p quireRole (quireOk 1) v s) (hr : r = request 0x0B06 p v s)
    (hz : z = takenState p v s) (h : (quire z (r.f 0 1)).svc ≠ 2 ∨ (quire z (r.f 0 1)).reentry ≠ 0
      ∨ (quire z (r.f 0 1)).loading ≠ none) : receive 0x0B06 p reenterServe s = refuse r stConflict z := by
  unfold reenterServe
  rw [serve_accepted _ ha, ← hr, ← hz]
  exact if_pos (h.imp_right (Or.imp_right Option.isSome_iff_ne_none.2))

theorem ucodeLoad_queued (ha : Accepted 0x0B07 p tableRole (quireOk 0) v s) (hr : r = request 0x0B07 p v s)
    (hz : z = takenState p v s) (hout : (quire z (r.f 0 1)).svc = 2) (hno : (quire z (r.f 0 1)).reentry = 0)
    (hidle : (quire z (r.f 0 1)).loading = none) (hfree : ucodeTransfer z = false) :
    receive 0x0B07 p ucodeServe s
      = if imgCheck (queued r [] z) 3 ≠ 0
            ∨ (imgState (queued r [] z).flash.ucode ≠ 1 ∧ imgState (queued r [] z).flash.ucode ≠ 2) then
          faulted r 0x0F02 (raise (ev 0x0F02 (r.f 0 1)) (queued r [] z))
        else toQuire (r.f 0 1) 4 0
          (setQuire (r.f 0 1) { quire (queued r [] z) (r.f 0 1) with loading := some r } (queued r [] z)) := by
  have hqueued : Still z (queued r [] z) := queued_still (.refl z)
  rw [hqueued.quire_eq]
  unfold ucodeServe
  rw [serve_accepted _ ha, ← hr, ← hz]
  exact if_neg (by simp [hout, hno, hidle, hfree])

end

/-- The modulators start at their time (17 R427 step 4). -/
theorem reentryStart_due {q : Nat} {s : State} (hready : (quire s q).reentry = 2)
    (hdue : (quire s q).sweep = true ∨ (((quire s q).reentryEdge * secU : Nat) : Int) - msU ≤ devNow s) :
    reentryStart q s = setQuire q
      { quire s q with reentry := 3, running := true, sweepLeft := if (quire s q).sweep then span (128 * q) 128 else [] }
      (setEns q { ensOf s q with thetaFrom := sincNext s } s) := if_pos ⟨hready, hdue⟩

/-! ### The release edge (17 R427 step 5): its parts -/

/-- Instances of a block that are held for a quire. -/
def heldInsts (v : Quire) (b : Nat) : List Nat := (v.held.filter (·.block == b)).map (·.inst)

/-- The words held for the quire come into force at the edge. -/
def heldInForce (v : Quire) (m : Int) (s : State) : State :=
  publish (heldInsts v 0x0101) (instantOf s (sincTime m)).toNat true (applyWords v.held) (pushPast m s)

/-- The groups switch and the channels begin anew. -/
def frontReleased (q : Nat) (v : Quire) (m : Int) (s : State) : State :=
  forAll (quireCodes q) (fun c s => setChan c { chan s c with histFirst := m } (endMarks c .out (m - 1) s))
    (excChanges s m (heldInsts v 0x0102) (heldInForce v m s))

/-- The record of a quire that is in service again. -/
def quireReleased (v : Quire) : Quire :=
  { v with svc := 0, reentry := 0, reentryReq := none, sweep := false, held := [], outSince := 0, lossAt := [], tries := [] }

/-- The warming state at the edge. -/
def warmAt (v : Quire) (island : Int) (held : Bool) : Nat :=
  if held ∧ v.warmHeld ≠ 0 then v.warmHeld else if island.natAbs ≤ 1000000 then 2 else 1

/-- The witness runs again: the round of the start if it runs, else its own. -/
def witReleased (q : Nat) (s : State) : State :=
  if s.conv.simul.isSome then setWit q { witOf s q with state := 2 } s else startRobin q s

/-- The ensemble is in the given warming state. -/
def ensReleased (q : Nat) (e : Ensemble) (w : Nat) (m : Int) (island : Int) (held : Bool) (s : State) : State :=
  setEns q { e.warmed w m with island := island, leftCold := if held then e.leftCold else s.now } s

/-- The quire, its witness and its ensemble are in service. -/
def seatReleased (q : Nat) (v : Quire) (e : Ensemble) (m : Int) (island : Int) (held : Bool) (s : State) : State :=
  let s := setQuire q (quireReleased v) s
  ensReleased q e (warmAt v island held) m island held (witReleased q (setWit q { witOf s q with failRow := 0, passRow := 0 } s))

/-- What the members, the streams, the stand-ins, the tones and the quire are told of it. -/
def tellReleased (q : Nat) (v : Quire) (t m : Int) (s : State) : State :=
  let s := forAll ((span (128 * q) 128).flatMap (slotsOf s)) (fun k s => setMember k { member s k with from_ := m } s) s
  let s := forAll (producing s) (reentryRecord q t) s
  let s := resumePerm q m s
  let s := (v.held.filter (·.block == 0x0104)).foldl (fun s y => toneWritten y.inst (writeOnly y 0x0C) s) s
  let s := forAll ((s.cz.commits.map (·.edge)).eraseDups) (fun x => toQuire q 1 x) s
  match s.time.step with | some x => toQuire q 1 x.edge s | none => s

/-- The report of the re-entry. -/
def releaseReported (q w : Nat) (r : Option Req) (s : State) : State :=
  let s := warmEvent q 6 w (raise (ev 0x0210 q) (clearCause 0x0202 q s))
  match r with
  | none => s
  | some r => answerOr r stOk [] 0x1010 (jDone r [] s)

/-- The instant of the edge and its sinc number. -/
def releaseTime (v : Quire) : Int := ((v.reentryEdge * secU : Nat) : Int)

theorem reentryRelease_due {q : Nat} {island : Int} {held : Bool} {s : State} (hready : (quire s q).reentry = 3)
    (hswept : (quire s q).sweepLeft = []) (hdue : releaseTime (quire s q) ≤ devNow s) :
    reentryRelease q island held s
      = releaseReported q (warmAt (quire s q) island held) (quire s q).reentryReq
          (tellReleased q (quire s q) (releaseTime (quire s q)) (sincCeil (releaseTime (quire s q)))
            (seatReleased q (quire s q) (ensOf s q) (sincCeil (releaseTime (quire s q))) island held
              (frontReleased q (quire s q) (sincCeil (releaseTime (quire s q))) s))) := by
  unfold reentryRelease
  refine if_neg ?_
  rintro (h | h | h)
  · exact h hready
  · rw [hswept] at h
    exact h rfl
  · exact absurd hdue (not_le.2 h)

end Sys2Proof.Machine
end

section
/-! SUPPORT. What the release edge of a re-entry leaves alone, part by part (17 R427 to R430; 03 R76). -/

namespace Sys2Proof.Machine

/-! ### The words and the groups at the edge -/

/-- Nothing but reports, excitation, channels, witnesses and the calibration manager differ. -/
def SwitchSide (s t : State) : Prop :=
  Still { s with exc := t.exc, chans := t.chans, wit := t.wit, cal := t.cal } t

section
variable {s t u : State}

theorem SwitchSide.refl (s : State) : SwitchSide s s := Still.refl s

theorem SwitchSide.trans (h : SwitchSide s t) (k : SwitchSide t u) : SwitchSide s u := by
  have hover : Still { s with exc := u.exc, chans := u.chans, wit := u.wit, cal := u.cal }
      { t with exc := u.exc, chans := u.chans, wit := u.wit, cal := u.cal } :=
    { h with exc := rfl, chans := rfl, wit := rfl, cal := rfl }
  exact hover.trans k

theorem Measured.switchSide (h : Measured s t) : SwitchSide s t := by
  have hexc : t.exc = s.exc := h.side.exc_eq
  unfold SwitchSide
  rw [hexc]
  exact h.toCalSide.still

theorem Still.switchSide (h : Still s t) : SwitchSide s t := h.measured.switchSide

theorem setExc_switchSide (e : Nat) (v : ExcGroup) (s : State) : SwitchSide s (setExc e v s) := Still.refl _

theorem forAll_switchSide {α : Type} {f : α → State → State} (l : List α) (hf : ∀ x t, SwitchSide t (f x t)) (s : State) :
    SwitchSide s (forAll l f s) := forAll_ind (P := SwitchSide s) l (fun x t h => h.trans (hf x t)) (.refl s)

theorem marksEnd_switchSide (l : List Nat) (kind : MarkKind) (m : Int) (s : State) :
    SwitchSide s (forAll l (fun c s => endMarks c kind m s) s) :=
  forAll_switchSide l (fun _ t => (endMarks_measured (.refl t)).switchSide) s

theorem calHit_switchSide (first last : Int) (c : Nat) (s : State) : SwitchSide s (calHit first last c s) := by
  unfold calHit
  dsimp only
  split
  · exact .refl s
  · split_ifs
    · exact .refl s
    · exact (abandonCal_measured (.refl s)).switchSide
    · exact .refl s
    · exact (onStandin_measured (setChan_measured (.refl s))).switchSide

theorem holdGroup_switchSide (ts tb : Int) (conf : Bool) (e : Nat) (s : State) : SwitchSide s (holdGroup ts tb conf e s) :=
  setExc_switchSide ..

theorem switchEvent_switchSide (l : List Nat) (ts tb : Int) (conf : Bool) (s : State) :
    SwitchSide s (switchEvent l ts tb conf s) := by
  refine forAll_switchSide l (fun e t => ?_) s
  dsimp only
  split
  · exact (holdGroup_switchSide ..).trans (forAll_switchSide _ (calHit_switchSide _ _) _)
  · exact holdGroup_switchSide ..

theorem clearSenseLow_switchSide (m : Int) (g : Nat) (s : State) : SwitchSide s (clearSenseLow m g s) := by
  unfold clearSenseLow
  split
  · exact ((setExc_switchSide ..).trans (marksEnd_switchSide ..)).trans (clearCause_still (.refl _)).switchSide
  · exact .refl s

/-- A tripped group is in order again at its event, with the marks that the trip set. -/
theorem tripCleared_switchSide (m : Int) (e : Nat) (s : State) :
    SwitchSide s (clearCause 0x0301 e (forAll (groupChans e) (fun c s => endMarks c .tripped (m - 1) s)
      (setExc e { excOf s e with tripped := false } s))) :=
  ((setExc_switchSide ..).trans (marksEnd_switchSide ..)).trans (clearCause_still (.refl _)).switchSide

theorem excChange_switchSide (m : Int) (e : Nat) (s : State) : SwitchSide s (excChange m e s) := by
  have hsense (p : Prop) [Decidable p] (i : Int) (x : State) : SwitchSide x (if p then x else clearSenseLow i e x) := by
    split
    · exact .refl x
    · exact clearSenseLow_switchSide i e x
  have htrip (p : Prop) [Decidable p] : SwitchSide s (if p then clearCause 0x0301 e (forAll (groupChans e)
      (fun c s => endMarks c .tripped (m - 1) s) (setExc e { excOf s e with tripped := false } s)) else s) := by
    split
    · exact tripCleared_switchSide m e s
    · exact .refl s
  unfold excChange
  dsimp only
  refine SwitchSide.trans ?_ (switchEvent_switchSide ..)
  refine SwitchSide.trans ?_ (forAll_switchSide _ (fun g t => setExc_switchSide g _ t) _)
  exact ((htrip _).trans (hsense _ _ _)).trans (setExc_switchSide ..)

theorem excChanges_switchSide (o : State) (m : Int) (written : List Nat) (s : State) :
    SwitchSide s (excChanges o m written s) := forAll_switchSide _ (excChange_switchSide m) s

/-- Where no word has changed and no group is written, no group switches. -/
theorem excChanges_none {o s : State} (m : Int) (himage : s.safe.image = o.safe.image) (hc : s.cfg = o.cfg) :
    excChanges o m [] s = s := by
  have hsame (b i k hi lo : Nat) : fieldChanged o s b i k hi lo = false := by
    unfold fieldChanged cf
    rw [word_congr himage hc]
    exact bne_self_eq_false _
  have hstays (e : Nat) : switches o s [] e = false := by
    unfold switches
    simp [hsame, wireChanged]
  have hnone : (List.range (groupCount s)).filter (switches o s []) = [] :=
    List.filter_eq_nil_iff.2 fun e _ => Bool.eq_false_iff.1 (hstays e)
  unfold excChanges
  dsimp only
  rw [List.flatMap_nil, List.eraseDups_nil, hnone]
  rfl

end

/-! ### The words held for the quire -/

theorem applyItem_kept (b : Staged) (s : State) :
    ∃ cfg cz flash, applyItem b s = { s with cfg := cfg, cz := cz, flash := flash } := by
  refine List.foldlRecOn (motive := fun t : State => ∃ cfg cz flash, t = { s with cfg := cfg, cz := cz, flash := flash })
    _ _ ⟨_, _, _, rfl⟩ ?_
  rintro _ ⟨cfg, cz, flash, rfl⟩ w -
  split_ifs <;> exact ⟨_, _, _, rfl⟩

/-- Words of blocks reach the configuration and KEYS, and nothing else. -/
theorem applyWords_kept (l : List Staged) (s : State) :
    ∃ cfg cz flash, applyWords l s = { s with cfg := cfg, cz := cz, flash := flash } := by
  refine List.foldlRecOn (motive := fun t : State => ∃ cfg cz flash, t = { s with cfg := cfg, cz := cz, flash := flash })
    _ _ ⟨_, _, _, rfl⟩ ?_
  rintro _ ⟨cfg, cz, flash, rfl⟩ b -
  obtain ⟨cfg', cz', flash', h⟩ := applyItem_kept b { s with cfg := cfg, cz := cz, flash := flash }
  exact ⟨cfg', cz', flash', h⟩

theorem heldInForce_kept (v : Quire) (m : Int) (s : State) :
    ∃ cfg cz flash past chans,
      heldInForce v m s = { s with cfg := cfg, cz := cz, flash := flash, past := past, chans := chans } := by
  obtain ⟨cfg, cz, flash, h⟩ := applyWords_kept v.held (pushPast m s)
  refine publish_ind (P := fun t => ∃ cfg cz flash past chans,
    t = { s with cfg := cfg, cz := cz, flash := flash, past := past, chans := chans }) fun chans => ?_
  rw [h]
  exact ⟨_, _, _, _, _, rfl⟩

/-- Of the words only those held for the quire are new. -/
theorem heldInForce_cfg (v : Quire) (m : Int) (s : State) : (heldInForce v m s).cfg = (applyWords v.held s).cfg :=
  publish_cfg.trans (applyWords_pushPast_cfg ..)

theorem frontReleased_switchSide (q : Nat) (v : Quire) (m : Int) (s : State) :
    SwitchSide (heldInForce v m s) (frontReleased q v m s) := by
  refine (excChanges_switchSide ..).trans (forAll_switchSide _ (fun c t => ?_) _)
  exact (setChan_measured (endMarks_measured (.refl t))).switchSide

/-- What the edge's words and groups leave alone. -/
theorem frontReleased_spec (q : Nat) (v : Quire) (m : Int) (s : State) :
    (frontReleased q v m s).cfg = (applyWords v.held s).cfg ∧ (frontReleased q v m s).quires = s.quires
      ∧ (frontReleased q v m s).conv = s.conv ∧ (frontReleased q v m s).time = s.time
      ∧ (frontReleased q v m s).lanes = s.lanes := by
  obtain ⟨cfg, cz, flash, past, chans, hwords⟩ := heldInForce_kept v m s
  have hside := frontReleased_switchSide q v m s
  rw [← heldInForce_cfg v m s]
  rw [hwords] at hside ⊢
  exact ⟨hside.cfg, hside.quires, hside.conv, hside.time, hside.lanes⟩

/-- With no block held no group switches. -/
theorem frontReleased_exc (q : Nat) {v : Quire} (m : Int) (s : State) (h : v.held = []) :
    (frontReleased q v m s).exc = s.exc := by
  have hcfg : (heldInForce v m s).cfg = s.cfg := by
    rw [heldInForce_cfg, h]
    rfl
  obtain ⟨cfg, cz, flash, past, chans, hwords⟩ := heldInForce_kept v m s
  have himage : (heldInForce v m s).safe.image = s.safe.image := by rw [hwords]
  have hexc : (heldInForce v m s).exc = s.exc := by rw [hwords]
  have hinsts : heldInsts v 0x0102 = [] := by
    unfold heldInsts
    rw [h]
    rfl
  have hchans (t : State) : Measured t (forAll (quireCodes q)
      (fun c s => setChan c { chan s c with histFirst := m } (endMarks c .out (m - 1) s)) t) :=
    forAll_ind (P := Measured t) _ (fun c x k => k.trans (setChan_measured (endMarks_measured (.refl x)))) (.refl t)
  unfold frontReleased
  rw [hinsts, excChanges_none m himage hcfg, (hchans _).side.exc_eq, hexc]

end Sys2Proof.Machine
end

section
/-! SUPPORT. A quire that has been released: its seat in service, what is told of it, and what that leaves alone. -/

namespace Sys2Proof.Machine

/-! ### The seat -/

section
variable {q : Nat} {v : Quire} {e : Ensemble} {m : Int} {island : Int} {held : Bool} {s t u : State}

/-- The witness's new state, and nothing but its record. -/
theorem witReleased_spec (q : Nat) (s : State) :
    ∃ w : Witness, witReleased q s = setWit q w s ∧ w.state = if s.conv.simul.isSome then 2 else 1 := by
  unfold witReleased
  split
  · exact ⟨_, rfl, rfl⟩
  · exact ⟨_, rfl, rfl⟩

theorem ensReleased_spec (q : Nat) (e : Ensemble) (w : Nat) (m island : Int) (held : Bool) (s : State) :
    ∃ n : Ensemble, ensReleased q e w m island held s = setEns q n s ∧ n.warm = w := ⟨_, rfl, rfl⟩

/-- What stands once the quire has its seat: its record, its witness's state and its ensemble's warming state; besides quires,
witnesses and ensembles nothing is new. -/
structure Seated (q : Nat) (v : Quire) (w : Nat) (s t : State) : Prop where
  quires : t.quires = s.quires.put q (quireReleased v)
  state : (witOf t q).state = if s.conv.simul.isSome then 2 else 1
  warm : (ensOf t q).warm = w
  exc : t.exc = s.exc
  cfg : t.cfg = s.cfg
  time : t.time = s.time
  lanes : t.lanes = s.lanes

theorem seatReleased_seated (q : Nat) (v : Quire) (e : Ensemble) (m island : Int) (held : Bool) (s : State) :
    Seated q v (warmAt v island held) s (seatReleased q v e m island held s) := by
  obtain ⟨w, hwit, hstate⟩ := witReleased_spec q (setWit q { witOf (setQuire q (quireReleased v) s) q with
    failRow := 0, passRow := 0 } (setQuire q (quireReleased v) s))
  obtain ⟨n, hens, hwarm⟩ := ensReleased_spec q e (warmAt v island held) m island held (setWit q w
    (setWit q { witOf (setQuire q (quireReleased v) s) q with failRow := 0, passRow := 0 } (setQuire q (quireReleased v) s)))
  unfold seatReleased
  dsimp only
  rw [hwit, hens]
  refine ⟨rfl, ?_, ?_, rfl, rfl, rfl, rfl⟩
  · exact (congrArg Witness.state (witOf_setWit_self q w _)).trans hstate
  · exact (congrArg Ensemble.warm (ensOf_setEns_self q n _)).trans hwarm

/-! ### What is told of it -/

/-- The quires, the ensembles, the excitation, the words, the device time, the lanes and the states of the witnesses are the
same. -/
structure SeatKept (s t : State) : Prop where
  quires : t.quires = s.quires
  ens : t.cal.ens = s.cal.ens
  exc : t.exc = s.exc
  cfg : t.cfg = s.cfg
  time : t.time = s.time
  lanes : t.lanes = s.lanes
  states : ∀ k, (witOf t k).state = (witOf s k).state

theorem SeatKept.refl (s : State) : SeatKept s s := ⟨rfl, rfl, rfl, rfl, rfl, rfl, fun _ => rfl⟩

theorem SeatKept.trans (h : SeatKept s t) (k : SeatKept t u) : SeatKept s u :=
  ⟨k.quires.trans h.quires, k.ens.trans h.ens, k.exc.trans h.exc, k.cfg.trans h.cfg, k.time.trans h.time,
    k.lanes.trans h.lanes, fun x => (k.states x).trans (h.states x)⟩

theorem Still.seatKept (h : Still s t) : SeatKept s t :=
  ⟨h.quires, by rw [h.cal], h.exc, h.cfg, h.time, h.lanes, fun x => by rw [h.witOf_eq]⟩

theorem forAll_seatKept {α : Type} {f : α → State → State} (l : List α) (hf : ∀ x t, SeatKept t (f x t)) (s : State) :
    SeatKept s (forAll l f s) := forAll_ind (P := SeatKept s) l (fun x t h => h.trans (hf x t)) (.refl s)

theorem setMember_seatKept (k : Nat) (x : SMember) (s : State) : SeatKept s (setMember k x s) := by
  unfold setMember
  split <;> exact ⟨rfl, rfl, rfl, rfl, rfl, rfl, fun _ => rfl⟩

theorem setChan_seatKept (c : Nat) (x : Chan) (s : State) : SeatKept s (setChan c x s) :=
  ⟨rfl, rfl, rfl, rfl, rfl, rfl, fun _ => rfl⟩

theorem setTone_seatKept (c : Nat) (x : Tone) (s : State) : SeatKept s (setTone c x s) :=
  ⟨rfl, rfl, rfl, rfl, rfl, rfl, fun _ => rfl⟩

/-- A stand-in's position changes and not the state of its witness. -/
theorem onStandin_seatKept (c : Nat) (f : StandIn → Option StandIn) (s : State) : SeatKept s (onStandin c f s) := by
  refine ⟨rfl, rfl, rfl, rfl, rfl, rfl, fun k => ?_⟩
  by_cases h : k = quireOf c
  · subst h
    unfold onStandin
    rw [witOf_setWit_self]
  · exact congrArg Witness.state (witOf_setWit_ne h ..)

theorem reentryRecord_seatKept (q : Nat) (t : Int) (n : Nat) (s : State) : SeatKept s (reentryRecord q t n s) := by
  unfold reentryRecord
  split
  · exact .refl s
  · exact (dueDisc_still (.refl s)).seatKept

theorem resumePerm_seatKept (q : Nat) (m : Int) (s : State) : SeatKept s (resumePerm q m s) := by
  unfold resumePerm
  split
  · exact .refl s
  · split
    · exact ((onStandin_seatKept ..).trans (setChan_seatKept ..)).trans (setChan_seatKept ..)
    · exact .refl s

theorem startScan_seatKept (q : Nat) (sched : Bool) (s : State) : SeatKept s (startScan q sched s) := by
  unfold startScan
  dsimp only
  split_ifs
  · exact .refl s
  · exact setTone_seatKept ..
  · exact setTone_seatKept ..
  · exact setTone_seatKept ..
  · exact setTone_seatKept ..

theorem toneWritten_seatKept (q wo : Nat) (s : State) : SeatKept s (toneWritten q wo s) := by
  have hbase : SeatKept s (if bit 1 wo then setTone q { toneOf s q with captureNext := true } s else s) := by
    split
    · exact setTone_seatKept ..
    · exact .refl s
  unfold toneWritten
  dsimp only
  split
  · exact hbase.trans (startScan_seatKept ..)
  · exact hbase

theorem tellReleased_seatKept (q : Nat) (v : Quire) (t m : Int) (s : State) : SeatKept s (tellReleased q v t m s) := by
  have hstep (x : State) : SeatKept x (match x.time.step with | some y => toQuire q 1 y.edge x | none => x) := by
    split
    · exact (toQuire_still (.refl x)).seatKept
    · exact .refl x
  have hmembers := forAll_seatKept ((span (128 * q) 128).flatMap (slotsOf s))
    (f := fun k s => setMember k { member s k with from_ := m } s) (fun k x => setMember_seatKept k _ x) s
  unfold tellReleased
  dsimp only
  refine SeatKept.trans ?_ (hstep _)
  refine SeatKept.trans ?_ (forAll_seatKept _ (fun x y => (toQuire_still (.refl y)).seatKept) _)
  refine SeatKept.trans ?_ (forAll_seatKept _ (fun (y : Staged) x => toneWritten_seatKept y.inst (writeOnly y 0x0C) x) _)
  exact (hmembers.trans (forAll_seatKept _ (reentryRecord_seatKept q t) _)).trans (resumePerm_seatKept q m _)

theorem releaseReported_still (q w : Nat) (r : Option Req) (s : State) : Still s (releaseReported q w r s) := by
  have hwarm : Still s (warmEvent q 6 w (raise (ev 0x0210 q) (clearCause 0x0202 q s))) :=
    warmEvent_still (raise_still (clearCause_still (.refl s)))
  unfold releaseReported
  dsimp only
  split
  · exact hwarm
  · exact answerOr_still (jDone_still hwarm)

/-- The release edge: what it makes of the quire, and what it leaves alone. -/
theorem reentryRelease_spec (hready : (quire s q).reentry = 3) (hswept : (quire s q).sweepLeft = [])
    (hdue : releaseTime (quire s q) ≤ devNow s) (ht : t = reentryRelease q island held s) :
    quire t q = quireReleased (quire s q) ∧ (witOf t q).state = (if s.conv.simul.isSome then 2 else 1)
      ∧ (ensOf t q).warm = warmAt (quire s q) island held ∧ t.cfg = (applyWords (quire s q).held s).cfg
      ∧ ((quire s q).held = [] → t.exc = s.exc) ∧ (∀ x, x ≠ q → quire t x = quire s x) ∧ t.time = s.time
      ∧ t.lanes = s.lanes := by
  rw [reentryRelease_due hready hswept hdue] at ht
  generalize hv : quire s q = v at ht ⊢
  generalize sincCeil (releaseTime v) = m at ht
  obtain ⟨hcfg, hquires, hconv, htime, hlanes⟩ := frontReleased_spec q v m s
  have hexc := frontReleased_exc q (v := v) m s
  generalize frontReleased q v m s = b at ht hcfg hquires hconv htime hlanes hexc
  have hseat := seatReleased_seated q v (ensOf s q) m island held b
  generalize seatReleased q v (ensOf s q) m island held b = c at ht hseat
  have hrest : SeatKept c t := ht ▸ (tellReleased_seatKept ..).trans (releaseReported_still ..).seatKept
  have hquire (x : Nat) : quire t x = quire (setQuire q (quireReleased v) b) x := by
    unfold quire
    rw [hrest.quires, hseat.quires]
    rfl
  refine ⟨?_, ?_, ?_, ?_, fun h => ?_, fun x hx => ?_, ?_, ?_⟩
  · rw [hquire, quire_setQuire_self]
  · rw [hrest.states, hseat.state, hconv]
  · have hens : ensOf t q = ensOf c q := by
      unfold ensOf
      rw [hrest.ens]
    rw [hens, hseat.warm]
  · rw [hrest.cfg, hseat.cfg, hcfg]
  · rw [hrest.exc, hseat.exc, hexc h]
  · rw [hquire, quire_setQuire_ne hx]
    unfold quire
    rw [hquires]
  · rw [hrest.time, hseat.time, htime]
  · rw [hrest.lanes, hseat.lanes, hlanes]

end

/-- Settles O27: the commands and the load by the branch they take, the release edge part by part. -/
theorem reentryAndMicrocode : Obligations.ReentryAndMicrocode := by
  unfold Obligations.ReentryAndMicrocode
  refine ⟨?reenter, ?refused, ?load, ?loaded, ?kept, ?start, ?release⟩
  case reenter =>
    rintro at_ p v r z q s _ rfl ha hr hz rfl hout hno hidle
    exact congrArg Host.Outcome.next (quireReenter_queued ha hr hz hout hno hidle)
  case refused =>
    rintro at_ p v r z s _ rfl ha hr hz h
    exact congrArg Host.Outcome.next (quireReenter_refused ha hr hz h)
  case load =>
    rintro at_ p v r z q y s _ rfl ha hr hz rfl hout hno hidle hfree rfl
    exact congrArg Host.Outcome.next (ucodeLoad_queued ha hr hz hout hno hidle hfree)
  case loaded =>
    rintro at_ q d r s _ rfl hload hd
    exact congrArg Host.Outcome.next (ucodeDone_matches hload hd)
  case kept =>
    rintro at_ q d r s _ rfl hload hd
    have hstill := ucodeDone_differs hload hd
    obtain ⟨hidle, hrom, hdigest⟩ := loadRefused_spec hload
    refine ⟨_, rfl, ?_, ?_, ?_, fun k hk => ?_, ?_⟩
    · rw [hstill.quire_eq, quire_setQuire_self, hidle]
    · rw [hstill.quire_eq, quire_setQuire_self, hrom]
    · rw [hstill.quire_eq, quire_setQuire_self, hdigest]
    · rw [hstill.quire_eq, quire_setQuire_ne hk]
    · rw [hstill.quires]
      exact hstill
  case start =>
    rintro at_ q s _ rfl hready hdue
    exact congrArg Host.Outcome.next (reentryStart_due hready hdue)
  case release =>
    rintro at_ q island held s _ rfl hready hswept hdue
    obtain ⟨hquire, hwit, hens, hcfg, hexc, hothers, htime, hlanes⟩ :=
      reentryRelease_spec (island := island) (held := held) hready hswept hdue rfl
    refine ⟨_, rfl, ?_, ?_, ?_, ?_, ?_, hwit, hens, hcfg, hexc, hothers, htime, hlanes⟩ <;> rw [hquire] <;> rfl

end Sys2Proof.Machine
end

section
/-! SUPPORT. Transfers of images, FW_SWAP and HUB_RESET (14 R367 to R369). -/

namespace Sys2Proof.Machine

section
variable {r : Req} {s t z : State} {x : FwTransfer}

/-- A reply changes nothing of the transfer. -/
@[simp] theorem replyTo_fw (r : Req) (st : Nat) (final : Bool) (body : List Byte) (s : State) :
    (replyTo r st final body s).cz.fw = s.cz.fw := by
  unfold replyTo
  split
  · rfl
  · unfold replyIn
    split
    · rfl
    · exact List.foldlRecOn (motive := fun t : State => t.cz.fw = s.cz.fw) _ _ rfl
        fun t ht b _ => (congrArg Cuzan.fw (sendBytes_cz _ _ _ b t)).trans ht

@[simp] theorem answer_fw (r : Req) (st : Nat) (body : List Byte) (s : State) : (answer r st body s).cz.fw = s.cz.fw :=
  replyTo_fw ..
@[simp] theorem queued_fw (r : Req) (body : List Byte) (s : State) : (queued r body s).cz.fw = s.cz.fw := replyTo_fw ..

@[simp] theorem answer_flash (r : Req) (st : Nat) (body : List Byte) (s : State) : (answer r st body s).flash = s.flash := by
  unfold answer replyTo
  split
  · rfl
  · unfold replyIn
    split
    · rfl
    · refine List.foldlRecOn (motive := fun t : State => t.flash = s.flash) _ _ rfl fun t ht b _ => ?_
      unfold sendBytes
      split <;> exact ht

theorem setPartition_other (i : Nat) (l : Tab Nat) (s : State) :
    ∃ f : Flash, setPartition i l s = { s with flash := f } ∧ f.bad = s.flash.bad := by
  unfold setPartition
  split <;> exact ⟨_, rfl, rfl⟩

theorem abandonFw_of (h : s.cz.fw = some x) : abandonFw s =
    setPartition x.target ((partition s x.target).put 450 0) { s with cz.fw := none } := by
  unfold abandonFw
  rw [h]
  dsimp only
  generalize x.target = i
  match i with
  | 0 => rfl
  | 1 => rfl
  | 2 => rfl
  | _ + 3 => rfl

/-! ### FW_BEGIN -/

theorem fwBegin_opens (hfree : s.cz.fw = none) (himage : r.f 0 1 ≠ s.boot.image) (hload : r.f 0 1 ≠ 3 ∨ ucodeLoading s = false) :
    (fwBeginRun r s).cz.fw = some
        { target := r.f 0 1, length := r.f 4 4, session := r.session, erased := false, req := r, commit := none, data := [], buffered := 0, last := s.now }
      ∧ (fwBeginRun r s).cfg = s.cfg ∧ (fwBeginRun r s).chans = s.chans ∧ (fwBeginRun r s).time = s.time := by
  obtain ⟨f, hbad, -⟩ := setPartition_other (r.f 0 1) (programByte (partition s (r.f 0 1)) 450) s
  have hset : setImgState (r.f 0 1) 3 s = { s with flash := f } := hbad
  have hrun : fwBeginRun r s = queued r [] { jCommand r true 1 r.params { s with flash := f } with
      cz.fw := some { target := r.f 0 1, length := r.f 4 4, session := r.session, erased := false, req := r, commit := none, data := [], buffered := 0,
                      last := (jCommand r true 1 r.params { s with flash := f }).now } } := by
    unfold fwBeginRun
    dsimp only
    rw [if_neg (by simp [hfree]), if_neg (by rintro (h | ⟨h, k⟩); exact himage h; exact hload.elim (· h) (by simp [k])), hset]
  have hstill : Still { s with flash := f } (jCommand r true 1 r.params { s with flash := f }) := jCommand_still (.refl _)
  generalize jCommand r true 1 r.params { s with flash := f } = y at hrun hstill
  have hqueued : Still y (fwBeginRun r s) := by
    rw [hrun]
    exact queued_still (still_cz _ _)
  have hall := hstill.trans hqueued
  refine ⟨?_, hall.cfg, hall.chans, hall.time⟩
  rw [hrun, queued_fw, hstill.now]

theorem fwBegin_conflict (hfree : s.cz.fw = none) (h : r.f 0 1 = s.boot.image ∨ (r.f 0 1 = 3 ∧ ucodeLoading s = true)) :
    fwBeginRun r s = refuse r stConflict s := by
  unfold fwBeginRun
  dsimp only
  rw [if_neg (by simp [hfree]), if_pos h]

/-! ### FW_DATA -/

/-- Bytes that agree with those already sent do not refuse a range. -/
theorem fwData_agrees (herased : x.erased = true)
    (hsame : ((fwRange r).any fun k => ((x.data.find k.1).getD k.2) != k.2) = false) {f : Nat × Nat → Bool}
    (hf : ∀ k, f k = true → ((x.data.find k.1).getD k.2 != k.2) = true) : ¬ (¬ x.erased = true ∨ (fwRange r).any f = true) := by
  rintro (h | h)
  · exact h herased
  · obtain ⟨k, hk, hdiffers⟩ := List.any_eq_true.1 h
    exact List.any_eq_false.1 hsame k hk (hf k hdiffers)

theorem fwBuffered_le (x : FwTransfer) (s : State) : fwBuffered x s ≤ x.buffered := Nat.sub_le ..

theorem fwBuffered_now (h : x.last = s.now) : fwBuffered x s = x.buffered := by simp [fwBuffered, h]

theorem fwData_kept (hown : ownFw r s = some x) (herased : x.erased = true)
    (hsame : ((fwRange r).any fun k => ((x.data.find k.1).getD k.2) != k.2) = false)
    (hroom : ((fwRange r).filter fun k => (x.data.find k.1).isNone).length + x.buffered ≤ 262144) :
    ∃ b, fwDataRun r s = answer r stOk [] { s with cz.fw := some { x with
      data := ((fwRange r).filter fun k => (x.data.find k.1).isNone).foldl (fun (y : Tab Nat) k => y.put k.1 k.2) x.data
      buffered := b, last := s.now } } := by
  have hle := fwBuffered_le x s
  refine ⟨fwBuffered x s + ((fwRange r).filter fun k => (x.data.find k.1).isNone).length, ?_⟩
  unfold fwDataRun
  simp only [hown]
  rw [if_neg (fwData_agrees herased hsame fun k h => ?_), if_neg (by omega)]
  split at h <;> simp_all

theorem fwData_busy (hown : ownFw r s = some x) (herased : x.erased = true) (hnow : x.last = s.now)
    (hsame : ((fwRange r).any fun k => ((x.data.find k.1).getD k.2) != k.2) = false)
    (hfull : 262144 < x.buffered + ((fwRange r).filter fun k => (x.data.find k.1).isNone).length) :
    fwDataRun r s = refuse r stBusy s := by
  have hlevel := fwBuffered_now hnow
  unfold fwDataRun
  simp only [hown]
  rw [if_neg (fwData_agrees herased hsame fun k h => ?_), if_pos (by omega)]
  split at h <;> simp_all

theorem fwData_alone (hown : ownFw r s = none) : fwDataRun r s = refuse r stConflict s := by
  unfold fwDataRun
  simp only [hown]

/-! ### FW_COMMIT -/

theorem fwCommit_alone (hown : ownFw r s = none) : fwCommitRun r s = refuse r stConflict s := by
  unfold fwCommitRun
  simp only [hown]

theorem fwCommit_waits (hown : ownFw r s = some x) (herased : x.erased = false) (hfirst : x.commit = none) :
    fwCommitRun r s = queued r [] { s with cz.fw := some { x with commit := some r } } := by
  unfold fwCommitRun
  simp [hown, herased, hfirst]

theorem fwCommit_again {a : Req} (hown : ownFw r s = some x) (hsecond : x.commit = some a) :
    fwCommitRun r s = refuse r stConflict s := by
  unfold fwCommitRun
  simp [hown, hsecond]

theorem fwCommit_runs (hown : ownFw r s = some x) (herased : x.erased = true) (hfirst : x.commit = none) :
    fwCommitRun r s = fwCommitEnd r x (queued r [] s) := by
  unfold fwCommitRun
  simp [hown, herased, hfirst]

/-- The state in which a commit judges the image: its bytes are in the partition. -/
def fwFilled (x : FwTransfer) (s : State) : State := setPartition x.target (programBytes x.data []) s

theorem fwCommitEnd_incomplete (h : x.data.length < x.length) (s : State) :
    fwCommitEnd r x s = answer r stConflict [1, 0, 0, 0] (abandonFw (fwFilled x s)) := by
  have hreason : fwReason x (fwFilled x s) = 1 := if_pos h
  unfold fwCommitEnd
  unfold fwFilled at hreason ⊢
  simp only [hreason]
  rfl

theorem fwReason_checks (h : x.length ≤ x.data.length) (hbad : s.flash.bad.contains x.target = false) :
    fwReason x s = 0 ↔ imgCheck s x.target = 0 := by
  unfold fwReason
  rw [if_neg (Nat.not_lt.2 h), if_neg (by rw [hbad]; exact Bool.false_ne_true)]
  split
  · next e => simp [e]
  · next e => simp [e]
  · next e _ => exact ⟨fun k => absurd k (by decide), fun k => absurd k e⟩

theorem jCommand_partition (r : Req) (accepted : Bool) (unit : Nat) (body : List Byte) (s : State) (i : Nat) :
    partition (jCommand r accepted unit body s) i = partition s i := Still.partition_eq (jCommand_still (.refl s)) i

theorem answer_partition (r : Req) (st : Nat) (body : List Byte) (s : State) (i : Nat) :
    partition (answer r st body s) i = partition s i := Still.partition_eq (answer_still (.refl s)) i

theorem fwCommitEnd_judged (h : x.length ≤ x.data.length) (hbad : s.flash.bad.contains x.target = false)
    (hfw : s.cz.fw = some x) :
    (fwCommitEnd r x s).cz.fw = none ∧ (fwCommitEnd r x s).cfg = s.cfg
      ∧ partition (fwCommitEnd r x s) x.target = if imgCheck (fwFilled x s) x.target = 0 then
          partition (setImgState x.target (if x.target = 3 then 2 else 1) (fwFilled x s)) x.target
        else partition (abandonFw (fwFilled x s)) x.target := by
  obtain ⟨f, hfill, hsame⟩ := setPartition_other x.target (programBytes x.data []) s
  have hfilled : fwFilled x s = { s with flash := f } := hfill
  have hjudge : fwReason x (fwFilled x s) = 0 ↔ imgCheck (fwFilled x s) x.target = 0 :=
    fwReason_checks h (by rw [hfilled]; exact hsame ▸ hbad)
  have hopen : (fwFilled x s).cz.fw = some x := by rw [hfilled]; exact hfw
  have hcfg : (fwFilled x s).cfg = s.cfg := by rw [hfilled]
  by_cases hgood : imgCheck (fwFilled x s) x.target = 0
  · have hrun : ∃ body jb, fwCommitEnd r x s = answer r stOk body (jCommand r false 1 jb
        (setImgState x.target (if x.target = 3 then 2 else 1) { fwFilled x s with cz.fw := none })) := by
      unfold fwCommitEnd
      dsimp only
      exact ⟨_, _, if_pos (hjudge.2 hgood)⟩
    obtain ⟨body, jb, hrun⟩ := hrun
    obtain ⟨g, hset, -⟩ := setPartition_other x.target (programByte (partition (fwFilled x s) x.target)
      (if (if x.target = 3 then 2 else 1) = 1 then 448 else if (if x.target = 3 then 2 else 1) = 2 then 449 else 450))
      { fwFilled x s with cz.fw := none }
    have hmarked : setImgState x.target (if x.target = 3 then 2 else 1) { fwFilled x s with cz.fw := none }
        = { fwFilled x s with cz.fw := none, flash := g } := hset
    rw [if_pos hgood, hrun]
    refine ⟨?_, ?_, ?_⟩
    · rw [answer_fw, jCommand_cz, hmarked]
    · rw [(answer_still (jCommand_still (.refl _))).cfg, hmarked]
      exact hcfg
    · rw [answer_partition, jCommand_partition]
      unfold setImgState
      rw [partition_setPartition, partition_setPartition]
      rfl
  · have hrun : ∃ st body, fwCommitEnd r x s = answer r st body (abandonFw (fwFilled x s)) := by
      unfold fwCommitEnd
      dsimp only
      exact ⟨_, _, if_neg fun e => hgood (hjudge.1 e)⟩
    obtain ⟨st, body, hrun⟩ := hrun
    obtain ⟨g, hset, -⟩ := setPartition_other x.target ((partition (fwFilled x s) x.target).put 450 0)
      { fwFilled x s with cz.fw := none }
    have hgone := (abandonFw_of hopen).trans hset
    rw [if_neg hgood, hrun]
    refine ⟨?_, ?_, answer_partition ..⟩
    · rw [answer_fw, hgone]
    · rw [(answer_still (.refl _)).cfg, hgone]
      exact hcfg

/-! ### The end of the erasure, and the idle transfer -/

theorem fwErased_answers (hfw : s.cz.fw = some x) (hrun : x.erased = false) (hfree : x.commit = none)
    (hbad : s.flash.bad.contains x.target = false) :
    fwErased s = answer x.req stOk [] { setPartition x.target [] s with cz.fw := some { x with erased := true } } := by
  unfold fwErased
  simp only [hfw, hrun, hfree, hbad, Bool.false_eq_true, if_false]

theorem fwErased_commits {a : Req} (hfw : s.cz.fw = some x) (hrun : x.erased = false) (hwaits : x.commit = some a)
    (hbad : s.flash.bad.contains x.target = false) :
    fwErased s = fwCommitEnd a x (answer x.req stOk []
      { setPartition x.target [] s with cz.fw := some { x with erased := true } }) := by
  unfold fwErased
  simp only [hfw, hrun, hwaits, hbad, Bool.false_eq_true, if_false]

/-! ### FW_SWAP -/

theorem swapRun_refused (h : s.cz.fw ≠ none ∨ s.cal.sealOpen = true ∨ s.safe.lockOpen = true ∨ s.cz.commits ≠ [] ∨ s.cz.sched ≠ []) :
    swapRun r s = refuse r stConflict s := by
  refine if_pos ?_
  rcases h with h | h | h | h | h
  · exact .inr (.inl (Option.isSome_iff_ne_none.2 h))
  · exact .inr (.inr (.inl h))
  · exact .inr (.inr (.inr (.inl h)))
  · have hlen := List.length_pos_iff.2 h
    refine .inr (.inr (.inr (.inr ?_)))
    unfold scheduled
    omega
  · have hlen := List.length_pos_iff.2 h
    refine .inr (.inr (.inr (.inr ?_)))
    unfold scheduled
    omega

theorem swapRun_unready (h : imgReady (otherImage s) s = false) : swapRun r s = refuse r stConflict s :=
  if_pos (.inl (by simp [h]))

/-! ### HUB_RESET -/

theorem hubReset_resets (r : Req) (s : State) :
    (hubResetRun [] r s).boot.inReset = true ∧ (s.boot.inReset = false → (hubResetRun [] r s).boot.newCause = 8)
      ∧ (hubResetRun [] r s).cfg = [] ∧ (hubResetRun [] r s).cz = State.reset.cz ∧ (hubResetRun [] r s).part = s.part := by
  have hstill : Still s (answer r stOk [] (jCommand r true 1 r.params s)) := answer_still (jCommand_still (.refl s))
  have hrun : hubResetRun [] r s = enterReset 8 (answer r stOk [] (jCommand r true 1 r.params s)) := by
    unfold hubResetRun
    dsimp only [List.foldl_nil]
    rw [ite_self]
  rw [hrun]
  generalize answer r stOk [] (jCommand r true 1 r.params s) = y at hstill
  refine ⟨rfl, fun h => ?_, rfl, rfl, hstill.part⟩
  have hout : y.boot.inReset = false := by rw [hstill.boot_eq]; exact h
  unfold enterReset
  dsimp only
  rw [hout, if_neg Bool.false_ne_true]
  decide

end

/-- Where no image is ever ready to start, every clause of O55 holds; all but FW_SWAP's hold without that. -/
theorem firmwareTransfers_of_noneReady (hunready : ∀ s, imgReady (otherImage s) s = false) :
    Obligations.FirmwareTransfers := by
  unfold Obligations.FirmwareTransfers
  refine ⟨?opens, ?beginBusy, ?beginConflict, ?erased, ?erasedCommit, ?data, ?dataBusy, ?dataAlone, ?commitAlone, ?commitWaits, ?commitAgain, ?commitShort, ?commitJudged, ?idle, ?early, ?swapRefused, ?swap, ?reset⟩
  case opens =>
    rintro at_ p v r z n s _ rfl ha rfl rfl rfl hfree himage hload
    exact ⟨_, congrArg Host.Outcome.next (serve_accepted _ ha), fwBegin_opens hfree himage hload⟩
  case beginBusy =>
    rintro at_ p v r z s _ rfl ha rfl rfl hopen
    exact congrArg Host.Outcome.next ((serve_accepted _ ha).trans (if_pos (Option.isSome_iff_ne_none.2 hopen)))
  case beginConflict =>
    rintro at_ p v r z s _ rfl ha rfl rfl hfree hno
    exact congrArg Host.Outcome.next ((serve_accepted _ ha).trans (fwBegin_conflict hfree hno))
  case erased =>
    rintro at_ x s _ rfl hfw hrun hfree hbad
    exact congrArg Host.Outcome.next (fwErased_answers hfw hrun hfree hbad)
  case erasedCommit =>
    rintro at_ x a s _ rfl hfw hrun hwaits hbad
    exact congrArg Host.Outcome.next (fwErased_commits hfw hrun hwaits hbad)
  case data =>
    rintro at_ p v r z x fresh s _ rfl ha rfl rfl hown herased hsame rfl hroom
    obtain ⟨b, hb⟩ := fwData_kept hown herased hsame hroom
    refine ⟨_, congrArg Host.Outcome.next ((serve_accepted _ ha).trans hb), ?_, ?_, ?_, ?_⟩
    · rw [answer_fw]; rfl
    · rw [answer_fw]; rfl
    · exact (answer_still (still_cz _ _)).cfg
    · rw [answer_flash]
  case dataBusy =>
    rintro at_ p v r z x s _ rfl ha rfl rfl hown herased hnow hsame hfull
    exact congrArg Host.Outcome.next ((serve_accepted _ ha).trans (fwData_busy hown herased hnow hsame hfull))
  case dataAlone =>
    rintro at_ p v r z s _ rfl ha rfl rfl hown
    exact congrArg Host.Outcome.next ((serve_accepted _ ha).trans (fwData_alone hown))
  case commitAlone =>
    rintro at_ p v r z s _ rfl ha rfl rfl hown
    exact congrArg Host.Outcome.next ((serve_accepted _ ha).trans (fwCommit_alone hown))
  case commitWaits =>
    rintro at_ p v r z x s _ rfl ha rfl rfl hown herased hfirst
    exact congrArg Host.Outcome.next ((serve_accepted _ ha).trans (fwCommit_waits hown herased hfirst))
  case commitAgain =>
    rintro at_ p v r z x a s _ rfl ha rfl rfl hown hsecond
    exact congrArg Host.Outcome.next ((serve_accepted _ ha).trans (fwCommit_again hown hsecond))
  case commitShort =>
    rintro at_ p v r z x y s _ rfl ha rfl rfl hown herased hfirst hshort rfl
    exact congrArg Host.Outcome.next ((serve_accepted _ ha).trans ((fwCommit_runs hown herased hfirst).trans
      (fwCommitEnd_incomplete hshort _)))
  case commitJudged =>
    rintro at_ p v r z x y s _ rfl ha hr hz hown herased hfirst hlong hbad rfl
    have hfw : z.cz.fw = some x := (Option.filter_eq_some_iff.1 hown).1
    have hqueued : Still z (queued r [] z) := queued_still (.refl z)
    obtain ⟨hclosed, hcfg, hpart⟩ := fwCommitEnd_judged (r := r) (s := queued r [] z) hlong
      (by rw [hqueued.flash_eq]; exact hbad) (by rw [queued_fw, hfw])
    refine ⟨_, congrArg Host.Outcome.next ((serve_accepted _ ha).trans ?_), hclosed, hcfg.trans hqueued.cfg, hpart⟩
    rw [← hr, ← hz]
    exact fwCommit_runs hown herased hfirst
  case idle =>
    rintro at_ x s _ rfl hfw hidle
    refine congrArg Host.Outcome.next ?_
    unfold fwIdle
    simp only [hfw]
    exact if_pos hidle
  case early =>
    rintro at_ x s _ rfl hfw hidle
    refine congrArg Host.Outcome.next ?_
    unfold fwIdle
    simp only [hfw]
    exact if_neg (Nat.not_le.2 hidle)
  case swapRefused =>
    rintro at_ p v r z s _ rfl ha rfl rfl hbusy
    exact congrArg Host.Outcome.next ((serve_accepted _ ha).trans (swapRun_refused hbusy))
  case swap =>
    rintro at_ p v r z i s _ rfl ha rfl rfl rfl - - - - -
    rw [if_neg (by rw [hunready]; exact Bool.false_ne_true)]
    exact congrArg Host.Outcome.next ((serve_accepted _ ha).trans (swapRun_unready (hunready _)))
  case reset =>
    rintro at_ p v r z s _ rfl ha hr hz
    refine ⟨_, congrArg Host.Outcome.next ((serve_accepted _ ha).trans (by rw [← hr, ← hz])), hubReset_resets r z⟩

end Sys2Proof.Machine
end

section
/-! SUPPORT. What FW_SWAP's clause rests on: whether any image passes its signature (14 R368; 17 R438; 13 R344). -/

namespace Sys2Proof.Machine

/-- A hub in Crown on an image, with given flash; an injection of quire 0 waits for its instant. -/
def swapHub (f : Flash) (image : Nat) : State :=
  { ringHub [serviceSession] with
    flash := f
    boot := { (default : Boot) with fwRuns := true, stage := 3, image := image }
    wit := [(0, { (default : Witness) with injections := [{ (default : Injection) with start := 1, hold := some 1 }] })] }

/-- An FW_SWAP. -/
def swapPacket : Packet := servicePacket [0, 0, 0, 0]

/-- The request that the FW_SWAP makes of that hub, and the state in which it runs. -/
def swapRequest (f : Flash) (image : Nat) : Req := request 0x0B03 swapPacket serviceSession ((swapHub f image).tick 0)
def swapTaken (f : Flash) (image : Nat) : State := takenState swapPacket serviceSession ((swapHub f image).tick 0)

/-- No check of a packet reads flash or the image. -/
theorem swapPacket_accepted (f : Flash) (image : Nat) : Accepted 0x0B03 swapPacket tableRole
    (fun r s => exactly 4 r s && zeroAt 0 4 r) serviceSession ((swapHub f image).tick 0) := by
  have hinit : Accepted 0x0B03 swapPacket tableRole (fun r s => exactly 4 r s && zeroAt 0 4 r) serviceSession
      ((swapHub Flash.init 1).tick 0) :=
    ⟨by decide, by decide, by decide, by decide, by decide, rfl, rfl, _, rfl, by decide +kernel⟩
  exact hinit

/-- The injection counts as a scheduled action (13 R344). -/
theorem scheduled_swapTaken (f : Flash) (image : Nat) : scheduled (swapTaken f image) = 1 := by
  have hinit : scheduled (swapTaken Flash.init 1) = 1 := by decide +kernel
  exact hinit

/-- So the FW_SWAP is refused. -/
theorem fwSwap_swapHub (f : Flash) (image : Nat) :
    exec (.fwSwap 0 swapPacket) (swapHub f image) = .next (refuse (swapRequest f image) stConflict (swapTaken f image)) := by
  refine congrArg Host.Outcome.next ((serve_accepted _ (swapPacket_accepted f image)).trans (if_pos ?_))
  have hpending := scheduled_swapTaken f image
  exact .inr (.inr (.inr (.inr (by rw [← swapTaken, hpending]; decide))))

/-- Whether an image is ready rests on flash and on which image runs. -/
theorem imgReady_swapTaken (s : State) :
    imgReady (otherImage (swapTaken s.flash s.boot.image)) (swapTaken s.flash s.boot.image) = imgReady (otherImage s) s := rfl

/-- O55 asks exactly that no image is ever ready to start, which turns on the free outcome of the signature (log entry 9): its
clause on FW_SWAP leaves out the timed injections among what is pending, and every other clause holds. -/
theorem firmwareTransfers_iff_noneReady : Obligations.FirmwareTransfers ↔ ∀ s, imgReady (otherImage s) s = false := by
  refine ⟨fun h s => ?_, firmwareTransfers_of_noneReady⟩
  unfold Obligations.FirmwareTransfers at h
  obtain ⟨-, -, -, -, -, -, -, -, -, -, -, -, -, -, -, -, hswap, -⟩ := h
  refine Bool.eq_false_iff.2 fun hready => ?_
  have hclaim := hswap 0 swapPacket serviceSession (swapRequest s.flash s.boot.image) (swapTaken s.flash s.boot.image) _
    (swapHub s.flash s.boot.image) _ rfl (swapPacket_accepted s.flash s.boot.image) rfl rfl rfl rfl rfl rfl rfl rfl
  rw [if_pos ((imgReady_swapTaken s).trans hready), fwSwap_swapHub] at hclaim
  have hruns : (refuse (swapRequest s.flash s.boot.image) stConflict (swapTaken s.flash s.boot.image)).boot.restart = none := by
    rw [(refuse_still (.refl _)).boot_eq]
    rfl
  rw [Host.Outcome.next.inj hclaim, (cpRestart_side ..).boot_eq] at hruns
  exact Option.some_ne_none _ hruns

/-! ### The two answers that the free value admits -/

/-- If no signature passes, O55 holds. -/
theorem firmwareTransfers_of_signaturesFail (h : ∀ k d g, Config.ecdsaOk k d g = false) : Obligations.FirmwareTransfers := by
  refine firmwareTransfers_of_noneReady fun s => ?_
  have hcheck : imgCheck s (otherImage s) ≠ 0 := by
    unfold imgCheck sigOk
    simp only [h]
    split_ifs <;> simp_all
  unfold imgReady
  simp [hcheck]

/-- The SHA-256 digest of the empty body. -/
def emptyDigest : List Nat :=
  [227, 176, 196, 66, 152, 252, 28, 20, 154, 251, 244, 200, 153, 111, 185, 36,
   39, 174, 65, 228, 100, 155, 147, 76, 164, 149, 153, 27, 120, 82, 184, 85]

/-- A GOOD spine image of an empty body: header, digest and state area (02 R45). -/
def emptyImage : Tab Nat :=
  [(0, 0x46), (1, 0x49), (2, 0x41), (3, 0x4B), (4, 1), (5, 0), (6, 1), (7, 0), (16, 0), (17, 0), (18, 0), (19, 0)]
    ++ (emptyDigest.zipIdx.map fun p => (24 + p.2, p.1)) ++ [(449, 0)]

/-- If every signature passes, an image is ready and O55 fails. -/
theorem not_firmwareTransfers_of_signaturesPass (h : ∀ k d g, Config.ecdsaOk k d g = true) :
    ¬ Obligations.FirmwareTransfers := by
  intro hclaim
  have hunready := firmwareTransfers_iff_noneReady.1 hclaim (swapHub { Flash.init with fwB := emptyImage } 1)
  have hgood : imgState emptyImage = 2 := by decide +kernel
  have hfuses : ¬ imgSecurity emptyImage < Flash.init.fuses := by decide +kernel
  have hdigest : shaOk 2 emptyImage = true := by decide +kernel
  have hready : imgReady 2 (swapHub { Flash.init with fwB := emptyImage } 1) = true := by
    have hpart : partition (swapHub { Flash.init with fwB := emptyImage } 1) 2 = emptyImage := rfl
    have hmin : (swapHub { Flash.init with fwB := emptyImage } 1).flash.fuses = Flash.init.fuses := rfl
    unfold imgReady imgCheck sigOk
    simp only [hpart, hmin, hgood, hdigest, h, if_neg hfuses]
    rfl
  exact Bool.false_ne_true (hunready.symm.trans hready)

end Sys2Proof.Machine
end

section
/-! SUPPORT. Image selection, Trunk, the modulators and Crown (02 R41, R42, R46 to R48, R58, R59; 01 R25). -/

namespace Sys2Proof.Machine

section
variable {s t u : State}

/-! ### What a start leaves alone -/

/-- The part, the quires' records, the image that the safety island evaluates, QUIRE_UCODE with the fuses, and the stage and
image of the start are the same. -/
structure StartSide (s t : State) : Prop where
  part : t.part = s.part
  quires : t.quires = s.quires
  safeImage : t.safe.image = s.safe.image
  fwRuns : t.boot.fwRuns = s.boot.fwRuns
  image : t.boot.image = s.boot.image
  stage : t.boot.stage = s.boot.stage
  modsOn : t.boot.modsOn = s.boot.modsOn
  ucode : t.flash.ucode = s.flash.ucode
  fuses : t.flash.fuses = s.flash.fuses

theorem StartSide.refl (s : State) : StartSide s s := by constructor <;> rfl

theorem StartSide.trans (h : StartSide s t) (k : StartSide t u) : StartSide s u :=
  ⟨k.part.trans h.part, k.quires.trans h.quires, k.safeImage.trans h.safeImage, k.fwRuns.trans h.fwRuns,
    k.image.trans h.image, k.stage.trans h.stage, k.modsOn.trans h.modsOn,
    k.ucode.trans h.ucode, k.fuses.trans h.fuses⟩

theorem Still.startSide (h : Still s t) : StartSide s t :=
  ⟨h.part, h.quires, by rw [h.safe], by rw [h.boot_eq], by rw [h.boot_eq], by rw [h.boot_eq], by rw [h.boot_eq],
    by rw [h.flash_eq], by rw [h.flash_eq]⟩

theorem LinkSide.startSide (h : LinkSide s t) : StartSide s t :=
  StartSide.trans (t := { s with lanes := t.lanes, skaing := t.skaing }) (by constructor <;> rfl) h.still.startSide

theorem SimulSide.startSide (h : SimulSide s t) : StartSide s t :=
  StartSide.trans (t := { s with wit := t.wit, chans := t.chans }) (by constructor <;> rfl) (Still.startSide h)

theorem forAll_startSide {α : Type} {f : α → State → State} (l : List α) (hf : ∀ x t, StartSide t (f x t)) (s : State) :
    StartSide s (forAll l f s) := forAll_ind (P := StartSide s) l (fun x t h => h.trans (hf x t)) (.refl s)

theorem foldl_startSide {α : Type} {f : State → α → State} (l : List α) (hf : ∀ x t, StartSide t (f t x)) (s : State) :
    StartSide s (l.foldl f s) := forAll_startSide l hf s

theorem setChan_startSide (c : Nat) (v : Chan) (s : State) : StartSide s (setChan c v s) := by constructor <;> rfl

theorem putWord_startSide (b i a w : Nat) (s : State) : StartSide s (putWord b i a w s) := by constructor <;> rfl

/-! ### The new start (02 R59) -/

/-- The queue of folios with which every stream begins. -/
def freshQ (base : Nat) : FolioQ := { (default : FolioQ) with nextSeq := base, ackNext := base }

/-- The start counted, before the streams take its base. -/
def startCounted (s : State) : State :=
  let n := (s.flash.journal.startCount + 1) % 2 ^ 20
  { s with flash.journal.startCount := n, boot.startCount := n, store.base := n * 2 ^ 44
           store.ring2 := freshQ (n * 2 ^ 44), store.ring3 := freshQ (n * 2 ^ 44) }

theorem newStart_eq (s : State) : newStart s = forAll streamList
    (fun k t => setStream k { stream t k with q := freshQ (startCounted s).store.base } t) (startCounted s) := rfl

theorem newStart_still (s : State) : Still s (newStart s) := by
  rw [newStart_eq]
  exact forAll_still _ (fun k t => setStream_still (.refl t))
    ⟨rfl, rfl, rfl, rfl, rfl, rfl, rfl, rfl, rfl, rfl, rfl, rfl, rfl, rfl, rfl, rfl, rfl, rfl, rfl, rfl, rfl, rfl, rfl, rfl⟩

/-- The streams alone follow the count. -/
theorem newStart_streams (s : State) : ∃ l, newStart s = { startCounted s with store.streams := l } :=
  forAll_ind (P := fun t => ∃ l, t = { startCounted s with store.streams := l }) streamList
    (by rintro k _ ⟨l, rfl⟩; exact ⟨_, rfl⟩) ⟨_, rfl⟩

theorem newStart_fresh {n : Nat} (h4 : 4 ≤ n) (h32 : n < 32) (s : State) :
    (stream (newStart s) n).q = freshQ (startCounted s).store.base := by
  rw [newStart_eq]
  refine forAll_each (P := fun n t => (stream t n).q = freshQ (startCounted s).store.base) (fun k t => ?_) (fun j k t h => ?_)
    (mem_span.2 ⟨h4, by omega⟩) _
  · rw [stream_setStream_self]
  · rw [stream_setStream]
    split
    · rfl
    · exact h

/-! ### The microcode is loaded (02 R41, R46) -/

/-- A quire's record with microcode loaded. -/
def putLoaded (digest : List Byte) (v : Tab Quire) (q : Nat) : Tab Quire :=
  v.put q { v.get q default with loaded := true, digest := digest }

/-- QUIRE_UCODE passes its checks and is TRIAL or GOOD. -/
def ucodeReady (s : State) : Prop := imgCheck s 3 = 0 ∧ (imgState s.flash.ucode = 1 ∨ imgState s.flash.ucode = 2)

/-- Besides the quires' records the load sends messages and events. -/
theorem loadUcode_still (s : State) : Still { s with quires := (loadUcode s).quires } (loadUcode s) := by
  by_cases h : ucodeReady s
  · have hrun := forAll_ind (P := fun t => Still { s with quires := t.quires } t)
      (f := fun q t => toQuire q 4 0 (setQuire q { quire t q with loaded := true, digest := flashBytes s.flash.ucode 24 32 } t))
      (servingQuires s) (fun q t ht => toQuire_still (ht.onQuires _)) (.refl s)
    rw [show loadUcode s = _ from if_pos h]
    exact hrun
  · have hrun : loadUcode s = raise (ev 0x0F02 0xFFFF) s := if_neg h
    rw [hrun, (raise_still (.refl s)).quires]
    exact raise_still (.refl s)

theorem loadUcode_quires (h : ucodeReady s) :
    (loadUcode s).quires = (servingQuires s).foldl (putLoaded (flashBytes s.flash.ucode 24 32)) s.quires := by
  have hrun (l : List Nat) (t : State) : (forAll l (fun q t => toQuire q 4 0 (setQuire q { quire t q with
      loaded := true, digest := flashBytes s.flash.ucode 24 32 } t)) t).quires
      = l.foldl (putLoaded (flashBytes s.flash.ucode 24 32)) t.quires := by
    induction l generalizing t with
    | nil => rfl
    | cons q r ih => exact ih _
  rw [show loadUcode s = _ from if_pos h]
  exact hrun ..

theorem loadUcode_refused (h : ¬ ucodeReady s) : (loadUcode s).quires = s.quires := by
  rw [show loadUcode s = raise (ev 0x0F02 0xFFFF) s from if_neg h]
  exact (raise_still (.refl s)).quires

/-- The load follows QUIRE_UCODE, the fuses, the part and the records alone. -/
theorem loadUcode_quires_congr (hpart : t.part = s.part) (hquires : t.quires = s.quires)
    (hucode : t.flash.ucode = s.flash.ucode) (hfuses : t.flash.fuses = s.flash.fuses) :
    (loadUcode t).quires = (loadUcode s).quires := by
  have hcode : partition t 3 = partition s 3 := hucode
  have hready : ucodeReady t ↔ ucodeReady s := by
    unfold ucodeReady imgCheck
    rw [hcode, hucode, hfuses]
  by_cases hs : ucodeReady s
  · have hserving : servingQuires t = servingQuires s := by
      unfold servingQuires quireList inService quire
      rw [hpart, hquires]
    rw [loadUcode_quires hs, loadUcode_quires (hready.2 hs), hserving, hucode, hquires]
  · rw [loadUcode_refused hs, loadUcode_refused (mt hready.1 hs), hquires]

/-! ### CAL, KEYS and SAFE are read (02 R41; 15 R374; 16 R403) -/

theorem checkCal_startSide (s : State) : StartSide s (checkCal s) := by
  unfold checkCal
  split
  · exact StartSide.trans (by constructor <;> rfl) (raiseOnce_still (.refl _)).startSide
  · refine StartSide.trans ?_ (foldl_startSide _ (fun p t => putWord_startSide _ _ _ _ t) _)
    constructor <;> rfl

theorem checkCorr_startSide (s : State) : StartSide s (checkCorr s) := by
  unfold checkCorr
  split
  · exact .refl s
  · exact StartSide.trans (by constructor <;> rfl) (raiseOnce_still (.refl _)).startSide

theorem unknownEvent_startSide (s : State) : StartSide s (unknownEvent s) := by
  unfold unknownEvent
  split
  · exact StartSide.trans (by constructor <;> rfl) (issue_still (.refl _)).startSide
  · exact .refl s

/-! ### The firmware starts (02 R41, steps 10 to 14) -/

/-- Up to the load of microcode. -/
def startBegun (i : Nat) (rejected : List (Nat × Nat)) (s : State) : State :=
  let s := newStart { s with boot.fwRuns := true, boot.image := i }
  let s := jTail (loadKeys (handOver (unknownEvent s)))
  let s := jInternal 0xFF01 (le 4 s.boot.cause ++ le 1 i ++ le 1 s.cz.keys.state ++ zeros 2
    ++ le 4 (satU 32 (s.boot.refWait / msU))) s
  (higherRejects i rejected s).foldl (fun s (p : Nat × Nat) => fallback p.1 p.2 s) s

/-- From the load on. -/
def startEnded (s : State) : State :=
  let s := checkCorr (checkCal (when_ (decide (s.cz.keys.state = 2)) (raiseOnce (evL 0x0E02 0xFFFF)) s))
  startLanes (match s.flash.ring.find? (·.bad) with | none => s | some r => raise (ev 0x0705 r.quire) s)

theorem startFirmware_eq (i : Nat) (rejected : List (Nat × Nat)) (s : State) :
    startFirmware i rejected s = startEnded (loadUcode (startBegun i rejected s)) := rfl

theorem startBegun_startSide (i : Nat) (rejected : List (Nat × Nat)) (s : State) :
    StartSide { s with boot.fwRuns := true, boot.image := i } (startBegun i rejected s) := by
  have hread (t : State) : Still t (jTail (loadKeys (handOver t))) := jTail_still (loadKeys_still (handOver_still (.refl t)))
  unfold startBegun
  dsimp only
  refine (((newStart_still _).startSide.trans (unknownEvent_startSide _)).trans (hread _).startSide).trans ?_
  exact (foldl_still _ (fun _ _ => raise_still (jInternal_still (.refl _))) (jInternal_still (.refl _))).startSide

theorem startLanes_startSide (s : State) : StartSide s (startLanes s) :=
  forAll_startSide _ (fun l t => (startLink_linkSide l t).startSide) s

theorem startEnded_startSide (s : State) : StartSide s (startEnded s) := by
  have hkeys := (when_still (b := decide (s.cz.keys.state = 2)) (fun t => raiseOnce_still (e := evL 0x0E02 0xFFFF) (.refl t))
    (.refl s)).startSide
  unfold startEnded
  dsimp only
  refine StartSide.trans ?_ (startLanes_startSide _)
  refine ((hkeys.trans (checkCal_startSide _)).trans (checkCorr_startSide _)).trans ?_
  split
  · exact .refl _
  · exact (raise_still (.refl _)).startSide

/-- The firmware runs from the image taken; of the quires' records the load's alone are new. -/
theorem startFirmware_spec (i : Nat) (rejected : List (Nat × Nat)) (s : State) :
    StartSide { s with boot.fwRuns := true, boot.image := i, quires := (loadUcode s).quires } (startFirmware i rejected s) := by
  have hbegun := startBegun_startSide i rejected s
  have hloaded := (loadUcode_still (startBegun i rejected s)).startSide
  have hquires : (loadUcode (startBegun i rejected s)).quires = (loadUcode s).quires :=
    loadUcode_quires_congr hbegun.part hbegun.quires hbegun.ucode hbegun.fuses
  rw [startFirmware_eq]
  refine StartSide.trans (StartSide.trans ?_ hloaded) (startEnded_startSide _)
  rw [hquires]
  exact ⟨hbegun.part, rfl, hbegun.safeImage, hbegun.fwRuns, hbegun.image, hbegun.stage, hbegun.modsOn, hbegun.ucode,
    hbegun.fuses⟩

/-! ### No image (02 R46, R47) -/

theorem selectFrom_flash (l : List Nat) (s : State) : ∃ f, (selectFrom l s).1 = { s with flash := f } := by
  induction l generalizing s with
  | nil => exact ⟨_, rfl⟩
  | cons i r ih =>
    have hset (j : Nat) (g : Tab Nat) (x : State) (h : ∃ f, x = { s with flash := f }) :
        ∃ f, setPartition j g x = { s with flash := f } := by
      obtain ⟨f, rfl⟩ := h
      exact ⟨_, setPartition_flash ..⟩
    have hrest (x : State) (h : ∃ f, x = { s with flash := f }) :
        ∃ f, (selectFrom r (setImgState i 3 x)).1 = { s with flash := f } := by
      obtain ⟨f, hf⟩ := hset i _ x h
      obtain ⟨g, hg⟩ := ih (setImgState i 3 x)
      exact ⟨g, by rw [hg, show setImgState i 3 x = _ from hf]⟩
    have htried : ∃ f, (if imgState (partition s i) = 1 then setPartition i (imgTry (partition s i)) s else s)
        = { s with flash := f } := by
      split
      · exact hset _ _ s ⟨_, rfl⟩
      · exact ⟨_, rfl⟩
    unfold selectFrom
    dsimp only
    generalize (if imgState (partition s i) = 1 then setPartition i (imgTry (partition s i)) s else s) = y at htried ⊢
    split
    · exact hrest s ⟨_, rfl⟩
    · split
      · exact htried
      · exact hrest _ htried

/-- Where no scan runs on a lane of the host port, its training answers no one. -/
theorem startLink_cz {l : Nat} (h : ∀ k ∈ linkLanes l, (lane s k).scan = none) : (startLink l s).cz = s.cz := by
  obtain ⟨e, he⟩ := startLink_spec l s
  have hidle := forAll_ind_mem (P := fun t => t.cz = s.cz ∧ ∀ k ∈ linkLanes l, (lane t k).scan = none) (l := linkLanes l)
    (f := startIfEnabled) (s := s) ?_ ⟨rfl, h⟩
  · rw [he]
    exact hidle.1
  · rintro k hk t ⟨hcz, hscan⟩
    unfold startIfEnabled
    split
    · refine ⟨?_, fun j hj => ?_⟩
      · unfold startLane
        rw [dropScan_idle (hscan k hk)]
        exact hcz
      · by_cases hjk : j = k
        · rw [hjk, lane_startLane_self]
          rfl
        · rw [lane_startLane_ne hjk]
          exact hscan j hj
    · exact ⟨hcz, hscan⟩

/-- A hub without an image stands in Trunk, its link training. -/
theorem noImage_spec {f : Flash} {x : Nat} (hscan : ∀ k, k < 4 → (lane s k).scan = none)
    (ht : t = startLink 0 { s with flash := f, boot := { s.boot with xspi := x, hold := 2, stage := 2 } }) :
    t.boot.stage = 2 ∧ t.boot.hold = 2 ∧ t.boot.fwRuns = s.boot.fwRuns ∧ t.boot.image = s.boot.image ∧ t.cfg = s.cfg
      ∧ t.safe = s.safe ∧ t.chans = s.chans ∧ t.quires = s.quires ∧ t.cz = s.cz := by
  subst ht
  have hside := (startLink_linkSide 0 { s with flash := f, boot := { s.boot with xspi := x, hold := 2, stage := 2 } }).still
  have hhost (k : Nat) (hk : k ∈ linkLanes 0) : k < 4 := by
    have hk : k = 0 ∨ k = 1 ∨ k = 2 ∨ k = 3 := by simpa [linkLanes] using hk
    omega
  refine ⟨?_, ?_, ?_, ?_, hside.cfg, hside.safe, hside.chans, hside.quires, startLink_cz fun k hk => hscan k (hhost k hk)⟩
  · rw [hside.boot_eq]
  · rw [hside.boot_eq]
  · rw [hside.boot_eq]
  · rw [hside.boot_eq]

/-! ### The modulators start (02 R41, step 16; 01 R25) -/

/-- One quire at the start of the modulators. -/
def startMods (q : Nat) (s : State) : State :=
  if inService s q then setQuire q { quire s q with running := true } s else absentQuire q s

theorem setMember_startSide (k : Nat) (v : SMember) (s : State) : StartSide s (setMember k v s) := by
  unfold setMember
  split <;> constructor <;> rfl

theorem absentQuire_startSide (q : Nat) (s : State) : StartSide s (absentQuire q s) := by
  unfold absentQuire
  exact (forAll_startSide _ (fun c t => setChan_startSide c _ t) s).trans
    (forAll_startSide _ (fun k t => setMember_startSide k _ t) _)

/-- Which quires are in service stays, and a quire that runs goes on. -/
structure ModsSide (s t : State) : Prop where
  part : t.part = s.part
  stage : t.boot.stage = s.boot.stage
  modsOn : t.boot.modsOn = s.boot.modsOn
  svc : ∀ q, inService t q = inService s q
  running : ∀ q, (quire s q).running = true → (quire t q).running = true

theorem ModsSide.refl (s : State) : ModsSide s s := ⟨rfl, rfl, rfl, fun _ => rfl, fun _ h => h⟩

theorem ModsSide.trans (h : ModsSide s t) (k : ModsSide t u) : ModsSide s u :=
  ⟨k.part.trans h.part, k.stage.trans h.stage, k.modsOn.trans h.modsOn, fun q => (k.svc q).trans (h.svc q),
    fun q e => k.running q (h.running q e)⟩

theorem StartSide.modsSide (h : StartSide s t) : ModsSide s t := by
  have hquire (q : Nat) : quire t q = quire s q := by unfold quire; rw [h.quires]
  refine ⟨h.part, h.stage, h.modsOn, fun q => ?_, fun q => ?_⟩
  · unfold inService
    rw [h.part, hquire]
  · rw [hquire]
    exact id

theorem startMods_modsSide (q : Nat) (s : State) : ModsSide s (startMods q s) := by
  unfold startMods
  split
  · refine ⟨rfl, rfl, rfl, fun k => ?_, fun k h => ?_⟩
    · unfold inService
      rw [quire_setQuire]
      split
      · next e => rw [e]; rfl
      · rfl
    · rw [quire_setQuire]
      split
      · rfl
      · exact h
  · exact (absentQuire_startSide q s).modsSide

theorem startMods_running {q : Nat} (h : inService s q = true) : (quire (startMods q s) q).running = true := by
  unfold startMods
  rw [if_pos h, quire_setQuire_self]

/-- After the loop every quire in service runs. -/
theorem startMods_all (l : List Nat) (s : State) : ModsSide s (forAll l startMods s)
    ∧ ∀ q ∈ l, inService s q = true → (quire (forAll l startMods s) q).running = true := by
  refine ⟨forAll_ind (P := ModsSide s) l (fun q t h => h.trans (startMods_modsSide q t)) (.refl s), ?_⟩
  induction l generalizing s with
  | nil => exact fun q hq => by cases hq
  | cons k r ih =>
    have hfirst := startMods_modsSide k s
    have hrest : ModsSide (startMods k s) (forAll r startMods (startMods k s)) :=
      forAll_ind (P := ModsSide _) r (fun q t h => h.trans (startMods_modsSide q t)) (.refl _)
    intro q hq hserves
    rw [forAll_cons]
    rcases List.mem_cons.1 hq with rfl | hq
    · exact hrest.running q (startMods_running hserves)
    · exact ih _ q hq ((hfirst.svc q).trans hserves)

theorem loadEns_startSide (q : Nat) (c : EnsCal) (s : State) : StartSide s (loadEns q c s) := by constructor <;> rfl

theorem loadCoefs_startSide (s : State) : StartSide s (loadCoefs s) := by
  have hranges (l : Tab RangeCal) (t : State) := foldl_startSide (f := fun t (p : Nat × RangeCal) => loadRange p.1 p.2 t) l
    (fun p t => setChan_startSide (p.1 / 8) _ t) t
  have hens (l : Tab EnsCal) (t : State) := foldl_startSide (f := fun t (p : Nat × EnsCal) => loadEns p.1 p.2 t) l
    (fun p t => loadEns_startSide p.1 p.2 t) t
  unfold loadCoefs
  extract_lets x
  have hx : StartSide s x := by
    unfold x
    split
    · exact .refl s
    · exact (hranges _ s).trans (hens _ _)
  split
  · exact hx
  · refine hx.trans (forAll_startSide _ (fun m t => ?_) _)
    dsimp only
    split
    · exact .refl t
    · exact foldl_startSide _ (fun p y => putWord_startSide 0x0401 _ _ _ y) t

theorem handover_startSide (s : State) : StartSide s (handover s) := by
  rcases handover_cases s with h | h
  · rw [h]
    exact .refl s
  · rw [h]
    constructor <;> rfl

/-- The modulators on, the rest of step 17 follows. -/
def modsStarted (s : State) : State :=
  let x := forAll (quireList s) startMods { s with boot.modsOn := true }
  forAll (quireList x) leaveSimul (handover (loadCoefs x))

theorem modsStarted_modsSide (s : State) :
    ModsSide (forAll (quireList s) startMods { s with boot.modsOn := true }) (modsStarted s) :=
  (((loadCoefs_startSide _).trans (handover_startSide _)).trans
    (forAll_startSide _ (fun q t => (leaveSimul_simulSide q t).startSide) _)).modsSide

theorem modulatorsStart_spec {k : Nat} (hat : s.boot.trunkAt = some k) (hoff : s.boot.modsOn = false)
    (hdue : k + 5 * msU ≤ s.now) (hmeasured : ∀ q, q ∈ servingQuires s → (quire s q).measured = true) :
    (modulatorsStart s).boot.modsOn = true ∧ (modulatorsStart s).boot.stage = s.boot.stage
      ∧ (modulatorsStart s).part = s.part
      ∧ ∀ q, q < s.part.quires → inService s q = true → (quire (modulatorsStart s) q).running = true := by
  have hgo : ¬ (s.boot.modsOn = true ∨ s.now < k + 5 * msU
      ∨ ¬ (servingQuires s).all (fun q => (quire s q).measured) = true) := by
    rw [hoff, List.all_eq_true.2 hmeasured]
    simpa using hdue
  have hrun : modulatorsStart s = modsStarted s := by
    unfold modulatorsStart
    rw [hat]
    exact if_neg hgo
  obtain ⟨hloop, hall⟩ := startMods_all (quireList s) { s with boot.modsOn := true }
  have hside := hloop.trans (modsStarted_modsSide s)
  rw [hrun]
  refine ⟨hside.modsOn, hside.stage, hside.part, fun q hq hserves => ?_⟩
  exact (modsStarted_modsSide s).running q (hall q (List.mem_range.2 hq) hserves)

/-! ### A stage is reached (02 R42) -/

/-- What no start count reaches may be written on both sides. -/
theorem Still.onBoot (h : Still s t) (f : Boot → Boot)
    (hf : ∀ b n, f { b with startCount := n } = { f b with startCount := n }) :
    Still { s with boot := f s.boot } { t with boot := f t.boot } := by
  have hboot : { f t.boot with startCount := (f s.boot).startCount } = f s.boot := by
    rw [h.boot_eq, hf]
  exact { h with boot := hboot, flash := h.flash }

theorem trunkReached_spec (hstage : s.boot.stage = 1) (href : s.boot.refDone = true) (hruns : s.boot.fwRuns = true)
    (htrained : s.boot.lpDone = true) : (trunkReached s).boot.trunkAt = some s.now
      ∧ Still { s with boot.stage := 2, boot.hold := 0, boot.trunkAt := some s.now } (trunkReached s) := by
  rw [show trunkReached s = { stageReached 2 s with boot.trunkAt := some s.now } from if_pos ⟨hstage, href, hruns, htrained⟩]
  exact ⟨rfl, (stageReached_still 2 s).onBoot (fun b => { b with trunkAt := some s.now }) fun _ _ => rfl⟩

theorem crownReached_spec (hstage : s.boot.stage = 2) (hruns : s.boot.fwRuns = true) (hmods : s.boot.modsOn = true)
    (hmoved : (handover s).safe.handover.isSome = true)
    (hclosed : s.conv.closed.isSome = true ∨ (servingQuires s).isEmpty = true) :
    (crownReached s).boot.crownAt = some s.now
      ∧ Still { handover s with boot.stage := 3, boot.hold := 0, boot.crownAt := some s.now } (crownReached s) := by
  rw [show crownReached s = { stageReached 3 (handover s) with boot.crownAt := some s.now } from
    if_pos ⟨hstage, hruns, hmods, hmoved, hclosed⟩]
  exact ⟨rfl, (stageReached_still 3 (handover s)).onBoot (fun b => { b with crownAt := some s.now }) fun _ _ => rfl⟩

/-! ### A deadline passes (02 R42) -/

theorem overrunAt_due {stage k : Nat} (hrel : s.boot.release = some k) (h1 : 1 ≤ stage) (h3 : stage ≤ 3)
    (hstage : s.boot.stage < stage) (honce : bit stage s.boot.overrun = false) (href : refAbsent s = false)
    (himage : s.boot.hold ≠ 2) (hpast : k + deadline stage s ≤ s.now) :
    overrunAt stage s = raiseOnce (evL 0x0101 stage)
      { s with boot.hold := 3, boot.overrun := s.boot.overrun ||| 2 ^ stage } := by
  unfold overrunAt
  rw [hrel]
  refine if_neg ?_
  rw [honce, href]
  simp only [Bool.false_eq_true, false_or, not_or]
  exact ⟨by omega, by omega, by omega, himage, by omega⟩

theorem overrunAt_held {stage : Nat}
    (h : stage ≤ s.boot.stage ∨ bit stage s.boot.overrun = true ∨ refAbsent s = true ∨ s.boot.hold = 2) :
    overrunAt stage s = s := by
  unfold overrunAt
  split
  · rfl
  · exact if_pos (by tauto)

/-! ### IMAGE_SELECT (02 R46, R47) -/

theorem imageSelect_runs (hstage : s.boot.stage = 1) (href : s.boot.refDone = true) (hruns : s.boot.fwRuns = false) :
    imageSelect s = if (selectImage { s with boot.xspi := 2 }).2.1 = 0
      then startLink 0 { (selectImage { s with boot.xspi := 2 }).1 with boot.hold := 2, boot.stage := 2 }
      else startFirmware (selectImage { s with boot.xspi := 2 }).2.1 (selectImage { s with boot.xspi := 2 }).2.2
        (selectImage { s with boot.xspi := 2 }).1 := by
  have hgo : ¬ (s.boot.stage ≠ 1 ∨ ¬ s.boot.refDone = true ∨ s.boot.fwRuns = true) := by simp [hstage, href, hruns]
  unfold imageSelect
  rw [if_neg hgo]

theorem imageSelect_none (hstage : s.boot.stage = 1) (href : s.boot.refDone = true) (hruns : s.boot.fwRuns = false)
    (hnone : (selectImage { s with boot.xspi := 2 }).2.1 = 0) :
    ∃ f, imageSelect s = startLink 0 { s with flash := f, boot := { s.boot with xspi := 2, hold := 2, stage := 2 } } := by
  obtain ⟨f, hf⟩ := selectFrom_flash (candidates { s with boot.xspi := 2 }) { s with boot.xspi := 2 }
  have hflash : (selectImage { s with boot.xspi := 2 }).1 = { s with flash := f, boot := { s.boot with xspi := 2 } } := hf
  refine ⟨f, ?_⟩
  rw [imageSelect_runs hstage href hruns, if_pos hnone, hflash]

end

/-- O9 asks exactly that the load of QUIRE_UCODE leaves the number of the quires' records: its clause on a start claims that of
every state, one in which serving quires have no record among them. Every other clause holds. Whether the checks ever pass, so
that a load writes a record, turns on the free outcome of the signature (log entry 9). -/
theorem trunkAndCrown_iff_loadKeepsRecords :
    Obligations.TrunkAndCrown ↔ ∀ s, (loadUcode s).quires.length = s.quires.length := by
  unfold Obligations.TrunkAndCrown
  refine ⟨fun ⟨_, _, hstart, _⟩ s => ?_, fun hload => ?_⟩
  · obtain ⟨-, -, -, hlength, -⟩ := hstart s.boot.image [] s _ rfl
    rwa [(startFirmware_spec s.boot.image [] s).quires] at hlength
  refine ⟨?select, ?none, ?start, ?fresh, ?trunk, ?modulators, ?crown, ?continuity, ?overrun, ?held⟩
  case select =>
    rintro at_ x s _ rfl hstage href hruns rfl
    exact congrArg (fun t => Host.Outcome.next (drainUnread t)) (imageSelect_runs hstage href hruns)
  case none =>
    rintro at_ s u rfl hstage href hruns hunread hnone hscans
    obtain ⟨f, hf⟩ := imageSelect_none hstage href hruns hnone
    have hscan (k : Nat) (hk : k < 4) : (lane (s.tick at_) k).scan = none :=
      Option.isNone_iff_eq_none.1 (List.all_eq_true.1 hscans k (List.mem_range.2 hk))
    obtain ⟨htrunk, hhold, hstopped, himage, hcfg, hsafe, hchans, hquires, hcz⟩ := noImage_spec hscan hf
    have hdrained := drainUnread_nil (s := imageSelect (s.tick at_)) (by rw [hcz, hunread])
    exact ⟨_, congrArg Host.Outcome.next hdrained, htrunk, hhold, hstopped.trans hruns, himage, hcfg, hsafe, hchans, hquires,
      hcz⟩
  case start =>
    rintro i l s _ rfl
    have h := startFirmware_spec i l s
    exact ⟨h.fwRuns, h.image, h.stage, (congrArg List.length h.quires).trans (hload s), h.part, h.safeImage⟩
  case fresh =>
    rintro s _ rfl
    obtain ⟨l, hl⟩ := newStart_streams s
    have hfresh (n : Nat) (h32 : n < 32) (h4 : 4 ≤ n) : (stream (newStart s) n).q.nextSeq = (newStart s).store.base := by
      rw [newStart_fresh h4 h32, hl]
      rfl
    refine ⟨?_, ?_, ?_, ?_, ?_, hfresh, ?_, ?_, ?_⟩ <;> rw [hl] <;> rfl
  case trunk =>
    rintro at_ s _ rfl hstage href hruns htrained
    exact ⟨_, rfl, trunkReached_spec hstage href hruns htrained⟩
  case modulators =>
    rintro at_ k s _ rfl hat hoff hdue hmeasured
    exact ⟨_, rfl, modulatorsStart_spec hat hoff hdue hmeasured⟩
  case crown =>
    rintro at_ x s _ rfl rfl hstage hruns hmods hmoved hclosed
    exact ⟨_, rfl, crownReached_spec hstage hruns hmods hmoved hclosed⟩
  case continuity =>
    rintro at_ s _ rfl hcrown hen
    exact congrArg Host.Outcome.next (if_pos ⟨hcrown, hen⟩)
  case overrun =>
    rintro at_ stage k s _ rfl hrel h1 h3 hstage honce href himage hpast
    exact congrArg Host.Outcome.next (overrunAt_due hrel h1 h3 hstage honce href himage hpast)
  case held =>
    rintro at_ stage s _ rfl h
    exact congrArg Host.Outcome.next (overrunAt_held h)

/-! ### The two answers that the free value admits -/

/-- If no signature passes, O9 holds. -/
theorem trunkAndCrown_of_signaturesFail (h : ∀ k d g, Config.ecdsaOk k d g = false) : Obligations.TrunkAndCrown := by
  refine trunkAndCrown_iff_loadKeepsRecords.2 fun s => congrArg List.length (loadUcode_refused fun hready => ?_)
  have hcheck : imgCheck s 3 ≠ 0 := by
    unfold imgCheck sigOk
    simp only [h]
    split_ifs <;> simp_all
  exact hcheck hready.1

/-- GOOD microcode of an empty body (02 R45). -/
def emptyUcode : Tab Nat := emptyImage.put 6 2

/-- If every signature passes, O9 fails: on a hub whose quires have no records, seven are added. -/
theorem not_trunkAndCrown_of_signaturesPass (h : ∀ k d g, Config.ecdsaOk k d g = true) : ¬ Obligations.TrunkAndCrown := by
  intro hclaim
  have hkeeps := trunkAndCrown_iff_loadKeepsRecords.1 hclaim { State.reset with flash.ucode := emptyUcode }
  have hgood : imgState emptyUcode = 2 := by decide +kernel
  have hdigest : shaOk 3 emptyUcode = true := by decide +kernel
  have hready : ucodeReady { State.reset with flash.ucode := emptyUcode } := by
    have hpart : partition { State.reset with flash.ucode := emptyUcode } 3 = emptyUcode := rfl
    refine ⟨?_, .inr hgood⟩
    unfold imgCheck sigOk
    simp only [hpart, hdigest, h]
    rfl
  rw [loadUcode_quires hready] at hkeeps
  exact absurd hkeeps (by decide +kernel)

end Sys2Proof.Machine
end
